-- ==== Sys2Proof/Word.lean ====
section
/-! DEFINITION. The word types of the model (R5, R55, R57, R183) and the one table type it stores sparse data in. -/

namespace Sys2Proof

/-- A byte. -/
abbrev Byte := BitVec 8

/-- A 64-bit word: an instruction word (R183), a register (R554), a memory dword. -/
abbrev Word := BitVec 64

/-- Sparse data by a natural-number key, in one canonical form: keys strictly rising, and no entry that holds the
table's default value. An unlisted key reads as the default. -/
abbrev Tab (α : Type) := List (Nat × α)

/-- Field index 6r + c of F(r,c) (R57). -/
abbrev FieldIx := Fin 36

/-- Local bunch index 6 × (y mod 6) + (x mod 6) (R231). -/
abbrev BunchIx := Fin 36

/-- Core of a bunch in LSRC coding (R48): 0–3 M0–M3, 4–6 V0–V2, 7 S. -/
abbrev CoreIx := Fin 8

end Sys2Proof
end

