-- ==== Sys2Proof/Syntax.lean ====
section
/-! DEFINITION. The commands of the block, one constructor of `Instr` for each row of spec/opcode_table.json, and the
plain data their operands carry. An operand is what reaches the module from outside the step: a register write, a
message, a pin or sensor reading, the bytes read from host memory, a physical upset, or the elapsing of an interval. -/

namespace Sys2Proof

/-- One core in service, by logical place (R329, R48). -/
structure CoreId where
  fld : FieldIx
  bun : BunchIx
  cor : CoreIx
  deriving DecidableEq, Repr, Inhabited

/-- The engines of R155, in the coding of the ENGINE field of an event (R370). -/
inductive Engine where
  | load | mac | drain | vec | store | scalar
  deriving DecidableEq, Repr, Inhabited

/-- The changes made by epoch commit (R61). -/
inductive CommitKind where
  | freq | profile | routeSwap | preempt | rest | wake | mirrorCommit | formatsPolicy | predictorVariant | powerCap
  deriving DecidableEq, Repr, Inhabited

/-- A participant of an epoch commit (R61). -/
inductive Part where
  | field (f : FieldIx) | rind (die : Fin 64) | root | mirror
  deriving DecidableEq, Repr, Inhabited

/-- ACK status values (R63). -/
inductive AckStatus where
  | staged | nackBusy | nackInvalid | nackLate
  deriving DecidableEq, Repr, Inhabited

/-- A containment domain (R376), with the pith as its own kind; `none` is the domain of events that change no state. -/
inductive Domain where
  | none | job (asid : Nat) | field (f : Nat) | stream (f : Nat) | rind (die : Nat) | pith
  deriving DecidableEq, Repr, Inhabited

/-- An ERROR_EVENT message: the header's CODE, ASID and SRC, and the payload of R370. -/
structure ErrMsg where
  code : BitVec 16
  asid : Nat := 0
  src : BitVec 16
  slot : BitVec 48 := 0
  core : Nat := 0
  engine : Nat := 7
  count : Nat := 1
  addr : BitVec 64 := 0
  detail : BitVec 64 := 0
  /-- Of a STREAM_FAULT: the kind that DETAIL holds is NOT_PRESENT, which the pith serves and does not log (R269). -/
  notPresent : Bool := false
  deriving DecidableEq, Repr, Inhabited

/-- A yield-map entry (R389). -/
structure YEnt where
  kind : Nat
  unit : Nat
  loc : Nat
  value : Nat
  deriving DecidableEq, Repr, Inhabited

/-- The three writes of an extension record (R391), in their order. -/
inductive RecordStep where
  | body | sig | commit
  deriving DecidableEq, Repr, Inhabited

/-- A grid flit: 1,024 data bits, a bruise bit for each granule, TAG (R45). Its SEC-DED codes follow from these (`flitCheck`); an error of
its bits is an upset. -/
structure Flit where
  data : BitVec 1024
  b0 : Bool := false
  b1 : Bool := false
  tag : BitVec 4 := 0
  /-- The model's own: core + 1 whose STRM sent it, by which its completion finds it (R262). -/
  src : Nat := 0
  deriving DecidableEq, Repr, Inhabited

/-- What a field's regulator samples every 20 ns: the current, in A, and the 16 voltage sensors, in mV (R475, R477). -/
structure RailSample where
  amps : Nat
  mv : List Nat
  deriving DecidableEq, Repr, Inhabited

/-- A write that clears QERR, and the error code with which hardware stops the queue in the same cycle, 0 for none (R9, R568). -/
structure QerrWrite where
  value : BitVec 64
  tie : Fin 4 := 0
  deriving DecidableEq, Repr, Inhabited

/-- What the qualification of a lane counts: symbol errors, bit errors before correction, and the most symbol errors in one codeword (R524). -/
structure LaneTest where
  symErrs : Nat
  bitErrs : Nat
  worst : Nat
  deriving DecidableEq, Repr, Inhabited

/-- What the qualification of a CXL port counts at 64 GT/s, and at 32 GT/s where it fails at the first: for each lane in 0.2 s and in the 1.0 s more
that a failure takes; none where the port does not train (R453, R524, R525). -/
structure CxlTest where
  at64 : List (LaneTest × LaneTest)
  at32 : List (LaneTest × LaneTest)
  deriving DecidableEq, Repr, Inhabited

/-- What the physical bring-up finds and takes (R518 to R532): the outcomes that firmware, the boot ROM and the training
state machines cannot choose. -/
structure BringPlan where
  /-- The firmware slot reads back as it was programmed; the image of manufacture passes R539, with the version and key slot below. -/
  fwOk : Bool
  /-- The base record of the yield map reads back as it was written, and that of manufacture verifies (R520). -/
  baseOk : Bool
  /-- K0 and K1 report running within 2 s of their start (R519). -/
  k0Ok : Bool
  k1Ok : Bool
  fwVersion : BitVec 32
  keySlot : BitVec 2
  entOk : Bool
  /-- In-service near-tier channels after training and repair, C (R277, R527). -/
  channels : Nat
  slowStk : BitVec 64
  lostCh : BitVec 64
  /-- Far-tier channels whose DIMMs are good, as R385 counts them, their rate, and a population that is not supported (R280). -/
  farPop : Nat
  farRate : Nat
  farBad : Bool
  /-- The lane counts of each Bupol port after every substitution, none where the far end has not answered, the ports' reaches at the
  integrator's setting (R421), and the counts of each CXL port (R523 to R525). -/
  ports : List (List LaneTest)
  reach : BitVec 48
  cxl0 : CxlTest
  cxl1 : CxlTest
  /-- Failures found by training, qualification and field self-test, to be recorded and remapped (R530). -/
  found : List YEnt
  /-- Fields whose self-test does not pass on a field that was FENCED (R20). -/
  fenceFails : List Nat
  laneSub : Nat
  wireSub : Nat
  chSpare : Nat
  chLost : Nat
  /-- Far-tier rows repaired; the near-tier ones are the HBM_ROW entries of `found` (R527, R532). -/
  rowRep : Nat
  /-- Durations of phases 1 to 7 in ms (R532). -/
  times : List Nat
  /-- Place among the extension records of the first whose signature or PREV fails, where one does (R391). -/
  badRec : Option Nat
  /-- The phase in progress when the next command comes, where bring-up has not ended by then (R533). -/
  pause : Option Nat
  deriving DecidableEq, Repr, Inhabited

/-- Operand buffers and the register store of a core (R223): activation buffer, scale side array, accumulator buffer, vector registers. -/
inductive BufferKind where
  | act | side | acc | vreg
  deriving DecidableEq, Repr, Inhabited

/-- An error in one column of an array for one vector (R118, R119): column 0 to 63 is a logical lane, whose exact sum of block `part` (of a
16-bit pass, whose significand product at row `part`) is off by d in its integer units; 64 and 65 are the check columns c₀ and c₁. -/
structure ColErr where
  col : Fin 66
  part : Nat := 0
  d : Int
  deriving DecidableEq, Repr, Inhabited

/-- A physical upset seen in one oscillator cycle of a field: an input of SLOT_ADVANCE (R46, R118, R242, R226, R244). -/
inductive Upset where
  /-- Errors in the columns of matrix core m of bunch b, in the vector whose verdict is due (R118, R119). -/
  | check (b : BunchIx) (m : Fin 4) (errs : List ColErr)
  /-- Bits of the flit that is taken at inbound crossing x, plane p are inverted, or of the flit that reaches a core's receive queue: 0 to
  1,023 the data, from 1,024 on the check bits of R45 (R46). -/
  | flitFlip (x : Fin 24) (p : Fin 2) (bits : List Nat)
  | recvFlip (b : BunchIx) (c : CoreIx) (bits : List Nat)
  /-- Stored bits of the on-die granule of ODA `oda` are inverted: 0 to 511 the data, 512 to 575 the codes, 576 to 578 the copies of the bruise
  bit (R241). -/
  | sramFlip (oda : Nat) (bits : List Nat)
  /-- Stored data bits of the on-die granule of ODA `oda` are inverted so that its codes still fit, or bits of the check word of its block are, which
  the word's own code does not correct (R355, R356). -/
  | sramMiss (oda : Nat) (bits : List Nat)
  | wordFlip (oda : Nat) (bits : BitVec 32)
  /-- A read of an operand buffer or register store of a core corrects a bit, or finds an uncorrectable word in granule n. -/
  | bufCe (b : BunchIx) (c : CoreIx)
  | bufUe (b : BunchIx) (c : CoreIx) (buf : BufferKind) (n : Nat)
  /-- A corrected error, or an uncorrectable one, in control state of the field. -/
  | controlCe
  | controlUe
  /-- An entry of the field's translation cache, the newest being 0, holds an uncorrectable word as it is looked up (R354). -/
  | xlateUe (n : Nat)
  deriving DecidableEq, Repr, Inhabited

/-- A 4 KiB block on the move: its data, CHECK, and a bruise bit for each granule (R254, R440). -/
structure BlockData where
  data : BitVec 32768
  check : BitVec 32
  bmask : BitVec 64 := 0
  failed : Bool := false
  deriving DecidableEq, Repr, Inhabited

/-- What of a block reads wrong in its tier (R278, R281, R356): by granule, the 16-bit symbols of the near tier or the x4 devices of the far tier that
do, and the bits of the block that do so unseen by that code. -/
structure TierRead where
  syms : List (Nat × List Nat) := []
  missed : List Nat := []
  deriving DecidableEq, Repr, Inhabited

/-- A segment of a core memory, or a logical bank of a field's shared memory (R236). -/
inductive MemPlace where
  | seg (b : BunchIx) (c : CoreIx) (n : Fin 8)
  | bank (n : Fin 64)
  deriving DecidableEq, Repr, Inhabited

/-- Outcomes of a diagnosis (R366). -/
inductive DiagOutcome where
  /-- All verdicts of the diagnostic core pass. -/
  | coreFault
  /-- Some verdict fails; the named cores of the stopped core's bunch (false) or of the diagnostic core's (true) fail self-test. -/
  | commonFault (failing : List (Bool × CoreIx))
  | notRun
  deriving DecidableEq, Repr, Inhabited

/-- The width of a register write: 64 bits, or one 32-bit half (R11). -/
inductive Half where
  | full | low | high
  deriving DecidableEq, Repr, Inhabited

/-- A capacity record of one frame position (R335). -/
structure CapRec where
  role : Nat
  absent : BitVec 40
  /-- The CORES bytes that are not zero, by 4 × local bunch + m. -/
  cores : Tab (BitVec 8)
  reservedOk : Bool := true
  deriving DecidableEq, Repr, Inhabited

/-- The declaration of one task (R157, R160, R163, R185, R190), by frame position, local bunch and core. -/
structure TaskDecl where
  pos : Nat
  bun : BunchIx
  cor : CoreIx
  eng : Engine
  entry : BitVec 32
  step : BitVec 32
  windows : Tab (BitVec 64)
  masks : Tab (BitVec 32)
  deriving DecidableEq, Repr, Inhabited

/-- The declaration of one token queue (R163). -/
structure TokDecl where
  pos : Nat
  bun : BunchIx
  cor : CoreIx
  q : Fin 16
  prod : Engine
  cons : Engine
  init : Nat
  deriving DecidableEq, Repr, Inhabited

/-- The declaration byte of a segment or bank (R237). -/
structure PowerDecl where
  pos : Nat
  place : MemPlace
  byte : BitVec 8
  deriving DecidableEq, Repr, Inhabited

/-- One byte of IMAGE contents, by the on-die address within its field, ODA bits [33:0] (R240, R246). -/
structure ImageByte where
  pos : Nat
  off : Nat
  val : Byte
  deriving DecidableEq, Repr, Inhabited

/-- One route word, of the bank that is active at the start (0) or of the staged one (1) (R47, R48, R51). -/
structure RouteDecl where
  pos : Nat
  bun : BunchIx
  plane : Fin 2
  bank : Fin 2
  index : Nat
  word : BitVec 32
  deriving DecidableEq, Repr, Inhabited

/-- One wheel-table entry (R231). -/
structure WheelDecl where
  pos : Nat
  bank : Fin 64
  position : Fin 16
  entry : BitVec 16
  deriving DecidableEq, Repr, Inhabited

/-- One carrier channel with its slot map, a bit for each index of the route bank (R252). -/
structure CarrierDecl where
  pos : Nat
  bank : Fin 2
  chan : Fin 64
  record : BitVec 64
  map : List Nat
  deriving DecidableEq, Repr, Inhabited

/-- One near base of a stream (R261). -/
structure NearBase where
  pos : Nat
  stream : Fin 256
  sel : Fin 4
  oda : Nat
  deriving DecidableEq, Repr, Inhabited

/-- One barrier: its owner bunch and the route index at which each plane resumes (R173). -/
structure BarrierDecl where
  b : Fin 16
  ownerPos : Nat
  ownerBun : BunchIx
  resume0 : Nat
  resume1 : Nat
  deriving DecidableEq, Repr, Inhabited

/-- One predicted layer: its policy (0 EXACT, 1 CHECKED, 2 LOSSY), k and m of each of its variants, the R rows of a stratum, and its BOUND
(R299, R302, R307, R310). -/
structure LayerDecl where
  layer : Nat
  policy : Nat
  kvars : List (Nat × Nat)
  stratum : Nat
  bound : Nat
  deriving DecidableEq, Repr, Inhabited

/-- The counter area of a bunch: its first byte in the memory of the scalar core, and the layers that the bunch computes, in the order of their
records (R307, R309). -/
structure CounterDecl where
  pos : Nat
  bun : BunchIx
  addr : Nat
  layers : List Nat
  deriving DecidableEq, Repr, Inhabited

/-- The entry state of one task at one portable yield point (R342); only what differs from zero. -/
structure EntryState where
  y : Nat
  pos : Nat
  bun : BunchIx
  cor : CoreIx
  eng : Engine
  pc : BitVec 32
  step : BitVec 32
  areg : Tab (BitVec 32)
  lctr : Tab Nat
  pb : BitVec 64
  cb : BitVec 48
  cs : BitVec 32
  cr : BitVec 32
  gs0 : BitVec 24
  gs1 : BitVec 24
  /-- MCFG: AFMT in [3:0], SLOT in [7:4]. -/
  mcfg : BitVec 8
  /-- DCFG: DFMT [3:0], RND [5:4], OVF [6], ANCH [14:7], SLOT [18:15], G [19], CLR [20]. -/
  dcfg : BitVec 21
  xreg : Tab (BitVec 64)
  /-- Token counts of the task's core. -/
  tok : Tab Nat
  deriving DecidableEq, Repr, Inhabited

/-- A region extent record (R344). -/
structure Extent where
  region : Nat
  y : Nat
  pos : Nat
  bun : BunchIx
  cor : CoreIx
  store : Nat
  start : Nat
  count : Nat
  first : Nat
  nel : Nat
  loff : Nat
  lstride : Nat
  deriving DecidableEq, Repr, Inhabited

/-- The schedule of a variant of one predicted layer (R299, R312): what a field's memories hold of it where KVAR is above 0, in place
of the bytes, tables and slot maps of the sections. -/
structure KSched where
  layer : Nat
  kvar : Nat
  image : List ImageByte
  routes : List RouteDecl
  wheels : List WheelDecl
  carriers : List CarrierDecl
  deriving DecidableEq, Repr, Inhabited

/-- One descriptor list of the STREAMS section: the address by which requests name it, as an ODA within its field or a DVA, and its
descriptors (R257, R260, R261). -/
structure ListDecl where
  pos : Nat
  onDie : Bool
  addr : Nat
  descs : List (BitVec 512)
  deriving DecidableEq, Repr, Inhabited

/-- One variant of an image family: its per-variant sections (R334). -/
structure Variant where
  caps : List CapRec
  tasks : List TaskDecl
  toks : List TokDecl
  power : List PowerDecl
  image : List ImageByte
  routes : List RouteDecl
  period0 : Nat
  period1 : Nat
  /-- Periods of the staged banks, 0 where there is none (R51). -/
  staged0 : Nat
  staged1 : Nat
  wheels : List WheelDecl
  carriers : List CarrierDecl
  bases : List NearBase
  lists : List ListDecl := []
  barriers : List BarrierDecl
  layers : List LayerDecl
  counters : List CounterDecl := []
  kscheds : List KSched
  entries : List EntryState
  extents : List Extent
  deriving DecidableEq, Repr, Inhabited

/-- One YIELDS record (R585): ΔJ and the flag byte, [0] STEP, [1] FINAL, [2] PORTABLE. -/
structure YieldRec where
  dj : Nat
  flags : BitVec 8
  reserved : Bool := false
  deriving DecidableEq, Repr, Inhabited

/-- The MIRROR section (R403). -/
structure MirrorDecl where
  every : Nat
  logMax : Nat
  total : Nat
  /-- DVA base and size in 2 MiB units of each region. -/
  regions : List (Nat × Nat)
  deriving DecidableEq, Repr, Inhabited

/-- A section directory entry (R334): TYPE, VAR, OFFSET and LENGTH, and whether a reserved byte of it is set. -/
structure DirEntry where
  type : Nat
  var : Nat
  offset : Nat
  length : Nat
  reserved : Bool := false
  deriving DecidableEq, Repr, Inhabited

/-- A rule of R336 that a section of the family breaks, with the place R337 reports. What the parsed sections and
their code decide, the verifier's timing model (R181) among them, is computed; what rests on the meaning of the program (R99) or on a
layout that is not published (the status slots of R342) is an input. -/
structure Finding where
  code : Nat
  section_ : Nat
  var : Nat
  offset : Nat
  deriving DecidableEq, Repr, Inhabited

/-- An image family as the loader reads it from host memory (R333, R334). -/
structure Family where
  version : Nat
  flags : BitVec 16
  fr : Nat
  fc : Nat
  lead : Nat
  nvar : Nat
  policy : BitVec 64
  seedStreams : BitVec 64
  build : BitVec 256
  /-- SECTDIR, the byte offset of the section directory. -/
  sectDir : Nat
  /-- NSECT and FSIZE, and the first reserved byte of the header that is set. -/
  nsect : Nat
  fsize : Nat
  reserved : Option Nat := none
  /-- BUILD or a section's CRC that does not match the bytes, or a reserved byte of a section that its parsed records do not show, and where. -/
  sums : Option Finding
  /-- A granule of the family read with poison, and where R337 reports it. -/
  poison : Option Finding
  dir : List DirEntry
  variants : List Variant
  yields : List YieldRec
  mirror : Option MirrorDecl
  /-- Near-tier bytes of the save area that the largest variant needs (R340). -/
  saveBytes : Nat
  findings : List Finding
  deriving DecidableEq, Repr, Inhabited

/-- A mirror WRITE message (R409). -/
structure MirrorWrite where
  job : Nat
  t : Nat
  seq : Nat
  block : Nat
  body : BlockData
  deriving DecidableEq, Repr, Inhabited

/-- A slice read, or the place one of its answers names (R418, R441). -/
structure SliceReq where
  src : BitVec 16
  job : Nat
  c : Nat
  first : Nat
  count : Nat
  deriving DecidableEq, Repr, Inhabited

/-- A Bupol message as it crosses a link: the 64 bytes of its header cell, bit 8i + b being bit b of byte i, and its data cells (R440). -/
structure BupRaw where
  head : BitVec 512
  body : BitVec 32768 := 0
  deriving DecidableEq, Repr, Inhabited

/-- A Bupol message by the fields of its header cell (R440), with the data of its 64 or 2 data cells. -/
structure BupMsg where
  dst : BitVec 16
  src : BitVec 16
  dctx : Fin 4096
  sctx : Fin 4096
  cseq : BitVec 16
  addr : Nat := 0
  demand : Nat := 0
  rtag : Nat := 0
  failed : Bool := false
  args : BitVec 152 := 0
  body : BlockData := default
  deriving DecidableEq, Repr, Inhabited

/-- A received link frame (R423, R424): its bytes, and whether the codewords that carried it decode (R422). -/
structure Frame where
  decodes : Bool
  cells : BitVec 20480
  /-- Bytes 2,560–2,561, 2,562–2,563, 2,564–2,565 and 2,566–2,569. -/
  fseq : BitVec 16
  ack : BitVec 16
  rsvd : BitVec 16
  fcrc : BitVec 32
  deriving DecidableEq, Repr, Inhabited

/-- The commands: one constructor for each row of spec/opcode_table.json. Those without operands stand last, since Lean compiles a value of at
most 245 constructors with operands; `exec` keeps the table's order. -/
inductive Instr where
  /-- POWER_ON (R512): The 72 V input rises into range while the sloe domain is unpowered, which clears the module state and runs bring-up. -/
  | powerOn (plan : BringPlan)
  /-- STANDBY_POWER_LOSS (R470): The input stays outside 40–84 V for 10 µs and the sloe domain loses power. -/
  | standbyPowerLoss (decivolt : Int)
  /-- PORT_RESET (R515): One PERST# asserts while the other is inactive, which ends that CXL port's link and moves its traffic to the other port. -/
  | portReset (p : Fin 2)
  /-- PERST_DEASSERT (R515): A PERST# is deasserted and the port trains and returns to service. -/
  | perstDeassert (p : Fin 2) (test : CxlTest)
  /-- FORCED_INPUT_ACTIVE (R501): A sample finds a forced-state input active, which forces the lowest state on the affected fields and cancels any acknowledge. -/
  | forcedInputActive (pin : Fin 7)
  /-- FORCED_INPUT_RELEASE (R501): A forced input has had no active sample for 10 ms and holds an acknowledge, so the lowest state is released. -/
  | forcedInputRelease (i : Fin 7)
  /-- STUCK_INPUT (R501): A forced-state episode reaches 100 ms and the module raises CONTAINED STUCK_INPUT once for that episode. -/
  | stuckInput (i : Fin 7)
  /-- INPUT_FAIL (R471): The input stays below 54 V or above 84 V for 10 µs, so the first-stage converters stop and every domain except the sloe domain loses power. -/
  | inputFail (decivolt : Int)
  /-- COOLANT_SAMPLE (R497): Every 1 ms the sloe domain reads the coolant thermistors, which sets CAPMAX and may force the lowest state. -/
  | coolantSample (inlet outlet : Int) (watts : Nat)
  /-- CONVERTER_LOST (R473): A first-stage converter fails and opens its output, the others take its load, and the yield map records it. -/
  | converterLost (i : Fin 16)
  /-- PHASE_FAILURE (R382): A core-rail phase fails and the regulator reconfigures to a spare phase within 100 µs. -/
  | phaseFailure (f : FieldIx) (p : Fin 26)
  /-- REGULATOR_SAMPLE (R477): Every 20 ns the regulator samples the sensors, updates the 2 µs current average, and may engage the frequency floor. -/
  | regulatorSample (f : FieldIx) (x : RailSample)
  /-- FLOOR_RELEASE (R477): After 10 µs with the average below 90 % of the floor level, the oscillator target returns to the rate code. -/
  | floorRelease (f : FieldIx)
  /-- RAIL_TRIP (R494): A field rail exceeds its trip level or sags below 80 % of its setpoint, so the phases turn off, the clamps close and the field is fenced. -/
  | railTrip (f : FieldIx) (rail : Fin 3)
  /-- GOVERNOR_SAMPLE (R481): Every 4 µs the field governor compares its power estimate with its share and adjusts the duty d. -/
  | governorSample (f : FieldIx) (milliwatts : Nat)
  /-- DUTY_SAMPLE (R483): Every 20 µs firmware samples the duty of each field and commits a lower FREQ after two low samples. -/
  | dutySample (kfit : Nat)
  /-- RATE_RAISE (R483): Every 100 ms firmware raises k by one step when the model, the temperatures and the holds allow it. -/
  | rateRaise (fits : Bool)
  /-- CALIBRATION (R487): Every 100 ms firmware reads each rail's measured energy and sets that rail's scale factor. -/
  | calibration (f : FieldIx) (rail : Fin 3) (measured modelled : Nat)
  /-- THERMAL_SENSOR_SAMPLE (R491): Every 10 µs the field controller samples its junction sensors, which may set or clear a THERMAL hold or trip the field. -/
  | thermalSensorSample (f : FieldIx) (temps : List Int)
  /-- THERMAL_READ (R491): Every 1 ms firmware reads the sensors and lowers k, rests the field or wakes it as the thermal table requires. -/
  | thermalRead (f : FieldIx)
  /-- TRAY_CAP_SET (R478): The tray controller sets the tray cap over PLDM and firmware commits the new effective cap. -/
  | trayCapSet (steps : Nat)
  /-- SLOT_ADVANCE (R35): In each oscillator cycle a field counts a bubble or a hold, or it advances one slot, stepping every router, engine and bank port. -/
  | slotAdvance (f : FieldIx) (upsets : List Upset)
  /-- REF_QUALIFIED (R508): After 100 good windows the reference is qualified, N is set forward and REF_LOSS clears. -/
  | refQualified (micros : Nat)
  /-- OSC_LOCK_TIMEOUT (R511): A field oscillator has not locked within 20 µs, so it is restarted once or the placement is abandoned. -/
  | oscLockTimeout (f : FieldIx)
  /-- STEM_TYPE (R58): A unit receives a stem message with a reserved TYPE or cause, discards it and raises a CORRECTED event. -/
  | stemType (src : BitVec 16) (header : BitVec 64)
  /-- ERROR_EVENT (R373): The pith receives an event report, logs it, and updates the domain's handling state. -/
  | errorEvent (m : ErrMsg)
  /-- FENCE_NOTICE (R581): The pith receives a fence notice, logs FIELD_FENCED, and logs FIELD_LOST for every affected job. -/
  | fenceNotice (f : FieldIx) (cause : Fin 256)
  /-- PREPARE (R65): A participant checks a proposed change, stages it or NACKs it, and answers ACK. -/
  | prepare (u : Part) (csn : BitVec 16) (kind : CommitKind) (arg : BitVec 64) (epoch : Nat)
  /-- ACK (R65): The pith receives a participant's answer, and sends COMMIT when all are STAGED or ABORT on a NACK. -/
  | ack (u : Part) (csn : BitVec 16) (status : AckStatus)
  /-- COMMIT (R65): A participant marks its staged change decided, to apply at E. -/
  | commit (u : Part) (csn : BitVec 16) (epoch : Nat)
  /-- ABORT (R65): A participant discards its staged change. -/
  | abort (u : Part) (csn : BitVec 16) (epoch : Nat)
  /-- COMMIT_WAIT_TIMEOUT (R67): A participant has not applied a decision 8 nominal epochs after its resend, so the pith fences it. -/
  | commitWaitTimeout (u : Part)
  /-- YIELD_REPORT (R179): The pith receives a bunch's report that it has stopped at, or passed, a yield point. -/
  | yieldReport (f : FieldIx) (b : BunchIx) (asid : Nat) (y : Nat) (mirror : Bool) (snap : Bool)
  /-- BARRIER_ARRIVE (R174): The barrier owner records a bunch's arrival and sends BARRIER_RELEASE once every bunch has arrived. -/
  | barrierArrive (asid : Nat) (b : Fin 16) (f : FieldIx) (bun : BunchIx)
  /-- BARRIER_RELEASE (R174): A field controller passes the release to its bunches, and they resume at the first slot of E_r. -/
  | barrierRelease (f : FieldIx) (asid : Nat) (b : Fin 16) (epoch : Nat)
  /-- GATE_STATUS (R59): The pith receives a field's hold cause, or a HALTED report, and resends any pending decision on COMMIT_WAIT. -/
  | gateStatus (f : FieldIx) (cause : Fin 16) (asid : Nat) (slot : Nat)
  /-- SETPOINT (R498): A field controller ramps its core setpoint to the value given. -/
  | setpoint (f : FieldIx) (mv : Nat)
  /-- PHASE (R498): A field controller enables or disables a core-rail phase. -/
  | phase (f : FieldIx) (p : Nat) (disable : Bool)
  /-- RAILS (R498): A SLEEPING field switches its rails on or off. -/
  | rails (f : FieldIx) (mask : BitVec 3)
  /-- ALERT_ACK (R501): Firmware acknowledges inactive forced-state inputs, which enables their release. -/
  | alertAck (mask : BitVec 7)
  /-- ENERGY_SNAP (R498): A field latches its activity counters into its snapshot registers. -/
  | energySnap (f : FieldIx)
  /-- HALT (R362): A field controller stops the job's engines, routes, seams and streams, then reports HALTED. -/
  | halt (f : FieldIx) (asid : Nat)
  /-- JOB_HALT (R361): The pith halts a job after logging its event, by sending HALT to every field of the job and posting JOB_STOPPED. -/
  | jobHalt (asid : Nat)
  /-- HANDLING_TIMEOUT (R379): A domain's handling has not completed within 10 ms, so it escalates one class. -/
  | handlingTimeout (d : Domain)
  /-- DIAGNOSIS (R365): After a CHECK_PERSISTENT halt, firmware reruns the failing pass on a second core and records the outcome. -/
  | diagnosis (c : CoreId) (outcome : DiagOutcome)
  /-- REMAP (R383): Firmware applies the committed yield-map entries to an unowned field or seam, self-tests the units brought in, and updates the capacity map. -/
  | remap (f : FieldIx) (failed : List YEnt)
  /-- AGEING_SAMPLE (R393): Every 10 s firmware samples the ageing monitors and updates the drift and the guard band. -/
  | ageingSample (f : FieldIx) (drifts : List Nat)
  /-- MARGIN_TEST (R395): At a job boundary firmware self-tests a monitor's region at reduced voltage and records the sites that fail. -/
  | marginTest (f : FieldIx) (m : Fin 4) (sites : List Nat)
  /-- YMAP_RECORD_WRITE (R391): Firmware writes an extension record: the body, then the signature, then COMMIT. -/
  | ymapRecordWrite (step : RecordStep) (ents : List YEnt)
  /-- RIND_FAILED (R26): A rind unit fails, which affects only the streams that use it. -/
  | rindFailed (die : Fin 64)
  /-- DELAY (R172): The engine occupies n slots. -/
  | delay (c : CoreId) (e : Engine) (w : BitVec 64)
  /-- AT (R196): The engine holds until slot PB + T and may advance PB. -/
  | atSlot (c : CoreId) (e : Engine) (w : BitVec 64)
  /-- YIELD (R197): The engine declares the next yield point and holds until its epoch. -/
  | yieldPoint (c : CoreId) (e : Engine) (w : BitVec 64)
  /-- SYNC (R174): The engine holds in barrier b until the release epoch. -/
  | sync (c : CoreId) (e : Engine) (w : BitVec 64)
  /-- LSET (R198): The engine sets loop counter l[L] to N. -/
  | lset (c : CoreId) (e : Engine) (w : BitVec 64)
  /-- LEND (R198): The engine decrements the loop counter and jumps back while it is nonzero. -/
  | lend (c : CoreId) (e : Engine) (w : BitVec 64)
  /-- ASET (R199): The engine writes an immediate to an address register. -/
  | aset (c : CoreId) (e : Engine) (w : BitVec 64)
  /-- AADD (R199): The engine adds a signed immediate to an address register. -/
  | aadd (c : CoreId) (e : Engine) (w : BitVec 64)
  /-- LACT (R200): Matrix LOAD writes activation lines from memory or the receive queue. -/
  | lact (c : CoreId) (w : BitVec 64)
  /-- LSCL (R201): Matrix LOAD writes scale side-array entries. -/
  | lscl (c : CoreId) (w : BitVec 64)
  /-- LSTAT (R202): Matrix LOAD performs a stationary load, expanding tiles into the array and the check weights. -/
  | lstat (c : CoreId) (w : BitVec 64)
  /-- MCFG (R203): MAC sets the activation format and status slot for later passes. -/
  | mcfg (c : CoreId) (w : BitVec 64)
  /-- PASS (R204): MAC runs one array pass of NV vectors into the accumulator rows. -/
  | pass (c : CoreId) (w : BitVec 64)
  /-- DCFG (R205): DRAIN sets the target format, rounding, anchor and slot for later DRNs. -/
  | dcfg (c : CoreId) (w : BitVec 64)
  /-- DRN (R206): DRAIN reads, converts and sends accumulator rows to memory, the send queue or the exchange. -/
  | drn (c : CoreId) (w : BitVec 64)
  /-- DSND (R207): DRAIN sends flits from core memory to the send queue or the exchange. -/
  | dsnd (c : CoreId) (w : BitVec 64)
  /-- DFLG (R208): DRAIN stores a status slot and may clear it. -/
  | dflg (c : CoreId) (w : BitVec 64)
  /-- DRAIN_GEN (R211): DRAIN sets a generator register. -/
  | drainGen (c : CoreId) (w : BitVec 64)
  /-- VLD (R209): Vector LOAD fills registers from memory or the receive queue. -/
  | vld (c : CoreId) (w : BitVec 64)
  /-- VST (R209): STORE moves registers to memory, the send queue or the exchange. -/
  | vst (c : CoreId) (w : BitVec 64)
  /-- SFLG (R209): STORE stores a VEC status slot and may clear it. -/
  | sflg (c : CoreId) (w : BitVec 64)
  /-- FADD (R136): VEC adds floating-point lanes. -/
  | fadd (c : CoreId) (w : BitVec 64)
  /-- FSUB (R136): VEC subtracts floating-point lanes. -/
  | fsub (c : CoreId) (w : BitVec 64)
  /-- FMUL (R136): VEC multiplies floating-point lanes. -/
  | fmul (c : CoreId) (w : BitVec 64)
  /-- FFMA (R136): VEC computes a fused multiply-add with one rounding. -/
  | ffma (c : CoreId) (w : BitVec 64)
  /-- FMIN (R136): VEC takes the lane minimum. -/
  | fmin (c : CoreId) (w : BitVec 64)
  /-- FMAX (R136): VEC takes the lane maximum. -/
  | fmax (c : CoreId) (w : BitVec 64)
  /-- IADD (R138): VEC adds INT32 lanes with wrap. -/
  | iadd (c : CoreId) (w : BitVec 64)
  /-- ISUB (R138): VEC subtracts INT32 lanes with wrap. -/
  | isub (c : CoreId) (w : BitVec 64)
  /-- IMUL (R138): VEC multiplies INT32 lanes, keeping the low 32 bits. -/
  | imul (c : CoreId) (w : BitVec 64)
  /-- IADDS (R138): VEC adds INT32 lanes with saturation. -/
  | iadds (c : CoreId) (w : BitVec 64)
  /-- ISUBS (R138): VEC subtracts INT32 lanes with saturation. -/
  | isubs (c : CoreId) (w : BitVec 64)
  /-- ISH (R210): VEC shifts INT32 lanes by KIND. -/
  | ish (c : CoreId) (w : BitVec 64)
  /-- CMP (R210): VEC compares lanes and writes all-ones or zero. -/
  | cmp (c : CoreId) (w : BitVec 64)
  /-- SEL (R210): VEC selects a or b per lane by c. -/
  | sel (c : CoreId) (w : BitVec 64)
  /-- AND (R140): VEC computes a bitwise AND over 256 B. -/
  | vecAnd (c : CoreId) (w : BitVec 64)
  /-- OR (R140): VEC computes a bitwise OR over 256 B. -/
  | vecOr (c : CoreId) (w : BitVec 64)
  /-- XOR (R140): VEC computes a bitwise XOR over 256 B. -/
  | vecXor (c : CoreId) (w : BitVec 64)
  /-- MOV (R210): VEC copies a register, carrying its bruises. -/
  | mov (c : CoreId) (w : BitVec 64)
  /-- MOVI (R211): VEC broadcasts an immediate to a register. -/
  | movi (c : CoreId) (w : BitVec 64)
  /-- FGET (R193): VEC moves a status slot into element 0 and may clear the slot. -/
  | fget (c : CoreId) (w : BitVec 64)
  /-- GEN (R211): VEC sets a generator register. -/
  | gen (c : CoreId) (w : BitVec 64)
  /-- CVT (R212): VEC converts between formats with the instruction's rounding and overflow settings. -/
  | cvt (c : CoreId) (w : BitVec 64)
  /-- MXSC (R213): VEC computes MX block scales. -/
  | mxsc (c : CoreId) (w : BitVec 64)
  /-- SPEC (R214): VEC computes a special function in FP32. -/
  | spec (c : CoreId) (w : BitVec 64)
  /-- BCAST (R210): VEC broadcasts one lane to all lanes. -/
  | bcast (c : CoreId) (w : BitVec 64)
  /-- SHUF (R210): VEC shuffles lanes by index. -/
  | shuf (c : CoreId) (w : BitVec 64)
  /-- TOPK (R142): VEC writes a mask of the k highest scores. -/
  | topk (c : CoreId) (w : BitVec 64)
  /-- RAND (R145): VEC writes PHG outputs to the lanes. -/
  | rand (c : CoreId) (w : BitVec 64)
  /-- DROPM (R145): VEC writes a dropout mask by comparing PHG outputs with a threshold. -/
  | dropm (c : CoreId) (w : BitVec 64)
  /-- WCVT (R215): VEC converts lanes into a W128 quad. -/
  | wcvt (c : CoreId) (w : BitVec 64)
  /-- WACC (R215): VEC converts lanes and adds them exactly into a quad. -/
  | wacc (c : CoreId) (w : BitVec 64)
  /-- WADD (R215): VEC adds two quads lane by lane. -/
  | wadd (c : CoreId) (w : BitVec 64)
  /-- WRSUM (R215): VEC sums a quad exactly into value 0. -/
  | wrsum (c : CoreId) (w : BitVec 64)
  /-- WOUT (R215): VEC converts a quad out of W128. -/
  | wout (c : CoreId) (w : BitVec 64)
  /-- WRANC (R215): VEC re-anchors a quad. -/
  | wranc (c : CoreId) (w : BitVec 64)
  /-- FRSUM (R216): VEC computes an ordered horizontal sum. -/
  | frsum (c : CoreId) (w : BitVec 64)
  /-- FSCAN (R216): VEC computes an ordered prefix sum. -/
  | fscan (c : CoreId) (w : BitVec 64)
  /-- FDOT (R216): VEC computes an ordered horizontal dot product. -/
  | fdot (c : CoreId) (w : BitVec 64)
  /-- ADD (R147): SCALAR adds two registers. -/
  | scAdd (c : CoreId) (w : BitVec 64)
  /-- SUB (R147): SCALAR subtracts two registers. -/
  | scSub (c : CoreId) (w : BitVec 64)
  /-- SCALAR_AND (R147): SCALAR computes a bitwise AND of two registers. -/
  | scAnd (c : CoreId) (w : BitVec 64)
  /-- SCALAR_OR (R147): SCALAR computes a bitwise OR of two registers. -/
  | scOr (c : CoreId) (w : BitVec 64)
  /-- SCALAR_XOR (R147): SCALAR computes a bitwise XOR of two registers. -/
  | scXor (c : CoreId) (w : BitVec 64)
  /-- SHL (R147): SCALAR shifts a register left. -/
  | scShl (c : CoreId) (w : BitVec 64)
  /-- SHR (R147): SCALAR shifts a register right, logically. -/
  | scShr (c : CoreId) (w : BitVec 64)
  /-- SRA (R147): SCALAR shifts a register right, arithmetically. -/
  | scSra (c : CoreId) (w : BitVec 64)
  /-- SLT (R147): SCALAR sets 1 on a signed less-than comparison. -/
  | scSlt (c : CoreId) (w : BitVec 64)
  /-- SLTU (R147): SCALAR sets 1 on an unsigned less-than comparison. -/
  | scSltu (c : CoreId) (w : BitVec 64)
  /-- MUL (R147): SCALAR multiplies two registers, keeping the low 64 bits. -/
  | scMul (c : CoreId) (w : BitVec 64)
  /-- DIVU (R148): SCALAR divides unsigned. -/
  | scDivu (c : CoreId) (w : BitVec 64)
  /-- DIV (R148): SCALAR divides signed. -/
  | scDiv (c : CoreId) (w : BitVec 64)
  /-- REMU (R148): SCALAR computes an unsigned remainder. -/
  | scRemu (c : CoreId) (w : BitVec 64)
  /-- REM (R148): SCALAR computes a signed remainder. -/
  | scRem (c : CoreId) (w : BitVec 64)
  /-- ADDI (R147): SCALAR adds an immediate. -/
  | scAddi (c : CoreId) (w : BitVec 64)
  /-- ANDI (R147): SCALAR ANDs an immediate. -/
  | scAndi (c : CoreId) (w : BitVec 64)
  /-- ORI (R147): SCALAR ORs an immediate. -/
  | scOri (c : CoreId) (w : BitVec 64)
  /-- XORI (R147): SCALAR XORs an immediate. -/
  | scXori (c : CoreId) (w : BitVec 64)
  /-- SHLI (R147): SCALAR shifts left by an immediate. -/
  | scShli (c : CoreId) (w : BitVec 64)
  /-- SHRI (R147): SCALAR shifts right logically by an immediate. -/
  | scShri (c : CoreId) (w : BitVec 64)
  /-- SRAI (R147): SCALAR shifts right arithmetically by an immediate. -/
  | scSrai (c : CoreId) (w : BitVec 64)
  /-- SLTI (R147): SCALAR sets 1 when a register is less than an immediate, signed. -/
  | scSlti (c : CoreId) (w : BitVec 64)
  /-- LIH (R147): SCALAR loads an immediate into the high half of a register. -/
  | scLih (c : CoreId) (w : BitVec 64)
  /-- LD (R217): SCALAR loads 8 B from memory. -/
  | scLd (c : CoreId) (w : BitVec 64)
  /-- ST (R217): SCALAR stores 8 B to memory. -/
  | scSt (c : CoreId) (w : BitVec 64)
  /-- CADD (R217): SCALAR adds a register to an 8-byte counter in memory. -/
  | scCadd (c : CoreId) (w : BitVec 64)
  /-- BR (R217): SCALAR branches when the condition holds. -/
  | scBr (c : CoreId) (w : BitVec 64)
  /-- SSEND (R217): SCALAR sends one flit to the send queue or the exchange. -/
  | scSsend (c : CoreId) (w : BitVec 64)
  /-- SRECV (R217): SCALAR stores the oldest receive-queue flit to memory. -/
  | scSrecv (c : CoreId) (w : BitVec 64)
  /-- STRM (R262): SCALAR sends a stream request flit toward the stream complex. -/
  | scStrm (c : CoreId) (w : BitVec 64)
  /-- WRD (R217): SCALAR reads a window register. -/
  | scWrd (c : CoreId) (w : BitVec 64)
  /-- INSTRUCTION_COMPLETION (R166): An instruction reaches its completion slot, posts its tokens and ORs in its flags. -/
  | instructionCompletion (c : CoreId) (e : Engine)
  /-- STREAM_ARM (R263): The stream complex accepts an ARM request and makes the stream active with its T0, list and bases. -/
  | streamArm (c : CoreId) (req : BitVec 1024)
  /-- STREAM_RE_ARM (R263): The stream complex restarts a done stream, or records the re-arm as pending. -/
  | streamReArm (c : CoreId) (req : BitVec 1024)
  /-- STREAM_RELEASE (R263): The stream complex discards unissued blocks and unarms the stream. -/
  | streamRelease (c : CoreId) (req : BitVec 1024)
  /-- DESCRIPTOR_START (R272): A stream engine begins a descriptor at its START epoch. -/
  | descriptorStart (f : FieldIx) (st : Fin 256)
  /-- BLOCK_ISSUE (R268): An engine takes a tag, translates and issues one block, or the stream faults. -/
  | blockIssue (f : FieldIx) (st : Fin 256) (tag : Fin 2048)
  /-- BURST_IN (R256): A field takes an inbound burst, checks CHECK, lands the block and records acknowledgements. -/
  | burstIn (f : FieldIx) (header : BitVec 1024) (data : Option (BitVec 32768)) (bruises : Option (BitVec 64))
  /-- LANDING_COMPLETE (R255): A landed block is fully written and its landing credit is returned. -/
  | landingComplete (f : FieldIx) (tag : Fin 2048)
  /-- RIND_REQUEST (R254): A rind unit takes a request record and performs the read, write or punnet fetch. -/
  | rindRequest (f : FieldIx) (tag : Fin 2048) (found : TierRead) (host : Option BlockData)
  /-- RIND_BURST_SEND (R255): A rind unit holding a credit and ready data sends a DATA burst on an IN channel. -/
  | rindBurstSend (f : FieldIx) (tag : Fin 2048)
  /-- RIND_OUT_BURST (R256): A rind unit takes an outbound block, checks it and writes it to its tier. -/
  | rindOutBurst (f : FieldIx) (tag : Fin 2048) (data : Option BlockData)
  /-- PAGE_FAULT_SERVICE (R269): Firmware makes a NOT_PRESENT page present and resumes the stream, or declines the fault. -/
  | pageFaultService (f : FieldIx) (st : Fin 256) (serve : Bool) (entries : List (Nat × BitVec 64))
  /-- TRANSLATION_INVALIDATE (R267): Firmware invalidates translation caches by ASID and range. -/
  | translationInvalidate (asid : Nat) (lo hi : Nat)
  /-- SCRUB_VISIT (R244): The scrub reads, corrects and writes back a granule, using free slots. -/
  | scrubVisit (f : FieldIx) (p : MemPlace) (n : Nat)
  /-- SEGMENT_STATE_CHANGE (R238): Firmware changes a segment or bank power state, with a clear when required. -/
  | segmentStateChange (f : FieldIx) (place : MemPlace) (decl : BitVec 8)
  /-- CHANNEL_RETIRE (R279): Firmware retires an HBM4 channel and starts copying it to the spare. -/
  | channelRetire (stack : Fin 40) (ch : Fin 32)
  /-- CHANNEL_COPY_COMPLETE (R279): The channel copy ends and the spare takes the channel's place in the map. -/
  | channelCopyComplete (stack : Fin 40) (ue : List Nat)
  /-- SQ_ENTRY_FETCH (R461): The module reads one submission entry and starts its command. -/
  | sqEntryFetch (q : Fin 8) (entry : BitVec 1024) (poison : Bool)
  /-- SUBMIT_JOB (R336): The loader reads and admits an image family, assigns an ASID, draws the seed and reserves a save area. -/
  | submitJob (q : Fin 8) (fam : Family) (draw : BitVec 64)
  /-- JOB_PLACEMENT (R339): The pith places a job at the first fitting origin and variant once fields are free. -/
  | jobPlacement (asid : Nat) (root : Nat) (load : List (Nat × BitVec 64))
  /-- PREEMPT_JOB (R345): The pith commits a PREEMPT for the job. -/
  | preemptJob (q : Fin 8)
  /-- CONTEXT_SAVE (R345): After the drain, the pith copies every field's state to the save area. -/
  | contextSave (asid : Nat)
  /-- SAVE_SEAL (R345): Once every block is acknowledged, the pith writes the save header with SEALED and frees the fields. -/
  | saveSeal (asid : Nat)
  /-- RESUME_JOB (R352): Host software asks for a pre-empted job to be resumed. -/
  | resumeJob (q : Fin 8)
  /-- JOB_RESTORE (R351): The pith chooses a variant and origin, writes the sections and state, and resumes the tasks at E_s. -/
  | jobRestore (asid : Nat) (root : Nat) (load : List (Nat × BitVec 64))
  /-- END_JOB (R462): The job ends, and it is halted first if it is running. -/
  | endJob (q : Fin 8)
  /-- SUPPLEMENT (R351): The loader admits a supplementary family for a held job. -/
  | supplement (q : Fin 8) (fam : Family)
  /-- MIRROR_RESUME (R417): The pith admits the family, reads the slice and restores the job at the mirror point. -/
  | mirrorResume (q : Fin 8) (fam : Family)
  /-- MAP_WINDOW (R459): Firmware maps host-window pages into a job. -/
  | mapWindow (q : Fin 8) (entries : List (Nat × BitVec 64))
  /-- UNMAP_WINDOW (R459): Firmware unmaps window pages after the invalidation completes. -/
  | unmapWindow (q : Fin 8) (entries : List Nat)
  /-- PAIR_SETUP (R401): The module takes a pair setup record and sends HELLO on its mirror ports. -/
  | pairSetup (q : Fin 8)
  /-- PAIR_DISSOLVE (R401): Host software dissolves the pair. -/
  | pairDissolve (q : Fin 8)
  /-- SLICE_RELEASE (R413): A sealed slice is freed. -/
  | sliceRelease (q : Fin 8)
  /-- CTX_OPEN (R437): Host software opens a partner context, and firmware sends CTX_OPEN. -/
  | ctxOpen (q : Fin 8)
  /-- CTX_CLOSE (R451): A context closes once its transfers have finished. -/
  | ctxClose (q : Fin 8)
  /-- ROUTE_SET (R432): Firmware writes an endpoint route table entry. -/
  | routeSet (q : Fin 8)
  /-- PORT_RETRAIN (R430): Host software asks for a Bupol port to be retrained. -/
  | portRetrain (q : Fin 8)
  /-- POWER_SET (R479): Host software sets the cap, profile or report level, and firmware commits the settings. -/
  | powerSet (q : Fin 8)
  /-- RESUME_IN_PLACE (R312): Firmware writes the new variant's sections and resumes the stopped job in place. -/
  | resumeInPlace (asid : Nat)
  /-- FIELD_REST (R341): Firmware rests a field by pre-emption, restore under a TRANSIT variant, and a REST commit. -/
  | fieldRest (f : FieldIx)
  /-- HELLO (R401): A module receives HELLO from its partner and forms the pair when all named ports are heard. -/
  | hello (port : Fin 48) (src : BitVec 16) (store logGib nports : Nat)
  /-- HEARTBEAT_SEND (R409): Every 2 µs the module sends HEARTBEAT on an idle mirror port. -/
  | heartbeatSend (port : Fin 48)
  /-- HEARTBEAT (R412): A received HEARTBEAT shows that the partner is alive. -/
  | heartbeat (port : Fin 48)
  /-- MIRROR_BLOCK_ADMIT (R408): The mirror engine admits a held block when there is room and its tag allows, assigns SEQ and releases its acknowledgement. -/
  | mirrorBlockAdmit (asid : Nat)
  /-- WRITE (R410): The partner appends a mirror write to its log and sends WACK. -/
  | mirrorWrite (port : Fin 48) (w : MirrorWrite)
  /-- WACK (R410): The sender retires an acknowledged mirror write. -/
  | wack (port : Fin 48) (job : Nat) (t : Nat) (seq : Nat)
  /-- COMPLETE (R410): The partner applies the interval's log entries to the slice in SEQ order. -/
  | mirrorComplete (port : Fin 48) (job : Nat) (t : Nat)
  /-- FAIL (R412): A module learns that its partner has entered its safe state, and loses its partner. -/
  | pairFail (port : Fin 48)
  /-- MIRROR_INTERVAL_COMMIT (R411): Once every mirror point report and WACK for t is in, the pith prepares MIRROR_COMMIT. -/
  | mirrorIntervalCommit (asid : Nat)
  /-- SLICE_RD (R418): A holder answers a slice read with SLICE_DATA blocks, or with FAILED. -/
  | sliceRd (port : Fin 48) (m : BupRaw)
  /-- SLICE_DATA (R418): The requester writes a returned slice block into the job's mirror region. -/
  | sliceData (port : Fin 48) (head : BitVec 512) (body : BitVec 32768)
  /-- LINK_FRAME (R425): A port accepts an in-order good frame or discards it and sets NAK, and then processes ACKs and messages. -/
  | linkFrame (port : Fin 48) (fr : Frame)
  /-- FRAME_SEND (R447): In each codeword period a port sends a DATA or IDLE frame, choosing messages by class and meter. -/
  | frameSend (port : Fin 48)
  /-- ACK_TIMEOUT (R427): The ACK has not advanced for 100 µs with frames outstanding, so the port retrains. -/
  | ackTimeout (port : Fin 48)
  /-- RETRAIN (R429): A port leaves service, substitutes spare lanes, trains and qualifies, then returns or stays down. -/
  | retrain (port : Fin 48) (bad : List (Fin 18)) (lanes : List LaneTest)
  /-- RD_REQ (R439): The module reads blocks from its exported window and answers with RD_RSP. -/
  | rdReq (port : Fin 48) (m : BupRaw)
  /-- RD_RSP (R443): A read block lands in the read part and goes to its carrier channel. -/
  | rdRsp (port : Fin 48) (m : BupRaw)
  /-- WR (R441): The module writes one block to its window in CSEQ order. -/
  | bupWr (port : Fin 48) (m : BupRaw)
  /-- WR_ACK (R443): The sender learns that its write is done and takes back its reserve credit. -/
  | wrAck (port : Fin 48) (m : BupRaw)
  /-- ARM (R441): A remote stream request is applied to a stream of the context's job. -/
  | bupArm (port : Fin 48) (m : BupRaw)
  /-- BARRIER (R441): The module adds to an 8-byte word after the earlier writes of the context. -/
  | bupBarrier (port : Fin 48) (m : BupRaw)
  /-- CREDIT (R444): A sender receives shared credits. -/
  | credit (port : Fin 48) (m : BupRaw)
  /-- CTX_OPEN_MSG (R445): A remote module asks to open a context, and the module answers CTX_OPEN_ACK or FAILED. -/
  | ctxOpenMsg (port : Fin 48) (m : BupRaw)
  /-- CTX_OPEN_ACK (R437): The answer arrives and the context becomes OPEN or FAILED. -/
  | ctxOpenAck (port : Fin 48) (m : BupRaw)
  /-- TAIL_LINE_UPDATE (R460): A host write invalidates a POLL-mode line, and the module reads the new count. -/
  | tailLineUpdate (q : Fin 8) (cq : Bool) (count : BitVec 32) (poison : Bool)
  /-- SQ_DB (R460): The SQ tail count is written by doorbell. -/
  | sqDb (q : Fin 8) (value : BitVec 64) (half : Half)
  /-- CQ_DB (R460): The CQ head count is written by doorbell, which frees completion slots. -/
  | cqDb (q : Fin 8) (value : BitVec 64) (half : Half)
  /-- COMPLETION_WRITE (R464): The module writes a held completion entry once its slot is free and the reported writes are observed. -/
  | completionWrite (q : Fin 8)
  /-- MSIX_SEND (R469): A pending MSI-X message is sent once a port is up and the vector is unmasked. -/
  | msixSend (v : Fin 16)
  /-- CXL_PORT_DOWN (R468): A CXL port leaves L0 for 10 µs or has a link error, so its requests are reissued on the other port. -/
  | cxlPortDown (p : Fin 2)
  /-- CXL_PORT_UP (R468): A CXL port retrains and returns to service. -/
  | cxlPortUp (p : Fin 2) (test : CxlTest)
  /-- HOST_TRANSFER_TIMEOUT (R469): A host transfer has not completed within 1 ms with both ports down, so it returns FAILED. -/
  | hostTransferTimeout (f : FieldIx) (tag : Fin 2048)
  /-- HOST_WINDOW_ACCESS (R459): The host reads or writes a granule of the near-tier window. -/
  | hostWindowAccess (addr : Nat) (write : Bool) (data : BitVec 512) (poison : Bool)
  /-- HDM_DECODER_COMMIT (R458): Host software commits or uncommits the HDM decoder for the window. -/
  | hdmDecoderCommit (commit : Bool)
  /-- DOE_DISCOVERY (R466): DOE instance 0 answers a discovery request. -/
  | doeDiscovery (index : BitVec 8)
  /-- CXL_TABLE_ACCESS (R466): DOE instance 0 returns the CDAT. -/
  | cxlTableAccess (entry : BitVec 16)
  /-- GET_CERTIFICATE (R466): SPDM returns the attestation certificate chain. -/
  | getCertificate (offset len : Nat)
  /-- GET_MEASUREMENTS (R545): SPDM returns the signed measurements. -/
  | getMeasurements (index : BitVec 8) (nonce : BitVec 256)
  /-- CHALLENGE (R466): SPDM signs a challenge with the attestation key. -/
  | challenge (nonce : BitVec 256)
  /-- MCTP_ATTESTATION (R545): The tray controller obtains a signed attestation report over MCTP. -/
  | mctpAttestation (nonce : BitVec 256)
  /-- SIGN_REQUEST (R543): Firmware submits a digest and the signature engine signs it, committing index blocks first. -/
  | signRequest (digest : BitVec 256)
  /-- ENTROPY_RESTART (R551): One second after a health-test failure the source reruns its start-up test. -/
  | entropyRestart (passes : Bool)
  /-- SEED_DRAW_TIMEOUT (R551): The source has not recovered within 10 s of a seed draw, so the submission completes with WRONG_STATE. -/
  | seedDrawTimeout (q : Fin 8)
  /-- RESET (R557): MOD_RESET with the key and RESET set performs a module reset. -/
  | regReset (value : BitVec 64) (half : Half)
  /-- RECOVERY (R540): MOD_RESET with RESET and RECOVERY set resets the module into recovery. -/
  | regRecovery (value : BitVec 64) (half : Half)
  /-- LOG_FREE (R563): Host software frees a log record by SEQ, or the free is deferred while its domain is handling. -/
  | logFree (value : BitVec 64) (half : Half)
  /-- QUEUE_ENABLE (R559): Setting ENABLE in Q_CFG starts a queue when its configuration is valid. -/
  | queueEnable (q : Fin 8) (value : BitVec 64) (half : Half)
  /-- QUEUE_DISABLE (R560): Clearing ENABLE stops fetching after the entry in progress. -/
  | queueDisable (q : Fin 8) (value : BitVec 64) (half : Half)
  /-- QERR_CLEAR (R559): Writing 1 to QERR clears it and its code. -/
  | qerrClear (q : Fin 8) (x : QerrWrite) (half : Half)
  /-- GRANT_WRITE (R456): Host software writes a grant's BASE, PAGES or rights, which is ignored while the entry is busy. -/
  | grantWrite (g : Fin 64) (hi : Bool) (value : BitVec 64) (half : Half)
  /-- GRANT_REVOKE (R456): Clearing VALID sets REVOKING until the entry's admitted requests complete. -/
  | grantRevoke (g : Fin 64) (value : BitVec 64) (half : Half)
  /-- REVOKE_COMPLETE (R456): The last request admitted under an entry completes and REVOKING clears. -/
  | revokeComplete (g : Fin 64)
  /-- HOST_WIN_WRITE (R561): Host software sets the window size unless the decoder is committed or the value is too large. -/
  | hostWinWrite (value : BitVec 64) (half : Half)
  /-- ENDPOINT_ID (R431): The first write sets and locks the module's Bupol endpoint ID. -/
  | endpointId (value : BitVec 64) (half : Half)
  /-- PT_ENTRY (R434): A write sets and locks the fields of a partner table entry. -/
  | ptEntry (e : Fin 256) (value : BitVec 64) (half : Half)
  /-- PT_SEAL (R565): A write of 1 seals the partner table and locks every entry. -/
  | ptSeal (value : BitVec 64) (half : Half)
  /-- BEGIN (R541): The boot ROM checks the header and signature in the window and, on success, erases the slot. -/
  | recBegin (value : BitVec 64) (ok : Bool)
  /-- CHUNK (R541): The boot ROM hashes and programs the next part of the body. -/
  | recChunk (value : BitVec 64) (ok : Bool)
  /-- GO (R541): The boot ROM checks the hash and read-back, raises MINSVN and starts bring-up. -/
  | recGo (value : BitVec 64) (ok : Bool) (plan : BringPlan)
  /-- LOW_HALF_READ (R11): A 32-bit read of a low half latches the register's high half. -/
  | lowHalfRead (offset : Nat)
  /-- REGISTER_WRITE (R7): A write to a register without a row of its own sets its fields as their access codes decide. -/
  | registerWrite (offset : Nat) (value : BitVec 64) (half : Half)
  /-- SYS_RST_N_RELEASE (R513): SYS_RST_N is deasserted, or the 100 µs minimum reset hold ends, so every domain leaves reset and the boot ROM starts bring-up. -/
  | sysRstNRelease (plan : BringPlan)
  /-- SLICE_SEALING_COMPLETE (R413): The sealing of a slice held for a lost partner completes within 100 ms, after which the slice holds commit C and slice reads are served instead of answered FAILED. -/
  | sliceSealingComplete (i : Fin 36)
  /-- INPUT_METER_UPDATE (R488): Every 1 ms the input meter updates INPUT and INPUT_ENERGY with the input power, voltage, current and energy. -/
  | inputMeterUpdate (watts decivolt deciamp millijoule : Nat)
  /-- STREAM_DRAIN_TIMEOUT (R271): A transfer still open 1 ms after a yield point is abandoned, and the resume point moves back. -/
  | streamDrainTimeout (f : FieldIx) (st : Fin 256)
  /-- DISCARD (R416): The partner drops log entries tagged above C. -/
  | mirrorDiscard (port : Fin 48) (job : Nat) (c : Nat)
  /-- SLICE_RD_TIMEOUT (R418): An unanswered slice read is sent again, and after three retries the resume fails. -/
  | sliceRdTimeout (first : Nat)
  /-- BER_WINDOW (R427): The pre-FEC error rate over 1 ms exceeds 10⁻⁵, so the port retrains. -/
  | berWindow (port : Fin 48)
  /-- LANE_LOCK_LOSS (R427): A lane loses lock, so the port retrains. -/
  | laneLockLoss (port : Fin 48)
  /-- ARM_ACK (R441): The sender learns whether its arm request was accepted. -/
  | armAck (port : Fin 48) (m : BupRaw)
  /-- BAR_ACK (R441): The sender learns that its barrier add is done. -/
  | barAck (port : Fin 48) (m : BupRaw)
  /-- CREDIT_RET (R446): The receiver takes back unused grants. -/
  | creditRet (port : Fin 48) (m : BupRaw)
  /-- CTX_CLOSE_MSG (R437): The remote end closes a context. -/
  | ctxCloseMsg (port : Fin 48) (m : BupRaw)
  /-- CREDIT_IDLE_TIMEOUT (R444): A context's queue has been empty for 20 µs, so the sender returns its shared credits. -/
  | creditIdleTimeout (ctx : Fin 4096)
  /-- CONTEXT_TIMEOUT (R438): A request or write has gone unanswered for 1 ms, so the context fails. -/
  | contextTimeout (ctx : Fin 4096)
  /-- POWER_DOWN_ENTRY (R484): An HBM4 or DDR5 channel that has been idle for the profile's entry delay (10 µs or 1 µs) enters power-down. -/
  | powerDownEntry (far : Bool) (ch : Fin 1280)
  /-- PITH_START_TIMEOUT (R519): A pith chiplet has not reported running within 2 s, so it is recorded PITH and the boot ROM starts the other chiplet. -/
  | pithStartTimeout
  /-- MODULE_RESET (R513): A filtered assertion of SYS_RST_N sends FAIL, stops every job, puts the memories in self-refresh, holds every domain in reset and restarts bring-up. -/
  | moduleReset
  /-- FUNCTION_RESET (R514): Both PERST# are asserted, which revokes every grant and clears the function's registers and queues while jobs continue. -/
  | functionReset
  /-- INPUT_RANGE (R471): The input stays outside 60–80 V (but within 54–84 V) for 100 µs, so every field is forced to the lowest state and CONTAINED INPUT_RANGE is raised. -/
  | inputRange
  /-- INPUT_RANGE_RELEASE (R471): The input has stayed within 60–80 V for 10 ms and the INPUT_RANGE forced state is released. -/
  | inputRangeRelease
  /-- INPUT_RESTORED (R471): The input returns to 60–80 V while the sloe domain is powered, and the module restarts as after a module reset and logs INPUT_FAIL. -/
  | inputRestored
  /-- INPUT_CURRENT (R546): The input current averaged over 10 µs exceeds 400 A, so every field is forced to the lowest state and CONTAINED INPUT_CURRENT is raised. -/
  | inputCurrent
  /-- INPUT_CURRENT_RELEASE (R546): The 10 µs average has stayed below 360 A for 10 ms and the input-current forced state is released. -/
  | inputCurrentRelease
  /-- COOLANT_RANGE_RELEASE (R497): The coolant cause has stayed clear for 10 s and the forced state is released. -/
  | coolantRangeRelease
  /-- CONVERTER_OVERLOAD (R473): The remaining converters are still over their rating 5 ms after a failure, so the sloe domain forces every field low until the lowered ceiling applies. -/
  | converterOverload
  /-- REF_TICK (R33): Each 10 ns reference tick advances the nominal slot count N by 10 × k eighths of a slot. -/
  | refTick
  /-- REF_LOSS_DETECTED (R507): Two consecutive bad reference windows mark the reference lost, so N stops and fields hold REF_LOSS at their next boundary. -/
  | refLossDetected
  /-- REF_LOST (R509): The reference has been lost for 10 ms, so a DEVICE-class event takes the module to its safe state. -/
  | refLost
  /-- SLOE_CLOCK (R505): The sloe crystal stops for 1 µs, so the sloe domain moves to its on-die oscillator and raises a CONTAINED event. -/
  | sloeClock
  /-- WATCHDOG_WRITE (R548): The active pith writes the watchdog, which restarts its 2 ms expiry. -/
  | watchdogWrite
  /-- WATCHDOG_EXPIRY (R548): 2 ms pass without a watchdog write, so the active pith is held in reset and the standby takes over. -/
  | watchdogExpiry
  /-- PITH_FAILURE (R27): The active pith fails, and the standby pith takes over within 50 ms. -/
  | pithFailure
  /-- TAKEOVER_TIMEOUT (R548): The new active pith has not written the watchdog within 50 ms, so the sloe domain raises PITH_LOST and enters the safe state. -/
  | takeoverTimeout
  /-- ACK_DEADLINE (R65): Nominal epoch P + 8 begins with an answer missing, so the pith sends ABORT. -/
  | ackDeadline
  /-- REPREPARE (R582): After an abort, once any wait has passed, the pith prepares the change again with a new CSN and E. -/
  | reprepare
  /-- PAIR_FORMATION_TIMEOUT (R401): HELLO has not arrived from the partner on every port within 10 s, so formation fails. -/
  | pairFormationTimeout
  /-- MIRROR_SILENCE (R412): No message has arrived on any mirror port for 50 µs, so the partner is lost. -/
  | mirrorSilence
  /-- CREDIT_GRANT (R446): The grant unit gives up to 8 shared credits to the next demanding context, round robin. -/
  | creditGrant
  /-- GET_VERSION (R466): SPDM version negotiation over DOE instance 1. -/
  | getVersion
  /-- ENTROPY_HEALTH_FAIL (R551): A health test fails, so the source withholds output and ENT_OK reads 0. -/
  | entropyHealthFail
  /-- TAKEOVER_COMPLETE (R27): The standby pith completes its takeover, aborts any prepared change, serves held stream faults and resumes servicing the host command queues. -/
  | takeoverComplete
  /-- LOWER_TREE_READY (R544): The signature engine finishes preparing the next lower HSS tree, and a signing request that was waiting for it proceeds. -/
  | lowerTreeReady
  deriving DecidableEq, Repr, Inhabited

end Sys2Proof
end

