-- ==== Sys2Proof/Decode.lean ====
section
/-! DEFINITION. The command that a word of the opcode table spells. No row of spec/opcode_table.json gives bits: a command
reaches the module as a register write, a message, a pin or an elapsed interval, and an instruction row carries its word as
an operand. So no word spells a command. -/

namespace Sys2Proof

/-- The command spelled by the table's bits: none, since no row gives bits. -/
def decodeTableWord (_nbits _w : Nat) : Option Instr := none

end Sys2Proof
end

