-- ==== Sys2Proof/Config.lean ====
section
/-! DEFINITION. What an implementation fixes and the spec does not give: free values. Each is a constant without a body,
so that no proof can see a value of it; the log entry says which rule leaves it open. -/

namespace Sys2Proof.Config

/-- The sign of an exact zero sum of addends of unlike sign, by the operand encodings of the operation (R76, R136; log 10). -/
opaque zeroSumNeg : Nat → Nat → Nat → Bool

/-- DETAIL of an event, or a part of a record, for which the spec names the contents and gives no layout: by the code and
the items named (R161, R218, R226, R370; log 11). -/
opaque detailOf : Nat → List Nat → Word

/-- A scalar register read before its producer's latency has elapsed, by the count of free values drawn (R147; log 12). -/
opaque earlyRead : Nat → Word

/-- How many of the 64 instructions that an instruction queue holds stand before the program counter, by PC (R158, R159; log 13): the
value is taken modulo 64. -/
opaque queueBehind : Nat → Nat

/-- The SEC-DED code of a granule of a flit and its bruise bit (R45; log 144): the spec gives the code's width and no matrix. -/
opaque flitEcc : Nat → Bool → BitVec 11

/-- V_BOL(k) of a field in mV, held by the base record of the yield map (R386): by the record's GEN, field and rate code (log 17). -/
opaque vBol : Nat → Nat → Nat → Nat

/-- The save area of a job, by its number, has bytes behind a rind unit (R340, R347; log 181). -/
opaque saveAreaOn : Nat → Nat → Bool

/-- The limit that firmware sets on the corrected errors of a bank or segment (R245; log 18). -/
opaque ceLimit : Nat

/-- The header fields of a tile that PUTZ writes for which the descriptor gives no value (TSCALE of an FP8 tile, SAXIS of an MX
tile, TILE): by the descriptor and the tile's number, TSCALE in bits [7:0], SAXIS in bit 8, TILE in bits [63:32] (R282, R289; log 19). -/
opaque putzHeader : Nat → Nat → Word

/-- The field whose stream an inbound ARM names: the flit gives a stream number and no field (R261, R441; log 23): by the context,
ADDR and the flit's request. -/
opaque armField : Nat → Nat → Nat → Nat

/-- Energy in mJ that a job is charged in a calibration period beside that of its WORK fields: its part of a transit field's, or of the
rind units' (R488, R586; log 32): by ASID, field and the field's energy. -/
opaque sideEnergy : Nat → Nat → Nat → Nat

/-- Value of an attestation measurement over contents that the spec does not give (R545; log 33): by index, and by what it changes with. -/
opaque measured : Nat → List Nat → BitVec 256

/-- The identity block as manufactured, by the register's place in the block: what R534 and R535 leave to manufacture (log 34). -/
opaque identity : Nat → Word

/-- Length of the manufactured identity block in bytes (22 IDENT_LEN; log 34). -/
opaque identLen : BitVec 15

/-- SHA-256 of the vendor public key of a key slot, which the boot ROM holds (R537; log 162). -/
opaque vendorKey : Nat → BitVec 256

/-- Byte of the window at which a signed object carries its public key, by object (R537; log 162). -/
opaque keyAt : Nat → Nat

/-- Header of a signed identity block, which the spec does not lay out: 0 KEYSLOT, 1 BODYLEN, 2 BODYHASH (R541; log 161). -/
opaque identHead : Nat → List Nat → Nat

/-- Byte of a base record's body at which its manufacturing entries begin, by GEN (R386, R387; log 164). -/
opaque entriesAt : Nat → Nat

/-- What the attestation key's generation fixed: the identifier of a tree, the start of a chain of a leaf, and a leaf's randomiser (R543; log 165). -/
opaque attId : Nat → BitVec 128
opaque attSecret : Nat → Nat → Nat → BitVec 256
opaque attRandom : Nat → Nat → BitVec 256

/-- The digest that an SPDM or MCTP answer is signed over, whose message those standards lay out (R545; log 166): by the answer and its content. -/
opaque reportDigest : Nat → List Nat → BitVec 256

/-- What R348 leaves unlaid in a save header: 0 TASKDIR, 1 FIELDDIR, 2 SIZE, 3 KVARS, by job number and yield point (log 181). -/
opaque saveOffset : Nat → Nat → Nat → BitVec 64

/-- Which of R542's failure codes a load takes whose hash or read-back fails at GO (R541, R542; log 35). -/
opaque recFail : Nat → Nat

end Sys2Proof.Config
end

