-- ==== Sys2Proof/Machine/State.lean ====
section
/-! DEFINITION. The state of the module: every register, buffer, queue, counter, table and mode that the spec gives it,
as plain data, and its value at reset. Each field's line says what it is; its width; the file and rule that name it; its
value at reset ("spec" where a Reset column or R512 gives it, "choice" where the spec gives none: log 2). -/

namespace Sys2Proof.Machine

/-- The module stops. -/
inductive Fault where
  /-- Raised by INPUT_FAIL and STANDBY_POWER_LOSS when VIN is below −1 V: R577 gives the module no protection there and
  no behaviour after it. Safe: the model stops where the hardware may be damaged. -/
  | reversePolarity
  deriving DecidableEq, Repr, Inhabited

/-- A command without a meaning. -/
inductive Refusal where
  /-- The command has no meaning in this model yet. Raised by `exec` alone. Safe. -/
  | notModelled (mnemonic : String)
  /-- Raised by REGISTER_WRITE into the CXL component registers at 0x080_0000, laid out only by CXL 3.1 (R554); the HDM
  decoder's commit has a command of its own. Safe: the model stops where the hardware goes on. -/
  | cxlComponent
  deriving DecidableEq, Repr, Inhabited

/-! ## Engines and cores -/

/-- Generator registers of VEC and DRAIN (R190). -/
structure Gen where
  /-- Coordinate base; 48 bits; 07 R190; spec 0 (R190) -/
  cb : BitVec 48 := 0
  /-- Lane stride; 32 bits signed; 07 R190; spec 0 (R190) -/
  cs : BitVec 32 := 0
  /-- Row stride; 32 bits signed; 07 R190; spec 0 (R190) -/
  cr : BitVec 32 := 0
  /-- Generator stream 0; 24 bits; 07 R190; spec 0 (R190) -/
  gs0 : BitVec 24 := 0
  /-- Generator stream 1; 24 bits; 07 R190; spec 0 (R190) -/
  gs1 : BitVec 24 := 0
  /-- Step counter STEP; 32 bits; 07 R190; spec 0, then the image's value (R157) -/
  step : BitVec 32 := 0
  /-- Generator key register, the job's seed; 64 bits; 11 R319; choice 0 -/
  key : BitVec 64 := 0
  deriving DecidableEq, Repr, Inhabited

/-- DCFG state of DRAIN (R205). -/
structure Dcfg where
  /-- Target format DFMT; 4 bits; 07 R205; spec 0 (R190) -/
  fmt : BitVec 4 := 0
  /-- Rounding RND; 2 bits; 07 R205; spec 0 (R190) -/
  rnd : BitVec 2 := 0
  /-- Overflow bit OVF; 1 bit; 07 R205; spec 0 (R190) -/
  ovf : Bool := false
  /-- Anchor ANCH; 8 bits; 07 R205; spec 0 (R190) -/
  anch : BitVec 8 := 0
  /-- Status slot SLOT; 4 bits; 07 R205; spec 0 (R190) -/
  slot : BitVec 4 := 0
  /-- Generator stream bit G; 1 bit; 07 R205; spec 0 (R190) -/
  g : Bool := false
  /-- Clear-on-read bit CLR; 1 bit; 07 R205; spec 0 (R190) -/
  clr : Bool := false
  deriving DecidableEq, Repr, Inhabited

/-- An instruction that has issued and not yet completed (R166, R193). -/
structure Flight where
  /-- Completion slot c; slot count; 06 R166; in flight only -/
  done : Nat
  /-- Completes on acceptance by the stream complex instead of at `done` (STRM); 1 bit; 09 R262; in flight only -/
  onAccept : Bool := false
  /-- Completes when the barrier's release sets the next issue (SYNC); 1 bit; 06 R166, R174; in flight only -/
  onSync : Bool := false
  /-- Completes on its last vector's verdict instead of at `done` (PASS); pass number + 1, 0 for none; 06 R166; in flight only -/
  onPass : Nat := 0
  /-- Post mask; 16 bits; 07 R184; in flight only -/
  post : BitVec 16
  /-- Status slot to OR into, and the flags; 4 + 8 bits; 07 R193; in flight only -/
  slot : Nat := 0
  flags : BitVec 8 := 0
  deriving DecidableEq, Repr, Inhabited

/-- Where a pacing instruction holds an engine (R172). -/
inductive Pace where
  /-- Not held. -/
  | run
  /-- Held in YIELD: number y, offset J in epochs from the anchor, STEP flag. -/
  | yieldAt (y j : Nat) (step : Bool)
  /-- Stopped at a yield point, with its number (R179, R180). -/
  | stopped (y j : Nat)
  /-- Held in SYNC b (R174). -/
  | syncAt (b : Nat)
  /-- Stopped at SYNC b by a PREEMPT (R176). -/
  | stoppedSync (b : Nat)
  deriving DecidableEq, Repr, Inhabited

/-- An instruction held in an instruction queue: its word, and the bruise bit of its granule (R158, R219). -/
structure QWord where
  w : BitVec 64
  br : Bool := false
  deriving DecidableEq, Repr, Inhabited

/-- One engine's task and registers (R156, R157, R190). -/
structure Task where
  /-- The engine has a task; 1 bit; 06 R156; spec none -/
  present : Bool := false
  /-- Program counter, byte offset in W0; 32 bits; 06 R157, R158; choice 0 -/
  pc : BitVec 32 := 0
  /-- Instruction queue, by offset in W0 ÷ 8; 64 × 64 bits; 06 R158; choice empty -/
  iq : Tab (Option QWord) := []
  /-- Address registers a1–a7 (a0 reads 0); 7 × 32 bits; 07 R190; spec 0 (R190) -/
  areg : Tab (BitVec 32) := []
  /-- Loop counters l0–l3; 4 × 17 bits; 07 R190; spec 0 (R190) -/
  lctr : Tab Nat := []
  /-- Pacing base PB; 64 bits; 07 R190; spec 0 (R190) -/
  pb : BitVec 64 := 0
  /-- Yield counter y; natural; 07 R190; spec 0 (R190) -/
  yctr : Nat := 0
  /-- Yield base, offset J of the last yield point passed, in epochs; natural; 07 R190; spec 0 (R190) -/
  ybase : Nat := 0
  /-- Window registers W0–W7; 8 × 64 bits; 06 R160; spec 0 (R160) -/
  win : Tab (BitVec 64) := []
  /-- Status slots; 16 × 8 bits; 03 R89; spec 0 (R89, R157) -/
  status : Tab (BitVec 8) := []
  /-- Flags ORed in the present slot, which join the status slots when it ends; 16 × 8 bits; 07 R193; spec none -/
  statNew : Tab (BitVec 8) := []
  /-- Token-mask table; 64 × 32 bits; 07 R185; choice 0 -/
  masks : Tab (BitVec 32) := []
  /-- Generator registers; see Gen; 07 R190; spec 0 (R190) -/
  gen : Gen := {}
  /-- MCFG activation format AFMT; 4 bits; 07 R203; spec 0 (R190, R204) -/
  afmt : BitVec 4 := 0
  /-- MCFG status slot; 4 bits; 07 R203; spec 0 (R190) -/
  mslot : BitVec 4 := 0
  /-- DCFG state; see Dcfg; 07 R205; spec 0 (R190) -/
  dcfg : Dcfg := {}
  /-- First slot in which the engine may issue again; slot count; 07 R195; choice 0 -/
  ready : Nat := 0
  /-- The interlock that holds the next instruction has been counted; 1 bit; 06 R167; choice 0 -/
  held : Bool := false
  /-- Pacing hold; see Pace; 06 R172; choice run -/
  pace : Pace := .run
  /-- Instructions in flight; list of Flight; 06 R166; choice none -/
  flights : List Flight := []
  deriving DecidableEq, Repr, Inhabited

/-- One accumulator entry: its value and its sticky flags (R107). -/
structure AccEntry where
  /-- Value, 48-bit two's complement or W128, sign-extended; 128 bits; 04 R107; spec 0 (R222) -/
  v : BitVec 128 := 0
  /-- Entry flags NV, WO, WU, NR in the bits of R89; 8 bits; 04 R107; spec 0 (R222) -/
  fl : BitVec 8 := 0
  /-- Written by a 16-bit pass: a W128 value; 1 bit; 04 R107; choice 0 -/
  wide : Bool := false
  deriving DecidableEq, Repr, Inhabited

/-- An instruction that moves one unit a slot, in progress (R200, R201, R206 to R209, R217, R233): the units that are still to
be moved, with the settings it latched at issue (R192). -/
structure Prog where
  /-- 0 LACT, 1 LSCL, 2 VLD, 3 VST, 4 DRN, 5 DSND, 6 LD, 7 ST, 8 CADD, 9 SSEND, 10 SRECV, 11 STRM, 12 DFLG and SFLG; 4 bits; 07 R200
  to R217; in progress only -/
  kind : Nat
  /-- The instruction word; 64 bits; 07 R183; in progress only -/
  w : BitVec 64
  /-- The next unit and the number of units; naturals; 07 R200 to R209; in progress only -/
  idx : Nat := 0
  n : Nat
  /-- Slot of unit 0, slots from a unit to the next; or each unit's slot on the wheel; slot counts; 08 R233; in progress only -/
  t : Nat
  step : Nat := 1
  slots : List Nat := []
  /-- The data comes from the receive queue, a unit as its flits arrive; 1 bit; 06 R171; in progress only -/
  rq : Bool := false
  /-- First on-die byte, bytes in all, and first line, entry, register or accumulator row; naturals; 07 R200 to R209; in progress only -/
  oda : Nat := 0
  total : Nat := 0
  first : Nat := 0
  /-- Bytes gathered for the next register or flit, their number, and the bruise bits of their granules; up to 256 B; 07 R206, 08 R233;
  in progress only -/
  buf : Nat := 0
  blen : Nat := 0
  bbr : Nat := 0
  /-- Registers and flits made so far; natural; 08 R233; in progress only -/
  item : Nat := 0
  /-- DCFG, generator registers and policy latched at issue (R192); see Dcfg, Gen; 07 R192; in progress only -/
  dcfg : Dcfg := {}
  gen : Gen := {}
  policy : Nat := 0
  /-- Flags raised so far; 8 bits; 07 R206; in progress only -/
  flags : Nat := 0
  /-- Post mask, and the slots from the last unit to completion; 16 bits, natural; 06 R166; in progress only -/
  post : BitVec 16 := 0
  lat : Nat
  /-- The interlock that holds the next unit has been counted; 1 bit; 06 R167; in progress only -/
  held : Bool := false
  deriving DecidableEq, Repr, Inhabited

/-- A write of a vector register that lands in a later slot (R135, R140, R209). -/
structure VWrite where
  /-- First slot in which the register may be read; slot count; 05 R140, R141; in flight only -/
  due : Nat
  reg : Nat
  /-- Made by LOAD, not by VEC; 1 bit; 05 R135; in flight only -/
  ld : Bool := false
  /-- Bits [lo + len − 1 : lo] take the value; naturals; 07 R212; in flight only -/
  lo : Nat := 0
  len : Nat := 2048
  v : Nat
  /-- Bruise bits of the four granules, and which of them the write sets; 2 × 4 bits; 05 R146; in flight only -/
  br : Nat := 0
  brSel : Nat := 15
  deriving DecidableEq, Repr, Inhabited

/-- Source of a stationary load, by which it is repeated (R121, R132, R202). -/
structure StatSrc where
  /-- First byte of the window in core memory, offset of the header, and the window word; offsets, 64 bits; 07 R202; set by LSTAT -/
  base : Nat
  off : Nat
  win : Nat
  /-- WFMT and TR; 4 + 1 bits; 07 R202; set by LSTAT -/
  fmt : Nat
  tr : Bool
  deriving DecidableEq, Repr, Inhabited

/-- A stationary load in progress: LSTAT's, a replay's or a restore's (R108, R121, R132). -/
structure StatLoad where
  src : StatSrc
  /-- Slot of row 0, and the next row; slot count, 0 to 63; 04 R108; in progress only -/
  t : Nat
  row : Nat := 0
  /-- Pass for whose replay the load is repeated, number + 1, 0 for none; natural; 04 R121; in progress only -/
  pass : Nat := 0
  deriving DecidableEq, Repr, Inhabited

/-- The stationary register set with its scales, check weights and source (R108, R109, R202). -/
structure StatSet where
  /-- Format WFMT; 4 bits; 07 R202; set by LSTAT -/
  fmt : BitVec 4
  /-- The expansion checks of R296 passed; 1 bit; 10 R296; set by LSTAT -/
  valid : Bool
  /-- Encodings of the stationary elements by 64k + j; up to 128 × 64 × 16 bits; 04 R103, R104; set by LSTAT -/
  elts : Tab (BitVec 16)
  /-- Weight-scale register by 4j + block; 256 × 8 bits; 04 R109; set by LSTAT -/
  scales : Tab (BitVec 8)
  /-- Check weights c₀[k] and c₁[k]; 2 × 128 × 48 bits; 04 R117; set by LSTAT -/
  c0 : Tab Int
  c1 : Tab Int
  /-- Gated 8 × 8 blocks by 8 × row block + lane block (zero-block map); 64 bits; 04 R116; set by LSTAT -/
  zero : List Nat
  /-- A source granule was bruised; 1 bit; 04 R125; set by LSTAT -/
  bruised : Bool
  /-- Source, for replay and restore; see StatSrc; 04 R121, R132; set by LSTAT -/
  src : StatSrc
  /-- Slot of row 63; slot count; 04 R109; set by LSTAT -/
  done : Nat
  deriving DecidableEq, Repr, Inhabited

/-- A pass between its first entry and its last verdict (R111, R112, R204), with what it latched and the activation lines
that the array has read. -/
structure PassRun where
  /-- Pass number, counted by the task; natural; 04 R121; in flight only -/
  num : Nat
  /-- Stationary set; see StatSet; 04 R108; in flight only -/
  stat : StatSet
  /-- AFMT, ANCH, OVERWRITE mode, status slot; 4 + 8 + 1 + 4 bits; 07 R204; in flight only -/
  afmt : Nat
  anch : Nat
  ovw : Bool
  slot : Nat
  /-- First accumulator row, base line, vectors; naturals; 07 R204; in flight only -/
  row : Nat
  base : Nat
  nv : Nat
  /-- Slot of the first entry, and entry slots per vector; naturals; 04 R112, R130; in flight only -/
  t : Nat
  step : Nat
  /-- Spot-checked pass; 1 bit; 04 R130; in flight only -/
  spot : Bool := false
  /-- Lines and side entries read so far, in order; lists; 04 R105, R106; in flight only -/
  lines : List (BitVec 1024) := []
  sides : List (BitVec 32) := []
  /-- Vectors not yet added; natural; 04 R120; in flight only -/
  left : Nat
  deriving DecidableEq, Repr, Inhabited

/-- A vector in the array, from its entry to its verdict (R112, R120). -/
structure VecEntry where
  /-- Pass number and vector; naturals; 04 R111, R121; in flight only -/
  pass : Nat
  v : Nat
  /-- Slot of the verdict; slot count; 04 R112, R120; in flight only -/
  due : Nat
  /-- 1 when the vector is being replayed; natural; 04 R121; in flight only -/
  attempt : Nat := 0
  /-- δ₀ and δ₁ of the verdict that failed; two integers; 13 R583; in flight only -/
  d0 : Int := 0
  d1 : Int := 0
  /-- Of a replayed vector: slot of its entry, and the lines and side entry read since; slot count, lists; 04 R121; in flight only -/
  ent : Nat := 0
  rl : List (BitVec 1024) := []
  rside : BitVec 32 := 0
  /-- A later OVERWRITE pass has replaced its row, so that its addends are replaced too; 1 bit; 04 R124; in flight only -/
  void : Bool := false
  deriving DecidableEq, Repr, Inhabited

/-- One core: its engines, token queues, flit queues, operand buffers and registers. -/
structure Core where
  /-- Tasks by engine code (R370); see Task; 06 R155; spec none -/
  tasks : Tab Task := []
  /-- Token counts T0–T15; 16 × 6 bits; 06 R163; spec the image's values, 0 before (R157) -/
  tok : Tab Nat := []
  /-- Tokens posted in the present slot, which join the counts when it ends; 16 × 6 bits; 06 R164, R165; spec none -/
  tokNew : Tab Nat := []
  /-- Declared producer and consumer of each token queue, engine code + 1, 0 undeclared; 16 × 3 bits; 06 R163; spec undeclared -/
  tokProd : Tab Nat := []
  tokCons : Tab Nat := []
  /-- Send queue, oldest first; 32 flits; 05 R152; spec empty (R157) -/
  sendq : List Flit := []
  /-- Slot in which each send-queue flit was written; slot counts; 06 R169; spec empty -/
  sendAt : List Nat := []
  /-- The sending engine is held because its flits do not fit in the send queue; 1 bit; 06 R167; choice 0 -/
  full : Bool := false
  /-- Receive queue, oldest first; 32 flits; 05 R152; spec empty (R157) -/
  recvq : List Flit := []
  /-- Slot in which each receive-queue flit arrived; slot counts; 06 R171; spec empty -/
  recvAt : List Nat := []
  /-- Exchange flits on their way: due slot, target core, flit; list; 05 R153; choice none -/
  exch : List (Nat × Nat × Flit) := []
  /-- A send was late: every later departure is a bruised zero flit; 1 bit; 06 R170; choice 0 -/
  late : Bool := false
  /-- The core's engines are stopped (R122); 1 bit; 04 R122; choice 0 -/
  halted : Bool := false
  /-- Engines that have faulted in the present slot, at whose end every engine of the core stops; 6 bits; 07 R219, 04 R122; choice none -/
  faulted : List Nat := []
  /-- Interlock engagements; 64 bits; 22 CORE[b,c] +0, R167; spec 0 (R556) -/
  ilk : BitVec 64 := 0
  /-- TOKEN_WAIT cycles; 64 bits; 22 CORE[b,c] +8, R164; spec 0 (R556) -/
  twait : BitVec 64 := 0
  /-- Activation buffer by byte; 64 KiB; 04 R105; spec 0 (R222) -/
  act : Tab (BitVec 8) := []
  /-- Bruise bits of the activation buffer by granule; 1,024 bits; 08 R223; spec 0 (R222) -/
  actBr : Tab Bool := []
  /-- Scale side array; 1,024 × 32 bits; 04 R106; spec 0 (R222) -/
  side : Tab (BitVec 32) := []
  /-- Bruise bits of the side array by granule; 64 bits; 08 R223; spec 0 (R222) -/
  sideBr : Tab Bool := []
  /-- Stationary register set, or none; see StatSet; 04 R108; spec none (R222) -/
  stat : Option StatSet := none
  /-- Accumulator buffer by 64 × row + lane; 256 KiB with entry flags; 04 R107; spec 0 (R222) -/
  acc : Tab AccEntry := []
  /-- Bruise bits of the accumulator buffer by granule; 4,096 bits; 08 R223; spec 0 (R222) -/
  accBr : Tab Bool := []
  /-- Vectors in the array and in replay; list of VecEntry; 04 R112; choice none -/
  pipe : List VecEntry := []
  /-- Vectors that wait for a replay; list of VecEntry; 04 R121; choice none -/
  failed : List VecEntry := []
  /-- 1 + slot of the verdict that began a replay not yet scheduled, 0 for none; slot count; 04 R121; choice none -/
  replay : Nat := 0
  /-- Source of the stationary set that was loaded when the replay began; see StatSrc; 04 R121; choice none -/
  replaySet : Option StatSrc := none
  /-- Pending accumulator rows: pass number and row; list; 06 R168; choice none -/
  pendRows : List (Nat × Nat) := []
  /-- Stationary loads in progress and to come, in order; see StatLoad; 04 R108, R121; choice none -/
  loads : List StatLoad := []
  /-- Source of the last stationary load that LOAD completed, or none; see StatSrc; 04 R132; choice none -/
  lastStat : Option StatSrc := none
  /-- Unit-by-unit instructions in progress, by engine code; see Prog; 07 R200 to R209; choice none -/
  prog : Tab (Option Prog) := []
  /-- Passes from first entry to last verdict, oldest first; see PassRun; 04 R111; choice none -/
  passes : List PassRun := []
  /-- Vector register writes that have not landed, oldest first; see VWrite; 05 R135; choice none -/
  vwr : List VWrite := []
  /-- The slot after the last entry of the latest pass, 0 for none; slot count; 04 R110; choice 0 -/
  entered : Nat := 0
  /-- Passes begun by the task, which R130 counts; natural; 04 R130; spec 0 at task start -/
  spot : Nat := 0
  /-- Vector registers v0–v511; 512 × 2,048 bits; 05 R134; spec 0 (R222) -/
  vreg : Tab (BitVec 2048) := []
  /-- Bruise bits of a vector register's four granules; 512 × 4 bits; 05 R146; spec 0 (R222) -/
  vbr : Tab (BitVec 4) := []
  /-- First slot in which a vector register may be read; slot counts; 05 R141; choice 0 -/
  vrdy : Tab Nat := []
  /-- Quads whose latest writer is WACC or WADD, whose running sum the adder forwards; 128 bits; 05 R143; choice none -/
  vfwd : Tab Bool := []
  /-- Scalar registers x1–x63 (x0 reads 0); 63 × 64 bits; 05 R147; choice 0 -/
  x : Tab (BitVec 64) := []
  /-- First slot in which a scalar register may be read; slot counts; 05 R147; choice 0 -/
  xrdy : Tab Nat := []
  /-- Failed physical columns in the mapping in force; up to 66; 04 R126; choice none -/
  cols : List Nat := []
  /-- CONDEMNED and awaiting remap; 1 bit; 14 R397 PEND; choice 0 -/
  condemned : Bool := false
  /-- CHECK_TRANSIENT events of the last 24 hours: located lane or none, and the reference tick; list; 13 R367; choice none -/
  transients : List (Option Nat × Nat) := []
  deriving DecidableEq, Repr, Inhabited

/-! ## Fields -/

/-- Activity of a field (R17, R18). -/
inductive Activity where
  | running | rested | sleeping
  deriving DecidableEq, Repr, Inhabited

/-- Causes of the slot gate, in the order and coding of R38 and R60. -/
inductive HoldCause where
  | none | refLoss | thermal | commitWait | ready | seamIn | seamSpace
  deriving DecidableEq, Repr, Inhabited

/-- A change staged in a participant (R65, R67). -/
structure Staged where
  csn : BitVec 16
  kind : CommitKind
  arg : BitVec 64
  /-- Commit epoch E. -/
  epoch : Nat
  decided : Bool := false
  deriving DecidableEq, Repr, Inhabited

/-- Power state of a segment or bank (R236), and the job that left it in RETAIN (R239). -/
structure SegSt where
  /-- 0 OFF, 1 RETAIN, 2 ON; 2 bits; 08 R236, R237; choice OFF -/
  st : Nat := 0
  /-- State before a REST commit, to return to at WAKE; 2 bits; 08 R238; choice 0 -/
  was : Nat := 0
  /-- ASID whose data it holds, 0 for none; 6 bits; 08 R239, R240; choice 0 -/
  owner : Nat := 0
  deriving DecidableEq, Repr, Inhabited

/-- One entry of a seam buffer: its departure slot and the flit, if the slot carries one (R42). -/
structure SeamEntry where
  dep : Nat
  flit : Option Flit
  deriving DecidableEq, Repr, Inhabited

/-- State of a stream (R263, R270). -/
inductive StreamSt where
  | unarmed | active | faulted | done
  deriving DecidableEq, Repr, Inhabited

/-- One stream with its resume record (R270), its fetched descriptors and its counters. -/
structure Stream where
  /-- STATE; 3 bits; 09 R270; choice unarmed -/
  st : StreamSt := .unarmed
  /-- PERSIST; 1 bit; 09 R270; choice 0 -/
  persist : Bool := false
  /-- LISTODA; 1 bit; 09 R270; choice 0 -/
  listOda : Bool := false
  /-- PEND, a RE-ARM is pending; 1 bit; 09 R270; choice 0 -/
  pend : Bool := false
  /-- FKIND; 8 bits; 09 R270; choice 0 -/
  fkind : Nat := 0
  /-- NBSEL and pending NBSEL; 2 × 2 bits; 09 R270; choice 0 -/
  nbsel : Nat := 0
  pnbsel : Nat := 0
  /-- T0 and pending T0, epochs from the schedule anchor; 2 × 32 bits; 09 R270; choice 0 -/
  t0 : Nat := 0
  pt0 : Nat := 0
  /-- LIST, address of the first punnet; 64 bits; 09 R270; choice 0 -/
  list : BitVec 64 := 0
  /-- FARBASE and pending FARBASE; 2 × 64 bits; 09 R270; choice 0 -/
  farbase : BitVec 64 := 0
  pfarbase : BitVec 64 := 0
  /-- DIDX, index of the resume descriptor; 20 bits; 09 R270; choice 0 -/
  didx : Nat := 0
  /-- BOFF, resume block within that descriptor; 32 bits; 09 R270; choice 0 -/
  boff : Nat := 0
  /-- FDVA, faulting DVA; 64 bits; 09 R270; choice 0 -/
  fdva : Nat := 0
  /-- Descriptors held, from index `base` on: the current punnet and the next; up to 32 × 512 bits; 09 R260; choice none -/
  descs : List (BitVec 512) := []
  base : Nat := 0
  /-- The descriptor `didx` has begun; 1 bit; 09 R272; choice 0 -/
  begun : Bool := false
  /-- The next block of the descriptor to issue; natural; 09 R268; choice 0 -/
  next : Nat := 0
  /-- Blocks of the descriptor that has begun; natural; 09 R257, R258; choice 0 -/
  total : Nat := 0
  /-- Blocks of the descriptor written or acknowledged; natural; 09 R258; choice 0 -/
  moved : Nat := 0
  /-- A RELEASE waits for the transfers in flight; 1 bit; 09 R263; choice 0 -/
  releasing : Bool := false
  /-- Stopped at a yield point: no further block issues; 1 bit; 09 R271; choice 0 -/
  draining : Bool := false
  /-- Underrun cycles; 64 bits; 22 STREAM[s] +0, R274; spec 0 (R556) -/
  ucyc : BitVec 64 := 0
  /-- Underrun events; 64 bits; 22 STREAM[s] +8, R274; spec 0 (R556) -/
  uev : BitVec 64 := 0
  /-- DUE of the list's last descriptor that has completed; 32 bits; 09 R258; choice 0 -/
  lastDue : Nat := 0
  /-- Marked by the readiness check at the current boundary; 1 bit; 09 R273; choice 0 -/
  marked : Bool := false
  deriving DecidableEq, Repr, Inhabited

/-- A transfer in flight, holding a tag (R249). -/
structure Transfer where
  tag : Nat
  stream : Nat
  didx : Nat
  block : Nat
  asid : Nat
  /-- 0 read (GET), 1 write (PUT, PUTZ). -/
  write : Bool
  /-- TARGET of the translated block (R266), its far physical address, its near ODA, and the partner context. -/
  target : Nat
  far : Nat
  oda : Nat
  ctx : Nat := 0
  /-- The page is MIRROR, and the interval number of the block (R407). -/
  mirror : Bool := false
  iv : Nat := 0
  /-- The data a rind unit has read and holds ready, or the data on its way out (R255, R256). -/
  body : Option BlockData := none
  /-- Carrier channel record by which it came, 64 × bank + channel + 1, 0 for none. -/
  chan : Nat := 0
  /-- The block has been requested a second time (R256). -/
  retried : Bool := false
  /-- The block stands in the landing buffer (R250); of a write, the far end has it. -/
  landed : Bool := false
  /-- A punnet fetch, of punnet `block` (R249, R260). -/
  punnet : Bool := false
  /-- Its failure has been reported against the CXL chiplet (R469). -/
  told : Bool := false
  /-- 128-byte pieces written from the landing buffer, or read on-die (R250). -/
  moved : Nat := 0
  /-- The rind unit has its request record (R254). -/
  known : Bool := false
  deriving DecidableEq, Repr, Inhabited

/-- A request burst, which holds a tag until the rind unit has taken its last record (R249, R254). -/
structure ReqBurst where
  /-- Transfer tag; 11 bits; 09 R249; in flight only -/
  tag : Nat
  /-- Logical engine that sends it, and die of the rind unit; 4 and 6 bits; 09 R252, R254; in flight only -/
  se : Nat
  die : Nat
  /-- Tags whose records it carries and the rind unit has yet to take; up to 256; 09 R254; in flight only -/
  recs : List Nat
  /-- Records that it carries in all; natural; 09 R254; in flight only -/
  size : Nat
  deriving DecidableEq, Repr, Inhabited

/-- A burst on a carrier channel: 33 flits, one in each slot of the channel (R253, R254). -/
structure Carry where
  /-- Channel; 6 bits; 09 R252; in flight only -/
  chan : Nat
  /-- Tag of the transfer, or of the request burst; 11 bits; 09 R254; in flight only -/
  tag : Nat
  /-- First slot in which its first flit can stand at the tap; slot count; 09 R251; in flight only -/
  from_ : Nat
  /-- Flits that the tap has yet to take or to write; 6 bits; 09 R254; in flight only -/
  left : Nat := 33
  /-- 1 + slot of its last flit at the tap, 0 before; slot count; 09 R251; in flight only -/
  done : Nat := 0
  deriving DecidableEq, Repr, Inhabited

/-- A scrub visit of one granule (R244). -/
structure Scrub where
  /-- Granule, ODA ÷ 64; 34 bits; 08 R244; in flight only -/
  granule : Nat
  /-- 1 + slot in which it was read, its write-back being due, 0 before; slot count; 08 R244; in flight only -/
  read : Nat := 0
  deriving DecidableEq, Repr, Inhabited

/-- A translation-cache entry, tagged by ASID (R248). -/
structure TlbEntry where
  asid : Nat
  dva : Nat
  size : Nat
  pte : BitVec 64
  deriving DecidableEq, Repr, Inhabited

/-- A walk-cache entry: the node that a walk reaches below a level, tagged by ASID (R248). -/
structure WalkEntry where
  asid : Nat
  /-- Level of the node, 4 for L4 to 1 for L1. -/
  level : Nat
  /-- First DVA and bytes of DVA that the node covers. -/
  dva : Nat
  size : Nat
  node : Nat
  deriving DecidableEq, Repr, Inhabited

/-- A predictor-variant change, or a step confirmation, that a field holds decided (R311, R313). -/
structure KvarHold where
  asid : Nat
  layer : Nat
  kvar : Nat
  ts : Nat
  epoch : Nat
  deriving DecidableEq, Repr, Inhabited

/-- Condition, ownership and test state of a field. -/
structure FieldCond where
  /-- FENCED; 1 bit; 01 R17; spec 0 (FIELD_STATUS reset SLEEPING) -/
  fenced : Bool := false
  /-- FCAUSE, fence cause (R495); 8 bits; 22 FIELD_STATUS; spec 0 -/
  fcause : Nat := 0
  /-- RETIRED; 1 bit; 01 R17; spec 0 -/
  retired : Bool := false
  /-- ACTIVITY; 2 bits; 01 R18; spec sleeping (22 FIELD_STATUS reset 2) -/
  act : Activity := .sleeping
  /-- OWNER, ASID of the owning job; 6 bits; 22 FIELD_STATUS; spec 0 -/
  owner : Nat := 0
  /-- ASIDs of jobs that lease the field as transit; list; 12 R329; spec none -/
  leases : List Nat := []
  /-- Starts of the oscillator that have not locked, 0 to 2; natural; 19 R511; choice 0 -/
  oscTry : Nat := 0
  /-- OSC_FAIL; 1 bit; 22 FIELD_STATUS, R511; spec 0 -/
  oscFail : Bool := false
  /-- Rate-code-32 pass of self-test pending (ATSPEED); 1 bit; 20 R530, R532; choice 0 -/
  atSpeed : Bool := false
  /-- Held from placement until a diagnosis completes; 1 bit; 13 R365; choice 0 -/
  diagHold : Bool := false
  /-- Held from placement until self-test has run; 1 bit; 13 R366; choice 0 -/
  testHold : Bool := false
  /-- A remap of the field is due before it is placed; 1 bit; 14 R384; choice 0 -/
  remapDue : Bool := false
  /-- Thermal trips since the yield map last cleared it; natural; 18 R493; choice 0 -/
  trips : Nat := 0
  /-- Controller unpowered: stops answering (R494); 1 bit; 18 R494; choice 0 -/
  dead : Bool := false
  deriving DecidableEq, Repr, Inhabited

/-- Slot count, gate and commit state of a field. -/
structure FieldClock where
  /-- Slot count S (FIELD_SLOT); 60 bits; 02 R34; spec 0 (22 R556) -/
  slot : Nat := 0
  /-- The field's own count N in eighths of a slot, loaded as ⌊N⌋ when it leaves SLEEPING; natural; 02 R33; choice 0 -/
  n8 : Nat := 0
  /-- K, rate code in force; 6 bits; 22 FIELD_STATUS; spec 0 -/
  k : Nat := 0
  /-- HOLD; 3 bits; 22 FIELD_STATUS, 02 R38; spec none -/
  hold : HoldCause := .none
  /-- THERMAL hold requested by the junction sensors; 1 bit; 18 R491; choice 0 -/
  thermal : Bool := false
  /-- Staged and decided changes, in CSN order; at most 8 decided; 02 R65, R66; choice none -/
  staged : List Staged := []
  /-- The boundary checks of the present slot have been made once (streams marked); 1 bit; 09 R274; choice 0 -/
  checked : Bool := false
  /-- Index of the oscillator cycle in the governor's 32; 5 bits; 18 R481; choice 0 -/
  cyc : Nat := 0
  /-- HOLD_REF_LOSS; 64 bits; 22 Field block; spec 0 -/
  hRef : BitVec 64 := 0
  /-- HOLD_THERMAL; 64 bits; 22 Field block; spec 0 -/
  hTherm : BitVec 64 := 0
  /-- HOLD_COMMIT_WAIT; 64 bits; 22 Field block; spec 0 -/
  hCommit : BitVec 64 := 0
  /-- HOLD_READY; 64 bits; 22 Field block; spec 0 -/
  hReady : BitVec 64 := 0
  /-- HOLD_SEAM_IN; 64 bits; 22 Field block; spec 0 -/
  hSeamIn : BitVec 64 := 0
  /-- HOLD_SEAM_SPACE; 64 bits; 22 Field block; spec 0 -/
  hSeamSpace : BitVec 64 := 0
  /-- BUBBLES; 64 bits; 22 Field block, 02 R35; spec 0 -/
  bubbles : BitVec 64 := 0
  /-- GOVERNOR, suppressed cycles; 64 bits; 22 Field block, 18 R481; spec 0 -/
  suppressed : BitVec 64 := 0
  deriving DecidableEq, Repr, Inhabited

/-- Power, thermal and ageing state of a field. -/
structure FieldPower where
  /-- Governor duty d; 6 bits; 18 R481, 22 FIELD_POWER; spec 0 (Reset column), 32 on entering ACTIVE -/
  duty : Nat := 0
  /-- The previous 20 µs sample showed d below 32; 1 bit; 18 R483; choice 0 -/
  lowDuty : Bool := false
  /-- Cap that the field has applied, in 50 W steps; 9 bits; 18 R480; spec 0 -/
  cap : Nat := 0
  /-- Calibrated estimate over the last calibration period, W; 16 bits; 22 FIELD_POWER; spec 0 -/
  est : Nat := 0
  /-- Latest 4 µs governor estimate P, mW; natural; 18 R481; choice 0 -/
  now : Nat := 0
  /-- Scale factor of each rail in thousandths; 3 values; 18 R487; choice 0 (an entry of 0 reads as 1.000) -/
  scale : Tab Nat := []
  /-- Calibrated energy of each rail in the last calibration period, mJ; 3 values; 18 R487; choice 0 -/
  railE : Tab Nat := []
  /-- Core-rail current samples of the last 2 µs, newest first; 100 values; 18 R477; choice none -/
  amps : List Nat := []
  /-- Voltage sensors at the last sample, mV; 16 values; 01 R16, 18 R475; choice none -/
  volts : List Nat := []
  /-- Core-rail setpoint as the ramp has it, and the regulator's output, in tenths of a mV; 14 bits each; 18 R475, R476; choice 0 -/
  ramp : Nat := 0
  drive : Nat := 0
  /-- Frequency floor engaged; 1 bit; 18 R477; choice 0 -/
  floorOn : Bool := false
  /-- FLOOR, engagements; 64 bits; 22 Field block; spec 0 -/
  floors : BitVec 64 := 0
  /-- In the lowest state of R489; 1 bit; 18 R489; choice 0 -/
  low : Bool := false
  /-- Core-rail voltage target, mV; 10 bits; 18 R476; choice 0 -/
  target : Nat := 0
  /-- SETPOINT given by POWER_CMD, mV, 0 for none; 10 bits; 18 R498; choice 0 -/
  setpoint : Nat := 0
  /-- Guard band G, mV, 0 reading as 40; 8 bits; 14 R394; spec 40 -/
  guard : Nat := 0
  /-- A raise of G that waits for the job boundary, mV; 8 bits; 14 R394, R399; choice 0 -/
  guardDue : Nat := 0
  /-- Rails on: [0] core, [1] SRAM, [2] transit; 3 bits; 18 R498, 01 R17; choice 0 -/
  rails : BitVec 3 := 0
  /-- Disabled core-rail phases; list of 0–25; 18 R498, 14 R382; choice none -/
  phasesOff : List Nat := []
  /-- Junction sensors, °C; 8 values; 18 R491; choice none -/
  temps : List Int := []
  /-- HOT, hottest sensor; 8 bits; 22 FIELD_STATUS; spec 0 -/
  hot : Nat := 0
  /-- Milliseconds for which the hottest sensor has been ≥ 95, ≥ 105 and ≤ 90 °C; naturals; 18 R491, R492; choice 0 -/
  ms95 : Nat := 0
  ms105 : Nat := 0
  ms90 : Nat := 0
  /-- Firmware has lowered k for the THERMAL hold in force; 1 bit; 18 R491; choice 0 -/
  lowered : Bool := false
  /-- The field is rested for heat; 1 bit; 18 R492; choice 0 -/
  heatRest : Bool := false
  /-- Milliseconds until R491 may lower k again; natural; 18 R491; choice 0 -/
  lowerIn : Nat := 0
  /-- Milliseconds since a sensor read ≥ 95 °C, saturating at 100; natural; 18 R483; choice 0 -/
  cool : Nat := 0
  /-- Activity counters of R486; 7 × 64 bits; 18 R486; choice 0 -/
  counts : Tab (BitVec 64) := []
  /-- Snapshot registers; 7 × 64 bits; 18 R498; choice 0 -/
  snap : Tab (BitVec 64) := []
  /-- FIELD_ENERGY, mJ; 64 bits; 22 Power block; spec 0 -/
  energy : BitVec 64 := 0
  /-- Ageing samples of each monitor, newest first; 4 × 64 values; 14 R393; choice none -/
  samples : Tab (List Nat) := []
  /-- DRIFT as last written to the capacity map; 8 bits; 14 R397; choice 0 -/
  drift : Nat := 0
  /-- Drift at each monitor's last margin test, 0 for none; 4 values; 14 R395; choice 0 -/
  tested : Tab Nat := []
  /-- A margin test of each monitor is due; 4 bits; 14 R395; choice 0 -/
  testDue : List Nat := []
  deriving DecidableEq, Repr, Inhabited

/-- A write of on-die memory that is under way: it is made at the end of its slot, after every read of that slot (R225). -/
structure DieWrite where
  /-- Slot in which the write is made; slot count; 08 R224, R233; in flight only -/
  due : Nat
  /-- Core + 1 whose engine writes, 0 for a stream, and the stream; naturals; 08 R226; in flight only -/
  core : Nat := 0
  stream : Nat := 0
  /-- First byte, number of bytes and their value; ODA, naturals; 08 R233; in flight only -/
  oda : Nat
  n : Nat
  v : Nat
  /-- Bruise bits of the granules, where the write carries them; natural; 13 R357; in flight only -/
  mask : Option Nat := none
  /-- The value is added to the 8 bytes there (CADD); 1 bit; 05 R150; in flight only -/
  add : Bool := false
  /-- Bits that are written, where not every bit is (SKEW64); natural; 09 R259; in flight only -/
  bits : Option Nat := none
  deriving DecidableEq, Repr, Inhabited

/-- Segments, banks and wheels of a field. -/
structure FieldMem where
  /-- Segments by 8 × (8 × bunch + core) + n; 36 × 58 × 2 bits; 08 R236; choice OFF -/
  seg : Tab SegSt := []
  /-- Logical banks; 64 × 2 bits; 08 R236; choice OFF -/
  bank : Tab SegSt := []
  /-- Wheel tables by 16 × bank + position; 64 × 16 × 16 bits; 08 R231; choice 0 (idle) -/
  wheel : Tab (BitVec 16) := []
  /-- Corrected-error count of each segment and bank; naturals; 08 R245; choice 0 -/
  ce : Tab Nat := []
  /-- SCRUB_LAG; 64 bits; 22 Field block, 08 R244; spec 0 -/
  scrubLag : BitVec 64 := 0
  /-- Writes of core and shared memory under way, oldest first; see DieWrite; 08 R224, R225; choice none -/
  wr : List DieWrite := []
  /-- Scrub visits under way, oldest first; see Scrub; 08 R244; choice none -/
  scrub : List Scrub := []
  /-- Granules visited in the present scrub round, and the slot in which it began; list by ODA ÷ 64, slot count; 08 R244; choice none, 0 -/
  seen : Tab Bool := []
  round : Nat := 0
  deriving DecidableEq, Repr, Inhabited

/-- A request flit that a REQ tap has taken (R253, R262). -/
structure ReqTaken where
  /-- Slot in which the tap took it; slot count; 09 R262; in flight only -/
  at_ : Nat
  /-- Core + 1 whose STRM sent it, 0 for a flit that no STRM sent; natural; 09 R262; in flight only -/
  src : Nat
  /-- The flit; 1,024 bits; 09 R261; in flight only -/
  data : BitVec 1024
  deriving DecidableEq, Repr, Inhabited

/-- Routers, seams and carrier channels of a field. -/
structure FieldNet where
  /-- Route words by (((asid × 36 + bunch) × 2 + plane) × 2 + bank) × 4,096 + index; 32 bits each; 02 R47; choice 0 -/
  route : Tab (BitVec 32) := []
  /-- Period P of each bank by (2 × asid + plane) × 2 + bank; 13 bits; 02 R47; choice 0 -/
  period : Tab Nat := []
  /-- Active bank by 2 × asid + plane; 1 bit; 02 R47; choice 0 -/
  bank : Tab Nat := []
  /-- Slot at which the index is 0, by 2 × asid + plane; slot count; 02 R47; choice 0 -/
  base : Tab Nat := []
  /-- ASIDs whose route words forward nothing (halted, in a barrier, not started); list; 02 R41, 06 R175, 13 R362; choice none -/
  quiet : List Nat := []
  /-- Flit standing at each router input this slot, by (2 × bunch + plane) × 4 + port; 1,024 bits each; 02 R50; choice none -/
  link : Tab (Option Flit) := []
  /-- ASIDs for which the seam on side 0 N, 1 E, 2 S, 3 W is enabled; lists; 02 R41; choice none -/
  seam : Tab (List Nat) := []
  /-- Inbound seam buffers by 2 × crossing + plane, oldest first; 320 entries each; 02 R42; choice empty -/
  buf : Tab (List SeamEntry) := []
  /-- Isolation clamps closed; 1 bit; 18 R494; choice 0 -/
  clamped : Bool := false
  /-- Carrier channel records by 64 × bank + channel; 64 × 64 bits; 09 R252; choice 0 -/
  carrier : Tab (BitVec 64) := []
  /-- Slot maps by 64 × bank + channel, as lists of set indices; 64 × 4,096 bits; 09 R252; choice empty -/
  cmap : Tab (List Nat) := []
  /-- Landing credits that the rind unit of each channel holds; 64 × 6 bits; 09 R255; choice 0 -/
  cred : Tab Nat := []
  /-- Landing credits to return in the next OUT header, by channel; 64 × 6 bits; 09 R255; choice 0 -/
  credRet : Tab Nat := []
  /-- Request flits that a REQ tap has taken and the complex has not accepted; see ReqTaken; 09 R253, R262; choice none -/
  req : List ReqTaken := []
  /-- Bursts on the IN channels and on the OUT channels, oldest first; see Carry; 09 R253, R254; choice none -/
  inb : List Carry := []
  outb : List Carry := []
  /-- Flits of the burst under way that each IN channel, and each OUT channel, has carried; 64 × 6 bits each; 09 R254; choice 0 -/
  inAt : Tab Nat := []
  outAt : Tab Nat := []
  deriving DecidableEq, Repr, Inhabited

/-- The stream complex of a field. -/
structure FieldStream where
  /-- Streams 0–255; see Stream; 09 R248; choice unarmed -/
  str : Tab Stream := []
  /-- Transfers in flight, each with its tag; at most 2,048; 09 R249; choice none -/
  xfer : List Transfer := []
  /-- Request bursts under way; see ReqBurst; 09 R249, R254; choice none -/
  bursts : List ReqBurst := []
  /-- Shared translation cache; 4,096 entries, tagged by ASID; 09 R248; choice empty -/
  tlb : List TlbEntry := []
  /-- Translation cache of each logical engine; 16 × 32 entries; 09 R248; choice empty -/
  etlb : Tab (List TlbEntry) := []
  /-- Walk cache: nodes of the table, tagged by ASID; 256 entries; see WalkEntry; 09 R248; choice empty -/
  walks : List WalkEntry := []
  /-- Near-base sets by 4 × stream + NBSEL, ODA + 1, 0 undeclared; 41 bits each; 09 R261; choice undeclared -/
  nbase : Tab Nat := []
  /-- Stream lead L of the owning job; 7 bits; 09 R272; choice 0 -/
  lead : Nat := 0
  deriving DecidableEq, Repr, Inhabited

/-- A stem message that the scalar core of a bunch owes (R174, R179, R217, R407). -/
structure Owed where
  /-- Local bunch; 6 bits; 06 R174, R179; owed only -/
  bun : Nat
  /-- 0 YIELD_REPORT of a stop, 1 YIELD_REPORT at a mirror point, 2 BARRIER_ARRIVE; 2 bits; 06 R174, R179; owed only -/
  kind : Nat
  /-- ASID, and the yield point or barrier; 6 bits, natural; 06 R174, R179; owed only -/
  asid : Nat
  n : Nat
  /-- Slot in which it is sent, 0 while its condition is not met; slot count; 07 R217; owed only -/
  due : Nat := 0
  deriving DecidableEq, Repr, Inhabited

/-- What a field holds of the jobs in it, by ASID. -/
structure FieldJob where
  /-- Schedule anchor, in slots, by ASID; slot counts; 06 R157; choice 0 -/
  anchor : Tab Nat := []
  /-- Slot of the start or resume epoch before which the job's tasks do not issue; slot counts; 06 R157, 12 R352; choice 0 -/
  start : Tab Nat := []
  /-- 1 + epoch at which a PREEMPT applied, 0 for none; by ASID; 06 R179; choice 0 -/
  pre : Tab Nat := []
  /-- Interval number IV of MIRRORED jobs; by ASID; 15 R407; choice 0 -/
  iv : Tab Nat := []
  /-- Last mirror commit C recorded; by ASID; 15 R411; choice 0 -/
  commit : Tab Nat := []
  /-- Formats policy word in force; by ASID; 03 R87; choice 0 -/
  policy : Tab (BitVec 64) := []
  /-- Policy change that waits for a step boundary, word + 1, 0 for none; by ASID; 03 R102; choice 0 -/
  policyDue : Tab Nat := []
  /-- Decided predictor-variant changes and confirmations; list; 10 R313; choice none -/
  kvars : List KvarHold := []
  /-- 1 + release epoch E_r of a barrier that the controller has passed on, 0 for none; by ASID; 06 R174; choice 0 -/
  release : Tab Nat := []
  /-- Barrier number of that release; by ASID; 06 R174; choice 0 -/
  relBar : Tab Nat := []
  /-- Completed STEP yield points (the step in progress); by ASID; 10 R309; choice 0 -/
  step : Tab Nat := []
  /-- ASIDs that the field has halted (R362); list; 13 R362; choice none -/
  halted : List Nat := []
  /-- Stem messages that the scalar cores owe; see Owed; 07 R217; choice none -/
  owed : List Owed := []
  deriving DecidableEq, Repr, Inhabited

/-- One field. -/
structure Field where
  /-- see FieldCond -/
  cond : FieldCond := {}
  /-- see FieldClock -/
  clk : FieldClock := {}
  /-- see FieldPower -/
  pow : FieldPower := {}
  /-- see FieldMem -/
  mem : FieldMem := {}
  /-- see FieldNet -/
  net : FieldNet := {}
  /-- see FieldStream -/
  str : FieldStream := {}
  /-- see FieldJob -/
  job : FieldJob := {}
  deriving DecidableEq, Repr, Inhabited

/-! ## The module's memories -/

/-- Every addressed memory of the module. A byte that is not listed reads 0. -/
structure Mem where
  /-- On-die bytes by ODA: core memories and field shared memory; 40-bit address; 08 R246; spec 0 (R239) -/
  die : List Host.Cell := []
  /-- On-die bruise bits by granule, ODA ÷ 64; 08 R241; spec clear (R239) -/
  dieBr : Tab Bool := []
  /-- Bits of stored on-die granules that stand inverted: 0 to 511 the data, 512 to 575 the eight codes, 576 to 578 the copies of the bruise bit;
  lists by ODA ÷ 64; 08 R241; choice none -/
  flips : Tab (List Nat) := []
  /-- 4 KiB on-die blocks whose check word is not valid, by ODA ÷ 4,096 (log 134); 13 R355; spec valid (R239, R355) -/
  unckd : Tab Bool := []
  /-- What the check word of a 4 KiB on-die block differs by from the CRC-32C of its bytes, by ODA ÷ 4,096: the word is that CRC XOR this; 32 bits
  each; 13 R355; spec 0 (R239, R355) -/
  crcErr : Tab (BitVec 32) := []
  /-- Near-tier bytes by NPA; 2,790 GB; 09 R277; spec 0 after bring-up (R527) -/
  near : List Host.Cell := []
  /-- Near-tier bruise bits by NPA ÷ 64; 09 R278; spec clear (R527) -/
  nearBr : Tab Bool := []
  /-- Far-tier bytes by FPA; up to 6,144 GB; 09 R281; spec 0 after bring-up (R527) -/
  far : List Host.Cell := []
  /-- Far-tier bruise bits by FPA ÷ 64; 09 R281; spec clear (R527) -/
  farBr : Tab Bool := []
  /-- Near-tier address of the L5 node of each ASID, in bytes, plus 1, 0 for none; 37 values; 09 R267; choice none -/
  root : Tab Nat := []
  /-- Near-tier stacks and DIMMs in self-refresh; 1 bit; 19 R513, 21 R549; choice 0 -/
  selfRefresh : Bool := false
  /-- Retired HBM4 channels by 32 × stack + channel: 1 copying to the spare, 2 replaced, 3 reading bruised; 09 R279; choice none -/
  chan : Tab Nat := []
  /-- HBM4 channels (by 32 × stack + channel) and far-tier channels (by 1,280 + channel) in power-down; 18 R484; choice none -/
  down : Tab Bool := []
  deriving DecidableEq, Repr, Inhabited

/-! ## Jobs -/

/-- Where a job stands (R328, R339, R345, R364). -/
inductive JobSt where
  /-- Admitted, waiting for fields. -/
  | waiting
  | running
  /-- A PREEMPT is prepared or committed and not yet saved. -/
  | preempting
  /-- Drained; the context save is being written. -/
  | saving
  /-- Saved, and not asked to resume. -/
  | preempted
  /-- Saved, with a RESUME_JOB pending. -/
  | resuming
  /-- Stopped in place for a predictor-variant switch or a missing confirmation (R312, R313). -/
  | switching
  /-- Halted; STOPPED (R364). -/
  | stopped
  deriving DecidableEq, Repr, Inhabited

/-- The context a pre-emption saves (R348 to R350). -/
structure SavedCtx where
  /-- Every field's state has been copied (R345 step 5); 1 bit; 12 R345; written by the save -/
  copied : Bool := false
  /-- STATE [0] SEALED, [1] PORTABLE, [2] IN_BARRIER; 12 R348; written by the save -/
  sealed_ : Bool := false
  portable : Bool := false
  inBarrier : Bool := false
  /-- VARIANT, BARRIER, YIELD and JOFF; 12 R348; written by the save -/
  variant : Nat := 0
  barrier : Nat := 0
  yield_ : Nat := 0
  joff : Nat := 0
  /-- POLICY; 64 bits; 12 R348; written by the save -/
  policy : BitVec 64 := 0
  /-- Core sections, by frame position × 288 + 8 × bunch + core; 12 R349; written by the save -/
  cores : Tab Core := []
  /-- Field directory: each position's stream resume records (by 256 × position + stream); 12 R349; written by the save -/
  streams : Tab Stream := []
  /-- Saved bytes of ON and RETAIN segments and banks, by position × 2³⁴ + ODA[33:0]; 12 R349; written by the save -/
  bytes : List Host.Cell := []
  /-- Saved bruise bits, by position × 2²⁸ + ODA[33:6]; 13 R357; written by the save -/
  bruises : Tab Bool := []
  /-- Route index kept for each position and plane, and the active bank, by 2 × position + plane; 06 R180, 12 R349; written by the save -/
  index : Tab Nat := []
  bank : Tab Nat := []
  /-- A policy change that waits for a step boundary, word + 1, 0 for none; 03 R102; written by the save -/
  policyDue : Nat := 0
  /-- Interval number and steps passed, by position; 15 R407; written by the save -/
  iv : Nat := 0
  step : Nat := 0
  /-- The save header as it stands in the save area; 1,024 bits; 12 R348; written by the save -/
  header : BitVec 1024 := 0
  deriving DecidableEq, Repr, Inhabited

/-- One admitted job, by its ASID (R328). -/
structure Job where
  /-- The ASID is held by a job; 1 bit; 12 R328; spec none (R512) -/
  live : Bool := false
  /-- Job number; 16 bits; 12 R332; none -/
  number : Nat := 0
  /-- State; see JobSt; 12 R328; none -/
  st : JobSt := .waiting
  /-- Family, with the variants of every supplementary family; 12 R333; none -/
  fam : Family := default
  /-- Variant in force; 6 bits; 12 R339; none -/
  variant : Nat := 0
  /-- Frame origin, field index; 6 bits; 12 R329; none -/
  origin : Nat := 0
  /-- Origin the submission asked for, 0xFF for any; 8 bits; 12 R331; none -/
  askOrigin : Nat := 255
  /-- Seed; 64 bits; 11 R318; none -/
  seed : BitVec 64 := 0
  /-- CHECKED, MIRRORED, PRIO and HTAG of the submission; 12 R331; none -/
  checked : Bool := false
  mirrored : Bool := false
  prio : Nat := 0
  htag : BitVec 64 := 0
  /-- Submission queue, and whether a function reset has sent its completions to CQ0; 17 R465, 19 R514; none -/
  sq : Nat := 0
  orphan : Bool := false
  /-- Formats policy word in force and staged (POLICY_ACTIVE, POLICY_STAGED); 64 bits each; 22 Commit block; spec 0 -/
  policy : BitVec 64 := 0
  policyStaged : BitVec 64 := 0
  /-- KVAR of each predicted layer, and the variant switches decided; 10 R299; spec 0 -/
  kvars : Tab Nat := []
  kvarDue : List (Nat × Nat) := []
  /-- Bunches that have reported the yield point `yieldAt`, by field × 36 + bunch, and that they stopped there; 06 R179; none -/
  reports : List Nat := []
  yieldAt : Nat := 0
  /-- Bunches that have reported mirror point T = C + 1; 15 R407, R411; none -/
  mirrorReports : List Nat := []
  /-- Steps whose snapshots firmware has evaluated; 10 R309, R310; none -/
  snapped : Nat := 0
  /-- Bunches that have arrived at barrier `barrier`; 06 R174; none -/
  arrivals : List Nat := []
  barrier : Nat := 0
  /-- Fields that have reported HALTED; 13 R362, R379; none -/
  haltedBy : List Nat := []
  /-- The halt belongs to END_JOB, with no error record; 17 R462; none -/
  ending : Bool := false
  /-- SEQ of the record that caused the halt; 64 bits; 13 R364; none -/
  haltSeq : Nat := 0
  /-- Context saved; see SavedCtx; 12 R348; none -/
  saved : SavedCtx := {}
  /-- Save area reserved under ASID 0, bytes; 12 R340; none -/
  saveBytes : Nat := 0
  /-- Last complete mirror commit C, UNPROTECTED, and the next SEQ of the mirror engine; 15 R408, R411, R413; spec 0 -/
  commitC : Nat := 0
  unprotected : Bool := false
  seq : Nat := 0
  /-- Mirror blocks whose acknowledgement the engine holds, oldest first (field, tag); 15 R408; none -/
  mirrorHeld : List (Nat × Nat) := []
  /-- JOB_ENERGY, mJ; 64 bits; 22 Power block; spec 0 -/
  energy : BitVec 64 := 0
  /-- Restore that firmware has asked for to rest or wake a field: origin and variant + 1; 12 R341; none -/
  restVariant : Nat := 0
  restField : Nat := 0
  /-- Oscillator failure barred these fields from its placement; 19 R511; none -/
  barred : List Nat := []
  /-- Host-window pages mapped into the job: DVA ÷ 2 MiB; 17 R459; none -/
  windows : List Nat := []
  deriving DecidableEq, Repr, Inhabited

/-! ## Epoch commit in the pith -/

/-- A change the pith means to make (R61, R65). -/
structure Change where
  kind : CommitKind
  arg : BitVec 64
  parts : List Part
  /-- CSN, E and nominal epoch P of its latest PREPARE. -/
  csn : BitVec 16 := 0
  epoch : Nat := 0
  at_ : Nat := 0
  /-- Participants that have answered STAGED. -/
  acked : List Part := []
  /-- Earliest nominal epoch of the next PREPARE (R582). -/
  after : Nat := 0
  deriving DecidableEq, Repr, Inhabited

/-- The pith's side of the commit protocol, and the committed settings of the root chiplet and the rind. -/
structure Commit where
  /-- CSN of the last PREPARE; 16 bits; 22 COMMIT_STAT, 02 R63; spec 0 -/
  csn : BitVec 16 := 0
  /-- Kind of the last PREPARE, as R61 codes it; 6 bits; 22 COMMIT_STAT; spec 0 -/
  kind : Nat := 0
  /-- 0 undecided, 1 committed, 2 aborted; 2 bits; 22 COMMIT_STAT; spec 0 -/
  stat : Nat := 0
  /-- E of the last PREPARE; 48 bits; 22 COMMIT_E; spec 0 -/
  epoch : Nat := 0
  /-- COMMITS; 64 bits; 22 Commit block; spec 0 -/
  commits : BitVec 64 := 0
  /-- ABORTS; 64 bits; 22 Commit block; spec 0 -/
  aborts : BitVec 64 := 0
  /-- The one outstanding PREPARE; see Change; 02 R66; choice none -/
  out : Option Change := none
  /-- Changes that wait for their first PREPARE; list; 02 R66; choice none -/
  queue : List Change := []
  /-- Aborted changes to prepare again; list; 02 R582; choice none -/
  retry : List Change := []
  /-- Committed changes, with the participants that have not yet applied them; list; 02 R67; choice none -/
  committed : List Change := []
  /-- Aborted changes that some participant may still hold undecided; list; 02 R67; choice none -/
  aborted : List Change := []
  /-- Participants to which a decision was resent, and the nominal epoch of that; list; 02 R67; choice none -/
  resent : List (Part × Nat) := []
  /-- Changes staged in the root chiplet; 02 R65; choice none -/
  root : List Staged := []
  /-- Changes staged in the rind units, by die index; 02 R65; choice none -/
  rind : Tab (List Staged) := []
  /-- Changes staged in the mirror engine; 02 R61; choice none -/
  mirror : List Staged := []
  deriving DecidableEq, Repr, Inhabited

/-! ## Clock, inputs and power -/

/-- The nominal count and the rate, profile and cap in force at N. -/
structure Clock where
  /-- N in eighths of a slot (NOMINAL is ⌊N⌋); 64 + 3 bits; 02 R33; spec 0 -/
  n8 : Nat := 0
  /-- Reference ticks of 10 ns counted, the model's measure of hours; natural; 02 R33, 13 R367; choice 0 -/
  ticks : Nat := 0
  /-- K_ACTIVE; 6 bits; 22 RATE; spec 0 -/
  k : Nat := 0
  /-- K_STAGED; 6 bits; 22 RATE, R558; spec 0 -/
  kStaged : Nat := 0
  /-- PROF_ACTIVE, false throughput, true efficiency; 1 bit; 22 RATE; spec 0 -/
  eff : Bool := false
  /-- PROF_STAGED; 1 bit; 22 RATE; spec 0 -/
  effStaged : Bool := false
  /-- CAP_ACTIVE, 50 W steps; 9 bits; 22 CAP; spec 0 -/
  cap : Nat := 0
  /-- CAP_STAGED; 9 bits; 22 CAP; spec 0 -/
  capStaged : Nat := 0
  /-- HOST_CAP; 9 bits; 22 CAP; spec 0 -/
  hostCap : Nat := 0
  /-- TRAY_CAP; 9 bits; 22 CAP; spec 0 -/
  trayCap : Nat := 0
  /-- Cap and profile in force in each rind unit, by die index; 9 + 1 bits; 18 R480, R485; choice 0 -/
  rindCap : Tab Nat := []
  rindEff : Tab Bool := []
  deriving DecidableEq, Repr, Inhabited

/-- Inputs of the module as the sloe domain keeps them, and the causes of the lowest state. -/
structure Inputs where
  /-- The sloe domain is powered; 1 bit; 18 R470; choice off (log 5) -/
  sloe : Bool := false
  /-- The other domains are powered; 1 bit; 18 R471; choice off (log 5) -/
  main : Bool := false
  /-- The other domains are held in reset; 1 bit; 19 R513; choice 0 -/
  held : Bool := false
  /-- ACTIVE; 7 bits; 22 INPUT_STATUS, 19 R501; spec 0 -/
  active : BitVec 7 := 0
  /-- FORCED; 7 bits; 22 INPUT_STATUS; spec 0 -/
  forced : BitVec 7 := 0
  /-- STUCK; 7 bits; 22 INPUT_STATUS; spec 0 -/
  stuck : BitVec 7 := 0
  /-- ACKED; 7 bits; 22 INPUT_STATUS; spec 0 -/
  acked : BitVec 7 := 0
  /-- SYSRST; 1 bit; 22 INPUT_STATUS; spec 0 -/
  sysRst : Bool := false
  /-- PERST0 and PERST1 (bit n); 2 bits; 22 INPUT_STATUS; spec 0 -/
  perst : BitVec 2 := 0
  /-- REF_OK; 1 bit; 22 INPUT_STATUS, 19 R506; spec 0 -/
  refOk : Bool := false
  /-- The reference is lost (ref_lost of R35); 1 bit; 02 R37; choice 0 -/
  refLost : Bool := false
  /-- REF_LOST has been raised, after which a return of the reference changes nothing; 1 bit; 19 R509; choice 0 -/
  refGone : Bool := false
  /-- SLOE_BACKUP; 1 bit; 22 INPUT_STATUS, 19 R505; spec 0 -/
  backup : Bool := false
  /-- Forced low by INPUT_RANGE; 1 bit; 18 R490; choice 0 -/
  fRange : Bool := false
  /-- Forced low by the input-current guard; 1 bit; 18 R490, 21 R546; choice 0 -/
  fCurrent : Bool := false
  /-- Forced low by COOLANT_RANGE; 1 bit; 18 R490, R497; choice 0 -/
  fCoolant : Bool := false
  /-- Forced low by converter overload; 1 bit; 18 R473, R490; choice 0 -/
  fConv : Bool := false
  /-- Forced low by the safe state; 1 bit; 18 R490, 21 R549; choice 0 -/
  fSafe : Bool := false
  /-- INPUT_FAIL in the sloe domain's fault register; 1 bit; 18 R471; spec cleared (R512) -/
  inputFail : Bool := false
  /-- Milliseconds for which the outlet rise has exceeded its bound; natural; 18 R497; choice 0 -/
  riseMs : Nat := 0
  /-- Milliseconds for which the coolant cause has been clear; natural; 18 R497; choice 0 -/
  clearMs : Nat := 0
  deriving DecidableEq, Repr, Inhabited

/-- Converters, meters and reporting. -/
structure Power where
  /-- Failed first-stage converters; 16 bits; 18 R473; choice none -/
  convBad : BitVec 16 := 0
  /-- A converter failed within the last 5 ms and its lowered ceiling has not applied; 1 bit; 18 R473; choice 0 -/
  convPending : Bool := false
  /-- Coolant reduction of CAPMAX in 50 W steps; 7 bits; 18 R497; choice 0 -/
  reduce : Nat := 0
  /-- INPUT_ENERGY, mJ; 64 bits; 22 Power block; spec 0 -/
  inEnergy : BitVec 64 := 0
  /-- INPUT: power W, voltage 0.1 V, current 0.1 A; 3 × 16 bits; 22 Power block; spec 0 -/
  inW : Nat := 0
  inV : Nat := 0
  inA : Nat := 0
  /-- COOLANT: inlet and outlet in 0.1 °C, signed; 2 × 16 bits; 22 Power block; spec 0 -/
  inlet : Int := 0
  outlet : Int := 0
  /-- REPORT; 1 bit; 22 Power block; spec 0 -/
  report : Bool := false
  deriving DecidableEq, Repr, Inhabited

/-! ## Error log and containment -/

/-- An error record (R372); RCRC is computed when the record is read. -/
structure Rec where
  code : BitVec 16
  cls : Nat
  esc : Bool := false
  lost : Bool := false
  follow : Bool := false
  primary : Bool := false
  dom : Domain
  dstate : Nat
  asid : Nat
  seq : Nat
  ntime : Nat
  slot : BitVec 48
  src : BitVec 16
  core : Nat
  engine : Nat
  count : Nat
  addr : BitVec 64
  detail : BitVec 64
  link : Nat := 0
  deriving DecidableEq, Repr, Inhabited

/-- The error log of the pith, and its copy in the sloe domain's store (R513). -/
structure Log where
  /-- Records 0–255 in use, by index; 256 × 512 bits; 13 R372; spec cleared (R512) -/
  recs : Tab (Option Rec) := []
  /-- SEQ of the newest record (SEQ_LAST); 64 bits; 13 R372; spec 0, so the first is 1 -/
  seq : Nat := 0
  /-- LOG_OVERFLOW; 512 bits; 13 R375; spec none -/
  overflow : Option Rec := none
  /-- CE_COUNT by code; 256 × 64 bits; 13 R373; spec 0 -/
  ce : Tab (BitVec 64) := []
  /-- SEQs whose free waits (FREE_PEND); list; 22 R563; spec none -/
  pend : List Nat := []
  deriving DecidableEq, Repr, Inhabited

/-- Handling state of one containment domain (R376, R377). -/
structure DomSt where
  /-- 0 IDLE, 1 HANDLING, 2 ESCALATED; 2 bits; 13 R377; choice IDLE -/
  st : Nat := 0
  /-- Code of the primary event; 16 bits; 13 R378; choice 0 -/
  code : BitVec 16 := 0
  /-- SEQ of the primary record; 64 bits; 13 R378; choice 0 -/
  seq : Nat := 0
  /-- Class at which the domain is handled; 2 bits; 13 R377; choice 0 -/
  cls : Nat := 0
  deriving DecidableEq, Repr, Inhabited

/-- Containment domains. -/
structure Doms where
  /-- Domains by `domKey`; see DomSt; 13 R376; choice IDLE -/
  st : Tab DomSt := []
  /-- Rind units out of service, by die index; 13 R378; choice none -/
  rindOut : Tab Bool := []
  deriving DecidableEq, Repr, Inhabited

/-! ## Yield map and capacity map -/

/-- A signed object as the boot ROM holds it (R387, R538, R541). -/
structure SignedObj where
  /-- Header, signature and public key, as the window held them; bytes; 21 R538, R541; in a load only -/
  head : List Nat := []
  /-- The body; bytes; 21 R538; in a load only -/
  body : List Nat := []
  deriving DecidableEq, Repr, Inhabited

/-- A committed extension record (R388). -/
structure ExtRec where
  /-- BOOT; 32 bits; 14 R388; in a record only -/
  boot : Nat := 0
  /-- Entries; 1 to 64; 14 R388, R389; in a record only -/
  ents : List YEnt
  /-- Signature index; 40 bits; 14 R388, 21 R544; in a record only -/
  sig : Nat := 0
  deriving DecidableEq, Repr, Inhabited

/-- The yield map in flash, and what the capacity map takes from it. -/
structure Yield where
  /-- The base record, once recovery has loaded one; none stands for that of manufacture; 256 KiB; 14 R386; choice that of manufacture -/
  baseObj : Option SignedObj := none
  /-- Entries of the base record; list; 14 R386; choice none -/
  base : List YEnt := []
  /-- GEN of the base record; 32 bits; 14 R387; choice 1 -/
  baseGen : Nat := 1
  /-- Committed extension records, oldest first; see ExtRec; at most 224; 14 R386, R388; choice none -/
  ext : List ExtRec := []
  /-- Extension record being written: entries and writes made, 0 none, 1 body, 2 SIG; 14 R391; choice none -/
  draft : List YEnt := []
  draftStep : Nat := 0
  /-- Signature index of the record being written; 40 bits; 14 R391; choice 0 -/
  draftSig : Nat := 0
  /-- Entries found and not yet recorded; list; 14 R391; choice none -/
  due : List YEnt := []
  /-- Entries kept in the pith's memory once flash is full; list; 14 R392; choice none -/
  kept : List YEnt := []
  /-- YMAP_TRUNCATED; 1 bit; 14 R396; choice 0 -/
  truncated : Bool := false
  /-- YMAP_FULL; 1 bit; 14 R396; choice 0 -/
  full : Bool := false
  /-- Power-on count (BOOT); 32 bits; 14 R388; choice 0 -/
  boots : Nat := 0
  /-- GEN of the capacity map; 32 bits; 14 R396; choice 0 -/
  gen : Nat := 0
  /-- Mapping in force: failed sites of each field, by field × 42 + local site; 14 R383, R398; choice none -/
  sites : Tab Bool := []
  /-- Failed columns, by ((field × 42 + site) × 4 + m) × 128 + column; 14 R383; choice none -/
  columns : Tab Bool := []
  /-- Failed banks, engines and phases, counted by field; 14 R397; choice none -/
  banks : Tab (List Nat) := []
  engines : Tab (List Nat) := []
  phases : Tab (List Nat) := []
  /-- Failed wires by (field × 24 + crossing) × 2 + plane; 14 R389; choice none -/
  wires : Tab (List Nat) := []
  /-- PEND bytes by field × 36 + bunch; 14 R397; choice 0 -/
  pend : Tab (BitVec 8) := []
  /-- C, near-tier channels in service (NCHAN); 16 bits; 14 R396; choice 0 -/
  nchan : Nat := 0
  /-- SLOWSTK and LOSTCH; 2 × 64 bits; 14 R396; choice 0 -/
  slow : BitVec 64 := 0
  lost : BitVec 64 := 0
  /-- FARPOP and FARRATE; 2 × 8 bits; 14 R396; choice 0 -/
  farPop : Nat := 0
  farRate : Nat := 0
  /-- Limit of R367 on CHECK_TRANSIENT; natural; 13 R367; spec 8 (0 reads as 8) -/
  transLimit : Nat := 0
  deriving DecidableEq, Repr, Inhabited

/-! ## Pair -/

/-- A slice held for the partner (R406, R413). -/
structure Slice where
  valid : Bool := false
  job : Nat := 0
  c : Nat := 0
  sealed_ : Bool := false
  /-- COMPLETE has been received up to this interval; 15 R410 -/
  complete : Nat := 0
  /-- Sealing has begun and the log is being applied; 15 R413 -/
  sealing : Bool := false
  /-- Log entries: t, SEQ, slice block, body; 15 R410 -/
  log : List MirrorWrite := []
  /-- Blocks of the slice, by block number; 15 R406 -/
  blocks : Tab BlockData := []
  /-- Endpoint for which the slice is held. -/
  owner : BitVec 16 := 0
  deriving DecidableEq, Repr, Inhabited

/-- The mirrored pair. -/
structure Pair where
  /-- A setup record is held, formation under way; 1 bit; 15 R401; choice 0 -/
  setup : Bool := false
  /-- Submission queue and CID of the PAIR_SETUP that waits; 17 R462; choice 0 -/
  sq : Nat := 0
  cid : BitVec 16 := 0
  /-- FORMED; 1 bit; 22 PAIR_STATUS; spec 0 -/
  formed : Bool := false
  /-- LOST; 1 bit; 22 PAIR_STATUS; spec 0 -/
  lost : Bool := false
  /-- Cause of the last PAIR_LOST; 4 bits; 22 PAIR_STATUS; spec 0 -/
  cause : Nat := 0
  /-- PARTNER; 16 bits; 22 PAIR_STATUS; spec 0 -/
  partner : BitVec 16 := 0
  /-- MIRROR_PORTS; 48 bits; 22 Pair block; spec 0 -/
  ports : BitVec 48 := 0
  /-- STORE and LOG in GiB; 2 × 32 bits; 15 R400; choice 0 -/
  store : Nat := 0
  logGib : Nat := 0
  /-- STORE and LOG of the partner in GiB, from its HELLO; 2 × 32 bits; 15 R406, R409; choice 0 -/
  theirStore : Nat := 0
  theirLog : Nat := 0
  /-- Ports on which HELLO has been received; 48 bits; 15 R401; choice 0 -/
  heard : BitVec 48 := 0
  /-- Slices 0–35; see Slice; 22 SLICE[i]; spec 0 -/
  slices : Tab Slice := []
  /-- Outbound buffer of the mirror engine: writes without WACK, oldest first; 64 MiB; 15 R408, R410; choice empty -/
  buf : List MirrorWrite := []
  /-- Job record writes sent in each interval, by ASID: t; 15 R409; choice none -/
  recorded : Tab Nat := []
  /-- Slice reads outstanding of the requester: first block, retries; at most 8; 15 R418; choice none -/
  reads : List (Nat × Nat) := []
  /-- MIRROR_RESUME in progress: its job's ASID, or 0; the job number and the holder that it names; 15 R417; choice none -/
  resumeAsid : Nat := 0
  resumeJob : Nat := 0
  resumeFrom : BitVec 16 := 0
  /-- Slice blocks fetched, by number; the number of blocks needed, and the next block to ask for; 15 R417, R418; choice none -/
  fetched : Tab BlockData := []
  need : Nat := 0
  nextRd : Nat := 0
  deriving DecidableEq, Repr, Inhabited

/-! ## Bupol -/

/-- A message that waits in a port, or stands in an unacknowledged frame: its number, its cells, its local context or 65,535
for a mirror or slice message, and its destination (R424, R447). -/
structure QMsg where
  id : Nat
  /-- Class: 0 CTL and MIRROR, 1 RSP, 2 REQ and DATA. -/
  cls : Nat
  cells : Nat
  ctx : Nat
  dst : BitVec 16
  deriving DecidableEq, Repr, Inhabited

/-- One Bupol port. -/
structure Port where
  /-- INSERVICE; 1 bit; 22 PORT_STATUS; spec 0 -/
  up : Bool := false
  /-- REACH; 1 bit; 22 PORT_STATUS, 16 R421; spec 0 -/
  reach : Bool := false
  /-- RETRAINS; 8 bits; 22 PORT_STATUS; spec 0 -/
  retrains : Nat := 0
  /-- RESENT; 32 bits; 22 PORT_STATUS; spec 0 -/
  resent : Nat := 0
  /-- FSEQ of the next DATA frame to send; 12 bits; 16 R424; choice 0 -/
  txSeq : BitVec 12 := 0
  /-- FSEQ of the last DATA frame received in order; 12 bits; 16 R425; choice 0xFFF, so that 0 is the next -/
  rxSeq : BitVec 12 := 4095
  /-- NAK to be set in the next frame; 1 bit; 16 R425; choice 0 -/
  nak : Bool := false
  /-- Discarding until the expected FSEQ arrives; 1 bit; 16 R425; choice 0 -/
  skipping : Bool := false
  /-- Unacknowledged DATA frames, oldest first: FSEQ, times sent, messages; at most 512; 16 R425, R426; choice none -/
  unacked : List (BitVec 12 × Nat × List QMsg) := []
  /-- Frames to send again; natural; 16 R425; choice 0 -/
  resend : Nat := 0
  /-- Messages queued by class 0 CTL and MIRROR, 1 RSP, 2 REQ and DATA; lists of QMsg; 16 R447; choice none -/
  q0 : List QMsg := []
  q1 : List QMsg := []
  q2 : List QMsg := []
  /-- Cells of the last message begun that continue in the next frame; 7 bits; 16 R424; choice 0 -/
  carry : Nat := 0
  /-- Data cells of a received message that the next frame continues; 7 bits; 16 R424; choice 0 -/
  rxCarry : Nat := 0
  /-- The context served last among REQ and DATA, and each context's deficit in cells; 16 R447; choice 0 -/
  lastCtx : Nat := 0
  deficit : Tab Nat := []
  /-- The port is retraining; 1 bit; 16 R429; choice 0 -/
  training : Bool := false
  /-- Bytes used of the burst of 64 KiB of each partner-table entry, by entry; 16 R435; choice 0 -/
  meter : Tab Nat := []
  deriving DecidableEq, Repr, Inhabited

/-- STATE of a partner context (R437). -/
inductive CtxSt where
  | closed | opening | open_ | closing | failed
  deriving DecidableEq, Repr, Inhabited

/-- One partner context with its record (R437) and credits. -/
structure Ctx where
  st : CtxSt := .closed
  remote : BitVec 16 := 0
  rctx : Nat := 0
  wstore : Bool := false
  rights : BitVec 8 := 0
  asid : Nat := 0
  reserve : Nat := 0
  expBase : Nat := 0
  expLen : Nat := 0
  gmax : Nat := 0
  /-- Next CSEQ to send, and last CSEQ accepted + 1; 16 bits each; 16 R440, R441; choice 0 -/
  txSeq : BitVec 16 := 0
  rxSeq : BitVec 16 := 0
  /-- Sender: reserve and shared credits held, free request slots; 16 R443, R444; choice 0 -/
  resCred : Nat := 0
  shCred : Nat := 0
  slots : Nat := 0
  /-- Sender: outstanding requests and writes by RTAG or CSEQ: field × 2,048 + tag; 16 R438; choice none -/
  outst : List (Nat × Nat) := []
  /-- Receiver: DEMAND of the sender, shared blocks held (CREDITS); 16 R440, R446; spec CREDITS 0 -/
  demand : Nat := 0
  held : Nat := 0
  deriving DecidableEq, Repr, Inhabited

/-- The Bupol interface. -/
structure Bupol where
  /-- ENDPOINT_ID with SET; 16 + 1 bits; 22 Bupol block; spec 0, not set -/
  epId : BitVec 16 := 0
  epSet : Bool := false
  /-- PT_SEAL; 1 bit; 22 Bupol block; spec 0 -/
  sealed_ : Bool := false
  /-- Partner table values; 256 × 40 bits; 16 R434; spec 0 -/
  pt : Tab (BitVec 64) := []
  /-- Locked bits of each partner table entry; 256 × 40 bits; 00 R7, 22 R565; spec none -/
  ptLock : Tab (BitVec 64) := []
  /-- MISROUTED and REMOTE_DENIED; 2 × 32 bits; 22 BUPOL_CNT; spec 0 -/
  misrouted : Nat := 0
  denied : Nat := 0
  /-- Ports 0–47; see Port; 16 R423; spec 0 -/
  port : Tab Port := []
  /-- Contexts 0–4,095; see Ctx; 16 R437; spec CLOSED -/
  ctx : Tab Ctx := []
  /-- Endpoint route table; 65,536 × 48 bits; 16 R432; choice 0 -/
  route : Tab (BitVec 48) := []
  /-- Read-part blocks reserved; at most 8,192; 16 R443; choice 0 -/
  readUsed : Nat := 0
  /-- Shared blocks granted or in use; natural; 16 R443, R446; choice 0 -/
  sharedUsed : Nat := 0
  /-- last_served of the grant unit; 12 bits; 16 R446; choice 4,095, so that 0 is next -/
  lastServed : Nat := 4095
  /-- Failed transceivers of each chiplet, by chiplet; 16 R428; choice none -/
  lanes : Tab (List Nat) := []
  /-- Identifier of the next message sent; natural; model's own (log 7); choice 0 -/
  nextMsg : Nat := 0
  deriving DecidableEq, Repr, Inhabited

/-! ## Host attachment -/

/-- A command accepted from a submission queue (R461). -/
structure Cmd where
  sq : Nat
  opc : Nat
  fence : Bool
  cid : BitVec 16
  arg0 : BitVec 64
  arg1 : BitVec 64
  payload : BitVec 512
  /-- Begun: it has taken effect and waits for its completion point. -/
  begun : Bool := false
  /-- Its completion is discarded, since a function reset came after it (R514). -/
  mute : Bool := false
  deriving DecidableEq, Repr, Inhabited

/-- A completion entry held in the pith (R464). -/
structure Cpl where
  cq : Nat
  cid : BitVec 16
  sq : Nat
  async : Bool := false
  status : Nat := 0
  kind : Nat := 0
  job : Nat := 0
  asid : Nat := 0
  sqhead : Nat := 0
  htag : BitVec 64 := 0
  res0 : BitVec 64 := 0
  res1 : BitVec 128 := 0
  deriving DecidableEq, Repr, Inhabited

/-- One command queue pair (R460, R559). -/
structure Queue where
  /-- SQ_BASE, CQ_BASE, SQ_LINE, CQ_LINE; 4 × 64 bits; 22 Queue block; spec 0 -/
  sqBase : BitVec 64 := 0
  cqBase : BitVec 64 := 0
  sqLine : BitVec 64 := 0
  cqLine : BitVec 64 := 0
  /-- SQLOG, CQLOG, MODE, IEN, ENABLE, QERR, QERRCODE; 22 Q_CFG; spec 0 -/
  sqLog : BitVec 4 := 0
  cqLog : BitVec 4 := 0
  mode : Bool := false
  ien : Bool := false
  enable : Bool := false
  qerr : Bool := false
  qcode : BitVec 3 := 0
  /-- SQ entries consumed and CQ entries written; 2 × 32 bits; 22 Q_STATUS; spec 0 -/
  consumed : BitVec 32 := 0
  written : BitVec 32 := 0
  /-- SQ tail count and CQ head count last taken; 2 × 32 bits; 17 R460; choice 0 -/
  tail : BitVec 32 := 0
  head : BitVec 32 := 0
  deriving DecidableEq, Repr, Inhabited

/-- One grant table entry (R455). -/
structure Grant where
  /-- BASE, in pages; 40 bits; 17 R455; spec 0 -/
  base : BitVec 40 := 0
  /-- PAGES − 1; 40 bits; 17 R455; spec 0 -/
  pages : BitVec 40 := 0
  rd : Bool := false
  wr : Bool := false
  /-- VALID; 1 bit; 17 R455; spec 0 -/
  valid : Bool := false
  /-- REVOKING; 1 bit; 17 R455; spec 0 -/
  revoking : Bool := false
  /-- The entry returns to its reset value when the revocation completes (R514); 1 bit; 19 R514; choice 0 -/
  clear : Bool := false
  deriving DecidableEq, Repr, Inhabited

/-- One CXL port. -/
structure CxlPort where
  /-- RATE; 2 bits; 22 HOST_PORT_STATUS; spec 0 -/
  rate : Nat := 0
  /-- INSERVICE; 1 bit; 22 HOST_PORT_STATUS; spec 0 -/
  up : Bool := false
  /-- CHANGES; 8 bits; 22 HOST_PORT_STATUS; spec 0 -/
  changes : Nat := 0
  deriving DecidableEq, Repr, Inhabited

/-- The host attachment. -/
structure Cxl where
  /-- CXL ports 0 and 1; see CxlPort; 17 R453; spec 0 -/
  port : Tab CxlPort := []
  /-- Queues 0–7; see Queue; 17 R460; spec 0 -/
  queue : Tab Queue := []
  /-- Device cache: host address of a queue line held shared, and the count in its bytes 0–3, newest first; at most 512; 08 R221, 17 R454, R460;
  choice empty -/
  lines : List (Nat × BitVec 32) := []
  /-- Grant table; 64 entries; 17 R455; spec 0 -/
  grant : Tab Grant := []
  /-- W and COMMITTED of HOST_WIN; 7 + 1 bits; 22 HOST_WIN; spec 0 -/
  win : Nat := 0
  committed : Bool := false
  /-- Commands accepted and not completed, oldest first; list; 17 R461; choice none -/
  cmds : List Cmd := []
  /-- Completions held in the pith, oldest first; list; 17 R464; choice none -/
  held : List Cpl := []
  /-- MSI-X vector mask and pending bits; 2 × 16 bits; 17 R454, R469; PRESUMED masked (log 6) -/
  msixMask : BitVec 16 := 65535
  msixPend : BitVec 16 := 0
  /-- MSI-X table words by offset ÷ 8; 32 × 64 bits; 17 R454; choice 0 -/
  msixTab : Tab (BitVec 64) := []
  /-- Latched high halves by register offset, plus 2³² when latched; 00 R11; choice none -/
  latch : Tab Nat := []
  /-- Last 32-bit low-half write of each WO register, by offset, since its last action; 00 R11; choice 0 -/
  lowWr : Tab (BitVec 32) := []
  /-- Writes kept during a pith takeover: LOG_FREE SEQs, SQ_DB and CQ_DB by queue, count + 1; 22 R555; choice none -/
  keptFree : List Nat := []
  keptSq : Tab Nat := []
  keptCq : Tab Nat := []
  deriving DecidableEq, Repr, Inhabited

/-! ## Bring-up, pith and trust -/

/-- Bring-up (R532). -/
structure Bring where
  /-- STATE, PHASE and FAILCODE; 8 + 8 + 16 bits; 20 R532; spec 0 in progress (22 BRINGUP), phase 1 -/
  st : Nat := 0
  phase : Nat := 1
  fail : Nat := 0
  /-- TREADY; 32 bits; 20 R532; choice 0 -/
  tready : Nat := 0
  /-- LANESUB, WIRESUB, CHSPARE, CHLOST, ROWREP, SITES, FOUT, PDOWN; 20 R532; choice 0 -/
  laneSub : Nat := 0
  wireSub : Nat := 0
  chSpare : Nat := 0
  chLost : Nat := 0
  rowRep : Nat := 0
  sites : Nat := 0
  fout : Nat := 0
  pdown : Nat := 0
  /-- PTIME; 7 × 32 bits; 20 R532; choice 0 -/
  times : List Nat := []
  /-- RSEQ; 32 bits; 20 R532; choice 0 -/
  rseq : Nat := 0
  /-- The bring-up under way and what it will find; see BringPlan; 20 R518; choice none -/
  plan : Option BringPlan := none
  /-- The bring-up follows a module reset (near tier with sealed slices kept); 1 bit; 20 R528; choice 0 -/
  warm : Bool := false
  /-- An INPUT_FAIL record is to be logged first; 1 bit; 18 R471; choice 0 -/
  logFail : Bool := false
  deriving DecidableEq, Repr, Inhabited

/-- The pith chiplets and the watchdog. -/
structure Pith where
  /-- Active chiplet, 0 K0 or 1 K1; 1 bit; 01 R14; spec K0 after a cold start -/
  active : Nat := 0
  /-- Firmware runs on the active chiplet; 1 bit; 20 R519; choice 0 -/
  running : Bool := false
  /-- A standby chiplet is present; 1 bit; 14 R396 FLAGS[2]; choice 0 -/
  standby : Bool := false
  /-- A takeover is in progress, and a change it must abort is prepared; 1 bit; 01 R27; choice 0 -/
  takeover : Bool := false
  /-- The new active pith has written the watchdog since the expiry; 1 bit; 21 R548; choice 0 -/
  wrote : Bool := false
  /-- The takeover is one of PITH_LOST: it logs and enters the safe state; 1 bit; 13 R380; choice 0 -/
  lost : Bool := false
  /-- WDOG; 8 bits; 21 TRUST_STATUS; spec 0 -/
  wdog : Nat := 0
  deriving DecidableEq, Repr, Inhabited

/-- Identity, keys, recovery and the entropy source. -/
structure Trust where
  /-- SEALED; 1 bit; 21 R552; spec 0 -/
  sealed_ : Bool := false
  /-- RECOVERY; 1 bit; 21 R552; spec 0 -/
  recovery : Bool := false
  /-- SAFE; 1 bit; 21 R552; spec 0 -/
  safe : Bool := false
  /-- ENT_OK; 1 bit; 21 R552; spec 0 -/
  entOk : Bool := false
  /-- ATT_OK; 1 bit; 21 R552; spec 0 -/
  attOk : Bool := false
  /-- KEYREV; 4 bits; 21 R552; spec 0 -/
  keyRev : BitVec 4 := 0
  /-- KEYSLOT; 2 bits; 21 R552; spec 0 -/
  keySlot : BitVec 2 := 0
  /-- RECSTAT; 8 bits; 21 R552; spec 0x00 -/
  recStat : Nat := 0
  /-- GVIOL; 24 bits; 21 R552; spec 0 -/
  gviol : Nat := 0
  /-- The next bring-up enters recovery in place of phase 3; 1 bit; 21 R540; choice 0 -/
  recNext : Bool := false
  /-- FWVER of the running image; 32 bits; 22 MOD_ID; spec 0 -/
  fwver : BitVec 32 := 0
  /-- The firmware slot holds a valid image; 1 bit; 21 R538, R541; choice 1 -/
  slotOk : Bool := true
  /-- The image in the firmware slot, once recovery has loaded one; none stands for that of manufacture; 32 MiB; 21 R538; choice that of manufacture -/
  image : Option SignedObj := none
  /-- The identity block, once recovery has loaded one; none stands for that of manufacture; bytes; 21 R534, R541; choice that of manufacture -/
  ident : Option (List Nat) := none
  /-- REC_WINDOW; 64 KiB, unlisted bytes read 0; 22 REC_WINDOW; choice 0 -/
  window : List Host.Cell := []
  /-- MINSVN; 32 bits; 21 R539; choice 0 -/
  minSvn : Nat := 0
  /-- Object being loaded in recovery: OBJ + 1, its header with the signature, and the body bytes accepted; 2 bits + bytes; 22 REC_CTRL,
  REC_STATUS; choice none -/
  obj : Nat := 0
  load : SignedObj := {}
  /-- Mirror window bounds in NPA, fixed once C is fixed; 21 R546; choice not fixed -/
  winLo : Nat := 0
  winHi : Nat := 0
  winFixed : Bool := false
  /-- Signature index, end of the committed block, the next lower tree is ready, and the requests that wait for one: 0 and a digest of
  firmware's, or an answer's kind and content; 40 bits; 21 R544; choice 0, next tree ready -/
  sigNext : Nat := 0
  sigEnd : Nat := 0
  lowerReady : Bool := true
  sigWait : List (Nat × List Nat) := []
  deriving DecidableEq, Repr, Inhabited

/-! ## Messages and outputs -/

/-- What a stem message says (R58). -/
inductive StemMsg where
  | prepare (u : Part) (csn : BitVec 16) (kind : CommitKind) (arg : BitVec 64) (epoch : Nat) (count : Nat)
  | ack (u : Part) (csn : BitVec 16) (status : AckStatus)
  | commit (u : Part) (csn : BitVec 16) (epoch : Nat)
  | abort (u : Part) (csn : BitVec 16) (epoch : Nat)
  | fence (f : FieldIx) (cause : Nat)
  | yieldReport (f : FieldIx) (b : BunchIx) (asid : Nat) (y : Nat) (mirror : Bool)
  | power (f : Nat) (op : Nat) (value : BitVec 16)
  | arrive (asid : Nat) (b : Nat) (f : FieldIx) (bun : BunchIx)
  | release (f : Nat) (asid : Nat) (b : Nat) (epoch : Nat)
  | gate (f : FieldIx) (cause : Nat) (asid : Nat) (slot : Nat)
  deriving DecidableEq, Repr, Inhabited

/-- A stem message on its way to one unit (R56): a message to a broadcast address stands once for each unit that it reaches. -/
structure Packet where
  /-- Own stem address of the unit that is to receive it (R57). -/
  unit : BitVec 16
  /-- The header flit and the flits after it (R56). -/
  flits : List (BitVec 64)
  deriving DecidableEq, Repr, Inhabited

/-- Stem messages and event buffers. -/
structure Stem where
  /-- Messages sent and not yet received, flit by flit; list of Packet; 02 R55, R56; choice none -/
  msgs : List Packet := []
  /-- Events held in the event buffers of units and on their way to the pith; list of ErrMsg; 13 R371; choice none -/
  events : List ErrMsg := []
  /-- JOB-class halts that the pith owes: ASID, SEQ; list; 13 R361; choice none -/
  halts : List (Nat × Nat) := []
  deriving DecidableEq, Repr, Inhabited

/-- What leaves the module. -/
inductive Output where
  /-- A completion entry written to slot `index` of a ring (R464). -/
  | completion (index : Nat) (phase : Bool) (c : Cpl)
  /-- An MSI-X message (R454). -/
  | msix (v : Nat)
  /-- A Bupol message sent on a port, as R440 lays it out. -/
  | bupol (id port : Nat) (m : BupRaw)
  /-- A mirror message sent on a port (R409). -/
  | mirror (port type : Nat) (w : MirrorWrite)
  /-- A link frame sent: DATA or IDLE, FSEQ, ACK, NAK (R424). -/
  | frame (port : Nat) (idle : Bool) (fseq ack : BitVec 12) (nak : Bool)
  /-- A write of a 4 KiB block to host memory (R457). -/
  | hostWrite (addr : Nat) (body : BlockData)
  /-- A granule returned to the host from the near-tier window, with poison if bruised (R360). -/
  | hostRead (addr : Nat) (data : BitVec 512) (poison : Bool)
  /-- A DOE, SPDM or MCTP answer: which one, its content, and its signature, empty where it has none (R466, R545). -/
  | answer (which : Nat) (content : List Nat) (sig : List Nat)
  /-- A signature returned to firmware, with its index (R543). -/
  | signature (index : Nat) (digest : BitVec 256) (sig : List Nat)
  /-- The value a 32-bit read of a low half returned (R11). -/
  | low32 (offset : Nat) (value : BitVec 32)
  /-- The high half that a 32-bit read of a register's high half returns (R11). -/
  | high32 (offset : Nat) (value : BitVec 32)
  deriving DecidableEq, Repr, Inhabited

/-- The state of the module. -/
structure State where
  /-- Commands that wait, first in, first out; list of Instr; the block's queue; empty -/
  pending : List Instr := []
  /-- see Inputs -/
  inp : Inputs := {}
  /-- see Clock -/
  clk : Clock := {}
  /-- see Commit -/
  com : Commit := {}
  /-- Fields by index 0–35; see Field; 01 R16; spec SLEEPING -/
  fld : Tab Field := []
  /-- Cores by 288 × field + 8 × bunch + core; see Core; 01 R16; choice idle -/
  cor : Tab Core := []
  /-- see Mem -/
  mem : Mem := {}
  /-- Jobs by ASID 1–36; see Job; 12 R328; spec none -/
  job : Tab Job := []
  /-- Job number of the last admitted job; 16 bits; 12 R332; choice 0 -/
  lastJob : Nat := 0
  /-- see Log -/
  log : Log := {}
  /-- see Doms -/
  dom : Doms := {}
  /-- see Yield -/
  yld : Yield := {}
  /-- see Pair -/
  pair : Pair := {}
  /-- see Bupol -/
  bup : Bupol := {}
  /-- see Cxl -/
  cxl : Cxl := {}
  /-- see Power -/
  pow : Power := {}
  /-- see Bring -/
  brg : Bring := {}
  /-- see Pith -/
  pith : Pith := {}
  /-- see Trust -/
  trs : Trust := {}
  /-- see Stem -/
  stem : Stem := {}
  /-- Outputs so far, newest first; list of Output; model's own (log 7); empty -/
  out : List Output := []
  /-- Counter of the free values drawn so far; natural; model's own (log 8); design choice 0 -/
  free : Nat := 0
  deriving DecidableEq, Repr, Inhabited

/-- The module at reset: every register at its Reset column, before the 72 V input has risen (log 5). -/
def State.reset : State := {}

end Sys2Proof.Machine
end

