-- ==== Sys2Proof/Machine/Ops.lean ====
section
/-! DEFINITION. The named operations over the state that every meaning shares: sparse tables and memories, bit fields,
fields, cores, jobs, streams and queues by index, events, stem messages and outputs. -/

namespace Sys2Proof.Machine

/-! ## Tables in canonical form -/

/-- The value at key `k`; `d` where the table lists none. -/
def tabGet {α : Type} (d : α) : Tab α → Nat → α
  | [], _ => d
  | (k', v) :: t, k => if k' = k then v else tabGet d t k

/-- The table with an entry (k, v), in its place in the order. -/
def tabIns {α : Type} (k : Nat) (v : α) : Tab α → Tab α
  | [] => [(k, v)]
  | (k', v') :: t =>
    if k' < k then (k', v') :: tabIns k v t
    else if k' = k then (k, v) :: t
    else (k, v) :: (k', v') :: t

/-- The table with value `v` at key `k`; an entry equal to the default is not listed. -/
def tabPut {α : Type} [DecidableEq α] (d : α) (k : Nat) (v : α) (t : Tab α) : Tab α :=
  if v = d then t.filter fun e => decide (e.1 ≠ k) else tabIns k v t

/-- Every key of the table is above `lo` (or the table has no bound yet), keys rise strictly, and no entry is the
default. -/
def tabWfFrom {α : Type} [DecidableEq α] (d : α) : Option Nat → Tab α → Bool
  | _, [] => true
  | lo, (k, v) :: t => (match lo with | none => true | some l => decide (l < k)) && decide (v ≠ d) && tabWfFrom d (some k) t

/-- The canonical form of a table. -/
def tabWf {α : Type} [DecidableEq α] (d : α) (t : Tab α) : Bool := tabWfFrom d none t

/-- The entries whose key satisfies `p`. -/
def tabKeep {α : Type} (p : Nat → Bool) (t : Tab α) : Tab α := t.filter fun e => p e.1

/-- The table without the keys in [lo, lo + n). -/
def tabClear {α : Type} (lo n : Nat) (t : Tab α) : Tab α := t.filter fun e => decide (e.1 < lo ∨ lo + n ≤ e.1)

/-- The table with the values of `f` at the keys lo, lo + 1, …, lo + n − 1. -/
def tabFill {α : Type} [DecidableEq α] (d : α) (f : Nat → α) (lo : Nat) : Nat → Tab α → Tab α
  | 0, t => t
  | n + 1, t => tabFill d f lo n (tabPut d (lo + n) (f n) t)

/-- `f` applied to the value at `k`. -/
def tabMod {α : Type} [DecidableEq α] (d : α) (k : Nat) (f : α → α) (t : Tab α) : Tab α := tabPut d k (f (tabGet d t k)) t

/-! ## Bit fields -/

/-- Bits [lo + len − 1 : lo] of a natural number. -/
def bitsOf (n lo len : Nat) : Nat := n / 2 ^ lo % 2 ^ len

/-- Bit `i` of a natural number. -/
def bitOf (n i : Nat) : Bool := n / 2 ^ i % 2 == 1

/-- A Boolean as 0 or 1. -/
def b2n (b : Bool) : Nat := if b then 1 else 0

/-- The low `len` bits of `n` as a two's-complement integer. -/
def sextNat (n len : Nat) : Int :=
  let m := n % 2 ^ len
  if 2 * m < 2 ^ len then (m : Int) else (m : Int) - (2 : Int) ^ len

/-- An integer as `len` bits of two's complement. -/
def wrapInt (z : Int) (len : Nat) : Nat := (z % (2 : Int) ^ len).toNat

/-- An integer limited to [lo, hi]. -/
def clampInt (lo hi z : Int) : Int := if z < lo then lo else if hi < z then hi else z

/-- An n-bit counter that stops at its largest value. -/
def satAdd (len a b : Nat) : Nat := min (a + b) (2 ^ len - 1)

/-- Bit `i` of a register. -/
def bitAt (i : Nat) (b : Bool) : Nat := 2 ^ i * b2n b

/-- A field at bit `lo`, `len` bits wide. -/
def fieldAt (lo len n : Nat) : Nat := n % 2 ^ len * 2 ^ lo

/-! ## Memories -/

/-- The byte at address `a`; an unlisted byte reads 0 (R239, R527). -/
def memByte (m : List Host.Cell) (a : Nat) : Byte := tabGet 0 m a

/-- The memory with byte `b` at address `a`. -/
def memPut (m : List Host.Cell) (a : Nat) (b : Byte) : List Host.Cell := tabPut 0 a b m

/-- `n` bytes from `a` on as one little-endian number (R5). -/
def memRead (m : List Host.Cell) (a : Nat) : Nat → Nat
  | 0 => 0
  | n + 1 => (memByte m a).toNat + 256 * memRead m (a + 1) n

/-- `n` bytes of the number `v`, little-endian, stored from `a` on (R5). -/
def memWrite (m : List Host.Cell) (a : Nat) : Nat → Nat → List Host.Cell
  | 0, _ => m
  | n + 1, v => memWrite (memPut m a (BitVec.ofNat 8 v)) (a + 1) n (v / 256)

/-- `n` bytes cleared from `a` on. -/
def memClear (m : List Host.Cell) (a n : Nat) : List Host.Cell := tabClear a n m

/-- The canonical form of a memory. -/
def memWf (m : List Host.Cell) : Bool := tabWf 0 m

/-- The granules [a ÷ 64, (a + n − 1) ÷ 64] that the bytes [a, a + n) touch. -/
def granulesOf (a n : Nat) : List Nat :=
  if n = 0 then [] else (List.range ((a + n - 1) / 64 - a / 64 + 1)).map (· + a / 64)

/-- Some granule of the bytes [a, a + n) is bruised. -/
def brAny (br : Tab Bool) (a n : Nat) : Bool := (granulesOf a n).any fun g => tabGet false br g

/-- The bruise bit of granule `g` set to `b`. -/
def brSet (br : Tab Bool) (g : Nat) (b : Bool) : Tab Bool := tabPut false g b br

/-- The bruise bit of every granule of [a, a + n) set to `b`. -/
def brFill (br : Tab Bool) (a n : Nat) (b : Bool) : Tab Bool := (granulesOf a n).foldl (fun t g => brSet t g b) br

/-- The granules of [a, a + n) bruised where `b`, cleared where the bytes cover the granule whole, else left (R357). -/
def brStore (br : Tab Bool) (a n : Nat) (b : Bool) : Tab Bool :=
  (granulesOf a n).foldl
    (fun t g => if b then brSet t g true else if a ≤ 64 * g ∧ 64 * g + 64 ≤ a + n then brSet t g false else t) br

/-- The canonical form of every addressed memory and its bruise bits. -/
def memsWf (m : Mem) : Bool :=
  memWf m.die && memWf m.near && memWf m.far && tabWf false m.dieBr && tabWf false m.nearBr && tabWf false m.farBr && tabWf [] m.flips

/-! ### Check codes of on-die memory (08 R241 to R243) -/

/-- Word of a granule in whose code word a stored bit lies: bits 0 to 511 are its data, 512 to 575 its eight codes (R241). -/
def flipWord (n : Nat) : Option Nat := if n < 512 then some (n / 64) else if n < 576 then some ((n - 512) / 8) else none

/-- Inverted bits in the code word of word `w` of a granule. -/
def wordFlips (l : List Nat) (w : Nat) : Nat := (l.filter fun n => flipWord n == some w).length

/-- Words of a granule with one inverted bit, which a read corrects, and with more, which are uncorrectable (R242; log 144). -/
def softWords (l : List Nat) : List Nat := (List.range 8).filter fun w => wordFlips l w == 1
def hardWords (l : List Nat) : List Nat := (List.range 8).filter fun w => decide (2 ≤ wordFlips l w)

/-- Inverted bits of granule `g`. -/
def flipsOf (m : Mem) (g : Nat) : List Nat := tabGet [] m.flips g

/-- Some granule that the bytes [a, a + n) touch has an uncorrectable word. -/
def hardIn (m : Mem) (a n : Nat) : Bool := !m.flips.isEmpty && (granulesOf a n).any fun g => !(hardWords (flipsOf m g)).isEmpty

/-- Bits of a granule that a write of the bytes [a, a + n) leaves inverted: the codes of the words it writes are recomputed, and a write of the
whole granule stores its bruise bit (R243). -/
def leftFlips (a n g : Nat) (l : List Nat) : List Nat :=
  let whole := decide (a ≤ 64 * g ∧ 64 * g + 64 ≤ a + n)
  l.filter fun b => match flipWord b with
    | some w => !decide (a < 64 * g + 8 * w + 8 ∧ 64 * g + 8 * w < a + n)
    | none => !whole

/-- The code words of what is written over the bytes [a, a + n); a write over bytes that read uncorrectable clears the valid bit of the block's
check word (R243, R355). -/
def writeCodes (m : Mem) (a n : Nat) : Mem :=
  if m.flips.isEmpty then m
  else
    (granulesOf a n).foldl
      (fun m g =>
        let l := flipsOf m g
        let l' := leftFlips a n g l
        { m with flips := tabPut [] g l' m.flips
                 unckd := if (hardWords l).any fun w => decide (wordFlips l' w = 0) then tabPut false (g / 64) true m.unckd else m.unckd }) m

/-- `n` on-die bytes at ODA `a`. -/
def dieRead (s : State) (a n : Nat) : Nat := memRead s.mem.die a n

/-- `n` on-die bytes stored at ODA `a`, with their granules bruised or not. -/
def dieStore (s : State) (a n v : Nat) (b : Bool) : State :=
  let m := writeCodes s.mem a n
  { s with mem := { m with die := memWrite m.die a n v, dieBr := brStore m.dieBr a n b } }

/-- Some granule of the on-die bytes [a, a + n) reads as bruised: its bit stands, or a word of it is uncorrectable (R241, R242). -/
def dieBruised (s : State) (a n : Nat) : Bool := brAny s.mem.dieBr a n || hardIn s.mem a n

/-- `n` near-tier bytes at NPA `a`. -/
def nearRead (s : State) (a n : Nat) : Nat := memRead s.mem.near a n

/-- `n` near-tier bytes stored at NPA `a`. -/
def nearStore (s : State) (a n v : Nat) (b : Bool) : State :=
  { s with mem := { s.mem with near := memWrite s.mem.near a n v, nearBr := brStore s.mem.nearBr a n b } }

/-- `n` far-tier bytes at FPA `a`. -/
def farRead (s : State) (a n : Nat) : Nat := memRead s.mem.far a n

/-- `n` far-tier bytes stored at FPA `a`. -/
def farStore (s : State) (a n v : Nat) (b : Bool) : State :=
  { s with mem := { s.mem with far := memWrite s.mem.far a n v, farBr := brStore s.mem.farBr a n b } }

/-! ## Parts of the state by index -/

/-- Field `f`. -/
def fieldOf (s : State) (f : Nat) : Field := tabGet {} s.fld f

/-- Field `f` changed by `g`. -/
def modField (s : State) (f : Nat) (g : Field → Field) : State := { s with fld := tabMod {} f g s.fld }

/-- Every field 0 to 35 changed by `g`, which sees the index. -/
def modFields (s : State) (g : Nat → Field → Field) : State := (List.range 36).foldl (fun t f => modField t f (g f)) s

def modCond (s : State) (f : Nat) (g : FieldCond → FieldCond) : State := modField s f fun x => { x with cond := g x.cond }
def modFclk (s : State) (f : Nat) (g : FieldClock → FieldClock) : State := modField s f fun x => { x with clk := g x.clk }
def modFpow (s : State) (f : Nat) (g : FieldPower → FieldPower) : State := modField s f fun x => { x with pow := g x.pow }
def modFmem (s : State) (f : Nat) (g : FieldMem → FieldMem) : State := modField s f fun x => { x with mem := g x.mem }
def modNet (s : State) (f : Nat) (g : FieldNet → FieldNet) : State := modField s f fun x => { x with net := g x.net }
def modStr (s : State) (f : Nat) (g : FieldStream → FieldStream) : State := modField s f fun x => { x with str := g x.str }
def modFjob (s : State) (f : Nat) (g : FieldJob → FieldJob) : State := modField s f fun x => { x with job := g x.job }

/-- Key of core `c` of local bunch `b` of field `f`. -/
def coreKey (f b c : Nat) : Nat := 288 * f + 8 * b + c

/-- Key of a core. -/
def ckey (c : CoreId) : Nat := coreKey c.fld c.bun c.cor

/-- The core with key `k`. -/
def coreAt (s : State) (k : Nat) : Core := tabGet {} s.cor k

/-- The core with key `k` changed by `g`. -/
def modCore (s : State) (k : Nat) (g : Core → Core) : State := { s with cor := tabMod {} k g s.cor }

/-- The cores of field `f` changed by `g`, which sees the key; a core that is not listed is at rest and stays so. -/
def modCores (s : State) (f : Nat) (g : Nat → Core → Core) : State :=
  ((s.cor.map (·.1)).filter fun k => k / 288 == f).foldl (fun t k => modCore t k (g k)) s

/-- Code of an engine (R370). -/
def engCode : Engine → Nat
  | .load => 0 | .mac => 1 | .drain => 2 | .vec => 3 | .store => 4 | .scalar => 5

/-- The engine of a code; SCALAR above 5. -/
def engineOf : Nat → Engine
  | 0 => .load | 1 => .mac | 2 => .drain | 3 => .vec | 4 => .store | _ => .scalar

/-- The task of engine `e` of a core. -/
def taskOf (c : Core) (e : Engine) : Task := tabGet {} c.tasks (engCode e)

/-- The task of engine `e` changed by `g`. -/
def modTask (c : Core) (e : Engine) (g : Task → Task) : Core := { c with tasks := tabMod {} (engCode e) g c.tasks }

/-- Job of ASID `a`. -/
def jobOf (s : State) (a : Nat) : Job := tabGet {} s.job a

/-- Job of ASID `a` changed by `g`. -/
def modJob (s : State) (a : Nat) (g : Job → Job) : State := { s with job := tabMod {} a g s.job }

/-- Stream `st` of field `f`. -/
def streamOf (s : State) (f st : Nat) : Stream := tabGet {} (fieldOf s f).str.str st

/-- Stream `st` of field `f` changed by `g`. -/
def modStream (s : State) (f st : Nat) (g : Stream → Stream) : State :=
  modStr s f fun x => { x with str := tabMod {} st g x.str }

/-- Bupol port `p`. -/
def portOf (s : State) (p : Nat) : Port := tabGet {} s.bup.port p

/-- Bupol port `p` changed by `g`. -/
def modPort (s : State) (p : Nat) (g : Port → Port) : State :=
  { s with bup := { s.bup with port := tabMod {} p g s.bup.port } }

/-- Partner context `x`. -/
def ctxOf (s : State) (x : Nat) : Ctx := tabGet {} s.bup.ctx x

/-- Partner context `x` changed by `g`. -/
def modCtx (s : State) (x : Nat) (g : Ctx → Ctx) : State :=
  { s with bup := { s.bup with ctx := tabMod {} x g s.bup.ctx } }

/-- Queue `q`. -/
def queueOf (s : State) (q : Nat) : Queue := tabGet {} s.cxl.queue q

/-- Queue `q` changed by `g`. -/
def modQueue (s : State) (q : Nat) (g : Queue → Queue) : State :=
  { s with cxl := { s.cxl with queue := tabMod {} q g s.cxl.queue } }

/-- Grant `g`. -/
def grantOf (s : State) (g : Nat) : Grant := tabGet {} s.cxl.grant g

/-- Grant `g` changed by `h`. -/
def modGrant (s : State) (g : Nat) (h : Grant → Grant) : State :=
  { s with cxl := { s.cxl with grant := tabMod {} g h s.cxl.grant } }

/-- CXL port `p`. -/
def cxlPortOf (s : State) (p : Nat) : CxlPort := tabGet {} s.cxl.port p

/-- CXL port `p` changed by `g`. -/
def modCxlPort (s : State) (p : Nat) (g : CxlPort → CxlPort) : State :=
  { s with cxl := { s.cxl with port := tabMod {} p g s.cxl.port } }

/-- Slice `i`. -/
def sliceOf (s : State) (i : Nat) : Slice := tabGet {} s.pair.slices i

/-- Slice `i` changed by `g`. -/
def modSlice (s : State) (i : Nat) (g : Slice → Slice) : State :=
  { s with pair := { s.pair with slices := tabMod {} i g s.pair.slices } }

/-! ## Places on the die -/

/-- Field row and column of a field index (R57). -/
def rowOf (f : Nat) : Nat := f / 6
def colOf (f : Nat) : Nat := f % 6

/-- Global coordinates of local bunch `b` of field `f` (R21). -/
def bunchX (f b : Nat) : Nat := 6 * colOf f + b % 6
def bunchY (f b : Nat) : Nat := 6 * rowOf f + b / 6

/-- Stem address of a bunch (R57). -/
def bunchAddr (f b : Nat) : BitVec 16 := BitVec.ofNat 16 (0x1000 + 36 * bunchY f b + bunchX f b)

/-- Stem address of a field controller (R57). -/
def fieldAddr (f : Nat) : BitVec 16 := BitVec.ofNat 16 f

/-- Stem address of a rind unit, chiplet or the root chiplet (R57). -/
def dieAddr (die : Nat) : BitVec 16 := BitVec.ofNat 16 (0x2000 + die)

/-- Stem address of the active pith (R57). -/
def pithAddr : BitVec 16 := 0x3000

/-- Field of bunch (x, y) (R21). -/
def fieldOfXY (x y : Nat) : Nat := 6 * (y / 6) + x / 6

/-- Local bunch index of bunch (x, y) (R231). -/
def localOfXY (x y : Nat) : Nat := 6 * (y % 6) + x % 6

/-- N in whole slots (R33). -/
def floorN (s : State) : Nat := s.clk.n8 / 8

/-- ⌊N⌋ as field `f` counts it: loaded when it leaves SLEEPING, and raised at the same reference ticks (R33). -/
def fieldN (s : State) (f : Nat) : Nat := (fieldOf s f).clk.n8 / 8

/-- Nominal epoch in which N stands (R34). -/
def nominalEpoch (s : State) : Nat := floorN s / 4096

/-- Slot count of field `f`. -/
def slotOf (s : State) (f : Nat) : Nat := (fieldOf s f).clk.slot

/-- Epoch in which field `f` stands (R34). -/
def epochOf (s : State) (f : Nat) : Nat := slotOf s f / 4096

/-- The field is RETIRED or FENCED: its controller takes no part in anything. -/
def fieldGone (s : State) (f : Nat) : Bool := (fieldOf s f).cond.fenced || (fieldOf s f).cond.retired

/-- The field is a running field (R61): its activity is running or rested, and it is neither FENCED nor RETIRED. -/
def runningField (s : State) (f : Nat) : Bool :=
  !fieldGone s f && (fieldOf s f).cond.act != .sleeping

/-- The field has work of ASID `a` (R329). -/
def hasWork (s : State) (f a : Nat) : Bool := (fieldOf s f).cond.owner == a && a != 0

/-- The field has work or a transit route of ASID `a` (R329). -/
def hasJob (s : State) (f a : Nat) : Bool := hasWork s f a || (fieldOf s f).cond.leases.contains a

/-- A seam between fields `f` and `g` serves job `a`: both have its work, or one has and the other is leased to it (R41). -/
def seamServes (s : State) (f g a : Nat) : Bool := (hasWork s f a && hasJob s g a) || (hasJob s f a && hasWork s g a)

/-- The WORK fields of a job. -/
def workFields (s : State) (a : Nat) : List Nat := (List.range 36).filter fun f => hasWork s f a

/-- A list with the place of each item. -/
def numbered {α : Type} (l : List α) : List (Nat × α) := (List.range l.length).zip l

/-- The WORK and TRANSIT fields of a job. -/
def jobFields (s : State) (a : Nat) : List Nat := (List.range 36).filter fun f => hasJob s f a

/-- The ASIDs of every job with work or routes in the field. -/
def fieldAsids (s : State) (f : Nat) : List Nat :=
  let c := (fieldOf s f).cond
  (if c.owner == 0 then [] else [c.owner]) ++ c.leases.filter (· != c.owner)

/-! ## Segments and banks -/

/-- Key of the segment or bank that an ODA lies in (R221, R229, R246). -/
def placeKey (oda : Nat) : Nat :=
  if bitOf oda 33 then 8 * (8 * bitsOf oda 23 6 + bitsOf oda 20 3) + bitsOf oda 17 3 else 4096 + bitsOf oda 0 27 / 0x180000

/-- The segments or banks that the on-die bytes [oda, oda + n) touch, by `placeKey` (R227, R229). -/
def placeKeys (oda n : Nat) : List Nat :=
  if n = 0 then []
  else (List.range (placeKey (oda + n - 1) - placeKey oda + 1)).map (· + placeKey oda)

/-- Power state of the segment or bank of a key. -/
def placeOn (x : Field) (k : Nat) : Bool := (if k < 4096 then tabGet {} x.mem.seg k else tabGet {} x.mem.bank (k - 4096)).st == 2

/-! ## Lists -/

/-- The list with `x` where it is not yet in it. -/
def addNew {α : Type} [DecidableEq α] (x : α) (l : List α) : List α := if x ∈ l then l else l ++ [x]

/-- The list without every `x`. -/
def dropAll {α : Type} [DecidableEq α] (x : α) (l : List α) : List α := l.filter (· ≠ x)

/-- The list with `g` applied to the first element that satisfies `p`. -/
def modFirst {α : Type} (p : α → Bool) (g : α → α) : List α → List α
  | [] => []
  | x :: t => if p x then g x :: t else x :: modFirst p g t

/-- The list without the first element that satisfies `p`. -/
def eraseFirst {α : Type} (p : α → Bool) : List α → List α
  | [] => []
  | x :: t => if p x then t else x :: eraseFirst p t

/-! ## Events, stem messages and outputs -/

/-- An event as the reporter sends it: COUNT 1 (R370). -/
def mkEvent (src : BitVec 16) (slot code asid core engine : Nat) (addr detail : Nat) : ErrMsg :=
  { code := BitVec.ofNat 16 code, asid := asid, src := src, slot := BitVec.ofNat 48 slot, core := core,
    engine := engine, count := 1, addr := BitVec.ofNat 64 addr, detail := BitVec.ofNat 64 detail }

/-- Two reports of one code by one unit, a core being a unit of its own, for one job; a stream fault that the pith serves stays apart from one
that it logs (log 149). -/
def sameReport (m e : ErrMsg) : Bool := e.code == m.code && e.src == m.src && e.core == m.core && e.asid == m.asid && e.notPresent == m.notPresent

/-- An event enters its unit's event buffer: merged with an entry of the same code, whose first ADDR and DETAIL are
kept and whose COUNT rises, saturating at 1,023 (R370, R371). -/
def mergeEvent (m : ErrMsg) : List ErrMsg → List ErrMsg
  | [] => [m]
  | e :: t => if sameReport m e then { e with count := min 1023 (e.count + m.count) } :: t
              else e :: mergeEvent m t

/-- Raise an event. -/
def raise (s : State) (m : ErrMsg) : State := { s with stem := { s.stem with events := mergeEvent m s.stem.events } }

/-- Raise an event of a field controller or a unit that answers for the field (R57, R370). -/
def raiseField (s : State) (f code asid engine addr detail : Nat) : State :=
  raise s (mkEvent (fieldAddr f) (slotOf s f) code asid 0 engine addr detail)

/-- Raise an event of a core, reported from its bunch (R57, R370). -/
def raiseCore (s : State) (c : CoreId) (code asid engine addr detail : Nat) : State :=
  raise s (mkEvent (bunchAddr c.fld c.bun) (slotOf s c.fld) code asid c.cor engine addr detail)

/-- Raise an event of a rind unit, a chiplet or the root chiplet, with N as its SLOT (R370). -/
def raiseDie (s : State) (die code asid addr detail : Nat) : State :=
  raise s (mkEvent (dieAddr die) (floorN s) code asid 0 7 addr detail)

/-- Raise an event of the sloe domain, which lives in the root chiplet, die 63 (R14, R28). -/
def raiseSloe (s : State) (code detail : Nat) : State := raiseDie s 63 code 0 0 detail

/-- An output of the module. -/
def emit (s : State) (o : Output) : State := { s with out := o :: s.out }

/-- The index of the next free value, and the state after it is drawn (log 8). -/
def drawFree (s : State) : Nat × State := (s.free, { s with free := s.free + 1 })

end Sys2Proof.Machine
end

