-- ==== Sys2Proof/Machine/Formats.lean ====
section
/-! DEFINITION. Number formats (03): exact values, decoding, the one conversion function of R83, W128, and the vector
core's arithmetic and special functions (05, 07). Every value is exact until it is rounded. -/

namespace Sys2Proof.Machine

/-- The exact value of an encoding: a NaN, an infinity, or ± m × 2^e, where m = 0 is a zero of that sign. -/
inductive Num where
  | nan
  | inf (neg : Bool)
  | fin (neg : Bool) (m : Nat) (e : Int)
  deriving DecidableEq, Repr, Inhabited

/-- Flags of R89, as bits of a status slot. -/
def flNV : Nat := 1
def flOF : Nat := 2
def flUF : Nat := 4
def flNX : Nat := 8
def flWO : Nat := 16
def flWU : Nat := 32
def flNR : Nat := 64

/-- Short format codes 0x1 to 0xF (R188, R71): element width in bits. -/
def fmtBits : Nat → Nat
  | 1 => 4 | 2 => 4 | 3 => 6 | 4 => 6 | 5 => 8 | 6 => 8 | 7 => 8 | 8 => 8 | 9 => 8 | 10 => 8
  | 11 => 16 | 12 => 16 | 13 => 32 | 14 => 32 | _ => 128

/-- Mantissa bits of a floating-point format (R73). -/
def fmtMant : Nat → Nat
  | 1 => 1 | 2 => 1 | 3 => 3 | 4 => 2 | 5 => 3 | 6 => 2 | 8 => 3 | 9 => 2 | 11 => 7 | 12 => 10 | _ => 23

/-- Exponent bias of a floating-point format (R73). -/
def fmtBias : Nat → Nat
  | 1 => 1 | 2 => 1 | 3 => 1 | 4 => 3 | 5 => 7 | 6 => 15 | 8 => 7 | 9 => 15 | 11 => 127 | 12 => 15 | _ => 127

/-- Encoding of the largest finite value, sign clear (R73). -/
def fmtMax : Nat → Nat
  | 1 => 0x7 | 2 => 0x7 | 3 => 0x1F | 4 => 0x1F | 5 => 0x7E | 6 => 0x7B | 8 => 0x7E | 9 => 0x7B
  | 11 => 0x7F7F | 12 => 0x7BFF | _ => 0x7F7FFFFF

/-- The canonical NaN (R75); formats without one have none. -/
def fmtNan : Nat → Option Nat
  | 5 => some 0x7F | 8 => some 0x7F | 6 => some 0x7E | 9 => some 0x7E | 11 => some 0x7FC0 | 12 => some 0x7E00
  | 13 => some 0x7FC00000 | _ => none

/-- The encoding of infinity, sign clear (R73); formats without one have none. -/
def fmtInf : Nat → Option Nat
  | 6 => some 0x7C | 9 => some 0x7C | 11 => some 0x7F80 | 12 => some 0x7C00 | 13 => some 0x7F800000 | _ => none

/-- The format is an integer format: MXINT8, INT8 or INT32 (R77). -/
def fmtInt (c : Nat) : Bool := c == 7 || c == 10 || c == 14

/-- Exponent of the unit of an integer format: 2^−6 for MXINT8, 1 otherwise (R77, R83). -/
def fmtUnit (c : Nat) : Int := if c = 7 then -6 else 0

/-- The format is an MX format (R71). -/
def fmtMX (c : Nat) : Bool := decide (2 ≤ c ∧ c ≤ 7)

/-- Smallest normal exponent of a floating-point format (R73). -/
def fmtEmin (c : Nat) : Int := 1 - (fmtBias c : Int)

/-- The exact value of an encoding (R73, R77). -/
def decodeNum (c x : Nat) : Num :=
  let w := fmtBits c
  if fmtInt c then
    let z := sextNat x w
    .fin (decide (z < 0)) z.natAbs (fmtUnit c)
  else
    let neg := bitOf x (w - 1)
    let mag := x % 2 ^ (w - 1)
    if fmtMax c < mag then (if fmtInf c = some mag then .inf neg else .nan)
    else
      let m := mag % 2 ^ fmtMant c
      let e := mag / 2 ^ fmtMant c
      if e = 0 then .fin neg m (fmtEmin c - fmtMant c)
      else .fin neg (m + 2 ^ fmtMant c) ((e : Int) - fmtBias c - fmtMant c)

/-- Rounding of one discarded fraction `rem` ÷ 2^k above `lo` units (R83): 1 nearest-even, 2 toward zero, 3 stochastic
with the random word `r`. -/
def roundUp (rm lo rem k r : Nat) : Bool :=
  match rm with
  | 1 => decide (2 ^ k < 2 * rem ∨ (2 * rem = 2 ^ k ∧ lo % 2 = 1))
  | 3 => decide (2 ^ 32 ≤ rem * 2 ^ 32 / 2 ^ k + r)
  | _ => false

/-- m × 2^e in units of 2^q, rounded: the units and whether the result is inexact (R83). -/
def roundTo (rm : Nat) (m : Nat) (e q : Int) (r : Nat) : Nat × Bool :=
  if q ≤ e then (m * 2 ^ (e - q).toNat, false)
  else
    let k := (q - e).toNat
    let lo := m / 2 ^ k
    let rem := m % 2 ^ k
    (if roundUp rm lo rem k r then lo + 1 else lo, decide (rem ≠ 0))

/-- The sign bit of a format set where `neg`. -/
def withSign (c : Nat) (neg : Bool) (x : Nat) : Nat := if neg then x + 2 ^ (fmtBits c - 1) else x

/-- A finite nonzero value into a floating-point format (R83): the encoding and the flags. -/
def toFloat (c rm : Nat) (ieee : Bool) (r : Nat) (neg : Bool) (m : Nat) (e : Int) : Nat × Nat :=
  let mb := fmtMant c
  let ex := max ((Nat.log2 m : Int) + e) (fmtEmin c)
  let q := ex - mb
  let (n, inexact) := roundTo rm m e q r
  let enc := if n < 2 ^ mb then n else ((ex - fmtEmin c).toNat + 1) * 2 ^ mb + (n - 2 ^ mb)
  if fmtMax c < enc then
    if ieee && rm != 2 then
      match fmtInf c, fmtNan c with
      | some i, _ => (withSign c neg i, flOF)
      | none, some x => (x, flOF)
      | none, none => (withSign c neg (fmtMax c), flOF)
    else (withSign c neg (fmtMax c), flOF)
  else if inexact then
    (withSign c neg enc, if enc < 2 ^ mb then flNX + flUF else flNX)
  else (withSign c neg enc, 0)

/-- A finite nonzero value into an integer format (R83): always saturating (R85). -/
def toInteger (c rm r : Nat) (neg : Bool) (m : Nat) (e : Int) : Nat × Nat :=
  let w := fmtBits c
  let (n, inexact) := roundTo rm m e (fmtUnit c) r
  let top := if neg then 2 ^ (w - 1) else 2 ^ (w - 1) - 1
  let put := fun (k : Nat) => if neg then (2 ^ w - k) % 2 ^ w else k
  if top < n then (put top, flOF) else (put n, if inexact then flNX else 0)

/-- Conversion of an exact value to the format with short code `c` (R83 to R85). `ieee` selects IEEE-style overflow of a
finite value, `ieeeInf` that of an infinity; the two differ for MX elements only (R82). -/
def convertNum (c rm : Nat) (ieee ieeeInf : Bool) (r : Nat) : Num → Nat × Nat
  | .nan => match fmtNan c with
    | some x => (x, 0)
    | none => (0, flNV)
  | .inf neg =>
    if fmtInt c then (if neg then 2 ^ (fmtBits c - 1) else 2 ^ (fmtBits c - 1) - 1, flNV)
    else match fmtInf c, fmtNan c with
      | some i, _ => (withSign c neg i, 0)
      | none, some x => if ieeeInf then (x, flOF) else (withSign c neg (fmtMax c), flOF)
      | none, none => (withSign c neg (fmtMax c), flOF)
  | .fin neg m e =>
    if m = 0 then (if fmtInt c then 0 else withSign c neg 0, 0)
    else if fmtInt c then toInteger c rm r neg m e
    else toFloat c rm ieee r neg m e

/-- Conversion without scale, for BF16, binary16 and FP32 always IEEE-style (R85). -/
def convert (c rm : Nat) (ovf : Bool) (r : Nat) (x : Num) : Nat × Nat :=
  let i := ovf || c == 11 || c == 12 || c == 13
  convertNum c rm i i r x

/-- A value divided by 2^k (k may be negative). -/
def scaleNum (k : Int) : Num → Num
  | .fin neg m e => .fin neg m (e - k)
  | x => x

/-- A value times an E8M0 scale: NaN where the scale is 0xFF (R78, R80). -/
def timesScale (x : Num) (s : Nat) : Num := if s = 255 then .nan else scaleNum (127 - (s : Int)) x

/-- A value divided by an E8M0 scale (R82, R212). -/
def overScale (x : Num) (s : Nat) : Num := if s = 255 then .nan else scaleNum ((s : Int) - 127) x

/-! ## Fixed-point windows: 48-bit accumulators and W128 -/

/-- NaR of an accumulator or W128 (R95), as its two's-complement integer. -/
def nar (len : Nat) : Int := -((2 : Int) ^ (len - 1))

/-- A fixed-point sum in range, or saturated with WO (R95). -/
def satWindow (len : Nat) (z : Int) : Int × Nat :=
  let top := (2 : Int) ^ (len - 1) - 1
  if top < z then (top, flWO) else if z < -top then (-top, flWO) else (z, 0)

/-- m × 2^e in units of 2^u rounded to nearest-even as a signed integer, with WU if bits are lost (R93, R98). -/
def toUnits (neg : Bool) (m : Nat) (e u : Int) : Int × Nat :=
  let (n, inexact) := roundTo 1 m e u 0
  (if neg then -(n : Int) else (n : Int), if inexact then flWU else 0)

/-- An exact value into W128 at anchor `a` (R98): NaN and infinities give NaR (R84). -/
def toW128 (a : Nat) : Num → Int × Nat
  | .fin neg m e =>
    let (z, f) := toUnits neg m e ((a : Int) - 192)
    let (v, g) := satWindow 128 z
    (v, f ||| g)
  | _ => (nar 128, flNV ||| flNR)

/-- The sum of two fixed-point values (R95, R98). -/
def addWindow (len : Nat) (x y : Int) : Int × Nat :=
  if x = nar len ∨ y = nar len then (nar len, flNR) else satWindow len (x + y)

/-- A fixed-point value at anchor `a` as an exact value; NaR reads as NaN (R98). -/
def windowNum (len a : Nat) (v : Int) : Num :=
  if v = nar len then .nan else .fin (decide (v < 0)) v.natAbs ((a : Int) - 192)

/-- A fixed-point value out of its window into format `c` (R98): V = 0 gives +0, NaR sets NR. DEDUCED (log 173):
a nonzero negative value that rounds to zero gives −0, as R76 has it of every nonzero value. -/
def fromWindow (len a c rm : Nat) (ovf : Bool) (r : Nat) (v : Int) : Nat × Nat :=
  let (x, f) := convert c rm ovf r (windowNum len a v)
  (x, if v = nar len then f ||| flNR else f)

/-- Re-anchoring from `a` to `b` (R98): a conversion into W128 at `b`. -/
def reanchor (a b : Nat) (v : Int) : Int × Nat :=
  if v = nar 128 then (nar 128, flNR) else toW128 b (windowNum 128 a v)

/-! ## MX block scales -/

/-- emax of an MX element format (R82). -/
def fmtEmax : Nat → Int
  | 2 => 2 | 3 => 2 | 4 => 4 | 5 => 8 | 6 => 15 | _ => 0

/-- ⌊log₂ amax⌋ of the nonzero values of a block, with an infinity as 2^128 (R82); none where all are zero. -/
def blockExp : List Num → Option Int
  | [] => none
  | x :: t =>
    let rest := blockExp t
    match x with
    | .inf _ => some (match rest with | some k => max k 128 | none => 128)
    | .fin _ m e =>
      if m = 0 then rest
      else some (match rest with | some k => max k ((Nat.log2 m : Int) + e) | none => (Nat.log2 m : Int) + e)
    | .nan => rest

/-- E8M0 block scale of the values of a block for MX format `c` (R82). -/
def blockScale (c : Nat) (xs : List Num) : Nat :=
  if xs.any (fun x => decide (x = .nan)) then 255
  else match blockExp xs with
    | none => 0
    | some k => (clampInt 0 254 (k - fmtEmax c + 127)).toNat

/-! ## Vector arithmetic -/

/-- The exact signed integer of a finite value in units of 2^u, u at or below its exponent. -/
def intAt (neg : Bool) (m : Nat) (e u : Int) : Int :=
  let n : Int := (m * 2 ^ (e - u).toNat : Nat)
  if neg then -n else n

/-- Exact sum; the sign of an exact zero sum of addends of unlike sign is `z` (log 10). -/
def addNum (z : Bool) : Num → Num → Num
  | .nan, _ => .nan
  | _, .nan => .nan
  | .inf a, .inf b => if a = b then .inf a else .nan
  | .inf a, _ => .inf a
  | _, .inf b => .inf b
  | .fin a m e, .fin b n f =>
    let u := min e f
    let v := intAt a m e u + intAt b n f u
    if v = 0 then .fin (if a = b then a else z) 0 0 else .fin (decide (v < 0)) v.natAbs u

/-- Exact product (R136): 0 × ∞ is invalid. -/
def mulNum : Num → Num → Num
  | .nan, _ => .nan
  | _, .nan => .nan
  | .inf a, .inf b => .inf (a != b)
  | .inf a, .fin b m _ => if m = 0 then .nan else .inf (a != b)
  | .fin a m _, .inf b => if m = 0 then .nan else .inf (a != b)
  | .fin a m e, .fin b n f => .fin (a != b) (m * n) (e + f)

/-- The value negated. -/
def negNum : Num → Num
  | .nan => .nan
  | .inf a => .inf !a
  | .fin a m e => .fin (!a) m e

/-- `x` < `y`; −0 equals +0, a NaN is below nothing and above nothing. -/
def ltNum : Num → Num → Bool
  | .nan, _ => false
  | _, .nan => false
  | .inf a, .inf b => a && !b
  | .inf a, .fin _ _ _ => a
  | .fin _ _ _, .inf b => !b
  | .fin a m e, .fin b n f =>
    let u := min e f
    decide (intAt a m e u < intAt b n f u)

/-- Equal as numbers; −0 equals +0, a NaN equals nothing. -/
def eqNum (x y : Num) : Bool :=
  decide (x ≠ .nan) && decide (y ≠ .nan) && !ltNum x y && !ltNum y x

/-- A zero of the sign given. -/
def signOf : Num → Bool
  | .nan => false
  | .inf a => a
  | .fin a _ _ => a

/-- The lesser value of FMIN (R136): −0 orders below +0, a NaN operand gives NaN. -/
def minNum (x y : Num) : Num :=
  if x = .nan ∨ y = .nan then .nan
  else if ltNum x y then x else if ltNum y x then y else if signOf x then x else y

/-- The greater value of FMAX (R136). -/
def maxNum (x y : Num) : Num :=
  if x = .nan ∨ y = .nan then .nan
  else if ltNum x y then y else if ltNum y x then x else if signOf x then y else x

/-- An exact result of vector arithmetic into FP32, BF16 or binary16 (R136): nearest-even, overflow to infinity, and any
inexact result sets NX, an overflow among them (R89). -/
def arith (c : Nat) (x : Num) : Nat × Nat :=
  let (v, f) := convert c 1 true 0 x
  (v, if f &&& flOF ≠ 0 then f ||| flNX else f)

/-! ## Special functions -/

/-- ⌊√n⌋, bit by bit from bit `k` down. -/
def isqrtFrom (n : Nat) : Nat → Nat → Nat
  | 0, s => if (s + 1) * (s + 1) ≤ n then s + 1 else s
  | k + 1, s =>
    let t := s + 2 ^ (k + 1)
    isqrtFrom n k (if t * t ≤ n then t else s)

/-- ⌊√n⌋. -/
def isqrt (n : Nat) : Nat := isqrtFrom n (Nat.log2 n / 2 + 1) 0

/-- Fraction bits of the fixed-point numbers in which the transcendental functions are evaluated. -/
def fxBits : Nat := 256

/-- x × y in fixed point. -/
def fxMul (x y : Nat) : Nat := x * y / 2 ^ fxBits

/-- 2^(0.f) in fixed point, f of n bits: the product of 2^(2^−i) over the set bits; c is 2^(2^−i) at the step. -/
def fxExp2 (f : Nat) : Nat → Nat → Nat → Nat
  | 0, _, acc => acc
  | n + 1, c, acc =>
    let c' := isqrt (c * 2 ^ fxBits)
    fxExp2 f n c' (if bitOf f n then fxMul acc c' else acc)

/-- `n` bits of log₂ y for y in [1, 2) in fixed point, by repeated squaring. -/
def fxLog2 : Nat → Nat → Nat → Nat
  | 0, _, acc => acc
  | n + 1, y, acc =>
    let z := fxMul y y
    if 2 ^ (fxBits + 1) ≤ z then fxLog2 n (z / 2) (2 * acc + 1) else fxLog2 n z (2 * acc)

/-- Taylor sum of e^z − 1 in fixed point: term by term from term i on. -/
def fxExpSum (z : Nat) : Nat → Nat → Nat → Nat → Nat
  | 0, _, _, acc => acc
  | n + 1, i, term, acc =>
    let t := fxMul term z / i
    fxExpSum z n (i + 1) t (acc + t)

/-- `n` squarings. -/
def fxSquares : Nat → Nat → Nat
  | 0, x => x
  | n + 1, x => fxSquares n (fxMul x x)

/-- e^z for z < 32 in fixed point. -/
def fxExp (z : Nat) : Nat :=
  let one := 2 ^ fxBits
  fxSquares 8 (one + fxExpSum (z / 2 ^ 8) 60 1 one 0)

/-- A positive dyadic m × 2^e, exact or the floor of an inexact value with more than 24 bits kept, truncated to FP32
(R214): larger than the largest value becomes infinity with OF. -/
def truncF32 (neg : Bool) (m : Nat) (e : Int) (inexact : Bool) : Nat × Nat :=
  let m' := 2 * m + b2n inexact
  let e' := e - 1
  if m = 0 then (withSign 13 neg 0, if inexact then flUF ||| flNX else 0)
  else
    let (v, f) := toFloat 13 2 true 0 neg m' e'
    if f &&& flOF ≠ 0 then (withSign 13 neg 0x7F800000, flOF ||| flNX)
    else (v, f)

/-- RCP of a finite nonzero value. -/
def rcpNum (neg : Bool) (m : Nat) (e : Int) : Nat × Nat :=
  let k := Nat.log2 m + 64
  let q := 2 ^ k / m
  truncF32 neg q (-(k : Int) - e) (decide (2 ^ k % m ≠ 0))

/-- A positive value with its exponent made even. -/
def evenExp (m : Nat) (e : Int) : Nat × Int := if e % 2 = 0 then (m, e) else (2 * m, e - 1)

/-- SQRT of a finite positive value, rounded to nearest-even. -/
def sqrtNum (m : Nat) (e : Int) : Nat × Nat :=
  let (m1, e1) := evenExp m e
  let n := m1 * 2 ^ 128
  let s := isqrt n
  arith 13 (.fin false (2 * s + b2n (decide (s * s ≠ n))) (e1 / 2 - 64 - 1))

/-- RSQRT of a finite positive value. -/
def rsqrtNum (m : Nat) (e : Int) : Nat × Nat :=
  let (m1, e1) := evenExp m e
  let k := Nat.log2 m1 + 128
  let s := isqrt (2 ^ (2 * k) / m1)
  truncF32 false s (-(k : Int) - e1 / 2) (decide (s * s * m1 ≠ 2 ^ (2 * k)))

/-- EXP2 of a finite nonzero value. -/
def exp2Num (neg : Bool) (m : Nat) (e : Int) : Nat × Nat :=
  if 8 ≤ (Nat.log2 m : Int) + e then
    if neg then (0, flUF ||| flNX) else (0x7F800000, flOF ||| flNX)
  else if (Nat.log2 m : Int) + e < -30 then (if neg then 0x3F7FFFFF else 0x3F800000, flNX)
  else
    let n : Nat := (-e).toNat
    let z := intAt neg m e (min e 0)
    let i := z / (2 : Int) ^ n
    let f := (z % (2 : Int) ^ n).toNat
    if f = 0 then truncF32 false 1 i false
    else truncF32 false (fxExp2 f n (2 ^ (fxBits + 1)) (2 ^ fxBits)) (i - fxBits) true

/-- Bits of log₂ that LOG2 keeps. -/
def logBits : Nat := 128

/-- LOG2 of a finite positive value. -/
def log2Num (m : Nat) (e : Int) : Nat × Nat :=
  let k := (Nat.log2 m : Int) + e
  if m = 2 ^ Nat.log2 m then
    (if k = 0 then (0, 0) else arith 13 (.fin (decide (k < 0)) k.natAbs 0))
  else
    let y := m * 2 ^ fxBits / 2 ^ Nat.log2 m
    let f := fxLog2 logBits y 0
    if 0 ≤ k then truncF32 false (k.toNat * 2 ^ logBits + f) (-(logBits : Int)) true
    else truncF32 true ((-k).toNat * 2 ^ logBits - f - 1) (-(logBits : Int)) true

/-- TANH of a finite nonzero value. -/
def tanhNum (neg : Bool) (m : Nat) (e : Int) : Nat × Nat :=
  let x := (Nat.log2 m : Int) + e
  if x < -12 then
    -- |x| − |x|³ ÷ 3 lies between |x| and its predecessor
    let v := (convert 13 1 true 0 (.fin false m e)).1 - 1
    (withSign 13 neg v, if v < 2 ^ 23 then flUF ||| flNX else flNX)
  else if 4 ≤ x then (withSign 13 neg 0x3F7FFFFF, flNX)
  else
    let z := if 0 ≤ e + 1 then m * 2 ^ (e + 1).toNat * 2 ^ fxBits else m * 2 ^ fxBits / 2 ^ (-e - 1).toNat
    let ez := fxExp z
    truncF32 neg ((ez - 2 ^ fxBits) * 2 ^ fxBits / (ez + 2 ^ fxBits)) (-(fxBits : Int)) true

/-- SPEC in FP32 (R214): FN 0 RCP, 1 RSQRT, 2 SQRT, 3 EXP2, 4 LOG2, 5 TANH; the table's special inputs are exact. -/
def specNum (fn : Nat) (x : Num) : Nat × Nat :=
  match x with
  | .nan => (0x7FC00000, 0)
  | .inf neg =>
    match fn with
    | 0 => (withSign 13 neg 0, 0)
    | 1 => if neg then (0x7FC00000, 0) else (0, 0)
    | 2 => if neg then (0x7FC00000, 0) else (0x7F800000, 0)
    | 3 => if neg then (0, 0) else (0x7F800000, 0)
    | 4 => if neg then (0x7FC00000, 0) else (0x7F800000, 0)
    | _ => (withSign 13 neg 0x3F800000, 0)
  | .fin neg m e =>
    if m = 0 then
      match fn with
      | 0 => (withSign 13 neg 0x7F800000, 0)
      | 1 => (withSign 13 neg 0x7F800000, 0)
      | 2 => (withSign 13 neg 0, 0)
      | 3 => (0x3F800000, 0)
      | 4 => (0xFF800000, 0)
      | _ => (withSign 13 neg 0, 0)
    else
      match fn with
      | 0 => rcpNum neg m e
      | 1 => if neg then (0x7FC00000, 0) else rsqrtNum m e
      | 2 => if neg then (0x7FC00000, 0) else sqrtNum m e
      | 3 => exp2Num neg m e
      | 4 => if neg then (0x7FC00000, 0) else log2Num m e
      | _ => tanhNum neg m e

end Sys2Proof.Machine
end

