-- ==== Sys2Proof/Machine/Flags.lean ====
section
/-! DEFINITION. Status slots and flags (R89, R193), and the rounding and overflow settings that the formats policy
supplies (R86, R87). -/

namespace Sys2Proof.Machine

/-- Status slot `i` of a task. -/
def slotGet (t : Task) (i : Nat) : Nat := (tabGet 0 t.status i).toNat

/-- Flags ORed into status slot `i` (R89). -/
def slotOr (t : Task) (i fl : Nat) : Task := { t with status := tabPut 0 i (BitVec.ofNat 8 (slotGet t i ||| fl)) t.status }

/-- Status slot `i` cleared (R193). -/
def slotClear (t : Task) (i : Nat) : Task := { t with status := tabPut 0 i 0 t.status }

/-- OR of a list of flag sets. -/
def orFlags (l : List Nat) : Nat := l.foldl (· ||| ·) 0

/-- Rounding mode of a rounding field under the formats policy (R83, R86, R87): 1 nearest-even, 2 toward zero,
3 stochastic. -/
def rndMode (policy : Nat) (rnd : Nat) : Nat :=
  if rnd = 0 then bitsOf policy 0 2 + 1 else rnd

/-- IEEE-style overflow by the instruction's bit or the policy default (R85 to R87). -/
def ovfMode (policy : Nat) (ovf : Bool) : Bool := ovf || bitOf policy 2

/-- Formats policy word in force for ASID `a` in field `f` (R87, R102). -/
def policyOf (s : State) (f a : Nat) : Nat := (tabGet 0 (fieldOf s f).job.policy a).toNat

end Sys2Proof.Machine
end

