-- ==== Sys2Proof/Machine/Gate.lean ====
section
/-! DEFINITION. The slot gate of a field (02 R35 to R44) and the readiness check of its streams (09 R273): whether the field may
execute its present slot, and why not. -/

namespace Sys2Proof.Machine

/-- The field runs: it is ACTIVE, or PARTIAL with the running activity, and the module is powered and out of reset. -/
def fieldRuns (s : State) (f : Nat) : Bool :=
  s.inp.main && !s.inp.held && !fieldGone s f && (fieldOf s f).cond.act == .running

/-- The field's oscillator runs: it is ACTIVE or RESTED (R17). -/
def fieldClocked (s : State) (f : Nat) : Bool :=
  s.inp.main && !s.inp.held && !fieldGone s f && (fieldOf s f).cond.act != .sleeping

/-- Schedule anchor of a job in a field, in slots (R157). -/
def anchorOf (s : State) (f a : Nat) : Nat := tabGet 0 (fieldOf s f).job.anchor a

/-! ## Readiness -/

/-- DUE of a descriptor (R257). -/
def descDue (d : BitVec 512) : Nat := bitsOf d.toNat 288 32

/-- The epoch, from the anchor, by which the first incomplete descriptor of a stream is due, or a lower bound of it (R273). -/
def streamDue (lead : Nat) (x : Stream) : Nat :=
  if x.base ≤ x.didx ∧ x.didx < x.base + x.descs.length then x.t0 + descDue (x.descs.getD (x.didx - x.base) 0)
  else match x.descs.getLast? with
    | some d => x.t0 + descDue d
    | none => x.t0 + lead

/-- The streams that keep the field from being ready in its present slot (R273). -/
def lateStreams (s : State) (f : Nat) : List Nat :=
  let x := fieldOf s f
  let a := anchorOf s f x.cond.owner
  (x.str.str.filter fun e =>
    (e.2.st == .active || e.2.st == .faulted) && decide (a + 4096 * streamDue x.str.lead e.2 ≤ x.clk.slot)).map (·.1)

/-! ## Seams -/

/-- Side of crossing `x`: 0 N, 1 E, 2 S, 3 W (R251). -/
def sideOf (x : Nat) : Nat := x / 6

/-- The crossing of the neighbouring field that faces crossing `x`. -/
def facing (x : Nat) : Nat := 6 * ((x / 6 + 2) % 4) + x % 6

/-- The neighbour of field `f` on side 0 N, 1 E, 2 S, 3 W. -/
def neighbour (f side : Nat) : Option Nat :=
  match side with
  | 0 => if 1 ≤ rowOf f then some (f - 6) else none
  | 1 => if colOf f < 5 then some (f + 1) else none
  | 2 => if rowOf f < 5 then some (f + 6) else none
  | _ => if 1 ≤ colOf f then some (f - 1) else none

/-- ASIDs for which the seam on a side is enabled. -/
def seamJobs (s : State) (f side : Nat) : List Nat := tabGet [] (fieldOf s f).net.seam side

/-- The crossings on enabled seams. -/
def openCrossings (s : State) (f : Nat) : List Nat :=
  (List.range 24).filter fun x => (neighbour f (sideOf x)).isSome && !(seamJobs s f (sideOf x)).isEmpty

/-- Inbound buffer of crossing `x`, plane `p`. -/
def seamBuf (s : State) (f x p : Nat) : List SeamEntry := tabGet [] (fieldOf s f).net.buf (2 * x + p)

/-- The entry that field `f` takes in slot `t` at a crossing (R42). -/
def seamTake (s : State) (f x p t : Nat) : Option SeamEntry := (seamBuf s f x p).find? fun e => e.dep + 256 == t

/-- The buffer that field `f` fills by crossing `x`, plane `p`, is full (R42). -/
def seamFull (s : State) (f x p : Nat) : Bool :=
  match neighbour f (sideOf x) with
  | some g => decide (320 ≤ (seamBuf s g (facing x) p).length)
  | none => false

/-! ## The gate -/

/-- A change that is staged for an epoch up to `e` and not decided (R38, R67). -/
def undecided (s : State) (f e : Nat) : Bool := (fieldOf s f).clk.staged.any fun c => !c.decided && decide (c.epoch ≤ e)

/-- Hold cause of the field in its present slot, in the order of R38. -/
def holdCause (s : State) (f : Nat) : HoldCause :=
  let c := (fieldOf s f).clk
  let start := c.slot % 4096 == 0
  let xs := openCrossings s f
  if start && s.inp.refLost then .refLoss
  else if start && c.thermal then .thermal
  else if start && undecided s f (c.slot / 4096) then .commitWait
  else if start && !(lateStreams s f).isEmpty then .ready
  else if xs.any (fun x => [0, 1].any fun p => (seamTake s f x p c.slot).isNone) then .seamIn
  else if xs.any (fun x => [0, 1].any fun p => seamFull s f x p) then .seamSpace
  else .none

/-- The field is level with the nominal count, as it counts it: its cycle is a bubble (R33, R35, R36). -/
def bubbles (s : State) (f : Nat) : Bool := !s.inp.refLost && decide (fieldN s f ≤ slotOf s f)

/-- The field may execute its present slot (R35): neither a bubble nor a hold. -/
def gateOpen (s : State) (f : Nat) : Bool := !bubbles s f && holdCause s f == .none

/-- Code of a hold cause (R60). -/
def holdCode : HoldCause → Fin 16
  | .none => 0 | .refLoss => 1 | .thermal => 2 | .commitWait => 3 | .ready => 4 | .seamIn => 5 | .seamSpace => 6

/-- The route index of a job on a plane in slot `t`, and the active bank (R47). -/
def routeIndex (n : FieldNet) (a p t : Nat) : Option (Nat × Nat) :=
  let bank := tabGet 0 n.bank (2 * a + p)
  let per := tabGet 0 n.period ((2 * a + p) * 2 + bank)
  let base := tabGet 0 n.base (2 * a + p)
  if per = 0 ∨ t < base then none else some ((t - base) % per, bank)

end Sys2Proof.Machine
end

