-- ==== Sys2Proof/Machine/Operands.lean ====
section
/-! DEFINITION. Operand forms of the instruction words (07): tokens, memory operands, windows, the shared-memory wheel,
and the well-formedness of a word for an engine (R183 to R189, R218). -/

namespace Sys2Proof.Machine

/-- The kind of a core, by its LSRC code (R48, R155). -/
inductive CoreKind where
  | matrix | vector | scalar
  deriving DecidableEq, Repr, Inhabited

/-- Kind of core `c`. -/
def coreKind (c : Nat) : CoreKind := if c < 4 then .matrix else if c < 7 then .vector else .scalar

/-- The core kind has the engine (R155). -/
def engineOn : CoreKind → Engine → Bool
  | .matrix, .load => true | .matrix, .mac => true | .matrix, .drain => true
  | .vector, .load => true | .vector, .vec => true | .vector, .store => true
  | .scalar, .scalar => true
  | _, _ => false

/-- Opcode of a word (R183). -/
def opcOf (w : Nat) : Nat := bitsOf w 0 8

/-! ## Tokens -/

/-- Wait mask of a word, with the task's token-mask table (R184, R185). -/
def waitMask (masks : Tab (BitVec 32)) (w : Nat) : Nat :=
  if bitOf w 18 then (tabGet 0 masks (bitsOf w 8 6)).toNat % 2 ^ 16
  else if bitOf w 17 then 2 ^ bitsOf w 13 4 else 0

/-- Post mask of a word (R184, R185). -/
def postMask (masks : Tab (BitVec 32)) (w : Nat) : Nat :=
  if bitOf w 18 then (tabGet 0 masks (bitsOf w 8 6)).toNat / 2 ^ 16
  else if bitOf w 12 then 2 ^ bitsOf w 8 4 else 0

/-- The queue numbers of a mask. -/
def maskList (m : Nat) : List Nat := (List.range 16).filter fun q => bitOf m q

/-- TOK is well formed: reserved bits zero, and WQ and PQ zero where the word does not wait or post (R184, R187). -/
def tokOk (w : Nat) : Bool :=
  if bitOf w 18 then bitsOf w 14 4 == 0
  else (bitOf w 17 || bitsOf w 13 4 == 0) && (bitOf w 12 || bitsOf w 8 4 == 0)

/-! ## Memory operands and windows -/

/-- A MEM operand (R189). -/
structure MemOp where
  win : Nat
  areg : Nat
  inc : Bool
  imm : Nat
  deriving DecidableEq, Repr

/-- The MEM operand whose lowest bit is `b` (R189). -/
def memOp (w b : Nat) : MemOp := ⟨bitsOf w b 3, bitsOf w (b + 3) 3, bitOf w (b + 6), bitsOf w (b + 7) 13⟩

/-- An INC of 1 with A = 0 is ill-formed (R218). -/
def memOk (w b : Nat) : Bool := !(bitOf w (b + 6) && bitsOf w (b + 3) 3 == 0)

/-- a[A]; a0 reads as zero (R190). -/
def aregGet (t : Task) (a : Nat) : Nat := if a = 0 then 0 else (tabGet 0 t.areg a).toNat

/-- a[A] written modulo 2³²; a0 is not written (R190, R199). -/
def aregSet (t : Task) (a v : Nat) : Task := if a = 0 then t else { t with areg := tabPut 0 a (BitVec.ofNat 32 v) t.areg }

/-- Byte offset that a MEM operand names: bits [5:0] of a[A] are ignored, and the sum wraps modulo 2³² (R189). -/
def memOffset (t : Task) (m : MemOp) : Nat :=
  let a := aregGet t m.areg / 64 * 64
  if m.inc then a else (a + 64 * m.imm) % 2 ^ 32

/-- The increment that a MEM operand makes (R189). -/
def memIncr (m : MemOp) (t : Task) : Task :=
  if m.inc then aregSet t m.areg (aregGet t m.areg + 64 * m.imm) else t

/-- The rights of a window (R160). -/
inductive Right where
  | rd | wr | ex
  deriving DecidableEq, Repr

/-- The window holds the right. -/
def hasRight (win : Nat) : Right → Bool
  | .rd => bitOf win 47
  | .wr => bitOf win 48
  | .ex => bitOf win 49

/-- SPACE of a window: 0 core memory, 1 field shared memory (R160). -/
def winSpace (win : Nat) : Nat := bitsOf win 44 3

/-- Size in bytes of core memory of core `c` (R221). -/
def coreMemSize (c : Nat) : Nat := if c < 7 then 0x100000 else 0x40000

/-- First ODA of the core memory of a core (R246). -/
def coreBase (c : CoreId) : Nat := c.fld * 2 ^ 34 + 2 ^ 33 + c.bun * 2 ^ 23 + c.cor * 2 ^ 20

/-- The same by the core's key. -/
def keyBase (k : Nat) : Nat := k / 288 * 2 ^ 34 + 2 ^ 33 + k / 8 % 36 * 2 ^ 23 + k % 8 * 2 ^ 20

/-- First ODA of a field's shared memory (R246). -/
def sharedBase (f : Nat) : Nat := f * 2 ^ 34

/-- Bytes of field shared memory (R229). -/
def sharedSize : Nat := 0x6000000

/-- The ODA of an access of `n` bytes at offset `o` through window word `win`, where the access is made (R160, R161); an
access past the end of SPACE, or to a reserved SPACE, is not made (log 14). -/
def winAccess (c : CoreId) (win : Nat) (r : Right) (o n : Nat) : Option Nat :=
  let len := bitsOf win 22 22
  let b := 64 * bitsOf win 0 22 + o
  if len ≠ 0 ∧ hasRight win r ∧ o + n ≤ 64 * len then
    if winSpace win = 0 ∧ b + n ≤ coreMemSize c.cor then some (coreBase c + b)
    else if winSpace win = 1 ∧ r ≠ .ex ∧ b + n ≤ sharedSize then some (sharedBase c.fld + b)
    else none
  else none

/-- The ODA of an access through a window, where it is made in the present state: every segment and bank that it reaches is ON; an access
to another is not made (R161, R236; log 14). -/
def dieAccess (s : State) (c : CoreId) (win : Nat) (r : Right) (o n : Nat) : Option Nat :=
  match winAccess c win r o n with
  | some oda => if (placeKeys oda n).all (placeOn (fieldOf s c.fld)) then some oda else none
  | none => none

/-- Window register `i` of a task. -/
def winOf (t : Task) (i : Nat) : Nat := (tabGet 0 t.win i).toNat

/-- A window with SPACE 0b000, as fetch, LSTAT and DRN to core memory need (R227). -/
def coreWin (t : Task) (i : Nat) : Bool := winSpace (winOf t i) == 0

/-! ## The shared-memory wheel -/

/-- Logical bank of a shared-memory offset (R229). -/
def bankOf (o : Nat) : Nat := o / 0x180000

/-- The wheel entry that names an engine (R231). -/
def wheelOwner (c : CoreId) (e : Engine) : Nat :=
  2 ^ 14 + c.bun * 2 ^ 8 + c.cor * 2 ^ 5 + (if e = .drain ∨ e = .store then 2 ^ 4 else 0)

/-- The first slot from `s` on, within one turn of the wheel, whose position in the bank names the owner (R233). -/
def wheelNext (wheel : Tab (BitVec 16)) (bank owner : Nat) : Nat → Nat → Option Nat
  | 0, _ => none
  | n + 1, s =>
    if (tabGet 0 wheel (16 * bank + s % 16)).toNat = owner then some s else wheelNext wheel bank owner n (s + 1)

/-- The slots of the blocks of an access, in address order: block i no earlier than t + i and after the block before it
(R233). None where the wheel never names the owner. -/
def wheelSlots (wheel : Tab (BitVec 16)) (owner t : Nat) : List Nat → Nat → Nat → Option (List Nat)
  | [], _, _ => some []
  | b :: bs, i, next =>
    match wheelNext wheel b owner 16 (max (t + i) next) with
    | none => none
    | some s => (wheelSlots wheel owner t bs (i + 1) (s + 1)).map (s :: ·)

/-- The banks of the 128-byte blocks that [o, o + n) touches (R233). -/
def blockBanks (o n : Nat) : List Nat :=
  if n = 0 then [] else (List.range ((o + n - 1) / 128 - o / 128 + 1)).map fun i => bankOf (128 * (o / 128 + i))

/-- The slots in which the blocks of an access at ODA `oda` are made: for core memory none wait, and `none` means that the
nominal timing holds; for shared memory the wheel's slots; `some none` where the wheel never serves the engine. -/
def accessSlots (s : State) (c : CoreId) (e : Engine) (t oda n : Nat) : Option (Option (List Nat)) :=
  if bitOf oda 33 then none
  else some (wheelSlots (fieldOf s c.fld).mem.wheel (wheelOwner c e) t (blockBanks (oda % 2 ^ 27) n) 0 t)

/-! ## Well-formedness of a word -/

/-- Bits [lo + len − 1 : lo] are zero. -/
def zb (w lo len : Nat) : Bool := bitsOf w lo len == 0

/-- FT is one of the codes given (R188). -/
def ftIn (w : Nat) (l : List Nat) : Bool := l.contains (bitsOf w 55 3)

/-- A vector word with the fields that it uses: FT codes, and the use of VB, VC, H and SLOT (R187, R210). H is used by the
mixed forms only, but for SPEC. -/
def v3Ok (w : Nat) (ft : List Nat) (vb vc slot : Bool) : Bool :=
  ftIn w ft && (vb || zb w 37 9) && (vc || zb w 46 9) && (slot || zb w 59 4) && zb w 63 1 &&
  (decide (bitsOf w 55 3 = 5) || decide (bitsOf w 55 3 = 6) || zb w 58 1)

/-- A W-form word with the fields that it uses: Q1, Q2, VR, FMT, and the conversion settings of WOUT (R215). -/
def wOk (w : Nat) (q1 q2 vr fmt set : Bool) : Bool :=
  (q1 || zb w 19 7) && (q2 || zb w 26 7) && (vr || zb w 33 9) &&
  (if fmt then decide (11 ≤ bitsOf w 50 4 ∧ bitsOf w 50 4 ≤ 14) && (decide (bitsOf w 50 4 ≤ 12) || zb w 54 1)
   else zb w 50 5) &&
  (set || zb w 59 4) && zb w 63 1

/-- Format code 0x1 to 0xE. -/
def cvtFmt (c : Nat) : Bool := decide (1 ≤ c ∧ c ≤ 14)

/-- A conversion reads VB: an MX or per-tensor FP8 source, or an MX destination (R212). -/
def cvtUsesVB (sf df : Nat) : Bool := fmtMXs sf || sf == 8 || sf == 9 || fmtMXs df
where
  fmtMXs (c : Nat) : Bool := decide (2 ≤ c ∧ c ≤ 7)

/-- P of CVT (R212): zero between 32-bit sides and between 16-bit sides, one bit where a 16-bit side meets a 32-bit one. -/
def cvtPOk (sf df p : Nat) : Bool :=
  let wide := fun (c : Nat) => decide (13 ≤ c)
  let half := fun (c : Nat) => decide (11 ≤ c ∧ c ≤ 12)
  if (wide sf && wide df) || (half sf && half df) then p == 0
  else if (half sf && wide df) || (wide sf && half df) then decide (p < 2)
  else true

/-- Activation line bytes of LCLS (R200). -/
def lclsSize (k : Nat) : Nat := if k = 0 then 64 else if k = 1 then 96 else 128

/-- The operand fields of a word are well formed for the engine (R187, R194, R218, and each instruction's entry). -/
def fieldsOk (k : CoreKind) (e : Engine) (w : Nat) : Bool :=
  let opc := opcOf w
  if opc = 0x01 then zb w 35 29
  else if opc = 0x02 then zb w 60 4
  else if opc = 0x03 then zb w 24 40
  else if opc = 0x04 then zb w 23 41
  else if opc = 0x05 ∨ opc = 0x06 then e != .scalar && zb w 37 27
  else if opc = 0x07 ∨ opc = 0x08 then e != .scalar && e != .vec && !zb w 19 3 && zb w 54 10
  else match k, e with
  | .matrix, .load =>
    if opc = 0x10 then
      decide (bitsOf w 62 2 ≠ 3) && memOk w 19 &&
      (!bitOf w 39 || (zb w 19 20 && decide ((bitsOf w 53 9 + 1) * lclsSize (bitsOf w 62 2) % 128 = 0)))
    else if opc = 0x11 then
      zb w 62 2 && memOk w 19 && (!bitOf w 39 || (zb w 19 20 && decide (4 * (bitsOf w 53 9 + 1) % 128 = 0)))
    else if opc = 0x12 then memOk w 19 && decide (1 ≤ bitsOf w 39 4 ∧ bitsOf w 39 4 ≤ 12) && zb w 44 20
    else false
  | .matrix, .mac =>
    if opc = 0x20 then decide (1 ≤ bitsOf w 19 4 ∧ bitsOf w 19 4 ≤ 12) && zb w 27 37
    else if opc = 0x21 then zb w 62 2
    else false
  | .matrix, .drain =>
    if opc = 0x30 then [1, 8, 9, 10, 11, 12, 13, 14, 15].contains (bitsOf w 19 4) && zb w 40 24
    else if opc = 0x31 then
      (match bitsOf w 40 2 with
       | 0 => memOk w 42
       | 1 => zb w 42 20
       | 2 => zb w 45 17
       | _ => false) && zb w 62 2
    else if opc = 0x32 then
      memOk w 19 && (match bitsOf w 51 2 with
       | 1 => zb w 53 3
       | 2 => true
       | _ => false) && zb w 56 8
    else if opc = 0x33 then memOk w 19 && zb w 45 19
    else if opc = 0x34 then genOk w
    else false
  | .vector, .load =>
    if opc = 0x40 then
      decide (bitsOf w 19 9 + bitsOf w 28 9 + 1 ≤ 512) && (if bitOf w 37 then zb w 38 20 else memOk w 38) && zb w 58 6
    else false
  | .vector, .store =>
    if opc = 0x80 then
      decide (bitsOf w 19 9 + bitsOf w 28 9 + 1 ≤ 512) && (match bitsOf w 37 2 with
       | 0 => memOk w 39
       | 1 => zb w 39 20
       | 2 => zb w 42 17
       | _ => false) && zb w 59 5
    else if opc = 0x81 then memOk w 19 && zb w 44 20
    else false
  | .vector, .vec =>
    if 0x50 ≤ opc ∧ opc ≤ 0x52 ∨ opc = 0x54 ∨ opc = 0x55 then v3Ok w [0, 1, 2, 5, 6] true false true
    else if opc = 0x53 then v3Ok w [0, 1, 2, 5, 6] true true true
    else if 0x58 ≤ opc ∧ opc ≤ 0x5A then v3Ok w [3] true false false
    else if opc = 0x5B ∨ opc = 0x5C then v3Ok w [3] true false true
    else if opc = 0x5D then v3Ok w [3] true true false && decide (bitsOf w 46 2 ≠ 3) && zb w 48 7
    else if opc = 0x60 then
      v3Ok w [0, 1, 2, 3] true true false && zb w 50 5 &&
      decide (bitsOf w 46 4 ≤ 5 ∨ (bitsOf w 46 4 ≤ 7 ∧ bitsOf w 55 3 = 3))
    else if opc = 0x61 then v3Ok w [0, 1, 2, 3] true true false
    else if 0x62 ≤ opc ∧ opc ≤ 0x64 then v3Ok w [0] true false false
    else if opc = 0x65 then v3Ok w [0] false false false
    else if opc = 0x66 then zb w 61 3
    else if opc = 0x67 then zb w 28 30 && zb w 63 1
    else if opc = 0x68 then genOk w
    else if opc = 0x6C then
      cvtFmt (bitsOf w 46 4) && cvtFmt (bitsOf w 50 4) && (cvtUsesVB (bitsOf w 46 4) (bitsOf w 50 4) || zb w 37 9) &&
      cvtPOk (bitsOf w 46 4) (bitsOf w 50 4) (bitsOf w 57 2)
    else if opc = 0x6D then
      [11, 12, 13].contains (bitsOf w 46 4) && decide (2 ≤ bitsOf w 50 4 ∧ bitsOf w 50 4 ≤ 7) && zb w 37 9 &&
      zb w 54 3 && zb w 59 5
    else if opc = 0x6E then
      ftIn w [0, 1, 2] && zb w 37 9 && decide (bitsOf w 46 3 ≤ 5) && zb w 49 6 && zb w 63 1 &&
      (decide (bitsOf w 55 3 ≠ 0) || zb w 58 1)
    else if opc = 0x70 then
      v3Ok w [0, 1, 2, 3] true false false && zb w 44 2 &&
      decide (bitsOf w 37 7 ≤ 63 ∨ bitsOf w 55 3 = 1 ∨ bitsOf w 55 3 = 2)
    else if opc = 0x71 then v3Ok w [0, 1, 2, 3] true false false
    else if opc = 0x72 then v3Ok w [0] true false false && zb w 43 3
    else if opc = 0x74 then ftIn w [0] && zb w 37 18 && zb w 59 5
    else if opc = 0x75 then ftIn w [0] && zb w 46 9 && zb w 59 5
    else if opc = 0x76 ∨ opc = 0x77 then wOk w true false true true false
    else if opc = 0x78 ∨ opc = 0x79 then wOk w true true false false false
    else if opc = 0x7A then wOk w false true true true true
    else if opc = 0x7B then wOk w true true true false false && zb w 41 1
    else if opc = 0x7C ∨ opc = 0x7D then v3Ok w [0] false false true
    else if opc = 0x7E then v3Ok w [0] true false true
    else false
  | .scalar, .scalar =>
    if 0x90 ≤ opc ∧ opc ≤ 0x9E then zb w 37 27
    else if 0xA0 ≤ opc ∧ opc ≤ 0xA3 ∨ opc = 0xA7 ∨ opc = 0xA8 then zb w 63 1
    else if 0xA4 ≤ opc ∧ opc ≤ 0xA6 then zb w 37 27
    else if 0xB0 ≤ opc ∧ opc ≤ 0xB2 then zb w 58 6
    else if opc = 0xB4 then
      zb w 19 6 && decide (bitsOf w 37 3 ≠ 7) && (decide (bitsOf w 37 3 ≠ 6) || zb w 25 12)
    else if opc = 0xB8 then
      zb w 19 6 && (match bitsOf w 58 2 with
       | 1 => zb w 60 3
       | 2 => true
       | _ => false) && zb w 63 1
    else if opc = 0xB9 then zb w 19 6 && zb w 58 6
    else if opc = 0xBA then zb w 19 6 && decide (bitsOf w 58 2 ≠ 3) && zb w 60 4
    else if opc = 0xBB then zb w 28 36
    else false
  | _, _ => false
where
  /-- GEN: N is used by OP 5 only (R211). -/
  genOk (w : Nat) : Bool := zb w 55 9 && (decide (bitsOf w 19 3 = 5) || zb w 22 1)

/-- The word is well formed for the engine (R218). -/
def wordOk (k : CoreKind) (e : Engine) (w : Nat) : Bool := engineOn k e && tokOk w && fieldsOk k e w

end Sys2Proof.Machine
end

