-- ==== Sys2Proof/Machine/Issue.lean ====
section
/-! DEFINITION. The issue of one instruction by one engine (06, 07 R219): the order of its checks, tokens, the interlocks,
and what every instruction does beside its own effect: the program counter moves on, the engine is occupied, and the
instruction stands in flight until its completion slot. -/

namespace Sys2Proof.Machine

/-- One engine about to issue: the state, the core and engine, the word at its program counter, and the slot. -/
structure Iss where
  s : State
  c : CoreId
  e : Engine
  w : Nat
  t : Nat

/-- Key, core, task and ASID of an issue. -/
def Iss.k (i : Iss) : Nat := ckey i.c
def Iss.core (i : Iss) : Core := coreAt i.s i.k
def Iss.task (i : Iss) : Task := taskOf i.core i.e
def Iss.asid (i : Iss) : Nat := (fieldOf i.s i.c.fld).cond.owner

/-- What an issued instruction leaves for the engine: the next issue slot, the completion slot, the next program counter
where it jumps, the status slot and flags, the way it completes, and the pacing hold. -/
structure Done where
  next : Nat
  fin : Nat
  pc : Option Nat := none
  slot : Nat := 0
  flags : Nat := 0
  onAccept : Bool := false
  onSync : Bool := false
  onPass : Nat := 0
  /-- The instruction stays in flight; false for one whose completion another unit records (a receive-queue read). -/
  inFlight : Bool := true
  pace : Pace := .run

/-- The outcome of an instruction's own checks and effect. -/
inductive Res where
  /-- Held by an interlock whose end is not known; retried in the next slot (R167). -/
  | hold
  /-- Held by an interlock until the slot given (R167). -/
  | holdTo (slot : Nat)
  /-- Held without an interlock: the shared-memory wheel never serves the engine (R233). -/
  | never
  /-- An event, and the core's engines stop (R122, R219). -/
  | fault (code addr detail : Nat)
  /-- Issued, with the state after its effect. -/
  | go (s : State) (d : Done)

/-- The engines of a core stop (R122): no instruction in flight posts or completes, and operands stand as they are. -/
def stopCore (c : Core) : Core :=
  { c with halted := true, faulted := [], prog := [], vwr := [], loads := [],
           tasks := c.tasks.map fun e => (e.1, { e.2 with flights := [] }) }

/-- Engine `x` of a core has faulted: it does nothing more, and at the end of the slot every engine of the core stops, so that each of
two engines that fault in one slot reports its own event (R122, R219). -/
def markFault (x : Nat) (c : Core) : Core := { c with faulted := addNew x c.faulted }

/-- An engine of a core reports an event, and the core's engines stop (R122, R161, R165, R204, R218, R219, R358). -/
def coreFault (s : State) (c : CoreId) (e : Engine) (code addr detail : Nat) : State :=
  modCore (raiseCore s c code (fieldOf s c.fld).cond.owner (engCode e) addr detail) (ckey c) (markFault (engCode e))

/-- Codes of the events of a core (R369). -/
def evBruise : Nat := 0x0201
def evWindow : Nat := 0x0203
def evToken : Nat := 0x0204
def evFormat : Nat := 0x0205
def evRange : Nat := 0x0206
def evIllegal : Nat := 0x0301

/-- A WINDOW_FAULT names the task, the window and the offset (R161). -/
def winFault (win off : Nat) : Res := .fault evWindow 0 (Config.detailOf evWindow [win, off]).toNat

/-- Consumption of the bruised granule at `addr` by opcode `opc` (R358). -/
def bruiseFault (addr opc : Nat) : Res := .fault evBruise addr opc

/-- A stem message that the scalar core of a bunch owes is due by slot `t`: it takes that slot of SCALAR (R147, R217). -/
def owesBy (fj : FieldJob) (b t : Nat) : Bool := fj.owed.any fun o => o.bun == b && o.due != 0 && decide (o.due ≤ t)

/-- The engine may issue in the present slot: the field's gate is open there, the engine has a task that is not stopped, held,
halted or occupied, and its job runs in the field and has started there (R38, R156, R157, R195, R217, R362). -/
def engineFree (s : State) (c : CoreId) (e : Engine) : Bool :=
  let core := coreAt s (ckey c)
  let tk := taskOf core e
  let fj := (fieldOf s c.fld).job
  let a := (fieldOf s c.fld).cond.owner
  fieldRuns s c.fld && gateOpen s c.fld && engineOn (coreKind c.cor) e && a != 0 && tk.present && !core.halted &&
    !core.faulted.contains (engCode e) && tk.pace == .run && !(e == .scalar && owesBy fj c.bun (slotOf s c.fld)) &&
    !fj.halted.contains a && decide (tk.ready ≤ slotOf s c.fld) && decide (tabGet 0 fj.start a ≤ slotOf s c.fld) &&
    (tabGet none core.prog (engCode e)).isNone

/-- ODA of the instruction at the program counter, where W0 permits the fetch (R158, R161, R227). -/
def fetchOda (s : State) (c : CoreId) (e : Engine) : Option Nat :=
  let tk := taskOf (coreAt s (ckey c)) e
  if coreWin tk 0 && tk.pc.toNat % 8 == 0 then dieAccess s c (winOf tk 0) .ex tk.pc.toNat 8 else none

/-- The word at the program counter and whether its granule is bruised, from the instruction queue, or from memory where the queue does
not hold it yet; with its ODA (R158, R219). -/
def fetchWord (s : State) (c : CoreId) (e : Engine) : Option (Nat × QWord) :=
  let tk := taskOf (coreAt s (ckey c)) e
  (fetchOda s c e).map fun oda =>
    (oda, (tabGet none tk.iq (tk.pc.toNat / 8)).getD { w := BitVec.ofNat 64 (dieRead s oda 8), br := dieBruised s oda 8 })

/-- First instruction of the 64 that the queue of an engine at offset `pc` may hold: how many behind it are kept is open (log 13). -/
def queueBase (pc : Nat) : Nat := pc / 8 - Config.queueBehind pc % 64

/-- Eight instructions of memory from ODA `oda`, a 64-byte block, into the queue at indices from `i` on (R158). -/
def queueBlock (s : State) (oda i : Nat) (q : Tab (Option QWord)) : Tab (Option QWord) :=
  (List.range 8).foldl
    (fun q n => tabPut none (i + n) (some { w := BitVec.ofNat 64 (dieRead s (oda + 8 * n) 8), br := dieBruised s (oda + 8 * n) 8 }) q) q

/-- The instructions of a queue that may stand in it at the task's program counter. -/
def queueKept (tk : Task) (q : Tab (Option QWord)) : Tab (Option QWord) :=
  q.filter fun e => decide (queueBase tk.pc.toNat ≤ e.1 ∧ e.1 < queueBase tk.pc.toNat + 64)

/-- The 64-byte block that the queue of an engine takes next, by its number in W0 and its ODA: the first one from the program counter on that
it does not hold, as far as the 64 instructions and the window reach (R158, R224). -/
def queueWant (s : State) (c : CoreId) (tk : Task) : Option (Nat × Nat) :=
  let q := queueKept tk tk.iq
  let at0 := tk.pc.toNat / 64
  let want := (List.range 9).find? fun n => (List.range 8).any fun j =>
    decide (8 * (at0 + n) + j < queueBase tk.pc.toNat + 64) && (tabGet none q (8 * (at0 + n) + j)).isNone
  want.bind fun n =>
    (if coreWin tk 0 then dieAccess s c (winOf tk 0) .ex (64 * (at0 + n)) 64 else none).map fun oda => (at0 + n, oda)

/-- The queue of an engine fills by one 64-byte block in a slot (R158, R224). -/
def fillQueue (s : State) (c : CoreId) (tk : Task) : Task :=
  let q := queueKept tk tk.iq
  match queueWant s c tk with
  | none => { tk with iq := q }
  | some (n, oda) => { tk with iq := queueKept tk (queueBlock s oda (8 * n) q) }

/-- Some queue of a wait mask held no token at the start of the slot (R164, R165). -/
def waitsUnmet (c : Core) (m : Nat) : Bool := (maskList m).any fun q => tabGet 0 c.tok q == 0

/-- Some queue of a wait mask has another consumer than the engine (R165). -/
def waitForeign (c : Core) (e : Engine) (m : Nat) : Bool := (maskList m).any fun q => tabGet 0 c.tokCons q != engCode e + 1

/-- The tokens of a wait mask taken (R164). -/
def takeTokens (c : Core) (m : Nat) : Core :=
  { c with tok := (maskList m).foldl (fun t q => tabPut 0 q (tabGet 0 t q - 1) t) c.tok }

/-- The engine waits until slot `n`; an interlock is counted once for each engagement (R167). -/
def engage (s : State) (c : CoreId) (e : Engine) (n : Nat) : State :=
  modCore s (ckey c) fun core =>
    let held := (taskOf core e).held
    let core := modTask core e fun t => { t with ready := n, held := true }
    if held then core else { core with ilk := core.ilk + 1 }

/-- A token wait holds the engine in this slot, and is counted (R164). -/
def tokenWait (s : State) (c : CoreId) (e : Engine) : State :=
  modCore s (ckey c) fun core =>
    modTask { core with twait := core.twait + 1 } e fun t => { t with ready := slotOf s c.fld + 1 }

/-- Slots lost by a jump whose target is not among the 64 instructions of the queue (R159). -/
def jumpCost (t : Task) (target : Nat) : Nat :=
  if target = t.pc.toNat ∨ (tabGet none t.iq (target / 8)).isSome then 0 else 4

/-- An issued instruction recorded in its engine (R186, R195). -/
def record (post : Nat) (d : Done) (t : Task) : Task :=
  let pc := t.pc.toNat
  let flight : Flight :=
    { done := d.fin, onAccept := d.onAccept, onSync := d.onSync, onPass := d.onPass, post := BitVec.ofNat 16 post,
      slot := d.slot, flags := BitVec.ofNat 8 d.flags }
  { t with
    pc := BitVec.ofNat 32 (d.pc.getD (pc + 8))
    ready := max t.ready d.next + (match d.pc with | some q => jumpCost t q | none => 0)
    held := false
    pace := d.pace
    flights := if d.inFlight then t.flights ++ [flight] else t.flights }

/-- The issue of the word `w` with opcode `opc` by an engine, in the order of R219. The row stands for the instruction at
the program counter: where the engine is not free, or another word stands there, nothing happens. -/
def issue (s : State) (c : CoreId) (e : Engine) (opc : Nat) (w : BitVec 64) (f : Iss → Res) : State :=
  if !engineFree s c e then s
  else
    let tk := taskOf (coreAt s (ckey c)) e
    match fetchWord s c e with
    | none => coreFault s c e evWindow 0 (Config.detailOf evWindow [0, tk.pc.toNat]).toNat
    | some (oda, x) =>
      if x.br then coreFault s c e evBruise (oda / 64 * 64) (opcOf x.w.toNat)
      else
        let n := w.toNat
        if x.w ≠ w ∨ opcOf n ≠ opc then s
        else if !wordOk (coreKind c.cor) e n then
          coreFault s c e evIllegal oda (Config.detailOf evIllegal [tk.pc.toNat, n]).toNat
        else
          let core := coreAt s (ckey c)
          let wait := waitMask tk.masks n
          if waitsUnmet core wait then tokenWait s c e
          else if waitForeign core e wait then
            coreFault s c e evToken 0 (Config.detailOf evToken [tk.pc.toNat, wait]).toNat
          else
            match f { s := modCore s (ckey c) (takeTokens · wait), c := c, e := e, w := n, t := slotOf s c.fld } with
            | .hold => engage s c e (slotOf s c.fld + 1)
            | .holdTo m => engage s c e m
            | .never => s
            | .fault code addr detail => coreFault s c e code addr detail
            | .go s' d =>
              modCore s' (ckey c) fun core => modTask core e (record (postMask tk.masks n) d)

/-- A field activity counter raised (R486). -/
def countAct (s : State) (f key n : Nat) : State :=
  modFpow s f fun p => { p with counts := tabMod 0 key (· + BitVec.ofNat 64 n) p.counts }

/-- Activity counters (R486): cell-slots not gated, gated block-slots, lane-slots of a vector opcode class, 128-byte SRAM
accesses, flit-hops of a plane, seam crossings, stream bytes. -/
def actCells : Nat := 0
def actGated : Nat := 1
def actLanes (cls : Nat) : Nat := 16 + cls
def actSram : Nat := 2
def actHops (plane : Nat) : Nat := 3 + plane
def actSeam : Nat := 5
def actStream : Nat := 6

/-! ## Data moved by engines -/

/-- Bruise bits of the `n` granules from ODA `oda` on, as a bit mask, granule 0 in bit 0. -/
def brMask (br : Tab Bool) (g : Nat) : Nat → Nat
  | 0 => 0
  | n + 1 => b2n (tabGet false br g) + 2 * brMask br (g + 1) n

/-- `n` granules from ODA `oda` on stored with the bruise bits of the mask. -/
def brPutMask (br : Tab Bool) (g m : Nat) : Nat → Tab Bool
  | 0 => br
  | n + 1 => brPutMask (brSet br g (m % 2 == 1)) (g + 1) (m / 2) n

/-- Whole granules of on-die memory written with their bruise bits (R243). -/
def dieStoreG (s : State) (oda n v mask : Nat) : State :=
  let m := writeCodes s.mem oda (64 * n)
  { s with mem := { m with die := memWrite m.die oda (64 * n) v, dieBr := brPutMask m.dieBr (oda / 64) mask n } }

/-- A write by an engine of on-die memory, made at the end of its slot, after every read of that slot (R225). -/
def putDie (s : State) (c : CoreId) (x : DieWrite) : State :=
  modFmem s c.fld fun m => { m with wr := m.wr ++ [{ x with core := ckey c + 1 }] }

/-- A write of on-die memory is made: the bytes, and the bruise bits that it carries; a CADD adds to the 8 bytes there (R150, R243, R357). -/
def landDie (s : State) (x : DieWrite) : State :=
  let v := if x.add then (dieRead s x.oda x.n + x.v) % 2 ^ (8 * x.n) else x.v
  match x.mask with
  | some m => dieStoreG s x.oda (x.n / 64) v m
  | none => dieStore s x.oda x.n v false

/-- A grid flit from 128 bytes and two bruise bits (R45). -/
def mkFlit (v mask : Nat) : Flit := { data := BitVec.ofNat 1024 v, b0 := bitOf mask 0, b1 := bitOf mask 1 }

/-- Bruise mask of a flit. -/
def flitMask (x : Flit) : Nat := b2n x.b0 + 2 * b2n x.b1

/-- Flits into the send queue of core `k`, each with the slot in which it is written; a core whose send was late discards
them (R169, R170). -/
def toSendQueue (k : Nat) (fl : List (Nat × Flit)) (s : State) : State :=
  modCore s k fun c =>
    if c.late then c
    else { c with sendq := c.sendq ++ fl.map (·.2), sendAt := c.sendAt ++ fl.map (·.1) }

/-- The flits that stand in a send queue once those of slot `t` are written. -/
def sendHeld (c : Core) (t : Nat) : Nat := (c.sendAt.filter fun a => decide (a ≤ t)).length

/-- Flits into the bunch exchange towards core `x`, due two slots after they are written (R153). -/
def toExchange (k x : Nat) (fl : List (Nat × Flit)) (s : State) : State :=
  modCore s k fun c => { c with exch := c.exch ++ fl.map fun p => (p.1 + 2, x, p.2) }

/-- Flits to the destination of DST: 1 the send queue, 2 the exchange to `x` (R206, R207, R209, R217). -/
def toDest (dst k x : Nat) (fl : List (Nat × Flit)) (s : State) : State :=
  if dst = 1 then toSendQueue k fl s else toExchange k x fl s

/-- The flits of the receive queue that may be read in slot `t` (R171). -/
def readable (c : Core) (t : Nat) : Nat := (c.recvAt.takeWhile fun a => decide (a < t)).length

/-- The receive queue without its `n` oldest flits. -/
def dropRecv (n : Nat) (c : Core) : Core := { c with recvq := c.recvq.drop n, recvAt := c.recvAt.drop n }

end Sys2Proof.Machine
end

