-- ==== Sys2Proof/Machine/Pacing.lean ====
section
/-! DEFINITION. Pacing, loop and address instructions, common to the engines (R172 to R176, R196 to R199). -/

namespace Sys2Proof.Machine

/-- An issue that occupies one slot, with the task changed by `g`. -/
def oneSlot (i : Iss) (g : Task → Task) : Res :=
  .go (modCore i.s i.k fun c => modTask c i.e g) { next := i.t + 1, fin := i.t }

/-- DELAY n occupies n slots (R172). -/
def effDelay (i : Iss) : Res :=
  let n := bitsOf i.w 19 16 + 1
  .go i.s { next := i.t + n, fin := i.t + n - 1 }

/-- AT T holds until slot PB + T from the anchor, and advances PB where ADV is set (R172, R196). -/
def effAt (i : Iss) : Res :=
  let tgt := anchorOf i.s i.c.fld i.asid + i.task.pb.toNat + bitsOf i.w 19 40
  let next := max (i.t + 1) tgt
  let adv := bitOf i.w 59
  .go (modCore i.s i.k fun c => modTask c i.e fun t =>
        { t with pb := if adv then t.pb + BitVec.ofNat 64 (bitsOf i.w 19 40) else t.pb })
    { next := next, fin := next - 1 }

/-- YIELD declares the next yield point and holds until the first slot of its epoch (R172, R197). -/
def effYield (i : Iss) : Res :=
  let j := i.task.ybase + bitsOf i.w 19 4 + 1
  let tgt := anchorOf i.s i.c.fld i.asid + 4096 * j
  .go (modCore i.s i.k fun c => modTask c i.e fun t => { t with yctr := t.yctr + 1, ybase := j })
    { next := max (i.t + 1) tgt, fin := max i.t (tgt - 1), pace := .yieldAt i.task.yctr j (bitOf i.w 23) }

/-- SYNC b holds in barrier b (R172, R174). -/
def effSync (i : Iss) : Res :=
  .go i.s { next := i.t + 1, fin := i.t, onSync := true, pace := .syncAt (bitsOf i.w 19 4) }

/-- Every task of the bunch is held in SYNC b (R174). -/
def bunchSynced (s : State) (f b n : Nat) : Bool :=
  (List.range 8).all fun c =>
    (coreAt s (coreKey f b c)).tasks.all fun e => !e.2.present || decide (e.2.pace = .syncAt n)

/-- The scalar core of a bunch owes a stem message (R217). -/
def owe (s : State) (f : Nat) (o : Owed) : State := modFjob s f fun x => { x with owed := x.owed ++ [o] }

/-- SYNC issues; where it is the last of its bunch, the bunch's scalar core owes BARRIER_ARRIVE to the owner, which it sends in the slot
after (R174, R217). -/
def syncIssue (s : State) (c : CoreId) (e : Engine) (w : BitVec 64) : State :=
  let s' := issue s c e 0x04 w effSync
  let n := bitsOf w.toNat 19 4
  let before := (taskOf (coreAt s (ckey c)) e).pace
  let after := (taskOf (coreAt s' (ckey c)) e).pace
  if before ≠ after ∧ after = .syncAt n ∧ bunchSynced s' c.fld c.bun n then
    owe s' c.fld { bun := c.bun, kind := 2, asid := (fieldOf s c.fld).cond.owner, n := n, due := slotOf s c.fld + 1 }
  else s'

/-- LSET sets l[L] to N (R198). -/
def effLset (i : Iss) : Res :=
  oneSlot i fun t => { t with lctr := tabPut 0 (bitsOf i.w 19 2) (bitsOf i.w 21 16 + 1) t.lctr }

/-- LEND lowers l[L] and jumps back by DISP instructions while it is nonzero (R198). -/
def effLend (i : Iss) : Res :=
  let l := bitsOf i.w 19 2
  let n := tabGet 0 i.task.lctr l
  let s' := modCore i.s i.k fun c => modTask c i.e fun t => { t with lctr := tabPut 0 l (n - 1) t.lctr }
  let back := (i.task.pc - BitVec.ofNat 32 (8 * (bitsOf i.w 21 16 + 1))).toNat
  if n ≤ 1 then .go s' { next := i.t + 1, fin := i.t }
  else .go s' { next := i.t + 1, fin := i.t, pc := some back }

/-- ASET writes IMM to a[A] (R199). -/
def effAset (i : Iss) : Res := oneSlot i fun t => aregSet t (bitsOf i.w 19 3) (bitsOf i.w 22 32)

/-- AADD adds IMM to a[A] modulo 2³² (R199). -/
def effAadd (i : Iss) : Res :=
  oneSlot i fun t => aregSet t (bitsOf i.w 19 3) (aregGet t (bitsOf i.w 19 3) + bitsOf i.w 22 32)

def execDelay (c : CoreId) (e : Engine) (w : BitVec 64) (s : State) : Host.Outcome State Fault Refusal :=
  .next (issue s c e 0x01 w effDelay)

def execAt (c : CoreId) (e : Engine) (w : BitVec 64) (s : State) : Host.Outcome State Fault Refusal :=
  .next (issue s c e 0x02 w effAt)

def execYield (c : CoreId) (e : Engine) (w : BitVec 64) (s : State) : Host.Outcome State Fault Refusal :=
  .next (issue s c e 0x03 w effYield)

def execSync (c : CoreId) (e : Engine) (w : BitVec 64) (s : State) : Host.Outcome State Fault Refusal :=
  .next (syncIssue s c e w)

def execLset (c : CoreId) (e : Engine) (w : BitVec 64) (s : State) : Host.Outcome State Fault Refusal :=
  .next (issue s c e 0x05 w effLset)

def execLend (c : CoreId) (e : Engine) (w : BitVec 64) (s : State) : Host.Outcome State Fault Refusal :=
  .next (issue s c e 0x06 w effLend)

def execAset (c : CoreId) (e : Engine) (w : BitVec 64) (s : State) : Host.Outcome State Fault Refusal :=
  .next (issue s c e 0x07 w effAset)

def execAadd (c : CoreId) (e : Engine) (w : BitVec 64) (s : State) : Host.Outcome State Fault Refusal :=
  .next (issue s c e 0x08 w effAadd)

/-! ## Completion -/

/-- A post by an engine that is not the declared producer of the queue, or above 63 (R165). -/
def postBad (c : Core) (e : Engine) (q : Nat) : Bool := tabGet 0 c.tokProd q != engCode e + 1 || decide (63 ≤ tabGet 0 c.tok q + tabGet 0 c.tokNew q)

/-- The flights of a task that complete by slot `t`: those whose completion slot is known and has come (R166). -/
def flightDue (t : Nat) (x : Flight) : Bool := !x.onAccept && !x.onSync && x.onPass == 0 && decide (x.done ≤ t)

/-- One more in each queue of a mask. -/
def addTokens (m : Nat) (t : Tab Nat) : Tab Nat := (maskList m).foldl (fun t q => tabPut 0 q (tabGet 0 t q + 1) t) t

/-- One flight completes: its tokens are posted and its flags ORed into its slot; both are seen from the next slot on (R164,
R165, R193). -/
def completeOne (e : Engine) (x : Flight) (c : Core) : Core :=
  modTask { c with tokNew := addTokens x.post.toNat c.tokNew } e fun t =>
    { t with statNew := tabMod 0 x.slot (· ||| x.flags) t.statNew }

/-- The tokens and flags of the slot that ends join the counts and the status slots (R164, R193). -/
def endSlot (c : Core) : Core :=
  { c with
    tok := c.tokNew.foldl (fun t e => tabMod 0 e.1 (· + e.2) t) c.tok
    tokNew := []
    tasks := c.tasks.map fun e =>
      (e.1, { e.2 with status := e.2.statNew.foldl (fun t x => tabMod 0 x.1 (· ||| x.2) t) e.2.status, statNew := [] }) }

/-- The completions due in an engine, oldest first; a post that R165 forbids reports TOKEN_FAULT and stops the engines. -/
def completeAll (c : CoreId) (e : Engine) : List Flight → State → State
  | [], s => s
  | x :: t, s =>
    if (maskList x.post.toNat).any (postBad (coreAt s (ckey c)) e) then
      coreFault s c e evToken 0 (Config.detailOf evToken [x.post.toNat]).toNat
    else completeAll c e t (modCore s (ckey c) (completeOne e x))

/-- INSTRUCTION_COMPLETION: every instruction of the engine whose completion slot has come completes (R166). -/
def instructionComplete (s : State) (c : CoreId) (e : Engine) : State :=
  let core := coreAt s (ckey c)
  let due := (taskOf core e).flights.filter (flightDue (slotOf s c.fld))
  if core.halted || due.isEmpty then s
  else
    completeAll c e due
      (modCore s (ckey c) fun x => modTask x e fun t => { t with flights := t.flights.filter fun y => !flightDue (slotOf s c.fld) y })

def execInstructionCompletion (c : CoreId) (e : Engine) (s : State) : Host.Outcome State Fault Refusal :=
  .next (instructionComplete s c e)

end Sys2Proof.Machine
end

