-- ==== Sys2Proof/Machine/Stem.lean ====
section
/-! DEFINITION. Stem messages as flits (02 R55 to R63, 06 R174, R179, 13 R361, R370, R581, 15 R407, 18 R498): types and classes, addresses,
the header, the flits of every message, and sending and receiving them. -/

namespace Sys2Proof.Machine

/-- The variant in force of a job. -/
def varOf (s : State) (a : Nat) : Variant := (jobOf s a).fam.variants.getD (jobOf s a).variant default

/-- Field at frame position `pos` of a frame with FC columns at an origin, where it lies on the die (R329). -/
def frameField (m : Family) (origin pos : Nat) : Option Nat :=
  let r := rowOf origin + pos / max 1 m.fc
  let c := colOf origin + pos % max 1 m.fc
  if r < 6 ∧ c < 6 then some (6 * r + c) else none

/-! ## Types and addresses -/

/-- CLASS of each TYPE (R58): 0 URGENT, 1 CONTROL, 2 ROUTINE (R55); a TYPE that is not listed is reserved. -/
def stemClasses : List (Nat × Nat) :=
  [(0x01, 0), (0x02, 0), (0x10, 1), (0x11, 1), (0x12, 1), (0x13, 1), (0x20, 1), (0x28, 1), (0x30, 2), (0x31, 2), (0x38, 2)]

/-- CLASS of a TYPE; none for a reserved one. -/
def classOf (type : Nat) : Option Nat := (stemClasses.find? fun e => e.1 == type).map (·.2)

/-- Every field controller and rind unit (R57). -/
def allAddr : BitVec 16 := 0xF000

/-- Every field of the job with ASID `a` (R57). -/
def jobAddr (a : Nat) : BitVec 16 := BitVec.ofNat 16 (0xF100 + a)

/-- Own address of a participant (R57). DESIGN CHOICE (log 154): the mirror engine, which has none of its own, answers at the pith's. -/
def partAddr : Part → BitVec 16
  | .field f => fieldAddr f
  | .rind d => dieAddr d
  | .root => dieAddr 63
  | .mirror => pithAddr

/-- The units that a stem address names (R57): of 0xF000 every field controller and rind unit, of 0xF100 + n the fields of the job with ASID n. -/
def unitsAt (s : State) (addr : BitVec 16) : List (BitVec 16) :=
  if addr = allAddr then (List.range 36).map fieldAddr ++ (List.range 60).map fun d => dieAddr (d + 1)
  else if 0xF100 ≤ addr.toNat ∧ addr.toNat ≤ 0xF124 then (jobFields s (addr.toNat - 0xF100)).map fieldAddr
  else [addr]

/-- Address of the owner of barrier `b` of a job: the scalar core of a bunch (R173). -/
def ownerAddr (s : State) (a : Nat) (b : Nat) : BitVec 16 :=
  match (varOf s a).barriers.find? fun x => x.b.val == b with
  | none => 0
  | some d =>
    match frameField (jobOf s a).fam (jobOf s a).origin d.ownerPos with
    | none => 0
    | some f => bunchAddr f d.ownerBun

/-! ## Flits -/

/-- A header flit (R56): CLASS [63:62], TYPE [61:56], DST [55:40], SRC [39:24], LEN [23:22], ARG [21:0]. -/
def stemHeader (type : Nat) (dst src : BitVec 16) (len arg : Nat) : BitVec 64 :=
  BitVec.ofNat 64 (((((classOf type).getD 3 * 64 + type % 64) * 65536 + dst.toNat) * 65536 + src.toNat) * 4 + len % 4) * 4194304
    + BitVec.ofNat 64 (arg % 4194304)

/-- Code of a kind (R61). -/
def kindCode : CommitKind → Nat
  | .freq => 1 | .profile => 2 | .routeSwap => 3 | .preempt => 4 | .rest => 5 | .wake => 6 | .mirrorCommit => 7
  | .formatsPolicy => 8 | .predictorVariant => 9 | .powerCap => 10

/-- Code of an ACK status (R63). -/
def ackCode : AckStatus → Nat
  | .staged => 0 | .nackBusy => 1 | .nackInvalid => 2 | .nackLate => 3

/-- A payload flit with a 48-bit number in [47:0] and another field in [63:48]. -/
def flit48 (n : Nat) (high : Nat := 0) : BitVec 64 := BitVec.ofNat 64 (n % 2 ^ 48 + 2 ^ 48 * (high % 2 ^ 16))

/-- The unit that is to receive a message. -/
def msgUnit (s : State) : StemMsg → BitVec 16
  | .prepare u .. | .commit u .. | .abort u .. => partAddr u
  | .power f .. | .release f .. => fieldAddr f
  | .arrive a b .. => ownerAddr s a b
  | .ack .. | .fence .. | .yieldReport .. | .gate .. => pithAddr

/-- A message's flits: PREPARE, ACK, COMMIT and ABORT (R63), FENCE_NOTICE (R581), YIELD_REPORT (R179, R407), POWER_CMD (R498), whose HALT goes to
every field of the job (R361), the barrier messages (R174), and GATE_STATUS (R60). -/
def msgFlits (s : State) : StemMsg → List (BitVec 64)
  | .prepare u csn k arg e n => [stemHeader 0x10 (partAddr u) pithAddr 2 (csn.toNat + 65536 * kindCode k), flit48 e n, arg]
  | .ack u csn st => [stemHeader 0x11 pithAddr (partAddr u) 0 (csn.toNat + 65536 * ackCode st)]
  | .commit u csn e => [stemHeader 0x12 (partAddr u) pithAddr 1 csn.toNat, flit48 e]
  | .abort u csn e => [stemHeader 0x13 (partAddr u) pithAddr 1 csn.toNat, flit48 e]
  | .fence f cause => [stemHeader 0x02 pithAddr (fieldAddr f) 0 (cause % 256)]
  | .yieldReport f b _ y mirror => [stemHeader 0x20 pithAddr (bunchAddr f b) 0 (y % 2 ^ 21 + (if mirror then 2 ^ 21 else 0))]
  | .power f op v => [stemHeader 0x28 (if op = 0x3F then jobAddr v.toNat else fieldAddr f) pithAddr 0 (v.toNat + 65536 * (op % 64))]
  | .arrive a b f bun => [stemHeader 0x30 (ownerAddr s a b) (bunchAddr f bun) 0 b]
  | .release _ a b e => [stemHeader 0x31 (jobAddr a) (ownerAddr s a b) 1 b, flit48 e]
  | .gate f cause asid slot => [stemHeader 0x38 pithAddr (fieldAddr f) 1 (cause % 16 + 65536 * (if cause = 7 then asid % 64 else 0)), flit48 slot]

/-- A message as it stands on the stem. -/
def packet (s : State) (m : StemMsg) : Packet := { unit := msgUnit s m, flits := msgFlits s m }

/-- The flits of an ERROR_EVENT (R370). -/
def errFlits (m : ErrMsg) : List (BitVec 64) :=
  [stemHeader 0x01 pithAddr m.src 3 (m.code.toNat + 65536 * (m.asid % 64)),
   flit48 m.slot.toNat (m.core % 8 + 8 * (m.engine % 8) + 64 * (m.count % 1024)), m.addr, m.detail]

/-- Operations of POWER_CMD (R498). -/
def powerOps : List Nat := [0x01, 0x02, 0x03, 0x04, 0x05, 0x3F]

/-- The receiver of a header discards the message (R58, R60, R498): its TYPE, or the CAUSE of a GATE_STATUS or the operation of a POWER_CMD, is
reserved. -/
def headerReserved (h : BitVec 64) : Bool :=
  let type := bitsOf h.toNat 56 6
  (classOf type).isNone || (type == 0x38 && decide (8 ≤ bitsOf h.toNat 0 4)) || (type == 0x28 && !powerOps.contains (bitsOf h.toNat 16 6))

/-! ## Sending and receiving -/

/-- Send a stem message (R55). -/
def send (s : State) (m : StemMsg) : State := { s with stem := { s.stem with msgs := s.stem.msgs ++ [packet s m] } }

/-- A message sent to a broadcast address reaches every unit that it names (R57). -/
def broadcast (s : State) (addr : BitVec 16) (flits : List (BitVec 64)) : State :=
  { s with stem := { s.stem with msgs := s.stem.msgs ++ (unitsAt s addr).map fun u => { unit := u, flits := flits } } }

/-- Two packets carry one message to one unit: the number of participants, in a PREPARE's first payload flit, says nothing to its receiver. -/
def samePacket (p q : Packet) : Bool :=
  decide (p.unit = q.unit) && decide (p.flits.head? = q.flits.head?) &&
    decide ((p.flits[1]?).map (fun x => x.toNat % 2 ^ 48) = (q.flits[1]?).map fun x => x.toNat % 2 ^ 48) &&
    decide (p.flits.drop 2 = q.flits.drop 2)

/-- The message stands on the stem. -/
def onStem (s : State) (m : StemMsg) : Bool := s.stem.msgs.any (samePacket (packet s m))

/-- Take a stem message off the network, where one stands in it. -/
def receive (s : State) (m : StemMsg) : State :=
  { s with stem := { s.stem with msgs := eraseFirst (samePacket (packet s m)) s.stem.msgs } }

/-- A message on the stem says something else in its place. -/
def resay (s : State) (m n : StemMsg) : State :=
  { s with stem := { s.stem with msgs := s.stem.msgs.map fun p => if samePacket (packet s m) p then packet s n else p } }

end Sys2Proof.Machine
end

