-- ==== Sys2Proof/Machine/Hash.lean ====
section
/-! DEFINITION. The position-hash generator of R315 to R317, and CRC-32C (R254, R355, R372). -/

namespace Sys2Proof.Machine

/-- The four words of the PHG's state. -/
structure PhgState where
  a : BitVec 32
  b : BitVec 32
  c : BitVec 32
  d : BitVec 32
  deriving DecidableEq, Repr

/-- One round of R317. -/
def phgRound (k0 k1 : BitVec 32) (r : Nat) (x : PhgState) : PhgState :=
  let a := x.a + x.b
  let d := (x.d ^^^ a).rotateLeft 16
  let c := x.c + d
  let b := (x.b ^^^ c).rotateLeft 12
  let a := a + b
  let d := (d ^^^ a).rotateLeft 8
  let c := c + d
  let b := (b ^^^ c).rotateLeft 4
  ⟨a + (if r % 2 = 0 then k0 else k1), b, c, d + BitVec.ofNat 32 (r + 1)⟩

/-- The state before round 0 (R316, R317). -/
def phgInit (key : BitVec 64) (stream coord step data : Nat) : PhgState :=
  let q := stream % 2 ^ 24 * 2 ^ 48 + coord % 2 ^ 48
  let w2 := q / 2 ^ 64 % 2 ^ 16 + data % 2 ^ 16 * 2 ^ 16
  ⟨BitVec.ofNat 32 q ^^^ key.extractLsb' 0 32, BitVec.ofNat 32 (q / 2 ^ 32) ^^^ key.extractLsb' 32 32,
    BitVec.ofNat 32 w2 ^^^ 0x6D756572, BitVec.ofNat 32 step ^^^ 0x5A11E7C3⟩

/-- PHG(K, S, X, T, U) of R317. -/
def phg (key : BitVec 64) (stream coord step data : Nat) : Nat :=
  let k0 := key.extractLsb' 0 32
  let k1 := key.extractLsb' 32 32
  let x := phgRound k0 k1 3 (phgRound k0 k1 2 (phgRound k0 k1 1 (phgRound k0 k1 0 (phgInit key stream coord step data))))
  ((x.a + x.c) ^^^ (x.b + x.d)).toNat

/-- Eight steps of the reflected CRC-32C polynomial. -/
def crcBits : Nat → Nat → Nat
  | 0, c => c
  | n + 1, c => crcBits n (if c % 2 = 1 then (c / 2) ^^^ 0x82F63B78 else c / 2)

/-- The CRC register after the `n` low bytes of `v`, low byte first. -/
def crcBytes : Nat → Nat → Nat → Nat
  | 0, _, c => c
  | n + 1, v, c => crcBytes n (v / 256) (crcBits 8 (c ^^^ (v % 256)))

/-- CRC-32C of the `n` bytes of the little-endian number `v`. -/
def crc32c (n v : Nat) : Nat := crcBytes n v 0xFFFFFFFF ^^^ 0xFFFFFFFF

end Sys2Proof.Machine
end

