-- ==== Sys2Proof/Machine/Cells.lean ====
section
/-! DEFINITION. What a Bupol link carries, bit by bit (16 R424, R440, R441): link frames, and the header cells of messages. -/

namespace Sys2Proof.Machine

/-! ## Header cells -/

/-- Bytes [lo, lo + n) of a header cell. -/
def cellBytes (r : BupRaw) (lo n : Nat) : Nat := bitsOf r.head.toNat (8 * lo) (8 * n)

/-- TYPE of a message (R441). -/
def cellType (r : BupRaw) : Nat := cellBytes r 0 1

/-- The fields of a header cell (R440). A message that does not set BRUISED carries no BMASK. -/
def parseMsg (r : BupRaw) : BupMsg :=
  { dst := BitVec.ofNat 16 (cellBytes r 2 2), src := BitVec.ofNat 16 (cellBytes r 4 2), dctx := Fin.ofNat 4096 (cellBytes r 6 2 % 4096),
    sctx := Fin.ofNat 4096 (cellBytes r 8 2 % 4096), cseq := BitVec.ofNat 16 (cellBytes r 10 2), addr := cellBytes r 16 8,
    demand := cellBytes r 36 4, rtag := cellBytes r 40 4, failed := cellBytes r 44 1 != 0, args := BitVec.ofNat 152 (cellBytes r 45 19),
    body := { data := r.body, check := BitVec.ofNat 32 (cellBytes r 24 4),
              bmask := if bitOf (cellBytes r 1 1) 0 then BitVec.ofNat 64 (cellBytes r 28 8) else 0, failed := cellBytes r 44 1 != 0 } }

/-- Data cells of each type (R441). -/
def dataCells (ty : Nat) : Nat := if [0x02, 0x03, 0x22, 0x28].contains ty then 64 else if ty = 0x05 then 2 else 0

/-- The header cell of a message of type `ty` (R440). -/
def headerCell (ty : Nat) (m : BupMsg) : BitVec 512 :=
  let blk := dataCells ty == 64
  BitVec.ofNat 512
    (fieldAt 0 8 ty + fieldAt 8 1 (b2n (blk && m.body.bmask != 0)) + fieldAt 16 16 m.dst.toNat + fieldAt 32 16 m.src.toNat + fieldAt 48 12 m.dctx +
     fieldAt 64 12 m.sctx + fieldAt 80 16 m.cseq.toNat + fieldAt 96 32 (dataCells ty) + fieldAt 128 64 m.addr +
     fieldAt 192 32 (if blk then m.body.check.toNat else 0) + fieldAt 224 64 (if blk then m.body.bmask.toNat else 0) + fieldAt 288 32 m.demand +
     fieldAt 320 32 m.rtag + fieldAt 352 8 (b2n m.failed) + fieldAt 360 152 m.args.toNat)

/-- A message of type `ty` as it crosses a link. -/
def rawMsg (ty : Nat) (m : BupMsg) : BupRaw := { head := headerCell ty m, body := if dataCells ty = 0 then 0 else m.body.data }

/-- A command's message is handled as its TYPE says: a cell of another type is none of the command's (R441). -/
def onType (ty : Nat) (r : BupRaw) (s : State) (k : BupMsg → State) : State := if cellType r = ty then k (parseMsg r) else s

/-! ## Link frames -/

/-- The bytes that FCRC covers (R424). -/
def frameBytes (fr : Frame) : Nat := fr.cells.toNat + 2 ^ 20480 * (fr.fseq.toNat + 2 ^ 16 * fr.ack.toNat + 2 ^ 32 * fr.rsvd.toNat)

/-- The codewords decode and FCRC matches (R422, R425). -/
def frameGood (fr : Frame) : Bool := fr.decodes && crc32c 2566 (frameBytes fr) == fr.fcrc.toNat

/-- KIND is not DATA. DESIGN CHOICE (log 158): a reserved KIND is taken as IDLE. -/
def frameIdle (fr : Frame) : Bool := bitsOf fr.fseq.toNat 12 4 != 0

/-- FSEQ, ACK and NAK (R424). -/
def frameSeq (fr : Frame) : BitVec 12 := fr.fseq.extractLsb' 0 12
def frameAck (fr : Frame) : BitVec 12 := fr.ack.extractLsb' 0 12
def frameNak (fr : Frame) : Bool := bitOf fr.ack.toNat 12

/-- The messages that begin in `n` cells of a frame, the first of which continue a message by `carry` cells: the destination of each, and the
cells that the next frame continues (R424). A cell whose first byte is 0x00 is a pad cell. -/
def walkCells : Nat → Nat → Nat → List (BitVec 16) → List (BitVec 16) × Nat
  | 0, _, carry, l => (l, carry)
  | n + 1, cells, carry, l =>
    let rest := cells / 2 ^ 512
    if carry ≠ 0 then walkCells n rest (carry - 1) l
    else if bitsOf cells 0 8 = 0 then walkCells n rest 0 l
    else walkCells n rest (min 64 (bitsOf cells 96 32)) (l ++ [BitVec.ofNat 16 (bitsOf cells 16 16)])

/-- Destinations of the messages that begin in a frame, after `carry` cells of the one before. -/
def frameDsts (fr : Frame) (carry : Nat) : List (BitVec 16) × Nat := walkCells 40 fr.cells.toNat carry []

end Sys2Proof.Machine
end

