-- ==== Sys2Proof/Machine/Complete.lean ====
section
/-! DEFINITION. Completions and interrupts (17 R462 to R469), and messages handed to Bupol ports (16 R447, 15 R409). -/

namespace Sys2Proof.Machine

/-- The pith's firmware serves: the module is powered and out of reset, a chiplet runs, and no takeover is in progress (R27). -/
def pithUp (s : State) : Bool := s.inp.main && !s.inp.held && s.pith.running && !s.pith.takeover

/-- A CXL port is in service (R468). -/
def cxlUp (s : State) : Bool := (cxlPortOf s 0).up || (cxlPortOf s 1).up

/-- Every ASID of a job (R328). -/
def asids : List Nat := (List.range 36).map (· + 1)

/-- The live jobs. -/
def liveJobs (s : State) : List Nat := asids.filter fun a => (jobOf s a).live

/-- The live job with job number `n`. -/
def jobByNumber (s : State) (n : Nat) : Option Nat := (liveJobs s).find? fun a => (jobOf s a).number == n

/-! ## Completions and interrupts -/

/-- Entries consumed of SQ `q`, as SQHEAD gives them. -/
def sqHead (s : State) (q : Nat) : Nat := (queueOf s q).consumed.toNat

/-- A completion joins those that the pith holds (R464). -/
def postCpl (s : State) (c : Cpl) : State := { s with cxl := { s.cxl with held := s.cxl.held ++ [c] } }

/-- The completion of a command with a status; `g` fills its other fields. -/
def cmdCpl (s : State) (c : Cmd) (status : Nat) (g : Cpl → Cpl) : Cpl :=
  g { cq := c.sq, cid := c.cid, sq := c.sq, status := status, sqhead := sqHead s c.sq }

/-- Command `c` completes: it leaves the accepted commands, and its completion is held unless a function reset has
discarded it (R462, R514). -/
def finishCmd (s : State) (c : Cmd) (status : Nat) (g : Cpl → Cpl) : State :=
  let s := { s with cxl := { s.cxl with cmds := eraseFirst (fun x => decide (x = c)) s.cxl.cmds } }
  if c.mute then s else postCpl s (cmdCpl s c status g)

/-- Status codes (R465). -/
def stOk : Nat := 0
def stNoVariant : Nat := 0x41
def stNoSave : Nat := 0x42
def stPoison : Nat := 0x43
def stMalformed : Nat := 0x44
def stNotGranted : Nat := 0x45
def stNoJob : Nat := 0x46
def stWrong : Nat := 0x47
def stPairRefused : Nat := 0x48
def stCtxFailed : Nat := 0x49

/-- The first command, begun or not, that satisfies `p`. -/
def findCmd (s : State) (p : Cmd → Bool) : Option Cmd := s.cxl.cmds.find? p

/-- Job number that ARG0 of a command names. -/
def cmdJob (c : Cmd) : Nat := c.arg0.toNat

/-- Every begun command with operation code `opc` for job number `n` completes with `status`. -/
def finishJobCmds (s : State) (opc n status : Nat) (g : Cpl → Cpl) : State :=
  (s.cxl.cmds.filter fun c => c.begun && c.opc == opc && cmdJob c == n).foldl (fun t c => finishCmd t c status g) s

/-- Asynchronous kinds (R465). -/
def asPlaced : Nat := 1
def asEnded : Nat := 2
def asStopped : Nat := 3
def asHeldNoVariant : Nat := 4
def asUnprotected : Nat := 5
def asPairLost : Nat := 6

/-- An asynchronous entry; a held entry of the same kind and job is updated instead (R465). -/
def postAsync (s : State) (c : Cpl) : State :=
  let same := fun (x : Cpl) => x.async && x.kind == c.kind && x.job == c.job
  if s.cxl.held.any same then { s with cxl := { s.cxl with held := modFirst same (fun _ => c) s.cxl.held } }
  else postCpl s c

/-- An asynchronous entry for the job with ASID `a` (R465, R514). -/
def postJob (s : State) (a kind res0 : Nat) : State :=
  let j := jobOf s a
  let q := if j.orphan then 0 else j.sq
  postAsync s { cq := q, cid := 0xFFFF, sq := q, async := true, kind := kind, job := j.number, asid := a,
                sqhead := sqHead s q, htag := j.htag, res0 := BitVec.ofNat 64 res0 }

/-- MSI-X vector `v` has a message due (R454, R469). -/
def msixDue (s : State) (v : Nat) : State :=
  { s with cxl := { s.cxl with msixPend := s.cxl.msixPend ||| BitVec.ofNat 16 (2 ^ v) } }

/-! ## Bupol and mirror messages -/

/-- A message handed to port `p` in class `cls`: 0 CTL and MIRROR, 1 RSP, 2 REQ and DATA (R447). It is numbered, and waits in
the port's queue. -/
def enqueue (s : State) (p cls cells ctx : Nat) (dst : BitVec 16) (o : Nat → Output) : State :=
  let id := s.bup.nextMsg
  let m : QMsg := { id := id, cls := cls, cells := cells, ctx := ctx, dst := dst }
  let s := { s with bup := { s.bup with nextMsg := id + 1 } }
  modPort (emit s (o id)) p fun x =>
    if cls = 0 then { x with q0 := x.q0 ++ [m] } else if cls = 1 then { x with q1 := x.q1 ++ [m] }
    else { x with q2 := x.q2 ++ [m] }

/-- Types of messages (R441). -/
def tyHello : Nat := 0x20
def tyHeartbeat : Nat := 0x21
def tyWrite : Nat := 0x22
def tyWack : Nat := 0x23
def tyComplete : Nat := 0x24
def tyDiscard : Nat := 0x25
def tyFail : Nat := 0x26

/-- A mirror message on port `p` (R409). -/
def mirSend (s : State) (p ty : Nat) (w : MirrorWrite) : State :=
  enqueue s p 0 (if ty = tyWrite then 65 else 1) 65535 s.pair.partner fun _ => .mirror p ty w

/-- A mirror message without a block. -/
def mirCtl (job t seq : Nat) : MirrorWrite := { job := job, t := t, seq := seq, block := 0, body := default }

/-- The mirror ports in service. -/
def mirrorPorts (s : State) : List Nat := (List.range 48).filter fun p => bitOf s.pair.ports.toNat p && (portOf s p).up

/-- FAIL on every mirror port in service (R412). -/
def sendFail (s : State) : State := (mirrorPorts s).foldl (fun t p => mirSend t p tyFail (mirCtl 0 0 0)) s

/-- DISCARD C for a halted MIRRORED job, and its later writes dropped from the buffer (R416). -/
def discardMirror (s : State) (a : Nat) : State :=
  let j := jobOf s a
  if !j.mirrored || j.unprotected || !s.pair.formed then s
  else
    let s := { s with pair := { s.pair with buf := s.pair.buf.filter fun w => !(w.job == j.number && decide (j.commitC < w.t)) } }
    let s := modJob s a fun j => { j with mirrorHeld := [] }
    match mirrorPorts s with
    | [] => s
    | p :: _ => mirSend s p tyDiscard (mirCtl j.number j.commitC 0)

end Sys2Proof.Machine
end

