-- ==== Sys2Proof/Machine/Links.lean ====
section
/-! DEFINITION. Partner contexts and what they send (16 R431 to R448): the partner table, the port of a context, messages with
their sequence numbers, and the failing and closing of a context. -/

namespace Sys2Proof.Machine

/-! ## The partner table -/

/-- The sealed partner table has a valid entry for an endpoint that satisfies `p` (R434, R436). -/
def ptEntryFor (s : State) (ep : Nat) (p : Nat → Bool) : Bool :=
  s.bup.sealed_ && (List.range 256).any fun i =>
    let e := (tabGet 0 s.bup.pt i).toNat
    bitOf e 35 && decide (bitsOf e 0 16 ≤ ep ∧ ep ≤ bitsOf e 0 16 + bitsOf e 16 16) && p e

/-- Contexts to the endpoint are permitted: DATA, or WSTORE for a WSTORE context. -/
def ptContext (s : State) (ep : Nat) (wstore : Bool) : Bool := ptEntryFor s ep fun e => if wstore then bitOf e 34 else bitOf e 32

/-- A pair with the endpoint is permitted. -/
def ptMirror (s : State) (ep : Nat) : Bool := ptEntryFor s ep fun e => bitOf e 33

/-! ## Ports -/

/-- Mask of the ports by which context messages to endpoint `ep` may leave: its route, in service, no mirror port (R432, R433). -/
def routePorts (s : State) (ep : Nat) : List Nat :=
  let m := (tabGet 0 s.bup.route ep).toNat
  (List.range 48).filter fun p => bitOf m p && (portOf s p).up && !(s.pair.formed && bitOf s.pair.ports.toNat p)

/-- Port of context `x` to endpoint `ep` (R433). -/
def ctxPort (s : State) (ep x : Nat) : Option Nat :=
  let l := routePorts s ep
  if l.isEmpty then none else l[x % l.length]?

/-! ## Types and classes of messages (R441) -/

def tyRdReq : Nat := 0x01
def tyRdRsp : Nat := 0x02
def tyWr : Nat := 0x03
def tyWrAck : Nat := 0x04
def tyArm : Nat := 0x05
def tyArmAck : Nat := 0x06
def tyBarrier : Nat := 0x07
def tyBarAck : Nat := 0x08
def tyHint : Nat := 0x09
def tyCredit : Nat := 0x10
def tyCreditRet : Nat := 0x11
def tyCtxOpen : Nat := 0x12
def tyCtxOpenAck : Nat := 0x13
def tyCtxClose : Nat := 0x14

/-- Transmit class of a message type (R441, R447): 0 CTL, 1 RSP, 2 REQ and DATA. -/
def msgClass (ty : Nat) : Nat := if ty = tyRdRsp then 1 else if [tyRdReq, tyWr, tyArm, tyBarrier].contains ty then 2 else 0

/-- Cells of a message: the header and its data cells (R440, R441). -/
def msgCells (ty : Nat) : Nat := if ty = tyRdRsp ∨ ty = tyWr then 65 else if ty = tyArm then 3 else 1

/-! ## Contexts -/

/-- Blocks that wait to be written through context `x` beyond the credits held (R440). -/
def demandOf (s : State) (x : Nat) : Nat :=
  let c := ctxOf s x
  let sent := c.outst.map (·.2)
  let waiting := (List.range 36).map fun f =>
    ((fieldOf s f).str.xfer.filter fun t =>
      t.write && t.target == 3 && t.ctx == x && !t.landed && !sent.contains (2048 * f + t.tag)).length
  waiting.sum - (c.resCred + c.shCred)

/-- Transfer `tag` of field `f` changed. -/
def modXfer (s : State) (f tag : Nat) (g : Transfer → Transfer) : State :=
  modStr s f fun x => { x with xfer := modFirst (fun t => t.tag == tag) g x.xfer }

/-- An outstanding transfer of a context that has failed: a read returns FAILED, a write is acknowledged FAILED (R438). -/
def failTransfer (s : State) (key : Nat) : State :=
  modXfer s (key / 2048) (key % 2048) fun t =>
    if t.write then { t with landed := true, body := some { (default : BlockData) with failed := true } }
    else { t with body := some { (default : BlockData) with bmask := BitVec.allOnes 64, failed := true } }

/-- The command that opened or closes context `x` completes with a status, where it waits. -/
def finishCtxCmd (s : State) (x opc status : Nat) : State :=
  (s.cxl.cmds.filter fun c => c.begun && c.opc == opc && c.arg0.toNat == x).foldl (fun t c => finishCmd t c status id) s

/-- Context `x` fails for a cause: its outstanding requests return FAILED, and CONTEXT_FAILED is raised (R438, R445, R452). -/
def failCtx (s : State) (x cause : Nat) : State :=
  let c := ctxOf s x
  if c.st = .closed ∨ c.st = .failed then s
  else
    let reads := (c.outst.filter fun e => e.1 == e.2 + 65536).length
    let s := c.outst.foldl (fun t e => failTransfer t e.2) s
    let s := modCtx s x fun c => { c with st := .failed, outst := [], resCred := 0, shCred := 0, slots := 0 }
    let s := { s with bup := { s.bup with readUsed := s.bup.readUsed - reads, sharedUsed := s.bup.sharedUsed - c.held } }
    let s := modCtx s x fun c => { c with held := 0, demand := 0 }
    let s := finishCtxCmd (finishCtxCmd s x 0x18 stCtxFailed) x 0x19 stOk
    raise s (mkEvent pithAddr (floorN s) 0x01D1 0 0 7 0 (Config.detailOf 0x01D1 [x, cause]).toNat)

/-- Causes of a failed context, as DETAIL items (R438, R445; log 11). -/
def cauNoPort : Nat := 1
def cauTimeout : Nat := 2
def cauGuard : Nat := 3
def cauReserve : Nat := 4
def cauRefused : Nat := 5

/-- A message of context `x`: it is checked against the sealed partner table, takes the context's next CSEQ and carries DEMAND,
and waits in its port (R431, R433, R436, R440). `g` fills its other fields. -/
def ctxSend (s : State) (x ty : Nat) (g : BupMsg → BupMsg) : State :=
  let c := ctxOf s x
  if !s.bup.epSet || c.st = .closed || c.st = .failed then s
  else if !ptContext s c.remote.toNat c.wstore then
    let s := raise s (mkEvent pithAddr (floorN s) 0x01D2 0 0 7 0 (Config.detailOf 0x01D2 [x, c.remote.toNat]).toNat)
    failCtx s x cauGuard
  else
    match ctxPort s c.remote.toNat x with
    | none => failCtx s x cauNoPort
    | some p =>
      let m : BupMsg :=
        { dst := c.remote, src := s.bup.epId, dctx := Fin.ofNat 4096 c.rctx, sctx := Fin.ofNat 4096 x, cseq := c.txSeq, demand := demandOf s x }
      let s := modCtx s x fun c => { c with txSeq := c.txSeq + 1 }
      enqueue s p (msgClass ty) (msgCells ty) x c.remote fun id => .bupol id p (rawMsg ty (g m))

/-- A context with nothing outstanding that is CLOSING becomes CLOSED (R437, R451). -/
def settleCtx (s : State) (x : Nat) : State :=
  let c := ctxOf s x
  if c.st ≠ .closing ∨ !c.outst.isEmpty then s
  else
    let s := { s with bup := { s.bup with sharedUsed := s.bup.sharedUsed - c.held } }
    finishCtxCmd (modCtx s x fun _ => {}) x 0x19 stOk

/-- Context `x` closes: CTX_CLOSE is sent, and the context is CLOSED once its transfers have finished (R437, R451). -/
def closeCtx (s : State) (x : Nat) : State :=
  let c := ctxOf s x
  if c.st = .failed then finishCtxCmd (modCtx s x fun _ => {}) x 0x19 stOk
  else if c.st = .closed then s
  else
    let s := ctxSend s x tyCtxClose id
    if (ctxOf s x).st = .failed then s
    else settleCtx (finishCtxCmd (modCtx s x fun c => { c with st := .closing }) x 0x18 stCtxFailed) x

/-- The contexts of a job that has ended are closed by firmware (R439). -/
def closeJobCtxs (s : State) (a : Nat) : State :=
  ((s.bup.ctx.filter fun e => e.2.asid == a && a != 0).map (·.1)).foldl closeCtx s

end Sys2Proof.Machine
end

