-- ==== Sys2Proof/Machine/Translate.lean ====
section
/-! DEFINITION. Translation of device virtual addresses (09 R265 to R267), the tiers by physical address (09 R277 to R281), the
grant table (17 R455, R457): what a stream block or a Bupol access reaches. -/

namespace Sys2Proof.Machine

/-! ## Page tables -/

/-- One level of the table: lowest DVA bit and width of its index, and whether an entry there may, or must, be a leaf (R265, R266). -/
structure PtLevel where
  bit : Nat
  width : Nat
  mayLeaf : Bool
  mustLeaf : Bool

/-- The levels L5 to L1 (R265). -/
def ptLevels : List PtLevel :=
  [⟨48, 9, false, false⟩, ⟨39, 9, false, false⟩, ⟨30, 9, true, false⟩, ⟨21, 9, true, false⟩, ⟨16, 5, true, true⟩]

/-- Fields of a page-table entry (R266). -/
def pteValid (e : Nat) : Bool := bitOf e 0
def pteLeaf (e : Nat) : Bool := bitOf e 1
def pteRd (e : Nat) : Bool := bitOf e 2
def pteWr (e : Nat) : Bool := bitOf e 3
def pteTarget (e : Nat) : Nat := bitsOf e 4 2
def pteMirror (e : Nat) : Bool := bitOf e 6
def pteAddr (e : Nat) : Nat := bitsOf e 8 44 * 256
/-- A TARGET 0b11 leaf: the partner context, and the page base at the partner. -/
def pteCtx (e : Nat) : Nat := bitsOf e 8 12
def pteRemote (e : Nat) : Nat := bitsOf e 20 32 * 65536

/-- A valid entry that breaks the rules of R266, at a level whose leaf maps `size` bytes. -/
def pteBad (l : PtLevel) (e : Nat) : Bool :=
  bitOf e 7 || bitsOf e 52 12 != 0 ||
    (if pteLeaf e then !l.mayLeaf || (if pteTarget e = 3 then pteRemote e else pteAddr e) % 2 ^ l.bit != 0
     else l.mustLeaf || pteTarget e != 0)

/-- What a translation gives: the fault kind of R269, or the leaf entry and the size of its page. -/
inductive Xlate where
  | fault (kind : Nat)
  | page (pte size : Nat)
  deriving DecidableEq, Repr

/-- The walk from node `node` (R265); an uncorrectable read of an entry is BAD_PTE (R269, R357). -/
def walk (s : State) (dva : Nat) : Nat → List PtLevel → Xlate
  | _, [] => .fault 4
  | node, l :: rest =>
    let a := node + 8 * bitsOf dva l.bit l.width
    let e := nearRead s a 8
    if brAny s.mem.nearBr a 8 then .fault 4
    else if !pteValid e then .fault 1
    else if pteBad l e then .fault 4
    else if pteLeaf e then .page e (2 ^ l.bit)
    else walk s dva (pteAddr e) rest

/-- The walk from the root node of an ASID; without one nothing is present. -/
def walkRoot (s : State) (asid dva : Nat) : Xlate :=
  match tabGet 0 s.mem.root asid with
  | 0 => .fault 1
  | n + 1 => walk s dva n ptLevels

/-- The cached translation of a DVA in one of the caches (R248). -/
def cached (l : List TlbEntry) (asid dva : Nat) : Option TlbEntry :=
  l.find? fun t => t.asid == asid && decide (t.dva ≤ dva ∧ dva < t.dva + t.size)

/-- Nodes below `node` that a walk passes, as walk-cache entries (R248, R265). -/
def walkNodes (s : State) (asid dva : Nat) : Nat → List PtLevel → List WalkEntry
  | _, [] => []
  | node, l :: rest =>
    let e := nearRead s (node + 8 * bitsOf dva l.bit l.width) 8
    if !pteValid e || pteBad l e || pteLeaf e then []
    else { asid := asid, level := rest.length, dva := dva / 2 ^ l.bit * 2 ^ l.bit, size := 2 ^ l.bit, node := pteAddr e } ::
      walkNodes s asid dva (pteAddr e) rest

/-- The lowest node that the walk cache holds for a DVA (R248). -/
def walkFind (x : FieldStream) (asid dva : Nat) : Option WalkEntry :=
  (x.walks.filter fun w => w.asid == asid && decide (w.dva ≤ dva ∧ dva < w.dva + w.size)).foldl
    (fun b w => match b with | some v => if w.level < v.level then some w else b | none => some w) none

/-- A walk from the lowest node that the walk cache holds, or from the root, with the nodes that it passes (R248, R265). -/
def walkCached (s : State) (f asid dva : Nat) : Xlate × List WalkEntry :=
  match walkFind (fieldOf s f).str asid dva with
  | some w => (walk s dva w.node (ptLevels.drop (5 - w.level)), walkNodes s asid dva w.node (ptLevels.drop (5 - w.level)))
  | none =>
    match tabGet 0 s.mem.root asid with
    | 0 => (.fault 1, [])
    | n + 1 => (walk s dva n ptLevels, walkNodes s asid dva n ptLevels)

/-- A DVA translated for logical engine `se` of the complex of field `f`: from the engine's cache, from the shared cache, or by a walk, each of
which then holds what it lacked (R248, R267). DESIGN CHOICE (log 20): each cache keeps the entries that came last. -/
def translate (s : State) (f se asid dva : Nat) : Xlate × State :=
  let dva := dva % 2 ^ 57
  let x := (fieldOf s f).str
  let keep := fun (t : TlbEntry) (y : FieldStream) => { y with etlb := tabMod [] se (fun l => (t :: l).take 32) y.etlb }
  match cached (tabGet [] x.etlb se) asid dva with
  | some t => (.page t.pte.toNat t.size, s)
  | none =>
    match cached x.tlb asid dva with
    | some t => (.page t.pte.toNat t.size, modStr s f (keep t))
    | none =>
      match walkCached s f asid dva with
      | (.fault k, _) => (.fault k, s)
      | (.page e size, ws) =>
        let t : TlbEntry := { asid := asid, dva := dva / size * size, size := size, pte := BitVec.ofNat 64 e }
        (.page e size, modStr s f fun y => { keep t y with tlb := (t :: y.tlb).take 4096, walks := (ws ++ y.walks).take 256 })

/-- The translations of a complex that are dropped where `p` says so, by ASID, first DVA and bytes: in every cache (R248, R267). -/
def dropXlates (p : Nat → Nat → Nat → Bool) (x : FieldStream) : FieldStream :=
  { x with
    tlb := x.tlb.filter fun t => !p t.asid t.dva t.size
    etlb := (x.etlb.map fun e => (e.1, e.2.filter fun t => !p t.asid t.dva t.size)).filter fun e => !e.2.isEmpty
    walks := x.walks.filter fun t => !p t.asid t.dva t.size }

/-- Physical address, or address at the partner, of a DVA on a page. -/
def pageAddr (pte size dva : Nat) : Nat := (if pteTarget pte = 3 then pteRemote pte else pteAddr pte) + dva % 2 ^ 57 % size

/-! ## Near and far tier -/

/-- Blocks of 4 KiB in a near-tier channel of 2.25 GB (R6, R276; log 21). -/
def chanBlocks : Nat := 549316

/-- Near-tier blocks that exist. -/
def nearBlocks (s : State) : Nat := s.yld.nchan * chanBlocks

/-- Entries of the yield map that count: the base record, the extensions, and those kept once flash is full (R391, R392). -/
def yieldEntries (y : Yield) : List YEnt := y.base ++ y.ext.flatMap (·.ents) ++ y.kept

/-- Channels of stack `st` (die st + 1) that were out of service at bring-up; one retired since stands in the list yet (R277, R279). -/
def badChannels (s : State) (st : Nat) : List Nat :=
  (List.range 32).filter fun c =>
    (yieldEntries s.yld).any (fun e => e.kind == 7 && e.unit == st + 1 && e.loc == c) && tabGet 0 s.mem.chan (32 * st + c) == 0

/-- The in-service channels of a stack: 31 at most, the last good one being the spare (R276). -/
def stackChannels (s : State) (st : Nat) : List Nat :=
  ((List.range 32).filter fun c => !(badChannels s st).contains c).take 31

/-- In-service channels by stack and then by channel, as 32 × stack + channel (R277). -/
def nearChannels (s : State) : List Nat :=
  ((List.range 40).flatMap fun st => (stackChannels s st).map (32 * st + ·)).take s.yld.nchan

/-- Channel of the block at NPA `a` (R277). -/
def nearChannel (s : State) (a : Nat) : Nat := (nearChannels s).getD (a / 4096 % max 1 s.yld.nchan) 0

/-- Die index of the stack of NPA `a`: stacks H0 to H39 are dies 1 to 40 (R57). -/
def nearDie (s : State) (a : Nat) : Nat := 1 + nearChannel s a / 32

/-- DDR5 channel of FPA `a`, of 24, or of the even ones where 12 are populated (R280, R281). -/
def farChannel (s : State) (a : Nat) : Nat :=
  if s.yld.farPop = 12 then 2 * (a / 4096 % 12) else a / 4096 % 24

/-- Die index of the DDR5 chiplet of FPA `a`: four channels on each of dies 53 to 58 (R57). -/
def farDie (s : State) (a : Nat) : Nat := 53 + farChannel s a / 4

/-- Bytes of the far tier: firmware reads them from the DIMMs, 32 to 256 GB each (R280; log 21). -/
def farBytes (s : State) : Nat := s.yld.farPop * 256000000000

/-- The near-tier channel of `a` reads bruised: a second one retired in its stack (R279). -/
def nearLost (s : State) (a : Nat) : Bool := tabGet 0 s.mem.chan (nearChannel s a) == 3

/-- The channel of an access leaves power-down (R484). -/
def wakeChan (s : State) (key : Nat) : State := { s with mem := { s.mem with down := tabPut false key false s.mem.down } }

/-! ## Grants -/

/-- One valid entry of the grant table covers host addresses [a, a + n) with the right needed (R455, R457). -/
def granted (s : State) (a n : Nat) (wr : Bool) : Bool :=
  (List.range 64).any fun g =>
    let e := grantOf s g
    e.valid && (if wr then e.wr else e.rd) &&
      decide (4096 * e.base.toNat ≤ a ∧ a + n ≤ 4096 * (e.base.toNat + e.pages.toNat + 1))

/-- CXL port of a request to host memory: by the page number while both are in service, else the one that is (R467). -/
def cxlPortFor (s : State) (a : Nat) : Option Nat :=
  match (cxlPortOf s 0).up, (cxlPortOf s 1).up with
  | true, true => some (a / 4096 % 2)
  | true, false => some 0
  | false, true => some 1
  | false, false => none

/-! ## Dies -/

/-- Rind dies that may serve an address of a target (R266): its stack, its DDR5 chiplet, the CXL chiplets, or the Bupol chiplets
by which a context leaves. -/
def targetDies (s : State) (target addr ctx : Nat) : List Nat :=
  if target = 0 then [nearDie s addr]
  else if target = 1 then [farDie s addr]
  else if target = 2 then (match cxlPortFor s addr with | some p => [59 + p] | none => [59, 60])
  else match ctxPort s (ctxOf s ctx).remote.toNat ctx with | some p => [41 + p / 4] | none => []

/-- The rind die of a transfer; a punnet fetched on-die, target 4, has none. -/
def xferDie (s : State) (t : Transfer) : Nat := if t.target = 4 then 0 else (targetDies s t.target t.far t.ctx).headD 0

/-- Valid leaf entries below a node, with the bytes they map (R265). -/
def leavesUnder (s : State) : Nat → List PtLevel → List (Nat × Nat)
  | _, [] => []
  | node, l :: rest =>
    (List.range (2 ^ l.width)).flatMap fun i =>
      let e := nearRead s (node + 8 * i) 8
      if !pteValid e || pteBad l e then [] else if pteLeaf e then [(e, 2 ^ l.bit)] else leavesUnder s (pteAddr e) rest

/-- A job has a page mapped to a rind die (R378). -/
def jobMaps (s : State) (a die : Nat) : Bool :=
  match tabGet 0 s.mem.root a with
  | 0 => false
  | n + 1 => (leavesUnder s n ptLevels).any fun e =>
      (List.range (min (e.2 / 4096) 1280)).any fun i => (targetDies s (pteTarget e.1) (pteAddr e.1 + 4096 * i) (pteCtx e.1)).contains die

/-! ## Whole blocks -/

/-- A block as it stands in a tier: its bytes, their CRC-32C, and its bruise bits (R256, R278, R281). -/
def tierBlock (data br : Nat) : BlockData :=
  { data := BitVec.ofNat 32768 data, check := BitVec.ofNat 32 (crc32c 4096 data), bmask := BitVec.ofNat 64 br }

/-- A block that the far end could not complete (R254, R256). -/
def failedBlock : BlockData := { data := 0, check := 0, bmask := BitVec.allOnes 64, failed := true }

/-- CHECK matches the block (R256). -/
def checkOk (b : BlockData) : Bool := b.check.toNat == crc32c 4096 b.data.toNat

/-- Every granule of a block bruised. -/
def allBruised (b : BlockData) : BlockData := { b with bmask := BitVec.allOnes 64 }

/-- The block at NPA `a` as its channel reads it. -/
def nearBlock (s : State) (a : Nat) : BlockData :=
  tierBlock (nearRead s a 4096) (if nearLost s a then 2 ^ 64 - 1 else brMask s.mem.nearBr (a / 64) 64)

/-- The block at FPA `a`. -/
def farBlock (s : State) (a : Nat) : BlockData := tierBlock (farRead s a 4096) (brMask s.mem.farBr (a / 64) 64)

/-- A block written to the near tier with its bruise bits (R256, R357). -/
def nearPut (s : State) (a : Nat) (b : BlockData) : State :=
  { s with mem := { s.mem with near := memWrite s.mem.near a 4096 b.data.toNat,
                               nearBr := brPutMask s.mem.nearBr (a / 64) b.bmask.toNat 64 } }

/-- A block written to the far tier with its bruise bits. -/
def farPut (s : State) (a : Nat) (b : BlockData) : State :=
  { s with mem := { s.mem with far := memWrite s.mem.far a 4096 b.data.toNat,
                               farBr := brPutMask s.mem.farBr (a / 64) b.bmask.toNat 64 } }

end Sys2Proof.Machine
end

