-- ==== Sys2Proof/Machine/PithOps.lean ====
section
/-! DEFINITION. What the pith's firmware does in answer to events, shared by many commands: the error log and
containment domains (13), fields leaving a job, halting a job, fencing a field, the safe state (21 R549), the pith's side of
an epoch commit (02 R61 to R68), and the loss of a rind unit with its Bupol ports and of the mirrored pair (13, 15, 16). -/

namespace Sys2Proof.Machine

/-! ## Events and domains -/

/-- Class in which a code is raised (R369): 0 CORRECTED, 1 CONTAINED, 2 JOB, 3 DEVICE. -/
def codeClass (c : Nat) : Nat := c / 256 % 4

/-- A code that R369 marks as a follow-on code. -/
def followCode (c : Nat) : Bool := [0x0201, 0x0207, 0x0208].contains c

/-- The field that a stem address names or lies in (R57). -/
def addrField (a : Nat) : Option Nat :=
  if a < 36 then some a
  else if 0x1000 ≤ a ∧ a ≤ 0x150F then some (fieldOfXY ((a - 0x1000) % 36) ((a - 0x1000) / 36))
  else none

/-- The rind die that a stem address names (R57). -/
def addrDie (a : Nat) : Option Nat := if 0x2000 ≤ a ∧ a ≤ 0x203F then some (a - 0x2000) else none

/-- The domain of a unit by its address: its rind unit, or its field or the field's stream complex. -/
def placeDomain (src : Nat) (stream : Bool) : Domain :=
  match addrDie src with
  | some d => .rind d
  | none =>
    match addrField src with
    | some f => if stream then .stream f else .field f
    | none => .none

/-- The domain of an event, from its code and the source address (R369, R370, R376). -/
def domainOf (m : ErrMsg) : Domain :=
  let c := m.code.toNat
  let src := m.src.toNat
  if codeClass c = 2 ∨ c = 0x0009 ∨ c = 0x0301 then (if m.asid = 0 then .none else .job m.asid)
  else if c = 0x0109 ∨ c = 0x0303 then .pith
  else if c = 0x0007 ∨ c = 0x0106 then placeDomain src true
  else if c = 0x0105 then placeDomain src (m.engine == 6)
  else if c = 0x0302 then (if src = 0x203F then .none else placeDomain src false)
  else if [0x0008, 0x010A, 0x0304, 0x0305, 0x00D2, 0x00D3, 0x01C0, 0x01C1, 0x01D1, 0x01D2, 0x00E2, 0x00E5, 0x01E0, 0x01E1,
           0x01E2, 0x03E0, 0x03E1, 0x00F0, 0x01F0].contains c then .none
  else placeDomain src false

/-- Key of a domain. -/
def domKey : Domain → Nat
  | .none => 0 | .job a => 1000 + a | .field f => 2000 + f | .stream f => 3000 + f | .rind d => 4000 + d | .pith => 5000

/-- Handling state of a domain (R376); the domain none has none. -/
def domGet (s : State) (d : Domain) : DomSt := tabGet {} s.dom.st (domKey d)

/-- A domain's handling state written. -/
def domPut (s : State) (d : Domain) (x : DomSt) : State :=
  if d = .none then s else { s with dom := { s.dom with st := tabPut {} (domKey d) x s.dom.st } }

/-- Some domain is HANDLING or ESCALATED (R380). -/
def anyHandling (s : State) : Bool := s.dom.st.any fun e => e.2.st != 0

/-! ## The log -/

/-- Record `i`. -/
def recAt (s : State) (i : Nat) : Option Rec := tabGet none s.log.recs i

/-- Records 0 to 223 in use. -/
def lowUsed (s : State) : Nat := (s.log.recs.filter fun e => decide (e.1 < 224) && e.2.isSome).length

/-- A free record of 0 to 223, or else of 224 to 255 (R373). -/
def freeRec (s : State) : Option Nat := (List.range 256).find? fun i => (recAt s i).isNone

/-- Index of the record with SEQ `q`. -/
def recIndex (s : State) (q : Nat) : Option Nat :=
  ((s.log.recs.find? fun e => match e.2 with | some r => r.seq == q | none => false)).map (·.1)

/-- The record with SEQ `q`, or the overflow record, changed. -/
def modRec (s : State) (q : Nat) (g : Rec → Rec) : State :=
  match recIndex s q with
  | some i => { s with log := { s.log with recs := tabMod none i (Option.map g) s.log.recs } }
  | none =>
    match s.log.overflow with
    | some r => if r.seq = q then { s with log := { s.log with overflow := some (g r) } } else s
    | none => s

/-- COUNT of a record raised, saturating (R372). -/
def addCount (n : Nat) (r : Rec) : Rec := { r with count := satAdd 32 r.count n }

/-- A record from an event message (R372). -/
def recOf (s : State) (m : ErrMsg) (d : Domain) (cls dstate link : Nat) (esc prim : Bool) : Rec :=
  { code := m.code, cls := cls, esc := esc, primary := prim, dom := d, dstate := dstate, asid := m.asid,
    seq := s.log.seq + 1, ntime := floorN s, slot := m.slot, src := m.src, core := m.core, engine := m.engine,
    count := m.count, addr := m.addr, detail := m.detail, link := link % 2 ^ 32 }

/-- A new record in slot `i`; host software is told (R373, R454). -/
def putRec (s : State) (i : Nat) (r : Rec) : State :=
  msixDue { s with log := { s.log with recs := tabPut none i (some r) s.log.recs, seq := r.seq } } 8

/-- A record freed: at once, or by the end of its domain's handling (R374, R563). -/
def freeSeq (s : State) (q : Nat) : State :=
  match recIndex s q with
  | none => s
  | some i => { s with log := { s.log with recs := tabPut none i none s.log.recs, pend := dropAll q s.log.pend } }

/-- CE_COUNT of a code raised (R373). -/
def countCe (s : State) (m : ErrMsg) : State :=
  { s with log := { s.log with ce := tabMod 0 (m.code.toNat % 256) (· + BitVec.ofNat 64 m.count) s.log.ce } }

/-- A CORRECTED event logged (R373). -/
def logCorrected (s : State) (m : ErrMsg) (d : Domain) (link : Nat) : State :=
  let s := countCe s m
  let st := (domGet s d).st
  if m.code = 0x000B then
    match freeRec s with
    | some i => putRec s i (recOf s m d 0 st link false false)
    | none => s
  else
    match s.log.recs.find? fun e => match e.2 with | some r => r.code == m.code && decide (r.dom = d) | none => false with
    | some (_, some r) => modRec s r.seq (addCount m.count)
    | _ =>
      match (if lowUsed s < 192 then (List.range 224).find? fun i => (recAt s i).isNone else none) with
      | some i => putRec s i (recOf s m d 0 st link false false)
      | none => s

/-! ## Fields leaving a job -/

/-- The seam on a side of a field with ASID `a` taken off; the buffers of a disabled seam are emptied (R41, R362). -/
def seamOff (a side : Nat) (n : FieldNet) : FieldNet :=
  let l := dropAll a (tabGet [] n.seam side)
  { n with
    seam := tabPut [] side l n.seam
    buf := if l.isEmpty then tabKeep (fun k => k / 12 != side) n.buf else n.buf }

/-- Every seam of the field disabled for the job, on both sides (R41, R362). -/
def dropSeams (s : State) (f a : Nat) : State :=
  (List.range 4).foldl
    (fun t side =>
      let t := modNet t f (seamOff a side)
      match neighbour f side with
      | some g => modNet t g (seamOff a ((side + 2) % 4))
      | none => t) s

/-- A core after its job: its counters, columns and condition stay. -/
def idleCore (c : Core) : Core :=
  { ilk := c.ilk, twait := c.twait, cols := c.cols, condemned := c.condemned, transients := c.transients }

/-- A stream unarmed; its counters stay. -/
def idleStream (st : Stream) : Stream := { ucyc := st.ucyc, uev := st.uev }

/-- Keys of the tables of a job in a field's network: the route words, and the entries by (ASID, plane, bank). -/
def dropRoutes (a : Nat) (n : FieldNet) : FieldNet :=
  { n with
    route := tabKeep (fun k => k / 589824 != a) n.route
    period := tabKeep (fun k => k / 4 != a) n.period
    bank := tabKeep (fun k => k / 2 != a) n.bank
    base := tabKeep (fun k => k / 2 != a) n.base
    quiet := dropAll a n.quiet }

/-- What a field holds of job `a` by ASID, dropped. -/
def dropFjob (a : Nat) (j : FieldJob) : FieldJob :=
  { anchor := tabPut 0 a 0 j.anchor, start := tabPut 0 a 0 j.start, pre := tabPut 0 a 0 j.pre, iv := tabPut 0 a 0 j.iv,
    commit := tabPut 0 a 0 j.commit, policy := tabPut 0 a 0 j.policy, policyDue := tabPut 0 a 0 j.policyDue,
    kvars := j.kvars.filter fun k => k.asid != a, release := tabPut 0 a 0 j.release, relBar := tabPut 0 a 0 j.relBar,
    step := tabPut 0 a 0 j.step, halted := dropAll a j.halted, owed := j.owed.filter fun o => o.asid != a }

/-- The ASID that a change's argument names, 0 for none (R64, R411, R311). -/
def argAsid (k : CommitKind) (arg : BitVec 64) : Nat :=
  match k with
  | .routeSwap | .preempt | .mirrorCommit | .predictorVariant => bitsOf arg.toNat 0 6
  | .formatsPolicy => bitsOf arg.toNat 8 6
  | _ => 0

/-- Changes of a list that do not name job `a`. -/
def notJob (a : Nat) (l : List Staged) : List Staged := l.filter fun x => argAsid x.kind x.arg != a

/-- Rails of a SLEEPING field: the SRAM rail alone, for banks and segments in retain (R17). -/
def sleepRails (m : FieldMem) : BitVec 3 := if (m.seg ++ m.bank).any fun e => e.2.st == 1 then 2 else 0

/-- Field `f` leaves job `a`: its segments and banks go to OFF, its tables and streams are dropped, its seams are disabled,
and it goes to SLEEPING when no other job holds it (R20, R41, R238, R345 step 7). A guard-band raise that waited applies (R394, R398). -/
def leaveField (s : State) (f a : Nat) : State :=
  let work := hasWork s f a
  let s := dropSeams s f a
  let s := if work then modCores s f (fun _ c => idleCore c) else s
  let s :=
    if work then
      { s with mem := { s.mem with die := tabClear (f * 2 ^ 34) (2 ^ 34) s.mem.die,
                                   dieBr := tabClear (f * 2 ^ 28) (2 ^ 28) s.mem.dieBr,
                                   flips := tabClear (f * 2 ^ 28) (2 ^ 28) s.mem.flips,
                                   unckd := tabClear (f * 2 ^ 22) (2 ^ 22) s.mem.unckd
                                   crcErr := tabClear (f * 2 ^ 22) (2 ^ 22) s.mem.crcErr } }
    else s
  let s := if work ∧ (fieldOf s f).pow.guardDue ≠ 0 then { s with yld := { s.yld with gen := s.yld.gen + 1 } } else s
  modField s f fun x =>
    let owner := if x.cond.owner = a then 0 else x.cond.owner
    let leases := dropAll a x.cond.leases
    let free := owner == 0 && leases.isEmpty
    let mem := if work then { x.mem with seg := [], bank := [], wheel := [], wr := [], scrub := [], seen := [] } else x.mem
    { x with
      cond := { x.cond with owner := owner, leases := leases, act := if free then .sleeping else x.cond.act }
      clk := { x.clk with staged := notJob a x.clk.staged, hold := if free then .none else x.clk.hold }
      pow := { x.pow with
        guard := if work ∧ x.pow.guardDue ≠ 0 then x.pow.guardDue else x.pow.guard
        guardDue := if work then 0 else x.pow.guardDue
        rails := if free then sleepRails mem else x.pow.rails }
      mem := mem
      net := (let n := dropRoutes a x.net
              if work then { n with carrier := [], cmap := [], cred := [], credRet := [], req := [], link := [], inb := [], outb := [],
                                    inAt := [], outAt := [] }
              else n)
      str := if work then dropXlates (fun b _ _ => b == a)
               { x.str with str := x.str.str.map fun e => (e.1, idleStream e.2), xfer := [], bursts := [], nbase := [], lead := 0 }
             else x.str
      job := dropFjob a x.job }

/-- Engines of a halted core: nothing in flight goes on, nothing further is written (R362). -/
def haltCore (c : Core) : Core := { stopCore c with passes := [], pipe := [], failed := [], replay := 0, replaySet := none, pendRows := [], exch := [] }

/-- HALT in a field controller (R362, R363): the job's engines stop, its route words forward nothing, its seams are disabled,
its streams are released and its changes discarded. -/
def stopFieldJob (s : State) (f a : Nat) : State :=
  let work := hasWork s f a
  let s := dropSeams s f a
  let s := if work then modCores s f (fun _ c => haltCore c) else s
  modField s f fun x =>
    { x with
      clk := { x.clk with staged := notJob a x.clk.staged }
      mem := if work then { x.mem with wr := [] } else x.mem
      net := { x.net with quiet := addNew a x.net.quiet, inb := if work then [] else x.net.inb, outb := if work then [] else x.net.outb }
      str := { x.str with str := if work then x.str.str.map fun e => (e.1, idleStream e.2) else x.str.str,
                          xfer := x.str.xfer.filter fun t => t.asid != a
                          bursts := if work then [] else x.str.bursts }
      job := { x.job with halted := addNew a x.job.halted, kvars := x.job.kvars.filter fun k => k.asid != a,
                          owed := x.job.owed.filter fun o => o.asid != a } }

/-! ## The pith's side of an epoch commit -/

/-- The participants of a change (R61): of a job, its fields are those that run its work; its transit fields take part in ROUTE_SWAP alone. -/
def partsOf (s : State) (k : CommitKind) (arg : BitVec 64) : List Part :=
  let run := ((List.finRange 36).filter fun (f : FieldIx) => runningField s f).map Part.field
  let rind := ((List.finRange 64).filter fun (d : Fin 64) => decide (1 ≤ d.val ∧ d.val ≤ 60) && !tabGet false s.dom.rindOut d).map Part.rind
  let a := argAsid k arg
  let job := ((List.finRange 36).filter fun (f : FieldIx) => hasJob s f a && !fieldGone s f).map Part.field
  let work := ((List.finRange 36).filter fun (f : FieldIx) => hasWork s f a && !fieldGone s f).map Part.field
  let near := fun (f : Nat) =>
    ((List.finRange 36).filter fun (g : FieldIx) =>
      decide (g.val = f) || (List.range 4).any fun side => decide (neighbour f side = some g.val) && !(seamJobs s f side).isEmpty).map Part.field
  match k with
  | .freq => run ++ [.root]
  | .profile => run ++ rind ++ [.root]
  | .powerCap => run ++ rind
  | .routeSwap => job
  | .preempt | .formatsPolicy | .predictorVariant => work
  | .mirrorCommit =>
    (if (jobOf s a).st = .saving ∨ (jobOf s a).st = .preempted ∨ (jobOf s a).st = .resuming then [] else work) ++ [.mirror]
  | .rest | .wake => (near (bitsOf arg.toNat 0 6)).filter fun p => match p with | .field f => runningField s f | _ => true

/-- E of a PREPARE: 16 nominal epochs on, and late enough that no field that waits for its start slot finds it late (R36, R65; log 37). -/
def prepareEpoch (s : State) (parts : List Part) : Nat :=
  parts.foldl (fun e u => match u with | .field f => max e (slotOf s f / 4096 + 8) | _ => e) (nominalEpoch s + 16)

/-- PREPARE of a change is sent: CSN rises by one (R63, R65). -/
def sendPrepare (s : State) (c : Change) : State :=
  let parts := partsOf s c.kind c.arg
  let csn := s.com.csn + 1
  let e := prepareEpoch s parts
  let ch := { c with parts := parts, csn := csn, epoch := e, at_ := nominalEpoch s, acked := [] }
  let s := { s with com := { s.com with csn := csn, kind := kindCode c.kind, stat := 0, epoch := e % 2 ^ 48, out := some ch } }
  parts.foldl (fun t u => send t (.prepare u csn c.kind c.arg e parts.length)) s

/-- The pith may send a PREPARE now (R66, R507, R549). -/
def mayPrepare (s : State) : Bool := pithUp s && s.com.out.isNone && !s.inp.refLost && !s.trs.safe

/-- The next waiting change is prepared, where the pith may (R66); one without a participant is dropped. -/
def pump (s : State) : State :=
  if !mayPrepare s then s
  else
    match s.com.queue with
    | [] => s
    | c :: rest =>
      let s := { s with com := { s.com with queue := rest } }
      if (partsOf s c.kind c.arg).isEmpty then s else sendPrepare s c

/-- The pith means to make a change (R61): it waits for its turn. A change that already waits is not made twice. -/
def pithPrepare (s : State) (k : CommitKind) (arg : BitVec 64) : State :=
  pump { s with com := { s.com with queue := s.com.queue ++ [{ kind := k, arg := arg, parts := [] }] } }

/-- The change is under way: outstanding, waiting or to be prepared again. -/
def changing (s : State) (p : CommitKind → BitVec 64 → Bool) : Bool :=
  (s.com.out.toList ++ s.com.queue ++ s.com.retry).any fun c => p c.kind c.arg

/-- ABORT is sent for the outstanding PREPARE (R65); `again` says whether R582 prepares it again, and from which nominal
epoch on. -/
def abortOut (s : State) (again : Option Nat) : State :=
  match s.com.out with
  | none => s
  | some c =>
    let retry := match again with
      | some n => s.com.retry ++ [{ c with after := n, acked := [] }]
      | none => s.com.retry
    let waits := fun (c : Change) => c.parts.any fun u => match u with | .field f => decide (slotOf s f / 4096 ≤ c.epoch) | _ => false
    let s := { s with com := { s.com with out := none, stat := 2, aborts := s.com.aborts + 1, retry := retry
                                          aborted := s.com.aborted.filter waits ++ [c] } }
    c.parts.foldl (fun t u => send t (.abort u c.csn c.epoch)) s

/-- The decisions that a participant may have missed, as the messages that the pith sends again: the COMMIT of each change that it has yet to
apply, and the ABORT of each that it still holds undecided (R67). -/
def decisionsFor (s : State) (u : Part) : List StemMsg :=
  let held := fun (c : Change) => match u with
    | .field f => (fieldOf s f).clk.staged.any fun x => x.csn == c.csn && !x.decided
    | _ => false
  ((s.com.committed.filter fun c => c.parts.contains u).map fun c => .commit u c.csn c.epoch) ++
    ((s.com.aborted.filter fun c => c.parts.contains u && held c).map fun c => .abort u c.csn c.epoch)

/-- Changes for job `a` are dropped, in the pith and in the mirror engine (R363, R582). -/
def dropJobChanges (s : State) (a : Nat) : State :=
  let names := fun (c : Change) => argAsid c.kind c.arg == a
  let s := if s.com.out.any names then abortOut s none else s
  pump { s with com := { s.com with queue := s.com.queue.filter (!names ·), retry := s.com.retry.filter (!names ·),
                                    committed := s.com.committed.filter (!names ·), mirror := notJob a s.com.mirror } }

/-! ## Ending a domain's handling, and a job's end -/

/-- Handling of a domain completes (R377, R379): it returns to IDLE, and a free that waited for its primary record is made
(R563). -/
def handlingDone (s : State) (d : Domain) : State :=
  let x := domGet s d
  let s := domPut s d {}
  if x.st ≠ 0 ∧ s.log.pend.contains x.seq then freeSeq s x.seq else s

/-- Codes whose granules are rewritten, or retired as the segments and banks go to OFF (R379). -/
def granuleCode (c : Nat) : Bool := [0x0101, 0x0102, 0x0105, 0x0106].contains c

/-- ADDR of the record with SEQ `q` (R372). -/
def recAddr (s : State) (q : Nat) : Option Nat :=
  ((s.log.recs.filterMap (·.2) ++ s.log.overflow.toList).find? fun r => r.seq == q).map (·.addr.toNat)

/-- The on-die granules of `lo` to `hi` are rewritten or retired: the handling of the field for one of them completes (R379; log 60). -/
def granulesDone (s : State) (f lo hi : Nat) : State :=
  let d := domGet s (.field f)
  if d.st = 0 ∨ !granuleCode d.code.toNat then s
  else if d.code == 0x0102 || (match recAddr s d.seq with | some a => decide (a = 0 ∨ (lo ≤ a ∧ a < hi)) | none => true) then handlingDone s (.field f)
  else s

/-- A stream of the complex stands faulted. -/
def anyFaulted (s : State) (f : Nat) : Bool := (fieldOf s f).str.str.any fun e => decide (e.2.st = .faulted)

/-- No stream of the complex is armed to go on. -/
def noneArmed (s : State) (f : Nat) : Bool := (fieldOf s f).str.str.all fun e => decide (e.2.st ≠ .faulted ∧ e.2.st ≠ .active)

/-- A stream of the complex has resumed or been released: with none left faulted, the complex's handling completes (R379; log 60). -/
def streamsDone (s : State) (f : Nat) : State :=
  if (domGet s (.stream f)).st = 0 || anyFaulted s f then s else handlingDone s (.stream f)

/-- Every non-fenced field of the job has reported HALTED, and the pith owes it no halt (R362, R379). -/
def haltComplete (s : State) (a : Nat) : Bool :=
  !(s.stem.halts.any fun h => h.1 == a) &&
    (jobFields s a).all fun f => fieldGone s f || (jobOf s a).haltedBy.contains f

/-- The ASID is freed (R328, R330): translations are invalidated (R267), the save area is released, and its JOB_ENERGY is held
until the ASID is assigned again (R564). -/
def freeJob (s : State) (a : Nat) : State :=
  let j := jobOf s a
  let s := finishJobCmds s 0x04 j.number stOk (fun c => { c with job := j.number, asid := a, htag := j.htag })
  let s := closeJobCtxs s a
  let s := modFields s fun _ x => { x with str := dropXlates (fun b _ _ => b == a) x.str }
  { s with
    job := tabPut {} a { energy := j.energy } s.job
    mem := { s.mem with root := tabPut 0 a 0 s.mem.root }
    pair := { s.pair with recorded := tabPut 0 a 0 s.pair.recorded } }

/-- The field's domains let its segments go to OFF (R362): none is being handled but for granules that OFF retires, and no
diagnosis is due (R365). -/
def fieldQuiet (s : State) (f : Nat) : Bool :=
  [Domain.field f, Domain.stream f].all (fun d => (domGet s d).st == 0 || granuleCode (domGet s d).code.toNat) &&
    !(fieldOf s f).cond.diagHold

/-- The fields of a stopped job go to SLEEPING once the handling of its domains has ended (R362); a job that host software
has ended is then freed. A domain whose job is gone has nothing left to halt. -/
def settleJob (s : State) (a : Nat) : State :=
  let j := jobOf s a
  if !j.live then handlingDone s (.job a)
  else if j.st != .stopped || !haltComplete s a then s
  else
    let s := handlingDone s (.job a)
    let fs := jobFields s a
    let s :=
      fs.foldl
        (fun t f =>
          let d := domGet t (.field f)
          if d.st ≠ 0 ∧ d.code = 0x0107 ∧ (fieldAsids t f).all (fun b => (jobOf t b).st == .stopped && haltComplete t b)
          then handlingDone t (.field f) else t) s
    if fs.all (fieldQuiet s) then
      let s := fs.foldl (fun t f => handlingDone (handlingDone (leaveField t f a) (.field f)) (.stream f)) s
      if j.ending then freeJob s a else s
    else s

/-- A fenced field without a job: its handling completes with the fence (R379). -/
def settleFence (s : State) (f : Nat) : State :=
  let d := domGet s (.field f)
  if d.st ≠ 0 ∧ d.code = 0x0107 ∧ (fieldAsids s f).isEmpty then handlingDone s (.field f) else s

/-- Every stopped job and fenced field settled. -/
def settle (s : State) : State :=
  (List.range 36).foldl settleFence (asids.foldl settleJob s)

/-! ## Halting jobs, and the safe state -/

/-- The pith owes job `a` a halt, for the record `seq` (R361). -/
def oweHalt (a seq : Nat) (s : State) : State :=
  let j := jobOf s a
  if !j.live || j.st = .stopped || s.stem.halts.any (fun h => h.1 == a) then s
  else { s with stem := { s.stem with halts := s.stem.halts ++ [(a, seq)] } }

/-- Job `a` becomes STOPPED (R361, R363, R364): its changes are dropped, its mirror writes discarded (R416), its pending
PREEMPT_JOB and RESUME_JOB end with WRONG_STATE, and host software is told unless it ended the job itself (R462). -/
def stopJob (s : State) (a seq : Nat) (told : Bool) : State :=
  let j := jobOf s a
  let s := discardMirror (dropJobChanges s a) a
  let g := fun (c : Cpl) => { c with job := j.number, asid := a, htag := j.htag }
  let s := finishJobCmds (finishJobCmds s 0x02 j.number stWrong g) 0x03 j.number stWrong g
  let s := modJob s a fun j => { j with st := .stopped, haltSeq := seq, haltedBy := [], reports := [], mirrorReports := [], arrivals := [] }
  let s := { s with stem := { s.stem with halts := s.stem.halts.filter fun h => h.1 != a } }
  if told then postJob s a asStopped seq else s

/-- The lowest state of every field, by the causes in force (R489, R490). -/
def refreshLow (s : State) : State :=
  let all := bitOf s.inp.forced.toNat 6 || s.inp.fRange || s.inp.fCurrent || s.inp.fCoolant || s.inp.fConv || s.inp.fSafe
  modFields s fun f x => { x with pow := { x.pow with low := all || bitOf s.inp.forced.toNat (rowOf f) } }

/-- The safe state is entered, for the record `seq` (R549). -/
def enterSafe (s : State) (seq : Nat) : State :=
  if s.trs.safe then s
  else
    let told := s.pith.running
    let s := refreshLow { s with inp := { s.inp with fSafe := true }, trs := { s.trs with safe := true } }
    let s := sendFail s
    let s := abortOut s none
    let s := { s with com := { s.com with queue := [], retry := [] } }
    let s := (liveJobs s).foldl (fun t a => if (jobOf t a).st = .stopped then t else stopJob t a seq told) s
    let s := (liveJobs s).foldl
      (fun t a => (jobFields t a).foldl (fun u f => leaveField (stopFieldJob u f a) f a) t) s
    let s := modFields s fun _ x =>
      if x.cond.retired || x.cond.fenced then x
      else { x with cond := { x.cond with act := .sleeping }, pow := { x.pow with rails := sleepRails x.mem } }
    { s with mem := { s.mem with selfRefresh := true } }

/-! ## Logging an event -/

/-- GEN of the capacity map raised (R398). -/
def bumpGen (s : State) : State := { s with yld := { s.yld with gen := s.yld.gen + 1 } }

/-- A lost participant: an undecided change is aborted and prepared again without it (R68, R582); a decided change no longer
waits for it. -/
def dropPart (s : State) (u : Part) : State :=
  let s := match s.com.out with
    | some c => if c.parts.contains u then pump (abortOut s (some 0)) else s
    | none => s
  { s with com := { s.com with committed := (s.com.committed.map fun c => { c with parts := c.parts.filter (· ≠ u) }).filter (fun c => !c.parts.isEmpty),
                               resent := s.com.resent.filter fun r => r.1 ≠ u } }

/-! ## Loss of a port and of the partner -/

/-- A slice held for a lost partner: its sealing begins, and the entries of intervals without COMPLETE are discarded (R413). -/
def beginSeal (x : Slice) : Slice :=
  if !x.valid || x.sealed_ then x else { x with sealing := true, log := x.log.filter fun w => decide (w.t ≤ x.complete) }

/-- The change is a mirror commit. -/
def isMirrorCommit (c : Change) : Bool := decide (c.kind = .mirrorCommit)

/-- The partner is lost for a cause (R412, R413): PAIR_LOST is raised and host software is told; every slice held is sealed; no
mirror commit goes on; held blocks are admitted; and the module's MIRRORED jobs are UNPROTECTED. -/
def losePair (s : State) (cause : Nat) : State :=
  if !s.pair.formed then s
  else
    let s := { s with pair := { s.pair with formed := false, lost := true, cause := cause, buf := [],
                                            slices := s.pair.slices.map fun e => (e.1, beginSeal e.2) } }
    let s := if s.com.out.any isMirrorCommit then abortOut s none else s
    let s := { s with com := { s.com with queue := s.com.queue.filter (!isMirrorCommit ·), retry := s.com.retry.filter (!isMirrorCommit ·) } }
    let s := raise s (mkEvent pithAddr (floorN s) 0x01C0 0 0 7 0 cause)
    let s := postAsync s { cq := 0, cid := 0xFFFF, sq := 0, async := true, kind := asPairLost, sqhead := sqHead s 0,
                           res0 := BitVec.ofNat 64 cause }
    (liveJobs s).foldl
      (fun t a =>
        if !(jobOf t a).mirrored || (jobOf t a).unprotected then t
        else postJob (modJob t a fun j => { j with unprotected := true, mirrorHeld := [] }) a asUnprotected 0) s

/-- Causes of PAIR_LOST (R420). -/
def lostFail : Nat := 1
def lostSilence : Nat := 2
def lostPorts : Nat := 3
def lostWindow : Nat := 4

/-- Port `p` is a mirror port of the pair. -/
def isMirrorPort (s : State) (p : Nat) : Bool := s.pair.formed && bitOf s.pair.ports.toNat p

/-- What a port that leaves service gives up (R429, R433, R451): the messages of its contexts, unacknowledged ones first, move to their new ports, or
the contexts fail; those of the mirror move to a remaining mirror port, and with the last one the partner is lost (R412, R419). -/
def portQuit (s : State) (p : Nat) : State :=
  let x := portOf s p
  if !x.up then s
  else
    let mirror := isMirrorPort s p
    let ms := x.unacked.flatMap (·.2.2) ++ x.q0 ++ x.q1 ++ x.q2
    let s := modPort s p fun y =>
      { y with up := false, txSeq := 0, rxSeq := 4095, nak := false, skipping := false, unacked := [], resend := 0, q0 := [], q1 := [],
               q2 := [], carry := 0, rxCarry := 0, deficit := [] }
    let dests := fun (s : State) (m : QMsg) =>
      if m.ctx = 65535 then (if mirror then (mirrorPorts s).head? else ctxPort s m.dst.toNat 0) else ctxPort s m.dst.toNat m.ctx
    let s := ms.foldl
      (fun t m =>
        match dests t m with
        | some q => t |> fun t => modPort t q fun y =>
            let mine := ms.filter fun n => dests t n == some q
            if !(mine.head?.any fun h => h.id == m.id) then y
            else { y with q0 := mine.filter (·.cls == 0) ++ y.q0, q1 := mine.filter (·.cls == 1) ++ y.q1,
                          q2 := mine.filter (fun n => 2 ≤ n.cls) ++ y.q2 }
        | none => if m.ctx = 65535 then t else failCtx t m.ctx cauNoPort) s
    if !mirror then s
    else
      let s := raiseDie s (41 + p / 4) 0x00C0 0 0 0
      if (mirrorPorts s).isEmpty then losePair s lostPorts else s

/-- A port leaves service, which the capacity map shows (R396, R398, R429). -/
def portLeave (s : State) (p : Nat) : State := if (portOf s p).up then bumpGen (portQuit s p) else s

/-! ## Loss of a rind unit -/

/-- A rind unit is out of service: the ports of a Bupol or CXL chiplet leave service, with what hangs on them (R26, R378, R412, R433, R468). -/
def rindLeaves (s : State) (d : Nat) : State :=
  let s := { s with dom := { s.dom with rindOut := tabPut false d true s.dom.rindOut } }
  let s := if 41 ≤ d ∧ d ≤ 52 then (List.range 4).foldl (fun t q => portQuit t (4 * (d - 41) + q)) s else s
  let s := if 59 ≤ d ∧ d ≤ 60 ∧ (cxlPortOf s (d - 59)).up then
      modCxlPort s (d - 59) fun p => { p with up := false, rate := 0, changes := min 255 (p.changes + 1) }
    else s
  bumpGen s

/-- The pith has logged that a rind unit is lost: it is no participant any more (R68), and its handling is complete (R379). -/
def rindLost (s : State) (d : Nat) : State :=
  handlingDone (if h : d < 64 then dropPart s (.rind ⟨d, h⟩) else s) (.rind d)

/-- Jobs that a rind unit's loss halts: those with a transfer in flight to it, or a page mapped to it (R378). -/
def rindJobs (s : State) (die : Nat) : List Nat :=
  (liveJobs s).filter fun a =>
    jobMaps s a die || (List.range 36).any fun f => (fieldOf s f).str.xfer.any fun t => t.asid == a && xferDie s t == die

/-- The jobs that an event of class JOB halts, by its domain (R361, R378). -/
def jobsOf (s : State) (d : Domain) (asid : Nat) : List Nat :=
  match d with
  | .job a => [a]
  | .field f => fieldAsids s f
  | .stream f => if (fieldOf s f).cond.owner = 0 then [] else [(fieldOf s f).cond.owner]
  | .rind die => rindJobs s die
  | _ => if asid = 0 then [] else [asid]

/-- What follows an uncorrectable event handled at class `cls` (R361, R368, R378). -/
def consequence (s : State) (d : Domain) (asid cls seq : Nat) : State :=
  if cls = 3 then enterSafe s seq
  else if cls = 2 then
    let js := jobsOf s d asid
    let s := match d with
      | .rind die => rindLost (if tabGet false s.dom.rindOut die then s else rindLeaves s die) die
      | _ => s
    js.foldl (fun t a => oweHalt a seq t) s
  else s

/-- An uncorrectable event logged and handled (R373, R375, R377, R378). -/
def logUncorrected (s : State) (m : ErrMsg) (d : Domain) (link : Nat) : State :=
  let x := domGet s d
  let cls := codeClass m.code.toNat
  if x.st ≠ 0 ∧ (followCode m.code.toNat ∨ m.code = x.code) then
    modRec s x.seq fun r => { addCount m.count r with follow := true }
  else
    let esc := x.st ≠ 0
    let eff := min 3 (if x.st = 0 then cls else if x.st = 1 then max cls (x.cls + 1) else max cls x.cls)
    let st := if d = .none then 0 else if x.st = 0 then 1 else 2
    let prim := x.st = 0 && d ≠ .none
    let lk := if x.st = 0 then link else x.seq
    let r := recOf s m d eff st lk esc prim
    match freeRec s with
    | some i =>
      let s := putRec s i r
      let s := domPut s d (if prim then { st := 1, code := m.code, seq := r.seq, cls := eff } else { x with st := st, cls := eff })
      consequence s d m.asid eff r.seq
    | none =>
      match s.log.overflow with
      | none =>
        let s := { s with log := { s.log with overflow := some { r with lost := true }, seq := r.seq } }
        let s := domPut s d (if prim then { st := 1, code := m.code, seq := r.seq, cls := eff } else { x with st := st, cls := eff })
        enterSafe (consequence s d m.asid eff r.seq) r.seq
      | some _ => { s with log := { s.log with overflow := s.log.overflow.map (addCount m.count) } }

/-- An event logged, whatever its class. -/
def logIn (s : State) (m : ErrMsg) (d : Domain) (link : Nat) : State :=
  if codeClass m.code.toNat = 0 then logCorrected s m d link else logUncorrected s m d link

/-- An event that the pith logs itself, with the fields of R581. -/
def pithEvent (s : State) (code asid detail : Nat) (d : Domain) (link : Nat) : State :=
  logIn s (mkEvent pithAddr (floorN s % 2 ^ 48) code asid 0 7 0 detail) d link

/-- Jobs being saved that an event against the domain touches: SAVE_FAILED (R347). -/
def savingJobs (s : State) (d : Domain) : List Nat :=
  (liveJobs s).filter fun a =>
    (jobOf s a).st == .saving &&
      (match d with
       | .field f => hasJob s f a
       | .stream f => hasJob s f a
       | .job b => a == b
       | .rind die => Config.saveAreaOn (jobOf s a).number die
       | _ => false)

/-- An event logged, with SAVE_FAILED for a save that it spoils (R347). -/
def logEvent (s : State) (m : ErrMsg) (d : Domain) (link : Nat) : State :=
  let t := logIn s m d link
  if codeClass m.code.toNat = 0 then t
  else (savingJobs s d).foldl
    (fun u a => pithEvent (modJob u a fun j => { j with saved := {} }) 0x020E a 0 (.job a) u.log.seq) t

/-! ## Fencing -/

/-- Hardware side of a fence (R17, R494): rails off, clamps closed, oscillator and streams stopped, the controller dead. -/
def fenceHw (s : State) (f cause : Nat) : State :=
  let s := modCores s f fun _ c => haltCore c
  modField s f fun x =>
    if x.cond.fenced || x.cond.retired then x
    else
      { x with
        cond := { x.cond with fenced := true, fcause := cause, dead := true }
        clk := { x.clk with hold := .none, staged := [] }
        pow := { x.pow with rails := 0, floorOn := false }
        net := { x.net with clamped := true, link := [], req := [], inb := [], outb := [] }
        str := { x.str with xfer := [], bursts := [] } }

/-- The records of a fence (R581): FIELD_FENCED in the field's domain, FIELD_LOST in each job's, and what follows. -/
def logFence (s : State) (f cause : Nat) : State :=
  let s := bumpGen s
  let js := fieldAsids s f
  let s := logEvent s (mkEvent (fieldAddr f) (floorN s % 2 ^ 48) 0x0107 0 0 7 0 cause) (.field f) 0
  let seq := s.log.seq
  let s := js.foldl (fun t a => logEvent t (mkEvent pithAddr (floorN t % 2 ^ 48) 0x020D a 0 7 0 (f + 256 * cause)) (.job a) seq) s
  let s := if h : f < 36 then dropPart s (.field ⟨f, h⟩) else s
  settle s

end Sys2Proof.Machine
end

