-- ==== Sys2Proof/Machine/YieldOps.lean ====
section
/-! DEFINITION. What the capacity map in force says of each field (01 R21 to R23, 04 R126, 14 R383 to R398): sites, columns,
banks, engines and phases, the highest rate code, the guard band and the core-rail voltage, and the entries that are due. -/

namespace Sys2Proof.Machine

/-- Failed local columns 0 to 6 of row `r` of field `f` (R22). -/
def rowFailed (y : Yield) (f r : Nat) : List Nat :=
  (List.range 7).filter fun i => tabGet false y.sites (42 * f + 7 * r + i)

/-- Local site index of logical bunch `b` of field `f`, or none where it is absent (R22, R23). -/
def siteOf (y : Yield) (f b : Nat) : Option Nat :=
  let j := (rowFailed y f (b / 6)).foldl (fun j x => if x ≤ j then j + 1 else j) (b % 6)
  if 6 < j then none else some (7 * (b / 6) + j)

/-- Failed physical columns of matrix core `m` at a site (R126). -/
def failedCols (y : Yield) (f site m : Nat) : List Nat :=
  (List.range 66).filter fun c => tabGet false y.columns (((42 * f + site) * 4 + m) * 128 + c)

/-- Good physical columns, in rising order (R126). -/
def goodCols (y : Yield) (f site m : Nat) : List Nat :=
  (List.range 66).filter fun c => !tabGet false y.columns (((42 * f + site) * 4 + m) * 128 + c)

/-- Bunch `b` of field `f` is in service. -/
def bunchPresent (s : State) (f b : Nat) : Bool := (siteOf s.yld f b).isSome

/-- The field has a row with fewer than six bunches in service (R18). -/
def fieldPartial (s : State) (f : Nat) : Bool := (List.range 36).any fun b => !bunchPresent s f b

/-- Good banks, stream engines and phases of a field (R397). -/
def goodBanks (s : State) (f : Nat) : Nat := 68 - (tabGet [] s.yld.banks f).length
def goodEngines (s : State) (f : Nat) : Nat := 18 - (tabGet [] s.yld.engines f).length
def goodPhases (s : State) (f : Nat) : Nat := 26 - (tabGet [] s.yld.phases f).length

/-- Guard band G of a field in mV (R394); 40 at the beginning of life. -/
def guardOf (s : State) (f : Nat) : Nat := if (fieldOf s f).pow.guard = 0 then 40 else (fieldOf s f).pow.guard

/-- Core-rail setpoint V(k) of a field in mV, never below 600 (R394, R475). -/
def vSet (s : State) (f k : Nat) : Nat := max 600 (Config.vBol s.yld.baseGen f k - 40 + guardOf s f)

/-- MAXK: the largest rate code whose setpoint stays within 0.85 V in every field that is neither FENCED nor RETIRED (R394). -/
def maxK (s : State) : Nat :=
  (((List.range 25).map fun i => 32 - i).find? fun k => (List.range 36).all fun f => fieldGone s f || decide (vSet s f k ≤ 850)).getD 8

/-- Rate code that a FREQ or PROFILE change gives (R64, R485). -/
def changeK (s : State) (k : CommitKind) (arg : BitVec 64) : Option Nat :=
  match k with
  | .freq => some (bitsOf arg.toNat 0 6)
  | .profile => some (min (if arg = 0 then 32 else 24) (maxK s))
  | _ => none

/-- Voltage target of a field: the highest V(k) of the rate code in force and of every change that it holds (R476). -/
def retarget (s : State) (f : Nat) : State :=
  let x := fieldOf s f
  let ks := x.clk.k :: x.clk.staged.filterMap fun c => changeK s c.kind c.arg
  modFpow s f fun p => { p with target := (ks.map (vSet s f)).foldl max 0 }

/-- Good first-stage converters, and the converter ceiling in 50 W steps (R385). -/
def goodConv (s : State) : Nat := ((List.range 16).filter fun i => !bitOf s.pow.convBad.toNat i).length
def convCeil (s : State) : Nat := if 14 ≤ goodConv s then 480 else goodConv s * 24000 / 14 / 50

/-- CAPMAX: the lower of the converter ceiling and the coolant limit, in 50 W steps (R396, R497). -/
def capMax (s : State) : Nat := min (convCeil s) (480 - s.pow.reduce)

/-- The effective cap in 50 W steps (R478). -/
def effCap (s : State) : Nat :=
  min (min s.clk.hostCap s.clk.trayCap) (min (capMax s) (convCeil s))

/-- The effective cap is committed when it differs from the one in force or under way, never below 120 steps (R478). -/
def commitCap (s : State) : State :=
  let c := max 120 (effCap s)
  let last := ((s.com.out.toList ++ s.com.queue ++ s.com.committed).filter fun x => decide (x.kind = .powerCap)).getLast?
  let cur := match last with | some x => bitsOf x.arg.toNat 0 9 | none => s.clk.cap
  if s.trs.safe || s.brg.st != 1 || cur == c then s else pithPrepare s .powerCap (BitVec.ofNat 64 c)

/-- An entry found is due to be recorded (R391). -/
def dueEntry (s : State) (e : YEnt) : State := { s with yld := { s.yld with due := addNew e s.yld.due } }

/-- Bit of PEND for a core (R397), and the condemning of a core (R366, R367): its located column, or its site, is due in the
yield map, and the field is to be remapped. -/
def condemn (s : State) (c : CoreId) (lane : Option Nat) : State :=
  let s := modCore s (ckey c) fun x => { x with condemned := true }
  let k := 36 * c.fld.val + c.bun.val
  let s := { s with yld := { s.yld with pend := tabMod 0 k (· ||| BitVec.ofNat 8 (2 ^ c.cor.val)) s.yld.pend } }
  let s := bumpGen (modCond s c.fld fun x => { x with remapDue := true })
  match siteOf s.yld c.fld c.bun with
  | none => s
  | some site =>
    match lane with
    | some j =>
      dueEntry s { kind := 2, unit := c.fld, loc := site + 256 * c.cor + 65536 * (goodCols s.yld c.fld site c.cor).getD j 0, value := 0 }
    | none => dueEntry s { kind := 1, unit := c.fld, loc := site, value := 2 }

/-- Physical bank behind logical bank `n`: the n-th good one (R229). -/
def physBank (y : Yield) (f n : Nat) : Nat :=
  ((List.range 68).filter fun b => !(tabGet [] y.banks f).contains b).getD n 0

/-- A corrected error of the segment or bank at an ODA; one more than the limit is due in the yield map: the bank, or the bunch
with the core (R245). -/
def countCorrected (s : State) (oda : Nat) : State :=
  let f := bitsOf oda 34 6
  let k := placeKey oda
  let n := tabGet 0 (fieldOf s f).mem.ce k + 1
  let s := modFmem s f fun m => { m with ce := tabPut 0 k n m.ce }
  if n ≤ Config.ceLimit then s
  else
    let s := bumpGen (modCond s f fun x => { x with remapDue := true })
    if bitOf oda 33 then
      match siteOf s.yld f (bitsOf oda 23 6) with
      | some site => dueEntry s { kind := 1, unit := f, loc := site, value := 3 }
      | none => s
    else
      if s.yld.due.any fun e => e.kind == 3 && e.unit == f && e.loc == physBank s.yld f (k - 4096) then s
      else dueEntry s { kind := 3, unit := f, loc := physBank s.yld f (k - 4096), value := n }

/-- A field recorded FIELD_RETIRED for a cause (R389). -/
def retireField (s : State) (f cause : Nat) : State := dueEntry s { kind := 12, unit := f, loc := 0, value := cause }

end Sys2Proof.Machine
end

