-- ==== Sys2Proof/Machine/Boundary.lean ====
section
/-! DEFINITION. What a field does as it reaches a slot, before the slot's boundary checks (02 R40, R65 to R67, 06 R172 to R180,
10 R311 to R313, 15 R407): decided changes apply, barriers release, and tasks decide at their yield points. -/

namespace Sys2Proof.Machine

/-! ## The job's image -/

/-- Frame position of a field for a job placed at its origin. -/
def framePos (m : Family) (origin f : Nat) : Option Nat :=
  (List.range (m.fr * m.fc)).find? fun p => frameField m origin p == some f

/-- The yield record of point `y` (R585). -/
def yieldRec (s : State) (a y : Nat) : YieldRec := (jobOf s a).fam.yields.getD y { dj := 0, flags := 0 }

/-- STEP, FINAL and PORTABLE of a yield point (R585). -/
def isStep (s : State) (a y : Nat) : Bool := (yieldRec s a y).flags.getLsbD 0
def isFinal (s : State) (a y : Nat) : Bool := (yieldRec s a y).flags.getLsbD 1
def isPortable (s : State) (a y : Nat) : Bool := (yieldRec s a y).flags.getLsbD 2

/-- Steps that end before yield point `y`: the number of the step that STEP point `y` ends (R309). -/
def stepNumber (s : State) (a y : Nat) : Nat := ((List.range y).filter (isStep s a)).length

/-- Yield point `y` is a mirror point: the MEVERY-th, 2 × MEVERY-th, … STEP yield point of a MIRRORED job (R403). -/
def isMirrorPoint (s : State) (a y : Nat) : Bool :=
  let j := jobOf s a
  match j.fam.mirror with
  | none => false
  | some m => j.mirrored && isStep s a y && ((List.range (y + 1)).filter (isStep s a)).length % m.every == 0

/-- The declared predicted layer (R299). -/
def layerOf (s : State) (a layer : Nat) : Option LayerDecl := (varOf s a).layers.find? fun l => l.layer == layer

/-- Some layer can still escalate: CHECKED, with KVAR below its largest variant (R310, R313). -/
def canEscalate (s : State) (a : Nat) : Bool :=
  (varOf s a).layers.any fun l => l.policy == 1 && decide (tabGet 0 (jobOf s a).kvars l.layer + 1 < l.kvars.length)

/-- REPRO of the formats policy in force in a field (R87). -/
def reproOf (s : State) (f a : Nat) : Bool := bitOf (policyOf s f a) 3

/-! ## Applying decided changes -/

/-- The overload of the converters ends once the cap that the lowered ceiling allows has applied everywhere (R473, R490). -/
def settleConv (s : State) : State :=
  let under := (s.com.committed ++ s.com.out.toList ++ s.com.queue ++ s.com.retry).any fun c => decide (c.kind = .powerCap)
  if under || decide (convCeil s < s.clk.cap) || !(s.inp.fConv || s.pow.convPending) then s
  else refreshLow { s with inp := { s.inp with fConv := false }, pow := { s.pow with convPending := false } }

/-- A participant has applied the change with number `csn` (R67): the pith's copy no longer waits for it. -/
def noteApplied (s : State) (u : Part) (csn : BitVec 16) : State :=
  settleConv { s with com := { s.com with
    committed := (s.com.committed.map fun c =>
      if c.csn = csn then { c with parts := c.parts.filter (· ≠ u) } else c).filter fun c => !c.parts.isEmpty
    resent := s.com.resent.filter fun r => r.1 ≠ u } }

/-- Segments and banks at REST and at WAKE (R238). -/
def restSeg (x : SegSt) : SegSt := if x.st = 2 then { x with st := 1, was := 2 } else x
def wakeSeg (x : SegSt) : SegSt := if x.was = 2 then { x with st := 2, was := 0 } else x
def mapSegs (g : SegSt → SegSt) (m : FieldMem) : FieldMem :=
  { m with seg := m.seg.map fun e => (e.1, g e.2), bank := m.bank.map fun e => (e.1, g e.2) }

/-- The staged bank of a plane becomes active, with its index 0 at slot `t` (R51). -/
def swapPlane (a p t : Nat) (n : FieldNet) : FieldNet :=
  { n with bank := tabMod 0 (2 * a + p) (1 - ·) n.bank, base := tabPut 0 (2 * a + p) t n.base }

/-- A job's formats policy becomes active (R102, R558). -/
def setJobPolicy (s : State) (a : Nat) (w : BitVec 64) : State := modJob s a fun j => { j with policy := w }

/-- A decided change takes effect in field `f` at the first slot of its epoch (R40, R61). -/
def applyField (f : Nat) (s : State) (c : Staged) : State :=
  let n := c.arg.toNat
  let a := argAsid c.kind c.arg
  let t := slotOf s f
  let s := match c.kind with
    | .freq | .profile => modFclk s f fun x => { x with k := (changeK s c.kind c.arg).getD x.k }
    | .powerCap => modFpow s f fun x => { x with cap := n }
    | .routeSwap =>
      modNet s f fun x =>
        let x := if bitOf n 8 then swapPlane a 0 t x else x
        if bitOf n 9 then swapPlane a 1 t x else x
    | .preempt => modFjob s f fun x => { x with pre := tabPut 0 a (c.epoch + 1) x.pre }
    | .rest =>
      if n ≠ f then s
      else modField s f fun x => { x with cond := { x.cond with act := .rested }, mem := mapSegs restSeg x.mem,
                                          pow := { x.pow with rails := x.pow.rails &&& 6 } }
    | .wake =>
      if n ≠ f then s
      else modField s f fun x => { x with cond := { x.cond with act := .running }, mem := mapSegs wakeSeg x.mem,
                                          pow := { x.pow with rails := 7, duty := 32 } }
    | .mirrorCommit => modFjob s f fun x => { x with commit := tabPut 0 a (bitsOf n 8 32) x.commit }
    | .formatsPolicy =>
      let w := BitVec.ofNat 64 (bitsOf n 0 4)
      if reproOf s f a && hasWork s f a then modFjob s f fun x => { x with policyDue := tabPut 0 a (w.toNat + 1) x.policyDue }
      else modFjob s f fun x => { x with policy := tabPut 0 a w x.policy }
    | .predictorVariant =>
      modFjob s f fun x => { x with kvars := x.kvars ++
        [{ asid := a, layer := bitsOf n 8 16, kvar := bitsOf n 24 2, ts := bitsOf n 32 32, epoch := c.epoch }] }
  if h : f < 36 then noteApplied s (.field ⟨f, h⟩) c.csn else s

/-- The changes of those staged that apply at epoch `e`: the decided ones up to the first whose decision is open, so that they apply in
rising CSN order (R66). -/
def dueStaged (e : Nat) (l : List Staged) : List Staged := (l.filter fun c => decide (c.epoch ≤ e)).takeWhile (·.decided)

/-- Every decided change whose epoch the field has reached applies, in CSN order (R40, R66). -/
def applyStaged (s : State) (f : Nat) : State :=
  let due := dueStaged (epochOf s f) (fieldOf s f).clk.staged
  if due.isEmpty then s
  else retarget (modFclk (due.foldl (applyField f) s) f fun x => { x with staged := x.staged.filter fun c => !due.contains c }) f

/-! ## Start of a job, and barriers -/

/-- At a job's first slot the seams between its fields are enabled (R41, R43). -/
def enableSeams (s : State) (f : Nat) : State :=
  (fieldAsids s f).foldl
    (fun t a =>
      if tabGet 0 (fieldOf t f).job.start a ≠ slotOf t f then t
      else (List.range 4).foldl
        (fun u side => match neighbour f side with
          | some g => if seamServes u f g a then modNet u f fun n => { n with seam := tabMod [] side (addNew a) n.seam } else u
          | none => u) t) s

/-- The tasks of a field: core key, engine code and task. -/
def fieldTasks (s : State) (f : Nat) : List (Nat × Nat × Task) :=
  (s.cor.filter fun e => e.1 / 288 == f).flatMap fun e => (e.2.tasks.filter fun t => t.2.present).map fun t => (e.1, t.1, t.2)

/-- The bunches of a job that have tasks, as 36 × field + bunch. -/
def jobBunches (s : State) (a : Nat) : List Nat :=
  ((workFields s a).flatMap fun f => (fieldTasks s f).map fun x => x.1 / 8).dedup

/-- A task is held in some barrier. -/
def inSync (t : Task) : Bool := match t.pace with | .syncAt _ => true | _ => false

/-- A task has stopped at a yield point or in a barrier. -/
def isStopped (t : Task) : Bool := match t.pace with | .stopped _ _ => true | .stoppedSync _ => true | _ => false

/-- Every task of bunch `b` of field `f` has stopped. -/
def bunchStopped (s : State) (f b : Nat) : Bool :=
  (fieldTasks s f).all fun x => !(x.1 / 8 == 36 * f + b) || isStopped x.2.2

/-- The tasks of a field changed by `g`. -/
def modTasks (s : State) (f : Nat) (g : Task → Task) : State :=
  modCores s f fun _ c => { c with tasks := c.tasks.map fun t => (t.1, if t.2.present then g t.2 else t.2) }

/-- The job's routers in the field forward nothing: from the boundary at which every task of the field is in its barrier, or
a transit field has the release (R175). -/
def quietBarrier (s : State) (f : Nat) : State :=
  (fieldAsids s f).foldl
    (fun t a =>
      let q := if hasWork t f a then !(fieldTasks t f).isEmpty && (fieldTasks t f).all fun x => inSync x.2.2
               else tabGet 0 (fieldOf t f).job.release a != 0
      if q then modNet t f fun n => { n with quiet := addNew a n.quiet } else t) s

/-- A task held in barrier `b` goes on in slot `t`, which becomes the schedule anchor; its SYNC completes in the slot before (R166, R174,
R196, R197). -/
def releaseTask (b t : Nat) (x : Task) : Task :=
  if x.pace = .syncAt b then
    { x with pace := .run, ready := t, pb := 0, ybase := 0,
             flights := x.flights.map fun y => if y.onSync then { y with onSync := false, done := t - 1 } else y }
  else x

/-- The instructions of field `f` that completed in the slot before `t` post before slot `t`: so a barrier's SYNC does, whose completion slot
its release fixes as slot `t` is reached (R166, R174, R186). -/
def syncComplete (s : State) (f : FieldIx) (t : Nat) : State :=
  let ks := (s.cor.map (·.1)).filter fun k => k / 288 == f.val
  let done := fun (y : Flight) => flightDue (t - 1) y
  let s := ks.foldl
    (fun s k =>
      let c : CoreId := { fld := f, bun := Fin.ofNat 36 (k / 8 % 36), cor := Fin.ofNat 8 (k % 8) }
      ((coreAt s k).tasks.filter fun e => e.2.present).foldl
        (fun s e =>
          let due := e.2.flights.filter done
          completeAll c (engineOf e.1) due
            (modCore s k fun x => modTask x (engineOf e.1) fun t => { t with flights := t.flights.filter fun y => !done y })) s) s
  modCores s f fun _ c => endSlot c

/-- The release of a barrier at the first slot of E_r (R174, R175). -/
def releaseBarrier (s : State) (f : Nat) : State :=
  (fieldAsids s f).foldl
    (fun t a =>
      let fj := (fieldOf t f).job
      let r := tabGet 0 fj.release a
      if r = 0 ∨ epochOf t f + 1 < r then t
      else
        let b := tabGet 0 fj.relBar a
        let u := slotOf t f
        let d := (varOf t a).barriers.find? fun x => x.b.val == b
        let resume := fun (p : Nat) => match d with | some x => if p = 0 then x.resume0 else x.resume1 | none => 0
        let t := if hasWork t f a then
            (let t := modTasks t f (releaseTask b u)
             if h : f < 36 then syncComplete t ⟨f, h⟩ u else t)
          else t
        modField t f fun x =>
          { x with
            net := { x.net with quiet := dropAll a x.net.quiet,
                                base := tabPut 0 (2 * a + 1) (u - resume 1) (tabPut 0 (2 * a) (u - resume 0) x.net.base) }
            job := { x.job with release := tabPut 0 a 0 x.job.release, relBar := tabPut 0 a 0 x.job.relBar,
                                anchor := tabPut 0 a u x.job.anchor } }) s

/-! ## Stopping -/

/-- The tasks of a field have stopped: its streams issue no further block (R271), and its routers keep their index and forward
nothing (R180). -/
def stopStreams (s : State) (f a : Nat) : State :=
  modField s f fun x =>
    { x with str := { x.str with str := x.str.str.map fun e => (e.1, { e.2 with draining := true }) }
             net := { x.net with quiet := addNew a x.net.quiet } }

/-- The scalar core of every bunch of the list owes a YIELD_REPORT (R179, R217, R407): at a mirror point in the slot after this one, of a stop
once every instruction of the bunch has completed (R131, R154). -/
def sendReports (s : State) (f a y : Nat) (mirror : Bool) (bs : List Nat) : State :=
  bs.foldl (fun t b => owe t f { bun := b, kind := b2n mirror, asid := a, n := y, due := if mirror then slotOf s f + 1 else 0 }) s

/-- A task in SYNC stops there: SYNC is issued again on restore, with the tokens that it took (R176). -/
def stopSync (s : State) (k : Nat) (c : Core) : Core :=
  let sync := fun (e : Nat × Task) => e.2.present && inSync e.2
  let back := fun (e : Nat × Task) =>
    waitMask e.2.masks (dieRead s (keyBase k + 64 * bitsOf (winOf e.2 0) 0 22 + (e.2.pc.toNat - 8)) 8)
  let c := { c with tok := (c.tasks.filter sync).foldl (fun t e => addTokens (back e) t) c.tok }
  { c with tasks := c.tasks.map fun e =>
      if sync e then
        (e.1, { e.2 with
          pc := e.2.pc - 8, flights := e.2.flights.filter (!·.onSync)
          pace := match e.2.pace with | .syncAt b => .stoppedSync b | p => p })
      else e }

/-- Tasks held in SYNC stop once the field has applied a PREEMPT for the job (R176). -/
def syncStops (s : State) (f : Nat) : State :=
  let a := (fieldOf s f).cond.owner
  let held := (fieldTasks s f).filter fun x => inSync x.2.2
  if a = 0 ∨ tabGet 0 (fieldOf s f).job.pre a = 0 ∨ held.isEmpty then s
  else
    let y := match held with | x :: _ => x.2.2.yctr | [] => 0
    let bs := (held.map fun x => x.1 / 8 % 36).dedup
    let s := stopStreams (modCores s f (stopSync s)) f a
    let s := modFjob s f fun x => { x with release := tabPut 0 a 0 x.release, relBar := tabPut 0 a 0 x.relBar }
    let s := modJob s a fun j => { j with arrivals := [] }
    sendReports s f a y false (bs.filter (bunchStopped s f))

/-! ## Yield points -/

/-- The field holds a change of KVAR that takes effect at the STEP yield point which begins step `t` (R313). -/
def switchHere (s : State) (f a t : Nat) : Bool :=
  let l := (fieldOf s f).job.kvars.filter fun k => k.asid == a
  if reproOf s f a then
    canEscalate s a && decide (2 ≤ t) &&
      (!(l.any fun k => k.layer == 0xFFFF && k.ts == t) || l.any fun k => k.layer != 0xFFFF && k.ts == t)
  else l.any fun k => k.layer != 0xFFFF && decide (k.epoch ≤ epochOf s f)

/-- The tasks of the field stop at yield point `y` with offset `j` (R179, R312, R313, R330). -/
def stopsAt (s : State) (f a y j : Nat) : Bool :=
  let fj := (fieldOf s f).job
  let p := tabGet 0 fj.pre a
  isFinal s a y || (p != 0 && decide (4096 * (p - 1) ≤ anchorOf s f a + 4096 * j)) ||
    (isStep s a y && switchHere s f a (tabGet 0 fj.step a + 1))

/-- What the field counts in the first slot of a yield point: its steps, a policy that waited for the step boundary, and its
interval number (R102, R309, R407). -/
def countYield (s : State) (f a y : Nat) : State :=
  let s :=
    if !isStep s a y then s
    else
      let due := tabGet 0 (fieldOf s f).job.policyDue a
      let step := tabGet 0 (fieldOf s f).job.step a + 1
      let s := modFjob s f fun x => { x with step := tabPut 0 a step x.step,
                                             kvars := x.kvars.filter fun k => k.asid != a || k.ts == 0 || decide (step ≤ k.ts) }
      if due = 0 then s
      else
        let w := BitVec.ofNat 64 (due - 1)
        setJobPolicy (modFjob s f fun x => { x with policy := tabPut 0 a w x.policy, policyDue := tabPut 0 a 0 x.policyDue }) a w
  if isMirrorPoint s a y then modFjob s f fun x => { x with iv := tabMod 0 a (· + 1) x.iv } else s

/-- A task at its yield point stops or continues (R179). -/
def paceAt (anchor t : Nat) (stop : Bool) (x : Task) : Task :=
  match x.pace with
  | .yieldAt y j _ => if anchor + 4096 * j ≤ t then { x with pace := if stop then .stopped y j else .run } else x
  | _ => x

/-- The decision of R179 in the first slot of J, with the reports that follow. -/
def decideYield (s : State) (f : Nat) : State :=
  let a := (fieldOf s f).cond.owner
  let t := slotOf s f
  let anchor := anchorOf s f a
  let due := (fieldTasks s f).filterMap fun x =>
    match x.2.2.pace with
    | .yieldAt y j _ => if anchor + 4096 * j ≤ t then some (x.1, y, j) else none
    | _ => none
  match due with
  | [] => s
  | (_, y, j) :: _ =>
    let stop := stopsAt s f a y j
    let mirror := isMirrorPoint s a y
    let bs := (due.map fun x => x.1 / 8 % 36).dedup
    let s := modTasks s f (paceAt anchor t stop)
    let s := if stop then stopStreams s f a else s
    let s := if anchor + 4096 * j = t then countYield s f a y else s
    if stop then sendReports s f a y false (bs.filter (bunchStopped s f))
    else if mirror then sendReports s f a y true bs
    else s

/-- A field as it reaches its present slot, before the slot's boundary checks; an undecided change for the epoch keeps it from
going further (R40, R67). -/
def reachSlot (s : State) (f : Nat) : State :=
  if slotOf s f % 4096 ≠ 0 then decideYield (syncStops s f) f
  else
    let s := applyStaged s f
    if undecided s f (epochOf s f) then s
    else decideYield (releaseBarrier (syncStops (quietBarrier (enableSeams s f) f) f) f) f

end Sys2Proof.Machine
end

