-- ==== Sys2Proof/Machine/Commit.lean ====
section
/-! DEFINITION. The epoch commit protocol (02 R61 to R69, R582), the nominal count with the changes that apply at it (02 R33, R34,
15 R411, 22 R558), and barrier messages (06 R174). -/

namespace Sys2Proof.Machine

/-! ## Participants -/

/-- Changes staged in a participant, in CSN order. -/
def stagedOf (s : State) : Part → List Staged
  | .field f => (fieldOf s f).clk.staged
  | .rind d => tabGet [] s.com.rind d
  | .root => s.com.root
  | .mirror => s.com.mirror

/-- The staged changes of a participant written. -/
def putStaged (s : State) (u : Part) (l : List Staged) : State :=
  match u with
  | .field f => modFclk s f fun x => { x with staged := l }
  | .rind d => { s with com := { s.com with rind := tabPut [] d l s.com.rind } }
  | .root => { s with com := { s.com with root := l } }
  | .mirror => { s with com := { s.com with mirror := l } }

/-- The count against which a participant measures E: a field its own S, every other unit ⌊N⌋ (R33, R69). -/
def partSlot (s : State) : Part → Nat
  | .field f => slotOf s f
  | _ => floorN s

/-- A participant that can answer. -/
def partAlive (s : State) (u : Part) : Bool :=
  s.inp.main && !s.inp.held &&
    (match u with
     | .field f => !fieldGone s f
     | .rind d => !tabGet false s.dom.rindOut d
     | _ => true)

/-- The ASID names a job with work or a transit route in the participant (R64). -/
def partAsid (s : State) (u : Part) (a : Nat) : Bool :=
  decide (1 ≤ a ∧ a ≤ 36) &&
    (match u with
     | .field f => hasJob s f a
     | .mirror => (jobOf s a).live && (jobOf s a).mirrored
     | _ => false)

/-- Last mirror commit that a participant knows (R411). -/
def partCommit (s : State) (u : Part) (a : Nat) : Nat :=
  match u with
  | .field f => tabGet 0 (fieldOf s f).job.commit a
  | _ => (jobOf s a).commitC

/-- A PREDICTOR_VARIANT argument (R311). -/
def variantArgOk (s : State) (u : Part) (n a : Nat) : Bool :=
  let layer := bitsOf n 8 16
  let kvar := bitsOf n 24 2
  let ts := bitsOf n 32 32
  let repro := match u with | .field f => reproOf s f a | _ => bitOf (jobOf s a).policy.toNat 3
  zb n 6 2 && zb n 26 6 && (if repro then ts != 0 else ts == 0) &&
    (if layer = 0xFFFF then kvar == 0
     else match layerOf s a layer with | some l => decide (kvar < l.kvars.length) | none => false)

/-- The argument of a change lies within the valid values of R64. -/
def argOk (s : State) (u : Part) (k : CommitKind) (arg : BitVec 64) : Bool :=
  let n := arg.toNat
  let a := argAsid k arg
  match k with
  | .freq => decide (8 ≤ n ∧ n ≤ maxK s)
  | .profile => decide (n ≤ 1)
  | .routeSwap => partAsid s u a && bitsOf n 8 2 != 0 && zb n 6 2 && zb n 10 54
  | .preempt => partAsid s u a && zb n 6 58
  | .rest | .wake => decide (n ≤ 35)
  | .mirrorCommit => partAsid s u a && zb n 6 2 && zb n 40 24 && bitsOf n 8 32 == partCommit s u a + 1
  | .formatsPolicy =>
    partAsid s u a && zb n 4 4 && zb n 14 50 && bitsOf n 0 2 != 3 &&
      (match u with | .field f => bitOf n 3 == reproOf s f a | _ => true)
  | .predictorVariant => partAsid s u a && variantArgOk s u n a
  | .powerCap => decide (120 ≤ n ∧ n ≤ 480)

/-! ## Staged registers -/

/-- The policy word that job `a` shows as staged (R558): of the change that one of its fields holds, else the active word. -/
def stagedPolicy (s : State) (a : Nat) : BitVec 64 :=
  let fs := jobFields s a
  let held := fs.flatMap fun f => (fieldOf s f).clk.staged.filterMap fun c =>
    if c.kind = .formatsPolicy ∧ argAsid c.kind c.arg = a then some (BitVec.ofNat 64 (bitsOf c.arg.toNat 0 4)) else none
  let due := fs.filterMap fun f =>
    let d := tabGet 0 (fieldOf s f).job.policyDue a
    if d = 0 then none else some (BitVec.ofNat 64 (d - 1))
  ((due ++ held).getLast?).getD (jobOf s a).policy

/-- Some participant holds the change. -/
def isHeld (s : State) (c : Change) : Bool := c.parts.any fun u => (stagedOf s u).any fun x => x.csn == c.csn

/-- The staged fields that host software sees (R558). -/
def refreshStaged (s : State) : State :=
  let ks := s.com.root.filterMap fun c => changeK s c.kind c.arg
  let ps := s.com.root.filterMap fun c => if c.kind = .profile then some (c.arg == 1) else none
  let cs := ((s.com.committed ++ s.com.out.toList.filter (isHeld s)).filter fun c => decide (c.kind = .powerCap)).map fun c => c.arg.toNat
  let s := { s with clk := { s.clk with kStaged := (ks.getLast?).getD s.clk.k, effStaged := (ps.getLast?).getD s.clk.eff,
                                        capStaged := (cs.getLast?).getD s.clk.cap } }
  (liveJobs s).foldl (fun t a => modJob t a fun j => { j with policyStaged := stagedPolicy s a }) s

/-! ## PREPARE and ABORT -/

/-- The answer of a participant to a PREPARE (R65 step 2). -/
def answerOf (s : State) (u : Part) (k : CommitKind) (arg : BitVec 64) (epoch : Nat) : AckStatus :=
  if !argOk s u k arg then .nackInvalid
  else if epoch < partSlot s u / 4096 + 8 then .nackLate
  else if 8 ≤ ((stagedOf s u).filter (·.decided)).length then .nackBusy
  else .staged

/-- A participant's voltage target follows its staged changes (R476). -/
def retargetPart (s : State) (u : Part) : State := match u with | .field f => retarget s f | _ => s

/-- PREPARE in a participant (R65): it checks the change, stages it or refuses it, and answers ACK. -/
def prepareIn (s : State) (u : Part) (csn : BitVec 16) (k : CommitKind) (arg : BitVec 64) (epoch : Nat) : State :=
  let s := receive s (.prepare u csn k arg epoch 0)
  if !partAlive s u then s
  else
    let st := answerOf s u k arg epoch
    let s :=
      if st = .staged then
        refreshStaged (retargetPart (putStaged s u (stagedOf s u ++ [{ csn := csn, kind := k, arg := arg, epoch := epoch }])) u)
      else s
    send s (.ack u csn st)

def execPrepare (u : Part) (csn : BitVec 16) (kind : CommitKind) (arg : BitVec 64) (epoch : Nat) (s : State) :
    Host.Outcome State Fault Refusal := .next (prepareIn s u csn kind arg epoch)

/-- ABORT in a participant: the staged change is discarded, and the decision that it may have waited for has come (R65 step 4, R67). -/
def abortIn (s : State) (u : Part) (csn : BitVec 16) (epoch : Nat) : State :=
  let s := receive s (.abort u csn epoch)
  if !partAlive s u then s
  else
    let s := putStaged s u ((stagedOf s u).filter fun c => c.decided || c.csn != csn)
    let s := { s with com := { s.com with resent := s.com.resent.filter fun r => r.1 ≠ u } }
    let s := refreshStaged (retargetPart s u)
    match u with | .field f => if fieldClocked s f then reachSlot s f else s | _ => s

def execAbort (u : Part) (csn : BitVec 16) (epoch : Nat) (s : State) : Host.Outcome State Fault Refusal :=
  .next (abortIn s u csn epoch)

/-! ## Changes that apply at N -/

/-- A decided change takes effect in the root chiplet (R34, R485). -/
def applyRoot (s : State) (c : Staged) : State :=
  let s := { s with clk := { s.clk with k := (changeK s c.kind c.arg).getD s.clk.k,
                                        eff := if c.kind = .profile then c.arg == 1 else s.clk.eff } }
  noteApplied s .root c.csn

/-- A decided change takes effect in a rind unit (R478, R485). -/
def applyRind (d : Fin 64) (s : State) (c : Staged) : State :=
  let s := match c.kind with
    | .powerCap => { s with clk := { s.clk with rindCap := tabPut 0 d c.arg.toNat s.clk.rindCap } }
    | .profile => { s with clk := { s.clk with rindEff := tabPut false d (c.arg == 1) s.clk.rindEff } }
    | _ => s
  noteApplied s (.rind d) c.csn

/-- MIRROR_COMMIT takes effect in the mirror engine: COMPLETE t is sent, and interval t is complete (R411); once the partner is lost
none is sent (R419). -/
def applyMirror (s : State) (c : Staged) : State :=
  let a := argAsid c.kind c.arg
  let t := bitsOf c.arg.toNat 8 32
  let s :=
    if !s.pair.formed || (jobOf s a).unprotected then s
    else
      let s := modJob s a fun j => { j with commitC := t, mirrorReports := j.mirrorReports.dedup.foldl (fun l b => l.erase b) j.mirrorReports }
      match mirrorPorts s with
      | p :: _ => mirSend s p tyComplete (mirCtl (jobOf s a).number t 0)
      | [] => s
  noteApplied s .mirror c.csn

/-- The changes of a participant that are due at N apply, in order. -/
def applyPart (s : State) (u : Part) (g : State → Staged → State) : State :=
  let due := dueStaged (nominalEpoch s) (stagedOf s u)
  if due.isEmpty then s
  else putStaged (due.foldl g s) u ((stagedOf s u).filter fun c => !due.contains c)

/-- Settings that host software sees as active from the moment N reaches E: the cap (R558), and a job's policy outside
reproducible mode. -/
def applyActive (s : State) : State :=
  (s.com.committed.filter fun c => decide (c.epoch ≤ nominalEpoch s)).foldl
    (fun t c =>
      match c.kind with
      | .powerCap => { t with clk := { t.clk with cap := c.arg.toNat } }
      | .formatsPolicy =>
        let a := argAsid c.kind c.arg
        if bitOf (jobOf t a).policy.toNat 3 then t else setJobPolicy t a (BitVec.ofNat 64 (bitsOf c.arg.toNat 0 4))
      | _ => t) s

/-- A RESUME_JOB or MIRROR_RESUME completes as the job's tasks resume at E_s (R462). -/
def resumeDone (s : State) : State :=
  (liveJobs s).foldl
    (fun t a =>
      let j := jobOf t a
      let started := (workFields t a).all fun f => decide (tabGet 0 (fieldOf t f).job.start a ≤ floorN t)
      if j.st != .running || !started then t
      else
        let g := fun (c : Cpl) => { c with job := j.number, asid := a, htag := j.htag }
        let t := modJob t a fun j => { j with saved := {}, kvarDue := [] }
        let t := finishJobCmds t 0x03 j.number stOk g
        if t.pair.resumeAsid != a || a == 0 then t
        else
          let t := (t.cxl.cmds.filter fun c => c.begun && c.opc == 0x06).foldl (fun t c => finishCmd t c stOk g) t
          { t with pair := { t.pair with resumeAsid := 0, fetched := [], need := 0, nextRd := 0 } }) s

/-- Everything that applies as N reaches an epoch. -/
def applyNominal (s : State) : State :=
  let s := resumeDone (applyActive s)
  let s := applyPart s .root applyRoot
  let s := (s.com.rind.map (·.1)).foldl (fun t d => if h : d < 64 then applyPart t (.rind ⟨d, h⟩) (applyRind ⟨d, h⟩) else t) s
  refreshStaged (applyPart s .mirror applyMirror)

/-- REF_TICK (R33, R34): N, and each awake field's own count of it, advances by 10 × k eighths of a slot where the reference is qualified and present, and what is due at
the epoch it reaches applies. Four ticks are a sloe cycle, whose new samples of the forced-state inputs are inactive until
FORCED_INPUT_ACTIVE says otherwise (R501; log 36). -/
def refTick (s : State) : State :=
  let s := { s with clk := { s.clk with ticks := s.clk.ticks + 1 } }
  let s := if s.clk.ticks % 4 = 0 then { s with inp := { s.inp with active := 0 } } else s
  if !s.inp.refOk || s.inp.refLost || !s.inp.main || s.inp.held then s
  else
    let e := nominalEpoch s
    let k := s.clk.k
    let s := modFields s fun _ x => if x.cond.act == .sleeping then x else { x with clk := { x.clk with n8 := x.clk.n8 + 10 * k } }
    let s := { s with clk := { s.clk with n8 := s.clk.n8 + 10 * k } }
    if nominalEpoch s = e then s else applyNominal s

def execRefTick (s : State) : Host.Outcome State Fault Refusal := .next (refTick s)

/-! ## COMMIT -/

/-- COMMIT_LATE (R69): the change is not applied, DEVICE-class COMMIT_LATE is raised from the participant's own address, and a
field is fenced. DESIGN CHOICE (log 154): the mirror engine, which has no stem address, reports from the pith's, 0x3000. -/
def commitLate (s : State) (u : Part) (csn : BitVec 16) : State :=
  let s := putStaged s u ((stagedOf s u).filter fun c => c.csn != csn)
  match u with
  | .field f => send (fenceHw (raiseField s f 0x0302 0 7 0 csn.toNat) f 7) (.fence f 7)
  | .rind d => raiseDie s d 0x0302 0 0 csn.toNat
  | .root => raiseDie s 63 0x0302 0 0 csn.toNat
  | .mirror => raise s (mkEvent pithAddr (floorN s) 0x0302 0 0 7 0 csn.toNat)

/-- COMMIT in a participant (R65 step 3): the staged change is decided, and applies as R40 states. -/
def commitIn (s : State) (u : Part) (csn : BitVec 16) (epoch : Nat) : State :=
  let s := receive s (.commit u csn epoch)
  if !partAlive s u then s
  else if 4096 * epoch < partSlot s u then commitLate s u csn
  else
    let s := putStaged s u (modFirst (fun c => c.csn == csn) (fun c => { c with decided := true }) (stagedOf s u))
    if 4096 * epoch ≠ partSlot s u then s
    else match u with
      | .field f => if fieldClocked s f then reachSlot s f else s
      | _ => applyNominal s

def execCommit (u : Part) (csn : BitVec 16) (epoch : Nat) (s : State) : Host.Outcome State Fault Refusal :=
  .next (commitIn s u csn epoch)

/-! ## The pith -/

/-- Every commit that a POWER_SET caused has been decided (R479): the command completes. -/
def powerSetDone (s : State) : State :=
  if changing s (fun k _ => decide (k = .freq ∨ k = .profile ∨ k = .powerCap)) then s
  else (s.cxl.cmds.filter fun c => c.opc == 0x20 && c.begun).foldl (fun t c => finishCmd t c stOk id) s

/-- Earliest epoch among the changes committed to a participant and not yet applied, plus 1 (R582). -/
def busyUntil (s : State) (u : Part) : Nat :=
  match (s.com.committed.filter fun c => c.parts.contains u).map (·.epoch) with
  | [] => 0
  | e :: t => t.foldl min e + 1

/-- The pith sends COMMIT to every participant (R65 step 3). -/
def decideCommit (s : State) (c : Change) : State :=
  let s := { s with com := { s.com with out := none, stat := 1, commits := s.com.commits + 1, committed := s.com.committed ++ [c] } }
  pump (c.parts.foldl (fun t u => send t (.commit u c.csn c.epoch)) s)

/-- A change that participant `u` found invalid, as the pith prepares it again (R582): a rate code above MAXK corrected to MAXK, or the same
argument for the participants that have the job, where `u` is none of them; else it cannot be corrected (log 148). -/
def corrected (s : State) (u : Part) (c : Change) : Option Change :=
  if c.kind = .freq ∧ 8 ≤ maxK s ∧ maxK s < c.arg.toNat then some { c with arg := BitVec.ofNat 64 (maxK s), after := 0, acked := [] }
  else if 0 < argAsid c.kind c.arg ∧ !(partsOf s c.kind c.arg).contains u ∧ !(partsOf s c.kind c.arg).isEmpty then
    some { c with after := 0, acked := [] }
  else none

/-- ACK in the pith (R65 steps 3 and 4, R582). -/
def ackIn (s : State) (u : Part) (csn : BitVec 16) (st : AckStatus) : State :=
  if !pithUp s then s
  else
    let s := receive s (.ack u csn st)
    match s.com.out with
    | none => s
    | some c =>
      if c.csn ≠ csn ∨ !c.parts.contains u then s
      else
        match st with
        | .staged =>
          let c := { c with acked := addNew u c.acked }
          if c.at_ + 8 ≤ nominalEpoch s ∨ !(c.parts.all fun p => c.acked.contains p) then
            refreshStaged { s with com := { s.com with out := some c } }
          else refreshStaged (powerSetDone (decideCommit s c))
        | .nackInvalid =>
          let s := abortOut s none
          let s := match corrected s u c with
            | some c => { s with com := { s.com with retry := s.com.retry ++ [c] } }
            | none => s
          refreshStaged (powerSetDone (pump s))
        | .nackBusy => refreshStaged (pump (abortOut s (some (busyUntil s u))))
        | .nackLate => refreshStaged (pump (abortOut s (some 0)))

def execAck (u : Part) (csn : BitVec 16) (status : AckStatus) (s : State) : Host.Outcome State Fault Refusal :=
  .next (ackIn s u csn status)

/-- ACK_DEADLINE: nominal epoch P + 8 has begun with an answer missing, so the pith sends ABORT and prepares the change again
(R65 step 4, R582). -/
def ackDeadline (s : State) : State :=
  match s.com.out with
  | none => s
  | some c =>
    if !pithUp s || decide (nominalEpoch s < c.at_ + 8) then s else refreshStaged (pump (abortOut s (some 0)))

def execAckDeadline (s : State) : Host.Outcome State Fault Refusal := .next (ackDeadline s)

/-- COMMIT_WAIT_TIMEOUT: a field that has not applied a decision, COMMIT or ABORT, 8 nominal epochs after it was sent again is fenced
(R67). -/
def commitWaitTimeout (s : State) (u : Part) : State :=
  if !pithUp s || !(s.com.resent.any fun r => decide (r.1 = u) && decide (r.2 + 8 ≤ nominalEpoch s)) || (decisionsFor s u).isEmpty then s
  else match u with
    | .field f => logFence (fenceHw s f 6) f 6
    | _ => s

def execCommitWaitTimeout (u : Part) (s : State) : Host.Outcome State Fault Refusal := .next (commitWaitTimeout s u)

/-- The cause of a change still stands: the job it names is live and not stopped (R363, R582). -/
def changeLives (s : State) (c : Change) : Bool :=
  let a := argAsid c.kind c.arg
  a == 0 || ((jobOf s a).live && (jobOf s a).st != .stopped)

/-- REPREPARE: the first aborted change whose wait has passed is prepared again, with a new CSN and E; one whose cause has gone
is dropped (R582). -/
def reprepare (s : State) : State :=
  if !mayPrepare s then s
  else
    let s := { s with com := { s.com with retry := s.com.retry.filter (changeLives s) } }
    match s.com.retry.find? fun c => decide (c.after ≤ nominalEpoch s) with
    | none => powerSetDone s
    | some c =>
      let s := { s with com := { s.com with retry := eraseFirst (fun x => decide (x = c)) s.com.retry } }
      if (partsOf s c.kind c.arg).isEmpty then powerSetDone s else sendPrepare s c

def execReprepare (s : State) : Host.Outcome State Fault Refusal := .next (reprepare s)

/-! ## Barriers -/

/-- BARRIER_ARRIVE at the barrier's owner; with the last arrival it sends BARRIER_RELEASE to every field of the job, for the
nominal epoch of sending plus 8 (R174). -/
def barrierArrive (s : State) (a : Nat) (b : Fin 16) (f : FieldIx) (bun : BunchIx) : State :=
  let s := receive s (.arrive a b f bun)
  let j := jobOf s a
  if !j.live || j.st = .stopped || !s.inp.main || s.inp.held then s
  else
    let l := addNew (36 * f.val + bun.val) (if j.barrier = b.val then j.arrivals else [])
    if (jobBunches s a).all fun x => l.contains x then
      let s := modJob s a fun j => { j with barrier := b.val, arrivals := [] }
      broadcast s (jobAddr a) (msgFlits s (.release 0 a b (nominalEpoch s + 8)))
    else modJob s a fun j => { j with barrier := b.val, arrivals := l }

def execBarrierArrive (asid : Nat) (b : Fin 16) (f : FieldIx) (bun : BunchIx) (s : State) : Host.Outcome State Fault Refusal :=
  .next (barrierArrive s asid b f bun)

/-- BARRIER_RELEASE in a field controller (R174); a field that has applied a PREEMPT for the job ignores it (R176). -/
def barrierRelease (s : State) (f : FieldIx) (a : Nat) (b : Fin 16) (epoch : Nat) : State :=
  let s := receive s (.release f a b epoch)
  let fj := (fieldOf s f).job
  if fieldGone s f || !hasJob s f a || fj.halted.contains a || tabGet 0 fj.pre a != 0 then s
  else modFjob s f fun x => { x with release := tabPut 0 a (epoch + 1) x.release, relBar := tabPut 0 a b.val x.relBar }

def execBarrierRelease (f : FieldIx) (asid : Nat) (b : Fin 16) (epoch : Nat) (s : State) : Host.Outcome State Fault Refusal :=
  .next (barrierRelease s f asid b epoch)

end Sys2Proof.Machine
end

