-- ==== Sys2Proof/Machine/PairOps.lean ====
section
/-! DEFINITION. The mirrored pair (15), shared by several commands: the slices held for the partner, and the near tier that a
pair may take. The loss of the partner stands with the pith's operations. -/

namespace Sys2Proof.Machine

/-- The log entries of interval `t`, in rising SEQ order (R410). -/
def logOf (x : Slice) (t : Nat) : List MirrorWrite := (x.log.filter fun w => w.t == t).mergeSort fun a b => decide (a.seq ≤ b.seq)

/-- The entries of interval `t` applied to the slice and freed (R410). -/
def applyInterval (x : Slice) (t : Nat) : Slice :=
  { x with blocks := (logOf x t).foldl (fun b w => tabPut default w.block w.body b) x.blocks, log := x.log.filter fun w => w.t != t,
           c := max x.c t, complete := max x.complete t }

/-- Whole GiB of the in-service near tier (R401). -/
def nearGib (s : State) : Nat := s.yld.nchan * 2250000000 / 2 ^ 30

/-- Near-tier GiB that a pair's STORE may take: 25 % of the in-service near tier, rounded down (R401). -/
def storeMax (s : State) : Nat := s.yld.nchan * 2250000000 / 4 / 2 ^ 30

end Sys2Proof.Machine
end

