-- ==== Sys2Proof/Machine/BupolOps.lean ====
section
/-! DEFINITION. Link frames, transmit order and receive rules of the Bupol ports and contexts (16 R424 to R448). -/

namespace Sys2Proof.Machine

/-! ## Sending -/

/-- The valid partner-table entries that cover an endpoint: index, and RATE in sixteenths of 100 GB/s (R434, R435). -/
def ratesFor (s : State) (ep : Nat) : List (Nat × Nat) :=
  (List.range 256).filterMap fun i =>
    let e := (tabGet 0 s.bup.pt i).toNat
    if bitOf e 35 ∧ bitsOf e 0 16 ≤ ep ∧ ep ≤ bitsOf e 0 16 + bitsOf e 16 16 then some (i, bitsOf e 36 4) else none

/-- The meter that binds an endpoint is that of the entry with the lowest RATE (R435). -/
def bindingEntry (s : State) (ep : Nat) : Option (Nat × Nat) :=
  match ratesFor s ep with
  | [] => none
  | e :: t => some (t.foldl (fun m x => if x.2 < m.2 then x else m) e)

/-- The meter of port `p` lets a message go (R435): a burst of 64 KiB, less what it has used. -/
def meterOk (s : State) (p : Nat) (m : QMsg) : Bool :=
  match bindingEntry s m.dst.toNat with
  | none => true
  | some (i, _) => decide (tabGet 0 (portOf s p).meter i + 64 * m.cells ≤ 65536)

/-- The bytes of a message drawn from the meters of its endpoint. -/
def meterUse (s : State) (p : Nat) (m : QMsg) : State :=
  (ratesFor s m.dst.toNat).foldl (fun t e => modPort t p fun x => { x with meter := tabMod 0 e.1 (· + 64 * m.cells) x.meter }) s

/-- The meters of a port after one codeword period: 2,560 bytes × RATE ÷ 16 come back (R423, R435). -/
def meterRefill (s : State) (p : Nat) : State :=
  (portOf s p).meter.foldl
    (fun t e => modPort t p fun x => { x with meter := tabMod 0 e.1 (· - 160 * bitsOf (tabGet 0 s.bup.pt e.1).toNat 36 4) x.meter }) s

/-- The next REQ or DATA message: round robin over contexts by deficit, in cells, with a quantum of one block (R447; log 26). -/
def nextData (s : State) (p : Nat) : Option (QMsg × State) :=
  let x := portOf s p
  let ready := fun (c : Nat) => (x.q2.find? fun m => m.ctx == c).filter (meterOk s p)
  let take := fun (m : QMsg) (d : Nat) =>
    (m, modPort s p fun y =>
      let q := eraseFirst (fun n => n.id == m.id) y.q2
      { y with q2 := q, lastCtx := m.ctx,
               deficit := tabPut 0 m.ctx (if q.any (fun n => n.ctx == m.ctx) then d - m.cells else 0) y.deficit })
  match (ready x.lastCtx).filter (fun m => m.cells ≤ tabGet 0 x.deficit x.lastCtx) with
  | some m => some (take m (tabGet 0 x.deficit x.lastCtx))
  | none =>
    match ((List.range 4096).map fun i => (x.lastCtx + 1 + i) % 4096).findSome? ready with
    | some m => some (take m (tabGet 0 x.deficit m.ctx + 65))
    | none => none

/-- The next message that port `p` sends: CTL and MIRROR, then RSP, then REQ and DATA, of those that their meters let go (R435,
R447). -/
def nextMsg (s : State) (p : Nat) : Option (QMsg × State) :=
  let x := portOf s p
  match x.q0.find? (meterOk s p) with
  | some m => some (m, modPort s p fun y => { y with q0 := eraseFirst (fun n => n.id == m.id) y.q0 })
  | none =>
    match x.q1.find? (meterOk s p) with
    | some m => some (m, modPort s p fun y => { y with q1 := eraseFirst (fun n => n.id == m.id) y.q1 })
    | none => nextData s p

/-- The messages that begin in a frame with `cells` cells free; what does not fit goes on in the next (R424). -/
def fillFrame (p : Nat) : Nat → Nat → List QMsg → State → List QMsg × State
  | 0, _, l, s => (l, s)
  | n + 1, cells, l, s =>
    if cells = 0 then (l, s)
    else match nextMsg s p with
      | none => (l, s)
      | some (m, s) =>
        let s := meterUse s p m
        if m.cells ≤ cells then fillFrame p n (cells - m.cells) (l ++ [m]) s
        else (l ++ [m], modPort s p fun y => { y with carry := m.cells - cells })

/-- A port that has to be trained again leaves service (R427, R429): its traffic moves, and PORT_RETRAINED is raised. -/
def startRetrain (s : State) (p : Nat) : State :=
  if !(portOf s p).up then s
  else
    let s := portLeave s p
    raiseDie (modPort s p fun x => { x with training := true, retrains := min 255 (x.retrains + 1) }) (41 + p / 4) 0x00D1 0 0 0

/-- A frame emitted by port `p` with the acknowledgement of what it has received (R424, R425). -/
def emitFrame (s : State) (p : Nat) (idle : Bool) (fseq : BitVec 12) : State :=
  let x := portOf s p
  modPort (emit s (.frame p idle fseq x.rxSeq x.nak)) p fun y => { y with nak := false }

/-- FRAME_SEND: a frame to be sent again, a DATA frame with the messages that wait, or an IDLE frame (R424 to R427, R447). A frame sent
16 times without an acknowledgement makes the port retrain. -/
def frameSend (s : State) (p : Nat) : State :=
  if !(portOf s p).up then s
  else
    let s := meterRefill s p
    let x := portOf s p
    if x.resend ≠ 0 then
      match x.unacked[x.unacked.length - x.resend]? with
      | none => modPort s p fun y => { y with resend := 0 }
      | some (fseq, n, _) =>
        if 16 ≤ n then startRetrain s p
        else
          let s := emitFrame s p false fseq
          modPort s p fun y =>
            { y with resend := y.resend - 1, resent := satAdd 32 y.resent 1,
                     unacked := y.unacked.map fun e => if e.1 = fseq then (e.1, e.2.1 + 1, e.2.2) else e }
    else if 512 ≤ x.unacked.length then emitFrame s p true x.txSeq
    else
      let carried := min 40 x.carry
      let s := modPort s p fun y => { y with carry := y.carry - carried }
      let (l, s) := fillFrame p 40 (40 - carried) [] s
      if l.isEmpty ∧ carried = 0 then emitFrame s p true x.txSeq
      else
        let s := emitFrame s p false x.txSeq
        modPort s p fun y => { y with txSeq := x.txSeq + 1, unacked := y.unacked ++ [(x.txSeq, 1, l)] }

/-! ## Receiving -/

/-- ACK and NAK of a good frame (R425): frames up to the ACK are dropped; on a NAK every later one is sent again, in order. -/
def takeFrameAck (s : State) (p : Nat) (fr : Frame) : State :=
  modPort s p fun x =>
    let rest :=
      if x.unacked.any fun e => e.1 == frameAck fr then ((x.unacked.dropWhile fun e => e.1 != frameAck fr).drop 1) else x.unacked
    { x with unacked := rest, resend := if frameNak fr then rest.length else min x.resend rest.length }

/-- LINK_FRAME: an in-order good DATA frame is accepted; any other one is discarded and NAK is set (R425). Messages to another
endpoint are dropped and counted (R432). -/
def linkFrame (s : State) (p : Nat) (fr : Frame) : State :=
  if !(portOf s p).up then s
  else if !frameGood fr then modPort s p fun x => { x with nak := true, skipping := true }
  else
    let s := takeFrameAck s p fr
    if frameIdle fr then s
    else if frameSeq fr ≠ (portOf s p).rxSeq + 1 then modPort s p fun x => { x with nak := true, skipping := true }
    else
      let (dsts, carry) := frameDsts fr (portOf s p).rxCarry
      let s := modPort s p fun x => { x with rxSeq := frameSeq fr, skipping := false, rxCarry := carry }
      let lost := (dsts.filter fun d => !s.bup.epSet || d != s.bup.epId).length
      if lost = 0 then s
      else
        raiseDie { s with bup := { s.bup with misrouted := satAdd 32 s.bup.misrouted lost } } (41 + p / 4) 0x00D3 0 0 0

/-- A message of a partner context reaches the module: by a port in service, addressed to it (R431, R432). -/
def arrives (s : State) (p : Nat) (m : BupMsg) : Bool :=
  s.inp.main && !s.inp.held && (portOf s p).up && s.bup.epSet && m.dst == s.bup.epId

/-- A message is of its context: the context is OPEN or CLOSING and the message comes from its other end (R437). -/
def ofContext (s : State) (m : BupMsg) : Bool :=
  let c := ctxOf s m.dctx
  (c.st == .open_ || c.st == .closing) && m.src == c.remote && m.sctx.val == c.rctx

/-- A message that the context has not yet accepted is accepted, with the DEMAND that it carries (R440, R441); a repeated one is
dropped. -/
def acceptMsg (s : State) (p : Nat) (m : BupMsg) : Option State :=
  let c := ctxOf s m.dctx
  if !arrives s p m || !ofContext s m || decide (32768 ≤ (m.cseq - c.rxSeq).toNat) then none
  else some (modCtx s m.dctx fun c => { c with rxSeq := m.cseq + 1, demand := m.demand })

/-- What an inbound access of `n` bytes reaches (R439). -/
inductive Inbound where
  | ok (pte addr : Nat)
  | denied
  | absent
  deriving DecidableEq, Repr

/-- An inbound access at offset `a` of the exported window of a context that needs right bit `r` (R437, R439). -/
def inbound (s : State) (x a n r : Nat) (wr : Bool) : Inbound :=
  let c := ctxOf s x
  let dva := (c.expBase + a) % 2 ^ 57
  if c.expLen < a + n || !c.rights.getLsbD r then .denied
  else match walkRoot s c.asid dva with
    | .fault 1 => .absent
    | .fault _ => .denied
    | .page e size =>
      if 2 ≤ pteTarget e || !(if wr then pteWr e else pteRd e) then .denied else .ok e (pageAddr e size dva)

/-- An access answered FAILED is counted as REMOTE_DENIED (R439). -/
def denyRemote (s : State) (x : Nat) : State :=
  raise { s with bup := { s.bup with denied := satAdd 32 s.bup.denied 1 } }
    (mkEvent pithAddr (floorN s) 0x00D2 0 0 7 0 (Config.detailOf 0x00D2 [x]).toNat)

/-- The block that an inbound read reaches. -/
def inboundRead (s : State) (e a : Nat) : BlockData := if pteTarget e = 0 then nearBlock s a else farBlock s a

/-- An inbound block written to its tier (R442, R443). -/
def inboundWrite (s : State) (e a : Nat) (b : BlockData) : State := if pteTarget e = 0 then nearPut s a b else farPut s a b

/-- Blocks of the receive pool's shared part (R443). -/
def sharedTotal (s : State) : Nat :=
  49152 - 8192 - 8192 - 256 * (if s.pair.formed then ((List.range 48).filter fun p => bitOf s.pair.ports.toNat p).length else 0)

/-- Shared blocks that are free. -/
def sharedFree (s : State) : Nat := sharedTotal s - s.bup.sharedUsed

/-- Reserve blocks of the open and opening contexts (R445). -/
def reserveSum (s : State) : Nat :=
  (s.bup.ctx.map fun e => if e.2.st == .open_ ∨ e.2.st == .opening ∨ e.2.st == .closing then e.2.reserve else 0).sum

end Sys2Proof.Machine
end

