-- ==== Sys2Proof/Machine/Errors.lean ====
section
/-! DEFINITION. Event reports, containment and halting (02 R58 to R60, 13 R361 to R381, R581, R583, 01 R26). -/

namespace Sys2Proof.Machine

/-- STEM_TYPE in the unit at `src`: a message whose header has a reserved TYPE, cause or operation is discarded and reported (R58, R60, R498);
another is none of this command's. -/
def stemType (s : State) (src : BitVec 16) (header : BitVec 64) : State :=
  let slot := match addrField src.toNat with | some f => slotOf s f | none => floorN s
  if headerReserved header then raise s (mkEvent src slot 0x0008 0 0 7 0 (Config.detailOf 0x0008 [header.toNat]).toNat) else s

def execStemType (src : BitVec 16) (header : BitVec 64) (s : State) : Host.Outcome State Fault Refusal :=
  .next (stemType s src header)

/-! ## ERROR_EVENT -/

/-- Reference ticks in 24 hours (R367). -/
def dayTicks : Nat := 8640000000000

/-- The core that an event message names. -/
def eventCore (m : ErrMsg) : Option CoreId :=
  let a := m.src.toNat
  if h : 0x1000 ≤ a ∧ a ≤ 0x150F ∧ m.core < 8 then
    let x := (a - 0x1000) % 36
    let y := (a - 0x1000) / 36
    some { fld := Fin.ofNat 36 (fieldOfXY x y), bun := Fin.ofNat 36 (localOfXY x y), cor := ⟨m.core, h.2.2⟩ }
  else none

/-- Located lane of a check event's DETAIL (R583). -/
def locatedLane (d : Nat) : Option Nat := if bitOf d 8 then some (bitsOf d 0 8) else none

/-- CHECK_TRANSIENT events of a core within 24 hours; one more than the limit condemns it (R367). -/
def countTransient (s : State) (c : CoreId) (m : ErrMsg) : State :=
  let now := s.clk.ticks
  let old := (coreAt s (ckey c)).transients.filter fun e => decide (now < e.2 + dayTicks)
  let l := old ++ List.replicate m.count (locatedLane m.detail.toNat, now)
  let limit := if s.yld.transLimit = 0 then 8 else s.yld.transLimit
  let s := modCore s (ckey c) fun x => { x with transients := l }
  if l.length ≤ limit || (coreAt s (ckey c)).condemned then s
  else
    match l.filterMap (·.1) with
    | [] => condemn s c none
    | j :: rest => if rest.all (· == j) then condemn s c (some j) else condemn s c none

/-- The pith receives an event report, logs it, and handles its domain (R370 to R378); CHECK_TRANSIENT is counted (R367), and
CHECK_PERSISTENT holds the field from placement until its diagnosis (R365). A stream fault of kind NOT_PRESENT is not entered in the log
(R269). -/
def errorEvent (s : State) (m : ErrMsg) : State :=
  if !pithUp s then s
  else
    let s := { s with stem := { s.stem with events := eraseFirst (sameReport m) s.stem.events } }
    if m.notPresent then s
    else
    let s := logEvent s m (domainOf m) 0
    let s := match eventCore m with
      | some c =>
        if m.code = 0x0006 then countTransient s c m
        else if m.code = 0x0202 then modCond s c.fld fun x => { x with diagHold := true }
        else s
      | none => s
    let s := match addrDie m.src.toNat with
      | some d => if m.code = 0x0108 then rindLost s d else s
      | none => s
    let s := match domainOf m with
      | .stream f => if noneArmed s f then handlingDone s (.stream f) else s
      | _ => s
    settle s

def execErrorEvent (m : ErrMsg) (s : State) : Host.Outcome State Fault Refusal := .next (errorEvent s m)

/-- FENCE_NOTICE: FIELD_FENCED and the FIELD_LOST of each job with work or routes there are logged (R581). -/
def fenceNotice (s : State) (f : FieldIx) (cause : Fin 256) : State :=
  if !pithUp s || !(fieldOf s f).cond.fenced then s
  else
    let s := receive s (.fence f cause)
    if 1 ≤ cause.val ∧ cause.val ≤ 7 then logFence s f cause
    else logEvent s (mkEvent pithAddr (floorN s) 0x0008 0 0 7 0 (Config.detailOf 0x0008 [cause]).toNat) .none 0

def execFenceNotice (f : FieldIx) (cause : Fin 256) (s : State) : Host.Outcome State Fault Refusal :=
  .next (fenceNotice s f cause)

/-! ## GATE_STATUS and halting -/

/-- GATE_STATUS: HALTED counts towards the job's halt (R362, R379), COMMIT_WAIT has the decision sent again (R67), and a
reserved cause is discarded (R60). -/
def gateStatus (s : State) (f : FieldIx) (cause : Fin 16) (asid slot : Nat) : State :=
  if !pithUp s then s
  else
    let s := receive s (.gate f cause asid slot)
    if cause.val = 7 then
      settle (modJob s asid fun j => if j.live then { j with haltedBy := addNew f.val j.haltedBy } else j)
    else if 8 ≤ cause.val then
      logEvent s (mkEvent pithAddr (floorN s) 0x0008 0 0 7 0 (Config.detailOf 0x0008 [cause]).toNat) .none 0
    else if cause.val = 3 then
      let ds := decisionsFor s (.field f)
      let s := ds.foldl send s
      if ds.isEmpty || s.com.resent.any (fun r => decide (r.1 = .field f)) then s
      else { s with com := { s.com with resent := s.com.resent ++ [(.field f, nominalEpoch s)] } }
    else s

def execGateStatus (f : FieldIx) (cause : Fin 16) (asid slot : Nat) (s : State) : Host.Outcome State Fault Refusal :=
  .next (gateStatus s f cause asid slot)

/-- HALT in a field controller: the job stops in the field, and HALTED and the current hold cause are reported (R59, R362). -/
def haltField (s : State) (f : FieldIx) (asid : Nat) : State :=
  let s := receive s (.power f 0x3F (BitVec.ofNat 16 asid))
  if fieldGone s f || !hasJob s f asid then s
  else
    let s := stopFieldJob s f asid
    let slot := slotOf s f % 2 ^ 48
    send (send s (.gate f 7 asid slot)) (.gate f (holdCode (fieldOf s f).clk.hold) 0 slot)

def execHalt (f : FieldIx) (asid : Nat) (s : State) : Host.Outcome State Fault Refusal := .next (haltField s f asid)

/-- HALT to every field of a job (R361). -/
def sendHalt (s : State) (a : Nat) : State :=
  broadcast s (jobAddr a) (msgFlits s (.power 0 0x3F (BitVec.ofNat 16 a)))

/-- JOB_HALT: the job is stopped for the record that requires it, and HALT goes to its fields (R361, R363, R364). -/
def jobHalt (s : State) (a : Nat) : State :=
  if !pithUp s then s
  else
    match s.stem.halts.find? fun h => h.1 == a with
    | none => s
    | some h => settle (stopJob (sendHalt s a) a h.2 true)

def execJobHalt (asid : Nat) (s : State) : Host.Outcome State Fault Refusal := .next (jobHalt s asid)

/-- HANDLING_TIMEOUT: the domain escalates by one class, with a record of the escalation (R379). -/
def handlingTimeout (s : State) (d : Domain) : State :=
  let x := domGet s d
  if !pithUp s || x.st = 0 then s
  else
    let cls := min 3 (x.cls + 1)
    let asid := match d with | .job a => a | _ => 0
    let m := mkEvent pithAddr (floorN s % 2 ^ 48) x.code.toNat asid 0 7 0 0
    let r := recOf s m d cls 2 x.seq true false
    let s := match freeRec s with
      | some i => putRec s i r
      | none =>
        match s.log.overflow with
        | none => { s with log := { s.log with overflow := some { r with lost := true }, seq := r.seq } }
        | some _ => { s with log := { s.log with overflow := s.log.overflow.map (addCount 1) } }
    let s := domPut s d { x with st := 2, cls := cls }
    settle (consequence s d asid (if (recIndex s r.seq).isNone then 3 else cls) s.log.seq)

def execHandlingTimeout (d : Domain) (s : State) : Host.Outcome State Fault Refusal := .next (handlingTimeout s d)

/-! ## Diagnosis and rind units -/

/-- The newest CHECK_PERSISTENT record of a core. -/
def persistentRec (s : State) (c : CoreId) : Option Rec :=
  let rs := s.log.recs.filterMap fun e => match e.2 with
    | some r => if r.code = 0x0202 ∧ r.src = bunchAddr c.fld c.bun ∧ r.core = c.cor.val then some r else none
    | none => none
  rs.foldl (fun b r => match b with | some x => if x.seq < r.seq then some r else b | none => some r) none

/-- Outcome code of a diagnosis (R366). -/
def diagCode : DiagOutcome → Nat
  | .coreFault => 1 | .commonFault _ => 2 | .notRun => 3

/-- Site of the diagnostic core of R365: that of the pip column in the row where it is good, otherwise that of the next bunch east, or west of local
index 5; none where that core is not there. DEDUCED (log 182): a stopped core at the pip site is diagnosed on the next bunch. -/
def diagSite (s : State) (c : CoreId) : Option Nat :=
  let row := c.bun.val / 6
  let pip := 7 * row + 6
  let site :=
    if (rowFailed s.yld c.fld row).contains 6 ∨ siteOf s.yld c.fld c.bun = some pip then
      siteOf s.yld c.fld (if c.bun.val % 6 = 5 then c.bun.val - 1 else c.bun.val + 1)
    else some pip
  site.bind fun x => if (failedCols s.yld c.fld x c.cor).length ≤ 18 then some x else none

/-- A core that fails the self-test of a diagnosis (R366): of the stopped core's bunch, or of the diagnostic core's, which at an unused pip site is no
logical bunch, so that its site alone is marked. -/
def failDiag (s : State) (c : CoreId) (other : Bool) (m : CoreIx) : State :=
  if !other then condemn s { c with cor := m } none
  else match diagSite s c with
    | none => s
    | some site =>
      match (List.finRange 36).find? fun (b : BunchIx) => siteOf s.yld c.fld b.val == some site with
      | some b => condemn s { c with bun := b, cor := m } none
      | none => dueEntry (modCond s c.fld fun x => { x with remapDue := true }) { kind := 1, unit := c.fld, loc := site, value := 2 }

/-- DIAGNOSIS: its record, and what it condemns (R365, R366, R583); the field's handling completes (R379). -/
def diagnosis (s : State) (c : CoreId) (o : DiagOutcome) : State :=
  if !pithUp s || !(fieldOf s c.fld).cond.diagHold then s
  else
    let o := if (diagSite s c).isNone then .notRun else o
    let (seq, det) := match persistentRec s c with | some r => (r.seq, r.detail.toNat) | none => (0, 0)
    let s := logEvent s (mkEvent pithAddr (floorN s % 2 ^ 48) 0x000B 0 0 7 0 (bitsOf det 0 9 + 65536 * diagCode o)) (.field c.fld) seq
    let s := condemn s c (locatedLane det)
    let s := match o with
      | .commonFault l =>
        l.foldl (fun t x => failDiag t c x.1 x.2) (modCond s c.fld fun y => { y with testHold := true })
      | _ => s
    settle (handlingDone (modCond s c.fld fun y => { y with diagHold := false }) (.field c.fld))

def execDiagnosis (c : CoreId) (outcome : DiagOutcome) (s : State) : Host.Outcome State Fault Refusal :=
  .next (diagnosis s c outcome)

/-- RIND_FAILED: the unit is out of service; the ports of a failed Bupol or CXL chiplet leave service (R26). -/
def rindFailed (s : State) (die : Fin 64) : State :=
  let d := die.val
  if d < 1 ∨ 60 < d ∨ tabGet false s.dom.rindOut d then s
  else
    raiseDie (rindLeaves s d) d 0x0108 0 0 0

def execRindFailed (die : Fin 64) (s : State) : Host.Outcome State Fault Refusal := .next (rindFailed s die)

end Sys2Proof.Machine
end

