-- ==== Sys2Proof/Machine/Sram.lean ====
section
/-! DEFINITION. Reads of on-die memory and its check codes (08 R241 to R245, 13 R354): bits that stand inverted, what a read corrects and reports,
and what it bruises. -/

namespace Sys2Proof.Machine

/-- The core of an on-die address of core memory. -/
def odaCore (f : FieldIx) (oda : Nat) : CoreId := { fld := f, bun := Fin.ofNat 36 (bitsOf oda 23 6), cor := Fin.ofNat 8 (bitsOf oda 20 3) }

/-- An event of the core, or of the field for a bank, that holds ODA `oda` (R242, R369). -/
def raiseAt (s : State) (f : FieldIx) (oda code : Nat) : State :=
  if bitOf oda 33 then raiseCore s (odaCore f oda) code 0 7 oda 0 else raiseField s f code 0 7 oda 0

/-- A read of granule `g` of field `f`: each corrected word is reported and counted, and an uncorrectable one bruises the granule and is
reported (R242, R245). The stored word stays as it is. -/
def readGranule (f : FieldIx) (s : State) (g : Nat) : State :=
  let l := flipsOf s.mem g
  let s := (softWords l).foldl (fun s _ => countCorrected (raiseAt s f (64 * g) 0x0001) (64 * g)) s
  if (hardWords l).isEmpty then s
  else raiseAt { s with mem := { s.mem with dieBr := brSet s.mem.dieBr g true } } f (64 * g) 0x0101

/-- The reads of the granules that the on-die bytes [oda, oda + n) touch. -/
def noteRead (s : State) (f : FieldIx) (oda n : Nat) : State :=
  if s.mem.flips.isEmpty then s else (granulesOf oda n).foldl (readGranule f) s

/-- The data bits of a granule that a read cannot correct, as a number. -/
def hardBits (l : List Nat) : Nat :=
  (l.filter fun n => decide (n < 512) && (hardWords l).contains (n / 64)).foldl (fun v n => v ||| 2 ^ n) 0

/-- Bit `n` of a list of inverted bits inverted once more. -/
def toggle (l : List Nat) (n : Nat) : List Nat := if l.contains n then dropAll n l else l ++ [n]

/-- Two or all three copies of a bruise bit stand inverted, so that it reads inverted (R241). -/
def copiesFlipped (l : List Nat) : Bool := decide (2 ≤ (l.filter fun n => decide (576 ≤ n)).length)

/-- The bytes of block `blk` as one number, and their check word (R355). -/
def blockBytes (s : State) (blk : Nat) : Nat := dieRead s (4096 * blk) 4096
def blockWord (s : State) (blk : Nat) : Nat := crc32c 4096 (blockBytes s blk) ^^^ (tabGet 0 s.mem.crcErr blk).toNat

/-- The word of a block is valid and is not the CRC of the block's bytes, as they stand (R355, R356). -/
def wordWrong (s : State) (blk : Nat) : Bool := !tabGet false s.mem.unckd blk && tabGet 0 s.mem.crcErr blk != 0

/-- The check word of a block stored, and valid (R355, R356). -/
def putWord (s : State) (blk w : Nat) : State :=
  { s with mem := { s.mem with unckd := tabPut false blk false s.mem.unckd,
                               crcErr := tabPut 0 blk (BitVec.ofNat 32 (crc32c 4096 (blockBytes s blk) ^^^ w)) s.mem.crcErr } }

/-- The bits `d` of granule `g` change without a write: the check word of its block stays, and CRC-32C is linear (R355). -/
def changeUnseen (m : Mem) (g d : Nat) : Mem :=
  if d = 0 then m
  else
    { m with die := memWrite m.die (64 * g) 64 (memRead m.die (64 * g) 64 ^^^ d)
             crcErr := tabMod 0 (g / 64) (· ^^^ BitVec.ofNat 32 (crcBytes 4096 (d * 2 ^ (512 * (g % 64))) 0)) m.crcErr }

/-- Stored bits of the granule of ODA `oda` are inverted (R241). The bytes of a word that its code can no longer correct are those that
stand there, and a bruise bit is what the majority of its copies says. -/
def flipBits (s : State) (oda : Nat) (bits : List Nat) : State :=
  let g := oda / 64
  let old := flipsOf s.mem g
  let new := (bits.filter fun n => decide (n < 579)).foldl toggle old
  let br := tabGet false s.mem.dieBr g
  { s with mem := { changeUnseen s.mem g (hardBits old ^^^ hardBits new) with
      dieBr := if copiesFlipped old == copiesFlipped new then s.mem.dieBr else brSet s.mem.dieBr g !br
      flips := tabPut [] g new s.mem.flips } }

/-- Stored data bits of the granule of ODA `oda` are inverted unseen by its codes (R356). -/
def missBits (s : State) (oda : Nat) (bits : List Nat) : State :=
  { s with mem := changeUnseen s.mem (oda / 64) (((bits.filter fun n => decide (n < 512)).dedup).foldl (fun v n => v + 2 ^ n) 0) }

/-- Bits of the check word of the block of ODA `oda` are inverted (R355). -/
def flipWordBits (s : State) (oda : Nat) (bits : BitVec 32) : State :=
  { s with mem := { s.mem with crcErr := tabMod 0 (oda / 4096) (· ^^^ bits) s.mem.crcErr } }

/-- The scrub writes granule `g` back: the words that it corrected, and the copies of the bruise bit (R244). -/
def scrubBack (s : State) (g : Nat) : State :=
  let l := flipsOf s.mem g
  let l' := l.filter fun n => match flipWord n with | some w => (hardWords l).contains w | none => false
  { s with mem := { s.mem with flips := tabPut [] g l' s.mem.flips } }

end Sys2Proof.Machine
end

