-- ==== Sys2Proof/Machine/VectorOps.lean ====
section
/-! DEFINITION. Shared operations of the vector core (05, R210 to R216): lanes and register regions, the issue of a vector
instruction with its interlock, bruises and latency, and the lane functions of each class. -/

namespace Sys2Proof.Machine

/-! ## Registers and lanes -/

/-- A vector register as a number. -/
def vregOf (c : Core) (r : Nat) : Nat := (tabGet 0 c.vreg r).toNat

/-- Bruise bits of a register's granules. -/
def vbrOf (c : Core) (r : Nat) : Nat := (tabGet 0 c.vbr r).toNat

/-- `x` with bits [lo + len − 1 : lo] replaced by `v`. -/
def putBits (x lo len v : Nat) : Nat :=
  x % 2 ^ lo + (v % 2 ^ len) * 2 ^ lo + x / 2 ^ (lo + len) * 2 ^ (lo + len)

/-- A write lands in its register (R135). -/
def landWrite (c : Core) (x : VWrite) : Core :=
  let keep := 15 - x.brSel % 16
  { c with
    vreg := tabPut 0 x.reg (BitVec.ofNat 2048 (putBits (vregOf c x.reg) x.lo x.len x.v)) c.vreg
    vbr := tabPut 0 x.reg (BitVec.ofNat 4 ((vbrOf c x.reg &&& keep) ||| (x.br &&& x.brSel))) c.vbr }

/-- Every write due by slot `t` lands, VEC's after LOAD's where both write one register in one slot (R135). -/
def landWrites (t : Nat) (c : Core) : Core :=
  (c.vwr.filter fun x => !x.ld && decide (x.due ≤ t)).foldl landWrite
    ((c.vwr.filter fun x => x.ld && decide (x.due ≤ t)).foldl landWrite
      { c with vwr := c.vwr.filter fun x => !decide (x.due ≤ t) })

/-- A register as the adder forwards it: with every write under way applied (R143). -/
def vregForward (c : Core) (r : Nat) : Nat := vregOf ((c.vwr.filter fun x => x.reg == r).foldl landWrite c) r

/-- Lane `j` of `w` bits. -/
def laneOf (w x j : Nat) : Nat := bitsOf x (w * j) w

/-- The lanes of a list, lane 0 lowest. -/
def packLanes (w : Nat) : List Nat → Nat
  | [] => 0
  | x :: t => x % 2 ^ w + 2 ^ w * packLanes w t

/-- The granules that bits [lo, lo + len) touch, as a mask. -/
def granMask (lo len : Nat) : Nat :=
  (List.range 4).foldl (fun m g => if lo < 512 * (g + 1) ∧ 512 * g < lo + len then m + 2 ^ g else m) 0

/-- A region of a register that an instruction reads: register, first bit and bits. -/
structure VSrc where
  reg : Nat
  lo : Nat := 0
  len : Nat := 2048
  deriving DecidableEq, Repr

/-- Some source granule is bruised. -/
def srcBruised (c : Core) (l : List VSrc) : Bool := l.any fun x => vbrOf c x.reg &&& granMask x.lo x.len != 0

/-- The first slot in which every source may be read (R141). -/
def srcReady (c : Core) (l : List VSrc) : Nat := l.foldl (fun m x => max m (tabGet 0 c.vrdy x.reg)) 0

/-- The four registers of quad `n` (R134). -/
def quadRegs (n : Nat) : List Nat := (List.range 4).map (4 * n + ·)

/-- The four registers of quad `n` as sources. -/
def quadSrcs (n : Nat) : List VSrc := (quadRegs n).map fun r => { reg := r }

/-- Value `j` of a quad under a register read `f`, as a signed integer (R134). -/
def quadVal (f : Nat → Nat) (n j : Nat) : Int := sextNat (bitsOf (f (4 * n + j / 16)) (128 * (j % 16)) 128) 128

/-- Opcode class of a vector opcode, in the order of R140. -/
def vecClass (opc : Nat) : Nat :=
  if opc < 0x58 then 0 else if opc < 0x60 then 1 else if opc < 0x6C then 2 else if opc < 0x6E then 3
  else if opc = 0x6E then 4 else if opc < 0x74 then 5 else if opc < 0x76 then 6 else if opc < 0x7C then 7 else 8

/-- Issue of a VEC instruction (R140, R141, R146): held until its sources may be read; bruised sources consumed where
`consume`; its writes land `lat` slots after its last occupancy slot, and it completes one slot before that (R166). -/
def vecGo (i : Iss) (wait read : List VSrc) (consume : Bool) (occ lat : Nat) (ws : List VWrite) (fl slot : Nat)
    (lanes : Nat) (fwd : Option Nat := none) (g : Task → Task := id) : Res :=
  let ready := srcReady i.core wait
  if i.t < ready then .holdTo ready
  else if consume && srcBruised i.core read then bruiseFault 0 (opcOf i.w)
  else
    let due := i.t + occ - 1 + lat
    let ws := ws.map fun x => { x with due := due }
    let s := modCore i.s i.k fun c =>
      let c := modTask c i.e g
      let regs := ws.map (·.reg)
      { c with
        vwr := c.vwr ++ ws
        vrdy := regs.foldl (fun t r => tabPut 0 r due t) c.vrdy
        vfwd := match fwd with
          | some q => tabPut false q true c.vfwd
          | none => regs.foldl (fun t r => tabPut false (r / 4) false t) c.vfwd }
    .go (countAct s i.c.fld (actLanes (vecClass (opcOf i.w))) lanes)
      { next := i.t + occ, fin := due - 1, slot := slot, flags := fl }

/-! ## Field names of the forms -/

def fVD (w : Nat) : Nat := bitsOf w 19 9
def fVA (w : Nat) : Nat := bitsOf w 28 9
def fVB (w : Nat) : Nat := bitsOf w 37 9
def fVC (w : Nat) : Nat := bitsOf w 46 9
def fFT (w : Nat) : Nat := bitsOf w 55 3
def fH (w : Nat) : Nat := bitsOf w 58 1
def fSLOT (w : Nat) : Nat := bitsOf w 59 4

/-- Format of the results of FT, and of its a and b operands (R188, R210). -/
def ftDst (ft : Nat) : Nat := if ft = 1 then 11 else if ft = 2 then 12 else if ft = 3 then 14 else 13
def ftSrc (ft : Nat) : Nat := if ft = 1 ∨ ft = 5 then 11 else if ft = 2 ∨ ft = 6 then 12 else if ft = 3 then 14 else 13

/-- Lane width and lanes of FT (R210). -/
def ftWidth (ft : Nat) : Nat := if ft = 1 ∨ ft = 2 then 16 else 32
def ftLanes (ft : Nat) : Nat := if ft = 1 ∨ ft = 2 then 128 else 64

/-- The mixed forms read half H of a and b (R210). -/
def ftMixed (ft : Nat) : Bool := ft == 5 || ft == 6

/-- Region of an a or b operand under FT and H. -/
def abSrc (ft h r : Nat) : VSrc := if ftMixed ft then { reg := r, lo := 1024 * h, len := 1024 } else { reg := r }

/-- Encoding of lane `j` of an a or b operand under FT and H. -/
def abLane (c : Core) (ft h r j : Nat) : Nat :=
  if ftMixed ft then bitsOf (vregOf c r) (1024 * h + 16 * j) 16 else laneOf (ftWidth ft) (vregOf c r) j

/-- Encoding of lane `j` of a c operand: FP32 in the mixed forms. -/
def cLane (c : Core) (ft r j : Nat) : Nat := laneOf (ftWidth ft) (vregOf c r) j

/-- One result register from a list of lanes with their flags. -/
def laneWrite (w r : Nat) (l : List (Nat × Nat)) (br : Nat) : List VWrite :=
  [{ due := 0, reg := r, v := packLanes w (l.map (·.1)), br := br }]

/-- A floating-point or integer lane instruction: `f` gives the result and flags of lanes a, b and c. -/
def laneRes (i : Iss) (useB useC : Bool) (f : Nat → Nat → Nat → Nat × Nat) : List (Nat × Nat) × List VSrc :=
  let w := i.w
  let c := i.core
  let ft := fFT w
  let l := (List.range (ftLanes ft)).map fun j =>
    f (abLane c ft (fH w) (fVA w) j) (if useB then abLane c ft (fH w) (fVB w) j else 0)
      (if useC then cLane c ft (fVC w) j else 0)
  (l, [abSrc ft (fH w) (fVA w)] ++ (if useB then [abSrc ft (fH w) (fVB w)] else []) ++
      (if useC then [{ reg := fVC w }] else []))

/-- ARITH and INT instructions (R136 to R138, R140). -/
def effLanes (i : Iss) (useC : Bool) (lat : Nat) (f : Nat → Nat → Nat → Nat × Nat) : Res :=
  let (l, src) := laneRes i true useC f
  vecGo i src src true 1 lat (laneWrite (ftWidth (fFT i.w)) (fVD i.w) l 0) (orFlags (l.map (·.2))) (fSLOT i.w)
    (ftLanes (fFT i.w))

/-- A floating-point operation on exact values, rounded to the result format of FT. -/
def arith2 (ft : Nat) (op : Bool → Num → Num → Num) (a b _c : Nat) : Nat × Nat :=
  arith (ftDst ft) (op (Config.zeroSumNeg a b 0) (decodeNum (ftSrc ft) a) (decodeNum (ftSrc ft) b))

/-- a × b + c, rounded once (R136). -/
def fmaNum (ft : Nat) (a b c : Nat) : Nat × Nat :=
  arith (ftDst ft)
    (addNum (Config.zeroSumNeg a b c) (mulNum (decodeNum (ftSrc ft) a) (decodeNum (ftSrc ft) b)) (decodeNum (ftDst ft) c))

/-- INT32 result modulo 2³². -/
def wrap32 (z : Int) : Nat × Nat := (wrapInt z 32, 0)

/-- INT32 result clamped, with OF where it clamps (R138). -/
def sat32 (z : Int) : Nat × Nat :=
  let y := clampInt (-(2 : Int) ^ 31) ((2 : Int) ^ 31 - 1) z
  (wrapInt y 32, if y = z then 0 else flOF)

/-- ISH: a shifted by b[4:0]; KIND 0 SHL, 1 SHR, 2 SRA (R210). -/
def shiftLane (kind a b : Nat) : Nat × Nat :=
  let n := b % 32
  (match kind with
   | 0 => a * 2 ^ n % 2 ^ 32
   | 1 => a / 2 ^ n
   | _ => wrapInt (sextNat a 32 / (2 : Int) ^ n) 32, 0)

/-- Condition COND of CMP on lanes of FT (R210). -/
def cmpLane (ft cond a b : Nat) : Bool :=
  if cond = 6 then decide (a < b) else if cond = 7 then decide (b ≤ a)
  else
    let x := decodeNum (ftSrc ft) a
    let y := decodeNum (ftSrc ft) b
    let eq := eqNum x y
    match cond with
    | 0 => eq
    | 1 => !eq
    | 2 => ltNum x y
    | 3 => ltNum x y || eq
    | 4 => ltNum y x
    | _ => ltNum y x || eq

/-! ## Conversions -/

/-- The region of side `c` of a conversion in its register (R212): all of it for 32-bit formats, half P[0] for 16-bit ones
(all of it where both sides are 16-bit), and the packed elements from byte 64P for narrow ones. -/
def cvtRegion (c p : Nat) (both16 : Bool) : Nat × Nat :=
  let w := fmtBits c
  if w = 32 then (0, 2048)
  else if w = 16 then (if both16 then (0, 2048) else (1024 * (p % 2), 1024))
  else (512 * p, 64 * w)

/-- Scale byte that element `j` uses from VB, as an operand of format `c` (R212): none for formats without a scale. -/
def cvtScale (c p vb j : Nat) : Option Nat :=
  if fmtMX c then some (bitsOf vb (8 * (2 * p + j / 32)) 8) else if c = 8 ∨ c = 9 then some (bitsOf vb 0 8) else none

/-- PHG draw of lane or element `j` with data `u` (R191, R321). -/
def genDraw (g : Gen) (gsel : Bool) (row j u : Nat) : Nat :=
  let x := (g.cb.toNat : Int) + row * g.cr.toInt + j * g.cs.toInt
  phg g.key (if gsel then g.gs1 else g.gs0).toNat (wrapInt x 48) g.step.toNat u

/-- One element of CVT (R83 to R86, R212). -/
def cvtElem (sf df rm p : Nat) (ovf : Bool) (r : Nat) (vb j x : Nat) : Nat × Nat :=
  let v := decodeNum sf x
  let v := match cvtScale sf p vb j with
    | some sc => timesScale v sc
    | none => v
  if fmtMX df then convertNum df rm false ovf r (overScale v (bitsOf vb (8 * (2 * p + j / 32)) 8))
  else convert df rm ovf r v

/-- CVT (R212). DESIGN CHOICE (log 178): VB, read for scales, is no source register of R140's occupancy, which is 1 slot. -/
def effCvt (i : Iss) : Res :=
  let w := i.w
  let sf := bitsOf w 46 4
  let df := bitsOf w 50 4
  let p := bitsOf w 57 2
  let both := fmtBits sf == 16 && fmtBits df == 16
  let n := if both then 128 else 64
  let pol := policyOf i.s i.c.fld i.asid
  let rm := rndMode pol (bitsOf w 54 2)
  let ovf := ovfMode pol (bitOf w 56)
  let c := i.core
  let va := vregOf c (fVA w)
  let vb := vregOf c (fVB w)
  let (slo, slen) := cvtRegion sf p both
  let (dlo, dlen) := cvtRegion df p both
  let l := (List.range n).map fun j =>
    let x := bitsOf va (slo + fmtBits sf * j) (fmtBits sf)
    let r := if rm = 3 then genDraw i.task.gen (bitOf w 59) 0 j (x % 2 ^ 16) else 0
    cvtElem sf df rm p ovf r vb j x
  let src : List VSrc := [{ reg := fVA w, lo := slo, len := slen }] ++
    (if cvtUsesVB sf df then [{ reg := fVB w, lo := 0, len := 64 }] else [])
  vecGo i src src true 1 (if fmtMX df then 6 else 4)
    [{ due := 0, reg := fVD w, lo := dlo, len := dlen, v := packLanes (fmtBits df) (l.map (·.1)), br := 0,
       brSel := if dlen % 512 = 0 then granMask dlo dlen else 0 }]
    (orFlags (l.map (·.2))) (bitsOf w 60 4) n

/-- MXSC (R213). -/
def effMxsc (i : Iss) : Res :=
  let w := i.w
  let sf := bitsOf w 46 4
  let df := bitsOf w 50 4
  let p := bitsOf w 57 2
  let (slo, slen) := cvtRegion sf p false
  let va := vregOf i.core (fVA w)
  let xs := (List.range 64).map fun j => decodeNum sf (bitsOf va (slo + fmtBits sf * j) (fmtBits sf))
  let v := blockScale df (xs.take 32) + 256 * blockScale df (xs.drop 32)
  let src : List VSrc := [{ reg := fVA w, lo := slo, len := slen }]
  vecGo i src src true 1 6 [{ due := 0, reg := fVD w, lo := 16 * p, len := 16, v := v, br := 0, brSel := 0 }] 0 0 64

/-- SPEC (R214). -/
def effSpec (i : Iss) : Res :=
  let w := i.w
  let ft := fFT w
  let fn := bitsOf w 46 3
  let half := ft != 0
  let lo := if half then 1024 * fH w else 0
  let ew := if half then 16 else 32
  let va := vregOf i.core (fVA w)
  let l := (List.range 64).map fun j =>
    let (v, f) := specNum fn (decodeNum (ftSrc ft) (bitsOf va (lo + ew * j) ew))
    if half then
      let (v', f') := arith (ftDst ft) (decodeNum 13 v)
      (v', f ||| f')
    else (v, f)
  let len := if half then 1024 else 2048
  let src : List VSrc := [{ reg := fVA w, lo := lo, len := len }]
  vecGo i src src true 4 12
    [{ due := 0, reg := fVD w, lo := lo, len := len, v := packLanes ew (l.map (·.1)), br := 0, brSel := granMask lo len }]
    (orFlags (l.map (·.2))) (fSLOT w) 64

/-! ## Logic and permutation -/

/-- A LOGIC instruction that carries bruises granule by granule (R146): `f` on the lanes of FT, `n` sources. -/
def effCarry (i : Iss) (useB useC : Bool) (f : Nat → Nat → Nat → Nat) : Res :=
  let (l, src) := laneRes i useB useC fun a b c => (f a b c, 0)
  let br := src.foldl (fun m x => m ||| vbrOf i.core x.reg) 0
  vecGo i src src false 1 2 (laneWrite (ftWidth (fFT i.w)) (fVD i.w) l br) 0 0 (ftLanes (fFT i.w))

/-- Bruises of SEL: a granule of the condition, or of the source that some lane of the granule selects (R146, R357). -/
def selBruise (c : Core) (w : Nat) : Nat :=
  let ft := fFT w
  let per := ftLanes ft / 4
  (List.range 4).foldl (fun m g =>
    let hit := bitOf (vbrOf c (fVC w)) g || (List.range per).any fun k =>
      let j := per * g + k
      if cLane c ft (fVC w) j ≠ 0 then bitOf (vbrOf c (fVA w)) g else bitOf (vbrOf c (fVB w)) g
    if hit then m + 2 ^ g else m) 0

/-- SEL (R210). -/
def effSel (i : Iss) : Res :=
  let (l, src) := laneRes i true true fun a b c => (if c ≠ 0 then a else b, 0)
  vecGo i src src false 1 2 (laneWrite (ftWidth (fFT i.w)) (fVD i.w) l (selBruise i.core i.w)) 0 0 (ftLanes (fFT i.w))

/-- A whole register written with no source, in 2 slots (R140, R211). -/
def effFill (i : Iss) (v : Nat) (g : Task → Task := id) : Res :=
  vecGo i [] [] false 1 2 [{ due := 0, reg := fVD i.w, v := v, br := 0 }] 0 0 64 none g

/-- MOVI (R211). -/
def effMovi (i : Iss) : Res :=
  let imm := bitsOf i.w 28 32
  effFill i (if bitOf i.w 60 then packLanes 16 (List.replicate 128 (imm % 2 ^ 16)) else packLanes 32 (List.replicate 64 imm))

/-- FGET: a status slot into element 0, and the slot cleared where CLR is 1 (R193). -/
def effFget (i : Iss) : Res :=
  effFill i (slotGet i.task (fSLOT i.w)) fun t => if bitOf i.w 58 then slotClear t (fSLOT i.w) else t

/-- GEN on a task's generator registers (R211). -/
def genSet (w : Nat) (g : Gen) : Gen :=
  let imm := bitsOf w 23 32
  match bitsOf w 19 3 with
  | 0 => { g with cb := BitVec.ofNat 48 imm }
  | 1 => { g with cb := BitVec.ofNat 48 (g.cb.toNat % 2 ^ 32 + imm % 2 ^ 16 * 2 ^ 32) }
  | 2 => { g with cb := g.cb + BitVec.ofInt 48 (sextNat imm 32) }
  | 3 => { g with cs := BitVec.ofNat 32 imm }
  | 4 => { g with cr := BitVec.ofNat 32 imm }
  | 5 => if bitOf w 22 then { g with gs1 := BitVec.ofNat 24 imm } else { g with gs0 := BitVec.ofNat 24 imm }
  | 6 => { g with step := g.step + BitVec.ofNat 32 imm }
  | _ => { g with step := BitVec.ofNat 32 imm }

/-- GEN of VEC and of DRAIN: one slot, no latency (R192, R206, R211). VEC's reaches no register. -/
def effGen (i : Iss) : Res :=
  .go (modCore i.s i.k fun c => modTask c i.e fun t => { t with gen := genSet i.w t.gen }) 
    { next := i.t + 1, fin := if i.e = .vec then i.t + 1 else i.t }

/-- BCAST (R210). -/
def effBcast (i : Iss) : Res :=
  let w := i.w
  let ft := fFT w
  let k := bitsOf w 37 7
  let x := laneOf (ftWidth ft) (vregOf i.core (fVA w)) k
  let lo := ftWidth ft * k
  let src : List VSrc := [{ reg := fVA w, lo := lo, len := ftWidth ft }]
  vecGo i [{ reg := fVA w }] src false 1 2
    [{ due := 0, reg := fVD w, v := packLanes (ftWidth ft) (List.replicate (ftLanes ft) x),
       br := if srcBruised i.core src then 15 else 0 }] 0 0 (ftLanes ft)

/-- Bruises of SHUF: a granule of indices, or a granule that some lane of the result draws on (R146). -/
def shufBruise (c : Core) (w : Nat) : Nat :=
  let ft := fFT w
  let n := ftLanes ft
  let per := n / 4
  (List.range 4).foldl (fun m g =>
    let hit := bitOf (vbrOf c (fVB w)) g || (List.range per).any fun k =>
      bitOf (vbrOf c (fVA w)) (laneOf (ftWidth ft) (vregOf c (fVB w)) (per * g + k) % n / per)
    if hit then m + 2 ^ g else m) 0

/-- SHUF (R210). -/
def effShuf (i : Iss) : Res :=
  let w := i.w
  let ft := fFT w
  let c := i.core
  let l := (List.range (ftLanes ft)).map fun j =>
    (laneOf (ftWidth ft) (vregOf c (fVA w)) (laneOf (ftWidth ft) (vregOf c (fVB w)) j % ftLanes ft), 0)
  let src : List VSrc := [{ reg := fVA w }, { reg := fVB w }]
  vecGo i src src false 1 2 (laneWrite (ftWidth ft) (fVD w) l (shufBruise c w)) 0 0 (ftLanes ft)

/-- Score `x` of lane `a` ranks above score `y` of lane `b` (R142): higher, or equal and of the lower lane; NaN ranks below
every number. -/
def ranksAbove (x y : Num) (a b : Nat) : Bool :=
  if x = .nan then decide (y = .nan ∧ a < b)
  else if y = .nan then true
  else ltNum y x || (!ltNum x y && decide (a < b))

/-- The mask of the k highest scores (R142). -/
def topkMask (xs : List Num) (k : Nat) : Nat :=
  let ix := xs.zipIdx
  ix.foldl (fun m p =>
    if (ix.filter fun q => q.2 != p.2 && ranksAbove q.1 p.1 q.2 p.2).length < k then m + 2 ^ p.2 else m) 0

/-- TOPK (R142, R210). -/
def effTopk (i : Iss) : Res :=
  let va := vregOf i.core (fVA i.w)
  let xs := (List.range 64).map fun j => decodeNum 13 (laneOf 32 va j)
  let src : List VSrc := [{ reg := fVA i.w }]
  vecGo i src src true 1 8 [{ due := 0, reg := fVD i.w, v := topkMask xs (bitsOf i.w 37 7 + 1), br := 0 }] 0 0 64

/-- PHG outputs of the 64 lanes with VA as data (R145, R191, R210). -/
def randLanes (i : Iss) : List Nat :=
  let va := vregOf i.core (fVA i.w)
  (List.range 64).map fun j => genDraw i.task.gen (bitOf i.w 58) 0 j (laneOf 32 va j % 2 ^ 16)

/-- RAND (R145). -/
def effRand (i : Iss) : Res :=
  let src : List VSrc := [{ reg := fVA i.w }]
  vecGo i src src true 1 6 [{ due := 0, reg := fVD i.w, v := packLanes 32 (randLanes i), br := 0 }] 0 0 64

/-- DROPM: mask bit j is 1 where output j is below b[0] (R145). -/
def effDropm (i : Iss) : Res :=
  let lim := laneOf 32 (vregOf i.core (fVB i.w)) 0
  let m := packLanes 1 ((randLanes i).map fun x => b2n (decide (x < lim)))
  let src : List VSrc := [{ reg := fVA i.w }, { reg := fVB i.w, lo := 0, len := 32 }]
  vecGo i src src true 1 6 [{ due := 0, reg := fVD i.w, v := m, br := 0 }] 0 0 64

/-! ## Exact sums -/

def fQ1 (w : Nat) : Nat := bitsOf w 19 7
def fQ2 (w : Nat) : Nat := bitsOf w 26 7
def fVR (w : Nat) : Nat := bitsOf w 33 9
def fANCH (w : Nat) : Nat := bitsOf w 42 8
def fFMT (w : Nat) : Nat := bitsOf w 50 4
def fWH (w : Nat) : Nat := bitsOf w 54 1
def fWSLOT (w : Nat) : Nat := bitsOf w 55 4

/-- The region of VR that a WIDE instruction uses: half H for a 16-bit format. -/
def wideSrc (w : Nat) : VSrc :=
  if fmtBits (fFMT w) = 16 then { reg := fVR w, lo := 1024 * fWH w, len := 1024 } else { reg := fVR w }

/-- The 64 values of VR converted into W128 (R98, R143). -/
def wideVals (i : Iss) : List (Int × Nat) :=
  let src := wideSrc i.w
  let ew := fmtBits (fFMT i.w)
  let x := vregOf i.core src.reg
  (List.range 64).map fun j => toW128 (fANCH i.w) (decodeNum (fFMT i.w) (bitsOf x (src.lo + ew * j) ew))

/-- The four register writes of a quad. -/
def quadWrite (q : Nat) (l : List Int) : List VWrite :=
  let x := packLanes 128 (l.map fun z => wrapInt z 128)
  (List.range 4).map fun r => { due := 0, reg := 4 * q + r, v := bitsOf x (2048 * r) 2048, br := 0 }

/-- WCVT (R215). -/
def effWcvt (i : Iss) : Res :=
  let l := wideVals i
  vecGo i [wideSrc i.w] [wideSrc i.w] true 4 8 (quadWrite (fQ1 i.w) (l.map (·.1))) (orFlags (l.map (·.2))) (fWSLOT i.w) 64 (some (fQ1 i.w))

/-- The destination quad of an accumulating instruction: a wait unless the adder forwards its running sum (R143). -/
def accWait (i : Iss) (q : Nat) : List VSrc := if tabGet false i.core.vfwd q then [] else quadSrcs q

/-- Lane by lane W128 sums onto the forwarded destination quad. -/
def accSum (i : Iss) (q : Nat) (l : List Int) : List (Int × Nat) :=
  l.zipIdx.map fun p => addWindow 128 (quadVal (vregForward i.core) q p.2) p.1

/-- WACC (R143, R215). -/
def effWacc (i : Iss) : Res :=
  let q := fQ1 i.w
  let l := wideVals i
  let r := accSum i q (l.map (·.1))
  vecGo i (wideSrc i.w :: accWait i q) (wideSrc i.w :: quadSrcs q) true 4 8 (quadWrite q (r.map (·.1)))
    (orFlags (l.map (·.2)) ||| orFlags (r.map (·.2))) (fWSLOT i.w) 64 (some q)

/-- WADD (R143, R215). -/
def effWadd (i : Iss) : Res :=
  let q := fQ1 i.w
  let r := accSum i q ((List.range 64).map fun j => quadVal (vregOf i.core) (fQ2 i.w) j)
  vecGo i (quadSrcs (fQ2 i.w) ++ accWait i q) (quadSrcs (fQ2 i.w) ++ quadSrcs q) true 4 8 (quadWrite q (r.map (·.1)))
    (orFlags (r.map (·.2))) (fWSLOT i.w) 64 (some q)

/-- The exact sum of the 64 values of a quad (R143): NaR where any is NaR. -/
def quadSum (l : List Int) : Int × Nat :=
  if l.any (fun z => decide (z = nar 128)) then (nar 128, flNR) else satWindow 128 (l.foldl (· + ·) 0)

/-- WRSUM (R215). -/
def effWrsum (i : Iss) : Res :=
  let (z, f) := quadSum ((List.range 64).map fun j => quadVal (vregOf i.core) (fQ2 i.w) j)
  vecGo i (quadSrcs (fQ2 i.w)) (quadSrcs (fQ2 i.w)) true 4 16 (quadWrite (fQ1 i.w) (z :: List.replicate 63 0)) f (fWSLOT i.w) 64

/-- WOUT (R98, R215). -/
def effWout (i : Iss) : Res :=
  let w := i.w
  let c := fFMT w
  let pol := policyOf i.s i.c.fld i.asid
  let rm := rndMode pol (bitsOf w 59 2)
  let ovf := ovfMode pol (bitOf w 61)
  let l := (List.range 64).map fun j =>
    let v := quadVal (vregOf i.core) (fQ2 w) j
    let r := if rm = 3 then genDraw i.task.gen (bitOf w 62) 0 j (wrapInt v 16) else 0
    fromWindow 128 (fANCH w) c rm ovf r v
  let dst := wideSrc w
  vecGo i (quadSrcs (fQ2 w)) (quadSrcs (fQ2 w)) true 4 8
    [{ due := 0, reg := dst.reg, lo := dst.lo, len := dst.len, v := packLanes (fmtBits c) (l.map (·.1)), br := 0,
       brSel := granMask dst.lo dst.len }]
    (orFlags (l.map (·.2))) (fWSLOT w) 64

/-- WRANC: Q2 moved from anchor ANCH to the anchor in VR[7:0] (R98, R215). -/
def effWranc (i : Iss) : Res :=
  let w := i.w
  let r := (List.range 64).map fun j => reanchor (fANCH w) (fVR w % 256) (quadVal (vregOf i.core) (fQ2 w) j)
  vecGo i (quadSrcs (fQ2 w)) (quadSrcs (fQ2 w)) true 4 8 (quadWrite (fQ1 w) (r.map (·.1))) (orFlags (r.map (·.2))) (fWSLOT w) 64

/-! ## Ordered sums -/

/-- rn(s + x) in FP32, with the flags so far. -/
def rnAdd (acc : Nat × Nat) (x : Nat) : Nat × Nat :=
  let (v, f) := arith2 0 addNum acc.1 x 0
  (v, acc.2 ||| f)

/-- The running sums of FRSUM and FSCAN from lane 0 on (R216). -/
def runSums : Nat × Nat → List Nat → List (Nat × Nat)
  | _, [] => []
  | acc, x :: t =>
    let a := rnAdd acc x
    a :: runSums a t

/-- Lanes of a register in FP32. -/
def lanes32 (c : Core) (r : Nat) : List Nat := (List.range 64).map fun j => laneOf 32 (vregOf c r) j

/-- FRSUM (R216). -/
def effFrsum (i : Iss) : Res :=
  let l := lanes32 i.core (fVA i.w)
  let r := l.tail.foldl rnAdd (l.headD 0, 0)
  let src : List VSrc := [{ reg := fVA i.w }]
  vecGo i src src true 1 12 [{ due := 0, reg := fVD i.w, v := r.1, br := 0 }] r.2 (fSLOT i.w) 64

/-- FSCAN (R216). -/
def effFscan (i : Iss) : Res :=
  let l := lanes32 i.core (fVA i.w)
  let r := (l.headD 0, 0) :: runSums (l.headD 0, 0) l.tail
  let src : List VSrc := [{ reg := fVA i.w }]
  vecGo i src src true 1 12 (laneWrite 32 (fVD i.w) r 0) (orFlags (r.map (·.2))) (fSLOT i.w) 64

/-- FDOT (R216). -/
def effFdot (i : Iss) : Res :=
  let l := (lanes32 i.core (fVA i.w)).zip (lanes32 i.core (fVB i.w))
  let r := match l with
    | [] => (0, 0)
    | (a, b) :: t => t.foldl (fun (acc p : Nat × Nat) =>
        let (v, f) := fmaNum 0 p.1 p.2 acc.1
        (v, acc.2 ||| f)) (arith2 0 (fun _ => mulNum) a b 0)
  let src : List VSrc := [{ reg := fVA i.w }, { reg := fVB i.w }]
  vecGo i src src true 1 12 [{ due := 0, reg := fVD i.w, v := r.1, br := 0 }] r.2 (fSLOT i.w) 64

end Sys2Proof.Machine
end

