-- ==== Sys2Proof/Machine/Units.lean ====
section
/-! DEFINITION. Instructions that move one unit a slot (LACT, LSCL, VLD, VST, DRN, DSND): what each unit moves, and when
(R200, R201, R206 to R209, R233). Units due by the slot of issue move at once; SLOT_ADVANCE moves the rest. -/

namespace Sys2Proof.Machine

/-! ## Matrix-core buffers -/

/-- Good columns, lanes and check columns of a matrix core (R126, R127). -/
def goodColumns (c : Core) : Nat := 66 - c.cols.length
def laneCount (c : Core) : Nat :=
  let g := goodColumns c
  if 64 ≤ g then 64 else if 56 ≤ g then 56 else if 48 ≤ g then 48 else 0
def checkColumns (c : Core) : Nat := min 2 (goodColumns c - laneCount c)

/-- Bytes per activation line and lines of a format class (R104, R105). -/
def lineSize (fmt : Nat) : Nat := if fmtBits fmt = 6 then 96 else if fmtBits fmt = 16 then 128 else 64
def lineCountOf (size : Nat) : Nat := 65536 / size

/-- 32-byte chunk `k` of a line transfer of `total` bytes that begins at line `first`, into the activation buffer; the
bruise bit of a granule that its line covers whole is set anew, else it only rises (R200, R243, R357). -/
def actChunk (first size total k v : Nat) (br : Bool) (c : Core) : Core :=
  let p := 32 * k
  let line := (first + p / size) % lineCountOf size
  let a := line * size + p % size
  let whole := a % 64 = 0 ∧ p % size + 64 ≤ size ∧ p + 64 ≤ total
  { c with
    act := memWrite c.act a 32 v
    actBr := tabPut false (a / 64) (if whole then br else tabGet false c.actBr (a / 64) || br) c.actBr }

/-- Scale side-array entry `first` + k (R201). -/
def sideEntry (first total k v : Nat) (br : Bool) (c : Core) : Core :=
  let e := (first + k) % 1024
  let whole := e % 16 = 0 ∧ 4 * k + 64 ≤ total
  { c with
    side := tabPut 0 e (BitVec.ofNat 32 v) c.side
    sideBr := tabPut false (e / 16) (if whole then br else tabGet false c.sideBr (e / 16) || br) c.sideBr }

/-- Bytes [lo, hi) of a transfer, read by `rd` with the bruise of the granule at the offset, into the activation buffer. -/
def actBytes (first size total lo hi : Nat) (rd : Nat → Nat) (br : Nat → Bool) (c : Core) : Core :=
  (List.range ((hi - lo + 31) / 32)).foldl
    (fun c k => actChunk first size total (lo / 32 + k) (rd (lo + 32 * k)) (br (lo + 32 * k)) c) c

/-- The same for the scale side array. -/
def sideBytes (first total lo hi : Nat) (rd : Nat → Nat) (br : Nat → Bool) (c : Core) : Core :=
  (List.range ((hi - lo) / 4)).foldl
    (fun c k => sideEntry first total (lo / 4 + k) (rd (lo + 4 * k)) (br (lo + 4 * k)) c) c

/-! ## Scalar registers -/

/-- Register x[r] of core `k` in slot `t`, with the state after the read. x0 reads zero; a register whose producer's latency
has not elapsed reads a free value (R147; log 12). -/
def xGet (s : State) (k r t : Nat) : Nat × State :=
  if r = 0 then (0, s)
  else if tabGet 0 (coreAt s k).xrdy r ≤ t then ((tabGet 0 (coreAt s k).x r).toNat, s)
  else ((Config.earlyRead s.free).toNat, { s with free := s.free + 1 })

/-- x[r] written modulo 2⁶⁴, readable from slot `rdy` on; x0 ignores the write (R147). -/
def xPut (k r v rdy : Nat) (s : State) : State :=
  if r = 0 then s
  else modCore s k fun c => { c with x := tabPut 0 r (BitVec.ofNat 64 v) c.x, xrdy := tabPut 0 r rdy c.xrdy }

/-! ## Units -/

/-- Slot of unit `i` of an instruction in progress. -/
def unitSlot (p : Prog) (i : Nat) : Nat :=
  match p.slots with
  | [] => p.t + p.step * i
  | l => l.getD i (p.t + p.step * i)

/-- Bytes of a unit where the access has no wheel: a register of VLD and VST, 128 bytes of the others, or the 8 bytes of a word (R224). -/
def unitSize (p : Prog) : Nat :=
  if p.kind = 2 ∨ p.kind = 3 then 256 else if 6 ≤ p.kind ∧ p.kind ≤ 8 ∨ p.kind = 12 then 8 else 128

/-- Byte range of unit `i`: the units one after the other, or the i-th aligned 128-byte block of shared memory (R224, R233). -/
def unitRange (p : Prog) (i : Nat) : Nat × Nat :=
  if p.slots = [] then (unitSize p * i, min p.total (unitSize p * (i + 1)))
  else
    let b := 128 * (p.oda / 128 + i)
    (max p.oda b - p.oda, min (p.oda + p.total) (b + 128) - p.oda)

/-- The write of register VD + i by LOAD, readable four slots after its unit (R135, R209). -/
def vldWrite (p : Prog) (i u v mask : Nat) (c : Core) : Core :=
  let r := p.first + i
  { c with
    vwr := c.vwr ++ [{ due := u + 4, reg := r, ld := true, v := v, br := mask }]
    vrdy := tabPut 0 r (u + 4) c.vrdy
    vfwd := tabPut false (r / 4) false c.vfwd }

/-- A row that a replay has yet to add (R168). -/
def pendingRow (c : Core) (row : Nat) : Bool := c.pendRows.any fun x => x.2 == row

/-- The granules of the accumulator buffer that hold row `row`, entry width by entry width: 8 of a row of 8-byte entries, 16 of one of
16-byte entries (R107, R223). -/
def rowGranules (wide : Bool) (row : Nat) : List Nat :=
  if wide then (List.range 16).map (16 * row + ·) else (List.range 8).map (8 * row + ·)

/-- The granule that holds entry `j` of a row. -/
def entryGranule (wide : Bool) (row j : Nat) : Nat := if wide then 16 * row + j / 4 else 8 * row + j / 8

/-- Some granule of the lanes in service of a row is bruised. -/
def rowBruised (c : Core) (row : Nat) : Bool :=
  let wide := (tabGet {} c.acc (64 * row)).wide
  (rowGranules wide row).any fun g =>
    tabGet false c.accBr g && (List.range (laneCount c)).any fun j => entryGranule wide row j == g

/-- One accumulator entry out of its window into the format of DCFG (R98, R114): encoding and flags. -/
def drnEntry (p : Prog) (lanes i j : Nat) (e : AccEntry) : Nat × Nat :=
  let d := p.dcfg
  let len := if e.wide then 128 else 48
  let v := e.v.toInt
  let c := d.fmt.toNat
  let rm := rndMode p.policy d.rnd.toNat
  let r := if rm = 3 ∧ c ≠ 15 then genDraw p.gen d.g i j (e.v.toNat % 2 ^ 16) else 0
  let (x, f) :=
    if lanes ≤ j then (0, 0)
    else if c = 15 then (if v = nar len then (wrapInt (nar 128) 128, flNR) else (e.v.toNat, 0))
    else fromWindow len d.anch.toNat c rm (ovfMode p.policy d.ovf) r v
  (x, f ||| e.fl.toNat)

/-- The flits that the gathered bytes complete, oldest first, with what is left over: `n` bytes of `v` join (R206). -/
def gather (buf blen v n : Nat) : List Nat × Nat × Nat :=
  let x := buf + v * 2 ^ (8 * blen)
  let m := blen + n
  ((List.range (m / 128)).map fun i => bitsOf x (1024 * i) 1024, x / 2 ^ (1024 * (m / 128)), m % 128)

/-- Outcome of one unit: it moves, an interlock holds it (R167, R168), or the core's engines stop on a bruised granule. -/
inductive UnitRes where
  | moved (s : State) (p : Prog)
  | held
  | bruised (addr : Nat)

/-- Unit `p.idx` of a receive-queue read in slot `u` (R171, R200, R201, R209). -/
def rqUnit (s : State) (c : CoreId) (p : Prog) (u : Nat) : UnitRes :=
  let core := coreAt s (ckey c)
  let need := if p.kind = 2 then 2 else 1
  if readable core u < need then .held
  else
    let f0 := core.recvq.headD { data := 0 }
    let f1 := (core.recvq.drop 1).headD { data := 0 }
    let v := f0.data.toNat
    let rd := fun n o => bitsOf v (8 * (o - 128 * p.idx)) (8 * n)
    let br := fun o => bitOf (flitMask f0) ((o - 128 * p.idx) / 64)
    let lo := 128 * p.idx
    let hi := min p.total (lo + 128)
    let g : Core → Core :=
      if p.kind = 0 then actBytes p.first (lclsSize (bitsOf p.w.toNat 62 2)) p.total lo hi (rd 32) br
      else if p.kind = 1 then sideBytes p.first p.total lo hi (rd 4) br
      else vldWrite p p.idx u (v + f1.data.toNat * 2 ^ 1024) (flitMask f0 + 4 * flitMask f1)
    .moved (modCore s (ckey c) fun x => g (dropRecv need x)) p

/-- A DRN row in slot `u` (R113, R114, R206). -/
def drnUnit (s : State) (c : CoreId) (p : Prog) (u : Nat) : UnitRes :=
  let k := ckey c
  let core := coreAt s k
  let row := p.first + p.idx
  let w := p.w.toNat
  if pendingRow core row then .held
  else if rowBruised core row then .bruised 0
  else
    let lanes := laneCount core
    let bits := fmtBits p.dcfg.fmt.toNat
    let l := (List.range lanes).map fun j => drnEntry p lanes p.idx j (tabGet {} core.acc (64 * row + j))
    let fl := orFlags (l.map (·.2)) ||| p.flags
    let v := packLanes bits (l.map (·.1))
    let n := lanes * bits / 8
    let s := if p.dcfg.clr then modCore s k fun x => { x with acc := tabClear (64 * row) 64 x.acc } else s
    match bitsOf w 40 2 with
    | 0 =>
      .moved (countAct (putDie s c { due := u + 16, oda := p.oda + n * p.idx, n := n, v := v }) c.fld actSram ((n + 127) / 128))
        { p with flags := fl }
    | dst =>
      let (fs, buf, blen) := gather p.buf p.blen v n
      let last := p.idx + 1 == p.n
      let fs := if last && blen != 0 then fs ++ [buf] else fs
      let at0 := u + 16 - (fs.length - 1) / 2
      let out := fs.zipIdx.map fun f => (at0 + f.2 / 2, mkFlit f.1 0)
      .moved (toDest dst k (bitsOf w 42 3) out s) { p with flags := fl, buf := if last then 0 else buf, blen := if last then 0 else blen }

/-- Destination of the units: 0 memory or a buffer, 1 the send queue, 2 the bunch exchange. -/
def progDst (p : Prog) : Nat :=
  if p.kind = 3 then bitsOf p.w.toNat 37 2 else if p.kind = 4 then bitsOf p.w.toNat 40 2
  else if p.kind = 5 then bitsOf p.w.toNat 51 2 else if p.kind = 9 then bitsOf p.w.toNat 58 2 else if p.kind = 11 then 1 else 0

/-- Core of the exchange to which DSND, SSEND send. -/
def progTo (p : Prog) : Nat := if p.kind = 5 then bitsOf p.w.toNat 53 3 else bitsOf p.w.toNat 60 3

/-- A whole register or flit gathered by unit `i` of a read in slot `u`: VLD writes its register (R209), DSND and SSEND their flit (R207, R217),
STRM its request with OP in bits [1:0] (R261). -/
def readItem (s : State) (c : CoreId) (p : Prog) (u v br : Nat) : State :=
  let k := ckey c
  if p.kind = 2 then modCore s k (vldWrite p p.item u v br)
  else if p.kind = 11 then
    toSendQueue k [(u + 2, { mkFlit (v / 4 * 4 + bitsOf p.w.toNat 58 2) 0 with src := k + 1 })] s
  else toDest (progDst p) k (progTo p) [(u + 2, mkFlit v br)] s

/-- Bytes that a gathering read makes one item of. -/
def itemSize (p : Prog) : Nat := if p.kind = 2 then 256 else 128

/-- Unit of VLD, DSND, SSEND or STRM in slot `u`: its bytes join those gathered, and complete at most one register or flit (R233); a
bruised granule is carried, or consumed by STRM (R357). -/
def gatherUnit (s : State) (c : CoreId) (p : Prog) (u : Nat) : UnitRes :=
  let (lo, hi) := unitRange p p.idx
  let a := p.oda + lo
  let g := (hi - lo) / 64
  let m := brMask s.mem.dieBr (a / 64) g
  if p.kind = 11 ∧ m ≠ 0 then
    .bruised (64 * (((List.range g).find? fun n => bitOf m n).getD 0 + a / 64))
  else
    let s' := countAct s c.fld actSram ((hi - lo + 127) / 128)
    let v := p.buf + dieRead s a (hi - lo) * 2 ^ (8 * p.blen)
    let br := p.bbr + m * 2 ^ (p.blen / 64)
    let n := p.blen + (hi - lo)
    let sz := itemSize p
    if n < sz then .moved s' { p with buf := v, bbr := br, blen := n }
    else
      .moved (readItem s' c p u (bitsOf v 0 (8 * sz)) (bitsOf br 0 (sz / 64)))
        { p with buf := v / 2 ^ (8 * sz), bbr := br / 2 ^ (sz / 64), blen := n - sz, item := p.item + 1 }

/-- The registers from `first` on as one number, bytes [lo, hi) of it, and their bruise bits. -/
def vregBytes (c : Core) (first lo hi : Nat) : Nat × Nat :=
  let r := first + lo / 256
  let v := vregOf c r + vregOf c (r + 1) * 2 ^ 2048
  let b := vbrOf c r + vbrOf c (r + 1) * 16
  (bitsOf v (8 * (lo % 256)) (8 * (hi - lo)), bitsOf b (lo % 256 / 64) ((hi - lo) / 64))

/-- Scalar word access in slot `u`: LD writes its register, readable four slots later; ST stores the data register as it stood at issue; a
CADD adds it to memory in its completion slot (R147, R150, R217). LD and CADD consume a bruised granule (R357). -/
def wordUnit (s : State) (c : CoreId) (p : Prog) (u : Nat) : UnitRes :=
  if p.kind ≠ 7 ∧ dieBruised s p.oda 8 then .bruised (p.oda / 64 * 64)
  else
    let s := countAct s c.fld actSram (if p.kind = 8 then 2 else 1)
    if p.kind = 6 then .moved (xPut (ckey c) p.first (dieRead s p.oda 8) (u + 4) s) p
    else if p.kind = 7 then .moved (putDie s c { due := u, oda := p.oda, n := 8, v := p.buf }) p
    else .moved (putDie s c { due := u + 3, oda := p.oda, n := 8, v := p.buf, add := true }) p

/-- SRECV in slot `u`: the oldest readable flit of the receive queue is taken in the first unit, and its bytes go to memory block by block
with their bruise bits (R171, R217, R357); with none there the engine is held (R167). -/
def recvUnit (s : State) (c : CoreId) (p : Prog) (u : Nat) : UnitRes :=
  let k := ckey c
  if p.idx = 0 ∧ readable (coreAt s k) u = 0 then .held
  else
    let f := (coreAt s k).recvq.headD { data := 0 }
    let p := if p.idx = 0 then { p with buf := f.data.toNat, bbr := flitMask f } else p
    let s := if p.idx = 0 then modCore s k (dropRecv 1) else s
    let (lo, hi) := unitRange p p.idx
    .moved (countAct (putDie s c
      { due := u, oda := p.oda + lo, n := hi - lo, v := bitsOf p.buf (8 * lo) (8 * (hi - lo)),
        mask := some (bitsOf p.bbr (lo / 64) ((hi - lo) / 64)) }) c.fld actSram 1) p

/-- DFLG and SFLG in slot `u`: the status slot as it stood at the start of the slot is stored, and cleared where the word says so (R193, R208,
R209). `first` names the engine of the slot and `item` the slot. -/
def flagUnit (s : State) (c : CoreId) (p : Prog) (u : Nat) : UnitRes :=
  let e := engineOf p.first
  let v := slotGet (taskOf (coreAt s (ckey c)) e) p.item
  let clr := if p.first = engCode .vec then bitOf p.w.toNat 43 else bitOf p.w.toNat 44
  let s := if clr then modCore s (ckey c) fun x => modTask x e fun t => slotClear t p.item else s
  .moved (countAct (putDie s c { due := u, oda := p.oda, n := 8, v := v }) c.fld actSram 1) p

/-- One unit in slot `u`. -/
def oneUnit (s : State) (c : CoreId) (p : Prog) (u : Nat) : UnitRes :=
  if p.rq then rqUnit s c p u
  else
    let k := ckey c
    let w := p.w.toNat
    let (lo, hi) := unitRange p p.idx
    match p.kind with
    | 0 =>
      .moved (countAct (modCore s k (actBytes p.first (lclsSize (bitsOf w 62 2)) p.total lo hi
        (fun o => dieRead s (p.oda + o) 32) (fun o => tabGet false s.mem.dieBr ((p.oda + o) / 64)))) c.fld actSram 1) p
    | 1 =>
      .moved (countAct (modCore s k (sideBytes p.first p.total lo hi
        (fun o => dieRead s (p.oda + o) 4) (fun o => tabGet false s.mem.dieBr ((p.oda + o) / 64)))) c.fld actSram 1) p
    | 3 =>
      let core := coreAt s k
      match bitsOf w 37 2 with
      | 0 =>
        let (v, m) := vregBytes core p.first lo hi
        .moved (countAct (putDie s c { due := u, oda := p.oda + lo, n := hi - lo, v := v, mask := some m }) c.fld actSram ((hi - lo + 127) / 128)) p
      | dst =>
        let v := vregOf core (p.first + p.idx)
        let m := vbrOf core (p.first + p.idx)
        .moved (toDest dst k (bitsOf w 39 3)
          [(u + 3, mkFlit v m), (u + 3, mkFlit (v / 2 ^ 1024) (m / 4))] s) p
    | 4 => drnUnit s c p u
    | 6 => wordUnit s c p u
    | 7 => wordUnit s c p u
    | 8 => wordUnit s c p u
    | 10 => recvUnit s c p u
    | 12 => flagUnit s c p u
    | _ => gatherUnit s c p u

/-- On-die bytes that unit `p.idx` reads, first byte and length: LACT, LSCL, VLD, DSND, SSEND and STRM their part, LD and CADD their word. -/
def unitReads (p : Prog) : Option (Nat × Nat) :=
  if p.rq then none
  else if p.kind = 6 ∨ p.kind = 8 then some (p.oda, 8)
  else if [3, 4, 7, 10, 12].contains p.kind then none
  else some (p.oda + (unitRange p p.idx).1, (unitRange p p.idx).2 - (unitRange p p.idx).1)

/-- The read that unit `p.idx` makes, as its memory finds it (R242). -/
def unitNote (s : State) (c : CoreId) (p : Prog) : State :=
  match unitReads p with
  | some r => noteRead s c.fld r.1 r.2
  | none => s

/-- The last unit has moved in slot `u`: the instruction stands in flight until `lat` slots later, and the engine may
issue again when its occupancy ends (R166, R195). -/
def endUnits (s : State) (c : CoreId) (e : Engine) (p : Prog) (u : Nat) : State :=
  modCore s (ckey c) fun x =>
    modTask { x with prog := tabPut none (engCode e) none x.prog } e fun t =>
      { t with
        ready := u + (if p.slots = [] then p.step else 1)
        flights := t.flights ++ [{ done := u + p.lat, onAccept := p.kind == 11, post := p.post, slot := p.dcfg.slot.toNat, flags := BitVec.ofNat 8 p.flags }] }

/-- A unit held by an interlock in slot `u`: it and every later unit move one slot later; the engagement is counted once. -/
def holdUnit (s : State) (c : CoreId) (e : Engine) (p : Prog) : State :=
  let p' := { p with t := p.t + 1, slots := p.slots.map (· + 1), held := true }
  modCore s (ckey c) fun x =>
    { x with prog := tabPut none (engCode e) (some p') x.prog, ilk := if p.held then x.ilk else x.ilk + 1 }

/-- Every unit of engine `e` that is due by slot `u` moves, in order. -/
def runUnits (c : CoreId) (e : Engine) (u : Nat) : Nat → State → State
  | 0, s => s
  | n + 1, s =>
    match tabGet none (coreAt s (ckey c)).prog (engCode e) with
    | none => s
    | some p =>
      if u < unitSlot p p.idx then s
      else
        match oneUnit (unitNote s c p) c p u with
        | .held => holdUnit s c e p
        | .bruised a => coreFault (unitNote s c p) c e evBruise a (opcOf p.w.toNat)
        | .moved s' p' =>
          let p' := { p' with idx := p'.idx + 1, held := false }
          if p'.n ≤ p'.idx then endUnits s' c e p' u
          else
            runUnits c e u n (modCore s' (ckey c) fun x => { x with prog := tabPut none (engCode e) (some p') x.prog })

/-- A unit-by-unit instruction that has issued begins: the unit due in slot `t` moves at once. -/
def startUnits (i : Iss) (p : Prog) (g : Task → Task) : Res :=
  let p := { p with post := BitVec.ofNat 16 (postMask i.task.masks i.w), w := BitVec.ofNat 64 i.w, t := i.t }
  let s := modCore i.s i.k fun c =>
    modTask { c with prog := tabPut none (engCode i.e) (some p) c.prog } i.e g
  .go (runUnits i.c i.e i.t 1 s) { next := i.t + 1, fin := i.t, inFlight := false }

/-- The units of an access of `n` units at ODA `oda`: those of core memory, or one for each 128-byte block of shared memory with its slot
on the wheel; `none` where the wheel never serves the engine (R233). -/
def accessUnits (i : Iss) (oda bytes n : Nat) : Option (Nat × List Nat) :=
  match accessSlots i.s i.c i.e i.t oda bytes with
  | none => some (n, [])
  | some none => none
  | some (some l) => some (l.length, l)

/-- A unit-by-unit instruction on `bytes` bytes at offset `o` of window `win`: the window check, the wheel, then its units. -/
def placeUnits (i : Iss) (win o bytes n : Nat) (r : Right) (p : Prog) (g : Task → Task) : Res :=
  match dieAccess i.s i.c (winOf i.task win) r o bytes with
  | none => winFault win o
  | some oda =>
    match accessUnits i oda bytes n with
    | none => .never
    | some (n', slots) => startUnits i { p with oda := oda, total := bytes, n := n', slots := slots } g

/-- The same on the memory operand at bit `b`. -/
def memUnits (i : Iss) (b bytes n : Nat) (r : Right) (needCore : Bool) (p : Prog) : Res :=
  let m := memOp i.w b
  if needCore && !coreWin i.task m.win then winFault m.win (memOffset i.task m)
  else placeUnits i m.win (memOffset i.task m) bytes n r p (memIncr m)

end Sys2Proof.Machine
end

