-- ==== Sys2Proof/Machine/Tiles.lean ====
section
/-! DEFINITION. Stream descriptors (09 R257 to R259), and compress-on-store: the tiles and the directory that a PUTZ writes
(09 R282, 10 R287 to R297). -/

namespace Sys2Proof.Machine

/-! ## Descriptor fields (R257) -/

def dOp (d : Nat) : Nat := bitsOf d 0 8
def dLayout (d : Nat) : Nat := bitsOf d 8 8
def dEclass (d : Nat) : Nat := bitsOf d 16 2
def dRel (d : Nat) : Bool := bitOf d 18
def dLast (d : Nat) : Bool := bitOf d 19
def dFmt (d : Nat) : Nat := bitsOf d 20 4
/-- Row length in granules, and number of rows. -/
def dRowg (d : Nat) : Nat := bitsOf d 32 16 + 1
def dRows (d : Nat) : Nat := bitsOf d 48 16 + 1
def dFar (d : Nat) : Nat := bitsOf d 64 57
def dNear (d : Nat) : Nat := bitsOf d 128 40
def dFstr (d : Nat) : Int := sextNat (bitsOf d 192 32) 32
def dNstr (d : Nat) : Int := sextNat (bitsOf d 224 32) 32
def dStart (d : Nat) : Nat := bitsOf d 256 32
def dDue (d : Nat) : Nat := bitsOf d 288 32
def dTag (d : Nat) : Nat := bitsOf d 448 32
def dDir (d : Nat) : Nat := bitsOf d 320 57
def dCrc (d : Nat) : Nat := bitsOf d 480 32

/-- Element width and elements per skew step of ECLASS, and bytes of its line (R105, R200, R259). -/
def skewBits (d : Nat) : Nat := if dEclass d = 0 then 4 else if dEclass d = 1 then 6 else if dEclass d = 2 then 8 else 16
def skewStep (d : Nat) : Nat := if dEclass d ≤ 1 then 2 else 1
def skewLine (d : Nat) : Nat := if dEclass d = 1 then 96 else if dEclass d = 3 then 128 else 64

/-- Reserved fields are zero, and OP and LAYOUT hold values that the table gives (R257). -/
def dFieldsOk (d : Nat) : Bool :=
  decide (1 ≤ dOp d ∧ dOp d ≤ 3) && decide (dLayout d ≤ 1) && zb d 24 8 && zb d 121 7 && zb d 168 24 && zb d 377 7 && zb d 384 64 &&
    (if dOp d = 3 then decide (1 ≤ dFmt d ∧ dFmt d ≤ 12) && dLayout d == 0 else dFmt d == 0 && dDir d == 0) &&
    (if dLayout d = 1 then zb d 32 16 && zb d 192 64 && dRows d * skewLine d % 4096 == 0 else zb d 16 2)

/-- A valid descriptor (R258, R259): `far` is FAR with its base, `before` the DUE of the one before it. -/
def descOk (d far before : Nat) : Bool :=
  dCrc d == crc32c 60 d && dFieldsOk d && decide (dStart d ≤ dDue d) && decide (before ≤ dDue d) && far % 4096 == 0 &&
    (dLayout d == 1 || (dRowg d % 64 == 0 && dFstr d % 64 == 0)) && (dOp d != 3 || dDir d % 4096 == 0)

/-! ## Tiles of a PUTZ -/

/-- Bytes of a dense tile of format `c` without header (R290). -/
def denseSize (c : Nat) : Nat := 512 * fmtBits c + (if fmtMX c then 128 else 0)

/-- A dense source tile: its scale array and its element encodings by position. -/
structure SrcTile where
  scales : Nat
  elems : Nat

/-- Source tile in its bytes: the scale array of an MX tile, then the elements in position order (R282, R288, R290; log 19). -/
def srcTile (c v : Nat) : SrcTile :=
  if fmtMX c then { scales := v % 2 ^ 1024, elems := v / 2 ^ 1024 % 2 ^ (4096 * fmtBits c) }
  else { scales := 0, elems := v % 2 ^ (4096 * fmtBits c) }

/-- Element `p` of a tile. -/
def srcElem (c : Nat) (t : SrcTile) (p : Nat) : Nat := bitsOf t.elems (p * fmtBits c) (fmtBits c)

/-- Positions of a tile's nonzero encodings, rising (R287, R288). -/
def srcStored (c : Nat) (t : SrcTile) : List Nat := (List.range 4096).filter fun p => srcElem c t p != 0

/-- The items of a list packed as a little-endian bit string, `w` bits each (R288). -/
def packBits (w : Nat) : List Nat → Nat
  | [] => 0
  | x :: t => x + 2 ^ w * packBits w t

/-- ⌈a ÷ b⌉. -/
def ceilDiv (a b : Nat) : Nat := (a + b - 1) / b

/-- SIZE of the three forms for `nnz` stored elements (R290). -/
def sizeDense (c : Nat) : Nat := 32 + denseSize c
def sizeBitmap (c nnz : Nat) : Nat := 32 + (if fmtMX c then 128 else 0) + 512 + ceilDiv (nnz * fmtBits c) 8
def sizeIndex (c nnz : Nat) : Nat := 32 + (if fmtMX c then 128 else 0) + ceilDiv (3 * nnz) 2 + ceilDiv (nnz * fmtBits c) 8

/-- The form that the encoder writes: the smallest, DENSE and then BITMAP on a tie (R282, R293). -/
def formOf (c nnz : Nat) : Nat :=
  let d := sizeDense c; let b := sizeBitmap c nnz; let i := sizeIndex c nnz
  if d ≤ b ∧ d ≤ i then 0 else if b ≤ i then 1 else 2

/-- An encoded tile: its form, its NNZ, its bytes as a number, its SIZE, and its bruised granules. -/
structure EncTile where
  form : Nat
  nnz : Nat
  bytes : Nat
  size : Nat
  br : List Nat := []

/-- TSCALE of a tile: 0x7F for FP4 and INT8, 0 for MX and 16-bit formats; the descriptor gives none for the FP8 formats (R289;
log 19). -/
def tileScale (c desc n : Nat) : Nat :=
  if c = 8 ∨ c = 9 then bitsOf (Config.putzHeader desc n).toNat 0 8 else if c = 1 ∨ c = 10 then 0x7F else 0

/-- The header of an encoded tile (R289); SAXIS of an MX tile and TILE are not in the descriptor (log 19). -/
def encHeader (c desc n form nnz size : Nat) : Nat :=
  let h := (Config.putzHeader desc n).toNat
  let saxis := if fmtMX c then bitsOf h 8 1 else 0
  form + 2 ^ 8 * c + 2 ^ 16 * saxis + 2 ^ 24 * tileScale c desc n + 2 ^ 32 * (if form = 0 then 4096 else nnz) + 2 ^ 64 * size +
    (if form = 0 then 2 ^ 96 * (32 + (if fmtMX c then 128 else 0)) + 2 ^ 128 * (8 * fmtBits c) else 0) + 2 ^ 160 * bitsOf h 32 32

/-- Tile `n` of a PUTZ encoded (R282, R290, R293). With a bruised source granule it is DENSE, and every stored granule that holds
a byte of one is bruised (R357). -/
def encodeTile (c desc n v : Nat) (bruised : List Nat) : EncTile :=
  let t := srcTile c v
  let sc := if fmtMX c then 128 else 0
  let pos := srcStored c t
  let form := if bruised.isEmpty then formOf c pos.length else 0
  let size := if form = 0 then sizeDense c else if form = 1 then sizeBitmap c pos.length else sizeIndex c pos.length
  let payload :=
    if form = 0 then t.elems
    else
      let vals := packBits (fmtBits c) (pos.map (srcElem c t))
      if form = 1 then pos.foldl (fun b p => b + 2 ^ p) 0 + 2 ^ 4096 * vals
      else packBits 12 pos + 2 ^ (8 * ceilDiv (3 * pos.length) 2) * vals
  { form := form, nnz := if form = 0 then 4096 else pos.length, size := size
    bytes := encHeader c desc n form pos.length size + 2 ^ 256 * (t.scales + 2 ^ (8 * sc) * payload)
    br := (bruised.flatMap fun g => [(64 * g + 32) / 64, (64 * g + 95) / 64]).dedup.filter fun g => decide (64 * g < size) }

/-- The region of a PUTZ, padded to 4 KiB: tiles back to back, each from a 64-byte boundary (R282, R294); its bytes, its length,
its bruised granules and its directory (R297). -/
structure Region where
  bytes : Nat := 0
  len : Nat := 0
  br : List Nat := []
  dir : Nat := 0
  n : Nat := 0

/-- The region with one more tile. -/
def addTile (c : Nat) (r : Region) (t : EncTile) : Region :=
  { bytes := r.bytes + 2 ^ (8 * r.len) * t.bytes
    len := r.len + ceilDiv t.size 64 * 64
    br := r.br ++ t.br.map (· + r.len / 64)
    dir := r.dir + 2 ^ (128 * r.n) *
      (r.len + 2 ^ 40 * t.size + 2 ^ 54 * t.form + 2 ^ 56 * c + 2 ^ 64 * t.nnz + 2 ^ 96 * crc32c t.size t.bytes)
    n := r.n + 1 }

end Sys2Proof.Machine
end

