-- ==== Sys2Proof/Machine/Matrix.lean ====
section
/-! DEFINITION. The matrix core's instructions (04, 07 R200 to R208): activation fills, stationary loads with the tile
forms of R288 to R296, array passes, and the drain. -/

namespace Sys2Proof.Machine

/-! ## LOAD -/

/-- First line or entry: (LINE + a[LA]) modulo the count (R200, R201). -/
def lineField (i : Iss) (count : Nat) : Nat := (bitsOf i.w 40 10 + aregGet i.task (bitsOf i.w 50 3)) % count

/-- LACT (R200). -/
def effLact (i : Iss) : Res :=
  let size := lclsSize (bitsOf i.w 62 2)
  let total := (bitsOf i.w 53 9 + 1) * size
  let n := (total + 127) / 128
  let p : Prog := { kind := 0, w := 0, total := total, n := n, t := i.t, first := lineField i (lineCountOf size), lat := 3 }
  if bitOf i.w 39 then startUnits i { p with rq := true } id else memUnits i 19 total n .rd false p

/-- LSCL (R201). -/
def effLscl (i : Iss) : Res :=
  let total := 4 * (bitsOf i.w 53 9 + 1)
  let n := (total + 127) / 128
  let p : Prog := { kind := 1, w := 0, total := total, n := n, t := i.t, first := lineField i 1024, lat := 3 }
  if bitOf i.w 39 then startUnits i { p with rq := true } id else memUnits i 19 total n .rd false p

/-- A tile header (R289), read from its 32 bytes. -/
structure TileHdr where
  form : Nat
  fmt : Nat
  flags : Nat
  tscale : Nat
  nnz : Nat
  size : Nat
  roff : Int
  pitch : Nat
  resOk : Bool
  deriving DecidableEq, Repr

/-- The header in its 32 bytes (R289). -/
def tileHdr (x : Nat) : TileHdr :=
  { form := bitsOf x 0 8, fmt := bitsOf x 8 8, flags := bitsOf x 16 8, tscale := bitsOf x 24 8, nnz := bitsOf x 32 16,
    size := bitsOf x 64 32, roff := sextNat (bitsOf x 96 32) 32, pitch := bitsOf x 128 32,
    resOk := zb x 48 16 && zb x 192 64 }

/-- Bytes of the scale array (R290). -/
def tileS (h : TileHdr) : Nat := if fmtMX h.fmt then 128 else 0

/-- A pitched DENSE tile (R292). -/
def tilePitched (h : TileHdr) : Bool :=
  h.form == 0 && (decide (h.roff ≠ 32 + tileS h) || h.pitch != 8 * fmtBits h.fmt)

/-- SIZE as R290 gives it. -/
def tileSize (h : TileHdr) : Nat :=
  let w := fmtBits h.fmt
  let val := (h.nnz * w + 7) / 8
  match h.form with
  | 0 => if tilePitched h then 32 else 32 + tileS h + 512 * w
  | 1 => 32 + tileS h + 512 + val
  | _ => 32 + tileS h + (3 * h.nnz + 1) / 2 + val

/-- The header checks of R296 for a load of format `wfmt` with transposition `tr`. ROFF and PITCH are reserved fields
outside DENSE (R289). -/
def tileHdrOk (h : TileHdr) (wfmt : Nat) (tr : Bool) : Bool :=
  decide (h.form ≤ 2) && decide (h.flags ≤ 1) && h.resOk && h.fmt == wfmt &&
  (if fmtMX wfmt then h.flags == b2n tr else h.flags == 0) &&
  (h.form == 0 || (decide (h.roff = 0) && h.pitch == 0)) &&
  (!tilePitched h || (!fmtMX wfmt && h.pitch % 64 == 0)) &&
  decide (h.nnz ≤ 4096) && (h.form != 0 || h.nnz == 4096) && h.size == tileSize h

/-- First and last + 1 byte of the tile, relative to its header: the rows of a pitched tile lie anywhere (R292). -/
def tileExtent (h : TileHdr) : Int × Int :=
  if tilePitched h then
    let w := 8 * (fmtBits h.fmt : Int)
    (min 0 h.roff, max 32 (h.roff + 63 * h.pitch + w))
  else (0, h.size)

/-- Stored positions and the places of their values in the value area, with the expansion checks of R296. -/
structure TileMap where
  /-- Value index of each stored position. -/
  pos : Tab Nat
  ok : Bool

/-- Positions set in a bitmap, from position p on. -/
def bitmapPos (bm : Nat) : Nat → Nat → Nat → List (Nat × Nat)
  | 0, _, _ => []
  | n + 1, p, i => if bitOf bm p then (p, i) :: bitmapPos bm n (p + 1) (i + 1) else bitmapPos bm n (p + 1) i

/-- Indices of an INDEX tile, with whether they rise strictly. -/
def indexPos (x n : Nat) : TileMap :=
  let l := (List.range n).map fun i => bitsOf x (12 * i) 12
  { pos := l.zipIdx, ok := decide (l.Pairwise (· < ·)) }

/-- The map of a sparse tile from its payload (R290, R296). -/
def tileMap (h : TileHdr) (payload : Nat) : TileMap :=
  if h.form = 1 then
    let l := bitmapPos payload 4096 0 0
    { pos := l, ok := l.length == h.nnz }
  else indexPos payload h.nnz

/-- Element encodings of a tile by position 64a + b (R287, R288, R290); `rd` reads n bytes at an offset from the header. -/
def tileElems (h : TileHdr) (rd : Int → Nat → Nat) : (Nat → Nat) × Bool :=
  let w := fmtBits h.fmt
  if h.form = 0 then
    (fun p => bitsOf (rd (h.roff + (p / 64 : Nat) * h.pitch) (8 * w)) (w * (p % 64)) w, true)
  else
    let area := if h.form = 1 then 512 else (3 * h.nnz + 1) / 2
    let m := tileMap h (rd (32 + tileS h) area)
    let vals := rd (32 + tileS h + area) ((h.nnz * w + 7) / 8)
    -- an index list that does not rise may name a position twice: the load is invalid whatever it writes
    (fun p => match m.pos.find? (fun e => e.1 == p) with
      | some e => bitsOf vals (w * e.2) w
      | none => 0, m.ok)

/-- A finite element in units of its format's smallest magnitude, or significand (R117, R119); 0 for NaN and infinity. -/
def unitInt (c x : Nat) : Int :=
  match decodeNum c x with
  | .fin neg m e =>
    if fmtBits c = 16 then (if neg then -(m : Int) else m)
    else intAt neg m e (if fmtInt c then fmtUnit c else fmtEmin c - fmtMant c)
  | _ => 0

/-- Check weight of element row k: Σⱼ wt(j) × w[k][j] over the lanes in service, modulo 255 for 16-bit formats (R117, R119). -/
def checkWeight (c lanes : Nat) (el : Nat → Nat) (wt : Nat → Int) : Int :=
  let z := (List.range lanes).foldl (fun s j => s + wt j * unitInt c (el j)) 0
  if fmtBits c = 16 then z % 255 else z

/-- The element of the stationary set at reduction row k and lane j from tiles `t0` and `t1` (R202, 10): T[j][k], or
T[k][j] where TR is 1. -/
def cellElem (tr : Bool) (t0 t1 : Nat → Nat) (k j : Nat) : Nat :=
  let t := if k < 64 then t0 else t1
  if tr then t (64 * (k % 64) + j) else t (64 * j + k % 64)

/-- FORMAT_FAULT of a core (R202, R204, R296). -/
def formatFault (i : Iss) : Res := .fault evFormat 0 (Config.detailOf evFormat [i.task.pc.toNat]).toNat

/-- The two tiles of a 4-bit or 6-bit load, the one tile of another (R104, R202). -/
def twoTiles (fmt : Nat) : Bool := decide (fmtBits fmt ≤ 6)

/-- Offset of the second tile: the first 64-byte boundary after the first (R202). -/
def secondTile (off : Nat) (h0 : TileHdr) : Nat := (off + h0.size + 63) / 64 * 64

/-- The header of the tile at offset `o` of a source, as memory stands (R289); `cb` is the first byte of the core's memory. -/
def srcHdr (s : State) (cb : Nat) (x : StatSrc) (o : Nat) : TileHdr := tileHdr (dieRead s (cb + x.base + o) 32)

/-- Headers and offsets of the tiles of a source (R202). -/
def srcTiles (s : State) (cb : Nat) (x : StatSrc) : List (Nat × TileHdr) :=
  let h0 := srcHdr s cb x x.off
  let o1 := secondTile x.off h0
  if twoTiles x.fmt then [(x.off, h0), (o1, srcHdr s cb x o1)] else [(x.off, h0)]

/-- `n` bytes at offset `d` from the header of the tile at offset `o` of a source. -/
def srcRead (s : State) (cb : Nat) (x : StatSrc) (o : Nat) (d : Int) (n : Nat) : Nat := dieRead s (((cb + x.base + o : Nat) : Int) + d).toNat n

/-- Some granule of the extent of a source's tiles is bruised (R125). -/
def srcBruisedNow (s : State) (cb : Nat) (x : StatSrc) : Bool :=
  (srcTiles s cb x).any fun t =>
    let (lo, hi) := tileExtent t.2
    dieBruised s (((cb + x.base + t.1 : Nat) : Int) + lo).toNat (hi - lo).toNat

/-- Block scale of block `b` of lane `j` of a source (R109, R289, R290). DESIGN CHOICE (log 174): the stored byte is applied, of FP4 and INT8 too. -/
def srcScale (s : State) (cb : Nat) (x : StatSrc) (j b : Nat) : Nat :=
  match (srcTiles s cb x)[b / 2]? with
  | none => 0
  | some (o, h) =>
    if fmtMX x.fmt then srcRead s cb x o (32 + 2 * (j : Int) + (b % 2 : Nat)) 1
    else if fmtBits x.fmt = 16 then 127 else h.tscale

/-- Row `r` of a stationary load, written in its slot from the source as it stands then (R108, R109, R116, R117): the elements of the row's
reduction elements, their block scales and check weights, and the row's part of the zero-block map. The first row begins a new set. -/
def loadRow (s : State) (cb : Nat) (core : Core) (x : StatSrc) (t r : Nat) : StatSet :=
  let lanes := laneCount core
  let per := if twoTiles x.fmt then 2 else 1
  let tiles := srcTiles s cb x
  let es := tiles.map fun y => tileElems y.2 (srcRead s cb x y.1)
  let el := fun (k j : Nat) =>
    cellElem x.tr ((es.headD (fun _ => 0, true)).1) (((es.drop 1).headD (fun _ => 0, true)).1) k j
  let zero0 := (List.range 64).filter fun b => decide (8 * (b % 8) < lanes)
  let set : StatSet :=
    if r = 0 then
      { fmt := BitVec.ofNat 4 x.fmt, valid := true, elts := [], scales := [], c0 := [], c1 := [], zero := zero0, bruised := false, src := x,
        done := t + 63 }
    else core.stat.getD { fmt := BitVec.ofNat 4 x.fmt, valid := true, elts := [], scales := [], c0 := [], c1 := [], zero := zero0,
                          bruised := false, src := x, done := t + 63 }
  let rows := (List.range per).map (per * r + ·)
  let isZero := fun (k j : Nat) => el k j % 2 ^ (fmtBits x.fmt - if fmtInt x.fmt then 0 else 1) == 0
  let b := per * r / 32
  { set with
    valid := set.valid && es.all (·.2)
    elts := rows.foldl (fun m k => (List.range lanes).foldl (fun m j => tabPut 0 (64 * k + j) (BitVec.ofNat 16 (el k j)) m) m) set.elts
    scales := (List.range lanes).foldl (fun m j => tabPut 0 (4 * j + b) (BitVec.ofNat 8 (srcScale s cb x j b)) m) set.scales
    c0 := rows.foldl (fun m k => tabPut 0 k (checkWeight x.fmt lanes (el k) fun _ => 1) m) set.c0
    c1 := rows.foldl (fun m k => tabPut 0 k (checkWeight x.fmt lanes (el k) fun j => (j : Int) + 1) m) set.c1
    zero := set.zero.filter fun z => decide (z / 8 ≠ r / 8) || rows.all fun k => (List.range 8).all fun j => isZero k (8 * (z % 8) + j)
    bruised := set.bruised || srcBruisedNow s cb x }

/-- The granules of the tiles of a source that row `r` of its load reads, as their memory finds them: the load reads the extent in 64 equal
parts, one a slot (R108, R224, R242). -/
def noteLoad (s : State) (k : Nat) (x : StatSrc) (r : Nat) : State :=
  let gs := (srcTiles s (keyBase k) x).flatMap fun t =>
    let (lo, hi) := tileExtent t.2
    granulesOf (((keyBase k + x.base + t.1 : Nat) : Int) + lo).toNat (hi - lo).toNat
  (gs.zipIdx.filter fun g => g.2 * 64 / gs.length == r).foldl (fun s g => noteRead s (Fin.ofNat 36 (k / 288)) (64 * g.1) 64) s

/-- The stationary loads of a core that are due write their row in slot `t`; the one that writes row 63 is complete, and is the set of
the pass for whose replay it was repeated (R108, R121, R132). -/
def loadStep (s : State) (t k : Nat) : State :=
  match (coreAt s k).loads with
  | [] => s
  | l :: rest =>
    if t < l.t + l.row then s
    else
      let set := loadRow s (keyBase k) (coreAt s k) l.src l.t l.row
      let s := noteLoad s k l.src l.row
      let s := countAct s (k / 288) actSram 1
      modCore s k fun c =>
        let c := { c with stat := some set }
        if l.row < 63 then { c with loads := { l with row := l.row + 1 } :: rest }
        else
          { c with
            loads := rest, lastStat := some l.src
            passes := c.passes.map fun p => if l.pass = p.num + 1 then { p with stat := set } else p }

/-- First slot after the stationary loads of a core that are in progress or to come. -/
def loadsEnd (c : Core) : Nat := c.loads.foldl (fun m l => max m (l.t + 64)) 0

/-- LSTAT: the stationary load of R108 to R110, R202 and R296. Its headers and its extent are checked at issue; its rows follow, one a
slot. It waits for the last entry of the pass before, and through a replay (R110, R121, R167). DESIGN CHOICE (log 174): a TSCALE byte other than
0x7F of an FP4 or INT8 tile is no fault, and is applied. -/
def effLstat (i : Iss) : Res :=
  let core := i.core
  let w := i.w
  let wfmt := bitsOf w 39 4
  let tr := bitOf w 43
  let m := memOp w 19
  let o := memOffset i.task m
  let win := winOf i.task m.win
  let two := twoTiles wfmt
  if i.t < core.entered then .holdTo core.entered
  else if core.replay ≠ 0 then .hold
  else if !core.loads.isEmpty then .holdTo (max (i.t + 1) (loadsEnd core))
  else if !coreWin i.task m.win then winFault m.win o
  else
    match dieAccess i.s i.c win .rd o 32 with
    | none => winFault m.win o
    | some oda0 =>
      let x : StatSrc := { base := oda0 - o - coreBase i.c, off := o, win := win, fmt := wfmt, tr := tr }
      let h0 := srcHdr i.s (coreBase i.c) x o
      let o1 := secondTile o h0
      let h1 := if two then srcHdr i.s (coreBase i.c) x o1 else h0
      -- the whole extent that the headers give, relative to the window (R202)
      let inWin := fun (at0 : Nat) (h : TileHdr) =>
        let (lo, hi) := tileExtent h
        decide (0 ≤ (at0 : Int) + lo) && (dieAccess i.s i.c win .rd ((at0 : Int) + lo).toNat (hi - lo).toNat).isSome
      if two && (dieAccess i.s i.c win .rd o1 32).isNone then winFault m.win o1
      else if !tileHdrOk h0 wfmt tr || (two && !tileHdrOk h1 wfmt tr) then formatFault i
      else if !inWin o h0 then winFault m.win o
      else if two && !inWin o1 h1 then winFault m.win o1
      else
        .go (modCore i.s i.k fun c => modTask { c with loads := c.loads ++ [{ src := x, t := i.t }] } i.e (memIncr m))
          { next := i.t + 64, fin := i.t + 63 }

/-! ## MAC -/

/-- MCFG (R203). -/
def effMcfg (i : Iss) : Res :=
  oneSlot i fun t => { t with afmt := BitVec.ofNat 4 (bitsOf i.w 19 4), mslot := BitVec.ofNat 4 (bitsOf i.w 23 4) }

/-- Formats that pair in one pass (R72): the same code, or E4M3 with E5M2 in one form. -/
def fmtPair (a b : Nat) : Bool :=
  a != 0 && (a == b || ([8, 9].contains a && [8, 9].contains b) || ([5, 6].contains a && [5, 6].contains b))

/-- The core spot-checks the pass: it has no check column, and the pass is the 256th, 512th, … of the task (R130). -/
def spotPass (c : Core) : Bool := checkColumns c == 0 && (c.spot + 1) % 256 == 0

/-- Some granule of activation line `l` of `size` bytes is bruised. -/
def lineBruised (c : Core) (size l : Nat) : Bool := (granulesOf (l * size) size).any fun g => tabGet false c.actBr g

/-- The line that pass `p` reads as its `n`-th, with the side entry of vector `n`, and their bruises (R105, R106). -/
def passLine (c : Core) (p : PassRun) (n : Nat) : BitVec 1024 × BitVec 32 × Bool :=
  let size := lineSize p.afmt
  let l := (p.base + n) % lineCountOf size
  let side := tabGet 0 c.side l
  (BitVec.ofNat 1024 (memRead c.act (l * size) size), side,
    lineBruised c size l || (decide (n < p.nv) && fmtBits p.afmt != 16 && tabGet false c.sideBr (l / 16)))

/-- PASS reads its next line (R105, R125). -/
def readLine (c : Core) (p : PassRun) : PassRun :=
  let x := passLine c p p.lines.length
  { p with lines := p.lines ++ [x.1], sides := if p.sides.length < p.nv then p.sides ++ [x.2.1] else p.sides }

/-- PASS (R111, R112, R115, R204). -/
def effPass (i : Iss) : Res :=
  let core := i.core
  let w := i.w
  let afmt := i.task.afmt.toNat
  if core.replay ≠ 0 then .hold
  else if !core.loads.isEmpty then .holdTo (max (i.t + 1) (loadsEnd core))
  else match core.stat with
  | none => formatFault i
  | some set =>
    if i.t ≤ set.done then .holdTo (set.done + 1)
    else if !fmtPair afmt set.fmt.toNat || !set.valid then formatFault i
    else
      let wide := decide (fmtBits afmt = 16)
      let nl := lineCountOf (lineSize afmt)
      let nv := bitsOf w 38 9 + 1
      let row := bitsOf w 19 9 + aregGet i.task (bitsOf w 56 3)
      let rows := if wide then 256 else 512
      if rows < row + nv ∨ nl < nv + 63 then .fault evRange 0 (Config.detailOf evRange [i.task.pc.toNat]).toNat
      else
        let spot := spotPass core
        let step := (if wide then 2 else 1) * (if spot then 2 else 1)
        let p : PassRun :=
          { num := core.spot, stat := set, afmt := afmt, anch := bitsOf w 48 8, ovw := bitOf w 47, slot := i.task.mslot.toNat,
            row := row, base := (bitsOf w 28 10 + aregGet i.task (bitsOf w 59 3)) % nl, nv := nv, t := i.t, step := step,
            spot := spot, left := nv }
        if set.bruised || (passLine core p 0).2.2 then bruiseFault 0 0x21
        else
          let p := readLine core p
          let last := i.t + step * nv - 1
          let vs := (List.range nv).map fun v => { pass := p.num, v := v, due := i.t + step * (v + 1) - 1 + 128 : VecEntry }
          let s := modCore i.s i.k fun c =>
            { c with passes := c.passes ++ [p], pipe := c.pipe ++ vs, spot := c.spot + 1, entered := last + 1 }
          let gated := set.zero.length
          .go (countAct (countAct s i.c.fld actCells (step * nv * 64 * (laneCount core - gated))) i.c.fld actGated (step * nv * gated))
            { next := last + 1, fin := 0, slot := p.slot, onPass := p.num + 1 }

/-! ## Addends and verdicts -/

/-- Element k of vector v of a pass, in SKEW64 (R105). -/
def actElem (p : PassRun) (v k : Nat) : Nat :=
  let b := fmtBits p.afmt
  let e := if b ≤ 6 then 2 else 1
  bitsOf (p.lines.getD (v + k / e) 0).toNat (k * b) b

/-- Exact product of an activation and a stationary element. -/
def prodNum (p : PassRun) (v k j : Nat) : Num :=
  mulNum (decodeNum p.afmt (actElem p v k))
    (decodeNum p.stat.fmt.toNat (tabGet 0 p.stat.elts (64 * k + j)).toNat)

/-- Activation block scale of block b of vector v (R81, R106). DESIGN CHOICE (log 174): the stored byte is applied, of FP4 and INT8 too. -/
def actScale (p : PassRun) (v b : Nat) : Nat := bitsOf (p.sides.getD v 0).toNat (8 * b) 8

/-- The exact sum of a list of products; a NaN or infinite product gives none (R93, R95). -/
def sumNums (l : List Num) : Num := l.foldl (fun s x => match x with
  | .fin _ _ _ => addNum false s x
  | _ => .nan) (.fin false 0 0)

/-- One addend, rounded to the window of anchor `anch` in a `len`-bit accumulator (R93 to R95): value and flags. -/
def addendOf (anch : Nat) : Num → Int × Nat × Bool
  | .fin neg m e => let (z, f) := toUnits neg m e ((anch : Int) - 192); (z, f, false)
  | _ => (0, flNV ||| flNR, true)

/-- The errors of a verdict in column `col`, at block or row `b`. -/
def errAt (errs : List ColErr) (col b : Nat) : Int :=
  (errs.filter fun e => e.col.val == col && e.part == b).foldl (fun z e => z + e.d) 0

/-- Exponent of the integer unit of a format of 8 bits or fewer (R117). -/
def unitExp (c : Nat) : Int := if fmtInt c then fmtUnit c else fmtEmin c - fmtMant c

/-- A number with `d` units of 2^`e` added. -/
def bumpNum (x : Num) (d e : Int) : Num := if d = 0 then x else addNum false x (.fin (decide (d < 0)) d.natAbs e)

/-- A product whose significand is off by `d`. -/
def bumpSig (x : Num) (d : Int) : Num :=
  match x with
  | .fin neg m e => let z := (if neg then -(m : Int) else m) + d; .fin (decide (z < 0)) z.natAbs e
  | y => y

/-- The addends of lane j of vector v, in block order (R93, R94, R111), with the errors that its column makes. -/
def laneAddends (p : PassRun) (v j : Nat) (errs : List ColErr := []) : List (Int × Nat × Bool) :=
  if fmtBits p.afmt = 16 then (List.range 64).map fun k => addendOf p.anch (bumpSig (prodNum p v k j) (errAt errs j k))
  else
    let blocks := if fmtBits p.afmt ≤ 6 then 4 else 2
    (List.range blocks).map fun b =>
      let sum := bumpNum (sumNums ((List.range 32).map fun k => prodNum p v (32 * b + k) j)) (errAt errs j b)
        (unitExp p.afmt + unitExp p.stat.fmt.toNat)
      let xa := actScale p v b
      let xb := (tabGet 0 p.stat.scales (4 * j + b)).toNat
      addendOf p.anch (if xa = 255 ∨ xb = 255 then .nan else scaleNum (254 - (xa : Int) - xb) sum)

/-- An addend added to an accumulator of `len` bits (R95): NaR, saturation and flags. -/
def accAdd (len : Nat) (acc : Int × Nat) (x : Int × Nat × Bool) : Int × Nat :=
  if x.2.2 ∨ acc.1 = nar len then (nar len, acc.2 ||| x.2.1 ||| flNR)
  else
    let (z, f) := satWindow len (acc.1 + x.1)
    (z, acc.2 ||| x.2.1 ||| f)

/-- The entry flags that an accumulator keeps: NV, WO, WU and NR (R107). -/
def entryFlags : Nat := flNV ||| flWO ||| flWU ||| flNR

/-- The accumulator entry of lane j after vector v is added, and the flags that the addition raises (R89, R107, R111): OVERWRITE replaces the
entry by the first addend and clears its flags; ADD keeps the entry's sticky flags beside those raised. -/
def laneAdd (p : PassRun) (v j : Nat) (errs : List ColErr) (e : AccEntry) : AccEntry × Nat :=
  let wide := decide (fmtBits p.afmt = 16)
  let len := if wide then 128 else 48
  let r := (laneAddends p v j errs).foldl (accAdd len) (if p.ovw then 0 else e.v.toInt, 0)
  let fl := r.2 &&& entryFlags
  ({ v := BitVec.ofInt 128 r.1, fl := BitVec.ofNat 8 (if p.ovw then fl else e.fl.toNat ||| fl), wide := wide }, fl)

/-- Vector v of a pass is added to its row in every lane in service (R111, R120): the core and the flags raised. OVERWRITE writes the
granules of those lanes whole and leaves them clean; an addition carries their bruise bits (R243). -/
def addVector (p : PassRun) (v : Nat) (errs : List ColErr) (c : Core) : Core × Nat :=
  let row := p.row + v
  let wide := decide (fmtBits p.afmt = 16)
  let br := if p.ovw then (List.range (laneCount c)).foldl (fun t j => tabPut false (entryGranule wide row j) false t) c.accBr else c.accBr
  (List.range (laneCount c)).foldl (fun (x : Core × Nat) j =>
    let e := laneAdd p v j errs (tabGet {} x.1.acc (64 * row + j))
    ({ x.1 with acc := tabPut {} (64 * row + j) e.1 x.1.acc }, x.2 ||| e.2)) ({ c with accBr := br }, 0)

/-! ## Check columns -/

/-- The activation of row k of vector v in integer units, and whether it is a NaN or an infinity (R118). -/
def actInt (p : PassRun) (v k : Nat) : Int := unitInt p.afmt (actElem p v k)

/-- An encoding is a finite number. -/
def isFin (c x : Nat) : Bool := match decodeNum c x with | .fin _ _ _ => true | _ => false

/-- Element rows of block `b` of a pass: 32 of a format of 8 bits or fewer; a 16-bit vector is compared whole (R118, R119). -/
def blockRows (p : PassRun) (b : Nat) : List Nat := if fmtBits p.afmt = 16 then List.range 64 else (List.range 32).map (32 * b + ·)

/-- A NaN or an infinity among the block's elements removes it from the comparison (R118). -/
def blockExcluded (p : PassRun) (v lanes b : Nat) : Bool :=
  decide (fmtBits p.afmt ≠ 16) && (blockRows p b).any fun k =>
    !isFin p.afmt (actElem p v k) || (List.range lanes).any fun j => !isFin p.stat.fmt.toNat (tabGet 0 p.stat.elts (64 * k + j)).toNat

/-- What check column `n` forms for a block: Σₖ a[k] · cₙ[k] (R118, R119). -/
def checkSum (p : PassRun) (v b n : Nat) (errs : List ColErr) : Int :=
  (blockRows p b).foldl (fun z k => z + actInt p v k * tabGet 0 (if n = 0 then p.stat.c0 else p.stat.c1) k) 0 + errAt errs (64 + n) b

/-- The exact integer sum S[j] of lane j in a block, or of its significand products in a 16-bit vector, with the errors of its column (R93,
R118, R119). -/
def laneSum (p : PassRun) (v b j : Nat) (errs : List ColErr) : Int :=
  (blockRows p b).foldl
    (fun z k => z + actInt p v k * unitInt p.stat.fmt.toNat (tabGet 0 p.stat.elts (64 * k + j)).toNat +
      (if fmtBits p.afmt = 16 then errAt errs j k else 0)) 0 + (if fmtBits p.afmt = 16 then 0 else errAt errs j b)

/-- The differences δ₀ and δ₁ of a block: of the lanes' sums, weighted by 1 and by j + 1, from the check columns' (R118); modulo 255 for a
16-bit pass (R119). -/
def blockDiff (p : PassRun) (v lanes b : Nat) (errs : List ColErr) : Int × Int :=
  let s := (List.range lanes).map fun j => laneSum p v b j errs
  let d0 := s.foldl (· + ·) 0 - checkSum p v b 0 errs
  let d1 := s.zipIdx.foldl (fun z x => z + ((x.2 : Int) + 1) * x.1) 0 - checkSum p v b 1 errs
  if fmtBits p.afmt = 16 then (d0 % 255, d1 % 255) else (d0, d1)

/-- Blocks of a vector that the check compares. -/
def checkBlocks (p : PassRun) : List Nat := List.range (if fmtBits p.afmt = 16 then 1 else if fmtBits p.afmt ≤ 6 then 4 else 2)

/-- The verdict of a vector: the differences where the check fails (R118, R119, R127, R130; log 139). With two check columns both sums are
compared, with one the first alone; a spot check compares the addends of the two entries bit for bit, of which the first has the errors. -/
def checkVector (core : Core) (p : PassRun) (v : Nat) (errs : List ColErr) : Option (Int × Int) :=
  let lanes := laneCount core
  let cols := checkColumns core
  if p.spot then
    if (List.range lanes).any fun j => laneAddends p v j errs != laneAddends p v j then some (0, 0) else none
  else if cols = 0 then none
  else
    ((checkBlocks p).filter fun b => !blockExcluded p v lanes b).findSome? fun b =>
      let d := blockDiff p v lanes b errs
      if d.1 ≠ 0 ∨ (cols = 2 ∧ d.2 ≠ 0) then some d else none

/-! ## DRAIN -/

/-- DCFG (R205). -/
def effDcfg (i : Iss) : Res :=
  let w := i.w
  oneSlot i fun t => { t with dcfg :=
    { fmt := BitVec.ofNat 4 (bitsOf w 19 4), rnd := BitVec.ofNat 2 (bitsOf w 23 2), ovf := bitOf w 25,
      anch := BitVec.ofNat 8 (bitsOf w 26 8), slot := BitVec.ofNat 4 (bitsOf w 34 4), g := bitOf w 38, clr := bitOf w 39 } }

/-- Rows of the accumulator buffer as it stands: 256 where the row holds W128 values, 512 otherwise (R107; log 15). -/
def accRows (c : Core) (row : Nat) : Nat := if (tabGet {} c.acc (64 * row)).wide then 256 else 512

/-- DRN (R113, R114, R206). A DFMT of 0x0, before the task's first DCFG, names no format: FORMAT_FAULT (log 16). -/
def effDrn (i : Iss) : Res :=
  let w := i.w
  let row := bitsOf w 19 9 + aregGet i.task (bitsOf w 28 3)
  let nr := bitsOf w 31 9 + 1
  let d := i.task.dcfg
  if d.fmt = 0 then formatFault i
  else if accRows i.core row < row + nr then .fault evRange 0 (Config.detailOf evRange [i.task.pc.toNat]).toNat
  else
    let bytes := laneCount i.core * fmtBits d.fmt.toNat / 8
    let p : Prog :=
      { kind := 4, w := 0, n := nr, t := i.t, step := if d.fmt = 15 then 4 else 1, first := row, dcfg := d,
        gen := i.task.gen, policy := policyOf i.s i.c.fld i.asid, lat := 16 }
    if bitsOf w 40 2 = 0 then memUnits i 42 (nr * bytes) nr .wr true p else startUnits i p id

/-- DSND (R207). -/
def effDsnd (i : Iss) : Res :=
  let nf := bitsOf i.w 39 12 + 1
  memUnits i 19 (128 * nf) nf .rd false { kind := 5, w := 0, n := nf, t := i.t, lat := 2 }

/-- DFLG and SFLG: a status slot of engine `e` stored as 8 bytes, and cleared where the word says so (R193, R208, R209). -/
def storeSlot (i : Iss) (e : Engine) (slot : Nat) : Res :=
  memUnits i 19 8 1 .wr false { kind := 12, w := 0, n := 1, t := i.t, first := engCode e, item := slot, lat := 3 }

/-- DFLG (R208). -/
def effDflg (i : Iss) : Res := storeSlot i (if bitOf i.w 43 then .mac else .drain) (bitsOf i.w 39 4)

/-! ## Vector LOAD and STORE -/

/-- VLD (R209). -/
def effVld (i : Iss) : Res :=
  let nr := bitsOf i.w 28 9 + 1
  let p : Prog := { kind := 2, w := 0, n := nr, t := i.t, first := bitsOf i.w 19 9, total := 256 * nr, lat := 3 }
  if bitOf i.w 37 then startUnits i { p with rq := true } id else memUnits i 38 (256 * nr) nr .rd false p

/-- VST (R209). -/
def effVst (i : Iss) : Res :=
  let nr := bitsOf i.w 28 9 + 1
  let p : Prog := { kind := 3, w := 0, n := nr, t := i.t, first := bitsOf i.w 19 9, lat := 3 }
  if bitsOf i.w 37 2 = 0 then memUnits i 39 (256 * nr) nr .wr false p else startUnits i p id

/-- SFLG (R209). -/
def effSflg (i : Iss) : Res := storeSlot i .vec (bitsOf i.w 39 4)

/-! ## Rows -/

/-- LACT (R200). -/
def execLact (c : CoreId) (w : BitVec 64) (s : State) : Host.Outcome State Fault Refusal := .next (issue s c .load 0x10 w effLact)

/-- LSCL (R201). -/
def execLscl (c : CoreId) (w : BitVec 64) (s : State) : Host.Outcome State Fault Refusal := .next (issue s c .load 0x11 w effLscl)

/-- LSTAT (R202). -/
def execLstat (c : CoreId) (w : BitVec 64) (s : State) : Host.Outcome State Fault Refusal := .next (issue s c .load 0x12 w effLstat)

/-- MCFG (R203). -/
def execMcfg (c : CoreId) (w : BitVec 64) (s : State) : Host.Outcome State Fault Refusal := .next (issue s c .mac 0x20 w effMcfg)

/-- PASS (R204). -/
def execPass (c : CoreId) (w : BitVec 64) (s : State) : Host.Outcome State Fault Refusal := .next (issue s c .mac 0x21 w effPass)

/-- DCFG (R205). -/
def execDcfg (c : CoreId) (w : BitVec 64) (s : State) : Host.Outcome State Fault Refusal := .next (issue s c .drain 0x30 w effDcfg)

/-- DRN (R206). -/
def execDrn (c : CoreId) (w : BitVec 64) (s : State) : Host.Outcome State Fault Refusal := .next (issue s c .drain 0x31 w effDrn)

/-- DSND (R207). -/
def execDsnd (c : CoreId) (w : BitVec 64) (s : State) : Host.Outcome State Fault Refusal := .next (issue s c .drain 0x32 w effDsnd)

/-- DFLG (R208). -/
def execDflg (c : CoreId) (w : BitVec 64) (s : State) : Host.Outcome State Fault Refusal := .next (issue s c .drain 0x33 w effDflg)

/-- GEN of DRAIN (R211). -/
def execDrainGen (c : CoreId) (w : BitVec 64) (s : State) : Host.Outcome State Fault Refusal := .next (issue s c .drain 0x34 w effGen)

/-- VLD (R209). -/
def execVld (c : CoreId) (w : BitVec 64) (s : State) : Host.Outcome State Fault Refusal := .next (issue s c .load 0x40 w effVld)

/-- VST (R209). -/
def execVst (c : CoreId) (w : BitVec 64) (s : State) : Host.Outcome State Fault Refusal := .next (issue s c .store 0x80 w effVst)

/-- SFLG (R209). -/
def execSflg (c : CoreId) (w : BitVec 64) (s : State) : Host.Outcome State Fault Refusal := .next (issue s c .store 0x81 w effSflg)

end Sys2Proof.Machine
end

