-- ==== Sys2Proof/Machine/Scalar.lean ====
section
/-! DEFINITION. The scalar core: its registers, arithmetic, memory accesses, branches, sends and stream requests (R147 to
R150, R217, R261, R262). -/

namespace Sys2Proof.Machine

/-- Fields of a SCALAR word (07, SCALAR). -/
def fRD (w : Nat) : Nat := bitsOf w 19 6
def fRS1 (w : Nat) : Nat := bitsOf w 25 6
def fRS2 (w : Nat) : Nat := bitsOf w 31 6

/-- IMM of an SI word, extended to 64 bits. -/
def fImm (w : Nat) : Nat := wrapInt (sextNat (bitsOf w 31 32) 32) 64

/-- An SR or SI instruction that writes `f` of its operands to RD, with its occupancy and latency (R147). -/
def effAlu (occ lat : Nat) (imm : Bool) (f : Nat → Nat → Nat) (i : Iss) : Res :=
  let (a, s) := xGet i.s i.k (fRS1 i.w) i.t
  let (b, s) := if imm then (fImm i.w, s) else xGet s i.k (fRS2 i.w) i.t
  let last := i.t + occ - 1
  .go (xPut i.k (fRD i.w) (f a b) (last + lat) s) { next := last + 1, fin := last + lat - 1 }

/-- Shifts by the low six bits (07, SCALAR). -/
def shl64 (a b : Nat) : Nat := a * 2 ^ (b % 64) % 2 ^ 64
def shr64 (a b : Nat) : Nat := a / 2 ^ (b % 64)
def sra64 (a b : Nat) : Nat := wrapInt (sextNat a 64 / (2 : Int) ^ (b % 64)) 64

/-- Comparisons (07, SCALAR). -/
def slt64 (a b : Nat) : Nat := b2n (decide (sextNat a 64 < sextNat b 64))
def sltu64 (a b : Nat) : Nat := b2n (decide (a < b))

/-- Division (R148, R217): by zero, an all-ones quotient and a remainder equal to the dividend; signed division rounds
toward zero. -/
def divu64 (a b : Nat) : Nat := if b = 0 then 2 ^ 64 - 1 else a / b
def remu64 (a b : Nat) : Nat := if b = 0 then a else a % b
def div64 (a b : Nat) : Nat := if b = 0 then 2 ^ 64 - 1 else wrapInt ((sextNat a 64).tdiv (sextNat b 64)) 64
def rem64 (a b : Nat) : Nat := if b = 0 then a else wrapInt ((sextNat a 64).tmod (sextNat b 64)) 64

/-- An SM access of `n` bytes at x[RS1] + OFF through window W: its offset must be a multiple of `al`, and the window must
permit it (R160, R161, R217). `f` gives the instruction's record from its data register as it stands at issue, where it has one; each block
moves in its slot (R233). -/
def smAccess (i : Iss) (n al : Nat) (rs : List Right) (data : Bool) (f : Nat → Prog) : Res :=
  let (a, s) := xGet i.s i.k (fRS1 i.w) i.t
  let o := wrapInt ((a : Int) + sextNat (bitsOf i.w 34 24) 24) 64
  let win := bitsOf i.w 31 3
  if o % al ≠ 0 ∨ !(rs.all fun r => hasRight (winOf i.task win) r) then winFault win o
  else
    let (v, s) := if data then xGet s i.k (fRD i.w) i.t else (0, s)
    placeUnits { i with s := s } win o n 1 (rs.headD .rd) (f v) id

/-- LD: 8 bytes into RD (R147, R217); a bruised granule is consumed (R357). -/
def effLd (i : Iss) : Res := smAccess i 8 8 [.rd] false fun _ => { kind := 6, w := 0, n := 1, t := i.t, first := fRD i.w, lat := 3 }

/-- ST: the data register's 8 bytes (R217). -/
def effSt (i : Iss) : Res := smAccess i 8 8 [.wr] true fun v => { kind := 7, w := 0, n := 1, t := i.t, buf := v, lat := 3 }

/-- CADD: 8 bytes raised by the data register modulo 2⁶⁴ in the completion slot (R150, R217); a bruised granule is consumed (R357). -/
def effCadd (i : Iss) : Res := smAccess i 8 8 [.rd, .wr] true fun v => { kind := 8, w := 0, n := 1, t := i.t, buf := v, lat := 3 }

/-- The condition of BR (R217). -/
def brCond (cond a b : Nat) : Bool :=
  match cond with
  | 0 => a == b
  | 1 => a != b
  | 2 => decide (sextNat a 64 < sextNat b 64)
  | 3 => decide (sextNat b 64 ≤ sextNat a 64)
  | 4 => decide (a < b)
  | 5 => decide (b ≤ a)
  | _ => true

/-- BR: to PC + 8 × DISP where the condition holds; two slots either way (R148, R217). -/
def effBr (i : Iss) : Res :=
  let (a, s) := xGet i.s i.k (fRS1 i.w) i.t
  let (b, s) := xGet s i.k (fRS2 i.w) i.t
  let tgt := wrapInt ((i.task.pc.toNat : Int) + 8 * sextNat (bitsOf i.w 40 24) 24) 32
  .go s { next := i.t + 2, fin := i.t + 1, pc := if brCond (bitsOf i.w 37 3) a b then some tgt else none }

/-- SSEND: one flit to the send queue or the exchange, written two slots on (R217); bruises are carried (R357). -/
def effSsend (i : Iss) : Res :=
  smAccess i 128 64 [.rd] false fun _ => { kind := 9, w := 0, n := 1, t := i.t, lat := 2 }

/-- SRECV: the oldest receive-queue flit to memory (R171, R217); an empty queue holds the engine (R167). -/
def effSrecv (i : Iss) : Res :=
  if readable i.core i.t = 0 then .hold
  else smAccess i 128 64 [.wr] false fun _ => { kind := 10, w := 0, n := 1, t := i.t, lat := 1 }

/-- STRM: a request flit to the send queue with OP in its bits [1:0] (R261); it completes when the stream complex accepts
it (R262); a bruised request flit is consumed (R357). -/
def effStrm (i : Iss) : Res :=
  smAccess i 128 64 [.rd] false fun _ => { kind := 11, w := 0, n := 1, t := i.t, lat := 2 }

/-- WRD: a window register into RD (R160, R217). -/
def effWrd (i : Iss) : Res :=
  .go (xPut i.k (fRD i.w) (winOf i.task (bitsOf i.w 25 3)) (i.t + 1) i.s) { next := i.t + 1, fin := i.t }

/-- ADD of SCALAR. -/
def execScAdd (c : CoreId) (w : BitVec 64) (s : State) : Host.Outcome State Fault Refusal :=
  .next (issue s c .scalar 0x90 w (effAlu 1 1 false fun a b => a + b))

/-- SUB of SCALAR. -/
def execScSub (c : CoreId) (w : BitVec 64) (s : State) : Host.Outcome State Fault Refusal :=
  .next (issue s c .scalar 0x91 w (effAlu 1 1 false fun a b => a + (2 ^ 64 - b)))

/-- AND of SCALAR. -/
def execScAnd (c : CoreId) (w : BitVec 64) (s : State) : Host.Outcome State Fault Refusal :=
  .next (issue s c .scalar 0x92 w (effAlu 1 1 false fun a b => a &&& b))

/-- OR of SCALAR. -/
def execScOr (c : CoreId) (w : BitVec 64) (s : State) : Host.Outcome State Fault Refusal :=
  .next (issue s c .scalar 0x93 w (effAlu 1 1 false fun a b => a ||| b))

/-- XOR of SCALAR. -/
def execScXor (c : CoreId) (w : BitVec 64) (s : State) : Host.Outcome State Fault Refusal :=
  .next (issue s c .scalar 0x94 w (effAlu 1 1 false fun a b => a ^^^ b))

/-- SHL of SCALAR. -/
def execScShl (c : CoreId) (w : BitVec 64) (s : State) : Host.Outcome State Fault Refusal :=
  .next (issue s c .scalar 0x95 w (effAlu 1 1 false shl64))

/-- SHR of SCALAR. -/
def execScShr (c : CoreId) (w : BitVec 64) (s : State) : Host.Outcome State Fault Refusal :=
  .next (issue s c .scalar 0x96 w (effAlu 1 1 false shr64))

/-- SRA of SCALAR. -/
def execScSra (c : CoreId) (w : BitVec 64) (s : State) : Host.Outcome State Fault Refusal :=
  .next (issue s c .scalar 0x97 w (effAlu 1 1 false sra64))

/-- SLT of SCALAR. -/
def execScSlt (c : CoreId) (w : BitVec 64) (s : State) : Host.Outcome State Fault Refusal :=
  .next (issue s c .scalar 0x98 w (effAlu 1 1 false slt64))

/-- SLTU of SCALAR. -/
def execScSltu (c : CoreId) (w : BitVec 64) (s : State) : Host.Outcome State Fault Refusal :=
  .next (issue s c .scalar 0x99 w (effAlu 1 1 false sltu64))

/-- MUL of SCALAR. -/
def execScMul (c : CoreId) (w : BitVec 64) (s : State) : Host.Outcome State Fault Refusal :=
  .next (issue s c .scalar 0x9A w (effAlu 1 3 false fun a b => a * b))

/-- DIVU of SCALAR. -/
def execScDivu (c : CoreId) (w : BitVec 64) (s : State) : Host.Outcome State Fault Refusal :=
  .next (issue s c .scalar 0x9B w (effAlu 20 20 false divu64))

/-- DIV of SCALAR. -/
def execScDiv (c : CoreId) (w : BitVec 64) (s : State) : Host.Outcome State Fault Refusal :=
  .next (issue s c .scalar 0x9C w (effAlu 20 20 false div64))

/-- REMU of SCALAR. -/
def execScRemu (c : CoreId) (w : BitVec 64) (s : State) : Host.Outcome State Fault Refusal :=
  .next (issue s c .scalar 0x9D w (effAlu 20 20 false remu64))

/-- REM of SCALAR. -/
def execScRem (c : CoreId) (w : BitVec 64) (s : State) : Host.Outcome State Fault Refusal :=
  .next (issue s c .scalar 0x9E w (effAlu 20 20 false rem64))

/-- ADDI of SCALAR. -/
def execScAddi (c : CoreId) (w : BitVec 64) (s : State) : Host.Outcome State Fault Refusal :=
  .next (issue s c .scalar 0xA0 w (effAlu 1 1 true fun a b => a + b))

/-- ANDI of SCALAR. -/
def execScAndi (c : CoreId) (w : BitVec 64) (s : State) : Host.Outcome State Fault Refusal :=
  .next (issue s c .scalar 0xA1 w (effAlu 1 1 true fun a b => a &&& b))

/-- ORI of SCALAR. -/
def execScOri (c : CoreId) (w : BitVec 64) (s : State) : Host.Outcome State Fault Refusal :=
  .next (issue s c .scalar 0xA2 w (effAlu 1 1 true fun a b => a ||| b))

/-- XORI of SCALAR. -/
def execScXori (c : CoreId) (w : BitVec 64) (s : State) : Host.Outcome State Fault Refusal :=
  .next (issue s c .scalar 0xA3 w (effAlu 1 1 true fun a b => a ^^^ b))

/-- SHLI of SCALAR. -/
def execScShli (c : CoreId) (w : BitVec 64) (s : State) : Host.Outcome State Fault Refusal :=
  .next (issue s c .scalar 0xA4 w (effAlu 1 1 true shl64))

/-- SHRI of SCALAR. -/
def execScShri (c : CoreId) (w : BitVec 64) (s : State) : Host.Outcome State Fault Refusal :=
  .next (issue s c .scalar 0xA5 w (effAlu 1 1 true shr64))

/-- SRAI of SCALAR. -/
def execScSrai (c : CoreId) (w : BitVec 64) (s : State) : Host.Outcome State Fault Refusal :=
  .next (issue s c .scalar 0xA6 w (effAlu 1 1 true sra64))

/-- SLTI of SCALAR. -/
def execScSlti (c : CoreId) (w : BitVec 64) (s : State) : Host.Outcome State Fault Refusal :=
  .next (issue s c .scalar 0xA7 w (effAlu 1 1 true slt64))

/-- LIH of SCALAR. -/
def execScLih (c : CoreId) (w : BitVec 64) (s : State) : Host.Outcome State Fault Refusal :=
  .next (issue s c .scalar 0xA8 w (effAlu 1 1 true fun a b => b * 2 ^ 32 % 2 ^ 64 ||| a % 2 ^ 32))

/-- LD of SCALAR. -/
def execScLd (c : CoreId) (w : BitVec 64) (s : State) : Host.Outcome State Fault Refusal :=
  .next (issue s c .scalar 0xB0 w effLd)

/-- ST of SCALAR. -/
def execScSt (c : CoreId) (w : BitVec 64) (s : State) : Host.Outcome State Fault Refusal :=
  .next (issue s c .scalar 0xB1 w effSt)

/-- CADD of SCALAR. -/
def execScCadd (c : CoreId) (w : BitVec 64) (s : State) : Host.Outcome State Fault Refusal :=
  .next (issue s c .scalar 0xB2 w effCadd)

/-- BR of SCALAR. -/
def execScBr (c : CoreId) (w : BitVec 64) (s : State) : Host.Outcome State Fault Refusal :=
  .next (issue s c .scalar 0xB4 w effBr)

/-- SSEND of SCALAR. -/
def execScSsend (c : CoreId) (w : BitVec 64) (s : State) : Host.Outcome State Fault Refusal :=
  .next (issue s c .scalar 0xB8 w effSsend)

/-- SRECV of SCALAR. -/
def execScSrecv (c : CoreId) (w : BitVec 64) (s : State) : Host.Outcome State Fault Refusal :=
  .next (issue s c .scalar 0xB9 w effSrecv)

/-- STRM of SCALAR. -/
def execScStrm (c : CoreId) (w : BitVec 64) (s : State) : Host.Outcome State Fault Refusal :=
  .next (issue s c .scalar 0xBA w effStrm)

/-- WRD of SCALAR. -/
def execScWrd (c : CoreId) (w : BitVec 64) (s : State) : Host.Outcome State Fault Refusal :=
  .next (issue s c .scalar 0xBB w effWrd)

end Sys2Proof.Machine
end

