-- ==== Sys2Proof/Machine/Paths.lean ====
section
/-! DEFINITION. The instruction stream of a task as the verifier follows it (06 R158, R159, R177, 07 R189 to R199, R217, R220): the loader
knows every setting of an engine but for what SCALAR reads from memory or from a flit, so it follows the stream instruction by
instruction, both ways from a branch whose direction depends on data (05 R148). -/

namespace Sys2Proof.Machine

/-! ## What an image gives -/

/-- Byte of an image at an on-die address within its field; of several, the last is the one that the loader leaves. -/
def imageByte (l : List ImageByte) (pos off : Nat) : Option Nat :=
  ((l.filter fun b => b.pos == pos && b.off == off).getLast?).map (·.val.toNat)

/-- `n` bytes of an image from an on-die address on, where it lists one of them; those that it does not list are 0 (R240). -/
def imageNum (l : List ImageByte) (pos off n : Nat) : Option Nat :=
  if (List.range n).any fun i => (imageByte l pos (off + i)).isSome then
    some (((List.range n).map fun i => (imageByte l pos (off + i)).getD 0 * 256 ^ i).sum)
  else none

/-- The core of a declared task, in field 0. -/
def declCore (t : TaskDecl) : CoreId := { fld := 0, bun := t.bun, cor := t.cor }

/-- Window register `k` that the image declares for a task. -/
def declWin (t : TaskDecl) (k : Nat) : Nat := (tabGet 0 t.windows k).toNat

/-- The word at `pc` of a task, where W0 reaches it and the image holds it (R159, R227). -/
def codeWord (l : List ImageByte) (t : TaskDecl) (pc : Nat) : Option Nat :=
  match winAccess (declCore t) (declWin t 0) .ex pc 8 with
  | some off => if winSpace (declWin t 0) = 0 then imageNum l t.pos off 8 else none
  | none => none

/-! ## One instruction -/

/-- An instruction of a stream as it issues: its word, the settings of the engine, the loop counters that an LSET has set, the offset of an
SM access and the scalar registers where no data decides them, the slots that its jump costs (R159), and, of an instruction on the path that a data-dependent branch
takes, its slot after the branch (the stream itself goes on by the path that falls through). -/
structure VIns where
  pc : Nat
  w : Nat
  tk : Task := {}
  set : Nat := 0
  off : Option Nat := none
  cost : Nat := 0
  alt : Option Nat := none
  x : Tab (Option Nat) := []
  deriving DecidableEq, Repr, Inhabited

/-- Where the verifier stands in a stream: the engine's settings, the scalar registers that no data decides, the first instruction that
the queue may hold, and the loop counters set. -/
structure Walk where
  tk : Task
  x : Tab (Option Nat) := []
  lo : Nat := 0
  set : Nat := 0
  deriving DecidableEq, Repr, Inhabited

/-- x[r] where no data decides it; every register is 0 at the start of a task (R147, R190). -/
def knownX (x : Tab (Option Nat)) (r : Nat) : Option Nat := if r = 0 then some 0 else tabGet (some 0) x r

/-- x[r] set. -/
def setX (x : Tab (Option Nat)) (r : Nat) (v : Option Nat) : Tab (Option Nat) := if r = 0 then x else tabPut (some 0) r v x

/-- The result of an SR or SI instruction (R148, R217, and the opcode table of SCALAR). -/
def aluOf (opc a b : Nat) : Nat :=
  let v := match opc with
    | 0x90 => a + b | 0xA0 => a + b
    | 0x91 => a + (2 ^ 64 - b)
    | 0x92 => a &&& b | 0xA1 => a &&& b
    | 0x93 => a ||| b | 0xA2 => a ||| b
    | 0x94 => a ^^^ b | 0xA3 => a ^^^ b
    | 0x95 => shl64 a b | 0xA4 => shl64 a b
    | 0x96 => shr64 a b | 0xA5 => shr64 a b
    | 0x97 => sra64 a b | 0xA6 => sra64 a b
    | 0x98 => slt64 a b | 0xA7 => slt64 a b
    | 0x99 => sltu64 a b
    | 0x9A => a * b
    | 0x9B => divu64 a b | 0x9C => div64 a b | 0x9D => remu64 a b | 0x9E => rem64 a b
    | _ => b * 2 ^ 32 % 2 ^ 64 ||| a % 2 ^ 32
  v % 2 ^ 64

/-- The scalar registers after a word: arithmetic on registers that no data decides, the windows read by WRD, and anything else that writes
a register leaves it to the data (R147, R217). -/
def afterX (tk : Task) (w : Nat) (x : Tab (Option Nat)) : Tab (Option Nat) :=
  let opc := opcOf w
  if 0x90 ≤ opc ∧ opc ≤ 0xA8 then
    let b := if 0xA0 ≤ opc then some (fImm w) else knownX x (fRS2 w)
    setX x (fRD w) (match knownX x (fRS1 w), b with | some a, some b => some (aluOf opc a b) | _, _ => none)
  else if opc = 0xBB then setX x (fRD w) (some (winOf tk (bitsOf w 25 3)))
  else if opc = 0xB0 then setX x (fRD w) none
  else x

/-- Lowest bit of the memory operand of a word, where it has one (R189). -/
def memBit (w : Nat) : Option Nat :=
  match opcOf w with
  | 0x10 => if bitOf w 39 then none else some 19
  | 0x11 => if bitOf w 39 then none else some 19
  | 0x12 => some 19
  | 0x31 => if bitsOf w 40 2 = 0 then some 42 else none
  | 0x32 => some 19
  | 0x33 => some 19
  | 0x81 => some 19
  | 0x40 => if bitOf w 37 then none else some 38
  | 0x80 => if bitsOf w 37 2 = 0 then some 39 else none
  | _ => none

/-- The settings of an engine after a word of its stream, but for the program counter (R190 to R192, R196 to R199, R203, R205,
R211). -/
def afterSettings (w : Nat) (tk : Task) : Task :=
  match opcOf w with
  | 0x02 => if bitOf w 59 then { tk with pb := tk.pb + BitVec.ofNat 64 (bitsOf w 19 40) } else tk
  | 0x03 => { tk with yctr := tk.yctr + 1, ybase := tk.ybase + bitsOf w 19 4 + 1 }
  | 0x04 => { tk with pb := 0, ybase := 0 }
  | 0x05 => { tk with lctr := tabPut 0 (bitsOf w 19 2) (bitsOf w 21 16 + 1) tk.lctr }
  | 0x06 => { tk with lctr := tabMod 0 (bitsOf w 19 2) (· - 1) tk.lctr }
  | 0x07 => aregSet tk (bitsOf w 19 3) (bitsOf w 22 32)
  | 0x08 => aregSet tk (bitsOf w 19 3) (aregGet tk (bitsOf w 19 3) + bitsOf w 22 32)
  | 0x20 => { tk with afmt := BitVec.ofNat 4 (bitsOf w 19 4), mslot := BitVec.ofNat 4 (bitsOf w 23 4) }
  | 0x30 => { tk with dcfg :=
      { fmt := BitVec.ofNat 4 (bitsOf w 19 4), rnd := BitVec.ofNat 2 (bitsOf w 23 2), ovf := bitOf w 25,
        anch := BitVec.ofNat 8 (bitsOf w 26 8), slot := BitVec.ofNat 4 (bitsOf w 34 4), g := bitOf w 38, clr := bitOf w 39 } }
  | 0x34 => { tk with gen := genSet w tk.gen }
  | 0x68 => { tk with gen := genSet w tk.gen }
  | _ => match memBit w with | some b => memIncr (memOp w b) tk | none => tk

/-- Byte offset of an SM access, where no data decides it (R217). -/
def smOffset (x : Tab (Option Nat)) (w : Nat) : Option Nat :=
  (knownX x (fRS1 w)).map fun a => wrapInt ((a : Int) + sextNat (bitsOf w 34 24) 24) 64

/-- A jump: the slots that it costs, and the stream at its target. The queue holds 64 instructions about the program counter, none of them
from before the last jump that left it (R158, R159; log 13). -/
def jumpTo (x : Walk) (tgt : Nat) : Nat × Walk :=
  let pc := x.tk.pc.toNat
  let base := queueBase pc
  let held := decide (tgt = pc ∨ (max x.lo base ≤ tgt / 8 ∧ tgt / 8 < base + 64))
  (if held then 0 else 4, { x with tk := { x.tk with pc := BitVec.ofNat 32 tgt }, lo := if held then x.lo else tgt / 8 })

/-- A word of a stream: the instruction, the stream after it, and, of a branch that data decides, the stream at its target (R148, R198,
R217). -/
def turn (e : Engine) (w : Nat) (x : Walk) : VIns × Walk × Option (Nat × Walk) :=
  let i : VIns := { pc := x.tk.pc.toNat, w := w, tk := x.tk, set := x.set, off := if e = .scalar then smOffset x.x w else none, x := x.x }
  let y := { x with
    tk := afterSettings w x.tk, x := if e = .scalar then afterX x.tk w x.x else x.x
    set := if opcOf w = 0x05 then x.set ||| 2 ^ bitsOf w 19 2 else x.set }
  let on := { y with tk := { y.tk with pc := y.tk.pc + 8 } }
  if opcOf w = 0x06 ∧ e ≠ .scalar then
    if tabGet 0 x.tk.lctr (bitsOf w 19 2) ≤ 1 then (i, on, none)
    else
      let (c, z) := jumpTo y (y.tk.pc - BitVec.ofNat 32 (8 * (bitsOf w 21 16 + 1))).toNat
      ({ i with cost := c }, z, none)
  else if opcOf w = 0xB4 ∧ e = .scalar then
    let (c, z) := jumpTo y (wrapInt ((i.pc : Int) + 8 * sextNat (bitsOf w 40 24) 24) 32)
    if bitsOf w 37 3 = 6 then ({ i with cost := c }, z, none)
    else match knownX x.x (fRS1 w), knownX x.x (fRS2 w) with
      | some a, some b => if brCond (bitsOf w 37 3) a b then ({ i with cost := c }, z, none) else (i, on, none)
      | _, _ => (i, on, some (c, z))
  else (i, on, none)

/-! ## Paths from a data-dependent branch -/

/-- Occupancy of a SCALAR word, and of DELAY, in slots (R147, R172); what only waits counts one. -/
def scalarOcc (w : Nat) : Nat :=
  let opc := opcOf w
  if opc = 0x01 then bitsOf w 19 16 + 1 else if 0x9B ≤ opc ∧ opc ≤ 0x9E then 20 else if opc = 0xB4 then 2 else 1

/-- One path from a branch: where it stands, the slots since the branch issued, the instructions that it passes, and those of paths within
it that the stream does not go by. -/
structure Path where
  x : Walk
  el : Nat
  main : List (Nat × VIns) := []
  alts : List (Nat × VIns) := []
  deriving Inhabited

/-- The registers at a point that two paths reach: those on which they agree. -/
def joinWalk (a b : Walk) : Walk :=
  { b with
    x := (List.range 64).foldl (fun t r => if knownX a.x r = knownX b.x r then t else setX t r none) b.x
    lo := max a.lo b.lo, set := a.set &&& b.set }

/-- The instructions of both paths from a branch, from `el` slots on: the stream goes by path `b`. -/
def joinPath (p : Path) (el : Nat) (i : VIns) (a b : Path) : Path :=
  let shift := fun (l : List (Nat × VIns)) => l.map fun e => (p.el + e.1, e.2)
  { x := joinWalk a.x b.x, el := p.el + el, main := p.main ++ [(p.el, i)] ++ shift b.main,
    alts := p.alts ++ shift (a.main ++ a.alts ++ b.alts) }

/-- One instruction further along a path; `nested` follows the paths from a branch within it to where they meet. -/
def pathStep (rd : Nat → Option Nat) (nested : Path → Path → Option (Path × Path)) (p : Path) : Option Path :=
  (rd p.x.tk.pc.toNat).bind fun w =>
    match turn .scalar w p.x with
    | (i, on, none) => some { p with x := on, el := p.el + scalarOcc w + i.cost, main := p.main ++ [(p.el, i)] }
    | (i, on, some (c, z)) => (nested { x := z, el := 2 + c } { x := on, el := 2 }).map fun q => joinPath p q.2.el i q.1 q.2

/-- Two paths from a branch are followed, the one behind first, until they stand at the same instruction in the same slot: that is their
rejoin point (R148). None where they do not meet so. -/
def meet (rd : Nat → Option Nat) : Nat → Path → Path → Option (Path × Path)
  | 0, _, _ => none
  | n + 1, a, b =>
    if a.el = b.el ∧ a.x.tk.pc = b.x.tk.pc then some (a, b)
    else if a.el ≤ b.el then
      match pathStep rd (meet rd n) a with | some a' => meet rd n a' b | none => none
    else
      match pathStep rd (meet rd n) b with | some b' => meet rd n a b' | none => none

/-- Sends of a path: slot after the branch, opcode and destination. -/
def pathSends (p : Path) : List (Nat × Nat × Nat) :=
  (p.main.filter fun e => opcOf e.2.w == 0xB8 || opcOf e.2.w == 0xBA).map fun e => (e.1, opcOf e.2.w, bitsOf e.2.w 58 5)

/-- Tokens that the instructions of a path take and post. -/
def pathTokens (p : Path) : List (Nat × Nat) :=
  (p.main.map fun e => (waitMask e.2.tk.masks e.2.w, postMask e.2.tk.masks e.2.w)).filter fun e => decide (e ≠ (0, 0))

/-- Rejection codes of two paths that have met: other sends (R148), other tokens (R182), another yield point or pacing base (R177). -/
def pathCodes (a b : Path) : List Nat :=
  (if pathSends a = pathSends b then [] else [0x08]) ++ (if pathTokens a = pathTokens b then [] else [0x0A]) ++
  (if a.x.tk.yctr = b.x.tk.yctr ∧ a.x.tk.ybase = b.x.tk.ybase ∧ a.x.tk.pb = b.x.tk.pb then [] else [0x12])

/-! ## The stream -/

/-- The stream of a task, newest instruction first, and the rejection codes found on the way with their program counters. -/
structure Trace where
  ins : List VIns := []
  codes : List (Nat × Nat) := []
  deriving Inhabited

/-- Most instructions that the verifier follows on one path from a branch, and in one stream (log 151). -/
def pathLimit : Nat := 4096
def streamLimit : Nat := 1048576

/-- A YIELD ends the stream: its point is FINAL, or the image declares no such point (R177). -/
def endsAt (ys : List YieldRec) (i : VIns) : Bool :=
  opcOf i.w == 0x03 && (match ys[i.tk.yctr]? with | some y => y.flags.getLsbD 1 | none => true)

/-- The stream from `x` on: a fetch that W0 does not permit is a window fault that the image lets the loader see (R161), a word that is
ill-formed or not of the image ends it (R218), and so does the FINAL yield point. -/
def follow (ys : List YieldRec) (rd : Nat → Option Nat) (inW0 : Nat → Bool) (t : TaskDecl) : Nat → Walk → Trace → Trace
  | 0, _, r => r
  | n + 1, x, r =>
    let pc := x.tk.pc.toNat
    if !inW0 pc ∨ pc % 8 ≠ 0 then { r with codes := r.codes ++ [(0x05, pc)] }
    else match rd pc with
      | none => { r with codes := r.codes ++ [(0x03, pc)] }
      | some w =>
        if !wordOk (coreKind t.cor) t.eng w then { r with codes := r.codes ++ [(0x03, pc)] }
        else
          let (i, on, fork) := turn t.eng w x
          let r := { r with ins := i :: r.ins }
          if endsAt ys i then r
          else match fork with
            | none => follow ys rd inW0 t n on r
            | some (c, z) =>
              match meet rd pathLimit { x := z, el := 2 + c } { x := on, el := 2 } with
              | none => { r with codes := r.codes ++ [(0x08, pc)] }
              | some (a, b) =>
                let alts := (a.main ++ a.alts ++ b.alts).map fun e => { e.2 with alt := some e.1 }
                follow ys rd inW0 t n (joinWalk a.x b.x)
                  { ins := (b.main.map (·.2)).reverse ++ alts.reverse ++ r.ins, codes := r.codes ++ (pathCodes a b).map fun k => (k, pc) }

/-- The stream of a task from its entry (R157), in its order. -/
def traceOf (ys : List YieldRec) (l : List ImageByte) (t : TaskDecl) : Trace :=
  let tk : Task := { present := true, pc := t.entry, win := t.windows, masks := t.masks, gen := { step := t.step } }
  let r := follow ys (codeWord l t) (fun pc => winSpace (declWin t 0) == 0 && (winAccess (declCore t) (declWin t 0) .ex pc 8).isSome) t
    streamLimit { tk := tk, lo := t.entry.toNat / 8 } {}
  { r with ins := r.ins.reverse }

end Sys2Proof.Machine
end

