-- ==== Sys2Proof/Machine/Verify.lean ====
section
/-! DEFINITION. What the verifier finds in the instruction words of an image (06 R161 to R163, R173, R177, 07 R218, R220, 08 R227, R234,
12 R336): the checks of each instruction of the streams that the tasks execute. -/

namespace Sys2Proof.Machine

/-- Capacity record of a position. -/
def capAt (v : Variant) (pos : Nat) : CapRec := v.caps.getD pos default

/-- Source of a route word's output on side `d`: 0 N, 1 E, 2 S, 3 W, 4 local (R48). -/
def outSource (w d : Nat) : Nat := bitsOf w (3 * d) 3

/-- Period of a plane's bank (R47). -/
def periodOf (v : Variant) (plane bank : Nat) : Nat :=
  if bank = 0 then (if plane = 0 then v.period0 else v.period1) else if plane = 0 then v.staged0 else v.staged1

/-- One finding where the condition holds. -/
def findIf (b : Bool) (x : Finding) : List Finding := if b then [x] else []

/-- A finding in a section whose layout is not published: its offset is left open (R337; log 11). -/
def findIn (code sec var : Nat) (items : List Nat) : Finding :=
  { code := code, section_ := sec, var := var, offset := (Config.detailOf code (sec :: var :: items)).toNat }

/-! ## The memory accesses of an instruction -/

/-- A memory access of an instruction: its window, its offset where no data decides it, its bytes, the rights it needs, whether it reaches
core memory only, and the alignment that its offset needs (R161, R217, R227). -/
structure Acc where
  win : Nat
  off : Option Nat
  n : Nat
  rights : List Right
  coreOnly : Bool := false
  align : Nat := 1
  deriving DecidableEq, Repr

/-- Lane count that the image declares for the core of a task (R335). -/
def declLanes (v : Variant) (t : TaskDecl) : Nat :=
  let b := bitsOf (tabGet 0 (capAt v t.pos).cores (4 * t.bun.val + t.cor.val)).toNat 0 2
  if b = 0 then 64 else if b = 1 then 56 else 48

/-- The image marks the core of a task UNCHECKED (R335). -/
def declUnchecked (v : Variant) (t : TaskDecl) : Bool := (tabGet 0 (capAt v t.pos).cores (4 * t.bun.val + t.cor.val)).getLsbD 2

/-- Declaration byte of a place, OFF where none is given (R237). -/
def declOf (v : Variant) (pos : Nat) (p : MemPlace) : Nat :=
  match v.power.find? fun d => d.pos == pos && decide (d.place = p) with | some d => d.byte.toNat | none => 0

/-- Header of the tile at offset `o` of a window, where the image holds it. DEDUCED (log 152): the image holds a header of which it lists a
byte. -/
def imageHdr (v : Variant) (t : TaskDecl) (win o : Nat) : Option TileHdr :=
  match winAccess (declCore t) (declWin t win) .rd o 32 with
  | some oda => (imageNum v.image t.pos oda 32).map tileHdr
  | none => none

/-- The tiles of an LSTAT with their headers, as far as the image holds them (R104, R202). -/
def imageTiles (v : Variant) (t : TaskDecl) (i : VIns) : List (Nat × Option TileHdr) :=
  let m := memOp i.w 19
  let o := memOffset i.tk m
  let h := imageHdr v t m.win o
  if twoTiles (bitsOf i.w 39 4) then
    match h with
    | some x => [(o, h), (secondTile o x, imageHdr v t m.win (secondTile o x))]
    | none => [(o, none)]
  else [(o, h)]

/-- Bytes of a row that a DRN writes (R206). -/
def drnRow (v : Variant) (t : TaskDecl) (i : VIns) : Nat := declLanes v t * fmtBits i.tk.dcfg.fmt.toNat / 8

/-- The accesses of an instruction (R200 to R209, R217). Of a tile whose header the image does not hold, the header's 32 bytes. -/
def accsOf (v : Variant) (t : TaskDecl) (i : VIns) : List Acc :=
  let w := i.w
  let mem := fun (b n : Nat) (r : Right) (co : Bool) =>
    [({ win := (memOp w b).win, off := some (memOffset i.tk (memOp w b)), n := n, rights := [r], coreOnly := co } : Acc)]
  let sm := fun (n : Nat) (l : List Right) => [({ win := bitsOf w 31 3, off := i.off, n := n, rights := l, align := min n 64 } : Acc)]
  match opcOf w with
  | 0x10 => if bitOf w 39 then [] else mem 19 ((bitsOf w 53 9 + 1) * lclsSize (bitsOf w 62 2)) .rd false
  | 0x11 => if bitOf w 39 then [] else mem 19 (4 * (bitsOf w 53 9 + 1)) .rd false
  | 0x12 => (imageTiles v t i).map fun x =>
      match x.2 with
      | none => { win := (memOp w 19).win, off := some x.1, n := 32, rights := [.rd], coreOnly := true }
      | some h =>
        let (lo, hi) := tileExtent h
        { win := (memOp w 19).win, off := some (if (x.1 : Int) + lo < 0 then 2 ^ 32 else ((x.1 : Int) + lo).toNat), n := (hi - lo).toNat,
          rights := [.rd], coreOnly := true }
  | 0x31 => if bitsOf w 40 2 = 0 then mem 42 ((bitsOf w 31 9 + 1) * drnRow v t i) .wr true else []
  | 0x32 => mem 19 (128 * (bitsOf w 39 12 + 1)) .rd false
  | 0x33 => mem 19 8 .wr false
  | 0x81 => mem 19 8 .wr false
  | 0x40 => if bitOf w 37 then [] else mem 38 (256 * (bitsOf w 28 9 + 1)) .rd false
  | 0x80 => if bitsOf w 37 2 = 0 then mem 39 (256 * (bitsOf w 28 9 + 1)) .wr false else []
  | 0xB0 => sm 8 [.rd]
  | 0xB1 => sm 8 [.wr]
  | 0xB2 => sm 8 [.rd, .wr]
  | 0xB8 => sm 128 [.rd]
  | 0xB9 => sm 128 [.wr]
  | 0xBA => sm 128 [.rd]
  | _ => []

/-- The window of an access is enabled and holds its rights, and an extent that no data decides lies in it (R161, R217, R227). -/
def accessOk (t : TaskDecl) (a : Acc) : Bool :=
  let win := declWin t a.win
  bitsOf win 22 22 != 0 && a.rights.all (hasRight win) && (!a.coreOnly || winSpace win == 0) &&
    (match a.off with | some o => o % a.align == 0 && decide (o + a.n ≤ 64 * bitsOf win 22 22) | none => true)

/-- The window of an access reaches more than one shared-memory bank, so that an offset which data decides has no known bank (R234). -/
def manyBanks (t : TaskDecl) (a : Acc) : Bool :=
  let win := declWin t a.win
  let lo := 64 * bitsOf win 0 22
  winSpace win == 1 && a.off.isNone && bankOf lo != bankOf (lo + 64 * bitsOf win 22 22 - 1)

/-! ## The checks of an instruction -/

/-- The queue `q` is declared for the task's engine, as its consumer or as its producer (R163, R220). -/
def queueFor (v : Variant) (t : TaskDecl) (post : Bool) (q : Nat) : Bool :=
  v.toks.any fun d =>
    d.pos == t.pos && decide (d.bun = t.bun) && decide (d.cor = t.cor) && d.q.val == q && decide ((if post then d.prod else d.cons) = t.eng)

/-- A wait and a post mask name only queues declared for the task's engine (R220). -/
def masksOk (v : Variant) (t : TaskDecl) (wait post : Nat) : Bool :=
  (maskList wait).all (queueFor v t false) && (maskList post).all (queueFor v t true)

/-- A YIELD is the yield point that the table has at its place: ΔJ and STEP (R177, R220). -/
def yieldOk (ys : List YieldRec) (i : VIns) : Bool :=
  match ys[i.tk.yctr]? with
  | some y => y.dj == bitsOf i.w 19 4 + 1 && y.flags.getLsbD 0 == bitOf i.w 23
  | none => false

/-- Rejection codes of R336 that an instruction earns: a queue that is not declared for the engine; an extent outside its window; an LEND
without an LSET before it; a stationary load whose format is not its tiles'; a YIELD that is not its point (R177); a SYNC of a barrier that
is not declared (R173); a shared offset without a known bank (R234); an ORDERED instruction under reproducible mode (R144). -/
def wordCodes (m : Family) (v : Variant) (t : TaskDecl) (i : VIns) : List Nat :=
  let opc := opcOf i.w
  let accs := accsOf v t i
  (if masksOk v t (waitMask i.tk.masks i.w) (postMask i.tk.masks i.w) then [] else [0x04]) ++
  (if accs.all (accessOk t) then [] else [0x05]) ++
  (if opc = 0x06 ∧ !bitOf i.set (bitsOf i.w 19 2) then [0x07] else []) ++
  (if opc = 0x12 ∧ (imageTiles v t i).any (fun x => x.2.any fun h => h.fmt != bitsOf i.w 39 4) then [0x09] else []) ++
  (if opc = 0x03 ∧ !yieldOk m.yields i then [0x12] else []) ++
  (if opc = 0x04 ∧ !v.barriers.any (fun b => b.b.val == bitsOf i.w 19 4) then [0x13] else []) ++
  (if accs.any (manyBanks t) then [0x18] else []) ++
  (if (opc = 0x7C ∨ opc = 0x7D ∨ opc = 0x7E) ∧ bitOf m.flags.toNat 0 then [0x1A] else [])

/-- Wheel entries with those of a schedule of a predicted layer in their place (R232, R312). -/
def wheelsWith (base l : List WheelDecl) : List WheelDecl :=
  base.filter (fun w => !l.any fun x => x.pos == w.pos && decide (x.bank = w.bank ∧ x.position = w.position)) ++ l

/-- Route words with those of a schedule in their place (R312). -/
def routesWith (base l : List RouteDecl) : List RouteDecl :=
  base.filter (fun r => !l.any fun x => x.pos == r.pos && decide (x.bun = r.bun ∧ x.plane = r.plane ∧ x.bank = r.bank ∧ x.index = r.index)) ++ l

/-- Carrier channels with those of a schedule in their place (R312). -/
def carriersWith (base l : List CarrierDecl) : List CarrierDecl :=
  base.filter (fun c => !l.any fun x => x.pos == c.pos && decide (x.bank = c.bank ∧ x.chan = c.chan)) ++ l

/-- What a variant runs: as it stands, and with each schedule of a predicted layer in the place of its own (R299, R312). -/
def plansOf (v : Variant) : List Variant :=
  v :: v.kscheds.map fun k =>
    { v with image := v.image ++ k.image, routes := routesWith v.routes k.routes, wheels := wheelsWith v.wheels k.wheels,
             carriers := carriersWith v.carriers k.carriers }

/-- The stream of each task of a plan. -/
def tracesOf (m : Family) (v : Variant) : List (TaskDecl × Trace) := v.tasks.map fun t => (t, traceOf m.yields v.image t)

/-- What the streams of a plan's tasks earn: code, task and program counter. Each task passes every yield point (R177). -/
def codeErrors (m : Family) (v : Variant) (ts : List (TaskDecl × Trace)) : List (Nat × TaskDecl × Nat) :=
  ts.flatMap fun x =>
    (x.2.codes.map fun c => (c.1, x.1, c.2)) ++ (x.2.ins.flatMap fun i => (wordCodes m v x.1 i).map fun c => (c, x.1, i.pc)) ++
    (if (x.2.ins.filter fun i => opcOf i.w == 0x03 && i.alt.isNone).length = m.yields.length then [] else [(0x12, x.1, x.1.entry.toNat)])

end Sys2Proof.Machine
end

