-- ==== Sys2Proof/Machine/Timing.lean ====
section
/-! DEFINITION. The verifier's worst-case timing model (06 R181, R182, 04 R123, 08 R233): for each instruction of each task an earliest and a
latest issue slot, counted from the schedule anchor, with the slots of its units and its completion; and before it the grid, since the
acceptance slot of a stream request follows from the route tables (09 R262). -/

namespace Sys2Proof.Machine

/-- Slots are counted from the schedule anchor in force (R181): the `n`-th anchor of a job, by its barriers, stands at n × 2⁴⁰ (log 151). -/
def segSlots : Nat := 2 ^ 40
def segNo (t : Nat) : Nat := t / segSlots
def inSeg (t : Nat) : Nat := t % segSlots

/-- The first slot of an epoch no earlier than slot `t`. -/
def epochUp (t : Nat) : Nat := ceilDiv t 4096 * 4096

/-- A list in rising order. -/
def insertBy {α : Type} (le : α → α → Bool) (x : α) : List α → List α
  | [] => [x]
  | y :: l => if le x y then x :: y :: l else y :: insertBy le x l
def sortBy {α : Type} (le : α → α → Bool) (l : List α) : List α := l.foldr (insertBy le) []
def sortNat (l : List Nat) : List Nat := sortBy (fun a b => decide (a ≤ b)) l

/-! ## The grid -/

/-- The compiled grid of a plan: the family's frame, the plan, and the barriers that the job passes, in order. -/
structure Grid where
  fc : Nat
  fr : Nat
  v : Variant
  bars : List BarrierDecl := []

/-- Bunch `b` of frame position `pos` is absent (R335). -/
def Grid.absent (g : Grid) (pos b : Nat) : Bool := (capAt g.v pos).absent.getLsbD b

/-- The last bunch that is present in the row of `b` (R23, R54). -/
def Grid.rowLast (g : Grid) (pos b : Nat) : Nat :=
  ((List.range 6).filter fun i => !g.absent pos (6 * (b / 6) + i)).getLast?.getD 5 + 6 * (b / 6)

/-- Frame position beyond a side, where the frame has one. -/
def Grid.beyond (g : Grid) (pos port : Nat) : Option Nat :=
  let c := pos % max 1 g.fc
  match port with
  | 0 => if g.fc ≤ pos then some (pos - g.fc) else none
  | 1 => if c + 1 < g.fc then some (pos + 1) else none
  | 2 => if pos + g.fc < g.fr * g.fc then some (pos + g.fc) else none
  | _ => if c = 0 then none else some (pos - 1)

/-- The crossing at which port `port` of a bunch leaves its field, if it does (R251; log 143). -/
def Grid.crossing (g : Grid) (pos b port : Nat) : Option Nat :=
  match port with
  | 0 => if b / 6 = 0 then some (b % 6) else none
  | 1 => if b = g.rowLast pos b then some (6 + b / 6) else none
  | 2 => if b / 6 = 5 then some (12 + b % 6) else none
  | _ => if b % 6 = 0 then some (18 + b / 6) else none

/-- The router beyond a port, with the slots of the link: 1 within a field, D across a seam (R50, R54). -/
def Grid.next (g : Grid) (pos b port : Nat) : Option (Nat × Nat × Nat) :=
  match g.crossing pos b port with
  | none => some (pos, (match port with | 0 => b - 6 | 1 => b + 1 | 2 => b + 6 | _ => b - 1), 1)
  | some _ =>
    (g.beyond pos port).map fun q =>
      (q, (match port with | 0 => b + 30 | 1 => 6 * (b / 6) | 2 => b - 30 | _ => g.rowLast q (6 * (b / 6))), 256)

/-- Route index of a plane in slot `t` (R47, R157, R175): from 0 at the job's start, and from the barrier's resume index after a barrier. -/
def Grid.index (g : Grid) (p t : Nat) : Nat :=
  let r := match segNo t with
    | 0 => 0
    | n + 1 => match g.bars[n]? with | some b => if p = 0 then b.resume0 else b.resume1 | none => 0
  (r + inSeg t) % max 1 (periodOf g.v p 0)

/-- Route word of the active bank of a router (R47); 0 where none is declared. -/
def Grid.word (g : Grid) (pos b p t : Nat) : Nat :=
  match g.v.routes.find? fun r => r.pos == pos && r.bun.val == b && r.plane.val == p && r.bank.val == 0 && r.index == g.index p t with
  | some r => r.word.toNat
  | none => 0

/-- Where a flit ends, with the slot: in the receive queue of a core, by its key; at a REQ tap of a position; beyond the frame or at a
router that forwards it nowhere. -/
inductive FlitEnd where
  | core (key slot : Nat)
  | tap (pos slot : Nat)
  | gone (slot : Nat)
  deriving DecidableEq, Repr

/-- The slot in which a flit ends. -/
def FlitEnd.slot : FlitEnd → Nat
  | .core _ t => t
  | .tap _ t => t
  | .gone t => t

/-- A REQ channel takes what leaves a position by crossing `x` in slot `t` (R252, R253). -/
def Grid.taps (g : Grid) (pos x p t : Nat) : Bool :=
  g.v.carriers.any fun c =>
    let r := c.record.toNat
    c.pos == pos && c.bank.val == 0 && bitsOf r 0 5 == x && bitsOf r 5 1 == p && bitsOf r 6 2 == 2 && c.map.contains (g.index p t)

/-- Where the flit that a router has from source `src` in slot `t` ends, copies and all (R49, R50). -/
def Grid.flit (g : Grid) (p : Nat) : Nat → Nat → Nat → Nat → Nat → List FlitEnd
  | 0, _, _, _, t => [.gone t]
  | n + 1, pos, b, src, t =>
    let w := g.word pos b p t
    let outs := (List.range 4).filter fun o => outSource w o == src
    let here := if outSource w 4 = src then [FlitEnd.core (288 * pos + 8 * b + bitsOf w 18 3) t] else []
    let ends := here ++ outs.flatMap fun o =>
      match g.crossing pos b o with
      | some x =>
        if g.taps pos x p t then [.tap pos t]
        else match g.next pos b o with
          | some (q, c, d) => g.flit p n q c ((o + 2) % 4 + 1) (t + d)
          | none => [.gone t]
      | none => match g.next pos b o with
          | some (q, c, d) => g.flit p n q c ((o + 2) % 4 + 1) (t + d)
          | none => [.gone t]
    if ends.isEmpty then [.gone t] else ends

/-- Hops after which the verifier gives a flit up. -/
def hopLimit : Nat := 4096

/-- A departure from a send queue: slot, plane, and where the flit ends. -/
structure Leave where
  t : Nat
  p : Nat
  ends : List FlitEnd
  deriving DecidableEq, Repr

/-- The slots below `n` of segment `seg` in which a plane's index is `i` (R47). -/
def Grid.slotsOf (g : Grid) (p i seg n : Nat) : List Nat :=
  let per := max 1 (periodOf g.v p 0)
  let first := (i + per - g.index p (seg * segSlots) % per) % per
  (List.range (if first < n then ceilDiv (n - first) per else 0)).map fun k => seg * segSlots + first + per * k

/-- The departures from the send queue of a core, in order, in the slots below `spans[n]` of each segment `n` (R151, R169). -/
def Grid.leaves (g : Grid) (key : Nat) (spans : List Nat) : List Leave :=
  let pos := key / 288
  let b := key / 8 % 36
  let rs := g.v.routes.filter fun r => r.pos == pos && r.bun.val == b && r.bank.val == 0 && bitsOf r.word.toNat 15 3 == key % 8 &&
    (List.range 5).any fun d => outSource r.word.toNat d == 5
  sortBy (fun x y => decide (2 * x.t + x.p ≤ 2 * y.t + y.p))
    (rs.flatMap fun r => spans.zipIdx.flatMap fun n => (g.slotsOf r.plane.val r.index n.2 n.1).map fun t =>
      { t := t, p := r.plane.val, ends := g.flit r.plane.val hopLimit pos b 5 t })

/-! ## Occupancy and completion -/

/-- Occupancy and latency of a VEC opcode (R140); CONVERT to an MX format takes 6 slots, TOPK 8, WRSUM 16. -/
def vecTiming (w : Nat) : Nat × Nat :=
  let opc := opcOf w
  match vecClass opc with
  | 0 => (1, 4)
  | 1 => (1, 2)
  | 2 => (1, 2)
  | 3 => (1, if opc = 0x6D ∨ (2 ≤ bitsOf w 50 4 ∧ bitsOf w 50 4 ≤ 7) then 6 else 4)
  | 4 => (4, 12)
  | 5 => (1, if opc = 0x72 then 8 else 2)
  | 6 => (1, 6)
  | 7 => (4, if opc = 0x79 then 16 else 8)
  | _ => (1, 12)

/-- Entry slots of a PASS: 2 for a vector of a 16-bit format, and twice as many in a spot-checked pass (R104, R112, R130). -/
def passOcc (i : VIns) (spot : Bool) : Nat :=
  (bitsOf i.w 38 9 + 1) * (if fmtBits i.tk.afmt.toNat = 16 then 2 else 1) * (if spot then 2 else 1)

/-- What an instruction takes: the slots of its units, the engine's next issue slot, and its completion. -/
structure Span where
  units : List Nat
  next : Nat
  fin : Nat
  deriving DecidableEq, Repr, Inhabited

/-- Blocks of shared memory that an instruction moves: the banks, where its access has SPACE 0b001 and a known offset (R233). -/
def sharedBanks (v : Variant) (t : TaskDecl) (i : VIns) : Option (List Nat) :=
  match accsOf v t i with
  | a :: _ =>
    let win := declWin t a.win
    if winSpace win = 1 then
      match a.off with
      | some o => some (blockBanks (64 * bitsOf win 0 22 + o) a.n)
      | none => some [bankOf (64 * bitsOf win 0 22)]
    else none
  | [] => none

/-- The wheel of a frame position as the plan declares it (R231). -/
def declWheel (v : Variant) (pos : Nat) : Tab (BitVec 16) :=
  (v.wheels.filter fun w => w.pos == pos).foldl (fun t w => tabPut 0 (16 * w.bank.val + w.position.val) w.entry t) []

/-- `n` units from slot `t` on, `step` slots apart, or the blocks of a shared access in their slots on the wheel; the engine goes on in the
slot after the last, and the instruction completes `lat` slots after it (R195, R233). -/
def unitSpan (v : Variant) (t : TaskDecl) (i : VIns) (s n step lat : Nat) : Span :=
  let us := match sharedBanks v t i with
    | none => (List.range n).map fun k => s + step * k
    | some bs => (wheelSlots (declWheel v t.pos) (wheelOwner (declCore t) t.eng) s bs 0 s).getD [s]
  let last := us.getLast?.getD s
  { units := us, next := last + (if (sharedBanks v t i).isSome then 1 else step), fin := last + lat }

/-- An instruction that holds the engine for `occ` slots from `s` on and completes `lat` − 1 slots after the last. -/
def plainSpan (s occ lat : Nat) : Span := { units := [s], next := s + occ, fin := s + occ + lat - 2 }

/-- What an instruction takes when it issues in slot `s` (R112, R140, R147, R166, R172, R195, and its entry in the instruction reference). A
STRM completes in the acceptance slot that `accept` gives (R262). -/
def spanOf (v : Variant) (t : TaskDecl) (i : VIns) (spot : Bool) (accept : Option Nat) (s : Nat) : Span :=
  let w := i.w
  let seg := segNo s * segSlots
  let hold := fun (n : Nat) => ({ units := [s], next := max (s + 1) n, fin := max (s + 1) n - 1 } : Span)
  let opc := opcOf w
  match opc with
  | 0x01 => plainSpan s (bitsOf w 19 16 + 1) 1
  | 0x02 => hold (seg + i.tk.pb.toNat + bitsOf w 19 40)
  | 0x03 => hold (seg + 4096 * (i.tk.ybase + bitsOf w 19 4 + 1))
  | 0x04 => hold (seg + segSlots)
  | 0x10 => unitSpan v t i s (ceilDiv ((bitsOf w 53 9 + 1) * lclsSize (bitsOf w 62 2)) 128) 1 3
  | 0x11 => unitSpan v t i s (ceilDiv (4 * (bitsOf w 53 9 + 1)) 128) 1 3
  | 0x12 => plainSpan s 64 1
  | 0x21 => { plainSpan s (passOcc i spot) 130 with units := [s] }
  | 0x31 => unitSpan v t i s (bitsOf w 31 9 + 1) (if i.tk.dcfg.fmt = 15 then 4 else 1) 16
  | 0x32 => unitSpan v t i s (bitsOf w 39 12 + 1) 1 2
  | 0x33 => unitSpan v t i s 1 1 3
  | 0x81 => unitSpan v t i s 1 1 3
  | 0x40 => unitSpan v t i s (bitsOf w 28 9 + 1) 1 3
  | 0x80 => unitSpan v t i s (bitsOf w 28 9 + 1) 1 3
  | 0xB0 => unitSpan v t i s 1 1 3
  | 0xB1 => unitSpan v t i s 1 1 3
  | 0xB2 => unitSpan v t i s 1 1 3
  | 0xB8 => unitSpan v t i s 1 1 2
  | 0xB9 => unitSpan v t i s 1 1 1
  | 0xBA => let r := unitSpan v t i s 1 1 2; { r with fin := accept.getD r.fin }
  | 0xB4 => plainSpan s 2 1
  | 0x9A => plainSpan s 1 3
  | _ =>
    if 0x9B ≤ opc ∧ opc ≤ 0x9E then plainSpan s 20 20
    else if t.eng = .vec ∧ 0x50 ≤ opc then let x := vecTiming w; plainSpan s x.1 x.2
    else plainSpan s 1 1

/-! ## Flits written and read -/

/-- Where an instruction writes flits: 1 the send queue, 2 the exchange to the core given (R206, R207, R209, R217). -/
def flitDst (w : Nat) : Nat × Nat :=
  match opcOf w with
  | 0x31 => (bitsOf w 40 2, bitsOf w 42 3)
  | 0x32 => (bitsOf w 51 2, bitsOf w 53 3)
  | 0x80 => (bitsOf w 37 2, bitsOf w 39 3)
  | 0xB8 => (bitsOf w 58 2, bitsOf w 60 3)
  | 0xBA => (1, 0)
  | _ => (0, 0)

/-- The slots in which an instruction writes its flits, from the slots of its units (R153, R206, R207, R209, R217). -/
def flitSlots (v : Variant) (t : TaskDecl) (i : VIns) (us : List Nat) : List Nat :=
  let w := i.w
  if (flitDst w).1 = 0 then []
  else match opcOf w with
    | 0x31 =>
      let rb := drnRow v t i
      us.zipIdx.flatMap fun u =>
        let n := rb * (u.2 + 1) / 128 - rb * u.2 / 128 + (if u.2 + 1 = us.length ∧ rb * us.length % 128 ≠ 0 then 1 else 0)
        (List.range n).map fun j => u.1 + 16 - (n - 1) / 2 + j / 2
    | 0x32 => (us.drop (us.length - (bitsOf w 39 12 + 1))).map (· + 2)
    | 0x80 => us.flatMap fun u => [u + 3, u + 3]
    | _ => (us.getLast?.toList).map (· + 2)

/-- The slots in which an instruction reads flits of the receive queue (R171, R200, R201, R209, R217). -/
def readSlots (i : VIns) (us : List Nat) : List Nat :=
  let w := i.w
  match opcOf w with
  | 0x10 => if bitOf w 39 then us else []
  | 0x11 => if bitOf w 39 then us else []
  | 0x40 => if bitOf w 37 then us.flatMap fun u => [u, u] else []
  | 0xB9 => us.take 1
  | _ => []

/-! ## One core -/

/-- A completed instruction that another knows by a chain of tokens: its engine and place in the stream, and its completions. -/
structure Seen where
  eng : Engine
  n : Nat
  ce : Nat
  cl : Nat
  deriving DecidableEq, Repr

/-- A token posted, with what its poster knows and itself. -/
structure Posted where
  q : Nat
  ce : Nat
  cl : Nat
  seen : List Seen
  deriving DecidableEq, Repr

/-- An instruction in time: earliest and latest issue, completion and unit slots, and what it knows to be complete. -/
structure Timed where
  t : TaskDecl
  n : Nat
  i : VIns
  e : Nat
  l : Nat
  ce : Nat
  cl : Nat
  ue : List Nat
  ul : List Nat
  seen : List Seen
  deriving DecidableEq, Repr

/-- An engine of a core on its way through its stream. -/
structure VEng where
  t : TaskDecl
  todo : List VIns
  e : Nat := 0
  l : Nat := 0
  br : Nat := 0
  n : Nat := 0
  seen : List Seen := []

/-- A core as its streams are timed: its engines, the tokens posted and the number taken of each queue, the passes begun with the slots of
their first verdicts, the flits sent, and the instructions so far, newest first. -/
structure VCore where
  engs : List VEng
  posts : List Posted := []
  taken : Tab Nat := []
  passes : List (Nat × Nat) := []
  sent : Nat := 0
  out : List Timed := []

/-- Seen instructions without those that another of the list implies. -/
def joinSeen (a b : List Seen) : List Seen :=
  let l := (a ++ b).dedup
  l.filter fun x => !l.any fun y => decide (x ≠ y ∧ x.eng = y.eng ∧ x.n ≤ y.n ∧ x.ce ≤ y.ce ∧ x.cl ≤ y.cl)

/-- Initial count of a queue of a task's core (R163). -/
def initCount (v : Variant) (t : TaskDecl) (q : Nat) : Nat :=
  ((v.toks.find? fun d => d.pos == t.pos && decide (d.bun = t.bun) && decide (d.cor = t.cor) && d.q.val == q).map (·.init)).getD 0

/-- The queues from which an instruction of the stream takes a token. -/
def VIns.waits (i : VIns) : List Nat := if i.alt.isSome then [] else maskList (waitMask i.tk.masks i.w)
def VIns.posts (i : VIns) : List Nat := if i.alt.isSome then [] else maskList (postMask i.tk.masks i.w)

/-- The token that the next take of queue `q` gets, the k-th in order of time: usable from its posting slot + 1 on (R164, R181). None where
it has not been posted. -/
def tokenAt (v : Variant) (c : VCore) (t : TaskDecl) (q : Nat) : Option (Nat × Nat × List Seen) :=
  let k := tabGet 0 c.taken q
  let n := initCount v t q
  if k < n then some (0, 0, [])
  else
    let ps := sortBy (fun a b => decide (a.ce ≤ b.ce)) (c.posts.filter fun p => p.q == q)
    match ps[k - n]?, (sortNat (ps.map (·.cl)))[k - n]? with
    | some p, some l => some (p.ce + 1, l + 1, p.seen)
    | _, _ => none

/-- The slots in which the head of an engine's stream can issue, with what its tokens tell; none where it waits for a token that nothing
has posted yet (R181, R195). -/
def candidate (v : Variant) (c : VCore) (g : VEng) : Option (Nat × Nat × List Seen) :=
  match g.todo with
  | [] => none
  | i :: _ =>
    match i.alt with
    | some d => some (g.br + d, g.br + d, g.seen)
    | none =>
      i.waits.foldl
        (fun r q => match r, tokenAt v c g.t q with
          | some (e, l, s), some (e', l', s') => some (max e e', max l l', joinSeen s s')
          | _, _ => none) (some (g.e, g.l, g.seen))

/-- Replay allowance of a core: 320 + 64 + f slots, f the entry slots of the longest pass of its stream (R123). -/
def allowance (unchecked : Bool) (ts : List (TaskDecl × Trace)) : Nat :=
  let n := (ts.flatMap fun x => if x.1.eng = .mac then x.2.ins.filter fun i => opcOf i.w == 0x21 else []).map fun i => passOcc i unchecked
  384 + n.foldl max 0

/-- A replay may delay the instruction or its completion (R121, R167): of LOAD and MAC anything but a pacing hold's end, of DRAIN a DRN. -/
def delayed (e : Engine) (w : Nat) : Bool :=
  match e with
  | .load => true
  | .mac => true
  | .drain => opcOf w == 0x31
  | _ => false

/-- First slot of the yield interval of an instruction. -/
def intervalStart (s : Nat) (i : VIns) : Nat := segNo s * segSlots + 4096 * i.tk.ybase

/-- An instruction of engine `g` issues in slots `e` and `l` (R181). The latest timing adds the replay allowance, once in a yield interval,
from the first verdict of the interval on: to the issue and to the completion of what a replay holds (R123). -/
def timeOne (v : Variant) (matrix : Bool) (d : Nat) (accepts : List (Option Nat)) (c : VCore) (g : VEng) (i : VIns) (rest : List VIns)
    (x : Nat × Nat × List Seen) : VCore × VEng :=
  let opc := opcOf i.w
  let spot := declUnchecked v g.t && (c.passes.length + 1) % 256 == 0
  let flits := (flitDst i.w).1 == 1
  let e := x.1
  let acc := match accepts[c.sent]? with | some a => a | none => none
  let se := spanOf v g.t i spot acc e
  let passes := if opc = 0x21 then c.passes ++ [(e, e + (if fmtBits i.tk.afmt.toNat = 16 then 2 else 1) * (if spot then 2 else 1) + 128)] else c.passes
  let first := (passes.find? fun p => decide (intervalStart e i ≤ p.1)).map (·.2)
  let late := fun (s : Nat) => matrix && delayed g.t.eng i.w && (match first with | some z => decide (z ≤ s) | none => false)
  let pacing := decide (opc = 0x03 ∨ opc = 0x04)
  let l := if late e ∧ !pacing then max x.2.1 (e + d) else x.2.1
  let sl := spanOf v g.t i spot acc l
  let free := decide (2 ≤ opc ∧ opc ≤ 4)
  let cl := if late se.fin ∧ !free then max sl.fin (se.fin + d) else sl.fin
  let nl := if late se.fin ∧ !free ∧ opc ≠ 0x12 then max sl.next (se.next + d) else sl.next
  let ev : Timed := { t := g.t, n := g.n, i := i, e := e, l := l, ce := se.fin, cl := cl, ue := se.units, ul := sl.units, seen := x.2.2 }
  let me : Seen := { eng := g.t.eng, n := g.n, ce := se.fin, cl := cl }
  let sent := if flits then (flitSlots v g.t i se.units).length else 0
  if i.alt.isSome then ({ c with out := ev :: c.out }, { g with todo := rest, n := g.n + 1 })
  else
    ({ c with
       posts := c.posts ++ i.posts.map fun q => { q := q, ce := se.fin, cl := cl, seen := joinSeen x.2.2 [me] }
       taken := i.waits.foldl (fun t q => tabMod 0 q (· + 1) t) c.taken
       passes := passes, sent := c.sent + sent, out := ev :: c.out },
     { g with todo := rest, e := se.next + i.cost, l := nl + i.cost, br := e, n := g.n + 1, seen := x.2.2 })

/-- Every instruction of a core's engines, each when it can issue, the earliest first. -/
def timeAll (v : Variant) (matrix : Bool) (d : Nat) (accepts : List (Option Nat)) : Nat → VCore → VCore
  | 0, c => c
  | n + 1, c =>
    let best := c.engs.zipIdx.foldl
      (fun (b : Option (Nat × Nat × Nat × List Seen)) g =>
        match candidate v c g.1, b with
        | some x, some y => if x.1 < y.2.1 then some (g.2, x) else b
        | some x, none => some (g.2, x)
        | none, _ => b) none
    match best with
    | none => c
    | some (k, x) =>
      match c.engs[k]? with
      | none => c
      | some g =>
        match g.todo with
        | [] => c
        | i :: rest =>
          let (c', g') := timeOne v matrix d accepts c g i rest x
          timeAll v matrix d accepts n { c' with engs := c'.engs.set k g' }

/-- Key of the core of a task, by its frame position. -/
def declKey (t : TaskDecl) : Nat := 288 * t.pos + 8 * t.bun.val + t.cor.val

/-- A core that the plan's tasks use, timed: its key, its instructions in the order of their earliest issue, and the heads of streams that
wait for a token for ever. -/
structure CoreTime where
  key : Nat
  out : List Timed
  stuck : List (TaskDecl × VIns)
  taken : Tab Nat
  posts : List Posted

/-- The tasks of a core timed (R181). -/
def timeCore (g : Grid) (spans : List Nat) (ts : List (TaskDecl × Trace)) (key : Nat) : CoreTime :=
  let mine := ts.filter fun x => declKey x.1 == key
  let matrix := decide (key % 8 < 4)
  let unchecked := mine.any fun x => declUnchecked g.v x.1
  let accepts := if key % 8 = 7 then
      (g.leaves key spans).map fun x => (x.ends.findSome? fun y => match y with | .tap _ t => some (t + 1) | _ => none)
    else []
  let n := (mine.map fun x => x.2.ins.length).sum
  let c := timeAll g.v matrix (allowance unchecked mine) accepts n { engs := mine.map fun x => { t := x.1, todo := x.2.ins } }
  { key := key, out := c.out.reverse, stuck := c.engs.filterMap fun e => e.todo.head?.map fun i => (e.t, i), taken := c.taken, posts := c.posts }

end Sys2Proof.Machine
end

