-- ==== Sys2Proof/Machine/Flits.lean ====
section
/-! DEFINITION. What the verifier checks of flits, queues, interlocks, yield points and barriers (06 R167 to R178, R182, 02 R52, 05 R135, R141,
R151 to R153, 04 R110): with each instruction's slots under the earliest and the latest timing, and with the route tables. -/

namespace Sys2Proof.Machine

/-- A plan in time: its grid, the streams of its tasks, its cores, and for each frame position the slots of each segment that its routers
run. -/
structure Plan where
  m : Family
  g : Grid
  ts : List (TaskDecl × Trace)
  cores : List CoreTime
  spans : Nat → List Nat

/-- A rejection code with its section and the place in it. -/
structure Hit where
  code : Nat
  sec : Nat
  items : List Nat
  deriving DecidableEq, Repr

/-- A hit at an instruction. -/
def hitAt (code : Nat) (t : TaskDecl) (pc : Nat) : Hit := { code := code, sec := 2, items := [t.pos, t.bun.val, t.cor.val, engCode t.eng, pc] }

/-- A hit at an instruction in time, where the condition holds. -/
def hitIf (b : Bool) (code : Nat) (x : Timed) : List Hit := if b then [hitAt code x.t x.i.pc] else []

/-! ## Segments, yield points and barriers of the streams -/

/-- The pacing instructions of a stream that every engine passes: YIELD and SYNC, in order. -/
def pacesOf (r : Trace) : List VIns := r.ins.filter fun i => i.alt.isNone && (opcOf i.w == 0x03 || opcOf i.w == 0x04)

/-- Barriers that a stream passes, in order. -/
def syncsOf (r : Trace) : List Nat := ((pacesOf r).filter fun i => opcOf i.w == 0x04).map fun i => bitsOf i.w 19 4

/-- Epochs of each segment of a stream: the offset of its last yield point, and 16 more where a barrier ends it (R177, R178). -/
def epochsOf (r : Trace) : List Nat :=
  let (l, j) := (pacesOf r).foldl
    (fun (x : List Nat × Nat) i => if opcOf i.w = 0x04 then (x.1 ++ [x.2 + 16], 0) else (x.1, i.tk.ybase + bitsOf i.w 19 4 + 1)) ([], 0)
  l ++ [j]

/-- Slots of each segment of a plan at most. -/
def spansOf (ts : List (TaskDecl × Trace)) : List Nat :=
  ts.foldl (fun l x => (List.range (max l.length (epochsOf x.2).length)).map fun n => max (l.getD n 0) (4096 * (epochsOf x.2).getD n 0)) []

/-- The barriers that a plan's tasks pass, in order, as the first task passes them. -/
def barsOf (v : Variant) (ts : List (TaskDecl × Trace)) : List BarrierDecl :=
  match ts with
  | [] => []
  | x :: _ => (syncsOf x.2).filterMap fun b => v.barriers.find? fun d => d.b.val == b

/-- The instructions in time of a list of cores. -/
def allTimed (cs : List CoreTime) : List Timed := cs.flatMap (·.out)

/-- The SYNC instructions of segment `n` of the tasks at a position. -/
def syncAt (cs : List CoreTime) (pos n : Nat) : List Timed :=
  (allTimed cs).filter fun x => opcOf x.i.w == 0x04 && x.i.alt.isNone && x.t.pos == pos && segNo x.e == n

/-- Earliest and latest boundary at which a position stops for the barrier that ends segment `n` (R175). -/
def stopOf (cs : List CoreTime) (pos n : Nat) : Option (Nat × Nat) :=
  match syncAt cs pos n with
  | [] => none
  | l => some (epochUp ((l.map (·.e)).foldl max 0), epochUp ((l.map (·.l)).foldl max 0 + 1))

/-- The slots that the routers of a position run in each segment: a barrier stops them (R175). -/
def runSpans (cs : List CoreTime) (full : List Nat) (pos : Nat) : List Nat :=
  full.zipIdx.map fun n => match stopOf cs pos n.2 with | some s => min n.1 (inSeg s.2) | none => n.1

/-- A plan timed: each round knows the barriers' stops of one segment more. -/
def timeRounds (g : Grid) (ts : List (TaskDecl × Trace)) (full : List Nat) : Nat → List CoreTime → List CoreTime
  | 0, cs => cs
  | n + 1, cs =>
    timeRounds g ts full n (((ts.map fun x => declKey x.1).dedup).map fun k => timeCore g (runSpans cs full (k / 288)) ts k)

/-- A variant's plan in time (R181). -/
def planOf (m : Family) (v : Variant) (ts : List (TaskDecl × Trace)) : Plan :=
  let g : Grid := { fc := m.fc, fr := m.fr, v := v, bars := barsOf v ts }
  let cs := timeRounds g ts (spansOf ts) (g.bars.length + 1) []
  { m := m, g := g, ts := ts, cores := cs, spans := runSpans cs (spansOf ts) }

/-! ## Send and receive queues -/

/-- Flits that a core writes to its send queue, in order: earliest and latest slot (R169). -/
def sendsOf (p : Plan) (c : CoreTime) : List (Timed × Nat × Nat) :=
  (c.out.filter fun x => (flitDst x.i.w).1 == 1 && x.i.alt.isNone).flatMap fun x =>
    ((flitSlots p.g.v x.t x.i x.ue).zip (flitSlots p.g.v x.t x.i x.ul)).map fun y => (x, y)

/-- Departures of a core's flits. -/
def leavesOf (p : Plan) (c : CoreTime) : List Leave := p.g.leaves c.key (p.spans (c.key / 288))

/-- SEND_DEADLINE: a departure finds no flit that stood in the queue in the slot before it, under the latest timing (R169, R170, R182). -/
def deadlineHits (p : Plan) : List Hit :=
  p.cores.flatMap fun c =>
    (leavesOf p c).zipIdx.flatMap fun y =>
      match (sendsOf p c)[y.2]? with
      | some x => hitIf (decide (y.1.t ≤ x.2.2)) 0x0D x.1
      | none => [{ code := 0x0D, sec := 6, items := [c.key, y.1.t] }]

/-- Keys of cores that a flit of a plan can reach: every core with a task. -/
def arrivalsOf (p : Plan) (key : Nat) : List (Nat × Nat) :=
  (p.cores.flatMap fun c => (leavesOf p c).flatMap fun y => y.ends.filterMap fun z => match z with
    | .core k t => if k = key then some (t, t) else none
    | _ => none) ++
  (p.cores.flatMap fun c =>
    if c.key / 8 ≠ key / 8 then []
    else (c.out.filter fun x => decide (flitDst x.i.w = (2, key % 8)) && x.i.alt.isNone).flatMap fun x =>
      ((flitSlots p.g.v x.t x.i x.ue).zip (flitSlots p.g.v x.t x.i x.ul)).map fun y => (y.1 + 2, y.2 + 2))

/-- Flits that a core reads from its receive queue, in order: earliest and latest slot (R171). -/
def readsOf (c : CoreTime) : List (Timed × Nat × Nat) :=
  (c.out.filter fun x => x.i.alt.isNone).flatMap fun x => ((readSlots x.i x.ue).zip (readSlots x.i x.ul)).map fun y => (x, y)

/-- QUEUE_OVERFLOW: more than 32 flits in a send queue under the earliest timing, or in a receive queue under the latest (R152, R182). -/
def overflowHits (p : Plan) : List Hit :=
  (p.cores.flatMap fun c =>
    let w := sendsOf p c
    let d := leavesOf p c
    w.flatMap fun x =>
      hitIf (decide (32 + (d.filter fun y => decide (y.t ≤ x.2.1)).length < (w.filter fun y => decide (y.2.1 ≤ x.2.1)).length)) 0x0E x.1) ++
  (p.cores.flatMap fun c =>
    let a := sortNat ((arrivalsOf p c.key).map (·.1))
    let r := readsOf c
    a.zipIdx.flatMap fun x =>
      if 32 + (r.filter fun y => decide (y.2.2 ≤ x.1)).length < x.2 + 1 then [{ code := 0x0E, sec := 6, items := [c.key, x.1] }] else [])

/-- Reads of an empty receive queue (R167, R171, R182). -/
def emptyHits (p : Plan) : List Hit :=
  p.cores.flatMap fun c =>
    let a := sortNat ((arrivalsOf p c.key).map (·.2))
    (readsOf c).zipIdx.flatMap fun x => match a[x.2]? with
      | some t => hitIf (decide (x.1.2.1 ≤ t)) 0x0F x.1.1
      | none => hitIf true 0x0F x.1.1

/-- A third exchange flit in one slot at one core (R153, R182). -/
def exchangeHits (p : Plan) : List Hit :=
  let l := p.cores.flatMap fun c => (c.out.filter fun x => (flitDst x.i.w).1 == 2 && x.i.alt.isNone).flatMap fun x =>
    (flitSlots p.g.v x.t x.i x.ue).map fun t => (x, 8 * (c.key / 8) + (flitDst x.i.w).2, t)
  l.zipIdx.flatMap fun x => hitIf (decide (2 ≤ ((l.take x.2).filter fun y => decide (y.2 = x.1.2)).length)) 0x0F x.1.1

/-! ## Interlocks within a core -/

/-- Stationary set: a load before the last entry of the pass before it, or a pass before its set is complete (R110, R182). -/
def stationHits (p : Plan) : List Hit :=
  p.cores.flatMap fun c =>
    let loads := c.out.filter fun x => opcOf x.i.w == 0x12
    let passes := c.out.filter fun x => opcOf x.i.w == 0x21
    (loads.flatMap fun x => hitIf (passes.any fun y => decide (y.e ≤ x.e ∧ x.e < y.ce - 128)) 0x0F x) ++
    (passes.flatMap fun y => hitIf (loads.any fun x => decide (x.e ≤ y.e ∧ y.e < x.e + 64)) 0x0F y)

/-- Vector registers that a VEC word reads, and those that it writes (R210 to R216); the quad onto which it adds is the third part. -/
def vecRegs (w : Nat) : List Nat × List Nat × Option Nat :=
  let opc := opcOf w
  let q1 := quadRegs (bitsOf w 19 7)
  let q2 := quadRegs (bitsOf w 26 7)
  let vr := bitsOf w 33 9
  if opc = 0x66 ∨ opc = 0x67 then ([], [fVD w], none)
  else if opc = 0x68 then ([], [], none)
  else if opc = 0x53 ∨ opc = 0x61 then ([fVA w, fVB w, fVC w], [fVD w], none)
  else if opc = 0x65 ∨ opc = 0x6D ∨ opc = 0x6E ∨ opc = 0x70 ∨ opc = 0x72 ∨ opc = 0x74 ∨ opc = 0x7C ∨ opc = 0x7D then ([fVA w], [fVD w], none)
  else if opc = 0x6C then (fVA w :: (if cvtUsesVB (bitsOf w 46 4) (bitsOf w 50 4) then [fVB w] else []), [fVD w], none)
  else if opc = 0x76 then ([vr], q1, none)
  else if opc = 0x77 then ([vr], q1, some (bitsOf w 19 7))
  else if opc = 0x78 then (q2, q1, some (bitsOf w 19 7))
  else if opc = 0x79 ∨ opc = 0x7B then (q2, q1, none)
  else if opc = 0x7A then (q2, [vr], none)
  else ([fVA w, fVB w], [fVD w], none)

/-- The adder forwards the quad that the instruction leaves: WCVT, WACC and WADD (R143). -/
def forwards (w : Nat) : Bool := opcOf w == 0x76 || opcOf w == 0x77 || opcOf w == 0x78

/-- A write of a vector register: by LOAD or VEC, the slot from which it is under way, the slot from which it may be read. -/
structure RegWrite where
  reg : Nat
  ld : Bool
  at_ : Nat
  due : Nat
  fwd : Bool

/-- The register writes of an instruction of a vector core (R135, R140, R209). -/
def regWrites (x : Timed) : List RegWrite :=
  let w := x.i.w
  if x.t.eng = .vec ∧ 0x50 ≤ opcOf w then
    (vecRegs w).2.1.map fun r => { reg := r, ld := false, at_ := x.e, due := x.ce + 1, fwd := forwards w }
  else if opcOf w = 0x40 then
    let nr := bitsOf w 28 9 + 1
    (List.range nr).map fun k =>
      let u := if x.ue.length = nr then x.ue.getD k x.e else x.ue.getD (2 * k + 1 + (x.ue.length - 2 * nr)) x.e
      { reg := bitsOf w 19 9 + k, ld := true, at_ := u, due := u + 4, fwd := false }
  else []

/-- A VEC read before its producer's latency has elapsed, but for a forwarded sum (R141, R143, R182); or VEC and LOAD writing one register
in one slot (R135). -/
def registerHits (p : Plan) : List Hit :=
  p.cores.flatMap fun c =>
    let ws := c.out.map fun x => (x, regWrites x)
    let all := ws.flatMap (·.2)
    ws.flatMap fun y =>
      let x := y.1
      if x.t.eng ≠ .vec ∨ opcOf x.i.w < 0x50 then []
      else
        let r := vecRegs x.i.w
        let busy := fun (fwdOk : Bool) (g : Nat) => all.any fun z =>
          z.reg == g && decide (z.at_ ≤ x.e ∧ x.e < z.due) && (z.ld || decide (z.at_ < x.e)) && !(fwdOk && z.fwd)
        hitIf (r.1.any (busy false) || (match r.2.2 with | some q => (quadRegs q).any (busy true) | none => false)) 0x0F x ++
        hitIf (y.2.any fun z => all.any fun l => l.ld && l.reg == z.reg && l.due == z.due) 0x0F x

/-! ## Tokens -/

/-- TOKEN_IMBALANCE: a take for which no token comes, or a count above 63 with the posts early and the takes late (R165, R182). -/
def tokenHits (p : Plan) : List Hit :=
  p.cores.flatMap fun c =>
    (c.stuck.map fun x => hitAt 0x0A x.1 x.2.pc) ++
    ((List.range 16).flatMap fun q =>
      let takes := (c.out.filter fun x => x.i.waits.contains q).map (·.l)
      c.out.flatMap fun x =>
        if !x.i.posts.contains q then []
        else
          let n := initCount p.g.v x.t q + ((c.posts.filter fun y => y.q == q && decide (y.ce ≤ x.ce)).length)
          hitIf (decide (63 + (takes.filter fun t => decide (t ≤ x.ce)).length < n)) 0x0A x)

/-! ## Yield points -/

/-- The first slots of the yield points that the streams pass. -/
def yieldSlots (p : Plan) : List Nat :=
  match p.cores with
  | [] => []
  | c :: _ => match c.out.find? fun x => x.i.alt.isNone with
    | none => []
    | some y => (c.out.filter fun x => x.t.eng == y.t.eng && opcOf x.i.w == 0x03 && x.i.alt.isNone).map fun x => x.ce + 1

/-- YIELD_SPACING of R178: an instruction before YIELD y that does not complete before the first slot of J_y under the latest timing, a
YIELD that comes too late itself, or a flit that has departed before that slot and not ended before it. -/
def yieldHits (p : Plan) : List Hit :=
  (p.cores.flatMap fun c =>
    let ys := c.out.filter fun x => opcOf x.i.w == 0x03 && x.i.alt.isNone
    (ys.flatMap fun y =>
      hitIf (decide (segNo y.e * segSlots + 4096 * (y.i.tk.ybase + bitsOf y.i.w 19 4 + 1) ≤ y.l)) 0x12 y) ++
    (c.out.flatMap fun x =>
      match ys.find? fun y => y.t.eng == x.t.eng && decide (x.n < y.n) with
      | some y => hitIf (decide (y.ce < x.cl) && !(opcOf x.i.w == 0x04)) 0x12 x
      | none => [])) ++
  (p.cores.flatMap fun c => (leavesOf p c).flatMap fun d =>
    if (yieldSlots p).any fun j => decide (d.t < j) && d.ends.any fun z => decide (j ≤ z.slot) then
      [{ code := 0x12, sec := 6, items := [c.key, d.t] }] else [])

/-! ## Barriers -/

/-- The slots of a route word's index in [lo, hi) of a segment: some lie there. -/
def wordInRange (g : Grid) (r : RouteDecl) (lo hi : Nat) : Bool :=
  (g.slotsOf r.plane.val r.index (segNo lo) (inSeg hi)).any fun t => decide (lo ≤ t)

/-- BARRIER of R173 to R175: tasks that pass other barriers than another task; a flit sent before a barrier that is delivered after the
earliest stop; a route word that forwards between the earliest SYNC of a field and its latest stop; a bunch with tasks and no SCALAR task,
which could not report (R220; log 153). -/
def barrierHits (p : Plan) : List Hit :=
  let poss := (p.ts.map fun x => x.1.pos).dedup
  (p.ts.flatMap fun x => match p.ts with
    | y :: _ => if syncsOf x.2 = syncsOf y.2 then [] else [hitAt 0x13 x.1 x.1.entry.toNat]
    | [] => []) ++
  (p.ts.flatMap fun x =>
    if p.ts.any fun y => decide (declKey y.1 = declKey x.1 / 8 * 8 + 7) then [] else [hitAt 0x13 x.1 x.1.entry.toNat]) ++
  ((List.range p.g.bars.length).flatMap fun n =>
    let stops := poss.filterMap fun q => stopOf p.cores q n
    let first := (stops.map (·.1)).foldl (fun (m : Option Nat) t => some (match m with | some y => min y t | none => t)) none
    (p.cores.flatMap fun c => (leavesOf p c).flatMap fun d =>
      let past := match first with | some z => d.ends.any fun e => decide (z ≤ e.slot) | none => false
      if segNo d.t == n && past then
        [{ code := 0x13, sec := 6, items := [c.key, d.t] }] else []) ++
    (poss.flatMap fun q => match stopOf p.cores q n, (syncAt p.cores q n).map (·.e) with
      | some s, e :: es =>
        let lo := es.foldl min e
        (p.g.v.routes.filter fun r => r.pos == q && r.bank.val == 0 && (List.range 5).any fun d => outSource r.word.toNat d != 0).flatMap fun r =>
          if wordInRange p.g r lo s.2 then [{ code := 0x13, sec := 6, items := [r.pos, r.bun.val, r.plane.val, r.index] }] else []
      | _, _ => []))

/-! ## Swaps of the route banks -/

/-- A router takes in from side `src`, in the staged bank at an index (R51). -/
def stagedTakes (v : Variant) (pos b p i src : Nat) : Bool :=
  v.routes.any fun r => r.pos == pos && r.bun.val == b && r.plane.val == p && r.bank.val == 1 && r.index == i &&
    (List.range 5).any fun o => outSource r.word.toNat o == src

/-- ROUTE_SWAP of R52: a flit that a word of the outgoing bank sends k slots before the swap, and that arrives d − k slots after it, is
neither forwarded nor delivered by the incoming bank, whose index starts at 0 with the swap's epoch. A swap can fall on any epoch, and the
outgoing bank's index then has any value that its period, its base and the epoch allow. -/
def swapHits (g : Grid) : List Hit :=
  (g.v.routes.filter fun r => r.bank.val == 0).flatMap fun r =>
    let p := r.plane.val
    let staged := periodOf g.v p 1
    if staged = 0 then []
    else
      let cyc := Nat.gcd 4096 (max 1 (periodOf g.v p 0))
      let bases := 0 :: g.v.barriers.map fun b => if p = 0 then b.resume0 else b.resume1
      let strands := (List.range 4).any fun o =>
        outSource r.word.toNat o != 0 && (match g.next r.pos r.bun.val o with
          | none => false
          | some (q, b, d) => (List.range d).any fun k =>
              bases.any (fun z => (r.index + k + 1) % cyc == z % cyc) && !stagedTakes g.v q b p ((d - (k + 1)) % staged) ((o + 2) % 4 + 1))
      if strands then [{ code := 0x0C, sec := 6, items := [r.pos, r.bun.val, p, r.index] }] else []

end Sys2Proof.Machine
end

