-- ==== Sys2Proof/Machine/Predictor.lean ====
section
/-! DEFINITION. How firmware follows the predicted layers of a job (10 R307 to R313): the counter records of its bunches, their snapshots and
the escalation of variants. -/

namespace Sys2Proof.Machine

/-! ## Counter areas -/

/-- Bytes of the live records of a counter area, of each of its halves, and the place of its SNAPSTEP. DEDUCED (log 179): the parts of the
area lie in the order in which R309 names them. -/
def areaBytes (d : CounterDecl) : Nat := 128 * d.layers.length
def halfAt (d : CounterDecl) (h : Nat) : Nat := d.addr + (1 + h % 2) * areaBytes d
def stepAt (d : CounterDecl) : Nat := d.addr + 3 * areaBytes d

/-- The counter areas of a job that its fields hold, each with the first ODA of its scalar core's memory (R309). -/
def counterAreas (s : State) (a : Nat) : List (CounterDecl × Nat) :=
  (workFields s a).flatMap fun f =>
    match framePos (jobOf s a).fam (jobOf s a).origin f with
    | some p => ((varOf s a).counters.filter fun d => d.pos == p).map fun d => (d, coreBase { fld := Fin.ofNat 36 f, bun := d.bun, cor := 7 })
    | none => []

/-- SNAPSTEP of an area (R309). -/
def snapStepOf (s : State) (x : CounterDecl × Nat) : Nat := dieRead s (x.2 + stepAt x.1) 8

/-- Cumulative count `k` of a layer in half `h` of an area: 0 COMPUTED, 1 SKIPPED, 2 AUDITED, 3 FOUND, 4 MADEUP, 5 LOST, 6 EST (R307). -/
def countAt (s : State) (x : CounterDecl × Nat) (layer h k : Nat) : Nat :=
  ((numbered x.1.layers).map fun l => if l.2 = layer then dieRead s (x.2 + halfAt x.1 h + 128 * l.1 + 16 + 8 * k) 8 else 0).sum

/-- The change of a count in snapshot `n`, over the job's bunches: what half n mod 2 holds above the half before it (R309, R310). -/
def snapDelta (s : State) (a layer n k : Nat) : Nat :=
  ((counterAreas s a).map fun x =>
    (countAt s x layer n k + 2 ^ 64 - (if n = 0 then 0 else countAt s x layer (n + 1) k)) % 2 ^ 64).sum

/-! ## Escalation -/

/-- A layer's misses in snapshot `n` exceed its bound (R310). -/
def exceeds (s : State) (a n : Nat) (l : LayerDecl) : Bool :=
  decide (l.bound * snapDelta s a l.layer n 1 < snapDelta s a l.layer n 6 * 256)

/-- Argument of a PREDICTOR_VARIANT commit (R311). -/
def variantArg (a layer kvar ts : Nat) : BitVec 64 := BitVec.ofNat 64 (a + 2 ^ 8 * layer + 2 ^ 24 * kvar + 2 ^ 32 * ts)

/-- The evaluation of snapshot `n` (R310, R313): each CHECKED layer over its bound escalates by one variant, or is saturated at its largest;
under reproducible mode the changes carry TS = n + 2 and a confirmation of that step follows. -/
def evaluate (s : State) (a n : Nat) : State :=
  let j := jobOf s a
  let repro := bitOf j.policy.toNat 3
  let ts := if repro then n + 2 else 0
  let more := canEscalate s a
  let bad := (varOf s a).layers.filter fun l => l.policy == 1 && exceeds s a n l
  let s := bad.foldl
    (fun s l =>
      let k := tabGet 0 j.kvars l.layer
      if k + 1 < l.kvars.length then pithPrepare s .predictorVariant (variantArg a l.layer (k + 1) ts)
      else pithEvent s 0x0009 a (Config.detailOf 0x0009 [l.layer]).toNat (.job a) 0) s
  if repro && more then pithPrepare s .predictorVariant (variantArg a 0xFFFF 0 ts) else s

/-- Firmware reads SNAPSTEP of every area once the job has passed the STEP yield point that ends step n, and evaluates the halves that they
name where all name n (R309, R310). DESIGN CHOICE (log 180): it looks as a field of the job reaches an epoch, and as a takeover completes. -/
def readSnaps (s : State) (a : Nat) : State :=
  let j := jobOf s a
  if !pithUp s || !j.live || (varOf s a).layers.isEmpty then s
  else
    let n := ((workFields s a).map fun f => tabGet 0 (fieldOf s f).job.step a).foldl min (2 ^ 32)
    if n = 0 || n == 2 ^ 32 || decide (n ≤ j.snapped) || !((counterAreas s a).all fun x => snapStepOf s x == n - 1) then s
    else evaluate (modJob s a fun j => { j with snapped := n }) a (n - 1)

end Sys2Proof.Machine
end

