-- ==== Sys2Proof/Machine/StreamOps.lean ====
section
/-! DEFINITION. What the stream complex of a field does (09 R248 to R274), shared by its commands: requests, descriptors, the
blocks of a descriptor, faults and resume points, carrier channels and landing credits. -/

namespace Sys2Proof.Machine

/-! ## On-die addresses -/

/-- The on-die bytes [oda, oda + n) are backed for job `a` (R247). -/
def odaBacked (s : State) (a oda n : Nat) : Bool :=
  let f := bitsOf oda 34 6
  let last := oda + n - 1
  decide (oda + n ≤ 2 ^ 40 ∧ f < 36) && bitsOf last 34 6 == f && hasWork s f a &&
    (if bitOf oda 33 then
       let b := bitsOf oda 23 6
       let c := bitsOf oda 20 3
       zb oda 29 4 && decide (b < 36) && last / 2 ^ 20 == oda / 2 ^ 20 && decide (bitsOf last 0 20 < coreMemSize c) && bunchPresent s f b
     else zb oda 27 6 && decide (bitsOf last 0 33 < sharedSize)) &&
    (placeKeys oda n).all (placeOn (fieldOf s f))

/-- An on-die address moved by a signed number of bytes. -/
def odaPlus (oda : Nat) (z : Int) : Nat := wrapInt ((oda : Int) + z) 40

/-- Bruise bits of the 64 pieces of 64 bytes from `oda` on. -/
def pieceBr (s : State) (oda : Nat) : Nat → Nat
  | 0 => 0
  | n + 1 => pieceBr s oda n + (if dieBruised s (oda + 64 * n) 64 then 2 ^ n else 0)

/-! ## The geometry of a descriptor -/

/-- Near-end base and far-end base of a stream's descriptor (R257, R261). -/
def nearOf (x : Field) (st : Nat) (y : Stream) (d : Nat) : Nat :=
  if dRel d then (tabGet 0 x.str.nbase (4 * st + y.nbsel) - 1 + dNear d) % 2 ^ 40 else dNear d
def farOf (y : Stream) (d : Nat) : Nat := (if dRel d then dFar d + y.farbase.toNat else dFar d) % 2 ^ 57

/-- Bytes of one row or source tile, and the near ranges that a descriptor names (R258, R259, R282). -/
def nearRanges (near d : Nat) : List (Nat × Nat) :=
  if dLayout d = 1 then [(near, (dRows d + 63) * skewLine d)]
  else (List.range (dRows d)).map fun r => (odaPlus near (r * dNstr d * 64), 64 * dRowg d)

/-- Blocks that a PUTZ reads whole and whose check word differs from their CRC (R356). -/
def wrongBlocks (s : State) (near d : Nat) : List Nat :=
  if s.mem.crcErr.isEmpty then []
  else
    let gs := (List.range (dRows d)).flatMap fun r => (List.range (dRowg d)).map (· + odaPlus near (r * dNstr d * 64) / 64)
    (s.mem.crcErr.map (·.1)).filter fun blk => wordWrong s blk && (List.range 64).all fun i => gs.contains (64 * blk + i)

/-- The region that a PUTZ writes (R282); the granules of a source block that its check word does not match count as bruised (R356). -/
def putzRegion (s : State) (near d : Nat) : Region :=
  let wrong := wrongBlocks s near d
  (List.range (dRows d)).foldl
    (fun (r : Region) (n : Nat) =>
      let a := odaPlus near ((n : Int) * dNstr d * 64)
      let len := min (64 * dRowg d) (denseSize (dFmt d))
      let br := (List.range (dRowg d)).filter fun g => dieBruised s (a + 64 * g) 64 || wrong.contains ((a / 64 + g) / 64)
      addTile (dFmt d) r (encodeTile (dFmt d) d n (dieRead s a len) br)) {}

/-- Number of blocks of a descriptor. -/
def descTotal (s : State) (near d : Nat) : Nat :=
  if dLayout d = 1 then dRows d * skewLine d / 4096
  else if dOp d = 3 then
    let r := putzRegion s near d
    ceilDiv r.len 4096 + ceilDiv (16 * r.n) 4096
  else dRows d * (dRowg d / 64)

/-- Far-end DVA of block `b` (R258, R259, R282, R297). -/
def blockFar (s : State) (near far d b : Nat) : Nat :=
  if dLayout d = 1 then (far + 4096 * b) % 2 ^ 57
  else if dOp d = 3 then
    let n := ceilDiv (putzRegion s near d).len 4096
    if b < n then (far + 4096 * b) % 2 ^ 57 else (dDir d + 4096 * (b - n)) % 2 ^ 57
  else
    let w := dRowg d / 64
    wrapInt ((far : Int) + (b / w : Nat) * dFstr d * 64 + (4096 * (b % w) : Nat)) 57

/-- Near-end ODA of block `b` of a LINEAR GET or PUT (R258). -/
def blockNear (near d b : Nat) : Nat :=
  let w := dRowg d / 64
  odaPlus near ((b / w : Nat) * dNstr d * 64 + (4096 * (b % w) : Nat))

/-- The pieces of block `b` of a SKEW64 descriptor, one for each element that has bits in it: bit offset in the block, on-die bit
address and bits (R105, R259). -/
def skewPieces (near d b : Nat) : List (Nat × Nat × Nat) :=
  let w := skewBits d
  let row := 8 * skewLine d
  let lo := 32768 * b
  let hi := 32768 * (b + 1)
  (List.range (ceilDiv hi w - lo / w)).map fun i =>
    let start := (lo / w + i) * w
    let v := start / row
    let k := start % row / w
    let a := max lo start
    (a - lo, 8 * (near + (v + k / skewStep d) * skewLine d) + k * w + (a - start), min hi (start + w) - a)

/-- `w` bits of on-die memory at bit address `a`. -/
def dieBits (s : State) (a w : Nat) : Nat := bitsOf (dieRead s (a / 8) ((a % 8 + w + 7) / 8)) (a % 8) w

/-- A SKEW64 block gathered from its lines (log 24). -/
def skewLoad (s : State) (near d b : Nat) : BlockData :=
  let (v, br) := (skewPieces near d b).foldl
    (fun (r : Nat × Nat) e =>
      (r.1 + dieBits s e.2.1 e.2.2 * 2 ^ e.1,
       if dieBruised s (e.2.1 / 8) ((e.2.1 % 8 + e.2.2 + 7) / 8) then r.2 ||| 2 ^ (e.1 / 512) else r.2)) (0, 0)
  tierBlock v br

/-- The block that a PUT or PUTZ reads (R258, R282). -/
def putBlock (s : State) (near d b : Nat) : BlockData :=
  if dLayout d = 1 then skewLoad s near d b
  else if dOp d = 3 then
    let r := putzRegion s near d
    let n := ceilDiv r.len 4096
    if b < n then
      tierBlock (bitsOf r.bytes (32768 * b) 32768)
        ((List.range 64).foldl (fun m i => if r.br.contains (64 * b + i) then m + 2 ^ i else m) 0)
    else tierBlock (bitsOf r.dir (32768 * (b - n)) 32768) 0
  else
    let a := blockNear near d b
    tierBlock (dieRead s a 4096) (pieceBr s a 64)

/-- A block read on-die whose CRC differs from its check word: every granule goes out bruised, and BLOCK_CRC is raised (R356). A
block without a valid check word, or off a 4 KiB boundary, is not compared (R355). -/
def putChecked (s : State) (f a oda : Nat) (whole : Bool) (b : BlockData) : BlockData × State :=
  if whole && oda % 4096 == 0 && !tabGet false s.mem.unckd (oda / 4096) && b.check.toNat != blockWord s (oda / 4096) then (allBruised b, raiseField s f 0x0105 a 6 oda 0)
  else (b, s)

/-! ## Streams -/

/-- Transfers in flight of stream `st` of field `f`. -/
def openXfers (s : State) (f st : Nat) : List Transfer := (fieldOf s f).str.xfer.filter fun t => t.stream == st

/-- No transfer of the complex holds a tag (R249). -/
def tagFree (s : State) (f g : Nat) : Bool :=
  !((fieldOf s f).str.xfer.any fun t => t.tag == g) && !((fieldOf s f).str.bursts.any fun b => b.tag == g)

/-- The lowest free transfer tag (R249). DESIGN CHOICE (log 191): a punnet fetch and a request burst take it. -/
def freeTag (s : State) (f : Nat) : Option Nat := (List.range 2048).find? (tagFree s f)

/-- The descriptor `i` that the stream holds. -/
def heldDesc (y : Stream) (i : Nat) : Option Nat :=
  if y.base ≤ i then (y.descs[i - y.base]?).map (·.toNat) else none

/-- A stream is put back to descriptor 0 for a restart; the first punnet is kept where the whole list fits in it (R263). -/
def restart (y : Stream) (t0 nb : Nat) (fb : BitVec 64) : Stream :=
  let keep := y.base == 0 && (y.descs.take 16).any fun d => dLast d.toNat
  { y with st := .active, t0 := t0, nbsel := nb, farbase := fb, didx := 0, boff := 0, begun := false, next := 0, moved := 0, total := 0,
           descs := if keep then y.descs.take 16 else [], base := 0, fkind := 0, fdva := 0 }

/-- TAG of the stream's current descriptor, which the events of the stream report (R257). -/
def streamTag (s : State) (f st : Nat) : Nat :=
  match heldDesc (streamOf s f st) (streamOf s f st).didx with | some d => dTag d | none => 0

/-- DETAIL of an event of a stream: an item of the event's own, the stream and the TAG of its descriptor (R257, R370). -/
def streamDetail (s : State) (f st code item : Nat) : Nat := (Config.detailOf code [item, st, streamTag s f st]).toNat

/-- STREAM_FAULT of a kind, with the stream (R263, R269). A fault during a drain is not an event (R275). -/
def raiseStream (s : State) (f st kind fdva : Nat) : State :=
  if (streamOf s f st).draining then s
  else
    raise s { mkEvent (fieldAddr f) (slotOf s f) 0x020A (fieldOf s f).cond.owner 0 6 fdva (streamDetail s f st 0x020A kind) with
      notPresent := kind == 1 }

/-- A stream faults at block `boff` of descriptor `didx`, and the complex reports it to the pith (R268, R269). -/
def faultStream (s : State) (f st kind didx boff fdva : Nat) : State :=
  let s := modStream s f st fun y => { y with st := .faulted, fkind := kind, didx := didx, boff := boff, next := boff, fdva := fdva }
  raiseStream s f st kind fdva

/-- A stream consumes a bruised descriptor: it is faulted, and BRUISE_CONSUMED is raised (R357, R358). -/
def bruisedDesc (s : State) (f st idx addr : Nat) : State :=
  raiseField (modStream s f st fun y => { y with st := .faulted }) f 0x0201 (fieldOf s f).cond.owner 6 addr
    (streamDetail s f st 0x0201 idx)

/-! ## Requests -/

/-- Fields of a request flit (R261). -/
def reqOp (r : Nat) : Nat := bitsOf r 0 2
def reqStream (r : Nat) : Nat := bitsOf r 2 8

/-- A request takes effect on its stream, or is an ARM fault (R263, R275). -/
def requestStream (s : State) (f r : Nat) : Option State :=
  let st := reqStream r
  let y := streamOf s f st
  let nb := bitsOf r 12 2
  let t0 := (slotOf s f - anchorOf s f (fieldOf s f).cond.owner) / 4096
  let fb := BitVec.ofNat 64 (bitsOf r 128 64)
  let declared := tabGet 0 (fieldOf s f).str.nbase (4 * st + nb) != 0
  let busy := !(openXfers s f st).isEmpty
  match reqOp r with
  | 0 =>
    if y.st ≠ .unarmed ∨ !declared then none
    else some (modStream s f st fun y =>
      { idleStream y with st := .active, persist := bitOf r 10, listOda := bitOf r 11, nbsel := nb, t0 := t0,
                          list := BitVec.ofNat 64 (bitsOf r 64 64), farbase := fb })
  | 1 =>
    if y.st = .unarmed ∨ !declared ∨ y.releasing then none
    else if y.st = .done then some (modStream s f st fun y => restart y t0 nb fb)
    else if y.pend then none
    else some (modStream s f st fun y => { y with pend := true, pt0 := t0, pnbsel := nb, pfarbase := fb })
  | 2 =>
    if y.st = .unarmed then none
    else if busy then some (modStream s f st fun y => { y with st := .active, releasing := true, pend := false, fkind := 0 })
    else some (modStream s f st idleStream)
  | _ => none

/-- The STRM that sent a request completes in slot `t` (R262). -/
def strmDone (t : Nat) (c : Core) : Core :=
  modTask c .scalar fun y => { y with flights := modFirst (·.onAccept) (fun z => { z with onAccept := false, done := t }) y.flights }

/-- The stream complex accepts, in slot `t`, a request flit that a REQ tap took in the slot before: the STRM that sent it completes, and the
request takes effect, or is a STREAM_FAULT of kind ARM (R262, R263). -/
def takeRequest (s : State) (f t : Nat) (q : ReqTaken) : State :=
  let r := q.data.toNat
  let s := modNet s f fun n => { n with req := eraseFirst (· == q) n.req }
  let s := if q.src = 0 then s else modCore s (q.src - 1) (strmDone t)
  let s := match requestStream s f r with
    | some s => s
    | none => raiseStream s f (reqStream r) 7 0
  if reqOp r = 2 then streamsDone s f else s

/-- The request that core `c` sent, with OP `op`, where a tap took it in the slot before the present one. -/
def dueRequest (s : State) (c : CoreId) (req : BitVec 1024) (op : Nat) : Option ReqTaken :=
  (fieldOf s c.fld).net.req.find? fun q =>
    decide (q.at_ + 1 = slotOf s c.fld ∧ q.src = ckey c + 1 ∧ q.data = req) && reqOp req.toNat == op

/-- A request of core `c` is accepted in the slot after the tap took it (R262). -/
def acceptRequest (s : State) (c : CoreId) (req : BitVec 1024) (op : Nat) : State :=
  match dueRequest s c req op with
  | some q => if fieldRuns s c.fld then takeRequest s c.fld (slotOf s c.fld) q else s
  | none => s

/-- The requests that taps took before slot `t`, and that nothing has accepted yet, are accepted in it (R262). -/
def acceptDue (s : State) (f t : Nat) : State :=
  ((fieldOf s f).net.req.filter fun q => decide (q.at_ < t)).foldl (fun s q => takeRequest s f t q) s

/-! ## Carrier channels -/

/-- The carrier channels in force with a DIR, a logical engine and a rind unit, as 64 × bank + channel (R252). -/
def channels (s : State) (f dir se die : Nat) : List Nat :=
  let n := (fieldOf s f).net
  let a := (fieldOf s f).cond.owner
  (List.range 128).filter fun k =>
    let r := (tabGet 0 n.carrier k).toNat
    r != 0 && bitsOf r 6 2 == dir && bitsOf r 8 4 == se && bitsOf r 12 6 == die && tabGet 0 n.bank (2 * a + bitsOf r 5 1) == k / 64

/-- The credits that the complex owes a rind unit go back in its next OUT header (R255). -/
def returnCredits (s : State) (f die : Nat) : State :=
  (List.range 128).foldl
    (fun t k =>
      let n := (fieldOf t f).net
      let c := k % 64
      if bitsOf (tabGet 0 n.carrier k).toNat 12 6 ≠ die ∨ tabGet 0 n.credRet c = 0 then t
      else modNet t f fun n => { n with cred := tabMod 0 c (· + tabGet 0 n.credRet c) n.cred, credRet := tabPut 0 c 0 n.credRet }) s

/-- The block of a transfer leaves the landing buffer: its credit is to be returned (R255). -/
def owesCredit (s : State) (f : Nat) (t : Transfer) : State :=
  if t.chan = 0 then s else modNet s f fun n => { n with credRet := tabMod 0 ((t.chan - 1) % 64) (· + 1) n.credRet }

/-- The transfer of a tag. -/
def xferOf (s : State) (f tag : Nat) : Option Transfer := (fieldOf s f).str.xfer.find? fun t => t.tag == tag

/-! ## Request bursts and bursts on channels -/

/-- Slots between the tap of a carrier channel and the rind: the latency D of a crossing (R42, R251). -/
def crossDelay : Nat := 256

/-- The first OUT channel of a logical engine to a rind unit (R252). DESIGN CHOICE (log 155): of several, the one with the lowest number. -/
def outChannel (s : State) (f se die : Nat) : Option Nat := ((channels s f 1 se die).head?).map (· % 64)

/-- A burst waits for its turn on the OUT channel of a logical engine to a rind unit (R253, R254). -/
def sendOut (s : State) (f se die tag : Nat) : State :=
  match outChannel s f se die with
  | none => s
  | some c => modNet s f fun n => { n with outb := n.outb ++ [{ chan := c, tag := tag, from_ := slotOf s f + 1 }] }

/-- The burst of a tag has reached the rind: its last flit stood at the tap D slots ago (R251, R254). -/
def outArrived (s : State) (f tag : Nat) : Bool :=
  (fieldOf s f).net.outb.any fun c => c.tag == tag && c.done != 0 && decide (c.done + crossDelay ≤ slotOf s f + 1)

/-- The request burst that carries the record of a transfer. -/
def burstOf (s : State) (f tag : Nat) : Option ReqBurst := (fieldOf s f).str.bursts.find? fun b => b.recs.contains tag

/-- The rind unit takes the record of a transfer, or it is dropped: with its last record a request burst ends and frees its tag (R249). -/
def dropRecord (s : State) (f tag : Nat) : State :=
  match burstOf s f tag with
  | none => s
  | some b =>
    let rest := b.recs.filter (· != tag)
    modField s f fun x =>
      if rest.isEmpty then
        { x with str := { x.str with bursts := x.str.bursts.filter fun y => y.tag != b.tag }
                 net := { x.net with outb := x.net.outb.filter fun c => c.tag != b.tag } }
      else { x with str := { x.str with bursts := x.str.bursts.map fun y => if y.tag = b.tag then { y with recs := rest } else y } }

/-- A request burst to which a record can still join: none of its flits has stood at the tap, and it has a place among its 256 (R254). -/
def openBurst (s : State) (f se die : Nat) : Option ReqBurst :=
  (fieldOf s f).str.bursts.find? fun b =>
    b.se == se && b.die == die && decide (b.size < 256) && !(fieldOf s f).net.outb.any fun c => c.tag == b.tag && c.left != 33

/-- The record of a transfer joins a request burst of its logical engine to its rind unit, or begins one, with a tag of its own; none where no tag
is free (R249, R254). -/
def askRind (s : State) (f : Nat) (t : Transfer) : Option State :=
  let se := t.stream / 16
  let die := xferDie s t
  match openBurst s f se die with
  | some b =>
    some (modStr s f fun x => { x with bursts := x.bursts.map fun y =>
      if y.tag = b.tag then { y with recs := y.recs ++ [t.tag], size := y.size + 1 } else y })
  | none =>
    match freeTag s f with
    | none => none
    | some g =>
      some (sendOut (modStr s f fun x => { x with bursts := x.bursts ++ [{ tag := g, se := se, die := die, recs := [t.tag], size := 1 }] })
        f se die g)

/-- A transfer ends and frees its tag (R249). -/
def endXfer (s : State) (f tag : Nat) : State :=
  modField (dropRecord s f tag) f fun x =>
    { x with
      str := { x.str with xfer := eraseFirst (fun t => t.tag == tag) x.str.xfer }
      net := { x.net with inb := x.net.inb.filter fun c => c.tag != tag, outb := x.net.outb.filter fun c => c.tag != tag } }

/-! ## Issuing -/

/-- A transfer of `n` bytes at a DVA by logical engine `se` is admitted: translated, with the right it needs, to a target that it may reach; or the fault
kind (R266, R268, R269, R436, R457). -/
def takeAccess (s : State) (f se a dva n : Nat) (wr : Bool) : (Nat ⊕ (Nat × Nat)) × State :=
  match translate s f se a dva with
  | (.fault k, s) => (.inl k, s)
  | (.page e size, s) =>
    let addr := pageAddr e size dva
    if !(if wr then pteWr e else pteRd e) then (.inl 2, s)
    else if pteTarget e = 2 ∧ !granted s addr n wr then (.inl 3, s)
    else if pteTarget e = 3 ∧ !ptContext s (ctxOf s (pteCtx e)).remote.toNat (ctxOf s (pteCtx e)).wstore then (.inl 3, s)
    else (.inr (e, addr), s)

/-- A transfer takes its tag (R249). -/
def addXfer (s : State) (f : Nat) (t : Transfer) : State := modStr s f fun x => { x with xfer := x.xfer ++ [t] }

/-- A transfer takes its tag, and its record joins a request burst (R249, R254); none where no tag is free for the burst. -/
def askXfer (s : State) (f : Nat) (t : Transfer) : Option State := askRind (addXfer s f t) f t

/-- Address of punnet `p` of a stream's list, aligned to 1 KiB (R260). DESIGN CHOICE (log 150): the low ten bits of a LIST that is not
aligned are left out. -/
def punnetAddr (y : Stream) (p : Nat) : Nat := y.list.toNat / 1024 * 1024 + 1024 * p

/-- Punnet `p` joins the descriptors that the stream holds (R260). -/
def takePunnet (s : State) (f st p v : Nat) : State :=
  modStream s f st fun y =>
    let l := (List.range 16).map fun i => BitVec.ofNat 512 (bitsOf v (512 * i) 512)
    if y.descs.isEmpty then { y with base := 16 * p, descs := l }
    else if y.base + y.descs.length = 16 * p then { y with descs := y.descs ++ l }
    else y

/-- WS_HINT for each descriptor of a punnet that reads a WSTORE context (R449). -/
def sendHints (s : State) (f st p : Nat) : State :=
  let y := streamOf s f st
  (List.range 16).foldl
    (fun t i =>
      match heldDesc y (16 * p + i) with
      | none => t
      | some d =>
        if dOp d ≠ 1 then t
        else
          let far := farOf y d
          match walkRoot t (fieldOf t f).cond.owner far with
          | .page e size =>
            if pteTarget e = 3 ∧ (ctxOf t (pteCtx e)).wstore then
              ctxSend t (pteCtx e) tyHint fun m => { m with addr := pageAddr e size far, args := BitVec.ofNat 152 (dRows d * dRowg d / 64) }
            else t
          | .fault _ => t) s

/-- The stream fetches punnet `p` by a transfer (R249, R260), which waits where no tag is free: from on-die memory, TARGET 4 in the model, or
from the tier of its page. A fault counts only where the punnet is needed (R268). -/
def fetchPunnet (s : State) (f st p : Nat) (needed : Bool) : State :=
  let y := streamOf s f st
  let a := (fieldOf s f).cond.owner
  let addr := punnetAddr y p
  if (openXfers s f st).any fun t => t.punnet then s
  else
    match freeTag s f with
    | none => s
    | some tag =>
      let x : Transfer := { tag := tag, stream := st, didx := 16 * p, block := p, asid := a, write := false, target := 4, far := 0, oda := addr, punnet := true }
      if y.listOda then
        if odaBacked s a addr 1024 then addXfer s f x else if needed then faultStream s f st 5 (16 * p) 0 addr else s
      else
        match takeAccess s f (st / 16) a addr 1024 false with
        | (.inl k, s) => if needed then faultStream s f st k (16 * p) 0 (addr % 2 ^ 57) else s
        | (.inr (e, pa), s') => (askXfer s' f { x with target := pteTarget e, far := pa, oda := 0, ctx := pteCtx e }).getD s

/-- The stream's current descriptor begins (R247, R258, R260, R272): it is checked, and its next punnet is requested when it is the
first of the current one. -/
def beginDesc (s : State) (f st d : Nat) : State :=
  let x := fieldOf s f
  let y := streamOf s f st
  let a := x.cond.owner
  let near := nearOf x st y d
  let far := farOf y d
  let before := if y.didx = 0 then 0 else match heldDesc y (y.didx - 1) with | some e => dDue e | none => y.lastDue
  if !descOk d far before then faultStream s f st 6 y.didx 0 far
  else if !((nearRanges near d).all fun r => odaBacked s a r.1 r.2) then faultStream s f st 5 y.didx 0 far
  else
    let total := descTotal s near d
    let s := modStream s f st fun y =>
      let lo := y.didx / 16 * 16
      { y with begun := true, next := y.boff, moved := y.boff, total := total, descs := y.descs.drop (lo - y.base), base := max lo y.base }
    let y := streamOf s f st
    if y.didx % 16 = 0 ∧ y.descs.length = 16 ∧ !(y.descs.any fun e => dLast e.toNat) then fetchPunnet s f st (y.didx / 16 + 1) false
    else s

/-! ## Completing -/

/-- The stream passes its LAST descriptor (R263): it restarts, is done, or becomes unarmed. -/
def passLast (y : Stream) : Stream :=
  if !y.persist then idleStream y
  else if y.pend then restart { y with pend := false } y.pt0 y.pnbsel y.pfarbase
  else { y with st := .done, begun := false, boff := 0, next := 0, moved := 0, total := 0 }

/-- A stream after one of its transfers has ended (R258, R263): its descriptor may be complete, and a RELEASE that waited takes effect. -/
def settleStream (s : State) (f st : Nat) : State :=
  let idle := (openXfers s f st).isEmpty
  modStream s f st fun y =>
    if y.releasing then (if idle then idleStream y else y)
    else if y.st = .active ∧ y.begun ∧ y.next = y.total ∧ y.moved = y.total then
      match heldDesc y y.didx with
      | some d => if dLast d then passLast y
                  else { y with didx := y.didx + 1, begun := false, boff := 0, next := 0, moved := 0, total := 0, lastDue := dDue d }
      | none => y
    else y

/-- A block of the stream's current descriptor has been written or acknowledged (R258). -/
def countBlock (s : State) (f : Nat) (t : Transfer) : State :=
  let s := countAct (endXfer s f t.tag) f actStream 4096
  settleStream (modStream s f t.stream fun y => if y.didx = t.didx then { y with moved := y.moved + 1 } else y) f t.stream

end Sys2Proof.Machine
end

