-- ==== Sys2Proof/Machine/Checks.lean ====
section
/-! DEFINITION. What the verifier checks of memory, of stationary sets and replays, of streams, of portable points and of mirror regions
(04 R72, R115, R124, 08 R228, 09 R258 to R264, R272, 12 R342, 15 R404, R405). -/

namespace Sys2Proof.Machine

/-! ## Accesses in time -/

/-- An access in time: its bytes by on-die address within its field, and whether it writes. An offset that data decides stands for the whole
window. -/
structure Touch where
  x : Timed
  lo : Nat
  len : Nat
  wr : Bool

/-- First on-die address of a window within its field (R160, R246). -/
def winBase (t : TaskDecl) (win : Nat) : Nat :=
  (if winSpace win = 0 then coreBase (declCore t) else 0) + 64 * bitsOf win 0 22

/-- The accesses of an instruction in time. -/
def touchesOf (v : Variant) (x : Timed) : List Touch :=
  (accsOf v x.t x.i).map fun a =>
    let win := declWin x.t a.win
    { x := x, lo := winBase x.t win + a.off.getD 0, len := if a.off.isSome then a.n else 64 * bitsOf win 22 22,
      wr := a.rights.contains .wr }

/-- Two byte ranges meet. -/
def meets (a n b m : Nat) : Bool := decide (a < b + m ∧ b < a + n)

/-- Access `a` comes before access `b`: by a chain of tokens in one core, or because it completes under the latest timing before `b` is made
under the earliest (R228). -/
def Timed.before (a b : Timed) : Bool :=
  (decide (declKey a.t = declKey b.t) && b.seen.any fun z => decide (z.eng = a.t.eng ∧ a.n ≤ z.n ∧ a.ce ≤ z.ce ∧ a.cl ≤ z.cl)) ||
    decide (a.cl < b.e)

/-- ACCESS_ORDER: two engines' accesses to overlapping bytes, one of them a write, that nothing orders (R228). -/
def orderHits (p : Plan) : List Hit :=
  let ts := (allTimed p.cores).flatMap (touchesOf p.g.v)
  ts.zipIdx.flatMap fun b =>
    hitIf ((ts.take b.2).any fun a =>
      (a.wr || b.1.wr) && decide (a.x.t.pos = b.1.x.t.pos) && !decide (declKey a.x.t = declKey b.1.x.t ∧ a.x.t.eng = b.1.x.t.eng) &&
        meets a.lo a.len b.1.lo b.1.len && !a.x.before b.1.x && !b.1.x.before a.x) 0x10 b.1.x

/-! ## Passes and their sets -/

/-- The stationary load that a pass uses: the last one issued before it (R110). -/
def setOf (c : CoreTime) (x : Timed) : Option Timed :=
  (c.out.filter fun y => opcOf y.i.w == 0x12 && decide (y.e ≤ x.e)).getLast?

/-- FORMAT_UNSUPPORTED: a pass without a set that pairs with AFMT (R72), or with rows or lines beyond R115. -/
def passHits (p : Plan) : List Hit :=
  p.cores.flatMap fun c => (c.out.filter fun x => opcOf x.i.w == 0x21).flatMap fun x =>
    let w := x.i.w
    let f := x.i.tk.afmt.toNat
    let nv := bitsOf w 38 9 + 1
    let pairs := match setOf c x with | some y => fmtPair f (bitsOf y.i.w 39 4) | none => false
    let fits := decide (bitsOf w 19 9 + aregGet x.i.tk (bitsOf w 56 3) + nv ≤ (if fmtBits f = 16 then 256 else 512) ∧
      nv + 63 ≤ lineCountOf (lineSize f))
    hitIf (!pairs || !fits) 0x09 x

/-- Activation bytes that the `n`-th line of a pass has, and the slot in which the pass reads it (R105). -/
def passLineAt (x : Timed) (n : Nat) : Nat × Nat × Nat :=
  let f := x.i.tk.afmt.toNat
  let size := lineSize f
  let base := bitsOf x.i.w 28 10 + aregGet x.i.tk (bitsOf x.i.w 59 3)
  ((base + n) % lineCountOf size * size, size, x.e + (if fmtBits f = 16 then 2 else 1) * n)

/-- A fill of activation lines or side entries that writes one of a pass's after the pass has read it (R124, R200, R201). -/
def refills (x q : Timed) : Bool :=
  let w := q.i.w
  let nv := bitsOf x.i.w 38 9 + 1
  let first := bitsOf w 40 10 + aregGet q.i.tk (bitsOf w 50 3)
  if opcOf w = 0x10 then
    let size := lclsSize (bitsOf w 62 2)
    (List.range (bitsOf w 53 9 + 1)).any fun j =>
      let a := (first + j) % lineCountOf size * size
      (List.range (nv + 63)).any fun n =>
        let l := passLineAt x n
        meets a size l.1 l.2.1 && decide (l.2.2 ≤ q.ue.getD (j * size / 128) q.e)
  else
    (List.range (bitsOf w 53 9 + 1)).any fun j =>
      (List.range nv).any fun n =>
        let l := passLineAt x n
        (first + j) % 1024 == l.1 / l.2.1 && decide (l.2.2 ≤ q.ue.getD (4 * j / 128) q.e)

/-- REPLAY_SOURCE: LOAD writes a pass's lines again, or an engine writes the source of its stationary load, before the pass has posted its
completion (R124). -/
def replayHits (p : Plan) : List Hit :=
  p.cores.flatMap fun c =>
    let fills := c.out.filter fun x => opcOf x.i.w == 0x10 || opcOf x.i.w == 0x11
    let writes := (c.out.flatMap (touchesOf p.g.v)).filter (·.wr)
    (c.out.filter fun x => opcOf x.i.w == 0x21).flatMap fun x =>
      (fills.flatMap fun q => hitIf (!x.before q && !q.before x && decide (q.e ≤ x.cl) && refills x q) 0x11 q) ++
      (match setOf c x with
       | none => []
       | some y => (touchesOf p.g.v y).flatMap fun s => writes.flatMap fun q =>
           hitIf (meets s.lo s.len q.lo q.len && decide (y.e ≤ q.x.cl) && !x.before q.x) 0x11 q.x)

/-! ## Streams -/

/-- A stream request of a scalar core in time: its position, OP, stream, near base, far base where the image gives it, the epoch T0 counted
as the slots are, its list, and whether the image gives the flit's fields (R261 to R263). -/
structure Request where
  x : Timed
  op : Nat
  flit : Option Nat
  far : Option Nat
  t0 : Nat
  list : Option ListDecl := none

/-- Bytes of a request flit at a memory address within its field, as the image holds them; none where an instruction of the core writes
them. -/
def flitBytes (p : Plan) (c : CoreTime) (x : Timed) (lo n : Nat) : Option Nat :=
  match (touchesOf p.g.v x).head? with
  | none => none
  | some s =>
    if (c.out.flatMap (touchesOf p.g.v)).any fun q => q.wr && meets (s.lo + lo) n q.lo q.len then none
    else match imageNum p.g.v.image x.t.pos s.lo 128 with
      | some v => some (bitsOf v (8 * lo) (8 * n))
      | none => none

/-- The requests of the scalar cores of a position, in the order of their acceptance. -/
def requestsOf (p : Plan) (pos : Nat) : List Request :=
  let l := (p.cores.filter fun c => c.key / 288 == pos && c.key % 8 == 7).flatMap fun c =>
    (c.out.filter fun x => opcOf x.i.w == 0xBA && x.i.alt.isNone).map fun x =>
      ({ x := x, op := bitsOf x.i.w 58 2, flit := if x.i.off.isSome then flitBytes p c x 0 16 else none,
         far := if x.i.off.isSome then flitBytes p c x 16 8 else none, t0 := x.ce / 4096 } : Request)
  sortBy (fun a b => decide (a.x.ce ≤ b.x.ce)) l

/-- Stream and NBSEL of a request. -/
def Request.stream (r : Request) : Option Nat := r.flit.map fun v => bitsOf v 2 8
def Request.nbsel (r : Request) : Nat := match r.flit with | some v => bitsOf v 12 2 | none => 0

/-- The list that a request names: an ARM's own, a RE-ARM's that of the last ARM of its stream (R261, R263). -/
def listOf (v : Variant) (pos : Nat) (prev : List Request) (r : Request) : Option ListDecl :=
  match r.flit with
  | none => none
  | some f =>
    if r.op = 0 then
      v.lists.find? fun l => l.pos == pos && l.onDie == bitOf f 11 && l.addr == bitsOf f 64 (if bitOf f 11 then 34 else 57)
    else ((prev.filter fun q => q.op == 0 && decide (q.stream = r.stream)).getLast?).bind (·.list)

/-- The requests of a position with their lists. -/
def namedRequests (p : Plan) (pos : Nat) : List Request :=
  (requestsOf p pos).foldl (fun l r => l ++ [{ r with list := listOf p.g.v pos l r }]) []

/-- Descriptors of a list up to its LAST. -/
def runDescs (l : ListDecl) : List Nat :=
  let ds := l.descs.map (·.toNat)
  let n := (ds.takeWhile fun d => !dLast d).length
  ds.take (n + 1)

/-- A window of a task of the position may write into the list (R260). -/
def listWritable (v : Variant) (l : ListDecl) : Bool :=
  l.onDie && v.tasks.any fun t => t.pos == l.pos && t.windows.any fun e =>
    let win := e.2.toNat
    hasRight win .wr && bitsOf win 22 22 != 0 && meets l.addr (64 * l.descs.length) (winBase t win) (64 * bitsOf win 22 22)

/-- DESCRIPTOR and STREAM_LEAD of the lists: an alignment or a place that R260 forbids, a list without LAST, a descriptor that R258 refuses
(of a REL descriptor the far base decides the alignment), or one with less than the stream lead between START and DUE (R272). -/
def listHits (m : Family) (v : Variant) : List Hit :=
  v.lists.flatMap fun l =>
    let ds := runDescs l
    let here := fun (code n : Nat) => ({ code := code, sec := 9, items := [l.pos, l.addr, n] } : Hit)
    (if l.addr % 1024 = 0 ∧ !listWritable v l ∧ ds.any dLast then [] else [here 0x15 0]) ++
    ds.zipIdx.flatMap fun d =>
      (if descOk d.1 (if dRel d.1 then 0 else dFar d.1) (if d.2 = 0 then 0 else dDue (ds.getD (d.2 - 1) 0)) then [] else [here 0x15 d.2]) ++
      (if dStart d.1 + m.lead ≤ dDue d.1 then [] else [here 0x14 d.2])

/-- The near base of a request (R261). -/
def nearBaseOf (v : Variant) (pos : Nat) (r : Request) : Option Nat :=
  r.stream.bind fun st => (v.bases.find? fun b => b.pos == pos && b.stream.val == st && b.sel.val == r.nbsel).map (·.oda)

/-- Near ranges of a descriptor under a request, by on-die address within the field. -/
def nearUse (v : Variant) (pos : Nat) (r : Request) (d : Nat) : List (Nat × Nat) :=
  let near := if dRel d then (nearBaseOf v pos r).getD 0 + dNear d else dNear d
  (nearRanges (near % 2 ^ 40) d).map fun x => (x.1 % 2 ^ 34, x.2)

/-- First slots of the epochs of START and DUE of a descriptor under a request. -/
def startSlot (r : Request) (d : Nat) : Nat := 4096 * (r.t0 + dStart d)
def dueSlot (r : Request) (d : Nat) : Nat := 4096 * (r.t0 + dDue d)

/-- Earliest boundary at which a position stops for the barrier that ends a segment (R175). -/
def firstStop (p : Plan) (n : Nat) : Option Nat :=
  ((p.ts.map fun x => x.1.pos).dedup.filterMap fun q => stopOf p.cores q n).foldl
    (fun (m : Option Nat) s => some (match m with | some y => min y s.1 | none => s.1)) none

/-- The stationary sources that a GET writes while a pass may still have to load them again (R124). -/
def getsSource (p : Plan) (pos : Nat) (r : Request) (d : Nat) : Bool :=
  p.cores.any fun c => c.key / 288 == pos && (c.out.filter fun x => opcOf x.i.w == 0x21).any fun x =>
    match setOf c x with
    | none => false
    | some y => decide (startSlot r d ≤ x.cl ∧ y.e < dueSlot r d) && (touchesOf p.g.v y).any fun s =>
        (nearUse p.g.v pos r d).any fun u => meets s.lo s.len u.1 u.2

/-- What a request and its descriptors earn: DESCRIPTOR for a flit with reserved bits, an undeclared NBSEL or list (R261, R263), one that no
REQ channel takes (R262), or a far address off its alignment (R258); STREAM_LEAD for an engine in the near range (R272); REPLAY_SOURCE; and
BARRIER for a descriptor that may cross a barrier (R264). -/
def requestHits (p : Plan) (pos : Nat) (r : Request) : List Hit :=
  let at_ := fun (b : Bool) (code : Nat) => hitIf b code r.x
  let touches := (allTimed p.cores).flatMap fun x => if x.t.pos = pos then touchesOf p.g.v x else []
  (match r.flit with
   | none => []
   | some f =>
     at_ (bitsOf f 14 50 != 0) 0x15 ++ at_ (r.op != 2 && ((nearBaseOf p.g.v pos r).isNone || r.list.isNone)) 0x15) ++
  (match r.list with
   | none => []
   | some l => (if r.op = 2 then [] else runDescs l).flatMap fun d =>
     let get := dOp d == 1
     at_ (dRel d && (match r.far with | some b => (dFar d + b) % 4096 != 0 | none => false)) 0x15 ++
     at_ (touches.any fun t => (get || t.wr) && decide (t.x.e < dueSlot r d ∧ startSlot r d ≤ t.x.cl) &&
       (nearUse p.g.v pos r d).any fun u => meets t.lo t.len u.1 u.2) 0x14 ++
     at_ (get && getsSource p pos r d) 0x11 ++
     at_ (match firstStop p (segNo (4096 * r.t0)) with | some z => decide (z < dueSlot r d) | none => false) 0x13)

/-- A stream request that no REQ channel of its field takes never completes (R262). -/
def untapped (p : Plan) : List Hit :=
  (p.cores.filter fun c => c.key % 8 == 7).flatMap fun c =>
    (sendsOf p c).zipIdx.flatMap fun y =>
      let taps := match (leavesOf p c)[y.2]? with
        | some l => l.ends.any fun z => match z with | .tap .. => true | _ => false
        | none => false
      hitIf (opcOf y.1.1.i.w == 0xBA && !taps) 0x15 y.1.1

/-- What the lists and requests of a plan earn. -/
def streamHits (p : Plan) : List Hit :=
  listHits p.m p.g.v ++ untapped p ++
    ((p.ts.map fun x => x.1.pos).dedup.flatMap fun q => (namedRequests p q).flatMap (requestHits p q))

/-! ## Mirror regions -/

/-- Blocks that a descriptor writes at its far end, a PUTZ at the bound of R294 with its directory (R282, R297, R405). -/
def blocksBound (d : Nat) : Nat :=
  if dLayout d = 1 then dRows d * skewLine d / 4096
  else if dOp d = 3 then ceilDiv (dRows d * (64 * ceilDiv (denseSize (dFmt d) + 32) 64)) 4096 + ceilDiv (16 * dRows d) 4096
  else dRows d * (dRowg d / 64)

/-- Far ranges that a PUT or PUTZ may write, from far base `b` (R258, R282). -/
def farUse (b d : Nat) : List (Nat × Nat) :=
  let far := if dRel d then dFar d + b else dFar d
  if dLayout d = 1 then [(far, 4096 * blocksBound d)]
  else if dOp d = 3 then [(far, 4096 * blocksBound d), (dDir d, 4096 * ceilDiv (16 * dRows d) 4096)]
  else (List.range (dRows d)).map fun r => (wrapInt ((far : Int) + r * dFstr d * 64) 57, 64 * dRowg d)

/-- The far range of a PUT or PUTZ can reach a mirror region: always where the far base is not known (R404). -/
def reachesMirror (md : MirrorDecl) (r : Request) (d : Nat) : Bool :=
  dOp d != 1 && (match (if dRel d then r.far else some 0) with
    | none => true
    | some b => (farUse b d).any fun u => md.regions.any fun g => meets u.1 u.2 g.1 (0x200000 * g.2))

/-- First slots of the mirror points, in order (R403). -/
def mirrorSlots (p : Plan) (pts : List Nat) : List Nat := pts.filterMap fun y => (yieldSlots p)[y]?

/-- MIRROR_DECL of a plan: a PUT or PUTZ that spans a mirror point (R404), or more blocks in an interval than MLOGMAX (R405). -/
def mirrorHits (p : Plan) (md : MirrorDecl) (pts : List Nat) : List Hit :=
  let js := mirrorSlots p pts
  let uses := (p.ts.map fun x => x.1.pos).dedup.flatMap fun q => (namedRequests p q).flatMap fun r =>
    match r.list with
    | some l => if r.op = 2 then [] else ((runDescs l).filter (reachesMirror md r)).map fun d => (r, d)
    | none => []
  (uses.flatMap fun u =>
    hitIf (js.any fun j => decide (startSlot u.1 u.2 < j ∧ j < dueSlot u.1 u.2)) 0x1E u.1.x) ++
  ((List.range (js.length + 1)).flatMap fun n =>
    let mine := uses.filter fun u => (js.filter fun j => decide (j ≤ startSlot u.1 u.2)).length == n
    if md.logMax < (mine.map fun u => blocksBound u.2).sum then [{ code := 0x1E, sec := 15, items := [8] }] else [])

/-! ## Portable yield points -/

/-- Bytes [lo, hi) that a list of ranges leaves uncovered. -/
def uncovered : List (Nat × Nat) → List (Nat × Nat) → List (Nat × Nat)
  | l, [] => l
  | l, r :: rs =>
    uncovered (l.flatMap fun x =>
      (if x.1 < min x.2 r.1 then [(x.1, min x.2 r.1)] else []) ++ (if max x.1 r.2 < x.2 then [(max x.1 r.2, x.2)] else [])) rs

/-- The entry state that a variant declares for a task at a point is what the task holds there: its settings, and of SCALAR the registers,
none of which data may decide (R342). -/
def entryMatches (i : VIns) (e : EntryState) (x : Tab (Option Nat)) : Bool :=
  let k := i.tk
  k.pc + 8 == e.pc && e.step == k.gen.step && ((List.range 8).all fun r => tabGet 0 e.areg r == tabGet 0 k.areg r) &&
    ((List.range 4).all fun r => tabGet 0 e.lctr r == tabGet 0 k.lctr r) && e.pb == k.pb && e.cb == k.gen.cb && e.cs == k.gen.cs &&
    e.cr == k.gen.cr && e.gs0 == k.gen.gs0 && e.gs1 == k.gen.gs1 && e.mcfg.toNat == k.afmt.toNat + 16 * k.mslot.toNat &&
    e.dcfg.toNat == k.dcfg.fmt.toNat + 2 ^ 4 * k.dcfg.rnd.toNat + 2 ^ 6 * b2n k.dcfg.ovf + 2 ^ 7 * k.dcfg.anch.toNat +
      2 ^ 15 * k.dcfg.slot.toNat + 2 ^ 19 * b2n k.dcfg.g + 2 ^ 20 * b2n k.dcfg.clr &&
    ((List.range 64).all fun r => knownX x r == some (tabGet 0 e.xreg r).toNat)

/-- A stream of a position may be armed at slot `j`: it was armed, and has neither passed the DUE of its last descriptor, not being
persistent, nor been released (R263, R342). -/
def armedBy (l : List Request) (j : Nat) (r : Request) : Bool :=
  r.op == 0 && decide (r.x.ce < j) &&
    !(l.any fun q => q.op == 2 && decide (q.stream = r.stream ∧ r.x.ce ≤ q.x.ce ∧ q.x.ce < j)) &&
    (match r.flit, r.list with
     | some f, some d => bitOf f 10 || (runDescs d).any fun z => decide (j < dueSlot r z)
     | _, _ => true)

/-- Some stream of a position may be armed at slot `j`. -/
def armedAt (l : List Request) (j : Nat) : Bool := l.any (armedBy l j)

/-- The streams armed at each STEP yield point of a plan: point, position and stream (R312). -/
def stepStreams (m : Family) (p : Plan) : List (Nat × Nat × Option Nat) :=
  (yieldSlots p).zipIdx.flatMap fun j =>
    if (m.yields[j.2]?).any fun y => y.flags.getLsbD 0 then
      (p.ts.map fun x => x.1.pos).dedup.flatMap fun q =>
        let l := namedRequests p q
        (l.filter (armedBy l j.1)).map fun r => (j.2, q, r.stream)
    else []

/-- What an instruction writes within its field: the first byte and the number of bytes; of an offset that data decides, its window. -/
def writesOf (v : Variant) (t : TaskDecl) (i : VIns) : List (Nat × Nat) :=
  ((accsOf v t i).filter fun a => a.rights.contains .wr).map fun a =>
    (winBase t (declWin t a.win) + a.off.getD 0, if a.off.isSome then a.n else 64 * bitsOf (declWin t a.win) 22 22)

/-- The stretches of a stream that end at its STEP yield points, each with its YIELD (R309). -/
def stepParts (l : List VIns) : List (List VIns) :=
  (l.foldl (fun (x : List (List VIns) × List VIns) i =>
    if opcOf i.w = 0x03 ∧ bitOf i.w 23 then (x.1 ++ [x.2 ++ [i]], []) else (x.1, x.2 ++ [i])) ([], [])).1

/-- Before a STEP yield point a SCALAR task writes half s mod 2 of its counter area and then SNAPSTEP (R309). -/
def snapSequence (v : Variant) (t : TaskDecl) (d : CounterDecl) (s : Nat) (l : List VIns) : Bool :=
  let at_ := coreBase (declCore t)
  let halves := l.zipIdx.filter fun i => (writesOf v t i.1).any fun w => meets w.1 w.2 (at_ + halfAt d s) (areaBytes d)
  let steps := l.zipIdx.filter fun i => (writesOf v t i.1).any fun w => meets w.1 w.2 (at_ + stepAt d) 8
  steps.any fun i => halves.any fun h => decide (h.2 < i.2)

/-- PREDICTOR_DECL of the SCALAR tasks whose bunch counts a predicted layer (R309). -/
def snapHits (p : Plan) : List Hit :=
  (p.ts.filter fun x => decide (x.1.eng = .scalar)).flatMap fun x =>
    p.g.v.counters.flatMap fun d =>
      if d.pos != x.1.pos || d.bun != x.1.bun || d.layers.isEmpty then []
      else (stepParts (x.2.ins.filter fun i => i.alt.isNone)).zipIdx.flatMap fun l =>
        if snapSequence p.g.v x.1 d l.2 l.1 then [] else
          match l.1.getLast? with | some i => [hitAt 0x19 x.1 i.pc] | none => []

/-- PORTABILITY of a plan at portable point `y`, whose first slot is `j`: flits in a queue, an armed stream, a task whose state is not the
entry state declared, a token count that is not, a pass with a set from before the point, or a byte of memory read after the point that
is neither written after it nor in a declared region (R342). -/
def portHits (p : Plan) (y j : Nat) : List Hit :=
  let v := p.g.v
  (p.cores.flatMap fun c =>
    let sent := ((sendsOf p c).filter fun x => decide (x.2.2 < j)).length
    let left := ((leavesOf p c).filter fun x => decide (x.t < j)).length
    let come := ((arrivalsOf p c.key).filter fun x => decide (x.1 < j)).length
    let read := ((readsOf c).filter fun x => decide (x.2.2 < j)).length
    (if sent = left ∧ come = read then [] else [{ code := 0x1D, sec := 13, items := [y, c.key] }]) ++
    (c.out.flatMap fun x =>
      (if opcOf x.i.w = 0x03 ∧ x.i.alt.isNone ∧ x.i.tk.yctr = y then
        match v.entries.find? fun e => e.y == y && declKey x.t == 288 * e.pos + 8 * e.bun.val + e.cor.val && decide (e.eng = x.t.eng) with
        | some e =>
          hitIf (!entryMatches x.i e x.i.x ||
            (List.range 16).any fun q =>
              tabGet 0 e.tok q + (c.out.filter fun z => z.i.waits.contains q && decide (z.l < j)).length !=
                initCount v x.t q + (c.posts.filter fun z => z.q == q && decide (z.cl < j)).length) 0x1D x
        | none => hitIf true 0x1D x
      else []) ++
      hitIf (opcOf x.i.w == 0x21 && decide (j ≤ x.e) && (match setOf c x with | some s => decide (s.e < j) | none => false)) 0x1D x)) ++
  ((p.ts.map fun x => x.1.pos).dedup.flatMap fun q =>
    let reqs := namedRequests p q
    let gets := reqs.flatMap fun r => match r.list with
      | some l => ((runDescs l).filter fun d => dOp d == 1 && decide (j ≤ startSlot r d)).flatMap fun d =>
          (nearUse v q r d).map fun u => (dueSlot r d, u.1, u.1 + u.2)
      | none => []
    let kept := (v.extents.filter fun e => e.y == y && e.pos == q && decide (e.store ≤ 1)).map fun e =>
      let b := (if e.store = 0 then coreBase { fld := 0, bun := e.bun, cor := e.cor } else 0) + e.start
      (b, b + e.count)
    let ts := ((allTimed p.cores).filter fun x => x.t.pos == q && decide (j ≤ x.e)).flatMap (touchesOf v)
    (if armedAt reqs j then [{ code := 0x1D, sec := 13, items := [y, q] }] else []) ++
    ts.flatMap fun t =>
      let before := (ts.filter fun u => u.wr && u.x.before t.x).map fun u => (u.lo, u.lo + u.len)
      let landed := (gets.filter fun g => decide (g.1 ≤ t.x.e)).map (·.2)
      hitIf (!(t.wr && !opcOf t.x.i.w == 0xB2) && !(uncovered [(t.lo, t.lo + t.len)] (before ++ landed ++ kept)).isEmpty) 0x1D t.x)

/-! ## Every check -/

/-- What the streams of a plan's tasks earn, as hits. -/
def codeHits (m : Family) (v : Variant) (ts : List (TaskDecl × Trace)) : List Hit :=
  (codeErrors m v ts).map fun e => hitAt e.1 e.2.1 e.2.2

/-- Every check of a plan whose streams the verifier could follow. -/
def planHits (p : Plan) : List Hit :=
  tokenHits p ++ deadlineHits p ++ overflowHits p ++ emptyHits p ++ exchangeHits p ++ stationHits p ++ registerHits p ++ orderHits p ++ snapHits p ++
    replayHits p ++ passHits p ++ yieldHits p ++ barrierHits p ++ swapHits p.g ++ streamHits p

end Sys2Proof.Machine
end

