-- ==== Sys2Proof/Machine/Ports.lean ====
section
/-! DEFINITION. What the stream complex does in each slot: its taps on the carrier channels and the bursts that they move (09 R250 to R256), the
128-byte pieces of blocks through the stream ports and the shared-memory wheel (08 R224, R231, R235, 09 R250, R259), and the scrub (08 R244). -/

namespace Sys2Proof.Machine

/-! ## Bursts -/

/-- The header flit of a burst (R254): KIND, CHAN, XTAG, CHECK, STATUS, CREDITS, NACK and up to 7 acknowledgement records of a tag and a
STATUS. -/
def burstHeader (kind chan xtag check status credits : Nat) (acks : List (Nat × Nat)) : BitVec 1024 :=
  BitVec.ofNat 1024 (fieldAt 0 8 kind + fieldAt 8 8 chan + fieldAt 16 11 xtag + fieldAt 32 32 check + fieldAt 64 8 status + fieldAt 72 8 credits +
    fieldAt 80 8 acks.length + (acks.zipIdx.map fun a => fieldAt (128 * (a.2 + 1)) 11 a.1.1 + fieldAt (128 * (a.2 + 1) + 16) 8 a.1.2).sum)

/-- Fields of a header flit (R254). -/
def hdrKind (h : Nat) : Nat := bitsOf h 0 8
def hdrChan (h : Nat) : Nat := bitsOf h 8 8
def hdrXtag (h : Nat) : Nat := bitsOf h 16 11
def hdrCheck (h : Nat) : Nat := bitsOf h 32 32
def hdrStatus (h : Nat) : Nat := bitsOf h 64 8
def hdrNack (h : Nat) : Nat := bitsOf h 80 8

/-- The acknowledgement records of a header, up to 7: the tag of a write and whether it was completed (R254). -/
def hdrAcks (h : Nat) : List (Nat × Bool) :=
  (List.range (min 7 (hdrNack h))).map fun i => (bitsOf h (128 * (i + 1)) 11, bitsOf h (128 * (i + 1) + 16) 8 == 0)

/-- KIND of a burst (R254): EMPTY, DATA, REQUESTS; other values are reserved. -/
def kindEmpty : Nat := 0
def kindData : Nat := 1
def kindRequests : Nat := 2

/-- A request record (R254): XTAG, operation, TARGET, the translated address in granules, the partner context, and the interval number of a block
for a MIRROR page (R407). -/
def requestRecord (t : Transfer) : Nat :=
  fieldAt 0 11 t.tag + fieldAt 11 2 (if t.punnet then 2 else if t.write then 1 else 0) + fieldAt 14 2 t.target + fieldAt 16 48 (t.far / 64) +
    fieldAt 64 16 (if t.target = 3 then t.ctx else 0) + fieldAt 96 32 (if t.mirror then t.iv else 0)

/-- Landing credits that a complex owes a rind unit, as its next OUT header returns them (R254, R255). -/
def creditsOwed (s : State) (f die : Nat) : Nat :=
  let n := (fieldOf s f).net
  ((List.range 64).filter fun c =>
    (List.range 2).any fun b => bitsOf (tabGet 0 n.carrier (64 * b + c)).toNat 12 6 == die).foldl (fun m c => m + tabGet 0 n.credRet c) 0

/-- Flit `n` of a burst on an OUT channel: its header, or one of its 32 flits of block data or of request records (R254). -/
def outFlit (s : State) (f : Nat) (c : Carry) (n : Nat) : Flit :=
  match (fieldOf s f).str.bursts.find? fun b => b.tag == c.tag with
  | some b =>
    if n = 0 then { data := burstHeader kindRequests c.chan b.tag 0 0 (creditsOwed s f b.die) [] }
    else
      let recs := ((b.recs.drop (8 * (n - 1))).take 8).filterMap (xferOf s f)
      { data := BitVec.ofNat 1024 (recs.zipIdx.map fun r => requestRecord r.1 * 2 ^ (128 * r.2)).sum }
  | none =>
    match (xferOf s f c.tag).bind (·.body) with
    | none => { data := 0 }
    | some b =>
      if n = 0 then
        { data := burstHeader kindData c.chan c.tag b.check.toNat 0
            (match xferOf s f c.tag with | some t => creditsOwed s f (xferDie s t) | none => 0) [] }
      else
        { data := BitVec.ofNat 1024 (bitsOf b.data.toNat (1024 * (n - 1)) 1024)
          b0 := b.bmask.getLsbD (2 * (n - 1)), b1 := b.bmask.getLsbD (2 * (n - 1) + 1) }

/-! ## Taps -/

/-- A tap that acts: its channel, DIR, and the key 2 × crossing + plane of its entry. -/
structure Tap where
  chan : Nat
  dir : Nat
  at_ : Nat
  deriving DecidableEq, Repr

/-- The taps of a field that act in slot `t` (R252, R253): those whose slot map has the bit of the route index. In a cycle of a READY hold, `held`,
every channel acts (DEDUCED, log 156). -/
def taps (s : State) (f t : Nat) (held : Bool) : List Tap :=
  let n := (fieldOf s f).net
  if n.carrier.isEmpty then []
  else
    (List.range 128).filterMap fun k =>
      let r := (tabGet 0 n.carrier k).toNat
      let x : Tap := { chan := k % 64, dir := bitsOf r 6 2, at_ := 2 * bitsOf r 0 5 + bitsOf r 5 1 }
      match routeIndex n (fieldOf s f).cond.owner (bitsOf r 5 1) t with
      | none => none
      | some (i, bank) => if r != 0 && bank == k / 64 && (held || (tabGet [] n.cmap k).contains i) then some x else none

/-- An IN tap takes the entry that arrives at an input: no router forwards it (R253). -/
def tapTakes (s : State) (f t key : Nat) : Bool := (taps s f t false).any fun x => x.dir == 0 && x.at_ == key

/-- The flit that the channel's tap moves next: of a burst under way, or the header of the next that waits; its number in the burst. -/
def nextFlit (l : List Carry) (t chan pos : Nat) : Option (Carry × Nat) :=
  if pos = 0 then (l.find? fun c => c.chan == chan && c.left == 33 && decide (c.from_ ≤ t)).map fun c => (c, 0)
  else (l.find? fun c => c.chan == chan && c.left != 0 && c.left != 33).map fun c => (c, pos)

/-- The outbound entries that the OUT taps of a field write in slot `t`: a flit of the burst under way, or of an EMPTY one (R253 to R255). -/
def tapWrites (s : State) (f t : Nat) : List (Nat × Flit) :=
  let n := (fieldOf s f).net
  ((taps s f t false).filter fun x => x.dir == 1).map fun x =>
    (x.at_, match nextFlit n.outb t x.chan (tabGet 0 n.outAt x.chan) with
            | some (c, i) => outFlit s f c i
            | none => { data := 0 })

/-- The bursts of the channels after one of a channel's flits has stood at its tap in slot `t` (R254). -/
def moveFlit (t chan pos : Nat) (l : List Carry) : List Carry :=
  match nextFlit l t chan pos with
  | none => l
  | some (c, _) =>
    modFirst (· == c) (fun c => { c with left := c.left - 1, done := if c.left = 1 then t + 1 else 0 }) l

/-- The flits that the taps of a field take and write in slot `t` are counted; 33 in a row on a channel are a burst (R254). -/
def carrierStep (f t : Nat) (held : Bool) (s : State) : State :=
  (taps s f t held).foldl
    (fun s x => modNet s f fun n =>
      if x.dir = 0 then
        { n with inb := moveFlit t x.chan (tabGet 0 n.inAt x.chan) n.inb, inAt := tabMod 0 x.chan (fun p => (p + 1) % 33) n.inAt }
      else if x.dir = 1 then
        { n with outb := moveFlit t x.chan (tabGet 0 n.outAt x.chan) n.outb, outAt := tabMod 0 x.chan (fun p => (p + 1) % 33) n.outAt }
      else n) s

/-- Transfers whose block is asked for once more, and whose record had no tag for its request burst, ask again (R249, R256). -/
def askAgain (f : Nat) (s : State) : State :=
  ((fieldOf s f).str.xfer.filter fun t =>
    t.retried && !t.write && !t.known && t.body.isNone && (burstOf s f t.tag).isNone).foldl (fun s t => (askRind s f t).getD s) s

/-! ## Pieces of blocks -/

/-- Key of the port by which the complex reaches an on-die address: the stream port of a core, or a bank of shared memory (R224, R250). -/
def streamPort (oda : Nat) : Nat := if bitOf oda 33 then 64 + (8 * bitsOf oda 23 6 + bitsOf oda 20 3) else bankOf (oda % 2 ^ 27)

/-- Logical engine `se` may make a piece at an on-die address in slot `t`: at a core's stream port in any slot, in shared memory where the wheel's
position names it (R231, R250), but in a cycle of a READY hold, `held` (log 156). -/
def pieceAllowed (s : State) (f t se oda : Nat) (held : Bool) : Bool :=
  bitOf oda 33 || held || (tabGet 0 (fieldOf s f).mem.wheel (16 * bankOf (oda % 2 ^ 27) + t % 16)).toNat == 2 ^ 15 + se

/-- The descriptor that a transfer belongs to. -/
def xferDesc (s : State) (f : Nat) (x : Transfer) : Option Nat := heldDesc (streamOf s f x.stream) x.didx

/-- Layout SKEW64 of a transfer's block. -/
def isSkew (s : State) (f : Nat) (x : Transfer) : Bool := match xferDesc s f x with | some d => dLayout d == 1 | none => false

/-- On-die bit windows of piece `i` of a SKEW64 block: bit offset in the block, bit address, and bits. -/
def skewPart (s : State) (f : Nat) (x : Transfer) (i : Nat) : List (Nat × Nat × Nat) :=
  match xferDesc s f x with
  | some d => (skewPieces x.oda d x.block).filter fun e => e.1 / 1024 == i
  | none => []

/-- Windows that the first and the last vector of a SKEW64 descriptor leave beside an element's own: the bits of the lines before the first and after
the last that belong to no vector, which a GET writes as zero (R259). -/
def skewPads (near d : Nat) (e : Nat × Nat × Nat) : List (Nat × Nat) :=
  let line := 8 * skewLine d
  let at_ := e.2.1 - 8 * near
  let l := at_ / line
  let g := at_ % line / skewBits d / skewStep d
  let v := l - g
  let pad := fun (m : Nat) => (8 * near + m * line + at_ % line, e.2.2)
  (if v = 0 then (List.range g).map pad else []) ++
    (if v + 1 = dRows d then (List.range (63 - g)).map fun m => pad (dRows d + g + m) else [])

/-- On-die address at which a transfer's next piece begins. -/
def pieceAt (s : State) (f : Nat) (x : Transfer) : Nat :=
  if x.punnet then x.oda + 128 * x.moved
  else match xferDesc s f x with
    | none => x.oda + 128 * x.moved
    | some d =>
      if dLayout d = 1 then ((skewPart s f x x.moved).map fun e => e.2.1 / 8).headD x.oda
      else if dOp d = 3 then x.oda
      else x.oda + 128 * x.moved

/-- The transfer has a piece to move: of a landed block, of a block that it reads, or of a punnet on-die (R249, R250). -/
def wantsPiece (x : Transfer) : Bool :=
  if x.punnet then x.target == 4 && decide (x.moved < 8)
  else if x.write then decide (x.moved < 32) && !x.landed
  else x.landed && x.body.isSome && decide (x.moved < 32)

/-- A piece of a landed block is written in slot `t`: 128 bytes with their bruise bits, or the bits of a SKEW64 block in their lines (R250, R259,
R357). -/
def putPiece (s : State) (f t : Nat) (x : Transfer) (b : BlockData) : State :=
  let i := x.moved
  let w : List DieWrite :=
    if isSkew s f x then
      let d := (xferDesc s f x).getD 0
      let win := fun (a len v : Nat) (br : Bool) =>
        ({ due := t, stream := x.stream, oda := a / 8, n := (a % 8 + len + 7) / 8, v := v * 2 ^ (a % 8),
           mask := some (if br then 3 else 0), bits := some ((2 ^ len - 1) * 2 ^ (a % 8)) } : DieWrite)
      (skewPart s f x i).flatMap fun e =>
        win e.2.1 e.2.2 (bitsOf b.data.toNat e.1 e.2.2) (b.bmask.getLsbD (e.1 / 512)) ::
          (skewPads x.oda d e).map fun p => win p.1 p.2 0 false
    else
      [{ due := t, stream := x.stream, oda := x.oda + 128 * i, n := 128, v := bitsOf b.data.toNat (1024 * i) 1024,
         mask := some (bitsOf b.bmask.toNat (2 * i) 2) }]
  modXfer (modFmem s f fun m => { m with wr := m.wr ++ w }) f x.tag fun y => { y with moved := i + 1 }

/-- On-die ranges that piece `i` of a block reads. -/
def readRanges (s : State) (f : Nat) (x : Transfer) : List (Nat × Nat) :=
  if isSkew s f x then (skewPart s f x x.moved).map fun e => (e.2.1 / 8, (e.2.1 % 8 + e.2.2 + 7) / 8) else [(pieceAt s f x, 128)]

/-- The block that a PUT or PUTZ has read in full leaves for its rind unit, where its CRC is its check word's (R256, R356). -/
def sendBlock (s : State) (f : Nat) (x : Transfer) (b : BlockData) : State :=
  let whole := match xferDesc s f x with | some d => dLayout d == 0 && dOp d == 2 | none => false
  let wrong := match xferDesc s f x with | some d => if dOp d = 3 ∧ x.block = 0 then wrongBlocks s x.oda d else [] | none => []
  let s := wrong.foldl (fun s blk => raiseField s f 0x0105 x.asid 6 (4096 * blk) 0) s
  let (b, s) := putChecked s f x.asid x.oda whole (tierBlock b.data.toNat b.bmask.toNat)
  sendOut (modXfer s f x.tag fun y => { y with body := some b, moved := 32 }) f (x.stream / 16) (xferDie s x) x.tag

/-- A piece of a block, or of a punnet, is read in its slot (R250, R258, R260, R282). -/
def getPiece (s : State) (f : FieldIx) (x : Transfer) : State :=
  let i := x.moved
  let (v, br) :=
    match xferDesc s f x with
    | some d =>
      if x.punnet then (dieRead s (x.oda + 128 * i) 128, pieceBr s (x.oda + 128 * i) 2)
      else
        let b := putBlock s (nearOf (fieldOf s f) x.stream (streamOf s f x.stream) d) d x.block
        (bitsOf b.data.toNat (1024 * i) 1024, bitsOf b.bmask.toNat (2 * i) 2)
    | none => (dieRead s (x.oda + 128 * i) 128, pieceBr s (x.oda + 128 * i) 2)
  let s := (readRanges s f x).foldl (fun s r => noteRead s f r.1 r.2) s
  let old := x.body.getD { data := 0, check := 0 }
  let b : BlockData := { old with data := old.data ||| BitVec.ofNat 32768 (v * 2 ^ (1024 * i)), bmask := old.bmask ||| BitVec.ofNat 64 (br * 2 ^ (2 * i)) }
  if x.punnet then
    modXfer s f x.tag fun y => { y with body := some (if i = 7 then tierBlock b.data.toNat b.bmask.toNat else b), moved := i + 1, landed := i == 7 }
  else if i = 31 then sendBlock s f x b
  else modXfer s f x.tag fun y => { y with body := some b, moved := i + 1 }

/-- The next piece of a transfer moves in slot `t` where its port is free and its engine may use it: one piece a slot at each port (R224, R231,
R250). -/
def pieceStep (f : FieldIx) (t : Nat) (held : Bool) (r : State × List Nat) (x : Transfer) : State × List Nat :=
  let (s, used) := r
  if !wantsPiece x then r
  else
    let oda := pieceAt s f x
    if used.contains (streamPort oda) || !pieceAllowed s f t (x.stream / 16) oda held then r
    else
      (match x.body with
       | some b => if x.write || x.punnet then getPiece s f x else putPiece s f t x b
       | none => getPiece s f x, streamPort oda :: used)

/-- The pieces of a field's transfers in slot `t`, the oldest transfer first, and the ports that they use. DESIGN CHOICE (log 157): where two
transfers want one port, the older one has it. -/
def pieces (f : FieldIx) (t : Nat) (held : Bool) (s : State) : State × List Nat :=
  (fieldOf s f).str.xfer.foldl (pieceStep f t held) (s, [])

/-! ## The scrub -/

/-- The owner of a wheel entry makes no access in slot `t` (R235): an idle entry, an engine that is free and has nothing in progress, or a stream
engine that has moved no piece at the port. -/
def ownerIdle (s : State) (f t e : Nat) : Bool :=
  if e / 2 ^ 14 ≠ 1 then true
  else
    let core := bitsOf e 5 3
    let eng : Engine := match coreKind core with
      | .scalar => .scalar
      | .matrix => if bitOf e 4 then .drain else .load
      | .vector => if bitOf e 4 then .store else .load
    let c := coreAt s (coreKey f (bitsOf e 8 6) core)
    (tabGet none c.prog (engCode eng)).isNone && decide ((taskOf c eng).ready ≤ t)

/-- The scrub may use the port of an on-die address in slot `t`: a core's stream port that is idle, or a bank slot that is free (R235, R244). -/
def scrubFree (s : State) (f t : Nat) (used : List Nat) (oda : Nat) : Bool :=
  !used.contains (streamPort oda) &&
    (bitOf oda 33 || ownerIdle s f t (tabGet 0 (fieldOf s f).mem.wheel (16 * bankOf (oda % 2 ^ 27) + t % 16)).toNat)

/-- Every granule of the 4 KiB block of granule `g` has been visited in this round. -/
def blockSeen (m : FieldMem) (g : Nat) : Bool := (List.range 64).all fun i => tabGet false m.seen (g / 64 * 64 + i)

/-- The scrub reads a granule: it is corrected, or bruised and reported (R242, R244). With the last granule of a block the block has been read whole:
its check word is valid again, or a mismatch bruises every granule and raises BLOCK_CRC (R355, R356). -/
def scrubRead (f : FieldIx) (s : State) (x : Scrub) : State :=
  let g := x.granule
  let blk := g / 64
  let s := readGranule f s g
  let s := modFmem s f fun m => { m with seen := tabPut false g true m.seen }
  let s := if (hardWords (flipsOf s.mem g)).isEmpty then granulesDone s f (64 * g) (64 * g + 64) else s
  if !blockSeen (fieldOf s f).mem g then s
  else if tabGet false s.mem.unckd blk then putWord s blk (crc32c 4096 (blockBytes s blk))
  else if wordWrong s blk then raiseField { s with mem := { s.mem with dieBr := brFill s.mem.dieBr (4096 * blk) 4096 true } } f 0x0105 0 7 (4096 * blk) 0
  else s

/-- A scrub visit in slot `t`: it reads its granule in a free slot, and writes back what it corrected in a later one (R244). A visit of a place
that is not ON is dropped (R236). -/
def scrubOne (f : FieldIx) (t : Nat) (r : State × List Nat) (x : Scrub) : State × List Nat :=
  let (s, used) := r
  let oda := 64 * x.granule
  let keep := fun (s : State) (l : List Scrub) => modFmem s f fun m => { m with scrub := m.scrub ++ l }
  if !placeOn (fieldOf s f) (placeKey oda) then (s, used)
  else if !scrubFree s f t used oda then (keep s [x], used)
  else if x.read = 0 then
    let more := !(softWords (flipsOf s.mem x.granule)).isEmpty
    (keep (scrubRead f s x) (if more then [{ x with read := t + 1 }] else []), streamPort oda :: used)
  else (scrubBack s x.granule, streamPort oda :: used)

/-- The scrub visits of a field in slot `t`, at the ports that `used` leaves. -/
def scrubStep (f : FieldIx) (t : Nat) (s : State) (used : List Nat) : State :=
  let l := (fieldOf s f).mem.scrub
  if l.isEmpty then s else (l.foldl (scrubOne f t) (modFmem s f fun m => { m with scrub := [] }, used)).1

/-- Granules of the ON segments and banks of a field. -/
def onGranules (m : FieldMem) : Nat :=
  2048 * (m.seg.filter fun e => e.2.st == 2).length + 24576 * (m.bank.filter fun e => e.2.st == 2).length

/-- A scrub round of 2²⁴ slots ends with slot `t`: where it has missed a granule of an ON place, the scrub-lag counter rises (R244). -/
def scrubRound (f : FieldIx) (t : Nat) (s : State) : State :=
  let m := (fieldOf s f).mem
  if t + 1 < m.round + 2 ^ 24 then s
  else
    let got := (m.seen.filter fun e => placeOn (fieldOf s f) (placeKey (64 * e.1))).length
    modFmem s f fun m => { m with round := t + 1, seen := [], scrubLag := if got < onGranules m then m.scrubLag + 1 else m.scrubLag }

end Sys2Proof.Machine
end

