-- ==== Sys2Proof/Machine/Streams.lean ====
section
/-! DEFINITION. The commands of the stream complexes, of the rind units that serve them, and of the on-die and near-tier memories
(08 R236 to R247, 09 R248 to R282, 13 R354 to R357). -/

namespace Sys2Proof.Machine

/-! ## Requests -/

def execStreamArm (c : CoreId) (req : BitVec 1024) (s : State) : Host.Outcome State Fault Refusal := .next (acceptRequest s c req 0)

def execStreamReArm (c : CoreId) (req : BitVec 1024) (s : State) : Host.Outcome State Fault Refusal := .next (acceptRequest s c req 1)

def execStreamRelease (c : CoreId) (req : BitVec 1024) (s : State) : Host.Outcome State Fault Refusal :=
  .next (acceptRequest s c req 2)

/-! ## Descriptors and blocks -/

/-- DESCRIPTOR_START: the stream's next descriptor begins once its START epoch has come, and its punnet is fetched where the
stream does not hold it (R260, R272). -/
def descriptorStart (s : State) (f : FieldIx) (st : Fin 256) : State :=
  let y := streamOf s f st
  if !fieldRuns s f || y.st != .active || y.begun || y.draining || y.releasing then s
  else
    match heldDesc y y.didx with
    | none => fetchPunnet s f st (y.didx / 16) true
    | some d =>
      if slotOf s f < anchorOf s f (fieldOf s f).cond.owner + 4096 * (y.t0 + dStart d) then s else beginDesc s f st d

def execDescriptorStart (f : FieldIx) (st : Fin 256) (s : State) : Host.Outcome State Fault Refusal := .next (descriptorStart s f st)

/-- The transfer of the stream's next block, once it is admitted with leaf entry `e` at address `pa` (R249, R407): its record joins a request burst;
none where no tag is free for one. A PUT or PUTZ then reads the block piece by piece. -/
def issueBlock (s : State) (f : FieldIx) (st tag d near e pa : Nat) : Option State :=
  let y := streamOf s f st
  let a := (fieldOf s f).cond.owner
  let b := y.next
  let wr := dOp d != 1
  let oda := if dLayout d = 0 ∧ dOp d ≠ 3 then blockNear near d b else near
  (askXfer s f
    { tag := tag, stream := st, didx := y.didx, block := b, asid := a, write := wr, target := pteTarget e, far := pa, oda := oda,
      ctx := pteCtx e, mirror := wr && pteMirror e, iv := tabGet 0 (fieldOf s f).job.iv a}).map
    fun s => modStream s f st fun y => { y with next := b + 1 }

/-- BLOCK_ISSUE: the next block of the stream's descriptor takes a tag, is translated and requested, or the stream faults there; without a
free tag the engine waits (R249, R268). -/
def blockIssue (s : State) (f : FieldIx) (st : Fin 256) (tag : Fin 2048) : State :=
  let y := streamOf s f st
  if !fieldRuns s f || y.st != .active || !y.begun || y.draining || y.releasing || decide (y.total ≤ y.next) || !tagFree s f tag then s
  else
    match heldDesc y y.didx with
    | some d =>
      let near := nearOf (fieldOf s f) st y d
      let dva := blockFar s near (farOf y d) d y.next
      match takeAccess s f (st.val / 16) (fieldOf s f).cond.owner dva 4096 (dOp d != 1) with
      | (.inl k, s) => faultStream s f st k y.didx y.next dva
      | (.inr (e, pa), s') => (issueBlock s' f st tag d near e pa).getD s
    | none => s

def execBlockIssue (f : FieldIx) (st : Fin 256) (tag : Fin 2048) (s : State) : Host.Outcome State Fault Refusal :=
  .next (blockIssue s f st tag)

/-! ## The rind -/

/-- A block as a tier controller of die `die` hands it on, with the bits `missed` of it wrong: a block whose CRC differs from the CHECK stored with it
is reported, and leaves with every granule bruised and the computed CRC (R356; log 131). -/
def tierChecked (s : State) (die a asid : Nat) (missed : List Nat) (b : BlockData) : BlockData × State :=
  if missed.isEmpty then (b, s)
  else
    let read := tierBlock (missed.foldl (fun v n => v ^^^ 2 ^ (n % 32768)) b.data.toNat) b.bmask.toNat
    if read.check = b.check then (read, s) else (allBruised read, raiseDie s die 0x0105 asid a 0)

/-- Granules of a block with one wrong symbol or device, which the tier's code corrects, and with more, which are uncorrectable (R278, R281). -/
def tierSoft (x : TierRead) : List Nat := (x.syms.filter fun e => e.2.dedup.length == 1).map (·.1)
def tierHard (x : TierRead) : List Nat := (x.syms.filter fun e => decide (2 ≤ e.2.dedup.length)).map (·.1)

/-- A block of the near tier as its controller reads it: the granules corrected are reported, those found uncorrectable are bruised and
reported, and a channel in power-down leaves it (R276, R278, R356, R484). -/
def readNear (s : State) (a asid : Nat) (x : TierRead) : BlockData × State :=
  if nearBlocks s ≤ a / 4096 then (failedBlock, s)
  else
    let s := wakeChan s (nearChannel s a)
    let s := (tierSoft x).foldl (fun t g => raiseDie t (nearDie t a) 0x0003 0 (64 * ((a + 64 * (g % 64)) / 64)) 0) s
    let s := (tierHard x).foldl
      (fun t g =>
        let n := (a + 64 * (g % 64)) / 64
        raiseDie { t with mem := { t.mem with nearBr := brSet t.mem.nearBr n true } } (nearDie t a) 0x0103 asid (64 * n) 0) s
    tierChecked s (nearDie s a) a asid x.missed (nearBlock s a)

/-- A block of the far tier as its controller reads it (R281, R356). -/
def readFar (s : State) (a asid : Nat) (x : TierRead) : BlockData × State :=
  if farBytes s < a + 4096 then (failedBlock, s)
  else
    let s := wakeChan s (1280 + farChannel s a)
    let s := (tierSoft x).foldl (fun t g => raiseDie t (farDie t a) 0x0004 0 (64 * ((a + 64 * (g % 64)) / 64)) 0) s
    let s := (tierHard x).foldl
      (fun t g =>
        let n := (a + 64 * (g % 64)) / 64
        raiseDie { t with mem := { t.mem with farBr := brSet t.mem.farBr n true } } (farDie t a) 0x0104 asid (64 * n) 0) s
    tierChecked s (farDie s a) a asid x.missed (farBlock s a)

/-- RD_REQ for a block of a partner: sent once its landing space and a request slot are reserved (R443, R444). -/
def requestPartner (s : State) (f : Nat) (t : Transfer) : State :=
  let key := 2048 * f + t.tag
  let c := ctxOf s t.ctx
  let reads := (c.outst.filter fun e => e.1 == e.2 + 65536).length
  if c.st = .failed ∨ c.st = .closed then modXfer s f t.tag fun t => { t with body := some failedBlock }
  else if c.st ≠ .open_ ∨ c.slots = 0 ∨ 8192 ≤ s.bup.readUsed ∨ 256 ≤ reads ∨ c.outst.any (fun e => e.2 == key) then s
  else
    let s := modCtx s t.ctx fun c => { c with slots := c.slots - 1, outst := c.outst ++ [(65536 + key, key)] }
    let s := { s with bup := { s.bup with readUsed := s.bup.readUsed + 1 } }
    ctxSend s t.ctx tyRdReq fun m => { m with addr := t.far, rtag := 65536 + key }

/-- RIND_REQUEST: a rind unit takes the request record of a transfer from the request burst that has reached it, with the credits that the OUT header
returns, and makes the read or fetch; host memory answers with `host` (R254, R255). -/
def rindRequest (s : State) (f : FieldIx) (tag : Fin 2048) (found : TierRead) (host : Option BlockData) : State :=
  match xferOf s f tag with
  | none => s
  | some t =>
    let die := xferDie s t
    if !fieldClocked s f || t.target == 4 then s
    else if tabGet false s.dom.rindOut die then
      if t.write || t.body.isSome then s else modXfer (dropRecord s f tag) f tag fun t => { t with body := some failedBlock }
    else if !t.known && !(match burstOf s f tag with | some b => outArrived s f b.tag | none => false) then s
    else
      let s := modXfer (dropRecord (returnCredits s f die) f tag) f tag fun t => { t with known := true }
      if t.write || t.body.isSome then s
      else if t.target = 0 then
        let (b, s) := readNear s t.far t.asid found
        modXfer s f tag fun t => { t with body := some b }
      else if t.target = 1 then
        let (b, s) := readFar s t.far t.asid found
        modXfer s f tag fun t => { t with body := some b }
      else if t.target = 2 then
        match host, cxlPortFor s t.far with
        | some b, some _ => modXfer s f tag fun t => { t with body := some { b with check := BitVec.ofNat 32 (crc32c 4096 b.data.toNat) } }
        | _, _ => s
      else requestPartner s f t

def execRindRequest (f : FieldIx) (tag : Fin 2048) (found : TierRead) (host : Option BlockData) (s : State) :
    Host.Outcome State Fault Refusal := .next (rindRequest s f tag found host)

/-- RIND_BURST_SEND: a rind unit that holds the block and a landing credit of an IN channel sends it, and its flits reach the tap D slots on (R251,
R255); the read part of a partner's block is freed as it leaves for the channel (R443). -/
def rindBurstSend (s : State) (f : FieldIx) (tag : Fin 2048) : State :=
  match xferOf s f tag with
  | none => s
  | some t =>
    let ks := (channels s f 0 (t.stream / 16) (xferDie s t)).filter fun k => tabGet 0 (fieldOf s f).net.cred (k % 64) != 0
    match ks with
    | [] => s
    | k :: _ =>
      if !fieldClocked s f || t.write || t.body.isNone || t.landed || t.chan != 0 then s
      else
        let s := modNet s f fun n => { n with cred := tabMod 0 (k % 64) (· - 1) n.cred }
        let failed := match t.body with | some b => b.failed | none => false
        let s := if t.target = 3 ∧ !failed then { s with bup := { s.bup with readUsed := s.bup.readUsed - 1 } } else s
        let s := modNet s f fun n => { n with inb := n.inb ++ [{ chan := k % 64, tag := tag, from_ := slotOf s f + crossDelay }] }
        modXfer s f tag fun t => { t with chan := k + 1 }

def execRindBurstSend (f : FieldIx) (tag : Fin 2048) (s : State) : Host.Outcome State Fault Refusal := .next (rindBurstSend s f tag)

/-- The granules of a block that its tier holds are bruised (R275). -/
def bruiseTier (s : State) (t : Transfer) : State :=
  if t.target = 0 then { s with mem := { s.mem with nearBr := brFill s.mem.nearBr t.far 4096 true } }
  else if t.target = 1 then { s with mem := { s.mem with farBr := brFill s.mem.farBr t.far 4096 true } }
  else s

/-- An acknowledgement of a write (R254, R258): FAILED raises XFER_FAILED, unless it has been reported already,
and the tier bruises what it holds of the block (R275, R469). A
mirror block's waits for the mirror engine (R408). -/
def takeAck (f : FieldIx) (s : State) (a : Nat × Bool) : State :=
  match xferOf s f a.1 with
  | none => s
  | some t =>
    if !t.write || !t.landed || (jobOf s t.asid).mirrorHeld.contains (f.val, t.tag) then s
    else
      let failed := !a.2 || (match t.body with | some b => b.failed | none => false)
      let s := if failed && t.told then bruiseTier s t else if failed then raiseField (bruiseTier s t) f 0x0106 t.asid 6 t.far (streamDetail s f t.stream 0x0106 t.tag) else s
      if failed then countBlock s f t else streamsDone (countBlock s f t) f

/-- An inbound block (R256): it lands where CHECK matches; a first mismatch has it requested once more; a second mismatch, or a
block returned FAILED, lands with every granule bruised and is reported, once (R469). -/
def landBlock (s : State) (f : FieldIx) (t : Transfer) (b : BlockData) : State :=
  let det := streamDetail s f t.stream 0x0105 t.tag
  if b.failed then
    let s := modXfer s f t.tag fun t => { t with landed := true, body := some (allBruised b) }
    if t.told then s else raiseField s f 0x0106 t.asid 6 t.far det
  else if checkOk b then
    let s := modXfer s f t.tag fun t => { t with landed := true, body := some b }
    if t.retried then raiseField s f 0x0007 t.asid 6 t.far det else s
  else if t.retried then
    raiseField (modXfer s f t.tag fun t => { t with landed := true, body := some (allBruised b) }) f 0x0105 t.asid 6 t.far det
  else
    askAgain f (modXfer (owesCredit s f t) f t.tag fun t => { t with retried := true, body := none, chan := 0, known := false })

/-- The IN burst of a transfer has been taken whole by the tap of its channel (R253, R254). -/
def inArrived (s : State) (f : Nat) (t : Transfer) : Bool := (fieldOf s f).net.inb.any fun c => c.tag == t.tag && c.done != 0

/-- The DATA burst of a transfer, with the header flit `h` as it arrived and the block as the rind unit sent it, or with the data and
bruise bits that it has where it was altered on its way (R254 to R256). A block takes the credit of an IN channel, but for one that a rind unit which has failed can no
longer send, which is FAILED (R255, R275). -/
def takeData (s : State) (f : FieldIx) (h : Nat) (data : Option (BitVec 32768)) (bruises : Option (BitVec 64)) : State :=
  match xferOf s f (hdrXtag h) with
  | none => s
  | some t =>
    match t.body with
    | none => s
    | some b =>
      let dead := tabGet false s.dom.rindOut (xferDie s t)
      let here := if t.chan = 0 then b.failed && dead else inArrived s f t && (t.chan - 1) % 64 == hdrChan h
      if t.write || t.target == 4 || t.landed || !here then s
      else
        let s := modNet s f fun n => { n with inb := n.inb.filter fun c => c.tag != t.tag }
        landBlock s f t { data := data.getD b.data, bmask := bruises.getD b.bmask, check := BitVec.ofNat 32 (hdrCheck h),
                          failed := hdrStatus h == 1 || b.failed }

/-- BURST_IN: the acknowledgements of the header are recorded, and the block of a DATA burst lands (R250, R254, R256). An EMPTY burst has no block,
and the flits of REQUESTS come from no rind unit. DESIGN CHOICE (log 158): a burst whose KIND is reserved is taken as EMPTY. -/
def burstIn (s : State) (f : FieldIx) (header : BitVec 1024) (data : Option (BitVec 32768)) (bruises : Option (BitVec 64)) : State :=
  let h := header.toNat
  if !fieldClocked s f then s
  else
    let s := (hdrAcks h).foldl (takeAck f) s
    if hdrKind h = kindData then takeData s f h data bruises else s

def execBurstIn (f : FieldIx) (header : BitVec 1024) (data : Option (BitVec 32768)) (bruises : Option (BitVec 64)) (s : State) :
    Host.Outcome State Fault Refusal :=
  .next (burstIn s f header data bruises)

/-- A punnet has landed: the stream holds it, or consumes its bruise (R260, R357). -/
def landPunnet (s : State) (f : FieldIx) (t : Transfer) (b : BlockData) : State :=
  let s := endXfer s f t.tag
  let y := streamOf s f t.stream
  if y.releasing then settleStream s f t.stream
  else if bitsOf b.bmask.toNat 0 16 ≠ 0 then bruisedDesc s f t.stream (16 * t.block) (punnetAddr y t.block % 2 ^ 57)
  else sendHints (takePunnet s f t.stream t.block (bitsOf b.data.toNat 0 8192)) f t.stream t.block

/-- LANDING_COMPLETE: a landed block has been written to its destination piece by piece, or a punnet has been fetched; its credit is to be
returned, and its tag is free (R249, R250, R255, R258). CHECK becomes the check word of a whole aligned block
(R356). -/
def landingComplete (s : State) (f : FieldIx) (tag : Fin 2048) : State :=
  match xferOf s f tag with
  | none => s
  | some t =>
    match t.body with
    | none => s
    | some b =>
      if !fieldClocked s f || t.write || !t.landed then s
      else if t.punnet then landPunnet (owesCredit s f t) f t b
      else if t.moved < 32 || (fieldOf s f).mem.wr.any fun w => w.core == 0 && w.stream == t.stream then s
      else
        let s := owesCredit s f t
        let s := if t.oda % 4096 = 0 ∧ !isSkew s f t then putWord s (t.oda / 4096) b.check.toNat else s
        if b.failed ∨ bitsOf b.bmask.toNat 0 64 = 2 ^ 64 - 1 then countBlock s f t else streamsDone (countBlock s f t) f

def execLandingComplete (f : FieldIx) (tag : Fin 2048) (s : State) : Host.Outcome State Fault Refusal :=
  .next (landingComplete s f tag)

/-- WR for a block to a partner, while a credit is held: shared credits first (R444; log 22). -/
def writePartner (s : State) (f : Nat) (t : Transfer) (b : BlockData) : State :=
  let key := 2048 * f + t.tag
  let c := ctxOf s t.ctx
  if c.st = .failed ∨ c.st = .closed then modXfer s f t.tag fun t => { t with landed := true, body := some { b with failed := true } }
  else if c.st ≠ .open_ ∨ (c.shCred = 0 ∧ c.resCred = 0) ∨ c.outst.any (fun e => e.2 == key) then s
  else
    let seq := c.txSeq.toNat
    let s := modCtx s t.ctx fun c =>
      { c with shCred := c.shCred - 1, resCred := if c.shCred = 0 then c.resCred - 1 else c.resCred, outst := c.outst ++ [(seq, key)] }
    ctxSend s t.ctx tyWr fun m => { m with addr := t.far, body := b }

/-- A rind unit has written an outbound block to its tier, or to host memory (R256, R278, R281, R408). -/
def storeOut (s : State) (f : FieldIx) (t : Transfer) (b : BlockData) : State :=
  let fail := fun (s : State) => modXfer s f t.tag fun t => { t with landed := true, body := some { b with failed := true } }
  let done := fun (s : State) => modXfer s f t.tag fun t => { t with landed := true, body := some b }
  if t.target = 0 then
    if nearBlocks s ≤ t.far / 4096 then fail s
    else
      let s := done (nearPut (wakeChan s (nearChannel s t.far)) t.far b)
      if t.mirror ∧ (jobOf s t.asid).mirrored ∧ !(jobOf s t.asid).unprotected then
        modJob s t.asid fun j => { j with mirrorHeld := j.mirrorHeld ++ [(f.val, t.tag)] }
      else s
  else if t.target = 1 then
    if farBytes s < t.far + 4096 then fail s else done (farPut (wakeChan s (1280 + farChannel s t.far)) t.far b)
  else if t.target = 2 then
    match cxlPortFor s t.far with
    | some _ => done (emit s (.hostWrite t.far b))
    | none => s
  else writePartner s f t b

/-- RIND_OUT_BURST: a rind unit takes an outbound block that has reached it, and whose record it has, with the credits of its header, checks it, asks
for it once more on a first mismatch, and writes it, with every granule bruised after a second one (R251, R254 to R256). -/
def rindOutBurst (s : State) (f : FieldIx) (tag : Fin 2048) (data : Option BlockData) : State :=
  match xferOf s f tag with
  | none => s
  | some t =>
    match t.body with
    | none => s
    | some sent =>
      let die := xferDie s t
      if !fieldClocked s f || !t.write || t.landed then s
      else if tabGet false s.dom.rindOut die then modXfer s f tag fun t => { t with landed := true, body := some { sent with failed := true } }
      else if !t.known || !outArrived s f tag then s
      else
        let s := returnCredits s f die
        let s := modNet s f fun n => { n with outb := n.outb.filter fun c => c.tag != tag.val }
        let b := data.getD sent
        if checkOk b then
          let s := storeOut s f t b
          if t.retried then raiseDie s die 0x0007 t.asid t.far 0 else s
        else if t.retried then storeOut (raiseDie s die 0x0105 t.asid t.far 0) f t (allBruised b)
        else sendOut (modXfer s f tag fun t => { t with retried := true }) f (t.stream / 16) die tag

def execRindOutBurst (f : FieldIx) (tag : Fin 2048) (data : Option BlockData) (s : State) : Host.Outcome State Fault Refusal :=
  .next (rindOutBurst s f tag data)

/-! ## Firmware's part -/

/-- Page-table entries written by firmware, each at its near-tier address (R265, R267). -/
def writeEntries (s : State) (l : List (Nat × BitVec 64)) : State := l.foldl (fun t e => nearStore t (e.1 / 8 * 8) 8 e.2.toNat false) s

/-- PAGE_FAULT_SERVICE: firmware makes a page present and resumes the stream from its resume point, or declines, which makes the
fault a STREAM_FAULT (R269, R271). -/
def pageFaultService (s : State) (f : FieldIx) (st : Fin 256) (serve : Bool) (entries : List (Nat × BitVec 64)) : State :=
  let y := streamOf s f st
  if !pithUp s then s
  else
    let s := if serve then writeEntries s entries else s
    if y.st ≠ .faulted ∨ y.fkind ≠ 1 then s
    else if serve then streamsDone (modStream s f st fun y => { y with st := .active, fkind := 0, fdva := 0 }) f
    else raiseStream s f st 1 y.fdva

def execPageFaultService (f : FieldIx) (st : Fin 256) (serve : Bool) (entries : List (Nat × BitVec 64)) (s : State) :
    Host.Outcome State Fault Refusal := .next (pageFaultService s f st serve entries)

/-- TRANSLATION_INVALIDATE: the cached translations of an ASID in a range of DVAs are dropped in every stream complex (R267). -/
def translationInvalidate (s : State) (asid lo hi : Nat) : State :=
  if !pithUp s then s
  else modFields s fun _ x =>
    { x with str := dropXlates (fun b dva size => b == asid && decide (dva ≤ hi ∧ lo < dva + size)) x.str }

def execTranslationInvalidate (asid lo hi : Nat) (s : State) : Host.Outcome State Fault Refusal :=
  .next (translationInvalidate s asid lo hi)

/-- STREAM_DRAIN_TIMEOUT: the transfers of a draining stream that are still open are abandoned, and its resume point goes back to
the first of them (R271). -/
def streamDrainTimeout (s : State) (f : FieldIx) (st : Fin 256) : State :=
  let y := streamOf s f st
  let l := openXfers s f st
  if !fieldClocked s f || !y.draining || l.isEmpty then s
  else
    let first := (l.filter fun t => !t.punnet).foldl (fun m t => min m t.block) y.next
    let s := l.foldl (fun s t => endXfer (if t.landed || t.chan != 0 then owesCredit s f t else s) f t.tag) s
    let s := modStream s f st fun y => { y with next := first, boff := first, moved := first }
    settleStream s f st

def execStreamDrainTimeout (f : FieldIx) (st : Fin 256) (s : State) : Host.Outcome State Fault Refusal :=
  .next (streamDrainTimeout s f st)

/-! ## The on-die memories -/

/-- First on-die byte and length of a segment or bank of field `f` (R227, R229, R246). -/
def placeBytes (f : Nat) : MemPlace → Nat × Nat
  | .seg b c n => (f * 2 ^ 34 + 2 ^ 33 + b.val * 2 ^ 23 + c.val * 2 ^ 20 + n.val * 0x20000, 0x20000)
  | .bank n => (f * 2 ^ 34 + n.val * 0x180000, 0x180000)

/-- Granule `n` of a segment or bank. -/
def placeGranule (f : Nat) (p : MemPlace) (n : Nat) : Nat := (placeBytes f p).1 / 64 + n % ((placeBytes f p).2 / 64)

/-- SCRUB_VISIT: the scrub is to visit a granule of an ON segment or bank, in the first slot in which its port is free (R244). -/
def scrubVisit (s : State) (f : FieldIx) (p : MemPlace) (n : Nat) : State :=
  let g := placeGranule f p n
  if !fieldRuns s f || !placeOn (fieldOf s f) (placeKey (64 * g)) then s
  else modFmem s f fun m => { m with scrub := m.scrub ++ [{ granule := g }] }

def execScrubVisit (f : FieldIx) (p : MemPlace) (n : Nat) (s : State) : Host.Outcome State Fault Refusal := .next (scrubVisit s f p n)

/-- Power state of a segment or bank. -/
def segOf (m : FieldMem) : MemPlace → SegSt
  | .seg b c n => tabGet {} m.seg (8 * (8 * b.val + c.val) + n.val)
  | .bank n => tabGet {} m.bank n.val

/-- Power state of a segment or bank written. -/
def putSeg (m : FieldMem) (p : MemPlace) (x : SegSt) : FieldMem :=
  match p with
  | .seg b c n => { m with seg := tabPut {} (8 * (8 * b.val + c.val) + n.val) x m.seg }
  | .bank n => { m with bank := tabPut {} n.val x m.bank }

/-- The bytes of a segment or bank cleared, with valid check words and clear bruise bits (R239, R355). -/
def clearPlace (s : State) (f : Nat) (p : MemPlace) : State :=
  let (lo, n) := placeBytes f p
  { s with mem := { s.mem with die := memClear s.mem.die lo n, dieBr := tabClear (lo / 64) (n / 64) s.mem.dieBr,
                               flips := tabClear (lo / 64) (n / 64) s.mem.flips,
                               unckd := tabClear (lo / 4096) (n / 4096) s.mem.unckd
                               crcErr := tabClear (lo / 4096) (n / 4096) s.mem.crcErr } }

/-- A segment or bank goes to a state for owner `a` (R236, R239): it is cleared as it leaves OFF or changes owner, and its contents
go as it goes to OFF. -/
def setPlace (s : State) (f : Nat) (p : MemPlace) (st a : Nat) : State :=
  let old := segOf (fieldOf s f).mem p
  let s := if old.st = 0 ∨ st = 0 ∨ old.owner ≠ a then clearPlace s f p else s
  modFmem s f fun m => putSeg m p { st := st, owner := if st = 0 then 0 else a }

/-- The segment exists: a scalar core has two (R221). -/
def placeExists : MemPlace → Bool
  | .seg _ c n => decide (c.val < 7 ∨ n.val < 2)
  | .bank _ => true

/-! ## HBM4 channels -/

/-- The stack's spare is taken: by a channel out of service at bring-up, or by one retired since (R279). -/
def spareUsed (s : State) (st : Nat) : Bool :=
  !(badChannels s st).isEmpty || (List.range 32).any fun c => tabGet 0 s.mem.chan (32 * st + c) != 0

/-- CHANNEL_RETIRE: a channel's copy to the spare begins; with no spare left its blocks read as bruised until the next bring-up
(R279, R396). The retirement is due in the yield map (R382, R389). -/
def channelRetire (s : State) (st : Fin 40) (ch : Fin 32) : State :=
  let k := 32 * st.val + ch.val
  if !pithUp s || !(stackChannels s st).contains ch.val || tabGet 0 s.mem.chan k != 0 then s
  else
    let used := spareUsed s st
    let s := handlingDone s (.rind (st + 1))
    let s := dueEntry s { kind := 7, unit := st.val + 1, loc := ch, value := 0 }
    let s := { s with mem := { s.mem with chan := tabPut 0 k (if used then 3 else 1) s.mem.chan } }
    if used then bumpGen { s with yld := { s.yld with lost := s.yld.lost ||| BitVec.ofNat 64 (2 ^ st.val) } } else s

def execChannelRetire (stack : Fin 40) (ch : Fin 32) (s : State) : Host.Outcome State Fault Refusal := .next (channelRetire s stack ch)

/-- CHANNEL_COPY_COMPLETE: the spare takes the channel's place in the map; the granules of the channel that the copy could not correct, `ue`
by their addresses, arrive bruised (R278, R279). -/
def channelCopyComplete (s : State) (st : Fin 40) (ue : List Nat) : State :=
  let bad := ue.filter fun a => decide (a / 4096 < nearBlocks s ∧ nearChannel s a / 32 = st.val) && tabGet 0 s.mem.chan (nearChannel s a) == 1
  let s := bad.foldl
    (fun t a => raiseDie { t with mem := { t.mem with nearBr := brSet t.mem.nearBr (a / 64) true } } (nearDie t a) 0x0103 0 (a / 64 * 64) 0) s
  { s with mem := { s.mem with chan := s.mem.chan.map fun e => if e.1 / 32 = st.val ∧ e.2 = 1 then (e.1, 2) else e } }

def execChannelCopyComplete (stack : Fin 40) (ue : List Nat) (s : State) : Host.Outcome State Fault Refusal :=
  .next (channelCopyComplete s stack ue)

end Sys2Proof.Machine
end

