-- ==== Sys2Proof/Machine/Admit.lean ====
section
/-! DEFINITION. The admission of an image family (12 R333 to R344, 15 R404): the checks of R336. What rests on what the parsed sections do not
hold comes with the family (log 53). -/

namespace Sys2Proof.Machine

/-- A finding in the header or directory, at a byte offset of the family (R337). -/
def headAt (code offset : Nat) : Finding := { code := code, section_ := 0, var := 255, offset := offset }

/-! ## MALFORMED_IMAGE -/

/-- Header fields outside what R333 gives; REPRO of POLICY differs from FLAGS[0]. DESIGN CHOICE (log 175): RND_DEF 0b11
of the policy word is MALFORMED_IMAGE, at offset 64. -/
def headFindings (m : Family) (isize : Nat) : List Finding :=
  findIf (m.version != 1) (headAt 1 0) ++ findIf (bitsOf m.flags.toNat 3 13 != 0) (headAt 1 2) ++
  findIf (m.fr == 0 || decide (6 < m.fr)) (headAt 1 4) ++ findIf (m.fc == 0 || decide (6 < m.fc)) (headAt 1 5) ++
  findIf (m.nvar == 0 || decide (64 < m.nvar) || m.nvar != m.variants.length) (headAt 1 6) ++
  findIf (m.nsect != m.dir.length) (headAt 1 8) ++ ((m.reserved.map fun o => headAt 1 o).toList) ++
  findIf (decide (m.fsize < m.sectDir + 32 * m.dir.length) || decide (m.sectDir < 128)) (headAt 1 48) ++ findIf (m.fsize != isize) (headAt 1 56) ++
  findIf (m.lead == 0 || decide (64 < m.lead)) (headAt 1 7) ++
  findIf (bitOf m.policy.toNat 3 != bitOf m.flags.toNat 0 || bitsOf m.policy.toNat 4 60 != 0 || bitsOf m.policy.toNat 0 2 == 3) (headAt 1 64) ++
  findIf (bitsOf m.seedStreams.toNat 24 40 != 0) (headAt 1 72)

/-- Section types that a family must hold once for each variant (R584). -/
def neededTypes (m : Family) : List Nat := [1, 2, 3, 4, 5, 6, 7] ++ (if bitOf m.flags.toNat 1 then [0xC] else [])

/-- A directory entry has a place in the family: its TYPE exists, and its VAR is that of a shared or of a per-variant section. -/
def entryOk (m : Family) (e : DirEntry) : Bool :=
  decide (1 ≤ e.type ∧ e.type ≤ 15) && (if e.type = 10 ∨ e.type = 15 then e.var == 255 else decide (e.var < m.nvar)) &&
    (e.type != 0xC || bitOf m.flags.toNat 1) && (e.type != 15 || bitOf m.flags.toNat 2)

/-- A section lies in the family, off its header and its directory. -/
def sectionOk (m : Family) (e : DirEntry) : Bool :=
  !e.reserved && decide (128 ≤ e.offset ∧ e.offset + e.length ≤ m.fsize) && !meets e.offset e.length m.sectDir (32 * m.dir.length)

/-- The directory entries that break R334 or R584, two sections that overlap, and the sections that are missing. -/
def dirFindings (m : Family) : List Finding :=
  ((numbered m.dir).flatMap fun e =>
    findIf (!entryOk m e.2 || !sectionOk m e.2 ||
      (m.dir.take e.1).any fun d => decide (d.type = e.2.type ∧ d.var = e.2.var) || meets d.offset d.length e.2.offset e.2.length) (headAt 1 (m.sectDir + 32 * e.1))) ++
  findIf (!(m.dir.any fun d => d.type == 10)) (headAt 1 m.sectDir) ++
  findIf (bitOf m.flags.toNat 2 && !(m.dir.any fun d => d.type == 15)) (headAt 1 m.sectDir) ++
  findIf ((List.range m.nvar).any fun v => (neededTypes m).any fun t => !(m.dir.any fun d => d.type == t && d.var == v)) (headAt 1 m.sectDir)

/-! ## CAPMAP_DECL, TOKEN_DECL, WINDOW, SEGMENT_DECL -/

/-- A byte of CORES holds a lane count that exists, and zero in its reserved bits (R335). -/
def capByteOk (b : BitVec 8) : Bool := bitsOf b.toNat 0 2 != 3 && bitsOf b.toNat 3 5 == 0

/-- A capacity record without a reserved value. -/
def capOk (c : CapRec) : Bool :=
  c.reservedOk && decide (c.role ≤ 2) && bitsOf c.absent.toNat 36 4 == 0 && c.cores.all fun e => decide (e.1 < 144) && capByteOk e.2

/-- Position and bunch may hold a task: a WORK position, and a bunch that is not absent. -/
def workBunch (v : Variant) (pos : Nat) (b : BunchIx) : Bool := (capAt v pos).role == 1 && !(capAt v pos).absent.getLsbD b.val

/-- Records with reserved values, and tasks that lie in an absent bunch or a position that is not WORK. -/
def capFindings (m : Family) (i : Nat) (v : Variant) : List Finding :=
  let here := fun (p : Nat) => { code := 2, section_ := 1, var := i, offset := 160 * p : Finding }
  findIf (v.caps.length != m.fr * m.fc) (here 0) ++
  ((numbered v.caps).flatMap fun e => findIf (!capOk e.2) (here e.1)) ++
  (v.tasks.flatMap fun t => findIf (!workBunch v t.pos t.bun) (here t.pos))

/-- The core has the engine (R155). -/
def hasEngine (c : CoreIx) (e : Engine) : Bool := engineOn (coreKind c.val) e

/-- Queue declarations that break R163, and token-mask entries that name a queue not declared for the engine (R185, R220). -/
def tokFindings (i : Nat) (v : Variant) : List Finding :=
  (v.toks.flatMap fun t =>
    findIf (decide (63 < t.init) || (t.prod == t.cons && t.cor.val != 7) || !hasEngine t.cor t.prod || !hasEngine t.cor t.cons)
      (findIn 4 3 i [t.pos, t.bun.val, t.cor.val, t.q.val])) ++
  (v.tasks.flatMap fun t =>
    findIf (t.masks.any fun e => !masksOk v t (e.2.toNat % 65536) (e.2.toNat / 65536))
      (findIn 4 3 i [t.pos, t.bun.val, t.cor.val, engCode t.eng]))

/-- A declaration byte of R237. -/
def declOk (b : Nat) : Bool := bitsOf b 0 2 != 3 && bitsOf b 2 2 != 3 && (bitsOf b 0 2 == 2 || bitsOf b 2 2 == 0) && bitsOf b 4 4 == 0

/-- The segments or banks that bytes [lo, lo + n) of a task's SPACE touch. -/
def windowPlaces (t : TaskDecl) (shared : Bool) (lo n : Nat) : List MemPlace :=
  let u := if shared then 0x180000 else 0x20000
  (List.range ((lo + n - 1) / u - lo / u + 1)).map fun i =>
    if shared then .bank (Fin.ofNat 64 (lo / u + i)) else .seg t.bun t.cor (Fin.ofNat 8 (lo / u + i))

/-- A window register of R160 that lies within SPACE and wholly on places that are ON (R161, R162). -/
def windowOk (v : Variant) (t : TaskDecl) (k w : Nat) : Bool :=
  let lo := 64 * bitsOf w 0 22
  let n := 64 * bitsOf w 22 22
  let shared := bitsOf w 44 3 == 1
  bitsOf w 50 14 == 0 && decide (bitsOf w 44 3 ≤ 1) && (!bitOf w 49 || k == 0) && (k != 0 || bitsOf w 44 3 == 0) &&
    (n == 0 || (decide (lo + n ≤ (if shared then sharedSize else coreMemSize t.cor.val)) &&
      (windowPlaces t shared lo n).all fun p => bitsOf (declOf v t.pos p) 0 2 == 2))

/-- Windows that break R160 to R162. -/
def winFindings (i : Nat) (v : Variant) : List Finding :=
  v.tasks.flatMap fun t =>
    findIf (t.windows.any fun e => !windowOk v t e.1 e.2.toNat) (findIn 5 4 i [t.pos, t.bun.val, t.cor.val, engCode t.eng])

/-- Declaration bytes with a reserved value (R237). -/
def segFindings (i : Nat) (v : Variant) : List Finding :=
  v.power.flatMap fun d => findIf (!declOk d.byte.toNat || !placeExists d.place) (findIn 6 5 i [d.pos])

/-! ## YIELD_SPACING, CARRIER_CONFLICT, WHEEL_CONFLICT -/

/-- STEP, FINAL and PORTABLE of a record. -/
def recFinal (y : YieldRec) : Bool := y.flags.getLsbD 1
def recStep (y : YieldRec) : Bool := y.flags.getLsbD 0
def recPortable (y : YieldRec) : Bool := y.flags.getLsbD 2

/-- Reserved bits of the yield table, and ΔJ outside 1 to 16 or a second FINAL point (R336, R585). -/
def yieldFindings (m : Family) : List Finding :=
  (numbered m.yields).flatMap fun e =>
    findIf (e.2.reserved || bitsOf e.2.flags.toNat 3 5 != 0) { code := 1, section_ := 10, var := 255, offset := 8 * e.1 } ++
    findIf (e.2.dj == 0 || decide (16 < e.2.dj) || (recFinal e.2 && (m.yields.take e.1).any recFinal))
      { code := 0x12, section_ := 10, var := 255, offset := 8 * e.1 }

/-- A carrier record with values that R252 gives. -/
def carrierOk (c : CarrierDecl) : Bool :=
  let r := c.record.toNat
  decide (bitsOf r 0 5 < 24) && bitsOf r 6 2 != 3 && bitsOf r 24 40 == 0 &&
    (if bitsOf r 6 2 = 2 then bitsOf r 8 10 == 0 else decide (1 ≤ bitsOf r 12 6 ∧ bitsOf r 12 6 ≤ 60)) &&
    (bitsOf r 6 2 == 0 || bitsOf r 18 6 == 0)

/-- Two channels of a field act on one crossing, plane and slot (R253). -/
def carriersClash (a b : CarrierDecl) : Bool :=
  a.pos == b.pos && decide (a.bank = b.bank) && bitsOf a.record.toNat 0 6 == bitsOf b.record.toNat 0 6 && a.map.any fun i => b.map.contains i

/-- A route word uses the input or the output of a crossing that a channel takes in that slot (R253). -/
def carrierOnRoute (c : CarrierDecl) (r : RouteDecl) : Bool :=
  let rec_ := c.record.toNat
  let x := bitsOf rec_ 0 5
  let side := x / 6
  let edge := if side % 2 = 0 then x % 6 + (if side = 0 then 0 else 30) else 6 * (x % 6) + (if side = 1 then 5 else 0)
  r.pos == c.pos && decide (r.bank = c.bank) && r.bun.val == edge && r.plane.val == bitsOf rec_ 5 1 && c.map.contains r.index &&
    (if bitsOf rec_ 6 2 = 0 then (List.range 5).any fun d => outSource r.word.toNat d == side + 1
     else if bitsOf rec_ 6 2 = 1 then outSource r.word.toNat side != 0 else false)

/-- Carrier channels that break R252 or R253. -/
def carrierFindings (i : Nat) (v : Variant) : List Finding :=
  ((numbered v.carriers).flatMap fun e =>
    findIf (!carrierOk e.2 || (v.carriers.take e.1).any (fun d => carriersClash d e.2 || (d.pos == e.2.pos && decide (d.bank = e.2.bank ∧ d.chan = e.2.chan))) ||
        v.routes.any (carrierOnRoute e.2))
      (findIn 0x16 8 i [e.2.pos, e.2.chan.val])) ++
  ((numbered v.caps).flatMap fun p =>
    [0, 1].flatMap fun b =>
      findIf (decide (64 < ((v.carriers.filter fun c => c.pos == p.1 && c.bank.val == b).map fun c => bitsOf c.record.toNat 18 6).sum)) (findIn 0x16 8 i [p.1]))

/-- A wheel entry of R231. -/
def wheelOk (w : Nat) : Bool :=
  match bitsOf w 14 2 with
  | 0 => w == 0
  | 1 => decide (bitsOf w 8 6 < 36) && bitsOf w 0 4 == 0 && (bitsOf w 5 3 != 7 || !bitOf w 4)
  | 2 => bitsOf w 4 10 == 0
  | _ => false

/-- Wheel entries of one position in one slot that break R232: more than two banks for engines of a bunch, or one engine or stream
engine twice. -/
def wheelSlotBad (l : List WheelDecl) : Bool :=
  let ws := (l.map fun e => e.entry.toNat).filter (· != 0)
  (numbered ws).any fun e =>
    (ws.take e.1).contains e.2 ||
      (bitsOf e.2 14 2 == 1 && decide (3 ≤ (ws.filter fun w => bitsOf w 14 2 == 1 && bitsOf w 8 6 == bitsOf e.2 8 6).length))

/-- Wheel declarations that break R231 or R232, of a variant as it stands and under each schedule of its predicted layers. -/
def wheelFindings (i : Nat) (v : Variant) : List Finding :=
  (v.wheels :: v.kscheds.map fun k => wheelsWith v.wheels k.wheels).flatMap fun l =>
  (l.flatMap fun w => findIf (!wheelOk w.entry.toNat) (findIn 0x17 7 i [w.pos, w.bank.val, w.position.val])) ++
  ((numbered v.caps).flatMap fun p =>
    (List.finRange 16).flatMap fun (k : Fin 16) =>
      findIf (wheelSlotBad (l.filter fun w => w.pos == p.1 && decide (w.position = k))) (findIn 0x17 7 i [p.1, k.val]))

/-! ## ROUTE_CONFLICT, PREDICTOR_DECL, PORTABILITY, MIRROR_DECL -/

/-- A route word that keeps R48 and R49. -/
def routeOk (w : Nat) : Bool :=
  bitsOf w 21 11 == 0 && (List.range 5).all fun d => decide (outSource w d ≤ 5) && outSource w d != d + 1

/-- Route words that break R47 to R49. -/
def routeFindings (i : Nat) (v : Variant) : List Finding :=
  findIf (v.period0 == 0 || decide (4096 < v.period0) || v.period1 == 0 || decide (4096 < v.period1) || decide (4096 < v.staged0) ||
    decide (4096 < v.staged1)) (findIn 0xB 6 i []) ++
  v.routes.flatMap fun r =>
    findIf (!routeOk r.word.toNat || decide (periodOf v r.plane.val r.bank.val ≤ r.index))
      (findIn 0xB 6 i [r.pos, r.bun.val, r.plane.val, r.index])

/-- Barriers that break R173: one declared twice, an owner that is no bunch with a SCALAR task, or a route index that the active banks do
not have. -/
def barrierFindings (i : Nat) (v : Variant) : List Finding :=
  (numbered v.barriers).flatMap fun e =>
    findIf ((v.barriers.take e.1).any (fun b => decide (b.b = e.2.b)) || decide (v.period0 ≤ e.2.resume0 ∨ v.period1 ≤ e.2.resume1) ||
        !(v.tasks.any fun t => t.pos == e.2.ownerPos && decide (t.bun = e.2.ownerBun) && decide (t.eng = .scalar)))
      (findIn 0x13 0xB i [e.2.b.val])

/-- A predicted layer of R299 and R302: 1 to 4 variants with k rising from 1 to 64, of EXACT one with k = 64; strata of R rows where there are
audits; make-up slots under CHECKED alone. -/
def layerOk (l : LayerDecl) : Bool :=
  decide (l.policy ≤ 2 ∧ l.layer < 0xFFFF ∧ 1 ≤ l.kvars.length ∧ l.kvars.length ≤ 4) &&
    (l.kvars.all fun k => decide (1 ≤ k.1 ∧ k.1 ≤ 64 ∧ k.2 ≤ (if l.policy = 1 then 8 else 0))) &&
    ((l.kvars.zip (l.kvars.drop 1)).all fun k => decide (k.1.1 < k.2.1)) &&
    (if l.policy = 0 then l.kvars.map (·.1) == [64] else [16, 32, 64, 128, 256].contains l.stratum)

/-- The memory of a bunch's scalar core holds a counter area (R309). -/
def areaOk (v : Variant) (pos : Nat) (b : BunchIx) : Bool :=
  match v.counters.filter fun d => d.pos == pos && decide (d.bun = b) with
  | [d] => decide (stepAt d + 8 ≤ coreMemSize 7) && d.layers.all fun l => v.layers.any fun x => x.layer == l
  | _ => false

/-- A byte of a schedule lies in the instructions of a task: a schedule changes no data on the die (R312). -/
def schedByteOk (v : Variant) (b : ImageByte) : Bool :=
  v.tasks.any fun t => t.pos == b.pos &&
    (let w := declWin t 0
     decide (winBase t w ≤ b.off ∧ b.off < winBase t w + 64 * bitsOf w 22 22))

/-- Predicted layers that R299 does not have, one declared twice, that no area counts, or that has no schedule for a variant above 0; scalar
cores without an area (R309); schedules that change data (R312). -/
def layerFindings (i : Nat) (v : Variant) : List Finding :=
  ((numbered v.layers).flatMap fun l =>
    findIf (!layerOk l.2 || (v.layers.take l.1).any (fun x => x.layer == l.2.layer) || !(v.counters.any fun d => d.layers.contains l.2.layer) ||
        (List.range l.2.kvars.length).any fun k => k != 0 && !(v.kscheds.any fun q => q.layer == l.2.layer && q.kvar == k))
      (findIn 0x19 0xC i [l.2.layer])) ++
  (if v.layers.isEmpty then [] else
    (v.tasks.filter fun t => decide (t.eng = .scalar)).flatMap fun t => findIf (!areaOk v t.pos t.bun) (findIn 0x19 0xC i [t.pos, t.bun.val])) ++
  v.kscheds.flatMap fun k => findIf (!k.image.all (schedByteOk v)) (findIn 0x19 0xC i [k.layer, k.kvar])

/-- Logical size of region `r` at yield point `y`: the end of its last extent (R342, R344). -/
def regionSize (v : Variant) (r y : Nat) : Nat :=
  (v.extents.filter fun e => e.region == r && e.y == y).foldl
    (fun n e => max n (if e.store ≤ 1 then e.loff + e.count else e.loff + (e.count - 1) * e.lstride + e.nel)) 0

/-- Regions of a variant, with their yield points. -/
def regionsOf (v : Variant) : List (Nat × Nat) := (v.extents.map fun e => (e.region, e.y)).dedup

/-- Yield points that break R342 or R343: a family with several variants has a point that is not PORTABLE, a PORTABLE point has a
task without an entry state, or a region has another logical size in another variant. -/
def portFindings (m : Family) : List Finding :=
  ((numbered m.yields).flatMap fun e =>
    findIf (decide (2 ≤ m.variants.length) && !recPortable e.2) { code := 0x1D, section_ := 10, var := 255, offset := 8 * e.1 } ++
    findIf (recPortable e.2 && m.variants.any fun v => v.tasks.any fun t =>
        !(v.entries.any fun n => n.y == e.1 && n.pos == t.pos && decide (n.bun = t.bun) && decide (n.cor = t.cor) && decide (n.eng = t.eng)))
      { code := 0x1D, section_ := 10, var := 255, offset := 8 * e.1 }) ++
  ((numbered m.variants).flatMap fun v =>
    (regionsOf v.2).flatMap fun r =>
      findIf (m.variants.any fun w => regionSize w r.1 r.2 != regionSize v.2 r.1 r.2) (findIn 0x1D 0xD v.1 [r.1, r.2]))

/-- Mirror points of a family (R403). -/
def mirrorPoints (m : Family) (every : Nat) : List Nat :=
  (List.range m.yields.length).filter fun y =>
    (match m.yields[y]? with | some r => recStep r | none => false) &&
      ((m.yields.take (y + 1)).filter recStep).length % every == 0

/-- A MIRROR section that breaks R403 or R404. -/
def mirrorFindings (m : Family) : List Finding :=
  match m.mirror with
  | none => []
  | some d =>
    let here := fun (o : Nat) => { code := 0x1E, section_ := 15, var := 255, offset := o : Finding }
    findIf (d.regions.isEmpty || decide (16 < d.regions.length)) (here 0) ++ findIf (d.every == 0 || decide (65535 < d.every)) (here 2) ++
    findIf (d.total != (d.regions.map fun r => 0x200000 * r.2).sum) (here 16) ++
    ((numbered d.regions).flatMap fun r =>
      findIf (r.2.2 == 0 || r.2.1 % 0x200000 != 0 || decide (2 ^ 57 ≤ r.2.1) ||
          (d.regions.take r.1).any fun q => decide (q.1 < r.2.1 + 0x200000 * r.2.2 ∧ r.2.1 < q.1 + 0x200000 * q.2))
        (here (64 + 16 * r.1))) ++
    ((mirrorPoints m d.every).flatMap fun y =>
      findIf (!(match m.yields[y]? with | some r => recPortable r | none => false) ||
          m.variants.any fun v => v.extents.any fun e => e.y == y) (here 2))

/-! ## The record -/

/-- A hit of the verifier as the loader reports it; the layout of the per-variant sections is not published (R337; log 11). -/
def hitFinding (i : Nat) (h : Hit) : Finding :=
  if h.sec = 15 then { code := h.code, section_ := 15, var := 255, offset := h.items.headD 0 } else findIn h.code h.sec i h.items

/-- What the verifier finds of a variant's streams, in time and against its route tables (R177 to R182, R220), at its portable points (R342)
and in its mirror regions (R404, R405): of the variant as it stands, and of each schedule of its predicted layers. -/
def planFindings (m : Family) (i : Nat) (v : Variant) : List Finding :=
  ((plansOf v).flatMap fun w =>
    let ts := tracesOf m w
    let p := planOf m w ts
    codeHits m w ts ++ planHits p ++
      ((yieldSlots p).zipIdx.flatMap fun j => if (m.yields[j.2]?).any recPortable then portHits p j.2 j.1 else []) ++
      (match m.mirror with | some d => mirrorHits p d (mirrorPoints m d.every) | none => [])).map (hitFinding i)

/-- The streams that are active at the STEP yield points differ between the schedules of a variant (R312). -/
def activeFindings (m : Family) (i : Nat) (v : Variant) : List Finding :=
  match (plansOf v).map fun w => planOf m w (tracesOf m w) with
  | [] => []
  | p :: ps =>
    findIf (ps.any fun q => !(stepStreams m p).all (stepStreams m q).contains || !(stepStreams m q).all (stepStreams m p).contains)
      (findIn 0x19 0xC i [])

/-- Every finding of a family: those that the parsed sections decide, and those that rest on what they do not hold. -/
def allFindings (m : Family) (isize : Nat) (reproReq : Bool) : List Finding :=
  headFindings m isize ++ m.sums.toList ++ m.poison.toList ++ dirFindings m ++ yieldFindings m ++
  ((numbered m.variants).flatMap fun v =>
    capFindings m v.1 v.2 ++ planFindings m v.1 v.2 ++ activeFindings m v.1 v.2 ++ tokFindings v.1 v.2 ++ winFindings v.1 v.2 ++ segFindings v.1 v.2 ++ routeFindings v.1 v.2 ++
    barrierFindings v.1 v.2 ++ carrierFindings v.1 v.2 ++ wheelFindings v.1 v.2 ++ layerFindings v.1 v.2) ++
  portFindings m ++ mirrorFindings m ++ findIf (reproReq && !bitOf m.policy.toNat 3) (headAt 0x1F 64) ++ m.findings

/-- The failure that the loader reports: the first check of the table that fails, at its first place (R336). -/
def firstFinding (l : List Finding) : Option Finding :=
  l.foldl (fun b x => match b with | some y => if x.code < y.code then some x else b | none => some x) none

/-- Admission result record (R337). -/
def resultRecord (x : Finding) : BitVec 128 := BitVec.ofNat 128 (x.code + 2 ^ 16 * x.section_ + 2 ^ 32 * x.var + 2 ^ 64 * x.offset)

end Sys2Proof.Machine
end

