-- ==== Sys2Proof/Machine/JobOps.lean ====
section
/-! DEFINITION. Placement of jobs (12 R329, R338 to R341, 02 R41 to R47, 08 R232 to R240, 09 R252, R261, 15 R406): which fields fit a
frame, and what the loader writes into them. -/

namespace Sys2Proof.Machine

/-! ## Frames and fields -/

/-- The fields of a frame with their positions and roles. -/
def frameFields (m : Family) (v : Variant) (origin : Nat) : List (Nat × Nat × Nat) :=
  (List.range (m.fr * m.fc)).filterMap fun p =>
    match frameField m origin p with
    | some f => if (capAt v p).role = 0 then none else some (f, p, (capAt v p).role)
    | none => none

/-- Lane count and check-column count of a matrix core with `good` good columns (R126, R127). -/
def lanesOf (good : Nat) : Nat := if 64 ≤ good then 64 else if 56 ≤ good then 56 else if 48 ≤ good then 48 else 0
def checksOf (good : Nat) : Nat := min 2 (good - lanesOf good)

/-- States of a core (R128). -/
inductive CoreState where
  | inService | narrowed | unchecked | condemned | retired
  deriving DecidableEq, Repr

/-- Reported state of a matrix core: the first condition that applies, in the order RETIRED, CONDEMNED, UNCHECKED, NARROWED, IN SERVICE
(R127, R128). -/
def coreState (s : State) (c : CoreId) : CoreState :=
  match siteOf s.yld c.fld c.bun with
  | none => .retired
  | some site =>
    let good := 66 - (failedCols s.yld c.fld site c.cor).length
    if lanesOf good = 0 then .retired
    else if (coreAt s (ckey c)).condemned then .condemned
    else if checksOf good = 0 then .unchecked
    else if lanesOf good < 64 then .narrowed
    else .inService

/-- Lane count code and UNCHECKED bit of a matrix core for the mapping in force (R126, R127, R335). -/
def coreByte (y : Yield) (f site m : Nat) : Nat :=
  let good := 66 - (failedCols y f site m).length
  (if lanesOf good = 64 then 0 else if lanesOf good = 56 then 1 else 2) + (if checksOf good = 0 then 4 else 0)

/-- The bunches and cores of a field are as a record wants them (R338): every bunch that is not marked absent is in service, and in a
WORK position each of its matrix cores has the record's byte. -/
def capFits (s : State) (f : Nat) (c : CapRec) : Bool :=
  (List.range 36).all fun b =>
    c.absent.getLsbD b ||
      (match siteOf s.yld f b with
       | none => false
       | some site => c.role != 1 || (List.range 4).all fun k => (tabGet 0 c.cores (4 * b + k)).toNat == coreByte s.yld f site k)

/-- The field may be given to a job now: no other job owns it, no job leases a field that is to be owned, and nothing holds it from
placement (R338, R365, R366, R384, R395, R511, R530). -/
def fieldOpen (s : State) (f role : Nat) : Bool :=
  let c := (fieldOf s f).cond
  c.owner == 0 && !c.oscFail && !c.diagHold && !c.testHold && !c.remapDue && !c.atSpeed && (fieldOf s f).pow.testDue.isEmpty && (role != 1 || c.leases.isEmpty)

/-- A wire of a crossing has no good wire left: more than 32 of 1,088 have failed (R382). -/
def crossingFailed (s : State) (f x p : Nat) : Bool := decide (32 < (tabGet [] s.yld.wires ((f * 24 + x) * 2 + p)).length)

/-- The seam of field `f` on a side has a failed crossing, in either direction (R385). -/
def seamFailed (s : State) (f side : Nat) : Bool :=
  (List.range 24).any fun x => sideOf x == side && [0, 1].any fun p =>
    crossingFailed s f x p || (match neighbour f side with | some g => crossingFailed s g (facing x) p | none => false)

/-- A route of the variant's position leaves or enters the field by a side. -/
def routeCrosses (v : Variant) (pos side : Nat) : Bool :=
  v.routes.any fun r =>
    let b := r.bun.val
    let edge := match side with | 0 => b / 6 == 0 | 1 => b % 6 == 5 | 2 => b / 6 == 5 | _ => b % 6 == 0
    r.pos == pos && edge && (outSource r.word.toNat side != 0 || (List.range 5).any fun d => outSource r.word.toNat d == side + 1)

/-- The first slot of an epoch at least 32 nominal epochs after the loader's last write (R41). -/
def startEpoch (s : State) : Nat := nominalEpoch s + 33

/-- One word of a job's route tables: where it stands, its period, and the base of its bank. -/
structure RouteUse where
  bun : Nat
  plane : Nat
  index : Nat
  period : Nat
  base : Nat
  active : Bool
  word : Nat
  deriving DecidableEq, Repr

/-- Two jobs' words on one router name one output in one slot (R53). Of two active banks the bases say which slots; a staged bank may become
active in the first slot of any epoch (R47, R51). -/
def wordsCollide (x y : RouteUse) : Bool :=
  let g := Nat.gcd x.period y.period
  let h := if x.active && y.active then g else Nat.gcd g 4096
  x.bun == y.bun && x.plane == y.plane && ((List.range 5).any fun d => outSource x.word d != 0 && outSource y.word d != 0) &&
    (x.base + x.index) % h == (y.base + y.index) % h

/-- Route words of job `a` in the tables of a field, of both banks. -/
def heldRoutes (n : FieldNet) (a : Nat) : List RouteUse :=
  (n.route.filter fun e => e.1 / 589824 == a).map fun e =>
    let bank := e.1 / 4096 % 2
    let p := e.1 / 8192 % 2
    { bun := e.1 / 16384 % 36, plane := p, index := e.1 % 4096, period := tabGet 1 n.period ((2 * a + p) * 2 + bank),
      base := tabGet 0 n.base (2 * a + p), active := tabGet 0 n.bank (2 * a + p) == bank, word := e.2.toNat }

/-- Route words that a variant declares for a position, for a job that starts in slot `start`. -/
def declaredRoutes (v : Variant) (pos start : Nat) : List RouteUse :=
  (v.routes.filter fun r => r.pos == pos).map fun r =>
    { bun := r.bun.val, plane := r.plane.val, index := r.index, period := periodOf v r.plane.val r.bank.val, base := start,
      active := r.bank.val == 0, word := r.word.toNat }

/-- The routes of a position collide with those of a job that leases the field already (R53). -/
def transitClash (s : State) (f : Nat) (v : Variant) (pos : Nat) : Bool :=
  let mine := declaredRoutes v pos (4096 * startEpoch s)
  (fieldOf s f).cond.leases.any fun a => (heldRoutes (fieldOf s f).net a).any fun w => mine.any (wordsCollide w)

/-- How far a test of placement goes: whether a module's capacity could serve (R351), whether its fields are open now (R338), and whether
their route tables can also be merged (R53). -/
inductive Depth where
  | capacity
  | openNow
  | merged
  deriving DecidableEq, Repr

/-- Every position of a variant lies on the die at an origin and has a field that its record fits (R338, R385). -/
def variantFits (s : State) (m : Family) (v : Variant) (origin : Nat) (depth : Depth) (barred : List Nat) : Bool :=
  (List.range (m.fr * m.fc)).all fun p =>
    let c := capAt v p
    if c.role = 0 then true
    else match frameField m origin p with
      | none => false
      | some f =>
        !fieldGone s f && capFits s f c &&
          ((List.range 4).all fun side => !seamFailed s f side || !routeCrosses v p side) &&
          (depth == .capacity || (fieldOpen s f c.role && !barred.contains f)) && (depth != .merged || !transitClash s f v p)

/-- A variant marks some core UNCHECKED (R339). -/
def marksUnchecked (v : Variant) : Bool := v.caps.any fun c => c.cores.any fun e => e.2.getLsbD 2

/-- Origins to try (R339, R351). -/
def originsOf (j : Job) : List Nat := if j.askOrigin = 255 then List.range 36 else [j.askOrigin]

/-- Variants that a job may use, in index order, with CHECKED placement observed (R339). -/
def variantsOf (j : Job) : List Nat :=
  (List.range j.fam.variants.length).filter fun i => !j.checked || !marksUnchecked (j.fam.variants.getD i default)

/-- Variant `i` of a job fits at an origin. -/
def fitsAt (s : State) (j : Job) (depth : Depth) (i o : Nat) : Bool :=
  variantFits s j.fam (j.fam.variants.getD i default) o depth j.barred

/-- Some variant could fit the current capacity map at some origin (R339, R351). -/
def couldFit (s : State) (j : Job) : Bool := (originsOf j).any fun o => (variantsOf j).any fun i => fitsAt s j .capacity i o

/-- The first origin, and the first variant there, at which every position passes a test (R339). -/
def firstFit (s : State) (j : Job) (depth : Depth) : Option (Nat × Nat) :=
  (originsOf j).findSome? fun o => ((variantsOf j).find? fun i => fitsAt s j depth i o).map fun i => (o, i)

/-- The first origin, and the first variant there, at which every position fits now (R339). -/
def placeFirst (s : State) (j : Job) : Option (Nat × Nat) := firstFit s j .merged

/-- ROUTE_CONFLICT of R53 and R336: frames are open to the job, but in each of them a router of a transit field would merge its route words
with another job's that name the same output in the same slot. DESIGN CHOICE (log 80): the variant reported is the first that is open. -/
def clashFindings (s : State) (j : Job) : List Finding :=
  match placeFirst s j, firstFit s j .openNow with
  | none, some (_, i) => [findIn 0xB 6 i []]
  | _, _ => []

/-- Variant and origin of a restore (R351): the variant that saved the job at each origin, then, of a PORTABLE save, the others. -/
def restoreFirst (s : State) (j : Job) : Option (Nat × Nat) :=
  let at_ := fun (i : Nat) => ((originsOf j).find? fun o => fitsAt s j .merged i o).map fun o => (o, i)
  match at_ j.saved.variant with
  | some x => some x
  | none => if j.saved.portable then ((variantsOf j).filter (· != j.saved.variant)).findSome? at_ else none

/-! ## The partner's store -/

/-- Bytes of the partner's store, and blocks of its log, that a MIRRORED job takes (R406). -/
def mirrorNeed (m : Family) : Nat × Nat := match m.mirror with | some d => (d.total + 4096, 2 * d.logMax) | none => (4096, 0)

/-- The partner has the store and the log that a MIRRORED job needs (R332, R406). -/
def partnerRoom (s : State) (a : Nat) : Bool :=
  let held := (liveJobs s).filter fun b => b != a && (jobOf s b).mirrored && (jobOf s b).st != .waiting
  let n := mirrorNeed (jobOf s a).fam
  s.pair.formed && decide ((held.map fun b => (mirrorNeed (jobOf s b).fam).1).sum + n.1 ≤ s.pair.theirStore * 2 ^ 30) &&
    decide ((held.map fun b => (mirrorNeed (jobOf s b).fam).2).sum + n.2 ≤ s.pair.theirLog * 2 ^ 18)

/-- No FREQ, PROFILE or POWER_CAP change is prepared and not yet applied at N (R62). -/
def settingsQuiet (s : State) : Bool :=
  !((s.com.out.toList ++ s.com.committed.filter fun c => decide (nominalEpoch s < c.epoch)).any fun c =>
    decide (c.kind = .freq ∨ c.kind = .profile ∨ c.kind = .powerCap))

/-! ## What the loader writes -/

/-- The schedules that replace parts of a variant under the KVAR values in force (R299, R312). -/
def schedsOf (v : Variant) (kv : Tab Nat) : List KSched :=
  v.kscheds.filter fun k => k.kvar != 0 && tabGet 0 kv k.layer == k.kvar

/-- The segment or bank that holds an address within its field (R227, R229, R246). -/
def placeOfOff (off : Nat) : MemPlace :=
  if bitOf off 33 then .seg (Fin.ofNat 36 (bitsOf off 23 6)) (Fin.ofNat 8 (bitsOf off 20 3)) (Fin.ofNat 8 (bitsOf off 17 3))
  else .bank (Fin.ofNat 64 (bitsOf off 0 33 / 0x180000))

/-- On-die bytes written by the loader, by the address within the field, where the image declares the place ON with INIT IMAGE (R237,
R240). -/
def writeImage (s : State) (f pos : Nat) (v : Variant) (l : List ImageByte) : State :=
  { s with mem := { s.mem with
      die := (l.filter fun b => b.pos == pos && declOf v pos (placeOfOff b.off) == 2).foldl
        (fun m b => memPut m (f * 2 ^ 34 + b.off % 2 ^ 34) b.val) s.mem.die } }

/-- Route words of job `a` in both banks (R47, R51). -/
def writeRoutes (a pos : Nat) (l : List RouteDecl) (n : FieldNet) : FieldNet :=
  { n with
    route := (l.filter fun r => r.pos == pos).foldl
      (fun t r => tabPut 0 ((((a * 36 + r.bun.val) * 2 + r.plane.val) * 2 + r.bank.val) * 4096 + r.index % 4096) r.word t) n.route }

/-- Wheel tables (R232). -/
def writeWheels (pos : Nat) (l : List WheelDecl) (m : FieldMem) : FieldMem :=
  { m with wheel := (l.filter fun w => w.pos == pos).foldl (fun t w => tabPut 0 (16 * w.bank.val + w.position.val) w.entry t) m.wheel }

/-- Carrier channel records and slot maps of both banks (R252, R253). -/
def writeCarriers (pos : Nat) (l : List CarrierDecl) (n : FieldNet) : FieldNet :=
  (l.filter fun c => c.pos == pos).foldl
    (fun n c => { n with carrier := tabPut 0 (64 * c.bank.val + c.chan.val) c.record n.carrier,
                         cmap := tabPut [] (64 * c.bank.val + c.chan.val) c.map n.cmap }) n

/-- The task of a declaration as it starts (R157): its seed stands in the key register of VEC and DRAIN (R319). -/
def startTask (d : TaskDecl) (seed : BitVec 64) : Task :=
  { present := true, pc := d.entry, win := d.windows, masks := d.masks,
    gen := { step := d.step, key := if d.eng = .vec ∨ d.eng = .drain then seed else 0 } }

/-- A core at the start of its tasks (R157, R163, R222); its counters and condition stay. -/
def startCore (s : State) (f pos : Nat) (v : Variant) (seed : BitVec 64) (b : BunchIx) (c : CoreIx) : Core :=
  let old := coreAt s (coreKey f b c)
  let mine := v.toks.filter fun t => t.pos == pos && decide (t.bun = b) && decide (t.cor = c)
  { idleCore old with
    tasks := (v.tasks.filter fun t => t.pos == pos && decide (t.bun = b) && decide (t.cor = c)).foldl
      (fun tb t => tabPut {} (engCode t.eng) (startTask t seed) tb) []
    tok := mine.foldl (fun tb t => tabPut 0 t.q.val t.init tb) []
    tokProd := mine.foldl (fun tb t => tabPut 0 t.q.val (engCode t.prod + 1) tb) []
    tokCons := mine.foldl (fun tb t => tabPut 0 t.q.val (engCode t.cons + 1) tb) []
    cols := match siteOf s.yld f b with | some site => if c.val < 4 then failedCols s.yld f site c else [] | none => [] }

/-- Every core of a WORK field that has a task or a queue. -/
def startCores (s : State) (f pos : Nat) (v : Variant) (seed : BitVec 64) : State :=
  (List.finRange 36).foldl
    (fun (s : State) (b : BunchIx) => (List.finRange 8).foldl
      (fun (s : State) (c : CoreIx) => modCore s (coreKey f b c) fun _ => startCore s f pos v seed b c) s) s

/-- Segments and banks of a WORK field at their declared states; ZERO ones are cleared (R237 to R240). -/
def startPlaces (s : State) (f pos a : Nat) (v : Variant) : State :=
  (v.power.filter fun d => d.pos == pos).foldl
    (fun s d =>
      let b := d.byte.toNat
      let s := setPlace s f d.place (bitsOf b 0 2) a
      if bitsOf b 0 4 = 6 then clearPlace s f d.place else s) s

/-- A field takes its part in a job (R20, R33, R62): WORK makes it ACTIVE, transit alone RESTED. One that leaves SLEEPING loads the
rate code, cap and count in force, and waits to start at the slot `start` (R36). -/
def joinField (s : State) (f a role start : Nat) : State :=
  let asleep := (fieldOf s f).cond.act == .sleeping
  let s := modField s f fun x =>
    { x with
      cond := { x.cond with
        owner := if role = 1 then a else x.cond.owner
        leases := if role = 2 then addNew a x.cond.leases else x.cond.leases
        act := if role = 1 then .running else if asleep then .rested else x.cond.act
        oscTry := if asleep then 0 else x.cond.oscTry }
      clk := if asleep then { x.clk with slot := start, n8 := 8 * floorN s, k := s.clk.k, hold := .none, checked := false, staged := [] } else x.clk
      pow := { x.pow with
        cap := if asleep then s.clk.cap else x.pow.cap
        duty := if role = 1 ∨ asleep then 32 else x.pow.duty
        rails := if role = 1 ∨ x.cond.act = .running then 7 else 6 } }
  retarget s f

/-- SEGMENT_STATE_CHANGE: firmware brings a segment or bank to the state that the image declares, before the job's start or resume epoch, or to
OFF in a field without a job (R237, R238, R239). -/
def segmentStateChange (s : State) (f : FieldIx) (p : MemPlace) (decl : BitVec 8) : State :=
  let d := decl.toNat
  let a := (fieldOf s f).cond.owner
  let j := jobOf s a
  let before := a != 0 && decide (slotOf s f < tabGet 0 (fieldOf s f).job.start a) &&
    (match framePos j.fam j.origin f with | some q => declOf (j.fam.variants.getD j.variant default) q p == d | none => false)
  if !pithUp s || !fieldClocked s f || !placeExists p || !declOk d || !(before || (a == 0 && bitsOf d 0 2 == 0)) then s
  else
    let (lo, n) := placeBytes f p
    granulesDone (setPlace s f p (bitsOf d 0 2) a) f lo (lo + n)

def execSegmentStateChange (f : FieldIx) (place : MemPlace) (decl : BitVec 8) (s : State) : Host.Outcome State Fault Refusal :=
  .next (segmentStateChange s f place decl)

/-- What a field keeps of the job by its ASID: anchor, start, interval, commit, policy and steps. -/
def seedFjob (s : State) (f a anchor start : Nat) (policy : BitVec 64) (iv commit step : Nat) : State :=
  modFjob s f fun x =>
    { dropFjob a x with
      anchor := tabPut 0 a anchor x.anchor, start := tabPut 0 a start x.start, iv := tabPut 0 a iv x.iv,
      commit := tabPut 0 a commit x.commit, policy := tabPut 0 a policy x.policy, step := tabPut 0 a step x.step }

/-- The tables of a WORK or TRANSIT position, under the KVAR values in force, with each plane's active bank and base (R47). DESIGN CHOICE (log 172):
a transit router that several jobs share holds a bank, base and period for each ASID. -/
def writeTables (s : State) (f pos a : Nat) (v : Variant) (kv : Tab Nat) (banks bases : Nat → Nat) : State :=
  let ks := schedsOf v kv
  let work := (capAt v pos).role == 1
  modField s f fun x =>
    let q := x.net.quiet
    let n := writeRoutes a pos (v.routes ++ ks.flatMap (·.routes)) (dropRoutes a x.net)
    let n := if work then writeCarriers pos (v.carriers ++ ks.flatMap (·.carriers)) { n with carrier := [], cmap := [] } else n
    { x with
      net := { n with
        quiet := q
        period := (List.range 4).foldl (fun t i => tabPut 0 (4 * a + i) (periodOf v (i / 2) (i % 2)) t) n.period
        bank := [0, 1].foldl (fun t p => tabPut 0 (2 * a + p) (banks p) t) n.bank
        base := [0, 1].foldl (fun t p => tabPut 0 (2 * a + p) (bases p) t) n.base }
      mem := if work then writeWheels pos (v.wheels ++ ks.flatMap (·.wheels)) { x.mem with wheel := [] } else x.mem }

/-- Landing credits of every IN channel (R255), near-base sets (R261) and the stream lead (R272). -/
def startStreams (s : State) (f pos : Nat) (m : Family) (v : Variant) : State :=
  modField s f fun x =>
    { x with
      net := { x.net with
        cred := (v.carriers.filter (·.pos == pos)).foldr (fun c t => tabPut 0 c.chan.val (bitsOf c.record.toNat 18 6) t) []
        credRet := [], req := [], link := [] }
      str := { x.str with
        str := x.str.str.map fun e => (e.1, idleStream e.2)
        nbase := (v.bases.filter fun b => b.pos == pos).foldl
          (fun t b => tabPut 0 (4 * b.stream.val + b.sel.val) (f * 2 ^ 34 + b.oda % 2 ^ 34 + 1) t) []
        lead := m.lead } }

/-- The 256 entries of R43 in the inbound buffers of a field on a side, for a seam enabled in slot `start`. DESIGN CHOICE (log 142): a seam
that is enabled for another job already, and so in use, is left as it is. -/
def fillSide (side start : Nat) (n : FieldNet) : FieldNet :=
  let l := (List.range 256).map fun i => { dep := start - 256 + i, flit := none : SeamEntry }
  if !(tabGet [] n.seam side).isEmpty then n
  else
    { n with
      buf := ((List.range 24).filter fun x => sideOf x == side).foldl
        (fun t x => tabPut [] (2 * x + 1) l (tabPut [] (2 * x) l t)) n.buf }

/-- The seams between the fields of job `a` filled for a start in slot `start` (R41, R43). -/
def fillSeams (s : State) (a start : Nat) : State :=
  (jobFields s a).foldl
    (fun s f => (List.range 4).foldl
      (fun s side => match neighbour f side with
        | some g => if seamServes s f g a then modNet s f (fillSide side start) else s
        | none => s) s) s

/-- The fields whose slot count has waited for the start are at its first slot, where seams are enabled (R41). -/
def enterStart (s : State) (a start : Nat) : State :=
  (jobFields s a).foldl (fun s f => if slotOf s f = start then reachSlot s f else s) s

/-- A variant's sections written into the fields of its frame (R157, R232, R240, R252, R261). -/
def loadFrame (s : State) (a : Nat) (v : Variant) (origin start anchor : Nat) (banks bases : Nat → Nat → Nat) (policy : BitVec 64)
    (iv commit step : Nat) : State :=
  let j := jobOf s a
  (frameFields j.fam v origin).foldl
    (fun s e =>
      let f := e.1
      let p := e.2.1
      let s := joinField s f a e.2.2 start
      let s := seedFjob s f a anchor start policy iv commit step
      let s := writeTables s f p a v j.kvars (banks p) (bases p)
      if e.2.2 ≠ 1 then s
      else
        let s := startStreams (startPlaces s f p a v) f p j.fam v
        let s := writeImage s f p v (v.image ++ (schedsOf v j.kvars).flatMap (·.image))
        startCores s f p v j.seed) s

end Sys2Proof.Machine
end

