-- ==== Sys2Proof/Machine/JobSave.lean ====
section
/-! DEFINITION. The context of a pre-empted job (12 R345 to R353): what the save copies, and what a restore writes back under the same
variant, or under another one by its entry states and regions. -/

namespace Sys2Proof.Machine

/-! ## Where a job has stopped -/

/-- Number and offset of the yield point at which a job's tasks have stopped, or none where they stopped in a barrier (R176, R179). -/
def stopPoint (s : State) (a : Nat) : Option (Nat × Nat) :=
  ((workFields s a).flatMap (fieldTasks s)).findSome? fun x => match x.2.2.pace with | .stopped y j => some (y, j) | _ => none

/-- Barrier in which a job's tasks have stopped (R176). -/
def stopBarrier (s : State) (a : Nat) : Option Nat :=
  ((workFields s a).flatMap (fieldTasks s)).findSome? fun x => match x.2.2.pace with | .stoppedSync b => some b | _ => none

/-- Every transfer of the job has drained (R271). -/
def jobDrained (s : State) (a : Nat) : Bool :=
  (List.range 36).all fun f => (fieldOf s f).str.xfer.all fun t => t.asid != a

/-- Route index of a plane in the first slot of offset `j`, kept by the field (R180). -/
def keptIndex (s : State) (f a p j : Nat) : Nat :=
  let n := (fieldOf s f).net
  let bank := tabGet 0 n.bank (2 * a + p)
  (anchorOf s f a + 4096 * j - tabGet 0 n.base (2 * a + p)) % max 1 (tabGet 0 n.period ((2 * a + p) * 2 + bank))

/-! ## Predictor variants -/

/-- Key of a switch that a saved job carries: its layer, with the step at which it takes effect. -/
def kvarKey (k : KvarHold) : Nat := k.layer + 65536 * k.ts

/-- The switches held decided for a job that take effect at STEP yield point `y` (R312, R313). -/
def dueKvars (s : State) (a y : Nat) : List KvarHold :=
  match workFields s a with
  | [] => []
  | f :: _ =>
    let step := tabGet 0 (fieldOf s f).job.step a
    (fieldOf s f).job.kvars.filter fun k =>
      k.asid == a && k.layer != 0xFFFF && isStep s a y && (if k.ts = 0 then decide (k.epoch ≤ epochOf s f) else k.ts == step)

/-- The switches due at the stop point take effect in the job's KVAR values; the fields no longer hold them (R312, R314). -/
def applyKvars (s : State) (a y : Nat) : State :=
  let l := dueKvars s a y
  let s := modJob s a fun j => { j with kvars := l.foldl (fun t k => tabPut 0 k.layer k.kvar t) j.kvars }
  (jobFields s a).foldl (fun s f => modFjob s f fun x => { x with kvars := x.kvars.filter fun k => !l.any fun d => decide (d.asid = k.asid ∧ d.layer = k.layer ∧ d.ts = k.ts) }) s

/-! ## The save -/

/-- A stream as its resume record keeps it (R270, R271). -/
def savedStream (y : Stream) : Stream :=
  if y.st = .unarmed then {}
  else
    { y with boff := if y.st = .faulted ∨ !y.begun then y.boff else y.next, descs := [], base := 0, begun := false, next := 0, moved := 0, total := 0,
             draining := false, ucyc := 0, uev := 0, marked := false }

/-- The part of a table whose keys lie in [lo, lo + n), moved to begin at `to_`. -/
def tabMove {α : Type} (lo n to_ : Nat) (t : Tab α) : Tab α :=
  (t.filter fun e => decide (lo ≤ e.1 ∧ e.1 < lo + n)).map fun e => (e.1 - lo + to_, e.2)

/-- An accumulator entry as W128 (R132), with the NaR of a 48-bit entry as the NaR of W128 (R114). -/
def saveAcc (e : AccEntry) : AccEntry := if !e.wide && e.v.toInt = nar 48 then { e with v := BitVec.ofInt 128 (nar 128) } else e

/-- A saved entry in the width of its row again. -/
def restoreAcc (e : AccEntry) : AccEntry := if !e.wide && e.v.toInt = nar 128 then { e with v := BitVec.ofInt 128 (nar 48) } else e

/-- What the save keeps of a core (R132, R154, R185, R319, R349): the stationary set is not saved, but the last load that LOAD completed;
token-mask tables stand in the image; an instruction queue fills again; the seed is not saved. -/
def savedCore (c : Core) : Core :=
  { c with
    stat := none, acc := c.acc.map fun e => (e.1, saveAcc e.2)
    tasks := c.tasks.map fun e => (e.1, { e.2 with masks := [], iq := [], gen := { e.2.gen with key := 0 } }) }

/-- The context with the state of field `f`, at position `p` (R349, R350). -/
def saveField (s : State) (a j p f : Nat) (x : SavedCtx) : SavedCtx :=
  let fl := fieldOf s f
  let keep := fun (t : Tab Nat) (g : Nat → Nat) => [0, 1].foldl (fun t q => tabPut 0 (2 * p + q) (g q) t) t
  let x := { x with index := keep x.index fun q => keptIndex s f a q j, bank := keep x.bank fun q => tabGet 0 fl.net.bank (2 * a + q) }
  if !hasWork s f a then x
  else
    { x with
      cores := x.cores ++ (tabMove (288 * f) 288 (288 * p) s.cor).map fun e => (e.1, savedCore e.2)
      streams := (tabMove 0 256 (256 * p) fl.str.str).foldl (fun t e => tabPut {} e.1 (savedStream e.2) t) x.streams
      bytes := x.bytes ++ tabMove (f * 2 ^ 34) (2 ^ 34) (p * 2 ^ 34) s.mem.die
      bruises := x.bruises ++ tabMove (f * 2 ^ 28) (2 ^ 28) (p * 2 ^ 28) s.mem.dieBr
      policyDue := max x.policyDue (tabGet 0 fl.job.policyDue a)
      policy := tabGet 0 fl.job.policy a, iv := tabGet 0 fl.job.iv a, step := tabGet 0 fl.job.step a }

/-- The save reads every granule of the on-die memories of field `f`, as their memory finds them (R242, R354). -/
def noteSave (s : State) (f : FieldIx) : State :=
  (s.mem.flips.filter fun e => e.1 / 2 ^ 28 == f.val).foldl (fun s e => readGranule f s e.1) s

/-- CONTEXT_SAVE: once the drain is over, the state of every field is copied to the save area; the fields keep it (R345, R346). -/
def contextSave (s : State) (a : Nat) : State :=
  let j := jobOf s a
  if !pithUp s || j.st != .saving || !jobDrained s a then s
  else
    let s := (workFields s a).foldl (fun s f => noteSave s (Fin.ofNat 36 f)) s
    let joff := ((stopPoint s a).map (·.2)).getD 0
    let head : SavedCtx :=
      { copied := true, variant := j.variant, inBarrier := (stopBarrier s a).isSome, barrier := (stopBarrier s a).getD 0, yield_ := j.yieldAt,
        joff := joff, portable := (stopPoint s a).isSome && isPortable s a j.yieldAt }
    let x := (List.range (j.fam.fr * j.fam.fc)).foldl
      (fun x p => match frameField j.fam j.origin p with
        | some f => if hasJob s f a then saveField s a joff p f x else x
        | none => x) head
    modJob s a fun j => { j with saved := x, arrivals := [] }

def execContextSave (asid : Nat) (s : State) : Host.Outcome State Fault Refusal := .next (contextSave s asid)

/-- A committed change no longer waits for the fields of a job that has left them. -/
def leaveCommits (s : State) (a : Nat) : State :=
  { s with com := { s.com with
      committed := (s.com.committed.map fun c =>
        if argAsid c.kind c.arg = a then { c with parts := c.parts.filter fun p => match p with | .field _ => false | _ => true } else c).filter
          fun c => !c.parts.isEmpty } }

/-- The save header of R348, with SEALED set. What the parts of the save area take is not laid out, so TASKDIR, FIELDDIR, SIZE and KVARS are
free (log 181). -/
def saveHeader (a : Nat) (j : Job) : BitVec 1024 :=
  let x := j.saved
  let off := fun (k : Nat) => (Config.saveOffset j.number x.yield_ k).toNat
  BitVec.ofNat 1024
    (fieldAt 0 16 1 + fieldAt 16 1 1 + fieldAt 17 1 (b2n x.portable) + fieldAt 18 1 (b2n x.inBarrier) + fieldAt 24 8 x.variant +
     fieldAt 32 16 j.number + fieldAt 48 8 a + fieldAt 56 8 (if x.inBarrier then x.barrier else 0) + fieldAt 64 32 x.yield_ + fieldAt 96 32 x.joff +
     fieldAt 128 256 j.fam.build.toNat + fieldAt 384 64 (off 0) + fieldAt 448 64 (off 1) + fieldAt 512 64 (off 2) + fieldAt 576 64 x.policy.toNat +
     fieldAt 640 32 (off 3))

/-- SAVE_SEAL: the save header is written with SEALED; segments and banks go to OFF, fields to SLEEPING, seams are disabled and leases
end; the requests to pre-empt complete (R345, R462). -/
def saveSeal (s : State) (a : Nat) : State :=
  let j := jobOf s a
  if !pithUp s || j.st != .saving || !j.saved.copied then s
  else
    let s := if j.saved.inBarrier then s else applyKvars s a j.yieldAt
    let held := match workFields s a with
      | f :: _ => ((fieldOf s f).job.kvars.filter fun k => k.asid == a && k.layer != 0xFFFF).map fun k => (kvarKey k, k.kvar)
      | [] => []
    let s := (jobFields s a).foldl (fun t f => leaveField t f a) (leaveCommits s a)
    let s := modJob s a fun j =>
      { j with st := if j.restVariant = 0 then .preempted else .resuming, saved := { j.saved with sealed_ := true, header := saveHeader a j }, reports := [],
               kvarDue := held }
    finishJobCmds s 0x02 j.number stOk fun c => { c with job := j.number, asid := a, htag := j.htag }

def execSaveSeal (asid : Nat) (s : State) : Host.Outcome State Fault Refusal := .next (saveSeal s asid)

/-! ## Restore under the same variant -/

/-- A task as it goes on from its stop point, or issues its SYNC again (R176, R180). -/
def resumeTask (t : Task) : Task :=
  { t with pace := .run, ready := 0, held := false, flights := t.flights.map fun x => { x with done := 0 } }

/-- A saved core in its new place, with the counters, columns and condition of the new core and the token masks of the image; LOAD repeats
the last stationary load from slot `start` on before it executes any other instruction (R132, R185, R222). -/
def restoreCore (seed : BitVec 64) (start : Nat) (new old : Core) : Core :=
  { old with
    ilk := new.ilk, twait := new.twait, cols := new.cols, condemned := new.condemned, transients := new.transients
    sendAt := old.sendq.map fun _ => 0, full := false, recvAt := old.recvq.map fun _ => 0, late := false, halted := false, faulted := []
    entered := 0, vrdy := [], xrdy := [], vfwd := [], replay := 0, replaySet := none, pendRows := [], pipe := [], failed := [], prog := []
    passes := [], vwr := [], stat := none, acc := old.acc.map fun e => (e.1, restoreAcc e.2)
    loads := match old.lastStat with | some x => [{ src := x, t := start }] | none => []
    tasks := old.tasks.map fun e =>
      let t := resumeTask { e.2 with
        masks := (tabGet {} new.tasks e.1).masks
        gen := { e.2.gen with key := if e.1 = engCode .vec ∨ e.1 = engCode .drain then seed else e.2.gen.key } }
      (e.1, if e.1 = engCode .load ∧ old.lastStat.isSome then { t with ready := start + 64 } else t) }

/-- Bytes or bits put one after the other. -/
def tabPutAll {α : Type} [DecidableEq α] (d : α) (l : Tab α) (t : Tab α) : Tab α := l.foldl (fun t e => tabPut d e.1 e.2 t) t

/-- A restored stream: one that was saved faulted translates again from its resume point (R271, R275). -/
def resumedStream (y : Stream) : Stream := if y.st = .faulted then { y with st := .active, fkind := 0, fdva := 0 } else y

/-- The core sections and the field directory of position `p` written back into field `f` (R352 step 2): every byte of its ON and RETAIN places
is what was saved, whatever the sections put there before. -/
def restoreField (s : State) (seed : BitVec 64) (start : Nat) (x : SavedCtx) (p f : Nat) : State :=
  let s := (tabMove (288 * p) 288 (288 * f) x.cores).foldl (fun s e => modCore s e.1 fun c => restoreCore seed start c e.2) s
  let s := { s with mem := { s.mem with
    die := tabPutAll 0 (tabMove (p * 2 ^ 34) (2 ^ 34) (f * 2 ^ 34) x.bytes) (tabClear (f * 2 ^ 34) (2 ^ 34) s.mem.die)
    dieBr := tabPutAll false (tabMove (p * 2 ^ 28) (2 ^ 28) (f * 2 ^ 28) x.bruises) (tabClear (f * 2 ^ 28) (2 ^ 28) s.mem.dieBr) } }
  modStr s f fun y =>
    { y with
      str := (tabMove (256 * p) 256 0 x.streams).foldl
        (fun t e => tabMod {} e.1 (fun o => { resumedStream e.2 with ucyc := o.ucyc, uev := o.uev }) t) y.str }

/-! ## Restore under another variant -/

/-- Bits of one element, entry or register of an extent's STORE 3 to 5: an element of AFMT `fmt`, a side entry, a vector element (R344). -/
def extentBits (store fmt : Nat) : Nat := if store = 3 then fmtBits fmt else 32

/-- Place of an extent's items: for each, its logical bit offset, and its row and element (R344). -/
def extentItems (e : Extent) (w : Nat) : List (Nat × Nat × Nat) :=
  (List.range e.count).flatMap fun r =>
    let n := if e.store = 4 ∧ e.nel = 0 then 1 else e.nel
    (List.range n).map fun k => (8 * (e.loff + r * e.lstride) + w * k, e.start + r, e.first + k)

/-- On-die address, in a position's own field, of byte 0 of an extent's STORE 0 or 1. -/
def extentBase (e : Extent) : Nat := if e.store = 0 then 2 ^ 33 + e.bun.val * 2 ^ 23 + e.cor.val * 2 ^ 20 + e.start else e.start

/-- AFMT of a matrix core. -/
def coreFmt (c : Core) : Nat := (taskOf c .mac).afmt.toNat

/-- One item of a saved extent's on-chip buffers: activation element, side entry or vector element. -/
def savedItem (c : Core) (store row k : Nat) : Nat :=
  if store = 3 then
    let w := fmtBits (coreFmt c)
    let a := 8 * (row % lineCountOf (lineSize (coreFmt c)) * lineSize (coreFmt c)) + k * w
    bitsOf ((tabGet 0 c.act (a / 8)).toNat + 256 * (tabGet 0 c.act (a / 8 + 1)).toNat + 65536 * (tabGet 0 c.act (a / 8 + 2)).toNat) (a % 8) w
  else if store = 4 then (tabGet 0 c.side row).toNat
  else bitsOf (tabGet 0 c.vreg row).toNat (32 * k) 32

/-- A number's bits [lo + len − 1 : lo] replaced. -/
def setBits (n lo len v : Nat) : Nat := n - bitsOf n lo len * 2 ^ lo + v % 2 ^ len * 2 ^ lo

/-- One item written into a core. -/
def putItem (c : Core) (store row k v : Nat) : Core :=
  if store = 3 then
    let w := fmtBits (coreFmt c)
    let a := 8 * (row % lineCountOf (lineSize (coreFmt c)) * lineSize (coreFmt c)) + k * w
    let old := (tabGet 0 c.act (a / 8)).toNat + 256 * (tabGet 0 c.act (a / 8 + 1)).toNat + 65536 * (tabGet 0 c.act (a / 8 + 2)).toNat
    let new := setBits old (a % 8) w v
    { c with act := (List.range 3).foldl (fun t i => tabPut 0 (a / 8 + i) (BitVec.ofNat 8 (bitsOf new (8 * i) 8)) t) c.act }
  else if store = 4 then { c with side := tabPut 0 row (BitVec.ofNat 32 v) c.side }
  else { c with vreg := tabMod 0 row (fun r => BitVec.ofNat 2048 (setBits r.toNat (32 * k) 32 v)) c.vreg }

/-- What a region holds in the saved context, by its logical offset: bytes, accumulator values with their flags, and other items. -/
structure Logical where
  bytes : List (Nat × Byte × Bool) := []
  accs : List (Nat × AccEntry × Bool) := []
  items : List (Nat × Nat × Bool) := []

/-- The bruise of an item's place. -/
def itemBruise (c : Core) (store row k : Nat) : Bool :=
  if store = 2 then tabGet false c.accBr (entryGranule (tabGet {} c.acc (64 * row)).wide row k)
  else if store = 3 then
    tabGet false c.actBr ((row % lineCountOf (lineSize (coreFmt c)) * lineSize (coreFmt c) + k * fmtBits (coreFmt c) / 8) / 64)
  else if store = 4 then tabGet false c.sideBr (row / 16)
  else (tabGet 0 c.vbr row).getLsbD (k / 16)

/-- The contents that the extents of the saving variant give a region (R344). -/
def readRegion (x : SavedCtx) (es : List Extent) : Logical :=
  es.foldl
    (fun l e =>
      let c := tabGet {} x.cores (288 * e.pos + 8 * e.bun.val + e.cor.val)
      if e.store ≤ 1 then
        { l with bytes := l.bytes ++ (List.range e.count).map fun i =>
            let a := e.pos * 2 ^ 34 + extentBase e + i
            (e.loff + i, memByte x.bytes a, tabGet false x.bruises (a / 64)) }
      else if e.store = 2 then
        { l with accs := l.accs ++ (extentItems e 128).map fun t =>
            (t.1, tabGet {} c.acc (64 * t.2.1 + t.2.2), itemBruise c 2 t.2.1 t.2.2) }
      else
        { l with items := l.items ++ (extentItems e (extentBits e.store (coreFmt c))).map fun t =>
            (t.1, savedItem c e.store t.2.1 t.2.2, itemBruise c e.store t.2.1 t.2.2) }) {}

/-- The value at a logical offset. -/
def logicalAt {α : Type} (l : List (Nat × α × Bool)) (o : Nat) : Option (α × Bool) := (l.find? fun e => e.1 == o).map (·.2)

/-- An item's bruise set in a core. -/
def bruiseItem (c : Core) (store row k : Nat) : Core :=
  if store = 2 then { c with accBr := tabPut false (entryGranule (tabGet {} c.acc (64 * row)).wide row k) true c.accBr }
  else if store = 3 then
    { c with
      actBr := tabPut false
        ((row % lineCountOf (lineSize (coreFmt c)) * lineSize (coreFmt c) + k * fmtBits (coreFmt c) / 8) / 64) true c.actBr }
  else if store = 4 then { c with sideBr := tabPut false (row / 16) true c.sideBr }
  else { c with vbr := tabMod 0 row (fun b => b ||| BitVec.ofNat 4 (2 ^ (k / 16))) c.vbr }

/-- One item put in a core with its bruise. -/
def placeItem (store row k : Nat) (x : Option (Nat × Bool)) (c : Core) : Core :=
  match x with
  | none => c
  | some (v, b) => let c := putItem c store row k v; if b then bruiseItem c store row k else c

/-- One accumulator value put in a core with its bruise. -/
def placeAcc (row k : Nat) (x : Option (AccEntry × Bool)) (c : Core) : Core :=
  match x with
  | none => c
  | some (v, b) => let c := { c with acc := tabPut {} (64 * row + k) v c.acc }; if b then bruiseItem c 2 row k else c

/-- The contents of a region written to one extent of the chosen variant, whose position is on field `f` (R352 step 3). -/
def writeExtent (s : State) (f : Nat) (l : Logical) (e : Extent) : State :=
  let k := coreKey f e.bun e.cor
  if e.store ≤ 1 then
    (List.range e.count).foldl
      (fun s i => match logicalAt l.bytes (e.loff + i) with
        | some (v, b) => dieStore s (f * 2 ^ 34 + extentBase e + i) 1 v.toNat b
        | none => s) s
  else if e.store = 2 then (extentItems e 128).foldl (fun s t => modCore s k (placeAcc t.2.1 t.2.2 (logicalAt l.accs t.1))) s
  else
    (extentItems e (extentBits e.store (coreFmt (coreAt s k)))).foldl
      (fun s t => modCore s k (placeItem e.store t.2.1 t.2.2 (logicalAt l.items t.1))) s

/-- A task at the entry state of yield point `y` (R342, R352 step 3). -/
def entryTask (e : EntryState) (joff : Nat) (t : Task) : Task :=
  let d := e.dcfg.toNat
  { t with
    pc := e.pc, areg := e.areg, lctr := e.lctr, pb := e.pb, yctr := e.y + 1, ybase := joff, status := []
    gen := { t.gen with cb := e.cb, cs := e.cs, cr := e.cr, gs0 := e.gs0, gs1 := e.gs1, step := e.step }
    afmt := BitVec.ofNat 4 (bitsOf e.mcfg.toNat 0 4), mslot := BitVec.ofNat 4 (bitsOf e.mcfg.toNat 4 4)
    dcfg := { fmt := BitVec.ofNat 4 (bitsOf d 0 4), rnd := BitVec.ofNat 2 (bitsOf d 4 2), ovf := bitOf d 6, anch := BitVec.ofNat 8 (bitsOf d 7 8),
              slot := BitVec.ofNat 4 (bitsOf d 15 4), g := bitOf d 19, clr := bitOf d 20 } }

/-- The entry state of one task written into its core. -/
def enterTask (joff : Nat) (e : EntryState) (c : Core) : Core :=
  modTask { c with tok := e.tok, x := if e.eng = .scalar then e.xreg else c.x } e.eng (entryTask e joff)

/-- Entry states and regions of a variant at yield point `y`, for a job placed at its origin (R352 step 3). -/
def enterPortable (s : State) (m : Family) (v : Variant) (old : List Extent) (x : SavedCtx) (origin y joff : Nat) : State :=
  let s := (v.entries.filter fun e => e.y == y).foldl
    (fun s e => match frameField m origin e.pos with
      | some f => modCore s (coreKey f e.bun e.cor) (enterTask joff e)
      | none => s) s
  let es := v.extents.filter fun e => e.y == y
  es.foldl
    (fun s e => match frameField m origin e.pos with
      | some f => writeExtent s f (readRegion x (old.filter fun o => o.region == e.region && o.y == y)) e
      | none => s) s

end Sys2Proof.Machine
end

