-- ==== Sys2Proof/Machine/Jobs.lean ====
section
/-! DEFINITION. The commands of jobs (12, 10 R309 to R314, 17 R462): submission, placement, yield reports, pre-emption, save, restore and
end. -/

namespace Sys2Proof.Machine

/-! ## Taking a command -/

/-- The command that queue `q` begins next, with operation code `opc`: the first in ring order that has not begun, and behind FENCE only
with every earlier one completed (R461, R462). -/
def nextCmd (s : State) (q opc : Nat) : Option Cmd :=
  match (s.cxl.cmds.filter fun c => c.sq == q).find? fun c => !c.begun with
  | none => none
  | some c =>
    let first := match (s.cxl.cmds.filter fun c => c.sq == q).head? with | some h => decide (h = c) | none => false
    if c.opc != opc || (c.fence && !first) then none else some c

/-- A command is served: the pith takes it from its queue; in the safe state only SLICE_RELEASE is carried out (R549). -/
def serve (s : State) (q opc : Nat) (k : Cmd → State) : State :=
  if !pithUp s then s
  else match nextCmd s q opc with
    | none => s
    | some c => if s.trs.safe && opc != 0x12 then finishCmd s c stWrong id else k c

/-- A command for a live job, named by its job number (R465). -/
def onJob (s : State) (c : Cmd) (k : Nat → State) : State :=
  match jobByNumber s (cmdJob c) with
  | none => finishCmd s c stNoJob id
  | some a => k a

/-- The command has begun and waits for its completion point. -/
def beginCmd (s : State) (c : Cmd) : State :=
  { s with cxl := { s.cxl with cmds := modFirst (fun x => decide (x = c)) (fun x => { x with begun := true }) s.cxl.cmds } }

/-- The completion names the job. -/
def forJob (s : State) (a : Nat) (c : Cpl) : Cpl := { c with job := (jobOf s a).number, asid := a, htag := (jobOf s a).htag }

/-- A begun command with operation code `opc` names the job (R462). -/
def begunFor (s : State) (a opc : Nat) : Bool := s.cxl.cmds.any fun c => c.begun && c.opc == opc && cmdJob c == (jobOf s a).number

/-! ## Submission -/

/-- A submission payload that R331 allows. -/
def payloadOk (p : Nat) : Bool :=
  bitsOf p 196 4 == 0 && decide (bitsOf p 200 8 ≤ 7) && (bitsOf p 208 8 == 255 || decide (bitsOf p 208 8 < 36)) && bitsOf p 216 40 == 0 &&
    bitsOf p 320 192 == 0 && (!bitOf p 192 || bitsOf p 128 64 == 0)

/-- Seed that a submission carries, or draws (R318). -/
def seedOf (c : Cmd) (draw : BitVec 64) : BitVec 64 :=
  if bitOf c.payload.toNat 192 then draw else BitVec.ofNat 64 (bitsOf c.payload.toNat 128 64)

/-- The job that a payload and its family give. -/
def submittedJob (c : Cmd) (fam : Family) (seed : BitVec 64) (number : Nat) : Job :=
  let p := c.payload.toNat
  { live := true, number := number, fam := fam, askOrigin := bitsOf p 208 8, seed := seed, checked := bitOf p 193, mirrored := bitOf p 194,
    prio := bitsOf p 200 8, htag := BitVec.ofNat 64 (bitsOf p 256 64), sq := c.sq, orphan := c.mute, policy := fam.policy,
    policyStaged := fam.policy, saveBytes := fam.saveBytes }

/-- The next job number that no live job has (R332; log 28). -/
def nextNumber (s : State) : Nat :=
  (((List.range 65535).map fun i => (s.lastJob + i) % 65535 + 1).find? fun n => (jobByNumber s n).isNone).getD 0

/-- The lowest ASID that no job holds (R328; log 28). -/
def freeAsid (s : State) : Option Nat := asids.find? fun a => !(jobOf s a).live

/-- Near-tier bytes that firmware has for save areas: the tier less the host window, the pair's store and log, and the areas reserved
(R340, R402, R458; log 28). -/
def saveSpace (s : State) : Nat :=
  s.yld.nchan * 2250000000 - s.cxl.win * 2 ^ 30 - (if s.pair.setup || s.pair.formed then (s.pair.store + s.pair.logGib) * 2 ^ 30 else 0) -
    ((liveJobs s).map fun a => (jobOf s a).saveBytes).sum

/-- A job admitted, under ASID `a` (R328, R332, R340). -/
def admitJob (s : State) (a : Nat) (j : Job) : State := { s with job := tabPut {} a j s.job, lastJob := j.number }

/-- SUBMIT_JOB: the loader checks the whole family, and its routes against those of the jobs that it would share transit fields with (R53,
R336, R337); a job that passes gets an ASID, a job number, its seed and its save
area, and waits for placement (R328, R331, R332, R339, R340). -/
def submitJob (s : State) (q : Fin 8) (fam : Family) (draw : BitVec 64) : State :=
  serve s q 0x01 fun c =>
    let p := c.payload.toNat
    let tag := BitVec.ofNat 64 (bitsOf p 256 64)
    if !cxlUp s then s
    else if s.brg.st ≠ 1 then finishCmd s c stWrong fun x => { x with htag := tag }
    else if !payloadOk p then finishCmd s c stMalformed id
    else if !granted s (bitsOf p 0 64) (bitsOf p 64 64) false then finishCmd s c stNotGranted fun x => { x with htag := tag }
    else match firstFinding (allFindings fam (bitsOf p 64 64) (bitOf p 195) ++ clashFindings s (submittedJob c fam 0 0)) with
      | some r => finishCmd s c r.code fun x => { x with htag := tag, res1 := resultRecord r }
      | none =>
        match freeAsid s with
        | none => s
        | some a =>
          if bitOf p 192 && !s.trs.entOk then s
          else
            let j := submittedJob c fam (seedOf c draw) (nextNumber s)
            if !couldFit s j then finishCmd s c stNoVariant fun x => { x with htag := tag }
            else if saveSpace s < fam.saveBytes then finishCmd s c stNoSave fun x => { x with htag := tag }
            else
              let s := admitJob s a j
              finishCmd s c stOk fun x => { forJob s a x with res0 := j.seed }

def execSubmitJob (q : Fin 8) (fam : Family) (draw : BitVec 64) (s : State) : Host.Outcome State Fault Refusal :=
  .next (submitJob s q fam draw)

/-! ## Placement -/

/-- JOB_PLACEMENT: the pith places a waiting job at the first origin and variant that fit (R338, R339, R406): the loader writes its
sections, the page tables and lists that `root` and `load` give, and the tasks start at the start epoch (R41, R157; log 29). DESIGN CHOICE (log 171):
bank 0 is active from the start epoch, with the start slot as its base. -/
def jobPlacement (s : State) (a root : Nat) (load : List (Nat × BitVec 64)) : State :=
  let j := jobOf s a
  if !pithUp s || s.trs.safe || !j.live || j.st != .waiting || !settingsQuiet s || (j.mirrored && !partnerRoom s a) then s
  else match placeFirst s j with
    | none => s
    | some (o, i) =>
      let start := 4096 * startEpoch s
      let v := j.fam.variants.getD i default
      let s := loadFrame s a v o start start (fun _ _ => 0) (fun _ _ => start) j.policy 1 0 0
      let s := writeEntries s load
      let s := { s with mem := { s.mem with root := tabPut 0 a (root + 1) s.mem.root } }
      let s := modJob s a fun j => { j with st := .running, origin := o, variant := i, yieldAt := 0, reports := [], barred := [] }
      postJob (enterStart (fillSeams s a start) a start) a asPlaced 0

def execJobPlacement (asid root : Nat) (load : List (Nat × BitVec 64)) (s : State) : Host.Outcome State Fault Refusal :=
  .next (jobPlacement s asid root load)

/-! ## Yield reports -/

/-- The job ends at its FINAL yield point (R330): requests to pre-empt it complete, its fields are freed, and its ASID with them. -/
def endAtFinal (s : State) (a : Nat) : State :=
  let s := postJob s a asEnded 0
  let s := finishJobCmds s 0x02 (jobOf s a).number stOk (forJob s a)
  let s := dropJobChanges s a
  freeJob ((jobFields s a).foldl (fun t f => leaveField t f a) (leaveCommits s a)) a

/-- Every task of the job has stopped at yield point `y`, or in a barrier (R179, R312, R313, R330, R345). -/
def jobStopped (s : State) (a y : Nat) : State :=
  let barrier := (stopBarrier s a).isSome
  let preempt := (jobFields s a).any fun f => tabGet 0 (fieldOf s f).job.pre a != 0
  if !barrier && isFinal s a y then endAtFinal s a
  else modJob s a fun j => { j with st := if preempt then .saving else .switching }

/-- A bunch has passed a mirror point, or stopped at a yield point or in a barrier; once every bunch has stopped, the job ends, is saved, or is
switched in place (R179, R330, R345, R407). -/
def takeReport (s : State) (f : FieldIx) (b : BunchIx) (a y : Nat) (mirror : Bool) : State :=
  let msg : StemMsg := .yieldReport f b a y mirror
  if !pithUp s || !(jobOf s a).live then s
  else
    let there := onStem s msg
    let s := receive s msg
    let k := 36 * f.val + b.val
    if !there then s
    else if mirror then modJob s a fun j => { j with mirrorReports := j.mirrorReports ++ [k] }
    else
      let barrier := (stopBarrier s a).isSome
      let s := if !barrier && isMirrorPoint s a y then modJob s a fun j => { j with mirrorReports := j.mirrorReports ++ [k] } else s
      let s := modJob s a fun j => { j with yieldAt := y, reports := addNew k (if j.yieldAt = y then j.reports else []) }
      if (jobOf s a).st != .stopped && (jobBunches s a).all fun x => (jobOf s a).reports.contains x then jobStopped s a y else s

/-- YIELD_REPORT: the pith receives a bunch's report, and where firmware reads the snapshots with it, `snap`, evaluates them (R310; log 180). -/
def yieldReport (s : State) (f : FieldIx) (b : BunchIx) (a y : Nat) (mirror snap : Bool) : State :=
  let s := takeReport s f b a y mirror
  if snap then readSnaps s a else s

def execYieldReport (f : FieldIx) (b : BunchIx) (asid y : Nat) (mirror snap : Bool) (s : State) : Host.Outcome State Fault Refusal :=
  .next (yieldReport s f b asid y mirror snap)

/-! ## Pre-emption and the end of a job -/

/-- A PREEMPT for the job (R345): one at a time. -/
def startPreempt (s : State) (a : Nat) : State :=
  let pending := (jobFields s a).any (fun f => tabGet 0 (fieldOf s f).job.pre a != 0) ||
    changing s (fun k arg => decide (k = .preempt) && argAsid k arg == a) ||
    s.com.committed.any fun c => decide (c.kind = .preempt) && argAsid c.kind c.arg == a
  let s := if (jobOf s a).st = .running then modJob s a fun j => { j with st := .preempting } else s
  if pending then s else pithPrepare s .preempt (BitVec.ofNat 64 a)

/-- PREEMPT_JOB: the pith prepares a PREEMPT; a second request completes with the first (R345, R462; log 27). -/
def preemptJob (s : State) (q : Fin 8) : State :=
  serve s q 0x02 fun c => onJob s c fun a =>
    match (jobOf s a).st with
    | .running | .switching | .preempting => startPreempt (beginCmd s c) a
    | .saving => beginCmd s c
    | .resuming => if begunFor s a 0x03 || begunFor s a 0x06 then s else finishCmd s c stWrong (forJob s a)
    | .waiting | .preempted | .stopped => finishCmd s c stWrong (forJob s a)

def execPreemptJob (q : Fin 8) (s : State) : Host.Outcome State Fault Refusal := .next (preemptJob s q)

/-- RESUME_JOB: a pre-empted job is to be restored (R352, R462). -/
def resumeJob (s : State) (q : Fin 8) : State :=
  serve s q 0x03 fun c => onJob s c fun a =>
    match (jobOf s a).st with
    | .preempted => modJob (beginCmd s c) a fun j => { j with st := .resuming }
    | .preempting | .saving => if begunFor s a 0x02 then s else finishCmd s c stWrong (forJob s a)
    | _ => finishCmd s c stWrong (forJob s a)

def execResumeJob (q : Fin 8) (s : State) : Host.Outcome State Fault Refusal := .next (resumeJob s q)

/-- END_JOB: a running job is halted with no error record, and its ASID is freed once its fields are; one that holds no field is freed
at once; behind a PREEMPT_JOB it waits (R328, R462, R469). -/
def endJob (s : State) (q : Fin 8) : State :=
  serve s q 0x04 fun c => onJob s c fun a =>
    if begunFor s a 0x02 then s
    else
      let ended := fun (s : State) => modJob s a fun j => { j with ending := true }
      match (jobOf s a).st with
      | .running | .preempting | .saving | .switching => settle (ended (stopJob (sendHalt (beginCmd s c) a) a 0 false))
      | .stopped =>
        let s := ended (beginCmd s c)
        if (jobFields s a).isEmpty then freeJob s a else settle s
      | .waiting | .preempted | .resuming =>
        let s := beginCmd s c
        let s := finishJobCmds s 0x03 (jobOf s a).number stWrong (forJob s a)
        freeJob (dropJobChanges s a) a

def execEndJob (q : Fin 8) (s : State) : Host.Outcome State Fault Refusal := .next (endJob s q)

/-! ## Restore -/

/-- A supplementary family matches the job's (R351). -/
def supplementOk (m t : Family) : Bool :=
  t.fr == m.fr && t.fc == m.fc && t.lead == m.lead && t.policy == m.policy && t.seedStreams == m.seedStreams &&
    decide (t.yields = m.yields) && decide (t.mirror = m.mirror) &&
    t.variants.all fun v => (regionsOf v).all fun r => m.variants.all fun w => regionSize w r.1 r.2 == regionSize v r.1 r.2

/-- SUPPLEMENT: the variants of a supplementary family join those of a held job (R351, R336). -/
def supplement (s : State) (q : Fin 8) (fam : Family) : State :=
  serve s q 0x05 fun c => onJob s c fun a =>
    let p := c.payload.toNat
    let j := jobOf s a
    if !cxlUp s then s
    else if j.st != .preempted && j.st != .resuming then finishCmd s c stWrong (forJob s a)
    else if !granted s (bitsOf p 0 64) (bitsOf p 64 64) false then finishCmd s c stNotGranted (forJob s a)
    else
      let extra := findIf (!supplementOk j.fam fam) (headAt 0x20 0)
      match firstFinding (allFindings fam (bitsOf p 64 64) false ++ extra) with
      | some r => finishCmd s c r.code fun x => { forJob s a x with res1 := resultRecord r }
      | none =>
        finishCmd (modJob s a fun j => { j with fam := { j.fam with variants := j.fam.variants ++ fam.variants, nvar := j.fam.nvar + fam.nvar } })
          c stOk (forJob s a)

def execSupplement (q : Fin 8) (fam : Family) (s : State) : Host.Outcome State Fault Refusal := .next (supplement s q fam)

/-- The job record as the last WRITE of an interval (R409). -/
def jobRecord (s : State) (a t y : Nat) : BlockData :=
  let j := jobOf s a
  let kv := ((numbered (varOf s a).layers).map fun l => tabGet 0 j.kvars l.2.layer % 4 * 2 ^ (2 * l.1)).sum
  tierBlock (j.fam.build.toNat + 2 ^ 256 * j.seed.toNat + 2 ^ 320 * j.policy.toNat + 2 ^ 384 * t + 2 ^ 416 * y + 2 ^ 448 * j.number +
    2 ^ 512 * kv) 0

/-- The mirror engine takes a block: the next SEQ of the job, a place in its buffer, and WRITE on a mirror port (R408 to R410). -/
def mirrorAdmit (s : State) (a t block : Nat) (b : BlockData) : State :=
  let j := jobOf s a
  let w : MirrorWrite := { job := j.number, t := t, seq := j.seq, block := block, body := b }
  let s := modJob s a fun j => { j with seq := (j.seq + 1) % 2 ^ 32 }
  let s := { s with pair := { s.pair with buf := s.pair.buf ++ [w] } }
  match mirrorPorts s with
  | [] => s
  | p :: _ => mirSend s p tyWrite w

/-- Slice blocks of a job's regions, with their DVA, in region order from block 1 on (R406). -/
def regionBlocks (d : MirrorDecl) : List (Nat × Nat) :=
  let l := d.regions.flatMap fun r => (List.range (512 * r.2)).map fun i => r.1 + 4096 * i
  (List.range l.length).map (· + 1) |>.zip l

/-- A job without protection is protected by a new pair again: its regions and record go to the partner as interval C (R415). -/
def reprotect (s : State) (a : Nat) : State :=
  let j := jobOf s a
  match j.fam.mirror with
  | none => s
  | some d =>
    if !j.mirrored || !j.unprotected || !partnerRoom s a then s
    else
      let c := j.commitC
      let s := (regionBlocks d).foldl
        (fun s e => match walkRoot s a e.2 with
          | .page pte size => mirrorAdmit s a c e.1 (nearBlock s (pageAddr pte size e.2))
          | .fault _ => s) s
      let s := mirrorAdmit s a c 0 (jobRecord s a c j.saved.yield_)
      let s := modJob s a fun j => { j with unprotected := false }
      match mirrorPorts s with
      | [] => s
      | p :: _ => mirSend s p tyComplete (mirCtl j.number c 0)

/-- The switches that a saved job carries stand in its fields again. -/
def restoreKvars (s : State) (a : Nat) : State :=
  let l := (jobOf s a).kvarDue.map fun e => { asid := a, layer := e.1 % 65536, kvar := e.2, ts := e.1 / 65536, epoch := 0 : KvarHold }
  (workFields s a).foldl (fun s f => modFjob s f fun x => { x with kvars := x.kvars ++ l }) s

/-- The slice fetched for a job that resumes from the mirror, written into its regions (R417 step 2). -/
def enterMirror (s : State) (a : Nat) : State :=
  match (jobOf s a).fam.mirror with
  | none => s
  | some d =>
    if s.pair.resumeAsid != a then s
    else (regionBlocks d).foldl
      (fun s e => match walkRoot s a e.2 with
        | .page pte size => nearPut s (pageAddr pte size e.2) (tabGet (tierBlock 0 0) s.pair.fetched e.1)
        | .fault _ => s) s

/-- A job restored at an origin under variant `i` from its saved context (R180, R351, R352). -/
def restoreAt (s : State) (a o i : Nat) (load : List (Nat × BitVec 64)) : State :=
  let j := jobOf s a
  let x := j.saved
  let v := j.fam.variants.getD i default
  let start := 4096 * max (startEpoch s) x.joff
  let same := x.copied && i == x.variant
  let commit := j.commitC
  let s := loadFrame s a v o start (start - 4096 * x.joff) (fun p q => if same then tabGet 0 x.bank (2 * p + q) else 0)
    (fun p q => start - tabGet 0 x.index (2 * p + q)) x.policy x.iv commit x.step
  let s :=
    if same then (frameFields j.fam v o).foldl (fun s e => if e.2.2 = 1 then restoreField s j.seed start x e.2.1 e.1 else s) s
    else enterPortable s j.fam v (j.fam.variants.getD x.variant default).extents x o x.yield_ x.joff
  let s := enterMirror (writeEntries s load) a
  let s := (workFields s a).foldl (fun s f => modFjob s f fun y => { y with policyDue := tabPut 0 a x.policyDue y.policyDue }) s
  let s := restoreKvars (reprotect s a) a
  let s := modJob s a fun j => { j with st := .running, origin := o, variant := i, reports := [] }
  enterStart (fillSeams s a start) a start

/-- JOB_RESTORE: the pith chooses a variant and an origin, or those that firmware asked for to rest or wake a field, and restores the
job; where no variant fits the module the job stays held and host software is told (R341, R351, R352). -/
def jobRestore (s : State) (a root : Nat) (load : List (Nat × BitVec 64)) : State :=
  let j := jobOf s a
  if !pithUp s || s.trs.safe || j.st != .resuming || !j.saved.sealed_ || !settingsQuiet s then s
  else
  let s := if tabGet 0 s.mem.root a = 0 then { s with mem := { s.mem with root := tabPut 0 a (root + 1) s.mem.root } } else s
  if j.restVariant ≠ 0 then
    if !fitsAt s j .merged (j.restVariant - 1) j.origin then s
    else
      let s := restoreAt s a j.origin (j.restVariant - 1) load
      let s := modJob s a fun j => { j with restVariant := 0 }
      if (fieldOf s j.restField).cond.leases.contains a then pithPrepare s .rest (BitVec.ofNat 64 j.restField) else s
  else match restoreFirst s j with
    | some (o, i) => restoreAt s a o i load
    | none =>
      let usable := (variantsOf j).filter fun i => i == j.saved.variant || j.saved.portable
      let could := usable.any (fun i => (originsOf j).any fun o => fitsAt s j .capacity i o) || fitsAt s j .capacity j.saved.variant j.origin
      if could then s else postJob s a asHeldNoVariant 0

def execJobRestore (asid root : Nat) (load : List (Nat × BitVec 64)) (s : State) : Host.Outcome State Fault Refusal :=
  .next (jobRestore s asid root load)

/-! ## Resume in place, and rest -/

/-- The decision for the step that begins at the stop is made (R313). -/
def stepDecided (s : State) (a : Nat) : Bool :=
  !bitOf (jobOf s a).policy.toNat 3 || !canEscalate s a ||
    (workFields s a).all fun f =>
      let x := (fieldOf s f).job
      decide (tabGet 0 x.step a < 2) || x.kvars.any fun k => k.asid == a && k.layer == 0xFFFF && k.ts == tabGet 0 x.step a

/-- A task resumed in place: its instruction queue fills from what was written, its seed is written again, and from its yield point it goes
on at `start` (R158, R180, R319). -/
def resumedTask (seed : BitVec 64) (start e : Nat) (t : Task) : Task :=
  { t with
    iq := [], gen := { t.gen with key := if e = engCode .vec ∨ e = engCode .drain then seed else t.gen.key }
    pace := match t.pace with | .stopped _ _ => .run | p => p
    ready := match t.pace with | .stopped _ _ => start | _ => t.ready }

/-- A field of a job resumed in place: the new schedules and tables are written, its streams go on from their resume points, and its
tasks issue again at `start` (R180, R271, R312, R319). -/
def resumeField (a joff start : Nat) (changed : List Nat) (s : State) (f : Nat) : State :=
  let j := jobOf s a
  let v := varOf s a
  match framePos j.fam j.origin f with
  | none => s
  | some p =>
    let n := (fieldOf s f).net
    let idx := fun (q : Nat) => keptIndex s f a q joff
    let s := writeTables s f p a v j.kvars (fun q => tabGet 0 n.bank (2 * a + q)) (fun q => start - idx q)
    let s := writeImage s f p v (((schedsOf v j.kvars).filter fun k => changed.contains k.layer).flatMap (·.image))
    let s := modCores s f fun _ c => { c with tasks := c.tasks.map fun e => (e.1, if e.2.present then resumedTask j.seed start e.1 e.2 else e.2) }
    modField s f fun x =>
      { x with
        net := { x.net with quiet := dropAll a x.net.quiet }
        str := { x.str with str := x.str.str.map fun e => (e.1, { e.2 with draining := false }) }
        job := { x.job with anchor := tabPut 0 a (start - 4096 * joff) x.job.anchor, start := tabPut 0 a start x.job.start } }

/-- RESUME_IN_PLACE: a job stopped for a switch, or for a confirmation that was missing, goes on where it stands once its streams have
drained and the decision is made (R312, R313, R319). -/
def resumeInPlace (s : State) (a : Nat) : State :=
  let j := jobOf s a
  if !pithUp s || j.st != .switching || !jobDrained s a || !stepDecided s a then s
  else
    let joff := ((stopPoint s a).map (·.2)).getD 0
    let start := 4096 * max (startEpoch s) joff
    let before := j.kvars
    let s := applyKvars s a j.yieldAt
    let changed := ((varOf s a).layers.map (·.layer)).filter fun l => tabGet 0 (jobOf s a).kvars l != tabGet 0 before l
    let s := (jobFields s a).foldl (resumeField a joff start changed) s
    let pend := (jobFields s a).any (fun f => tabGet 0 (fieldOf s f).job.pre a != 0) ||
      changing s (fun k arg => decide (k = .preempt) && argAsid k arg == a) ||
      s.com.committed.any fun c => decide (c.kind = .preempt) && argAsid c.kind c.arg == a
    modJob s a fun j => { j with st := if pend then .preempting else .running, reports := [] }

def execResumeInPlace (asid : Nat) (s : State) : Host.Outcome State Fault Refusal := .next (resumeInPlace s asid)

/-- The first variant that gives field `f` a role, where the job stands (R341). -/
def roleVariant (s : State) (a f role : Nat) : Option Nat :=
  let j := jobOf s a
  match framePos j.fam j.origin f with
  | none => none
  | some p => (variantsOf j).find? fun i => (capAt (j.fam.variants.getD i default) p).role == role && fitsAt s j .capacity i j.origin

/-- The job is pre-empted to go on under a variant that rests, or wakes, a field (R341). -/
def reRole (s : State) (a f role : Nat) : State :=
  match roleVariant s a f role with
  | none => s
  | some i => startPreempt (modJob s a fun j => { j with restVariant := i + 1, restField := f }) a

/-- FIELD_REST: firmware rests a field only through a variant that marks its position TRANSIT (R20, R341, R492). -/
def fieldRest (s : State) (f : FieldIx) : State :=
  let c := (fieldOf s f).cond
  if !pithUp s || s.trs.safe || fieldGone s f then s
  else if c.owner = 0 then (if !c.leases.isEmpty && c.act == .running then pithPrepare s .rest (BitVec.ofNat 64 f.val) else s)
  else if (jobOf s c.owner).st != .running || (jobOf s c.owner).restVariant != 0 then s
  else reRole s c.owner f 2

def execFieldRest (f : FieldIx) (s : State) : Host.Outcome State Fault Refusal := .next (fieldRest s f)

end Sys2Proof.Machine
end

