-- ==== Sys2Proof/Machine/Pairing.lean ====
section
/-! DEFINITION. The commands of the mirrored pair (15, 16 R441): forming a pair, mirror traffic, the commit of an interval, and resuming a
job from the slice that a partner holds. -/

namespace Sys2Proof.Machine

/-! ## Forming a pair -/

/-- Number of ports in a mask. -/
def portCount (m : BitVec 48) : Nat := ((List.range 48).filter fun p => bitOf m.toNat p).length

/-- A pair setup record without a reserved bit, a wrong port count or a LOG outside 1 to STORE (R400). -/
def setupOk (p : Nat) : Bool :=
  let n := portCount (BitVec.ofNat 48 (bitsOf p 64 48))
  bitsOf p 16 48 == 0 && decide (1 ≤ n ∧ n ≤ 4) && bitsOf p 112 16 == 0 && decide (1 ≤ bitsOf p 160 32 ∧ bitsOf p 160 32 ≤ bitsOf p 128 32) &&
    bitsOf p 192 320 == 0

/-- The first condition of R401 that a setup record fails, 1 to 5, or 0. -/
def setupFails (s : State) (p : Nat) : Nat :=
  let store := bitsOf p 128 32
  if !ptMirror s (bitsOf p 0 16) then 1
  else if (List.range 48).any fun k => bitOf (bitsOf p 64 48) k && !(portOf s k).up then 2
  else if storeMax s < store then 3
  else if !s.trs.winFixed || decide (s.trs.winHi < s.trs.winLo + (store + bitsOf p 160 32) * 2 ^ 30) then 4
  else if s.pair.formed || s.pair.setup then 5
  else 0

/-- HELLO of this module on a port (R401, R409). -/
def sendHello (s : State) (p : Nat) : State :=
  mirSend s p tyHello { job := s.bup.epId.toNat, t := s.pair.store, seq := s.pair.logGib, block := portCount s.pair.ports, body := default }

/-- PAIR_SETUP: the setup record is held, and HELLO goes out on every port that it names; or the pair is refused (R400, R401). -/
def pairSetup (s : State) (q : Fin 8) : State :=
  serve s q 0x10 fun c =>
    let p := c.payload.toNat
    if !setupOk p then finishCmd s c stMalformed id
    else
      let n := setupFails s p
      if n ≠ 0 then finishCmd s c stPairRefused fun x => { x with res0 := BitVec.ofNat 64 n }
      else
        let s := beginCmd s c
        let s := { s with pair := { s.pair with
          setup := true, partner := BitVec.ofNat 16 (bitsOf p 0 16), ports := BitVec.ofNat 48 (bitsOf p 64 48), store := bitsOf p 128 32,
          logGib := bitsOf p 160 32, heard := 0 } }
        ((List.range 48).filter fun k => bitOf s.pair.ports.toNat k).foldl sendHello s

def execPairSetup (q : Fin 8) (s : State) : Host.Outcome State Fault Refusal := .next (pairSetup s q)

/-- The begun PAIR_SETUP completes with a status. -/
def finishSetup (s : State) (status res0 : Nat) : State :=
  (s.cxl.cmds.filter fun c => c.begun && c.opc == 0x10).foldl
    (fun s c => finishCmd s c status fun x => { x with res0 := BitVec.ofNat 64 res0 }) s

/-- Formation fails for a condition of R401: the record is dropped, and no further HELLO is sent. -/
def refusePair (s : State) (n : Nat) : State :=
  finishSetup { s with pair := { s.pair with setup := false, partner := 0, ports := 0, store := 0, logGib := 0, heard := 0 } } stPairRefused n

/-- HELLO: the pair is formed once the partner has been heard on every named port, with as many ports as this module names (R401). -/
def hello (s : State) (p : Fin 48) (src : BitVec 16) (store logGib nports : Nat) : State :=
  if !s.pair.setup || s.pair.formed || !bitOf s.pair.ports.toNat p || !(portOf s p).up then s
  else if src ≠ s.pair.partner then refusePair s 2
  else if nports ≠ portCount s.pair.ports then refusePair s 6
  else
    let first := !bitOf s.pair.heard.toNat p
    let s := { s with pair := { s.pair with theirStore := store, theirLog := logGib,
                                            heard := s.pair.heard ||| BitVec.ofNat 48 (2 ^ p.val) } }
    let s := if first then sendHello s p else s
    if s.pair.heard ≠ s.pair.ports then s
    else finishSetup { s with pair := { s.pair with setup := false, formed := true, lost := false, cause := 0 } } stOk 0

def execHello (port : Fin 48) (src : BitVec 16) (store logGib nports : Nat) (s : State) : Host.Outcome State Fault Refusal :=
  .next (hello s port src store logGib nports)

/-- PAIR_FORMATION_TIMEOUT: HELLO has not come on every named port within 10 s (R401). -/
def pairFormationTimeout (s : State) : State := if s.pair.setup then refusePair s 7 else s

def execPairFormationTimeout (s : State) : Host.Outcome State Fault Refusal := .next (pairFormationTimeout s)

/-- PAIR_DISSOLVE: a pair without a MIRRORED job, and without a slice of the partner, is dissolved (R401). -/
def pairDissolve (s : State) (q : Fin 8) : State :=
  serve s q 0x11 fun c =>
    if !s.pair.formed || (liveJobs s).any (fun a => (jobOf s a).mirrored) || s.pair.slices.any (fun e => e.2.valid && !e.2.sealed_) then
      finishCmd s c stWrong id
    else
      finishCmd { s with pair := { s.pair with formed := false, partner := 0, ports := 0, store := 0, logGib := 0, heard := 0, buf := [] } }
        c stOk id

def execPairDissolve (q : Fin 8) (s : State) : Host.Outcome State Fault Refusal := .next (pairDissolve s q)

/-- Index of the slice that satisfies `p`. -/
def findSlice (s : State) (p : Slice → Bool) : Option Nat := (List.range 36).find? fun i => (sliceOf s i).valid && p (sliceOf s i)

/-- SLICE_RELEASE: host software releases a sealed slice (R413, R549). -/
def sliceRelease (s : State) (q : Fin 8) : State :=
  serve s q 0x12 fun c =>
    match findSlice s fun x => x.sealed_ && x.job == c.arg0.toNat && x.owner.toNat == c.arg1.toNat with
    | none => finishCmd s c stWrong id
    | some i => finishCmd (modSlice s i fun _ => {}) c stOk id

def execSliceRelease (q : Fin 8) (s : State) : Host.Outcome State Fault Refusal := .next (sliceRelease s q)

/-! ## Mirror traffic -/

/-- HEARTBEAT_SEND: a mirror port with no other traffic sends HEARTBEAT (R409). -/
def heartbeatSend (s : State) (p : Fin 48) : State :=
  let x := portOf s p
  if isMirrorPort s p && x.up && x.q0.isEmpty && x.q1.isEmpty && x.q2.isEmpty then mirSend s p tyHeartbeat (mirCtl 0 0 0) else s

def execHeartbeatSend (port : Fin 48) (s : State) : Host.Outcome State Fault Refusal := .next (heartbeatSend s port)

/-- HEARTBEAT: the message shows that the partner lives, and changes nothing else (R409, R412; log 4). -/
def execHeartbeat (_port : Fin 48) (s : State) : Host.Outcome State Fault Refusal := .next s

/-- The slice block that a near-tier block of a job's regions belongs to (R406). -/
def sliceBlock (s : State) (a npa : Nat) : Option Nat :=
  match (jobOf s a).fam.mirror with
  | none => none
  | some d => ((regionBlocks d).find? fun e => match walkRoot s a e.2 with
      | .page pte size => pageAddr pte size e.2 == npa
      | .fault _ => false).map (·.1)

/-- MIRROR_BLOCK_ADMIT: the mirror engine admits the job's oldest held block, while its buffer of 64 MiB has room and the block's
interval is at most two beyond the last complete commit (R408). -/
def mirrorBlockAdmit (s : State) (a : Nat) : State :=
  let j := jobOf s a
  match j.mirrorHeld with
  | [] => s
  | (f, tag) :: rest =>
    let drop := fun (s : State) => modJob s a fun j => { j with mirrorHeld := rest }
    match xferOf s f tag with
    | none => drop s
    | some t =>
      match t.body, sliceBlock s a t.far with
      | some b, some n =>
        if !s.pair.formed || j.unprotected then drop s
        else if 16384 ≤ s.pair.buf.length ∨ j.commitC + 2 < t.iv then s
        else mirrorAdmit (drop s) a t.iv n b
      | _, _ => drop s

def execMirrorBlockAdmit (asid : Nat) (s : State) : Host.Outcome State Fault Refusal := .next (mirrorBlockAdmit s asid)

/-- A mirror message comes from the partner (R402): on a mirror port of the formed pair that is in service. -/
def fromPartner (s : State) (p : Nat) : Bool := s.inp.main && !s.inp.held && isMirrorPort s p && (portOf s p).up

/-- The open slice of the partner's job. -/
def openSlice (s : State) (job : Nat) : Option Nat :=
  findSlice s fun x => !x.sealed_ && !x.sealing && x.job == job && decide (x.owner = s.pair.partner)

/-- WRITE: the entry joins the job's part of the log and is acknowledged; one that the log holds, or that has been applied, is
acknowledged and dropped (R410). A write outside the mirror window is discarded, and the partner is lost (R402, R412; log 30). -/
def mirrorWrite (s : State) (p : Fin 48) (w : MirrorWrite) : State :=
  if !fromPartner s p then s
  else if !s.trs.winFixed || decide (s.pair.store * 2 ^ 18 ≤ w.block) then
    losePair (raise s (mkEvent pithAddr (floorN s) 0x01C1 0 0 7 0 (Config.detailOf 0x01C1 [w.job, w.block]).toNat)) lostWindow
  else
    let ack := fun (s : State) => mirSend s p tyWack (mirCtl w.job w.t w.seq)
    let add := fun (x : Slice) =>
      if w.t ≤ x.c ∨ x.log.any (fun y => y.t == w.t && y.seq == w.seq) then x else { x with log := x.log ++ [w] }
    match openSlice s w.job with
    | some i => ack (modSlice s i add)
    | none =>
      match (List.range 36).find? fun i => !(sliceOf s i).valid with
      | some i => ack (modSlice s i fun _ => add { valid := true, job := w.job, owner := s.pair.partner })
      | none => s

def execMirrorWrite (port : Fin 48) (w : MirrorWrite) (s : State) : Host.Outcome State Fault Refusal := .next (mirrorWrite s port w)

/-- WACK: the mirror engine no longer keeps the write (R410). -/
def wack (s : State) (p : Fin 48) (job t seq : Nat) : State :=
  if !fromPartner s p then s
  else { s with pair := { s.pair with buf := s.pair.buf.filter fun w => !(w.job == job && w.t == t && w.seq == seq) } }

def execWack (port : Fin 48) (job t seq : Nat) (s : State) : Host.Outcome State Fault Refusal := .next (wack s port job t seq)

/-- COMPLETE: the log entries of the interval are applied to the slice in SEQ order, and freed (R410). -/
def mirrorComplete (s : State) (p : Fin 48) (job t : Nat) : State :=
  if !fromPartner s p then s
  else match openSlice s job with
    | some i => modSlice s i fun x => applyInterval x t
    | none => s

def execMirrorComplete (port : Fin 48) (job t : Nat) (s : State) : Host.Outcome State Fault Refusal := .next (mirrorComplete s port job t)

/-- DISCARD: the log entries of the job tagged above C are dropped (R409, R416). -/
def mirrorDiscard (s : State) (p : Fin 48) (job c : Nat) : State :=
  if !fromPartner s p then s
  else match openSlice s job with
    | some i => modSlice s i fun x => { x with log := x.log.filter fun w => decide (w.t ≤ c) }
    | none => s

def execMirrorDiscard (port : Fin 48) (job c : Nat) (s : State) : Host.Outcome State Fault Refusal := .next (mirrorDiscard s port job c)

/-- FAIL: the partner has entered its safe state (R412). -/
def pairFail (s : State) (p : Fin 48) : State := if fromPartner s p then losePair s lostFail else s

def execPairFail (port : Fin 48) (s : State) : Host.Outcome State Fault Refusal := .next (pairFail s port)

/-- MIRROR_SILENCE: 50 µs have passed without a message on any mirror port (R412). -/
def execMirrorSilence (s : State) : Host.Outcome State Fault Refusal := .next (losePair s lostSilence)

/-- SLICE_SEALING_COMPLETE: a slice whose sealing has begun is sealed (R413). -/
def sliceSealingComplete (s : State) (i : Fin 36) : State :=
  modSlice s i fun x => if x.sealing then { x with sealing := false, sealed_ := true, log := [] } else x

def execSliceSealingComplete (i : Fin 36) (s : State) : Host.Outcome State Fault Refusal := .next (sliceSealingComplete s i)

/-! ## The commit of an interval -/

/-- The bunches in which a job has tasks, as 36 × field + bunch, where it stands or stood. -/
def declBunches (s : State) (a : Nat) : List Nat :=
  let j := jobOf s a
  ((varOf s a).tasks.filterMap fun t => (frameField j.fam j.origin t.pos).map fun f => 36 * f + t.bun.val).dedup

/-- A block of interval `t` has not reached the mirror engine's buffer. -/
def intervalOpen (s : State) (a t : Nat) : Bool :=
  (List.range 36).any fun f => (fieldOf s f).str.xfer.any fun x => x.asid == a && x.write && x.mirror && x.iv == t

/-- MIRROR_INTERVAL_COMMIT: once every bunch has reported mirror point t, the job record is sent as the last write of the interval; with
the WACK of every write the pith prepares MIRROR_COMMIT (R409, R411). -/
def mirrorIntervalCommit (s : State) (a : Nat) : State :=
  let j := jobOf s a
  let t := j.commitC + 1
  let mine := fun (k : CommitKind) (arg : BitVec 64) => decide (k = .mirrorCommit) && argAsid k arg == a
  match j.fam.mirror with
  | none => s
  | some d =>
    if !pithUp s || !j.live || !j.mirrored || j.unprotected || !s.pair.formed || j.st == .stopped || j.st == .waiting ||
        !((declBunches s a).all fun b => j.mirrorReports.contains b) || intervalOpen s a t || changing s mine ||
        s.com.committed.any (fun c => mine c.kind c.arg) then s
    else if tabGet 0 s.pair.recorded a ≠ t then
      if 16384 ≤ s.pair.buf.length then s
      else
        let s := mirrorAdmit s a t 0 (jobRecord s a t ((mirrorPoints j.fam d.every).getD (t - 1) 0))
        { s with pair := { s.pair with recorded := tabPut 0 a t s.pair.recorded } }
    else if s.pair.buf.any fun w => w.job == j.number && w.t == t then s
    else pithPrepare s .mirrorCommit (BitVec.ofNat 64 (a + 2 ^ 8 * t))

def execMirrorIntervalCommit (asid : Nat) (s : State) : Host.Outcome State Fault Refusal := .next (mirrorIntervalCommit s asid)

/-! ## Slice reads -/

/-- TYPE of a slice read and of its answer (R441). -/
def tySliceRd : Nat := 0x27
def tySliceData : Nat := 0x28

/-- A slice read or its answer (R418, R441): ARGS hold JOB, C, the block number and, of a read, the count less 1; the first block's bits [11:0] stand in
the place of the contexts, and CSEQ is zero. -/
def sliceRaw (ep : BitVec 16) (answer : Bool) (r : SliceReq) (b : BlockData) : BupRaw :=
  rawMsg (if answer then tySliceData else tySliceRd)
    { dst := ep, src := r.src, dctx := Fin.ofNat 4096 (r.first % 4096), sctx := Fin.ofNat 4096 (r.first % 4096), cseq := 0,
      failed := answer && b.failed, body := b,
      args := BitVec.ofNat 152 (fieldAt 0 16 r.job + fieldAt 16 32 r.c + fieldAt 48 32 r.first + fieldAt 80 8 (if answer then 0 else r.count - 1)) }

/-- The slice read that a message holds (R441). -/
def sliceReqOf (m : BupMsg) : SliceReq :=
  let a := m.args.toNat
  { src := m.src, job := bitsOf a 0 16, c := bitsOf a 16 32, first := bitsOf a 48 32, count := bitsOf a 80 8 + 1 }

/-- A slice read or its answer leaves by a port to an endpoint that the sealed table permits (R418, R433). -/
def sliceSend (s : State) (ep : BitVec 16) (answer : Bool) (r : SliceReq) (b : BlockData) : State :=
  if !ptMirror s ep.toNat then s
  else match ctxPort s ep.toNat (r.first % 4096) with
    | none => s
    | some p => enqueue s p (if answer then 1 else 2) (if answer then 65 else 1) 65535 ep fun id => .bupol id p (sliceRaw ep answer r b)

/-- A slice message reaches the module from an endpoint that the sealed table permits (R418). -/
def sliceArrives (s : State) (p : Nat) (src : BitVec 16) : Bool :=
  s.inp.main && !s.inp.held && (portOf s p).up && s.bup.epSet && ptMirror s src.toNat

/-- SLICE_RD: one SLICE_DATA for each block of a sealed slice, as stored; FAILED where there is none (R418, R549). -/
def sliceRd (s : State) (p : Fin 48) (m : SliceReq) : State :=
  if !sliceArrives s p m.src || !pithUp s || m.count == 0 || decide (16 < m.count) then s
  else
    let i := findSlice s fun x => x.sealed_ && x.job == m.job && x.c == m.c
    (List.range m.count).foldl
      (fun s k =>
        let n := m.first + k
        let b := match i with
          | some i => if n < s.pair.store * 2 ^ 18 then tabGet (tierBlock 0 0) (sliceOf s i).blocks n else failedBlock
          | none => failedBlock
        sliceSend s m.src true { m with src := s.bup.epId, first := n, count := 1 } b) s

def execSliceRd (port : Fin 48) (m : BupRaw) (s : State) : Host.Outcome State Fault Refusal :=
  .next (onType tySliceRd m s fun x => sliceRd s port (sliceReqOf x))

/-- Blocks of the read that begins at `first`, of at most 16. -/
def readCount (s : State) (first : Nat) : Nat := min 16 (s.pair.need - first)

/-- A slice read of the resume goes out (R418). -/
def sendRead (s : State) (first : Nat) : State :=
  sliceSend s s.pair.resumeFrom false
    { src := s.bup.epId, job := s.pair.resumeJob, c := (jobOf s s.pair.resumeAsid).commitC, first := first, count := readCount s first } default

/-- Further slice reads, at most 8 outstanding, each with its blocks reserved in the read part (R418, R443). -/
def issueReads (s : State) : Nat → State
  | 0 => s
  | n + 1 =>
    let first := s.pair.nextRd
    if 8 ≤ s.pair.reads.length ∨ s.pair.need ≤ first ∨ 8192 < s.bup.readUsed + readCount s first then s
    else
      let s := { s with bup := { s.bup with readUsed := s.bup.readUsed + readCount s first }
                        pair := { s.pair with reads := s.pair.reads ++ [(first, 1)], nextRd := first + readCount s first } }
      issueReads (sendRead s first) n

/-- MIRROR_RESUME: the family is admitted, and the slice is fetched into the job's regions before it is restored (R417, R418). -/
def mirrorResume (s : State) (q : Fin 8) (fam : Family) : State :=
  serve s q 0x06 fun c =>
    let p := c.payload.toNat
    if !cxlUp s then s
    else if s.brg.st ≠ 1 then finishCmd s c stWrong id
    else if bitsOf p 144 368 ≠ 0 ∨ 65536 ≤ c.arg0.toNat ∨ 2 ^ 32 ≤ c.arg1.toNat then finishCmd s c stMalformed id
    else if !granted s (bitsOf p 0 64) (bitsOf p 64 64) false then finishCmd s c stNotGranted id
    else match firstFinding (allFindings fam (bitsOf p 64 64) false), fam.mirror with
      | some r, _ => finishCmd s c r.code fun x => { x with res1 := resultRecord r }
      | none, none => finishCmd s c stWrong id
      | none, some d =>
        match freeAsid s with
        | none => s
        | some a =>
          if s.pair.resumeAsid ≠ 0 then s
          else
            let j : Job :=
              { live := true, number := nextNumber s, fam := fam, st := .resuming, sq := c.sq, orphan := c.mute, mirrored := true,
                unprotected := true, commitC := c.arg1.toNat, saveBytes := fam.saveBytes }
            if !couldFit s j then finishCmd s c stNoVariant id
            else if saveSpace s < fam.saveBytes then finishCmd s c stNoSave id
            else if !ptMirror s (bitsOf p 128 16) then finishCmd s c stCtxFailed id
            else
              let s := beginCmd (admitJob s a j) c
              let s := { s with pair := { s.pair with
                resumeAsid := a, resumeJob := c.arg0.toNat, resumeFrom := BitVec.ofNat 16 (bitsOf p 128 16), fetched := [],
                need := d.total / 4096 + 1, nextRd := 0, reads := [] } }
              issueReads s 8

def execMirrorResume (q : Fin 8) (fam : Family) (s : State) : Host.Outcome State Fault Refusal := .next (mirrorResume s q fam)

/-- The resume from the mirror fails: its job is freed, and the command completes with a status (R417, R418). -/
def failResume (s : State) (status : Nat) : State :=
  let a := s.pair.resumeAsid
  let held := (s.pair.reads.map fun r => readCount s r.1).sum
  let s := (s.cxl.cmds.filter fun c => c.begun && c.opc == 0x06).foldl (fun s c => finishCmd s c status (forJob s a)) s
  let s := { s with bup := { s.bup with readUsed := s.bup.readUsed - held }
                    pair := { s.pair with resumeAsid := 0, reads := [], fetched := [], need := 0, nextRd := 0 } }
  freeJob s a

/-- The whole slice has come: the job record gives the seed, the policy, the mirror point and the KVAR values, and the job may be
restored there (R417). -/
def sliceFetched (s : State) : State :=
  let a := s.pair.resumeAsid
  let j := jobOf s a
  let r := (tabGet (tierBlock 0 0) s.pair.fetched 0).data.toNat
  let y := bitsOf r 416 32
  if bitsOf r 0 256 ≠ j.fam.build.toNat then failResume s stMalformed
  else
    modJob s a fun j =>
      { j with
        seed := BitVec.ofNat 64 (bitsOf r 256 64), policy := BitVec.ofNat 64 (bitsOf r 320 64), policyStaged := BitVec.ofNat 64 (bitsOf r 320 64)
        kvars := (numbered (varOf s a).layers).foldl (fun t l => tabPut 0 l.2.layer (bitsOf r (512 + 2 * l.1) 2) t) []
        saved := { sealed_ := true, portable := true, variant := 0, yield_ := y, policy := BitVec.ofNat 64 (bitsOf r 320 64),
                   joff := ((j.fam.yields.take (y + 1)).map (·.dj)).sum, iv := j.commitC + 1, step := stepNumber s a (y + 1) } }

/-- SLICE_DATA: a block of the slice has come; FAILED ends the resume (R418). -/
def sliceData (s : State) (p : Fin 48) (m : SliceReq) (b : BlockData) : State :=
  if !sliceArrives s p m.src || s.pair.resumeAsid == 0 || m.src != s.pair.resumeFrom || m.job != s.pair.resumeJob ||
      m.c != (jobOf s s.pair.resumeAsid).commitC then s
  else match s.pair.reads.find? fun r => decide (r.1 ≤ m.first ∧ m.first < r.1 + readCount s r.1) with
    | none => s
    | some r =>
      if b.failed then failResume s stCtxFailed
      else
        let b := if checkOk b then b else allBruised b
        let old := s.pair.fetched
        let s := { s with pair := { s.pair with fetched := tabPut default m.first b old } }
        let got := fun (n : Nat) => decide (tabGet default s.pair.fetched n ≠ (default : BlockData))
        if !((List.range (readCount s r.1)).all fun k => got (r.1 + k)) then s
        else
          let s := { s with bup := { s.bup with readUsed := s.bup.readUsed - readCount s r.1 }
                            pair := { s.pair with reads := s.pair.reads.filter fun x => x.1 != r.1 } }
          if s.pair.reads.isEmpty ∧ s.pair.need ≤ s.pair.nextRd then sliceFetched s else issueReads s 8

def execSliceData (port : Fin 48) (head : BitVec 512) (body : BitVec 32768) (s : State) : Host.Outcome State Fault Refusal :=
  .next (onType tySliceData { head := head, body := body } s fun x => sliceData s port (sliceReqOf x) x.body)

/-- SLICE_RD_TIMEOUT: an unanswered read is sent again, at most three times; then the resume fails (R418). -/
def sliceRdTimeout (s : State) (first : Nat) : State :=
  match s.pair.reads.find? fun r => r.1 == first with
  | none => s
  | some r =>
    if 4 ≤ r.2 then failResume s stCtxFailed
    else sendRead { s with pair := { s.pair with reads := s.pair.reads.map fun x => if x.1 = first then (first, r.2 + 1) else x } } first

def execSliceRdTimeout (first : Nat) (s : State) : Host.Outcome State Fault Refusal := .next (sliceRdTimeout s first)

end Sys2Proof.Machine
end

