-- ==== Sys2Proof/Machine/Qualify.lean ====
section
/-! DEFINITION. Qualification of Bupol and CXL lanes by PRBS error count (20 R524, R525; 16 R429). Rates are compared as exact fractions. -/

namespace Sys2Proof.Machine

/-- The terms 0 to `n` of the series of e^(m ÷ 1000), times 1000^k × k!: each term is the one before times m ÷ (1000 i), which divides. -/
def expTerms (m k n : Nat) : Nat :=
  let first := (List.range k).foldl (fun p j => p * (1000 * (j + 1))) 1
  ((List.range n).foldl (fun (x : Nat × Nat) i => (x.1 * m / (1000 * (i + 1)), x.2 + x.1 * m / (1000 * (i + 1)))) (first, first)).2

/-- With a mean of m thousandths, `e` events or fewer have a probability of 5 % at most. -/
def rare (e m : Nat) : Bool :=
  let k := 3 * (m / 1000) + 60
  decide (20 * expTerms m k e ≤ expTerms m k k)

/-- The least number of thousandths above `lo` and up to `hi` at which `e` events are rare, by halving. -/
def leastRare (e : Nat) : Nat → Nat → Nat → Nat
  | 0, _, hi => hi
  | n + 1, lo, hi =>
    let mid := (lo + hi) / 2
    if hi ≤ lo + 1 then hi else if rare e mid then leastRare e n lo mid else leastRare e n mid hi

/-- The one-sided 95 % upper Poisson bound on a mean of which `e` events were counted, in thousandths: R524's values, and for more events the least
thousandth at which `e` events or fewer have a probability of 5 % at most (DEDUCED, log 168). -/
def poissonUpper (e : Nat) : Nat :=
  match e with
  | 0 => 2996 | 1 => 4744 | 2 => 6296 | 3 => 7754
  | _ => leastRare e 64 (1000 * e) (2000 * e + 5000)

/-- The sum of R524's BER_est from symbol `j` on: `w` is C(n_s, j) × l^j, `acc` the terms so far, each a step of Horner's rule in d − l. -/
def berSum (ns t l d : Nat) : Nat → Nat → Nat → Nat → Nat
  | 0, _, _, acc => acc
  | n + 1, j, w, acc => berSum ns t l d n (j + 1) (w * (ns - j) * l / (j + 1)) (acc * (d - l) + (if t < j then j * w else 0))

/-- BER_est ≤ 10⁻¹⁵ for `e` symbol errors in `n` symbols of a code of `ns` symbols that corrects `t` (R524): s_u is l ÷ d, the bound ÷ n. -/
def berPasses (ns t e n : Nat) : Bool :=
  let l := poissonUpper e
  let d := 1000 * n
  decide (l ≤ d ∧ berSum ns t l d (ns + 1) 0 1 0 * 10 ^ 15 ≤ ns * d ^ ns)

/-- Symbols that a Bupol lane receives in 1 s at 212.5 Gb/s (R421, R524). -/
def bupolSymbols : Nat := 212500000000 / 10

/-- A Bupol lane passes: RS(544,514), the bound on its bit error rate before correction, and no codeword with more than 8 symbol errors (R524). -/
def bupolLane (x : LaneTest) : Bool :=
  berPasses 544 15 x.symErrs bupolSymbols && decide (poissonUpper x.bitErrs * 10 ^ 6 ≤ 1000 * (10 * bupolSymbols)) && decide (x.worst ≤ 8)

/-- A port passes with each of its 4 lanes; one whose far end does not answer has no counts (R421, R523, R525). -/
def bupolPort (l : List LaneTest) : Bool := l.length == 4 && l.all bupolLane

/-- Symbols of 8 bits that a CXL lane receives in 0.2 s, at 64 GT/s or at 32 GT/s (R453, R524). -/
def cxlSymbols (fast : Bool) : Nat := (if fast then 64000000000 else 32000000000) / 8 / 5

/-- A CXL lane passes in 0.2 s, or with the counts of 1.0 s more (R524). -/
def cxlLane (fast : Bool) (x : LaneTest × LaneTest) : Bool :=
  berPasses 86 1 x.1.symErrs (cxlSymbols fast) || berPasses 86 1 (x.1.symErrs + x.2.symErrs) (6 * cxlSymbols fast)

/-- A CXL port passes with each of its 8 lanes (R453). -/
def cxlLanes (fast : Bool) (l : List (LaneTest × LaneTest)) : Bool := l.length == 8 && l.all (cxlLane fast)

/-- Rate at which a CXL port qualifies: 2 64 GT/s, 1 32 GT/s, where it fails at the first, 0 out of service (R453, R525). -/
def cxlRate (x : CxlTest) : Nat := if cxlLanes true x.at64 then 2 else if cxlLanes false x.at32 then 1 else 0

end Sys2Proof.Machine
end

