-- ==== Sys2Proof/Machine/Cxl.lean ====
section
/-! DEFINITION. The commands of the host attachment (17, 22 R559 to R561, 16 R430 to R438): command queues, completions and interrupts,
CXL ports, grants, the near-tier window, and the commands that open contexts, write routes and retrain ports. -/

namespace Sys2Proof.Machine

/-- BAR0 responds outside recovery: a port is in service, and the domains behind it run (R471, R554). -/
def barOpen (s : State) : Bool := s.inp.main && !s.inp.held && cxlUp s && !s.trs.recovery

/-- A register value after a write of the half that is covered: bits [lo + len − 1 : lo] take the written bits (R11). -/
def mergeBits (old new lo len : Nat) (h : Half) : Nat :=
  let a := match h with | .high => max lo 32 | _ => lo
  let b := match h with | .low => min (lo + len) 32 | _ => lo + len
  if b ≤ a then old else old - bitsOf old a (b - a) * 2 ^ a + bitsOf new a (b - a) * 2 ^ a

/-- The write covers bits below 32 (R11). -/
def coversLow (h : Half) : Bool := h != .high

/-! ## Queues -/

/-- A queue stops with an error code: QERR is set and ENABLE cleared (R560). -/
def queueError (s : State) (q code : Nat) : State :=
  modQueue s q fun x => { x with qerr := true, qcode := BitVec.ofNat 3 code, enable := false }

/-- Error codes of Q_CFG. -/
def qeNotGranted : Nat := 1
def qeOverrun : Nat := 2
def qeLinePoison : Nat := 3

/-- What a command uses of ARG0, ARG1 and PAYLOAD, whose bits above are reserved (R461, R462). -/
def opcUses : Nat → Option (Bool × Bool × Nat)
  | 0x01 => some (false, false, 512) | 0x02 => some (true, false, 0) | 0x03 => some (true, false, 0) | 0x04 => some (true, false, 0)
  | 0x05 => some (true, false, 128) | 0x06 => some (true, true, 144) | 0x07 => some (true, true, 136) | 0x08 => some (true, true, 64)
  | 0x10 => some (false, false, 512) | 0x11 => some (false, false, 0) | 0x12 => some (true, true, 0) | 0x18 => some (true, false, 256)
  | 0x19 => some (true, false, 0) | 0x1A => some (true, true, 0) | 0x1B => some (true, false, 0) | 0x20 => some (false, false, 48)
  | _ => none

/-- An entry with a defined OPC and no reserved bit set (R461). -/
def sqEntryOk (n : Nat) : Bool :=
  zb n 9 7 && zb n 32 32 && zb n 192 320 &&
    (match opcUses (bitsOf n 0 8) with
     | none => false
     | some (a0, a1, len) => (a0 || zb n 64 64) && (a1 || zb n 128 64) && zb n (512 + len) (512 - len))

/-- The command that an entry gives (R461). -/
def entryCmd (q n : Nat) : Cmd :=
  { sq := q, opc := bitsOf n 0 8, fence := bitOf n 8, cid := BitVec.ofNat 16 (bitsOf n 16 16), arg0 := BitVec.ofNat 64 (bitsOf n 64 64),
    arg1 := BitVec.ofNat 64 (bitsOf n 128 64), payload := BitVec.ofNat 512 (bitsOf n 512 512) }

/-- SQ_ENTRY_FETCH: the next entry of a running queue is read, through the grant table, and its command is accepted; a poisoned entry
completes with ENTRY_POISONED, and a malformed one with MALFORMED_COMMAND (R360, R457, R461, R465). -/
def sqEntryFetch (s : State) (q : Fin 8) (entry : BitVec 1024) (poison : Bool) : State :=
  let x := queueOf s q
  if !pithUp s || !cxlUp s || !x.enable || x.tail == x.consumed then s
  else if !granted s (x.sqBase.toNat + 128 * (x.consumed.toNat % 2 ^ x.sqLog.toNat)) 128 false then queueError s q qeNotGranted
  else
    let s := modQueue s q fun x => { x with consumed := x.consumed + 1 }
    let c := entryCmd q entry.toNat
    if poison then postCpl s { cq := q, cid := 0xFFFF, sq := q, status := stPoison, sqhead := sqHead s q }
    else if !sqEntryOk entry.toNat then postCpl s (cmdCpl s c stMalformed id)
    else { s with cxl := { s.cxl with cmds := s.cxl.cmds ++ [c] } }

def execSqEntryFetch (q : Fin 8) (entry : BitVec 1024) (poison : Bool) (s : State) : Host.Outcome State Fault Refusal :=
  .next (sqEntryFetch s q entry poison)

/-- A tail count of SQ `q`: one that runs more than the ring beyond the consumed count stops the queue (R560). -/
def takeTail (s : State) (q : Nat) (v : BitVec 32) : State :=
  let x := queueOf s q
  if 2 ^ x.sqLog.toNat < (v - x.consumed).toNat then queueError s q qeOverrun else modQueue s q fun x => { x with tail := v }

/-- A head count of CQ `q` (R460). -/
def takeHead (s : State) (q : Nat) (v : BitVec 32) : State := modQueue s q fun x => { x with head := v }

/-- A count of queue `q` is taken, or kept by the CXL chiplets while a pith takes over, its latest value only (R555). -/
def takeCount (s : State) (q : Nat) (cq : Bool) (v : BitVec 32) : State :=
  if s.pith.takeover then
    if cq then { s with cxl := { s.cxl with keptCq := tabPut 0 q (v.toNat + 1) s.cxl.keptCq } }
    else { s with cxl := { s.cxl with keptSq := tabPut 0 q (v.toNat + 1) s.cxl.keptSq } }
  else if cq then takeHead s q v else takeTail s q v

/-- Host address of a queue's line (R460). -/
def lineAddr (x : Queue) (cq : Bool) : Nat := (if cq then x.cqLine else x.sqLine).toNat

/-- A host write invalidates a line of the device cache (R460). -/
def dropLine (s : State) (a : Nat) : State := { s with cxl := { s.cxl with lines := s.cxl.lines.filter fun e => e.1 != a } }

/-- A line read is held shared; of more than 512 the oldest leaves the cache (R454, R460; log 20). -/
def keepLine (s : State) (a : Nat) (v : BitVec 32) : State := { s with cxl := { s.cxl with lines := ((a, v) :: s.cxl.lines).take 512 } }

/-- TAIL_LINE_UPDATE: a line that the host has written is invalid, and is read anew in POLL mode, through the grant table (R457, R460, R560). -/
def tailLineUpdate (s : State) (q : Fin 8) (cq : Bool) (count : BitVec 32) (poison : Bool) : State :=
  let x := queueOf s q
  let a := lineAddr x cq
  if !barOpen s || !x.enable || x.mode then s
  else if !granted s a 64 false then queueError (dropLine s a) q qeNotGranted
  else if poison then queueError (dropLine s a) q qeLinePoison
  else takeCount (keepLine (dropLine s a) a count) q cq count

def execTailLineUpdate (q : Fin 8) (cq : Bool) (count : BitVec 32) (poison : Bool) (s : State) : Host.Outcome State Fault Refusal :=
  .next (tailLineUpdate s q cq count poison)

/-- A doorbell acts in DOORBELL mode, on a write that covers its low half (R11, R460, R560). -/
def doorbell (s : State) (q : Fin 8) (cq : Bool) (value : BitVec 64) (h : Half) : State :=
  let x := queueOf s q
  if !barOpen s || !x.enable || !x.mode || !coversLow h then s else takeCount s q cq (value.setWidth 32)

def execSqDb (q : Fin 8) (value : BitVec 64) (half : Half) (s : State) : Host.Outcome State Fault Refusal :=
  .next (doorbell s q false value half)

def execCqDb (q : Fin 8) (value : BitVec 64) (half : Half) (s : State) : Host.Outcome State Fault Refusal :=
  .next (doorbell s q true value half)

/-- COMPLETION_WRITE: the oldest completion held for a CQ is written to its ring while a slot is free there, with PHASE 1 on the first
pass, and fires the queue's vector with IEN (R454, R457, R464, R469). -/
def completionWrite (s : State) (q : Fin 8) : State :=
  let x := queueOf s q
  let i := x.written.toNat % 2 ^ x.cqLog.toNat
  match s.cxl.held.find? fun c => c.cq == q.val with
  | none => s
  | some c =>
    if !pithUp s || !cxlUp s || !x.enable || decide (2 ^ x.cqLog.toNat ≤ (x.written - x.head).toNat) then s
    else if !granted s (x.cqBase.toNat + 64 * i) 64 true then queueError s q qeNotGranted
    else
      let s := { s with cxl := { s.cxl with held := eraseFirst (fun y => decide (y = c)) s.cxl.held } }
      let s := emit s (.completion i (x.written.toNat / 2 ^ x.cqLog.toNat % 2 == 0) c)
      let s := modQueue s q fun x => { x with written := x.written + 1 }
      if x.ien then msixDue s q else s

def execCompletionWrite (q : Fin 8) (s : State) : Host.Outcome State Fault Refusal := .next (completionWrite s q)

/-- MSIX_SEND: a pending message goes out while a port is in service and its vector is unmasked (R454, R469). -/
def msixSend (s : State) (v : Fin 16) : State :=
  if !s.cxl.msixPend.getLsbD v || s.cxl.msixMask.getLsbD v || !s.inp.main || s.inp.held || !cxlUp s then s
  else emit { s with cxl := { s.cxl with msixPend := s.cxl.msixPend &&& ~~~(BitVec.ofNat 16 (2 ^ v.val)) } } (.msix v)

def execMsixSend (v : Fin 16) (s : State) : Host.Outcome State Fault Refusal := .next (msixSend s v)

/-- A write of Q_CFG (R559): while ENABLE reads 1 it takes only ENABLE and QERR; ENABLE is set only with legal sizes, aligned bases and
QERR 0, and the module's own counts then start from Q_STATUS. -/
def writeQcfg (s : State) (q : Fin 8) (value : BitVec 64) (h : Half) : State :=
  if !barOpen s || !coversLow h then s
  else
    let v := value.toNat
    modQueue s q fun x =>
      let x := if bitOf v 16 then { x with qerr := false, qcode := 0 } else x
      if x.enable then { x with enable := bitOf v 10 }
      else
        let x := { x with sqLog := BitVec.ofNat 4 (bitsOf v 0 4), cqLog := BitVec.ofNat 4 (bitsOf v 4 4), mode := bitOf v 8, ien := bitOf v 9 }
        let ok := decide (4 ≤ x.sqLog.toNat ∧ x.sqLog.toNat ≤ 12 ∧ 4 ≤ x.cqLog.toNat ∧ x.cqLog.toNat ≤ 12) && !x.qerr &&
          x.sqBase.toNat % 4096 == 0 && x.cqBase.toNat % 4096 == 0
        if bitOf v 10 && ok then { x with enable := true, tail := x.consumed, head := x.written } else x

def execQueueEnable (q : Fin 8) (value : BitVec 64) (half : Half) (s : State) : Host.Outcome State Fault Refusal :=
  .next (writeQcfg s q value half)

def execQueueDisable (q : Fin 8) (value : BitVec 64) (half : Half) (s : State) : Host.Outcome State Fault Refusal :=
  .next (writeQcfg s q value half)

/-- A write of Q_CFG that clears QERR; where hardware stops the queue with an error in the same cycle, QERR reads 1 afterwards (R9, R568). -/
def qerrClear (s : State) (q : Fin 8) (x : QerrWrite) (h : Half) : State :=
  let t := writeQcfg s q x.value h
  if x.tie.val ≠ 0 ∧ barOpen s ∧ (queueOf s q).enable then queueError t q x.tie else t

def execQerrClear (q : Fin 8) (x : QerrWrite) (half : Half) (s : State) : Host.Outcome State Fault Refusal := .next (qerrClear s q x half)

/-! ## Ports -/

/-- A CXL port leaves service (R468): its requests, which carry no port, go on by the other one. -/
def portOut (s : State) (p : Nat) : State :=
  if (cxlPortOf s p).up then modCxlPort s p fun x => { x with up := false, rate := 0, changes := min 255 (x.changes + 1) } else s

def execCxlPortDown (p : Fin 2) (s : State) : Host.Outcome State Fault Refusal := .next (portOut s p)

/-- A CXL port that has trained returns to service at its rate (R453, R468): with PERST# inactive and its chiplet in service. -/
def portIn (s : State) (p : Nat) (rate : Nat) : State :=
  if !s.inp.main || s.inp.held || (cxlPortOf s p).up || rate = 0 || s.inp.perst.getLsbD p || tabGet false s.dom.rindOut (59 + p) then s
  else modCxlPort s p fun x => { x with up := true, rate := rate, changes := min 255 (x.changes + 1) }

def execCxlPortUp (p : Fin 2) (test : CxlTest) (s : State) : Host.Outcome State Fault Refusal := .next (portIn s p (cxlRate test))

/-- HOST_TRANSFER_TIMEOUT: with both ports down, a transfer to host memory that is not complete returns FAILED: XFER_FAILED is raised
against the CXL chiplet, and not once more by the stream complex (R256, R469; log 133). -/
def hostTransferTimeout (s : State) (f : FieldIx) (tag : Fin 2048) : State :=
  match xferOf s f tag with
  | none => s
  | some t =>
    if cxlUp s || t.target != 2 || (if t.write then t.landed else t.body.isSome) then s
    else
      let s := modXfer (failTransfer s (2048 * f.val + tag.val)) f tag fun x => { x with told := true }
      raiseDie s 59 0x0106 t.asid t.far (Config.detailOf 0x0106 [t.stream, t.tag]).toNat

def execHostTransferTimeout (f : FieldIx) (tag : Fin 2048) (s : State) : Host.Outcome State Fault Refusal :=
  .next (hostTransferTimeout s f tag)

/-! ## Grants and the window -/

/-- The fields BASE of GRANT_LO, and PAGES, RD, WR and VALID of GRANT_HI, after a write. -/
def grantAfter (x : Grant) (hi : Bool) (value : Nat) (h : Half) : Grant :=
  if hi then
    let old := x.pages.toNat + 2 ^ 40 * b2n x.rd + 2 ^ 41 * b2n x.wr + 2 ^ 42 * b2n x.valid
    let n := mergeBits old value 0 43 h
    { x with pages := BitVec.ofNat 40 (bitsOf n 0 40), rd := bitOf n 40, wr := bitOf n 41, valid := bitOf n 42 }
  else { x with base := BitVec.ofNat 40 (bitsOf (mergeBits (4096 * x.base.toNat) value 12 40 h) 12 40) }

/-- A write of a grant register (R455, R456): while VALID or REVOKING is set, one that changes BASE, PAGES, RD or WR is ignored; clearing
VALID sets REVOKING. -/
def writeGrant (s : State) (g : Nat) (hi : Bool) (value : Nat) (h : Half) : State :=
  if !barOpen s then s
  else
    modGrant s g fun x =>
      let y := grantAfter x hi value h
      let changes := decide (y.base ≠ x.base) || decide (y.pages ≠ x.pages) || y.rd != x.rd || y.wr != x.wr
      if x.revoking || (x.valid && changes) then x
      else if x.valid && !y.valid then { y with revoking := true }
      else y

def execGrantWrite (g : Fin 64) (hi : Bool) (value : BitVec 64) (half : Half) (s : State) : Host.Outcome State Fault Refusal :=
  .next (writeGrant s g hi value.toNat half)

def execGrantRevoke (g : Fin 64) (value : BitVec 64) (half : Half) (s : State) : Host.Outcome State Fault Refusal :=
  .next (writeGrant s g true value.toNat half)

/-- Some transfer that the entry admitted has not completed (R456). -/
def grantBusy (s : State) (x : Grant) : Bool :=
  (List.range 36).any fun f => (fieldOf s f).str.xfer.any fun t =>
    t.target == 2 && !t.landed && (t.write || t.body.isNone) &&
      decide (4096 * x.base.toNat ≤ t.far ∧ t.far < 4096 * (x.base.toNat + x.pages.toNat + 1))

/-- REVOKE_COMPLETE: the last request of a revoked entry has completed; one that a function reset revoked takes its reset value (R456,
R514). -/
def revokeComplete (s : State) (g : Fin 64) : State :=
  let x := grantOf s g
  if !x.revoking || grantBusy s x then s else modGrant s g fun x => if x.clear then {} else { x with revoking := false }

def execRevokeComplete (g : Fin 64) (s : State) : Host.Outcome State Fault Refusal := .next (revokeComplete s g)

/-- HOST_WIN_WRITE: the window's size, ignored while the decoder is committed or where W would exceed 64 (R458, R556, R561). -/
def hostWinWrite (s : State) (value : BitVec 64) (h : Half) : State :=
  let w := bitsOf value.toNat 0 7
  if !barOpen s || s.trs.safe || !coversLow h || s.cxl.committed || decide (64 < w) then s else { s with cxl := { s.cxl with win := w } }

def execHostWinWrite (value : BitVec 64) (half : Half) (s : State) : Host.Outcome State Fault Refusal := .next (hostWinWrite s value half)

/-- HDM_DECODER_COMMIT: the decoder is committed or uncommitted; the module refuses to uncommit it while a job maps a page of the window
(R458). -/
def hdmDecoderCommit (s : State) (commit : Bool) : State :=
  if !barOpen s || s.trs.safe then s
  else if !commit && (liveJobs s).any (fun a => !(jobOf s a).windows.isEmpty) then s
  else { s with cxl := { s.cxl with committed := commit } }

def execHdmDecoderCommit (commit : Bool) (s : State) : Host.Outcome State Fault Refusal := .next (hdmDecoderCommit s commit)

/-- HOST_WINDOW_ACCESS: the host reads or writes a granule of the near-tier window; bruised data leaves as poison, and poisoned data
arrives bruised (R360, R458, R459). -/
def hostWindowAccess (s : State) (addr : Nat) (write : Bool) (data : BitVec 512) (poison : Bool) : State :=
  let a := addr / 64 * 64
  if !barOpen s || s.trs.safe || !s.cxl.committed || decide (s.cxl.win * 2 ^ 30 ≤ a) then s
  else
    let s := wakeChan s (nearChannel s a)
    if write then nearStore s a 64 data.toNat poison
    else emit s (.hostRead a (BitVec.ofNat 512 (nearRead s a 64)) (brAny s.mem.nearBr a 64 || nearLost s a))

def execHostWindowAccess (addr : Nat) (write : Bool) (data : BitVec 512) (poison : Bool) (s : State) : Host.Outcome State Fault Refusal :=
  .next (hostWindowAccess s addr write data poison)

/-- 2 MiB, the unit of MAP_WINDOW. -/
def winUnit : Nat := 0x200000

/-- The 2 MiB units of [a, a + n). -/
def winUnits (a n : Nat) : List Nat := (List.range (n / winUnit)).map (· + a / winUnit)

/-- An entry that maps a page of the host window: TARGET 0b00, never MIRROR (R404, R459). -/
def windowEntry (e : Nat × BitVec 64) : Nat × BitVec 64 := (e.1, e.2 &&& ~~~0x70#64)

/-- MAP_WINDOW: pages of the host window are mapped into a job that has its page table; the entries written are `entries` (R458, R459;
log 29). -/
def mapWindow (s : State) (q : Fin 8) (entries : List (Nat × BitVec 64)) : State :=
  serve s q 0x07 fun c => onJob s c fun a =>
    let p := c.payload.toNat
    let (dva, off, len) := (c.arg1.toNat, bitsOf p 0 64, bitsOf p 64 64)
    if dva % winUnit ≠ 0 ∨ off % winUnit ≠ 0 ∨ len % winUnit ≠ 0 ∨ len = 0 ∨ 2 ^ 57 < dva + len ∨ s.cxl.win * 2 ^ 30 < off + len ∨ !zb p 129 7 then
      finishCmd s c stMalformed (forJob s a)
    else if tabGet 0 s.mem.root a = 0 || (jobOf s a).st = .stopped then finishCmd s c stWrong (forJob s a)
    else
      let s := writeEntries s (entries.map windowEntry)
      finishCmd (modJob s a fun j => { j with windows := (j.windows ++ winUnits dva len).dedup }) c stOk (forJob s a)

def execMapWindow (q : Fin 8) (entries : List (Nat × BitVec 64)) (s : State) : Host.Outcome State Fault Refusal :=
  .next (mapWindow s q entries)

/-- UNMAP_WINDOW: the entries at `entries` are cleared, and the command completes with the invalidation (R267, R459; log 29). -/
def unmapWindow (s : State) (q : Fin 8) (entries : List Nat) : State :=
  serve s q 0x08 fun c => onJob s c fun a =>
    let (dva, len) := (c.arg1.toNat, bitsOf c.payload.toNat 0 64)
    let us := winUnits dva len
    if dva % winUnit ≠ 0 ∨ len % winUnit ≠ 0 ∨ len = 0 ∨ !(us.all fun u => (jobOf s a).windows.contains u) then
      finishCmd s c stMalformed (forJob s a)
    else
      let s := writeEntries s (entries.map fun e => (e, 0))
      let s := translationInvalidate s a dva (dva + len - 1)
      finishCmd (modJob s a fun j => { j with windows := j.windows.filter fun u => !us.contains u }) c stOk (forJob s a)

def execUnmapWindow (q : Fin 8) (entries : List Nat) (s : State) : Host.Outcome State Fault Refusal := .next (unmapWindow s q entries)

/-! ## Contexts, routes and ports -/

/-- A context record that R437 allows. -/
def ctxRecOk (p : Nat) : Bool :=
  zb p 28 4 && decide (bitsOf p 32 8 ≤ 1) && decide (1 ≤ bitsOf p 48 8 ∧ bitsOf p 48 8 ≤ 36) && decide (1 ≤ bitsOf p 56 8 ∧ bitsOf p 56 8 ≤ 8) &&
    bitsOf p 64 64 % winUnit == 0 && bitsOf p 128 64 % winUnit == 0 && decide (8 ≤ bitsOf p 192 16 ∧ bitsOf p 192 16 ≤ 256) && zb p 208 48

/-- The context that a record opens (R437). -/
def ctxOfRec (p : Nat) : Ctx :=
  { st := .opening, remote := BitVec.ofNat 16 (bitsOf p 0 16), rctx := bitsOf p 16 12, wstore := bitOf p 32, rights := BitVec.ofNat 8 (bitsOf p 40 8),
    asid := bitsOf p 48 8, reserve := bitsOf p 56 8, expBase := bitsOf p 64 64, expLen := bitsOf p 128 64, gmax := bitsOf p 192 16 }

/-- CTX_OPEN: a closed context is opened with its record, and CTX_OPEN is sent; one whose RESERVE would pass the sum, or that the partner
table does not permit, fails (R436, R437, R445). -/
def ctxOpen (s : State) (q : Fin 8) : State :=
  serve s q 0x18 fun c =>
    let p := c.payload.toNat
    let x := c.arg0.toNat
    if 4096 ≤ x || !ctxRecOk p then finishCmd s c stMalformed id
    else if (ctxOf s x).st ≠ .closed || !s.bup.epSet then finishCmd s c stWrong id
    else if !(jobOf s (bitsOf p 48 8)).live then finishCmd s c stNoJob id
    else
      let s := modCtx (beginCmd s c) x fun _ => ctxOfRec p
      if 8192 < reserveSum s then failCtx s x cauReserve else ctxSend s x tyCtxOpen id

def execCtxOpen (q : Fin 8) (s : State) : Host.Outcome State Fault Refusal := .next (ctxOpen s q)

/-- CTX_CLOSE: the context is CLOSED once its transfers have finished (R437, R451). -/
def ctxClose (s : State) (q : Fin 8) : State :=
  serve s q 0x19 fun c =>
    let x := c.arg0.toNat
    if 4096 ≤ x then finishCmd s c stMalformed id
    else if (ctxOf s x).st = .closed then finishCmd s c stWrong id
    else closeCtx (beginCmd s c) x

def execCtxClose (q : Fin 8) (s : State) : Host.Outcome State Fault Refusal := .next (ctxClose s q)

/-- ROUTE_SET: an entry of the endpoint route table is written (R432). -/
def routeSet (s : State) (q : Fin 8) : State :=
  serve s q 0x1A fun c =>
    if 65536 ≤ c.arg0.toNat ∨ 2 ^ 48 ≤ c.arg1.toNat then finishCmd s c stMalformed id
    else finishCmd { s with bup := { s.bup with route := tabPut 0 c.arg0.toNat (c.arg1.setWidth 48) s.bup.route } } c stOk id

def execRouteSet (q : Fin 8) (s : State) : Host.Outcome State Fault Refusal := .next (routeSet s q)

/-- PORT_RETRAIN: a port leaves service, or is down, and trains; the command completes with R429. -/
def portRetrain (s : State) (q : Fin 8) : State :=
  serve s q 0x1B fun c =>
    let p := c.arg0.toNat
    if 48 ≤ p then finishCmd s c stMalformed id
    else
      let s := beginCmd s c
      if (portOf s p).up then startRetrain s p
      else modPort s p fun x => if x.training then x else { x with training := true, retrains := min 255 (x.retrains + 1) }

def execPortRetrain (q : Fin 8) (s : State) : Host.Outcome State Fault Refusal := .next (portRetrain s q)

/-! ## DOE instance 0 -/

/-- DOE instances answer while the function is present: a port is in service (R466). -/
def doeUp (s : State) : Bool := s.inp.main && !s.inp.held && cxlUp s

/-- DOE_DISCOVERY: instance 0 serves DOE Discovery, index 0, and CXL Table Access, index 1: the answer names the protocol's vendor, its
type and the next index (R466; log 31). -/
def doeDiscovery (s : State) (index : BitVec 8) : State :=
  if !doeUp s then s
  else emit s (.answer 0 (if index = 0 then [0x0001, 0, 1] else if index = 1 then [0x1E98, 2, 0] else [0xFFFF, 0, 0]) [])

def execDoeDiscovery (index : BitVec 8) (s : State) : Host.Outcome State Fault Refusal := .next (doeDiscovery s index)

/-- CXL_TABLE_ACCESS: instance 0 returns an entry of the CDAT, which the answer names (R466; log 31). -/
def cxlTableAccess (s : State) (entry : BitVec 16) : State := if doeUp s then emit s (.answer 1 [entry.toNat] []) else s

def execCxlTableAccess (entry : BitVec 16) (s : State) : Host.Outcome State Fault Refusal := .next (cxlTableAccess s entry)

end Sys2Proof.Machine
end

