-- ==== Sys2Proof/Machine/MapOps.lean ====
section
/-! DEFINITION. The yield map and the mapping in force (14 R383 to R394), and what a reset keeps (19 R512, R513, 18 R471): shared by power
events, resets, bring-up and the remap. -/

namespace Sys2Proof.Machine

/-! ## The mapping in force -/

/-- Kinds of yield-map entries (R389). -/
def ykSite : Nat := 1
def ykColumn : Nat := 2
def ykBank : Nat := 3
def ykEngine : Nat := 4
def ykWire : Nat := 5
def ykLane : Nat := 6
def ykChannel : Nat := 7
def ykRow : Nat := 8
def ykPhase : Nat := 9
def ykConverter : Nat := 10
def ykPith : Nat := 11
def ykRetired : Nat := 12
def ykMargin : Nat := 13

/-- An entry enters the mapping in force (R383, R389). -/
def applyEntry (s : State) (e : YEnt) : State :=
  let y := s.yld
  let f := e.unit
  if e.kind = ykSite then { s with yld := { y with sites := tabPut false (42 * f + e.loc) true y.sites } }
  else if e.kind = ykColumn then
    let n := ((f * 42 + bitsOf e.loc 0 8) * 4 + bitsOf e.loc 8 3) * 128 + bitsOf e.loc 16 7
    { s with yld := { y with columns := tabPut false n true y.columns } }
  else if e.kind = ykBank then { s with yld := { y with banks := tabMod [] f (addNew e.loc) y.banks } }
  else if e.kind = ykEngine then { s with yld := { y with engines := tabMod [] f (addNew e.loc) y.engines } }
  else if e.kind = ykWire then
    let n := (f * 24 + bitsOf e.loc 0 5) * 2 + bitsOf e.loc 5 1
    { s with yld := { y with wires := tabMod [] n (addNew (bitsOf e.loc 16 11)) y.wires } }
  else if e.kind = ykLane then { s with bup := { s.bup with lanes := tabMod [] (f - 41) (addNew e.loc) s.bup.lanes } }
  else if e.kind = ykPhase then { s with yld := { y with phases := tabMod [] f (addNew e.loc) y.phases } }
  else if e.kind = ykConverter then { s with pow := { s.pow with convBad := s.pow.convBad ||| BitVec.ofNat 16 (2 ^ e.loc) } }
  else if e.kind = ykRetired then
    modField s f fun x => { x with cond := { x.cond with retired := true }, pow := { x.pow with rails := 0 }, net := { x.net with clamped := true } }
  else if e.kind = ykMargin then modFpow s f fun x => { x with guard := max (if x.guard = 0 then 40 else x.guard) e.value }
  else s

/-- Entries of one field, whose mapping a remap writes (R383); the seams' wires, lanes and module-wide units are not the field's. -/
def fieldEntry (f : Nat) (e : YEnt) : Bool := [ykSite, ykColumn, ykBank, ykEngine, ykPhase, ykRetired].contains e.kind && e.unit == f

/-- A field with too few good banks, stream engines or phases is recorded FIELD_RETIRED (R382, R385, R530). -/
def shortField (s : State) (f : Nat) : Option Nat :=
  if goodBanks s f < 64 then some 3 else if goodEngines s f < 16 then some 4 else if goodPhases s f < 20 then some 5 else none

/-- Matrix cores narrower than 48 lanes, whose bunch is retired (R127, R382). -/
def narrowSites (s : State) (f : Nat) : List Nat :=
  (List.range 42).filter fun site => (List.range 4).any fun m => decide (18 < (failedCols s.yld f site m).length)

/-! ## Signatures -/

/-- Leaves of a tree, and indices of a committed block (R543, R544). -/
def treeLeaves : Nat := 2 ^ 20
def signBlock : Nat := 65536

/-- The next signature waits for its lower tree (R544). -/
def treeWaits (t : Trust) : Bool := t.sigNext % treeLeaves == 0 && !t.lowerReady

/-- The engine has an index to sign with (R544). -/
def canSign (t : Trust) : Bool := decide (t.sigNext < 2 ^ 40) && !treeWaits t

/-- One index used: the end of its block is committed first, a new lower tree is begun with its first leaf, and with the last index ATT_OK
reads 0 (R544). -/
def useIndex (t : Trust) : Trust :=
  let e := if t.sigEnd ≤ t.sigNext then (t.sigNext / signBlock + 1) * signBlock else t.sigEnd
  { t with sigNext := t.sigNext + 1, sigEnd := e, attOk := decide (t.sigNext + 1 < 2 ^ 40),
           lowerReady := if t.sigNext % treeLeaves = 0 then false else t.lowerReady }

/-! ## Extension records -/

/-- Extension records that the flash holds (R386). -/
def flashRecords : Nat := 224

/-- Entries of a committed record (R388, R391); once every extension record is used, which YMAP_FULL shows, they are kept in the pith's memory
(R392, R398). -/
def storeRecord (s : State) (l : List YEnt) (sig : Nat) : State :=
  if s.yld.full then { s with yld := { s.yld with kept := s.yld.kept ++ l } }
  else
    let s := { s with yld := { s.yld with ext := s.yld.ext ++ [{ boot := s.yld.boots, ents := l, sig := sig }] } }
    if s.yld.ext.length < flashRecords then s else bumpGen { s with yld := { s.yld with full := true } }

/-- A record written, signed and committed at once. -/
def commitRecord (s : State) (l : List YEnt) : State := 
  if l.isEmpty then s else storeRecord { s with trs := useIndex s.trs } l s.trs.sigNext

/-- Entries in records of 64 at most (R388). -/
def inRecords (l : List YEnt) : List (List YEnt) := (List.range ((l.length + 63) / 64)).map fun i => (l.drop (64 * i)).take 64

/-! ## What a reset keeps -/

/-- The condition of a field that outlives a power-on or a module reset: that it is FENCED, until bring-up has tested it, and its thermal
trips (R20, R493, R512). -/
def keptField (x : Field) : Field :=
  { cond := { fenced := x.cond.fenced, fcause := x.cond.fcause, trips := x.cond.trips, dead := x.cond.fenced }
    net := { clamped := x.cond.fenced } }

/-- The fields with nothing but what outlives a reset. -/
def keptFields (s : State) : Tab Field := (List.range 36).foldl (fun t f => tabPut {} f (keptField (fieldOf s f)) t) []

/-- The yield map as flash keeps it (R386, R391). -/
def keptYield (y : Yield) : Yield :=
  { base := y.base, baseObj := y.baseObj, baseGen := y.baseGen, ext := y.ext, full := y.full, boots := y.boots, transLimit := y.transLimit }

/-- What flash keeps of identity and trust: revoked keys, the firmware slot, MINSVN, and the committed block of signature indices, of
which the rest is skipped (R537, R541, R544). -/
def keptTrust (t : Trust) : Trust :=
  { keyRev := t.keyRev, slotOk := t.slotOk, minSvn := t.minSvn, sigNext := t.sigEnd, sigEnd := t.sigEnd, lowerReady := t.sigEnd % treeLeaves == 0,
    image := t.image, ident := t.ident }

/-- The module as a power loss leaves it: flash, and the commands and outputs of the model (R386, R512, R544). -/
def coldState (s : State) : State :=
  { pending := s.pending, out := s.out, free := s.free, fld := keptFields s, yld := keptYield s.yld, trs := keptTrust s.trs }

/-- The error log as a module reset keeps it (R512, R513); handling ends with the domains' state, so the frees that waited are made. -/
def keptLog (s : State) : Log := (s.log.pend.foldl freeSeq s).log

/-- The sloe domain's part of the state, which a module reset and an input failure keep: inputs, the log's store, and the watchdog count
(R471, R512, R513, R552). -/
def sloeState (s : State) : State :=
  { coldState s with
    inp := { sloe := s.inp.sloe, main := s.inp.main, held := true, active := s.inp.active, forced := s.inp.forced, stuck := s.inp.stuck,
             acked := s.inp.acked, sysRst := s.inp.sysRst, perst := s.inp.perst, refOk := s.inp.refOk, backup := s.inp.backup, fRange := s.inp.fRange,
             fCurrent := s.inp.fCurrent, fCoolant := s.inp.fCoolant, inputFail := s.inp.inputFail, riseMs := s.inp.riseMs,
             clearMs := s.inp.clearMs }
    clk := { ticks := s.clk.ticks }
    log := keptLog s
    yld := { keptYield s.yld with kept := s.yld.kept }
    pith := { wdog := s.pith.wdog } }

/-- A sealed slice. -/
def sealedSlice (x : Slice) : Bool := x.valid && x.sealed_

/-- A module reset begins (R512, R513 steps 1 to 3): FAIL goes out on the mirror ports, every job stops, the memories enter
self-refresh, and every domain but the sloe domain is held in reset; sealed slices are kept, with C, the near-tier map and the mirror window. -/
def beginReset (s : State) (recovery : Bool) : State :=
  let s := if s.inp.held then s else sendFail s
  let slices := (List.range 36).foldl (fun t i => if sealedSlice (sliceOf s i) then tabPut {} i (sliceOf s i) t else t) []
  let warm := !slices.isEmpty
  let t := sloeState s
  let y := if warm then { t.yld with nchan := s.yld.nchan, slow := s.yld.slow, lost := s.yld.lost } else t.yld
  let r := if warm then { t.trs with winLo := s.trs.winLo, winHi := s.trs.winHi, winFixed := s.trs.winFixed } else t.trs
  { t with
    pair := { slices := slices }
    yld := y
    trs := { r with recNext := recovery }
    mem := { selfRefresh := true, chan := if warm then s.mem.chan else [] }
    brg := { warm := warm, logFail := s.brg.logFail } }

end Sys2Proof.Machine
end

