-- ==== Sys2Proof/Machine/Power.lean ====
section
/-! DEFINITION. The commands of power and heat (18, 21 R546, 19 R501): the input, converters, regulators, governors, frequency policy,
calibration, thermal actions, coolant, caps, and the field power commands. -/

namespace Sys2Proof.Machine

/-! ## The input -/

/-- Input voltage more than 1 V below zero (R577), and in and out of the ranges of R470 and R471, in tenths of a volt. -/
def reversed (v : Int) : Bool := decide (v < -10)
def inputDead (v : Int) : Bool := decide (v < 540 ∨ 840 < v)
def standbyDead (v : Int) : Bool := decide (v < 400 ∨ 840 < v)

/-- INPUT_FAIL: the first-stage converters stop; every domain but the sloe domain loses power, with every job and all memory (R471). -/
def inputFail (s : State) (v : Int) : State :=
  if !s.inp.main || !inputDead v then s
  else
    let t := sloeState s
    { t with
      inp := { t.inp with main := false, held := false, inputFail := true, fRange := false, fCurrent := false, fCoolant := false }
      yld := keptYield s.yld }

def execInputFail (decivolt : Int) (s : State) : Host.Outcome State Fault Refusal :=
  if reversed decivolt then .fault .reversePolarity else .next (inputFail s decivolt)

/-- STANDBY_POWER_LOSS: the sloe domain loses power too; only flash keeps anything (R470, R512). -/
def standbyPowerLoss (s : State) (v : Int) : State := if standbyDead v then coldState s else s

def execStandbyPowerLoss (decivolt : Int) (s : State) : Host.Outcome State Fault Refusal :=
  if reversed decivolt then .fault .reversePolarity else .next (standbyPowerLoss s decivolt)

/-- INPUT_RESTORED: with the sloe domain powered, the module restarts as after a module reset, from step 3 of R513; INPUT_FAIL will be its
first record (R471). -/
def inputRestored (s : State) : State :=
  if !s.inp.sloe || s.inp.main || !s.inp.inputFail then s
  else { s with inp := { s.inp with main := true, held := true }, brg := { logFail := true } }

def execInputRestored (s : State) : Host.Outcome State Fault Refusal := .next (inputRestored s)

/-- INPUT_RANGE: every field is forced to the lowest state, and CONTAINED INPUT_RANGE is raised (R471). -/
def inputRange (s : State) : State :=
  if !s.inp.main || s.inp.fRange then s else raiseSloe (refreshLow { s with inp := { s.inp with fRange := true } }) 0x01E0 0

def execInputRange (s : State) : Host.Outcome State Fault Refusal := .next (inputRange s)

/-- A forced state has ended: a field that is no longer in the lowest state makes its pass at rate code 32 (R530). -/
def endForced (s : State) : State :=
  modFields (refreshLow s) fun _ x => if x.pow.low then x else { x with cond := { x.cond with atSpeed := false } }

def execInputRangeRelease (s : State) : Host.Outcome State Fault Refusal :=
  .next (endForced { s with inp := { s.inp with fRange := false } })

/-- INPUT_CURRENT: every field is forced to the lowest state, and CONTAINED INPUT_CURRENT is raised once an episode (R546). -/
def inputCurrent (s : State) : State :=
  if !s.inp.main || s.inp.fCurrent then s else raiseSloe (refreshLow { s with inp := { s.inp with fCurrent := true } }) 0x01E2 0

def execInputCurrent (s : State) : Host.Outcome State Fault Refusal := .next (inputCurrent s)

def execInputCurrentRelease (s : State) : Host.Outcome State Fault Refusal :=
  .next (endForced { s with inp := { s.inp with fCurrent := false } })

/-- INPUT_METER_UPDATE: INPUT, and INPUT_ENERGY by the energy of the last millisecond (R488). -/
def inputMeterUpdate (s : State) (w dv da mj : Nat) : State :=
  if !s.inp.main then s
  else { s with pow := { s.pow with inW := w, inV := dv, inA := da, inEnergy := s.pow.inEnergy + BitVec.ofNat 64 mj } }

def execInputMeterUpdate (watts decivolt deciamp millijoule : Nat) (s : State) : Host.Outcome State Fault Refusal :=
  .next (inputMeterUpdate s watts decivolt deciamp millijoule)

/-! ## Forced-state inputs -/

/-- FORCED_INPUT_ACTIVE: the sample forces the state, begins an episode where none runs, and cancels an acknowledge; firmware reports
FORCED_LOW (R489, R501). -/
def forcedInputActive (s : State) (i : Fin 7) : State :=
  if !s.inp.sloe then s
  else
    let m := BitVec.ofNat 7 (2 ^ i.val)
    let first := !s.inp.forced.getLsbD i
    let s := { s with inp := { s.inp with active := s.inp.active ||| m, forced := s.inp.forced ||| m, acked := s.inp.acked &&& ~~~m,
                                          stuck := if first then s.inp.stuck &&& ~~~m else s.inp.stuck } }
    if first && s.inp.main then raise (refreshLow s) (mkEvent pithAddr (floorN s) 0x00E5 0 0 7 0 i) else s

def execForcedInputActive (i : Fin 7) (s : State) : Host.Outcome State Fault Refusal := .next (forcedInputActive s i)

/-- FORCED_INPUT_RELEASE: an input without an active sample for 10 ms that holds an acknowledge is released (R490, R501). -/
def forcedInputRelease (s : State) (i : Fin 7) : State :=
  if !s.inp.forced.getLsbD i || s.inp.active.getLsbD i || !s.inp.acked.getLsbD i then s
  else endForced { s with inp := { s.inp with forced := s.inp.forced &&& ~~~(BitVec.ofNat 7 (2 ^ i.val)) } }

def execForcedInputRelease (i : Fin 7) (s : State) : Host.Outcome State Fault Refusal := .next (forcedInputRelease s i)

/-- STUCK_INPUT: an episode has lasted 100 ms; it is raised once for the episode (R501). -/
def stuckInput (s : State) (i : Fin 7) : State :=
  if !s.inp.forced.getLsbD i || s.inp.stuck.getLsbD i then s
  else raiseSloe { s with inp := { s.inp with stuck := s.inp.stuck ||| BitVec.ofNat 7 (2 ^ i.val) } } 0x010A i

def execStuckInput (i : Fin 7) (s : State) : Host.Outcome State Fault Refusal := .next (stuckInput s i)

/-- ALERT_ACK: acknowledges of the inputs that are inactive are held; of the others discarded (R501). -/
def alertAck (s : State) (mask : BitVec 7) : State :=
  if !s.inp.main || s.inp.held then s else { s with inp := { s.inp with acked := s.inp.acked ||| (mask &&& ~~~s.inp.active) } }

def execAlertAck (mask : BitVec 7) (s : State) : Host.Outcome State Fault Refusal := .next (alertAck s mask)

/-! ## Ceilings and caps -/

/-- A host cap above a new ceiling is lowered to it, and the effective cap is committed (R478, R479). -/
def newCeiling (s : State) : State := commitCap { s with clk := { s.clk with hostCap := min s.clk.hostCap (capMax s) } }

/-- COOLANT_SAMPLE: the temperatures are read; firmware lowers CAPMAX above 45 °C; above 50 °C inlet, or with an outlet rise beyond 1.5 times
the expected one for 1 s, every field is forced to the lowest state (R497). -/
def coolantSample (s : State) (inlet outlet : Int) (watts : Nat) : State :=
  if !s.inp.main then s
  else
    let high := decide (120 * (watts : Int) < (outlet - inlet) * 23830)
    let rise := if high then min 1000 (s.inp.riseMs + 1) else 0
    let clear := if !high && decide (inlet ≤ 480) then min 10000 (s.inp.clearMs + 1) else 0
    let s := { s with inp := { s.inp with riseMs := rise, clearMs := clear }, pow := { s.pow with inlet := inlet, outlet := outlet } }
    let red := if 450 < inlet then 20 * min 5 ((inlet - 450) / 10).toNat else 0
    let s :=
      if !pithUp s || red = s.pow.reduce then s else newCeiling (bumpGen { s with pow := { s.pow with reduce := red } })
    if s.inp.fCoolant || !(decide (500 < inlet) || rise == 1000) then s
    else raiseSloe (refreshLow { s with inp := { s.inp with fCoolant := true } }) 0x01E1 0

def execCoolantSample (inlet outlet : Int) (watts : Nat) (s : State) : Host.Outcome State Fault Refusal :=
  .next (coolantSample s inlet outlet watts)

/-- COOLANT_RANGE_RELEASE: the cause has been clear for 10 s (R497). -/
def coolantRangeRelease (s : State) : State :=
  if s.inp.clearMs < 10000 then s else endForced { s with inp := { s.inp with fCoolant := false } }

def execCoolantRangeRelease (s : State) : Host.Outcome State Fault Refusal := .next (coolantRangeRelease s)

/-- CONVERTER_LOST: the yield map is to record the converter, a lowered ceiling is committed, and with fewer than 4 good converters
CONVERTER_SHORTAGE is raised (R385, R473). -/
def converterLost (s : State) (i : Fin 16) : State :=
  if !s.inp.main || s.pow.convBad.getLsbD i then s
  else
    let s := { s with pow := { s.pow with convBad := s.pow.convBad ||| BitVec.ofNat 16 (2 ^ i.val), convPending := true } }
    let s := raiseSloe (dueEntry (bumpGen s) { kind := ykConverter, unit := 0, loc := i, value := 0 }) 0x00E2 i
    let s := settleConv (newCeiling s)
    if goodConv s < 4 then raiseSloe s 0x03E1 0 else s

def execConverterLost (i : Fin 16) (s : State) : Host.Outcome State Fault Refusal := .next (converterLost s i)

/-- CONVERTER_OVERLOAD: 5 ms after a failure the others are still above their rating: every field is forced to the lowest state until the
lowered ceiling has applied (R473, R490). -/
def converterOverload (s : State) : State :=
  if !s.inp.main || !s.pow.convPending then s else refreshLow { s with inp := { s.inp with fConv := true } }

def execConverterOverload (s : State) : Host.Outcome State Fault Refusal := .next (converterOverload s)

/-- TRAY_CAP_SET: the tray's cap, in 50 W steps (R478). -/
def trayCapSet (s : State) (steps : Nat) : State :=
  if !pithUp s then s else commitCap { s with clk := { s.clk with trayCap := min 480 steps } }

def execTrayCapSet (steps : Nat) (s : State) : Host.Outcome State Fault Refusal := .next (trayCapSet s steps)

/-- A POWER_SET payload that R461 and R479 allow: a field that VALID does not name is zero. -/
def powerSetOk (p : Nat) : Bool :=
  zb p 3 5 && zb p 8 8 && (if bitOf p 0 then decide (120 ≤ bitsOf p 16 16 ∧ bitsOf p 16 16 ≤ 480) else zb p 16 16) &&
    (if bitOf p 1 then decide (bitsOf p 32 8 ≤ 1) else zb p 32 8) && (if bitOf p 2 then decide (bitsOf p 40 8 ≤ 1) else zb p 40 8) && zb p 48 464

/-- Default host cap of a profile in 50 W steps (R484). -/
def profileCap (eff : Bool) : Nat := if eff then 300 else 480

/-- A PROFILE commit, unless the profile is the one in force or under way (R485). -/
def commitProfile (s : State) (eff : Bool) : State :=
  let last := ((s.com.out.toList ++ s.com.queue ++ s.com.committed).filter fun x => decide (x.kind = .profile)).getLast?
  let cur := match last with | some x => x.arg == 1 | none => s.clk.eff
  if cur == eff then s else pithPrepare s .profile (if eff then 1 else 0)

/-- POWER_SET: the host cap, profile and report level; a lowered cap is committed before the profile, and a raised one after it (R479,
R485). -/
def powerSet (s : State) (q : Fin 8) : State :=
  serve s q 0x20 fun c =>
    let p := c.payload.toNat
    let eff := bitOf p 32
    if !powerSetOk p then finishCmd s c stMalformed id
    else if bitOf p 0 && decide (capMax s < bitsOf p 16 16) then finishCmd s c stWrong id
    else
      let s := beginCmd s c
      let s := if bitOf p 2 then { s with pow := { s.pow with report := bitOf p 40 } } else s
      let old := effCap s
      let host := if bitOf p 0 then bitsOf p 16 16 else if bitOf p 1 then min (profileCap eff) (capMax s) else s.clk.hostCap
      let s := { s with clk := { s.clk with hostCap := host } }
      let lower := decide (effCap s < old)
      let s := if lower then commitCap s else s
      let s := if bitOf p 1 then commitProfile s eff else s
      let s := if lower then s else commitCap s
      powerSetDone s

def execPowerSet (q : Fin 8) (s : State) : Host.Outcome State Fault Refusal := .next (powerSet s q)

/-! ## Regulators and governors -/

/-- Frequency-floor level of a field in A: 840, or 35 for each good phase below 24 (R385, R474). -/
def floorLevel (s : State) (f : Nat) : Nat := if goodPhases s f < 24 then 35 * goodPhases s f else 840

/-- The field's rails are powered. -/
def fieldPowered (s : State) (f : Nat) : Bool := s.inp.main && !fieldGone s f

/-- A value moved towards another by at most `d`. -/
def stepTo (a b d : Nat) : Nat := if a < b then min b (a + d) else max b (a - d)

/-- The regulator of the core rail after a sample of the 16 voltage sensors, in tenths of a mV: the setpoint ramps by 20 mV/µs towards the
voltage target, 0.4 mV in the 20 ns of a sample, and the output moves so that the lowest sensor reads the setpoint, up to the guard limit
of 0.90 V (R475, R476; log 146). -/
def regulate (p : FieldPower) (mv : List Nat) : FieldPower :=
  match mv with
  | [] => p
  | v :: l =>
    let ramp := stepTo p.ramp (10 * p.target) 4
    { p with volts := mv, ramp := ramp, drive := if p.rails.getLsbD 0 then min 9000 (p.drive + ramp - 10 * l.foldl min v) else 0 }

/-- REGULATOR_SAMPLE: the voltage sensors and the regulator's output (R475), the sliding sum of the last 2 µs, 100 samples, and the
frequency floor (R477). -/
def regulatorSample (s : State) (f : FieldIx) (y : RailSample) : State :=
  if !fieldPowered s f then s
  else
    let l := (y.amps :: (fieldOf s f).pow.amps).take 100
    let on := decide (100 * floorLevel s f < l.sum)
    let was := (fieldOf s f).pow.floorOn
    let s := modFpow s f fun x => { regulate x y.mv with amps := l, floorOn := was || on, floors := if on && !was then x.floors + 1 else x.floors }
    if on && !was then raiseField s f 0x00E0 0 7 0 0 else s

def execRegulatorSample (f : FieldIx) (x : RailSample) (s : State) : Host.Outcome State Fault Refusal := .next (regulatorSample s f x)

/-- FLOOR_RELEASE: the average is below 90 % of the level, 10 µs on (R477). -/
def floorRelease (s : State) (f : FieldIx) : State :=
  modFpow s f fun x => if 10 * x.amps.sum < 900 * floorLevel s f then { x with floorOn := false } else x

def execFloorRelease (f : FieldIx) (s : State) : Host.Outcome State Fault Refusal := .next (floorRelease s f)

/-- A COMMIT has been sent that the field has yet to apply (R68). -/
def committedTo (s : State) (f : FieldIx) : Bool := s.com.committed.any fun c => c.parts.contains (.field f)

/-- A field's rails trip (R494): the clamps close, and the sloe domain sends FENCE_NOTICE on its behalf. Of two causes before the notice is
received, the lower is recorded (R495). DEDUCED (log 147): a short between the COMMIT and its epoch is the loss of R68, cause 5, as R500
has it. -/
def tripField (s : State) (f : FieldIx) (trip : Fin 256) : State :=
  let x := (fieldOf s f).cond
  let cause : Fin 256 := if trip.val ≤ 3 ∧ committedTo s f then 5 else trip
  if !s.inp.main || x.retired then s
  else if x.fenced then
    let old := Fin.ofNat 256 x.fcause
    if decide (cause.val < x.fcause) && onStem s (.fence f old) then
      modCond (resay s (.fence f old) (.fence f cause)) f
        fun y => { y with fcause := cause }
    else s
  else send (fenceHw s f cause) (.fence f cause)

/-- RAIL_TRIP: causes 1 core, 2 SRAM, 3 transit (R477, R494, R495). -/
def execRailTrip (f : FieldIx) (rail : Fin 3) (s : State) : Host.Outcome State Fault Refusal :=
  .next (tripField s f (Fin.ofNat 256 (rail.val + 1)))

/-- 36 times a field's share under a cap in 50 W steps, in mW: (η × cap − 2,560 W) (R480). -/
def share36 (cap : Nat) : Nat := 46295 * cap - 2560000

/-- The governor's duty after a sample of P mW (R481). -/
def nextDuty (d p sh : Nat) : Nat :=
  if sh < 36 * p then max 1 (d * sh / (36 * p)) else if 100 * 36 * p < 95 * sh ∧ d < 32 then d + 1 else d

/-- GOVERNOR_SAMPLE: the field is held within its share (R481). -/
def governorSample (s : State) (f : FieldIx) (mw : Nat) : State :=
  if !fieldClocked s f then s
  else modFpow s f fun x => { x with now := mw, duty := nextDuty x.duty mw (share36 x.cap) }

def execGovernorSample (f : FieldIx) (milliwatts : Nat) (s : State) : Host.Outcome State Fault Refusal :=
  .next (governorSample s f milliwatts)

/-! ## Frequency policy -/

/-- Highest rate code of the profile in force (R483, R485). -/
def limitK (s : State) : Nat := min (if s.clk.eff then 24 else 32) (maxK s)

/-- Firmware may commit a rate code: the module is in service, and no change of the rate is under way (R66, R483, R491). -/
def mayRate (s : State) : Bool :=
  pithUp s && !s.trs.safe && s.brg.st == 1 && !changing s (fun c _ => decide (c = .freq ∨ c = .profile)) &&
    !s.com.committed.any fun c => decide (c.kind = .freq ∨ c.kind = .profile)

/-- FREQ to rate code `k`, 8 at least, where firmware may and it is not the one in force (R483, R491). -/
def freqTo (s : State) (k : Nat) : State :=
  let k := max 8 k
  if !mayRate s || s.clk.k = k then s else pithPrepare s .freq (BitVec.ofNat 64 k)

/-- The ACTIVE fields. -/
def activeFields (s : State) : List Nat := (List.range 36).filter fun f => !fieldGone s f && (fieldOf s f).cond.act == .running

/-- DUTY_SAMPLE: two low samples running of any field, or a rate code above the profile's or MAXK, make firmware commit the largest rate code
that fits (R483). -/
def dutySample (s : State) (kfit : Nat) : State :=
  if !pithUp s then s
  else
    let fs := activeFields s
    let low := fun (f : Nat) => decide ((fieldOf s f).pow.duty < 32)
    let twice := fs.any fun f => low f && (fieldOf s f).pow.lowDuty
    let s := (List.range 36).foldl (fun t f => modFpow t f fun x => { x with lowDuty := fs.contains f && low f }) s
    let k := min (limitK s) (if twice then kfit else s.clk.k)
    if max 8 k < s.clk.k then freqTo s k else s

def execDutySample (kfit : Nat) (s : State) : Host.Outcome State Fault Refusal := .next (dutySample s kfit)

/-- RATE_RAISE: one step up, while the model allows it, no ACTIVE field has been at 95 °C in the last 100 ms and none is held THERMAL
(R483). -/
def rateRaise (s : State) (fits : Bool) : State :=
  let fs := activeFields s
  if !fits || decide (limitK s ≤ s.clk.k) || fs.any (fun f => decide ((fieldOf s f).pow.cool < 100)) ||
    (List.range 36).any (fun f => fieldClocked s f && (fieldOf s f).clk.thermal) then s
  else freqTo s (s.clk.k + 1)

def execRateRaise (fits : Bool) (s : State) : Host.Outcome State Fault Refusal := .next (rateRaise s fits)

/-- CALIBRATION: a rail's scale factor in thousandths, clamped to 0.80–1.25, and the field's and its jobs' energy at REPORT 1 (R487, R488,
R564; log 32). -/
def calibration (s : State) (f : FieldIx) (rail : Fin 3) (measured modelled : Nat) : State :=
  if !pithUp s || !fieldPowered s f then s
  else
    let raw := if modelled = 0 then (let x := tabGet 0 (fieldOf s f).pow.scale rail; if x = 0 then 1000 else x) else measured * 1000 / modelled
    let k := min 1250 (max 800 raw)
    let e := modelled * k / 1000
    let s := modFpow s f fun x =>
      let r := tabPut 0 rail.val e x.railE
      { x with scale := tabPut 0 rail.val k x.scale, railE := r, est := (tabGet 0 r 0 + tabGet 0 r 1 + tabGet 0 r 2) / 100,
               energy := if s.pow.report then x.energy + BitVec.ofNat 64 e else x.energy }
    let c := (fieldOf s f).cond
    let s :=
      if !s.pow.report then s
      else (fieldAsids s f).foldl
        (fun t a => modJob t a fun j =>
          { j with energy := j.energy + BitVec.ofNat 64 ((if a = c.owner then e else 0) + Config.sideEnergy a f e) }) s
    if k = raw then s else raiseField s f 0x00E4 0 7 0 0

def execCalibration (f : FieldIx) (rail : Fin 3) (measured modelled : Nat) (s : State) : Host.Outcome State Fault Refusal :=
  .next (calibration s f rail measured modelled)

/-! ## Heat -/

/-- The hottest of a field's sensors. -/
def hottest (l : List Int) : Int := l.foldl max (l.headD 0)

/-- A thermal trip, with cause 4; one that recurs after the field's return is recorded FIELD_RETIRED with cause 2 (R493). -/
def thermalTrip (s : State) (f : FieldIx) : State :=
  if !s.inp.main || fieldGone s f then s
  else
    let again := decide (0 < (fieldOf s f).cond.trips)
    let s := tripField (modCond s f fun x => { x with trips := x.trips + 1 }) f 4
    if again then retireField s f 2 else s

/-- THERMAL_SENSOR_SAMPLE: from 100 °C a THERMAL hold, until every sensor reads 97 °C or less; from 115 °C the trip (R491, R493). -/
def thermalSensorSample (s : State) (f : FieldIx) (temps : List Int) : State :=
  if !fieldPowered s f || temps.isEmpty then s
  else
    let h := hottest temps
    let s := modFpow s f fun x => { x with temps := temps, hot := min 255 h.toNat }
    if 115 ≤ h then thermalTrip s f
    else if 100 ≤ h then
      if (fieldOf s f).clk.thermal then s
      else raiseField (modFclk s f fun x => { x with thermal := true }) f 0x00E3 0 7 0 0
    else if h ≤ 97 then
      modFpow (modFclk s f fun x => { x with thermal := false }) f fun x => { x with lowered := false }
    else s

def execThermalSensorSample (f : FieldIx) (temps : List Int) (s : State) : Host.Outcome State Fault Refusal :=
  .next (thermalSensorSample s f temps)

/-- A field is rested for heat, where its job has a variant that marks its position TRANSIT; else the rate code goes to 8 (R491, R492). -/
def heatRest (s : State) (f : Nat) : State :=
  let a := (fieldOf s f).cond.owner
  if a = 0 || (roleVariant s a f 2).isNone then freqTo s 8
  else if (jobOf s a).st != .running || (jobOf s a).restVariant != 0 then s
  else reRole (modFpow s f fun x => { x with heatRest := true }) a f 2

/-- A field rested for heat is woken (R341, R492). -/
def heatWake (s : State) (f : Nat) : State :=
  match (fieldOf s f).cond.leases.find? fun a => (jobOf s a).st == .running && (jobOf s a).restVariant == 0 && (roleVariant s a f 1).isSome with
  | none => s
  | some a => reRole (modFpow s f fun x => { x with heatRest := false }) a f 1

/-- No field has lowered k in the last 10 ms (R491). -/
def mayLower (s : State) : Bool := (List.range 36).all fun g => !fieldPowered s g || (fieldOf s g).pow.lowerIn == 0

/-- THERMAL_READ: firmware counts the milliseconds that the sensors have been hot or cool, and lowers k once no change of it is under way,
rests the field or wakes it (R483, R491, R492). -/
def thermalRead (s : State) (f : FieldIx) : State :=
  if !pithUp s || !fieldPowered s f || (fieldOf s f).pow.temps.isEmpty then s
  else
    let h := hottest (fieldOf s f).pow.temps
    let s := modFpow s f fun x =>
      { x with ms95 := if 95 ≤ h then min 1 (x.ms95 + 1) else 0, ms105 := if 105 ≤ h then min 100 (x.ms105 + 1) else 0,
               ms90 := if h ≤ 90 then min 1000 (x.ms90 + 1) else 0, lowerIn := x.lowerIn - 1,
               cool := if 95 ≤ h then 0 else min 100 (x.cool + 1) }
    let x := fieldOf s f
    if x.pow.ms105 = 100 && x.cond.act == .running then heatRest s f
    else if x.clk.thermal && !x.pow.lowered && mayRate s then freqTo (modFpow s f fun y => { y with lowered := true }) (s.clk.k - 4)
    else if x.pow.ms95 = 1 && mayLower s && mayRate s then freqTo (modFpow s f fun y => { y with lowerIn := 10 }) (s.clk.k - 1)
    else if x.cond.act == .rested && x.pow.heatRest && x.pow.ms90 = 1000 then heatWake s f
    else s

def execThermalRead (f : FieldIx) (s : State) : Host.Outcome State Fault Refusal := .next (thermalRead s f)

/-! ## Field power commands -/

/-- A POWER_CMD reaches a field controller that is powered. -/
def takePower (s : State) (f : FieldIx) (op : Nat) (value : Nat) : State := receive s (.power f op (BitVec.ofNat 16 value))

/-- SETPOINT: the core rail ramps to 600–850 mV; another value passes R498's range and is discarded (R476, R498, R547). -/
def setpoint (s : State) (f : FieldIx) (mv : Nat) : State :=
  let s := takePower s f 0x01 mv
  if !fieldPowered s f || s.inp.held then s
  else if mv < 600 ∨ 850 < mv then
    if 900 < mv then { s with trs := { s.trs with gviol := satAdd 24 s.trs.gviol 1 } } else s
  else modFpow s f fun x => { x with setpoint := mv, target := mv }

def execSetpoint (f : FieldIx) (mv : Nat) (s : State) : Host.Outcome State Fault Refusal := .next (setpoint s f mv)

/-- PHASE: a core-rail phase is disabled or enabled (R382, R498). -/
def phase (s : State) (f : FieldIx) (p : Nat) (disable : Bool) : State :=
  let s := takePower s f 0x02 (p + 256 * b2n disable)
  if !fieldPowered s f || s.inp.held || decide (26 ≤ p) then s
  else modFpow s f fun x => { x with phasesOff := if disable then addNew p x.phasesOff else dropAll p x.phasesOff }

def execPhase (f : FieldIx) (p : Nat) (disable : Bool) (s : State) : Host.Outcome State Fault Refusal := .next (phase s f p disable)

/-- RAILS: a SLEEPING field switches its rails (R498). -/
def rails (s : State) (f : FieldIx) (mask : BitVec 3) : State :=
  let s := takePower s f 0x03 mask.toNat
  if !fieldPowered s f || s.inp.held || (fieldOf s f).cond.act != .sleeping then s else modFpow s f fun x => { x with rails := mask }

def execRails (f : FieldIx) (mask : BitVec 3) (s : State) : Host.Outcome State Fault Refusal := .next (rails s f mask)

/-- ENERGY_SNAP: the activity counters are latched (R498). -/
def energySnap (s : State) (f : FieldIx) : State :=
  let s := takePower s f 0x05 0
  if !fieldPowered s f || s.inp.held then s else modFpow s f fun x => { x with snap := x.counts }

def execEnergySnap (f : FieldIx) (s : State) : Host.Outcome State Fault Refusal := .next (energySnap s f)

end Sys2Proof.Machine
end

