-- ==== Sys2Proof/Machine/Clocks.lean ====
section
/-! DEFINITION. Clocks, the pith's watchdog and takeover, and resets (19, 01 R27, R28, 13 R380, 21 R548, 17 R468): their commands, but for
those that begin bring-up. -/

namespace Sys2Proof.Machine

/-! ## The reference -/

/-- REF_LOSS_DETECTED: two bad windows: the reference is lost, N stops, and the pith aborts an undecided PREPARE (R506, R507, R582). -/
def refLossDetected (s : State) : State :=
  if !s.inp.refOk then s
  else
    let s := { s with inp := { s.inp with refLost := true, refOk := false } }
    if pithUp s then refreshStaged (abortOut s (some 0)) else s

def execRefLossDetected (s : State) : Host.Outcome State Fault Refusal := .next (refLossDetected s)

/-- The field has left SLEEPING and waits for the start slot of job `a` (R41, R157). -/
def awaitsStart (s : State) (f a : Nat) : Bool :=
  runningField s f && tabGet 0 (fieldOf s f).job.start a == slotOf s f && decide (fieldN s f < slotOf s f)

/-- The field waits for the start of some job. -/
def starting (s : State) (f : Nat) : Bool := (fieldAsids s f).any (awaitsStart s f)

/-- REF_QUALIFIED: within 10 ms of the loss N becomes the larger of its own value and the largest S of a running field, REF_LOSS clears, and
REF_INTERRUPTED is raised (R506, R508); after REF_LOST a return changes nothing (R509). -/
def refQualified (s : State) (micros : Nat) : State :=
  if !s.inp.sloe || s.inp.refOk || s.inp.refGone then s
  else
    let s' := { s with inp := { s.inp with refOk := true, refLost := false } }
    if !s.inp.refLost then s'
    else
      let s := s'
      let top := ((List.range 36).filter fun f => runningField s f && !starting s f).foldl (fun m f => max m (8 * slotOf s f)) s.clk.n8
      let s := { s with clk := { s.clk with n8 := top } }
      let s := applyNominal (modFields s fun _ x => { x with clk := { x.clk with n8 := if x.cond.act == .sleeping then x.clk.n8 else max x.clk.n8 (top / 8 * 8) } })
      pump (raiseSloe s 0x00F0 micros)

def execRefQualified (micros : Nat) (s : State) : Host.Outcome State Fault Refusal := .next (refQualified s micros)

/-- REF_LOST: lost for 10 ms: the DEVICE-class event, whose logging takes the module to its safe state (R509). -/
def refLost (s : State) : State :=
  if !s.inp.refLost || s.inp.refGone then s else raiseSloe { s with inp := { s.inp with refGone := true } } 0x0305 0

def execRefLost (s : State) : Host.Outcome State Fault Refusal := .next (refLost s)

/-- SLOE_CLOCK: the sloe domain moves to its on-die oscillator until the next power-on (R505). -/
def sloeClock (s : State) : State :=
  if !s.inp.sloe || s.inp.backup then s
  else
    let s := { s with inp := { s.inp with backup := true } }
    if s.inp.main then raiseSloe s 0x01F0 0 else s

def execSloeClock (s : State) : Host.Outcome State Fault Refusal := .next (sloeClock s)

/-! ## Oscillators -/

/-- A placement whose field failed is undone: every field leaves the job, and the job waits, or stays saved, for another place without that
field (R339, R511). -/
def abandonPlacement (s : State) (a f : Nat) : State :=
  let s := (jobFields s a).foldl (fun t g => leaveField (stopFieldJob t g a) g a) (leaveCommits s a)
  modJob s a fun j =>
    { j with st := if j.saved.sealed_ then .resuming else .waiting, barred := addNew f j.barred, restVariant := 0 }

/-- OSC_LOCK_TIMEOUT: an oscillator has not locked 20 µs after its start: it is started once more, and then the placement is abandoned with
OSC_FAIL, and nothing is placed in the field before the next bring-up (R511). -/
def oscLockTimeout (s : State) (f : FieldIx) : State :=
  match (fieldAsids s f).filter (awaitsStart s f) with
  | [] => s
  | js =>
    if !pithUp s then s
    else if (fieldOf s f).cond.oscTry = 0 then modCond s f fun x => { x with oscTry := 1 }
    else
      let s := raiseField (modCond s f fun x => { x with oscFail := true, testHold := true, oscTry := 2 }) f 0x01F1 0 7 0 0
      js.foldl (fun t a => abandonPlacement t a f) s

def execOscLockTimeout (f : FieldIx) (s : State) : Host.Outcome State Fault Refusal := .next (oscLockTimeout s f)

/-! ## Watchdog and takeover -/

/-- WATCHDOG_WRITE: the active pith, or the one that takes over, has written the watchdog (R548). -/
def watchdogWrite (s : State) : State :=
  if s.inp.main && !s.inp.held && (s.pith.running || s.pith.takeover) then { s with pith := { s.pith with wrote := true } } else s

def execWatchdogWrite (s : State) : Host.Outcome State Fault Refusal := .next (watchdogWrite s)

/-- No pith is left: the sloe domain raises PITH_LOST and brings the module to its safe state by itself (R28, R548). -/
def pithGone (s : State) : State :=
  let s := { s with pith := { s.pith with running := false, takeover := false, standby := false, wrote := true } }
  enterSafe (raiseSloe s 0x0303 0) 0

/-- A context save under way is to be done again from its copy on, by the pith that takes over (R347). -/
def restartSaves (s : State) : State :=
  (liveJobs s).foldl (fun t a => if (jobOf t a).st = .saving then modJob t a fun j => { j with saved := { j.saved with copied := false } } else t) s

/-- The active pith stops: the standby takes over, unless there is none or a takeover is under way (R27, R28, R380). What firmware was writing
or signing is dropped (R391, R553), and a save is done again (R347). -/
def pithFails (s : State) : State :=
  if !s.inp.main || s.inp.held || !(s.pith.running || s.pith.takeover) then s
  else if s.pith.takeover || !s.pith.standby then pithGone s
  else
    let s := restartSaves s
    { s with
      pith := { s.pith with takeover := true, standby := false, wrote := false, lost := anyHandling s }
      yld := { s.yld with draft := [], draftStep := 0 }
      trs := { s.trs with sigWait := s.trs.sigWait.filter fun r => r.1 != 0 } }

def execPithFailure (s : State) : Host.Outcome State Fault Refusal := .next (pithFails s)

/-- WATCHDOG_EXPIRY: 2 ms without a write: the active chiplet is held in reset, and the standby takes over (R548). -/
def watchdogExpiry (s : State) : State :=
  if !s.inp.main || s.inp.held || !s.pith.running || s.pith.takeover then s
  else pithFails { s with pith := { s.pith with wdog := satAdd 8 s.pith.wdog 1 } }

def execWatchdogExpiry (s : State) : Host.Outcome State Fault Refusal := .next (watchdogExpiry s)

/-- TAKEOVER_TIMEOUT: the new active pith has not written the watchdog within 50 ms of the expiry (R548). -/
def takeoverTimeout (s : State) : State :=
  if !s.inp.main || s.inp.held || s.pith.wrote || !(s.pith.running || s.pith.takeover) then s else pithGone s

def execTakeoverTimeout (s : State) : Host.Outcome State Fault Refusal := .next (takeoverTimeout s)

/-- Host software frees the record with SEQ `q`: a primary record whose domain is still being handled, when the handling completes (R563). -/
def hostFree (s : State) (q : Nat) : State :=
  if (recIndex s q).isNone then s
  else if s.dom.st.any fun e => e.2.st != 0 && e.2.seq == q then
    { s with log := { s.log with pend := addNew q s.log.pend } }
  else freeSeq s q

/-- What the CXL chiplets kept during the takeover is applied: frees in order, and the latest counts of each queue (R555). -/
def applyKept (s : State) : State :=
  let c := s.cxl
  let s := { s with cxl := { s.cxl with keptFree := [], keptSq := [], keptCq := [] } }
  let s := c.keptFree.foldl hostFree s
  let s := c.keptSq.foldl (fun t e => takeTail t e.1 (BitVec.ofNat 32 (e.2 - 1))) s
  c.keptCq.foldl (fun t e => takeHead t e.1 (BitVec.ofNat 32 (e.2 - 1))) s

/-- TAKEOVER_COMPLETE: the new active pith aborts a prepared change as its first action on the stem network, and logs PITH_TAKEOVER; or, where
a domain was being handled, PITH_LOST, which takes the module to its safe state (R27, R380). -/
def takeoverComplete (s : State) : State :=
  if !s.inp.main || s.inp.held || !s.pith.takeover then s
  else
    let lost := s.pith.lost
    let s := { s with pith := { s.pith with active := 1 - s.pith.active, running := true, takeover := false, lost := false } }
    let s := refreshStaged (abortOut s (some 0))
    let s := applyKept s
    if lost then settle (pithEvent s 0x0303 0 0 .pith 0)
    else pump (settle (handlingDone (pithEvent ((liveJobs s).foldl readSnaps s) 0x0109 0 0 .pith 0) .pith))

def execTakeoverComplete (s : State) : Host.Outcome State Fault Refusal := .next (takeoverComplete s)

/-! ## Resets -/

/-- MODULE_RESET: SYS_RST_N is asserted (R502, R513). -/
def moduleReset (s : State) : State :=
  if !s.inp.sloe then s
  else if !s.inp.main then { s with inp := { s.inp with sysRst := true } }
  else beginReset { s with inp := { s.inp with sysRst := true } } false

def execModuleReset (s : State) : Host.Outcome State Fault Refusal := .next (moduleReset s)

/-- The registers of a CXL port's link, cleared (R512). -/
def clearPort (s : State) (p : Nat) : State := modCxlPort s p fun _ => {}

/-- A function reset (R514): valid grants are revoked and take their reset value when that completes; queues, HOST_WIN, the decoder and MSI-X
are cleared; commands accepted before are carried out and their completions discarded; asynchronous entries go to CQ0. -/
def functionReset (s : State) : State :=
  let c := s.cxl
  let s := { s with cxl :=
      { c with
        grant := (List.range 64).foldl
          (fun t i =>
            let e := grantOf s i
            tabPut {} i (if e.valid || e.revoking then { e with valid := false, revoking := true, clear := true } else {}) t) []
        queue := [], win := 0, committed := false, msixMask := 65535, msixPend := 0, msixTab := []
        keptSq := [], keptCq := [], lines := []
        cmds := c.cmds.map fun x => { x with mute := true }
        held := (c.held.filter (·.async)).map fun x => { x with cq := 0 } } }
  let s := (liveJobs s).foldl (fun t a => modJob t a fun j => { j with orphan := true }) s
  clearPort (clearPort s 0) 1

/-- PERST# of a port is asserted (R503): its link ends, and with both active the function is reset (R514, R515). -/
def assertPerst (s : State) (p : Nat) : State :=
  if !s.inp.sloe then s
  else
    let s := { s with inp := { s.inp with perst := s.inp.perst ||| BitVec.ofNat 2 (2 ^ p) } }
    let s := clearPort s p
    if s.inp.perst = 3 && s.inp.main && !s.inp.held then functionReset s else s

def execPortReset (p : Fin 2) (s : State) : Host.Outcome State Fault Refusal := .next (assertPerst s p)

/-- FUNCTION_RESET: both PERST# are asserted (R503, R514). -/
def bothPerst (s : State) : State :=
  if !s.inp.sloe then s
  else
    let s := { s with inp := { s.inp with perst := 3 } }
    if s.inp.main && !s.inp.held then functionReset s else s

def execFunctionReset (s : State) : Host.Outcome State Fault Refusal := .next (bothPerst s)

/-- PERST_DEASSERT: the port trains and returns to service at its rate, 0 where it does not; while the reference is lost it trains once the
reference is qualified, which CXL_PORT_UP then says (R515, R516). -/
def perstDeassert (s : State) (p : Fin 2) (test : CxlTest) : State :=
  if !s.inp.sloe then s
  else
    let s := { s with inp := { s.inp with perst := s.inp.perst &&& ~~~(BitVec.ofNat 2 (2 ^ p.val)) } }
    if s.inp.refLost || (s.brg.st == 0 && !s.trs.recovery) then s else portIn s p (cxlRate test)

def execPerstDeassert (p : Fin 2) (test : CxlTest) (s : State) : Host.Outcome State Fault Refusal := .next (perstDeassert s p test)

end Sys2Proof.Machine
end

