-- ==== Sys2Proof/Machine/Sha.lean ====
section
/-! DEFINITION. SHA-256 (FIPS 180-4), the hash of every measurement and record (R388, R536, R545). -/

namespace Sys2Proof.Machine

/-- Round constants. -/
def shaKA : List Nat :=
  [0x428A2F98, 0x71374491, 0xB5C0FBCF, 0xE9B5DBA5, 0x3956C25B, 0x59F111F1, 0x923F82A4, 0xAB1C5ED5,
   0xD807AA98, 0x12835B01, 0x243185BE, 0x550C7DC3, 0x72BE5D74, 0x80DEB1FE, 0x9BDC06A7, 0xC19BF174,
   0xE49B69C1, 0xEFBE4786, 0x0FC19DC6, 0x240CA1CC, 0x2DE92C6F, 0x4A7484AA, 0x5CB0A9DC, 0x76F988DA,
   0x983E5152, 0xA831C66D, 0xB00327C8, 0xBF597FC7, 0xC6E00BF3, 0xD5A79147, 0x06CA6351, 0x14292967]
def shaKB : List Nat :=
  [0x27B70A85, 0x2E1B2138, 0x4D2C6DFC, 0x53380D13, 0x650A7354, 0x766A0ABB, 0x81C2C92E, 0x92722C85,
   0xA2BFE8A1, 0xA81A664B, 0xC24B8B70, 0xC76C51A3, 0xD192E819, 0xD6990624, 0xF40E3585, 0x106AA070,
   0x19A4C116, 0x1E376C08, 0x2748774C, 0x34B0BCB5, 0x391C0CB3, 0x4ED8AA4A, 0x5B9CCA4F, 0x682E6FF3,
   0x748F82EE, 0x78A5636F, 0x84C87814, 0x8CC70208, 0x90BEFFFA, 0xA4506CEB, 0xBEF9A3F7, 0xC67178F2]

/-- Initial hash value. -/
def shaInit : List Nat :=
  [0x6A09E667, 0xBB67AE85, 0x3C6EF372, 0xA54FF53A, 0x510E527F, 0x9B05688C, 0x1F83D9AB, 0x5BE0CD19]

/-- Rotation of a 32-bit word to the right, and its sum modulo 2³². -/
def rotr32 (x n : Nat) : Nat := (x / 2 ^ n + x * 2 ^ (32 - n)) % 2 ^ 32
def add32 (l : List Nat) : Nat := l.sum % 2 ^ 32

/-- The next word of the message schedule, from the words so far, newest first. -/
def shaNext (w : List Nat) : Nat :=
  let a := w.getD 14 0
  let b := w.getD 1 0
  add32 [w.getD 15 0, rotr32 a 7 ^^^ rotr32 a 18 ^^^ (a / 8), w.getD 6 0, rotr32 b 17 ^^^ rotr32 b 19 ^^^ (b / 1024)]

/-- The message schedule of a block of 16 words. -/
def shaSchedule (block : List Nat) : List Nat := ((List.range 48).foldl (fun w _ => shaNext w :: w) block.reverse).reverse

/-- One round on the eight working variables. -/
def shaRound (h : List Nat) (kw : Nat × Nat) : List Nat :=
  let v := fun (i : Nat) => h.getD i 0
  let e := v 4
  let a := v 0
  let t1 := add32 [v 7, rotr32 e 6 ^^^ rotr32 e 11 ^^^ rotr32 e 25, (e &&& v 5) ^^^ ((2 ^ 32 - 1 - e) &&& v 6), kw.1, kw.2]
  let t2 := add32 [rotr32 a 2 ^^^ rotr32 a 13 ^^^ rotr32 a 22, (a &&& v 1) ^^^ (a &&& v 2) ^^^ (v 1 &&& v 2)]
  [add32 [t1, t2], a, v 1, v 2, add32 [v 3, t1], e, v 5, v 6]

/-- The hash value after one block. -/
def shaBlock (h block : List Nat) : List Nat :=
  (((shaKA ++ shaKB).zip (shaSchedule block)).foldl shaRound h |>.zip h).map fun p => add32 [p.1, p.2]

/-- A message of bytes, padded. -/
def shaPad (m : List Nat) : List Nat :=
  let n := m.length
  m ++ [128] ++ List.replicate ((119 - n % 64) % 64) 0 ++ (List.range 8).map fun i => 8 * n / 256 ^ (7 - i) % 256

/-- Words of four bytes, the first the highest. -/
def shaWords (m : List Nat) : List Nat :=
  (List.range (m.length / 4)).map fun i => (m.drop (4 * i)).take 4 |>.foldl (fun a b => 256 * a + b) 0

/-- SHA-256 of a list of bytes, as a number whose highest byte is the first of the digest. -/
def sha256 (m : List Nat) : BitVec 256 :=
  let w := shaWords (shaPad m)
  let h := (List.range (w.length / 16)).foldl (fun h i => shaBlock h ((w.drop (16 * i)).take 16)) shaInit
  BitVec.ofNat 256 (h.foldl (fun a b => 2 ^ 32 * a + b) 0)

end Sys2Proof.Machine
end

