-- ==== Sys2Proof/Machine/Signature.lean ====
section
/-! DEFINITION. The signatures of R536: HSS with two levels of LMS_SHA256_M32_H20 over LMOTS_SHA256_N32_W8, as RFC 8554, which the rule names,
lays them out (its type codes, domain constants and byte places are PRESUMED from it, log 160); and the objects that the boot ROM verifies
with them (14 R387, 21 R534 to R541). A string of bytes is a list of numbers below 256. -/

namespace Sys2Proof.Machine

/-! ## Bytes -/

/-- A number in `n` bytes, the highest first, as signatures hold numbers; and in `n` bytes, the lowest first, as records do (R5). -/
def beBytes (n v : Nat) : List Nat := (List.range n).map fun i => v / 256 ^ (n - 1 - i) % 256
def leBytes (n v : Nat) : List Nat := (List.range n).map fun i => v / 256 ^ i % 256

/-- The number that bytes hold, the highest first. -/
def beNat (l : List Nat) : Nat := l.foldl (fun a b => 256 * a + b) 0

/-- Bytes `a` to `a + n - 1`, and the little-endian number that they hold. -/
def partOf (l : List Nat) (a n : Nat) : List Nat := (l.drop a).take n
def leAt (l : List Nat) (a n : Nat) : Nat := beNat (partOf l a n).reverse

/-- The 32 bytes of a SHA-256 digest. -/
def hashBytes (m : List Nat) : List Nat := beBytes 32 (sha256 m).toNat

/-! ## One-time signatures: LMOTS_SHA256_N32_W8 -/

/-- Type codes of LMOTS_SHA256_N32_W8 and LMS_SHA256_M32_H20, and the height of a tree. -/
def otsType : List Nat := beBytes 4 4
def lmsType : List Nat := beBytes 4 8
def treeHeight : Nat := 20

/-- `n` steps of the chain `i` of leaf `q` from its step `j` on. -/
def chainSteps (id : List Nat) (q i : Nat) : Nat → Nat → List Nat → List Nat
  | _, 0, x => x
  | j, n + 1, x => chainSteps id q i (j + 1) n (hashBytes (id ++ beBytes 4 q ++ beBytes 2 i ++ beBytes 1 j ++ x))

/-- The 34 coefficients of a message: the bytes of its digest under the randomiser `c`, and their checksum. -/
def otsCoefs (id : List Nat) (q : Nat) (c m : List Nat) : List Nat :=
  let h := hashBytes (id ++ beBytes 4 q ++ [0x81, 0x81] ++ c ++ m)
  h ++ beBytes 2 (h.map (255 - ·)).sum

/-- The one-time public key of the ends of 34 chains. -/
def otsJoin (id : List Nat) (q : Nat) (ends : List Nat) : List Nat := hashBytes (id ++ beBytes 4 q ++ [0x80, 0x80] ++ ends)

/-- The one-time public key that a signature of 1,124 bytes yields for a message. -/
def otsKeyOf (id : List Nat) (q : Nat) (sig m : List Nat) : List Nat :=
  let a := otsCoefs id q (partOf sig 4 32) m
  otsJoin id q ((List.range 34).flatMap fun i => chainSteps id q i (a.getD i 0) (255 - a.getD i 0) (partOf sig (36 + 32 * i) 32))

/-! ## Trees: LMS_SHA256_M32_H20 -/

/-- The value of a leaf, numbered 2²⁰ + q in its tree, and of an inner node from its two children. -/
def leafOf (id : List Nat) (q : Nat) (key : List Nat) : List Nat := hashBytes (id ++ beBytes 4 (2 ^ treeHeight + q) ++ [0x82, 0x82] ++ key)
def innerOf (id : List Nat) (node : Nat) (l r : List Nat) : List Nat := hashBytes (id ++ beBytes 4 node ++ [0x83, 0x83] ++ l ++ r)

/-- The root that node `n` of value `x` leads to with the siblings on its path. -/
def rootOf (id : List Nat) : Nat → List (List Nat) → List Nat → List Nat
  | _, [], x => x
  | n, p :: l, x => rootOf id (n / 2) l (if n % 2 = 1 then innerOf id (n / 2) p x else innerOf id (n / 2) x p)

/-- An LMS signature of 1,772 bytes verifies under a public key of 56 bytes. -/
def lmsVerify (key m sig : List Nat) : Bool :=
  let id := partOf key 8 16
  let q := beNat (partOf sig 0 4)
  let path := (List.range treeHeight).map fun h => partOf sig (1132 + 32 * h) 32
  partOf key 0 4 == lmsType && partOf key 4 4 == otsType && partOf sig 4 4 == otsType && partOf sig 1128 4 == lmsType &&
    decide (q < 2 ^ treeHeight) && key.length == 56 && sig.length == 1772 &&
    rootOf id (2 ^ treeHeight + q) path (leafOf id q (otsKeyOf id q (partOf sig 4 1124) m)) == partOf key 24 32

/-- An HSS signature of 3,604 bytes with two levels verifies under a public key of 60 bytes (R536). -/
def hssVerify (key m sig : List Nat) : Bool :=
  let sub := partOf sig 1776 56
  partOf key 0 4 == beBytes 4 2 && partOf sig 0 4 == beBytes 4 1 && key.length == 60 && sig.length == 3604 &&
    lmsVerify (partOf key 4 56) sub (partOf sig 4 1772) && lmsVerify sub m (partOf sig 1832 1772)

/-! ## The attestation key (R543) -/

/-- Identifier of a tree of the attestation key: 0 the upper tree, u + 1 the lower tree under upper leaf u. -/
def attId (tree : Nat) : List Nat := beBytes 16 (Config.attId tree).toNat

/-- The start of chain `i` of leaf `q`, which the signature engine alone holds. -/
def attStart (tree q i : Nat) : List Nat := beBytes 32 (Config.attSecret tree q i).toNat

/-- The value of node `j` at height `h` of a tree. -/
def attNode (tree : Nat) : Nat → Nat → List Nat
  | 0, j => leafOf (attId tree) j
      (otsJoin (attId tree) j ((List.range 34).flatMap fun i => chainSteps (attId tree) j i 0 255 (attStart tree j i)))
  | h + 1, j => innerOf (attId tree) (2 ^ (treeHeight - (h + 1)) + j) (attNode tree h (2 * j)) (attNode tree h (2 * j + 1))

/-- The LMS public key of a tree, and the HSS public key (R536). -/
def attTreeKey (tree : Nat) : List Nat := lmsType ++ otsType ++ attId tree ++ attNode tree treeHeight 0
def attPublic : List Nat := beBytes 4 2 ++ attTreeKey 0

/-- The one-time signature of a message with leaf `q`. -/
def otsSign (tree q : Nat) (m : List Nat) : List Nat :=
  let c := beBytes 32 (Config.attRandom tree q).toNat
  let a := otsCoefs (attId tree) q c m
  otsType ++ c ++ (List.range 34).flatMap fun i => chainSteps (attId tree) q i 0 (a.getD i 0) (attStart tree q i)

/-- The other node under the same parent. -/
def sibling (j : Nat) : Nat := if j % 2 = 0 then j + 1 else j - 1

/-- The LMS signature of a message with leaf `q`. -/
def lmsSign (tree q : Nat) (m : List Nat) : List Nat :=
  beBytes 4 q ++ otsSign tree q m ++ lmsType ++ (List.range treeHeight).flatMap fun h => attNode tree h (sibling (q / 2 ^ h))

/-- The attestation key's signature of a message with index `n`, upper leaf and lower leaf (R536, R544). -/
def hssSign (n : Nat) (m : List Nat) : List Nat :=
  let u := n / 2 ^ treeHeight
  let sub := attTreeKey (u + 1)
  beBytes 4 1 ++ lmsSign 0 u sub ++ sub ++ lmsSign (u + 1) (n % 2 ^ treeHeight) m

/-! ## The identity block (R534) -/

/-- KIND of a die (R14, R534): 0 compute, 1 HBM4, 2 Bupol, 3 DDR5, 4 CXL, 5 pith, 6 root. -/
def dieKind (i : Nat) : Nat :=
  if i = 0 then 0 else if i ≤ 40 then 1 else if i ≤ 52 then 2 else if i ≤ 58 then 3 else if i ≤ 60 then 4 else if i ≤ 62 then 5 else 6

/-- Register `n` of the die records as manufactured: DIE, KIND, the compute die's zero place and the reserved zeros; LOT, WAFER from 1 to 25, WX and
WY are set at manufacture (log 34). -/
def dieReg (n : Nat) : Nat :=
  let v := (Config.identity n).toNat
  let i := (n - 8) / 4
  match (n - 8) % 4 with
  | 0 => v
  | 1 => 1 + bitsOf v 0 16 % 25 + (if i = 0 then 0 else bitsOf v 16 32 * 2 ^ 16) + i * 2 ^ 48 + dieKind i * 2 ^ 56
  | _ => 0

/-- Register `n` of the compute-die extension of value `v` (R535): OX and OY, the rotation in quarter turns, and the test maps, with LEAK 0 to 7 and
a reserved byte. -/
def extReg (n v : Nat) : Nat :=
  if n = 264 then v else if n = 265 then v % 4 else bitsOf v 0 16 + bitsOf v 16 3 * 2 ^ 16 + bitsOf v 24 32 * 2 ^ 24

/-- DIEHASH: SHA-256 over the 64 die records. -/
def dieHash : List Nat := hashBytes ((List.range 256).flatMap fun i => leBytes 8 (dieReg (8 + i)))

/-- Register `n` of the identity block as manufactured: ORDER, STEPPING, DIEHASH and the die records as R534 gives them; the rest is set at
manufacture (log 34). -/
def madeReg (n : Nat) : Nat :=
  let v := (Config.identity n).toNat
  if Config.identLen.toNat ≤ 8 * n then 0
  else if n = 2 then 0x413633572D45554D
  else if n = 3 then bitsOf v 32 32 * 2 ^ 32 + 0xA1
  else if 4 ≤ n ∧ n < 8 then leAt dieHash (8 * (n - 4)) 8
  else if 8 ≤ n ∧ n < 264 then dieReg n
  else if n < 302 then extReg n v
  else v

/-- Length of the identity block in bytes, and its byte `n`: that of manufacture, or that which recovery has installed (R534, R541). -/
def identBytes (s : State) : Nat := match s.trs.ident with | some l => l.length | none => Config.identLen.toNat
def identByte (s : State) (n : Nat) : Nat :=
  match s.trs.ident with | some l => l.getD n 0 % 256 | none => bitsOf (madeReg (n / 8)) (8 * (n % 8)) 8

/-- Register `n` of the identity block. -/
def identReg (s : State) (n : Nat) : BitVec 64 :=
  BitVec.ofNat 64 (leAt ((List.range 8).map fun i => identByte s (8 * n + i)) 0 8)

/-- The bytes of the identity block. -/
def identBlock (s : State) : List Nat := (List.range (identBytes s)).map (identByte s)

/-! ## Signed objects: 0 firmware image, 1 identity block, 2 base record -/

/-- Bytes of a signature and of a header. -/
def sigLen : Nat := 3604
def headLen : Nat := 128

/-- KEYSLOT, BODYLEN and BODYHASH of an object's header; the spec lays out no header of an identity block (R387, R538; log 161). -/
def objSlot (obj : Nat) (h : List Nat) : Nat := if obj = 0 then leAt h 9 1 else if obj = 2 then leAt h 64 1 else Config.identHead 0 h
def objLen (obj : Nat) (h : List Nat) : Nat := if obj = 0 then leAt h 24 4 else if obj = 2 then leAt h 28 4 else Config.identHead 1 h
def objHash (obj : Nat) (h : List Nat) : Nat := if obj = 1 then Config.identHead 2 h else beNat (partOf h 32 32)

/-- SVN, SVNFLOOR, VERSION and REVOKE of a firmware image, GEN and NENT of a base record. -/
def imgSvn (h : List Nat) : Nat := leAt h 12 4
def imgFloor (h : List Nat) : Nat := leAt h 16 4
def imgVersion (h : List Nat) : BitVec 32 := BitVec.ofNat 32 (leAt h 20 4)
def imgRevoke (h : List Nat) : BitVec 4 := BitVec.ofNat 4 (leAt h 64 1)
def baseGenOf (h : List Nat) : Nat := leAt h 4 4

/-- The reserved bytes of a header are zero. -/
def reservedZero (obj : Nat) (h : List Nat) : Bool :=
  obj == 1 || ((partOf h 65 63).all (· == 0) && (obj == 2 || (partOf h 10 2).all (· == 0)))

/-- MAGIC, and the FORMAT of an image, are those of the object. -/
def magicOk (obj : Nat) (h : List Nat) : Bool :=
  obj == 1 || (if obj = 0 then leAt h 0 4 == 0x57464D56 && leAt h 4 2 == 1 else leAt h 0 4 == 0x594D4150)

/-- An image is for this part and stepping; a base record names this module's serial number (R539, R541). -/
def partMatches (s : State) (obj : Nat) (h : List Nat) : Bool :=
  if obj = 0 then leAt h 6 2 == 0x0036 && leAt h 8 1 == 0xA1
  else obj == 1 || partOf h 8 16 == (List.range 16).map (identByte s)

/-- The public key that the object carries is that of its vendor key slot, and the signature over its header verifies under it (R537, R538). The
place where an object carries its key is open (log 162). -/
def sigVerifies (obj : Nat) (h : List Nat) : Bool :=
  let key := partOf h (Config.keyAt obj) 60
  decide (objSlot obj h < 4) && hashBytes key == beBytes 32 (Config.vendorKey (objSlot obj h)).toNat &&
    hssVerify key (partOf h 0 headLen) (partOf h headLen sigLen)

/-- RECSTAT codes (R542). -/
def rsIdle : Nat := 0x00
def rsReceiving : Nat := 0x01
def rsVerifying : Nat := 0x02
def rsWriting : Nat := 0x03
def rsDone : Nat := 0x04
def rsFormat : Nat := 0x10
def rsSignature : Nat := 0x11
def rsRevoked : Nat := 0x12
def rsRollback : Nat := 0x13
def rsPart : Nat := 0x14
def rsFlash : Nat := 0x15

/-- Verdict of the boot ROM on a header with its signature: 0, or an error code of R542 (R387, R537, R539, R541). -/
def headerVerdict (s : State) (obj : Nat) (h : List Nat) : Nat :=
  if !magicOk obj h || !reservedZero obj h then rsFormat
  else if !partMatches s obj h then rsPart
  else if bitOf s.trs.keyRev.toNat (objSlot obj h) then rsRevoked
  else if !sigVerifies obj h then rsSignature
  else if obj = 0 ∧ imgSvn h < s.trs.minSvn then rsRollback
  else if obj = 2 ∧ baseGenOf h < s.yld.baseGen then rsRollback
  else 0

/-- The body hashes to BODYHASH (R539, R541). -/
def bodyMatches (obj : Nat) (o : SignedObj) : Bool := (sha256 o.body).toNat == objHash obj o.head

/-- An object in flash still passes: one that recovery has installed by its bytes, that of manufacture as the command says (log 163). -/
def objPasses (s : State) (obj : Nat) (o : Option SignedObj) : Bool :=
  match o with
  | none => true
  | some x => headerVerdict s obj x.head == 0 && bodyMatches obj x

/-- The firmware measurement of an image: SHA-256 of its header and body (R539). -/
def imgHash (o : SignedObj) : BitVec 256 := sha256 (partOf o.head 0 headLen ++ o.body)

/-! ## The yield map in flash -/

/-- The bytes of a yield-map entry (R389). -/
def entryBytes (e : YEnt) : List Nat := leBytes 1 e.kind ++ [0] ++ leBytes 2 e.unit ++ leBytes 4 e.loc ++ leBytes 8 e.value ++ List.replicate 16 0

/-- The entry that 32 bytes hold. -/
def entryOf (l : List Nat) : YEnt := { kind := leAt l 0 1, unit := leAt l 2 2, loc := leAt l 4 4, value := leAt l 8 8 }

/-- The manufacturing entries of a base record; the spec does not say where in its body they stand (R386, R387; log 164). -/
def baseEntries (o : SignedObj) : List YEnt :=
  (List.range (leAt o.head 24 4)).map fun i => entryOf (partOf o.body (Config.entriesAt (baseGenOf o.head) + 32 * i) 32)

/-- Bytes 0 to 2,111 of extension record `n` with the hash of the record before it (R388). -/
def recordBytes (n : Nat) (r : ExtRec) (prev : List Nat) : List Nat :=
  leBytes 4 n ++ leBytes 2 r.ents.length ++ [0, 0] ++ leBytes 4 r.boot ++ List.replicate 20 0 ++ prev ++ r.ents.flatMap entryBytes ++
    List.replicate (32 * (64 - r.ents.length)) 0

/-- The hash of the base record in force: header, signature and body, or that of manufacture (log 33). -/
def baseHash (y : Yield) : List Nat :=
  match y.baseObj with
  | some o => hashBytes (partOf o.head 0 (headLen + sigLen) ++ o.body)
  | none => beBytes 32 (Config.measured 3 [y.baseGen]).toNat

/-- The hash of the last of the records, each of which holds that of the one before (R388, R545). -/
def mapHash (y : Yield) : List Nat := (y.ext.zipIdx 1).foldl (fun prev e => hashBytes (recordBytes e.2 e.1 prev)) (baseHash y)

/-- The signature of the last of the records, over its bytes 0 to 2,111 (R388): made with the index that its record holds. -/
def recordSig (y : Yield) : List Nat :=
  match y.ext.getLast? with
  | none => []
  | some r => hssSign r.sig (recordBytes y.ext.length r (mapHash { y with ext := y.ext.dropLast }))

end Sys2Proof.Machine
end

