-- ==== Sys2Proof/Machine/BringUp.lean ====
section
/-! DEFINITION. Bring-up (20, 14 R391, 21 R539 to R546): power-on, the end of a module reset, and the phases that follow. What the
hardware finds is the plan that the command brings; a phase that another command interrupts runs on a step with an empty queue (log 3). -/

namespace Sys2Proof.Machine

/-! ## Phases 1 to 3 -/

/-- Failure codes of R532. -/
def fcFirmware : Nat := 1
def fcBase : Nat := 2
def fcPith : Nat := 3
def fcNear : Nat := 4
def fcField : Nat := 5

/-- Bring-up has failed in a phase (R531, R532). -/
def failBring (s : State) (phase code : Nat) : State :=
  { s with brg := { s.brg with st := 2, phase := phase, fail := code, plan := none } }

/-- The CXL ports whose PERST# is deasserted train (R523). -/
def trainCxl (s : State) (pl : BringPlan) : State := portIn (portIn s 0 (cxlRate pl.cxl0)) 1 (cxlRate pl.cxl1)

/-- Recovery begins in place of phase 3: both pith chiplets stay in reset, and the function presents what R466 lists (R520, R540). -/
def enterRecovery (s : State) (pl : BringPlan) : State :=
  trainCxl { s with trs := { s.trs with recovery := true, recNext := false, fwver := 0, keySlot := 0 } } pl

/-- A pith chiplet is recorded PITH (R390). -/
def pithBad (s : State) (k : Nat) : Bool := (yieldEntries s.yld).any fun e => e.kind == ykPith && e.unit == 61 + k

/-- The extension records that are read at boot: those before the first whose signature or PREV fails; a base record that does not verify
leaves no yield map (R391, R520). -/
def readRecords (s : State) (pl : BringPlan) : State :=
  match pl.badRec with
  | some n => if n < s.yld.ext.length then { s with yld := { s.yld with ext := s.yld.ext.take n, truncated := true } } else s
  | none => s

/-- INPUT_FAIL is logged as the first record of a start, with class DEVICE, and does not take the module to its safe state (R471, R549). -/
def logInputFail (s : State) : State :=
  if !s.brg.logFail then s
  else
    let s := { s with brg := { s.brg with logFail := false } }
    match freeRec s with
    | some i => putRec s i (recOf s (mkEvent pithAddr (floorN s) 0x03E0 0 0 7 0 0) .none 3 0 0 false false)
    | none => s

/-! ## Phases 4 and 5 -/

/-- Whole GiB of the mirror window: the highest 30 % of the in-service near tier (R546). -/
def windowGib (c : Nat) : Nat := c * 2250000000 * 3 / 10 / 2 ^ 30

/-- The near tier after phase 5: C with the map and the mirror window, or, with a sealed slice kept, all as they were, where a channel that
does not train reads bruised (R277, R527, R528, R546). -/
def bringNear (s : State) (pl : BringPlan) : State :=
  if s.brg.warm then
    let bad := pl.found.filter fun e => e.kind == ykChannel
    { s with
      mem := { s.mem with chan := bad.foldl (fun t e => tabPut 0 (32 * (e.unit - 1) + e.loc) 3 t) s.mem.chan, selfRefresh := false }
      yld := { s.yld with slow := pl.slowStk
                          lost := bad.foldl (fun l e => l ||| BitVec.ofNat 64 (2 ^ (e.unit - 1))) s.yld.lost
                          due := bad.foldl (fun l e => addNew e l) s.yld.due } }
  else
    let c := min pl.channels ((List.range 40).map fun st => (stackChannels s st).length).sum
    let top := c * chanBlocks * 4096
    { s with
      mem := { chan := [], selfRefresh := false }
      yld := { s.yld with nchan := c, slow := pl.slowStk, lost := pl.lostCh }
      trs := { s.trs with winHi := top, winLo := top - windowGib c * 2 ^ 30, winFixed := true } }

/-- The far tier: the population that passed, none where it is not supported, which raises FAR_POPULATION (R280, R385, R396). -/
def bringFar (s : State) (pl : BringPlan) : State :=
  let pop := if pl.farBad || !(pl.farPop == 12 || pl.farPop == 24) then 0 else pl.farPop
  let s := { s with yld := { s.yld with farPop := pop, farRate := if pop = 0 then 0 else pl.farRate } }
  if pl.farBad then raiseDie s 53 0x000A 0 0 0 else s

/-- The Bupol ports that qualify, with the reach set for each (R421, R523, R525). -/
def bringPorts (s : State) (pl : BringPlan) : State :=
  { s with bup := { s.bup with
      port := (List.range 48).foldl (fun t p => tabPut {} p { up := bupolPort (pl.ports.getD p []), reach := bitOf pl.reach.toNat p } t) [] } }

/-! ## Phases 6 and 7 -/

/-- What is found is recorded, a record for each field (R530); near-tier channels of a warm start stand in `due`. -/
def recordFound (s : State) (pl : BringPlan) : State :=
  let fields := (List.range 36).map fun f => pl.found.filter (fieldEntry f)
  let others := pl.found.filter fun e => !((List.range 36).any fun f => fieldEntry f e) && !(s.brg.warm && e.kind == ykChannel)
  ((fields ++ [others]).flatMap inRecords).foldl commitRecord s

/-- The mapping in force by every entry of the yield map (R383, R391). -/
def applyMap (s : State) : State := (yieldEntries s.yld).foldl applyEntry s

/-- A field after self-test (R20, R529, R530): one that was FENCED leaves that state if it passes; one with a core narrower than 48 lanes loses
the bunch, and one short of units is retired. -/
def testField (pl : BringPlan) (s : State) (f : Nat) : State :=
  let s := modField s f fun x =>
    let fenced := x.cond.fenced && pl.fenceFails.contains f
    { x with cond := { x.cond with fenced := fenced, fcause := if fenced then x.cond.fcause else 0, dead := fenced,
                                   atSpeed := x.pow.low && !fenced && !x.cond.retired }
             pow := { x.pow with setpoint := 0 }
             net := { x.net with clamped := fenced || x.cond.retired } }
  let narrow := (narrowSites s f).map fun i => { kind := ykSite, unit := f, loc := i, value := 5 : YEnt }
  let short := match shortField s f with | some c => [{ kind := ykRetired, unit := f, loc := 0, value := c : YEnt }] | none => []
  let new := (narrow ++ short).filter fun e => !(yieldEntries s.yld).contains e
  new.foldl applyEntry ((inRecords new).foldl commitRecord s)

/-- A phase has ended, and the next is in progress: firmware updates the report with what is known by now (R518, R532). -/
def phaseEnd (s : State) (pl : BringPlan) : State :=
  let n := s.brg.phase
  let b := { s.brg with phase := min 7 (n + 1), times := pl.times.take n, rseq := s.yld.ext.length }
  let b := if n < 5 then b else
    { b with laneSub := pl.laneSub, wireSub := pl.wireSub, chSpare := pl.chSpare, chLost := pl.chLost
             rowRep := (pl.found.filter fun e => e.kind == ykRow).length + pl.rowRep
             pdown := ((List.range 48).filter fun p => !(portOf s p).up).length }
  let b := if n < 6 then b else
    { b with sites := (pl.found.filter fun e => e.kind == ykSite).length, fout := ((List.range 36).filter (fieldGone s)).length }
  { s with brg := if n < 7 then b else { b with tready := (pl.times.drop 1).sum } }

/-- Ready is declared, or bring-up fails with the first code that applies (R484, R531): the capacity map is written with GEN 1, and the
efficiency profile stands with a host cap of 15.0 kW, where CAPMAX allows it, and a tray cap of 24.0 kW (R478). Fewer than 4 good converters raise
CONVERTER_SHORTAGE (R385). -/
def declareReady (s : State) : State :=
  let s := { s with yld := { s.yld with gen := 1 }, clk := { s.clk with hostCap := min (profileCap true) (capMax s), trayCap := 480 } }
  let k := min 24 (maxK s)
  let cap := max 120 (effCap s)
  let s := { s with clk := { s.clk with eff := true, effStaged := true, k := k, kStaged := k, cap := cap, capStaged := cap
                                        rindCap := (List.range 60).foldl (fun t i => tabPut 0 (i + 1) cap t) []
                                        rindEff := (List.range 60).foldl (fun t i => tabPut false (i + 1) true t) [] } }
  let s := if goodConv s < 4 then raiseSloe s 0x03E1 0 else s
  if s.yld.nchan = 0 then failBring s 7 fcNear
  else if (List.range 36).all (fieldGone s) then failBring s 7 fcField
  else { s with brg := { s.brg with st := 1, phase := 7, plan := none } }

/-! ## Phase by phase -/

/-- Phase 2: the boot ROM verifies the image and the base record and seals the guard limits; where the image passes and no recovery is asked for,
it picks the chiplet to start (R518, R519, R520, R539, R540, R546). -/
def bootVerify (s : State) (pl : BringPlan) : State :=
  let rec_ := s.trs.recNext
  let key := match s.trs.image with | some x => objSlot 0 x.head | none => pl.keySlot.toNat
  let ver := match s.trs.image with | some x => imgVersion x.head | none => pl.fwVersion
  let s := { s with trs := { s.trs with sealed_ := true, recovery := false, keySlot := BitVec.ofNat 2 key, fwver := ver, entOk := pl.entOk
                                        attOk := decide (s.trs.sigNext < 2 ^ 40) } }
  let pl := { pl with baseOk := pl.baseOk && objPasses s 2 s.yld.baseObj }
  if !(pl.fwOk && s.trs.slotOk && !bitOf s.trs.keyRev.toNat key && objPasses s 0 s.trs.image) then enterRecovery (failBring s 2 fcFirmware) pl
  else if rec_ then enterRecovery { s with brg := { s.brg with plan := none } } pl
  else
    let k := b2n (pl.baseOk && pithBad s 0)
    phaseEnd { s with brg := { s.brg with plan := some pl }, pith := { s.pith with active := k } } pl

/-- The chiplet that the boot ROM has started reports running in time (R519). -/
def pithReports (s : State) (pl : BringPlan) : Bool := if s.pith.active = 0 then pl.k0Ok else pl.k1Ok

/-- No pith chiplet is left (R28, R519, R531). -/
def noPith (s : State) (pl : BringPlan) : State :=
  pithGone (failBring (trainCxl s pl) 3 (if pl.baseOk then fcPith else fcBase))

/-- Phase 3: the chiplet that was started reports, reads the extension records and loads the standby; one that does not is waited for; without
a base record bring-up fails (R391, R519, R520). -/
def startPith (s : State) (pl : BringPlan) : State :=
  let k := s.pith.active
  let other := if k = 0 then pl.k1Ok else pl.k0Ok
  if pl.baseOk && pithBad s 0 && pithBad s 1 then noPith s pl
  else if !pithReports s pl then s
  else
    let s := readRecords s pl
    let s := { s with pith := { s.pith with running := true, takeover := false, wrote := true, lost := false, standby := other && !pithBad s (1 - k) } }
    let s := logInputFail s
    if !pl.baseOk then failBring (trainCxl s pl) 3 fcBase else phaseEnd s pl

/-- A phase starts with the fields that are FENCED now: of those that a trip or a short fences while it runs, none returns (R20, R533). -/
def keepFenced (s : State) (pl : BringPlan) : BringPlan :=
  { pl with fenceFails := (List.range 36).filter fun f => !(fieldOf s f).cond.fenced || pl.fenceFails.contains f }

/-- Phase 5: ports, wires and tiers are qualified and initialised (R523 to R528). -/
def qualify (s : State) (pl : BringPlan) : State :=
  let pl := keepFenced s pl
  let s := phaseEnd (trainCxl (bringPorts s pl) pl) pl
  { s with brg := { s.brg with plan := some pl } }

/-- Phase 6: what is found is recorded, every field is remapped and tested (R529, R530). -/
def selfTest (s : State) (pl : BringPlan) : State :=
  phaseEnd ((List.range 36).foldl (testField pl) (refreshLow (applyMap (recordFound s pl)))) pl

/-- The phase in progress runs to its end; what a phase does stands at its end, so that one which is cut short starts again (R518, R533). -/
def phaseRun (s : State) : State :=
  match s.brg.plan with
  | none => s
  | some pl =>
    match s.brg.phase with
    | 1 => phaseEnd s pl
    | 2 => bootVerify s pl
    | 3 => startPith s pl
    | 4 => phaseEnd (bringFar (bringNear s pl) pl) pl
    | 5 => qualify s pl
    | 6 => selfTest s pl
    | _ => declareReady (phaseEnd s pl)

/-- A phase runs, unless the plan has the next command come while it is in progress. -/
def phaseOrPause (s : State) : State := if (s.brg.plan.bind (·.pause)) == some s.brg.phase then s else phaseRun s

/-- Bring-up runs to its outcome, to a pith chiplet that does not report, or to the phase in which the next command comes (R518). -/
def bringRun (s : State) : State :=
  let s := (List.range 7).foldl (fun t _ => phaseOrPause t) s
  { s with brg := { s.brg with plan := s.brg.plan.map fun pl => { pl with pause := none } } }

/-- What holds bring-up where it is: a reset, a reference that is not qualified, the safe state, a takeover in progress (R518, R533). -/
def bringWaits (s : State) : Bool :=
  s.brg.st != 0 || !s.inp.main || s.inp.held || !s.inp.refOk || s.trs.safe || s.pith.takeover

/-- A phase that the next command has interrupted runs, on a step with an empty queue (R533; DESIGN CHOICE, log 3). -/
def bringPhase (s : State) : State := if bringWaits s then s else phaseRun s

/-- Bring-up runs from a phase, by what it will find (R513, R518, R541). -/
def bringFrom (s : State) (n : Nat) (pl : BringPlan) : State :=
  bringRun { s with brg := { s.brg with st := 0, phase := n, fail := 0, plan := some pl }, trs := { s.trs with recovery := false } }

/-- Bring-up from phase 1, in which the reference is qualified; a forced state that continues is in force from the start (R506, R513, R516,
R518). -/
def bringUp (s : State) (pl : BringPlan) : State :=
  bringFrom (refreshLow { s with inp := { s.inp with main := true, held := false, refOk := s.inp.refOk || pl.pause != some 1 } }) 1 pl

/-! ## Commands -/

/-- POWER_ON: the 72 V input rises into range while the sloe domain is unpowered; bring-up follows (R470, R512, R518). -/
def powerOn (s : State) (pl : BringPlan) : State :=
  if s.inp.sloe then s
  else
    let s := coldState s
    bringUp { s with inp := { sloe := true }, yld := { s.yld with boots := s.yld.boots + 1 } } pl

def execPowerOn (plan : BringPlan) (s : State) : Host.Outcome State Fault Refusal := .next (powerOn s plan)

/-- SYS_RST_N_RELEASE: SYS_RST_N is deasserted, or the least time in reset has passed, and the boot ROM starts bring-up (R513). -/
def sysRstNRelease (s : State) (pl : BringPlan) : State :=
  let s := { s with inp := { s.inp with sysRst := false } }
  if !s.inp.main || !s.inp.held then s else bringUp s pl

def execSysRstNRelease (plan : BringPlan) (s : State) : Host.Outcome State Fault Refusal := .next (sysRstNRelease s plan)

/-- PITH_START_TIMEOUT: the chiplet that was started is recorded PITH, and the boot ROM starts the other (R519). -/
def pithStartTimeout (s : State) : State :=
  match s.brg.plan with
  | none => s
  | some pl =>
    if s.brg.st != 0 || !s.inp.main || s.inp.held || s.brg.phase != 3 || pithReports s pl then s
    else
      let k := s.pith.active
      let s := commitRecord s [{ kind := ykPith, unit := 61 + k, loc := 0, value := 0 }]
      if k = 0 ∧ !(pl.baseOk && pithBad s 1) then bringRun { s with pith := { s.pith with active := 1 } } else noPith s pl

def execPithStartTimeout (s : State) : Host.Outcome State Fault Refusal := .next (pithStartTimeout s)

end Sys2Proof.Machine
end

