-- ==== Sys2Proof/Machine/Bupol.lean ====
section
/-! DEFINITION. The commands of the Bupol ports and partner contexts (16). -/

namespace Sys2Proof.Machine

/-! ## Ports -/

def execLinkFrame (port : Fin 48) (fr : Frame) (s : State) : Host.Outcome State Fault Refusal := .next (linkFrame s port fr)

def execFrameSend (port : Fin 48) (s : State) : Host.Outcome State Fault Refusal := .next (frameSend s port)

/-- ACK_TIMEOUT: with frames outstanding, the port retrains (R427). -/
def ackTimeout (s : State) (p : Fin 48) : State := if (portOf s p).unacked.isEmpty then s else startRetrain s p

def execAckTimeout (port : Fin 48) (s : State) : Host.Outcome State Fault Refusal := .next (ackTimeout s port)

/-- BER_WINDOW: the pre-FEC bit error rate makes the port retrain (R427). -/
def execBerWindow (port : Fin 48) (s : State) : Host.Outcome State Fault Refusal := .next (startRetrain s port)

/-- LANE_LOCK_LOSS: the port retrains (R427). -/
def execLaneLockLoss (port : Fin 48) (s : State) : Host.Outcome State Fault Refusal := .next (startRetrain s port)

/-- Failed transceivers of chiplet `n`, of 18. -/
def badLanes (s : State) (n : Nat) : List Nat := tabGet [] s.bup.lanes n

/-- A failed transceiver is due in the yield map; LANE_SPARED where a spare takes its place (R428, R429, R452). -/
def failLane (p : Fin 48) (s : State) (l : Fin 18) : State :=
  let n := p.val / 4
  if (badLanes s n).contains l.val then s
  else
    let s := dueEntry s { kind := 6, unit := 41 + n, loc := l, value := 0 }
    let s := { s with bup := { s.bup with lanes := tabMod [] n (· ++ [l.val]) s.bup.lanes } }
    if (badLanes s n).length ≤ 2 then raiseDie s (41 + n) 0x00D0 0 0 0 else s

/-- RETRAIN: spare lanes are substituted, and the port is trained and qualified; it returns to service, or stays down with PORT_DOWN
(R429, R430); one that finds a failed lane with no spare left stays down (R382). A PORT_RETRAIN that waits completes (R462). -/
def retrain (s : State) (p : Fin 48) (bad : List (Fin 18)) (lanes : List LaneTest) : State :=
  if !(portOf s p).training then s
  else
    let fresh := bad.any fun l => !(badLanes s (p.val / 4)).contains l.val
    let s := bad.foldl (failLane p) s
    let ok := bupolPort lanes && (!fresh || decide ((badLanes s (p.val / 4)).length ≤ 2)) && !tabGet false s.dom.rindOut (41 + p.val / 4)
    let s := modPort s p fun x => { x with training := false, up := ok }
    let s := if ok then bumpGen s else raiseDie s (41 + p.val / 4) 0x01D0 0 0 0
    (s.cxl.cmds.filter fun c => c.begun && c.opc == 0x1B && c.arg0.toNat == p.val).foldl (fun t c => finishCmd t c stOk id) s

def execRetrain (port : Fin 48) (bad : List (Fin 18)) (lanes : List LaneTest) (s : State) : Host.Outcome State Fault Refusal :=
  .next (retrain s port bad lanes)

/-! ## Requests of the partner -/

/-- The blocks that RD_REQ asks for, each with what it reaches (R439, R441). -/
def readParts (s : State) (m : BupMsg) : List (Nat × Inbound) :=
  (List.range (bitsOf m.args.toNat 0 8 + 1)).map fun i => (i, inbound s m.dctx (m.addr + 4096 * i) 4096 4 false)

/-- RD_REQ: one RD_RSP for each block, with its CHECK and BMASK; FAILED for all of them when any is denied; a page not present only
delays the answer (R439, R441, R442). -/
def rdReq (s : State) (p : Fin 48) (m : BupMsg) : State :=
  let parts := readParts s m
  if parts.any fun e => decide (e.2 = .absent) then s
  else
    match acceptMsg s p m with
    | none => s
    | some s =>
      let denied := decide (16 < parts.length) || m.addr % 4096 != 0 || parts.any fun e => decide (e.2 = .denied)
      let s := if denied then denyRemote s m.dctx else s
      parts.foldl
        (fun t e =>
          match e.2 with
          | .ok pte a =>
            ctxSend t m.dctx tyRdRsp fun r =>
              { r with addr := m.addr + 4096 * e.1, rtag := m.rtag, failed := denied, args := BitVec.ofNat 152 e.1,
                       body := if denied then default else inboundRead t pte a }
          | _ => ctxSend t m.dctx tyRdRsp fun r => { r with addr := m.addr, rtag := m.rtag, failed := true, args := BitVec.ofNat 152 e.1 }) s

def execRdReq (port : Fin 48) (m : BupRaw) (s : State) : Host.Outcome State Fault Refusal := .next (onType tyRdReq m s (rdReq s port))

/-- WR: the block is written to the tier as it stands, in CSEQ order; WR_ACK takes its credit back (R439, R441, R442, R443). -/
def bupWr (s : State) (p : Fin 48) (m : BupMsg) : State :=
  match inbound s m.dctx m.addr 4096 5 true with
  | .absent => s
  | r =>
    match acceptMsg s p m with
    | none => s
    | some s =>
      let shared := (ctxOf s m.dctx).held != 0
      let ack := fun (fail : Bool) (t : State) =>
        ctxSend t m.dctx tyWrAck fun a => { a with failed := fail, args := BitVec.ofNat 152 (m.cseq.toNat + 65536 * b2n (!shared)) }
      let s :=
        if shared then
          let s := modCtx s m.dctx fun c => { c with held := c.held - 1 }
          { s with bup := { s.bup with sharedUsed := s.bup.sharedUsed - 1 } }
        else s
      match r with
      | .ok pte a => if m.addr % 4096 = 0 then ack false (inboundWrite s pte a m.body) else ack true (denyRemote s m.dctx)
      | _ => ack true (denyRemote s m.dctx)

def execBupWr (port : Fin 48) (m : BupRaw) (s : State) : Host.Outcome State Fault Refusal := .next (onType tyWr m s (bupWr s port))

/-- ARM: a request flit is applied to a stream of the context's job, and ARM_ACK tells whether it was accepted (R441; log 23). -/
def bupArm (s : State) (p : Fin 48) (m : BupMsg) : State :=
  match acceptMsg s p m with
  | none => s
  | some s =>
    let c := ctxOf s m.dctx
    let r := bitsOf m.body.data.toNat 0 1024
    let f := Config.armField m.dctx m.addr r % 36
    let res := if c.rights.getLsbD 6 && hasWork s f c.asid && fieldRuns s f && reqOp r != 3 then requestStream s f r else none
    let ok := res.isSome
    let s := res.getD (if c.rights.getLsbD 6 then s else denyRemote s m.dctx)
    ctxSend s m.dctx tyArmAck fun a => { a with rtag := m.rtag, failed := !ok }

def execBupArm (port : Fin 48) (m : BupRaw) (s : State) : Host.Outcome State Fault Refusal := .next (onType tyArm m s (bupArm s port))

/-- BARRIER: the 8-byte word at ADDR takes the sum, after the earlier writes of the context (R441). -/
def bupBarrier (s : State) (p : Fin 48) (m : BupMsg) : State :=
  match inbound s m.dctx m.addr 8 7 true with
  | .absent => s
  | r =>
    match acceptMsg s p m with
    | none => s
    | some s =>
      let ack := fun (fail : Bool) (t : State) => ctxSend t m.dctx tyBarAck fun a => { a with rtag := m.rtag, failed := fail }
      match r with
      | .ok pte a =>
        if m.addr % 8 ≠ 0 then ack true (denyRemote s m.dctx)
        else if pteTarget pte = 0 then ack false (nearStore s a 8 ((nearRead s a 8 + bitsOf m.args.toNat 0 64) % 2 ^ 64) false)
        else ack false (farStore s a 8 ((farRead s a 8 + bitsOf m.args.toNat 0 64) % 2 ^ 64) false)
      | _ => ack true (denyRemote s m.dctx)

def execBupBarrier (port : Fin 48) (m : BupRaw) (s : State) : Host.Outcome State Fault Refusal := .next (onType tyBarrier m s (bupBarrier s port))

/-! ## Answers of the partner -/

/-- The outstanding request of a context with an identifier is answered: its key, and the state without it. -/
def answered (s : State) (x id : Nat) : Option (Nat × State) :=
  match (ctxOf s x).outst.find? fun e => e.1 == id with
  | none => none
  | some e => some (e.2, modCtx s x fun c => { c with outst := eraseFirst (fun y => y.1 == id) c.outst })

/-- RD_RSP: the block waits in the read part for its carrier channel; an answer for a transfer that is gone, or a FAILED one, frees
its read block (R443, R451). -/
def rdRsp (s : State) (p : Fin 48) (m : BupMsg) : State :=
  match acceptMsg s p m with
  | none => s
  | some s =>
    match answered s m.dctx m.rtag with
    | none => s
    | some (key, s) =>
      let s := modCtx s m.dctx fun c => { c with slots := c.slots + 1 }
      let gone := (xferOf s (key / 2048) (key % 2048)).isNone
      let s := if gone || m.failed then { s with bup := { s.bup with readUsed := s.bup.readUsed - 1 } } else s
      settleCtx (modXfer s (key / 2048) (key % 2048) fun t => { t with body := some (if m.failed then failedBlock else m.body) }) m.dctx

def execRdRsp (port : Fin 48) (m : BupRaw) (s : State) : Host.Outcome State Fault Refusal := .next (onType tyRdRsp m s (rdRsp s port))

/-- WR_ACK: the write is in the partner's tier, or FAILED; reserve credits come back (R441, R443). -/
def wrAck (s : State) (p : Fin 48) (m : BupMsg) : State :=
  match acceptMsg s p m with
  | none => s
  | some s =>
    let s := modCtx s m.dctx fun c => { c with resCred := min c.reserve (c.resCred + bitsOf m.args.toNat 16 8) }
    match answered s m.dctx (bitsOf m.args.toNat 0 16) with
    | none => s
    | some (key, s) =>
      let done := fun (t : Transfer) =>
        { t with landed := true, body := t.body.map fun b => if m.failed then { b with failed := true } else b }
      settleCtx (modXfer s (key / 2048) (key % 2048) done) m.dctx

def execWrAck (port : Fin 48) (m : BupRaw) (s : State) : Host.Outcome State Fault Refusal := .next (onType tyWrAck m s (wrAck s port))

/-- The answer to a request that holds a slot and no transfer (R443). -/
def slotAnswer (s : State) (p : Fin 48) (m : BupMsg) : State :=
  match acceptMsg s p m with
  | none => s
  | some s =>
    match answered s m.dctx m.rtag with
    | none => s
    | some (_, s) => settleCtx (modCtx s m.dctx fun c => { c with slots := c.slots + 1 }) m.dctx

/-- ARM_ACK: the answer to an arm request of this module frees its request slot (R441, R443). -/
def execArmAck (port : Fin 48) (m : BupRaw) (s : State) : Host.Outcome State Fault Refusal := .next (onType tyArmAck m s (slotAnswer s port))

/-- BAR_ACK: the answer to a barrier add of this module frees its request slot (R441, R443). -/
def execBarAck (port : Fin 48) (m : BupRaw) (s : State) : Host.Outcome State Fault Refusal := .next (onType tyBarAck m s (slotAnswer s port))

/-! ## Credits -/

/-- CREDIT: the sender holds more shared credits (R444, R446). -/
def credit (s : State) (p : Fin 48) (m : BupMsg) : State :=
  match acceptMsg s p m with
  | none => s
  | some s => modCtx s m.dctx fun c => { c with shCred := c.shCred + bitsOf m.args.toNat 0 16 }

def execCredit (port : Fin 48) (m : BupRaw) (s : State) : Host.Outcome State Fault Refusal := .next (onType tyCredit m s (credit s port))

/-- CREDIT_RET: unused grants return to the shared part (R444, R446). -/
def creditRet (s : State) (p : Fin 48) (m : BupMsg) : State :=
  match acceptMsg s p m with
  | none => s
  | some s =>
    let n := min (bitsOf m.args.toNat 0 16) (ctxOf s m.dctx).held
    let s := modCtx s m.dctx fun c => { c with held := c.held - n }
    { s with bup := { s.bup with sharedUsed := s.bup.sharedUsed - n } }

def execCreditRet (port : Fin 48) (m : BupRaw) (s : State) : Host.Outcome State Fault Refusal := .next (onType tyCreditRet m s (creditRet s port))

/-- The grant that context `x` would get (R446). -/
def grantFor (s : State) (x : Nat) : Nat :=
  let c := ctxOf s x
  if c.st = .open_ then min (min 8 (c.gmax - c.held)) (min c.demand (sharedFree s)) else 0

/-- CREDIT_GRANT: the next context after the last one served, round robin, that demands and may hold more (R446). -/
def creditGrant (s : State) : State :=
  match ((List.range 4096).map fun i => (s.bup.lastServed + 1 + i) % 4096).find? fun x => grantFor s x != 0 with
  | none => s
  | some x =>
    let g := grantFor s x
    let s := modCtx s x fun c => { c with held := c.held + g }
    let s := { s with bup := { s.bup with sharedUsed := s.bup.sharedUsed + g, lastServed := x } }
    ctxSend s x tyCredit fun m => { m with args := BitVec.ofNat 152 g }

def execCreditGrant (s : State) : Host.Outcome State Fault Refusal := .next (creditGrant s)

/-- CREDIT_IDLE_TIMEOUT: with nothing queued, the sender returns its unused shared credits (R444). -/
def creditIdleTimeout (s : State) (x : Fin 4096) : State :=
  let c := ctxOf s x
  if c.st ≠ .open_ ∨ c.shCred = 0 ∨ demandOf s x + (c.outst.filter fun e => decide (e.1 < 65536)).length ≠ 0 then s
  else ctxSend (modCtx s x fun c => { c with shCred := 0 }) x tyCreditRet fun m => { m with args := BitVec.ofNat 152 c.shCred }

def execCreditIdleTimeout (ctx : Fin 4096) (s : State) : Host.Outcome State Fault Refusal := .next (creditIdleTimeout s ctx)

/-! ## Opening and closing -/

/-- A message that belongs to no open context, to the endpoint and context that asked (R445). -/
def answerTo (s : State) (m : BupMsg) (ty : Nat) : State :=
  match ctxPort s m.src.toNat m.dctx with
  | none => s
  | some q =>
    enqueue s q (msgClass ty) (msgCells ty) m.dctx m.src fun id =>
      .bupol id q (rawMsg ty { dst := m.src, src := s.bup.epId, dctx := m.sctx, sctx := m.dctx, cseq := 0, failed := true })

/-- CTX_OPEN_MSG: a remote end asks for the context; the answer is CTX_OPEN_ACK where this end's host has opened the same pair of
contexts and its reserve fits, else FAILED (R437, R445). -/
def ctxOpenMsg (s : State) (p : Fin 48) (m : BupMsg) : State :=
  let c := ctxOf s m.dctx
  let same := m.src == c.remote && m.sctx.val == c.rctx
  if !arrives s p m then s
  else if (c.st == .opening || c.st == .open_) && same then
    if 8192 < reserveSum s then answerTo (failCtx s m.dctx cauReserve) m tyCtxOpenAck
    else ctxSend (modCtx s m.dctx fun c => { c with rxSeq := m.cseq + 1 }) m.dctx tyCtxOpenAck id
  else answerTo s m tyCtxOpenAck

def execCtxOpenMsg (port : Fin 48) (m : BupRaw) (s : State) : Host.Outcome State Fault Refusal := .next (onType tyCtxOpen m s (ctxOpenMsg s port))

/-- CTX_OPEN_ACK: the context becomes OPEN, with the credits of its reserve and 8 request slots, or FAILED (R437, R443, R445; log 22). -/
def ctxOpenAck (s : State) (p : Fin 48) (m : BupMsg) : State :=
  let c := ctxOf s m.dctx
  if !arrives s p m || c.st != .opening || m.src != c.remote || m.sctx.val != c.rctx then s
  else if m.failed then failCtx s m.dctx cauRefused
  else
    finishCtxCmd
      (modCtx s m.dctx fun c => { c with st := .open_, rxSeq := m.cseq + 1, resCred := c.reserve, shCred := 0, slots := 8, demand := m.demand })
      m.dctx 0x18 stOk

def execCtxOpenAck (port : Fin 48) (m : BupRaw) (s : State) : Host.Outcome State Fault Refusal := .next (onType tyCtxOpenAck m s (ctxOpenAck s port))

/-- CTX_CLOSE_MSG: the remote end closes the context; it is CLOSED here once its transfers have finished (R437, R451). -/
def ctxCloseMsg (s : State) (p : Fin 48) (m : BupMsg) : State :=
  match acceptMsg s p m with
  | none => s
  | some s => settleCtx (modCtx s m.dctx fun c => { c with st := .closing }) m.dctx

def execCtxCloseMsg (port : Fin 48) (m : BupRaw) (s : State) : Host.Outcome State Fault Refusal := .next (onType tyCtxClose m s (ctxCloseMsg s port))

/-- CONTEXT_TIMEOUT: a request or write has gone unanswered for 1 ms, so the context fails (R438); one that is CLOSING is CLOSED (R451). -/
def contextTimeout (s : State) (x : Fin 4096) : State :=
  let c := ctxOf s x
  if c.st = .opening then failCtx s x cauTimeout
  else if c.outst.isEmpty then s
  else if c.st = .closing then
    let reads := (c.outst.filter fun e => e.1 == e.2 + 65536).length
    let s := c.outst.foldl (fun t e => failTransfer t e.2) s
    let s := { s with bup := { s.bup with readUsed := s.bup.readUsed - reads } }
    settleCtx (modCtx s x fun c => { c with outst := [] }) x
  else failCtx s x cauTimeout

def execContextTimeout (ctx : Fin 4096) (s : State) : Host.Outcome State Fault Refusal := .next (contextTimeout s ctx)

end Sys2Proof.Machine
end

