-- ==== Sys2Proof/Machine/Trust.lean ====
section
/-! DEFINITION. Identity, attestation, signing, the entropy source, and the load of a signed object in recovery (21, 17 R466, 22 R567). -/

namespace Sys2Proof.Machine

/-! ## Measurements -/

/-- GRANT_LO and GRANT_HI of an entry (R455). -/
def grantLo (x : Grant) : Nat := 4096 * x.base.toNat
def grantHi (x : Grant) : Nat :=
  x.pages.toNat + 2 ^ 40 * b2n x.rd + 2 ^ 41 * b2n x.wr + 2 ^ 42 * b2n x.valid + 2 ^ 43 * b2n x.revoking

/-- Attestation measurement `i` (R545); of the boot ROM's version, the sealed values and the records of manufacture the spec does not give the
contents (log 33). -/
def measurement (s : State) (i : Nat) : BitVec 256 :=
  match i with
  | 1 => Config.measured 1 []
  | 2 => match s.trs.image with | some x => imgHash x | none => Config.measured 2 [s.trs.fwver.toNat]
  | 3 => BitVec.ofNat 256 (beNat (mapHash s.yld))
  | 4 => sha256 (identBlock s)
  | 5 => Config.measured 5 [s.trs.winLo, s.trs.winHi]
  | 6 => if s.bup.sealed_ then sha256 ((List.range 256).flatMap fun e => leBytes 8 (tabGet 0 s.bup.pt e).toNat) else 0
  | 7 => sha256 ((List.range 64).flatMap fun g => leBytes 8 (grantLo (grantOf s g)) ++ leBytes 8 (grantHi (grantOf s g)))
  | _ => 0

/-- The measurements of an index, 0xFF standing for all seven: index and value in turn. -/
def measurementsOf (s : State) (i : Nat) : List Nat :=
  (if i = 255 then (List.range 7).map (· + 1) else if 1 ≤ i ∧ i ≤ 7 then [i] else []).flatMap fun k => [k, (measurement s k).toNat]

/-- Byte `n` of the certificate chain, which stands behind the records of the identity block (R534). -/
def chainByte (s : State) (n : Nat) : Nat := identByte s (2416 + n)

/-! ## Signing -/

/-- What the signature engine returns: the signature of firmware's digest, or an answer with its own (R536, R543, R545). -/
def signedOut (index : Nat) (r : Nat × List Nat) : Output :=
  let d := if r.1 = 0 then BitVec.ofNat 256 (r.2.headD 0) else Config.reportDigest r.1 r.2
  let sig := hssSign index (beBytes 32 d.toNat)
  if r.1 = 0 then .signature index d sig else .answer r.1 r.2 sig

/-- A request to the engine: signed with the next index; one that finds no lower tree ready, or others before it, waits; with the index space
exhausted it is refused (R544). -/
def signReq (s : State) (r : Nat × List Nat) : State :=
  if 2 ^ 40 ≤ s.trs.sigNext then s
  else if !s.trs.sigWait.isEmpty || !canSign s.trs then { s with trs := { s.trs with sigWait := s.trs.sigWait ++ [r] } }
  else emit { s with trs := useIndex s.trs } (signedOut s.trs.sigNext r)

/-- SIGN_REQUEST: firmware submits a digest (R543, R544). -/
def signRequest (s : State) (digest : BitVec 256) : State := if pithUp s then signReq s (0, [digest.toNat]) else s

def execSignRequest (digest : BitVec 256) (s : State) : Host.Outcome State Fault Refusal := .next (signRequest s digest)

/-- LOWER_TREE_READY: the next lower tree is prepared, once half of the current one has been used, and the requests that waited proceed (R544). -/
def lowerTreeReady (s : State) : State :=
  let i := s.trs.sigNext % treeLeaves
  if !s.inp.main || s.trs.lowerReady || (0 < i && i < treeLeaves / 2) then s
  else
    let l := s.trs.sigWait
    l.foldl signReq { s with trs := { s.trs with lowerReady := true, sigWait := [] } }

def execLowerTreeReady (s : State) : Host.Outcome State Fault Refusal := .next (lowerTreeReady s)

/-! ## Attestation -/

/-- DOE instance 1, outside recovery (R466, R553). -/
def spdmUp (s : State) : Bool := doeUp s && !s.trs.recovery

/-- GET_VERSION: SPDM 1.2 (R466). -/
def getVersion (s : State) : State := if spdmUp s then emit s (.answer 2 [0x12] []) else s

def execGetVersion (s : State) : Host.Outcome State Fault Refusal := .next (getVersion s)

/-- GET_CERTIFICATE: bytes of the certificate chain of the attestation key (R466, R534). -/
def getCertificate (s : State) (offset len : Nat) : State :=
  let n := identBytes s - 2416
  if spdmUp s then emit s (.answer 3 ((List.range (min len (n - offset))).map fun i => chainByte s (offset + i)) []) else s

def execGetCertificate (offset len : Nat) (s : State) : Host.Outcome State Fault Refusal := .next (getCertificate s offset len)

/-- GET_MEASUREMENTS: the measurements of an index, signed (R466, R545). -/
def getMeasurements (s : State) (index : BitVec 8) (nonce : BitVec 256) : State :=
  if spdmUp s then signReq s (4, nonce.toNat :: measurementsOf s index.toNat) else s

def execGetMeasurements (index : BitVec 8) (nonce : BitVec 256) (s : State) : Host.Outcome State Fault Refusal :=
  .next (getMeasurements s index nonce)

/-- CHALLENGE: the key signs the challenge (R466, R545). -/
def challenge (s : State) (nonce : BitVec 256) : State := if spdmUp s then signReq s (5, nonce.toNat :: measurementsOf s 255) else s

def execChallenge (nonce : BitVec 256) (s : State) : Host.Outcome State Fault Refusal := .next (challenge s nonce)

/-- MCTP_ATTESTATION: the report with every measurement, in recovery and in the safe state too (R466, R545, R553). -/
def mctpAttestation (s : State) (nonce : BitVec 256) : State :=
  if s.inp.main && !s.inp.held then signReq s (6, nonce.toNat :: measurementsOf s 255) else s

def execMctpAttestation (nonce : BitVec 256) (s : State) : Host.Outcome State Fault Refusal := .next (mctpAttestation s nonce)

/-! ## Entropy -/

/-- ENTROPY_HEALTH_FAIL: the source withholds output (R551). -/
def execEntropyHealthFail (s : State) : Host.Outcome State Fault Refusal := .next { s with trs := { s.trs with entOk := false } }

/-- ENTROPY_RESTART: 1 s after the failure the start-up test runs again (R551). -/
def entropyRestart (s : State) (passes : Bool) : State :=
  if s.inp.main && !s.inp.held && passes then { s with trs := { s.trs with entOk := true } } else s

def execEntropyRestart (passes : Bool) (s : State) : Host.Outcome State Fault Refusal := .next (entropyRestart s passes)

/-- SEED_DRAW_TIMEOUT: a submission has waited 10 s for a seed (R551). -/
def seedDrawTimeout (s : State) (q : Fin 8) : State :=
  serve s q 0x01 fun c =>
    let p := c.payload.toNat
    if s.trs.entOk || !bitOf p 192 || s.brg.st != 1 then s
    else finishCmd s c stWrong fun x => { x with htag := BitVec.ofNat 64 (bitsOf p 256 64) }

def execSeedDrawTimeout (q : Fin 8) (s : State) : Host.Outcome State Fault Refusal := .next (seedDrawTimeout s q)

/-! ## Recovery -/

/-- The recovery registers respond: in recovery, with a port in service (R554). -/
def recOpen (s : State) : Bool := s.inp.main && !s.inp.held && cxlUp s && s.trs.recovery

/-- The load ends with an error, and the next command must be a BEGIN (R542, R567). -/
def recEnd (s : State) (code : Nat) : State := { s with trs := { s.trs with obj := 0, load := {}, recStat := code } }

/-- A command to the boot ROM is taken: in recovery, and not while it verifies or writes (R567). -/
def recTakes (s : State) : Bool := recOpen s && s.trs.recStat != rsVerifying && s.trs.recStat != rsWriting

/-- A reserved CMD ends the load (R567); the CMD of another row is that row's. -/
def recOther (s : State) (cmd : Nat) : State := if cmd = 0 ∨ 3 < cmd then recEnd s rsFormat else s

/-- The first `n` bytes of the window. -/
def windowBytes (s : State) (n : Nat) : List Nat := (List.range n).map fun i => (memByte s.trs.window i).toNat

/-- BEGIN: the boot ROM checks the header and signature in the window; the firmware slot is erased when they pass, and a load whose erase fails,
`ok` not set, ends with the slot invalid (R541, R542, R567). -/
def recBegin (s : State) (value : BitVec 64) (ok : Bool) : State :=
  let v := value.toNat
  let obj := bitsOf v 4 2
  let head := windowBytes s (64 * bitsOf v 16 11)
  if !recTakes s then s
  else if bitsOf v 0 4 ≠ 1 then recOther s (bitsOf v 0 4)
  else if obj = 3 ∨ bitsOf v 16 11 = 0 then recEnd s rsFormat
  else
    let code := headerVerdict s obj head
    if code ≠ 0 then recEnd s code
    else if obj = 0 ∧ !ok then recEnd { s with trs := { s.trs with slotOk := false } } rsFlash
    else { s with trs := { s.trs with obj := obj + 1, load := { head := head }, recStat := rsReceiving, slotOk := s.trs.slotOk && obj != 0 } }

def execRecBegin (value : BitVec 64) (ok : Bool) (s : State) : Host.Outcome State Fault Refusal := .next (recBegin s value ok)

/-- The body of a load after `n` bytes more of the window, BODYLEN at most. -/
def bodyAfter (s : State) (n : Nat) : List Nat := (s.trs.load.body ++ windowBytes s n).take (objLen (s.trs.obj - 1) s.trs.load.head)

/-- CHUNK: the next part of the body is hashed and programmed (R541, R542, R567). -/
def recChunk (s : State) (value : BitVec 64) (ok : Bool) : State :=
  let v := value.toNat
  if !recTakes s then s
  else if bitsOf v 0 4 ≠ 2 then recOther s (bitsOf v 0 4)
  else if s.trs.obj = 0 ∨ bitsOf v 16 11 = 0 then recEnd s rsFormat
  else if !ok then recEnd s rsFlash
  else { s with trs := { s.trs with load := { s.trs.load with body := bodyAfter s (64 * bitsOf v 16 11) } } }

def execRecChunk (value : BitVec 64) (ok : Bool) (s : State) : Host.Outcome State Fault Refusal := .next (recChunk s value ok)

/-- The object of a load takes effect: the firmware image with MINSVN and REVOKE, the identity block, or the base record, which erases every
extension record (R387, R541). -/
def install (s : State) : State :=
  let x := s.trs.load
  if s.trs.obj = 1 then
    { s with trs := { s.trs with slotOk := true, image := some x, minSvn := max s.trs.minSvn (imgFloor x.head), keyRev := s.trs.keyRev ||| imgRevoke x.head } }
  else if s.trs.obj = 2 then { s with trs := { s.trs with ident := some x.body } }
  else
    { s with yld := { s.yld with baseObj := some x, base := baseEntries x, baseGen := baseGenOf x.head, ext := [], kept := [], full := false } }

/-- The body of a load has arrived whole and hashes to BODYHASH (R541). -/
def loadWhole (t : Trust) : Bool :=
  decide (objLen (t.obj - 1) t.load.head ≤ t.load.body.length) && bodyMatches (t.obj - 1) t.load

/-- GO: the whole body has arrived and hashes to BODYHASH, and the read-back agrees: the object is installed and bring-up starts from phase 2
(R541, R567); else the load fails with a code that the spec does not give (log 35). -/
def recGo (s : State) (value : BitVec 64) (ok : Bool) (pl : BringPlan) : State :=
  let v := value.toNat
  if !recTakes s then s
  else if bitsOf v 0 4 ≠ 3 then recOther s (bitsOf v 0 4)
  else if s.trs.obj = 0 ∨ bitsOf v 16 11 = 0 then recEnd s rsFormat
  else if !ok || !loadWhole s.trs then recEnd s (rsFormat + Config.recFail s.trs.load.body.length % 6)
  else bringFrom (recEnd (install s) rsDone) 2 pl

def execRecGo (value : BitVec 64) (ok : Bool) (plan : BringPlan) (s : State) : Host.Outcome State Fault Refusal :=
  .next (recGo s value ok plan)

end Sys2Proof.Machine
end

