-- ==== Sys2Proof/Machine/RegMap.lean ====
section
/-! DEFINITION. What a read of each host-visible register returns (22, 13 R372, 14 R396, R397, 20 R532, 21 R552): 64 bits by the register's
offset in BAR0. Reserved bits, write-only registers and offsets without a register read zero (R7, R8, R554). -/

namespace Sys2Proof.Machine

/-- Register `i` of a block of bytes that is the little-endian number `n` (R5). -/
def regOf (n i : Nat) : Nat := bitsOf n (64 * i) 64

/-! ## Status and identity -/

def regModId (s : State) : Nat := 0x0036 + 0xA1 * 2 ^ 16 + 0x01 * 2 ^ 24 + s.trs.fwver.toNat * 2 ^ 32

/-- TRUST_STATUS (R552). -/
def regTrust (s : State) : Nat :=
  let t := s.trs
  bitAt 0 t.sealed_ + bitAt 1 s.bup.sealed_ + bitAt 2 t.recovery + bitAt 3 t.safe + bitAt 4 t.entOk + bitAt 5 t.attOk +
    fieldAt 8 4 t.keyRev.toNat + fieldAt 12 2 t.keySlot.toNat + fieldAt 16 8 t.recStat + fieldAt 24 24 t.gviol + fieldAt 48 8 s.pith.wdog

/-- INPUT_STATUS. -/
def regInput (s : State) : Nat :=
  let i := s.inp
  i.active.toNat + i.forced.toNat * 2 ^ 8 + i.stuck.toNat * 2 ^ 16 + i.acked.toNat * 2 ^ 24 + bitAt 32 i.sysRst + i.perst.toNat * 2 ^ 33 +
    bitAt 40 i.refOk + bitAt 41 i.backup

/-- HOST_PORT_STATUS: queue-line and completion traffic uses the lower-numbered port in service (R467). -/
def regHostPort (s : State) : Nat :=
  let one := fun (p : Nat) (q : Bool) =>
    let x := cxlPortOf s p
    fieldAt 0 2 x.rate + bitAt 2 x.up + bitAt 3 q + fieldAt 8 8 x.changes
  let up0 := (cxlPortOf s 0).up
  one 0 up0 + 2 ^ 16 * one 1 ((cxlPortOf s 1).up && !up0)

/-- The bring-up report (R532). -/
def bringBytes (s : State) : Nat :=
  let b := s.brg
  let speed := (List.range 36).foldl (fun n f => n + bitAt f (fieldOf s f).cond.atSpeed) 0
  let times := (List.range 7).foldl (fun n i => n + fieldAt (8 * (28 + 4 * i)) 32 (b.times.getD i 0)) 0
  fieldAt 0 8 b.st + fieldAt 8 8 b.phase + fieldAt 16 16 b.fail + fieldAt 32 32 b.tready + speed * 2 ^ 64 + fieldAt 128 16 b.laneSub +
    fieldAt 144 16 b.wireSub + fieldAt 160 8 b.chSpare + fieldAt 168 8 b.chLost + fieldAt 176 16 b.rowRep + fieldAt 192 8 b.sites +
    fieldAt 200 8 b.fout + fieldAt 208 8 b.pdown + times + fieldAt (8 * 56) 32 b.rseq

/-- Firmware has written the capacity map: phase 7 of bring-up has run (R531). -/
def mapWritten (s : State) : Bool := s.yld.gen != 0 && s.brg.phase == 7 && s.brg.st != 0

/-- Header of the capacity map (R396). -/
def capHeader (s : State) : Nat :=
  let y := s.yld
  let ports := (List.range 48).foldl (fun n p => n + bitAt p (portOf s p).up) 0
  if !mapWritten s then 0
  else
    1 + (bitAt 0 y.truncated + bitAt 1 y.full + bitAt 2 s.pith.standby + bitAt 3 (s.pith.active == 1)) * 2 ^ 16 + fieldAt 32 32 y.gen +
      fieldAt 64 16 y.nchan + fieldAt 80 8 (maxK s) + fieldAt 88 8 (goodConv s) + fieldAt 96 16 (capMax s) + fieldAt 112 8 y.farPop +
      fieldAt 120 8 y.farRate + y.slow.toNat * 2 ^ 128 + y.lost.toNat * 2 ^ 192 + ports * 2 ^ 256

/-- FCAP: 0 full, 1 PARTIAL, 2 FENCED, 3 RETIRED (R19, R397). -/
def fcapOf (s : State) (f : Nat) : Nat :=
  if (fieldOf s f).cond.retired then 3 else if (fieldOf s f).cond.fenced then 2 else if fieldPartial s f then 1 else 0

/-- Field entry of the capacity map (R397): counts, GUARD, DRIFT, SEAMS, ABSENT, CORES and PEND. -/
def capEntry (s : State) (f : Nat) : Nat :=
  let seams := (List.range 4).foldl (fun n d => n + bitAt d (seamFailed s f d)) 0
  let absent := (List.range 36).foldl (fun n b => n + bitAt b (!bunchPresent s f b)) 0
  let cores := (List.range 144).foldl
    (fun n i => n + 2 ^ (8 * (16 + i)) * (match siteOf s.yld f (i / 4) with | some site => coreByte s.yld f site (i % 4) | none => 0)) 0
  let pend := (List.range 36).foldl (fun n b => n + 2 ^ (8 * (160 + b)) * (tabGet 0 s.yld.pend (36 * f + b)).toNat) 0
  if !mapWritten s then 0
  else
    fcapOf s f + fieldAt 8 8 (goodBanks s f) + fieldAt 16 8 (goodEngines s f) + fieldAt 24 8 (goodPhases s f) + fieldAt 32 8 (guardOf s f) +
      fieldAt 40 8 (min 255 (fieldOf s f).pow.drift) + fieldAt 48 8 seams + absent * 2 ^ 64 + cores + pend

/-- Register `i` of the capacity map: 128 bytes of header, and 36 entries of 256 bytes. -/
def regCapMap (s : State) (i : Nat) : Nat :=
  if i < 16 then regOf (capHeader s) i else if i < 1168 then regOf (capEntry s ((i - 16) / 32)) ((i - 16) % 32) else 0

def statusReg (s : State) (o : Nat) : Nat :=
  if o = 0x00 then regModId s
  else if o = 0x10 then regTrust s
  else if o = 0x18 then regInput s
  else if o = 0x20 then regHostPort s
  else if o = 0x28 then identBytes s % 2 ^ 15
  else if 0x40 ≤ o ∧ o < 0x80 then regOf (bringBytes s) ((o - 0x40) / 8)
  else if 0x1000 ≤ o ∧ o < 0x5000 then (identReg s ((o - 0x1000) / 8)).toNat
  else if 0x8000 ≤ o ∧ o < 0xC000 then regCapMap s ((o - 0x8000) / 8)
  else 0

/-! ## Commit and rate, queues, grants -/

def commitReg (s : State) (o : Nat) : Nat :=
  let c := s.clk
  if o = 0x00 then floorN s % 2 ^ 64
  else if o = 0x08 then
    fieldAt 0 6 c.kStaged + fieldAt 8 6 c.k + fieldAt 16 6 (if mapWritten s then maxK s else 0) + bitAt 24 c.effStaged + bitAt 25 c.eff
  else if o = 0x10 then fieldAt 0 9 c.capStaged + fieldAt 16 9 c.cap + fieldAt 32 9 c.hostCap + fieldAt 48 9 c.trayCap
  else if o = 0x18 then s.com.csn.toNat + fieldAt 16 6 s.com.kind + fieldAt 24 2 s.com.stat
  else if o = 0x20 then fieldAt 0 48 s.com.epoch
  else if o = 0x28 then s.com.commits.toNat
  else if o = 0x30 then s.com.aborts.toNat
  else if 0x100 ≤ o ∧ o < 0x220 then (jobOf s ((o - 0x100) / 8 + 1)).policy.toNat
  else if 0x300 ≤ o ∧ o < 0x420 then (jobOf s ((o - 0x300) / 8 + 1)).policyStaged.toNat
  else 0

/-- Q_CFG. -/
def regQcfg (x : Queue) : Nat :=
  x.sqLog.toNat + x.cqLog.toNat * 2 ^ 4 + bitAt 8 x.mode + bitAt 9 x.ien + bitAt 10 x.enable + bitAt 16 x.qerr + fieldAt 17 3 x.qcode.toNat

def queueReg (s : State) (o : Nat) : Nat :=
  let x := queueOf s (o / 64)
  if 8 ≤ o / 64 then 0
  else match o % 64 with
    | 0x00 => x.sqBase.toNat | 0x08 => x.cqBase.toNat | 0x10 => x.sqLine.toNat | 0x18 => x.cqLine.toNat
    | 0x20 => regQcfg x | 0x38 => x.consumed.toNat + x.written.toNat * 2 ^ 32
    | _ => 0

def grantReg (s : State) (o : Nat) : Nat :=
  if o < 0x400 then (if o % 16 = 0 then grantLo (grantOf s (o / 16)) else grantHi (grantOf s (o / 16)))
  else if o = 0x400 then fieldAt 0 7 s.cxl.win + bitAt 8 s.cxl.committed
  else 0

/-! ## Error log -/

/-- DOMKIND and DOMAIN of a record (R372). -/
def domBytes : Domain → Nat
  | .none => 0 | .job a => 1 + a * 256 | .field f => 2 + f * 256 | .stream f => 3 + f * 256 | .rind d => 4 + d * 256 | .pith => 5

/-- A record of 64 bytes, RCRC included (R372). -/
def recBytes (r : Rec) : Nat :=
  let n := r.code.toNat +
    2 ^ 16 * (fieldAt 0 2 r.cls + bitAt 2 r.esc + bitAt 3 r.lost + bitAt 4 r.follow + bitAt 5 r.primary) + 2 ^ 24 * domBytes r.dom +
    fieldAt 40 8 r.dstate + fieldAt 48 8 r.asid + fieldAt 64 64 r.seq + fieldAt 128 64 r.ntime + r.slot.toNat * 2 ^ 192 +
    r.src.toNat * 2 ^ 240 + fieldAt 256 8 r.core + fieldAt 264 8 r.engine + fieldAt 288 32 r.count + r.addr.toNat * 2 ^ 320 +
    r.detail.toNat * 2 ^ 384 + fieldAt 448 32 r.link
  n + crc32c 60 n * 2 ^ 480

/-- A record or, where the slot is free, zeros (R562). -/
def recReg (r : Option Rec) (i : Nat) : Nat := match r with | some r => regOf (recBytes r) i | none => 0

/-- LOG_STATUS. -/
def regLogStatus (s : State) : Nat :=
  let used := s.log.recs.filter fun e => decide (e.1 < 256) && e.2.isSome
  used.length + fieldAt 16 6 (used.filter fun e => decide (224 ≤ e.1)).length + bitAt 24 s.log.overflow.isSome +
    bitAt 25 (!s.log.pend.isEmpty) + fieldAt 32 32 s.log.seq

def logReg (s : State) (o : Nat) : Nat :=
  if o = 0 then regLogStatus s
  else if 0x40 ≤ o ∧ o < 0x80 then recReg s.log.overflow ((o - 0x40) / 8)
  else if 0x800 ≤ o ∧ o < 0x1000 then (tabGet 0 s.log.ce ((o - 0x800) / 8)).toNat
  else if 0x4000 ≤ o ∧ o < 0x8000 then recReg (recAt s ((o - 0x4000) / 64)) ((o - 0x4000) / 8 % 8)
  else 0

/-! ## Power, pair and Bupol -/

/-- A signed value in 16 bits. -/
def short16 (z : Int) : Nat := (z % 65536).toNat

def powerReg (s : State) (o : Nat) : Nat :=
  let p := s.pow
  if o = 0x00 then p.inEnergy.toNat
  else if o = 0x08 then fieldAt 0 16 p.inW + fieldAt 16 16 p.inV + fieldAt 32 16 p.inA
  else if o = 0x10 then short16 p.inlet + short16 p.outlet * 2 ^ 16
  else if o = 0x18 then b2n p.report
  else if !p.report then 0
  else if 0x100 ≤ o ∧ o < 0x220 then (fieldOf s ((o - 0x100) / 8)).pow.energy.toNat
  else if 0x300 ≤ o ∧ o < 0x420 then (jobOf s ((o - 0x300) / 8 + 1)).energy.toNat
  else 0

def pairReg (s : State) (o : Nat) : Nat :=
  let p := s.pair
  if o = 0x00 then
    bitAt 0 p.formed + bitAt 1 p.lost + bitAt 2 (p.slices.any fun e => e.2.valid) + fieldAt 8 4 p.cause + p.partner.toNat * 2 ^ 16
  else if o = 0x08 then p.ports.toNat
  else if 0x100 ≤ o ∧ o < 0x220 then
    let j := jobOf s ((o - 0x100) / 8 + 1)
    fieldAt 0 32 j.commitC + fieldAt 32 16 j.number + bitAt 48 j.mirrored + bitAt 49 j.unprotected
  else if 0x300 ≤ o ∧ o < 0x420 then
    let x := sliceOf s ((o - 0x300) / 8)
    fieldAt 0 16 x.job + fieldAt 16 32 x.c + bitAt 48 x.valid + bitAt 49 x.sealed_
  else 0

/-- Code of a context's STATE (R437). -/
def ctxStCode : CtxSt → Nat
  | .closed => 0 | .opening => 1 | .open_ => 2 | .closing => 3 | .failed => 4

def bupolReg (s : State) (o : Nat) : Nat :=
  if o = 0x00 then s.bup.epId.toNat + bitAt 16 s.bup.epSet
  else if o = 0x08 then b2n s.bup.sealed_
  else if o = 0x10 then fieldAt 0 32 s.bup.misrouted + fieldAt 32 32 s.bup.denied
  else if 0x800 ≤ o ∧ o < 0x1000 then (tabGet 0 s.bup.pt ((o - 0x800) / 8)).toNat
  else if 0x1000 ≤ o ∧ o < 0x1180 then
    let p := (o - 0x1000) / 8
    let x := portOf s p
    bitAt 0 x.up + bitAt 1 (bitOf s.pair.ports.toNat p) + bitAt 2 x.reach + fieldAt 8 8 x.retrains + fieldAt 32 32 x.resent
  else if 0x8000 ≤ o ∧ o < 0x10000 then
    let x := ctxOf s ((o - 0x8000) / 8)
    ctxStCode x.st + fieldAt 4 6 x.asid + bitAt 10 x.wstore + x.remote.toNat * 2 ^ 16 + fieldAt 32 9 x.held
  else 0

/-! ## Fields -/

/-- STATE and ACTIVITY of a field (R17 to R19). -/
def actCode : Activity → Nat
  | .running => 0 | .rested => 1 | .sleeping => 2

def fieldStateCode (s : State) (f : Nat) : Nat :=
  let c := (fieldOf s f).cond
  if c.retired then 4 else if c.fenced then 3 else if fieldPartial s f then 5 else actCode c.act

/-- FIELD_STATUS (R566). -/
def regFieldStatus (s : State) (f : Nat) : Nat :=
  let x := fieldOf s f
  let gone := fieldGone s f
  fieldStateCode s f + fieldAt 3 2 (if gone then 3 else actCode x.cond.act) + (holdCode x.clk.hold).val * 2 ^ 8 + fieldAt 12 6 x.cond.owner +
    fieldAt 18 6 (if runningField s f then x.clk.k else 0) + fieldAt 24 8 (if x.cond.fenced then x.cond.fcause else 0) +
    fieldAt 32 8 x.pow.hot + bitAt 40 x.cond.oscFail

/-- A field's share under a cap in W (R480). -/
def shareW (cap : Nat) : Nat := share36 cap / 36000

/-- FIELD_POWER. -/
def regFieldPower (s : State) (f : Nat) : Nat :=
  let x := (fieldOf s f).pow
  fieldAt 0 16 (shareW (if runningField s f then x.cap else s.clk.cap)) + fieldAt 16 16 x.est + fieldAt 32 6 x.duty

/-- Sum of the interlock counters of a field's cores. -/
def interlockSum (s : State) (f : Nat) : Nat :=
  (List.range 288).foldl (fun n i => n + (coreAt s (288 * f + i)).ilk.toNat) 0 % 2 ^ 64

def fieldReg (s : State) (f o : Nat) : Nat :=
  let x := fieldOf s f
  let c := x.clk
  if o = 0x00 then regFieldStatus s f
  else if o = 0x08 then fieldAt 0 60 c.slot
  else if o = 0x10 then regFieldPower s f
  else if 0x100 ≤ o ∧ o < 0x158 then
    match (o - 0x100) / 8 with
    | 0 => c.hRef.toNat | 1 => c.hTherm.toNat | 2 => c.hCommit.toNat | 3 => c.hReady.toNat | 4 => c.hSeamIn.toNat | 5 => c.hSeamSpace.toNat
    | 6 => c.bubbles.toNat | 7 => c.suppressed.toNat | 8 => x.pow.floors.toNat | 9 => x.mem.scrubLag.toNat | _ => interlockSum s f
  else if 0x1000 ≤ o ∧ o < 0x2200 then
    let k := coreAt s (288 * f + (o - 0x1000) / 16)
    if o % 16 = 0 then k.ilk.toNat else k.twait.toNat
  else if 0x3000 ≤ o ∧ o < 0x4000 then
    let st := streamOf s f ((o - 0x3000) / 16)
    if o % 16 = 0 then st.ucyc.toNat else st.uev.toNat
  else 0

/-! ## MSI-X, recovery, and the whole map -/

/-- The MSI-X table, whose mask bit stands in each entry's vector control, and the PBA (R454). -/
def msixReg (s : State) (o : Nat) : Nat :=
  if o < 0x100 then
    let w := (tabGet 0 s.cxl.msixTab (o / 8)).toNat
    if o % 16 = 0 then w else bitsOf w 0 32 + bitAt 32 (s.cxl.msixMask.getLsbD (o / 16))
  else if o = 0x8000 then s.cxl.msixPend.toNat
  else 0

/-- REC_STATUS. -/
def recoveryReg (s : State) (o : Nat) : Nat := if o = 0x08 then fieldAt 0 8 s.trs.recStat + fieldAt 32 32 s.trs.load.body.length else 0

/-- The block that holds an offset responds in the module's state (R554). -/
def responds (s : State) (o : Nat) : Bool :=
  if 0x0C00000 ≤ o ∧ o < 0x0C20000 then s.trs.recovery
  else if o < 0x10000 then !s.trs.recovery || o < 0x18 || (decide (0x40 ≤ o) && decide (o < 0x80))
  else !s.trs.recovery

/-- The value of the register at an offset of BAR0. -/
def readReg (s : State) (o : Nat) : Nat :=
  if !responds s o then 0
  else if o < 0x10000 then statusReg s o
  else if o < 0x11000 then commitReg s (o - 0x10000)
  else if 0x20000 ≤ o ∧ o < 0x21000 then queueReg s (o - 0x20000)
  else if 0x30000 ≤ o ∧ o < 0x31000 then grantReg s (o - 0x30000)
  else if 0x40000 ≤ o ∧ o < 0x48000 then logReg s (o - 0x40000)
  else if 0x50000 ≤ o ∧ o < 0x51000 then powerReg s (o - 0x50000)
  else if 0x60000 ≤ o ∧ o < 0x61000 then pairReg s (o - 0x60000)
  else if 0x80000 ≤ o ∧ o < 0x90000 then bupolReg s (o - 0x80000)
  else if 0x100000 ≤ o ∧ o < 0x190000 then fieldReg s ((o - 0x100000) / 0x4000) ((o - 0x100000) % 0x4000)
  else if 0xC00000 ≤ o ∧ o < 0xC20000 then recoveryReg s (o - 0xC00000)
  else if 0xF00000 ≤ o ∧ o < 0xF10000 then msixReg s (o - 0xF00000)
  else 0

end Sys2Proof.Machine
end

