-- ==== Sys2Proof/Machine/Registers.lean ====
section
/-! DEFINITION. The register accesses that have a row of their own and are not of a queue, a grant or the window, and the rest of the writes
(22, 00 R7 to R11). -/

namespace Sys2Proof.Machine

/-- The write covers bits from 32 up (R11). -/
def coversHigh (h : Half) : Bool := h != .low

/-- BAR0 answers: a port is in service (R471, R554). -/
def barUp (s : State) : Bool := s.inp.main && !s.inp.held && cxlUp s

/-- LOW_HALF_READ: a 32-bit read of a register's low half latches its high half, which the next read of the high half returns; a high half
that is not latched reads as it stands (R11). -/
def lowHalfRead (s : State) (offset : Nat) : State :=
  let o := offset / 8 * 8
  if !barUp s || decide (2 ^ 24 ≤ offset) then s
  else
    let v := readReg s o
    let l := tabGet 0 s.cxl.latch o
    if 4 ≤ offset % 8 then
      emit { s with cxl := { s.cxl with latch := tabPut 0 o 0 s.cxl.latch } }
        (.high32 o (BitVec.ofNat 32 (if l = 0 then bitsOf v 32 32 else l % 2 ^ 32)))
    else emit { s with cxl := { s.cxl with latch := tabPut 0 o (bitsOf v 32 32 + 2 ^ 32) s.cxl.latch } } (.low32 o (BitVec.ofNat 32 v))

def execLowHalfRead (offset : Nat) (s : State) : Host.Outcome State Fault Refusal := .next (lowHalfRead s offset)

/-- A write of MOD_RESET: it acts with KEY 0xC3 and RESET 1, and with RECOVERY the module enters recovery after the reset (R540, R557). -/
def modReset (s : State) (value : BitVec 64) (h : Half) : State :=
  let v := value.toNat
  if !barUp s || !coversLow h || bitsOf v 8 8 != 0xC3 || !bitOf v 0 then s else beginReset s (bitOf v 1)

def execRegReset (value : BitVec 64) (half : Half) (s : State) : Host.Outcome State Fault Refusal := .next (modReset s value half)

def execRegRecovery (value : BitVec 64) (half : Half) (s : State) : Host.Outcome State Fault Refusal := .next (modReset s value half)

/-- Offset of LOG_FREE. -/
def logFreeAt : Nat := 0x40008

/-- LOG_FREE frees the record with a SEQ; while a pith takes over, the CXL chiplets keep the SEQ (R555, R563). -/
def freeBySeq (s : State) (q : Nat) : State :=
  if s.pith.takeover then { s with cxl := { s.cxl with keptFree := addNew q s.cxl.keptFree } }
  else if pithUp s then settle (hostFree s q) else s

/-- A write of LOG_FREE: 64 bits act; a low half alone is kept for the high half, which acts (R11, R563). -/
def logFree (s : State) (value : BitVec 64) (h : Half) : State :=
  if !barOpen s then s
  else match h with
    | .low => { s with cxl := { s.cxl with lowWr := tabPut 0 logFreeAt (value.setWidth 32) s.cxl.lowWr } }
    | .high =>
      let low := (tabGet 0 s.cxl.lowWr logFreeAt).toNat
      let s := { s with cxl := { s.cxl with lowWr := tabPut 0 logFreeAt 0 s.cxl.lowWr } }
      freeBySeq s (bitsOf value.toNat 32 32 * 2 ^ 32 + low)
    | .full => freeBySeq { s with cxl := { s.cxl with lowWr := tabPut 0 logFreeAt 0 s.cxl.lowWr } } value.toNat

def execLogFree (value : BitVec 64) (half : Half) (s : State) : Host.Outcome State Fault Refusal := .next (logFree s value half)

/-- Registers outside the queue, grant and log blocks and MOD_RESET take writes: not in the safe state (R556). -/
def writable (s : State) : Bool := barOpen s && !s.trs.safe

/-- ENDPOINT_ID: its first write that covers [15:0] sets and locks it (R7, R431, R565). -/
def endpointId (s : State) (value : BitVec 64) (h : Half) : State :=
  if !writable s || !coversLow h || s.bup.epSet then s
  else { s with bup := { s.bup with epId := value.setWidth 16, epSet := true } }

def execEndpointId (value : BitVec 64) (half : Half) (s : State) : Host.Outcome State Fault Refusal := .next (endpointId s value half)

/-- Bits of PT_ENTRY's fields that a write covers: BASE and COUNT in the low half, DATA to RATE in the high half (R434). -/
def ptCover (h : Half) : Nat := match h with | .low => 0xFFFFFFFF | .high => 0xFF00000000 | .full => 0xFFFFFFFFFF

/-- PT_ENTRY: each field covered that is not locked is set and locked; none once the table is sealed (R7, R434, R565). -/
def ptEntry (s : State) (e : Fin 256) (value : BitVec 64) (h : Half) : State :=
  if !writable s || s.bup.sealed_ then s
  else
    let lock := (tabGet 0 s.bup.ptLock e).toNat
    let m := ptCover h &&& (0xFFFFFFFFFF - lock)
    let new := (tabGet 0 s.bup.pt e).toNat ||| (value.toNat &&& m)
    { s with bup := { s.bup with pt := tabPut 0 e.val (BitVec.ofNat 64 new) s.bup.pt
                                 ptLock := tabPut 0 e.val (BitVec.ofNat 64 (lock ||| m)) s.bup.ptLock } }

def execPtEntry (e : Fin 256) (value : BitVec 64) (half : Half) (s : State) : Host.Outcome State Fault Refusal :=
  .next (ptEntry s e value half)

/-- PT_SEAL: a write of 1 seals the partner table; a write of 0 does nothing (R434, R565). -/
def ptSeal (s : State) (value : BitVec 64) (h : Half) : State :=
  if !writable s || !coversLow h || !bitOf value.toNat 0 then s else { s with bup := { s.bup with sealed_ := true } }

def execPtSeal (value : BitVec 64) (half : Half) (s : State) : Host.Outcome State Fault Refusal := .next (ptSeal s value half)

/-- The CXL component registers (R554). -/
def isComponent (o : Nat) : Bool := decide (0x800000 ≤ o ∧ o < 0x900000)

/-- A queue register that is RW: SQ_BASE, CQ_BASE, SQ_LINE and CQ_LINE take a write while ENABLE is 0 (R559). -/
def writeQueue (s : State) (q o : Nat) (value : Nat) (h : Half) : State :=
  if (queueOf s q).enable then s
  else
    let base := fun (old : BitVec 64) => BitVec.ofNat 64 (mergeBits old.toNat value 12 52 h)
    let line := fun (old : BitVec 64) => BitVec.ofNat 64 (mergeBits old.toNat value 6 58 h)
    modQueue s q fun x => match o with
      | 0x00 => { x with sqBase := base x.sqBase }
      | 0x08 => { x with cqBase := base x.cqBase }
      | 0x10 => { x with sqLine := line x.sqLine }
      | 0x18 => { x with cqLine := line x.cqLine }
      | _ => x

/-- The MSI-X table: address and data words, and the mask bit of the vector control (R454). -/
def writeMsix (s : State) (o : Nat) (value : Nat) (h : Half) : State :=
  let c := s.cxl
  let old := (tabGet 0 c.msixTab (o / 8)).toNat
  let word := fun (len : Nat) => tabPut 0 (o / 8) (BitVec.ofNat 64 (mergeBits old value 0 len h)) c.msixTab
  if o % 16 = 0 then { s with cxl := { c with msixTab := word 64 } }
  else
    let bit := BitVec.ofNat 16 (2 ^ (o / 16))
    let mask := if coversHigh h then (if bitOf value 32 then c.msixMask ||| bit else c.msixMask &&& ~~~bit) else c.msixMask
    { s with cxl := { c with msixTab := word 32, msixMask := mask } }

/-- A write of REC_WINDOW in recovery: the bytes that it covers (R541, R567). -/
def writeWindow (s : State) (o : Nat) (value : Nat) (h : Half) : State :=
  let w := s.trs.window
  let w := if coversLow h then memWrite w o 4 value else w
  let w := if coversHigh h then memWrite w (o + 4) 4 (value / 2 ^ 32) else w
  { s with trs := { s.trs with window := w } }

/-- REGISTER_WRITE: a write to a register without a row of its own: the queue's addresses and the MSI-X table are RW, and every other register
ignores it; in recovery REC_WINDOW is WO (R7, R10, R541, R554, R556, R559). -/
def registerWrite (s : State) (o : Nat) (value : Nat) (h : Half) : State :=
  if recOpen s && decide (0xC10000 ≤ o ∧ o < 0xC20000) then writeWindow s (o - 0xC10000) value h
  else if !barOpen s then s
  else if 0x20000 ≤ o ∧ o < 0x20200 then writeQueue s ((o - 0x20000) / 64) (o % 64) value h
  else if 0xF00000 ≤ o ∧ o < 0xF00100 ∧ !s.trs.safe then writeMsix s (o - 0xF00000) value h
  else s

/-- The CXL component registers are laid out by CXL 3.1 alone (R554). -/
def execRegisterWrite (offset : Nat) (value : BitVec 64) (half : Half) (s : State) : Host.Outcome State Fault Refusal :=
  if writable s && isComponent offset then .refused .cxlComponent else .next (registerWrite s (offset / 8 * 8) value.toNat half)

end Sys2Proof.Machine
end

