-- ==== Sys2Proof/Machine/Slot.lean ====
section
/-! DEFINITION. SLOT_ADVANCE: one oscillator cycle of a field (02 R35 to R54, 04 R111 to R131, 06 R166 to R171). A cycle that
advances ends the present slot: what the slot's units, arrays, routers and queues do in it, and then the next slot is reached. -/

namespace Sys2Proof.Machine

/-- The core with key `k` of field `f`. -/
def coreIdOf (f : FieldIx) (k : Nat) : CoreId := { fld := f, bun := Fin.ofNat 36 (k / 8 % 36), cor := Fin.ofNat 8 (k % 8) }

/-- Keys of the cores of a field that hold anything. -/
def fieldCores (s : State) (f : Nat) : List Nat := (s.cor.map (·.1)).filter fun k => k / 288 == f

/-- The engines of a core that have a task. -/
def coreEngines (c : Core) : List Engine := (c.tasks.filter fun t => t.2.present).map fun t => engineOf t.1

/-! ## Ill-formed words and units -/

/-- An engine that is free in the present slot at a word which cannot issue reports it, and the core stops (R161, R218, R358). -/
def checkWord (c : CoreId) (s : State) (e : Engine) : State :=
  if !engineFree s c e then s
  else
    let pc := (taskOf (coreAt s (ckey c)) e).pc.toNat
    match fetchWord s c e with
    | none => coreFault s c e evWindow 0 (Config.detailOf evWindow [0, pc]).toNat
    | some (oda, x) =>
      let w := x.w.toNat
      if x.br then coreFault s c e evBruise (oda / 64 * 64) (opcOf w)
      else if wordOk (coreKind c.cor) e w then s
      else coreFault s c e evIllegal oda (Config.detailOf evIllegal [pc, w]).toNat

/-- The engines of a core in slot `t`: words that cannot issue, the units due, the row of a stationary load, and the fill of the
instruction queues. -/
def coreSlot (f : FieldIx) (t : Nat) (s : State) (k : Nat) : State :=
  let c := coreIdOf f k
  let es := coreEngines (coreAt s k)
  let s := es.foldl (checkWord c) s
  let s := loadStep (es.foldl (fun s e => runUnits c e t 1 s) s) t k
  let tasks := (coreAt s k).tasks.map (·.2) |>.filter (·.present)
  let s := (tasks.filterMap (queueWant s c)).foldl (fun s b => noteRead s f b.2 64) s
  modCore s k fun x => { x with tasks := x.tasks.map fun e => (e.1, if e.2.present then fillQueue s c e.2 else e.2) }

/-! ## Array passes -/

/-- Lines that a pass reads in all (R105): n + 63. -/
def passLines (p : PassRun) : Nat := p.nv + 63

/-- A pass is due to read a line in slot `t`. -/
def lineDue (t : Nat) (p : PassRun) : Bool := decide (p.lines.length < passLines p ∧ p.t + p.step * p.lines.length ≤ t)

/-- A replayed vector is due to read a line in slot `t`: one line for each array row, from its entry slot on (R105, R121). -/
def replayDue (t step : Nat) (x : VecEntry) : Bool :=
  x.attempt != 0 && decide (x.rl.length < 64 ∧ x.ent + step * x.rl.length ≤ t)

/-- A replayed vector reads its next line, and its side entry with the first (R121). -/
def replayLine (c : Core) (p : PassRun) (x : VecEntry) : VecEntry :=
  let y := passLine c p (x.v + x.rl.length)
  { x with rl := x.rl ++ [y.1], rside := if x.rl = [] then y.2.1 else x.rside }

/-- The pass of a vector. -/
def passOf (c : Core) (x : VecEntry) : Option PassRun := c.passes.find? fun p => p.num == x.pass

/-- Some line that is read in slot `t` is bruised (R125). -/
def lineHurt (t : Nat) (c : Core) : Bool :=
  (c.passes.any fun p => lineDue t p && (passLine c p p.lines.length).2.2) ||
    c.pipe.any fun x => match passOf c x with
      | some p => replayDue t p.step x && (passLine c p (x.v + x.rl.length)).2.2
      | none => false

/-- The lines due in slot `t` are read. -/
def takeLines (t : Nat) (c : Core) : Core :=
  { c with
    passes := c.passes.map fun p => if lineDue t p then readLine c p else p
    pipe := c.pipe.map fun x => match passOf c x with
      | some p => if replayDue t p.step x then replayLine c p x else x
      | none => x }

/-- The passes and the replayed vectors of a core read the lines due in slot `t`; a bruised one, or a stationary source that was bruised as
a replay loaded it, is consumed (R125). -/
def readLines (f : FieldIx) (t : Nat) (s : State) (k : Nat) : State :=
  let c := coreAt s k
  let due := c.passes.any (lineDue t) || c.pipe.any fun x => match passOf c x with | some p => replayDue t p.step x | none => false
  if c.halted || !due then s
  else if lineHurt t c then coreFault s (coreIdOf f k) .mac evBruise 0 0x21
  else modCore s k (takeLines t)

/-- DETAIL of a check event (R583): the lane where both check columns are in service and one lane explains both differences. -/
def checkDetail (c : Core) (p : PassRun) (d0 d1 : Int) : Nat :=
  let res := decide (fmtBits p.afmt = 16)
  let two := checkColumns c == 2
  let fits := fun (j : Nat) =>
    if res then ((d1 - (j + 1 : Nat) * d0) % 255 == 0) else d1 == (j + 1 : Nat) * d0
  let lanes := if p.spot || !two || d0 == 0 then [] else (List.range (laneCount c)).filter fits
  let located := lanes.length == 1
  let lim := fun (z : Int) => wrapInt (clampInt (-8388608) 8388607 z) 24
  (if located then lanes.headD 0 + 256 else 0) + 512 * b2n p.spot + 1024 * b2n (res && !p.spot) +
    2 ^ 16 * (if p.spot then 0 else lim d0) + 2 ^ 40 * (if p.spot || !two then 0 else lim d1)

/-- A pass reads every line that vector `v` needs: of a spot-checked pass, whose vectors enter twice, the spec gives no slots for the
lines, and those still missing are read at the verdict (R130; log 140). -/
def needLines (c : Core) (v : Nat) : Nat → PassRun → PassRun
  | 0, p => p
  | n + 1, p => if p.lines.length < v + 64 then needLines c v n (readLine c p) else p

/-- A line that `needLines` has yet to read is bruised (R125). -/
def needHurt (c : Core) (v : Nat) (p : PassRun) : Bool :=
  (List.range (v + 64 - p.lines.length)).any fun n => (passLine c p (p.lines.length + n)).2.2

/-- The pass as a vector finds it: a replayed vector has the lines that it read itself, and adds to the row (R121, R124). -/
def passFor (x : VecEntry) (p : PassRun) : PassRun :=
  if x.attempt = 0 then p
  else
    { p with lines := List.replicate x.v 0 ++ x.rl, sides := List.replicate x.v 0 ++ [x.rside], ovw := false }

/-- A vector of an OVERWRITE pass takes its row, whether it passes its check or is to be replayed: the entries in service are 0 with no
flags, and the vectors of earlier passes that wait for a replay into the row add nothing more (R111, R124; log 141). -/
def takeRow (p : PassRun) (v : Nat) (c : Core) : Core :=
  if !p.ovw then c
  else
    let wide := decide (fmtBits p.afmt = 16)
    let hit := fun (x : VecEntry) => decide (x.pass ≠ p.num) && (c.passes.any fun q => q.num == x.pass && q.row + x.v == p.row + v)
    { c with
      acc := (List.range (laneCount c)).foldl (fun t j => tabPut {} (64 * (p.row + v) + j) { wide := wide } t) c.acc
      failed := c.failed.map fun x => if hit x then { x with void := true } else x
      pipe := c.pipe.map fun x => if x.attempt ≠ 0 ∧ hit x then { x with void := true } else x }

/-- A vector passes its check: its addends are added, its row is no longer pending, and the pass completes with its last (R111, R112,
R120, R168). -/
def addPassed (p : PassRun) (x : VecEntry) (errs : List ColErr) (t : Nat) (c : Core) : Core :=
  let p := needLines c x.v 64 p
  let (c, fl) := if x.void then (c, 0) else addVector (passFor x p) x.v errs c
  let p := { p with left := p.left - 1 }
  let c := { c with
    passes := if p.left = 0 then c.passes.filter (fun q => q.num != p.num) else c.passes.map fun q => if q.num = p.num then p else q
    pendRows := c.pendRows.filter fun r => decide (r ≠ (p.num, p.row + x.v)) }
  modTask c .mac fun k => { k with flights := k.flights.map fun y =>
    if y.onPass = p.num + 1 then
      { y with flags := y.flags ||| BitVec.ofNat 8 fl, onPass := if p.left = 0 then 0 else y.onPass, done := t + 1 }
    else y }

/-- A vector fails its check for the first time: it waits for a replay, and with the first failure the replay begins: the rows of failing
vectors, and of every vector of the current pass not yet added, are pending (R121, R168). -/
def failVector (p : PassRun) (x : VecEntry) (d : Int × Int) (t : Nat) (c : Core) : Core :=
  let cur := c.passes.getLast?
  let rows := match cur with
    | some q => if c.replay = 0 then (c.pipe.filter fun y => y.pass == q.num).map fun y => (q.num, q.row + y.v) else []
    | none => []
  { c with
    failed := c.failed ++ [{ x with d0 := d.1, d1 := d.2 }]
    replay := if c.replay = 0 then t + 1 else c.replay
    replaySet := if c.replay = 0 then c.stat.map (·.src) else c.replaySet
    pendRows := c.pendRows ++ rows ++ [(p.num, p.row + x.v)] }

/-- The verdict of one vector in slot `t`, with the errors that its columns made (R120 to R122, R125): a vector that passes is added, one
that fails is replayed, and one that fails again stops the core. DESIGN CHOICE (log 176): of several failing vectors the CHECK_TRANSIENT of their
replay carries the lane and differences of the last one replayed. -/
def verdict (c : CoreId) (t : Nat) (s : State) (x : VecEntry) (errs : List ColErr) : State :=
  let k := ckey c
  let core := coreAt s k
  let s := modCore s k fun c => { c with pipe := c.pipe.filter (fun y => decide (y ≠ x)) }
  match passOf core x with
  | none => s
  | some p =>
    if x.attempt = 0 ∧ needHurt core x.v p then coreFault s c .mac evBruise 0 0x21
    else
      match checkVector core (passFor x (if x.attempt = 0 then needLines core x.v 64 p else p)) x.v errs with
      | some d =>
        if x.attempt = 0 then modCore s k fun c => failVector p x d t (takeRow p x.v c)
        else coreFault s c .mac 0x0202 0 (checkDetail core p d.1 d.2)
      | none =>
        let s := modCore s k fun c => addPassed p x errs t (if x.attempt = 0 then takeRow p x.v c else c)
        if x.attempt ≠ 0 ∧ !((coreAt s k).pipe.any fun y => y.attempt != 0) then
          raiseCore s c 0x0006 (fieldOf s c.fld).cond.owner 1 0 (checkDetail core p x.d0 x.d1)
        else s

/-- Entry slots of a vector. -/
def entrySlots (c : Core) (x : VecEntry) : Nat := match passOf c x with | some p => p.step | none => 1

/-- The failing vectors of one pass of a replay from slot `u` on: the load of 64 slots, then the entries (R121). -/
def replayPass (step u : Nat) : List VecEntry → Nat → List VecEntry
  | [], _ => []
  | x :: l, i =>
    { x with attempt := 1, ent := u + 64 + step * i, due := u + 64 + step * (i + 1) - 1 + 128 } :: replayPass step u l (i + 1)

/-- A replay from slot `u` on, pass by pass: the vectors that enter again, the stationary loads repeated, the source last repeated, and the
slot after the last entry (R121). -/
def replayAll (c : Core) : List PassRun → Nat → Option StatSrc → List VecEntry × List StatLoad × Option StatSrc × Nat
  | [], u, x => ([], [], x, u)
  | p :: l, u, x =>
    let vs := c.failed.filter fun x => x.pass == p.num
    if vs.isEmpty then replayAll c l u x
    else
      let (r, ls, y, e) := replayAll c l (u + 64 + p.step * vs.length) (some p.stat.src)
      (replayPass p.step u vs 0 ++ r, { src := p.stat.src, t := u, pass := p.num + 1 } :: ls, y, e)

/-- Vectors that have entered the array when a replay began, with the one whose entry was in progress (R121). -/
def inArray (c : Core) (x : VecEntry) : Bool := decide (x.due + 1 < c.replay + 128 + entrySlots c x)

/-- A replay is scheduled once the vectors that stood in the array have had their verdicts (R121): the loads and entries of the
failing vectors from slot `u` on; the vectors not yet entered, and LOAD and MAC, wait for its end. Where the set that was loaded when the
replay began is not the last one repeated, LOAD repeats it too. DESIGN CHOICE (log 177): a LACT or LSCL in progress runs on beside the repeated
stationary load. -/
def scheduleReplay (u : Nat) (c : Core) : Core :=
  if c.replay = 0 ∨ c.pipe.any (inArray c) then c
  else
    let (vs, ls, y, e) := replayAll c c.passes u none
    let again := match c.replaySet with | some x => if y = some x then [] else [({ src := x, t := e + 128 } : StatLoad)] | none => []
    let resume := e + 128 + 64 * again.length
    let first := (c.pipe.map fun x => x.due + 1 - 128 - entrySlots c x).foldl min resume
    let d := resume - first
    let late := fun (p : PassRun) => c.pipe.any fun x => x.pass == p.num
    let wait := fun (t : Task) => { t with ready := max t.ready resume }
    let c := { c with
      pipe := (c.pipe.map fun x => { x with due := x.due + d }) ++ vs
      passes := c.passes.map fun p => if late p then { p with t := p.t + d } else p
      loads := c.loads ++ ls ++ again
      failed := [], replay := 0, replaySet := none, entered := max (c.entered + d) resume }
    modTask (modTask c .load wait) .mac fun t => { t with ready := max (t.ready + d) resume }

/-- Gated block-slots and cell-slots of the entries of a replay that begins (R116, R486). -/
def countReplay (s : State) (f k : Nat) : State :=
  let c := coreAt s k
  if c.replay = 0 ∨ c.pipe.any (inArray c) then s
  else c.failed.foldl (fun s x => match passOf c x with
    | some p =>
      let gated := p.stat.zero.length
      countAct (countAct s f actCells (p.step * 64 * (laneCount c - gated))) f actGated (p.step * gated)
    | none => s) s

/-- The verdicts due in slot `t` in a matrix core; an upset gives the errors of its oldest vector due (R118 to R122). -/
def verdicts (f : FieldIx) (t : Nat) (ups : List Upset) (s : State) (k : Nat) : State :=
  let c := coreIdOf f k
  let stop := fun (s : State) => (coreAt s k).halted || (coreAt s k).faulted.contains (engCode .mac)
  if stop s then s
  else
    let due := (coreAt s k).pipe.filter fun x => decide (x.due ≤ t)
    let errs := ups.flatMap fun u => match u with
      | .check b m l => if b = c.bun ∧ m.val = c.cor.val then l else []
      | _ => []
    let s := match due with
      | [] => s
      | x :: l => l.foldl (fun s y => if stop s then s else verdict c t s y []) (verdict c t s x errs)
    modCore (countReplay s f k) k (scheduleReplay (t + 1))

/-! ## The grid -/

/-- Bunch `b` is the last logical bunch of its row that is present: index 5, or a lower one in a row of a PARTIAL field (R23). -/
def rowEnd (y : Yield) (f b : Nat) : Bool :=
  (siteOf y f b).isSome && (List.range 6).all fun i => decide (i ≤ b % 6) || (siteOf y f (6 * (b / 6) + i)).isNone

/-- The crossing at which port `port` (0 N, 1 E, 2 S, 3 W) of a bunch leaves its field, if it does (R251). DEDUCED (log 143): where
logical index 5 of a row is absent, the links skip to the row's east crossing from its last bunch present (R54). -/
def edgeCrossing (y : Yield) (f b port : Nat) : Option Nat :=
  match port with
  | 0 => if b / 6 = 0 then some (b % 6) else none
  | 1 => if rowEnd y f b then some (6 + b / 6) else none
  | 2 => if b / 6 = 5 then some (12 + b % 6) else none
  | _ => if b % 6 = 0 then some (18 + b / 6) else none

/-- The bunch beyond port `port` within the field. -/
def nextBunch (b port : Nat) : Nat :=
  match port with
  | 0 => b - 6 | 1 => b + 1 | 2 => b + 6 | _ => b - 1

/-- The route word in force at a router (R47), for the jobs whose routers run. -/
def routeWord (s : State) (f a b p t : Nat) : Nat :=
  let x := fieldOf s f
  if x.net.quiet.contains a || decide (t < tabGet 0 x.job.start a) then 0
  else match routeIndex x.net a p t with
    | none => 0
    | some (i, bank) => (tabGet 0 x.net.route ((((a * 36 + b) * 2 + p) * 2 + bank) * 4096 + i)).toNat

/-- What the routers of a field have done so far in a slot: the state, the flits on the links of the next slot, the flits that
leave by each crossing, and the hops counted. -/
structure NetAcc where
  s : State
  link : Tab (Option Flit) := []
  out : Tab (Option Flit) := []
  hops : Tab Nat := []

/-- The 32 check bits of a flit (R45): ECC0, BRUISE0, TAG0, ECC1, BRUISE1, TAG1. The codes' matrix is open (log 144). -/
def flitCheck (x : Flit) : BitVec 32 :=
  let half := fun (g : Nat) (b : Bool) => (Config.flitEcc (bitsOf x.data.toNat (512 * g) 512) b).toNat + 2 ^ 11 * b2n b + 2 ^ 12 * x.tag.toNat
  BitVec.ofNat 32 (half 0 x.b0 + 2 ^ 16 * half 1 x.b1)

/-- The inverted bits that lie in the code word of granule `g`: its 512 data bits, its code and its bruise bit (R45). -/
def flipsIn (bits : List Nat) (g : Nat) : Nat :=
  (bits.filter fun n => decide (n < 1024 ∧ n / 512 = g ∨ 1024 + 16 * g ≤ n ∧ n < 1024 + 16 * g + 12)).length

/-- What a checker makes of a flit with inverted bits (R46): one in a code word is corrected, and more than one is uncorrectable, so that the
granule is bruised; the flit, and whether it reports a correction, and the granules for which it reports an uncorrectable error. -/
def checkFlit (bits : List Nat) (x : Flit) : Flit × Bool × List Nat :=
  let bad := [0, 1].filter fun g => decide (2 ≤ flipsIn bits g)
  ({ x with b0 := x.b0 || bad.contains 0, b1 := x.b1 || bad.contains 1 }, [0, 1].any fun g => flipsIn bits g == 1, bad)

/-- TAG of a flit with inverted bits: bits [3:0] of TAG0 (R45). -/
def flippedTag (bits : List Nat) (x : Flit) : BitVec 4 :=
  (List.range 4).foldl (fun v i => if (bits.filter (· == 1036 + i)).length % 2 = 1 then v ^^^ BitVec.ofNat 4 (2 ^ i) else v) x.tag

/-- The bits inverted at an inbound crossing and plane in this slot. -/
def flipsAt (ups : List Upset) (x p : Nat) : List Nat :=
  ups.flatMap fun u => match u with | .flitFlip y q l => if y.val = x ∧ q.val = p then l else [] | _ => []

/-- The bits inverted at a core's receive queue in this slot. -/
def flipsTo (ups : List Upset) (c : CoreId) : List Nat :=
  ups.flatMap fun u => match u with | .recvFlip b d l => if b = c.bun ∧ d = c.cor then l else [] | _ => []

/-- The flit at input `port` of a router in slot `t`: from the neighbouring router, or from the seam buffer, whose checker may
bruise a granule (R46, R50); an entry that an IN tap takes is not forwarded (R253). -/
def inFlit (s : State) (f b p port t : Nat) (ups : List Upset) : Option Flit :=
  match edgeCrossing s.yld f b port with
  | none => tabGet none (fieldOf s f).net.link ((2 * b + p) * 4 + port)
  | some x =>
    if tapTakes s f t (2 * x + p) then none
    else
      match seamTake s f x p t with
      | some e => e.flit.map fun y => (checkFlit (flipsAt ups x p) y).1
      | none => none

/-- The checker of an inbound crossing reports what it finds of the flit taken there in slot `t`, and a TAG other than bits [3:0] of
t − 256 is a misalignment for every job with routes on the seam (R46). -/
def seamCheck (f : FieldIx) (t : Nat) (ups : List Upset) (s : State) (x p : Nat) : State :=
  match seamTake s f x p t with
  | none => s
  | some e => match e.flit with
    | none => s
    | some y =>
      let bits := flipsAt ups x p
      let (_, ce, ue) := checkFlit bits y
      let s := if ce then raiseField s f 0x0002 0 7 0 (Config.detailOf 0x0002 [x, p]).toNat else s
      let s := ue.foldl (fun s g => raiseField s f 0x0102 0 7 0 (Config.detailOf 0x0102 [x, p, g]).toNat) s
      if flippedTag bits y = BitVec.ofNat 4 (t - 256) then s
      else (seamJobs s f (sideOf x)).foldl (fun s j => raiseField s f 0x020B j 7 0 (Config.detailOf 0x020B [x, p]).toNat) s

/-- The flit of a late send (R170). -/
def lateFlit (t : Nat) : Flit := { data := 0, b0 := true, b1 := true, tag := BitVec.ofNat 4 t }

/-- The oldest flit of a send queue departs in slot `t`; a send that is late stops the core (R169, R170). -/
def takeSend (c : CoreId) (t : Nat) (s : State) : Flit × State :=
  let k := ckey c
  let core := coreAt s k
  if core.late then (lateFlit t, s)
  else match core.sendq, core.sendAt with
    | x :: q, w :: l =>
      if w < t then ({ x with tag := BitVec.ofNat 4 t }, modCore s k fun c => { c with sendq := q, sendAt := l })
      else
        let s := raiseCore s c 0x0207 (fieldOf s c.fld).cond.owner 7 0 0
        (lateFlit t, modCore s k fun c => { markFault 7 c with late := true, sendq := [], sendAt := [] })
    | _, _ =>
      let s := raiseCore s c 0x0207 (fieldOf s c.fld).cond.owner 7 0 0
      (lateFlit t, modCore s k fun c => { markFault 7 c with late := true, sendq := [], sendAt := [] })

/-- A flit reaches a receive queue in slot `t`; a full queue discards it (R152). Its checker may bruise a granule (R46). -/
def putRecv (c : CoreId) (t : Nat) (ups : List Upset) (x : Flit) (s : State) : State :=
  let k := ckey c
  if 32 ≤ (coreAt s k).recvq.length then raiseCore s c 0x0208 (fieldOf s c.fld).cond.owner 7 0 0
  else
    let (x, ce, ue) := checkFlit (flipsTo ups c) x
    let s := if ce then raiseCore s c 0x0002 0 7 0 (Config.detailOf 0x0002 [24]).toNat else s
    let s := ue.foldl (fun s g => raiseCore s c 0x0102 0 7 0 (Config.detailOf 0x0102 [24, g]).toNat) s
    modCore s k fun c => { c with recvq := c.recvq ++ [x], recvAt := c.recvAt ++ [t] }

/-- One router on one plane under one route word (R48 to R50, R151). -/
def routeOne (f : FieldIx) (t : Nat) (ups : List Upset) (b p w : Nat) (n : NetAcc) : NetAcc :=
  let src := fun (o : Nat) => bitsOf w (3 * o) 3
  let local_ := (List.range 5).any fun o => src o == 5
  let core := fun (i : Nat) => coreIdOf f (8 * b + i)
  let (fl, s) := if local_ then (let (x, s) := takeSend (core (bitsOf w 15 3)) t n.s; (some x, s)) else (none, n.s)
  let pick := fun (o : Nat) =>
    if src o = 5 then fl else if 1 ≤ src o ∧ src o ≤ 4 then inFlit n.s f b p (src o - 1) t ups else none
  let n := { n with s := s }
  let n := (List.range 4).foldl
    (fun n o => match pick o with
      | none => n
      | some x =>
        let n := { n with hops := tabMod 0 p (· + 1) n.hops }
        match edgeCrossing n.s.yld f b o with
        | some c => { n with out := tabPut none (2 * c + p) (some x) n.out }
        | none => { n with link := tabPut none ((2 * nextBunch b o + p) * 4 + (o + 2) % 4) (some x) n.link }) n
  match pick 4 with
  | none => n
  | some x => { n with s := putRecv (core (bitsOf w 18 3)) t ups x n.s }

/-- Every router of a field in slot `t`, plane 0 of a bunch before its plane 1 (R151); an absent bunch has no router (R23, R54). -/
def routeAll (f : FieldIx) (t : Nat) (ups : List Upset) (s : State) : NetAcc :=
  let as_ := fieldAsids s f
  ((List.range 36).filter (bunchPresent s f)).foldl
    (fun n b => [0, 1].foldl (fun n p => as_.foldl (fun n a => routeOne f t ups b p (routeWord s f a b p t) n) n) n) { s := s }

/-- A REQ channel takes the flit that leaves by crossing `x`, plane `p`, in slot `t` (R252, R253). -/
def reqTakes (s : State) (f x p t : Nat) : Bool :=
  let n := (fieldOf s f).net
  match routeIndex n (fieldOf s f).cond.owner p t with
  | none => false
  | some (i, bank) =>
    (List.range 64).any fun ch =>
      let r := (tabGet 0 n.carrier (64 * bank + ch)).toNat
      bitsOf r 0 5 == x && bitsOf r 5 1 == p && bitsOf r 6 2 == 2 && (tabGet [] n.cmap (64 * bank + ch)).contains i

/-- The taps take their requests and write their entries, and every enabled crossing takes one entry and writes one entry (R42, R253). -/
def seamStep (f : FieldIx) (t : Nat) (xs : List Nat) (n : NetAcc) : State :=
  let (out, req) := n.out.foldl
    (fun (r : Tab (Option Flit) × List ReqTaken) e =>
      match e.2 with
      | some x =>
        if reqTakes n.s f (e.1 / 2) (e.1 % 2) t then (r.1, r.2 ++ [{ at_ := t, src := x.src, data := x.data }])
        else (tabPut none e.1 (some x) r.1, r.2)
      | none => r) ([], [])
  let out := (tapWrites n.s f t).foldl (fun o x => tabPut none x.1 (some x.2) o) out
  let s := modNet n.s f fun x => { x with link := n.link, req := x.req ++ req }
  let s := xs.foldl
    (fun s x => [0, 1].foldl
      (fun s p =>
        let s := modNet s f fun y => { y with buf := tabMod [] (2 * x + p) (eraseFirst fun e => e.dep + 256 == t) y.buf }
        match neighbour f (sideOf x) with
        | none => s
        | some g =>
          let e : SeamEntry := { dep := t, flit := (tabGet none out (2 * x + p)).map fun y => { y with tag := BitVec.ofNat 4 t } }
          modNet s g fun y => { y with buf := tabMod [] (2 * facing x + p) (· ++ [e]) y.buf }) s) s
  let seams := (out.filter fun e => xs.contains (e.1 / 2)).length
  countAct (countAct (countAct s f (actHops 0) (tabGet 0 n.hops 0)) f (actHops 1) (tabGet 0 n.hops 1)) f actSeam seams

/-! ## The bunch exchange -/

/-- The sending engine of a core kind. -/
def sendEngine (c : Nat) : Engine := match coreKind c with | .matrix => .drain | .vector => .store | .scalar => .scalar

/-- A core's sending engine is held for the slot after `t`: its next unit, and its next issue, are one slot later. -/
def holdSender (t k : Nat) (c : Core) : Core :=
  let e := sendEngine (k % 8)
  let c := { c with
    prog := c.prog.map fun p => if p.1 = engCode e then (p.1, p.2.map fun q => { q with t := q.t + 1, slots := q.slots.map (· + 1) }) else p }
  modTask c e fun x => { x with ready := max x.ready (t + 2) }

/-- The flits of slot `t` do not fit in a send queue of 32 beside those that have not departed by its end: its engine is held, and they are written a
slot later; one engagement however long it lasts (R152, R167; log 159). -/
def sendHold (t k : Nat) (c : Core) : Core :=
  if sendHeld c t ≤ 32 then { c with full := false }
  else
    let later := fun (a : Nat) => if t ≤ a then a + 1 else a
    let h := holdSender t k { c with full := true, ilk := if c.full then c.ilk else c.ilk + 1, sendAt := c.sendAt.map later }
    modTask h (sendEngine (k % 8)) fun x => { x with flights := x.flights.map fun y => { y with done := later y.done } }

/-- A core's sending engine is held one slot by the exchange (R153). -/
def exchHold (t k : Nat) (c : Core) : Core := holdSender t k { c with ilk := c.ilk + 1 }

/-- The exchange flits of a core that are due in slot `t`, in order: each reaches its target's receive queue where that has accepted fewer
than two in the slot; the others stay in the sender until the next slot (R153). -/
def exchangeCore (f : FieldIx) (t : Nat) (ups : List Upset) (b k : Nat) :
    List (Nat × Nat × Flit) → State × Tab Nat × List (Nat × Nat × Flit) → State × Tab Nat × List (Nat × Nat × Flit)
  | [], r => r
  | e :: l, (s, took, back) =>
    if t < e.1 then exchangeCore f t ups b k l (s, took, back ++ [e])
    else if tabGet 0 took e.2.1 < 2 then
      exchangeCore f t ups b k l (putRecv (coreIdOf f (8 * b + e.2.1)) t ups e.2.2 s, tabMod 0 e.2.1 (· + 1) took, back)
    else exchangeCore f t ups b k l (s, took, back ++ [(t + 1, e.2)])

/-- The exchange flits due in slot `t` in a bunch, lower-numbered source first; a receive queue accepts two, and a core that keeps a flit has
its sending engine held for one slot (R153). -/
def exchangeBunch (f : FieldIx) (t : Nat) (ups : List Upset) (s : State) (b : Nat) : State :=
  ((List.range 8).foldl
    (fun (r : State × Tab Nat) i =>
      let k := coreKey f b i
      let l := (coreAt r.1 k).exch
      if l.isEmpty then r
      else
        let (s, took, back) := exchangeCore f t ups b k l (r.1, r.2, [])
        let heldBack := back.any fun e => decide (e.1 = t + 1) && l.any fun y => decide (y = (t, e.2))
        (modCore s k fun c => (if heldBack then exchHold t k else id) { c with exch := back }, took))
    (s, [])).1

/-! ## Upsets -/

/-- Granule `n` of a buffer of a core bruised (R223, R242). -/
def bruiseBuffer (buf : BufferKind) (n : Nat) (c : Core) : Core :=
  match buf with
  | .act => { c with actBr := tabPut false (n % 1024) true c.actBr }
  | .side => { c with sideBr := tabPut false (n % 64) true c.sideBr }
  | .acc => { c with accBr := tabPut false (n % 4096) true c.accBr }
  | .vreg => { c with vbr := tabMod 0 (n / 4 % 512) (· ||| BitVec.ofNat 4 (2 ^ (n % 4))) c.vbr }

/-- A physical upset: stored bits of on-die memory are inverted, to be found by the reads that follow (R241), or an operand buffer, a register
store or control state finds an error as it is read (R242, R354). -/
def upset (f : FieldIx) (s : State) (u : Upset) : State :=
  match u with
  | .check .. => s
  | .flitFlip .. => s
  | .recvFlip .. => s
  | .sramFlip oda bits => flipBits s (f.val * 2 ^ 34 + oda % 2 ^ 34) bits
  | .sramMiss oda bits => missBits s (f.val * 2 ^ 34 + oda % 2 ^ 34) bits
  | .wordFlip oda bits => flipWordBits s (f.val * 2 ^ 34 + oda % 2 ^ 34) bits
  | .xlateUe n =>
    if (fieldOf s f).str.tlb.length ≤ n then s
    else raiseField (modStr s f fun x => { x with tlb := x.tlb.eraseIdx n }) f 0x0005 0 7 0 0
  | .bufCe b c => raiseCore s { fld := f, bun := b, cor := c } 0x0001 0 7 0 0
  | .bufUe b c buf n =>
    raiseCore (modCore s (coreKey f b c) (bruiseBuffer buf n)) { fld := f, bun := b, cor := c } 0x0101 0 7 0 0
  | .controlCe => raiseField s f 0x0005 0 7 0 0
  | .controlUe => (fieldAsids s f).foldl (fun t j => raiseField t f 0x020C j 7 0 (Config.detailOf 0x020C [f]).toNat) s

/-! ## The cycle -/

/-- The hold cause of a field; a change of it is reported in GATE_STATUS (R59). -/
def setHold (s : State) (f : FieldIx) (h : HoldCause) : State :=
  if (fieldOf s f).clk.hold = h then s
  else send (modFclk s f fun x => { x with hold := h }) (.gate f (holdCode h) 0 (slotOf s f % 2 ^ 48))

/-- A held cycle is counted against its cause (R39), and a READY hold against each stream that is late (R274). -/
def countHold (s : State) (f : FieldIx) (h : HoldCause) : State :=
  let s := modFclk s f fun x =>
    match h with
    | .none => x
    | .refLoss => { x with hRef := x.hRef + 1 }
    | .thermal => { x with hTherm := x.hTherm + 1 }
    | .commitWait => { x with hCommit := x.hCommit + 1 }
    | .ready => { x with hReady := x.hReady + 1, checked := true }
    | .seamIn => { x with hSeamIn := x.hSeamIn + 1 }
    | .seamSpace => { x with hSeamSpace := x.hSeamSpace + 1 }
  if h ≠ .ready then s
  else (lateStreams s f).foldl
    (fun t st => modStream t f st fun y =>
      { y with ucyc := y.ucyc + 1, uev := if y.marked then y.uev else y.uev + 1, marked := true }) s

/-! ## Writes of on-die memory -/

/-- A stream's write in the slot in which engines write: its bytes for a granule that an engine writes are discarded, and the core of that
engine reports WRITE_COLLISION with the granule and the stream (R226). -/
def landStream (f : FieldIx) (eng : List DieWrite) (s : State) (x : DieWrite) : State :=
  let a := (fieldOf s f).cond.owner
  (granulesOf x.oda x.n).foldl
    (fun s g => match eng.find? fun y => (granulesOf y.oda y.n).contains g with
      | some y =>
        raiseCore s (coreIdOf f (y.core - 1)) 0x0209 a 7 (64 * g) (Config.detailOf 0x0209 [x.stream]).toNat
      | none =>
        let lo := max x.oda (64 * g)
        let n := min (x.oda + x.n) (64 * g + 64) - lo
        let v := bitsOf x.v (8 * (lo - x.oda)) (8 * n)
        let v := match x.bits with
          | some m => (dieRead s lo n ||| bitsOf m (8 * (lo - x.oda)) (8 * n)) ^^^ bitsOf m (8 * (lo - x.oda)) (8 * n) ||| v
          | none => v
        dieStore s lo n v (match x.mask with | some m => bitOf m (g - x.oda / 64) | none => false)) s

/-- A granule that is written has the write-back of its scrub visit abandoned, and is visited again (R244). -/
def dropScrub (due : List DieWrite) (m : FieldMem) : FieldMem :=
  let hit := fun (g : Nat) => due.any fun x => (granulesOf x.oda x.n).contains g
  if m.scrub.isEmpty then m
  else
    { m with scrub := m.scrub.filter fun x => x.read == 0 || !hit x.granule
             seen := m.scrub.foldl (fun t x => if x.read ≠ 0 ∧ hit x.granule then tabPut false x.granule false t else t) m.seen }

/-- The writes of streams due by slot `t` are made in a cycle of a READY hold, in which no engine writes (R274; log 156). -/
def landHeld (f : FieldIx) (t : Nat) (s : State) : State :=
  let due := (fieldOf s f).mem.wr.filter fun x => x.core == 0 && decide (x.due ≤ t)
  due.foldl (landStream f []) (modFmem s f fun m => { dropScrub due m with wr := m.wr.filter fun x => x.core != 0 || decide (t < x.due) })

/-- The writes due by slot `t` are made, after every read of the slot (R225): a stream's where no engine writes the granule, then the
engines'. A core whose engines stop in this slot makes no later write (R122). -/
def landStores (f : FieldIx) (t : Nat) (s : State) : State :=
  let due := (fieldOf s f).mem.wr.filter fun x => decide (x.due ≤ t)
  let eng := due.filter fun x => x.core != 0
  let stopped := fun (x : DieWrite) => x.core != 0 && !(coreAt s (x.core - 1)).faulted.isEmpty
  let s := modFmem s f fun m => { dropScrub due m with wr := m.wr.filter fun x => decide (t < x.due) && !stopped x }
  eng.foldl landDie ((due.filter fun x => x.core == 0).foldl (landStream f eng) s)

/-- A cycle of a READY hold in the stream complex. DEDUCED (log 156): the blocks that the hold waits for go on moving, each channel a flit and each
port a piece in a cycle, as in the example of 09, where blocks are requested and land while the field is held. -/
def heldStreams (f : FieldIx) (t : Nat) (s : State) : State := landHeld f t (pieces f t true (askAgain f (carrierStep f t true s))).1

/-! ## Stem messages of the scalar cores -/

/-- Nothing of a core is in flight: every instruction has completed, with its passes, their checks and replays, its loads and its writes (R131,
R154). -/
def coreQuiet (s : State) (k : Nat) : Bool :=
  let c := coreAt s k
  (c.tasks.all fun e => e.2.flights.isEmpty) && (c.prog.all fun e => e.2.isNone) && c.passes.isEmpty && c.pipe.isEmpty &&
    c.failed.isEmpty && c.loads.isEmpty && c.vwr.isEmpty && !((fieldOf s (k / 288)).mem.wr.any fun x => x.core == k + 1)

/-- Every core of a bunch is quiet, and every task of it has stopped (R131, R154, R179). -/
def bunchQuiet (s : State) (f b : Nat) : Bool := bunchStopped s f b && (List.range 8).all fun i => coreQuiet s (coreKey f b i)

/-- The message that a scalar core owes. -/
def owedMsg (f : FieldIx) (o : Owed) : StemMsg :=
  if o.kind = 2 then .arrive o.asid o.n f (Fin.ofNat 36 o.bun) else .yieldReport f (Fin.ofNat 36 o.bun) o.asid o.n (o.kind == 1)

/-- The scalar cores send what is due in slot `t`: each message occupies its slot of SCALAR (R147, R217). -/
def sendOwed (f : FieldIx) (t : Nat) (s : State) : State :=
  let l := (fieldOf s f).job.owed
  let due := l.filter fun o => o.due != 0 && decide (o.due ≤ t)
  if due.isEmpty then s
  else
    let s := modFjob s f fun x => { x with owed := x.owed.filter fun o => !(o.due != 0 && decide (o.due ≤ t)) }
    due.foldl (fun s o => modCore (send s (owedMsg f o)) (coreKey f o.bun 7) fun c =>
      modTask c .scalar fun x => { x with ready := max x.ready (t + 1) }) s

/-- The reports of stopped bunches whose condition is met in slot `t`: they are sent in the next (R131, R179, R217). -/
def meetOwed (f : FieldIx) (t : Nat) (s : State) : State :=
  let met := fun (o : Owed) => o.due == 0 && bunchQuiet s f o.bun
  modFjob s f fun x => { x with owed := x.owed.map fun o => if met o then { o with due := t + 1 } else o }

/-- The slot of a core ends: its tokens and flags are seen from the next slot on, register writes land, and a core with an engine that has
faulted stops (R122, R164, R193, R219). -/
def endCore (t : Nat) (c : Core) : Core :=
  let c := landWrites (t + 1) (endSlot c)
  if c.faulted.isEmpty then c else stopCore c

/-- The present slot ends and the next is reached: every router, engine and bank port steps (R35). -/
def advance (s : State) (f : FieldIx) (ups : List Upset) : State :=
  let t := slotOf s f
  let xs := openCrossings s f
  let s := askAgain f (sendOwed f t (acceptDue s f t))
  let s := (fieldCores s f).foldl (coreSlot f t) s
  let s := (fieldCores s f).foldl (readLines f t) s
  let s := (fieldCores s f).foldl (verdicts f t ups) s
  let s := xs.foldl (fun s x => [0, 1].foldl (fun s p => seamCheck f t ups s x p) s) s
  let s := carrierStep f t false (seamStep f t xs (routeAll f t ups s))
  let s := (List.range 36).foldl (exchangeBunch f t ups) (modCores s f (sendHold t))
  let s := (fieldCores s f).foldl
    (fun s k => (coreEngines (coreAt s k)).foldl (fun s e => instructionComplete s (coreIdOf f k) e) s) s
  let (s, used) := pieces f t false s
  let s := landStores f t (scrubRound f t (scrubStep f t s used))
  let s := meetOwed f t (modCores s f fun _ c => endCore t c)
  let s := modField s f fun x =>
    { x with clk := { x.clk with slot := (t + 1) % 2 ^ 60, checked := false }
             str := if x.clk.checked then { x.str with str := x.str.str.map fun e => (e.1, { e.2 with marked := false }) } else x.str }
  let s := reachSlot (setHold s f .none) f
  let s := if (t + 1) % 4096 = 0 then (fieldAsids s f).foldl readSnaps s else s
  if (t + 1) % 262144 = 0 then send s (.gate f 0 0 ((t + 1) % 2 ^ 48)) else s

/-- The governor lets oscillator cycle `c` of its 32 run at duty `d` (R481). -/
def cycleRuns (c d : Nat) : Bool := decide (c * d / 32 < (c + 1) * d / 32)

/-- One oscillator cycle of a field (R35, R481): suppressed by the governor, a bubble, a hold, or an advance. -/
def slotAdvance (s : State) (f : FieldIx) (ups : List Upset) : State :=
  if !fieldClocked s f then s
  else
    let c := (fieldOf s f).clk.cyc
    let d := (fieldOf s f).pow.duty
    let s := modFclk s f fun x => { x with cyc := (c + 1) % 32 }
    if !cycleRuns c d then modFclk s f fun x => { x with suppressed := x.suppressed + 1 }
    else
      let s := ups.foldl (upset f) s
      if bubbles s f then modFclk s f fun x => { x with bubbles := x.bubbles + 1 }
      else
        match holdCause s f with
        | .none => advance s f ups
        | h =>
          let s := countHold (setHold s f h) f h
          if h = .ready then heldStreams f (slotOf s f) s else s

def execSlotAdvance (f : FieldIx) (upsets : List Upset) (s : State) : Host.Outcome State Fault Refusal :=
  .next (slotAdvance s f upsets)

end Sys2Proof.Machine
end

