-- ==== Sys2Proof/Machine/Spares.lean ====
section
/-! DEFINITION. The commands of spares and wear (14), and power-down of idle memory channels (18 R484). -/

namespace Sys2Proof.Machine

/-! ## Phases -/

/-- PHASE_FAILURE: the regulator drops the phase and brings in a spare while it has one; the failure is due in the yield map; a field with
fewer than 20 good phases is recorded FIELD_RETIRED (R382, R385, R499). -/
def phaseFailure (s : State) (f : FieldIx) (p : Fin 26) : State :=
  if !fieldPowered s f || (tabGet [] s.yld.phases f).contains p.val then s
  else
    let spare := decide (24 < goodPhases s f)
    let s := { s with yld := { s.yld with phases := tabMod [] f.val (addNew p.val) s.yld.phases } }
    let s := modFpow s f fun x => { x with phasesOff := dropAll p.val x.phasesOff }
    let s := bumpGen (dueEntry s { kind := ykPhase, unit := f, loc := p, value := 0 })
    let s := if spare then raiseField s f 0x00E1 0 7 0 0 else s
    if goodPhases s f < 20 then retireField s f 5 else s

def execPhaseFailure (f : FieldIx) (p : Fin 26) (s : State) : Host.Outcome State Fault Refusal := .next (phaseFailure s f p)

/-! ## Ageing -/

/-- The median of a monitor's samples: of an even number, the mean of the two in the middle, rounded down (R393). -/
def median (l : List Nat) : Nat :=
  let m := l.mergeSort fun a b => decide (a ≤ b)
  (m.getD ((m.length - 1) / 2) 0 + m.getD (m.length / 2) 0) / 2

/-- Drift of a monitor: the median of its last 64 samples (R393). -/
def driftOf (x : FieldPower) (m : Nat) : Nat := median (tabGet [] x.samples m)

/-- The guard band for a drift in mV (R394). -/
def guardFor (d : Nat) : Nat := min 80 (40 + 10 * (d / 10))

/-- The level of a drift at which a margin test falls due: 50, and every 5 above (R395). -/
def testLevel (d : Nat) : Nat := if d < 50 then 0 else d / 5 * 5

/-- AGEING_SAMPLE: firmware samples the four monitors of an ACTIVE field; DRIFT follows the largest median, a raise of the guard band is due in
the yield map, and a monitor that reaches a test level is due for a margin test (R393 to R395, R397). -/
def ageingSample (s : State) (f : FieldIx) (drifts : List Nat) : State :=
  if !pithUp s || !fieldRuns s f then s
  else
    let s := modFpow s f fun x =>
      let smp := (List.range 4).foldl (fun t m => tabMod [] m (fun l => (drifts.getD m 0 :: l).take 64) t) x.samples
      let x := { x with samples := smp }
      { x with testDue := (List.range 4).foldl (fun l m => if tabGet 0 x.tested m < testLevel (driftOf x m) then addNew m l else l) x.testDue }
    let x := (fieldOf s f).pow
    let d := ((List.range 4).map (driftOf x)).foldl max 0
    let s := if min 255 d = x.drift then s else bumpGen (modFpow s f fun x => { x with drift := min 255 d })
    if max (guardOf s f) x.guardDue < guardFor d then dueEntry s { kind := ykMargin, unit := f, loc := 0, value := guardFor d } else s

def execAgeingSample (f : FieldIx) (drifts : List Nat) (s : State) : Host.Outcome State Fault Refusal := .next (ageingSample s f drifts)

/-- Local sites that monitor `m` watches (R393). -/
def monitorSites (m : Nat) : List Nat :=
  (List.range 42).filter fun i => decide (i / 7 / 3 = m / 2) && (if m % 2 = 0 then decide (i % 7 ≤ 3) else decide (4 ≤ i % 7))

/-- No job owns the field, none leases it, and no diagnosis is under way: it may be remapped (R24, R383, R399). -/
def fieldFree (s : State) (f : Nat) : Bool :=
  let c := (fieldOf s f).cond
  !fieldGone s f && c.owner == 0 && c.leases.isEmpty && !c.diagHold

/-- MARGIN_TEST: at a job boundary, the sites of the monitor's region that fail are due in the yield map with cause 4 (R395). -/
def marginTest (s : State) (f : FieldIx) (m : Fin 4) (sites : List Nat) : State :=
  if !pithUp s || !fieldFree s f || !(fieldOf s f).pow.testDue.contains m.val then s
  else
    let s := modFpow s f fun x => { x with testDue := dropAll m.val x.testDue, tested := tabPut 0 m.val (testLevel (driftOf x m)) x.tested }
    let bad := (monitorSites m).filter fun i => sites.contains i && !tabGet false s.yld.sites (42 * f.val + i)
    let s := bad.foldl (fun t i => dueEntry t { kind := ykSite, unit := f, loc := i, value := 4 }) s
    if bad.isEmpty then s else modCond s f fun x => { x with remapDue := true }

def execMarginTest (f : FieldIx) (m : Fin 4) (sites : List Nat) (s : State) : Host.Outcome State Fault Refusal :=
  .next (marginTest s f m sites)

/-! ## The yield map -/

/-- What a committed entry does at once: a field without a job, or already FENCED, is RETIRED (R20, R385); a raised guard band applies at the
field's next job boundary (R394); what a remap applies waits for it (R383). -/
def commitEffect (s : State) (e : YEnt) : State :=
  let f := e.unit
  if e.kind = ykRetired then
    if (fieldOf s f).cond.fenced || fieldFree s f then bumpGen (applyEntry s e) else modCond s f fun x => { x with remapDue := true }
  else if e.kind = ykMargin then
    if (fieldOf s f).cond.owner = 0 then bumpGen (applyEntry s e) else modFpow s f fun x => { x with guardDue := max x.guardDue e.value }
  else if fieldEntry f e && e.kind != ykPhase then modCond s f fun x => { x with remapDue := true }
  else s

/-- YMAP_RECORD_WRITE: the body with entries that are due, then the signature, then COMMIT; none of the entries applies before (R388, R391,
R392). -/
def ymapRecordWrite (s : State) (st : RecordStep) (ents : List YEnt) : State :=
  let y := s.yld
  if !pithUp s then s
  else match st with
    | .body =>
      if y.draftStep ≠ 0 ∨ ents = [] ∨ 64 < ents.length ∨ !(ents.all fun e => y.due.contains e) then s
      else { s with yld := { y with draft := ents, draftStep := 1 } }
    | .sig =>
      if y.draftStep ≠ 1 ∨ !canSign s.trs then s else { s with trs := useIndex s.trs, yld := { y with draftStep := 2, draftSig := s.trs.sigNext } }
    | .commit =>
      if y.draftStep ≠ 2 then s
      else
        let s := { s with yld := { y with draft := [], draftStep := 0, due := y.due.filter fun e => !y.draft.contains e } }
        y.draft.foldl commitEffect (storeRecord s y.draft y.draftSig)

def execYmapRecordWrite (step : RecordStep) (ents : List YEnt) (s : State) : Host.Outcome State Fault Refusal :=
  .next (ymapRecordWrite s step ents)

/-! ## Remap -/

/-- Entries that a remap of a field applies: its own, and the wires of its inbound crossings (R383). -/
def remapEntry (f : Nat) (e : YEnt) : Bool := fieldEntry f e || (e.kind == ykWire && e.unit == f)

/-- The bunch stands on another site, or the bank on another physical one. -/
def placeMoved (old new : Yield) (f k : Nat) : Bool :=
  if k < 4096 then siteOf old f (k / 64) != siteOf new f (k / 64) else physBank old f (k - 4096) != physBank new f (k - 4096)

/-- REMAP: the committed entries of the field and of its seams' wires enter the mapping, the units brought in are tested, and the capacity map
is updated; what fails the test, a bunch with a core below 48 lanes, and a field short of units are recorded, and the remap is due again; the
near-tier rows that post-package repair takes out at the remap are recorded too (R24, R126, R127, R229, R248, R276, R383 to R385). -/
def remap (s : State) (f : FieldIx) (failed : List YEnt) : State :=
  if !pithUp s || !fieldFree s f then s
  else
    let old := s.yld
    let s := ((yieldEntries s.yld).filter (remapEntry f)).foldl applyEntry s
    let s := granulesDone s f (f.val * 2 ^ 34) ((f.val + 1) * 2 ^ 34)
    let moved := placeMoved old s.yld f
    let s := modFmem s f fun x => { x with ce := tabKeep (fun k => !moved k) x.ce }
    let s := modCores s f fun i c => { c with condemned := false, transients := if c.condemned || moved (64 * (i % 288 / 8)) then [] else c.transients }
    let s := { s with yld := { s.yld with pend := (List.range 36).foldl (fun t b => tabPut 0 (36 * f.val + b) 0 t) s.yld.pend } }
    let narrow := (narrowSites s f).filter fun i => !tabGet false s.yld.sites (42 * f.val + i)
    let s := (failed.filter fun e => remapEntry f e || e.kind == ykRow).foldl dueEntry s
    let s := narrow.foldl (fun t i => dueEntry t { kind := ykSite, unit := f, loc := i, value := 5 }) s
    let s := match shortField s f with
      | some c => if (fieldOf s f).cond.retired then s else retireField s f c
      | none => s
    let again := s.yld.due.any fun e => remapEntry f e && e.kind != ykPhase
    bumpGen (modCond s f fun x => { x with remapDue := again, testHold := x.testHold && (again || x.oscFail) })

def execRemap (f : FieldIx) (failed : List YEnt) (s : State) : Host.Outcome State Fault Refusal := .next (remap s f failed)

/-! ## Memory channels -/

/-- POWER_DOWN_ENTRY: a channel that has been idle for the profile's delay enters power-down (R484). -/
def powerDownEntry (s : State) (far : Bool) (ch : Fin 1280) : State :=
  if !s.inp.main || s.inp.held || s.mem.selfRefresh || (far && decide (24 ≤ ch.val)) then s
  else { s with mem := { s.mem with down := tabPut false (if far then 1280 + ch.val else ch.val) true s.mem.down } }

def execPowerDownEntry (far : Bool) (ch : Fin 1280) (s : State) : Host.Outcome State Fault Refusal := .next (powerDownEntry s far ch)

end Sys2Proof.Machine
end

