-- ==== Sys2Proof/Machine/Vector.lean ====
section
/-! DEFINITION. The VEC engine's instructions (R136 to R146, R209 to R216): each row is the issue of its word. -/

namespace Sys2Proof.Machine

/-- FADD (R136). -/
def execFadd (c : CoreId) (w : BitVec 64) (s : State) : Host.Outcome State Fault Refusal :=
  .next (issue s c .vec 0x50 w
    fun i => effLanes i false 4 (arith2 (fFT i.w) addNum))

/-- FSUB (R136). -/
def execFsub (c : CoreId) (w : BitVec 64) (s : State) : Host.Outcome State Fault Refusal :=
  .next (issue s c .vec 0x51 w
    fun i => effLanes i false 4 (arith2 (fFT i.w) fun z a b => addNum z a (negNum b)))

/-- FMUL (R136). -/
def execFmul (c : CoreId) (w : BitVec 64) (s : State) : Host.Outcome State Fault Refusal :=
  .next (issue s c .vec 0x52 w
    fun i => effLanes i false 4 (arith2 (fFT i.w) fun _ => mulNum))

/-- FFMA (R136). -/
def execFfma (c : CoreId) (w : BitVec 64) (s : State) : Host.Outcome State Fault Refusal :=
  .next (issue s c .vec 0x53 w
    fun i => effLanes i true 4 (fmaNum (fFT i.w)))

/-- FMIN (R136). -/
def execFmin (c : CoreId) (w : BitVec 64) (s : State) : Host.Outcome State Fault Refusal :=
  .next (issue s c .vec 0x54 w
    fun i => effLanes i false 4 (arith2 (fFT i.w) fun _ => minNum))

/-- FMAX (R136). -/
def execFmax (c : CoreId) (w : BitVec 64) (s : State) : Host.Outcome State Fault Refusal :=
  .next (issue s c .vec 0x55 w
    fun i => effLanes i false 4 (arith2 (fFT i.w) fun _ => maxNum))

/-- IADD (R138). -/
def execIadd (c : CoreId) (w : BitVec 64) (s : State) : Host.Outcome State Fault Refusal :=
  .next (issue s c .vec 0x58 w
    fun i => effLanes i false 2 fun a b _ => wrap32 (sextNat a 32 + sextNat b 32))

/-- ISUB (R138). -/
def execIsub (c : CoreId) (w : BitVec 64) (s : State) : Host.Outcome State Fault Refusal :=
  .next (issue s c .vec 0x59 w
    fun i => effLanes i false 2 fun a b _ => wrap32 (sextNat a 32 - sextNat b 32))

/-- IMUL (R138). -/
def execImul (c : CoreId) (w : BitVec 64) (s : State) : Host.Outcome State Fault Refusal :=
  .next (issue s c .vec 0x5A w
    fun i => effLanes i false 2 fun a b _ => wrap32 (sextNat a 32 * sextNat b 32))

/-- IADDS (R138). -/
def execIadds (c : CoreId) (w : BitVec 64) (s : State) : Host.Outcome State Fault Refusal :=
  .next (issue s c .vec 0x5B w
    fun i => effLanes i false 2 fun a b _ => sat32 (sextNat a 32 + sextNat b 32))

/-- ISUBS (R138). -/
def execIsubs (c : CoreId) (w : BitVec 64) (s : State) : Host.Outcome State Fault Refusal :=
  .next (issue s c .vec 0x5C w
    fun i => effLanes i false 2 fun a b _ => sat32 (sextNat a 32 - sextNat b 32))

/-- ISH (R210). -/
def execIsh (c : CoreId) (w : BitVec 64) (s : State) : Host.Outcome State Fault Refusal :=
  .next (issue s c .vec 0x5D w
    fun i => effLanes i false 2 fun a b _ => shiftLane (bitsOf i.w 46 2) a b)

/-- CMP (R210). -/
def execCmp (c : CoreId) (w : BitVec 64) (s : State) : Host.Outcome State Fault Refusal :=
  .next (issue s c .vec 0x60 w
    fun i => effLanes i false 2 fun a b _ => (if cmpLane (fFT i.w) (bitsOf i.w 46 4) a b then 2 ^ ftWidth (fFT i.w) - 1 else 0, 0))

/-- SEL (R210). -/
def execSel (c : CoreId) (w : BitVec 64) (s : State) : Host.Outcome State Fault Refusal :=
  .next (issue s c .vec 0x61 w effSel)

/-- AND of VEC (R140). -/
def execVecAnd (c : CoreId) (w : BitVec 64) (s : State) : Host.Outcome State Fault Refusal :=
  .next (issue s c .vec 0x62 w
    fun i => effCarry i true false fun a b _ => a &&& b)

/-- OR of VEC (R140). -/
def execVecOr (c : CoreId) (w : BitVec 64) (s : State) : Host.Outcome State Fault Refusal :=
  .next (issue s c .vec 0x63 w
    fun i => effCarry i true false fun a b _ => a ||| b)

/-- XOR of VEC (R140). -/
def execVecXor (c : CoreId) (w : BitVec 64) (s : State) : Host.Outcome State Fault Refusal :=
  .next (issue s c .vec 0x64 w
    fun i => effCarry i true false fun a b _ => a ^^^ b)

/-- MOV (R210). -/
def execMov (c : CoreId) (w : BitVec 64) (s : State) : Host.Outcome State Fault Refusal :=
  .next (issue s c .vec 0x65 w
    fun i => effCarry i false false fun a _ _ => a)

/-- MOVI (R211). -/
def execMovi (c : CoreId) (w : BitVec 64) (s : State) : Host.Outcome State Fault Refusal :=
  .next (issue s c .vec 0x66 w effMovi)

/-- FGET (R193). -/
def execFget (c : CoreId) (w : BitVec 64) (s : State) : Host.Outcome State Fault Refusal :=
  .next (issue s c .vec 0x67 w effFget)

/-- GEN of VEC (R211). -/
def execGen (c : CoreId) (w : BitVec 64) (s : State) : Host.Outcome State Fault Refusal :=
  .next (issue s c .vec 0x68 w effGen)

/-- CVT (R212). -/
def execCvt (c : CoreId) (w : BitVec 64) (s : State) : Host.Outcome State Fault Refusal :=
  .next (issue s c .vec 0x6C w effCvt)

/-- MXSC (R213). -/
def execMxsc (c : CoreId) (w : BitVec 64) (s : State) : Host.Outcome State Fault Refusal :=
  .next (issue s c .vec 0x6D w effMxsc)

/-- SPEC (R214). -/
def execSpec (c : CoreId) (w : BitVec 64) (s : State) : Host.Outcome State Fault Refusal :=
  .next (issue s c .vec 0x6E w effSpec)

/-- BCAST (R210). -/
def execBcast (c : CoreId) (w : BitVec 64) (s : State) : Host.Outcome State Fault Refusal :=
  .next (issue s c .vec 0x70 w effBcast)

/-- SHUF (R210). -/
def execShuf (c : CoreId) (w : BitVec 64) (s : State) : Host.Outcome State Fault Refusal :=
  .next (issue s c .vec 0x71 w effShuf)

/-- TOPK (R142). -/
def execTopk (c : CoreId) (w : BitVec 64) (s : State) : Host.Outcome State Fault Refusal :=
  .next (issue s c .vec 0x72 w effTopk)

/-- RAND (R145). -/
def execRand (c : CoreId) (w : BitVec 64) (s : State) : Host.Outcome State Fault Refusal :=
  .next (issue s c .vec 0x74 w effRand)

/-- DROPM (R145). -/
def execDropm (c : CoreId) (w : BitVec 64) (s : State) : Host.Outcome State Fault Refusal :=
  .next (issue s c .vec 0x75 w effDropm)

/-- WCVT (R215). -/
def execWcvt (c : CoreId) (w : BitVec 64) (s : State) : Host.Outcome State Fault Refusal :=
  .next (issue s c .vec 0x76 w effWcvt)

/-- WACC (R215). -/
def execWacc (c : CoreId) (w : BitVec 64) (s : State) : Host.Outcome State Fault Refusal :=
  .next (issue s c .vec 0x77 w effWacc)

/-- WADD (R215). -/
def execWadd (c : CoreId) (w : BitVec 64) (s : State) : Host.Outcome State Fault Refusal :=
  .next (issue s c .vec 0x78 w effWadd)

/-- WRSUM (R215). -/
def execWrsum (c : CoreId) (w : BitVec 64) (s : State) : Host.Outcome State Fault Refusal :=
  .next (issue s c .vec 0x79 w effWrsum)

/-- WOUT (R215). -/
def execWout (c : CoreId) (w : BitVec 64) (s : State) : Host.Outcome State Fault Refusal :=
  .next (issue s c .vec 0x7A w effWout)

/-- WRANC (R215). -/
def execWranc (c : CoreId) (w : BitVec 64) (s : State) : Host.Outcome State Fault Refusal :=
  .next (issue s c .vec 0x7B w effWranc)

/-- FRSUM (R216). -/
def execFrsum (c : CoreId) (w : BitVec 64) (s : State) : Host.Outcome State Fault Refusal :=
  .next (issue s c .vec 0x7C w effFrsum)

/-- FSCAN (R216). -/
def execFscan (c : CoreId) (w : BitVec 64) (s : State) : Host.Outcome State Fault Refusal :=
  .next (issue s c .vec 0x7D w effFscan)

/-- FDOT (R216). -/
def execFdot (c : CoreId) (w : BitVec 64) (s : State) : Host.Outcome State Fault Refusal :=
  .next (issue s c .vec 0x7E w effFdot)

end Sys2Proof.Machine
end

