-- ==== Sys2Proof/Machine/Dispatch.lean ====
section
/-! DEFINITION. The dispatch: one arm for each constructor of Instr, each one call of that command's meaning. -/

namespace Sys2Proof.Machine

def exec (i : Instr) (s : State) : Host.Outcome State Fault Refusal :=
  match i with
  | .powerOn plan => Sys2Proof.Machine.execPowerOn plan s
  | .pithStartTimeout => Sys2Proof.Machine.execPithStartTimeout s
  | .standbyPowerLoss decivolt => Sys2Proof.Machine.execStandbyPowerLoss decivolt s
  | .moduleReset => Sys2Proof.Machine.execModuleReset s
  | .portReset p => Sys2Proof.Machine.execPortReset p s
  | .functionReset => Sys2Proof.Machine.execFunctionReset s
  | .perstDeassert p test => Sys2Proof.Machine.execPerstDeassert p test s
  | .forcedInputActive pin => Sys2Proof.Machine.execForcedInputActive pin s
  | .forcedInputRelease ix => Sys2Proof.Machine.execForcedInputRelease ix s
  | .stuckInput ix => Sys2Proof.Machine.execStuckInput ix s
  | .inputRange => Sys2Proof.Machine.execInputRange s
  | .inputRangeRelease => Sys2Proof.Machine.execInputRangeRelease s
  | .inputFail decivolt => Sys2Proof.Machine.execInputFail decivolt s
  | .inputRestored => Sys2Proof.Machine.execInputRestored s
  | .inputCurrent => Sys2Proof.Machine.execInputCurrent s
  | .inputCurrentRelease => Sys2Proof.Machine.execInputCurrentRelease s
  | .coolantSample inlet outlet watts => Sys2Proof.Machine.execCoolantSample inlet outlet watts s
  | .coolantRangeRelease => Sys2Proof.Machine.execCoolantRangeRelease s
  | .converterLost ix => Sys2Proof.Machine.execConverterLost ix s
  | .converterOverload => Sys2Proof.Machine.execConverterOverload s
  | .phaseFailure f p => Sys2Proof.Machine.execPhaseFailure f p s
  | .regulatorSample f x => Sys2Proof.Machine.execRegulatorSample f x s
  | .floorRelease f => Sys2Proof.Machine.execFloorRelease f s
  | .railTrip f rail => Sys2Proof.Machine.execRailTrip f rail s
  | .governorSample f milliwatts => Sys2Proof.Machine.execGovernorSample f milliwatts s
  | .dutySample kfit => Sys2Proof.Machine.execDutySample kfit s
  | .rateRaise fits => Sys2Proof.Machine.execRateRaise fits s
  | .calibration f rail measured modelled => Sys2Proof.Machine.execCalibration f rail measured modelled s
  | .thermalSensorSample f temps => Sys2Proof.Machine.execThermalSensorSample f temps s
  | .thermalRead f => Sys2Proof.Machine.execThermalRead f s
  | .trayCapSet steps => Sys2Proof.Machine.execTrayCapSet steps s
  | .refTick => Sys2Proof.Machine.execRefTick s
  | .slotAdvance f upsets => Sys2Proof.Machine.execSlotAdvance f upsets s
  | .refLossDetected => Sys2Proof.Machine.execRefLossDetected s
  | .refQualified micros => Sys2Proof.Machine.execRefQualified micros s
  | .refLost => Sys2Proof.Machine.execRefLost s
  | .sloeClock => Sys2Proof.Machine.execSloeClock s
  | .oscLockTimeout f => Sys2Proof.Machine.execOscLockTimeout f s
  | .watchdogWrite => Sys2Proof.Machine.execWatchdogWrite s
  | .watchdogExpiry => Sys2Proof.Machine.execWatchdogExpiry s
  | .pithFailure => Sys2Proof.Machine.execPithFailure s
  | .takeoverTimeout => Sys2Proof.Machine.execTakeoverTimeout s
  | .stemType src header => Sys2Proof.Machine.execStemType src header s
  | .errorEvent m => Sys2Proof.Machine.execErrorEvent m s
  | .fenceNotice f cause => Sys2Proof.Machine.execFenceNotice f cause s
  | .prepare u csn kind arg epoch => Sys2Proof.Machine.execPrepare u csn kind arg epoch s
  | .ack u csn status => Sys2Proof.Machine.execAck u csn status s
  | .commit u csn epoch => Sys2Proof.Machine.execCommit u csn epoch s
  | .abort u csn epoch => Sys2Proof.Machine.execAbort u csn epoch s
  | .ackDeadline => Sys2Proof.Machine.execAckDeadline s
  | .commitWaitTimeout u => Sys2Proof.Machine.execCommitWaitTimeout u s
  | .reprepare => Sys2Proof.Machine.execReprepare s
  | .yieldReport f b asid y mirror snap => Sys2Proof.Machine.execYieldReport f b asid y mirror snap s
  | .barrierArrive asid b f bun => Sys2Proof.Machine.execBarrierArrive asid b f bun s
  | .barrierRelease f asid b epoch => Sys2Proof.Machine.execBarrierRelease f asid b epoch s
  | .gateStatus f cause asid slot => Sys2Proof.Machine.execGateStatus f cause asid slot s
  | .setpoint f mv => Sys2Proof.Machine.execSetpoint f mv s
  | .phase f p disable => Sys2Proof.Machine.execPhase f p disable s
  | .rails f mask => Sys2Proof.Machine.execRails f mask s
  | .alertAck mask => Sys2Proof.Machine.execAlertAck mask s
  | .energySnap f => Sys2Proof.Machine.execEnergySnap f s
  | .halt f asid => Sys2Proof.Machine.execHalt f asid s
  | .jobHalt asid => Sys2Proof.Machine.execJobHalt asid s
  | .handlingTimeout d => Sys2Proof.Machine.execHandlingTimeout d s
  | .diagnosis c outcome => Sys2Proof.Machine.execDiagnosis c outcome s
  | .remap f failed => Sys2Proof.Machine.execRemap f failed s
  | .ageingSample f drifts => Sys2Proof.Machine.execAgeingSample f drifts s
  | .marginTest f m sites => Sys2Proof.Machine.execMarginTest f m sites s
  | .ymapRecordWrite step ents => Sys2Proof.Machine.execYmapRecordWrite step ents s
  | .rindFailed die => Sys2Proof.Machine.execRindFailed die s
  | .delay c e w => Sys2Proof.Machine.execDelay c e w s
  | .atSlot c e w => Sys2Proof.Machine.execAt c e w s
  | .yieldPoint c e w => Sys2Proof.Machine.execYield c e w s
  | .sync c e w => Sys2Proof.Machine.execSync c e w s
  | .lset c e w => Sys2Proof.Machine.execLset c e w s
  | .lend c e w => Sys2Proof.Machine.execLend c e w s
  | .aset c e w => Sys2Proof.Machine.execAset c e w s
  | .aadd c e w => Sys2Proof.Machine.execAadd c e w s
  | .lact c w => Sys2Proof.Machine.execLact c w s
  | .lscl c w => Sys2Proof.Machine.execLscl c w s
  | .lstat c w => Sys2Proof.Machine.execLstat c w s
  | .mcfg c w => Sys2Proof.Machine.execMcfg c w s
  | .pass c w => Sys2Proof.Machine.execPass c w s
  | .dcfg c w => Sys2Proof.Machine.execDcfg c w s
  | .drn c w => Sys2Proof.Machine.execDrn c w s
  | .dsnd c w => Sys2Proof.Machine.execDsnd c w s
  | .dflg c w => Sys2Proof.Machine.execDflg c w s
  | .drainGen c w => Sys2Proof.Machine.execDrainGen c w s
  | .vld c w => Sys2Proof.Machine.execVld c w s
  | .vst c w => Sys2Proof.Machine.execVst c w s
  | .sflg c w => Sys2Proof.Machine.execSflg c w s
  | .fadd c w => Sys2Proof.Machine.execFadd c w s
  | .fsub c w => Sys2Proof.Machine.execFsub c w s
  | .fmul c w => Sys2Proof.Machine.execFmul c w s
  | .ffma c w => Sys2Proof.Machine.execFfma c w s
  | .fmin c w => Sys2Proof.Machine.execFmin c w s
  | .fmax c w => Sys2Proof.Machine.execFmax c w s
  | .iadd c w => Sys2Proof.Machine.execIadd c w s
  | .isub c w => Sys2Proof.Machine.execIsub c w s
  | .imul c w => Sys2Proof.Machine.execImul c w s
  | .iadds c w => Sys2Proof.Machine.execIadds c w s
  | .isubs c w => Sys2Proof.Machine.execIsubs c w s
  | .ish c w => Sys2Proof.Machine.execIsh c w s
  | .cmp c w => Sys2Proof.Machine.execCmp c w s
  | .sel c w => Sys2Proof.Machine.execSel c w s
  | .vecAnd c w => Sys2Proof.Machine.execVecAnd c w s
  | .vecOr c w => Sys2Proof.Machine.execVecOr c w s
  | .vecXor c w => Sys2Proof.Machine.execVecXor c w s
  | .mov c w => Sys2Proof.Machine.execMov c w s
  | .movi c w => Sys2Proof.Machine.execMovi c w s
  | .fget c w => Sys2Proof.Machine.execFget c w s
  | .gen c w => Sys2Proof.Machine.execGen c w s
  | .cvt c w => Sys2Proof.Machine.execCvt c w s
  | .mxsc c w => Sys2Proof.Machine.execMxsc c w s
  | .spec c w => Sys2Proof.Machine.execSpec c w s
  | .bcast c w => Sys2Proof.Machine.execBcast c w s
  | .shuf c w => Sys2Proof.Machine.execShuf c w s
  | .topk c w => Sys2Proof.Machine.execTopk c w s
  | .rand c w => Sys2Proof.Machine.execRand c w s
  | .dropm c w => Sys2Proof.Machine.execDropm c w s
  | .wcvt c w => Sys2Proof.Machine.execWcvt c w s
  | .wacc c w => Sys2Proof.Machine.execWacc c w s
  | .wadd c w => Sys2Proof.Machine.execWadd c w s
  | .wrsum c w => Sys2Proof.Machine.execWrsum c w s
  | .wout c w => Sys2Proof.Machine.execWout c w s
  | .wranc c w => Sys2Proof.Machine.execWranc c w s
  | .frsum c w => Sys2Proof.Machine.execFrsum c w s
  | .fscan c w => Sys2Proof.Machine.execFscan c w s
  | .fdot c w => Sys2Proof.Machine.execFdot c w s
  | .scAdd c w => Sys2Proof.Machine.execScAdd c w s
  | .scSub c w => Sys2Proof.Machine.execScSub c w s
  | .scAnd c w => Sys2Proof.Machine.execScAnd c w s
  | .scOr c w => Sys2Proof.Machine.execScOr c w s
  | .scXor c w => Sys2Proof.Machine.execScXor c w s
  | .scShl c w => Sys2Proof.Machine.execScShl c w s
  | .scShr c w => Sys2Proof.Machine.execScShr c w s
  | .scSra c w => Sys2Proof.Machine.execScSra c w s
  | .scSlt c w => Sys2Proof.Machine.execScSlt c w s
  | .scSltu c w => Sys2Proof.Machine.execScSltu c w s
  | .scMul c w => Sys2Proof.Machine.execScMul c w s
  | .scDivu c w => Sys2Proof.Machine.execScDivu c w s
  | .scDiv c w => Sys2Proof.Machine.execScDiv c w s
  | .scRemu c w => Sys2Proof.Machine.execScRemu c w s
  | .scRem c w => Sys2Proof.Machine.execScRem c w s
  | .scAddi c w => Sys2Proof.Machine.execScAddi c w s
  | .scAndi c w => Sys2Proof.Machine.execScAndi c w s
  | .scOri c w => Sys2Proof.Machine.execScOri c w s
  | .scXori c w => Sys2Proof.Machine.execScXori c w s
  | .scShli c w => Sys2Proof.Machine.execScShli c w s
  | .scShri c w => Sys2Proof.Machine.execScShri c w s
  | .scSrai c w => Sys2Proof.Machine.execScSrai c w s
  | .scSlti c w => Sys2Proof.Machine.execScSlti c w s
  | .scLih c w => Sys2Proof.Machine.execScLih c w s
  | .scLd c w => Sys2Proof.Machine.execScLd c w s
  | .scSt c w => Sys2Proof.Machine.execScSt c w s
  | .scCadd c w => Sys2Proof.Machine.execScCadd c w s
  | .scBr c w => Sys2Proof.Machine.execScBr c w s
  | .scSsend c w => Sys2Proof.Machine.execScSsend c w s
  | .scSrecv c w => Sys2Proof.Machine.execScSrecv c w s
  | .scStrm c w => Sys2Proof.Machine.execScStrm c w s
  | .scWrd c w => Sys2Proof.Machine.execScWrd c w s
  | .instructionCompletion c e => Sys2Proof.Machine.execInstructionCompletion c e s
  | .streamArm c req => Sys2Proof.Machine.execStreamArm c req s
  | .streamReArm c req => Sys2Proof.Machine.execStreamReArm c req s
  | .streamRelease c req => Sys2Proof.Machine.execStreamRelease c req s
  | .descriptorStart f st => Sys2Proof.Machine.execDescriptorStart f st s
  | .blockIssue f st tag => Sys2Proof.Machine.execBlockIssue f st tag s
  | .burstIn f header data bruises => Sys2Proof.Machine.execBurstIn f header data bruises s
  | .landingComplete f tag => Sys2Proof.Machine.execLandingComplete f tag s
  | .rindRequest f tag found host => Sys2Proof.Machine.execRindRequest f tag found host s
  | .rindBurstSend f tag => Sys2Proof.Machine.execRindBurstSend f tag s
  | .rindOutBurst f tag data => Sys2Proof.Machine.execRindOutBurst f tag data s
  | .pageFaultService f st serve entries => Sys2Proof.Machine.execPageFaultService f st serve entries s
  | .translationInvalidate asid lo hi => Sys2Proof.Machine.execTranslationInvalidate asid lo hi s
  | .streamDrainTimeout f st => Sys2Proof.Machine.execStreamDrainTimeout f st s
  | .scrubVisit f p n => Sys2Proof.Machine.execScrubVisit f p n s
  | .segmentStateChange f place decl => Sys2Proof.Machine.execSegmentStateChange f place decl s
  | .channelRetire stack ch => Sys2Proof.Machine.execChannelRetire stack ch s
  | .channelCopyComplete stack ue => Sys2Proof.Machine.execChannelCopyComplete stack ue s
  | .sqEntryFetch q entry poison => Sys2Proof.Machine.execSqEntryFetch q entry poison s
  | .submitJob q fam draw => Sys2Proof.Machine.execSubmitJob q fam draw s
  | .jobPlacement asid root load => Sys2Proof.Machine.execJobPlacement asid root load s
  | .preemptJob q => Sys2Proof.Machine.execPreemptJob q s
  | .contextSave asid => Sys2Proof.Machine.execContextSave asid s
  | .saveSeal asid => Sys2Proof.Machine.execSaveSeal asid s
  | .resumeJob q => Sys2Proof.Machine.execResumeJob q s
  | .jobRestore asid root load => Sys2Proof.Machine.execJobRestore asid root load s
  | .endJob q => Sys2Proof.Machine.execEndJob q s
  | .supplement q fam => Sys2Proof.Machine.execSupplement q fam s
  | .mirrorResume q fam => Sys2Proof.Machine.execMirrorResume q fam s
  | .mapWindow q entries => Sys2Proof.Machine.execMapWindow q entries s
  | .unmapWindow q entries => Sys2Proof.Machine.execUnmapWindow q entries s
  | .pairSetup q => Sys2Proof.Machine.execPairSetup q s
  | .pairDissolve q => Sys2Proof.Machine.execPairDissolve q s
  | .sliceRelease q => Sys2Proof.Machine.execSliceRelease q s
  | .ctxOpen q => Sys2Proof.Machine.execCtxOpen q s
  | .ctxClose q => Sys2Proof.Machine.execCtxClose q s
  | .routeSet q => Sys2Proof.Machine.execRouteSet q s
  | .portRetrain q => Sys2Proof.Machine.execPortRetrain q s
  | .powerSet q => Sys2Proof.Machine.execPowerSet q s
  | .resumeInPlace asid => Sys2Proof.Machine.execResumeInPlace asid s
  | .fieldRest f => Sys2Proof.Machine.execFieldRest f s
  | .hello port src store logGib nports => Sys2Proof.Machine.execHello port src store logGib nports s
  | .pairFormationTimeout => Sys2Proof.Machine.execPairFormationTimeout s
  | .heartbeatSend port => Sys2Proof.Machine.execHeartbeatSend port s
  | .heartbeat port => Sys2Proof.Machine.execHeartbeat port s
  | .mirrorBlockAdmit asid => Sys2Proof.Machine.execMirrorBlockAdmit asid s
  | .mirrorWrite port w => Sys2Proof.Machine.execMirrorWrite port w s
  | .wack port job t seq => Sys2Proof.Machine.execWack port job t seq s
  | .mirrorComplete port job t => Sys2Proof.Machine.execMirrorComplete port job t s
  | .mirrorDiscard port job c => Sys2Proof.Machine.execMirrorDiscard port job c s
  | .pairFail port => Sys2Proof.Machine.execPairFail port s
  | .mirrorSilence => Sys2Proof.Machine.execMirrorSilence s
  | .mirrorIntervalCommit asid => Sys2Proof.Machine.execMirrorIntervalCommit asid s
  | .sliceRd port m => Sys2Proof.Machine.execSliceRd port m s
  | .sliceData port head body => Sys2Proof.Machine.execSliceData port head body s
  | .sliceRdTimeout first => Sys2Proof.Machine.execSliceRdTimeout first s
  | .linkFrame port fr => Sys2Proof.Machine.execLinkFrame port fr s
  | .frameSend port => Sys2Proof.Machine.execFrameSend port s
  | .ackTimeout port => Sys2Proof.Machine.execAckTimeout port s
  | .berWindow port => Sys2Proof.Machine.execBerWindow port s
  | .laneLockLoss port => Sys2Proof.Machine.execLaneLockLoss port s
  | .retrain port bad lanes => Sys2Proof.Machine.execRetrain port bad lanes s
  | .rdReq port m => Sys2Proof.Machine.execRdReq port m s
  | .rdRsp port m => Sys2Proof.Machine.execRdRsp port m s
  | .bupWr port m => Sys2Proof.Machine.execBupWr port m s
  | .wrAck port m => Sys2Proof.Machine.execWrAck port m s
  | .bupArm port m => Sys2Proof.Machine.execBupArm port m s
  | .armAck port m => Sys2Proof.Machine.execArmAck port m s
  | .bupBarrier port m => Sys2Proof.Machine.execBupBarrier port m s
  | .barAck port m => Sys2Proof.Machine.execBarAck port m s
  | .credit port m => Sys2Proof.Machine.execCredit port m s
  | .creditRet port m => Sys2Proof.Machine.execCreditRet port m s
  | .ctxOpenMsg port m => Sys2Proof.Machine.execCtxOpenMsg port m s
  | .ctxOpenAck port m => Sys2Proof.Machine.execCtxOpenAck port m s
  | .ctxCloseMsg port m => Sys2Proof.Machine.execCtxCloseMsg port m s
  | .creditGrant => Sys2Proof.Machine.execCreditGrant s
  | .creditIdleTimeout ctx => Sys2Proof.Machine.execCreditIdleTimeout ctx s
  | .contextTimeout ctx => Sys2Proof.Machine.execContextTimeout ctx s
  | .tailLineUpdate q cq count poison => Sys2Proof.Machine.execTailLineUpdate q cq count poison s
  | .sqDb q value half => Sys2Proof.Machine.execSqDb q value half s
  | .cqDb q value half => Sys2Proof.Machine.execCqDb q value half s
  | .completionWrite q => Sys2Proof.Machine.execCompletionWrite q s
  | .msixSend v => Sys2Proof.Machine.execMsixSend v s
  | .cxlPortDown p => Sys2Proof.Machine.execCxlPortDown p s
  | .cxlPortUp p test => Sys2Proof.Machine.execCxlPortUp p test s
  | .hostTransferTimeout f tag => Sys2Proof.Machine.execHostTransferTimeout f tag s
  | .hostWindowAccess addr write data poison => Sys2Proof.Machine.execHostWindowAccess addr write data poison s
  | .hdmDecoderCommit commit => Sys2Proof.Machine.execHdmDecoderCommit commit s
  | .doeDiscovery index => Sys2Proof.Machine.execDoeDiscovery index s
  | .cxlTableAccess entry => Sys2Proof.Machine.execCxlTableAccess entry s
  | .getVersion => Sys2Proof.Machine.execGetVersion s
  | .getCertificate offset len => Sys2Proof.Machine.execGetCertificate offset len s
  | .getMeasurements index nonce => Sys2Proof.Machine.execGetMeasurements index nonce s
  | .challenge nonce => Sys2Proof.Machine.execChallenge nonce s
  | .mctpAttestation nonce => Sys2Proof.Machine.execMctpAttestation nonce s
  | .signRequest digest => Sys2Proof.Machine.execSignRequest digest s
  | .entropyHealthFail => Sys2Proof.Machine.execEntropyHealthFail s
  | .entropyRestart passes => Sys2Proof.Machine.execEntropyRestart passes s
  | .seedDrawTimeout q => Sys2Proof.Machine.execSeedDrawTimeout q s
  | .regReset value half => Sys2Proof.Machine.execRegReset value half s
  | .regRecovery value half => Sys2Proof.Machine.execRegRecovery value half s
  | .logFree value half => Sys2Proof.Machine.execLogFree value half s
  | .queueEnable q value half => Sys2Proof.Machine.execQueueEnable q value half s
  | .queueDisable q value half => Sys2Proof.Machine.execQueueDisable q value half s
  | .qerrClear q x half => Sys2Proof.Machine.execQerrClear q x half s
  | .grantWrite g hi value half => Sys2Proof.Machine.execGrantWrite g hi value half s
  | .grantRevoke g value half => Sys2Proof.Machine.execGrantRevoke g value half s
  | .revokeComplete g => Sys2Proof.Machine.execRevokeComplete g s
  | .hostWinWrite value half => Sys2Proof.Machine.execHostWinWrite value half s
  | .endpointId value half => Sys2Proof.Machine.execEndpointId value half s
  | .ptEntry e value half => Sys2Proof.Machine.execPtEntry e value half s
  | .ptSeal value half => Sys2Proof.Machine.execPtSeal value half s
  | .recBegin value ok => Sys2Proof.Machine.execRecBegin value ok s
  | .recChunk value ok => Sys2Proof.Machine.execRecChunk value ok s
  | .recGo value ok plan => Sys2Proof.Machine.execRecGo value ok plan s
  | .lowHalfRead offset => Sys2Proof.Machine.execLowHalfRead offset s
  | .registerWrite offset value half => Sys2Proof.Machine.execRegisterWrite offset value half s
  | .sysRstNRelease plan => Sys2Proof.Machine.execSysRstNRelease plan s
  | .sliceSealingComplete ix => Sys2Proof.Machine.execSliceSealingComplete ix s
  | .takeoverComplete => Sys2Proof.Machine.execTakeoverComplete s
  | .lowerTreeReady => Sys2Proof.Machine.execLowerTreeReady s
  | .powerDownEntry far ch => Sys2Proof.Machine.execPowerDownEntry far ch s
  | .inputMeterUpdate watts decivolt deciamp millijoule => Sys2Proof.Machine.execInputMeterUpdate watts decivolt deciamp millijoule s

end Sys2Proof.Machine
end

