-- ==== Sys2Proof/Safety.lean ====
section
/-! DEFINITION. What counts as a safe step and a safe state, and the terms in which the claims speak of an issue, of a core and of
the parts of the state that a command leaves alone. -/

namespace Sys2Proof

open Sys2Proof.Machine

/-- The outcome is a next state. -/
def Safe (o : Host.Outcome State Fault Refusal) : Prop := ∃ t, o = .next t

/-- Every addressed memory, with its bruise bits, and the recovery window are in canonical form. -/
def MemInv (s : State) : Prop := memsWf s.mem = true ∧ memWf s.trs.window = true

/-! ## The issue of an instruction -/

/-- The word at the program counter of an engine is `w`: fetched through W0, in its instruction queue or in memory, and not bruised
(R158, R161, R358). -/
def Fetches (s : State) (c : CoreId) (e : Engine) (w : BitVec 64) : Prop := (fetchWord s c e).map (·.2) = some { w := w }

/-- Queues on which the word waits, as a mask (R184, R185). -/
def waitOf (s : State) (c : CoreId) (e : Engine) (w : BitVec 64) : Nat := waitMask (taskOf (coreAt s (ckey c)) e).masks w.toNat

/-- The engine may issue the word, with opcode `opc`, in the present slot as far as R219 goes: the engine is free, the word stands at
its program counter and is well formed, and every token that it waits for is there. -/
def MayIssue (s : State) (c : CoreId) (e : Engine) (opc : Nat) (w : BitVec 64) : Prop :=
  engineFree s c e = true ∧ Fetches s c e w ∧ opcOf w.toNat = opc ∧ wordOk (coreKind c.cor) e w.toNat = true ∧
    waitsUnmet (coreAt s (ckey c)) (waitOf s c e w) = false ∧ waitForeign (coreAt s (ckey c)) e (waitOf s c e w) = false

/-- The tokens of the wait mask are taken (R164); the other engines of the core and the other cores stand as they are in `s'`. -/
def TakesTokensFrom (s s' t : State) (c : CoreId) (e : Engine) (w : BitVec 64) : Prop :=
  (∀ q, tabGet 0 (coreAt t (ckey c)).tok q =
    tabGet 0 (coreAt s (ckey c)).tok q - b2n ((maskList (waitOf s c e w)).contains q)) ∧
  (∀ e', e' ≠ e → taskOf (coreAt t (ckey c)) e' = taskOf (coreAt s' (ckey c)) e') ∧
  (∀ k, k ≠ ckey c → coreAt t k = coreAt s' k)

/-- The instruction has issued: its tokens are taken, the program counter of its engine is `pc`, the engine may issue again in slot
`next`, and the instruction stands in flight until slot `fin` with its post mask (R164, R166, R186, R195). The cores are those of `s'`
beside that. -/
def IssuesFrom (s s' t : State) (c : CoreId) (e : Engine) (w : BitVec 64) (pc : BitVec 32) (next fin : Nat) : Prop :=
  TakesTokensFrom s s' t c e w ∧ (taskOf (coreAt t (ckey c)) e).pc = pc ∧ (taskOf (coreAt t (ckey c)) e).ready = next ∧
  ∃ fl : Flight, (taskOf (coreAt t (ckey c)) e).flights = (taskOf (coreAt s (ckey c)) e).flights ++ [fl] ∧ fl.done = fin ∧
    fl.post = BitVec.ofNat 16 (postMask (taskOf (coreAt s (ckey c)) e).masks w.toNat)

/-- The same, where nothing else of the other engines and cores moves. -/
def Issues (s t : State) (c : CoreId) (e : Engine) (w : BitVec 64) (pc : BitVec 32) (next fin : Nat) : Prop :=
  IssuesFrom s s t c e w pc next fin

/-- The program counter after an instruction that does not jump (R186). -/
def nextPc (s : State) (c : CoreId) (e : Engine) : BitVec 32 := (taskOf (coreAt s (ckey c)) e).pc + 8

/-- Of its task, an instruction changes what `g` changes, and what every issue does (R186, R195). -/
def TaskIs (s t : State) (c : CoreId) (e : Engine) (g : Task → Task) : Prop :=
  taskOf (coreAt t (ckey c)) e =
    { g (taskOf (coreAt s (ckey c)) e) with
      pc := (taskOf (coreAt t (ckey c)) e).pc, ready := (taskOf (coreAt t (ckey c)) e).ready,
      held := (taskOf (coreAt t (ckey c)) e).held, flights := (taskOf (coreAt t (ckey c)) e).flights }

/-- Nothing outside the cores is changed. -/
def OnlyCores (s t : State) : Prop := t = { s with cor := t.cor }

/-- Of its core, an instruction changes nothing but its tokens and its task. -/
def OnlyTask (s t : State) (c : CoreId) : Prop :=
  coreAt t (ckey c) = { coreAt s (ckey c) with tok := (coreAt t (ckey c)).tok, tasks := (coreAt t (ckey c)).tasks }

/-- An instruction that moves one unit a slot has begun (R166, R195). `s'` is the state with the unit that is due in the slot of issue
moved, `p` the instruction's record after it. With units left, the record stands; else the instruction is in flight. -/
def UnitsBegin (s t s' : State) (c : CoreId) (e : Engine) (w : BitVec 64) (p : Prog) (g : Task → Task) : Prop :=
  let k := ckey c
  let u := slotOf s c.fld
  let ended := decide (p.n ≤ p.idx)
  let post := BitVec.ofNat 16 (postMask (taskOf (coreAt s k) e).masks w.toNat)
  TakesTokensFrom s s' t c e w ∧
  (∀ x, tabGet none (coreAt t k).prog x =
    if x = engCode e then (if ended then none else some { p with post := post, w := w, t := u }) else tabGet none (coreAt s k).prog x) ∧
  taskOf (coreAt t k) e =
    { g (taskOf (coreAt s k) e) with
      pc := nextPc s c e, ready := u + (if ended ∧ p.slots = [] then p.step else 1), held := false
      flights := (taskOf (coreAt s k) e).flights ++
        (if ended then [{ done := u + p.lat, onAccept := p.kind == 11, post := post, slot := p.dcfg.slot.toNat, flags := BitVec.ofNat 8 p.flags }] else []) } ∧
  coreAt t k = { coreAt s' k with tok := (coreAt t k).tok, tasks := (coreAt t k).tasks, prog := (coreAt t k).prog } ∧
  t = { s' with cor := t.cor }

/-- Scalar register j of a core; x0 reads zero (R147). -/
def xReg (s : State) (k j : Nat) : BitVec 64 := if j = 0 then 0 else tabGet 0 (coreAt s k).x j

/-- The on-die bytes outside [a, a + n) read as they did. -/
def DieKept (s t : State) (a n : Nat) : Prop := ∀ x, (x < a ∨ a + n ≤ x) → memByte t.mem.die x = memByte s.mem.die x

/-! ## Vector results -/

/-- Every source register may be read in the present slot (R141). -/
def SourcesReady (s : State) (c : CoreId) (l : List VSrc) : Prop := ∀ x ∈ l, tabGet 0 (coreAt s (ckey c)).vrdy x.reg ≤ slotOf s c.fld

/-- A VEC instruction has issued: it occupies the engine for `occ` slots, and its register writes `ws` land `lat` slots after the last
of them (R140, R141, R166); it ORs `flags` into a status slot when it completes (R193); `lanes` lane-slots of its class are counted
(R486). The adder forwards the running sum of quad `fwd` from it (R143). Beside `g` on its task, nothing else is changed. -/
def VecIssues (s t : State) (c : CoreId) (w : BitVec 64) (occ lat : Nat) (ws : List VWrite) (slot flags lanes : Nat)
    (fwd : Option Nat := none) (g : Task → Task := id) : Prop :=
  let k := ckey c
  let due := slotOf s c.fld + occ - 1 + lat
  Issues s t c .vec w (nextPc s c .vec) (slotOf s c.fld + occ) (due - 1) ∧ TaskIs s t c .vec g ∧
  (coreAt t k).vwr = (coreAt s k).vwr ++ ws ∧ (∀ x ∈ ws, x.due = due ∧ x.ld = false) ∧
  (∀ r, tabGet 0 (coreAt t k).vrdy r = if r ∈ ws.map (·.reg) then due else tabGet 0 (coreAt s k).vrdy r) ∧
  (∀ q, tabGet false (coreAt t k).vfwd q =
    if fwd = some q then true else if fwd = none ∧ q ∈ ws.map (·.reg / 4) then false else tabGet false (coreAt s k).vfwd q) ∧
  ((taskOf (coreAt t k) .vec).flights.getLast?.map fun x => (x.slot, x.flags)) = some (slot, BitVec.ofNat 8 flags) ∧
  coreAt t k =
    { coreAt s k with
      tok := (coreAt t k).tok, tasks := (coreAt t k).tasks, vwr := (coreAt t k).vwr,
      vrdy := (coreAt t k).vrdy, vfwd := (coreAt t k).vfwd } ∧
  t = { countAct s c.fld (actLanes (vecClass (opcOf w.toNat))) lanes with cor := t.cor }

/-- A register write of `n` elements of `ew` bits into bits [lo, lo + len) of register `reg`, with the bruise bits `br` for the
granules `sel`. -/
def Writes (x : VWrite) (reg lo len ew n br sel : Nat) (val : Nat → Nat) : Prop :=
  x.reg = reg ∧ x.lo = lo ∧ x.len = len ∧ x.br = br ∧ x.brSel = sel ∧ ∀ j, j < n → laneOf ew x.v j = val j % 2 ^ ew

/-- The value of a register write that is no array of lanes. -/
def WritesAll (x : VWrite) (reg v : Nat) : Prop := x.reg = reg ∧ x.lo = 0 ∧ x.len = 2048 ∧ x.br = 0 ∧ x.brSel = 15 ∧ x.v = v

/-- The four writes of a W128 quad with the values `val` (R134). -/
def WritesQuad (ws : List VWrite) (q : Nat) (val : Nat → Int) : Prop :=
  ws.length = 4 ∧ ∀ r, r < 4 → ∃ x, ws[r]? = some x ∧ Writes x (4 * q + r) 0 2048 128 16 0 15 fun j => wrapInt (val (16 * r + j)) 128

end Sys2Proof
end

