-- ==== Sys2Proof/Certificates/Slice0/Obligations.lean ====
section
/-! DEFINITION. The statements for the provers. Each formalises rules of spec/ that its docstring names. -/

open Sys2Proof Sys2Proof.Machine

/-! ## The queue -/

/-- A step takes the command at the front of the queue and has its effect on the state with the queue's rest; on an empty queue the
module idles, unless a command has interrupted bring-up, of which it then runs the phase in progress: the model's choice (log 3). -/
def Obligations.StepRunsTheFrontCommand : Prop :=
  (∀ (c : Instr) (rest : List Instr) (s : State), step { s with pending := c :: rest } = exec c { s with pending := rest }) ∧
  ∀ s : State, s.pending = [] →
    (s.brg.plan = none ∨ bringWaits s = true → step s = .next s) ∧ (bringWaits s = false → step s = .next (phaseRun s))

/-! ## Pacing, loop and address instructions -/

/-- An instruction that changes nothing but its task. -/
def Sys2Proof.TaskForm (i : CoreId → BitVec 64 → Instr) (e : Engine) (opc : Nat) (pc : State → CoreId → BitVec 64 → BitVec 32)
    (next fin : State → CoreId → BitVec 64 → Nat) (g : State → CoreId → BitVec 64 → Task → Task) : Prop :=
  ∀ (s : State) (c : CoreId) (w : BitVec 64), MayIssue s c e opc w →
    ∃ t, exec (i c w) s = .next t ∧ Issues s t c e w (pc s c w) (next s c w) (fin s c w) ∧ TaskIs s t c e (g s c w) ∧
      OnlyTask s t c ∧ OnlyCores s t

/-- Slot at which AT releases its engine: PB + T from the schedule anchor of the field's job (R172, R196). -/
def Sys2Proof.atSlotOf (s : State) (c : CoreId) (e : Engine) (w : BitVec 64) : Nat :=
  anchorOf s c.fld (fieldOf s c.fld).cond.owner + (taskOf (coreAt s (ckey c)) e).pb.toNat + bitsOf w.toNat 19 40

/-- R172, R196, R199: DELAY n occupies n slots; AT holds until slot PB + T and adds T to PB where ADV is set; ASET and AADD write an
address register. A wait and a post are taken as by every instruction, and nothing else of the module changes. -/
def Sys2Proof.PacingAndAddressInstructionsComplete : Prop :=
  ∀ e : Engine,
    TaskForm (fun c w => .delay c e w) e 0x01 (fun s c _ => nextPc s c e) (fun s c w => slotOf s c.fld + (bitsOf w.toNat 19 16 + 1))
      (fun s c w => slotOf s c.fld + bitsOf w.toNat 19 16) (fun _ _ _ t => t) ∧
    TaskForm (fun c w => .atSlot c e w) e 0x02 (fun s c _ => nextPc s c e) (fun s c w => max (slotOf s c.fld + 1) (atSlotOf s c e w))
      (fun s c w => max (slotOf s c.fld + 1) (atSlotOf s c e w) - 1)
      (fun _ _ w t => if w.getLsbD 59 then { t with pb := t.pb + (w.extractLsb' 19 40).setWidth 64 } else t) ∧
    TaskForm (fun c w => .aset c e w) e 0x07 (fun s c _ => nextPc s c e) (fun s c _ => slotOf s c.fld + 1) (fun s c _ => slotOf s c.fld)
      (fun _ _ w t => { t with areg := tabPut 0 (bitsOf w.toNat 19 3) (w.extractLsb' 22 32) t.areg }) ∧
    TaskForm (fun c w => .aadd c e w) e 0x08 (fun s c _ => nextPc s c e) (fun s c _ => slotOf s c.fld + 1) (fun s c _ => slotOf s c.fld)
      (fun _ _ w t => { t with areg := tabPut 0 (bitsOf w.toNat 19 3)
                                 (tabGet 0 t.areg (bitsOf w.toNat 19 3) + w.extractLsb' 22 32) t.areg })

/-- R198: LSET sets a loop counter to N; LEND lowers it by one, which leaves 0 at 0, and jumps back by DISP instructions while the
counter is not zero. The slots that a jump loses are R159's. -/
def Sys2Proof.LoopInstructionsComplete : Prop :=
  ∀ e : Engine,
    TaskForm (fun c w => .lset c e w) e 0x05 (fun s c _ => nextPc s c e) (fun s c _ => slotOf s c.fld + 1) (fun s c _ => slotOf s c.fld)
      (fun _ _ w t => { t with lctr := tabPut 0 (bitsOf w.toNat 19 2) (bitsOf w.toNat 21 16 + 1) t.lctr }) ∧
    TaskForm (fun c w => .lend c e w) e 0x06
      (fun s c w =>
        let t := taskOf (coreAt s (ckey c)) e
        if tabGet 0 t.lctr (bitsOf w.toNat 19 2) ≤ 1 then t.pc + 8 else t.pc - BitVec.ofNat 32 (8 * (bitsOf w.toNat 21 16 + 1)))
      (fun s c w =>
        let t := taskOf (coreAt s (ckey c)) e
        slotOf s c.fld + 1 +
          if tabGet 0 t.lctr (bitsOf w.toNat 19 2) ≤ 1 then 0
          else jumpCost t (t.pc - BitVec.ofNat 32 (8 * (bitsOf w.toNat 21 16 + 1))).toNat)
      (fun s c _ => slotOf s c.fld)
      (fun _ _ w t => { t with lctr := tabPut 0 (bitsOf w.toNat 19 2) (tabGet 0 t.lctr (bitsOf w.toNat 19 2) - 1) t.lctr })

/-- R172, R196, R198, R199: DELAY n occupies n slots; AT holds until slot PB + T and adds T to PB where ADV is set; ASET and AADD write an
address register. A wait and a post are taken as by every instruction, and nothing else of the module changes. LSET sets a loop counter to
N; LEND lowers it by one, which leaves 0 at 0, and jumps back by DISP instructions while the counter is not zero. The slots that a jump
loses are R159's. -/
def Obligations.PacingAndLoopInstructionsComplete : Prop :=
  Sys2Proof.PacingAndAddressInstructionsComplete ∧ Sys2Proof.LoopInstructionsComplete

/-- R172, R197: YIELD counts the next yield point, at K epochs after the last one, and holds until the first slot of its epoch. -/
def Sys2Proof.YieldHoldsUntilItsEpoch : Prop :=
  ∀ e : Engine,
    let j := fun (s : State) (c : CoreId) (w : BitVec 64) => (taskOf (coreAt s (ckey c)) e).ybase + (bitsOf w.toNat 19 4 + 1)
    let first := fun (s : State) (c : CoreId) (w : BitVec 64) => anchorOf s c.fld (fieldOf s c.fld).cond.owner + 4096 * j s c w
    TaskForm (fun c w => .yieldPoint c e w) e 0x03 (fun s c _ => nextPc s c e) (fun s c w => max (slotOf s c.fld + 1) (first s c w))
      (fun s c w => max (slotOf s c.fld) (first s c w - 1))
      (fun s c w t => { t with yctr := t.yctr + 1, ybase := j s c w, pace := .yieldAt t.yctr (j s c w) (w.getLsbD 23) })

/-- R172, R174, R217: SYNC b holds its engine in barrier b; with the last task of a bunch to be held there, the bunch's scalar core owes
BARRIER_ARRIVE, which is due in the slot after. -/
def Sys2Proof.SyncArrivesAtTheBarrier : Prop :=
  ∀ (s : State) (c : CoreId) (e : Engine) (w : BitVec 64), MayIssue s c e 0x04 w →
    let n := bitsOf w.toNat 19 4
    let o : Owed := { bun := c.bun, kind := 2, asid := (fieldOf s c.fld).cond.owner, n := n, due := slotOf s c.fld + 1 }
    ∃ t, exec (.sync c e w) s = .next t ∧
      Issues s t c e w (nextPc s c e) (slotOf s c.fld + 1) (slotOf s c.fld) ∧
      TaskIs s t c e (fun x => { x with pace := .syncAt n }) ∧ OnlyTask s t c ∧
      (((taskOf (coreAt t (ckey c)) e).flights.getLast?).map (·.onSync)) = some true ∧
      t = { (if bunchSynced t c.fld c.bun n then owe s c.fld o else s) with cor := t.cor }

/-- R147, R186, R217: in its slot a message that a scalar core owes is sent to the job's owner or the pith, and leaves the list of those
owed; it occupies the SCALAR engine of its bunch for the slot. -/
def Sys2Proof.OwedMessagesLeaveInTheirSlot : Prop :=
  ∀ (s : State) (f : FieldIx) (t : Nat) (o : Owed) (rest : List Owed),
    (fieldOf s f).job.owed = o :: rest → o.due ≠ 0 → o.due ≤ t → (∀ x ∈ rest, x.due = 0 ∨ t < x.due) → o.bun < 36 →
    let u := sendOwed f t s
    let k := coreKey f o.bun 7
    (fieldOf u f).job.owed = rest ∧ u.stem.msgs = s.stem.msgs ++ [packet s (owedMsg f o)] ∧
      (o.kind = 2 → owedMsg f o = .arrive o.asid o.n f (Fin.ofNat 36 o.bun)) ∧
      (o.kind ≠ 2 → owedMsg f o = .yieldReport f (Fin.ofNat 36 o.bun) o.asid o.n (o.kind == 1)) ∧
      (taskOf (coreAt u k) .scalar).ready = max (taskOf (coreAt s k) .scalar).ready (t + 1) ∧
      ∀ j, j ≠ k → coreAt u j = coreAt s j

/-- R172, R174, R197, R217: YIELD counts the next yield point, at K epochs after the last one, and holds until the first slot of its epoch.
SYNC b holds its engine in barrier b; with the last task of a bunch to be held there, the bunch's scalar core owes BARRIER_ARRIVE, due in
the slot after; in its slot an owed message is sent, and occupies SCALAR. -/
def Obligations.YieldAndSyncHoldUntilTheirTime : Prop :=
  Sys2Proof.YieldHoldsUntilItsEpoch ∧ Sys2Proof.SyncArrivesAtTheBarrier ∧ Sys2Proof.OwedMessagesLeaveInTheirSlot

/-! ## The scalar core -/

/-- One register form of the scalar core: RD takes `f` of the two operands, and nothing else but the issue itself changes. An operand
read before its producer's latency has elapsed is the free value that `xGet` draws (log 12). -/
def Sys2Proof.ScalarForm (i : CoreId → BitVec 64 → Instr) (opc occ lat : Nat) (imm : Bool) (f : BitVec 64 → BitVec 64 → BitVec 64) : Prop :=
  ∀ (s : State) (c : CoreId) (w : BitVec 64), MayIssue s c .scalar opc w →
    let k := ckey c
    let rd := fRD w.toNat
    let a := xGet s k (fRS1 w.toNat) (slotOf s c.fld)
    let b := if imm then ((w.extractLsb' 31 32).signExtend 64).toNat else (xGet a.2 k (fRS2 w.toNat) (slotOf s c.fld)).1
    let sb := if imm then a.2 else (xGet a.2 k (fRS2 w.toNat) (slotOf s c.fld)).2
    ∃ t, exec (i c w) s = .next t ∧
      Issues s t c .scalar w (nextPc s c .scalar) (slotOf s c.fld + occ) (slotOf s c.fld + occ - 1 + lat - 1) ∧
      TaskIs s t c .scalar id ∧
      (∀ j, xReg t k j = if j = rd ∧ j ≠ 0 then f (BitVec.ofNat 64 a.1) (BitVec.ofNat 64 b) else xReg s k j) ∧
      (∀ j, j ≠ 0 → tabGet 0 (coreAt t k).xrdy j = if j = rd then slotOf s c.fld + occ - 1 + lat else tabGet 0 (coreAt s k).xrdy j) ∧
      coreAt t k = { coreAt s k with tok := (coreAt t k).tok, tasks := (coreAt t k).tasks, x := (coreAt t k).x, xrdy := (coreAt t k).xrdy } ∧
      t = { s with cor := t.cor, free := sb.free }

/-- R147, R148, R217: the fifteen register forms, with their results, their occupancy and their latency. -/
def Sys2Proof.ScalarRegisterFormsComplete : Prop :=
  ScalarForm .scAdd 0x90 1 1 false (· + ·) ∧ ScalarForm .scSub 0x91 1 1 false (· - ·) ∧
  ScalarForm .scAnd 0x92 1 1 false (· &&& ·) ∧ ScalarForm .scOr 0x93 1 1 false (· ||| ·) ∧
  ScalarForm .scXor 0x94 1 1 false (· ^^^ ·) ∧
  ScalarForm .scShl 0x95 1 1 false (fun a b => a <<< (b.toNat % 64)) ∧
  ScalarForm .scShr 0x96 1 1 false (fun a b => a >>> (b.toNat % 64)) ∧
  ScalarForm .scSra 0x97 1 1 false (fun a b => a.sshiftRight (b.toNat % 64)) ∧
  ScalarForm .scSlt 0x98 1 1 false (fun a b => if a.slt b then 1 else 0) ∧
  ScalarForm .scSltu 0x99 1 1 false (fun a b => if a.ult b then 1 else 0) ∧
  ScalarForm .scMul 0x9A 1 3 false (· * ·) ∧
  ScalarForm .scDivu 0x9B 20 20 false (fun a b => if b = 0 then BitVec.allOnes 64 else a / b) ∧
  ScalarForm .scDiv 0x9C 20 20 false (fun a b => if b = 0 then BitVec.allOnes 64 else a.sdiv b) ∧
  ScalarForm .scRemu 0x9D 20 20 false (fun a b => if b = 0 then a else a % b) ∧
  ScalarForm .scRem 0x9E 20 20 false (fun a b => if b = 0 then a else a.srem b)

/-- R147, R217: the nine immediate forms. -/
def Sys2Proof.ScalarImmediateFormsComplete : Prop :=
  ScalarForm .scAddi 0xA0 1 1 true (· + ·) ∧ ScalarForm .scAndi 0xA1 1 1 true (· &&& ·) ∧
  ScalarForm .scOri 0xA2 1 1 true (· ||| ·) ∧ ScalarForm .scXori 0xA3 1 1 true (· ^^^ ·) ∧
  ScalarForm .scShli 0xA4 1 1 true (fun a b => a <<< (b.toNat % 64)) ∧
  ScalarForm .scShri 0xA5 1 1 true (fun a b => a >>> (b.toNat % 64)) ∧
  ScalarForm .scSrai 0xA6 1 1 true (fun a b => a.sshiftRight (b.toNat % 64)) ∧
  ScalarForm .scSlti 0xA7 1 1 true (fun a b => if a.slt b then 1 else 0) ∧
  ScalarForm .scLih 0xA8 1 1 true (fun a b => (b <<< 32) ||| (a &&& 0xFFFFFFFF))

/-- R147, R148, R217: the fifteen register forms, with their results, their occupancy and their latency, and the nine immediate forms. -/
def Obligations.ScalarArithmeticCompletes : Prop :=
  Sys2Proof.ScalarRegisterFormsComplete ∧ Sys2Proof.ScalarImmediateFormsComplete

/-- Byte offset of a scalar memory access: x[RS1] + OFF, the sum wrapping in 64 bits (R217). -/
def Sys2Proof.smOffset (s : State) (c : CoreId) (w : BitVec 64) : Nat :=
  wrapInt (((xGet s (ckey c) (fRS1 w.toNat) (slotOf s c.fld)).1 : Int) + sextNat (bitsOf w.toNat 34 24) 24) 64

/-- The state's free-value counter after that address is formed. -/
def Sys2Proof.smState (s : State) (c : CoreId) (w : BitVec 64) : State := (xGet s (ckey c) (fRS1 w.toNat) (slotOf s c.fld)).2

/-- The access of `n` bytes is made, at ODA `oda`, as `units` units in the slots `slots` of the wheel, or none for core memory: its offset is
a multiple of `al`, its window permits it, and its places are ON (R160, R161, R217, R233, R236). -/
def Sys2Proof.SmAccess (s : State) (c : CoreId) (w : BitVec 64) (n al : Nat) (rs : List Right) (oda units : Nat) (slots : List Nat) : Prop :=
  let win := winOf (taskOf (coreAt s (ckey c)) .scalar) (bitsOf w.toNat 31 3)
  smOffset s c w % al = 0 ∧ (∀ r ∈ rs, hasRight win r = true) ∧ dieAccess s c win (rs.headD .rd) (smOffset s c w) n = some oda ∧
    accessUnits { s := s, c := c, e := .scalar, w := w.toNat, t := slotOf s c.fld } oda n 1 = some (units, slots)

/-- The on-die memory is changed in the `n` bytes from `oda` on alone, where it reads `v`; beside the bruise bits, the codes and the check words
follow the write (R243, R355). -/
def Sys2Proof.DieTakes (s t : State) (oda n v : Nat) : Prop :=
  dieRead t oda n = v ∧ DieKept s t oda n ∧ t.mem = { s.mem with die := t.mem.die, dieBr := t.mem.dieBr, flips := t.mem.flips, unckd := t.mem.unckd }

/-- R147, R150, R217, R224, R233: LD brings 8 bytes into RD, to be read four slots on; ST makes its store of its data register at the end of
its slot, and CADD its addition three slots after; each with its block, in the slot of issue or where the wheel serves the core. -/
def Sys2Proof.ScalarMemoryFormsComplete : Prop :=
  ∀ (s : State) (c : CoreId) (w : BitVec 64) (oda n : Nat) (slots : List Nat),
    let k := ckey c
    let u := slotOf s c.fld
    let rd := fRD w.toNat
    let a := smState s c w
    let v := xGet a k rd u
    (MayIssue s c .scalar 0xB0 w → SmAccess s c w 8 8 [.rd] oda n slots →
      let p : Prog := { kind := 6, w := w, total := 8, n := n, t := u, first := rd, lat := 3, oda := oda, slots := slots }
      let a := unitNote a c p
      ∃ t, exec (.scLd c w) s = .next t ∧
        (unitSlot p 0 ≤ u → dieBruised s oda 8 = false → UnitsBegin s t
          (xPut k rd (dieRead s oda 8) (u + 4) (countAct a c.fld actSram 1)) c .scalar w { p with idx := 1 } id) ∧
        (u < unitSlot p 0 → UnitsBegin s t (smState s c w) c .scalar w p id)) ∧
    (MayIssue s c .scalar 0xB1 w → SmAccess s c w 8 8 [.wr] oda n slots →
      let p : Prog := { kind := 7, w := w, total := 8, n := n, t := u, buf := v.1, lat := 3, oda := oda, slots := slots }
      ∃ t, exec (.scSt c w) s = .next t ∧
        (unitSlot p 0 ≤ u → UnitsBegin s t
          (putDie (countAct v.2 c.fld actSram 1) c { due := u, oda := oda, n := 8, v := v.1 }) c .scalar w { p with idx := 1 } id) ∧
        (u < unitSlot p 0 → UnitsBegin s t v.2 c .scalar w p id)) ∧
    (MayIssue s c .scalar 0xB2 w → SmAccess s c w 8 8 [.rd, .wr] oda n slots →
      let p : Prog := { kind := 8, w := w, total := 8, n := n, t := u, buf := v.1, lat := 3, oda := oda, slots := slots }
      ∃ t, exec (.scCadd c w) s = .next t ∧
        (unitSlot p 0 ≤ u → dieBruised s oda 8 = false → UnitsBegin s t
          (putDie (countAct (unitNote v.2 c p) c.fld actSram 2) c { due := u + 3, oda := oda, n := 8, v := v.1, add := true }) c .scalar w
          { p with idx := 1 } id) ∧
        (u < unitSlot p 0 → UnitsBegin s t v.2 c .scalar w p id))

/-- R150, R225, R243, R357: a write of on-die memory changes its own bytes alone, to its value, or to the sum modulo 2^(8n) of a CADD; a write
of whole granules gives them the bruise bits that it carries. -/
def Sys2Proof.StoresLandInTheirBytesAlone : Prop :=
  ∀ (s : State) (x : DieWrite), MemInv s →
    (x.mask = none → x.add = false → DieTakes s (landDie s x) x.oda x.n (x.v % 2 ^ (8 * x.n))) ∧
    (x.mask = none → x.add = true → DieTakes s (landDie s x) x.oda x.n ((dieRead s x.oda x.n + x.v) % 2 ^ (8 * x.n))) ∧
    (∀ m, x.mask = some m → x.add = false → x.n % 64 = 0 → x.oda % 64 = 0 →
      DieTakes s (landDie s x) x.oda x.n (x.v % 2 ^ (8 * x.n)) ∧
      ∀ g, tabGet false (landDie s x).mem.dieBr g =
        if x.oda / 64 ≤ g ∧ g < x.oda / 64 + x.n / 64 then bitOf m (g - x.oda / 64) else tabGet false s.mem.dieBr g)

/-- Condition COND of BR (R217). -/
def Sys2Proof.BrTaken (cond : Nat) (a b : BitVec 64) : Prop :=
  (cond = 0 ∧ a = b) ∨ (cond = 1 ∧ a ≠ b) ∨ (cond = 2 ∧ a.slt b) ∨ (cond = 3 ∧ ¬ a.slt b) ∨ (cond = 4 ∧ a.ult b) ∨
  (cond = 5 ∧ ¬ a.ult b) ∨ cond = 6

/-- R148, R160, R217: BR goes to PC + 8 × DISP where its condition holds and to the next instruction else, in two slots; WRD brings a
window register into RD. -/
def Obligations.BranchAndWindowReadComplete : Prop :=
  (∀ (s : State) (c : CoreId) (w : BitVec 64), MayIssue s c .scalar 0xB4 w →
    let k := ckey c
    let pc := (taskOf (coreAt s k) .scalar).pc
    let tgt := pc + 8 * (w.extractLsb' 40 24).signExtend 32
    let a := xGet s k (fRS1 w.toNat) (slotOf s c.fld)
    let b := xGet a.2 k (fRS2 w.toNat) (slotOf s c.fld)
    let cond := bitsOf w.toNat 37 3
    ∃ t, exec (.scBr c w) s = .next t ∧
      (BrTaken cond (BitVec.ofNat 64 a.1) (BitVec.ofNat 64 b.1) →
        Issues s t c .scalar w tgt (slotOf s c.fld + 2 + jumpCost (taskOf (coreAt s k) .scalar) tgt.toNat) (slotOf s c.fld + 1)) ∧
      (¬ BrTaken cond (BitVec.ofNat 64 a.1) (BitVec.ofNat 64 b.1) →
        Issues s t c .scalar w (pc + 8) (slotOf s c.fld + 2) (slotOf s c.fld + 1)) ∧
      TaskIs s t c .scalar id ∧ OnlyTask s t c ∧ t = { s with cor := t.cor, free := b.2.free }) ∧
  (∀ (s : State) (c : CoreId) (w : BitVec 64), MayIssue s c .scalar 0xBB w →
    let k := ckey c
    ∃ t, exec (.scWrd c w) s = .next t ∧
      Issues s t c .scalar w (nextPc s c .scalar) (slotOf s c.fld + 1) (slotOf s c.fld) ∧ TaskIs s t c .scalar id ∧
      (∀ j, xReg t k j = if j = fRD w.toNat ∧ j ≠ 0 then tabGet 0 (taskOf (coreAt s k) .scalar).win (bitsOf w.toNat 25 3) else xReg s k j) ∧
      (∀ j, j ≠ 0 → tabGet 0 (coreAt t k).xrdy j = if j = fRD w.toNat then slotOf s c.fld + 1 else tabGet 0 (coreAt s k).xrdy j) ∧
      coreAt t k = { coreAt s k with tok := (coreAt t k).tok, tasks := (coreAt t k).tasks, x := (coreAt t k).x, xrdy := (coreAt t k).xrdy } ∧
      OnlyCores s t)

/-- The 128 bytes at an ODA as a flit, with the bruise bits of its two granules (R45, R357). -/
def Sys2Proof.flitAt (s : State) (oda : Nat) : Flit :=
  { data := BitVec.ofNat 1024 (dieRead s oda 128), b0 := tabGet false s.mem.dieBr (oda / 64), b1 := tabGet false s.mem.dieBr (oda / 64 + 1) }

/-- The core after `fl` has been written to the send queue (DST 1; R152, R169, R170) or to the bunch exchange (DST 2; R153). -/
def Sys2Proof.Sent (x : Core) (dst to_ : Nat) (fl : List (Nat × Flit)) : Core :=
  if dst = 1 then (if x.late then x else { x with sendq := x.sendq ++ fl.map (·.2), sendAt := x.sendAt ++ fl.map (·.1) })
  else { x with exch := x.exch ++ fl.map fun p => (p.1 + 2, to_, p.2) }

/-- The record of a gathering read after its first unit, of `len` bytes, has joined without completing an item. -/
def Sys2Proof.gathered (s : State) (p : Prog) (len : Nat) : Prog :=
  { p with idx := 1, buf := dieRead s p.oda len, bbr := brMask s.mem.dieBr (p.oda / 64) (len / 64), blen := len }

/-- R152, R153, R171, R217, R261, R262: SSEND sends 128 bytes by the send queue or the bunch exchange, with their bruise bits, written two
slots after the block that completes them; SRECV takes the oldest flit of the receive queue and makes its stores with its bruise bits;
STRM sends a request flit with its operation in bits [1:0] and completes when the stream complex accepts it. A core whose send was late
discards its sends (R170). -/
def Sys2Proof.ScalarFlitFormsComplete : Prop :=
  ∀ (s : State) (c : CoreId) (w : BitVec 64) (oda n : Nat) (slots : List Nat),
    let k := ckey c
    let u := slotOf s c.fld
    let core := coreAt s k
    let a := smState s c w
    (MayIssue s c .scalar 0xB8 w → SmAccess s c w 128 64 [.rd] oda n slots →       let p : Prog := { kind := 9, w := w, total := 128, n := n, t := u, lat := 2, oda := oda, slots := slots }
      let len := (unitRange p 0).2
      let m := unitNote a c p
      ∃ t, exec (.scSsend c w) s = .next t ∧
        (unitSlot p 0 ≤ u → len = 128 → UnitsBegin s t
          (modCore (countAct m c.fld actSram 1) k fun x => Sent x (bitsOf w.toNat 58 2) (bitsOf w.toNat 60 3) [(u + 2, flitAt m oda)])
          c .scalar w { p with idx := 1, item := 1 } id) ∧
        (unitSlot p 0 ≤ u → len < 128 → UnitsBegin s t (countAct m c.fld actSram 1) c .scalar w (gathered m p len) id) ∧
        (u < unitSlot p 0 → UnitsBegin s t a c .scalar w p id)) ∧
    (∀ f rest, MayIssue s c .scalar 0xB9 w → SmAccess s c w 128 64 [.wr] oda n slots → 0 < readable core u → core.recvq = f :: rest →
      let p : Prog := { kind := 10, w := w, total := 128, n := n, t := u, lat := 1, oda := oda, slots := slots }
      let len := (unitRange p 0).2
      ∃ t, exec (.scSrecv c w) s = .next t ∧
        (unitSlot p 0 ≤ u → UnitsBegin s t
          (countAct (putDie (modCore a k (dropRecv 1)) c
            { due := u, oda := oda, n := len, v := bitsOf f.data.toNat 0 (8 * len), mask := some (bitsOf (flitMask f) 0 (len / 64)) })
            c.fld actSram 1) c .scalar w { p with idx := 1, buf := f.data.toNat, bbr := flitMask f } id) ∧
        (u < unitSlot p 0 → UnitsBegin s t a c .scalar w p id)) ∧
    (MayIssue s c .scalar 0xBA w → SmAccess s c w 128 64 [.rd] oda n slots → dieBruised s oda 128 = false →
      let p : Prog := { kind := 11, w := w, total := 128, n := n, t := u, lat := 2, oda := oda, slots := slots }
      let len := (unitRange p 0).2
      let m := unitNote a c p
      ∃ t, exec (.scStrm c w) s = .next t ∧
        (unitSlot p 0 ≤ u → len = 128 → UnitsBegin s t
          (modCore (countAct m c.fld actSram 1) k fun x =>
            Sent x 1 0 [(u + 2, { data := BitVec.ofNat 1024 (dieRead s oda 128 / 4 * 4 + bitsOf w.toNat 58 2), src := k + 1 })])
          c .scalar w { p with idx := 1, item := 1 } id) ∧
        (unitSlot p 0 ≤ u → len < 128 → UnitsBegin s t (countAct m c.fld actSram 1) c .scalar w (gathered m p len) id) ∧
        (u < unitSlot p 0 → UnitsBegin s t a c .scalar w p id))

/-- R147, R150, R152, R153, R171, R217, R224, R233, R261, R262: LD brings 8 bytes into RD, ST stores its data register's 8 bytes, and CADD
raises 8 bytes by it modulo 2⁶⁴ three slots on. SSEND sends 128 bytes by the send queue or the bunch exchange, with their bruise bits; SRECV
stores the oldest flit of the receive queue with its bruise bits; STRM sends a request flit with its operation in bits [1:0] and completes
when the stream complex accepts it. A core whose send was late discards its sends (R170). Each block moves in the slot of issue, or where
the wheel serves the core. -/
def Obligations.ScalarMemoryAndFlitsComplete : Prop :=
  Sys2Proof.ScalarMemoryFormsComplete ∧ Sys2Proof.ScalarFlitFormsComplete

/-- Exactly the event `m` enters its unit's event buffer, merged with an entry of the same report (R370, R371). -/
def Sys2Proof.Raises (s t : State) (m : ErrMsg) : Prop := t.stem = { s.stem with events := mergeEvent m s.stem.events }

/-- R242, R357, R358: LD, CADD and STRM consume a bruised granule: where the granule of a block that is due in the slot of issue reads as
bruised, the core reports BRUISE_CONSUMED with the granule's address and the opcode, beside what the read itself reports, and the engine
issues no more. -/
def Sys2Proof.ScalarReadsConsumeBruises : Prop :=
  ∀ (s : State) (c : CoreId) (w : BitVec 64) (i : Instr) (kind opc len al oda n : Nat) (rs : List Right) (slots : List Nat),
    (i = .scLd c w ∧ kind = 6 ∧ opc = 0xB0 ∧ len = 8 ∧ al = 8 ∧ rs = [.rd]) ∨
      (i = .scCadd c w ∧ kind = 8 ∧ opc = 0xB2 ∧ len = 8 ∧ al = 8 ∧ rs = [.rd, .wr]) ∨
      (i = .scStrm c w ∧ kind = 11 ∧ opc = 0xBA ∧ len = 128 ∧ al = 64 ∧ rs = [.rd]) →
    MayIssue s c .scalar opc w → SmAccess s c w len al rs oda n slots → dieBruised s (oda / 64 * 64) 64 = true →
    slots.headD (slotOf s c.fld) ≤ slotOf s c.fld →
    ∃ t, exec i s = .next t ∧ (coreAt t (ckey c)).faulted = addNew (engCode .scalar) (coreAt s (ckey c)).faulted ∧
      engineFree t c .scalar = false ∧
      Raises (unitNote s c { kind := kind, w := w, total := len, n := n, t := slotOf s c.fld, oda := oda, slots := slots, lat := 0 }) t
        (mkEvent (bunchAddr c.fld c.bun) (slotOf s c.fld) 0x0201 (fieldOf s c.fld).cond.owner c.cor (engCode .scalar) (oda / 64 * 64) opc)

/-- R150, R225, R242, R243, R357, R358: a write of on-die memory changes its own bytes alone, to its value, or to the sum modulo 2^(8n) of a
CADD, and a write of whole granules gives them the bruise bits that it carries; LD, CADD and STRM consume a bruised granule, which stops
the engine and is reported as BRUISE_CONSUMED. -/
def Obligations.StoresLandAndReadsConsumeBruises : Prop :=
  Sys2Proof.StoresLandInTheirBytesAlone ∧ Sys2Proof.ScalarReadsConsumeBruises

/-! ## Generator and mode registers of the engines -/

/-- GEN on the generator registers (R211). -/
def Sys2Proof.GenTakes (w : BitVec 64) (g g' : Gen) : Prop :=
  let imm : BitVec 32 := w.extractLsb' 23 32
  let op := bitsOf w.toNat 19 3
  (op = 0 → g' = { g with cb := imm.setWidth 48 }) ∧
  (op = 1 → g' = { g with cb := (imm.setWidth 16 ++ g.cb.setWidth 32 : BitVec (16 + 32)) }) ∧
  (op = 2 → g' = { g with cb := g.cb + imm.signExtend 48 }) ∧
  (op = 3 → g' = { g with cs := imm }) ∧ (op = 4 → g' = { g with cr := imm }) ∧
  (op = 5 → g' = if w.getLsbD 22 then { g with gs1 := imm.setWidth 24 } else { g with gs0 := imm.setWidth 24 }) ∧
  (op = 6 → g' = { g with step := g.step + imm }) ∧ (op = 7 → g' = { g with step := imm })

/-- R190, R203, R205, R211: MCFG and DCFG write the mode registers of MAC and DRAIN, and GEN those of the generator of VEC or DRAIN, in
one slot; GEN of VEC is of class LOGIC and completes a slot later (R140). Nothing else changes. -/
def Sys2Proof.ModeAndGeneratorInstructionsComplete : Prop :=
  TaskForm .mcfg .mac 0x20 (fun s c _ => nextPc s c .mac) (fun s c _ => slotOf s c.fld + 1) (fun s c _ => slotOf s c.fld)
    (fun _ _ w t => { t with afmt := w.extractLsb' 19 4, mslot := w.extractLsb' 23 4 }) ∧
  TaskForm .dcfg .drain 0x30 (fun s c _ => nextPc s c .drain) (fun s c _ => slotOf s c.fld + 1) (fun s c _ => slotOf s c.fld)
    (fun _ _ w t =>
      { t with dcfg :=
          { fmt := w.extractLsb' 19 4, rnd := w.extractLsb' 23 2, ovf := w.getLsbD 25, anch := w.extractLsb' 26 8,
            slot := w.extractLsb' 34 4, g := w.getLsbD 38, clr := w.getLsbD 39 } }) ∧
  ∀ (s : State) (c : CoreId) (w : BitVec 64) (e : Engine) (i : Instr),
    (e = .vec ∧ i = .gen c w ∧ MayIssue s c e 0x68 w) ∨ (e = .drain ∧ i = .drainGen c w ∧ MayIssue s c e 0x34 w) →
    ∃ t g', exec i s = .next t ∧ Issues s t c e w (nextPc s c e) (slotOf s c.fld + 1) (slotOf s c.fld + if e = .vec then 1 else 0) ∧
      GenTakes w (taskOf (coreAt s (ckey c)) e).gen g' ∧ TaskIs s t c e (fun x => { x with gen := g' }) ∧ OnlyTask s t c ∧ OnlyCores s t

/-- A memory operand's access of `bytes` bytes is made at ODA `oda`, as `n` units in the slots `slots` of the wheel, or `units` for core
memory (R160, R189, R233, R236). -/
def Sys2Proof.MemAccess (s : State) (c : CoreId) (e : Engine) (w : BitVec 64) (b bytes units : Nat) (r : Right)
    (oda n : Nat) (slots : List Nat) : Prop :=
  let task := taskOf (coreAt s (ckey c)) e
  let m := memOp w.toNat b
  dieAccess s c (winOf task m.win) r (memOffset task m) bytes = some oda ∧
    accessUnits { s := s, c := c, e := e, w := w.toNat, t := slotOf s c.fld } oda bytes units = some (n, slots)

/-- R193, R208, R209: DFLG stores a status slot of DRAIN or MAC, and SFLG one of VEC, as 8 bytes with the flags in the lowest, and clears
the slot where CLR is 1, in the slot in which the block is made. -/
def Sys2Proof.StatusSlotStoresComplete : Prop :=
  ∀ (s : State) (c : CoreId) (w : BitVec 64) (e src : Engine) (i : Instr) (clr : Bool) (oda n : Nat) (slots : List Nat),
    let k := ckey c
    let u := slotOf s c.fld
    let m := memOp w.toNat 19
    let slot := bitsOf w.toNat 39 4
    let clear := fun (t : Task) => if clr then { t with status := tabPut 0 slot 0 t.status } else t
    (e = .drain ∧ i = .dflg c w ∧ MayIssue s c e 0x33 w ∧ src = (if w.getLsbD 43 then .mac else .drain) ∧ clr = w.getLsbD 44) ∨
      (e = .store ∧ i = .sflg c w ∧ MayIssue s c e 0x81 w ∧ src = .vec ∧ clr = w.getLsbD 43) →
    MemAccess s c e w 19 8 1 .wr oda n slots →
    let p : Prog :=
      { kind := 12, w := w, total := 8, n := n, t := u, first := engCode src, item := slot, lat := 3, oda := oda, slots := slots }
    ∃ t, exec i s = .next t ∧
      (unitSlot p 0 ≤ u → UnitsBegin s t
        (countAct (putDie (modCore s k fun x => modTask x src clear) c
          { due := u, oda := oda, n := 8, v := (tabGet 0 (taskOf (coreAt s k) src).status slot).toNat }) c.fld actSram 1)
        c e w { p with idx := 1 } (fun x => memIncr m (if src = e then clear x else x))) ∧
      (u < unitSlot p 0 → UnitsBegin s t s c e w p (memIncr m))

/-- R190, R193, R203, R205, R208, R209, R211: MCFG and DCFG write the mode registers of MAC and DRAIN, and GEN those of the generator of VEC
or DRAIN, in one slot; nothing else changes. DFLG stores a status slot of DRAIN or MAC, and SFLG one of VEC, as 8 bytes with the flags in
the lowest, and clears the slot where CLR is 1. -/
def Obligations.ModesGeneratorsAndStatusSlotsComplete : Prop :=
  Sys2Proof.ModeAndGeneratorInstructionsComplete ∧ Sys2Proof.StatusSlotStoresComplete

/-! ## Instructions that move one unit a slot -/

/-- The first line or entry that LACT or LSCL fills (R200, R201). -/
def Sys2Proof.firstLine (s : State) (c : CoreId) (w : BitVec 64) (count : Nat) : Nat :=
  (bitsOf w.toNat 40 10 + aregGet (taskOf (coreAt s (ckey c)) .load) (bitsOf w.toNat 50 3)) % count

/-- R200, R201, R224, R233: LACT and LSCL from memory fill the activation buffer or the scale side array with the bytes of their first
block, where it is due in the slot of issue, and stand in progress with the rest; a buffer granule takes the bruise of what fills it. -/
def Obligations.BufferFillsFromMemoryBegin : Prop :=
  ∀ (s : State) (c : CoreId) (w : BitVec 64) (oda n : Nat) (slots : List Nat),
    let k := ckey c
    let u := slotOf s c.fld
    let size := lclsSize (bitsOf w.toNat 62 2)
    let rd := fun (len o : Nat) => dieRead s (oda + o) len
    let br := fun (m : State) (o : Nat) => tabGet false m.mem.dieBr ((oda + o) / 64)
    let g := memIncr (memOp w.toNat 19)
    (MayIssue s c .load 0x10 w → w.getLsbD 39 = false →
      let total := (bitsOf w.toNat 53 9 + 1) * size
      MemAccess s c .load w 19 total ((total + 127) / 128) .rd oda n slots →
      let p : Prog := { kind := 0, w := w, total := total, n := n, t := u, first := firstLine s c w (lineCountOf size), lat := 3, oda := oda, slots := slots }
      let r := unitRange p 0
      let m := unitNote s c p
      ∃ t, exec (.lact c w) s = .next t ∧
        (unitSlot p 0 ≤ u → UnitsBegin s t
          (countAct (modCore m k (actBytes p.first size total r.1 r.2 (rd 32) (br m))) c.fld actSram 1) c .load w { p with idx := 1 } g) ∧
        (u < unitSlot p 0 → UnitsBegin s t s c .load w p g)) ∧
    (MayIssue s c .load 0x11 w → w.getLsbD 39 = false →
      let total := 4 * (bitsOf w.toNat 53 9 + 1)
      MemAccess s c .load w 19 total ((total + 127) / 128) .rd oda n slots →
      let p : Prog := { kind := 1, w := w, total := total, n := n, t := u, first := firstLine s c w 1024, lat := 3, oda := oda, slots := slots }
      let r := unitRange p 0
      let m := unitNote s c p
      ∃ t, exec (.lscl c w) s = .next t ∧
        (unitSlot p 0 ≤ u → UnitsBegin s t
          (countAct (modCore m k (sideBytes p.first total r.1 r.2 (rd 4) (br m))) c.fld actSram 1) c .load w { p with idx := 1 } g) ∧
        (u < unitSlot p 0 → UnitsBegin s t s c .load w p g))

/-- R171, R200, R201, R209: the receive-queue forms of LACT, LSCL and VLD take the flits of their first unit from the receive queue, with
their bruise bits, where enough have arrived. -/
def Obligations.ReceiveQueueFormsBegin : Prop :=
  ∀ (s : State) (c : CoreId) (w : BitVec 64) (f : Flit) (rest : List Flit),
    let k := ckey c
    let u := slotOf s c.fld
    let size := lclsSize (bitsOf w.toNat 62 2)
    let v := f.data.toNat
    let rd := fun (len o : Nat) => bitsOf v (8 * o) (8 * len)
    let br := fun (o : Nat) => if o / 64 = 0 then f.b0 else f.b1
    (coreAt s k).recvq = f :: rest →
    (MayIssue s c .load 0x10 w → w.getLsbD 39 = true → 1 ≤ readable (coreAt s k) u →
      let total := (bitsOf w.toNat 53 9 + 1) * size
      let p : Prog := { kind := 0, w := w, total := total, n := (total + 127) / 128, t := u, first := firstLine s c w (lineCountOf size), lat := 3, rq := true }
      ∃ t, exec (.lact c w) s = .next t ∧
        UnitsBegin s t (modCore s k fun x => actBytes p.first size total 0 128 (rd 32) br (dropRecv 1 x)) c .load w { p with idx := 1 } id) ∧
    (MayIssue s c .load 0x11 w → w.getLsbD 39 = true → 1 ≤ readable (coreAt s k) u →
      let total := 4 * (bitsOf w.toNat 53 9 + 1)
      let p : Prog := { kind := 1, w := w, total := total, n := (total + 127) / 128, t := u, first := firstLine s c w 1024, lat := 3, rq := true }
      ∃ t, exec (.lscl c w) s = .next t ∧
        UnitsBegin s t (modCore s k fun x => sideBytes p.first total 0 128 (rd 4) br (dropRecv 1 x)) c .load w { p with idx := 1 } id) ∧
    (∀ f' more, rest = f' :: more → MayIssue s c .load 0x40 w → w.getLsbD 37 = true → 2 ≤ readable (coreAt s k) u →
      let p : Prog := { kind := 2, w := w, total := 256 * (bitsOf w.toNat 28 9 + 1), n := bitsOf w.toNat 28 9 + 1, t := u, first := bitsOf w.toNat 19 9, lat := 3, rq := true }
      ∃ t, exec (.vld c w) s = .next t ∧
        UnitsBegin s t (modCore s k fun x =>
          vldWrite p 0 u (v + f'.data.toNat * 2 ^ 1024) (flitMask f + 4 * flitMask f') (dropRecv 2 x)) c .load w { p with idx := 1 } id)

/-- R209, R224, R233: VLD begins with the bytes of its first unit, a register's 256 of core memory or a block of shared memory: a register
they fill is written with the bruise bits of its four granules, readable four slots after. VST begins with the store of its first unit,
made at the end of the slot. The instruction is in flight until 3 slots after its last unit. -/
def Obligations.VectorLoadAndStoreBegin : Prop :=
  ∀ (s : State) (c : CoreId) (w : BitVec 64) (oda n : Nat) (slots : List Nat),
    let k := ckey c
    let u := slotOf s c.fld
    let nr := bitsOf w.toNat 28 9 + 1
    let reg := bitsOf w.toNat 19 9
    (MayIssue s c .load 0x40 w → w.getLsbD 37 = false → MemAccess s c .load w 38 (256 * nr) nr .rd oda n slots →
      let p : Prog := { kind := 2, w := w, total := 256 * nr, n := n, t := u, first := reg, lat := 3, oda := oda, slots := slots }
      let g := memIncr (memOp w.toNat 38)
      let len := (unitRange p 0).2
      let m := unitNote s c p
      ∃ t, exec (.vld c w) s = .next t ∧
        (unitSlot p 0 ≤ u → len = 256 → UnitsBegin s t
          (countAct (modCore m k (vldWrite p 0 u (dieRead m oda 256) (brMask m.mem.dieBr (oda / 64) 4))) c.fld actSram 2)
          c .load w { p with idx := 1, item := 1 } g) ∧
        (unitSlot p 0 ≤ u → len < 256 → UnitsBegin s t (countAct m c.fld actSram ((len + 127) / 128)) c .load w (gathered m p len) g) ∧
        (u < unitSlot p 0 → UnitsBegin s t s c .load w p g)) ∧
    (MayIssue s c .store 0x80 w → bitsOf w.toNat 37 2 = 0 → MemAccess s c .store w 39 (256 * nr) nr .wr oda n slots →
      let p : Prog := { kind := 3, w := w, total := 256 * nr, n := n, t := u, first := reg, lat := 3, oda := oda, slots := slots }
      let g := memIncr (memOp w.toNat 39)
      let len := (unitRange p 0).2
      ∃ t, exec (.vst c w) s = .next t ∧
        (unitSlot p 0 ≤ u → UnitsBegin s t
          (countAct (putDie s c
            { due := u, oda := oda, n := len, v := bitsOf (vregOf (coreAt s k) reg) 0 (8 * len)
              mask := some (bitsOf (vbrOf (coreAt s k) reg) 0 (len / 64)) }) c.fld actSram ((len + 127) / 128))
          c .store w { p with idx := 1 } g) ∧
        (u < unitSlot p 0 → UnitsBegin s t s c .store w p g))

/-- R152, R153, R169, R207, R209: VST to the send queue or the exchange writes the two flits of its first register three slots on; DSND
writes its first flit two slots after the block that completes it, with the bruise bits of the memory it came from. -/
def Sys2Proof.FlitSendersBegin : Prop :=
  ∀ (s : State) (c : CoreId) (w : BitVec 64) (oda n : Nat) (slots : List Nat),
    let k := ckey c
    let u := slotOf s c.fld
    (MayIssue s c .store 0x80 w → bitsOf w.toNat 37 2 ≠ 0 →
      let reg := bitsOf w.toNat 19 9
      let v := vregOf (coreAt s k) reg
      let b := vbrOf (coreAt s k) reg
      let p : Prog := { kind := 3, w := w, n := bitsOf w.toNat 28 9 + 1, t := u, first := reg, lat := 3 }
      ∃ t, exec (.vst c w) s = .next t ∧
        UnitsBegin s t (modCore s k fun x => Sent x (bitsOf w.toNat 37 2) (bitsOf w.toNat 39 3)
          [(u + 3, { data := BitVec.ofNat 1024 v, b0 := bitOf b 0, b1 := bitOf b 1 }),
           (u + 3, { data := BitVec.ofNat 1024 (v / 2 ^ 1024), b0 := bitOf b 2, b1 := bitOf b 3 })]) c .store w { p with idx := 1 } id) ∧
    (MayIssue s c .drain 0x32 w →
      let nf := bitsOf w.toNat 39 12 + 1
      MemAccess s c .drain w 19 (128 * nf) nf .rd oda n slots →
      let p : Prog := { kind := 5, w := w, total := 128 * nf, n := n, t := u, lat := 2, oda := oda, slots := slots }
      let g := memIncr (memOp w.toNat 19)
      let len := (unitRange p 0).2
      let m := unitNote s c p
      ∃ t, exec (.dsnd c w) s = .next t ∧
        (unitSlot p 0 ≤ u → len = 128 → UnitsBegin s t
          (modCore (countAct m c.fld actSram 1) k fun x =>
            Sent x (bitsOf w.toNat 51 2) (bitsOf w.toNat 53 3) [(u + 2, flitAt m oda)]) c .drain w { p with idx := 1, item := 1 } g) ∧
        (unitSlot p 0 ≤ u → len < 128 → UnitsBegin s t (countAct m c.fld actSram ((len + 127) / 128)) c .drain w (gathered m p len) g) ∧
        (u < unitSlot p 0 → UnitsBegin s t s c .drain w p g))

/-- R113, R114, R206: DRN drains its first accumulator row in its format: to memory 16 slots on, or as flits that fill 128 bytes at a time
and leave 16 slots on; with CLR it clears the row and its flags; its rows take one slot each, or four in W128. Its flags are those of the
conversions and of the entries. -/
def Sys2Proof.DrainBegins : Prop :=
  ∀ (s : State) (c : CoreId) (w : BitVec 64), MayIssue s c .drain 0x31 w →
    let k := ckey c
    let u := slotOf s c.fld
    let core := coreAt s k
    let task := taskOf core .drain
    let d := task.dcfg
    let row := bitsOf w.toNat 19 9 + aregGet task (bitsOf w.toNat 28 3)
    let nr := bitsOf w.toNat 31 9 + 1
    let lanes := laneCount core
    let bytes := lanes * fmtBits d.fmt.toNat / 8
    let dst := bitsOf w.toNat 40 2
    let p : Prog :=
      { kind := 4, w := w, n := nr, t := u, step := if d.fmt = 15 then 4 else 1, first := row, dcfg := d, gen := task.gen,
        policy := policyOf s c.fld (fieldOf s c.fld).cond.owner, lat := 16 }
    let l := (List.range lanes).map fun j => drnEntry p lanes 0 j (tabGet {} core.acc (64 * row + j))
    let v := packLanes (fmtBits d.fmt.toNat) (l.map (·.1))
    let cleared := fun (x : Core) => if d.clr then { x with acc := tabClear (64 * row) 64 x.acc } else x
    d.fmt ≠ 0 → row + nr ≤ accRows core row → pendingRow core row = false → rowBruised core row = false →
    (∀ oda, dst = 0 → coreWin task (memOp w.toNat 42).win = true →
      dieAccess s c (winOf task (memOp w.toNat 42).win) .wr (memOffset task (memOp w.toNat 42)) (nr * bytes) = some oda →
      ∃ t, exec (.drn c w) s = .next t ∧
        UnitsBegin s t
          (countAct (putDie (modCore s k cleared) c { due := u + 16, oda := oda, n := bytes, v := v }) c.fld actSram ((bytes + 127) / 128))
          c .drain w { p with oda := oda, total := nr * bytes, flags := orFlags (l.map (·.2)), idx := 1 } (memIncr (memOp w.toNat 42))) ∧
    (dst ≠ 0 →
      let whole := bytes / 128
      let left := bytes % 128
      let fs := (List.range whole).map (fun i => bitsOf v (1024 * i) 1024) ++ if nr = 1 ∧ left ≠ 0 then [v / 2 ^ (1024 * whole)] else []
      let out := fs.zipIdx.map fun f => (u + 16 - (fs.length - 1) / 2 + f.2 / 2, ({ data := BitVec.ofNat 1024 f.1 } : Flit))
      ∃ t, exec (.drn c w) s = .next t ∧
        UnitsBegin s t (modCore s k fun x => Sent (cleared x) dst (bitsOf w.toNat 42 3) out) c .drain w
          { p with flags := orFlags (l.map (·.2)), idx := 1, buf := if nr = 1 then 0 else v / 2 ^ (1024 * whole)
                   blen := if nr = 1 then 0 else left } id)

/-- R113, R114, R152, R153, R169, R206, R207, R209: VST to the send queue or the exchange writes the two flits of its first register three
slots on; DSND writes its first flit two slots on, with the bruise bits of the memory it came from. DRN drains its first accumulator row
in its format: to memory 16 slots on, or as flits that fill 128 bytes at a time and leave 16 slots on; with CLR it clears the row and its
flags; its rows take one slot each, or four in W128. Its flags are those of the conversions and of the entries. -/
def Obligations.FlitSendersAndDrainsBegin : Prop :=
  Sys2Proof.FlitSendersBegin ∧ Sys2Proof.DrainBegins

/-! ## The matrix core -/

/-- The whole extent that a tile header gives lies in the window, from offset `o` on (R202, R292). -/
def Sys2Proof.TileInside (s : State) (c : CoreId) (win o : Nat) (h : TileHdr) : Prop :=
  0 ≤ (o : Int) + (tileExtent h).1 ∧
    (dieAccess s c win .rd ((o : Int) + (tileExtent h).1).toNat ((tileExtent h).2 - (tileExtent h).1).toNat).isSome = true

/-- R110, R161, R202, R296: LSTAT begins a stationary load where no load is in progress, no replay waits and the pass before has entered: its
tiles' headers are well formed and their extents lie in the window. It occupies LOAD for 64 slots and completes with its last row. -/
def Sys2Proof.StationaryLoadBegins : Prop :=
  ∀ (s : State) (c : CoreId) (w : BitVec 64) (oda0 : Nat), MayIssue s c .load 0x12 w →
    let k := ckey c
    let core := coreAt s k
    let task := taskOf core .load
    let fmt := bitsOf w.toNat 39 4
    let tr := w.getLsbD 43
    let m := memOp w.toNat 19
    let win := winOf task m.win
    let o := memOffset task m
    let x : StatSrc := { base := oda0 - o - coreBase c, off := o, win := win, fmt := fmt, tr := tr }
    let h0 := srcHdr s (coreBase c) x o
    let o1 := secondTile o h0
    let h1 := srcHdr s (coreBase c) x o1
    core.entered ≤ slotOf s c.fld → core.replay = 0 → core.loads = [] → coreWin task m.win = true →
    dieAccess s c win .rd o 32 = some oda0 → tileHdrOk h0 fmt tr = true → TileInside s c win o h0 →
    (fmtBits fmt ≤ 6 → (dieAccess s c win .rd o1 32).isSome = true ∧ tileHdrOk h1 fmt tr = true ∧ TileInside s c win o1 h1) →
    ∃ t, exec (.lstat c w) s = .next t ∧ Issues s t c .load w (nextPc s c .load) (slotOf s c.fld + 64) (slotOf s c.fld + 63) ∧
      TaskIs s t c .load (memIncr m) ∧
      coreAt t k = { core with tok := (coreAt t k).tok, tasks := (coreAt t k).tasks, loads := [{ src := x, t := slotOf s c.fld }] } ∧
      OnlyCores s t

/-- The elements of the tiles of a source as memory stands: reduction element k of lane j (R108, R202). -/
def Sys2Proof.srcElem (s : State) (cb : Nat) (x : StatSrc) (k j : Nat) : Nat :=
  let h0 := srcHdr s cb x x.off
  let o1 := secondTile x.off h0
  let e0 := tileElems h0 (srcRead s cb x x.off)
  let e1 := tileElems (srcHdr s cb x o1) (srcRead s cb x o1)
  cellElem x.tr e0.1 (if twoTiles x.fmt then e1.1 else fun _ => 0) k j

/-- The scale byte of block b of stationary lane j (R109, R290). -/
def Sys2Proof.srcScaleOf (s : State) (cb : Nat) (x : StatSrc) (j b : Nat) : Nat :=
  let h0 := srcHdr s cb x x.off
  let o := if b < 2 then x.off else secondTile x.off h0
  let h := if b < 2 then h0 else srcHdr s cb x o
  if fmtMX x.fmt then srcRead s cb x o (32 + 2 * (j : Int) + (b % 2 : Nat)) 1 else if fmtBits x.fmt = 16 then 127 else h.tscale

/-- R104, R108, R109, R117, R119, R121, R202, R287 to R296: in its slot a stationary load writes row r of the set from the source as it
stands: its one or two reduction elements in every lane, transposed where TR is 0, their check weights, and the scales of their block. A
set whose expansion checks fail is invalid, one whose source is bruised is marked; the first row begins a new set, and the rest of the set
stands as it was. The last row completes the load, which is the source that a save names. -/
def Sys2Proof.StationaryLoadWritesItsRows : Prop :=
  ∀ (s : State) (k t : Nat) (l : StatLoad) (rest : List StatLoad), (coreAt s k).loads = l :: rest → l.t + l.row ≤ t → l.row < 64 →
    (l.row ≠ 0 → (coreAt s k).stat.isSome = true) →
    let x := l.src
    let cb := keyBase k
    let lanes := laneCount (coreAt s k)
    let per := if twoTiles x.fmt then 2 else 1
    ∃ set, (coreAt (loadStep s t k) k).stat = some set ∧
      (∀ i j, i < per → j < lanes → (tabGet 0 set.elts (64 * (per * l.row + i) + j)).toNat = srcElem s cb x (per * l.row + i) j % 65536) ∧
      (∀ i, i < per → tabGet 0 set.c0 (per * l.row + i) = checkWeight x.fmt lanes (srcElem s cb x (per * l.row + i)) (fun _ => 1) ∧
        tabGet 0 set.c1 (per * l.row + i) = checkWeight x.fmt lanes (srcElem s cb x (per * l.row + i)) fun j => (j : Int) + 1) ∧
      (∀ j, j < lanes → (tabGet 0 set.scales (4 * j + per * l.row / 32)).toNat = srcScaleOf s cb x j (per * l.row / 32) % 256) ∧
      (srcBruisedNow s cb x = true → set.bruised = true) ∧
      (l.row = 0 → set.fmt.toNat = x.fmt % 16 ∧ set.src = x ∧ set.done = l.t + 63) ∧
      (∀ old r j, l.row ≠ 0 → (coreAt s k).stat = some old → j < 64 → (∀ i, i < per → r ≠ per * l.row + i) →
        tabGet 0 set.elts (64 * r + j) = tabGet 0 old.elts (64 * r + j) ∧ set.src = old.src ∧ set.fmt = old.fmt ∧ set.done = old.done) ∧
      (l.row < 63 → (coreAt (loadStep s t k) k).loads = { l with row := l.row + 1 } :: rest) ∧
      (l.row = 63 → (coreAt (loadStep s t k) k).loads = rest ∧ (coreAt (loadStep s t k) k).lastStat = some x) ∧
      (loadStep s t k).mem = (noteLoad s k x l.row).mem ∧ ∀ j, j ≠ k → coreAt (loadStep s t k) j = coreAt s j

/-- R104, R108 to R110, R117, R119, R121, R161, R202, R287 to R296: LSTAT begins a stationary load where no load is in progress, no replay
waits and the pass before has entered: its tiles' headers are well formed and their extents lie in the window. In its slots the load writes
its rows from the source as it stands, with their check weights and scales, and it completes with its last row. -/
def Obligations.StationaryLoadsBeginAndWriteTheirRows : Prop :=
  Sys2Proof.StationaryLoadBegins ∧ Sys2Proof.StationaryLoadWritesItsRows

/-- R105, R106, R111, R112, R115, R130, R204: PASS enters NV vectors into the array, one or two slots apart (twice that in a spot-checked
pass), and reads its first line in the slot of issue; each vector's verdict is 128 slots after its last entry. It completes on the last
verdict. -/
def Obligations.PassEntersItsVectors : Prop :=
  ∀ (s : State) (c : CoreId) (w : BitVec 64) (set : StatSet), MayIssue s c .mac 0x21 w →
    let k := ckey c
    let core := coreAt s k
    let task := taskOf core .mac
    let u := slotOf s c.fld
    let wide := fmtBits task.afmt.toNat = 16
    let size := lineSize task.afmt.toNat
    let nv := bitsOf w.toNat 38 9 + 1
    let row := bitsOf w.toNat 19 9 + aregGet task (bitsOf w.toNat 56 3)
    let base := (bitsOf w.toNat 28 10 + aregGet task (bitsOf w.toNat 59 3)) % lineCountOf size
    let spot := checkColumns core = 0 ∧ (core.spot + 1) % 256 = 0
    let step := (if wide then 2 else 1) * (if spot then 2 else 1)
    core.replay = 0 → core.loads = [] → core.stat = some set → set.done < u → fmtPair task.afmt.toNat set.fmt.toNat = true → set.valid = true → set.bruised = false →
    row + nv ≤ (if wide then 256 else 512) → nv + 63 ≤ lineCountOf size → lineBruised core size base = false →
    (¬ wide → tabGet false core.sideBr (base / 16) = false) →
    ∃ t p, exec (.pass c w) s = .next t ∧ Issues s t c .mac w (nextPc s c .mac) (u + step * nv) 0 ∧ TaskIs s t c .mac id ∧
      (((taskOf (coreAt t k) .mac).flights.getLast?).map fun x => (x.onPass, x.slot)) = some (core.spot + 1, task.mslot.toNat) ∧
      p = { num := core.spot, stat := set, afmt := task.afmt.toNat, anch := bitsOf w.toNat 48 8, ovw := w.getLsbD 47, slot := task.mslot.toNat,
            row := row, base := base, nv := nv, t := u, step := step, spot := decide spot, left := nv,
            lines := [BitVec.ofNat 1024 (memRead core.act (base * size) size)], sides := [tabGet 0 core.side base] } ∧
      coreAt t k = { core with
        tok := (coreAt t k).tok, tasks := (coreAt t k).tasks, spot := core.spot + 1, entered := u + step * nv
        passes := core.passes ++ [p]
        pipe := core.pipe ++ (List.range nv).map fun v => { pass := core.spot, v := v, due := u + step * (v + 1) - 1 + 128 } } ∧
      t = { countAct (countAct s c.fld actCells (step * nv * 64 * (laneCount core - set.zero.length))) c.fld actGated
              (step * nv * set.zero.length) with cor := t.cor }

/-! ## The vector core -/

/-- A lane-by-lane instruction of 1 slot: its result lanes and flags are `f w` of the lanes of a and b, and of c where `useC` (R136 to
R140). A bruised source would be consumed (R146), and an unready one hold it (R141). -/
def Sys2Proof.LaneForm (i : CoreId → BitVec 64 → Instr) (opc lat : Nat) (useC : Bool) (f : Nat → Nat → Nat → Nat → Nat × Nat) : Prop :=
  ∀ (s : State) (c : CoreId) (w : BitVec 64), MayIssue s c .vec opc w →
    let core := coreAt s (ckey c)
    let ft := fFT w.toNat
    let h := fH w.toNat
    let src := [abSrc ft h (fVA w.toNat), abSrc ft h (fVB w.toNat)] ++ (if useC then [({ reg := fVC w.toNat } : VSrc)] else [])
    let r := fun j =>
      f w.toNat (abLane core ft h (fVA w.toNat) j) (abLane core ft h (fVB w.toNat) j) (if useC then cLane core ft (fVC w.toNat) j else 0)
    SourcesReady s c src → srcBruised core src = false →
    ∃ t x, exec (i c w) s = .next t ∧
      VecIssues s t c w 1 lat [x] (fSLOT w.toNat) (orFlags ((List.range (ftLanes ft)).map fun j => (r j).2)) (ftLanes ft) ∧
      Writes x (fVD w.toNat) 0 2048 (ftWidth ft) (ftLanes ft) 0 15 fun j => (r j).1

/-- R136, R137, R140, R210: the floating-point lanes are the exact result rounded once to the format of FT, with the flags of that
rounding; the mixed forms read half H of a and b in 16 bits. The sign of an exact zero sum is log 10's. -/
def Obligations.FloatLanesComplete : Prop :=
  LaneForm .fadd 0x50 4 false (fun w a b _ => arith2 (fFT w) addNum a b 0) ∧
  LaneForm .fsub 0x51 4 false (fun w a b _ => arith2 (fFT w) (fun z x y => addNum z x (negNum y)) a b 0) ∧
  LaneForm .fmul 0x52 4 false (fun w a b _ => arith (ftDst (fFT w)) (mulNum (decodeNum (ftSrc (fFT w)) a) (decodeNum (ftSrc (fFT w)) b))) ∧
  LaneForm .ffma 0x53 4 true (fun w a b c => arith (ftDst (fFT w))
    (addNum (Config.zeroSumNeg a b c) (mulNum (decodeNum (ftSrc (fFT w)) a) (decodeNum (ftSrc (fFT w)) b)) (decodeNum (ftDst (fFT w)) c))) ∧
  LaneForm .fmin 0x54 4 false (fun w a b _ => arith (ftDst (fFT w)) (minNum (decodeNum (ftSrc (fFT w)) a) (decodeNum (ftSrc (fFT w)) b))) ∧
  LaneForm .fmax 0x55 4 false (fun w a b _ => arith (ftDst (fFT w)) (maxNum (decodeNum (ftSrc (fFT w)) a) (decodeNum (ftSrc (fFT w)) b)))

/-- The 32-bit integer nearest to `z`, and OF where that is not `z` (R138). -/
def Sys2Proof.saturated (z : Int) : Nat × Nat :=
  if 2 ^ 31 ≤ z then (2 ^ 31 - 1, flOF) else if z < -2 ^ 31 then (2 ^ 31, flOF) else ((BitVec.ofInt 32 z).toNat, 0)

/-- R138, R140, R210: the integer lanes wrap modulo 2³² or saturate with OF; the shifts move by the low five bits of b, filling with zeros
or with the sign. -/
def Sys2Proof.IntegerLanesComplete : Prop :=
  let int := fun a => (BitVec.ofNat 32 a).toInt
  LaneForm .iadd 0x58 2 false (fun _ a b _ => ((BitVec.ofNat 32 a + BitVec.ofNat 32 b).toNat, 0)) ∧
  LaneForm .isub 0x59 2 false (fun _ a b _ => ((BitVec.ofNat 32 a - BitVec.ofNat 32 b).toNat, 0)) ∧
  LaneForm .imul 0x5A 2 false (fun _ a b _ => ((BitVec.ofNat 32 a * BitVec.ofNat 32 b).toNat, 0)) ∧
  LaneForm .iadds 0x5B 2 false (fun _ a b _ => saturated (int a + int b)) ∧
  LaneForm .isubs 0x5C 2 false (fun _ a b _ => saturated (int a - int b)) ∧
  LaneForm .ish 0x5D 2 false (fun w a b _ =>
    ((if bitsOf w 46 2 = 0 then BitVec.ofNat 32 a <<< (b % 32) else if bitsOf w 46 2 = 1 then BitVec.ofNat 32 a >>> (b % 32)
      else (BitVec.ofNat 32 a).sshiftRight (b % 32)).toNat, 0))

/-- The comparison COND of two lanes of FT (R210): a NaN compares unequal to everything and orders with nothing. -/
def Sys2Proof.Compares (ft cond a b : Nat) : Prop :=
  let x := decodeNum (ftSrc ft) a
  let y := decodeNum (ftSrc ft) b
  (cond = 0 ∧ eqNum x y) ∨ (cond = 1 ∧ ¬ eqNum x y) ∨ (cond = 2 ∧ ltNum x y) ∨ (cond = 3 ∧ (ltNum x y ∨ eqNum x y)) ∨
  (cond = 4 ∧ ltNum y x) ∨ (cond = 5 ∧ (ltNum y x ∨ eqNum x y)) ∨ (cond = 6 ∧ a < b) ∨ (cond = 7 ∧ b ≤ a)

/-- R139, R140, R210: CMP writes all ones in the lanes whose condition holds and zero in the others. -/
def Sys2Proof.CompareWritesAMask : Prop :=
  ∀ (s : State) (c : CoreId) (w : BitVec 64), MayIssue s c .vec 0x60 w →
    let core := coreAt s (ckey c)
    let ft := fFT w.toNat
    let src : List VSrc := [{ reg := fVA w.toNat }, { reg := fVB w.toNat }]
    SourcesReady s c src → srcBruised core src = false →
    ∃ t x, exec (.cmp c w) s = .next t ∧ VecIssues s t c w 1 2 [x] 0 0 (ftLanes ft) ∧
      x.reg = fVD w.toNat ∧ x.lo = 0 ∧ x.len = 2048 ∧ x.br = 0 ∧ x.brSel = 15 ∧
      ∀ j, j < ftLanes ft →
        let holds := Compares ft (bitsOf w.toNat 46 4) (laneOf (ftWidth ft) (vregOf core (fVA w.toNat)) j)
          (laneOf (ftWidth ft) (vregOf core (fVB w.toNat)) j)
        (holds → laneOf (ftWidth ft) x.v j = 2 ^ ftWidth ft - 1) ∧ (¬ holds → laneOf (ftWidth ft) x.v j = 0)

/-- R138, R139, R140, R210: the integer lanes wrap modulo 2³² or saturate with OF; the shifts move by the low five bits of b, filling with
zeros or with the sign. CMP writes all ones in the lanes whose condition holds and zero in the others. -/
def Obligations.IntegerLanesAndComparesComplete : Prop :=
  Sys2Proof.IntegerLanesComplete ∧ Sys2Proof.CompareWritesAMask

/-- A LOGIC instruction that carries its sources' bruises granule by granule (R146, R357). -/
def Sys2Proof.CarryForm (i : CoreId → BitVec 64 → Instr) (opc : Nat) (useB : Bool) (f : BitVec 2048 → BitVec 2048 → BitVec 2048) : Prop :=
  ∀ (s : State) (c : CoreId) (w : BitVec 64), MayIssue s c .vec opc w →
    let core := coreAt s (ckey c)
    let va := fVA w.toNat
    let vb := fVB w.toNat
    SourcesReady s c ([{ reg := va }] ++ if useB then [{ reg := vb }] else []) →
    ∃ t x, exec (i c w) s = .next t ∧ VecIssues s t c w 1 2 [x] 0 0 64 ∧
      x.reg = fVD w.toNat ∧ x.lo = 0 ∧ x.len = 2048 ∧ x.brSel = 15 ∧
      BitVec.ofNat 2048 x.v = f (tabGet 0 core.vreg va) (tabGet 0 core.vreg vb) ∧
      BitVec.ofNat 4 x.br = tabGet 0 core.vbr va ||| (if useB then tabGet 0 core.vbr vb else 0)

/-- R140, R146, R210: AND, OR and XOR work on the whole register bit by bit, and MOV copies it; bruises are carried, not consumed. -/
def Sys2Proof.BitwiseInstructionsComplete : Prop :=
  CarryForm .vecAnd 0x62 true (· &&& ·) ∧ CarryForm .vecOr 0x63 true (· ||| ·) ∧ CarryForm .vecXor 0x64 true (· ^^^ ·) ∧
  CarryForm .mov 0x65 false (fun a _ => a)

/-- R140, R146, R210, R357: SEL takes lane by lane a where c is nonzero and b where it is zero; SHUF takes lane b[j] modulo the lane count
of a; BCAST takes lane K of a. A granule of the result is bruised where a granule that it was chosen by, or from, is. -/
def Sys2Proof.SelectAndPermuteComplete : Prop :=
  ∀ (s : State) (c : CoreId) (w : BitVec 64),
    let core := coreAt s (ckey c)
    let ft := fFT w.toNat
    let n := ftLanes ft
    let va := fVA w.toNat
    let vb := fVB w.toNat
    let vc := fVC w.toNat
    let lane := fun r j => laneOf (ftWidth ft) (vregOf core r) j
    let bad := fun r g => bitOf (vbrOf core r) g = true
    (MayIssue s c .vec 0x61 w → SourcesReady s c [{ reg := va }, { reg := vb }, { reg := vc }] →
      ∃ t x br, exec (.sel c w) s = .next t ∧ VecIssues s t c w 1 2 [x] 0 0 n ∧
        Writes x (fVD w.toNat) 0 2048 (ftWidth ft) n br 15 (fun j => if lane vc j ≠ 0 then lane va j else lane vb j) ∧
        ∀ g, g < 4 → (bitOf br g = true ↔ bad vc g ∨
          ∃ j, n / 4 * g ≤ j ∧ j < n / 4 * (g + 1) ∧ if lane vc j ≠ 0 then bad va g else bad vb g)) ∧
    (MayIssue s c .vec 0x71 w → SourcesReady s c [{ reg := va }, { reg := vb }] →
      ∃ t x br, exec (.shuf c w) s = .next t ∧ VecIssues s t c w 1 2 [x] 0 0 n ∧
        Writes x (fVD w.toNat) 0 2048 (ftWidth ft) n br 15 (fun j => lane va (lane vb j % n)) ∧
        ∀ g, g < 4 → (bitOf br g = true ↔ bad vb g ∨
          ∃ j, n / 4 * g ≤ j ∧ j < n / 4 * (g + 1) ∧ bad va (lane vb j % n / (n / 4)))) ∧
    (MayIssue s c .vec 0x70 w → SourcesReady s c [{ reg := va }] →
      let k := bitsOf w.toNat 37 7
      ∃ t x, exec (.bcast c w) s = .next t ∧ VecIssues s t c w 1 2 [x] 0 0 n ∧
        Writes x (fVD w.toNat) 0 2048 (ftWidth ft) n (if bitOf (vbrOf core va) (ftWidth ft * k / 512) then 15 else 0) 15 fun _ => lane va k)

/-- R140, R193, R211: MOVI fills a register with its immediate in 32-bit or 16-bit lanes; FGET writes a status slot of VEC into element 0
and zero elsewhere, and clears the slot where CLR is 1. -/
def Sys2Proof.FillInstructionsComplete : Prop :=
  ∀ (s : State) (c : CoreId) (w : BitVec 64),
    let task := taskOf (coreAt s (ckey c)) .vec
    let slot := bitsOf w.toNat 59 4
    (MayIssue s c .vec 0x66 w →
      ∃ t x, exec (.movi c w) s = .next t ∧ VecIssues s t c w 1 2 [x] 0 0 64 ∧
        if w.getLsbD 60 then Writes x (fVD w.toNat) 0 2048 16 128 0 15 (fun _ => bitsOf w.toNat 28 16)
        else Writes x (fVD w.toNat) 0 2048 32 64 0 15 fun _ => bitsOf w.toNat 28 32) ∧
    (MayIssue s c .vec 0x67 w →
      ∃ t x, exec (.fget c w) s = .next t ∧
        VecIssues s t c w 1 2 [x] 0 0 64 none
          (fun y => if w.getLsbD 58 then { y with status := tabPut 0 slot 0 y.status } else y) ∧
        Writes x (fVD w.toNat) 0 2048 32 64 0 15 fun j => if j = 0 then (tabGet 0 task.status slot).toNat else 0)

/-- R140, R146, R193, R210, R211, R357: AND, OR and XOR work on the whole register bit by bit, and MOV copies it; bruises are carried, not
consumed. SEL takes lane by lane a where c is nonzero and b where it is zero; SHUF takes lane b[j] modulo the lane count of a; BCAST takes
lane K of a. A granule of the result is bruised where a granule that it was chosen by, or from, is. MOVI fills a register with its
immediate in 32-bit or 16-bit lanes; FGET writes a status slot of VEC into element 0 and zero elsewhere, and clears the slot where CLR is
1. -/
def Obligations.BitwiseSelectAndFillComplete : Prop :=
  Sys2Proof.BitwiseInstructionsComplete ∧ Sys2Proof.SelectAndPermuteComplete ∧ Sys2Proof.FillInstructionsComplete

/-- R83 to R87, R140, R212, R213: CVT converts each element of its source region into its destination region, with the scale of its
format, under the rounding and overflow of the word and of the job's policy, stochastic rounding drawing the generator's output for its
lane; MXSC writes the two block scales of its 64 elements. -/
def Obligations.ConversionsComplete : Prop :=
  ∀ (s : State) (c : CoreId) (w : BitVec 64),
    let core := coreAt s (ckey c)
    let n := w.toNat
    let gen := (taskOf core .vec).gen
    let pol := policyOf s c.fld (fieldOf s c.fld).cond.owner
    let sf := bitsOf n 46 4
    let df := bitsOf n 50 4
    let p := bitsOf n 57 2
    (MayIssue s c .vec 0x6C w →
      let both := fmtBits sf == 16 && fmtBits df == 16
      let lanes := if both then 128 else 64
      let from_ := cvtRegion sf p both
      let into := cvtRegion df p both
      let src := [({ reg := fVA n, lo := from_.1, len := from_.2 } : VSrc)] ++
        if cvtUsesVB sf df then [({ reg := fVB n, lo := 0, len := 64 } : VSrc)] else []
      let rm := rndMode pol (bitsOf n 54 2)
      let r := fun j =>
        let x := bitsOf (vregOf core (fVA n)) (from_.1 + fmtBits sf * j) (fmtBits sf)
        cvtElem sf df rm p (ovfMode pol (w.getLsbD 56)) (if rm = 3 then genDraw gen (w.getLsbD 59) 0 j (x % 2 ^ 16) else 0)
          (vregOf core (fVB n)) j x
      SourcesReady s c src → srcBruised core src = false →
      ∃ t x, exec (.cvt c w) s = .next t ∧
        VecIssues s t c w 1 (if fmtMX df then 6 else 4) [x] (bitsOf n 60 4) (orFlags ((List.range lanes).map fun j => (r j).2)) lanes ∧
        Writes x (fVD n) into.1 into.2 (fmtBits df) lanes 0 (if into.2 % 512 = 0 then granMask into.1 into.2 else 0) fun j => (r j).1) ∧
    (MayIssue s c .vec 0x6D w →
      let from_ := cvtRegion sf p false
      let src := [({ reg := fVA n, lo := from_.1, len := from_.2 } : VSrc)]
      let x := fun j => decodeNum sf (bitsOf (vregOf core (fVA n)) (from_.1 + fmtBits sf * j) (fmtBits sf))
      SourcesReady s c src → srcBruised core src = false →
      ∃ t y, exec (.mxsc c w) s = .next t ∧ VecIssues s t c w 1 6 [y] 0 0 64 ∧
        Writes y (fVD n) (16 * p) 16 8 2 0 0 fun b => blockScale df ((List.range 32).map fun i => x (32 * b + i)))

/-- R140, R214: SPEC computes a special function of each lane in FP32, and rounds it once more to the 16-bit format of FT where FT names
one; it occupies the engine for four slots. -/
def Obligations.SpecialFunctionsComplete : Prop :=
  ∀ (s : State) (c : CoreId) (w : BitVec 64), MayIssue s c .vec 0x6E w →
    let core := coreAt s (ckey c)
    let n := w.toNat
    let ft := fFT n
    let half := ft ≠ 0
    let lo := if half then 1024 * fH n else 0
    let len := if half then 1024 else 2048
    let ew := if half then 16 else 32
    let src := [({ reg := fVA n, lo := lo, len := len } : VSrc)]
    let f := fun j => specNum (bitsOf n 46 3) (decodeNum (ftSrc ft) (bitsOf (vregOf core (fVA n)) (lo + ew * j) ew))
    let r := fun j => if half then ((arith (ftDst ft) (decodeNum 13 (f j).1)).1, (f j).2 ||| (arith (ftDst ft) (decodeNum 13 (f j).1)).2) else f j
    SourcesReady s c src → srcBruised core src = false →
    ∃ t x, exec (.spec c w) s = .next t ∧
      VecIssues s t c w 4 12 [x] (fSLOT n) (orFlags ((List.range 64).map fun j => (r j).2)) 64 ∧
      Writes x (fVD n) lo len ew 64 0 (granMask lo len) fun j => (r j).1

/-- R140, R142, R145, R191, R210: TOPK sets the mask bits of the k highest scores, equal ones in lane order and NaN below every number;
RAND writes the generator's outputs with the lanes as data, and DROPM the mask of those below element 0 of b. -/
def Obligations.ScoreAndGeneratorMasksComplete : Prop :=
  ∀ (s : State) (c : CoreId) (w : BitVec 64),
    let core := coreAt s (ckey c)
    let n := w.toNat
    let lane := fun r j => laneOf 32 (vregOf core r) j
    let draw := fun j => genDraw (taskOf core .vec).gen (w.getLsbD 58) 0 j (lane (fVA n) j % 2 ^ 16)
    let a := [({ reg := fVA n } : VSrc)]
    let ab := [({ reg := fVA n } : VSrc), { reg := fVB n, lo := 0, len := 32 }]
    (MayIssue s c .vec 0x72 w → SourcesReady s c a → srcBruised core a = false →
      let score := fun j => decodeNum 13 (lane (fVA n) j)
      ∃ t x, exec (.topk c w) s = .next t ∧ VecIssues s t c w 1 8 [x] 0 0 64 ∧ WritesAll x (fVD n) x.v ∧ x.v < 2 ^ 64 ∧
        ∀ j, j < 64 → (bitOf x.v j = true ↔
          ((List.range 64).filter fun i => i ≠ j ∧ ranksAbove (score i) (score j) i j = true).length < bitsOf n 37 7 + 1)) ∧
    (MayIssue s c .vec 0x74 w → SourcesReady s c a → srcBruised core a = false →
      ∃ t x, exec (.rand c w) s = .next t ∧ VecIssues s t c w 1 6 [x] 0 0 64 ∧ Writes x (fVD n) 0 2048 32 64 0 15 draw) ∧
    (MayIssue s c .vec 0x75 w → SourcesReady s c ab → srcBruised core ab = false →
      ∃ t x, exec (.dropm c w) s = .next t ∧ VecIssues s t c w 1 6 [x] 0 0 64 ∧ WritesAll x (fVD n) x.v ∧ x.v < 2 ^ 64 ∧
        ∀ j, j < 64 → (bitOf x.v j = true ↔ draw j < lane (fVB n) 0))

/-- Element j of the region of VR that a WIDE word uses (R215). -/
def Sys2Proof.wideElem (core : Core) (n j : Nat) : Sys2Proof.Machine.Num :=
  decodeNum (fFMT n) (bitsOf (vregOf core (fVR n)) ((wideSrc n).lo + fmtBits (fFMT n) * j) (fmtBits (fFMT n)))

/-- R98, R134, R140, R143, R215: WCVT converts 64 elements exactly into W128 at an anchor; WACC converts and adds them, and WADD adds
another quad, onto the running sum of the destination quad, which the adder forwards from one to the next. -/
def Sys2Proof.ExactSumsAccumulate : Prop :=
  ∀ (s : State) (c : CoreId) (w : BitVec 64),
    let core := coreAt s (ckey c)
    let n := w.toNat
    let q := fQ1 n
    let conv := fun j => toW128 (fANCH n) (wideElem core n j)
    let wait := fun (l : List VSrc) => if tabGet false core.vfwd q then l else l ++ quadSrcs q
    let acc := fun (x : Nat → Int) j => addWindow 128 (quadVal (vregForward core) q j) (x j)
    let flags := fun (f : Nat → Nat) => orFlags ((List.range 64).map f)
    (MayIssue s c .vec 0x76 w → SourcesReady s c [wideSrc n] → srcBruised core [wideSrc n] = false →
      ∃ t ws, exec (.wcvt c w) s = .next t ∧ VecIssues s t c w 4 8 ws (fWSLOT n) (flags fun j => (conv j).2) 64 (some q) ∧
        WritesQuad ws q fun j => (conv j).1) ∧
    (MayIssue s c .vec 0x77 w → SourcesReady s c (wait [wideSrc n]) → srcBruised core (wideSrc n :: quadSrcs q) = false →
      ∃ t ws, exec (.wacc c w) s = .next t ∧
        VecIssues s t c w 4 8 ws (fWSLOT n)
          (flags (fun j => (conv j).2) ||| flags fun j => (acc (fun i => (conv i).1) j).2) 64 (some q) ∧
        WritesQuad ws q fun j => (acc (fun i => (conv i).1) j).1) ∧
    (MayIssue s c .vec 0x78 w → SourcesReady s c (wait (quadSrcs (fQ2 n))) → srcBruised core (quadSrcs (fQ2 n) ++ quadSrcs q) = false →
      ∃ t ws, exec (.wadd c w) s = .next t ∧
        VecIssues s t c w 4 8 ws (fWSLOT n) (flags fun j => (acc (quadVal (vregOf core) (fQ2 n)) j).2) 64 (some q) ∧
        WritesQuad ws q fun j => (acc (quadVal (vregOf core) (fQ2 n)) j).1)

/-- R98, R140, R143, R215: WRSUM leaves the exact sum of a quad's 64 values in element 0, NaR where one is NaR; WOUT converts a quad into a
format; WRANC moves a quad to another anchor. -/
def Sys2Proof.ExactSumsReduceAndConvert : Prop :=
  ∀ (s : State) (c : CoreId) (w : BitVec 64),
    let core := coreAt s (ckey c)
    let n := w.toNat
    let val := quadVal (vregOf core) (fQ2 n)
    let src := quadSrcs (fQ2 n)
    let pol := policyOf s c.fld (fieldOf s c.fld).cond.owner
    let sum := if ((List.range 64).any fun j => val j = nar 128) then (nar 128, flNR) else satWindow 128 (((List.range 64).map val).sum)
    let rm := rndMode pol (bitsOf n 59 2)
    let out := fun j =>
      fromWindow 128 (fANCH n) (fFMT n) rm (ovfMode pol (w.getLsbD 61)) (if rm = 3 then genDraw (taskOf core .vec).gen (w.getLsbD 62) 0 j (wrapInt (val j) 16) else 0) (val j)
    let moved := fun j => reanchor (fANCH n) (fVR n % 256) (val j)
    let flags := fun (f : Nat → Nat) => orFlags ((List.range 64).map f)
    SourcesReady s c src → srcBruised core src = false →
    (MayIssue s c .vec 0x79 w →
      ∃ t ws, exec (.wrsum c w) s = .next t ∧ VecIssues s t c w 4 16 ws (fWSLOT n) sum.2 64 ∧
        WritesQuad ws (fQ1 n) fun j => if j = 0 then sum.1 else 0) ∧
    (MayIssue s c .vec 0x7A w →
      ∃ t x, exec (.wout c w) s = .next t ∧ VecIssues s t c w 4 8 [x] (fWSLOT n) (flags fun j => (out j).2) 64 ∧
        Writes x (fVR n) (wideSrc n).lo (wideSrc n).len (fmtBits (fFMT n)) 64 0 (granMask (wideSrc n).lo (wideSrc n).len) fun j => (out j).1) ∧
    (MayIssue s c .vec 0x7B w →
      ∃ t ws, exec (.wranc c w) s = .next t ∧ VecIssues s t c w 4 8 ws (fWSLOT n) (flags fun j => (moved j).2) 64 ∧
        WritesQuad ws (fQ1 n) fun j => (moved j).1)

/-- R140, R216: FRSUM, FSCAN and FDOT sum in lane order from lane 0, each step rounded to FP32: the last sum in element 0, all of them,
or the fused sum of products. -/
def Sys2Proof.OrderedSumsComplete : Prop :=
  ∀ (s : State) (c : CoreId) (w : BitVec 64),
    let core := coreAt s (ckey c)
    let n := w.toNat
    let a := fun j => laneOf 32 (vregOf core (fVA n)) j
    let b := fun j => laneOf 32 (vregOf core (fVB n)) j
    let sum := fun j => (List.range j).foldl (fun acc i => rnAdd acc (a (i + 1))) (a 0, 0)
    let dot := (List.range 63).foldl
      (fun (acc : Nat × Nat) i => ((fmaNum 0 (a (i + 1)) (b (i + 1)) acc.1).1, acc.2 ||| (fmaNum 0 (a (i + 1)) (b (i + 1)) acc.1).2))
      (arith 13 (mulNum (decodeNum 13 (a 0)) (decodeNum 13 (b 0))))
    SourcesReady s c [{ reg := fVA n }] → srcBruised core [{ reg := fVA n }] = false →
    (MayIssue s c .vec 0x7C w →
      ∃ t x, exec (.frsum c w) s = .next t ∧ VecIssues s t c w 1 12 [x] (fSLOT n) (sum 63).2 64 ∧ WritesAll x (fVD n) (sum 63).1) ∧
    (MayIssue s c .vec 0x7D w →
      ∃ t x, exec (.fscan c w) s = .next t ∧ VecIssues s t c w 1 12 [x] (fSLOT n) (sum 63).2 64 ∧
        Writes x (fVD n) 0 2048 32 64 0 15 fun j => (sum j).1) ∧
    (MayIssue s c .vec 0x7E w → SourcesReady s c [{ reg := fVB n }] → srcBruised core [{ reg := fVB n }] = false →
      ∃ t x, exec (.fdot c w) s = .next t ∧ VecIssues s t c w 1 12 [x] (fSLOT n) dot.2 64 ∧ WritesAll x (fVD n) dot.1)

/-- R98, R134, R140, R143, R215, R216: WCVT converts 64 elements exactly into W128 at an anchor; WACC converts and adds them, and WADD adds
another quad, onto the running sum of the destination quad, which the adder forwards from one to the next. WRSUM leaves the exact sum of a
quad's 64 values in element 0, NaR where one is NaR; WOUT converts a quad into a format; WRANC moves a quad to another anchor. FRSUM,
FSCAN and FDOT sum in lane order from lane 0, each step rounded to FP32: the last sum in element 0, all of them, or the fused sum of
products. -/
def Obligations.ExactAndOrderedSumsComplete : Prop :=
  Sys2Proof.ExactSumsAccumulate ∧ Sys2Proof.ExactSumsReduceAndConvert ∧ Sys2Proof.OrderedSumsComplete

/-! ## Completion -/

/-- R164, R165, R166, R193: INSTRUCTION_COMPLETION completes every instruction of the engine whose completion slot has come: each posts
one token into every queue of its post mask, and ORs its flags into its status slot; both are seen from the next slot on. It does so
where every post is by the queue's declared producer and within 63. -/
def Obligations.CompletionPostsTokensAndFlags : Prop :=
  ∀ (s : State) (c : CoreId) (e : Engine),
    let k := ckey c
    let core := coreAt s k
    let due := (taskOf core e).flights.filter (flightDue (slotOf s c.fld))
    let posts := fun q => (due.filter fun x => x.post.getLsbD q).length
    core.halted = false → due ≠ [] →
    (∀ q, q < 16 → 0 < posts q → tabGet 0 core.tokProd q = engCode e + 1 ∧ tabGet 0 core.tok q + tabGet 0 core.tokNew q + posts q ≤ 63) →
    ∃ t, exec (.instructionCompletion c e) s = .next t ∧
      (∀ q, q < 16 → tabGet 0 (coreAt t k).tokNew q = tabGet 0 core.tokNew q + posts q) ∧
      (∀ i (b : Nat), b < 8 → ((tabGet 0 (taskOf (coreAt t k) e).statNew i).getLsbD b ↔
        (tabGet 0 (taskOf core e).statNew i).getLsbD b ∨ ∃ x ∈ due, x.slot = i ∧ x.flags.getLsbD b)) ∧
      taskOf (coreAt t k) e = { taskOf core e with
        flights := (taskOf core e).flights.filter (fun x => !flightDue (slotOf s c.fld) x), statNew := (taskOf (coreAt t k) e).statNew } ∧
      (∀ e', e' ≠ e → taskOf (coreAt t k) e' = taskOf core e') ∧
      coreAt t k = { core with tokNew := (coreAt t k).tokNew, tasks := (coreAt t k).tasks } ∧
      (∀ k', k' ≠ k → coreAt t k' = coreAt s k') ∧ OnlyCores s t

/-! ## Power -/

/-- The causes of R490 that force field `f` into the lowest state. -/
def Sys2Proof.forcedLow (s : State) (f : Nat) : Bool :=
  s.inp.forced.getLsbD 6 || s.inp.fRange || s.inp.fCurrent || s.inp.fCoolant || s.inp.fConv || s.inp.fSafe || bitOf s.inp.forced.toNat (rowOf f)

/-- Every field is in the lowest state exactly where a cause of R490 is in force in `t`; nothing else of a field changes. -/
def Sys2Proof.LowFollows (s t : State) : Prop :=
  ∀ f, fieldOf t f = if f < 36 then { fieldOf s f with pow := { (fieldOf s f).pow with low := forcedLow t f } } else fieldOf s f

/-- The same where a cause has ended: a field that leaves the lowest state also makes its pass at rate code 32 (R530). -/
def Sys2Proof.LowEnds (s t : State) : Prop :=
  ∀ f, fieldOf t f =
    if f < 36 then { fieldOf s f with
      pow := { (fieldOf s f).pow with low := forcedLow t f }
      cond := { (fieldOf s f).cond with atSpeed := (fieldOf s f).cond.atSpeed && forcedLow t f } }
    else fieldOf s f

/-- An event of the sloe domain, which stands in the root chiplet (R370). -/
def Sys2Proof.sloeEvent (s : State) (code detail : Nat) : ErrMsg := mkEvent 0x203F (floorN s) code 0 0 7 0 detail

/-- R471, R473, R489, R490, R497, R501, R546: an active sample of a forced-state input, the input ranges, the current guard and a converter
overload force fields into the lowest state, once an episode, with their event; an acknowledge is held only for an inactive input and
cancelled by an active sample; each cause ends as its rule says, and the fields without another cause leave the state. -/
def Obligations.ForcedStatesFollowTheirCauses : Prop :=
  ∀ (s : State) (ix : Fin 7),
    let m := BitVec.ofNat 7 (2 ^ ix.val)
    (s.inp.sloe = true → ∃ t, exec (.forcedInputActive ix) s = .next t ∧
      t.inp = { s.inp with
        active := s.inp.active ||| m, forced := s.inp.forced ||| m, acked := s.inp.acked &&& ~~~m
        stuck := if s.inp.forced.getLsbD ix then s.inp.stuck else s.inp.stuck &&& ~~~m } ∧
      (s.inp.forced.getLsbD ix = false → s.inp.main = true →
        LowFollows s t ∧ Raises s t (mkEvent pithAddr (floorN s) 0x00E5 0 0 7 0 ix) ∧
        t = { s with inp := t.inp, fld := t.fld, stem := t.stem }) ∧
      (s.inp.forced.getLsbD ix = true ∨ s.inp.main = false → t = { s with inp := t.inp })) ∧
    (s.inp.forced.getLsbD ix = true → s.inp.active.getLsbD ix = false → s.inp.acked.getLsbD ix = true →
      ∃ t, exec (.forcedInputRelease ix) s = .next t ∧ LowEnds s t ∧
        t = { s with inp := { s.inp with forced := s.inp.forced &&& ~~~m }, fld := t.fld }) ∧
    (s.inp.forced.getLsbD ix = true → s.inp.stuck.getLsbD ix = false →
      ∃ t, exec (.stuckInput ix) s = .next t ∧ Raises s t (sloeEvent s 0x010A ix) ∧
        t = { s with inp := { s.inp with stuck := s.inp.stuck ||| m }, stem := t.stem }) ∧
    (∀ mask, s.inp.main = true → s.inp.held = false → ∃ t, exec (.alertAck mask) s = .next t ∧
      t = { s with inp := { s.inp with acked := s.inp.acked ||| (mask &&& ~~~s.inp.active) } }) ∧
    (s.inp.main = true → s.inp.fRange = false → ∃ t, exec .inputRange s = .next t ∧ LowFollows s t ∧ Raises s t (sloeEvent s 0x01E0 0) ∧
      t = { s with inp := { s.inp with fRange := true }, fld := t.fld, stem := t.stem }) ∧
    (s.inp.main = true → s.inp.fCurrent = false → ∃ t, exec .inputCurrent s = .next t ∧ LowFollows s t ∧ Raises s t (sloeEvent s 0x01E2 0) ∧
      t = { s with inp := { s.inp with fCurrent := true }, fld := t.fld, stem := t.stem }) ∧
    (s.inp.main = true → s.pow.convPending = true → ∃ t, exec .converterOverload s = .next t ∧ LowFollows s t ∧
      t = { s with inp := { s.inp with fConv := true }, fld := t.fld }) ∧
    (∃ t, exec .inputRangeRelease s = .next t ∧ LowEnds s t ∧ t = { s with inp := { s.inp with fRange := false }, fld := t.fld }) ∧
    (∃ t, exec .inputCurrentRelease s = .next t ∧ LowEnds s t ∧ t = { s with inp := { s.inp with fCurrent := false }, fld := t.fld }) ∧
    (10000 ≤ s.inp.clearMs → ∃ t, exec .coolantRangeRelease s = .next t ∧ LowEnds s t ∧
      t = { s with inp := { s.inp with fCoolant := false }, fld := t.fld })

/-- R382, R385, R471, R473, R478, R484, R488, R497, R499: the coolant's temperatures and the input meter are taken over; a hot inlet
lowers CAPMAX by 1 kW a kelvin and forces the lowest state above 50 °C or after a second of too high a rise; a lost converter or phase is
due in the yield map with its event; the tray's cap is kept in 50 W steps; an idle memory channel powers down. -/
def Obligations.SupplyAndCoolantEventsAreTaken : Prop :=
  ∀ s : State, s.inp.main = true →
    (∀ (inlet outlet : Int) (watts : Nat),
      let high := 120 * (watts : Int) < (outlet - inlet) * 23830
      let rise := if high then min 1000 (s.inp.riseMs + 1) else 0
      ∃ t, exec (.coolantSample inlet outlet watts) s = .next t ∧ t.pow.inlet = inlet ∧ t.pow.outlet = outlet ∧
        t.inp = { s.inp with
          riseMs := rise, clearMs := if ¬ high ∧ inlet ≤ 480 then min 10000 (s.inp.clearMs + 1) else 0
          fCoolant := s.inp.fCoolant || decide (500 < inlet) || rise == 1000 } ∧
        (pithUp s = true → t.pow.reduce = if 450 < inlet then 20 * min 5 ((inlet - 450) / 10).toNat else 0) ∧
        (pithUp s = false → t.pow.reduce = s.pow.reduce) ∧
        (s.inp.fCoolant = false → (500 < inlet ∨ rise = 1000) → mergeEvent (sloeEvent s 0x01E1 0) s.stem.events = t.stem.events)) ∧
    (∀ ix : Fin 16, s.pow.convBad.getLsbD ix = false → ∃ t, exec (.converterLost ix) s = .next t ∧
      t.pow.convBad = s.pow.convBad ||| BitVec.ofNat 16 (2 ^ ix.val) ∧ t.yld.gen = s.yld.gen + 1 ∧
      ({ kind := ykConverter, unit := 0, loc := ix, value := 0 } : YEnt) ∈ t.yld.due ∧ t.clk.hostCap = min s.clk.hostCap (capMax t) ∧
      (4 ≤ goodConv t → t.stem.events = mergeEvent (sloeEvent s 0x00E2 ix) s.stem.events) ∧
      (goodConv t < 4 → t.stem.events = mergeEvent (sloeEvent s 0x03E1 0) (mergeEvent (sloeEvent s 0x00E2 ix) s.stem.events))) ∧
    (∀ (f : FieldIx) (p : Fin 26), fieldGone s f = false → p.val ∉ tabGet [] s.yld.phases f → ∃ t, exec (.phaseFailure f p) s = .next t ∧
      tabGet [] t.yld.phases f = tabGet [] s.yld.phases f ++ [p.val] ∧ t.yld.gen = s.yld.gen + 1 ∧
      ({ kind := ykPhase, unit := f, loc := p, value := 0 } : YEnt) ∈ t.yld.due ∧
      (24 < goodPhases s f → Raises s t (mkEvent (fieldAddr f) (slotOf s f) 0x00E1 0 0 7 0 0)) ∧
      (goodPhases s f ≤ 24 → t.stem = s.stem) ∧
      (goodPhases t f < 20 → ({ kind := ykRetired, unit := f, loc := 0, value := 5 } : YEnt) ∈ t.yld.due)) ∧
    (∀ steps : Nat, pithUp s = true → ∃ t, exec (.trayCapSet steps) s = .next t ∧ t.clk = { s.clk with trayCap := min 480 steps } ∧
      t = { s with clk := t.clk, com := t.com, stem := t.stem }) ∧
    (∀ w dv da mj : Nat, ∃ t, exec (.inputMeterUpdate w dv da mj) s = .next t ∧
      t = { s with pow := { s.pow with inW := w, inV := dv, inA := da, inEnergy := s.pow.inEnergy + BitVec.ofNat 64 mj } }) ∧
    ∀ (far : Bool) (ch : Fin 1280), s.inp.held = false → s.mem.selfRefresh = false → (far = true → ch.val < 24) →
      ∃ t, exec (.powerDownEntry far ch) s = .next t ∧
        (∀ x, tabGet false t.mem.down x = (decide (x = if far then 1280 + ch.val else ch.val) || tabGet false s.mem.down x)) ∧
        t = { s with mem := { s.mem with down := t.mem.down } }

/-- Only the power state of field `f` is changed, to `p`. -/
def Sys2Proof.PowTakes (s t : State) (f : Nat) (p : FieldPower) : Prop :=
  (∀ g, fieldOf t g = if g = f then { fieldOf s f with pow := p } else fieldOf s g) ∧ t = { s with fld := t.fld, stem := t.stem }

/-- The regulator of the core rail after the voltage sensors are sampled, in tenths of a mV: the setpoint moves 0.4 mV, which is 20 mV/µs in the
20 ns of a sample, towards the voltage target, and the output rises or falls so that the lowest sensor reads it, up to 0.90 V (R475, R476; the
step is the model's choice, log 146). -/
def Sys2Proof.Regulated (p : FieldPower) (mv : List Nat) : FieldPower :=
  match mv with
  | [] => p
  | v :: l =>
    let aim := 10 * p.target
    let ramp := if p.ramp < aim then min aim (p.ramp + 4) else max aim (p.ramp - 4)
    { p with volts := v :: l, ramp := ramp, drive := if p.rails.getLsbD 0 then min 9000 (p.drive + ramp - 10 * l.foldl min v) else 0 }

/-- R68, R475, R477, R481, R487, R491, R494, R495, R500: a regulator sample moves the rail's output towards the lowest sensor's reading, and the
100-sample sum engages the frequency floor, with its event, and a low average releases it; the governor scales its duty to its share and lets
it rise by one; a rail trip fences the field in hardware, and the sloe domain sends the notice with its cause, 5 where a change for the field
has been committed (log 147); junction sensors at 100 °C hold the field until all read 97 °C, and at 115 °C trip it; a
calibration clamps the scale factor to 0.80–1.25. -/
def Obligations.RegulationAndHeatActOnTheirField : Prop :=
  ∀ (s : State) (f : FieldIx), s.inp.main = true → fieldGone s f = false →
    let p := (fieldOf s f).pow
    (∀ x : RailSample,
      let l := (x.amps :: p.amps).take 100
      let on := 100 * floorLevel s f < l.sum
      ∃ t, exec (.regulatorSample f x) s = .next t ∧
        PowTakes s t f { Regulated p x.mv with amps := l, floorOn := p.floorOn || decide on, floors := p.floors + if on ∧ p.floorOn = false then 1 else 0 } ∧
        (on → p.floorOn = false → Raises s t (mkEvent (fieldAddr f) (slotOf s f) 0x00E0 0 0 7 0 0)) ∧
        (¬ on ∨ p.floorOn = true → t.stem = s.stem)) ∧
    (10 * p.amps.sum < 900 * floorLevel s f → ∃ t, exec (.floorRelease f) s = .next t ∧ PowTakes s t f { p with floorOn := false } ∧ t.stem = s.stem) ∧
    (∀ rail : Fin 3,
      let cause : Fin 256 := if s.com.committed.any fun c => c.parts.contains (.field f) then 5 else Fin.ofNat 256 (rail.val + 1)
      ∃ t, exec (.railTrip f rail) s = .next t ∧
      (fieldOf t f).cond = { (fieldOf s f).cond with fenced := true, fcause := cause, dead := true } ∧
      (fieldOf t f).pow = { p with rails := 0, floorOn := false } ∧ (fieldOf t f).net.clamped = true ∧
      t.stem = { s.stem with msgs := s.stem.msgs ++ [packet s (.fence f cause)] } ∧
      (∀ g, g ≠ f.val → fieldOf t g = fieldOf s g) ∧ t = { s with fld := t.fld, cor := t.cor, stem := t.stem }) ∧
    (∀ mw : Nat, (fieldOf s f).cond.act ≠ .sleeping → s.inp.held = false →
      let share := 46295 * p.cap - 2560000
      ∃ t, exec (.governorSample f mw) s = .next t ∧ t.stem = s.stem ∧
        PowTakes s t f { p with
          now := mw
          duty := if share < 36 * mw then max 1 (p.duty * share / (36 * mw))
                  else if 3600 * mw < 95 * share ∧ p.duty < 32 then p.duty + 1 else p.duty }) ∧
    (∀ temps : List Int, temps ≠ [] →
      let hot := hottest temps
      let x := { p with temps := temps, hot := min 255 hot.toNat }
      ∃ t, exec (.thermalSensorSample f temps) s = .next t ∧ (fieldOf t f).pow.temps = temps ∧
        (hot < 115 → 100 ≤ hot → (fieldOf t f).pow = x ∧ (fieldOf t f).clk = { (fieldOf s f).clk with thermal := true } ∧
          ((fieldOf s f).clk.thermal = false → Raises s t (mkEvent (fieldAddr f) (slotOf s f) 0x00E3 0 0 7 0 0))) ∧
        (hot ≤ 97 → (fieldOf t f).pow = { x with lowered := false } ∧ (fieldOf t f).clk = { (fieldOf s f).clk with thermal := false } ∧ t.stem = s.stem) ∧
        (97 < hot → hot < 100 → PowTakes s t f x ∧ t.stem = s.stem) ∧
        (115 ≤ hot → (fieldOf t f).cond.fenced = true ∧ (fieldOf t f).cond.fcause = 4 ∧ (fieldOf t f).cond.trips = (fieldOf s f).cond.trips + 1 ∧
          t.stem = { s.stem with msgs := s.stem.msgs ++ [packet s (.fence f 4)] } ∧
          (0 < (fieldOf s f).cond.trips → ({ kind := ykRetired, unit := f, loc := 0, value := 2 } : YEnt) ∈ t.yld.due))) ∧
    (∀ (rail : Fin 3) (measured modelled : Nat), pithUp s = true → modelled ≠ 0 →
      let raw := measured * 1000 / modelled
      let k := min 1250 (max 800 raw)
      ∃ t, exec (.calibration f rail measured modelled) s = .next t ∧
        (∀ r, tabGet 0 (fieldOf t f).pow.scale r = if r = rail.val then k else tabGet 0 p.scale r) ∧
        (fieldOf t f).pow.energy = p.energy + (if s.pow.report then BitVec.ofNat 64 (modelled * k / 1000) else 0) ∧
        (k ≠ raw → Raises s t (mkEvent (fieldAddr f) (slotOf s f) 0x00E4 0 0 7 0 0)) ∧ (k = raw → t.stem = s.stem))

/-- R476, R491, R492, R498, R547: SETPOINT moves the core rail's target within 600 to 850 mV and discards anything else, counting a
violation above 900 mV; PHASE, RAILS and ENERGY_SNAP act as their commands say; THERMAL_READ counts the milliseconds of heat and cold. -/
def Obligations.FieldPowerCommandsAct : Prop :=
  ∀ (s : State) (f : FieldIx), s.inp.main = true → s.inp.held = false → fieldGone s f = false →
    let p := (fieldOf s f).pow
    let got := fun (op value : Nat) => receive s (.power f op (BitVec.ofNat 16 value))
    (∀ mv : Nat, ∃ t, exec (.setpoint f mv) s = .next t ∧ t.stem = (got 1 mv).stem ∧
      (600 ≤ mv → mv ≤ 850 → PowTakes s t f { p with setpoint := mv, target := mv }) ∧
      (mv < 600 ∨ 850 < mv → t = { s with
        stem := t.stem, trs := { s.trs with gviol := if 900 < mv then min (s.trs.gviol + 1) (2 ^ 24 - 1) else s.trs.gviol } })) ∧
    (∀ (n : Nat) (off : Bool), n < 26 → ∃ t, exec (.phase f n off) s = .next t ∧ t.stem = (got 2 (n + 256 * b2n off)).stem ∧
      PowTakes s t f { p with phasesOff := (fieldOf t f).pow.phasesOff } ∧
      ∀ x, x ∈ (fieldOf t f).pow.phasesOff ↔ (x = n ∧ off = true) ∨ (x ≠ n ∧ x ∈ p.phasesOff)) ∧
    (∀ mask, (fieldOf s f).cond.act = .sleeping → ∃ t, exec (.rails f mask) s = .next t ∧ t.stem = (got 3 mask.toNat).stem ∧
      PowTakes s t f { p with rails := mask }) ∧
    (∃ t, exec (.energySnap f) s = .next t ∧ t.stem = (got 5 0).stem ∧ PowTakes s t f { p with snap := p.counts }) ∧
    (pithUp s = true → p.temps ≠ [] → hottest p.temps < 95 → (fieldOf s f).cond.act = .running → (fieldOf s f).clk.thermal = false →
      ∃ t, exec (.thermalRead f) s = .next t ∧ t.stem = s.stem ∧
        PowTakes s t f { p with
          ms95 := 0, ms105 := 0, ms90 := if hottest p.temps ≤ 90 then min 1000 (p.ms90 + 1) else 0, lowerIn := p.lowerIn - 1
          cool := min 100 (p.cool + 1) })

/-- The pith has no change under way or waiting, and may prepare one (R66). -/
def Sys2Proof.CommitIdle (s : State) : Prop :=
  pithUp s = true ∧ s.com.out = none ∧ s.com.queue = [] ∧ s.com.retry = [] ∧ s.com.committed = [] ∧ s.inp.refLost = false ∧ s.trs.safe = false

/-- A PREPARE of the change has gone to its participants, with the next CSN (R63, R65). -/
def Sys2Proof.Prepares (s t : State) (k : CommitKind) (arg : BitVec 64) : Prop :=
  t.com.csn = s.com.csn + 1 ∧
    (∃ c, t.com.out = some c ∧ c.kind = k ∧ c.arg = arg ∧ c.csn = t.com.csn ∧ c.acked = [] ∧ c.parts = partsOf t k arg ∧
      nominalEpoch s + 16 ≤ c.epoch ∧
      t.stem.msgs = s.stem.msgs ++ c.parts.map fun u => packet s (.prepare u c.csn k arg c.epoch c.parts.length)) ∧ t.com.queue = []

/-- R66, R483: with two low governor samples of one ACTIVE field, firmware commits the largest rate code that fits, 8 at least; without
one, and with every condition for it, one step up. -/
def Obligations.RateCodeFollowsTheGovernors : Prop :=
  ∀ (s : State), CommitIdle s → s.brg.st = 1 →
    let low := fun (f : Nat) => fieldGone s f = false ∧ (fieldOf s f).cond.act = .running ∧ (fieldOf s f).pow.duty < 32
    (∀ (kfit : Nat) (f : FieldIx), low f → (fieldOf s f).pow.lowDuty = true →
      let k := max 8 (min (limitK s) kfit)
      k < s.clk.k → ∃ t, exec (.dutySample kfit) s = .next t ∧ Prepares s t .freq (BitVec.ofNat 64 k) ∧
        ∀ g, g < 36 → ((fieldOf t g).pow.lowDuty = true ↔ low g)) ∧
    (s.clk.k < limitK s → 8 ≤ s.clk.k → (∀ f, f < 36 → fieldGone s f = false → (fieldOf s f).cond.act = .running → 100 ≤ (fieldOf s f).pow.cool) →
      (∀ f, f < 36 → fieldClocked s f = true → (fieldOf s f).clk.thermal = false) →
      ∃ t, exec (.rateRaise true) s = .next t ∧ Prepares s t .freq (BitVec.ofNat 64 (s.clk.k + 1)))

/-! ## Resets and bring-up -/

/-- What a field keeps over a loss of power and a module reset: that it is FENCED, its clamps closed, and its thermal trips (R17, R20, R493,
R512). -/
def Sys2Proof.FieldKept (s t : State) : Prop :=
  ∀ f, f < 36 →
    let x := (fieldOf s f).cond
    fieldOf t f = { cond := { fenced := x.fenced, fcause := x.fcause, trips := x.trips, dead := x.fenced }, net := { clamped := x.fenced } }

/-- Every domain but the sloe domain has lost its state: no job, no core, no stem message, no queue, no memory; flash is kept (R471,
R512). -/
def Sys2Proof.DomainsLost (s t : State) : Prop :=
  FieldKept s t ∧ t.cor = [] ∧ t.job = [] ∧ t.mem.die = [] ∧ t.mem.near = [] ∧ t.mem.far = [] ∧ t.cxl = {} ∧ t.bup = {} ∧ t.com = {} ∧
    t.stem.msgs = [] ∧ t.stem.events = [] ∧ t.pow = {} ∧ t.yld.base = s.yld.base ∧ t.yld.ext = s.yld.ext ∧ t.yld.boots = s.yld.boots ∧
    t.trs.keyRev = s.trs.keyRev ∧ t.trs.minSvn = s.trs.minSvn ∧ t.trs.sigNext = s.trs.sigEnd ∧ t.trs.safe = false ∧
    t.trs.image = s.trs.image ∧ t.trs.ident = s.trs.ident ∧ t.yld.baseObj = s.yld.baseObj

/-- R470, R471, R502, R512, R513, R577: below the standby range the sloe domain goes too; outside the input range every other domain loses
its state with INPUT_FAIL set, and restarts held in reset when the input returns, from where its INPUT_FAIL record will be the first; a
module reset keeps what the sloe domain holds and the sealed slices; reverse polarity stops the model, since R577 gives no behaviour
there. -/
def Obligations.PowerLossAndModuleResetKeepWhatTheyShould : Prop :=
  ∀ (s : State) (v : Int),
    (v < -10 → exec (.inputFail v) s = .fault .reversePolarity ∧ exec (.standbyPowerLoss v) s = .fault .reversePolarity) ∧
    (-10 ≤ v → v < 400 ∨ 840 < v → ∃ t, exec (.standbyPowerLoss v) s = .next t ∧ DomainsLost s t ∧ t.inp = {} ∧ t.log = {} ∧ t.clk = {} ∧
      t.pith = {} ∧ t.pair = {} ∧ t.brg = {}) ∧
    (-10 ≤ v → v < 540 ∨ 840 < v → s.inp.main = true → ∃ t, exec (.inputFail v) s = .next t ∧ DomainsLost s t ∧ t.inp.main = false ∧
      t.inp.sloe = s.inp.sloe ∧ t.inp.inputFail = true ∧ t.inp.forced = s.inp.forced ∧ t.inp.acked = s.inp.acked ∧ t.inp.perst = s.inp.perst ∧
      t.log.recs = (s.log.pend.foldl freeSeq s).log.recs ∧ t.log.seq = s.log.seq ∧ t.pith = { wdog := s.pith.wdog } ∧ t.pair = {}) ∧
    (s.inp.sloe = true → s.inp.main = false → s.inp.inputFail = true →
      exec .inputRestored s = .next { s with inp := { s.inp with main := true, held := true }, brg := { logFail := true } }) ∧
    (s.inp.sloe = true → s.inp.main = true → ∃ t, exec .moduleReset s = .next t ∧ DomainsLost s t ∧ t.inp.main = true ∧ t.inp.held = true ∧
      t.inp.sysRst = true ∧ t.inp.forced = s.inp.forced ∧ t.log.seq = s.log.seq ∧ t.pith = { wdog := s.pith.wdog } ∧
      t.mem.selfRefresh = true ∧ t.mem.chan = (if t.brg.warm then s.mem.chan else []) ∧
      (∀ i, i < 36 → sliceOf t i = if (sliceOf s i).valid ∧ (sliceOf s i).sealed_ then sliceOf s i else {}))

/-- R503, R514, R515: PERST# of one port ends its link alone; with both active the function is reset: queues, the window, the decoder and
MSI-X are cleared, a valid grant is revoked, accepted commands go on with their completions discarded, and asynchronous entries go to CQ0.
A port whose PERST# is deasserted trains and returns to service. -/
def Obligations.PortAndFunctionResets : Prop :=
  ∀ (s : State) (p : Fin 2), s.inp.sloe = true →
    (∃ t, exec (.portReset p) s = .next t ∧ t.inp = { s.inp with perst := s.inp.perst ||| BitVec.ofNat 2 (2 ^ p.val) } ∧ cxlPortOf t p = {} ∧
      (t.inp.perst ≠ 3 → (∀ o, o ≠ p.val → cxlPortOf t o = cxlPortOf s o) ∧
        t = { s with inp := t.inp, cxl := { s.cxl with port := t.cxl.port } })) ∧
    (s.inp.main = true → s.inp.held = false → ∃ t, exec .functionReset s = .next t ∧ t.inp = { s.inp with perst := 3 } ∧
      cxlPortOf t 0 = {} ∧ cxlPortOf t 1 = {} ∧
      t.cxl.queue = [] ∧ t.cxl.win = 0 ∧ t.cxl.committed = false ∧ t.cxl.msixMask = 65535 ∧ t.cxl.msixPend = 0 ∧ t.cxl.msixTab = [] ∧
      t.cxl.latch = s.cxl.latch ∧ t.cxl.lowWr = s.cxl.lowWr ∧
      (t.cxl.cmds.length = s.cxl.cmds.length ∧ ∀ c ∈ t.cxl.cmds, c.mute = true) ∧ (∀ c ∈ t.cxl.held, c.async = true ∧ c.cq = 0) ∧
      (∀ g, g < 64 → (grantOf t g).valid = false ∧ ((grantOf s g).valid = true ∨ (grantOf s g).revoking = true → (grantOf t g).revoking = true)) ∧
      (∀ a, jobOf t a = if a ∈ liveJobs s then { jobOf s a with orphan := true } else jobOf s a) ∧
      t = { s with inp := t.inp, cxl := t.cxl, job := t.job }) ∧
    (∀ test : CxlTest, s.inp.refLost = false → s.brg.st ≠ 0 → s.inp.main = true → s.inp.held = false → cxlRate test ≠ 0 →
      (cxlPortOf s p).up = false → tabGet false s.dom.rindOut (59 + p.val) = false →
      ∃ t, exec (.perstDeassert p test) s = .next t ∧ t.inp = { s.inp with perst := s.inp.perst &&& ~~~(BitVec.ofNat 2 (2 ^ p.val)) } ∧
        cxlPortOf t p = { cxlPortOf s p with up := true, rate := cxlRate test, changes := min 255 ((cxlPortOf s p).changes + 1) } ∧
        (∀ o, o ≠ p.val → cxlPortOf t o = cxlPortOf s o) ∧ t = { s with inp := t.inp, cxl := { s.cxl with port := t.cxl.port } })

/-- R391, R466, R470, R518, R519, R520, R531, R532, R539, R540: bring-up runs from power-on and from the end of a module reset. Firmware that
the boot ROM refuses, its slot unfit, its key slot revoked or its installed image no longer verifying, leaves the module in recovery, with both pith chiplets in reset; a pith chiplet that does not report is waited for, then
recorded, and the other one is started; one that starts, with a base record that verifies, takes bring-up to its end, where the capacity map
has GEN 1, the efficiency profile is in force and the tray cap reads 24.0 kW (R478). Where a command comes in between, bring-up stands in its phase,
waits for a qualified reference, and goes on by steps on an empty queue (R533; log 3), each of which ends a phase. -/
def Obligations.BringUpReachesItsOutcome : Prop :=
  ∀ (s : State) (pl : BringPlan),
    let key := match s.trs.image with | some x => objSlot 0 x.head | none => pl.keySlot.toNat
    let fw := pl.fwOk && s.trs.slotOk && !bitOf s.trs.keyRev.toNat key && objPasses s 0 s.trs.image
    let base := pl.baseOk && objPasses s 2 s.yld.baseObj
    (s.inp.sloe = false → pl.pause = none →
      (fw = false → ∃ t, exec (.powerOn pl) s = .next t ∧ t.trs.recovery = true ∧ t.brg.st = 2 ∧ t.brg.phase = 2 ∧ t.brg.fail = fcFirmware ∧
        t.pith = {} ∧ t.yld.boots = s.yld.boots + 1 ∧ t.inp.sloe = true ∧ t.inp.main = true ∧ t.inp.held = false ∧ t.inp.refOk = true) ∧
      (fw = true → base = false → pl.k0Ok = true →
        ∃ t, exec (.powerOn pl) s = .next t ∧ t.brg.st = 2 ∧ t.brg.phase = 3 ∧ t.brg.fail = fcBase ∧ t.pith.active = 0 ∧ t.pith.running = true) ∧
      (fw = true → base = true → pl.k0Ok = true →
        pl.k1Ok = true → ∃ t, exec (.powerOn pl) s = .next t ∧ (t.brg.st = 1 ∨ t.brg.st = 2) ∧ (t.brg.st = 1 → t.brg.phase = 7) ∧
          (t.brg.st = 1 → t.yld.gen = 1 ∧ t.clk.eff = true ∧ t.clk.hostCap = min 300 (capMax t) ∧ t.clk.trayCap = 480 ∧ 0 < t.yld.nchan))) ∧
    (s.inp.main = true → s.inp.held = true → pl.fwOk = false → pl.pause = none → ∃ t, exec (.sysRstNRelease pl) s = .next t ∧ t.trs.recovery = true ∧
      t.brg.st = 2 ∧ t.inp.held = false ∧ t.inp.sysRst = false ∧ t.yld.boots = s.yld.boots ∧ t.pith = s.pith) ∧
    (s.inp.sloe = false → pl.pause = some 1 → ∃ t, exec (.powerOn pl) s = .next t ∧ t.brg.st = 0 ∧ t.brg.phase = 1 ∧ t.inp.refOk = false ∧
      t.brg.plan = some { pl with pause := none } ∧ bringWaits t = true) ∧
    (s.brg.plan = some pl → s.brg.st = 0 → s.brg.phase = 3 → s.inp.main = true → s.inp.held = false → s.pith.active = 0 → pl.k0Ok = false →
      pl.k1Ok = false → pl.baseOk = false →
      ∃ t, exec .pithStartTimeout s = .next t ∧ pithBad t 0 = true ∧ t.pith.active = 1 ∧ t.brg.st = 0 ∧ t.brg.phase = 3 ∧
        t.brg.plan = some { pl with pause := none }) ∧
    (s.pending = [] → s.brg.plan = some pl → bringWaits s = false →
      let ended := fun (t : State) (n : Nat) => t.brg.st = 0 ∧ t.brg.phase = n + 1 ∧ t.brg.times = pl.times.take n
      (s.brg.phase = 1 → ∃ t, step s = .next t ∧ ended t 1 ∧ t = { s with brg := t.brg }) ∧
      (s.brg.phase = 3 → pl.baseOk = true → pithBad s 0 = false → s.pith.active = 0 → pl.k0Ok = true →
        ∃ t, step s = .next t ∧ ended t 3 ∧ t.pith.running = true ∧ t.pith.standby = (pl.k1Ok && !pithBad t 1)) ∧
      (s.brg.phase = 4 → ∃ t, step s = .next t ∧ ended t 4 ∧ (s.brg.warm = false → t.trs.winFixed = true ∧ t.yld.slow = pl.slowStk)) ∧
      (s.brg.phase = 5 → ∃ t, step s = .next t ∧ ended t 5 ∧ t.brg.laneSub = pl.laneSub ∧ t.brg.wireSub = pl.wireSub ∧
        ∀ p, p < 48 → portOf t p = { up := bupolPort (pl.ports.getD p []), reach := bitOf pl.reach.toNat p }) ∧
      (s.brg.phase = 6 → ∃ t, step s = .next t ∧ ended t 6 ∧ ∀ f, f < 36 → (fieldOf t f).cond.fenced = true →
        (fieldOf s f).cond.fenced = true) ∧
      (s.brg.phase = 7 → ∃ t, step s = .next t ∧ t.brg.plan = none ∧ t.yld.gen = 1 ∧ (t.brg.st = 1 ∨ t.brg.st = 2) ∧
        (t.brg.st = 2 ↔ s.yld.nchan = 0 ∨ ∀ f, f < 36 → fieldGone s f = true)))

/-! ## Clocks, slots and the pith -/

/-- R33, R34, R37, R501, R505, R506, R507, R508, R509: a reference tick advances N by 10 × k eighths of a slot while the reference is
qualified and present; a loss stops N and aborts an undecided PREPARE, which is to be prepared again; a return within 10 ms takes N to the
largest S of a running field and raises REF_INTERRUPTED; a field counts N itself while it does not sleep; REF_LOST and the sloe domain's own clock are raised once. What a command of an
elapsed interval stands for is the model's (log 4). -/
def Obligations.TheReferenceDrivesTheNominalCount : Prop :=
  ∀ s : State,
    (s.inp.refOk = true → s.inp.refLost = false → s.inp.main = true → s.inp.held = false →
      ∃ t, exec .refTick s = .next t ∧ t.clk.n8 = s.clk.n8 + 10 * s.clk.k ∧ t.clk.ticks = s.clk.ticks + 1 ∧
        (nominalEpoch t = nominalEpoch s →
          (∀ f, fieldOf t f =
            if f < 36 ∧ (fieldOf s f).cond.act ≠ .sleeping then
              { fieldOf s f with clk := { (fieldOf s f).clk with n8 := (fieldOf s f).clk.n8 + 10 * s.clk.k } }
            else fieldOf s f) ∧
          t = { s with
            clk := { s.clk with n8 := s.clk.n8 + 10 * s.clk.k, ticks := s.clk.ticks + 1 }
            inp := { s.inp with active := if (s.clk.ticks + 1) % 4 = 0 then 0 else s.inp.active }
            fld := t.fld })) ∧
    (s.inp.refOk = false ∨ s.inp.refLost = true → ∃ t, exec .refTick s = .next t ∧ t.clk.n8 = s.clk.n8 ∧ t.clk.ticks = s.clk.ticks + 1) ∧
    (s.inp.refOk = true → ∃ t, exec .refLossDetected s = .next t ∧ t.inp = { s.inp with refLost := true, refOk := false } ∧ t.clk.n8 = s.clk.n8 ∧
      (∀ c, pithUp s = true → s.com.out = some c → t.com = { s.com with
          out := none, stat := 2, aborts := s.com.aborts + 1, retry := s.com.retry ++ [{ c with after := 0, acked := [] }]
          aborted := t.com.aborted } ∧ c ∈ t.com.aborted ∧
        t.stem = { s.stem with msgs := s.stem.msgs ++ c.parts.map fun u => packet s (.abort u c.csn c.epoch) }) ∧
      (pithUp s = false → t = { s with inp := t.inp })) ∧
    (∀ micros : Nat, s.inp.sloe = true → s.inp.refOk = false → s.inp.refGone = false → s.inp.refLost = true →
      let waits := fun (f : Nat) => runningField s f = true ∧ starting s f = false
      ∃ t, exec (.refQualified micros) s = .next t ∧ t.inp.refOk = true ∧ t.inp.refLost = false ∧ s.clk.n8 ≤ t.clk.n8 ∧
        (∀ f, f < 36 → waits f → 8 * slotOf s f ≤ t.clk.n8) ∧
        (t.clk.n8 = s.clk.n8 ∨ ∃ f, f < 36 ∧ waits f ∧ t.clk.n8 = 8 * slotOf s f) ∧
        ∃ e ∈ t.stem.events, e.code = 0x00F0 ∧ e.src = 0x203F) ∧
    (s.inp.refLost = true → s.inp.refGone = false → ∃ t, exec .refLost s = .next t ∧ Raises s t (sloeEvent s 0x0305 0) ∧
      t = { s with inp := { s.inp with refGone := true }, stem := t.stem }) ∧
    (s.inp.sloe = true → s.inp.backup = false → ∃ t, exec .sloeClock s = .next t ∧ (s.inp.main = true → Raises s t (sloeEvent s 0x01F0 0)) ∧
      (s.inp.main = false → t.stem = s.stem) ∧ t = { s with inp := { s.inp with backup := true }, stem := t.stem }) ∧
    (∀ f : FieldIx, pithUp s = true → (fieldAsids s f).filter (awaitsStart s f) ≠ [] →
      ∃ t, exec (.oscLockTimeout f) s = .next t ∧
        ((fieldOf s f).cond.oscTry = 0 → fieldOf t f = { fieldOf s f with cond := { (fieldOf s f).cond with oscTry := 1 } } ∧
          t = { s with fld := t.fld }) ∧
        ((fieldOf s f).cond.oscTry ≠ 0 → (fieldOf t f).cond.oscFail = true ∧ (fieldOf t f).cond.testHold = true ∧
          Raises s t (mkEvent (fieldAddr f) (slotOf s f) 0x01F1 0 0 7 0 0) ∧
          ∀ a ∈ (fieldAsids s f).filter (awaitsStart s f), f.val ∈ (jobOf t a).barred))

/-- The counter that a held cycle raises (R39). -/
def Sys2Proof.holdCount (c : FieldClock) : HoldCause → BitVec 64
  | .none => 0
  | .refLoss => c.hRef | .thermal => c.hTherm | .commitWait => c.hCommit | .ready => c.hReady | .seamIn => c.hSeamIn | .seamSpace => c.hSeamSpace

/-- R34, R35, R36, R38, R39, R59, R481: an oscillator cycle of a clocked field is suppressed by the governor, a bubble while S has reached N,
a hold with its cause counted and reported when it changes, or else advances S by one slot, which it does only below N as the field counts
it. In a READY hold the blocks that the field waits for go on moving (log 156), so that no frame is given there. -/
def Obligations.ACycleAdvancesOrIsCounted : Prop :=
  ∀ (s : State) (f : FieldIx), fieldClocked s f = true →
    let x := fieldOf s f
    let runs := x.clk.cyc * x.pow.duty / 32 < (x.clk.cyc + 1) * x.pow.duty / 32
    ∃ t, exec (.slotAdvance f []) s = .next t ∧
      (¬ runs → t = modFclk s f fun c => { c with cyc := (x.clk.cyc + 1) % 32, suppressed := x.clk.suppressed + 1 }) ∧
      (runs → bubbles s f = true → t = modFclk s f fun c => { c with cyc := (x.clk.cyc + 1) % 32, bubbles := x.clk.bubbles + 1 }) ∧
      (runs → bubbles s f = false → holdCause s f ≠ .none →
        slotOf t f = slotOf s f ∧ (fieldOf t f).clk.hold = holdCause s f ∧
        holdCount (fieldOf t f).clk (holdCause s f) = holdCount x.clk (holdCause s f) + 1 ∧
        t.stem.msgs = s.stem.msgs ++
          (if x.clk.hold = holdCause s f then [] else [packet s (.gate f (holdCode (holdCause s f)) 0 (slotOf s f % 2 ^ 48))]) ∧
        (holdCause s f ≠ .ready → (∀ g, g ≠ f.val → fieldOf t g = fieldOf s g) ∧ t = { s with fld := t.fld, stem := t.stem })) ∧
      (runs → bubbles s f = false → holdCause s f = .none →
        slotOf t f = (slotOf s f + 1) % 2 ^ 60 ∧ (fieldOf t f).clk.hold = .none ∧ (s.inp.refLost = false → slotOf s f < fieldN s f))

/-- The module's safe state (R549): every job is stopped, no change is under way, every field that is neither FENCED nor RETIRED sleeps, and
the memories keep themselves. -/
def Sys2Proof.InSafeState (t : State) : Prop :=
  t.trs.safe = true ∧ t.inp.fSafe = true ∧ t.com.out = none ∧ t.com.queue = [] ∧ t.com.retry = [] ∧
    (∀ a, 1 ≤ a → a ≤ 36 → (jobOf t a).live = true → (jobOf t a).st = .stopped) ∧
    (∀ f, f < 36 → fieldGone t f = false → (fieldOf t f).cond.act = .sleeping) ∧ t.mem.selfRefresh = true

/-- R27, R28, R347, R380, R548, R549: the active pith writes the watchdog; when it fails or is 2 ms late, the standby takes over, with a
context save to be copied anew, and without one the sloe domain raises PITH_LOST and brings the module to its safe state; the new active pith aborts a prepared change and logs
PITH_TAKEOVER, or PITH_LOST where a domain was being handled. -/
def Obligations.TheStandbyPithTakesOver : Prop :=
  ∀ s : State, s.inp.main = true → s.inp.held = false →
    let takes := fun (t : State) => t.pith.takeover = true ∧ t.pith.standby = false ∧ t.pith.wrote = false ∧ t.pith.lost = anyHandling s ∧
      t.pith.running = s.pith.running ∧ t.pith.active = s.pith.active ∧ t.trs.safe = s.trs.safe ∧ t.fld = s.fld ∧ t.com = s.com ∧
      ∀ a, 1 ≤ a → a ≤ 36 → jobOf t a =
        if (jobOf s a).live = true ∧ (jobOf s a).st = .saving then { jobOf s a with saved := { (jobOf s a).saved with copied := false } }
        else jobOf s a
    let gone := fun (t : State) => InSafeState t ∧ t.pith.running = false ∧ t.pith.takeover = false ∧
      ∃ e ∈ t.stem.events, e.code = 0x0303 ∧ e.src = 0x203F
    (s.pith.running = true → exec .watchdogWrite s = .next { s with pith := { s.pith with wrote := true } }) ∧
    (s.pith.running = true → s.pith.takeover = false →
      (∃ t, exec .pithFailure s = .next t ∧ (s.pith.standby = true → takes t ∧ t.pith.wdog = s.pith.wdog) ∧
        (s.pith.standby = false → s.trs.safe = false → gone t)) ∧
      (∃ t, exec .watchdogExpiry s = .next t ∧ t.pith.wdog = min (s.pith.wdog + 1) 255 ∧ (s.pith.standby = true → takes t) ∧
        (s.pith.standby = false → s.trs.safe = false → gone t))) ∧
    (s.pith.takeover = true → s.pith.wrote = false → s.trs.safe = false → ∃ t, exec .takeoverTimeout s = .next t ∧ gone t) ∧
    (s.pith.takeover = true → ∃ t, exec .takeoverComplete s = .next t ∧ t.pith.active = 1 - s.pith.active ∧ t.pith.running = true ∧
      t.pith.takeover = false ∧ s.log.seq ≤ t.log.seq ∧
      (s.pith.lost = true → s.trs.safe = false → t.trs.safe = true))

/-! ## Epoch commits -/

/-- R40, R64, R65, R69, R582: a participant answers a PREPARE: staged where its argument is valid, its epoch far enough and fewer than 8
decided changes wait; ABORT takes the change off again; a COMMIT before E decides it, and one after E is COMMIT_LATE, which applies
nothing and fences a field with cause 7. -/
def Obligations.ParticipantsStageDecideAndRefuse : Prop :=
  ∀ (s : State) (u : Part) (csn : BitVec 16) (epoch : Nat), partAlive s u = true →
    (∀ (k : CommitKind) (arg : BitVec 64),
      let valid := argOk s u k arg = true
      let late := epoch < partSlot s u / 4096 + 8
      let busy := 8 ≤ ((stagedOf s u).filter (·.decided)).length
      ∃ t st, exec (.prepare u csn k arg epoch) s = .next t ∧
        t.stem = { (receive s (.prepare u csn k arg epoch 0)).stem with
          msgs := (receive s (.prepare u csn k arg epoch 0)).stem.msgs ++ [packet s (.ack u csn st)] } ∧
        (st = .nackInvalid ↔ ¬ valid) ∧ (st = .nackLate ↔ valid ∧ late) ∧ (st = .nackBusy ↔ valid ∧ ¬ late ∧ busy) ∧
        (st = .staged ↔ valid ∧ ¬ late ∧ ¬ busy) ∧
        (st = .staged → stagedOf t u = stagedOf s u ++ [{ csn := csn, kind := k, arg := arg, epoch := epoch }]) ∧
        (st ≠ .staged → t = { s with stem := t.stem })) ∧
    (∃ t, exec (.abort u csn epoch) s = .next t ∧ ∀ c ∈ stagedOf t u, c ∈ stagedOf s u ∧ (c.decided = true ∨ c.csn ≠ csn)) ∧
    (partSlot s u < 4096 * epoch → ∃ t, exec (.commit u csn epoch) s = .next t ∧
      stagedOf t u = modFirst (fun c => c.csn == csn) (fun c => { c with decided := true }) (stagedOf s u) ∧
      t.stem = (receive s (.commit u csn epoch)).stem) ∧
    (4096 * epoch < partSlot s u → ∃ t, exec (.commit u csn epoch) s = .next t ∧ (∃ e ∈ t.stem.events, e.code = 0x0302) ∧
      (∀ c ∈ stagedOf t u, c ∈ stagedOf s u ∧ c.csn ≠ csn) ∧
      (∀ f, u = .field f → (fieldOf t f).cond.fenced = true ∧ (fieldOf t f).cond.fcause = 7 ∧ packet s (.fence f 7) ∈ t.stem.msgs))

/-- The COMMIT messages of a change. -/
def Sys2Proof.commitMsgs (s : State) (c : Change) : List Packet := c.parts.map fun u => packet s (.commit u c.csn c.epoch)

/-- R65, R66, R67, R68, R582: the last ACK in time makes the pith decide the change and send COMMIT to every participant; a NACK or a missing
answer makes it send ABORT, and prepare the change again, corrected where it was invalid (what can be corrected is the model's choice, log
148); a field that has not applied a decision 8 epochs after it was sent again is fenced with cause 6; an aborted change is prepared again with a new number. -/
def Obligations.ThePithDecidesAbortsAndRepeats : Prop :=
  ∀ (s : State) (c : Change), pithUp s = true → s.com.queue = [] → s.inp.refLost = false → s.trs.safe = false →
    let aborted := fun (t : State) (again : List Change) => t.com.out = none ∧ t.com.aborts = s.com.aborts + 1 ∧ t.com.retry = s.com.retry ++ again ∧
      t.com.committed = s.com.committed
    let aborts : List Packet := c.parts.map fun u => packet s (.abort u c.csn c.epoch)
    (∀ u st, s.com.out = some c → u ∈ c.parts →
      let got := (receive s (.ack u c.csn st)).stem.msgs
      ∃ t, exec (.ack u c.csn st) s = .next t ∧
        (st = .staged → nominalEpoch s < c.at_ + 8 → (∀ p ∈ c.parts, p = u ∨ p ∈ c.acked) →
          t.com.out = none ∧ t.com.commits = s.com.commits + 1 ∧ t.com.committed = s.com.committed ++ [{ c with acked := addNew u c.acked }] ∧
          t.stem.msgs = got ++ commitMsgs s c) ∧
        (st = .staged → ¬ (nominalEpoch s < c.at_ + 8 ∧ ∀ p ∈ c.parts, p = u ∨ p ∈ c.acked) →
          t.com = { s.com with out := some { c with acked := addNew u c.acked } } ∧ t.stem.msgs = got) ∧
        (st = .nackInvalid → aborted t (corrected s u c).toList ∧ t.stem.msgs = got ++ aborts) ∧
        (st = .nackBusy → aborted t [{ c with after := busyUntil s u, acked := [] }] ∧ t.stem.msgs = got ++ aborts) ∧
        (st = .nackLate → aborted t [{ c with after := 0, acked := [] }] ∧ t.stem.msgs = got ++ aborts)) ∧
    (s.com.out = some c → c.at_ + 8 ≤ nominalEpoch s → ∃ t, exec .ackDeadline s = .next t ∧ aborted t [{ c with after := 0, acked := [] }] ∧
      t.stem.msgs = s.stem.msgs ++ aborts) ∧
    (∀ f : FieldIx, fieldGone s f = false → (∃ r ∈ s.com.resent, r.1 = .field f ∧ r.2 + 8 ≤ nominalEpoch s) →
      ((∃ d ∈ s.com.committed, .field f ∈ d.parts) ∨
        ∃ d ∈ s.com.aborted, .field f ∈ d.parts ∧ ∃ x ∈ (fieldOf s f).clk.staged, x.csn = d.csn ∧ x.decided = false) →
      ∃ t, exec (.commitWaitTimeout (.field f)) s = .next t ∧ (fieldOf t f).cond.fenced = true ∧ (fieldOf t f).cond.fcause = 6 ∧
        (fieldOf t f).pow.rails = 0) ∧
    (s.com.out = none → s.com.retry = [c] → c.after ≤ nominalEpoch s → changeLives s c = true → partsOf s c.kind c.arg ≠ [] →
      ∃ t, exec .reprepare s = .next t ∧ Prepares s t c.kind c.arg ∧ t.com.retry = [])

/-! ## Yield points, barriers and rest -/

/-- R174, R176, R309, R341, R407: an arrival is counted at the barrier's owner, and the last of the job's bunches releases it for 8 nominal
epochs on in every field of the job; a field keeps the release unless it has applied a PREEMPT for the job; a bunch's report at a mirror
point is counted, and firmware may read the snapshots with it (log 180); a field with transit routes alone is rested by a REST change. -/
def Obligations.BarriersReportsAndRest : Prop :=
  ∀ (s : State) (f : FieldIx) (b : BunchIx) (a : Nat) (n : Fin 16),
    let j := jobOf s a
    (a ≤ 36 → j.live = true → j.st ≠ .stopped → s.inp.main = true → s.inp.held = false →
      let l := addNew (36 * f.val + b.val) (if j.barrier = n.val then j.arrivals else [])
      let got := (receive s (.arrive a n f b)).stem.msgs
      ∃ t, exec (.barrierArrive a n f b) s = .next t ∧
        ((∀ x ∈ jobBunches s a, x ∈ l) → jobOf t a = { j with barrier := n.val, arrivals := [] } ∧
          t.stem.msgs = got ++ (jobFields s a).map fun g => packet s (.release g a n (nominalEpoch s + 8))) ∧
        (¬ (∀ x ∈ jobBunches s a, x ∈ l) → jobOf t a = { j with barrier := n.val, arrivals := l } ∧ t.stem.msgs = got) ∧
        (∀ x, x ≠ a → jobOf t x = jobOf s x) ∧ t = { s with job := t.job, stem := t.stem }) ∧
    (∀ epoch : Nat, fieldGone s f = false → hasJob s f a = true → a ∉ (fieldOf s f).job.halted → tabGet 0 (fieldOf s f).job.pre a = 0 →
      ∃ t, exec (.barrierRelease f a n epoch) s = .next t ∧ tabGet 0 (fieldOf t f).job.release a = epoch + 1 ∧
        tabGet 0 (fieldOf t f).job.relBar a = n.val ∧ (∀ x, x ≠ f.val → fieldOf t x = fieldOf s x) ∧ t = { s with fld := t.fld, stem := t.stem }) ∧
    (∀ y : Nat, pithUp s = true → j.live = true → onStem s (.yieldReport f b a y true) = true →
      ∃ t, exec (.yieldReport f b a y true false) s = .next t ∧ exec (.yieldReport f b a y true true) s = .next (readSnaps t a) ∧
        jobOf t a = { j with mirrorReports := j.mirrorReports ++ [36 * f.val + b.val] } ∧
        t.stem = (receive s (.yieldReport f b a y true)).stem ∧ t = { s with job := t.job, stem := t.stem }) ∧
    (CommitIdle s → fieldGone s f = false → (fieldOf s f).cond.owner = 0 → (fieldOf s f).cond.leases ≠ [] → (fieldOf s f).cond.act = .running →
      ∃ t, exec (.fieldRest f) s = .next t ∧ Prepares s t .rest (BitVec.ofNat 64 f.val))

/-! ## Errors and halts -/

/-- A new record of the event stands in the log, in the domain, with the class and SEQ given, and the record's counter is its SEQ. -/
def Sys2Proof.Logged (s t : State) (m : ErrMsg) (d : Domain) (cls : Nat) : Prop :=
  ∃ i r, i < 256 ∧ recAt s i = none ∧ recAt t i = some r ∧ r.code = m.code ∧ r.dom = d ∧ r.cls = cls ∧ r.seq = s.log.seq + 1 ∧
    r.src = m.src ∧ r.asid = m.asid ∧ r.detail = m.detail ∧ r.addr = m.addr ∧ r.count = m.count ∧ r.slot = m.slot

/-- R58, R60, R269, R361, R362, R368, R370, R371, R372, R373, R376, R377, R378, R581: a message with a reserved TYPE, CAUSE or operation becomes an event; NOT_PRESENT leaves no record; a CORRECTED
event raises its CE count and gets a record where its code and domain have none; an uncorrectable event of an idle domain gets a record of
its own, and of class DEVICE it takes the module to its safe state; FENCE_NOTICE of a fenced field is logged and raises GEN; a decision that a
field waits for is sent to it again. -/
def Obligations.EventsAreLoggedAndContained : Prop :=
  ∀ (s : State) (m : ErrMsg),
    let c := m.code.toNat
    let d := domainOf m
    (∀ (src : BitVec 16) (header : BitVec 64),
      let type := header.extractLsb' 56 6
      let reserved := type ∉ [0x01, 0x02, 0x10, 0x11, 0x12, 0x13, 0x20, 0x28, 0x30, 0x31, 0x38] ∨ (type = 0x38 ∧ header.getLsbD 3 = true) ∨
        (type = 0x28 ∧ header.extractLsb' 16 6 ∉ [0x01, 0x02, 0x03, 0x04, 0x05, 0x3F])
      ∃ t detail, exec (.stemType src header) s = .next t ∧ (¬ reserved → t = s) ∧
        (reserved → Raises s t (mkEvent src (match addrField src.toNat with | some f => slotOf s f | none => floorN s) 0x0008 0 0 7 0 detail) ∧
          t = { s with stem := t.stem })) ∧
    (pithUp s = true → m.notPresent = true →
      exec (.errorEvent m) s = .next { s with stem := { s.stem with events := eraseFirst (sameReport m) s.stem.events } }) ∧
    (pithUp s = true → m.notPresent = false → codeClass c = 0 → c ≠ 0x0006 → c ≠ 0x000B →
      (∀ e ∈ s.log.recs, ∀ r, e.2 = some r → ¬ (r.code = m.code ∧ r.dom = d)) → lowUsed s < 192 →
      ∃ t, exec (.errorEvent m) s = .next t ∧
        tabGet 0 t.log.ce (c % 256) = tabGet 0 s.log.ce (c % 256) + BitVec.ofNat 64 m.count ∧ t.log.seq = s.log.seq + 1 ∧ t.trs.safe = s.trs.safe) ∧
    (pithUp s = true → m.notPresent = false → codeClass c ≠ 0 → (domGet s d).st = 0 → freeRec s ≠ none → s.log.pend = [] →
      ∃ t, exec (.errorEvent m) s = .next t ∧ s.log.seq < t.log.seq ∧
        (codeClass c = 1 → (∀ a ∈ liveJobs s, (jobOf s a).st ≠ .saving) → Logged s t m d 1 ∧ t.trs.safe = s.trs.safe) ∧
        (codeClass c = 3 → t.trs.safe = true)) ∧
    (∀ (f : FieldIx) (cause : Fin 256), pithUp s = true → (fieldOf s f).cond.fenced = true → 1 ≤ cause.val → cause.val ≤ 7 →
      (domGet s (.field f)).st = 0 → freeRec s ≠ none →
      ∃ t, exec (.fenceNotice f cause) s = .next t ∧ s.log.seq < t.log.seq ∧ s.yld.gen < t.yld.gen ∧ (fieldOf t f).cond.fenced = true) ∧
    (∀ (f : FieldIx) (a slot : Nat), pithUp s = true → s.com.resent = [] →
      let cs := (s.com.committed.filter fun x => x.parts.contains (.field f)).map fun x => packet s (.commit (.field f) x.csn x.epoch)
      let as := (s.com.aborted.filter fun x => x.parts.contains (.field f) && (fieldOf s f).clk.staged.any fun y => y.csn == x.csn && !y.decided).map
        fun x => packet s (.abort (.field f) x.csn x.epoch)
      cs ++ as ≠ [] → ∃ t, exec (.gateStatus f 3 a slot) s = .next t ∧ t.com = { s.com with resent := [(.field f, nominalEpoch s)] } ∧
        t.stem.msgs = (receive s (.gate f 3 a slot)).stem.msgs ++ cs ++ as)

/-- R26, R59, R361, R362, R363, R365, R366, R379: JOB_HALT stops the job that a record requires and sends HALT to each of its fields; HALT in
a field stops the job's engines, forwards nothing for it, discards its changes and reports HALTED with the hold cause; a handling that
takes too long escalates by one class with a record; a diagnosis condemns its core and ends the field's handling; a failed rind unit
is out of service with its event. -/
def Obligations.HaltsDiagnosesAndLosses : Prop :=
  ∀ (s : State),
    (∀ (f : FieldIx) (a : Nat), fieldGone s f = false → hasJob s f a = true → ∃ t, exec (.halt f a) s = .next t ∧
      a ∈ (fieldOf t f).job.halted ∧ a ∈ (fieldOf t f).net.quiet ∧ (∀ x ∈ (fieldOf t f).clk.staged, argAsid x.kind x.arg ≠ a) ∧
      (∀ x ∈ (fieldOf t f).str.xfer, x.asid ≠ a) ∧
      (hasWork s f a = true → ∀ k ∈ fieldCores s f, (coreAt t k).halted = true ∧ (coreAt t k).prog = [] ∧ (coreAt t k).vwr = []) ∧
      t.stem.msgs = (receive s (.power f 0x3F (BitVec.ofNat 16 a))).stem.msgs ++
        [packet s (.gate f 7 a (slotOf s f % 2 ^ 48)), packet s (.gate f (holdCode (fieldOf s f).clk.hold) 0 (slotOf s f % 2 ^ 48))]) ∧
    (∀ (a seq : Nat), a ≤ 36 → pithUp s = true → s.stem.halts.find? (fun h => h.1 == a) = some (a, seq) → (jobOf s a).live = true →
      jobFields s a ≠ [] → (∀ f ∈ jobFields s a, fieldGone s f = false) →
      ∃ t, exec (.jobHalt a) s = .next t ∧ (jobOf t a).st = .stopped ∧ (jobOf t a).haltSeq = seq ∧ (∀ h ∈ t.stem.halts, h.1 ≠ a) ∧
        ∀ f ∈ jobFields s a, packet s (.power f 0x3F (BitVec.ofNat 16 a)) ∈ t.stem.msgs) ∧
    (∀ d : Domain, pithUp s = true → (domGet s d).st ≠ 0 → freeRec s ≠ none → ∃ t, exec (.handlingTimeout d) s = .next t ∧
      s.log.seq < t.log.seq ∧ (3 ≤ (domGet s d).cls + 1 → t.trs.safe = true)) ∧
    (∀ (c : CoreId) (o : DiagOutcome), pithUp s = true → (fieldOf s c.fld).cond.diagHold = true → (freeRec s).isSome = true →
      ∃ t, exec (.diagnosis c o) s = .next t ∧ (fieldOf t c.fld).cond.diagHold = false ∧ (fieldOf t c.fld).cond.remapDue = true ∧
        s.log.seq < t.log.seq ∧ s.yld.gen < t.yld.gen) ∧
    (∀ die : Fin 64, 1 ≤ die.val → die.val ≤ 60 → tabGet false s.dom.rindOut die = false → ∃ t, exec (.rindFailed die) s = .next t ∧
      tabGet false t.dom.rindOut die = true ∧ t.yld.gen = s.yld.gen + 1 ∧ (∃ e ∈ t.stem.events, e.code = 0x0108 ∧ e.src = dieAddr die) ∧
      (die.val < 41 ∨ 52 < die.val → Raises s t (mkEvent (dieAddr die) (floorN s) 0x0108 0 0 7 0 0)) ∧
      (41 ≤ die.val → die.val ≤ 52 → ∀ p, p / 4 = die.val - 41 → (portOf t p).up = false) ∧
      (59 ≤ die.val → (cxlPortOf t (die.val - 59)).up = false))


/-! ## Spares and wear -/

/-- R24, R276, R383, R385, R388, R389, R391, R392, R393, R394, R395, R398, R544: a remap of a free field applies its committed entries, clears what
moved or was condemned, raises GEN, and is due again exactly while an entry that it would apply is due; an ageing sample keeps the last 64
of each monitor, follows the largest median, and makes a raised guard band and the tests that a monitor reaches due; a margin test makes
its failing sites due with cause 4; an extension record is written as body, signature and COMMIT, and applies only then. -/
def Obligations.SparesAreRecordedAndRemapped : Prop :=
  ∀ (s : State) (f : FieldIx), pithUp s = true →
    let p := (fieldOf s f).pow
    (∀ failed : List YEnt, fieldFree s f = true →
      ∃ t, exec (.remap f failed) s = .next t ∧ t.yld.gen = s.yld.gen + 1 ∧ t.yld.ext = s.yld.ext ∧
        (∀ e ∈ failed, remapEntry f e = true ∨ e.kind = ykRow → e ∈ t.yld.due) ∧ (∀ e ∈ s.yld.due, e ∈ t.yld.due) ∧
        (∀ e ∈ yieldEntries s.yld, e.unit = f.val → e.kind = ykSite → tabGet false t.yld.sites (42 * f.val + e.loc) = true) ∧
        ((fieldOf t f).cond.remapDue = true ↔ ∃ e ∈ t.yld.due, remapEntry f e = true ∧ e.kind ≠ ykPhase) ∧
        (∀ b, b < 36 → tabGet 0 t.yld.pend (36 * f.val + b) = 0) ∧ (∀ k ∈ fieldCores s f, (coreAt t k).condemned = false) ∧
        (∀ g, g ≠ f.val → fieldOf t g = fieldOf s g) ∧ ((domGet s (.field f)).st = 0 → t.dom = s.dom ∧ t.log = s.log) ∧
        t = { s with fld := t.fld, cor := t.cor, yld := t.yld, dom := t.dom, log := t.log }) ∧
    (∀ drifts : List Nat, fieldRuns s f = true →
      ∃ t, exec (.ageingSample f drifts) s = .next t ∧
        let q := (fieldOf t f).pow
        (∀ m, m < 4 → tabGet [] q.samples m = (drifts.getD m 0 :: tabGet [] p.samples m).take 64) ∧
        q.drift = min 255 (((List.range 4).map (driftOf q)).foldl max 0) ∧
        (∀ m, m < 4 → tabGet 0 p.tested m < testLevel (driftOf q m) → m ∈ q.testDue) ∧
        t.yld.gen = s.yld.gen + (if q.drift = p.drift then 0 else 1) ∧
        (max (guardOf s f) p.guardDue < guardFor (((List.range 4).map (driftOf q)).foldl max 0) →
          { kind := ykMargin, unit := f.val, loc := 0, value := guardFor (((List.range 4).map (driftOf q)).foldl max 0) } ∈ t.yld.due) ∧
        (∀ g, g ≠ f.val → fieldOf t g = fieldOf s g) ∧ t = { s with fld := t.fld, yld := t.yld }) ∧
    (∀ (m : Fin 4) (sites : List Nat), fieldFree s f = true → m.val ∈ p.testDue →
      let bad := fun (i : Nat) => i ∈ monitorSites m ∧ i ∈ sites ∧ tabGet false s.yld.sites (42 * f.val + i) = false
      ∃ t, exec (.marginTest f m sites) s = .next t ∧
        (fieldOf t f).pow = { p with
          testDue := dropAll m.val p.testDue, tested := tabPut 0 m.val (testLevel (driftOf p m)) p.tested } ∧
        (∀ i, bad i → { kind := ykSite, unit := f.val, loc := i, value := 4 } ∈ t.yld.due ∧ (fieldOf t f).cond.remapDue = true) ∧
        ((∀ i, ¬ bad i) → t.yld = s.yld ∧ (fieldOf t f).cond = (fieldOf s f).cond) ∧
        (∀ g, g ≠ f.val → fieldOf t g = fieldOf s g) ∧ t = { s with fld := t.fld, yld := t.yld }) ∧
    (∀ ents : List YEnt,
      let y := s.yld
      (y.draftStep = 0 → ents ≠ [] → ents.length ≤ 64 → (∀ e ∈ ents, e ∈ y.due) →
        exec (.ymapRecordWrite .body ents) s = .next { s with yld := { y with draft := ents, draftStep := 1 } }) ∧
      (y.draftStep = 1 → canSign s.trs = true →
        ∃ t, exec (.ymapRecordWrite .sig ents) s = .next t ∧ t.trs.sigNext = s.trs.sigNext + 1 ∧ t.trs.sigNext ≤ t.trs.sigEnd ∧
          t = { s with trs := t.trs, yld := { y with draftStep := 2, draftSig := s.trs.sigNext } }) ∧
      (y.draftStep = 2 →
        ∃ t, exec (.ymapRecordWrite .commit ents) s = .next t ∧ t.yld.draft = [] ∧ t.yld.draftStep = 0 ∧
          t.yld.due = y.due.filter (fun e => !y.draft.contains e) ∧
          (y.full = false → t.yld.ext = y.ext ++ [{ boot := y.boots, ents := y.draft, sig := y.draftSig }] ∧ t.yld.kept = y.kept ∧ t.yld.full = decide (224 ≤ y.ext.length + 1)) ∧
          (y.full = true → t.yld.ext = y.ext ∧ t.yld.kept = y.kept ++ y.draft ∧ t.yld.full = true) ∧
          (∀ e ∈ y.draft, e.kind = ykRetired → (fieldOf s e.unit).cond.fenced = true ∨ fieldFree s e.unit = true →
            (fieldOf t e.unit).cond.retired = true ∧ (fieldOf t e.unit).pow.rails = 0 ∧ (fieldOf t e.unit).net.clamped = true) ∧
          (∀ e ∈ y.draft, e.kind = ykMargin → (fieldOf s e.unit).cond.owner = 0 → e.value ≤ guardOf t e.unit) ∧
          (∀ e ∈ y.draft, e.kind ∈ [ykSite, ykColumn, ykBank, ykEngine] → (fieldOf t e.unit).cond.remapDue = true)))

/-! ## Streams -/

/-- A request is accepted: it leaves those taken, and the STRM that sent it, on the core's scalar engine, completes in this slot (R262). -/
def Sys2Proof.RequestTaken (s t : State) (c : CoreId) (q : ReqTaken) : Prop :=
  (fieldOf t c.fld).net = { (fieldOf s c.fld).net with req := eraseFirst (· == q) (fieldOf s c.fld).net.req } ∧
    (taskOf (coreAt t (ckey c)) .scalar).flights =
      modFirst (·.onAccept) (fun z => { z with onAccept := false, done := slotOf s c.fld }) (taskOf (coreAt s (ckey c)) .scalar).flights ∧
    (∀ k, k ≠ ckey c → coreAt t k = coreAt s k) ∧ (∀ g, g ≠ c.fld.val → fieldOf t g = fieldOf s g) ∧
    t = { s with fld := t.fld, cor := t.cor, stem := t.stem, dom := t.dom, log := t.log }

/-- The handling states and the log are as before. -/
def Sys2Proof.SameHandling (s t : State) : Prop := t.dom = s.dom ∧ t.log = s.log

/-- The stream complex's handling completes, where it is being handled and no stream of it is left faulted (R379; the model's reading, log
60); else the handling states and the log are as before. -/
def Sys2Proof.StreamsSettle (s t : State) (f : Nat) : Prop :=
  ((domGet s (.stream f)).st ≠ 0 → anyFaulted t f = false → t.dom = (handlingDone s (.stream f)).dom ∧ t.log = (handlingDone s (.stream f)).log) ∧
    ((domGet s (.stream f)).st = 0 ∨ anyFaulted t f = true → SameHandling s t)

/-- Stream `st` of field `f` becomes `y`; every other stream of the field stays. -/
def Sys2Proof.StreamIs (s t : State) (f st : Nat) (y : Stream) : Prop :=
  streamOf t f st = y ∧ ∀ x, x ≠ st → streamOf t f x = streamOf s f x

/-- The STREAM_FAULT of a kind that is raised unless the stream drains (R263, R269, R275); its DETAIL, a free value (log 11), is of the kind, the
stream and the TAG of its descriptor (R257). -/
def Sys2Proof.StreamFaults (s t : State) (f st kind dva : Nat) : Prop :=
  if (streamOf s f st).draining = true then t.stem = s.stem
  else Raises s t
    { mkEvent (fieldAddr f) (slotOf s f) 0x020A (fieldOf s f).cond.owner 0 6 dva (streamDetail s f st 0x020A kind) with notPresent := kind == 1 }

/-- R261, R262, R263, R275: a request that a tap took is accepted in the slot after. ARM takes an unarmed stream with a declared near base to descriptor 0; RE-ARM restarts a done stream and waits
on one that is not; RELEASE unarms a stream, at once or once its open transfers have ended; anything else is an ARM fault, which changes
no stream. -/
def Obligations.StreamRequestsTakeEffect : Prop :=
  ∀ (s : State) (c : CoreId) (req : BitVec 1024) (q : ReqTaken), fieldRuns s c.fld = true → q ∈ (fieldOf s c.fld).net.req →
    let f := c.fld.val
    let r := req.toNat
    let st := bitsOf r 2 8
    let y := streamOf s f st
    let nb := bitsOf r 12 2
    let t0 := (slotOf s f - anchorOf s f (fieldOf s f).cond.owner) / 4096
    let fb := BitVec.ofNat 64 (bitsOf r 128 64)
    let declared := tabGet 0 (fieldOf s f).str.nbase (4 * st + nb) ≠ 0
    let same := fun (t : State) => ∀ x, streamOf t f x = streamOf s f x
    let due := fun (op : Nat) => dueRequest s c req op = some q
    (dueRequest s c req 0 = none → exec (.streamArm c req) s = .next s) ∧ (dueRequest s c req 1 = none → exec (.streamReArm c req) s = .next s) ∧
    (dueRequest s c req 2 = none → exec (.streamRelease c req) s = .next s) ∧
    (due 0 → ∃ t, exec (.streamArm c req) s = .next t ∧ RequestTaken s t c q ∧ SameHandling s t ∧
      (y.st = .unarmed ∧ declared → t.stem = s.stem ∧ StreamIs s t f st { idleStream y with
        st := .active, persist := bitOf r 10, listOda := bitOf r 11, nbsel := nb, t0 := t0, list := BitVec.ofNat 64 (bitsOf r 64 64), farbase := fb }) ∧
      (¬ (y.st = .unarmed ∧ declared) → same t ∧ StreamFaults s t f st 7 0)) ∧
    (due 1 →
      let may := y.st ≠ .unarmed ∧ declared ∧ y.releasing = false
      ∃ t, exec (.streamReArm c req) s = .next t ∧ RequestTaken s t c q ∧ SameHandling s t ∧
        (may → y.st = .done → t.stem = s.stem ∧ StreamIs s t f st (restart y t0 nb fb)) ∧
        (may → y.st ≠ .done → y.pend = false → t.stem = s.stem ∧
          StreamIs s t f st { y with pend := true, pt0 := t0, pnbsel := nb, pfarbase := fb }) ∧
        (¬ may ∨ (y.st ≠ .done ∧ y.pend = true) → same t ∧ StreamFaults s t f st 7 0)) ∧
    (due 2 → ∃ t, exec (.streamRelease c req) s = .next t ∧ RequestTaken s t c q ∧ StreamsSettle s t f ∧
      (y.st ≠ .unarmed → openXfers s f st = [] → t.stem = s.stem ∧ StreamIs s t f st (idleStream y)) ∧
      (y.st ≠ .unarmed → openXfers s f st ≠ [] → t.stem = s.stem ∧
        StreamIs s t f st { y with st := .active, releasing := true, pend := false, fkind := 0 }) ∧
      (y.st = .unarmed → same t ∧ StreamFaults s t f st 7 0))

/-- A request burst has a place for the record of a transfer, or a tag is free for one (R249, R254). -/
def Sys2Proof.BurstLeft (s : State) (f : Nat) (x : Transfer) : Prop :=
  openBurst s f (x.stream / 16) (xferDie s x) ≠ none ∨ freeTag (addXfer s f x) f ≠ none

/-- A transfer takes its tag, and its record joins the request burst that still takes one, or begins one with a tag of its own
(R249, R254). -/
def Sys2Proof.Asked (s t : State) (f : Nat) (x : Transfer) : Prop :=
  let u := (fieldOf s f).str
  (fieldOf t f).str.xfer = u.xfer ++ [x] ∧
    (∀ b, openBurst s f (x.stream / 16) (xferDie s x) = some b → (fieldOf t f).str.bursts =
      u.bursts.map fun y => if y.tag = b.tag then { y with recs := y.recs ++ [x.tag], size := y.size + 1 } else y) ∧
    (∀ g, openBurst s f (x.stream / 16) (xferDie s x) = none → freeTag (addXfer s f x) f = some g → (fieldOf t f).str.bursts =
      u.bursts ++ [{ tag := g, se := x.stream / 16, die := xferDie s x, recs := [x.tag], size := 1 }])

/-- R247, R249, R254, R258, R259, R260, R268, R269, R272, R436: a descriptor begins at its START epoch, or is a fault of kind 6 where it breaks its
rules and of kind 5 where on-die memory does not back it; a list that the stream does not hold is fetched by a transfer, from on-die memory or
from its tier; the next block of a descriptor takes a tag and a transfer with its translation, whose record joins a request burst, or faults with
the kind of its translation; with no tag free it waits. A LIST that is not aligned to 1 KiB is the model's choice (log 150), and DETAIL is a free
value (log 11). -/
def Obligations.DescriptorsBeginAndBlocksIssue : Prop :=
  ∀ (s : State) (f : FieldIx) (st : Fin 256), fieldRuns s f = true →
    let x := fieldOf s f
    let y := streamOf s f st
    let a := x.cond.owner
    y.st = .active → y.draining = false → y.releasing = false →
      (∀ d, y.begun = false → heldDesc y y.didx = some d →
        let soon := slotOf s f < anchorOf s f a + 4096 * (y.t0 + dStart d)
        let before := if y.didx = 0 then 0 else match heldDesc y (y.didx - 1) with | some e => dDue e | none => y.lastDue
        let near := nearOf x st y d
        let valid := descOk d (farOf y d) before = true
        let backed := ∀ r ∈ nearRanges near d, odaBacked s a r.1 r.2 = true
        let fault := fun (t : State) (k : Nat) => StreamFaults s t f st k (farOf y d) ∧
          StreamIs s t f st { y with st := .faulted, fkind := k, boff := 0, next := 0, fdva := farOf y d } ∧
          t = { s with fld := t.fld, stem := t.stem }
        (soon → exec (.descriptorStart f st) s = .next s) ∧
        (¬ soon → ∃ t, exec (.descriptorStart f st) s = .next t ∧ (¬ valid → fault t 6) ∧ (valid → ¬ backed → fault t 5) ∧
          (valid → backed → (streamOf t f st).begun = true ∧ (streamOf t f st).next = y.boff ∧ (streamOf t f st).moved = y.boff ∧
            (streamOf t f st).total = descTotal s near d ∧ (streamOf t f st).didx = y.didx))) ∧
      (y.begun = false → heldDesc y y.didx = none → (∀ z ∈ openXfers s f st, z.punnet = false) →
        let p := y.didx / 16
        let addr := punnetAddr y p
        let z : Transfer :=
          { tag := 0, stream := st, didx := 16 * p, block := p, asid := a, write := false, target := 4, far := 0, oda := addr, punnet := true }
        (freeTag s f = none → exec (.descriptorStart f st) s = .next s) ∧
        (∀ tag, freeTag s f = some tag → ∃ t, exec (.descriptorStart f st) s = .next t ∧ t.mem = s.mem ∧
          (y.listOda = true → odaBacked s a addr 1024 = true →
            (fieldOf t f).str.xfer = x.str.xfer ++ [{ z with tag := tag }] ∧ t = { s with fld := t.fld }) ∧
          (y.listOda = true → odaBacked s a addr 1024 = false →
            StreamIs s t f st { y with st := .faulted, fkind := 5, didx := 16 * p, boff := 0, next := 0, fdva := addr }) ∧
          (∀ k s', y.listOda = false → takeAccess s f (st.val / 16) a addr 1024 false = (.inl k, s') →
            StreamIs s t f st { y with st := .faulted, fkind := k, didx := 16 * p, boff := 0, next := 0, fdva := addr % 2 ^ 57 }) ∧
          (∀ e pa s', y.listOda = false → takeAccess s f (st.val / 16) a addr 1024 false = (.inr (e, pa), s') →
            let z := { z with tag := tag, target := pteTarget e, far := pa, oda := 0, ctx := pteCtx e }
            (BurstLeft s' f z → Asked s' t f z ∧ t = { s with fld := t.fld }) ∧ (¬ BurstLeft s' f z → t = s)))) ∧
      (∀ tag : Fin 2048, tagFree s f tag = false → exec (.blockIssue f st tag) s = .next s) ∧
      (∀ d (tag : Fin 2048), y.begun = true → y.next < y.total → heldDesc y y.didx = some d → tagFree s f tag = true →
        let near := nearOf x st y d
        let dva := blockFar s near (farOf y d) d y.next
        let wr := dOp d != 1
        ∃ t, exec (.blockIssue f st tag) s = .next t ∧ t.mem = s.mem ∧
          (∀ k s', takeAccess s f (st.val / 16) a dva 4096 wr = (.inl k, s') →
            StreamIs s t f st { y with st := .faulted, fkind := k, boff := y.next, fdva := dva } ∧ StreamFaults s t f st k dva) ∧
          (∀ e pa s', takeAccess s f (st.val / 16) a dva 4096 wr = (.inr (e, pa), s') →
            let z : Transfer := { tag := tag, stream := st, didx := y.didx, block := y.next, asid := a, write := wr, target := pteTarget e, far := pa,
                                  oda := if dLayout d = 0 ∧ dOp d ≠ 3 then blockNear near d y.next else near, ctx := pteCtx e,
                                  mirror := wr && pteMirror e, iv := tabGet 0 x.job.iv a }
            (BurstLeft s' f z → Asked s' t f z ∧ StreamIs s t f st { y with next := y.next + 1 } ∧ t = { s with fld := t.fld }) ∧
            (¬ BurstLeft s' f z → t = s)))

/-! ## The rind -/

/-- R226, R249, R250, R251, R253, R254, R255, R256, R258, R275, R278, R281, R355, R356, R408, R443: a rind unit that has the request record
answers a read with the block that its tier holds, with the granules it cannot correct bruised, and all of them where its CRC differs from its
CHECK (log 131), or FAILED where it does not exist or the unit is out of service; it sends a block for a landing credit, and its flits take D
slots to the tap; an inbound block that has come whole lands where CHECK matches, is asked for once more at a first mismatch and lands bruised at
a second, and a failed one is reported once (log 133); a landed block is written on-die in 32 pieces of 128 bytes, each in a slot in which its
port is free and its engine may use it, then gives its credit back, and its CHECK becomes the check word; an outbound block that has arrived is
written whole to its tier. The blocks that each tier has are the model's (log 21), and DETAIL is a free value (log 11). -/
def Obligations.TheRindCarriesBlocks : Prop :=
  ∀ (s : State) (f : FieldIx) (tag : Fin 2048) (x : Transfer), fieldClocked s f = true → xferOf s f tag = some x → x.target ≠ 4 →
    let die := xferDie s x
    let out := tabGet false s.dom.rindOut die
    let det := streamDetail s f x.stream 0x0105 x.tag
    let ev := fun (code : Nat) => mkEvent (fieldAddr f) (slotOf s f) code x.asid 0 6 x.far det
    (x.write = false → x.body = none → out = true ∨ x.known = true ∨ (∃ b, burstOf s f tag = some b ∧ outArrived s f b.tag = true) →
      ∀ (found : TierRead) (host : Option BlockData),
      let seen := fun (b : BlockData) => tierBlock (found.missed.foldl (fun v n => v ^^^ 2 ^ (n % 32768)) b.data.toNat) b.bmask.toNat
      let handed := fun (b : BlockData) => if found.missed = [] then b else if (seen b).check = b.check then seen b else allBruised (seen b)
      let wrong := fun (b : BlockData) => found.missed ≠ [] ∧ (seen b).check ≠ b.check
      ∃ t, exec (.rindRequest f tag found host) s = .next t ∧ t.mem.near = s.mem.near ∧ t.mem.far = s.mem.far ∧
        let gives := fun (b : BlockData) => xferOf t f tag = some { x with known := true, body := some b }
        (out = true → xferOf t f tag = some { x with body := some failedBlock }) ∧
        (out = false → x.target = 0 → nearBlocks s ≤ x.far / 4096 → gives failedBlock) ∧
        (out = false → x.target = 0 → x.far / 4096 < nearBlocks s →
          gives (handed (nearBlock t x.far)) ∧
          (∀ g ∈ tierHard found, tabGet false t.mem.nearBr ((x.far + 64 * (g % 64)) / 64) = true) ∧
          (wrong (nearBlock t x.far) → ∃ e ∈ t.stem.events, e.code = 0x0105 ∧ e.src = dieAddr (nearDie s x.far)) ∧
          (found = {} → t.mem.nearBr = s.mem.nearBr ∧ t.stem = s.stem)) ∧
        (out = false → x.target = 1 → farBytes s < x.far + 4096 → gives failedBlock) ∧
        (out = false → x.target = 1 → x.far + 4096 ≤ farBytes s →
          gives (handed (farBlock t x.far)) ∧
          (∀ g ∈ tierHard found, tabGet false t.mem.farBr ((x.far + 64 * (g % 64)) / 64) = true) ∧
          (wrong (farBlock t x.far) → ∃ e ∈ t.stem.events, e.code = 0x0105 ∧ e.src = dieAddr (farDie s x.far)) ∧
          (found = {} → t.mem.farBr = s.mem.farBr ∧ t.stem = s.stem)) ∧
        (∀ b p, out = false → x.target = 2 → host = some b → cxlPortFor s x.far = some p →
          gives { b with check := BitVec.ofNat 32 (crc32c 4096 b.data.toNat) })) ∧
    (∀ k ks, (channels s f 0 (x.stream / 16) die).filter (fun k => tabGet 0 (fieldOf s f).net.cred (k % 64) != 0) = k :: ks →
      x.write = false → x.body ≠ none → x.landed = false → x.chan = 0 →
      ∃ t, exec (.rindBurstSend f tag) s = .next t ∧ xferOf t f tag = some { x with chan := k + 1 } ∧
        (fieldOf t f).net = { (fieldOf s f).net with
          cred := tabMod 0 (k % 64) (· - 1) (fieldOf s f).net.cred
          inb := (fieldOf s f).net.inb ++ [{ chan := k % 64, tag := tag, from_ := slotOf s f + 256 }] } ∧
        (∀ g, g ≠ f.val → fieldOf t g = fieldOf s g) ∧ t.mem = s.mem ∧ t.stem = s.stem) ∧
    (∀ (b : BlockData) (header : BitVec 1024) (data : Option (BitVec 32768)) (bruises : Option (BitVec 64)), x.body = some b → x.write = false → x.landed = false →
      let h := header.toNat
      hdrKind h = 1 → hdrNack h = 0 → hdrXtag h = tag.val →
      (x.chan = 0 ∧ b.failed = true ∧ out = true) ∨ (x.chan ≠ 0 ∧ inArrived s f x = true ∧ (x.chan - 1) % 64 = hdrChan h) →
      let c : BlockData := { data := data.getD b.data, bmask := bruises.getD b.bmask, check := BitVec.ofNat 32 (hdrCheck h),
                             failed := hdrStatus h == 1 || b.failed }
      ∃ t, exec (.burstIn f header data bruises) s = .next t ∧ t.mem = s.mem ∧ (∀ z ∈ (fieldOf t f).net.inb, z.tag ≠ x.tag) ∧
        (c.failed = true → xferOf t f tag = some { x with landed := true, body := some (allBruised c) } ∧
          (x.told = false → Raises s t (ev 0x0106)) ∧ (x.told = true → t.stem = s.stem)) ∧
        (c.failed = false → checkOk c = true → xferOf t f tag = some { x with landed := true, body := some c } ∧
          (x.retried = true → Raises s t (ev 0x0007)) ∧ (x.retried = false → t.stem = s.stem)) ∧
        (c.failed = false → checkOk c = false → x.retried = true →
          xferOf t f tag = some { x with landed := true, body := some (allBruised c) } ∧ Raises s t (ev 0x0105)) ∧
        (c.failed = false → checkOk c = false → x.retried = false →
          xferOf t f tag = some { x with retried := true, body := none, chan := 0, known := false } ∧ t.stem = s.stem)) ∧
    (∀ (b : BlockData) (slot : Nat) (used : List Nat), x.body = some b → x.write = false → x.landed = true → x.punnet = false →
      isSkew s f x = false → x.moved < 32 → pieceAt s f x = x.oda + 128 * x.moved →
      streamPort (x.oda + 128 * x.moved) ∉ used → pieceAllowed s f slot (x.stream / 16) (x.oda + 128 * x.moved) false = true →
      let r := pieceStep f slot false (s, used) x
      r.2 = streamPort (x.oda + 128 * x.moved) :: used ∧ xferOf r.1 f tag = some { x with moved := x.moved + 1 } ∧
        (fieldOf r.1 f).mem.wr = (fieldOf s f).mem.wr ++
          [{ due := slot, stream := x.stream, oda := x.oda + 128 * x.moved, n := 128, v := bitsOf b.data.toNat (1024 * x.moved) 1024,
             mask := some (bitsOf b.bmask.toNat (2 * x.moved) 2) }] ∧
        (∀ g, g ≠ f.val → fieldOf r.1 g = fieldOf s g) ∧ r.1 = { s with fld := r.1.fld }) ∧
    (∀ (slot : Nat) (used : List Nat), streamPort (pieceAt s f x) ∈ used ∨ pieceAllowed s f slot (x.stream / 16) (pieceAt s f x) false = false →
      pieceStep f slot false (s, used) x = (s, used)) ∧
    (∀ (b : BlockData), x.body = some b → x.write = false → x.landed = true → x.punnet = false → x.moved = 32 →
      (∀ w ∈ (fieldOf s f).mem.wr, ¬ (w.core = 0 ∧ w.stream = x.stream)) →
      ∃ t, exec (.landingComplete f tag) s = .next t ∧
        (x.oda % 4096 = 0 → isSkew s f x = false → tabGet false t.mem.unckd (x.oda / 4096) = false ∧ blockWord t (x.oda / 4096) = b.check.toNat) ∧
        (fieldOf t f).str.xfer = eraseFirst (fun z => z.tag == x.tag) (fieldOf s f).str.xfer ∧
        (x.chan ≠ 0 →
          tabGet 0 (fieldOf t f).net.credRet ((x.chan - 1) % 64) = tabGet 0 (fieldOf s f).net.credRet ((x.chan - 1) % 64) + 1) ∧
        t.mem = { s.mem with unckd := t.mem.unckd, crcErr := t.mem.crcErr }) ∧
    (∀ (sent : BlockData) (data : Option BlockData), x.body = some sent → x.write = true → x.landed = false → out = false →
      x.known = true → outArrived s f tag = true →
      let b := data.getD sent
      ∃ t, exec (.rindOutBurst f tag data) s = .next t ∧ t.mem.die = s.mem.die ∧
        (checkOk b = true → x.target = 0 → x.far / 4096 < nearBlocks s →
          t.mem.near = memWrite s.mem.near x.far 4096 b.data.toNat ∧ t.mem.far = s.mem.far ∧
          xferOf t f tag = some { x with landed := true, body := some b }) ∧
        (checkOk b = true → x.target = 1 → x.far + 4096 ≤ farBytes s →
          t.mem.far = memWrite s.mem.far x.far 4096 b.data.toNat ∧ t.mem.near = s.mem.near ∧
          xferOf t f tag = some { x with landed := true, body := some b }) ∧
        (checkOk b = false → x.retried = false → xferOf t f tag = some { x with retried := true } ∧ t.mem = s.mem ∧ t.stem = s.stem) ∧
        (checkOk b = false → x.retried = true → ∃ e ∈ t.stem.events, e.code = 0x0105 ∧ e.src = dieAddr die))

/-- R235, R239, R242, R244, R245, R265, R267, R269, R271, R279, R355, R356, R396: firmware makes a page present and resumes the stream, or declines; a range of
translations is dropped from every cache; a drain that takes too long goes back to the first block still open; a scrub visit waits for a slot in which its port
is free, reads, corrects or bruises its granule, and writes it back later, and with the last granule of a block its check word is compared, or
valid again; a segment takes its declared state before its job starts, cleared as it leaves OFF or changes owner; a retired channel is copied to
its stack's spare and replaced by it, with the granules that could not be copied bruised, or without a spare reads as bruised; what the
visits and the retirement restore ends the handling of its domain (log 60). The page-table entries that firmware writes are operands (log 29).
-/
def Obligations.MemoriesAreServicedAndScrubbed : Prop :=
  ∀ (s : State) (f : FieldIx) (st : Fin 256),
    let x := fieldOf s f
    let y := streamOf s f st
    (pithUp s = true → y.st = .faulted → y.fkind = 1 →
      (∃ t, exec (.pageFaultService f st true []) s = .next t ∧ StreamIs s t f st { y with st := .active, fkind := 0, fdva := 0 } ∧
        (∀ g, g ≠ f.val → fieldOf t g = fieldOf s g) ∧ StreamsSettle s t f ∧
        t = { s with fld := t.fld, dom := t.dom, log := t.log }) ∧
      (∃ t, exec (.pageFaultService f st false []) s = .next t ∧ StreamFaults s t f st 1 y.fdva ∧ t = { s with stem := t.stem })) ∧
    (∀ (a e : Nat) (v : BitVec 64), pithUp s = true → a % 8 = 0 →
      ∃ t, exec (.pageFaultService f st true [(a, v)]) s = .next t ∧ nearRead t a 8 = v.toNat ∧
        (e < a ∨ a + 8 ≤ e → memByte t.mem.near e = memByte s.mem.near e)) ∧
    (∀ asid lo hi : Nat, pithUp s = true →
      let gone := fun (a dva size : Nat) => a = asid ∧ dva ≤ hi ∧ lo < dva + size
      ∃ t, exec (.translationInvalidate asid lo hi) s = .next t ∧ t = { s with fld := t.fld } ∧
        ∀ g, g < 36 →
          (fieldOf t g).str.tlb = (fieldOf s g).str.tlb.filter (fun e => !decide (gone e.asid e.dva e.size)) ∧
          (fieldOf t g).str.walks = (fieldOf s g).str.walks.filter (fun e => !decide (gone e.asid e.dva e.size)) ∧
          (∀ l ∈ (fieldOf t g).str.etlb, ∀ e ∈ l.2, ¬ gone e.asid e.dva e.size) ∧
          (∀ l ∈ (fieldOf s g).str.etlb, ∀ e ∈ l.2, ¬ gone e.asid e.dva e.size → ∃ m ∈ (fieldOf t g).str.etlb, m.1 = l.1 ∧ e ∈ m.2)) ∧
    (fieldClocked s f = true → y.draining = true → openXfers s f st ≠ [] → y.releasing = false → y.begun = false →
      (x.str.xfer.map (·.tag)).Nodup →
      ∃ t, exec (.streamDrainTimeout f st) s = .next t ∧ openXfers t f st = [] ∧
        (∀ z ∈ openXfers s f st, z.punnet = false → (streamOf t f st).boff ≤ z.block) ∧ (streamOf t f st).boff ≤ y.next ∧
        t = { s with fld := t.fld }) ∧
    (∀ (p : MemPlace) (n : Nat), fieldRuns s f = true →
      let oda := (placeBytes f p).1 + 64 * (n % ((placeBytes f p).2 / 64))
      placeOn x (placeKey oda) = true →
      ∃ t, exec (.scrubVisit f p n) s = .next t ∧ (fieldOf t f).mem = { x.mem with scrub := x.mem.scrub ++ [{ granule := oda / 64 }] } ∧
        (∀ g, g ≠ f.val → fieldOf t g = fieldOf s g) ∧ t = { s with fld := t.fld }) ∧
    (∀ (v : Scrub) (slot : Nat) (used : List Nat),
      let g := v.granule
      let bad := flipsOf s.mem g
      let free := scrubFree s f slot used (64 * g) = true
      let r := scrubOne f slot (s, used) v
      let t := r.1
      bitsOf (64 * g) 34 6 = f.val → placeOn x (placeKey (64 * g)) = true →
      (¬ free → r = (modFmem s f fun m => { m with scrub := m.scrub ++ [v] }, used)) ∧ (free → r.2 = streamPort (64 * g) :: used) ∧
      (free → v.read = 0 → tabGet false (fieldOf t f).mem.seen g = true ∧ t.mem.die = s.mem.die ∧
        tabGet 0 (fieldOf t f).mem.ce (placeKey (64 * g)) = tabGet 0 x.mem.ce (placeKey (64 * g)) + (softWords bad).length ∧
        (softWords bad ≠ [] → { v with read := slot + 1 } ∈ (fieldOf t f).mem.scrub ∧ ∃ e ∈ t.stem.events, e.code = 0x0001) ∧
        (hardWords bad ≠ [] → tabGet false t.mem.dieBr g = true ∧ ∃ e ∈ t.stem.events, e.code = 0x0101)) ∧
      (free → v.read = 0 → bad = [] →
        let blk := g / 64
        let whole := ∀ i, i < 64 → 64 * blk + i ≠ g → tabGet false x.mem.seen (64 * blk + i) = true
        (¬ whole → t.mem = s.mem ∧ t.stem = s.stem) ∧
        (whole → tabGet false s.mem.unckd blk = true → tabGet false t.mem.unckd blk = false ∧ t.mem.dieBr = s.mem.dieBr ∧ t.stem = s.stem) ∧
        (whole → wordWrong s blk = true →
          (∀ h, h / 64 = blk → tabGet false t.mem.dieBr h = true) ∧ (∀ h, h / 64 ≠ blk → tabGet false t.mem.dieBr h = tabGet false s.mem.dieBr h) ∧
          Raises s t (mkEvent (fieldAddr f) (slotOf s f) 0x0105 0 0 7 (4096 * blk) 0))) ∧
      (free → v.read ≠ 0 → t = scrubBack s g ∧ softWords (flipsOf t.mem g) = [] ∧ t.stem = s.stem)) ∧
    (∀ (p : MemPlace) (decl : BitVec 8), pithUp s = true → fieldClocked s f = true → placeExists p = true → declOk decl.toNat = true →
      let a := x.cond.owner
      let to_ := bitsOf decl.toNat 0 2
      let j := jobOf s a
      (a ≠ 0 ∧ slotOf s f < tabGet 0 x.job.start a ∧
        ∃ q, framePos j.fam j.origin f = some q ∧ declOf (j.fam.variants.getD j.variant default) q p = decl.toNat) ∨ (a = 0 ∧ to_ = 0) →
      ∃ t, exec (.segmentStateChange f p decl) s = .next t ∧
        segOf (fieldOf t f).mem p = { st := to_, owner := if to_ = 0 then 0 else a } ∧
        (∀ n, (segOf x.mem p).st = 0 ∨ to_ = 0 ∨ (segOf x.mem p).owner ≠ a → (placeBytes f p).1 ≤ n →
          n < (placeBytes f p).1 + (placeBytes f p).2 → memByte t.mem.die n = 0) ∧
        (∀ n, n < (placeBytes f p).1 ∨ (placeBytes f p).1 + (placeBytes f p).2 ≤ n → memByte t.mem.die n = memByte s.mem.die n) ∧
        (∀ g, g ≠ f.val → fieldOf t g = fieldOf s g)) ∧
    (∀ (k : Fin 40) (ch : Fin 32), pithUp s = true → ch.val ∈ stackChannels s k → tabGet 0 s.mem.chan (32 * k.val + ch.val) = 0 →
      ∃ t, exec (.channelRetire k ch) s = .next t ∧
        { kind := ykChannel, unit := k.val + 1, loc := ch.val, value := 0 } ∈ t.yld.due ∧
        (spareUsed s k = false → tabGet 0 t.mem.chan (32 * k.val + ch.val) = 1 ∧ t.yld.gen = s.yld.gen) ∧
        (spareUsed s k = true → tabGet 0 t.mem.chan (32 * k.val + ch.val) = 3 ∧ t.yld.gen = s.yld.gen + 1) ∧
        (∀ c, c ≠ 32 * k.val + ch.val → tabGet 0 t.mem.chan c = tabGet 0 s.mem.chan c) ∧ (domGet t (.rind (k.val + 1))).st = 0) ∧
    (∀ (k : Fin 40) (ue : List Nat), ∃ t, exec (.channelCopyComplete k ue) s = .next t ∧
      (∀ c, tabGet 0 t.mem.chan c = if c / 32 = k.val ∧ tabGet 0 s.mem.chan c = 1 then 2 else tabGet 0 s.mem.chan c) ∧
      (∀ a ∈ ue, a / 4096 < nearBlocks s → nearChannel s a / 32 = k.val → tabGet 0 s.mem.chan (nearChannel s a) = 1 →
        tabGet false t.mem.nearBr (a / 64) = true) ∧
      (∀ g, (∀ a ∈ ue, a / 64 ≠ g) → tabGet false t.mem.nearBr g = tabGet false s.mem.nearBr g) ∧
      (ue = [] → t.stem = s.stem) ∧ t = { s with mem := { s.mem with chan := t.mem.chan, nearBr := t.mem.nearBr }, stem := t.stem })

/-! ## Host commands and jobs -/

/-- The pith begins command `c` of queue `q` next, and is not in the safe state, where it would carry out SLICE_RELEASE alone (R461, R462, R549). -/
def Sys2Proof.Serves (s : State) (q : Fin 8) (opc : Nat) (c : Cmd) : Prop :=
  pithUp s = true ∧ s.trs.safe = false ∧ nextCmd s q opc = some c

/-- Command `c` completes with a status: it leaves the accepted commands, and one completion entry for it joins those held, unless a function
reset has discarded it (R462, R514). -/
def Sys2Proof.Completes (s t : State) (c : Cmd) (status : Nat) (g : Cpl → Cpl) : Prop :=
  t.cxl.cmds = eraseFirst (fun x => decide (x = c)) s.cxl.cmds ∧
    t.cxl.held = s.cxl.held ++ if c.mute then [] else [g
      { cq := c.sq, cid := c.cid, sq := c.sq, status := status, sqhead := (queueOf s c.sq).consumed.toNat }]

/-- Command `c` completes, and nothing else of the module changes. -/
def Sys2Proof.OnlyCompletes (s t : State) (c : Cmd) (status : Nat) (g : Cpl → Cpl) : Prop :=
  Completes s t c status g ∧ t = { s with cxl := { s.cxl with cmds := t.cxl.cmds, held := t.cxl.held } }

/-- Command `c` has begun, and its completion waits. -/
def Sys2Proof.Begun (s t : State) (c : Cmd) : Prop :=
  t.cxl = { s.cxl with cmds := modFirst (fun x => decide (x = c)) (fun x => { x with begun := true }) s.cxl.cmds }

/-- R53, R328, R331, R332, R337, R338, R339, R340, R360, R457, R461, R465, R549: an entry of a running queue is read through the grant table and
accepted, or answered ENTRY_POISONED or MALFORMED_COMMAND, and an ungranted ring stops the queue; SUBMIT_JOB reports the first failure of its
checks or admits the job under the lowest free ASID; a waiting job is placed at the first origin and variant that fit, owns its WORK fields,
leases its transit fields, and starts 33 nominal epochs on. Which free ASID and job number a job takes, and what firmware has for save areas,
is the model's choice (log 28). -/
def Obligations.SubmissionsAreCheckedAndPlaced : Prop :=
  ∀ (s : State) (q : Fin 8),
    let x := queueOf s q
    (∀ (entry : BitVec 1024) (poison : Bool), pithUp s = true → cxlUp s = true → x.enable = true → x.tail ≠ x.consumed →
      let here := granted s (x.sqBase.toNat + 128 * (x.consumed.toNat % 2 ^ x.sqLog.toNat)) 128 false
      let head := (x.consumed + 1).toNat
      let c := entryCmd q entry.toNat
      ∃ t, exec (.sqEntryFetch q entry poison) s = .next t ∧ t = { s with cxl := t.cxl } ∧
        (here = false → queueOf t q = { x with qerr := true, qcode := 1, enable := false } ∧ t.cxl.cmds = s.cxl.cmds ∧ t.cxl.held = s.cxl.held) ∧
        (here = true → queueOf t q = { x with consumed := x.consumed + 1 } ∧
          (poison = true → t.cxl.cmds = s.cxl.cmds ∧
            t.cxl.held = s.cxl.held ++ [{ cq := q, cid := 0xFFFF, sq := q, status := 0x43, sqhead := head }]) ∧
          (poison = false → sqEntryOk entry.toNat = false → t.cxl.cmds = s.cxl.cmds ∧
            t.cxl.held = s.cxl.held ++ [{ cq := q, cid := c.cid, sq := q, status := 0x44, sqhead := head }]) ∧
          (poison = false → sqEntryOk entry.toNat = true → t.cxl.cmds = s.cxl.cmds ++ [c] ∧ t.cxl.held = s.cxl.held))) ∧
    (∀ (fam : Family) (draw : BitVec 64) (c : Cmd), Serves s q 0x01 c → cxlUp s = true →
      let p := c.payload.toNat
      let tag := BitVec.ofNat 64 (bitsOf p 256 64)
      let up := s.brg.st = 1 ∧ payloadOk p = true
      let may := up ∧ granted s (bitsOf p 0 64) (bitsOf p 64 64) false = true
      let found := firstFinding (allFindings fam (bitsOf p 64 64) (bitOf p 195) ++ clashFindings s (submittedJob c fam 0 0))
      ∃ t, exec (.submitJob q fam draw) s = .next t ∧
        (s.brg.st ≠ 1 → OnlyCompletes s t c 0x47 fun e => { e with htag := tag }) ∧
        (s.brg.st = 1 → payloadOk p = false → OnlyCompletes s t c 0x44 id) ∧
        (up → granted s (bitsOf p 0 64) (bitsOf p 64 64) false = false → OnlyCompletes s t c 0x45 fun e => { e with htag := tag }) ∧
        (∀ r, may → found = some r →
          OnlyCompletes s t c r.code fun e => { e with htag := tag, res1 := resultRecord r }) ∧
        (∀ a, may → found = none → freeAsid s = some a → (bitOf p 192 = true → s.trs.entOk = true) →
          let j := submittedJob c fam (seedOf c draw) (nextNumber s)
          (couldFit s j = false → OnlyCompletes s t c 0x41 fun e => { e with htag := tag }) ∧
          (couldFit s j = true → saveSpace s < fam.saveBytes → OnlyCompletes s t c 0x42 fun e => { e with htag := tag }) ∧
          (couldFit s j = true → fam.saveBytes ≤ saveSpace s → jobOf t a = j ∧ (∀ b, b ≠ a → jobOf t b = jobOf s b) ∧
            t.lastJob = j.number ∧ Completes s t c 0 (fun e => { e with job := j.number, asid := a, htag := j.htag, res0 := j.seed }) ∧
            t = { s with job := t.job, lastJob := t.lastJob, cxl := { s.cxl with cmds := t.cxl.cmds, held := t.cxl.held } }))) ∧
    (∀ (a root o i : Nat) (load : List (Nat × BitVec 64)), pithUp s = true → s.trs.safe = false → (jobOf s a).live = true →
      (jobOf s a).st = .waiting → settingsQuiet s = true → ((jobOf s a).mirrored = true → partnerRoom s a = true) →
      placeFirst s (jobOf s a) = some (o, i) →
      let j := jobOf s a
      ∃ t, exec (.jobPlacement a root load) s = .next t ∧ (jobOf t a).st = .running ∧ (jobOf t a).origin = o ∧ (jobOf t a).variant = i ∧
        tabGet 0 t.mem.root a = root + 1 ∧ (∃ e ∈ t.cxl.held, e.async = true ∧ e.kind = 1 ∧ e.job = j.number ∧ e.asid = a) ∧
        ∀ p f, p < j.fam.fr * j.fam.fc → frameField j.fam o p = some f →
          let role := (capAt (j.fam.variants.getD i default) p).role
          (role = 1 → (fieldOf t f).cond.owner = a ∧ (fieldOf t f).pow.rails = 7) ∧ (role = 2 → a ∈ (fieldOf t f).cond.leases) ∧
          (role ≠ 0 → tabGet 0 (fieldOf t f).job.start a = 4096 * (nominalEpoch s + 33)))

/-- R176, R180, R271, R312, R313, R328, R330, R345, R346, R351, R352, R361, R462, R465: PREEMPT_JOB of a running job prepares its PREEMPT; the drained job's
memories are copied byte for byte, and what their reads find is reported (R242, R354); the seal frees every field and completes the requests; RESUME_JOB asks for the restore, which places the
job at the first origin and variant that fit; a switched job goes on in place; END_JOB frees a job that holds no field and halts one that
does; a supplementary family's variants join the held job's. -/
def Obligations.JobsAreSavedRestoredAndEnded : Prop :=
  ∀ (s : State) (q : Fin 8) (c : Cmd) (a : Nat),
    let j := jobOf s a
    let named := jobByNumber s (cmdJob c) = some a
    let forIt := fun (e : Cpl) => { e with job := j.number, asid := a, htag := j.htag }
    let wrong := fun (t : State) => OnlyCompletes s t c 0x47 forIt
    (Serves s q 0x02 c → named → ∃ t, exec (.preemptJob q) s = .next t ∧
      (j.st = .running → CommitIdle s → (∃ f ∈ jobFields s a, fieldGone s f = false) →
        (∀ f ∈ jobFields s a, tabGet 0 (fieldOf s f).job.pre a = 0) →
        (jobOf t a).st = .preempting ∧ Begun s t c ∧ Prepares s t .preempt (BitVec.ofNat 64 a)) ∧
      (j.st = .saving → Begun s t c ∧ t = { s with cxl := t.cxl }) ∧
      (j.st = .waiting ∨ j.st = .preempted ∨ j.st = .stopped → wrong t)) ∧
    (pithUp s = true → j.st = .saving → jobDrained s a = true →
      ∃ t, exec (.contextSave a) s = .next t ∧ (∀ b, b ≠ a → jobOf t b = jobOf s b) ∧ t.mem.die = s.mem.die ∧
        (s.mem.flips = [] → t = { s with job := t.job }) ∧ t = { s with job := t.job, fld := t.fld, yld := t.yld, stem := t.stem, mem := t.mem } ∧
        jobOf t a = { j with saved := (jobOf t a).saved, arrivals := [] } ∧ (jobOf t a).saved.copied = true ∧ (jobOf t a).saved.sealed_ = false ∧
        (jobOf t a).saved.variant = j.variant ∧ (jobOf t a).saved.yield_ = j.yieldAt ∧
        ∀ p f n, p < j.fam.fr * j.fam.fc → frameField j.fam j.origin p = some f → hasWork s f a = true → n < 2 ^ 34 →
          memByte (jobOf t a).saved.bytes (p * 2 ^ 34 + n) = memByte s.mem.die (f * 2 ^ 34 + n)) ∧
    (pithUp s = true → j.st = .saving → j.saved.copied = true →
      ∃ t, exec (.saveSeal a) s = .next t ∧ (jobOf t a).st = (if j.restVariant = 0 then .preempted else .resuming) ∧
        (jobOf t a).saved = { j.saved with sealed_ := true, header := saveHeader a j } ∧ (∀ f, f < 36 → hasJob t f a = false) ∧
        ∀ d ∈ t.cxl.cmds, ¬ (d.begun = true ∧ d.opc = 0x02 ∧ cmdJob d = j.number)) ∧
    (Serves s q 0x03 c → named → ∃ t, exec (.resumeJob q) s = .next t ∧
      (j.st = .preempted → jobOf t a = { j with st := .resuming } ∧ (∀ b, b ≠ a → jobOf t b = jobOf s b) ∧ Begun s t c ∧
        t = { s with job := t.job, cxl := t.cxl }) ∧
      (j.st = .waiting ∨ j.st = .running ∨ j.st = .switching ∨ j.st = .resuming ∨ j.st = .stopped → wrong t) ∧
      (j.st = .preempting ∨ j.st = .saving → if begunFor s a 0x02 = true then t = s else wrong t)) ∧
    (∀ (root o i : Nat) (load : List (Nat × BitVec 64)), pithUp s = true → s.trs.safe = false → j.st = .resuming → j.saved.sealed_ = true →
      settingsQuiet s = true → j.restVariant = 0 → restoreFirst s j = some (o, i) →
      ∃ t, exec (.jobRestore a root load) s = .next t ∧ (jobOf t a).st = .running ∧ (jobOf t a).origin = o ∧ (jobOf t a).variant = i ∧
        ∀ p f, p < j.fam.fr * j.fam.fc → frameField j.fam o p = some f →
          let role := (capAt (j.fam.variants.getD i default) p).role
          (role = 1 → (fieldOf t f).cond.owner = a) ∧ (role = 2 → a ∈ (fieldOf t f).cond.leases) ∧
          (role ≠ 0 → tabGet 0 (fieldOf t f).job.start a = 4096 * max (nominalEpoch s + 33) j.saved.joff)) ∧
    (pithUp s = true → j.st = .switching → jobDrained s a = true → stepDecided s a = true →
      ∃ t, exec (.resumeInPlace a) s = .next t ∧ ((jobOf t a).st = .running ∨ (jobOf t a).st = .preempting) ∧ (jobOf t a).reports = [] ∧
        ∀ f ∈ jobFields s a, framePos j.fam j.origin f ≠ none → a ∉ (fieldOf t f).net.quiet ∧
          tabGet 0 (fieldOf t f).job.start a = 4096 * max (nominalEpoch s + 33) (((stopPoint s a).map (·.2)).getD 0)) ∧
    (Serves s q 0x04 c → named → ∃ t, exec (.endJob q) s = .next t ∧
      (begunFor s a 0x02 = true → t = s) ∧
      (begunFor s a 0x02 = false → j.st = .waiting ∨ j.st = .preempted ∨ j.st = .resuming ∨ (j.st = .stopped ∧ jobFields s a = []) →
        jobOf t a = { energy := j.energy } ∧ tabGet 0 t.mem.root a = 0) ∧
      (begunFor s a 0x02 = false → a ≤ 36 → j.st = .running ∨ j.st = .preempting ∨ j.st = .saving ∨ j.st = .switching → jobFields s a ≠ [] →
        (∀ f ∈ jobFields s a, fieldGone s f = false) →
        (jobOf t a).st = .stopped ∧ (jobOf t a).ending = true ∧ ∀ f ∈ jobFields s a, packet s (.power f 0x3F (BitVec.ofNat 16 a)) ∈ t.stem.msgs)) ∧
    (∀ fam : Family, Serves s q 0x05 c → named → cxlUp s = true →
      let p := c.payload.toNat
      let found := firstFinding (allFindings fam (bitsOf p 64 64) false ++ findIf (!supplementOk j.fam fam) (headAt 0x20 0))
      let held := j.st = .preempted ∨ j.st = .resuming
      ∃ t, exec (.supplement q fam) s = .next t ∧ (¬ held → wrong t) ∧
        (held → granted s (bitsOf p 0 64) (bitsOf p 64 64) false = false → OnlyCompletes s t c 0x45 forIt) ∧
        (∀ r, held → granted s (bitsOf p 0 64) (bitsOf p 64 64) false = true → found = some r →
          OnlyCompletes s t c r.code fun e => { forIt e with res1 := resultRecord r }) ∧
        (held → granted s (bitsOf p 0 64) (bitsOf p 64 64) false = true → found = none →
          jobOf t a = { j with fam := { j.fam with variants := j.fam.variants ++ fam.variants, nvar := j.fam.nvar + fam.nvar } } ∧
          Completes s t c 0 forIt))

/-- R267, R399, R400, R401, R413, R429, R432, R437, R458, R459, R462, R465, R479, R549: each remaining command of host software has its effect
and its completion, or the status that its failed check gives; in the safe state every command but SLICE_RELEASE ends WRONG_STATE. The
page-table entries that firmware writes are operands (log 29). -/
def Obligations.HostCommandsTakeEffect : Prop :=
  ∀ (s : State) (q : Fin 8) (c : Cmd),
    let p := c.payload.toNat
    (∀ x ∈ [((0x02 : Nat), Instr.preemptJob q), (0x03, .resumeJob q), (0x04, .endJob q), (0x10, .pairSetup q), (0x11, .pairDissolve q),
        (0x18, .ctxOpen q), (0x19, .ctxClose q), (0x1A, .routeSet q), (0x1B, .portRetrain q), (0x20, .powerSet q)],
      pithUp s = true → s.trs.safe = true → nextCmd s q x.1 = some c → ∃ t, exec x.2 s = .next t ∧ OnlyCompletes s t c 0x47 id) ∧
    (∀ a, Serves s q 0x07 c → jobByNumber s (cmdJob c) = some a → tabGet 0 s.mem.root a ≠ 0 → (jobOf s a).st ≠ .stopped →
      let dva := c.arg1.toNat
      let len := bitsOf p 64 64
      dva % 0x200000 = 0 → bitsOf p 0 64 % 0x200000 = 0 → len % 0x200000 = 0 → len ≠ 0 → dva + len ≤ 2 ^ 57 →
      bitsOf p 0 64 + len ≤ s.cxl.win * 2 ^ 30 → bitsOf p 129 7 = 0 →
      ∃ t, exec (.mapWindow q []) s = .next t ∧ (∀ u, u ∈ (jobOf t a).windows ↔
          u ∈ (jobOf s a).windows ∨ (dva / 0x200000 ≤ u ∧ u < (dva + len) / 0x200000)) ∧
        Completes s t c 0 (fun e => { e with job := (jobOf s a).number, asid := a, htag := (jobOf s a).htag }) ∧
        t = { s with job := t.job, cxl := { s.cxl with cmds := t.cxl.cmds, held := t.cxl.held } }) ∧
    (∀ a (es : List Nat), Serves s q 0x08 c → jobByNumber s (cmdJob c) = some a →
      let dva := c.arg1.toNat
      let len := bitsOf p 0 64
      let mine := fun (u : Nat) => dva / 0x200000 ≤ u ∧ u < (dva + len) / 0x200000
      dva % 0x200000 = 0 → len % 0x200000 = 0 → len ≠ 0 → (∀ u, mine u → u ∈ (jobOf s a).windows) →
      ∃ t, exec (.unmapWindow q es) s = .next t ∧ (∀ u, u ∈ (jobOf t a).windows ↔ u ∈ (jobOf s a).windows ∧ ¬ mine u) ∧
        (∀ e ∈ es, nearRead t (e / 8 * 8) 8 = 0) ∧
        (∀ f, f < 36 → ∀ l ∈ (fieldOf t f).str.tlb :: (fieldOf t f).str.etlb.map (·.2), ∀ e ∈ l,
          e.asid = a → ¬ (e.dva < dva + len ∧ dva < e.dva + e.size)) ∧
        Completes s t c 0 (fun e => { e with job := (jobOf s a).number, asid := a, htag := (jobOf s a).htag })) ∧
    (Serves s q 0x10 c → ∃ t, exec (.pairSetup q) s = .next t ∧
      (setupOk p = false → OnlyCompletes s t c 0x44 id) ∧
      (setupOk p = true → setupFails s p ≠ 0 → OnlyCompletes s t c 0x48 fun e => { e with res0 := BitVec.ofNat 64 (setupFails s p) }) ∧
      (setupOk p = true → setupFails s p = 0 → Begun s t c ∧ t.pair = { s.pair with
        setup := true, partner := BitVec.ofNat 16 (bitsOf p 0 16), ports := BitVec.ofNat 48 (bitsOf p 64 48), store := bitsOf p 128 32,
        logGib := bitsOf p 160 32, heard := 0 })) ∧
    (Serves s q 0x11 c →
      let busy := s.pair.formed = false ∨ (∃ a ∈ liveJobs s, (jobOf s a).mirrored = true) ∨
        (∃ e ∈ s.pair.slices, e.2.valid = true ∧ e.2.sealed_ = false)
      ∃ t, exec (.pairDissolve q) s = .next t ∧ (busy → OnlyCompletes s t c 0x47 id) ∧
        (¬ busy → Completes s t c 0 id ∧ t.pair = { s.pair with
          formed := false, partner := 0, ports := 0, store := 0, logGib := 0, heard := 0, buf := [] })) ∧
    (pithUp s = true → nextCmd s q 0x12 = some c →
      let found := findSlice s fun x => x.sealed_ && x.job == c.arg0.toNat && x.owner.toNat == c.arg1.toNat
      ∃ t, exec (.sliceRelease q) s = .next t ∧ (found = none → OnlyCompletes s t c 0x47 id) ∧
        (∀ k, found = some k → Completes s t c 0 id ∧ sliceOf t k = {} ∧ ∀ x, x ≠ k → sliceOf t x = sliceOf s x)) ∧
    (Serves s q 0x18 c → ∃ t, exec (.ctxOpen q) s = .next t ∧
      let x := c.arg0.toNat
      let ok := x < 4096 ∧ ctxRecOk p = true
      (¬ ok → OnlyCompletes s t c 0x44 id) ∧
      (ok → (ctxOf s x).st ≠ .closed ∨ s.bup.epSet = false → OnlyCompletes s t c 0x47 id) ∧
      (ok → (ctxOf s x).st = .closed → s.bup.epSet = true → (jobOf s (bitsOf p 48 8)).live = false → OnlyCompletes s t c 0x46 id) ∧
      (∀ k, ok → (ctxOf s x).st = .closed → s.bup.epSet = true → (jobOf s (bitsOf p 48 8)).live = true →
        reserveSum (modCtx s x fun _ => ctxOfRec p) ≤ 8192 → ptContext s (bitsOf p 0 16) (bitOf p 32) = true → ctxPort s (bitsOf p 0 16) x = some k →
        Begun s t c ∧ ctxOf t x = { ctxOfRec p with txSeq := 1 } ∧ t.bup.nextMsg = s.bup.nextMsg + 1 ∧
        ∃ m, (portOf t k).q0 = (portOf s k).q0 ++ [m] ∧ m.ctx = x ∧ m.id = s.bup.nextMsg)) ∧
    (Serves s q 0x19 c → ∃ t, exec (.ctxClose q) s = .next t ∧
      (4096 ≤ c.arg0.toNat → OnlyCompletes s t c 0x44 id) ∧
      (c.arg0.toNat < 4096 → (ctxOf s c.arg0.toNat).st = .closed → OnlyCompletes s t c 0x47 id) ∧
      (c.arg0.toNat < 4096 → (ctxOf s c.arg0.toNat).st = .failed → ctxOf t c.arg0.toNat = {})) ∧
    (Serves s q 0x1A c → ∃ t, exec (.routeSet q) s = .next t ∧
      let ok := c.arg0.toNat < 65536 ∧ c.arg1.toNat < 2 ^ 48
      (¬ ok → OnlyCompletes s t c 0x44 id) ∧
      (ok → Completes s t c 0 id ∧ tabGet 0 t.bup.route c.arg0.toNat = c.arg1.setWidth 48 ∧
        ∀ e, e ≠ c.arg0.toNat → tabGet 0 t.bup.route e = tabGet 0 s.bup.route e)) ∧
    (Serves s q 0x1B c → ∃ t, exec (.portRetrain q) s = .next t ∧
      (48 ≤ c.arg0.toNat → OnlyCompletes s t c 0x44 id) ∧
      (c.arg0.toNat < 48 → (portOf t c.arg0.toNat).training = true ∧ (portOf t c.arg0.toNat).up = false) ∧
      (c.arg0.toNat < 48 → (portOf s c.arg0.toNat).up = false → Begun s t c)) ∧
    (Serves s q 0x20 c → ∃ t, exec (.powerSet q) s = .next t ∧
      (powerSetOk p = false → OnlyCompletes s t c 0x44 id) ∧
      (powerSetOk p = true → bitOf p 0 = true → capMax s < bitsOf p 16 16 → OnlyCompletes s t c 0x47 id) ∧
      (powerSetOk p = true → (bitOf p 0 = true → bitsOf p 16 16 ≤ capMax s) →
        (bitOf p 0 = true → t.clk.hostCap = bitsOf p 16 16) ∧ (bitOf p 2 = true → t.pow.report = bitOf p 40) ∧
        (bitOf p 0 = false → bitOf p 1 = true → t.clk.hostCap = min (if bitOf p 32 then 300 else 480) (capMax s)) ∧
        (bitOf p 0 = false → bitOf p 1 = false → t.clk.hostCap = s.clk.hostCap)))

/-! ## The mirrored pair -/

/-- The partner is lost for a cause (R412, R413, R419, R420): the pair ends, its buffer is dropped, every slice held begins to be sealed without the
entries of intervals that have no COMPLETE, no mirror commit goes on, and every protected MIRRORED job is without protection. -/
def Sys2Proof.PartnerLost (s t : State) (cause : Nat) : Prop :=
  t.pair.formed = false ∧ t.pair.lost = true ∧ t.pair.cause = cause ∧ t.pair.buf = [] ∧ (∀ k, sliceOf t k = beginSeal (sliceOf s k)) ∧
    (∀ c, t.com.out = some c → c.kind ≠ .mirrorCommit) ∧ (∀ c ∈ t.com.queue ++ t.com.retry, c.kind ≠ .mirrorCommit) ∧
    (∀ a ∈ liveJobs s, (jobOf s a).mirrored = true → (jobOf t a).unprotected = true) ∧ (∃ e ∈ t.stem.events, e.code = 0x01C0) ∧
    (∃ e ∈ t.cxl.held, e.async = true ∧ e.kind = 6)

/-- R401, R402, R409, R412, R413, R419, R420: HELLO on each named port forms the pair, and a wrong sender, a wrong port count or 10 s without it refuse it
with the condition's number; HEARTBEAT goes out on an idle mirror port and changes nothing where it arrives; FAIL, 50 µs of silence and a
write outside the mirror window lose the partner; a slice whose sealing has begun is then sealed. -/
def Obligations.ThePairFormsAndIsLost : Prop :=
  ∀ (s : State) (p : Fin 48),
    let refused := fun (t : State) (n : Nat) =>
      t.pair = { s.pair with setup := false, partner := 0, ports := 0, store := 0, logGib := 0, heard := 0 } ∧
        (∀ c ∈ s.cxl.cmds, c.begun = true → c.opc = 0x10 → c.mute = false →
          ∃ e ∈ t.cxl.held, e.cid = c.cid ∧ e.sq = c.sq ∧ e.status = 0x48 ∧ e.res0 = BitVec.ofNat 64 n) ∧
        ∀ c ∈ t.cxl.cmds, ¬ (c.begun = true ∧ c.opc = 0x10)
    (∀ (src : BitVec 16) (store logGib nports : Nat), s.pair.setup = true → s.pair.formed = false → s.pair.ports.getLsbD p = true →
      (portOf s p).up = true →
      let heard := s.pair.heard ||| BitVec.ofNat 48 (2 ^ p.val)
      ∃ t, exec (.hello p src store logGib nports) s = .next t ∧ (src ≠ s.pair.partner → refused t 2) ∧
        (src = s.pair.partner → nports ≠ portCount s.pair.ports → refused t 6) ∧
        (src = s.pair.partner → nports = portCount s.pair.ports →
          t.pair.theirStore = store ∧ t.pair.theirLog = logGib ∧ t.pair.heard = heard ∧
          (heard ≠ s.pair.ports → t.pair.setup = true ∧ t.pair.formed = false ∧ t.cxl = s.cxl) ∧
          (heard = s.pair.ports → t.pair.setup = false ∧ t.pair.formed = true ∧ t.pair.lost = false ∧
            ∀ c ∈ t.cxl.cmds, ¬ (c.begun = true ∧ c.opc = 0x10)) ∧
          (s.pair.heard.getLsbD p = false → ∃ m, (portOf t p).q0 = (portOf s p).q0 ++ [m] ∧ m.cells = 1 ∧ m.dst = s.pair.partner) ∧
          (s.pair.heard.getLsbD p = true → (portOf t p).q0 = (portOf s p).q0))) ∧
    (s.pair.setup = true → ∃ t, exec .pairFormationTimeout s = .next t ∧ refused t 7) ∧
    (let x := portOf s p
     isMirrorPort s p = true → x.up = true → x.q0 = [] → x.q1 = [] → x.q2 = [] → ∃ t, exec (.heartbeatSend p) s = .next t ∧
       portOf t p = { x with q0 := [{ id := s.bup.nextMsg, cls := 0, cells := 1, ctx := 65535, dst := s.pair.partner }] } ∧
       (∀ k, k ≠ p.val → portOf t k = portOf s k)) ∧
    exec (.heartbeat p) s = .next s ∧
    (fromPartner s p = true → ∃ t, exec (.pairFail p) s = .next t ∧ PartnerLost s t 1) ∧
    (s.pair.formed = true → ∃ t, exec .mirrorSilence s = .next t ∧ PartnerLost s t 2) ∧
    (∀ w : MirrorWrite, fromPartner s p = true → s.trs.winFixed = false ∨ s.pair.store * 2 ^ 18 ≤ w.block →
      ∃ t, exec (.mirrorWrite p w) s = .next t ∧ PartnerLost s t 4 ∧ ∃ e ∈ t.stem.events, e.code = 0x01C1) ∧
    (∀ ix : Fin 36, ∃ t, exec (.sliceSealingComplete ix) s = .next t ∧
      sliceOf t ix = (if (sliceOf s ix).sealing = true then { sliceOf s ix with sealing := false, sealed_ := true, log := [] } else sliceOf s ix) ∧
      (∀ k, k ≠ ix.val → sliceOf t k = sliceOf s k) ∧ t = { s with pair := { s.pair with slices := t.pair.slices } })

/-- R402, R403, R405, R406, R408, R409, R410, R411, R416: the mirror engine admits a held block in order, as WRITE with the job's next SEQ,
while its buffer has room and its interval is at most two beyond C; the partner logs a write once and acknowledges it; COMPLETE applies the
interval in SEQ order; DISCARD drops what is above C; the job record is the interval's last write, and the commit follows the last WACK. Which
mirror port carries a message is the model's choice (log 25). -/
def Obligations.MirrorTrafficIsLoggedAndCommitted : Prop :=
  ∀ (s : State) (p : Fin 48) (a : Nat),
    let j := jobOf s a
    (∀ f tag rest x b n, j.mirrorHeld = (f, tag) :: rest → xferOf s f tag = some x → x.body = some b → sliceBlock s a x.far = some n →
      s.pair.formed = true → j.unprotected = false →
      ∃ t, exec (.mirrorBlockAdmit a) s = .next t ∧
        (16384 ≤ s.pair.buf.length ∨ j.commitC + 2 < x.iv → t = s) ∧
        (s.pair.buf.length < 16384 → x.iv ≤ j.commitC + 2 →
          jobOf t a = { j with mirrorHeld := rest, seq := (j.seq + 1) % 2 ^ 32 } ∧ (∀ c, c ≠ a → jobOf t c = jobOf s c) ∧
          t.pair = { s.pair with buf := s.pair.buf ++ [{ job := j.number, t := x.iv, seq := j.seq, block := n, body := b }] })) ∧
    (∀ w : MirrorWrite, fromPartner s p = true → s.trs.winFixed = true → w.block < s.pair.store * 2 ^ 18 →
      let acked := fun (t : State) => ∃ m, (∃ k, (portOf t k).q0 = (portOf s k).q0 ++ [m]) ∧ m.cells = 1 ∧ m.dst = s.pair.partner
      let logged := fun (x : Slice) => w.t ≤ x.c ∨ ∃ y ∈ x.log, y.t = w.t ∧ y.seq = w.seq
      ∃ t, exec (.mirrorWrite p w) s = .next t ∧
        (∀ k, openSlice s w.job = some k → acked t ∧ (logged (sliceOf s k) → sliceOf t k = sliceOf s k) ∧
          (¬ logged (sliceOf s k) → sliceOf t k = { sliceOf s k with log := (sliceOf s k).log ++ [w] }) ∧
          ∀ x, x ≠ k → sliceOf t x = sliceOf s x) ∧
        (∀ k, openSlice s w.job = none → (List.range 36).find? (fun i => !(sliceOf s i).valid) = some k → 1 ≤ w.t →
          acked t ∧ sliceOf t k = { valid := true, job := w.job, owner := s.pair.partner, log := [w] } ∧
          ∀ x, x ≠ k → sliceOf t x = sliceOf s x) ∧
        (openSlice s w.job = none → (∀ k, k < 36 → (sliceOf s k).valid = true) → t = s)) ∧
    (∀ job n seq : Nat, fromPartner s p = true → exec (.wack p job n seq) s = .next { s with pair := { s.pair with
      buf := s.pair.buf.filter fun w => !(w.job == job && w.t == n && w.seq == seq) } }) ∧
    (∀ job n k : Nat, fromPartner s p = true → openSlice s job = some k →
      let x := sliceOf s k
      ∃ t, exec (.mirrorComplete p job n) s = .next t ∧ (sliceOf t k).c = max x.c n ∧ (sliceOf t k).complete = max x.complete n ∧
        (sliceOf t k).log = x.log.filter (fun w => w.t != n) ∧
        (∀ b, tabGet default (sliceOf t k).blocks b = match ((logOf x n).filter fun w => w.block == b).getLast? with
          | some w => w.body
          | none => tabGet default x.blocks b) ∧
        (∀ y, y ≠ k → sliceOf t y = sliceOf s y) ∧ t = { s with pair := { s.pair with slices := t.pair.slices } }) ∧
    (∀ job n k : Nat, fromPartner s p = true → openSlice s job = some k →
      ∃ t, exec (.mirrorDiscard p job n) s = .next t ∧ sliceOf t k = { sliceOf s k with log := (sliceOf s k).log.filter fun w => decide (w.t ≤ n) } ∧
        (∀ y, y ≠ k → sliceOf t y = sliceOf s y) ∧ t = { s with pair := { s.pair with slices := t.pair.slices } }) ∧
    (∀ d, j.fam.mirror = some d → pithUp s = true → j.live = true → j.mirrored = true → j.unprotected = false → s.pair.formed = true →
      j.st ≠ .stopped → j.st ≠ .waiting → (∀ b ∈ declBunches s a, b ∈ j.mirrorReports) →
      let n := j.commitC + 1
      let record := jobRecord s a n ((mirrorPoints j.fam d.every).getD (n - 1) 0)
      intervalOpen s a n = false → CommitIdle s →
      ∃ t, exec (.mirrorIntervalCommit a) s = .next t ∧
        (tabGet 0 s.pair.recorded a ≠ n → s.pair.buf.length < 16384 → tabGet 0 t.pair.recorded a = n ∧
          t.pair.buf = s.pair.buf ++ [{ job := j.number, t := n, seq := j.seq, block := 0, body := record }]) ∧
        (tabGet 0 s.pair.recorded a = n → (∃ w ∈ s.pair.buf, w.job = j.number ∧ w.t = n) → t = s) ∧
        (tabGet 0 s.pair.recorded a = n → (∀ w ∈ s.pair.buf, ¬ (w.job = j.number ∧ w.t = n)) →
          Prepares s t .mirrorCommit (BitVec.ofNat 64 (a + 2 ^ 8 * n))))

/-- R417, R418, R440, R441, R443: a sealed slice is read block by block, FAILED where there is none; the module that resumes keeps each block that comes,
sends an unanswered read at most three times again, and gives up on a FAILED one; MIRROR_RESUME admits its family and asks for the slice. The
ASID and the job number that a resumed job takes are the model's choice (log 28). -/
def Obligations.SlicesAreReadAndResumed : Prop :=
  ∀ (s : State) (p : Fin 48),
    let ra := s.pair.resumeAsid
    let failed := fun (t : State) => t.pair.resumeAsid = 0 ∧ t.pair.reads = [] ∧ jobOf t ra = { energy := (jobOf s ra).energy }
    (∀ x : BupRaw, cellType x ≠ tySliceRd → exec (.sliceRd p x) s = .next s) ∧
    (∀ x : BupRaw, cellType x ≠ tySliceData → exec (.sliceData p x.head x.body) s = .next s) ∧
    (∀ x : BupRaw, cellType x = tySliceRd → let m := sliceReqOf (parseMsg x)
      sliceArrives s p m.src = true → pithUp s = true → m.count ≤ 16 →
      (∀ k, k < m.count → ctxPort s m.src.toNat ((m.first + k) % 4096) ≠ none) →
      let found := findSlice s fun x => x.sealed_ && x.job == m.job && x.c == m.c
      let block := fun (n : Nat) => match found with
        | some k => if n < s.pair.store * 2 ^ 18 then tabGet (tierBlock 0 0) (sliceOf s k).blocks n else failedBlock
        | none => failedBlock
      ∃ t, exec (.sliceRd p x) s = .next t ∧
        t.out = ((List.range m.count).map fun k =>
          Output.bupol (s.bup.nextMsg + k) ((ctxPort s m.src.toNat ((m.first + k) % 4096)).getD 0)
            (sliceRaw m.src true { m with src := s.bup.epId, first := m.first + k, count := 1 } (block (m.first + k)))).reverse ++ s.out ∧
        t = { s with out := t.out, bup := t.bup }) ∧
    (∀ (x : BupRaw) (r : Nat × Nat), cellType x = tySliceData → let m := sliceReqOf (parseMsg x)
      let b := (parseMsg x).body
      sliceArrives s p m.src = true → ra ≠ 0 → m.src = s.pair.resumeFrom →
      m.job = s.pair.resumeJob → m.c = (jobOf s ra).commitC →
      s.pair.reads.find? (fun r => decide (r.1 ≤ m.first ∧ m.first < r.1 + readCount s r.1)) = some r →
      ∃ t, exec (.sliceData p x.head x.body) s = .next t ∧ (b.failed = true → failed t) ∧
        (b.failed = false → (∃ x ∈ s.pair.reads, x.1 ≠ r.1) →
          tabGet default t.pair.fetched m.first = (if checkOk b = true then b else allBruised b) ∧
          (∀ n, n ≠ m.first → tabGet default t.pair.fetched n = tabGet default s.pair.fetched n) ∧ t.pair.resumeAsid = ra)) ∧
    (∀ (first : Nat) (r : Nat × Nat), s.pair.reads.find? (fun r => r.1 == first) = some r →
      ∃ t, exec (.sliceRdTimeout first) s = .next t ∧ (4 ≤ r.2 → failed t) ∧
        (r.2 < 4 → t.pair = { s.pair with reads := s.pair.reads.map fun x => if x.1 = first then (first, r.2 + 1) else x })) ∧
    (∀ (q : Fin 8) (fam : Family) (c : Cmd) (d : MirrorDecl) (a : Nat), Serves s q 0x06 c → cxlUp s = true → s.brg.st = 1 →
      let p := c.payload.toNat
      let j : Job :=
        { live := true, number := nextNumber s, fam := fam, st := .resuming, sq := c.sq, orphan := c.mute, mirrored := true, unprotected := true,
          commitC := c.arg1.toNat, saveBytes := fam.saveBytes }
      bitsOf p 144 368 = 0 → c.arg0.toNat < 65536 → c.arg1.toNat < 2 ^ 32 →
      ∃ t, exec (.mirrorResume q fam) s = .next t ∧
        (granted s (bitsOf p 0 64) (bitsOf p 64 64) false = false → OnlyCompletes s t c 0x45 id) ∧
        (granted s (bitsOf p 0 64) (bitsOf p 64 64) false = true → firstFinding (allFindings fam (bitsOf p 64 64) false) = none → fam.mirror = some d →
          freeAsid s = some a → ra = 0 →
          (couldFit s j = false → OnlyCompletes s t c 0x41 id) ∧
          (couldFit s j = true → fam.saveBytes ≤ saveSpace s → ptMirror s (bitsOf p 128 16) = true → jobOf t a = j ∧ Begun s t c ∧
            t.pair.resumeAsid = a ∧ t.pair.resumeJob = c.arg0.toNat ∧ t.pair.resumeFrom = BitVec.ofNat 16 (bitsOf p 128 16) ∧
            t.pair.need = d.total / 4096 + 1)))

/-! ## Bupol ports and partner contexts -/

/-- Port `p` leaves service and trains again, with PORT_RETRAINED from its chiplet (R427, R429). -/
def Sys2Proof.Retrains (s t : State) (p : Fin 48) : Prop :=
  (portOf t p).up = false ∧ (portOf t p).training = true ∧ (portOf t p).retrains = min 255 ((portOf s p).retrains + 1) ∧ s.yld.gen < t.yld.gen ∧
    ∃ e ∈ t.stem.events, e.code = 0x00D1 ∧ e.src = dieAddr (41 + p.val / 4)

/-- R422, R424, R425, R426, R427, R428, R429, R430, R432, R524: a bad or out-of-order frame sets NAK; a good one drops what it acknowledges, and in order
is accepted, with messages to another endpoint counted; a port sends its waiting messages in a DATA frame, an IDLE frame where it has none or
512 frames are out, and the frames that a NAK asks for again, at most 16 times; what breaks the link makes it retrain; training spares failed
lanes and brings the port back only where it qualifies with two failed lanes at most. The order of messages of different contexts is left out
(log 26). -/
def Obligations.LinkFramesAndTraining : Prop :=
  ∀ (s : State) (p : Fin 48),
    let x := portOf s p
    (∀ fr : Frame, x.up = true →
      let ack := frameAck fr
      let rest := if x.unacked.any fun e => e.1 == ack then ((x.unacked.dropWhile fun e => e.1 != ack).drop 1) else x.unacked
      let y := { x with unacked := rest, resend := if frameNak fr then rest.length else min x.resend rest.length }
      let begun := frameDsts fr x.rxCarry
      let lost := (begun.1.filter fun d => !s.bup.epSet || d != s.bup.epId).length
      ∃ t, exec (.linkFrame p fr) s = .next t ∧ (∀ k, k ≠ p.val → portOf t k = portOf s k) ∧ t = { s with bup := t.bup, stem := t.stem } ∧
        (frameGood fr = false → portOf t p = { x with nak := true, skipping := true } ∧ t.stem = s.stem) ∧
        (frameGood fr = true → frameIdle fr = true → portOf t p = y ∧ t.stem = s.stem) ∧
        (frameGood fr = true → frameIdle fr = false → frameSeq fr ≠ x.rxSeq + 1 →
          portOf t p = { y with nak := true, skipping := true } ∧ t.stem = s.stem) ∧
        (frameGood fr = true → frameIdle fr = false → frameSeq fr = x.rxSeq + 1 →
          portOf t p = { y with rxSeq := frameSeq fr, skipping := false, rxCarry := begun.2 } ∧
          t.bup.misrouted = (if lost = 0 then s.bup.misrouted else satAdd 32 s.bup.misrouted lost) ∧
          (lost ≠ 0 → Raises s t (mkEvent (dieAddr (41 + p.val / 4)) (floorN s) 0x00D3 0 0 7 0 0)) ∧ (lost = 0 → t.stem = s.stem))) ∧
    (x.up = true → ∃ t, exec (.frameSend p) s = .next t ∧
      (x.resend = 0 → 512 ≤ x.unacked.length ∨ (x.q0 = [] ∧ x.q1 = [] ∧ x.q2 = [] ∧ x.carry = 0) →
        t.out = .frame p true x.txSeq x.rxSeq x.nak :: s.out ∧ (portOf t p).unacked = x.unacked ∧ (portOf t p).txSeq = x.txSeq ∧
        (portOf t p).nak = false) ∧
      (∀ m, x.resend = 0 → x.unacked.length < 512 → x.q0 = [m] → x.q1 = [] → x.q2 = [] → x.carry = 0 → m.cells ≤ 40 →
        ratesFor s m.dst.toNat = [] →
        t.out = .frame p false x.txSeq x.rxSeq x.nak :: s.out ∧ (portOf t p).unacked = x.unacked ++ [(x.txSeq, 1, [m])] ∧
        (portOf t p).txSeq = x.txSeq + 1 ∧ (portOf t p).q0 = []) ∧
      (∀ fseq n l, x.resend ≠ 0 → x.unacked[x.unacked.length - x.resend]? = some (fseq, n, l) →
        (n < 16 → t.out = .frame p false fseq x.rxSeq x.nak :: s.out ∧ (portOf t p).resend = x.resend - 1 ∧
          (portOf t p).resent = satAdd 32 x.resent 1) ∧
        (16 ≤ n → Retrains s t p))) ∧
    (x.up = true → x.unacked ≠ [] → ∃ t, exec (.ackTimeout p) s = .next t ∧ Retrains s t p) ∧
    (x.unacked = [] ∨ x.up = false → exec (.ackTimeout p) s = .next s) ∧
    (x.up = true → (∃ t, exec (.berWindow p) s = .next t ∧ Retrains s t p) ∧ ∃ t, exec (.laneLockLoss p) s = .next t ∧ Retrains s t p) ∧
    (∀ (bad : List (Fin 18)) (lanes : List LaneTest), x.training = true →
      let n := p.val / 4
      ∃ t, exec (.retrain p bad lanes) s = .next t ∧
        let back := bupolPort lanes = true ∧ ((∀ l ∈ bad, l.val ∈ badLanes s n) ∨ (badLanes t n).length ≤ 2) ∧ tabGet false s.dom.rindOut (41 + n) = false
        (∀ l ∈ bad, l.val ∈ badLanes t n) ∧ (∀ l ∈ badLanes s n, l ∈ badLanes t n) ∧ (portOf t p).training = false ∧
        (∀ k, k ≠ p.val → portOf t k = portOf s k) ∧
        (back → (portOf t p).up = true ∧ t.yld.gen = s.yld.gen + 1) ∧
        (¬ back → (portOf t p).up = false ∧ ∃ e ∈ t.stem.events, e.code = 0x01D0 ∧ e.src = dieAddr (41 + n)) ∧
        ∀ c ∈ t.cxl.cmds, ¬ (c.begun = true ∧ c.opc = 0x1B ∧ c.arg0.toNat = p.val))

/-- A message of its context can be sent (R433, R436): the context's remote end is permitted and has a port. -/
def Sys2Proof.Reaches (s : State) (x : Nat) (k : Nat) : Prop :=
  s.bup.epSet = true ∧ ptContext s (ctxOf s x).remote.toNat (ctxOf s x).wstore = true ∧ ctxPort s (ctxOf s x).remote.toNat x = some k

/-- R437, R438, R439, R440, R441, R442, R443, R444, R445, R446, R451: each message of a partner that its context accepts has its effect: a
read is answered with the block, a write and a barrier add reach memory, an access outside the rights or the window is counted as denied and
changes no memory, and one to a page that is not present waits; answers land in their transfers and give slots back; credits move as granted;
a context opens with its reserve and 8 slots, fails after 1 ms, and closes once nothing is outstanding. The field that an ARM names is a free
value (log 23), and the sender's reserve the model's reading (log 22). -/
def Obligations.PartnerMessagesTakeEffect : Prop :=
  ∀ (s : State) (p : Fin 48) (raw : BupRaw),
    let m := parseMsg raw
    let is := fun (ty : Nat) => cellType raw = ty
    let x := m.dctx.val
    let c := ctxOf s x
    let taken := fun (y : Ctx) => { y with rxSeq := m.cseq + 1, demand := m.demand }
    let denied := fun (t : State) => t.bup.denied = satAdd 32 s.bup.denied 1 ∧ t.mem = s.mem
    let accepted := acceptMsg s p m = some (modCtx s x taken)
    let w := inbound s x m.addr 4096 5 true
    let b := inbound s x m.addr 8 7 true
    let closes := fun (t : State) (y : Ctx) => ctxOf t x = if y.st = .closing ∧ y.outst = [] then {} else y
    (∀ c ∈ [(tyRdReq, Instr.rdReq p raw), (tyWr, .bupWr p raw), (tyArm, .bupArm p raw), (tyBarrier, .bupBarrier p raw), (tyRdRsp, .rdRsp p raw),
        (tyWrAck, .wrAck p raw), (tyArmAck, .armAck p raw), (tyBarAck, .barAck p raw), (tyCredit, .credit p raw), (tyCreditRet, .creditRet p raw),
        (tyCtxOpen, .ctxOpenMsg p raw), (tyCtxOpenAck, .ctxOpenAck p raw), (tyCtxClose, .ctxCloseMsg p raw)],
      ¬ is c.1 → exec c.2 s = .next s) ∧
    ((∃ e ∈ readParts s m, e.2 = .absent) → exec (.rdReq p raw) s = .next s) ∧
    (is tyRdReq → accepted → (∀ e ∈ readParts s m, e.2 ≠ .absent) → ∃ t, exec (.rdReq p raw) s = .next t ∧ t.mem = s.mem ∧
      (m.addr % 4096 ≠ 0 ∨ 16 < (readParts s m).length ∨ (∃ e ∈ readParts s m, e.2 = .denied) → denied t) ∧
      (∀ k e a, readParts s m = [(0, .ok e a)] → m.addr % 4096 = 0 → Reaches s x k →
        ∃ r, t.out = .bupol s.bup.nextMsg k (rawMsg tyRdRsp r) :: s.out ∧ r.addr = m.addr ∧ r.rtag = m.rtag ∧ r.failed = false ∧ r.dst = c.remote ∧
          r.cseq = c.txSeq ∧ r.body = if pteTarget e = 0 then nearBlock s a else farBlock s a)) ∧
    (w = .absent → exec (.bupWr p raw) s = .next s) ∧
    (is tyWr → accepted → w ≠ .absent → ∃ t, exec (.bupWr p raw) s = .next t ∧ (w = .denied ∨ m.addr % 4096 ≠ 0 → denied t) ∧
      (∀ e a, w = .ok e a → m.addr % 4096 = 0 → t.mem.die = s.mem.die ∧
        (pteTarget e = 0 → t.mem.near = memWrite s.mem.near a 4096 m.body.data.toNat ∧ t.mem.far = s.mem.far) ∧
        (pteTarget e ≠ 0 → t.mem.far = memWrite s.mem.far a 4096 m.body.data.toNat ∧ t.mem.near = s.mem.near))) ∧
    (is tyArm → accepted →
      let r := bitsOf m.body.data.toNat 0 1024
      let f := Config.armField m.dctx m.addr r % 36
      let may := c.rights.getLsbD 6 = true ∧ hasWork s f c.asid = true ∧ fieldRuns s f = true ∧ reqOp r ≠ 3
      ∃ t, exec (.bupArm p raw) s = .next t ∧ t.mem = s.mem ∧
        (∀ u, may → requestStream (modCtx s x taken) f r = some u → ∀ k, streamOf t f k = streamOf u f k) ∧
        (¬ may → ∀ g k, streamOf t g k = streamOf s g k) ∧ (c.rights.getLsbD 6 = false → denied t)) ∧
    (b = .absent → exec (.bupBarrier p raw) s = .next s) ∧
    (is tyBarrier → accepted → b ≠ .absent → ∃ t, exec (.bupBarrier p raw) s = .next t ∧ (b = .denied ∨ m.addr % 8 ≠ 0 → denied t) ∧
      (∀ e a, b = .ok e a → m.addr % 8 = 0 → t.mem.die = s.mem.die ∧
        (pteTarget e = 0 → nearRead t a 8 = (nearRead s a 8 + bitsOf m.args.toNat 0 64) % 2 ^ 64 ∧ t.mem.far = s.mem.far) ∧
        (pteTarget e ≠ 0 → farRead t a 8 = (farRead s a 8 + bitsOf m.args.toNat 0 64) % 2 ^ 64 ∧ t.mem.near = s.mem.near))) ∧
    (∀ e, accepted → c.outst.find? (fun e => e.1 == m.rtag) = some e →
      let left := eraseFirst (fun y => y.1 == m.rtag) c.outst
      (is tyRdRsp → ∃ t, exec (.rdRsp p raw) s = .next t ∧ closes t { taken c with outst := left, slots := c.slots + 1 } ∧
        ∀ z, xferOf s (e.2 / 2048) (e.2 % 2048) = some z →
          xferOf t (e.2 / 2048) (e.2 % 2048) = some { z with body := some (if m.failed then failedBlock else m.body) }) ∧
      (is tyArmAck → ∃ t, exec (.armAck p raw) s = .next t ∧ closes t { taken c with outst := left, slots := c.slots + 1 }) ∧
      (is tyBarAck → ∃ t, exec (.barAck p raw) s = .next t ∧ closes t { taken c with outst := left, slots := c.slots + 1 })) ∧
    (∀ e, is tyWrAck → accepted → c.outst.find? (fun e => e.1 == bitsOf m.args.toNat 0 16) = some e →
      ∃ t, exec (.wrAck p raw) s = .next t ∧
        closes t { taken c with
          resCred := min c.reserve (c.resCred + bitsOf m.args.toNat 16 8)
          outst := eraseFirst (fun y => y.1 == bitsOf m.args.toNat 0 16) c.outst } ∧
        ∀ z, xferOf s (e.2 / 2048) (e.2 % 2048) = some z → xferOf t (e.2 / 2048) (e.2 % 2048) =
          some { z with landed := true, body := z.body.map fun b => if m.failed then { b with failed := true } else b }) ∧
    (accepted → (is tyCredit → ∃ t, exec (.credit p raw) s = .next t ∧ ctxOf t x = { taken c with shCred := c.shCred + bitsOf m.args.toNat 0 16 } ∧
        t = { s with bup := { s.bup with ctx := t.bup.ctx } }) ∧
      (is tyCreditRet → ∃ t, exec (.creditRet p raw) s = .next t ∧
        let n := min (bitsOf m.args.toNat 0 16) c.held
        ctxOf t x = { taken c with held := c.held - n } ∧ t = { s with bup := { s.bup with ctx := t.bup.ctx, sharedUsed := s.bup.sharedUsed - n } }) ∧
      (is tyCtxClose → ∃ t, exec (.ctxCloseMsg p raw) s = .next t ∧ closes t { taken c with st := .closing })) ∧
    (arrives s p m = true →
      let same := m.src = c.remote ∧ m.sctx.val = c.rctx
      (is tyCtxOpen → ∃ t, exec (.ctxOpenMsg p raw) s = .next t ∧
        (∀ k, (c.st = .opening ∨ c.st = .open_) ∧ same → reserveSum s ≤ 8192 → Reaches s x k →
          ctxOf t x = { c with rxSeq := m.cseq + 1, txSeq := c.txSeq + 1 } ∧
          ∃ r, t.out = .bupol s.bup.nextMsg k (rawMsg tyCtxOpenAck r) :: s.out ∧ r.failed = false ∧ r.dst = c.remote) ∧
        (∀ k, ¬ ((c.st = .opening ∨ c.st = .open_) ∧ same) → ctxPort s m.src.toNat x = some k → ctxOf t x = c ∧
          ∃ r, t.out = .bupol s.bup.nextMsg k (rawMsg tyCtxOpenAck r) :: s.out ∧ r.failed = true ∧ r.dst = m.src)) ∧
      (is tyCtxOpenAck → c.st = .opening → same → ∃ t, exec (.ctxOpenAck p raw) s = .next t ∧
        (m.failed = true → (ctxOf t x).st = .failed ∧ ∃ e ∈ t.stem.events, e.code = 0x01D1) ∧
        (m.failed = false → ctxOf t x = { taken c with st := .open_, resCred := c.reserve, shCred := 0, slots := 8 }) ∧
        ∀ d ∈ t.cxl.cmds, ¬ (d.begun = true ∧ d.opc = 0x18 ∧ d.arg0.toNat = x))) ∧
    (∀ (y : Fin 4096) (k : Nat), ((List.range 4096).map fun i => (s.bup.lastServed + 1 + i) % 4096).find? (fun x => grantFor s x != 0) = some y.val →
      Reaches s y k → ∃ t, exec .creditGrant s = .next t ∧ (ctxOf t y).held = (ctxOf s y).held + grantFor s y ∧ t.bup.lastServed = y.val ∧
        t.bup.sharedUsed = s.bup.sharedUsed + grantFor s y ∧
        ∃ r, t.out = .bupol s.bup.nextMsg k (rawMsg tyCredit r) :: s.out ∧ r.args = BitVec.ofNat 152 (grantFor s y)) ∧
    (∀ (y : Fin 4096) (k : Nat), (ctxOf s y).st = .open_ → (ctxOf s y).shCred ≠ 0 →
      demandOf s y + ((ctxOf s y).outst.filter fun e => decide (e.1 < 65536)).length = 0 → Reaches s y k →
      ∃ t, exec (.creditIdleTimeout y) s = .next t ∧ (ctxOf t y).shCred = 0 ∧
        ∃ r, t.out = .bupol s.bup.nextMsg k (rawMsg tyCreditRet r) :: s.out ∧ r.args = BitVec.ofNat 152 (ctxOf s y).shCred) ∧
    (∀ y : Fin 4096, ∃ t, exec (.contextTimeout y) s = .next t ∧
      let d := ctxOf s y
      (d.st = .opening ∨ (d.st = .open_ ∧ d.outst ≠ []) → (ctxOf t y).st = .failed ∧ (ctxOf t y).outst = [] ∧ ∃ e ∈ t.stem.events, e.code = 0x01D1) ∧
      (d.st = .closing → d.outst ≠ [] → ctxOf t y = {}) ∧ (d.st ≠ .opening → d.outst = [] → t = s))

/-! ## Queues, interrupts and CXL ports -/

/-- Queue `q` stops with an error code (R560). -/
def Sys2Proof.QueueStops (s t : State) (q : Fin 8) (code : BitVec 3) : Prop :=
  queueOf t q = { queueOf s q with qerr := true, qcode := code, enable := false } ∧ (∀ k, k ≠ q.val → queueOf t k = queueOf s k) ∧
    t = { s with cxl := { s.cxl with queue := t.cxl.queue } }

/-- A tail count is taken, stops the queue where it runs more than the ring ahead, or is kept while a pith takes over (R555, R560). -/
def Sys2Proof.TailTaken (s t : State) (q : Fin 8) (v : BitVec 32) : Prop :=
  let x := queueOf s q
  (s.pith.takeover = false → 2 ^ x.sqLog.toNat < (v - x.consumed).toNat → QueueStops s t q 2) ∧
    (s.pith.takeover = false → (v - x.consumed).toNat ≤ 2 ^ x.sqLog.toNat →
      queueOf t q = { x with tail := v } ∧ t = { s with cxl := { s.cxl with queue := t.cxl.queue } }) ∧
    (s.pith.takeover = true → tabGet 0 t.cxl.keptSq q = v.toNat + 1 ∧ t = { s with cxl := { s.cxl with keptSq := t.cxl.keptSq } })

/-- A head count is taken, or kept while a pith takes over (R460, R555). -/
def Sys2Proof.HeadTaken (s t : State) (q : Fin 8) (v : BitVec 32) : Prop :=
  (s.pith.takeover = false → queueOf t q = { queueOf s q with head := v } ∧ t = { s with cxl := { s.cxl with queue := t.cxl.queue } }) ∧
    (s.pith.takeover = true → tabGet 0 t.cxl.keptCq q = v.toNat + 1 ∧ t = { s with cxl := { s.cxl with keptCq := t.cxl.keptCq } })

/-- R9, R11, R360, R454, R457, R460, R464, R469, R555, R559, R560, R568: a queue line in POLL mode and a doorbell in DOORBELL mode give the tail and head counts, and an
ungranted or poisoned line, or an overrun, stops the queue with its code; Q_CFG takes ENABLE and QERR alone while ENABLE is 1, and enables a
queue only with legal sizes, aligned bases and QERR 0; where hardware stops the queue in the cycle of the write that clears QERR, it reads 1;
a line read is held in the device cache, whose 512 places keep the newest (log 20); a held completion goes to its ring while a slot is free, with the phase of its pass;
a pending unmasked vector is sent. -/
def Obligations.QueuesCompleteAndInterrupt : Prop :=
  ∀ (s : State) (q : Fin 8),
    let x := queueOf s q
    (∀ (v : BitVec 32) (poison : Bool), barOpen s = true → x.enable = true → x.mode = false →
      let at_ := fun (cq : Bool) => (if cq then x.cqLine else x.sqLine).toNat
      let gone := fun (cq : Bool) => { s with cxl := { s.cxl with lines := s.cxl.lines.filter fun e => e.1 != at_ cq } }
      let read := fun (cq : Bool) =>
        { s with cxl := { s.cxl with lines := ((at_ cq, v) :: s.cxl.lines.filter fun e => e.1 != at_ cq).take 512 } }
      ∀ cq : Bool, ∃ t, exec (.tailLineUpdate q cq v poison) s = .next t ∧
        (granted s (at_ cq) 64 false = false → QueueStops (gone cq) t q 1) ∧
        (granted s (at_ cq) 64 false = true → poison = true → QueueStops (gone cq) t q 3) ∧
        (granted s (at_ cq) 64 false = true → poison = false → if cq then HeadTaken (read cq) t q v else TailTaken (read cq) t q v)) ∧
    (∀ (value : BitVec 64) (h : Half), barOpen s = true → x.enable = true → x.mode = true → h ≠ .high →
      (∃ t, exec (.sqDb q value h) s = .next t ∧ TailTaken s t q (value.setWidth 32)) ∧
      (∃ t, exec (.cqDb q value h) s = .next t ∧ HeadTaken s t q (value.setWidth 32))) ∧
    (∀ (value : BitVec 64) (h : Half), barOpen s = true → h ≠ .high →
      let v := value.toNat
      let y := if value.getLsbD 16 then { x with qerr := false, qcode := 0 } else x
      let z := { y with sqLog := BitVec.ofNat 4 v, cqLog := BitVec.ofNat 4 (v / 16), mode := value.getLsbD 8, ien := value.getLsbD 9 }
      let legal := 4 ≤ z.sqLog.toNat ∧ z.sqLog.toNat ≤ 12 ∧ 4 ≤ z.cqLog.toNat ∧ z.cqLog.toNat ≤ 12 ∧ z.qerr = false ∧
        z.sqBase.toNat % 4096 = 0 ∧ z.cqBase.toNat % 4096 = 0
      ∀ c ∈ [Instr.queueEnable q value h, .queueDisable q value h, .qerrClear q { value := value } h], ∃ t, exec c s = .next t ∧
        (x.enable = true → queueOf t q = { y with enable := value.getLsbD 10 }) ∧
        (x.enable = false → value.getLsbD 10 = true → legal → queueOf t q = { z with enable := true, tail := z.consumed, head := z.written }) ∧
        (x.enable = false → ¬ (value.getLsbD 10 = true ∧ legal) → queueOf t q = z) ∧
        (∀ k, k ≠ q.val → queueOf t k = queueOf s k) ∧ t = { s with cxl := { s.cxl with queue := t.cxl.queue } }) ∧
    (∀ (value : BitVec 64) (h : Half) (tie : Fin 4), barOpen s = true → x.enable = true → h ≠ .high → tie ≠ 0 →
      ∃ t, exec (.qerrClear q { value := value, tie := tie } h) s = .next t ∧ queueOf t q = { x with qerr := true, qcode := BitVec.ofNat 3 tie.val, enable := false } ∧
        (∀ k, k ≠ q.val → queueOf t k = queueOf s k) ∧ t = { s with cxl := { s.cxl with queue := t.cxl.queue } }) ∧
    (∀ c, s.cxl.held.find? (fun c => c.cq == q.val) = some c → pithUp s = true → cxlUp s = true → x.enable = true →
      (x.written - x.head).toNat < 2 ^ x.cqLog.toNat →
      let slot := x.written.toNat % 2 ^ x.cqLog.toNat
      ∃ t, exec (.completionWrite q) s = .next t ∧
        (granted s (x.cqBase.toNat + 64 * slot) 64 true = false → QueueStops s t q 1) ∧
        (granted s (x.cqBase.toNat + 64 * slot) 64 true = true →
          t.cxl.held = eraseFirst (fun y => decide (y = c)) s.cxl.held ∧
          t.out = .completion slot (x.written.toNat / 2 ^ x.cqLog.toNat % 2 == 0) c :: s.out ∧ queueOf t q = { x with written := x.written + 1 } ∧
          t.cxl.msixPend = (if x.ien then s.cxl.msixPend ||| BitVec.ofNat 16 (2 ^ q.val) else s.cxl.msixPend))) ∧
    (∀ v : Fin 16, s.cxl.msixPend.getLsbD v = true → s.cxl.msixMask.getLsbD v = false → s.inp.main = true → s.inp.held = false →
      cxlUp s = true → ∃ t, exec (.msixSend v) s = .next t ∧ t.cxl.msixPend.getLsbD v = false ∧
        (∀ k : Fin 16, k ≠ v → t.cxl.msixPend.getLsbD k = s.cxl.msixPend.getLsbD k) ∧ t.out = .msix v :: s.out ∧
        t = { s with cxl := { s.cxl with msixPend := t.cxl.msixPend }, out := t.out })

/-- R11, R256, R360, R455, R456, R458, R459, R467, R468, R469, R503, R514, R556, R561: a CXL port leaves and returns to service with its
change counted; with both down a transfer to host memory returns FAILED; a grant entry takes its fields while it is neither VALID nor
REVOKING, is revoked by clearing VALID, and ends REVOKING with its last request; the window's size is taken while the decoder is uncommitted
and at most 64, and the decoder stays committed while a job maps the window; the host reads and writes a granule of it with poison for bruise.
DETAIL is a free value (log 11). -/
def Obligations.PortsGrantsAndTheWindow : Prop :=
  ∀ s : State,
    (∀ p : Fin 2, let x := cxlPortOf s p
      (x.up = true → ∃ t, exec (.cxlPortDown p) s = .next t ∧ cxlPortOf t p = { x with up := false, rate := 0, changes := min 255 (x.changes + 1) } ∧
        (∀ k, k ≠ p.val → cxlPortOf t k = cxlPortOf s k) ∧ t = { s with cxl := { s.cxl with port := t.cxl.port } }) ∧
      (∀ test : CxlTest, s.inp.main = true → s.inp.held = false → x.up = false → cxlRate test ≠ 0 → s.inp.perst.getLsbD p = false →
        tabGet false s.dom.rindOut (59 + p.val) = false →
        ∃ t, exec (.cxlPortUp p test) s = .next t ∧ cxlPortOf t p = { x with up := true, rate := cxlRate test, changes := min 255 (x.changes + 1) } ∧
          (∀ k, k ≠ p.val → cxlPortOf t k = cxlPortOf s k) ∧ t = { s with cxl := { s.cxl with port := t.cxl.port } })) ∧
    (∀ (f : FieldIx) (tag : Fin 2048) (x : Transfer), xferOf s f tag = some x → cxlUp s = false → x.target = 2 →
      (if x.write then x.landed = false else x.body = none) →
      ∃ t, exec (.hostTransferTimeout f tag) s = .next t ∧ (∃ y b, xferOf t f tag = some y ∧ y.body = some b ∧ b.failed = true ∧
        y.landed = (x.write || x.landed) ∧ y.told = true) ∧
        Raises s t (mkEvent (dieAddr 59) (floorN s) 0x0106 x.asid 0 7 x.far (Config.detailOf 0x0106 [x.stream, x.tag]).toNat) ∧
        (∀ g, g ≠ f.val → fieldOf t g = fieldOf s g) ∧ t = { s with fld := t.fld, stem := t.stem }) ∧
    (∀ (g : Fin 64) (value : BitVec 64), barOpen s = true →
      let x := grantOf s g
      let v := value.toNat
      let y := { x with
        pages := BitVec.ofNat 40 v, rd := value.getLsbD 40, wr := value.getLsbD 41, valid := value.getLsbD 42 }
      (∃ t, exec (.grantWrite g false value .full) s = .next t ∧ (∀ k, k ≠ g.val → grantOf t k = grantOf s k) ∧
        t = { s with cxl := { s.cxl with grant := t.cxl.grant } } ∧
        (x.valid = false → x.revoking = false → grantOf t g = { x with base := BitVec.ofNat 40 (v / 4096) }) ∧
        (x.valid = true ∨ x.revoking = true → grantOf t g = x)) ∧
      ∀ c ∈ [Instr.grantWrite g true value .full, .grantRevoke g value .full],
        ∃ t, exec c s = .next t ∧ (∀ k, k ≠ g.val → grantOf t k = grantOf s k) ∧ t = { s with cxl := { s.cxl with grant := t.cxl.grant } } ∧
          (x.valid = false → x.revoking = false → grantOf t g = y) ∧
          (x.revoking = true ∨ (x.valid = true ∧ ¬ (y.pages = x.pages ∧ y.rd = x.rd ∧ y.wr = x.wr)) → grantOf t g = x) ∧
          (x.valid = true → x.revoking = false → y.pages = x.pages → y.rd = x.rd → y.wr = x.wr →
            grantOf t g = if y.valid then x else { x with valid := false, revoking := true })) ∧
    (∀ g : Fin 64, (grantOf s g).revoking = true →
      (grantBusy s (grantOf s g) = true → exec (.revokeComplete g) s = .next s) ∧
      (grantBusy s (grantOf s g) = false → ∃ t, exec (.revokeComplete g) s = .next t ∧
        grantOf t g = (if (grantOf s g).clear then {} else { grantOf s g with revoking := false }) ∧
        (∀ k, k ≠ g.val → grantOf t k = grantOf s k) ∧ t = { s with cxl := { s.cxl with grant := t.cxl.grant } })) ∧
    (∀ (value : BitVec 64) (h : Half), barOpen s = true → s.trs.safe = false → h ≠ .high →
      let w := value.toNat % 128
      (s.cxl.committed = false → w ≤ 64 → exec (.hostWinWrite value h) s = .next { s with cxl := { s.cxl with win := w } }) ∧
      (s.cxl.committed = true ∨ 64 < w → exec (.hostWinWrite value h) s = .next s)) ∧
    (barOpen s = true → s.trs.safe = false →
      let maps := ∃ a ∈ liveJobs s, (jobOf s a).windows ≠ []
      exec (.hdmDecoderCommit true) s = .next { s with cxl := { s.cxl with committed := true } } ∧
      (maps → exec (.hdmDecoderCommit false) s = .next s) ∧
      (¬ maps → exec (.hdmDecoderCommit false) s = .next { s with cxl := { s.cxl with committed := false } })) ∧
    (∀ (addr : Nat) (data : BitVec 512) (poison : Bool), barOpen s = true → s.trs.safe = false → s.cxl.committed = true →
      let a := addr / 64 * 64
      a < s.cxl.win * 2 ^ 30 →
      (∃ t, exec (.hostWindowAccess addr true data poison) s = .next t ∧ nearRead t a 64 = data.toNat ∧
        tabGet false t.mem.nearBr (a / 64) = poison ∧ (∀ n, n < a ∨ a + 64 ≤ n → memByte t.mem.near n = memByte s.mem.near n) ∧
        t = { s with mem := { s.mem with near := t.mem.near, nearBr := t.mem.nearBr, down := t.mem.down } }) ∧
      (∃ t, exec (.hostWindowAccess addr false data poison) s = .next t ∧
        t.out = .hostRead a (BitVec.ofNat 512 (nearRead s a 64)) (tabGet false s.mem.nearBr (a / 64) || nearLost s a) :: s.out ∧
        t = { s with mem := { s.mem with down := t.mem.down }, out := t.out }))

/-! ## Attestation, entropy and registers -/

/-- A request to the signature engine (R543, R544): nothing once the index space is exhausted; it waits behind others or for its lower tree; or it is
signed with the next index, within the block that is committed. -/
def Sys2Proof.Signs (s t : State) (r : Nat × List Nat) : Prop :=
  let waits := s.trs.sigWait ≠ [] ∨ (s.trs.sigNext % 2 ^ 20 = 0 ∧ s.trs.lowerReady = false)
  (2 ^ 40 ≤ s.trs.sigNext → t = s) ∧
    (s.trs.sigNext < 2 ^ 40 → waits → t = { s with trs := { s.trs with sigWait := s.trs.sigWait ++ [r] } }) ∧
    (s.trs.sigNext < 2 ^ 40 → ¬ waits → t.out = signedOut s.trs.sigNext r :: s.out ∧ t.trs.sigNext = s.trs.sigNext + 1 ∧
      t.trs.sigNext ≤ t.trs.sigEnd ∧ t.trs.sigWait = [] ∧ t = { s with trs := t.trs, out := t.out })

/-- R466, R534, R543, R544, R545, R551, R553: DOE instance 0 answers discovery and table access; SPDM answers a version, certificate bytes,
and signed measurements and challenges outside recovery, MCTP signed measurements always; a prepared lower tree lets the waiting requests go
on; a failed health test withholds entropy until a restart passes, and a submission that needs a seed ends WRONG_STATE after its wait. The
answers' contents, and where the certificate lies in the identity block, are the model's (logs 31, 33, 34). -/
def Obligations.AttestationAndEntropyAnswer : Prop :=
  ∀ s : State,
    let n := identBytes s - 2416
    (doeUp s = true →
      (∀ index : BitVec 8, exec (.doeDiscovery index) s = .next (emit s (.answer 0
        (if index = 0 then [0x0001, 0, 1] else if index = 1 then [0x1E98, 2, 0] else [0xFFFF, 0, 0]) []))) ∧
      ∀ entry : BitVec 16, exec (.cxlTableAccess entry) s = .next (emit s (.answer 1 [entry.toNat] []))) ∧
    (spdmUp s = true → exec .getVersion s = .next (emit s (.answer 2 [0x12] [])) ∧
      (∀ offset len : Nat, ∃ bytes, exec (.getCertificate offset len) s = .next (emit s (.answer 3 bytes [])) ∧
        bytes.length = min len (n - offset) ∧ ∀ k, k < bytes.length → bytes[k]? = some (chainByte s (offset + k))) ∧
      (∀ (index : BitVec 8) (nonce : BitVec 256), ∃ t, exec (.getMeasurements index nonce) s = .next t ∧
        Signs s t (4, nonce.toNat :: measurementsOf s index.toNat)) ∧
      ∀ nonce : BitVec 256, ∃ t, exec (.challenge nonce) s = .next t ∧ Signs s t (5, nonce.toNat :: measurementsOf s 255)) ∧
    (s.inp.main = true → s.inp.held = false → ∀ nonce : BitVec 256, ∃ t, exec (.mctpAttestation nonce) s = .next t ∧
      Signs s t (6, nonce.toNat :: measurementsOf s 255)) ∧
    (pithUp s = true → ∀ digest : BitVec 256, ∃ t, exec (.signRequest digest) s = .next t ∧ Signs s t (0, [digest.toNat])) ∧
    (s.inp.main = true → s.trs.lowerReady = false → s.trs.sigNext % 2 ^ 20 = 0 ∨ 2 ^ 19 ≤ s.trs.sigNext % 2 ^ 20 →
      ∃ t, exec .lowerTreeReady s = .next t ∧ (s.trs.sigWait = [] → t = { s with trs := { s.trs with lowerReady := true } }) ∧
        (s.trs.sigNext % 2 ^ 20 = 0 → s.trs.sigNext + s.trs.sigWait.length < 2 ^ 40 → s.trs.sigWait.length ≤ 2 ^ 20 →
          t.trs.sigWait = [] ∧ t.trs.sigNext = s.trs.sigNext + s.trs.sigWait.length)) ∧
    exec .entropyHealthFail s = .next { s with trs := { s.trs with entOk := false } } ∧
    (s.inp.main = true → s.inp.held = false → exec (.entropyRestart true) s = .next { s with trs := { s.trs with entOk := true } } ∧
      exec (.entropyRestart false) s = .next s) ∧
    (∀ (q : Fin 8) (c : Cmd), Serves s q 0x01 c → s.trs.entOk = false → c.payload.getLsbD 192 = true → s.brg.st = 1 →
      ∃ t, exec (.seedDrawTimeout q) s = .next t ∧ OnlyCompletes s t c 0x47 fun x => { x with htag := BitVec.ofNat 64 (bitsOf c.payload.toNat 256 64) })

/-- A module reset has begun: every domain but the sloe domain is held, and the sealed slices are kept (R512, R513). -/
def Sys2Proof.HeldInReset (s t : State) (recovery : Bool) : Prop :=
  t.inp.held = true ∧ t.cor = [] ∧ t.job = [] ∧ t.cxl = {} ∧ t.bup = {} ∧ t.com = {} ∧ t.mem.die = [] ∧ t.mem.near = [] ∧ t.mem.selfRefresh = true ∧
    t.trs.recNext = recovery ∧ t.trs.recovery = false ∧ t.pith.wdog = s.pith.wdog ∧ t.log.seq = s.log.seq ∧ t.yld.ext = s.yld.ext ∧
    ∀ k, k < 36 → sliceOf t k = if sealedSlice (sliceOf s k) = true then sliceOf s k else {}

/-- R7, R8, R10, R11, R431, R434, R512, R513, R537, R539, R540, R541, R542, R554, R555, R556, R557, R559, R563, R565, R567: MOD_RESET acts with its key, and LOG_FREE frees a record at once or
with its domain's handling; write-once registers lock with their first write, and the partner table with its seal; a queue's addresses are
written while it is disabled; a low half read latches the high half, which the next read of the high half returns; REC_WINDOW takes its bytes in
recovery; the CXL component registers alone are not modelled, since the spec
gives their layout to CXL; in recovery BEGIN, CHUNK and GO load a signed object or end with their code. -/
def Obligations.RegistersActOnWrites : Prop :=
  ∀ (s : State) (value : BitVec 64) (h : Half),
    let v := value.toNat
    let low := h ≠ .high
    (barUp s = true → low → bitsOf v 8 8 = 0xC3 → value.getLsbD 0 = true →
      (∃ t, exec (.regReset value h) s = .next t ∧ HeldInReset s t (value.getLsbD 1)) ∧
      ∃ t, exec (.regRecovery value h) s = .next t ∧ HeldInReset s t (value.getLsbD 1)) ∧
    (bitsOf v 8 8 ≠ 0xC3 ∨ value.getLsbD 0 = false → exec (.regReset value h) s = .next s ∧ exec (.regRecovery value h) s = .next s) ∧
    (∀ k r, barOpen s = true → pithUp s = true → h = .full → recAt s k = some r → r.seq = v → recIndex s v = some k →
      ∃ t, exec (.logFree value h) s = .next t ∧
        ((∃ e ∈ s.dom.st, e.2.st ≠ 0 ∧ e.2.seq = v) → v ∈ t.log.pend ∨ recAt t k = none) ∧
        ((∀ e ∈ s.dom.st, ¬ (e.2.st ≠ 0 ∧ e.2.seq = v)) → recAt t k = none) ∧ t.log.seq = s.log.seq ∧ t.log.ce = s.log.ce) ∧
    (barOpen s = true → ∃ t, exec (.logFree value .low) s = .next t ∧ tabGet 0 t.cxl.lowWr logFreeAt = value.setWidth 32 ∧ t.log = s.log) ∧
    (writable s = true → low → s.bup.epSet = false →
      exec (.endpointId value h) s = .next { s with bup := { s.bup with epId := value.setWidth 16, epSet := true } }) ∧
    (s.bup.epSet = true → exec (.endpointId value h) s = .next s) ∧
    (∀ e : Fin 256, writable s = true → s.bup.sealed_ = false → tabGet 0 s.bup.ptLock e = 0 → tabGet 0 s.bup.pt e = 0 →
      ∃ t, exec (.ptEntry e value .full) s = .next t ∧ tabGet 0 t.bup.pt e = value &&& 0xFFFFFFFFFF ∧ tabGet 0 t.bup.ptLock e = 0xFFFFFFFFFF ∧
        (∀ k, k ≠ e.val → tabGet 0 t.bup.pt k = tabGet 0 s.bup.pt k) ∧ t = { s with bup := { s.bup with pt := t.bup.pt, ptLock := t.bup.ptLock } }) ∧
    (∀ e : Fin 256, s.bup.sealed_ = true → exec (.ptEntry e value h) s = .next s) ∧
    (writable s = true → low → value.getLsbD 0 = true → exec (.ptSeal value h) s = .next { s with bup := { s.bup with sealed_ := true } }) ∧
    (value.getLsbD 0 = false → exec (.ptSeal value h) s = .next s) ∧
    (∀ offset : Nat, writable s = true → 0x800000 ≤ offset → offset < 0x900000 →
      exec (.registerWrite offset value h) s = .refused .cxlComponent) ∧
    (∀ q : Fin 8, barOpen s = true → (queueOf s q).enable = false →
      (∃ t, exec (.registerWrite (0x20000 + 64 * q.val) value .full) s = .next t ∧ (queueOf t q).sqBase.toNat = bitsOf v 12 52 * 2 ^ 12 + (queueOf s q).sqBase.toNat % 2 ^ 12 ∧
        queueOf t q = { queueOf s q with sqBase := (queueOf t q).sqBase } ∧ ∀ k, k ≠ q.val → queueOf t k = queueOf s k) ∧
      (∃ t, exec (.registerWrite (0x20018 + 64 * q.val) value .full) s = .next t ∧ (queueOf t q).cqLine.toNat = bitsOf v 6 58 * 2 ^ 6 + (queueOf s q).cqLine.toNat % 2 ^ 6 ∧
        queueOf t q = { queueOf s q with cqLine := (queueOf t q).cqLine } ∧ ∀ k, k ≠ q.val → queueOf t k = queueOf s k)) ∧
    (∀ q : Fin 8, (queueOf s q).enable = true → ∀ o, o < 32 → exec (.registerWrite (0x20000 + 64 * q.val + o) value h) s = .next s) ∧
    (∀ offset : Nat, barUp s = true → offset < 2 ^ 24 →
      let o := offset / 8 * 8
      let w := readReg s o
      let l := tabGet 0 s.cxl.latch o
      ∃ t, exec (.lowHalfRead offset) s = .next t ∧
        (offset % 8 < 4 → t.out = .low32 o (BitVec.ofNat 32 w) :: s.out ∧ tabGet 0 t.cxl.latch o = bitsOf w 32 32 + 2 ^ 32) ∧
        (4 ≤ offset % 8 → t.out = .high32 o (BitVec.ofNat 32 (if l = 0 then bitsOf w 32 32 else l % 2 ^ 32)) :: s.out ∧
          tabGet 0 t.cxl.latch o = 0) ∧ t = { s with cxl := { s.cxl with latch := t.cxl.latch }, out := t.out }) ∧
    (∀ o : Nat, recOpen s = true → 0xC10000 ≤ o → o < 0xC20000 → o % 8 = 0 →
      ∃ t, exec (.registerWrite o value .full) s = .next t ∧ t = { s with trs := { s.trs with window := t.trs.window } } ∧
        ∀ n, memByte t.trs.window n =
          if o - 0xC10000 ≤ n ∧ n < o - 0xC10000 + 8 then BitVec.ofNat 8 (bitsOf v (8 * (n - (o - 0xC10000))) 8) else memByte s.trs.window n) ∧
    (recTakes s = true →
      let obj := bitsOf v 4 2
      let head := windowBytes s (64 * bitsOf v 16 11)
      let ended := fun (t : State) (code : Nat) => t = { s with trs := { s.trs with obj := 0, load := {}, recStat := code } }
      (∀ ok : Bool, v % 16 = 1 → ∃ t, exec (.recBegin value ok) s = .next t ∧
        (obj = 3 ∨ bitsOf v 16 11 = 0 → ended t 0x10) ∧
        (obj ≠ 3 → bitsOf v 16 11 ≠ 0 → headerVerdict s obj head ≠ 0 → ended t (headerVerdict s obj head)) ∧
        (obj ≠ 3 → bitsOf v 16 11 ≠ 0 → headerVerdict s obj head = 0 → obj = 0 → ok = false → t = { s with trs := { s.trs with
          obj := 0, load := {}, recStat := 0x15, slotOk := false } }) ∧
        (obj ≠ 3 → bitsOf v 16 11 ≠ 0 → headerVerdict s obj head = 0 → obj ≠ 0 ∨ ok = true → t = { s with trs := { s.trs with
          obj := obj + 1, load := { head := head }, recStat := 0x01, slotOk := s.trs.slotOk && obj != 0 } })) ∧
      (∀ ok : Bool, v % 16 = 2 → ∃ t, exec (.recChunk value ok) s = .next t ∧
        (s.trs.obj = 0 ∨ bitsOf v 16 11 = 0 → ended t 0x10) ∧ (s.trs.obj ≠ 0 → bitsOf v 16 11 ≠ 0 → ok = false → ended t 0x15) ∧
        (s.trs.obj ≠ 0 → bitsOf v 16 11 ≠ 0 → ok = true → t = { s with trs := { s.trs with load := { s.trs.load with
          body := (s.trs.load.body ++ head).take (objLen (s.trs.obj - 1) s.trs.load.head) } } })) ∧
      (∀ (ok : Bool) (plan : BringPlan), v % 16 = 3 →
        let x := s.trs.load
        let r := { s.trs with obj := 0, load := {}, recStat := 0x04 }
        (s.trs.obj = 0 ∨ bitsOf v 16 11 = 0 → ∃ t, exec (.recGo value ok plan) s = .next t ∧ ended t 0x10) ∧
        (s.trs.obj ≠ 0 → bitsOf v 16 11 ≠ 0 → ok = false ∨ loadWhole s.trs = false →
          ∃ t code, exec (.recGo value ok plan) s = .next t ∧ 0x10 ≤ code ∧ code ≤ 0x15 ∧ ended t code) ∧
        (bitsOf v 16 11 ≠ 0 → ok = true → loadWhole s.trs = true →
          (s.trs.obj = 1 → exec (.recGo value ok plan) s = .next (bringFrom { s with trs := { r with
            slotOk := true, image := some x, minSvn := max s.trs.minSvn (imgFloor x.head), keyRev := s.trs.keyRev ||| imgRevoke x.head } } 2 plan)) ∧
          (s.trs.obj = 2 → exec (.recGo value ok plan) s = .next (bringFrom { s with trs := { r with ident := some x.body } } 2 plan)) ∧
          (3 ≤ s.trs.obj → exec (.recGo value ok plan) s =
            .next (bringFrom { s with trs := r, yld := { s.yld with
              baseObj := some x, base := baseEntries x, baseGen := baseGenOf x.head, ext := [], kept := [], full := false } } 2 plan)))))

/-! ## Reset, and what every step keeps -/

/-- R17, R18, R554, and the Reset columns of 22: at reset MOD_ID names the part, the stepping and the register map, every field is SLEEPING, and
every other status, commit, queue, grant, log, power, pair, Bupol and field register reads 0. No command waits. -/
def Obligations.ResetValuesAreTheSpecs : Prop :=
  State.reset.pending = [] ∧ regModId State.reset = 0x01A10036 ∧ regTrust State.reset = 0 ∧ regInput State.reset = 0 ∧
    regHostPort State.reset = 0 ∧ recoveryReg State.reset 8 = 0 ∧
    (∀ o, queueReg State.reset o = 0 ∧ grantReg State.reset o = 0 ∧ powerReg State.reset o = 0 ∧ pairReg State.reset o = 0 ∧
      bupolReg State.reset o = 0 ∧ logReg State.reset o = 0) ∧
    (∀ o, o < 0x420 → commitReg State.reset o = 0) ∧
    ∀ f, f < 36 → fieldReg State.reset f 0 = 0x12 ∧ fieldReg State.reset f 8 = 0 ∧
      ∀ o, 0x100 ≤ o → o < 0x158 → fieldReg State.reset f o = 0

/-- R239, R527: at reset every addressed memory is in canonical form, no byte of it is listed, so that each reads 0, and no granule is bruised. What a
byte reads before bring-up clears the tiers is the model's choice (log 2). -/
def Obligations.MemoriesAreCanonicalAtReset : Prop :=
  MemInv State.reset ∧
    ∀ a n, dieRead State.reset a n = 0 ∧ nearRead State.reset a n = 0 ∧ farRead State.reset a n = 0 ∧ dieBruised State.reset a n = false ∧
      brAny State.reset.mem.nearBr a n = false ∧ brAny State.reset.mem.farBr a n = false

/-- Every step keeps the canonical form of the on-die, near-tier and far-tier memories and of their bruise bits, so that equal memories are equal
data. It rests on the way the model stores bytes, for R241, R278 and R281. -/
def Obligations.EveryStepKeepsTheMemoriesCanonical : Prop :=
  ∀ s t : State, MemInv s → step s = .next t → MemInv t

/-- R537, R541, R544: no step clears the revocation of a key or lowers MINSVN, and no signature index is used twice: the next index never falls,
and stays within the block whose end is committed. -/
def Obligations.TrustOnlyMovesForward : Prop :=
  ∀ s t : State, s.trs.sigNext ≤ s.trs.sigEnd → step s = .next t →
    t.trs.sigNext ≤ t.trs.sigEnd ∧ s.trs.sigNext ≤ t.trs.sigNext ∧ s.trs.minSvn ≤ t.trs.minSvn ∧
      ∀ k, s.trs.keyRev.getLsbD k = true → t.trs.keyRev.getLsbD k = true

/-- R7, R431, R434, R512, R565: once the partner table is sealed no step changes an entry, and once ENDPOINT_ID is set no step changes it, but
a step that clears the table and the identifier together. -/
def Obligations.LocksHoldUntilTheirReset : Prop :=
  ∀ s t : State, step s = .next t →
    (s.bup.sealed_ = true → (t.bup.sealed_ = true ∧ t.bup.pt = s.bup.pt) ∨
      (t.bup.sealed_ = false ∧ t.bup.pt = [] ∧ t.bup.epSet = false)) ∧
    (s.bup.epSet = true → (t.bup.epSet = true ∧ t.bup.epId = s.bup.epId) ∨
      (t.bup.sealed_ = false ∧ t.bup.pt = [] ∧ t.bup.epSet = false))
end

