-- ==== Sys2Proof/Laws/Tab.lean ====
section
/-! SUPPORT. What reads and writes of a sparse table, and of a memory, do (R5): a read after a write at the same key, at another
key, and the canonical form that every write keeps. -/

namespace Sys2Proof.Laws

open Sys2Proof.Machine

variable {α : Type}

@[simp] theorem tabGet_nil (d : α) (k : Nat) : tabGet d [] k = d := rfl

theorem tabGet_cons (d : α) (k j : Nat) (v : α) (t : Tab α) :
    tabGet d ((k, v) :: t) j = if k = j then v else tabGet d t j := rfl

/-- A read of a filtered table. -/
theorem tabGet_filter (d : α) (p : Nat → Bool) (t : Tab α) (k : Nat) :
    tabGet d (t.filter fun e => p e.1) k = if p k then tabGet d t k else d := by
  induction t with
  | nil => simp
  | cons e t ih =>
    obtain ⟨j, v⟩ := e
    by_cases hj : p j = true
    · rw [List.filter_cons_of_pos (by simpa using hj), tabGet_cons, tabGet_cons, ih]
      by_cases h : j = k
      · subst h; simp [hj]
      · simp [h]
    · rw [List.filter_cons_of_neg (by simpa using hj), tabGet_cons, ih]
      by_cases h : j = k
      · subst h; simp [hj]
      · simp [h]

/-- A read of a table with an entry put in. -/
theorem tabGet_ins (d : α) (k j : Nat) (v : α) (t : Tab α) :
    tabGet d (tabIns k v t) j = if k = j then v else tabGet d t j := by
  induction t with
  | nil => rfl
  | cons e t ih =>
    obtain ⟨i, w⟩ := e
    unfold tabIns
    split
    · rw [tabGet_cons, tabGet_cons, ih]
      by_cases hi : i = j
      · have : k ≠ j := by omega
        simp [hi, this]
      · simp [hi]
    · split
      · rename_i h
        subst h
        rw [tabGet_cons, tabGet_cons]
        by_cases hk : i = j <;> simp [hk]
      · rw [tabGet_cons]

/-- A read after a write. -/
theorem tabGet_put [DecidableEq α] (d : α) (k j : Nat) (v : α) (t : Tab α) :
    tabGet d (tabPut d k v t) j = if k = j then v else tabGet d t j := by
  unfold tabPut
  split
  · rename_i h
    rw [tabGet_filter (p := fun i => decide (i ≠ k))]
    by_cases hk : k = j
    · subst hk; simp [h]
    · have : j ≠ k := fun h => hk h.symm
      simp [hk, this]
  · exact tabGet_ins d k j v t

@[simp] theorem tabGet_put_same [DecidableEq α] (d : α) (k : Nat) (v : α) (t : Tab α) :
    tabGet d (tabPut d k v t) k = v := by simp [tabGet_put]

theorem tabGet_put_other [DecidableEq α] (d : α) {k j : Nat} (v : α) (t : Tab α) (h : k ≠ j) :
    tabGet d (tabPut d k v t) j = tabGet d t j := by simp [tabGet_put, h]

/-- A read after a change in place. -/
theorem tabGet_mod [DecidableEq α] (d : α) (k j : Nat) (f : α → α) (t : Tab α) :
    tabGet d (tabMod d k f t) j = if k = j then f (tabGet d t k) else tabGet d t j := tabGet_put d k j _ t

@[simp] theorem tabGet_mod_same [DecidableEq α] (d : α) (k : Nat) (f : α → α) (t : Tab α) :
    tabGet d (tabMod d k f t) k = f (tabGet d t k) := by simp [tabGet_mod]

theorem tabGet_mod_other [DecidableEq α] (d : α) {k j : Nat} (f : α → α) (t : Tab α) (h : k ≠ j) :
    tabGet d (tabMod d k f t) j = tabGet d t j := by simp [tabGet_mod, h]

/-! ## The canonical form -/

theorem tabWfFrom_weaken [DecidableEq α] (d : α) {a b : Nat} (h : b ≤ a) (t : Tab α) :
    tabWfFrom d (some a) t = true → tabWfFrom d (some b) t = true := by
  cases t with
  | nil => simp [tabWfFrom]
  | cons e t =>
    obtain ⟨k, v⟩ := e
    simp only [tabWfFrom, Bool.and_eq_true, decide_eq_true_eq]
    rintro ⟨⟨h1, h2⟩, h3⟩
    exact ⟨⟨by omega, h2⟩, h3⟩

theorem tabWfFrom_none [DecidableEq α] (d : α) {a : Nat} (t : Tab α) :
    tabWfFrom d (some a) t = true → tabWfFrom d none t = true := by
  cases t with
  | nil => simp [tabWfFrom]
  | cons e t =>
    obtain ⟨k, v⟩ := e
    simp only [tabWfFrom, Bool.and_eq_true, decide_eq_true_eq]
    rintro ⟨⟨_, h2⟩, h3⟩
    exact ⟨⟨trivial, h2⟩, h3⟩

theorem tabWfFrom_filter [DecidableEq α] (d : α) (p : Nat × α → Bool) (t : Tab α) (a : Nat) :
    tabWfFrom d (some a) t = true → tabWfFrom d (some a) (t.filter p) = true := by
  induction t generalizing a with
  | nil => simp [tabWfFrom]
  | cons e t ih =>
    obtain ⟨k, v⟩ := e
    simp only [tabWfFrom, Bool.and_eq_true, decide_eq_true_eq]
    rintro ⟨⟨h1, h2⟩, h3⟩
    rw [List.filter_cons]
    split
    · simp only [tabWfFrom, Bool.and_eq_true, decide_eq_true_eq]
      exact ⟨⟨h1, h2⟩, ih k h3⟩
    · exact tabWfFrom_weaken d (by omega) _ (ih k h3)

/-- Dropping entries keeps the canonical form. -/
theorem tabWf_filter [DecidableEq α] (d : α) (p : Nat × α → Bool) (t : Tab α) (h : tabWf d t = true) :
    tabWf d (t.filter p) = true := by
  cases t with
  | nil => exact h
  | cons e t =>
    obtain ⟨k, v⟩ := e
    simp only [tabWf, tabWfFrom, Bool.and_eq_true, decide_eq_true_eq] at h
    rw [List.filter_cons]
    split
    · simp only [tabWf, tabWfFrom, Bool.and_eq_true, decide_eq_true_eq]
      exact ⟨⟨trivial, h.1.2⟩, tabWfFrom_filter d p t k h.2⟩
    · exact tabWfFrom_none d _ (tabWfFrom_filter d p t k h.2)

theorem tabWfFrom_ins [DecidableEq α] (d : α) {k a : Nat} {v : α} (hv : v ≠ d) (ha : a < k) (t : Tab α) :
    tabWfFrom d (some a) t = true → tabWfFrom d (some a) (tabIns k v t) = true := by
  induction t generalizing a with
  | nil => simp [tabIns, tabWfFrom, hv, ha]
  | cons e t ih =>
    obtain ⟨j, w⟩ := e
    simp only [tabWfFrom, Bool.and_eq_true, decide_eq_true_eq]
    rintro ⟨⟨h1, h2⟩, h3⟩
    unfold tabIns
    split
    · rename_i hj
      simp only [tabWfFrom, Bool.and_eq_true, decide_eq_true_eq]
      exact ⟨⟨h1, h2⟩, ih hj h3⟩
    · split
      · rename_i hj
        subst hj
        simp only [tabWfFrom, Bool.and_eq_true, decide_eq_true_eq]
        exact ⟨⟨h1, hv⟩, h3⟩
      · simp only [tabWfFrom, Bool.and_eq_true, decide_eq_true_eq]
        exact ⟨⟨ha, hv⟩, ⟨by omega, h2⟩, h3⟩

/-- A write keeps the canonical form. -/
theorem tabWf_put [DecidableEq α] (d : α) (k : Nat) (v : α) (t : Tab α) (h : tabWf d t = true) :
    tabWf d (tabPut d k v t) = true := by
  unfold tabPut
  split
  · exact tabWf_filter d _ t h
  · rename_i hv
    cases t with
    | nil => simp [tabWf, tabIns, tabWfFrom, hv]
    | cons e t =>
      obtain ⟨j, w⟩ := e
      simp only [tabWf, tabWfFrom, Bool.and_eq_true, decide_eq_true_eq] at h
      unfold tabIns
      split
      · rename_i hj
        simp only [tabWf, tabWfFrom, Bool.and_eq_true, decide_eq_true_eq]
        exact ⟨⟨trivial, h.1.2⟩, tabWfFrom_ins d hv hj t h.2⟩
      · split
        · rename_i hj
          subst hj
          simp only [tabWf, tabWfFrom, Bool.and_eq_true, decide_eq_true_eq]
          exact ⟨⟨trivial, hv⟩, h.2⟩
        · simp only [tabWf, tabWfFrom, Bool.and_eq_true, decide_eq_true_eq]
          exact ⟨⟨trivial, hv⟩, ⟨by omega, h.1.2⟩, h.2⟩

/-- A change in place keeps the canonical form. -/
theorem tabWf_mod [DecidableEq α] (d : α) (k : Nat) (f : α → α) (t : Tab α) (h : tabWf d t = true) :
    tabWf d (tabMod d k f t) = true := tabWf_put d k _ t h

theorem tabWf_clear [DecidableEq α] (d : α) (lo n : Nat) (t : Tab α) (h : tabWf d t = true) :
    tabWf d (tabClear lo n t) = true := tabWf_filter d _ t h

theorem tabWf_keep [DecidableEq α] (d : α) (p : Nat → Bool) (t : Tab α) (h : tabWf d t = true) :
    tabWf d (tabKeep p t) = true := tabWf_filter d _ t h

theorem tabWf_fill [DecidableEq α] (d : α) (f : Nat → α) (lo n : Nat) (t : Tab α) (h : tabWf d t = true) :
    tabWf d (tabFill d f lo n t) = true := by
  induction n generalizing t with
  | zero => exact h
  | succ n ih => exact ih _ (tabWf_put d _ _ t h)

/-- A fold of steps that keep the canonical form keeps it. -/
theorem tabWf_foldl {β : Type} [DecidableEq α] (d : α) (g : Tab α → β → Tab α) (hg : ∀ t b, tabWf d t = true → tabWf d (g t b) = true)
    (l : List β) (t : Tab α) (h : tabWf d t = true) : tabWf d (l.foldl g t) = true := by
  induction l generalizing t with
  | nil => exact h
  | cons b l ih => exact ih _ (hg t b h)

/-! ## Memories -/

theorem memByte_put (m : List Host.Cell) (a x : Nat) (b : Byte) :
    memByte (memPut m a b) x = if a = x then b else memByte m x := tabGet_put 0 a x b m

/-- A byte outside the bytes stored reads as before. -/
theorem memByte_write_outside (m : List Host.Cell) (a n v x : Nat) (h : x < a ∨ a + n ≤ x) :
    memByte (memWrite m a n v) x = memByte m x := by
  induction n generalizing m a v with
  | zero => rfl
  | succ n ih =>
    show memByte (memWrite (memPut m a (BitVec.ofNat 8 v)) (a + 1) n (v / 256)) x = _
    rw [ih _ _ _ (by omega), memByte_put]
    split
    · omega
    · rfl

/-- Bytes stored read back (R5). -/
theorem memByte_write_inside (m : List Host.Cell) (a n v i : Nat) (h : i < n) :
    memByte (memWrite m a n v) (a + i) = BitVec.ofNat 8 (v / 256 ^ i) := by
  induction n generalizing m a v i with
  | zero => omega
  | succ n ih =>
    show memByte (memWrite (memPut m a (BitVec.ofNat 8 v)) (a + 1) n (v / 256)) (a + i) = _
    cases i with
    | zero => rw [memByte_write_outside _ _ _ _ _ (by omega), memByte_put]; simp
    | succ i =>
      rw [show a + (i + 1) = (a + 1) + i by omega, ih _ _ _ _ (by omega), Nat.div_div_eq_div_mul, Nat.pow_succ, Nat.mul_comm]

/-- A read of bytes that do not overlap those stored. -/
theorem memRead_write_outside (m : List Host.Cell) (a n v b k : Nat) (h : b + k ≤ a ∨ a + n ≤ b) :
    memRead (memWrite m a n v) b k = memRead m b k := by
  induction k generalizing b with
  | zero => rfl
  | succ k ih =>
    simp only [memRead]
    rw [memByte_write_outside _ _ _ _ _ (by omega), ih _ (by omega)]

/-- Byte `i` of the number that `n` bytes make. -/
theorem memByte_of_memRead (m : List Host.Cell) (a n i : Nat) (h : i < n) :
    BitVec.ofNat 8 (memRead m a n / 256 ^ i) = memByte m (a + i) := by
  induction n generalizing a i with
  | zero => omega
  | succ n ih =>
    simp only [memRead]
    have hb := (memByte m a).isLt
    cases i with
    | zero =>
      apply BitVec.eq_of_toNat_eq
      simp only [BitVec.toNat_ofNat, Nat.pow_zero, Nat.div_one, Nat.add_zero]
      omega
    | succ i =>
      rw [Nat.pow_succ', ← Nat.div_div_eq_div_mul, show ((memByte m a).toNat + 256 * memRead m (a + 1) n) / 256 = memRead m (a + 1) n by omega,
        ih _ _ (by omega), show a + 1 + i = a + (i + 1) by omega]

/-- A number stored reads back modulo its width (R5). -/
theorem memRead_write (m : List Host.Cell) (a n v : Nat) : memRead (memWrite m a n v) a n = v % 256 ^ n := by
  have key : ∀ k j, j + k = n → memRead (memWrite m a n v) (a + j) k = v / 256 ^ j % 256 ^ k := by
    intro k
    induction k with
    | zero => intro j _; simp [memRead, Nat.mod_one]
    | succ k ih =>
      intro j hj
      simp only [memRead]
      rw [memByte_write_inside _ _ _ _ _ (by omega), show a + j + 1 = a + (j + 1) by omega, ih (j + 1) (by omega)]
      rw [BitVec.toNat_ofNat, Nat.pow_succ 256 j, ← Nat.div_div_eq_div_mul, Nat.pow_succ 256 k, Nat.mul_comm (256 ^ k) 256, Nat.mod_mul]
  have := key n 0 (by omega)
  simpa using this

theorem memWf_put (m : List Host.Cell) (a : Nat) (b : Byte) (h : memWf m = true) : memWf (memPut m a b) = true := tabWf_put 0 a b m h

theorem memWf_write (m : List Host.Cell) (a n v : Nat) (h : memWf m = true) : memWf (memWrite m a n v) = true := by
  induction n generalizing m a v with
  | zero => exact h
  | succ n ih => exact ih _ _ _ (memWf_put m a _ h)

theorem memWf_clear (m : List Host.Cell) (a n : Nat) (h : memWf m = true) : memWf (memClear m a n) = true := tabWf_clear 0 a n m h

theorem brWf_set (br : Tab Bool) (g : Nat) (b : Bool) (h : tabWf false br = true) : tabWf false (brSet br g b) = true :=
  tabWf_put false g b br h

theorem brWf_fill (br : Tab Bool) (a n : Nat) (b : Bool) (h : tabWf false br = true) : tabWf false (brFill br a n b) = true :=
  tabWf_foldl false _ (fun t g ht => brWf_set t g b ht) _ br h

theorem brWf_store (br : Tab Bool) (a n : Nat) (b : Bool) (h : tabWf false br = true) : tabWf false (brStore br a n b) = true := by
  refine tabWf_foldl false _ (fun t g ht => ?_) _ br h
  split
  · exact brWf_set t g true ht
  · split
    · exact brWf_set t g false ht
    · exact ht

end Sys2Proof.Laws
end

