-- ==== Sys2Proof/Laws/State.lean ====
section
/-! SUPPORT. What each update of one part of the state leaves of the state: one lemma for each top-level field and each update, true by
unfolding, and the part itself after the update. -/

namespace Sys2Proof.Laws

open Sys2Proof.Machine

variable (s : State)

@[simp] theorem modField_pending (f : Nat) (g : Field → Field) : (modField s f g).pending = s.pending := rfl
@[simp] theorem modField_inp (f : Nat) (g : Field → Field) : (modField s f g).inp = s.inp := rfl
@[simp] theorem modField_clk (f : Nat) (g : Field → Field) : (modField s f g).clk = s.clk := rfl
@[simp] theorem modField_com (f : Nat) (g : Field → Field) : (modField s f g).com = s.com := rfl
@[simp] theorem modField_cor (f : Nat) (g : Field → Field) : (modField s f g).cor = s.cor := rfl
@[simp] theorem modField_mem (f : Nat) (g : Field → Field) : (modField s f g).mem = s.mem := rfl
@[simp] theorem modField_job (f : Nat) (g : Field → Field) : (modField s f g).job = s.job := rfl
@[simp] theorem modField_lastJob (f : Nat) (g : Field → Field) : (modField s f g).lastJob = s.lastJob := rfl
@[simp] theorem modField_log (f : Nat) (g : Field → Field) : (modField s f g).log = s.log := rfl
@[simp] theorem modField_dom (f : Nat) (g : Field → Field) : (modField s f g).dom = s.dom := rfl
@[simp] theorem modField_yld (f : Nat) (g : Field → Field) : (modField s f g).yld = s.yld := rfl
@[simp] theorem modField_pair (f : Nat) (g : Field → Field) : (modField s f g).pair = s.pair := rfl
@[simp] theorem modField_bup (f : Nat) (g : Field → Field) : (modField s f g).bup = s.bup := rfl
@[simp] theorem modField_cxl (f : Nat) (g : Field → Field) : (modField s f g).cxl = s.cxl := rfl
@[simp] theorem modField_pow (f : Nat) (g : Field → Field) : (modField s f g).pow = s.pow := rfl
@[simp] theorem modField_brg (f : Nat) (g : Field → Field) : (modField s f g).brg = s.brg := rfl
@[simp] theorem modField_pith (f : Nat) (g : Field → Field) : (modField s f g).pith = s.pith := rfl
@[simp] theorem modField_trs (f : Nat) (g : Field → Field) : (modField s f g).trs = s.trs := rfl
@[simp] theorem modField_stem (f : Nat) (g : Field → Field) : (modField s f g).stem = s.stem := rfl
@[simp] theorem modField_out (f : Nat) (g : Field → Field) : (modField s f g).out = s.out := rfl
@[simp] theorem modField_free (f : Nat) (g : Field → Field) : (modField s f g).free = s.free := rfl

@[simp] theorem modCore_pending (k : Nat) (g : Core → Core) : (modCore s k g).pending = s.pending := rfl
@[simp] theorem modCore_inp (k : Nat) (g : Core → Core) : (modCore s k g).inp = s.inp := rfl
@[simp] theorem modCore_clk (k : Nat) (g : Core → Core) : (modCore s k g).clk = s.clk := rfl
@[simp] theorem modCore_com (k : Nat) (g : Core → Core) : (modCore s k g).com = s.com := rfl
@[simp] theorem modCore_fld (k : Nat) (g : Core → Core) : (modCore s k g).fld = s.fld := rfl
@[simp] theorem modCore_mem (k : Nat) (g : Core → Core) : (modCore s k g).mem = s.mem := rfl
@[simp] theorem modCore_job (k : Nat) (g : Core → Core) : (modCore s k g).job = s.job := rfl
@[simp] theorem modCore_lastJob (k : Nat) (g : Core → Core) : (modCore s k g).lastJob = s.lastJob := rfl
@[simp] theorem modCore_log (k : Nat) (g : Core → Core) : (modCore s k g).log = s.log := rfl
@[simp] theorem modCore_dom (k : Nat) (g : Core → Core) : (modCore s k g).dom = s.dom := rfl
@[simp] theorem modCore_yld (k : Nat) (g : Core → Core) : (modCore s k g).yld = s.yld := rfl
@[simp] theorem modCore_pair (k : Nat) (g : Core → Core) : (modCore s k g).pair = s.pair := rfl
@[simp] theorem modCore_bup (k : Nat) (g : Core → Core) : (modCore s k g).bup = s.bup := rfl
@[simp] theorem modCore_cxl (k : Nat) (g : Core → Core) : (modCore s k g).cxl = s.cxl := rfl
@[simp] theorem modCore_pow (k : Nat) (g : Core → Core) : (modCore s k g).pow = s.pow := rfl
@[simp] theorem modCore_brg (k : Nat) (g : Core → Core) : (modCore s k g).brg = s.brg := rfl
@[simp] theorem modCore_pith (k : Nat) (g : Core → Core) : (modCore s k g).pith = s.pith := rfl
@[simp] theorem modCore_trs (k : Nat) (g : Core → Core) : (modCore s k g).trs = s.trs := rfl
@[simp] theorem modCore_stem (k : Nat) (g : Core → Core) : (modCore s k g).stem = s.stem := rfl
@[simp] theorem modCore_out (k : Nat) (g : Core → Core) : (modCore s k g).out = s.out := rfl
@[simp] theorem modCore_free (k : Nat) (g : Core → Core) : (modCore s k g).free = s.free := rfl

@[simp] theorem modJob_pending (a : Nat) (g : Job → Job) : (modJob s a g).pending = s.pending := rfl
@[simp] theorem modJob_inp (a : Nat) (g : Job → Job) : (modJob s a g).inp = s.inp := rfl
@[simp] theorem modJob_clk (a : Nat) (g : Job → Job) : (modJob s a g).clk = s.clk := rfl
@[simp] theorem modJob_com (a : Nat) (g : Job → Job) : (modJob s a g).com = s.com := rfl
@[simp] theorem modJob_fld (a : Nat) (g : Job → Job) : (modJob s a g).fld = s.fld := rfl
@[simp] theorem modJob_cor (a : Nat) (g : Job → Job) : (modJob s a g).cor = s.cor := rfl
@[simp] theorem modJob_mem (a : Nat) (g : Job → Job) : (modJob s a g).mem = s.mem := rfl
@[simp] theorem modJob_lastJob (a : Nat) (g : Job → Job) : (modJob s a g).lastJob = s.lastJob := rfl
@[simp] theorem modJob_log (a : Nat) (g : Job → Job) : (modJob s a g).log = s.log := rfl
@[simp] theorem modJob_dom (a : Nat) (g : Job → Job) : (modJob s a g).dom = s.dom := rfl
@[simp] theorem modJob_yld (a : Nat) (g : Job → Job) : (modJob s a g).yld = s.yld := rfl
@[simp] theorem modJob_pair (a : Nat) (g : Job → Job) : (modJob s a g).pair = s.pair := rfl
@[simp] theorem modJob_bup (a : Nat) (g : Job → Job) : (modJob s a g).bup = s.bup := rfl
@[simp] theorem modJob_cxl (a : Nat) (g : Job → Job) : (modJob s a g).cxl = s.cxl := rfl
@[simp] theorem modJob_pow (a : Nat) (g : Job → Job) : (modJob s a g).pow = s.pow := rfl
@[simp] theorem modJob_brg (a : Nat) (g : Job → Job) : (modJob s a g).brg = s.brg := rfl
@[simp] theorem modJob_pith (a : Nat) (g : Job → Job) : (modJob s a g).pith = s.pith := rfl
@[simp] theorem modJob_trs (a : Nat) (g : Job → Job) : (modJob s a g).trs = s.trs := rfl
@[simp] theorem modJob_stem (a : Nat) (g : Job → Job) : (modJob s a g).stem = s.stem := rfl
@[simp] theorem modJob_out (a : Nat) (g : Job → Job) : (modJob s a g).out = s.out := rfl
@[simp] theorem modJob_free (a : Nat) (g : Job → Job) : (modJob s a g).free = s.free := rfl

@[simp] theorem modPort_pending (p : Nat) (g : Port → Port) : (modPort s p g).pending = s.pending := rfl
@[simp] theorem modPort_inp (p : Nat) (g : Port → Port) : (modPort s p g).inp = s.inp := rfl
@[simp] theorem modPort_clk (p : Nat) (g : Port → Port) : (modPort s p g).clk = s.clk := rfl
@[simp] theorem modPort_com (p : Nat) (g : Port → Port) : (modPort s p g).com = s.com := rfl
@[simp] theorem modPort_fld (p : Nat) (g : Port → Port) : (modPort s p g).fld = s.fld := rfl
@[simp] theorem modPort_cor (p : Nat) (g : Port → Port) : (modPort s p g).cor = s.cor := rfl
@[simp] theorem modPort_mem (p : Nat) (g : Port → Port) : (modPort s p g).mem = s.mem := rfl
@[simp] theorem modPort_job (p : Nat) (g : Port → Port) : (modPort s p g).job = s.job := rfl
@[simp] theorem modPort_lastJob (p : Nat) (g : Port → Port) : (modPort s p g).lastJob = s.lastJob := rfl
@[simp] theorem modPort_log (p : Nat) (g : Port → Port) : (modPort s p g).log = s.log := rfl
@[simp] theorem modPort_dom (p : Nat) (g : Port → Port) : (modPort s p g).dom = s.dom := rfl
@[simp] theorem modPort_yld (p : Nat) (g : Port → Port) : (modPort s p g).yld = s.yld := rfl
@[simp] theorem modPort_pair (p : Nat) (g : Port → Port) : (modPort s p g).pair = s.pair := rfl
@[simp] theorem modPort_cxl (p : Nat) (g : Port → Port) : (modPort s p g).cxl = s.cxl := rfl
@[simp] theorem modPort_pow (p : Nat) (g : Port → Port) : (modPort s p g).pow = s.pow := rfl
@[simp] theorem modPort_brg (p : Nat) (g : Port → Port) : (modPort s p g).brg = s.brg := rfl
@[simp] theorem modPort_pith (p : Nat) (g : Port → Port) : (modPort s p g).pith = s.pith := rfl
@[simp] theorem modPort_trs (p : Nat) (g : Port → Port) : (modPort s p g).trs = s.trs := rfl
@[simp] theorem modPort_stem (p : Nat) (g : Port → Port) : (modPort s p g).stem = s.stem := rfl
@[simp] theorem modPort_out (p : Nat) (g : Port → Port) : (modPort s p g).out = s.out := rfl
@[simp] theorem modPort_free (p : Nat) (g : Port → Port) : (modPort s p g).free = s.free := rfl

@[simp] theorem modCtx_pending (x : Nat) (g : Ctx → Ctx) : (modCtx s x g).pending = s.pending := rfl
@[simp] theorem modCtx_inp (x : Nat) (g : Ctx → Ctx) : (modCtx s x g).inp = s.inp := rfl
@[simp] theorem modCtx_clk (x : Nat) (g : Ctx → Ctx) : (modCtx s x g).clk = s.clk := rfl
@[simp] theorem modCtx_com (x : Nat) (g : Ctx → Ctx) : (modCtx s x g).com = s.com := rfl
@[simp] theorem modCtx_fld (x : Nat) (g : Ctx → Ctx) : (modCtx s x g).fld = s.fld := rfl
@[simp] theorem modCtx_cor (x : Nat) (g : Ctx → Ctx) : (modCtx s x g).cor = s.cor := rfl
@[simp] theorem modCtx_mem (x : Nat) (g : Ctx → Ctx) : (modCtx s x g).mem = s.mem := rfl
@[simp] theorem modCtx_job (x : Nat) (g : Ctx → Ctx) : (modCtx s x g).job = s.job := rfl
@[simp] theorem modCtx_lastJob (x : Nat) (g : Ctx → Ctx) : (modCtx s x g).lastJob = s.lastJob := rfl
@[simp] theorem modCtx_log (x : Nat) (g : Ctx → Ctx) : (modCtx s x g).log = s.log := rfl
@[simp] theorem modCtx_dom (x : Nat) (g : Ctx → Ctx) : (modCtx s x g).dom = s.dom := rfl
@[simp] theorem modCtx_yld (x : Nat) (g : Ctx → Ctx) : (modCtx s x g).yld = s.yld := rfl
@[simp] theorem modCtx_pair (x : Nat) (g : Ctx → Ctx) : (modCtx s x g).pair = s.pair := rfl
@[simp] theorem modCtx_cxl (x : Nat) (g : Ctx → Ctx) : (modCtx s x g).cxl = s.cxl := rfl
@[simp] theorem modCtx_pow (x : Nat) (g : Ctx → Ctx) : (modCtx s x g).pow = s.pow := rfl
@[simp] theorem modCtx_brg (x : Nat) (g : Ctx → Ctx) : (modCtx s x g).brg = s.brg := rfl
@[simp] theorem modCtx_pith (x : Nat) (g : Ctx → Ctx) : (modCtx s x g).pith = s.pith := rfl
@[simp] theorem modCtx_trs (x : Nat) (g : Ctx → Ctx) : (modCtx s x g).trs = s.trs := rfl
@[simp] theorem modCtx_stem (x : Nat) (g : Ctx → Ctx) : (modCtx s x g).stem = s.stem := rfl
@[simp] theorem modCtx_out (x : Nat) (g : Ctx → Ctx) : (modCtx s x g).out = s.out := rfl
@[simp] theorem modCtx_free (x : Nat) (g : Ctx → Ctx) : (modCtx s x g).free = s.free := rfl

@[simp] theorem modQueue_pending (q : Nat) (g : Queue → Queue) : (modQueue s q g).pending = s.pending := rfl
@[simp] theorem modQueue_inp (q : Nat) (g : Queue → Queue) : (modQueue s q g).inp = s.inp := rfl
@[simp] theorem modQueue_clk (q : Nat) (g : Queue → Queue) : (modQueue s q g).clk = s.clk := rfl
@[simp] theorem modQueue_com (q : Nat) (g : Queue → Queue) : (modQueue s q g).com = s.com := rfl
@[simp] theorem modQueue_fld (q : Nat) (g : Queue → Queue) : (modQueue s q g).fld = s.fld := rfl
@[simp] theorem modQueue_cor (q : Nat) (g : Queue → Queue) : (modQueue s q g).cor = s.cor := rfl
@[simp] theorem modQueue_mem (q : Nat) (g : Queue → Queue) : (modQueue s q g).mem = s.mem := rfl
@[simp] theorem modQueue_job (q : Nat) (g : Queue → Queue) : (modQueue s q g).job = s.job := rfl
@[simp] theorem modQueue_lastJob (q : Nat) (g : Queue → Queue) : (modQueue s q g).lastJob = s.lastJob := rfl
@[simp] theorem modQueue_log (q : Nat) (g : Queue → Queue) : (modQueue s q g).log = s.log := rfl
@[simp] theorem modQueue_dom (q : Nat) (g : Queue → Queue) : (modQueue s q g).dom = s.dom := rfl
@[simp] theorem modQueue_yld (q : Nat) (g : Queue → Queue) : (modQueue s q g).yld = s.yld := rfl
@[simp] theorem modQueue_pair (q : Nat) (g : Queue → Queue) : (modQueue s q g).pair = s.pair := rfl
@[simp] theorem modQueue_bup (q : Nat) (g : Queue → Queue) : (modQueue s q g).bup = s.bup := rfl
@[simp] theorem modQueue_pow (q : Nat) (g : Queue → Queue) : (modQueue s q g).pow = s.pow := rfl
@[simp] theorem modQueue_brg (q : Nat) (g : Queue → Queue) : (modQueue s q g).brg = s.brg := rfl
@[simp] theorem modQueue_pith (q : Nat) (g : Queue → Queue) : (modQueue s q g).pith = s.pith := rfl
@[simp] theorem modQueue_trs (q : Nat) (g : Queue → Queue) : (modQueue s q g).trs = s.trs := rfl
@[simp] theorem modQueue_stem (q : Nat) (g : Queue → Queue) : (modQueue s q g).stem = s.stem := rfl
@[simp] theorem modQueue_out (q : Nat) (g : Queue → Queue) : (modQueue s q g).out = s.out := rfl
@[simp] theorem modQueue_free (q : Nat) (g : Queue → Queue) : (modQueue s q g).free = s.free := rfl

@[simp] theorem modGrant_pending (n : Nat) (h : Grant → Grant) : (modGrant s n h).pending = s.pending := rfl
@[simp] theorem modGrant_inp (n : Nat) (h : Grant → Grant) : (modGrant s n h).inp = s.inp := rfl
@[simp] theorem modGrant_clk (n : Nat) (h : Grant → Grant) : (modGrant s n h).clk = s.clk := rfl
@[simp] theorem modGrant_com (n : Nat) (h : Grant → Grant) : (modGrant s n h).com = s.com := rfl
@[simp] theorem modGrant_fld (n : Nat) (h : Grant → Grant) : (modGrant s n h).fld = s.fld := rfl
@[simp] theorem modGrant_cor (n : Nat) (h : Grant → Grant) : (modGrant s n h).cor = s.cor := rfl
@[simp] theorem modGrant_mem (n : Nat) (h : Grant → Grant) : (modGrant s n h).mem = s.mem := rfl
@[simp] theorem modGrant_job (n : Nat) (h : Grant → Grant) : (modGrant s n h).job = s.job := rfl
@[simp] theorem modGrant_lastJob (n : Nat) (h : Grant → Grant) : (modGrant s n h).lastJob = s.lastJob := rfl
@[simp] theorem modGrant_log (n : Nat) (h : Grant → Grant) : (modGrant s n h).log = s.log := rfl
@[simp] theorem modGrant_dom (n : Nat) (h : Grant → Grant) : (modGrant s n h).dom = s.dom := rfl
@[simp] theorem modGrant_yld (n : Nat) (h : Grant → Grant) : (modGrant s n h).yld = s.yld := rfl
@[simp] theorem modGrant_pair (n : Nat) (h : Grant → Grant) : (modGrant s n h).pair = s.pair := rfl
@[simp] theorem modGrant_bup (n : Nat) (h : Grant → Grant) : (modGrant s n h).bup = s.bup := rfl
@[simp] theorem modGrant_pow (n : Nat) (h : Grant → Grant) : (modGrant s n h).pow = s.pow := rfl
@[simp] theorem modGrant_brg (n : Nat) (h : Grant → Grant) : (modGrant s n h).brg = s.brg := rfl
@[simp] theorem modGrant_pith (n : Nat) (h : Grant → Grant) : (modGrant s n h).pith = s.pith := rfl
@[simp] theorem modGrant_trs (n : Nat) (h : Grant → Grant) : (modGrant s n h).trs = s.trs := rfl
@[simp] theorem modGrant_stem (n : Nat) (h : Grant → Grant) : (modGrant s n h).stem = s.stem := rfl
@[simp] theorem modGrant_out (n : Nat) (h : Grant → Grant) : (modGrant s n h).out = s.out := rfl
@[simp] theorem modGrant_free (n : Nat) (h : Grant → Grant) : (modGrant s n h).free = s.free := rfl

@[simp] theorem modCxlPort_pending (p : Nat) (g : CxlPort → CxlPort) : (modCxlPort s p g).pending = s.pending := rfl
@[simp] theorem modCxlPort_inp (p : Nat) (g : CxlPort → CxlPort) : (modCxlPort s p g).inp = s.inp := rfl
@[simp] theorem modCxlPort_clk (p : Nat) (g : CxlPort → CxlPort) : (modCxlPort s p g).clk = s.clk := rfl
@[simp] theorem modCxlPort_com (p : Nat) (g : CxlPort → CxlPort) : (modCxlPort s p g).com = s.com := rfl
@[simp] theorem modCxlPort_fld (p : Nat) (g : CxlPort → CxlPort) : (modCxlPort s p g).fld = s.fld := rfl
@[simp] theorem modCxlPort_cor (p : Nat) (g : CxlPort → CxlPort) : (modCxlPort s p g).cor = s.cor := rfl
@[simp] theorem modCxlPort_mem (p : Nat) (g : CxlPort → CxlPort) : (modCxlPort s p g).mem = s.mem := rfl
@[simp] theorem modCxlPort_job (p : Nat) (g : CxlPort → CxlPort) : (modCxlPort s p g).job = s.job := rfl
@[simp] theorem modCxlPort_lastJob (p : Nat) (g : CxlPort → CxlPort) : (modCxlPort s p g).lastJob = s.lastJob := rfl
@[simp] theorem modCxlPort_log (p : Nat) (g : CxlPort → CxlPort) : (modCxlPort s p g).log = s.log := rfl
@[simp] theorem modCxlPort_dom (p : Nat) (g : CxlPort → CxlPort) : (modCxlPort s p g).dom = s.dom := rfl
@[simp] theorem modCxlPort_yld (p : Nat) (g : CxlPort → CxlPort) : (modCxlPort s p g).yld = s.yld := rfl
@[simp] theorem modCxlPort_pair (p : Nat) (g : CxlPort → CxlPort) : (modCxlPort s p g).pair = s.pair := rfl
@[simp] theorem modCxlPort_bup (p : Nat) (g : CxlPort → CxlPort) : (modCxlPort s p g).bup = s.bup := rfl
@[simp] theorem modCxlPort_pow (p : Nat) (g : CxlPort → CxlPort) : (modCxlPort s p g).pow = s.pow := rfl
@[simp] theorem modCxlPort_brg (p : Nat) (g : CxlPort → CxlPort) : (modCxlPort s p g).brg = s.brg := rfl
@[simp] theorem modCxlPort_pith (p : Nat) (g : CxlPort → CxlPort) : (modCxlPort s p g).pith = s.pith := rfl
@[simp] theorem modCxlPort_trs (p : Nat) (g : CxlPort → CxlPort) : (modCxlPort s p g).trs = s.trs := rfl
@[simp] theorem modCxlPort_stem (p : Nat) (g : CxlPort → CxlPort) : (modCxlPort s p g).stem = s.stem := rfl
@[simp] theorem modCxlPort_out (p : Nat) (g : CxlPort → CxlPort) : (modCxlPort s p g).out = s.out := rfl
@[simp] theorem modCxlPort_free (p : Nat) (g : CxlPort → CxlPort) : (modCxlPort s p g).free = s.free := rfl

@[simp] theorem modSlice_pending (i : Nat) (g : Slice → Slice) : (modSlice s i g).pending = s.pending := rfl
@[simp] theorem modSlice_inp (i : Nat) (g : Slice → Slice) : (modSlice s i g).inp = s.inp := rfl
@[simp] theorem modSlice_clk (i : Nat) (g : Slice → Slice) : (modSlice s i g).clk = s.clk := rfl
@[simp] theorem modSlice_com (i : Nat) (g : Slice → Slice) : (modSlice s i g).com = s.com := rfl
@[simp] theorem modSlice_fld (i : Nat) (g : Slice → Slice) : (modSlice s i g).fld = s.fld := rfl
@[simp] theorem modSlice_cor (i : Nat) (g : Slice → Slice) : (modSlice s i g).cor = s.cor := rfl
@[simp] theorem modSlice_mem (i : Nat) (g : Slice → Slice) : (modSlice s i g).mem = s.mem := rfl
@[simp] theorem modSlice_job (i : Nat) (g : Slice → Slice) : (modSlice s i g).job = s.job := rfl
@[simp] theorem modSlice_lastJob (i : Nat) (g : Slice → Slice) : (modSlice s i g).lastJob = s.lastJob := rfl
@[simp] theorem modSlice_log (i : Nat) (g : Slice → Slice) : (modSlice s i g).log = s.log := rfl
@[simp] theorem modSlice_dom (i : Nat) (g : Slice → Slice) : (modSlice s i g).dom = s.dom := rfl
@[simp] theorem modSlice_yld (i : Nat) (g : Slice → Slice) : (modSlice s i g).yld = s.yld := rfl
@[simp] theorem modSlice_bup (i : Nat) (g : Slice → Slice) : (modSlice s i g).bup = s.bup := rfl
@[simp] theorem modSlice_cxl (i : Nat) (g : Slice → Slice) : (modSlice s i g).cxl = s.cxl := rfl
@[simp] theorem modSlice_pow (i : Nat) (g : Slice → Slice) : (modSlice s i g).pow = s.pow := rfl
@[simp] theorem modSlice_brg (i : Nat) (g : Slice → Slice) : (modSlice s i g).brg = s.brg := rfl
@[simp] theorem modSlice_pith (i : Nat) (g : Slice → Slice) : (modSlice s i g).pith = s.pith := rfl
@[simp] theorem modSlice_trs (i : Nat) (g : Slice → Slice) : (modSlice s i g).trs = s.trs := rfl
@[simp] theorem modSlice_stem (i : Nat) (g : Slice → Slice) : (modSlice s i g).stem = s.stem := rfl
@[simp] theorem modSlice_out (i : Nat) (g : Slice → Slice) : (modSlice s i g).out = s.out := rfl
@[simp] theorem modSlice_free (i : Nat) (g : Slice → Slice) : (modSlice s i g).free = s.free := rfl

@[simp] theorem modCond_pending (f : Nat) (g : FieldCond → FieldCond) : (modCond s f g).pending = s.pending := rfl
@[simp] theorem modCond_inp (f : Nat) (g : FieldCond → FieldCond) : (modCond s f g).inp = s.inp := rfl
@[simp] theorem modCond_clk (f : Nat) (g : FieldCond → FieldCond) : (modCond s f g).clk = s.clk := rfl
@[simp] theorem modCond_com (f : Nat) (g : FieldCond → FieldCond) : (modCond s f g).com = s.com := rfl
@[simp] theorem modCond_cor (f : Nat) (g : FieldCond → FieldCond) : (modCond s f g).cor = s.cor := rfl
@[simp] theorem modCond_mem (f : Nat) (g : FieldCond → FieldCond) : (modCond s f g).mem = s.mem := rfl
@[simp] theorem modCond_job (f : Nat) (g : FieldCond → FieldCond) : (modCond s f g).job = s.job := rfl
@[simp] theorem modCond_lastJob (f : Nat) (g : FieldCond → FieldCond) : (modCond s f g).lastJob = s.lastJob := rfl
@[simp] theorem modCond_log (f : Nat) (g : FieldCond → FieldCond) : (modCond s f g).log = s.log := rfl
@[simp] theorem modCond_dom (f : Nat) (g : FieldCond → FieldCond) : (modCond s f g).dom = s.dom := rfl
@[simp] theorem modCond_yld (f : Nat) (g : FieldCond → FieldCond) : (modCond s f g).yld = s.yld := rfl
@[simp] theorem modCond_pair (f : Nat) (g : FieldCond → FieldCond) : (modCond s f g).pair = s.pair := rfl
@[simp] theorem modCond_bup (f : Nat) (g : FieldCond → FieldCond) : (modCond s f g).bup = s.bup := rfl
@[simp] theorem modCond_cxl (f : Nat) (g : FieldCond → FieldCond) : (modCond s f g).cxl = s.cxl := rfl
@[simp] theorem modCond_pow (f : Nat) (g : FieldCond → FieldCond) : (modCond s f g).pow = s.pow := rfl
@[simp] theorem modCond_brg (f : Nat) (g : FieldCond → FieldCond) : (modCond s f g).brg = s.brg := rfl
@[simp] theorem modCond_pith (f : Nat) (g : FieldCond → FieldCond) : (modCond s f g).pith = s.pith := rfl
@[simp] theorem modCond_trs (f : Nat) (g : FieldCond → FieldCond) : (modCond s f g).trs = s.trs := rfl
@[simp] theorem modCond_stem (f : Nat) (g : FieldCond → FieldCond) : (modCond s f g).stem = s.stem := rfl
@[simp] theorem modCond_out (f : Nat) (g : FieldCond → FieldCond) : (modCond s f g).out = s.out := rfl
@[simp] theorem modCond_free (f : Nat) (g : FieldCond → FieldCond) : (modCond s f g).free = s.free := rfl

@[simp] theorem modFclk_pending (f : Nat) (g : FieldClock → FieldClock) : (modFclk s f g).pending = s.pending := rfl
@[simp] theorem modFclk_inp (f : Nat) (g : FieldClock → FieldClock) : (modFclk s f g).inp = s.inp := rfl
@[simp] theorem modFclk_clk (f : Nat) (g : FieldClock → FieldClock) : (modFclk s f g).clk = s.clk := rfl
@[simp] theorem modFclk_com (f : Nat) (g : FieldClock → FieldClock) : (modFclk s f g).com = s.com := rfl
@[simp] theorem modFclk_cor (f : Nat) (g : FieldClock → FieldClock) : (modFclk s f g).cor = s.cor := rfl
@[simp] theorem modFclk_mem (f : Nat) (g : FieldClock → FieldClock) : (modFclk s f g).mem = s.mem := rfl
@[simp] theorem modFclk_job (f : Nat) (g : FieldClock → FieldClock) : (modFclk s f g).job = s.job := rfl
@[simp] theorem modFclk_lastJob (f : Nat) (g : FieldClock → FieldClock) : (modFclk s f g).lastJob = s.lastJob := rfl
@[simp] theorem modFclk_log (f : Nat) (g : FieldClock → FieldClock) : (modFclk s f g).log = s.log := rfl
@[simp] theorem modFclk_dom (f : Nat) (g : FieldClock → FieldClock) : (modFclk s f g).dom = s.dom := rfl
@[simp] theorem modFclk_yld (f : Nat) (g : FieldClock → FieldClock) : (modFclk s f g).yld = s.yld := rfl
@[simp] theorem modFclk_pair (f : Nat) (g : FieldClock → FieldClock) : (modFclk s f g).pair = s.pair := rfl
@[simp] theorem modFclk_bup (f : Nat) (g : FieldClock → FieldClock) : (modFclk s f g).bup = s.bup := rfl
@[simp] theorem modFclk_cxl (f : Nat) (g : FieldClock → FieldClock) : (modFclk s f g).cxl = s.cxl := rfl
@[simp] theorem modFclk_pow (f : Nat) (g : FieldClock → FieldClock) : (modFclk s f g).pow = s.pow := rfl
@[simp] theorem modFclk_brg (f : Nat) (g : FieldClock → FieldClock) : (modFclk s f g).brg = s.brg := rfl
@[simp] theorem modFclk_pith (f : Nat) (g : FieldClock → FieldClock) : (modFclk s f g).pith = s.pith := rfl
@[simp] theorem modFclk_trs (f : Nat) (g : FieldClock → FieldClock) : (modFclk s f g).trs = s.trs := rfl
@[simp] theorem modFclk_stem (f : Nat) (g : FieldClock → FieldClock) : (modFclk s f g).stem = s.stem := rfl
@[simp] theorem modFclk_out (f : Nat) (g : FieldClock → FieldClock) : (modFclk s f g).out = s.out := rfl
@[simp] theorem modFclk_free (f : Nat) (g : FieldClock → FieldClock) : (modFclk s f g).free = s.free := rfl

@[simp] theorem modFpow_pending (f : Nat) (g : FieldPower → FieldPower) : (modFpow s f g).pending = s.pending := rfl
@[simp] theorem modFpow_inp (f : Nat) (g : FieldPower → FieldPower) : (modFpow s f g).inp = s.inp := rfl
@[simp] theorem modFpow_clk (f : Nat) (g : FieldPower → FieldPower) : (modFpow s f g).clk = s.clk := rfl
@[simp] theorem modFpow_com (f : Nat) (g : FieldPower → FieldPower) : (modFpow s f g).com = s.com := rfl
@[simp] theorem modFpow_cor (f : Nat) (g : FieldPower → FieldPower) : (modFpow s f g).cor = s.cor := rfl
@[simp] theorem modFpow_mem (f : Nat) (g : FieldPower → FieldPower) : (modFpow s f g).mem = s.mem := rfl
@[simp] theorem modFpow_job (f : Nat) (g : FieldPower → FieldPower) : (modFpow s f g).job = s.job := rfl
@[simp] theorem modFpow_lastJob (f : Nat) (g : FieldPower → FieldPower) : (modFpow s f g).lastJob = s.lastJob := rfl
@[simp] theorem modFpow_log (f : Nat) (g : FieldPower → FieldPower) : (modFpow s f g).log = s.log := rfl
@[simp] theorem modFpow_dom (f : Nat) (g : FieldPower → FieldPower) : (modFpow s f g).dom = s.dom := rfl
@[simp] theorem modFpow_yld (f : Nat) (g : FieldPower → FieldPower) : (modFpow s f g).yld = s.yld := rfl
@[simp] theorem modFpow_pair (f : Nat) (g : FieldPower → FieldPower) : (modFpow s f g).pair = s.pair := rfl
@[simp] theorem modFpow_bup (f : Nat) (g : FieldPower → FieldPower) : (modFpow s f g).bup = s.bup := rfl
@[simp] theorem modFpow_cxl (f : Nat) (g : FieldPower → FieldPower) : (modFpow s f g).cxl = s.cxl := rfl
@[simp] theorem modFpow_pow (f : Nat) (g : FieldPower → FieldPower) : (modFpow s f g).pow = s.pow := rfl
@[simp] theorem modFpow_brg (f : Nat) (g : FieldPower → FieldPower) : (modFpow s f g).brg = s.brg := rfl
@[simp] theorem modFpow_pith (f : Nat) (g : FieldPower → FieldPower) : (modFpow s f g).pith = s.pith := rfl
@[simp] theorem modFpow_trs (f : Nat) (g : FieldPower → FieldPower) : (modFpow s f g).trs = s.trs := rfl
@[simp] theorem modFpow_stem (f : Nat) (g : FieldPower → FieldPower) : (modFpow s f g).stem = s.stem := rfl
@[simp] theorem modFpow_out (f : Nat) (g : FieldPower → FieldPower) : (modFpow s f g).out = s.out := rfl
@[simp] theorem modFpow_free (f : Nat) (g : FieldPower → FieldPower) : (modFpow s f g).free = s.free := rfl

@[simp] theorem modFmem_pending (f : Nat) (g : FieldMem → FieldMem) : (modFmem s f g).pending = s.pending := rfl
@[simp] theorem modFmem_inp (f : Nat) (g : FieldMem → FieldMem) : (modFmem s f g).inp = s.inp := rfl
@[simp] theorem modFmem_clk (f : Nat) (g : FieldMem → FieldMem) : (modFmem s f g).clk = s.clk := rfl
@[simp] theorem modFmem_com (f : Nat) (g : FieldMem → FieldMem) : (modFmem s f g).com = s.com := rfl
@[simp] theorem modFmem_cor (f : Nat) (g : FieldMem → FieldMem) : (modFmem s f g).cor = s.cor := rfl
@[simp] theorem modFmem_mem (f : Nat) (g : FieldMem → FieldMem) : (modFmem s f g).mem = s.mem := rfl
@[simp] theorem modFmem_job (f : Nat) (g : FieldMem → FieldMem) : (modFmem s f g).job = s.job := rfl
@[simp] theorem modFmem_lastJob (f : Nat) (g : FieldMem → FieldMem) : (modFmem s f g).lastJob = s.lastJob := rfl
@[simp] theorem modFmem_log (f : Nat) (g : FieldMem → FieldMem) : (modFmem s f g).log = s.log := rfl
@[simp] theorem modFmem_dom (f : Nat) (g : FieldMem → FieldMem) : (modFmem s f g).dom = s.dom := rfl
@[simp] theorem modFmem_yld (f : Nat) (g : FieldMem → FieldMem) : (modFmem s f g).yld = s.yld := rfl
@[simp] theorem modFmem_pair (f : Nat) (g : FieldMem → FieldMem) : (modFmem s f g).pair = s.pair := rfl
@[simp] theorem modFmem_bup (f : Nat) (g : FieldMem → FieldMem) : (modFmem s f g).bup = s.bup := rfl
@[simp] theorem modFmem_cxl (f : Nat) (g : FieldMem → FieldMem) : (modFmem s f g).cxl = s.cxl := rfl
@[simp] theorem modFmem_pow (f : Nat) (g : FieldMem → FieldMem) : (modFmem s f g).pow = s.pow := rfl
@[simp] theorem modFmem_brg (f : Nat) (g : FieldMem → FieldMem) : (modFmem s f g).brg = s.brg := rfl
@[simp] theorem modFmem_pith (f : Nat) (g : FieldMem → FieldMem) : (modFmem s f g).pith = s.pith := rfl
@[simp] theorem modFmem_trs (f : Nat) (g : FieldMem → FieldMem) : (modFmem s f g).trs = s.trs := rfl
@[simp] theorem modFmem_stem (f : Nat) (g : FieldMem → FieldMem) : (modFmem s f g).stem = s.stem := rfl
@[simp] theorem modFmem_out (f : Nat) (g : FieldMem → FieldMem) : (modFmem s f g).out = s.out := rfl
@[simp] theorem modFmem_free (f : Nat) (g : FieldMem → FieldMem) : (modFmem s f g).free = s.free := rfl

@[simp] theorem modNet_pending (f : Nat) (g : FieldNet → FieldNet) : (modNet s f g).pending = s.pending := rfl
@[simp] theorem modNet_inp (f : Nat) (g : FieldNet → FieldNet) : (modNet s f g).inp = s.inp := rfl
@[simp] theorem modNet_clk (f : Nat) (g : FieldNet → FieldNet) : (modNet s f g).clk = s.clk := rfl
@[simp] theorem modNet_com (f : Nat) (g : FieldNet → FieldNet) : (modNet s f g).com = s.com := rfl
@[simp] theorem modNet_cor (f : Nat) (g : FieldNet → FieldNet) : (modNet s f g).cor = s.cor := rfl
@[simp] theorem modNet_mem (f : Nat) (g : FieldNet → FieldNet) : (modNet s f g).mem = s.mem := rfl
@[simp] theorem modNet_job (f : Nat) (g : FieldNet → FieldNet) : (modNet s f g).job = s.job := rfl
@[simp] theorem modNet_lastJob (f : Nat) (g : FieldNet → FieldNet) : (modNet s f g).lastJob = s.lastJob := rfl
@[simp] theorem modNet_log (f : Nat) (g : FieldNet → FieldNet) : (modNet s f g).log = s.log := rfl
@[simp] theorem modNet_dom (f : Nat) (g : FieldNet → FieldNet) : (modNet s f g).dom = s.dom := rfl
@[simp] theorem modNet_yld (f : Nat) (g : FieldNet → FieldNet) : (modNet s f g).yld = s.yld := rfl
@[simp] theorem modNet_pair (f : Nat) (g : FieldNet → FieldNet) : (modNet s f g).pair = s.pair := rfl
@[simp] theorem modNet_bup (f : Nat) (g : FieldNet → FieldNet) : (modNet s f g).bup = s.bup := rfl
@[simp] theorem modNet_cxl (f : Nat) (g : FieldNet → FieldNet) : (modNet s f g).cxl = s.cxl := rfl
@[simp] theorem modNet_pow (f : Nat) (g : FieldNet → FieldNet) : (modNet s f g).pow = s.pow := rfl
@[simp] theorem modNet_brg (f : Nat) (g : FieldNet → FieldNet) : (modNet s f g).brg = s.brg := rfl
@[simp] theorem modNet_pith (f : Nat) (g : FieldNet → FieldNet) : (modNet s f g).pith = s.pith := rfl
@[simp] theorem modNet_trs (f : Nat) (g : FieldNet → FieldNet) : (modNet s f g).trs = s.trs := rfl
@[simp] theorem modNet_stem (f : Nat) (g : FieldNet → FieldNet) : (modNet s f g).stem = s.stem := rfl
@[simp] theorem modNet_out (f : Nat) (g : FieldNet → FieldNet) : (modNet s f g).out = s.out := rfl
@[simp] theorem modNet_free (f : Nat) (g : FieldNet → FieldNet) : (modNet s f g).free = s.free := rfl

@[simp] theorem modStr_pending (f : Nat) (g : FieldStream → FieldStream) : (modStr s f g).pending = s.pending := rfl
@[simp] theorem modStr_inp (f : Nat) (g : FieldStream → FieldStream) : (modStr s f g).inp = s.inp := rfl
@[simp] theorem modStr_clk (f : Nat) (g : FieldStream → FieldStream) : (modStr s f g).clk = s.clk := rfl
@[simp] theorem modStr_com (f : Nat) (g : FieldStream → FieldStream) : (modStr s f g).com = s.com := rfl
@[simp] theorem modStr_cor (f : Nat) (g : FieldStream → FieldStream) : (modStr s f g).cor = s.cor := rfl
@[simp] theorem modStr_mem (f : Nat) (g : FieldStream → FieldStream) : (modStr s f g).mem = s.mem := rfl
@[simp] theorem modStr_job (f : Nat) (g : FieldStream → FieldStream) : (modStr s f g).job = s.job := rfl
@[simp] theorem modStr_lastJob (f : Nat) (g : FieldStream → FieldStream) : (modStr s f g).lastJob = s.lastJob := rfl
@[simp] theorem modStr_log (f : Nat) (g : FieldStream → FieldStream) : (modStr s f g).log = s.log := rfl
@[simp] theorem modStr_dom (f : Nat) (g : FieldStream → FieldStream) : (modStr s f g).dom = s.dom := rfl
@[simp] theorem modStr_yld (f : Nat) (g : FieldStream → FieldStream) : (modStr s f g).yld = s.yld := rfl
@[simp] theorem modStr_pair (f : Nat) (g : FieldStream → FieldStream) : (modStr s f g).pair = s.pair := rfl
@[simp] theorem modStr_bup (f : Nat) (g : FieldStream → FieldStream) : (modStr s f g).bup = s.bup := rfl
@[simp] theorem modStr_cxl (f : Nat) (g : FieldStream → FieldStream) : (modStr s f g).cxl = s.cxl := rfl
@[simp] theorem modStr_pow (f : Nat) (g : FieldStream → FieldStream) : (modStr s f g).pow = s.pow := rfl
@[simp] theorem modStr_brg (f : Nat) (g : FieldStream → FieldStream) : (modStr s f g).brg = s.brg := rfl
@[simp] theorem modStr_pith (f : Nat) (g : FieldStream → FieldStream) : (modStr s f g).pith = s.pith := rfl
@[simp] theorem modStr_trs (f : Nat) (g : FieldStream → FieldStream) : (modStr s f g).trs = s.trs := rfl
@[simp] theorem modStr_stem (f : Nat) (g : FieldStream → FieldStream) : (modStr s f g).stem = s.stem := rfl
@[simp] theorem modStr_out (f : Nat) (g : FieldStream → FieldStream) : (modStr s f g).out = s.out := rfl
@[simp] theorem modStr_free (f : Nat) (g : FieldStream → FieldStream) : (modStr s f g).free = s.free := rfl

@[simp] theorem modFjob_pending (f : Nat) (g : FieldJob → FieldJob) : (modFjob s f g).pending = s.pending := rfl
@[simp] theorem modFjob_inp (f : Nat) (g : FieldJob → FieldJob) : (modFjob s f g).inp = s.inp := rfl
@[simp] theorem modFjob_clk (f : Nat) (g : FieldJob → FieldJob) : (modFjob s f g).clk = s.clk := rfl
@[simp] theorem modFjob_com (f : Nat) (g : FieldJob → FieldJob) : (modFjob s f g).com = s.com := rfl
@[simp] theorem modFjob_cor (f : Nat) (g : FieldJob → FieldJob) : (modFjob s f g).cor = s.cor := rfl
@[simp] theorem modFjob_mem (f : Nat) (g : FieldJob → FieldJob) : (modFjob s f g).mem = s.mem := rfl
@[simp] theorem modFjob_job (f : Nat) (g : FieldJob → FieldJob) : (modFjob s f g).job = s.job := rfl
@[simp] theorem modFjob_lastJob (f : Nat) (g : FieldJob → FieldJob) : (modFjob s f g).lastJob = s.lastJob := rfl
@[simp] theorem modFjob_log (f : Nat) (g : FieldJob → FieldJob) : (modFjob s f g).log = s.log := rfl
@[simp] theorem modFjob_dom (f : Nat) (g : FieldJob → FieldJob) : (modFjob s f g).dom = s.dom := rfl
@[simp] theorem modFjob_yld (f : Nat) (g : FieldJob → FieldJob) : (modFjob s f g).yld = s.yld := rfl
@[simp] theorem modFjob_pair (f : Nat) (g : FieldJob → FieldJob) : (modFjob s f g).pair = s.pair := rfl
@[simp] theorem modFjob_bup (f : Nat) (g : FieldJob → FieldJob) : (modFjob s f g).bup = s.bup := rfl
@[simp] theorem modFjob_cxl (f : Nat) (g : FieldJob → FieldJob) : (modFjob s f g).cxl = s.cxl := rfl
@[simp] theorem modFjob_pow (f : Nat) (g : FieldJob → FieldJob) : (modFjob s f g).pow = s.pow := rfl
@[simp] theorem modFjob_brg (f : Nat) (g : FieldJob → FieldJob) : (modFjob s f g).brg = s.brg := rfl
@[simp] theorem modFjob_pith (f : Nat) (g : FieldJob → FieldJob) : (modFjob s f g).pith = s.pith := rfl
@[simp] theorem modFjob_trs (f : Nat) (g : FieldJob → FieldJob) : (modFjob s f g).trs = s.trs := rfl
@[simp] theorem modFjob_stem (f : Nat) (g : FieldJob → FieldJob) : (modFjob s f g).stem = s.stem := rfl
@[simp] theorem modFjob_out (f : Nat) (g : FieldJob → FieldJob) : (modFjob s f g).out = s.out := rfl
@[simp] theorem modFjob_free (f : Nat) (g : FieldJob → FieldJob) : (modFjob s f g).free = s.free := rfl

theorem fieldOf_modField (f j : Nat) (g : Field → Field) : fieldOf (modField s f g) j = if f = j then g (fieldOf s f) else fieldOf s j := tabGet_mod ({} : Field) f j g s.fld
theorem coreAt_modCore (f j : Nat) (g : Core → Core) : coreAt (modCore s f g) j = if f = j then g (coreAt s f) else coreAt s j := tabGet_mod ({} : Core) f j g s.cor
theorem jobOf_modJob (f j : Nat) (g : Job → Job) : jobOf (modJob s f g) j = if f = j then g (jobOf s f) else jobOf s j := tabGet_mod ({} : Job) f j g s.job
theorem portOf_modPort (f j : Nat) (g : Port → Port) : portOf (modPort s f g) j = if f = j then g (portOf s f) else portOf s j := tabGet_mod ({} : Port) f j g s.bup.port
theorem ctxOf_modCtx (f j : Nat) (g : Ctx → Ctx) : ctxOf (modCtx s f g) j = if f = j then g (ctxOf s f) else ctxOf s j := tabGet_mod ({} : Ctx) f j g s.bup.ctx
theorem queueOf_modQueue (f j : Nat) (g : Queue → Queue) : queueOf (modQueue s f g) j = if f = j then g (queueOf s f) else queueOf s j := tabGet_mod ({} : Queue) f j g s.cxl.queue
theorem grantOf_modGrant (f j : Nat) (g : Grant → Grant) : grantOf (modGrant s f g) j = if f = j then g (grantOf s f) else grantOf s j := tabGet_mod ({} : Grant) f j g s.cxl.grant
theorem cxlPortOf_modCxlPort (f j : Nat) (g : CxlPort → CxlPort) : cxlPortOf (modCxlPort s f g) j = if f = j then g (cxlPortOf s f) else cxlPortOf s j := tabGet_mod ({} : CxlPort) f j g s.cxl.port
theorem sliceOf_modSlice (f j : Nat) (g : Slice → Slice) : sliceOf (modSlice s f g) j = if f = j then g (sliceOf s f) else sliceOf s j := tabGet_mod ({} : Slice) f j g s.pair.slices

theorem fieldOf_modCond (f j : Nat) (g : FieldCond → FieldCond) :
    fieldOf (modCond s f g) j = if f = j then (let x := fieldOf s f; { x with cond := g x.cond }) else fieldOf s j := fieldOf_modField s f j _
theorem fieldOf_modFclk (f j : Nat) (g : FieldClock → FieldClock) :
    fieldOf (modFclk s f g) j = if f = j then (let x := fieldOf s f; { x with clk := g x.clk }) else fieldOf s j := fieldOf_modField s f j _
theorem fieldOf_modFpow (f j : Nat) (g : FieldPower → FieldPower) :
    fieldOf (modFpow s f g) j = if f = j then (let x := fieldOf s f; { x with pow := g x.pow }) else fieldOf s j := fieldOf_modField s f j _
theorem fieldOf_modFmem (f j : Nat) (g : FieldMem → FieldMem) :
    fieldOf (modFmem s f g) j = if f = j then (let x := fieldOf s f; { x with mem := g x.mem }) else fieldOf s j := fieldOf_modField s f j _
theorem fieldOf_modNet (f j : Nat) (g : FieldNet → FieldNet) :
    fieldOf (modNet s f g) j = if f = j then (let x := fieldOf s f; { x with net := g x.net }) else fieldOf s j := fieldOf_modField s f j _
theorem fieldOf_modStr (f j : Nat) (g : FieldStream → FieldStream) :
    fieldOf (modStr s f g) j = if f = j then (let x := fieldOf s f; { x with str := g x.str }) else fieldOf s j := fieldOf_modField s f j _
theorem fieldOf_modFjob (f j : Nat) (g : FieldJob → FieldJob) :
    fieldOf (modFjob s f g) j = if f = j then (let x := fieldOf s f; { x with job := g x.job }) else fieldOf s j := fieldOf_modField s f j _

theorem taskOf_modTask (c : Core) (e x : Engine) (g : Task → Task) :
    taskOf (modTask c e g) x = if e = x then g (taskOf c e) else taskOf c x := by
  have h : engCode e = engCode x ↔ e = x := by cases e <;> cases x <;> decide
  unfold taskOf modTask
  rw [tabGet_mod]
  by_cases hx : e = x
  · subst hx; simp
  · simp [hx, h]

end Sys2Proof.Laws
end

