-- ==== Sys2Proof/Laws/Issue.lean ====
section
/-! SUPPORT. What the issue of an instruction does, once for every instruction (06, 07 R219): the outcome of its own effect, with the
tokens taken and the instruction recorded. -/

namespace Sys2Proof.Laws

open Sys2Proof.Machine

/-- The view that an instruction's effect gets of a state in which it may issue: its tokens are taken. -/
def issOf (s : State) (c : CoreId) (e : Engine) (w : BitVec 64) : Iss :=
  { s := modCore s (ckey c) (takeTokens · (waitOf s c e w)), c := c, e := e, w := w.toNat, t := slotOf s c.fld }

/-- The word that an engine fetches, with its place. -/
theorem fetches_at {s : State} {c : CoreId} {e : Engine} {w : BitVec 64} (h : Fetches s c e w) :
    ∃ oda, fetchWord s c e = some (oda, { w := w }) := by
  unfold Fetches at h
  cases hx : fetchWord s c e with
  | none => simp [hx] at h
  | some p => exact ⟨p.1, by rw [hx] at h; exact congrArg some (Prod.ext rfl (Option.some.inj h))⟩

/-- Of an instruction that may issue, the outcome of its own effect decides (R219). -/
theorem issue_body {s : State} {c : CoreId} {e : Engine} {opc : Nat} {w : BitVec 64} {f : Iss → Res} (h : MayIssue s c e opc w) :
    issue s c e opc w f =
      match f (issOf s c e w) with
      | .hold => engage s c e (slotOf s c.fld + 1)
      | .holdTo m => engage s c e m
      | .never => s
      | .fault code addr detail => coreFault s c e code addr detail
      | .go s' d => modCore s' (ckey c) fun core => modTask core e (record (postMask (taskOf (coreAt s (ckey c)) e).masks w.toNat) d) := by
  have hw := fetches_at h.2.1
  rcases hw with ⟨oda, hw⟩
  have hfree := h.1
  have hrest := h.2.2
  unfold waitOf at hrest
  unfold issue issOf waitOf
  rw [hfree, hw]
  simp only [hrest, Bool.not_true, Bool.false_eq_true, if_false, ne_eq, not_true_eq_false, or_self] <;> rfl

/-- An instruction that may issue has its effect, and is recorded in its engine. -/
theorem issue_go {s s' : State} {c : CoreId} {e : Engine} {opc : Nat} {w : BitVec 64} {f : Iss → Res} {d : Done}
    (h : MayIssue s c e opc w) (hf : f (issOf s c e w) = .go s' d) :
    issue s c e opc w f =
      modCore s' (ckey c) fun core => modTask core e (record (postMask (taskOf (coreAt s (ckey c)) e).masks w.toNat) d) := by
  rw [issue_body h, hf]

/-- An instruction that may issue and finds an event stops the engines of its core (R122, R219). -/
theorem issue_fault {s : State} {c : CoreId} {e : Engine} {opc : Nat} {w : BitVec 64} {f : Iss → Res} {code addr detail : Nat}
    (h : MayIssue s c e opc w) (hf : f (issOf s c e w) = .fault code addr detail) :
    issue s c e opc w f = coreFault s c e code addr detail := by
  rw [issue_body h, hf]

/-- An instruction that an interlock holds until a slot (R167). -/
theorem issue_holdTo {s : State} {c : CoreId} {e : Engine} {opc : Nat} {w : BitVec 64} {f : Iss → Res} {m : Nat}
    (h : MayIssue s c e opc w) (hf : f (issOf s c e w) = .holdTo m) : issue s c e opc w f = engage s c e m := by
  rw [issue_body h, hf]

/-- An engine that is not free issues nothing (R38, R156, R195). -/
theorem issue_not_free {s : State} {c : CoreId} {e : Engine} {opc : Nat} {w : BitVec 64} {f : Iss → Res}
    (h : engineFree s c e = false) : issue s c e opc w f = s := by
  unfold issue
  simp [h]

theorem maskList_nodup (m : Nat) : (maskList m).Nodup := List.Nodup.filter _ List.nodup_range

/-- The tokens of a mask are taken, one from each queue (R164). -/
theorem tok_takeTokens (core : Core) (m q : Nat) :
    tabGet 0 (takeTokens core m).tok q = tabGet 0 core.tok q - b2n ((maskList m).contains q) := by
  have key : ∀ (l : List Nat), l.Nodup → ∀ t : Tab Nat,
      tabGet 0 (l.foldl (fun t q => tabPut 0 q (tabGet 0 t q - 1) t) t) q = tabGet 0 t q - b2n (l.contains q) := by
    intro l
    induction l with
    | nil => intro _ t; simp [b2n]
    | cons a l ih =>
      intro hl t
      rw [List.nodup_cons] at hl
      rw [List.foldl_cons, ih hl.2, tabGet_put]
      by_cases h : a = q
      · subst h
        have hf : l.contains a = false := by simpa using hl.1
        have ht : (a :: l).contains a = true := by simp
        rw [hf, ht, if_pos rfl]
        simp [b2n]
      · have he : (a :: l).contains q = l.contains q := by
          have : (q == a) = false := by simpa using fun h' => h h'.symm
          rw [List.contains_cons, this, Bool.false_or]
        rw [he, if_neg h]
  exact key _ (maskList_nodup m) core.tok

@[simp] theorem tasks_takeTokens (core : Core) (m : Nat) : (takeTokens core m).tasks = core.tasks := rfl

@[simp] theorem taskOf_takeTokens (core : Core) (m : Nat) (e : Engine) : taskOf (takeTokens core m) e = taskOf core e := rfl

@[simp] theorem coreAt_issOf (s : State) (c : CoreId) (e : Engine) (w : BitVec 64) :
    coreAt (issOf s c e w).s (ckey c) = takeTokens (coreAt s (ckey c)) (waitOf s c e w) := by
  unfold issOf
  simp [coreAt_modCore]

theorem coreAt_issOf_other (s : State) (c : CoreId) (e : Engine) (w : BitVec 64) {k : Nat} (h : k ≠ ckey c) :
    coreAt (issOf s c e w).s k = coreAt s k := by
  unfold issOf
  simp [coreAt_modCore, Ne.symm h]

/-- What `record` does to a task's program counter and flights where the instruction does not jump. -/
theorem record_pc (post : Nat) (d : Done) (t : Task) (h : d.pc = none) : (record post d t).pc = t.pc + 8 := by
  unfold record
  simp only [h, Option.getD_none]
  apply BitVec.eq_of_toNat_eq
  simp [BitVec.toNat_add]

theorem record_flights (post : Nat) (d : Done) (t : Task) (h : d.inFlight = true) :
    (record post d t).flights = t.flights ++
      [{ done := d.fin, onAccept := d.onAccept, onSync := d.onSync, onPass := d.onPass, post := BitVec.ofNat 16 post,
         slot := d.slot, flags := BitVec.ofNat 8 d.flags }] := by
  unfold record
  simp [h]

/-- The whole of an issue, from an effect that leaves the tokens, the other engines and the other cores alone. -/
theorem issues_of_go {s s' : State} {c : CoreId} {e : Engine} {opc : Nat} {w : BitVec 64} {f : Iss → Res} {d : Done}
    (h : MayIssue s c e opc w) (hf : f (issOf s c e w) = .go s' d) (hfl : d.inFlight = true)
    (htok : (coreAt s' (ckey c)).tok = (takeTokens (coreAt s (ckey c)) (waitOf s c e w)).tok)
    (htask : ∀ x, x ≠ e → taskOf (coreAt s' (ckey c)) x = taskOf (coreAt s (ckey c)) x)
    (hpc : (taskOf (coreAt s' (ckey c)) e).pc = (taskOf (coreAt s (ckey c)) e).pc)
    (hfs : (taskOf (coreAt s' (ckey c)) e).flights = (taskOf (coreAt s (ckey c)) e).flights)
    (hoth : ∀ k, k ≠ ckey c → coreAt s' k = coreAt s k) :
    Issues s (issue s c e opc w f) c e w
      (match d.pc with | none => nextPc s c e | some q => BitVec.ofNat 32 q)
      (max (taskOf (coreAt s' (ckey c)) e).ready d.next +
        (match d.pc with | some q => jumpCost (taskOf (coreAt s' (ckey c)) e) q | none => 0)) d.fin := by
  rw [issue_go h hf]
  have hk : ∀ k, coreAt (modCore s' (ckey c) fun core =>
      modTask core e (record (postMask (taskOf (coreAt s (ckey c)) e).masks w.toNat) d)) k =
      if ckey c = k then modTask (coreAt s' (ckey c)) e (record (postMask (taskOf (coreAt s (ckey c)) e).masks w.toNat) d)
      else coreAt s' k := fun k => coreAt_modCore _ _ _ _
  refine ⟨⟨?_, ?_, ?_⟩, ?_, ?_, ?_⟩
  · intro q
    rw [hk, if_pos rfl]
    show tabGet 0 (coreAt s' (ckey c)).tok q = _
    rw [htok, tok_takeTokens]
  · intro x hx
    rw [hk, if_pos rfl, taskOf_modTask, if_neg (fun h' => hx h'.symm), htask x hx]
  · intro k hne
    rw [hk, if_neg (fun h' => hne h'.symm), hoth k hne]
  · rw [hk, if_pos rfl, taskOf_modTask, if_pos rfl]
    cases hd : d.pc with
    | none => rw [record_pc _ _ _ hd, hpc]; rfl
    | some q => unfold record; simp [hd]
  · rw [hk, if_pos rfl, taskOf_modTask, if_pos rfl]
    cases hd : d.pc with
    | none => unfold record; simp [hd]
    | some q => unfold record; simp [hd]
  · let fl : Flight :=
      { done := d.fin, onAccept := d.onAccept, onSync := d.onSync, onPass := d.onPass
        post := BitVec.ofNat 16 (postMask (taskOf (coreAt s (ckey c)) e).masks w.toNat)
        slot := d.slot, flags := BitVec.ofNat 8 d.flags }
    refine ⟨fl, ?_, rfl, rfl⟩
    rw [hk, if_pos rfl, taskOf_modTask, if_pos rfl, record_flights _ _ _ hfl, hfs]

end Sys2Proof.Laws
end

