-- ==== Sys2Proof/Laws/Memory.lean ====
section
/-! SUPPORT. What each store does to the memories: every operation keeps their canonical form; and the bounds of the check codes. -/

namespace Sys2Proof.Laws

open Sys2Proof.Machine

/-! ## Canonical form -/

/-- The canonical form, memory by memory. -/
theorem memsWf_iff (m : Mem) :
    memsWf m = true ↔ memWf m.die = true ∧ memWf m.near = true ∧ memWf m.far = true ∧ tabWf false m.dieBr = true ∧
      tabWf false m.nearBr = true ∧ tabWf false m.farBr = true ∧ tabWf [] m.flips = true := by
  unfold memsWf
  simp only [Bool.and_eq_true]
  tauto

theorem memsWf_die {m : Mem} {d : List Host.Cell} {b : Tab Bool} (h : memsWf m = true) (hd : memWf d = true) (hb : tabWf false b = true) :
    memsWf { m with die := d, dieBr := b } = true := by
  rw [memsWf_iff] at h ⊢
  exact ⟨hd, h.2.1, h.2.2.1, hb, h.2.2.2.2⟩

theorem memsWf_near {m : Mem} {d : List Host.Cell} {b : Tab Bool} (h : memsWf m = true) (hd : memWf d = true) (hb : tabWf false b = true) :
    memsWf { m with near := d, nearBr := b } = true := by
  rw [memsWf_iff] at h ⊢
  exact ⟨h.1, hd, h.2.2.1, h.2.2.2.1, hb, h.2.2.2.2.2⟩

theorem memsWf_far {m : Mem} {d : List Host.Cell} {b : Tab Bool} (h : memsWf m = true) (hd : memWf d = true) (hb : tabWf false b = true) :
    memsWf { m with far := d, farBr := b } = true := by
  rw [memsWf_iff] at h ⊢
  exact ⟨h.1, h.2.1, hd, h.2.2.2.1, h.2.2.2.2.1, hb, h.2.2.2.2.2.2⟩

/-! ## The codes of what is written -/

/-- Where no bit stands inverted, a write changes no code. -/
@[simp] theorem writeCodes_none {m : Mem} (a n : Nat) (h : m.flips = []) : writeCodes m a n = m := by simp [writeCodes, h]

/-- A write changes the inverted bits and the valid bits of check words alone. -/
theorem writeCodes_eq (m : Mem) (a n : Nat) : ∃ fl un, writeCodes m a n = { m with flips := fl, unckd := un } := by
  unfold writeCodes
  split
  · exact ⟨_, _, rfl⟩
  · generalize granulesOf a n = l
    suffices ∀ k : Mem, (∃ fl un, k = { m with flips := fl, unckd := un }) → ∃ fl un, l.foldl _ k = { m with flips := fl, unckd := un } from
      this m ⟨_, _, rfl⟩
    induction l with
    | nil => exact fun k h => h
    | cons g l ih =>
      rintro k ⟨fl, un, rfl⟩
      exact ih _ ⟨_, _, rfl⟩

@[simp] theorem writeCodes_die (m : Mem) (a n : Nat) : (writeCodes m a n).die = m.die := by obtain ⟨_, _, h⟩ := writeCodes_eq m a n; rw [h]
@[simp] theorem writeCodes_dieBr (m : Mem) (a n : Nat) : (writeCodes m a n).dieBr = m.dieBr := by obtain ⟨_, _, h⟩ := writeCodes_eq m a n; rw [h]
@[simp] theorem writeCodes_near (m : Mem) (a n : Nat) : (writeCodes m a n).near = m.near := by obtain ⟨_, _, h⟩ := writeCodes_eq m a n; rw [h]
@[simp] theorem writeCodes_nearBr (m : Mem) (a n : Nat) : (writeCodes m a n).nearBr = m.nearBr := by obtain ⟨_, _, h⟩ := writeCodes_eq m a n; rw [h]
@[simp] theorem writeCodes_far (m : Mem) (a n : Nat) : (writeCodes m a n).far = m.far := by obtain ⟨_, _, h⟩ := writeCodes_eq m a n; rw [h]
@[simp] theorem writeCodes_farBr (m : Mem) (a n : Nat) : (writeCodes m a n).farBr = m.farBr := by obtain ⟨_, _, h⟩ := writeCodes_eq m a n; rw [h]

theorem tabWf_writeCodes (m : Mem) (a n : Nat) (h : tabWf [] m.flips = true) : tabWf [] (writeCodes m a n).flips = true := by
  unfold writeCodes
  split
  · exact h
  · rename_i hn
    clear hn
    generalize granulesOf a n = l
    induction l generalizing m with
    | nil => exact h
    | cons g l ih =>
      rw [List.foldl_cons]
      apply ih
      exact tabWf_put _ _ _ _ h

theorem memsWf_writeCodes (m : Mem) (a n : Nat) (h : memsWf m = true) : memsWf (writeCodes m a n) = true := by
  rw [memsWf_iff] at h ⊢
  simp only [writeCodes_die, writeCodes_dieBr, writeCodes_near, writeCodes_nearBr, writeCodes_far, writeCodes_farBr]
  exact ⟨h.1, h.2.1, h.2.2.1, h.2.2.2.1, h.2.2.2.2.1, h.2.2.2.2.2.1, tabWf_writeCodes m a n h.2.2.2.2.2.2⟩

theorem memsWf_dieStore (s : State) (a n v : Nat) (b : Bool) (h : memsWf s.mem = true) : memsWf (dieStore s a n v b).mem = true := by
  have h := memsWf_writeCodes s.mem a n h
  have h' := (memsWf_iff _).1 h
  exact memsWf_die h (memWf_write _ _ _ _ h'.1) (brWf_store _ _ _ _ h'.2.2.2.1)

theorem memsWf_nearStore (s : State) (a n v : Nat) (b : Bool) (h : memsWf s.mem = true) : memsWf (nearStore s a n v b).mem = true := by
  have h' := (memsWf_iff _).1 h
  exact memsWf_near h (memWf_write _ _ _ _ h'.2.1) (brWf_store _ _ _ _ h'.2.2.2.2.1)

theorem memsWf_farStore (s : State) (a n v : Nat) (b : Bool) (h : memsWf s.mem = true) : memsWf (farStore s a n v b).mem = true := by
  have h' := (memsWf_iff _).1 h
  exact memsWf_far h (memWf_write _ _ _ _ h'.2.2.1) (brWf_store _ _ _ _ h'.2.2.2.2.2.1)

/-- The bruise bits of consecutive granules, written from a mask. -/
theorem brWf_putMask (t : Tab Bool) (g m n : Nat) (h : tabWf false t = true) : tabWf false (brPutMask t g m n) = true := by
  induction n generalizing t g m with
  | zero => exact h
  | succ n ih => exact ih _ _ _ (brWf_set _ _ _ h)

theorem memsWf_dieStoreG (s : State) (a n v m : Nat) (h : memsWf s.mem = true) : memsWf (dieStoreG s a n v m).mem = true := by
  have h := memsWf_writeCodes s.mem a (64 * n) h
  have h' := (memsWf_iff _).1 h
  exact memsWf_die h (memWf_write _ _ _ _ h'.1) (brWf_putMask _ _ _ _ h'.2.2.2.1)

theorem memsWf_nearPut (s : State) (a : Nat) (b : BlockData) (h : memsWf s.mem = true) : memsWf (nearPut s a b).mem = true := by
  have h' := (memsWf_iff _).1 h
  exact memsWf_near h (memWf_write _ _ _ _ h'.2.1) (brWf_putMask _ _ _ _ h'.2.2.2.2.1)

theorem memsWf_farPut (s : State) (a : Nat) (b : BlockData) (h : memsWf s.mem = true) : memsWf (farPut s a b).mem = true := by
  have h' := (memsWf_iff _).1 h
  exact memsWf_far h (memWf_write _ _ _ _ h'.2.2.1) (brWf_putMask _ _ _ _ h'.2.2.2.2.2.1)

/-- What is written back of a saved memory keeps the canonical form of the memory. -/
theorem tabWf_putAll {α : Type} [DecidableEq α] (d : α) (l t : Tab α) (h : tabWf d t = true) : tabWf d (tabPutAll d l t) = true := by
  unfold tabPutAll
  exact tabWf_foldl d _ (fun t e ht => tabWf_put d e.1 e.2 t ht) l t h

/-! ## Check codes -/

theorem crcBits_lt (n c : Nat) (h : c < 2 ^ 32) : crcBits n c < 2 ^ 32 := by
  induction n generalizing c with
  | zero => exact h
  | succ n ih =>
    unfold crcBits
    apply ih
    split
    · exact Nat.xor_lt_two_pow (by omega) (by norm_num)
    · omega

theorem crcBytes_lt (n v c : Nat) (h : c < 2 ^ 32) : crcBytes n v c < 2 ^ 32 := by
  induction n generalizing v c with
  | zero => exact h
  | succ n ih =>
    unfold crcBytes
    apply ih
    apply crcBits_lt
    exact Nat.xor_lt_two_pow h (lt_trans (Nat.mod_lt _ (by norm_num)) (by norm_num))

/-- CRC-32C is a 32-bit number. -/
theorem crc32c_lt (n v : Nat) : crc32c n v < 2 ^ 32 := Nat.xor_lt_two_pow (crcBytes_lt _ _ _ (by norm_num)) (by norm_num)

end Sys2Proof.Laws
end

