-- ==== Sys2Proof/WellFormed.lean ====
section
/-! DEFINITION. Well-formed commands: the operands that a command of the table can carry (the bounds that the types of
Syntax.lean do not give already). A word of an instruction row may be ill-formed; R218 gives that its own effect. -/

namespace Sys2Proof

/-- A header cell of type `ty`, with its data cells and without a reserved bit (R440). -/
def cellOk (ty : Nat) (m : BupRaw) : Bool :=
  Machine.cellType m == ty && Machine.cellBytes m 1 1 / 2 == 0 && Machine.cellBytes m 6 2 / 4096 == 0 && Machine.cellBytes m 8 2 / 4096 == 0 &&
    Machine.cellBytes m 12 4 == Machine.dataCells ty && decide (Machine.cellBytes m 44 1 ≤ 1)

/-- A link frame without a reserved value (R424). -/
def frameOk (fr : Frame) : Bool := fr.rsvd == 0 && Machine.bitsOf fr.ack.toNat 13 3 == 0 && decide (Machine.bitsOf fr.fseq.toNat 12 4 ≤ 1)

/-- The operands lie in the ranges that the command's source gives them. -/
def Instr.wellFormed (i : Instr) : Bool :=
  match i with
  | .powerOn plan => decide (plan.channels ≤ 1280 ∧ plan.times.length = 7)
  | .pithStartTimeout => true
  | .standbyPowerLoss _ => true
  | .moduleReset => true
  | .portReset _ => true
  | .functionReset => true
  | .perstDeassert _ _ => true
  | .forcedInputActive _ => true
  | .forcedInputRelease _ => true
  | .stuckInput _ => true
  | .inputRange => true
  | .inputRangeRelease => true
  | .inputFail _ => true
  | .inputRestored => true
  | .inputCurrent => true
  | .inputCurrentRelease => true
  | .coolantSample _ _ _ => true
  | .coolantRangeRelease => true
  | .converterLost _ => true
  | .converterOverload => true
  | .phaseFailure _ _ => true
  | .regulatorSample _ x => decide (x.mv.length = 16)
  | .floorRelease _ => true
  | .railTrip _ _ => true
  | .governorSample _ _ => true
  | .dutySample _ => true
  | .rateRaise _ => true
  | .calibration _ _ _ _ => true
  | .thermalSensorSample _ temps => decide (temps.length = 8)
  | .thermalRead _ => true
  | .trayCapSet steps => decide (steps < 512)
  | .refTick => true
  | .slotAdvance _ _ => true
  | .refLossDetected => true
  | .refQualified _ => true
  | .refLost => true
  | .sloeClock => true
  | .oscLockTimeout _ => true
  | .watchdogWrite => true
  | .watchdogExpiry => true
  | .pithFailure => true
  | .takeoverTimeout => true
  | .stemType _ _ => true
  | .errorEvent _ => true
  | .fenceNotice _ _ => true
  | .prepare _ _ _ _ _ => true
  | .ack _ _ _ => true
  | .commit _ _ _ => true
  | .abort _ _ _ => true
  | .ackDeadline => true
  | .commitWaitTimeout _ => true
  | .reprepare => true
  | .yieldReport _ _ asid _ _ _ => decide (1 ≤ asid ∧ asid ≤ 36)
  | .barrierArrive asid _ _ _ => decide (1 ≤ asid ∧ asid ≤ 36)
  | .barrierRelease _ asid _ _ => decide (1 ≤ asid ∧ asid ≤ 36)
  | .gateStatus _ _ _ _ => true
  | .setpoint _ mv => decide (mv < 65536)
  | .phase _ _ _ => true
  | .rails _ _ => true
  | .alertAck _ => true
  | .energySnap _ => true
  | .halt _ asid => decide (1 ≤ asid ∧ asid ≤ 36)
  | .jobHalt asid => decide (1 ≤ asid ∧ asid ≤ 36)
  | .handlingTimeout _ => true
  | .diagnosis _ _ => true
  | .remap _ _ => true
  | .ageingSample _ drifts => decide (drifts.length = 4)
  | .marginTest _ _ _ => true
  | .ymapRecordWrite _ _ => true
  | .rindFailed _ => true
  | .delay _ _ _ => true
  | .atSlot _ _ _ => true
  | .yieldPoint _ _ _ => true
  | .sync _ _ _ => true
  | .lset _ _ _ => true
  | .lend _ _ _ => true
  | .aset _ _ _ => true
  | .aadd _ _ _ => true
  | .lact _ _ => true
  | .lscl _ _ => true
  | .lstat _ _ => true
  | .mcfg _ _ => true
  | .pass _ _ => true
  | .dcfg _ _ => true
  | .drn _ _ => true
  | .dsnd _ _ => true
  | .dflg _ _ => true
  | .drainGen _ _ => true
  | .vld _ _ => true
  | .vst _ _ => true
  | .sflg _ _ => true
  | .fadd _ _ => true
  | .fsub _ _ => true
  | .fmul _ _ => true
  | .ffma _ _ => true
  | .fmin _ _ => true
  | .fmax _ _ => true
  | .iadd _ _ => true
  | .isub _ _ => true
  | .imul _ _ => true
  | .iadds _ _ => true
  | .isubs _ _ => true
  | .ish _ _ => true
  | .cmp _ _ => true
  | .sel _ _ => true
  | .vecAnd _ _ => true
  | .vecOr _ _ => true
  | .vecXor _ _ => true
  | .mov _ _ => true
  | .movi _ _ => true
  | .fget _ _ => true
  | .gen _ _ => true
  | .cvt _ _ => true
  | .mxsc _ _ => true
  | .spec _ _ => true
  | .bcast _ _ => true
  | .shuf _ _ => true
  | .topk _ _ => true
  | .rand _ _ => true
  | .dropm _ _ => true
  | .wcvt _ _ => true
  | .wacc _ _ => true
  | .wadd _ _ => true
  | .wrsum _ _ => true
  | .wout _ _ => true
  | .wranc _ _ => true
  | .frsum _ _ => true
  | .fscan _ _ => true
  | .fdot _ _ => true
  | .scAdd _ _ => true
  | .scSub _ _ => true
  | .scAnd _ _ => true
  | .scOr _ _ => true
  | .scXor _ _ => true
  | .scShl _ _ => true
  | .scShr _ _ => true
  | .scSra _ _ => true
  | .scSlt _ _ => true
  | .scSltu _ _ => true
  | .scMul _ _ => true
  | .scDivu _ _ => true
  | .scDiv _ _ => true
  | .scRemu _ _ => true
  | .scRem _ _ => true
  | .scAddi _ _ => true
  | .scAndi _ _ => true
  | .scOri _ _ => true
  | .scXori _ _ => true
  | .scShli _ _ => true
  | .scShri _ _ => true
  | .scSrai _ _ => true
  | .scSlti _ _ => true
  | .scLih _ _ => true
  | .scLd _ _ => true
  | .scSt _ _ => true
  | .scCadd _ _ => true
  | .scBr _ _ => true
  | .scSsend _ _ => true
  | .scSrecv _ _ => true
  | .scStrm _ _ => true
  | .scWrd _ _ => true
  | .instructionCompletion _ _ => true
  | .streamArm _ _ => true
  | .streamReArm _ _ => true
  | .streamRelease _ _ => true
  | .descriptorStart _ _ => true
  | .blockIssue _ _ _ => true
  | .burstIn _ _ _ _ => true
  | .landingComplete _ _ => true
  | .rindRequest _ _ _ _ => true
  | .rindBurstSend _ _ => true
  | .rindOutBurst _ _ _ => true
  | .pageFaultService _ _ _ _ => true
  | .translationInvalidate _ lo hi => decide (lo ≤ hi)
  | .streamDrainTimeout _ _ => true
  | .scrubVisit _ _ _ => true
  | .segmentStateChange _ _ _ => true
  | .channelRetire _ _ => true
  | .channelCopyComplete _ _ => true
  | .sqEntryFetch _ _ _ => true
  | .submitJob _ _ _ => true
  | .jobPlacement _ _ _ => true
  | .preemptJob _ => true
  | .contextSave _ => true
  | .saveSeal _ => true
  | .resumeJob _ => true
  | .jobRestore _ _ _ => true
  | .endJob _ => true
  | .supplement _ _ => true
  | .mirrorResume _ _ => true
  | .mapWindow _ _ => true
  | .unmapWindow _ _ => true
  | .pairSetup _ => true
  | .pairDissolve _ => true
  | .sliceRelease _ => true
  | .ctxOpen _ => true
  | .ctxClose _ => true
  | .routeSet _ => true
  | .portRetrain _ => true
  | .powerSet _ => true
  | .resumeInPlace _ => true
  | .fieldRest _ => true
  | .hello _ _ _ _ nports => decide (nports ≤ 48)
  | .pairFormationTimeout => true
  | .heartbeatSend _ => true
  | .heartbeat _ => true
  | .mirrorBlockAdmit _ => true
  | .mirrorWrite _ _ => true
  | .wack _ _ _ _ => true
  | .mirrorComplete _ _ _ => true
  | .mirrorDiscard _ _ _ => true
  | .pairFail _ => true
  | .mirrorSilence => true
  | .mirrorIntervalCommit _ => true
  | .sliceRd _ m => cellOk 0x27 m
  | .sliceData _ h b => cellOk 0x28 { head := h, body := b }
  | .sliceRdTimeout _ => true
  | .linkFrame _ fr => frameOk fr
  | .frameSend _ => true
  | .ackTimeout _ => true
  | .berWindow _ => true
  | .laneLockLoss _ => true
  | .retrain _ _ _ => true
  | .rdReq _ m => cellOk 0x01 m
  | .rdRsp _ m => cellOk 0x02 m
  | .bupWr _ m => cellOk 0x03 m
  | .wrAck _ m => cellOk 0x04 m
  | .bupArm _ m => cellOk 0x05 m
  | .armAck _ m => cellOk 0x06 m
  | .bupBarrier _ m => cellOk 0x07 m
  | .barAck _ m => cellOk 0x08 m
  | .credit _ m => cellOk 0x10 m
  | .creditRet _ m => cellOk 0x11 m
  | .ctxOpenMsg _ m => cellOk 0x12 m
  | .ctxOpenAck _ m => cellOk 0x13 m
  | .ctxCloseMsg _ m => cellOk 0x14 m
  | .creditGrant => true
  | .creditIdleTimeout _ => true
  | .contextTimeout _ => true
  | .tailLineUpdate _ _ _ _ => true
  | .sqDb _ _ _ => true
  | .cqDb _ _ _ => true
  | .completionWrite _ => true
  | .msixSend _ => true
  | .cxlPortDown _ => true
  | .cxlPortUp _ _ => true
  | .hostTransferTimeout _ _ => true
  | .hostWindowAccess addr _ _ _ => decide (addr % 64 = 0)
  | .hdmDecoderCommit _ => true
  | .doeDiscovery _ => true
  | .cxlTableAccess _ => true
  | .getVersion => true
  | .getCertificate offset len => decide (offset < 65536 ∧ len < 65536)
  | .getMeasurements _ _ => true
  | .challenge _ => true
  | .mctpAttestation _ => true
  | .signRequest _ => true
  | .entropyHealthFail => true
  | .entropyRestart _ => true
  | .seedDrawTimeout _ => true
  | .regReset _ _ => true
  | .regRecovery _ _ => true
  | .logFree _ _ => true
  | .queueEnable _ _ _ => true
  | .queueDisable _ _ _ => true
  | .qerrClear _ _ _ => true
  | .grantWrite _ _ _ _ => true
  | .grantRevoke _ _ _ => true
  | .revokeComplete _ => true
  | .hostWinWrite _ _ => true
  | .endpointId _ _ => true
  | .ptEntry _ _ _ => true
  | .ptSeal _ _ => true
  | .recBegin _ _ => true
  | .recChunk _ _ => true
  | .recGo _ _ _ => true
  | .lowHalfRead offset => decide (offset % 4 = 0)
  | .registerWrite offset _ _ => decide (offset % 8 = 0)
  | .sysRstNRelease plan => decide (plan.channels ≤ 1280 ∧ plan.times.length = 7)
  | .sliceSealingComplete _ => true
  | .takeoverComplete => true
  | .lowerTreeReady => true
  | .powerDownEntry _ _ => true
  | .inputMeterUpdate _ _ _ _ => true

end Sys2Proof
end

