-- ==== Sys2Proof/Tests/Slice0.lean ====
section
/-! SUPPORT. Tests of the author's own: ill-formed commands that the check refuses, values that the spec publishes, and for every statement
under Certificates/ a concrete state that meets its hypotheses. -/

-- Each test is checked before the next begins, so that few threads wait at once.
set_option Elab.async false

namespace Sys2Proof.Tests

open Sys2Proof Sys2Proof.Machine

/-! ## States for the tests -/

/-- A window over the first MiB of the core's own memory, with every right. -/
def win : BitVec 64 := BitVec.ofNat 64 (0x4000 * 2 ^ 22 + 7 * 2 ^ 47)

/-- The task of an engine, at program counter 0, in slot 64. -/
def task : Task := { present := true, win := [(0, win)] }

/-- A field that runs job 1, in slot 64. -/
def fieldUp : Field := { cond := { act := .running, owner := 1 }, clk := { slot := 64, n8 := 800 } }

/-- A module in which field 20 runs job 1: engine `e` of core `c` has the word `w` at its program counter, and task `g task`. -/
def atWord (c : CoreId) (e : Engine) (w : Nat) (core : Core := {}) (g : Task → Task := id) : State :=
  { inp := { sloe := true, main := true, refOk := true }, clk := { n8 := 800 }
    fld := [(c.fld.val, { fieldUp with mem := { seg := (List.range 8).map fun n => (8 * (8 * c.bun.val + c.cor.val) + n, { st := 2 }) } })]
    cor := [(ckey c, { core with tasks := [(engCode e, g task)] })], mem := { die := memWrite [] (coreBase c) 8 w } }

def scalarCore : CoreId := ⟨20, 3, 7⟩
def vectorCore : CoreId := ⟨20, 3, 4⟩
def matrixCore : CoreId := ⟨20, 3, 0⟩

/-- `MayIssue`, computed. -/
def mayIssue (s : State) (c : CoreId) (e : Engine) (opc : Nat) (w : BitVec 64) : Bool :=
  engineFree s c e && decide ((fetchWord s c e).map (·.2) = some { w := w }) && decide (opcOf w.toNat = opc) &&
    wordOk (coreKind c.cor) e w.toNat && !waitsUnmet (coreAt s (ckey c)) (waitOf s c e w) &&
    !waitForeign (coreAt s (ckey c)) e (waitOf s c e w)

theorem mayIssue_of {s : State} {c : CoreId} {e : Engine} {opc : Nat} {w : BitVec 64} (h : mayIssue s c e opc w = true) :
    MayIssue s c e opc w := by
  unfold MayIssue Fetches
  simpa [mayIssue, and_assoc] using h

/-- The word may issue in the state that holds it at the program counter. -/
def issues (c : CoreId) (e : Engine) (w : Nat) : Bool := mayIssue (atWord c e w) c e (w % 256) (BitVec.ofNat 64 w)

/-! ## Witnesses: engine instructions -/

theorem issues_of {c : CoreId} {e : Engine} {l : List Nat} (h : l.all (issues c e) = true) :
    ∀ w ∈ l, MayIssue (atWord c e w) c e (w % 256) (BitVec.ofNat 64 w) :=
  fun w hw => mayIssue_of (List.all_eq_true.mp h w hw)

/-- For Obligations.StepRunsTheFrontCommand: a queue with a command, an empty one, and a module whose bring-up waits for nothing. -/
theorem test_meets_step :
    (∃ s : State, s.pending = [.refTick]) ∧ State.reset.pending = [] ∧ State.reset.brg.plan = none ∧ bringWaits State.reset = true ∧
      ∃ s : State, s.pending = [] ∧ bringWaits s = false :=
  ⟨⟨{ pending := [.refTick] }, rfl⟩, rfl, rfl, rfl, ⟨{ inp := { sloe := true, main := true, refOk := true } }, rfl, rfl⟩⟩

/-- For Obligations.PacingAndLoopInstructionsComplete: DELAY, AT, ASET, AADD, LSET and LEND. -/
theorem test_meets_pacing : ∀ w ∈ [0x01, 0x02, 0x80007, 0x80008, 0x05, 0x06],
    MayIssue (atWord vectorCore .load w) vectorCore .load (w % 256) (BitVec.ofNat 64 w) := issues_of (by decide)

/-- For Obligations.YieldAndSyncHoldUntilTheirTime. -/
theorem test_meets_yield_sync : ∀ w ∈ [0x03, 0x04],
    MayIssue (atWord scalarCore .scalar w) scalarCore .scalar (w % 256) (BitVec.ofNat 64 w) := issues_of (by decide)

/-- For Obligations.ScalarArithmeticCompletes. -/
theorem test_meets_scalar : ∀ w ∈ [0x90, 0x91, 0x92, 0x93, 0x94, 0x95, 0x96, 0x97, 0x98, 0x99, 0x9A, 0x9B, 0x9C, 0x9D, 0x9E,
      0xA0, 0xA1, 0xA2, 0xA3, 0xA4, 0xA5, 0xA6, 0xA7, 0xA8],
    MayIssue (atWord scalarCore .scalar w) scalarCore .scalar (w % 256) (BitVec.ofNat 64 w) := issues_of (by decide)

/-- For Obligations.BranchAndWindowReadComplete: equal operands, a condition that fails, and WRD. -/
theorem test_meets_branch : ∀ w ∈ [0xB4, 0xB4 + 2 ^ 37, 0xB4 + 6 * 2 ^ 37, 0xBB],
    MayIssue (atWord scalarCore .scalar w) scalarCore .scalar (w % 256) (BitVec.ofNat 64 w) := issues_of (by decide)

/-- A scalar core with a flit in its receive queue. -/
def received : Core := { recvq := [{ data := 7 }], recvAt := [3] }

/-- For Obligations.YieldAndSyncHoldUntilTheirTime: a BARRIER_ARRIVE due in slot 64, with a report that waits behind it. -/
theorem test_meets_owed :
    let s : State := { fld := [(20, { job := { owed := [{ bun := 3, kind := 2, asid := 1, n := 5, due := 64 }, { bun := 4, kind := 0, asid := 1, n := 2 }] } })] }
    (fieldOf s 20).job.owed = { bun := 3, kind := 2, asid := 1, n := 5, due := 64 } :: [{ bun := 4, kind := 0, asid := 1, n := 2 }] := by decide

/-- Access of `n` bytes by a scalar word at offset 0, its one unit in core memory. -/
def smMet (w n : Nat) (rs : List Right) : Prop :=
  SmAccess (atWord scalarCore .scalar w received) scalarCore (BitVec.ofNat 64 w) n (min n 64) rs (coreBase scalarCore) 1 []

/-- For Obligations.ScalarMemoryAndFlitsComplete and Obligations.StoresLandAndReadsConsumeBruises: every form issues, its access is made, the send
queue has room and a flit has arrived. -/
theorem test_meets_scalar_memory :
    ([0xB0, 0xB1, 0xB2, 0xB8 + 2 ^ 58, 0xB8 + 2 ^ 59, 0xB9, 0xBA].all fun w =>
      mayIssue (atWord scalarCore .scalar w received) scalarCore .scalar (w % 256) (BitVec.ofNat 64 w)) = true ∧
    smMet 0xB0 8 [.rd] ∧ smMet 0xB1 8 [.wr] ∧ smMet 0xB2 8 [.rd, .wr] ∧ smMet (0xB8 + 2 ^ 58) 128 [.rd] ∧ smMet (0xB8 + 2 ^ 59) 128 [.rd] ∧
    smMet 0xB9 128 [.wr] ∧ smMet 0xBA 128 [.rd] ∧
    dieBruised (atWord scalarCore .scalar 0xBA received) (coreBase scalarCore) 128 = false ∧
    0 < readable received 64 ∧ received.recvq = [{ data := 7 }] := by
  unfold smMet SmAccess
  decide +kernel

/-- A scalar core whose next word reads memory that is bruised, at offset 1024, through a queue that holds the word. -/
def hurtRead (w : Nat) : State :=
  let s := atWord scalarCore .scalar w { x := [(1, 1024)] }
  { s with mem := { s.mem with dieBr := [((coreBase scalarCore + 1024) / 64, true)] } }

theorem test_meets_bruised_reads :
    ([0xB0 + 2 ^ 25, 0xB2 + 2 ^ 25, 0xBA + 2 ^ 25].all fun w => mayIssue (hurtRead w) scalarCore .scalar (w % 256) (BitVec.ofNat 64 w)) = true ∧
    SmAccess (hurtRead (0xBA + 2 ^ 25)) scalarCore (BitVec.ofNat 64 (0xBA + 2 ^ 25)) 128 64 [.rd] (coreBase scalarCore + 1024) 1 [] ∧
    SmAccess (hurtRead (0xB0 + 2 ^ 25)) scalarCore (BitVec.ofNat 64 (0xB0 + 2 ^ 25)) 8 8 [.rd] (coreBase scalarCore + 1024) 1 [] := by
  unfold SmAccess
  decide +kernel

/-- For Obligations.StoresLandAndReadsConsumeBruises: a memory in canonical form, and a write of each form. -/
theorem test_meets_stores :
    MemInv (atWord scalarCore .scalar 0xB1) ∧ ({ due := 1, oda := 8, n := 8, v := 3 } : DieWrite).mask = none ∧
      ({ due := 1, oda := 8, n := 8, v := 3, add := true } : DieWrite).mask = none ∧
      ({ due := 1, oda := 128, n := 128, v := 3, mask := some 2 } : DieWrite).n % 64 = 0 := by
  unfold MemInv
  decide +kernel

/-- For Obligations.ModesGeneratorsAndStatusSlotsComplete. -/
theorem test_meets_modes :
    (∀ w ∈ [0x80020], MayIssue (atWord matrixCore .mac w) matrixCore .mac (w % 256) (BitVec.ofNat 64 w)) ∧
    (∀ w ∈ [0x80030, 0x34, 0x33], MayIssue (atWord matrixCore .drain w) matrixCore .drain (w % 256) (BitVec.ofNat 64 w)) ∧
    (∀ w ∈ [0x68], MayIssue (atWord vectorCore .vec w) vectorCore .vec (w % 256) (BitVec.ofNat 64 w)) ∧
    (∀ w ∈ [0x81], MayIssue (atWord vectorCore .store w) vectorCore .store (w % 256) (BitVec.ofNat 64 w)) :=
  ⟨issues_of (by decide), issues_of (by decide), issues_of (by decide), issues_of (by decide)⟩

/-- The memory operand of a word at offset 0 of the core's window gives an access of `n` units. -/
def memMet (c : CoreId) (e : Engine) (w b bytes units n : Nat) (r : Right) : Prop :=
  MemAccess (atWord c e w) c e (BitVec.ofNat 64 w) b bytes units r (coreBase c) n []

theorem test_meets_status_slots : memMet matrixCore .drain 0x33 19 8 1 1 .wr ∧ memMet vectorCore .store 0x81 19 8 1 1 .wr := by
  unfold memMet MemAccess
  decide +kernel

/-- For Obligations.BufferFillsFromMemoryBegin: LACT and LSCL with the fewest units and with the most that a window here takes. -/
theorem test_meets_buffer_fills :
    (∀ w ∈ [0x10, 0x10 + 511 * 2 ^ 53 + 2 ^ 63, 0x11, 0x11 + 511 * 2 ^ 53],
      MayIssue (atWord matrixCore .load w) matrixCore .load (w % 256) (BitVec.ofNat 64 w)) ∧
    memMet matrixCore .load 0x10 19 64 1 1 .rd ∧ memMet matrixCore .load (0x10 + 511 * 2 ^ 53 + 2 ^ 63) 19 65536 512 512 .rd ∧
    memMet matrixCore .load 0x11 19 4 1 1 .rd ∧ memMet matrixCore .load (0x11 + 511 * 2 ^ 53) 19 2048 16 16 .rd := by
  refine ⟨issues_of (by decide), ?_⟩
  unfold memMet MemAccess
  decide +kernel

/-- Two flits in the receive queue. -/
def twoFlits : Core := { recvq := [{ data := 7 }, { data := 9, b1 := true }], recvAt := [3, 4] }

/-- For Obligations.ReceiveQueueFormsBegin. -/
theorem test_meets_receive_forms :
    ([0x10 + 2 ^ 39 + 2 ^ 53, 0x11 + 2 ^ 39 + 31 * 2 ^ 53].all fun w =>
      mayIssue (atWord matrixCore .load w twoFlits) matrixCore .load (w % 256) (BitVec.ofNat 64 w)) = true ∧
    mayIssue (atWord vectorCore .load (0x40 + 2 ^ 37) twoFlits) vectorCore .load 0x40 (BitVec.ofNat 64 (0x40 + 2 ^ 37)) = true ∧
    readable (coreAt (atWord vectorCore .load 0x40 twoFlits) (ckey vectorCore)) 64 = 2 ∧
    (coreAt (atWord matrixCore .load 0x10 twoFlits) (ckey matrixCore)).recvq = twoFlits.recvq := by decide +kernel

/-- For Obligations.VectorLoadAndStoreBegin: one register, and the last ones of the file. -/
theorem test_meets_vector_memory :
    (∀ w ∈ [0x40, 0x40 + 508 * 2 ^ 19 + 3 * 2 ^ 28],
      MayIssue (atWord vectorCore .load w) vectorCore .load (w % 256) (BitVec.ofNat 64 w)) ∧
    (∀ w ∈ [0x80], MayIssue (atWord vectorCore .store w) vectorCore .store (w % 256) (BitVec.ofNat 64 w)) ∧
    memMet vectorCore .load 0x40 38 256 1 1 .rd ∧ memMet vectorCore .load (0x40 + 508 * 2 ^ 19 + 3 * 2 ^ 28) 38 1024 4 4 .rd ∧
    memMet vectorCore .store 0x80 39 256 1 1 .wr := by
  refine ⟨issues_of (by decide), issues_of (by decide), ?_⟩
  unfold memMet MemAccess
  decide +kernel

/-- DRN of one row: to memory at offset 64, to the send queue, and to the exchange. -/
def drnWords : List Nat := [0x31 + 2 ^ 49, 0x31 + 2 ^ 40, 0x31 + 2 ^ 41]

/-- A task whose DCFG is FP32. -/
def fp32 (t : Task) : Task := { t with dcfg := { t.dcfg with fmt := 13 } }

/-- For Obligations.FlitSendersAndDrainsBegin: VST and DSND to the send queue and the exchange, and DRN to all three. -/
theorem test_meets_senders :
    (∀ w ∈ [0x80 + 2 ^ 37, 0x80 + 2 ^ 38], MayIssue (atWord vectorCore .store w) vectorCore .store (w % 256) (BitVec.ofNat 64 w)) ∧
    (∀ w ∈ [0x32 + 2 ^ 51, 0x32 + 2 ^ 52], MayIssue (atWord matrixCore .drain w) matrixCore .drain (w % 256) (BitVec.ofNat 64 w)) ∧
    memMet matrixCore .drain (0x32 + 2 ^ 51) 19 128 1 1 .rd ∧ memMet matrixCore .drain (0x32 + 2 ^ 52) 19 128 1 1 .rd := by
  refine ⟨issues_of (by decide), issues_of (by decide), ?_⟩
  unfold memMet MemAccess
  decide +kernel

theorem test_meets_drain :
    (drnWords.all fun w =>
      let s := atWord matrixCore .drain w {} fp32
      let core := coreAt s (ckey matrixCore)
      mayIssue s matrixCore .drain 0x31 (BitVec.ofNat 64 w) && decide (1 ≤ accRows core 0) && !pendingRow core 0 &&
        !rowBruised core 0 && coreWin (taskOf core .drain) 0) = true ∧
    dieAccess (atWord matrixCore .drain 0) matrixCore (winOf (fp32 task) 0) .wr (memOffset (fp32 task) (memOp (0x31 + 2 ^ 49) 42)) 256 =
      some (coreBase matrixCore + 64) := by
  decide +kernel

/-- LSTAT of a BF16 tile at offset 64, and the module with that tile there: INDEX form, with nothing stored. -/
def lstatWord : Nat := 0x12 + 2 ^ 26 + 12 * 2 ^ 39

def withTile : State :=
  let s := atWord matrixCore .load lstatWord
  dieStore s (coreBase matrixCore + 64) 32 (2 + 12 * 2 ^ 8 + 32 * 2 ^ 64) false

/-- The source of that load. -/
def tileSrc : StatSrc := { base := 0, off := 64, win := win.toNat, fmt := 12, tr := false }

/-- For Obligations.StationaryLoadsBeginAndWriteTheirRows. -/
theorem test_meets_stationary_load :
    let oda := coreBase matrixCore + 64
    let h := srcHdr withTile (coreBase matrixCore) tileSrc 64
    mayIssue withTile matrixCore .load 0x12 (BitVec.ofNat 64 lstatWord) = true ∧
      dieAccess withTile matrixCore (winOf task 0) .rd 64 32 = some oda ∧ oda - 64 - coreBase matrixCore = 0 ∧
      tileHdrOk h 12 false = true ∧ TileInside withTile matrixCore (winOf task 0) 64 h ∧ ¬ fmtBits 12 ≤ 6 := by
  unfold TileInside
  decide +kernel

/-- For Obligations.StationaryLoadsBeginAndWriteTheirRows: the first row, and the last of a set that stands. -/
theorem test_meets_stationary_rows :
    let s (r : Nat) (x : Option StatSet) : State := { cor := [(5760, { stat := x, loads := [{ src := tileSrc, t := 64, row := r }] })] }
    (coreAt (s 0 none) 5760).loads = [{ src := tileSrc, t := 64, row := 0 }] ∧
      (coreAt (s 63 (some { fmt := 12, valid := true, elts := [], scales := [], c0 := [], c1 := [], zero := [], bruised := false, src := tileSrc,
                            done := 127 })) 5760).stat.isSome = true := by decide

/-- A stationary BF16 set of zeros, ready since slot 10. -/
def zeroSet : StatSet :=
  { fmt := 12, valid := true, elts := [], scales := [], c0 := [], c1 := [], zero := [], bruised := false, src := tileSrc, done := 10 }

/-- For Obligations.PassEntersItsVectors: one vector, and the most that 16-bit lines allow. -/
theorem test_meets_pass :
    ([0x21, 0x21 + 255 * 2 ^ 38].all fun w =>
      let s := atWord matrixCore .mac w { stat := some zeroSet } fun t => { t with afmt := 12 }
      mayIssue s matrixCore .mac 0x21 (BitVec.ofNat 64 w) && (coreAt s (ckey matrixCore)).stat == some zeroSet &&
        (coreAt s (ckey matrixCore)).loads.isEmpty && (coreAt s (ckey matrixCore)).replay == 0 &&
        fmtPair 12 zeroSet.fmt.toNat && decide (zeroSet.done < 64) && !lineBruised (coreAt s (ckey matrixCore)) 128 0) = true ∧
    255 + 1 ≤ 256 ∧ 255 + 1 + 63 ≤ lineCountOf (lineSize 12) := by decide +kernel

/-- Words of VEC: the float lanes; the integer lanes and CMP; LOGIC; SEL, SHUF, BCAST, MOVI and FGET. -/
def floatWords : List Nat := [0x50, 0x51, 0x52, 0x53, 0x54, 0x55, 0x50 + 5 * 2 ^ 55]
def integerWords : List Nat := [0x58, 0x59, 0x5A, 0x5B, 0x5C, 0x5D].map (· + 3 * 2 ^ 55) ++ [0x60, 0x60 + 7 * 2 ^ 46 + 3 * 2 ^ 55]
def logicWords : List Nat := [0x61, 0x62, 0x63, 0x64, 0x65, 0x66, 0x67, 0x67 + 2 ^ 58, 0x70, 0x71]
/-- CVT from BF16 to FP32, MXSC from BF16 to MXFP8, SPEC, TOPK, RAND and DROPM. -/
def conversionWords : List Nat := [0x6C + 12 * 2 ^ 46 + 13 * 2 ^ 50, 0x6D + 12 * 2 ^ 46 + 6 * 2 ^ 50, 0x6E, 0x72, 0x74, 0x75]
/-- WCVT, WACC, WADD, WRSUM, WOUT, WRANC on FP32, and FRSUM, FSCAN, FDOT. -/
def sumWords : List Nat := [0x76 + 13 * 2 ^ 50, 0x77 + 13 * 2 ^ 50, 0x78, 0x79, 0x7A + 13 * 2 ^ 50, 0x7B, 0x7C, 0x7D, 0x7E]

/-- For Obligations.FloatLanesComplete: every word issues; `test_meets_sources` gives the rest. -/
theorem test_meets_float_lanes : ∀ w ∈ floatWords,
    MayIssue (atWord vectorCore .vec w) vectorCore .vec (w % 256) (BitVec.ofNat 64 w) := issues_of (by decide)

/-- For Obligations.IntegerLanesAndComparesComplete. -/
theorem test_meets_integer_lanes : ∀ w ∈ integerWords,
    MayIssue (atWord vectorCore .vec w) vectorCore .vec (w % 256) (BitVec.ofNat 64 w) := issues_of (by decide)

/-- For Obligations.BitwiseSelectAndFillComplete. -/
theorem test_meets_logic : ∀ w ∈ logicWords,
    MayIssue (atWord vectorCore .vec w) vectorCore .vec (w % 256) (BitVec.ofNat 64 w) := issues_of (by decide)

/-- For Obligations.ConversionsComplete, Obligations.SpecialFunctionsComplete and Obligations.ScoreAndGeneratorMasksComplete. -/
theorem test_meets_conversions : ∀ w ∈ conversionWords,
    MayIssue (atWord vectorCore .vec w) vectorCore .vec (w % 256) (BitVec.ofNat 64 w) := issues_of (by decide)

/-- For Obligations.ExactAndOrderedSumsComplete. -/
theorem test_meets_sums : ∀ w ∈ sumWords,
    MayIssue (atWord vectorCore .vec w) vectorCore .vec (w % 256) (BitVec.ofNat 64 w) := issues_of (by decide)

/-- In those states every source register may be read and none is bruised, whichever the sources are. -/
theorem test_meets_sources (w : Nat) (l : List VSrc) :
    SourcesReady (atWord vectorCore .vec w) vectorCore l ∧ srcBruised (coreAt (atWord vectorCore .vec w) (ckey vectorCore)) l = false := by
  constructor
  · intro x _
    show tabGet 0 (tabGet ({} : Core) _ _).vrdy x.reg ≤ _
    exact Nat.zero_le _
  · unfold srcBruised
    rw [List.any_eq_false]
    intro x _
    show ¬ _ = true
    simp [atWord, coreAt, tabGet, vbrOf]

/-- A core with an instruction due that posts into queue 2, which LOAD produces. -/
def dueCore : State :=
  { (atWord vectorCore .load 0) with
    cor := [(ckey vectorCore, { tokProd := [(2, 1)], tasks := [(0, { task with flights := [{ done := 60, post := 4, slot := 3, flags := 5 }] })] })] }

/-- For Obligations.CompletionPostsTokensAndFlags. -/
theorem test_meets_completion :
    let core := coreAt dueCore (ckey vectorCore)
    let due := (taskOf core .load).flights.filter (flightDue (slotOf dueCore vectorCore.fld))
    core.halted = false ∧ due.length = 1 ∧
      ∀ q, q < 16 → 0 < (due.filter fun x => x.post.getLsbD q).length →
        tabGet 0 core.tokProd q = engCode .load + 1 ∧
          tabGet 0 core.tok q + tabGet 0 core.tokNew q + (due.filter fun x => x.post.getLsbD q).length ≤ 63 := by decide +kernel

/-! ## Witnesses: power, resets and bring-up -/

/-- A module in service: bring-up is done, the pith runs, both CXL ports are up, field 20 runs job 1, and every port of the Bupol is up. -/
def up : State :=
  { inp := { sloe := true, main := true, refOk := true }, clk := { n8 := 800, k := 10 }, pith := { running := true }, brg := { st := 1, phase := 7 }
    yld := { gen := 1, nchan := 1280, farPop := 24 }, fld := [(20, fieldUp)]
    cxl := { port := [(0, { up := true, rate := 2 }), (1, { up := true, rate := 2 })], msixMask := 0 } }

/-- `up` with the inputs changed. -/
def upInp (g : Inputs → Inputs) : State := { up with inp := g up.inp }

/-- `up` with the power state changed. -/
def upPow (g : Power → Power) : State := { up with pow := g up.pow }

/-- `up` with field 20 changed. -/
def upField (g : Field → Field) : State := { up with fld := [(20, g fieldUp)] }

/-- For Obligations.ForcedStatesFollowTheirCauses: each clause at the last input, FORCE_LOW_N. -/
theorem test_meets_forced_states :
    (up.inp.sloe = true ∧ up.inp.forced.getLsbD 6 = false ∧ up.inp.main = true) ∧
    (∃ s : State, s.inp.sloe = true ∧ s.inp.forced.getLsbD 6 = true) ∧
    (∃ s : State, s.inp.forced.getLsbD 6 = true ∧ s.inp.active.getLsbD 6 = false ∧ s.inp.acked.getLsbD 6 = true) ∧
    (∃ s : State, s.inp.forced.getLsbD 6 = true ∧ s.inp.stuck.getLsbD 6 = false) ∧
    (up.inp.main = true ∧ up.inp.held = false ∧ up.inp.fRange = false ∧ up.inp.fCurrent = false) ∧
    (∃ s : State, s.inp.main = true ∧ s.pow.convPending = true) ∧
    ∃ s : State, s.inp.fCoolant = true ∧ 10000 ≤ s.inp.clearMs :=
  ⟨by decide, ⟨upInp fun i => { i with forced := 127 }, by decide⟩, ⟨upInp fun i => { i with forced := 64, acked := 64 }, by decide⟩,
    ⟨upInp fun i => { i with forced := 64 }, by decide⟩, by decide, ⟨upPow fun p => { p with convPending := true }, by decide⟩,
    ⟨upInp fun i => { i with fCoolant := true, clearMs := 10000 }, by decide⟩⟩

/-- For Obligations.SupplyAndCoolantEventsAreTaken: the boundary temperatures, a converter with 5 and with 4 good ones left, the 25th and 24th
good phase, and a channel to power down. -/
theorem test_meets_supply :
    (up.inp.main = true ∧ pithUp up = true ∧ up.inp.held = false ∧ up.mem.selfRefresh = false) ∧ pithUp (upInp fun i => { i with held := true }) = false ∧
    (500 : Int) < 501 ∧ (450 : Int) < 451 ∧
    (∃ s : State, s.pow.convBad.getLsbD 0 = false ∧ s.pow.convBad = 0xFFE0) ∧
    (∃ s : State, s.pow.convBad.getLsbD 0 = false ∧ goodConv s = 4) ∧
    (fieldGone up 20 = false ∧ 0 ∉ tabGet [] up.yld.phases 20 ∧ 24 < goodPhases up 20) ∧
    ∃ s : State, 0 ∉ tabGet [] s.yld.phases 20 ∧ goodPhases s 20 = 20 :=
  ⟨by decide, by decide, by decide, by decide, ⟨upPow fun p => { p with convBad := 0xFFE0 }, by decide⟩,
    ⟨upPow fun p => { p with convBad := 0xFFF0 - 0x0000 }, by decide +kernel⟩, by decide +kernel,
    ⟨{ up with yld := { up.yld with phases := [(20, [20, 21, 22, 23, 24, 25])] } }, by decide +kernel⟩⟩

/-- For Obligations.RegulationAndHeatActOnTheirField: a field that runs, with its last sum low enough to release the floor, and the
temperatures where the clauses meet. -/
theorem test_meets_regulation :
    (up.inp.main = true ∧ fieldGone up 20 = false ∧ (fieldOf up 20).cond.act ≠ .sleeping ∧ up.inp.held = false ∧ pithUp up = true) ∧
    10 * (fieldOf up 20).pow.amps.sum < 900 * floorLevel up 20 ∧
    hottest [100] = 100 ∧ hottest [97] = 97 ∧ hottest [98, 99] = 99 ∧ hottest [114, 115] = 115 ∧
    (∃ s : State, 0 < (fieldOf s 20).cond.trips) ∧ (∃ amps, 100 * floorLevel up 20 < [amps].sum) :=
  ⟨by decide, by decide +kernel, by decide, by decide, by decide, by decide,
    ⟨upField fun x => { x with cond := { x.cond with trips := 1 } }, by decide⟩, ⟨1000000000, by decide +kernel⟩⟩

/-- For Obligations.FieldPowerCommandsAct: a field that sleeps, one whose sensors are cool, and the ends of the core rail's range. -/
theorem test_meets_field_power :
    (up.inp.main = true ∧ up.inp.held = false ∧ fieldGone up 20 = false) ∧ (fieldOf up 19).cond.act = .sleeping ∧ fieldGone up 19 = false ∧
    (∃ s : State, pithUp s = true ∧ (fieldOf s 20).pow.temps ≠ [] ∧ hottest (fieldOf s 20).pow.temps < 95 ∧ (fieldOf s 20).cond.act = .running ∧
      (fieldOf s 20).clk.thermal = false) ∧ 600 ≤ 600 ∧ 850 ≤ 850 ∧ 850 < 851 :=
  ⟨by decide, by decide, by decide, ⟨upField fun x => { x with pow := { x.pow with temps := [60, 90] } }, by decide⟩, by decide, by decide, by decide⟩

/-- `up` with a duty of 31 seen twice in field 20. -/
def lowDuty : State := upField fun x => { x with pow := { x.pow with duty := 31, lowDuty := true } }

/-- `up` at rate code 8, with every field RETIRED, so that none limits the rate. -/
def noField : State := { up with fld := (List.range 36).map fun f => (f, { cond := { retired := true } }), clk := { up.clk with k := 8 } }

/-- For Obligations.RateCodeFollowsTheGovernors: the least rate code, and a module whose fields set no limit. -/
theorem test_meets_rate_code :
    (CommitIdle lowDuty ∧ lowDuty.brg.st = 1 ∧ fieldGone lowDuty 20 = false ∧ (fieldOf lowDuty 20).cond.act = .running ∧
      (fieldOf lowDuty 20).pow.duty < 32 ∧ (fieldOf lowDuty 20).pow.lowDuty = true) ∧
    max 8 (min (limitK lowDuty) 0) < lowDuty.clk.k ∧ CommitIdle noField ∧ noField.brg.st = 1 ∧ noField.clk.k < limitK noField ∧ 8 ≤ noField.clk.k ∧
      ∀ f, f < 36 → fieldGone noField f = true := by
  refine ⟨by unfold CommitIdle; decide, ?_, by unfold CommitIdle; decide, by decide, by decide +kernel, by decide, by decide +kernel⟩
  rw [Nat.min_zero]
  decide

/-- For Obligations.PowerLossAndModuleResetKeepWhatTheyShould: the ends of the input ranges, and a module that waits for its input. -/
theorem test_meets_power_loss :
    (-11 : Int) < -10 ∧ (-10 : Int) ≤ -10 ∧ (-10 : Int) < 400 ∧ (840 : Int) < 841 ∧ (539 : Int) < 540 ∧ up.inp.main = true ∧ up.inp.sloe = true ∧
    ∃ s : State, s.inp.sloe = true ∧ s.inp.main = false ∧ s.inp.inputFail = true :=
  ⟨by decide, by decide, by decide, by decide, by decide, rfl, rfl, ⟨upInp fun i => { i with main := false, inputFail := true }, by decide⟩⟩

/-- For Obligations.PortAndFunctionResets: one port's PERST#, and a port that trains after it. -/
theorem test_meets_port_resets :
    (up.inp.sloe = true ∧ up.inp.perst ||| 1 ≠ 3 ∧ up.inp.main = true ∧ up.inp.held = false) ∧
    ∃ s : State, s.inp.sloe = true ∧ s.inp.refLost = false ∧ s.brg.st ≠ 0 ∧ s.inp.main = true ∧ s.inp.held = false ∧
      (cxlPortOf s 1).up = false ∧ tabGet false s.dom.rindOut (59 + 1) = false :=
  ⟨by decide, ⟨{ up with cxl := {} }, by decide⟩⟩

/-- A port whose lanes err not once, and one that qualifies at 32 GT/s alone. -/
theorem test_meets_port_tests :
    cxlRate ⟨List.replicate 8 (⟨0, 0, 0⟩, ⟨0, 0, 0⟩), []⟩ = 2 ∧ cxlRate ⟨[], List.replicate 8 (⟨0, 0, 0⟩, ⟨0, 0, 0⟩)⟩ = 1 ∧ cxlRate ⟨[], []⟩ = 0 := by
  decide +kernel

/-- A plan of a bring-up that finds nothing wrong. -/
def plan : BringPlan :=
  { fwOk := true, baseOk := true, k0Ok := true, k1Ok := true, fwVersion := 1, keySlot := 0, entOk := true, channels := 1280, slowStk := 0, lostCh := 0
    farPop := 24, farRate := 2, farBad := false, ports := List.replicate 48 (List.replicate 4 ⟨0, 0, 0⟩), reach := 0
    cxl0 := ⟨List.replicate 8 (⟨0, 0, 0⟩, ⟨0, 0, 0⟩), []⟩, cxl1 := ⟨List.replicate 8 (⟨0, 0, 0⟩, ⟨0, 0, 0⟩), []⟩, found := [], fenceFails := []
    laneSub := 0, wireSub := 0, chSpare := 0, chLost := 0, rowRep := 0, times := [1, 2, 3, 4, 5, 6, 7], badRec := none, pause := none }

/-- A bring-up with phase `n` in progress. -/
def bringing (n : Nat) (p : BringPlan) : State :=
  { inp := { sloe := true, main := true, refOk := true }, brg := { phase := n, plan := some p }, pith := { running := decide (3 < n) } }

/-- For Obligations.BringUpReachesItsOutcome: power-on from reset with each plan, the end of a module reset, and a pith that is waited for. -/
theorem test_meets_bring_up :
    (State.reset.inp.sloe = false ∧ State.reset.trs.slotOk = true ∧ bitOf State.reset.trs.keyRev.toNat plan.keySlot.toNat = false ∧
      objPasses State.reset 0 State.reset.trs.image = true ∧ objPasses State.reset 2 State.reset.yld.baseObj = true) ∧
    (plan.fwOk = true ∧ plan.baseOk = true ∧ plan.k0Ok = true ∧ plan.k1Ok = true) ∧ { plan with fwOk := false }.fwOk = false ∧
    { plan with baseOk := false }.baseOk = false ∧ (∃ s : State, s.inp.main = true ∧ s.inp.held = true) ∧ plan.pause = none ∧
    { plan with pause := some 1 }.pause = some 1 ∧
    (∃ (s : State) (pl : BringPlan), s.brg.plan = some pl ∧ s.brg.st = 0 ∧ s.brg.phase = 3 ∧ s.inp.main = true ∧ s.inp.held = false ∧
      s.pith.active = 0 ∧ pl.k0Ok = false ∧ pl.k1Ok = false ∧ pl.baseOk = false) ∧
    ∀ n, (bringing n plan).pending = [] ∧ (bringing n plan).brg.plan = some plan ∧ bringWaits (bringing n plan) = false ∧
      (bringing n plan).brg.phase = n ∧ pithBad (bringing n plan) 0 = false ∧ (bringing n plan).pith.active = 0 ∧
      (bringing n plan).brg.warm = false :=
  ⟨by decide, by decide, rfl, rfl, ⟨upInp fun i => { i with held := true }, by decide⟩, rfl, rfl,
    ⟨bringing 3 { plan with k0Ok := false, k1Ok := false, baseOk := false }, _, rfl, rfl, rfl, rfl, rfl, rfl, rfl, rfl, rfl⟩,
    fun _ => ⟨rfl, rfl, rfl, rfl, rfl, rfl, rfl⟩⟩

/-! ## Witnesses: clocks, commits, barriers and errors -/

/-- `up` with job 1 live and running. -/
def withJob : State := { up with job := [(1, { live := true, number := 9, st := .running, origin := 20 })] }

/-- A change under way, of field 20 alone. -/
def change : Change := { kind := .preempt, arg := 1, parts := [.field 20], csn := 3, epoch := 24, at_ := 0 }

/-- `withJob` with the pith's side of commits changed. -/
def withCom (g : Commit → Commit) : State := { withJob with com := g withJob.com }

/-- For Obligations.TheReferenceDrivesTheNominalCount. -/
theorem test_meets_reference :
    (up.inp.refOk = true ∧ up.inp.refLost = false ∧ up.inp.main = true ∧ up.inp.held = false) ∧
    nominalEpoch (match exec .refTick up with | .next t => t | _ => up) = nominalEpoch up ∧
    (pithUp (withCom fun c => { c with out := some change }) = true ∧ (withCom fun c => { c with out := some change }).com.out = some change) ∧
    pithUp (upInp fun i => { i with held := true }) = false ∧
    (∃ s : State, s.inp.sloe = true ∧ s.inp.refOk = false ∧ s.inp.refGone = false ∧ s.inp.refLost = true) ∧
    (up.inp.sloe = true ∧ up.inp.backup = false) ∧
    (∃ s : State, pithUp s = true ∧ (fieldAsids s 20).filter (awaitsStart s 20) = [1] ∧ (fieldOf s 20).cond.oscTry = 0) ∧
    ∃ s : State, pithUp s = true ∧ (fieldAsids s 20).filter (awaitsStart s 20) = [1] ∧ (fieldOf s 20).cond.oscTry ≠ 0 :=
  ⟨by decide, by decide +kernel, by decide, by decide, ⟨upInp fun i => { i with refOk := false, refLost := true }, by decide⟩, by decide,
    ⟨upField fun x => { x with clk := { x.clk with slot := 4096 }, job := { x.job with start := [(1, 4096)] } }, by decide +kernel⟩,
    ⟨upField fun x => { x with cond := { x.cond with oscTry := 1 }, clk := { x.clk with slot := 4096 }, job := { x.job with start := [(1, 4096)] } },
      by decide +kernel⟩⟩

/-- Field 20 with its cycle counter and duty, and at slot `slot`. -/
def cycle (cyc duty slot : Nat) (thermal : Bool) : State :=
  upField fun x => { x with clk := { x.clk with cyc := cyc, slot := slot, thermal := thermal }, pow := { x.pow with duty := duty } }

/-- The governor lets the present cycle run. -/
def runs (s : State) : Prop := (fieldOf s 20).clk.cyc * (fieldOf s 20).pow.duty / 32 < ((fieldOf s 20).clk.cyc + 1) * (fieldOf s 20).pow.duty / 32

/-- For Obligations.ACycleAdvancesOrIsCounted: a suppressed cycle, a bubble, a hold, and an advance. -/
theorem test_meets_cycle :
    (fieldClocked (cycle 0 16 64 false) 20 = true ∧ ¬ runs (cycle 0 16 64 false)) ∧
    (runs (cycle 0 32 100 false) ∧ bubbles (cycle 0 32 100 false) 20 = true) ∧
    (runs (cycle 31 32 0 true) ∧ bubbles (cycle 31 32 0 true) 20 = false ∧ holdCause (cycle 31 32 0 true) 20 = .thermal) ∧
    (runs (cycle 31 32 99 false) ∧ bubbles (cycle 31 32 99 false) 20 = false ∧ holdCause (cycle 31 32 99 false) 20 = .none) := by
  unfold runs
  decide +kernel

/-- For Obligations.TheStandbyPithTakesOver: with a standby, without one, and in a takeover, with and without a domain in handling. -/
theorem test_meets_takeover :
    (up.inp.main = true ∧ up.inp.held = false ∧ up.pith.running = true ∧ up.pith.takeover = false ∧ up.pith.standby = false ∧ up.trs.safe = false) ∧
    (∃ s : State, s.pith.running = true ∧ s.pith.takeover = false ∧ s.pith.standby = true ∧ s.inp.main = true ∧ s.inp.held = false) ∧
    (∃ s : State, s.inp.main = true ∧ s.inp.held = false ∧ s.pith.running = true ∧ s.pith.takeover = false ∧ s.pith.standby = true ∧
      (jobOf s 1).live = true ∧ (jobOf s 1).st = .saving ∧ (jobOf s 1).saved.copied = true) ∧
    ∀ lost : Bool, ∃ s : State, s.inp.main = true ∧ s.inp.held = false ∧ s.pith.takeover = true ∧ s.pith.wrote = false ∧ s.trs.safe = false ∧
      s.pith.lost = lost :=
  ⟨by decide, ⟨{ up with pith := { running := true, standby := true } }, by decide⟩,
    ⟨{ up with pith := { running := true, standby := true }, job := [(1, { live := true, st := .saving, saved := { copied := true } })] }, by decide⟩,
    fun b => ⟨{ up with pith := { running := true, takeover := true, lost := b } }, rfl, rfl, rfl, rfl, rfl, rfl⟩⟩

/-- For Obligations.ParticipantsStageDecideAndRefuse: an argument that is valid and one that is not, the first epoch in time, eight decided
changes, and the slots on both sides of a change's epoch. -/
theorem test_meets_participants :
    partAlive up (.field 20) = true ∧ argOk up (.field 20) .preempt 1 = true ∧ argOk up (.field 20) .preempt 2 = false ∧
    ¬ 8 < partSlot up (.field 20) / 4096 + 8 ∧ 7 < partSlot up (.field 20) / 4096 + 8 ∧
    (∃ s : State, partAlive s .root = true ∧ 8 ≤ ((stagedOf s .root).filter (·.decided)).length) ∧
    partSlot up (.field 20) < 4096 * 1 ∧ 4096 * 0 < partSlot up (.field 20) :=
  ⟨by decide, by decide +kernel, by decide +kernel, by decide, by decide,
    ⟨withCom fun c => { c with root := List.replicate 8 { csn := 1, kind := .freq, arg := 8, epoch := 20, decided := true } }, by decide⟩,
    by decide, by decide⟩

/-- `withJob` with that change prepared. -/
def prepared : State := withCom fun c => { c with out := some change }

/-- For Obligations.ThePithDecidesAbortsAndRepeats: the last ACK, an ACK that is late, a change without answers, a field that has not applied a
decision, and an aborted change. -/
theorem test_meets_decisions :
    (pithUp prepared = true ∧ prepared.com.queue = [] ∧ prepared.inp.refLost = false ∧ prepared.trs.safe = false ∧ prepared.com.out = some change ∧
      Part.field 20 ∈ change.parts ∧ nominalEpoch prepared < change.at_ + 8 ∧ ∀ p ∈ change.parts, p = .field 20 ∨ p ∈ change.acked) ∧
    (∃ s : State, pithUp s = true ∧ s.com.out = some change ∧ change.at_ + 8 ≤ nominalEpoch s) ∧
    (∃ s : State, pithUp s = true ∧ fieldGone s 20 = false ∧ (∃ r ∈ s.com.resent, r.1 = .field 20 ∧ r.2 + 8 ≤ nominalEpoch s) ∧
      ∃ d ∈ s.com.committed, Part.field 20 ∈ d.parts) ∧
    (∃ s : State, pithUp s = true ∧ fieldGone s 20 = false ∧ (∃ r ∈ s.com.resent, r.1 = .field 20 ∧ r.2 + 8 ≤ nominalEpoch s) ∧
      ∃ d ∈ s.com.aborted, Part.field 20 ∈ d.parts ∧ ∃ x ∈ (fieldOf s 20).clk.staged, x.csn = d.csn ∧ x.decided = false) ∧
    ∃ s : State, pithUp s = true ∧ s.com.out = none ∧ s.com.retry = [change] ∧ change.after ≤ nominalEpoch s ∧ changeLives s change = true ∧
      partsOf s change.kind change.arg ≠ [] :=
  ⟨by decide, ⟨{ prepared with clk := { n8 := 8 * 4096 * 8 } }, by decide⟩,
    ⟨{ (withCom fun c => { c with resent := [(.field 20, 0)], committed := [change] }) with clk := { n8 := 8 * 4096 * 8 } }, by decide⟩,
    ⟨{ (withCom fun c => { c with resent := [(.field 20, 0)], aborted := [change] }) with
        clk := { n8 := 8 * 4096 * 8 }
        fld := [(20, { fieldUp with clk := { staged := [{ csn := 3, kind := .preempt, arg := 1, epoch := 24 }] } })] }, by decide +kernel⟩,
    ⟨withCom fun c => { c with retry := [change] }, by decide +kernel⟩⟩

/-- A vector core's task present in bunch 3 of field 20. -/
def oneTask : State := { withJob with cor := [(288 * 20 + 8 * 3 + 4, { tasks := [(0, task)] })] }

/-- For Obligations.BarriersReportsAndRest. -/
theorem test_meets_barriers :
    ((jobOf oneTask 1).live = true ∧ (jobOf oneTask 1).st ≠ .stopped ∧ oneTask.inp.main = true ∧ oneTask.inp.held = false ∧
      jobBunches oneTask 1 = [36 * 20 + 3]) ∧
    (fieldGone oneTask 20 = false ∧ hasJob oneTask 20 1 = true ∧ 1 ∉ (fieldOf oneTask 20).job.halted ∧ tabGet 0 (fieldOf oneTask 20).job.pre 1 = 0) ∧
    (∃ s : State, pithUp s = true ∧ (jobOf s 1).live = true ∧ onStem s (.yieldReport 20 3 1 5 true) = true) ∧
    ∃ s : State, CommitIdle s ∧ fieldGone s 20 = false ∧ (fieldOf s 20).cond.owner = 0 ∧ (fieldOf s 20).cond.leases ≠ [] ∧
      (fieldOf s 20).cond.act = .running :=
  ⟨by decide +kernel, by decide +kernel, ⟨{ withJob with stem := { msgs := [packet withJob (.yieldReport 20 3 1 5 true)] } }, by decide +kernel⟩,
    ⟨upField fun x => { x with cond := { x.cond with owner := 0, leases := [2] } }, by unfold CommitIdle; decide⟩⟩

/-- An event of a class, in a domain that is idle in `up`. -/
def event (code : BitVec 16) : ErrMsg := { code := code, src := 20, asid := 1 }

/-- For Obligations.EventsAreLoggedAndContained: CORRECTED, CONTAINED and DEVICE events, a fence and a report that a decision is missing. -/
theorem test_meets_events :
    (pithUp withJob = true ∧ codeClass 0x0001 = 0 ∧ withJob.log.recs = [] ∧ lowUsed withJob < 192) ∧
    (codeClass 0x0107 = 1 ∧ codeClass 0x0302 = 3 ∧ (domGet withJob (domainOf (event 0x0107))).st = 0 ∧
      (domGet withJob (domainOf (event 0x0302))).st = 0 ∧ freeRec withJob ≠ none ∧ withJob.log.pend = [] ∧
      ∀ a ∈ liveJobs withJob, (jobOf withJob a).st ≠ .saving) ∧
    (∃ s : State, pithUp s = true ∧ (fieldOf s 20).cond.fenced = true ∧ (domGet s (.field 20)).st = 0 ∧ freeRec s ≠ none) ∧
    (∃ s : State, pithUp s = true ∧ s.com.resent = [] ∧ (s.com.committed.filter fun x => x.parts.contains (.field 20)) ≠ []) ∧
    (event 0x0107).notPresent = false ∧ ({ event 0x0107 with notPresent := true } : ErrMsg).notPresent = true :=
  ⟨by decide +kernel, by decide +kernel, ⟨upField fun x => { x with cond := { x.cond with fenced := true, fcause := 7 } }, by decide +kernel⟩,
    ⟨withCom fun c => { c with committed := [change] }, by decide⟩, rfl, rfl⟩

/-- For Obligations.HaltsDiagnosesAndLosses: a job to be halted, a domain in handling with each class, a field under diagnosis, and the last
die of the rind. -/
theorem test_meets_halts :
    (fieldGone withJob 20 = false ∧ hasJob withJob 20 1 = true ∧ hasWork withJob 20 1 = true) ∧
    (∃ s : State, pithUp s = true ∧ s.stem.halts.find? (fun h => h.1 == 1) = some (1, 7) ∧ (jobOf s 1).live = true ∧ jobFields s 1 = [20] ∧
      fieldGone s 20 = false) ∧
    (∃ s : State, pithUp s = true ∧ (domGet s (.field 20)).st ≠ 0 ∧ freeRec s ≠ none ∧ 3 ≤ (domGet s (.field 20)).cls + 1) ∧
    (∃ s : State, pithUp s = true ∧ (fieldOf s 20).cond.diagHold = true ∧ (freeRec s).isSome = true) ∧
    (tabGet false up.dom.rindOut 60 = false ∧ tabGet false up.dom.rindOut 41 = false) :=
  ⟨by decide, ⟨{ withJob with stem := { halts := [(1, 7)] } }, by decide +kernel⟩,
    ⟨{ withJob with dom := { st := [(domKey (.field 20), { st := 1, seq := 3, cls := 2 })] } }, by decide +kernel⟩,
    ⟨upField fun x => { x with cond := { x.cond with diagHold := true } }, by decide +kernel⟩, by decide⟩

/-! ## Witnesses: spares, streams, the rind and memories -/

/-- `up` with the yield map changed. -/
def upYld (g : Yield → Yield) : State := { up with yld := g up.yld }

/-- A site of field 19 that is due. -/
def siteEntry : YEnt := { kind := ykSite, unit := 19, loc := 2, value := 4 }

/-- For Obligations.SparesAreRecordedAndRemapped: a free field, one that runs, a test that is due, and the steps of a record, with room in
flash and without. -/
theorem test_meets_spares :
    (pithUp up = true ∧ fieldFree up 19 = true ∧ remapEntry 19 siteEntry = true) ∧ fieldRuns up 20 = true ∧
    (∃ s : State, pithUp s = true ∧ fieldFree s 19 = true ∧ 0 ∈ (fieldOf s 19).pow.testDue) ∧
    (∃ s : State, pithUp s = true ∧ s.yld.draftStep = 0 ∧ siteEntry ∈ s.yld.due) ∧
    (∃ s : State, pithUp s = true ∧ s.yld.draftStep = 1 ∧ canSign s.trs = true) ∧
    (∃ s : State, pithUp s = true ∧ s.yld.draftStep = 2 ∧ s.yld.full = false ∧ siteEntry ∈ s.yld.draft) ∧
    ∃ s : State, pithUp s = true ∧ s.yld.draftStep = 2 ∧ s.yld.full = true ∧ siteEntry ∈ s.yld.draft :=
  ⟨by decide, by decide, ⟨{ up with fld := [(19, { pow := { testDue := [0] } })] }, by decide⟩, ⟨upYld fun y => { y with due := [siteEntry] }, by decide⟩,
    ⟨upYld fun y => { y with draft := [siteEntry], draftStep := 1 }, by decide⟩,
    ⟨upYld fun y => { y with draft := [siteEntry], draftStep := 2 }, by decide⟩,
    ⟨upYld fun y => { y with draft := [siteEntry], draftStep := 2, full := true }, by decide⟩⟩

/-- A request flit for stream 5 with operation `op`. -/
def request (op : Nat) : BitVec 1024 := BitVec.ofNat 1024 (op + 5 * 4)

/-- Field 20 with that request in the tap since the slot before, from the scalar core's STRM, with or without the near base that it names,
and with its stream. -/
def asked (op : Nat) (base : Bool) (y : Stream) (l : List Transfer := []) : State :=
  upField fun x => { x with
    net := { x.net with req := [{ at_ := 63, src := ckey scalarCore + 1, data := request op }] }
    str := { x.str with nbase := if base then [(20, 1)] else [], str := [(5, y)], xfer := l } }

/-- A transfer of stream 5, tag 0. -/
def transfer (write : Bool) (target : Nat) (body : Option BlockData) : Transfer :=
  { tag := 0, stream := 5, didx := 0, block := 0, asid := 1, write := write, target := target, far := 4096, oda := 20 * 2 ^ 34, body := body }

/-- The hypotheses that the clauses of the statement have in common. -/
def askedMet (s : State) (op : Nat) : Prop :=
  fieldRuns s 20 = true ∧ (∀ q ∈ (fieldOf s 20).net.req, dueRequest s scalarCore (request op) op = some q) ∧ (fieldOf s 20).net.req ≠ []

/-- For Obligations.StreamRequestsTakeEffect: each request on a stream that allows it, and on one that does not; a flit that no tap took. -/
theorem test_meets_stream_requests :
    (askedMet (asked 0 true {}) 0 ∧ tabGet 0 (fieldOf (asked 0 true {}) 20).str.nbase (4 * 5 + 0) ≠ 0) ∧
    (askedMet (asked 0 false {}) 0 ∧ tabGet 0 (fieldOf (asked 0 false {}) 20).str.nbase (4 * 5 + 0) = 0) ∧
    (askedMet (asked 1 true { st := .done }) 1 ∧ (streamOf (asked 1 true { st := .done }) 20 5).st = .done) ∧
    (askedMet (asked 1 true { st := .active }) 1 ∧ (streamOf (asked 1 true { st := .active }) 20 5).pend = false) ∧
    askedMet (asked 1 true { st := .active, pend := true }) 1 ∧ askedMet (asked 1 true {}) 1 ∧
    (askedMet (asked 2 true { st := .active }) 2 ∧ openXfers (asked 2 true { st := .active }) 20 5 = []) ∧
    (askedMet (asked 2 true { st := .active } [transfer false 0 none]) 2 ∧ openXfers (asked 2 true { st := .active } [transfer false 0 none]) 20 5 ≠ []) ∧
    askedMet (asked 2 true {}) 2 ∧
    (dueRequest (asked 2 true {}) scalarCore (request 0) 0 = none ∧ dueRequest (asked 2 true {}) scalarCore (request 2) 1 = none ∧
      dueRequest (asked 0 true {}) scalarCore (request 0) 2 = none) ∧
    ∃ s : State, askedMet s 2 ∧ openXfers s 20 5 = [] ∧ (streamOf s 20 5).st = .active ∧ (domGet s (.stream 20)).st ≠ 0 ∧ anyFaulted s 20 = false := by
  unfold askedMet
  refine ⟨?_, ?_, ?_, ?_, ?_, ?_, ?_, ?_, ?_, ?_,
    { asked 2 true { st := .active } with dom := { st := [(domKey (.stream 20), { st := 1, code := 0x020A, seq := 1, cls := 2 })] } }, ?_⟩ <;>
    decide +kernel

/-- A GET of one row of 64 granules from DVA 4,096 to the first shared bank of field 20; with a bad CRC where `ok` is false. -/
def descriptor (ok : Bool) : BitVec 512 :=
  let d := 1 + 63 * 2 ^ 32 + 4096 * 2 ^ 64 + 20 * 2 ^ 34 * 2 ^ 128 + 10 * 2 ^ 288
  BitVec.ofNat 512 (d + (crc32c 60 d + b2n (!ok)) % 2 ^ 32 * 2 ^ 480)

/-- Stream 5 of field 20 with a descriptor list; bank 0 is ON where `on`. -/
def streaming (y : Stream) (on : Bool) : State :=
  upField fun x => { x with str := { x.str with str := [(5, { y with st := .active })] }, mem := { x.mem with bank := if on then [(0, { st := 2, owner := 1 })] else [] } }

/-- Stream 5 before its next block, with a translation that its engine holds where `on`. -/
def issuing (on : Bool) : State :=
  upField fun x => { x with
    str := { x.str with
      str := [(5, { st := .active, begun := true, total := 1, descs := [descriptor true] })]
      etlb := if on then [(0, [{ asid := 1, dva := 0, size := 65536, pte := 15 }])] else [] } }

/-- For Obligations.DescriptorsBeginAndBlocksIssue: a descriptor that is early, invalid, not backed, and one that begins; a list to fetch from
on-die memory and from the far side; a block to issue with a translation and without one, with a request burst left and without. -/
theorem test_meets_descriptors :
    let d := (descriptor true).toNat
    let b := (descriptor false).toNat
    (∀ y : Stream, ∀ on : Bool, fieldRuns (streaming y on) 20 = true ∧ (streamOf (streaming y on) 20 5).st = .active) ∧
    heldDesc { descs := [descriptor true] } 0 = some d ∧ slotOf up 20 < anchorOf up 20 1 + 4096 * (1 + dStart d) ∧
    ¬ slotOf up 20 < anchorOf up 20 1 + 4096 * (0 + dStart d) ∧
    descOk d (farOf { descs := [descriptor true] } d) 0 = true ∧ descOk b (farOf { descs := [descriptor false] } b) 0 = false ∧
    nearRanges (20 * 2 ^ 34) d = [(20 * 2 ^ 34, 4096)] ∧ odaBacked (streaming {} true) 1 (20 * 2 ^ 34) 4096 = true ∧
    odaBacked (streaming {} false) 1 (20 * 2 ^ 34) 4096 = false ∧
    heldDesc {} 0 = none ∧ odaBacked (streaming {} true) 1 (20 * 2 ^ 34) 1024 = true ∧ odaBacked (streaming {} false) 1 (20 * 2 ^ 34) 1024 = false ∧
    freeTag (streaming {} true) 20 = some 0 ∧
    (∀ on : Bool, (streamOf (issuing on) 20 5).begun = true ∧ heldDesc (streamOf (issuing on) 20 5) 0 = some d ∧ tagFree (issuing on) 20 0 = true) ∧
    (takeAccess (issuing true) 20 0 1 4096 4096 false).1.isRight = true ∧ (takeAccess (issuing false) 20 0 1 4096 4096 false).1 = .inl 1 ∧
    openBurst (issuing true) 20 0 1 = none ∧ tagFree (addXfer (issuing true) 20 (transfer false 0 none)) 20 0 = false := by
  refine ⟨fun y on => ⟨rfl, rfl⟩, ?_⟩
  decide +kernel

/-- `up` with the transfers `l` open in field 20. -/
def opened (l : List Transfer) : State := upField fun x => { x with str := { x.str with xfer := l } }

theorem opened_xfer (l : List Transfer) : (fieldOf (opened l) 20).str.xfer = l := rfl

/-- Where a transfer has each tag, none is free. -/
theorem test_no_tag_left (l : List Transfer) (h : ∀ g, g < 2048 → ∃ t ∈ l, t.tag = g) :
    freeTag (opened l) 20 = none ∧ openBurst (opened l) 20 0 1 = none := by
  refine ⟨List.find?_eq_none.mpr fun g hg => ?_, rfl⟩
  obtain ⟨t, ht, e⟩ := h g (List.mem_range.mp hg)
  have hx : (l.any fun t => t.tag == g) = true := List.any_eq_true.mpr ⟨t, ht, by simp [e]⟩
  rw [tagFree, opened_xfer, hx]
  simp

theorem test_every_tag_taken : ∃ l : List Transfer, ∀ g, g < 2048 → ∃ t ∈ l, t.tag = g :=
  ⟨(List.range 2048).map fun n => { transfer false 0 none with tag := n },
    fun g hg => ⟨_, List.mem_map.mpr ⟨g, List.mem_range.mpr hg, rfl⟩, rfl⟩⟩

/-- Field 20 in slot 300 with one transfer, carrier channels of stream engine 0 (channel 0 inbound and channel 1 outbound for die `die`), a
block that has come to the taps and one that has gone through them, and the first shared bank's port given to the engine in this slot. -/
def carrying (x : Transfer) (die : Nat) : State :=
  upField fun f => { f with
    clk := { f.clk with slot := 300, n8 := 8000 }
    net := { f.net with
      carrier := [(0, BitVec.ofNat 64 (die * 2 ^ 12)), (1, BitVec.ofNat 64 (2 ^ 6 + die * 2 ^ 12))], cred := [(0, 2)]
      inb := [{ chan := 0, tag := 0, from_ := 0, left := 0, done := 5 }], outb := [{ chan := 1, tag := 0, from_ := 0, left := 0, done := 5 }] }
    mem := { f.mem with wheel := [(12, 0x8000)] }
    str := { f.str with xfer := [x], str := [(5, { st := .active, descs := [descriptor true] })] } }

/-- For Obligations.TheRindCarriesBlocks: a read in each tier, a burst with a credit, each outcome of a landing, the steps of its pieces, and a
write that has arrived. -/
theorem test_meets_rind :
    let r : Transfer := { transfer false 0 none with known := true }
    let got : Transfer := { transfer false 0 (some failedBlock) with chan := 1 }
    let w : Transfer := { transfer true 0 (some failedBlock) with known := true }
    (fieldClocked (carrying r 1) 20 = true ∧ xferOf (carrying r 1) 20 0 = some r ∧ xferDie (carrying r 1) r = 1) ∧
    channels (carrying r 1) 20 1 0 1 = [1] ∧ channels (carrying r 1) 20 0 0 1 = [0] ∧ 4096 / 4096 < nearBlocks up ∧ 4096 + 4096 ≤ farBytes up ∧
    cxlPortFor up 4096 = some 1 ∧
    (inArrived (carrying got 1) 20 got = true ∧ hdrKind (burstHeader 1 0 0 7 0 0 []).toNat = 1 ∧ hdrNack (burstHeader 1 0 0 7 0 0 []).toNat = 0 ∧
      hdrXtag (burstHeader 1 0 0 7 0 0 []).toNat = 0 ∧ hdrChan (burstHeader 1 0 0 7 0 0 []).toNat = 0 ∧
      hdrCheck (burstHeader 1 0 0 7 0 0 []).toNat = 7) ∧
    outArrived (carrying w 1) 20 0 = true ∧ isSkew (carrying got 1) 20 got = false ∧ pieceAt (carrying got 1) 20 got = got.oda ∧
    pieceAllowed (carrying got 1) 20 300 0 got.oda false = true ∧ pieceAllowed (carrying got 1) 20 301 0 got.oda false = false ∧
    (streamPort got.oda ∉ ([] : List Nat) ∧ streamPort got.oda ∈ [streamPort got.oda]) ∧
    { got with landed := true, moved := 32 }.moved = 32 ∧ (fieldOf (carrying got 1) 20).mem.wr = [] := by
  intro r got w
  refine ⟨?_, ?_, ?_, ?_, ?_, ?_, ?_, ?_, ?_, ?_, ?_, ?_, ?_, ?_, ?_⟩ <;> decide +kernel

/-- Field 20 with its first shared bank ON, in handling for an uncorrectable error of the bank's first granule. -/
def handlingGranule : State :=
  let r : Rec := { code := 0x0101, cls := 1, dom := .field 20, dstate := 1, asid := 1, seq := 1, ntime := 0, slot := 0, src := 0, core := 0,
                   engine := 0, count := 1, addr := BitVec.ofNat 64 (20 * 2 ^ 34), detail := 0 }
  let s := streaming {} true
  { s with dom := { s.dom with st := [(domKey (.field 20), { st := 1, code := 0x0101, seq := 1, cls := 1 })] }, log := { s.log with recs := [(0, some r)] } }

/-- Field 20 with a scrub visit of its first granule, whose flips are `l`, in a slot that the wheel gives nobody. -/
def scrubbing (v : Scrub) (l : List Nat) (seen : Tab Bool := []) : State :=
  let s := streaming {} true
  { s with
    mem := { s.mem with flips := if l = [] then [] else [(20 * 2 ^ 28, l)] }
    fld := s.fld.map fun e => (e.1, { e.2 with mem := { e.2.mem with scrub := [v], seen := seen } }) }

/-- A job of one field whose image keeps the first shared bank ON from its start slot on. -/
def declaring : State :=
  { up with
    job := [(1, { live := true, origin := 20, fam := { (default : Family) with fr := 1, fc := 1, variants := [{ (default : Variant) with power := [⟨0, .bank 0, 2⟩] }] } })]
    fld := [(20, { fieldUp with job := { fieldUp.job with start := [(1, 4096)] } })] }

/-- For Obligations.MemoriesAreServicedAndScrubbed: a stream in a page fault, one that drains, a place that is ON, visits that find a sound
granule, the last of its block, a soft error and a hard one, a write-back, a place to bring ON, and a channel with its stack's spare free and
used. -/
theorem test_meets_memories :
    (∃ s : State, pithUp s = true ∧ (streamOf s 20 5).st = .faulted ∧ (streamOf s 20 5).fkind = 1) ∧
    (∃ s : State, fieldClocked s 20 = true ∧ (streamOf s 20 5).draining = true ∧ openXfers s 20 5 ≠ [] ∧ (streamOf s 20 5).releasing = false ∧
      (streamOf s 20 5).begun = false ∧ ((fieldOf s 20).str.xfer.map (·.tag)).Nodup) ∧
    (fieldRuns (streaming {} true) 20 = true ∧ placeOn (fieldOf (streaming {} true) 20) (placeKey (20 * 2 ^ 34)) = true) ∧
    (∃ s : State, pithUp s = true ∧ fieldClocked s 20 = true ∧ placeExists (.bank 0) = true ∧ declOk 2 = true ∧ (fieldOf s 20).cond.owner = 1 ∧
      slotOf s 20 < tabGet 0 (fieldOf s 20).job.start 1 ∧ framePos (jobOf s 1).fam (jobOf s 1).origin 20 = some 0 ∧
      declOf ((jobOf s 1).fam.variants.getD (jobOf s 1).variant default) 0 (.bank 0) = 2) ∧
    (∃ s : State, pithUp s = true ∧ fieldClocked s 20 = true ∧ (fieldOf s 20).cond.owner = 0) ∧
    (31 - 1 ∈ stackChannels up 39 ∧ tabGet 0 up.mem.chan (32 * 39 + 30) = 0 ∧ spareUsed up 39 = false) ∧
    (∃ s : State, pithUp s = true ∧ 30 ∈ stackChannels s 39 ∧ tabGet 0 s.mem.chan (32 * 39 + 30) = 0 ∧ spareUsed s 39 = true) ∧
    (∃ s : State, fieldRuns s 20 = true ∧ placeOn (fieldOf s 20) (placeKey (20 * 2 ^ 34)) = true ∧ (domGet s (.field 20)).st ≠ 0 ∧
      (domGet s (.field 20)).code = 0x0101 ∧ recAddr s (domGet s (.field 20)).seq = some (20 * 2 ^ 34)) ∧
    ∃ s : State, 0 / 4096 < nearBlocks s ∧ nearChannel s 0 / 32 = 0 ∧ tabGet 0 s.mem.chan (nearChannel s 0) = 1 :=
  ⟨⟨upField fun x => { x with str := { x.str with str := [(5, { st := .faulted, fkind := 1 })] } }, by decide⟩,
    ⟨upField fun x => { x with str := { x.str with str := [(5, { st := .active, draining := true })], xfer := [transfer false 0 none] } }, by decide⟩,
    by decide +kernel, ⟨declaring, by decide +kernel⟩,
    ⟨upField fun x => { x with cond := { x.cond with owner := 0 } }, by decide⟩, by decide +kernel,
    ⟨{ up with mem := { chan := [(32 * 39, 2)] } }, by decide +kernel⟩, ⟨handlingGranule, by decide +kernel⟩,
    ⟨{ up with mem := { chan := [(0, 1)] } }, by decide +kernel⟩⟩

/-- The scrub's clauses of the same statement. -/
theorem test_meets_scrub :
    let v : Scrub := { granule := 20 * 2 ^ 28 }
    let whole : Tab Bool := (List.range 63).map fun n => (20 * 2 ^ 28 + n + 1, true)
    (∀ l, fieldOf (scrubbing v l) 20 = fieldOf (scrubbing v []) 20) ∧
    (scrubFree (scrubbing v []) 20 64 [] (64 * v.granule) = true ∧
      scrubFree (scrubbing v []) 20 64 [streamPort (64 * v.granule)] (64 * v.granule) = false) ∧
    (bitsOf (64 * v.granule) 34 6 = 20 ∧ placeOn (fieldOf (scrubbing v []) 20) (placeKey (64 * v.granule)) = true) ∧
    softWords (flipsOf (scrubbing v [3]).mem v.granule) ≠ [] ∧ hardWords (flipsOf (scrubbing v [3, 4]).mem v.granule) ≠ [] ∧
    flipsOf (scrubbing v []).mem v.granule = [] ∧
    (∀ i, i < 64 → 64 * (v.granule / 64) + i ≠ v.granule → tabGet false (fieldOf (scrubbing v [] whole) 20).mem.seen (64 * (v.granule / 64) + i) = true) ∧
    wordWrong { scrubbing v [] whole with mem := { (scrubbing v [] whole).mem with crcErr := [(20 * 2 ^ 22, 1)] } } (v.granule / 64) = true := by
  intro v whole
  refine ⟨fun l => rfl, ?_, ?_, ?_, ?_, ?_, ?_, ?_⟩ <;> decide +kernel

/-- For the outcomes of a landing: a block whose CHECK is their CRC-32C and one more. -/
theorem test_meets_check (b : BlockData) :
    checkOk { b with check := BitVec.ofNat 32 (crc32c 4096 b.data.toNat) } = true ∧
    checkOk { b with check := BitVec.ofNat 32 (crc32c 4096 b.data.toNat + 1) } = false := by
  have h := Laws.crc32c_lt 4096 b.data.toNat
  unfold checkOk
  constructor
  · rw [beq_iff_eq, BitVec.toNat_ofNat, Nat.mod_eq_of_lt h]
  · rw [beq_eq_false_iff_ne, BitVec.toNat_ofNat]
    show (crc32c 4096 b.data.toNat + 1) % 2 ^ 32 ≠ crc32c 4096 b.data.toNat
    omega

/-! ## Witnesses: jobs and host commands -/

/-- A family of 2,048 bytes with one field, one variant, and no tasks; each section has 64 bytes. -/
def oneField : Family :=
  { version := 1, flags := 1, fr := 1, fc := 1, lead := 8, nvar := 1, policy := 8, seedStreams := 0, build := 0, sectDir := 256, nsect := 8
    fsize := 2048, sums := none, poison := none
    dir := ⟨10, 255, 1024, 64, false⟩ :: ([1, 2, 3, 4, 5, 6, 7].map fun t => ⟨t, 0, 1024 + 64 * t, 64, false⟩)
    variants := [{
      caps := [{ role := 1, absent := 0, cores := [] }], tasks := [], toks := [], power := [], image := [], routes := []
      period0 := 1, period1 := 1, staged0 := 0, staged1 := 0, wheels := [], carriers := [], bases := [], barriers := [], layers := []
      kscheds := [], entries := [], extents := [] }]
    yields := [], mirror := none, saveBytes := 4096, findings := [] }

/-- `oneField` with the words of a VEC task from program counter `entry` on, and a SCALAR task that runs into the YIELD of one epoch. -/
def codedBy (words : List Nat) (entry : Nat) : Family :=
  let bytes := fun (core : Nat) (l : List Nat) => (List.range (8 * l.length)).map fun i =>
    (⟨0, 2 ^ 33 + 3 * 2 ^ 23 + core * 2 ^ 20 + i, BitVec.ofNat 8 (l.getD (i / 8) 0 / 256 ^ (i % 8))⟩ : ImageByte)
  let task := fun (cor : CoreIx) (eng : Engine) (entry : Nat) =>
    ({ pos := 0, bun := 3, cor := cor, eng := eng, entry := BitVec.ofNat 32 entry, step := 0, windows := [(0, BitVec.ofNat 64 (0x800 * 2 ^ 22 + 7 * 2 ^ 47))], masks := [] } : TaskDecl)
  { oneField with
    variants := oneField.variants.map fun v =>
      { v with tasks := [task 4 .vec entry, task 7 .scalar 0], image := bytes 4 words ++ bytes 7 [0x03]
               power := [⟨0, .seg 3 4 0, 2⟩, ⟨0, .seg 3 7 0, 2⟩] }
    yields := [{ dj := 1, flags := 2 }] }

/-- LSET of 2, DELAY, LEND back to it, FRSUM, and a YIELD. -/
def coded (entry : Nat) : Family := codedBy [0x05 + 2 ^ 21, 0x01, 0x06, 0x7C, 0x03] entry

/-- R144, R177 and R220: what the verifier finds in the words of a task. -/
theorem test_code_checks :
    let codes := fun m : Family => m.variants.flatMap fun v => (codeErrors m v (tracesOf m v)).map (·.1)
    codes (coded 0) = [0x1A] ∧ codes { coded 0 with flags := 0 } = [] ∧ 0x12 ∈ codes { coded 0 with flags := 0, yields := [] } ∧
    codes { coded 8 with flags := 0 } = [0x07] ∧ (codes { coded 1 with flags := 0 }).head? = some 0x05 ∧
    (codes { coded 4096 with flags := 0 }).head? = some 0x03 := by decide +kernel

set_option maxRecDepth 100000 in
/-- R182: two FRSUM of one register, the second of which would wait for the first, and one alone. -/
theorem test_timing_checks :
    let hits := fun (check : Plan → List Hit) (m : Family) =>
      m.variants.flatMap fun v => (check (planOf m v (tracesOf m v))).map (·.code)
    hits registerHits (codedBy [0x7C, 0x7C, 0x03] 0) = [0x0F] ∧ hits planHits (codedBy [0x7C, 0x03] 0) = [] := by
  intro hits
  constructor <;> decide +kernel

/-- A command of queue 1 with operation code `opc`. -/
def cmd (opc : Nat) (arg0 arg1 : BitVec 64) (payload : BitVec 512) : Cmd := { sq := 1, opc := opc, fence := false, cid := 7, arg0 := arg0, arg1 := arg1, payload := payload }

/-- `withJob`, its job in state `st` with `oneField`, with the command waiting, and queue 1 enabled with pages 0 to 255 granted. -/
def host (c : Cmd) (st : JobSt := .running) (g : Job → Job := id) : State :=
  { withJob with
    job := [(1, g { live := true, number := 9, st := st, origin := 20, fam := oneField })], lastJob := 9
    cxl := { up.cxl with cmds := [c], grant := [(0, { pages := 255, rd := true, wr := true, valid := true })] } }
/-- Queue 1 of `host`, with one entry to fetch. -/
def ring (readable : Bool) : State :=
  let s := host (cmd 0x42 0 0 0) .running
  { s with cxl := { s.cxl with
    queue := [(1, { enable := true, sqLog := 4, tail := 1 })]
    grant := [(0, { pages := 255, rd := readable, valid := true })] } }

/-- The command that `host` holds is served. -/
theorem serves_host (opc : Nat) (a b : BitVec 64) (p : BitVec 512) (st : JobSt) (g : Job → Job) :
    Serves (host (cmd opc a b p) st g) 1 opc (cmd opc a b p) := by
  refine ⟨rfl, rfl, ?_⟩
  simp [nextCmd, host, cmd]

/-- For Obligations.SubmissionsAreCheckedAndPlaced: an entry fetched, and its outcomes. -/
theorem test_meets_entry_fetch :
    (∀ b : Bool, pithUp (ring b) = true ∧ cxlUp (ring b) = true ∧ (queueOf (ring b) 1).enable = true ∧ (queueOf (ring b) 1).tail ≠ (queueOf (ring b) 1).consumed ∧
      granted (ring b) 0 128 false = b) ∧ (queueOf (ring true) 1).sqBase.toNat + 128 * ((queueOf (ring true) 1).consumed.toNat % 16) = 0 ∧
    sqEntryOk 0 = false ∧ sqEntryOk 2 = true := by decide +kernel

/-- A submission of `oneField`; the payload's bit 193 asks for CHECKED, and bit 195 for a reproducible job. -/
def submission (p : BitVec 512) (b : Bring) (m : Nat) : State :=
  let s := host (cmd 1 0 0 p) .running
  { s with brg := b, yld := { s.yld with nchan := m } }

/-- `oneField` with a core that is UNCHECKED. -/
def unchecked : Family := { oneField with variants := oneField.variants.map fun v => { v with caps := [{ role := 1, absent := 0, cores := [(0, 4)] }] } }

/-- For Obligations.SubmissionsAreCheckedAndPlaced: a submission before the module is ready, one ill formed, one not granted, one with a finding,
one that no variant fits, one with no room for its save area, and one that is admitted. -/
theorem test_meets_submit :
    (∀ p b m, Serves (submission p b m) 1 1 (cmd 1 0 0 p)) ∧ cxlUp (submission 0 up.brg 1280) = true ∧
    (submission 0 {} 1280).brg.st ≠ 1 ∧ (submission 0 up.brg 1280).brg.st = 1 ∧ payloadOk (2 ^ 200 * 8) = false ∧ payloadOk 0 = true ∧
    payloadOk (2 ^ 63) = true ∧ granted (submission (2 ^ 63) up.brg 1280) (2 ^ 63) 0 false = false ∧ granted (submission 0 up.brg 1280) 0 0 false = true ∧
    (let found := fun fam : Family => firstFinding (allFindings fam 2048 false ++ clashFindings (submission (2 ^ 75) up.brg 1280) (submittedJob (cmd 1 0 0 (2 ^ 75)) fam 0 0))
     (found { oneField with version := 2 }).isSome = true ∧ found oneField = none ∧ found unchecked = none) ∧
    bitsOf (2 ^ 75) 64 64 = 2048 ∧ payloadOk (2 ^ 75) = true ∧ payloadOk (2 ^ 75 + 2 ^ 193) = true ∧ granted (submission (2 ^ 75) up.brg 1280) 0 2048 false = true ∧
    freeAsid (submission 0 up.brg 1280) = some 2 ∧ (submission 0 up.brg 1280).trs.entOk = false ∧
    couldFit (submission (2 ^ 75 + 2 ^ 193) up.brg 1280) (submittedJob (cmd 1 0 0 (2 ^ 75 + 2 ^ 193)) unchecked 0 10) = false ∧
    couldFit (submission (2 ^ 75) up.brg 0) (submittedJob (cmd 1 0 0 (2 ^ 75)) oneField 0 10) = true ∧ saveSpace (submission (2 ^ 75) up.brg 0) < oneField.saveBytes ∧
    oneField.saveBytes ≤ saveSpace (submission (2 ^ 75) up.brg 1280) := by
  refine ⟨fun p b m => ⟨rfl, rfl, ?_⟩, ?_⟩
  · simp [nextCmd, submission, host, cmd]
  · and_intros <;> decide +kernel

/-- For Obligations.SubmissionsAreCheckedAndPlaced: a waiting job is placed at field 0. -/
theorem test_meets_placement :
    let s := host (cmd 0x42 0 0 0) .waiting
    pithUp s = true ∧ s.trs.safe = false ∧ (jobOf s 1).live = true ∧ (jobOf s 1).st = .waiting ∧ settingsQuiet s = true ∧ (jobOf s 1).mirrored = false ∧
      placeFirst s (jobOf s 1) = some (0, 0) ∧ frameField (jobOf s 1).fam 0 0 = some 0 ∧ (capAt ((jobOf s 1).fam.variants.getD 0 default) 0).role = 1 := by
  decide +kernel

/-- `host` with a PREEMPT_JOB that has begun before its command. -/
def hostBegun (c : Cmd) (st : JobSt) : State :=
  let s := host c st
  { s with cxl := { s.cxl with cmds := [{ cmd 2 9 0 0 with begun := true }, c] } }

/-- For Obligations.JobsAreSavedRestoredAndEnded: the named job in each state, and each step of a save, a restore and a switch. -/
theorem test_meets_saves :
    (∀ opc st g, Serves (host (cmd opc 9 0 0) st g) 1 opc (cmd opc 9 0 0)) ∧
    (∀ opc st, Serves (hostBegun (cmd (opc + 3) 9 0 0) st) 1 (opc + 3) (cmd (opc + 3) 9 0 0)) ∧
    (∀ st, jobByNumber (host (cmd 2 9 0 0) st) 9 = some 1 ∧ (jobOf (host (cmd 2 9 0 0) st) 1).st = st) ∧
    (∀ st, jobByNumber (hostBegun (cmd 3 9 0 0) st) 9 = some 1 ∧ (jobOf (hostBegun (cmd 3 9 0 0) st) 1).st = st) ∧
    (CommitIdle (host (cmd 2 9 0 0)) ∧ 20 ∈ jobFields (host (cmd 2 9 0 0)) 1 ∧ (∀ f ∈ jobFields (host (cmd 2 9 0 0)) 1, fieldGone (host (cmd 2 9 0 0)) f = false ∧
      tabGet 0 (fieldOf (host (cmd 2 9 0 0)) f).job.pre 1 = 0)) ∧
    jobDrained (host (cmd 2 9 0 0) .saving) 1 = true ∧
    (jobOf (host (cmd 2 9 0 0) .saving fun j => { j with saved := { j.saved with copied := true } }) 1).saved.copied = true ∧
    begunFor (host (cmd 3 9 0 0) .saving) 1 2 = false ∧ begunFor (hostBegun (cmd 3 9 0 0) .saving) 1 2 = true ∧
    (let s := host (cmd 2 9 0 0) .resuming fun j => { j with saved := { j.saved with sealed_ := true } }
     (jobOf s 1).saved.sealed_ = true ∧ settingsQuiet s = true ∧ (jobOf s 1).restVariant = 0 ∧ restoreFirst s (jobOf s 1) = some (0, 0)) ∧
    stepDecided (host (cmd 2 9 0 0) .switching) 1 = true ∧ jobFields { host (cmd 4 9 0 0) .stopped with fld := [] } 1 = [] := by
  refine ⟨fun opc st g => serves_host opc 9 0 0 st g, fun opc st => ⟨rfl, rfl, ?_⟩, ?_, ?_, by unfold CommitIdle; decide +kernel, by decide +kernel, rfl, ?_⟩
  · simp [nextCmd, hostBegun, host, cmd]
  · intro st; cases st <;> decide +kernel
  · intro st; cases st <;> decide +kernel
  · decide +kernel

/-- For Obligations.JobsAreSavedRestoredAndEnded: a supplementary family that is not granted, one with a finding, and one that joins. -/
theorem test_meets_supplement :
    Serves (host (cmd 5 9 0 (2 ^ 63)) .preempted) 1 5 (cmd 5 9 0 (2 ^ 63)) ∧ Serves (host (cmd 5 9 0 (2 ^ 75)) .preempted) 1 5 (cmd 5 9 0 (2 ^ 75)) ∧
    jobByNumber (host (cmd 5 9 0 (2 ^ 75)) .preempted) 9 = some 1 ∧ cxlUp (host (cmd 5 9 0 (2 ^ 75)) .preempted) = true ∧
    granted (host (cmd 5 9 0 (2 ^ 63)) .preempted) (2 ^ 63) 0 false = false ∧ granted (host (cmd 5 9 0 (2 ^ 75)) .preempted) 0 2048 false = true ∧
    (let found := fun fam : Family => firstFinding (allFindings fam 2048 false ++ findIf (!supplementOk oneField fam) (headAt 0x20 0))
     found oneField = none ∧ (found { oneField with lead := 9 }).isSome = true) :=
  ⟨serves_host 5 9 0 _ _ id, serves_host 5 9 0 _ _ id, by decide +kernel, by decide +kernel, by decide +kernel, by decide +kernel, by decide +kernel⟩

/-- For Obligations.HostCommandsTakeEffect: the safe state, and windows mapped and unmapped. -/
theorem test_meets_windows :
    (∀ opc, ∃ s : State, pithUp s = true ∧ s.trs.safe = true ∧ nextCmd s 1 opc = some (cmd opc 0 0 0)) ∧
    (∃ s : State, Serves s 1 7 (cmd 7 9 0 (2 ^ 64 * 0x200000)) ∧ jobByNumber s 9 = some 1 ∧ tabGet 0 s.mem.root 1 ≠ 0 ∧ (jobOf s 1).st ≠ .stopped ∧
      0x200000 ≤ s.cxl.win * 2 ^ 30) ∧
    ∃ s : State, Serves s 1 8 (cmd 8 9 0 0x200000) ∧ jobByNumber s 9 = some 1 ∧ ∀ u, 0 ≤ u ∧ u < 0x200000 / 0x200000 → u ∈ (jobOf s 1).windows := by
  refine ⟨fun opc => ⟨{ host (cmd opc 0 0 0) with trs := { safe := true } }, rfl, rfl, ?_⟩,
    ⟨{ host (cmd 7 9 0 (2 ^ 64 * 0x200000)) with
        mem := { root := [(1, 1)] }
        cxl := { (host (cmd 7 9 0 (2 ^ 64 * 0x200000))).cxl with win := 1 } }, ⟨rfl, rfl, by decide +kernel⟩, by decide +kernel⟩,
    ⟨host (cmd 8 9 0 0x200000) .running fun j => { j with windows := [0] }, serves_host 8 9 0 _ _ _, by decide +kernel, ?_⟩⟩
  · simp [nextCmd, host, cmd]
  · rintro u ⟨-, h⟩
    obtain rfl : u = 0 := by omega
    decide

/-- A setup record for partner `ep`, with port 0, a store of 2 GiB and a log of 1 GiB. -/
def setupRec (ep : Nat) : BitVec 512 := BitVec.ofNat 512 (ep + 2 ^ 64 + 2 ^ 128 * 2 + 2 ^ 160)

/-- `host` with endpoint 3 permitted for everything through port 0, which is up, and a mirror window of 8 GiB. -/
def partner (c : Cmd) : State :=
  { host c with
    bup := { epId := 1, epSet := true, sealed_ := true, pt := [(0, BitVec.ofNat 64 (3 + 15 * 2 ^ 32))], route := [(3, 1)], port := [(0, { up := true })] }
    trs := { winFixed := true, winLo := 0, winHi := 2 ^ 33 } }

theorem serves_partner (opc : Nat) (a b : BitVec 64) (p : BitVec 512) : Serves (partner (cmd opc a b p)) 1 opc (cmd opc a b p) := by
  refine ⟨rfl, rfl, ?_⟩
  simp [nextCmd, partner, host, cmd]

/-- For Obligations.HostCommandsTakeEffect: the pair's commands. -/
theorem test_meets_pair_commands :
    (∀ opc a b p, Serves (partner (cmd opc a b p)) 1 opc (cmd opc a b p)) ∧
    setupOk 0 = false ∧ setupOk (setupRec 3).toNat = true ∧ setupFails (partner (cmd 0x10 0 0 (setupRec 3))) (setupRec 3).toNat = 0 ∧
    setupFails (partner (cmd 0x10 0 0 (setupRec 4))) (setupRec 4).toNat = 1 ∧ (partner (cmd 0x11 0 0 0)).pair.formed = false ∧
    (∃ s : State, Serves s 1 0x11 (cmd 0x11 0 0 0) ∧ s.pair.formed = true ∧ (∀ a ∈ liveJobs s, (jobOf s a).mirrored = false) ∧ s.pair.slices = []) ∧
    findSlice (partner (cmd 0x12 5 1 0)) (fun x => x.sealed_ && x.job == 5 && x.owner.toNat == 1) = none ∧
    findSlice { up with pair := { slices := [(0, { valid := true, sealed_ := true, job := 5, owner := 1 })] } }
      (fun x => x.sealed_ && x.job == 5 && x.owner.toNat == 1) = some 0 := by
  refine ⟨serves_partner, ?_, ?_, ?_, ?_, rfl, ⟨{ partner (cmd 0x11 0 0 0) with pair := { formed := true } }, ⟨rfl, rfl, ?_⟩, ?_⟩, ?_, ?_⟩ <;>
    decide +kernel

/-- A context record: partner 3, ASID `a`, RESERVE 1, GMAX 8. -/
def ctxRec (a : Nat) : BitVec 512 := BitVec.ofNat 512 (3 + 2 ^ 48 * a + 2 ^ 56 + 2 ^ 192 * 8)

/-- For Obligations.HostCommandsTakeEffect: the contexts, routes, ports and power. -/
theorem test_meets_context_commands :
    ctxRecOk 0 = false ∧ ctxRecOk (ctxRec 1).toNat = true ∧ (ctxOf (partner (cmd 0x18 0 0 (ctxRec 1))) 0).st = .closed ∧
    (jobOf (partner (cmd 0x18 0 0 (ctxRec 1))) 1).live = true ∧ ctxRecOk (ctxRec 2).toNat = true ∧
    (jobOf (partner (cmd 0x18 0 0 (ctxRec 2))) (bitsOf (ctxRec 2).toNat 48 8)).live = false ∧ bitsOf (ctxRec 1).toNat 48 8 = 1 ∧ up.bup.epSet = false ∧
    (let s := partner (cmd 0x18 0 0 (ctxRec 1))
     let p := (ctxRec 1).toNat
     reserveSum (modCtx s 0 fun _ => ctxOfRec p) ≤ 8192 ∧ ptContext s (bitsOf p 0 16) (bitOf p 32) = true ∧ ctxPort s (bitsOf p 0 16) 0 = some 0) ∧
    (∃ s : State, Serves s 1 0x19 (cmd 0x19 4095 0 0) ∧ (ctxOf s 4095).st = .failed) ∧ (ctxOf (partner (cmd 0x19 0 0 0)) 0).st = .closed ∧
    (portOf (partner (cmd 0x1B 1 0 0)) 1).up = false ∧
    powerSetOk 8 = false ∧ powerSetOk (1 + 2 ^ 16 * 480) = true ∧ powerSetOk 0 = true ∧ powerSetOk (2 + 2 ^ 32) = true ∧
    bitsOf (1 + 2 ^ 16 * 480) 16 16 ≤ capMax up ∧ capMax (upPow fun p => { p with reduce := 1 }) < bitsOf (1 + 2 ^ 16 * 480) 16 16 := by
  refine ⟨?_, ?_, ?_, ?_, ?_, ?_, ?_, ?_, ?_, ⟨{ partner (cmd 0x19 4095 0 0) with bup := { ctx := [(4095, { st := .failed })] } },
      ⟨rfl, rfl, ?_⟩, ?_⟩, ?_⟩ <;> decide +kernel

/-! ## Witnesses: the mirrored pair -/

/-- `partner` in a pair with endpoint 3 by port 0, with the pair's state changed. -/
def paired (g : Pair → Pair := id) : State := { partner (cmd 0x42 0 0 0) with pair := g { formed := true, partner := 3, ports := 1, store := 1, logGib := 1 } }

/-- `paired` before HELLO has come. -/
def forming (n : BitVec 48) : State := paired fun x => { x with formed := false, setup := true, ports := n }

/-- For Obligations.ThePairFormsAndIsLost: the first of two ports and the last one, idle mirror ports, and a write inside and outside the window. -/
theorem test_meets_pair :
    ((forming 3).pair.setup = true ∧ (forming 3).pair.formed = false ∧ (forming 3).pair.ports.getLsbD 0 = true ∧ (portOf (forming 3) 0).up = true ∧
      (forming 3).pair.heard ||| BitVec.ofNat 48 (2 ^ 0) ≠ (forming 3).pair.ports) ∧
    (forming 1).pair.heard ||| BitVec.ofNat 48 (2 ^ 0) = (forming 1).pair.ports ∧ portCount (forming 1).pair.ports = 1 ∧
    (isMirrorPort (paired) 0 = true ∧ (portOf (paired) 0).q0 = [] ∧ (portOf (paired) 0).q1 = [] ∧ (portOf (paired) 0).q2 = []) ∧
    fromPartner (paired) 0 = true ∧ (paired).trs.winFixed = true ∧ (paired).pair.store * 2 ^ 18 ≤ 262144 ∧
    (∀ b : Bool, ∃ s : State, (sliceOf s 35).sealing = b) := by
  refine ⟨by decide +kernel, by decide +kernel, by decide +kernel, by decide +kernel, by decide +kernel, by decide +kernel, by decide +kernel, fun b => ?_⟩
  exact ⟨paired fun x => { x with slices := [(35, { sealing := b })] }, by revert b; decide +kernel⟩

/-- A block held by the mirror engine, and the pages that map DVA 0 to it: one page of 1 GiB at the near-tier address 2³⁰. -/
def mirroring (buf : List MirrorWrite) (commitC iv : Nat) (slices : Tab Slice := []) (recorded : Tab Nat := []) : State :=
  let j : Job :=
    { live := true, number := 9, st := .running, origin := 20, mirrored := true, mirrorHeld := [(20, 0)], commitC := commitC
      fam := { oneField with mirror := some { every := 1, logMax := 64, total := 0x200000, regions := [(0, 1)] } } }
  let x : Transfer := { transfer true 0 (some (tierBlock 0 0)) with far := 0x40000000, mirror := true, iv := iv }
  { paired fun y => { y with buf := buf, slices := slices, recorded := recorded } with
    job := [(1, j)]
    fld := [(20, { fieldUp with str := { fieldUp.str with xfer := [x] } })]
    mem := { root := [(1, 0x10001)], near := memWrite (memWrite (memWrite [] 0x10000 8 0x20001) 0x20000 8 0x30001) 0x30000 8 0x4000004F } }

/-- A mirror write of job 9 in interval `t`. -/
def mirWr (t block : Nat) : MirrorWrite := { job := 9, t := t, seq := 0, block := block, body := tierBlock 0 0 }

/-- A slice of job 9 at interval `c`, open or sealed. -/
def sliceAt (c : Nat) (isSealed : Bool) (log : List MirrorWrite) : Slice := { valid := true, job := 9, c := c, owner := 3, sealed_ := isSealed, log := log }

/-- The job's block 1 is the one at near-tier address 2³⁰. -/
theorem sliceBlock_mirroring (buf : List MirrorWrite) (c n : Nat) (l : Tab Slice) (r : Tab Nat) :
    sliceBlock (mirroring buf c n l r) 1 0x40000000 = some 1 := by
  have h : regionBlocks { every := 1, logMax := 64, total := 0x200000, regions := [(0, 1)] } =
      (1, 0) :: ((List.range 511).map fun i => (i + 2, 4096 * (i + 1))) := by
    decide +kernel
  have hm : (jobOf (mirroring buf c n l r) 1).fam.mirror = some { every := 1, logMax := 64, total := 0x200000, regions := [(0, 1)] } := rfl
  unfold sliceBlock
  simp only [hm]
  rw [h, List.find?_cons_of_pos]
  · simp only [Option.map_some]
  · have hw : walkRoot (mirroring buf c n l r) 1 0 = .page 0x4000004F (2 ^ 30) := by
      show walkRoot (mirroring [] 0 0) 1 0 = _
      decide +kernel
    simp only [hw]
    decide +kernel

/-- For Obligations.MirrorTrafficIsLoggedAndCommitted: a block admitted, one two intervals beyond, and one three beyond; a write logged, one repeated,
and one of a job without a slice; the last interval of a job with no record sent, with one that waits, and with one acknowledged. -/
theorem test_meets_mirror :
    (∀ n, (mirroring [] 0 n).pair.formed = true ∧ sliceBlock (mirroring [] 0 n) 1 0x40000000 = some 1) ∧
    (∀ n, n < 4 → let s := mirroring [] 0 n
      (jobOf s 1).mirrorHeld = [(20, 0)] ∧ ((xferOf s 20 0).bind (·.body)).isSome = true ∧ (jobOf s 1).unprotected = false) ∧
    (fromPartner (paired) 0 = true ∧ (mirWr 1 262143).block < (paired).pair.store * 2 ^ 18) ∧
    openSlice (paired fun x => { x with slices := [(3, sliceAt 0 false [mirWr 1 5])] }) 9 = some 3 ∧ openSlice (paired) 9 = none ∧
    (let s := mirroring [] 0 0
     pithUp s = true ∧ (jobOf s 1).live = true ∧ (jobOf s 1).mirrored = true ∧ declBunches s 1 = [] ∧ intervalOpen s 1 1 = false ∧ tabGet 0 s.pair.recorded 1 ≠ 1) ∧
    CommitIdle (mirroring [] 0 0) ∧ CommitIdle (mirroring [mirWr 1 0] 0 0 [] [(1, 1)]) ∧ tabGet 0 (mirroring [] 0 0 [] [(1, 1)]).pair.recorded 1 = 1 ∧
    mirWr 1 0 ∈ (mirroring [mirWr 1 0] 0 0 [] [(1, 1)]).pair.buf := by
  refine ⟨fun n => ⟨rfl, sliceBlock_mirroring ..⟩, by decide +kernel, by decide +kernel, by decide +kernel, by decide +kernel, by decide +kernel, ?_, ?_, by decide +kernel, .head _⟩ <;>
    exact ⟨rfl, rfl, rfl, rfl, rfl, rfl, rfl⟩

/-- A module that resumes job 9 of endpoint 3 from interval 4, as ASID 1, with reads that are outstanding. -/
def resuming (reads : List (Nat × Nat)) : State :=
  { paired fun x => { x with resumeAsid := 1, resumeJob := 9, resumeFrom := 3, need := 33, reads := reads } with
    bup := { (paired).bup with route := [(3, 1)] }
    job := [(1, { live := true, number := 7, st := .resuming, commitC := 4 })] }

/-- A read of the slice's blocks from `first`. -/
def sliceMsg (first count : Nat) : SliceReq := { src := 3, job := 9, c := 4, first := first, count := count }

/-- The fields of a slice read come back from the message that carries it, and those of an answer with its block's CHECK (R440, R441). -/
theorem test_slice_message :
    cellType (sliceRaw 1 false (sliceMsg 16 5) default) = tySliceRd ∧ sliceReqOf (parseMsg (sliceRaw 1 false (sliceMsg 16 5) default)) = sliceMsg 16 5 ∧
    cellType (sliceRaw 1 true (sliceMsg 7 1) default) = tySliceData ∧ (parseMsg (sliceRaw 1 true (sliceMsg 7 1) { (default : BlockData) with check := 9 })).body.check = 9 ∧
    (parseMsg (sliceRaw 1 true (sliceMsg 7 1) failedBlock)).body.failed = true := by
  and_intros <;> decide +kernel

/-- A module that may resume a slice: in a pair with endpoint 3 by port 1, while port 0 carries contexts. -/
def resumer (c : Cmd) : State := { partner c with brg := up.brg, job := [] }

/-- `oneField`, mirrored. -/
def mirFamily : Family := { oneField with mirror := some { every := 1, logMax := 64, total := 0x200000, regions := [(0, 1)] }, yields := [{ dj := 1, flags := 5 }] }

theorem serves_resumer (p : BitVec 512) : Serves (resumer (cmd 6 9 4 p)) 1 6 (cmd 6 9 4 p) := by
  refine ⟨rfl, rfl, ?_⟩
  simp [nextCmd, resumer, partner, host, cmd]

/-- For Obligations.SlicesAreReadAndResumed: reads of a slice held and of none, a read with a second one outstanding, one sent four times, and a
resume that is not granted, one that no variant fits, and one that is admitted. -/
theorem test_meets_slices :
    (sliceArrives (resuming []) 0 3 = true ∧ pithUp (resuming []) = true ∧ ∀ k, k < 16 → ctxPort (paired fun x => { x with formed := false }) 3 (k % 4096) ≠ none) ∧
    sliceArrives (paired fun x => { x with formed := false }) 0 3 = true ∧
    findSlice (paired fun x => { x with slices := [(2, sliceAt 4 true [])] }) (fun x => x.sealed_ && x.job == 9 && x.c == 4) = some 2 ∧
    findSlice (resuming []) (fun x => x.sealed_ && x.job == 9 && x.c == 4) = none ∧
    (∀ n, n < 16 → (resuming [(0, 1), (16, 1)]).pair.reads.find? (fun r => decide (r.1 ≤ n ∧ n < r.1 + readCount (resuming [(0, 1), (16, 1)]) r.1)) = some (0, 1)) ∧
    (∀ n, (resuming [(0, n)]).pair.reads.find? (fun r => r.1 == 0) = some (0, n)) ∧
    (∀ p, Serves (resumer (cmd 6 9 4 p)) 1 6 (cmd 6 9 4 p)) ∧ cxlUp (resumer (cmd 6 9 4 0)) = true ∧ (resumer (cmd 6 9 4 0)).brg.st = 1 ∧
    granted (resumer (cmd 6 9 4 (2 ^ 63))) (2 ^ 63) 0 false = false ∧ granted (resumer (cmd 6 9 4 (2 ^ 75 + 3 * 2 ^ 128))) 0 2048 false = true ∧
    firstFinding (allFindings mirFamily 2048 false) = none ∧ freeAsid (resumer (cmd 6 9 4 0)) = some 1 ∧ (resumer (cmd 6 9 4 0)).pair.resumeAsid = 0 ∧
    mirFamily.saveBytes ≤ saveSpace (resumer (cmd 6 9 4 0)) ∧ ptMirror (resumer (cmd 6 9 4 0)) 3 = true ∧
    (let j : Job := { live := true, number := 10, fam := mirFamily, st := .resuming, sq := 1, mirrored := true, unprotected := true, commitC := 4, saveBytes := 4096 }
     couldFit (resumer (cmd 6 9 4 0)) j = true ∧ couldFit { resumer (cmd 6 9 4 0) with fld := noField.fld } j = false) := by
  refine ⟨by decide +kernel, by decide +kernel, by decide +kernel, by decide +kernel, by decide +kernel, fun n => rfl, serves_resumer, ?_⟩
  decide +kernel

/-! ## Witnesses: Bupol ports and partner contexts -/

/-- `partner` with port 0 changed. -/
def link (g : Port → Port) : State :=
  let s := partner (cmd 0x42 0 0 0)
  { s with bup := { s.bup with port := [(0, g { up := true })] } }

/-- A message in the queue of a port. -/
def queued : QMsg := { id := 1, cls := 0, cells := 2, ctx := 65535, dst := 3 }

/-- A frame with an FCRC. -/
def withFcrc (fr : Frame) (c : Nat) : Frame := { fr with fcrc := BitVec.ofNat 32 c }

theorem frameBytes_congr {a b : Frame} (h : a.cells = b.cells ∧ a.fseq = b.fseq ∧ a.ack = b.ack ∧ a.rsvd = b.rsvd) : frameBytes a = frameBytes b := by
  obtain ⟨h1, h2, h3, h4⟩ := h
  unfold frameBytes
  rw [h1, h2, h3, h4]

theorem withFcrc_bytes (fr : Frame) (c : Nat) : frameBytes (withFcrc fr c) = frameBytes fr := frameBytes_congr ⟨rfl, rfl, rfl, rfl⟩

theorem ofNat_crc (n v : Nat) : (BitVec.ofNat 32 (crc32c n v)).toNat = crc32c n v := by
  rw [BitVec.toNat_ofNat]
  exact Nat.mod_eq_of_lt (Laws.crc32c_lt n v)

/-- A frame is good with the FCRC of its bytes, where its codewords decode (R424, R425). -/
theorem test_good_frame (fr : Frame) {c : Nat} (h : crc32c 2566 (frameBytes fr) = c) : frameGood (withFcrc fr c) = fr.decodes := by
  have hc : (withFcrc fr c).fcrc.toNat = c := by rw [← h]; exact ofNat_crc 2566 (frameBytes fr)
  unfold frameGood
  rw [withFcrc_bytes, hc, h, beq_self_eq_true, Bool.and_true]
  rfl

/-- A DATA frame with one message of one cell, for endpoint `d`. -/
def frame (fseq : BitVec 12) (d : BitVec 16) (decodes : Bool := true) : Frame :=
  { decodes := decodes, cells := BitVec.ofNat 20480 (tyCredit + 2 ^ 16 * d.toNat), fseq := fseq.setWidth 16, ack := 5, rsvd := 0, fcrc := 0 }

/-- For Obligations.LinkFramesAndTraining: frames that are good and not, in order and out of order, for this endpoint and for another; a port
with nothing to send, with 512 frames out, with one message, and with a frame to repeat the 16th and the 17th time; one that trains, with and
without its lanes, and one that does not qualify. -/
theorem test_meets_links :
    (portOf (link id) 0).up = true ∧ (∀ n d b, ∃ c, frameGood (withFcrc (frame n d b) c) = b) ∧
    (frameSeq (frame 0 1) = (portOf (link id) 0).rxSeq + 1 ∧ frameSeq (frame 1 1) ≠ (portOf (link id) 0).rxSeq + 1 ∧
      frameIdle (frame 0 1) = false ∧ frameIdle { frame 0 1 with fseq := 0x1000 } = true) ∧
    (((frameDsts (frame 0 1) 0).1.filter fun d => !(link id).bup.epSet || d != (link id).bup.epId).length = 0 ∧
      ((frameDsts (frame 0 2) 0).1.filter fun d => !(link id).bup.epSet || d != (link id).bup.epId).length = 1) ∧
    ((portOf (link id) 0).resend = 0 ∧ (portOf (link id) 0).q0 = [] ∧ (portOf (link id) 0).q1 = [] ∧ (portOf (link id) 0).q2 = [] ∧
      (portOf (link id) 0).carry = 0) ∧
    512 ≤ (portOf (link fun x => { x with unacked := List.replicate 512 (0, 0, []) }) 0).unacked.length ∧
    (portOf (link fun x => { x with q0 := [queued] }) 0).q0 = [queued] ∧ ratesFor up queued.dst.toNat = [] ∧
    (∀ n, let x := portOf (link fun x => { x with unacked := [(4, n, [queued])], resend := 1 }) 0
      x.resend ≠ 0 ∧ x.unacked[x.unacked.length - x.resend]? = some (4, n, [queued])) ∧
    ((portOf (link fun x => { x with training := true }) 0).training = true ∧ badLanes (link id) 0 = [] ∧ tabGet false (link id).dom.rindOut 41 = false) ∧
    bupolPort (List.replicate 4 ⟨0, 0, 0⟩) = true ∧ bupolPort [] = false ∧ bupolPort (List.replicate 4 ⟨0, 0, 9⟩) = false := by
  refine ⟨rfl, fun n d b => ⟨_, test_good_frame _ rfl⟩, ?_, ?_, ?_, ?_, ?_, ?_, fun n => ⟨(by decide : (1 : Nat) ≠ 0), rfl⟩, ?_, ?_, ?_, ?_⟩ <;> decide +kernel

/-- Context 5 of endpoint 3 as `y` gives it, over a 1 GiB page whose leaf is `e` (0 for none). -/
def ctxAt (e : Nat) (g : Ctx → Ctx) : State :=
  let s := partner (cmd 0x42 0 0 0)
  { s with
    bup := { s.bup with
      ctx := [(5, g { st := .open_, remote := 3, rctx := 2, rights := 255, asid := 1, reserve := 1, expBase := 0, expLen := 0x40000000, gmax := 8 })] }
    mem := { root := [(1, 0x10001)], near := memWrite (memWrite (memWrite [] 0x10000 8 0x20001) 0x20000 8 0x30001) 0x30000 8 e } }

/-- A message of context 5 in sequence. -/
def ctxMsg (addr : Nat) (args : BitVec 152) (body : BlockData) : BupMsg :=
  { dst := 1, src := 3, dctx := 5, sctx := 2, cseq := 0, addr := addr, args := args, body := body }

/-- The cells of such a message have the TYPE asked for, and give its fields back (R440). -/
theorem test_message_fields :
    ∀ x ∈ [(tyRdReq, 4096), (tyRdReq, 0x40000000), (tyWr, 4096), (tyArm, 0), (tyBarrier, 8), (tyBarrier, 0x3FFFFFF8), (tyRdRsp, 0), (tyWrAck, 0),
        (tyArmAck, 0), (tyBarAck, 0), (tyCredit, 0), (tyCreditRet, 0), (tyCtxOpen, 0), (tyCtxOpenAck, 0), (tyCtxClose, 0)],
      cellType (rawMsg x.1 (ctxMsg x.2 7 default)) = x.1 ∧ parseMsg (rawMsg x.1 (ctxMsg x.2 7 default)) = ctxMsg x.2 7 default := by
  decide +kernel

/-- Its leaf for the near and for the far tier. -/
def nearLeaf : Nat := 0x4000000F
def farLeaf : Nat := 0x4000001F

/-- Context 5 with the rights `r`. -/
def rightsAt (e : Nat) (r : BitVec 8) : State := ctxAt e fun y => { y with rights := r }

/-- The context accepts the message, whatever it may do. -/
theorem accepted_ctxMsg (e addr : Nat) (args : BitVec 152) (body : BlockData) (r : BitVec 8) :
    acceptMsg (rightsAt e r) 0 (ctxMsg addr args body) = some (modCtx (rightsAt e r) 5 fun y => { y with rxSeq := 1, demand := 0 }) := by
  have h1 : arrives (rightsAt e r) 0 (ctxMsg addr args body) = true := rfl
  have h2 : ofContext (rightsAt e r) (ctxMsg addr args body) = true := rfl
  have h3 : decide (32768 ≤ ((ctxMsg addr args body).cseq - (ctxOf (rightsAt e r) (ctxMsg addr args body).dctx).rxSeq).toNat) = false :=
    (by decide : decide (32768 ≤ ((0 : BitVec 16) - 0).toNat) = false)
  unfold acceptMsg
  simp only [h1, h2, h3]
  rfl

/-- For Obligations.PartnerMessagesTakeEffect: what the accesses of a message reach in each tier, without the right, beyond the window, and on an
absent page; and the barrier add at its last word. -/
theorem test_meets_accesses :
    (∀ r e addr args body, acceptMsg (rightsAt e r) 0 (ctxMsg addr args body) =
      some (modCtx (rightsAt e r) 5 fun y => { y with rxSeq := 1, demand := 0 })) ∧
    (∀ args body, args = 0 → readParts (rightsAt nearLeaf 255) (ctxMsg 4096 args body) = [(0, .ok nearLeaf 0x40001000)] ∧
      readParts (rightsAt farLeaf 255) (ctxMsg 4096 args body) = [(0, .ok farLeaf 0x40001000)] ∧
      readParts (rightsAt nearLeaf 0) (ctxMsg 4096 args body) = [(0, .denied)] ∧
      readParts (rightsAt nearLeaf 255) (ctxMsg 0x40000000 args body) = [(0, .denied)] ∧ readParts (rightsAt 0 255) (ctxMsg 4096 args body) = [(0, .absent)]) ∧
    (inbound (rightsAt nearLeaf 255) 5 4096 4096 5 true = .ok nearLeaf 0x40001000 ∧ inbound (rightsAt farLeaf 255) 5 4096 4096 5 true = .ok farLeaf 0x40001000 ∧
      inbound (rightsAt nearLeaf 0) 5 4096 4096 5 true = .denied ∧ inbound (rightsAt 0 255) 5 4096 4096 5 true = .absent) ∧
    (inbound (rightsAt nearLeaf 255) 5 0x3FFFFFF8 8 7 true = .ok nearLeaf 0x7FFFFFF8 ∧ inbound (rightsAt farLeaf 255) 5 8 8 7 true = .ok farLeaf 0x40000008 ∧
      inbound (rightsAt nearLeaf 0) 5 8 8 7 true = .denied ∧ inbound (rightsAt 0 255) 5 8 8 7 true = .absent) ∧
    Reaches (rightsAt nearLeaf 255) 5 0 := by
  refine ⟨fun r e addr args body => accepted_ctxMsg e addr args body r, ?_, by decide +kernel, by decide +kernel, ?_⟩
  · rintro _ body rfl
    refine ⟨?_, ?_, ?_, ?_, ?_⟩ <;>
    · simp only [readParts, ctxMsg]
      decide +kernel
  · unfold Reaches
    decide +kernel

/-- For Obligations.PartnerMessagesTakeEffect: an arm request that it may make and one that it may not; an outstanding request; a context that opens,
one that another endpoint names, one that closes; credits to grant and to give back. -/
theorem test_meets_contexts :
    (∀ f, f < 36 → hasWork (ctxAt nearLeaf id) f 1 = decide (f = 20)) ∧ fieldRuns (ctxAt nearLeaf id) 20 = true ∧
    ((rightsAt nearLeaf 0).bup.ctx.map fun e => e.2.rights.getLsbD 6) = [false] ∧
    (∀ n, (ctxOf (ctxAt nearLeaf fun y => { y with outst := [(7, n)] }) 5).outst.find? (fun e => e.1 == 7) = some (7, n)) ∧
    (∀ body, arrives (ctxAt nearLeaf fun y => { y with st := .opening }) 0 (ctxMsg 0 0 body) = true) ∧
    ((ctxOf (ctxAt nearLeaf fun y => { y with st := .opening }) 5).st = .opening ∧ (ctxOf (ctxAt nearLeaf fun y => { y with st := .opening }) 5).remote = 3 ∧
      (ctxOf (ctxAt nearLeaf fun y => { y with st := .opening }) 5).rctx = 2 ∧ reserveSum (ctxAt nearLeaf fun y => { y with st := .opening }) ≤ 8192 ∧
      Reaches (ctxAt nearLeaf fun y => { y with st := .opening }) 5 0) ∧
    ((ctxOf (ctxAt nearLeaf fun y => { y with st := .closing, outst := [(7, 7)] }) 5).st = .closing ∧
      (ctxOf (ctxAt nearLeaf fun y => { y with st := .closing, outst := [(7, 7)] }) 5).outst ≠ []) ∧
    (((List.range 4096).map fun i => ((ctxAt nearLeaf fun y => { y with demand := 9 }).bup.lastServed + 1 + i) % 4096).find?
      (fun x => grantFor (ctxAt nearLeaf fun y => { y with demand := 9 }) x != 0) = some 5) ∧
    ((ctxOf (ctxAt nearLeaf fun y => { y with shCred := 3 }) 5).st = .open_ ∧ (ctxOf (ctxAt nearLeaf fun y => { y with shCred := 3 }) 5).shCred ≠ 0 ∧
      demandOf (ctxAt nearLeaf fun y => { y with shCred := 3 }) 5 +
        ((ctxOf (ctxAt nearLeaf fun y => { y with shCred := 3 }) 5).outst.filter fun e => decide (e.1 < 65536)).length = 0) := by
  refine ⟨by decide +kernel, by decide +kernel, by decide +kernel, fun n => rfl, fun b => rfl, ?_, by decide +kernel, ?_, by decide +kernel⟩
  · unfold Reaches
    decide +kernel
  · decide +kernel

/-! ## Witnesses: queues, interrupts, the window and registers -/

/-- `up` with the host interface changed. -/
def upCxl (g : Cxl → Cxl) : State := { up with cxl := g up.cxl }

/-- Queue 0 enabled, by lines or doorbells, with pages 0 to 255 granted. -/
def polled (byDoorbell granted_ : Bool) (g : Queue → Queue := id) : State := upCxl fun c => { c with
  queue := [(0, g { enable := true, mode := byDoorbell, sqLog := 4, cqLog := 4 })]
  held := [{ cq := 0, cid := 7, sq := 0 }]
  grant := [(0, { pages := 255, rd := true, wr := true, valid := granted_ })] }

/-- For Obligations.QueuesCompleteAndInterrupt: lines with and without a grant, doorbells within and beyond the ring and in a takeover, a queue to
enable and one that may not be, a completion with a slot, and a pending vector. -/
theorem test_meets_queues :
    (∀ d b, barOpen (polled d b) = true ∧ (queueOf (polled d b) 0).enable = true ∧ (queueOf (polled d b) 0).mode = d ∧
      granted (polled d b) (queueOf (polled d b) 0).sqLine.toNat 64 false = b ∧ granted (polled d b) (queueOf (polled d b) 0).cqLine.toNat 64 false = b ∧
      (polled d b).pith.takeover = false) ∧
    (∃ s : State, barOpen s = true ∧ (queueOf s 0).enable = true ∧ (queueOf s 0).mode = true ∧ s.pith.takeover = true) ∧
    ((17 : BitVec 32) - (queueOf (polled true true) 0).consumed).toNat = 17 ∧ 2 ^ (queueOf (polled true true) 0).sqLog.toNat = 16 ∧
    (barOpen up = true ∧ (queueOf up 7).enable = false) ∧ (BitVec.ofNat 64 (0x44 + 2 ^ 10)).getLsbD 10 = true ∧ BitVec.ofNat 4 0x44 = 4 ∧
    (∀ b, (polled true b).cxl.held.find? (fun c => c.cq == 0) = some { cq := 0, cid := 7, sq := 0 } ∧ pithUp (polled true b) = true ∧
      cxlUp (polled true b) = true ∧ ((queueOf (polled true b) 0).written - (queueOf (polled true b) 0).head).toNat < 2 ^ (queueOf (polled true b) 0).cqLog.toNat ∧
      granted (polled true b) 0 64 true = b) ∧
    ∃ s : State, s.cxl.msixPend.getLsbD 15 = true ∧ s.cxl.msixMask.getLsbD 15 = false ∧ s.inp.main = true ∧ s.inp.held = false ∧ cxlUp s = true :=
  ⟨by decide +kernel, ⟨{ polled true true with pith := { running := true, takeover := true } }, by decide⟩, by decide, by decide, by decide, by decide, by decide,
    by decide +kernel, ⟨upCxl fun c => { c with msixPend := 0x8000 }, by decide⟩⟩

/-- `withJob`, with the job mapping window page 0. -/
def mapping : State := { withJob with job := [(1, { live := true, number := 9, windows := [0] })] }

/-- For Obligations.PortsGrantsAndTheWindow: a port up and one down, a transfer to host memory with both down, each state of a grant, a revocation
with and without a request, and the decoder with and without a job that maps the window. -/
theorem test_meets_window :
    (cxlPortOf up 1).up = true ∧
    (∃ s : State, s.inp.main = true ∧ s.inp.held = false ∧ (cxlPortOf s 1).up = false ∧ s.inp.perst.getLsbD 1 = false ∧ tabGet false s.dom.rindOut 60 = false) ∧
    (∀ w : Bool, ∃ s : State, cxlUp s = false ∧ xferOf s 20 0 = some (transfer w 2 none) ∧ (if w then (transfer w 2 none).landed = false else (transfer w 2 none).body = none)) ∧
    (∀ v r, ∃ s : State, barOpen s = true ∧ (grantOf s 63).valid = v ∧ (grantOf s 63).revoking = r) ∧
    (∀ b, ∃ s : State, (grantOf s 0).revoking = true ∧ grantBusy s (grantOf s 0) = b) ∧
    (barOpen up = true ∧ up.trs.safe = false ∧ up.cxl.committed = false) ∧
    (∃ a ∈ liveJobs mapping, (jobOf mapping a).windows ≠ []) ∧ (¬ ∃ a ∈ liveJobs up, (jobOf up a).windows ≠ []) ∧
    ∃ s : State, barOpen s = true ∧ s.trs.safe = false ∧ s.cxl.committed = true ∧ 2 ^ 30 - 64 < s.cxl.win * 2 ^ 30 := by
  refine ⟨by decide, ⟨upCxl fun c => { c with port := [] }, by decide⟩, fun w => ?_, fun v r => ?_, fun b => ?_, by decide, by decide +kernel, by decide +kernel,
    ⟨upCxl fun c => { c with committed := true, win := 1 }, by decide⟩⟩
  · exact ⟨{ upField fun x => { x with str := { x.str with xfer := [transfer w 2 none] } } with cxl := {} }, rfl, rfl, by cases w <;> rfl⟩
  · exact ⟨upCxl fun c => { c with grant := [(63, { valid := v, revoking := r })] }, rfl, rfl, rfl⟩
  · refine ⟨{ upField fun x => { x with str := { x.str with xfer := if b then [transfer true 2 none] else [] } } with
      cxl := { up.cxl with grant := [(0, { pages := 255, revoking := true })] } }, rfl, ?_⟩
    cases b <;> decide +kernel

/-- For Obligations.AttestationAndEntropyAnswer: an exhausted index space, a request that waits for its tree, one that waits behind another, and one
signed at once; a tree that is due; a seed that is asked for. -/
theorem test_meets_attestation :
    doeUp up = true ∧ spdmUp up = true ∧ pithUp up = true ∧ 2 ^ 40 ≤ ({ sigNext := 2 ^ 40 } : Trust).sigNext ∧
    (∃ s : State, spdmUp s = true ∧ s.trs.sigNext < 2 ^ 40 ∧ s.trs.sigNext % 2 ^ 20 = 0 ∧ s.trs.lowerReady = false) ∧
    (∃ s : State, spdmUp s = true ∧ s.trs.sigNext < 2 ^ 40 ∧ s.trs.sigWait ≠ []) ∧
    (spdmUp up = true ∧ up.trs.sigNext < 2 ^ 40 ∧ ¬ (up.trs.sigWait ≠ [] ∨ (up.trs.sigNext % 2 ^ 20 = 0 ∧ up.trs.lowerReady = false))) ∧
    (∃ s : State, s.inp.main = true ∧ s.trs.lowerReady = false ∧ s.trs.sigNext % 2 ^ 20 = 0 ∧ s.trs.sigNext + s.trs.sigWait.length < 2 ^ 40 ∧
      s.trs.sigWait.length ≤ 2 ^ 20 ∧ s.trs.sigWait ≠ []) ∧
    ∃ s : State, Serves s 1 1 (cmd 1 0 0 (2 ^ 192)) ∧ s.trs.entOk = false ∧ (cmd 1 0 0 (2 ^ 192)).payload.getLsbD 192 = true ∧ s.brg.st = 1 :=
  ⟨by decide, by decide, by decide, by decide, ⟨{ up with trs := { sigNext := 2 ^ 20, lowerReady := false } }, by decide⟩,
    ⟨{ up with trs := { sigWait := [(0, [])] } }, by decide⟩, by decide, ⟨{ up with trs := { lowerReady := false, sigWait := [(0, [1])] } }, by decide⟩,
    ⟨submission (2 ^ 192) up.brg 1280, ⟨rfl, rfl, by decide +kernel⟩, by decide +kernel⟩⟩

/-- A module in recovery, that has `obj` in hand with all of an empty body. -/
def recovering (obj : Nat) (h : List Nat) : State := { up with trs := { recovery := true, obj := obj, load := { head := h } } }

/-- SHA-256 of no bytes (FIPS 180-4). -/
def emptyHash : Nat := 0xE3B0C44298FC1C149AFBF4C8996FB92427AE41E4649B934CA495991B7852B855

/-- The header of a firmware image with SVN `svn` and a body of `n` bytes, whose hash is that of none. -/
def header (svn n : Nat) : List Nat :=
  leBytes 4 0x57464D56 ++ leBytes 2 1 ++ leBytes 2 0x36 ++ [0xA1, 0, 0, 0] ++ leBytes 4 svn ++ leBytes 4 0 ++ leBytes 4 1 ++ leBytes 4 n ++
    leBytes 4 0 ++ beBytes 32 emptyHash ++ List.replicate 64 0

/-- What the boot ROM makes of a header: bad MAGIC, another part, a revoked key slot and an SVN below MINSVN; and a pass, where the signature
verifies under the vendor's key, which is a free value (log 162). -/
theorem test_header_verdicts :
    headerVerdict up 0 [] = 0x10 ∧ headerVerdict up 0 ((header 0 0).set 6 0x37) = 0x14 ∧
    headerVerdict { up with trs := { keyRev := 1 } } 0 (header 0 0) = 0x12 ∧
    (sigVerifies 0 (header 0 0) = true → headerVerdict up 0 (header 0 0) = 0 ∧ headerVerdict { up with trs := { minSvn := 1 } } 0 (header 0 0) = 0x13) := by
  refine ⟨by decide +kernel, by decide +kernel, by decide +kernel, fun h => ?_⟩
  have e : ∀ t : Trust, t.keyRev = 0 → headerVerdict { up with trs := t } 0 (header 0 0) = if 0 < t.minSvn then 0x13 else 0 := by
    intro t ht
    have h1 : (!magicOk 0 (header 0 0) || !reservedZero 0 (header 0 0)) = false := by decide +kernel
    have h2 : (!partMatches { up with trs := t } 0 (header 0 0)) = false := by
      show (!(leAt (header 0 0) 6 2 == 0x0036 && leAt (header 0 0) 8 1 == 0xA1)) = false
      decide +kernel
    have h3 : imgSvn (header 0 0) = 0 := by decide +kernel
    unfold headerVerdict
    rw [h1, h2, h, h3]
    simp [ht, bitOf, rsRollback]
  exact ⟨e {} rfl, e { minSvn := 1 } rfl⟩

/-- A load that is whole, with the hash of its body, and one that lacks a byte. -/
theorem test_load_whole : loadWhole (recovering 1 (header 0 0)).trs = true ∧ loadWhole (recovering 1 (header 0 1)).trs = false := by
  constructor <;> decide +kernel

/-- A log with one record, SEQ 7, whose handling goes on or is over. -/
def logged (handling : Bool) : State :=
  { up with
    log := { recs := [(3, some { code := 0x0107, cls := 1, src := 20, dom := .field 20, dstate := 1, asid := 1, seq := 7, ntime := 0, slot := 0, core := 0, engine := 7, count := 1, addr := 0, detail := 0 })], seq := 7 }
    dom := { st := if handling then [(domKey (.field 20), { st := 1, seq := 7 })] else [] } }

/-- For Obligations.RegistersActOnWrites: the key, a record with and without handling, each lock open and closed, a queue disabled and enabled,
and each outcome of a load. -/
theorem test_meets_registers :
    (∃ s : State, s.bup.epSet = true ∧ s.bup.sealed_ = true) ∧
    (barUp up = true ∧ bitsOf (0xC301 : BitVec 64).toNat 8 8 = 0xC3 ∧ (0xC301 : BitVec 64).getLsbD 0 = true) ∧ bitsOf (0 : BitVec 64).toNat 8 8 ≠ 0xC3 ∧
    (∀ b, barOpen (logged b) = true ∧ pithUp (logged b) = true ∧ (recAt (logged b) 3).map (·.seq) = some 7 ∧ recIndex (logged b) 7 = some 3 ∧
      decide (∃ e ∈ (logged b).dom.st, e.2.st ≠ 0 ∧ e.2.seq = 7) = b) ∧
    (writable up = true ∧ up.bup.epSet = false ∧ up.bup.sealed_ = false ∧ tabGet 0 up.bup.ptLock 255 = 0 ∧ tabGet 0 up.bup.pt 255 = 0) ∧
    (barOpen up = true ∧ (queueOf up 7).enable = false) ∧ (queueOf (polled true true) 0).enable = true ∧
    (∀ o, o < 4 → recTakes (recovering o []) = true ∧ recOpen (recovering o []) = true ∧ (recovering o []).trs.obj = o) ∧
    bitsOf 0x10001 16 11 ≠ 0 ∧ bitsOf 0x10031 4 2 = 3 := by
  refine ⟨⟨{ up with bup := { epSet := true, sealed_ := true } }, rfl, rfl⟩, ?_⟩
  decide +kernel


/-! ## Witnesses: what every step keeps -/

/-- For Obligations.EveryStepKeepsTheMemoriesCanonical: memories with bytes listed, and a step that writes one. -/
theorem test_meets_memory_invariant :
    let s : State := { upCxl fun c => { c with committed := true, win := 1 } with
      pending := [.hostWindowAccess 64 true 7 false]
      mem := { die := [(5, 1)], near := [(0, 3), (64, 4)], far := [(2, 2)], nearBr := [(1, true)] } }
    MemInv s ∧ ∃ t, step s = .next t ∧ t.mem.near = [(0, 3), (64, 7)] ∧ t.mem.nearBr = [] := by
  refine ⟨by unfold MemInv; decide +kernel, _, rfl, by decide +kernel, by decide +kernel⟩

/-- For Obligations.TrustOnlyMovesForward: a signature within the committed block, and one that needs the next. -/
theorem test_meets_trust : ∀ n, n ≤ 1 →
    let s : State := { up with pending := [.signRequest 0], trs := { sigNext := 4 + n, sigEnd := 5 } }
    s.trs.sigNext ≤ s.trs.sigEnd ∧ ∃ t, step s = .next t ∧ t.trs.sigNext = 5 + n := by
  intro n h
  obtain rfl | rfl : n = 0 ∨ n = 1 := by omega
  · exact ⟨by decide, _, rfl, by decide +kernel⟩
  · exact ⟨by decide, _, rfl, by decide +kernel⟩

/-- For Obligations.LocksHoldUntilTheirReset: a step that keeps both locks, and a module reset, which clears them. -/
theorem test_meets_locks :
    let s : State := { up with pending := [.ptSeal 1 .full], bup := { sealed_ := true, epSet := true, epId := 4, pt := [(0, 5)] } }
    let r : State := { s with pending := [.moduleReset] }
    (∃ t, step s = .next t ∧ t.bup.sealed_ = true ∧ t.bup.epSet = true) ∧ ∃ t, step r = .next t ∧ t.bup.sealed_ = false ∧ t.bup.pt = [] :=
  ⟨⟨_, rfl, by decide +kernel, by decide +kernel⟩, _, rfl, by decide +kernel, by decide +kernel⟩

/-! ## Ill-formed commands are refused -/

/-- Results of bring-up with `n` channels and `k` phase times. -/
def planWith (n k : Nat) : BringPlan := { plan with channels := n, times := List.replicate k 0 }

theorem test_illformed_bringup : Instr.wellFormed (.powerOn (planWith 1280 7)) = true ∧ Instr.wellFormed (.powerOn (planWith 1281 7)) = false ∧
    Instr.wellFormed (.powerOn (planWith 1280 6)) = false ∧ Instr.wellFormed (.sysRstNRelease (planWith 1281 7)) = false ∧
    Instr.wellFormed (.sysRstNRelease (planWith 1280 8)) = false := by decide

theorem test_illformed_samples : Instr.wellFormed (.thermalSensorSample 0 [20]) = false ∧ Instr.wellFormed (.trayCapSet 512) = false ∧
    Instr.wellFormed (.setpoint 0 65536) = false ∧ Instr.wellFormed (.ageingSample 0 [1, 2, 3]) = false := by decide

theorem test_illformed_asid : Instr.wellFormed (.yieldReport 0 0 0 0 false false) = false ∧ Instr.wellFormed (.barrierArrive 37 0 0 0) = false ∧
    Instr.wellFormed (.barrierRelease 0 37 0 0) = false ∧ Instr.wellFormed (.halt 0 37) = false ∧ Instr.wellFormed (.jobHalt 0) = false ∧
    Instr.wellFormed (.jobHalt 36) = true := by decide

theorem test_illformed_ranges : Instr.wellFormed (.translationInvalidate 1 2 1) = false ∧ Instr.wellFormed (.hello 0 0 0 0 49) = false ∧
    Instr.wellFormed (.hostWindowAccess 65 false 0 false) = false ∧ Instr.wellFormed (.getCertificate 65536 0) = false ∧
    Instr.wellFormed (.lowHalfRead 2) = false ∧ Instr.wellFormed (.lowHalfRead 4) = true ∧ Instr.wellFormed (.registerWrite 12 0 .full) = false := by decide

theorem test_illformed_cells :
    Instr.wellFormed (.rdReq 0 (rawMsg tyRdReq (ctxMsg 4096 0 default))) = true ∧ Instr.wellFormed (.rdReq 0 (rawMsg tyWr (ctxMsg 4096 0 default))) = false ∧
    Instr.wellFormed (.rdReq 0 { rawMsg tyRdReq (ctxMsg 4096 0 default) with head := headerCell tyRdReq (ctxMsg 4096 0 default) + 0x200 }) = false ∧
    Instr.wellFormed (.linkFrame 0 (frame 0 1)) = true ∧ Instr.wellFormed (.linkFrame 0 { frame 0 1 with rsvd := 1 }) = false ∧
    Instr.wellFormed (.regulatorSample 0 { amps := 0, mv := List.replicate 16 720 }) = true ∧ Instr.wellFormed (.regulatorSample 0 { amps := 0, mv := [] }) = false := by decide +kernel

/-- No row of the table gives bits. -/
theorem test_no_word : decodeTableWord 64 0 = none ∧ decodeTableWord 32 0xFFFFFFFF = none := ⟨rfl, rfl⟩

/-! ## Values that the spec publishes -/

/-- 11 R327, vector 1: seed, stream, coordinate, step and data 0. -/
theorem test_phg_vector_1 : phg 0 0 0 0 0 = 0x1BE9B46C := by decide +kernel

/-- 03, worked conversions: 300.0 into E4M3 to nearest even, toward zero, and stochastically with its two draws: 0x79 or 0x7A, with NX. -/
theorem test_300_into_e4m3 : convert 8 1 false 0 (decodeNum 13 0x43960000) = (0x79, 8) ∧ convert 8 2 false 0 (decodeNum 13 0x43960000) = (0x79, 8) ∧
    convert 8 3 false 0xB3C20517 (decodeNum 13 0x43960000) = (0x7A, 8) ∧ convert 8 3 false 0x9FFFFFFF (decodeNum 13 0x43960000) = (0x79, 8) := by
  decide +kernel

/-- 03, worked conversions: 500.0 into E4M3 saturates with OF, or is NaN with the overflow bit; into E5M2 it is 512.0 with NX. -/
theorem test_500 : (convert 8 1 false 0 (decodeNum 13 0x43FA0000)).1 = 0x7E ∧ (convert 8 1 true 0 (decodeNum 13 0x43FA0000)).1 = 0x7F ∧
    convert 9 1 false 0 (decodeNum 13 0x43FA0000) = (0x60, 8) := by decide +kernel

/-- 03, worked conversions: the first elements of an MXFP4 block. -/
theorem test_mxfp4 : convert 2 1 false 0 (decodeNum 13 0x40A00000) = (0x6, 8) ∧ (convert 2 1 false 0 (decodeNum 13 0xBF333333)).1 = 0x9 ∧
    convert 2 1 false 0 (decodeNum 13 0x40266666) = (0x5, 8) := by decide +kernel

/-- 08, example: offset 0x3_0040 of V2 of B(13,20). -/
theorem test_oda : coreBase ⟨20, 13, 6⟩ + 0x30040 = 0x5206E30040 := by decide

end Sys2Proof.Tests
end

section
/-! SUPPORT. Proofs about the vector core (05, R136 to R146): the laws of lanes and masks, the issue of a VEC instruction said once,
and from them the floating-point and integer lanes, CMP, TOPK, RAND and DROPM. -/

namespace Sys2Proof.Proofs.Vector

open Sys2Proof.Machine Sys2Proof.Laws

/-! ## Bits and lanes -/

theorem bitOf_eq_testBit (n i : Nat) : bitOf n i = n.testBit i := by
  rw [Nat.testBit_eq_decide_div_mod_eq]
  rfl

theorem bitOf_toNat {n : Nat} (w : BitVec n) (i : Nat) : bitOf w.toNat i = w.getLsbD i := by
  rw [bitOf_eq_testBit, BitVec.testBit_toNat]

theorem laneOf_lt (w x j : Nat) : laneOf w x j < 2 ^ w := Nat.mod_lt _ (Nat.two_pow_pos w)

/-- A lane reads back from the register that was made of the lanes. -/
theorem laneOf_packLanes (w : Nat) (l : List Nat) (j : Nat) (h : j < l.length) : laneOf w (packLanes w l) j = l[j] % 2 ^ w := by
  have hw : 0 < 2 ^ w := Nat.two_pow_pos w
  induction l generalizing j with
  | nil => exact absurd h (Nat.not_lt_zero j)
  | cons x l ih =>
    cases j with
    | zero => simp [laneOf, bitsOf, packLanes]
    | succ j =>
      have hrest : packLanes w (x :: l) / 2 ^ w = packLanes w l := by
        rw [packLanes, Nat.add_mul_div_left _ _ hw, Nat.div_eq_of_lt (Nat.mod_lt _ hw), Nat.zero_add]
      have hshift : laneOf w (packLanes w (x :: l)) (j + 1) = laneOf w (packLanes w (x :: l) / 2 ^ w) j := by
        rw [laneOf, laneOf, bitsOf, bitsOf, Nat.div_div_eq_div_mul, ← Nat.pow_add, Nat.mul_succ, Nat.add_comm w]
      rw [hshift, hrest, ih j (Nat.lt_of_succ_lt_succ h), List.getElem_cons_succ]

/-- The same, of lanes that a function of their index gives. -/
theorem laneOf_packLanes_range (w n : Nat) (f : Nat → Nat) {j : Nat} (h : j < n) :
    laneOf w (packLanes w ((List.range n).map f)) j = f j % 2 ^ w := by
  rw [laneOf_packLanes w _ j (by simpa using h), List.getElem_map, List.getElem_range]

theorem packLanes_lt (w : Nat) (l : List Nat) : packLanes w l < 2 ^ (w * l.length) := by
  induction l with
  | nil => simp [packLanes]
  | cons x l ih =>
    have hx : x % 2 ^ w < 2 ^ w := Nat.mod_lt _ (Nat.two_pow_pos w)
    calc packLanes w (x :: l) < 2 ^ w + 2 ^ w * packLanes w l := Nat.add_lt_add_right hx _
      _ = 2 ^ w * (packLanes w l + 1) := by ring
      _ ≤ 2 ^ w * 2 ^ (w * l.length) := Nat.mul_le_mul_left _ ih
      _ = 2 ^ (w * (x :: l).length) := by rw [← Nat.pow_add, List.length_cons, Nat.mul_succ, Nat.add_comm]

/-- A bit of a mask whose lanes are single bits. -/
theorem bitOf_packLanes_one (n : Nat) (p : Nat → Bool) {j : Nat} (h : j < n) :
    bitOf (packLanes 1 ((List.range n).map fun i => b2n (p i))) j = p j := by
  have hlane := laneOf_packLanes_range 1 n (fun i => b2n (p i)) h
  rw [laneOf, bitsOf, Nat.one_mul, Nat.pow_one] at hlane
  rw [bitOf, hlane]
  cases p j <;> rfl

/-- The mask of the indices below `n` that satisfy `p`, as the model sums it. -/
def maskOf (n : Nat) (p : Nat → Bool) : Nat := (List.range n).foldl (fun m j => if p j then m + 2 ^ j else m) 0

theorem maskOf_succ (n : Nat) (p : Nat → Bool) : maskOf (n + 1) p = if p n then maskOf n p + 2 ^ n else maskOf n p := by
  rw [maskOf, List.range_succ, List.foldl_append]
  rfl

theorem maskOf_lt (n : Nat) (p : Nat → Bool) : maskOf n p < 2 ^ n := by
  induction n with
  | zero => exact Nat.one_pos
  | succ n ih =>
    rw [maskOf_succ, Nat.pow_succ]
    split <;> omega

theorem bitOf_maskOf {n j : Nat} (p : Nat → Bool) (h : j < n) : bitOf (maskOf n p) j = p j := by
  rw [bitOf_eq_testBit]
  induction n with
  | zero => exact absurd h (Nat.not_lt_zero j)
  | succ n ih =>
    have htop : (maskOf n p).testBit n = false := Nat.testBit_lt_two_pow (maskOf_lt n p)
    rw [maskOf_succ]
    rcases Nat.lt_succ_iff_lt_or_eq.1 h with hlt | rfl
    · split
      · rw [Nat.add_comm, Nat.testBit_two_pow_add_gt hlt, ih hlt]
      · exact ih hlt
    · split
      · next hp => rw [Nat.add_comm, Nat.testBit_two_pow_add_eq, htop, hp]; rfl
      · next hp => rw [htop, Bool.eq_false_of_not_eq_true hp]

/-! ## The issue of a VEC instruction -/

theorem srcReady_le {core : Core} {l : List VSrc} {t : Nat} (h : ∀ x ∈ l, tabGet 0 core.vrdy x.reg ≤ t) : srcReady core l ≤ t := by
  have key : ∀ l : List VSrc, (∀ x ∈ l, tabGet 0 core.vrdy x.reg ≤ t) → ∀ m, m ≤ t →
      l.foldl (fun m x => max m (tabGet 0 core.vrdy x.reg)) m ≤ t := by
    intro l
    induction l with
    | nil => exact fun _ _ hm => hm
    | cons x l ih =>
      intro hl m hm
      exact ih (fun y hy => hl y (List.mem_cons_of_mem _ hy)) _ (max_le hm (hl x List.mem_cons_self))
  exact key l h 0 (Nat.zero_le t)

/-- A read after one value is written at each key of a list. -/
theorem tabGet_foldl_put {α β : Type} [DecidableEq α] (d v : α) (key : β → Nat) (l : List β) (t : Tab α) (q : Nat) :
    tabGet d (l.foldl (fun t r => tabPut d (key r) v t) t) q = if q ∈ l.map key then v else tabGet d t q := by
  induction l generalizing t with
  | nil => rfl
  | cons x l ih =>
    rw [List.foldl_cons, ih, tabGet_put, List.map_cons]
    by_cases hq : q ∈ l.map key
    · simp [hq]
    · simp [hq, eq_comm]

/-- A free engine runs, and may issue in the present slot. -/
theorem ready_and_running_of_engineFree {s : State} {c : CoreId} {e : Engine} (h : engineFree s c e = true) :
    (taskOf (coreAt s (ckey c)) e).ready ≤ slotOf s c.fld ∧ (taskOf (coreAt s (ckey c)) e).pace = .run := by
  simp only [engineFree, Bool.and_eq_true, decide_eq_true_eq, beq_iff_eq] at h
  tauto

/-- A change of a task that touches nothing of what an issue itself reads or writes. -/
def KeepsIssueState (g : Task → Task) : Prop :=
  ∀ t, (g t).pc = t.pc ∧ (g t).ready = t.ready ∧ (g t).pace = t.pace ∧ (g t).flights = t.flights

theorem keepsIssueState_id : KeepsIssueState id := fun _ => ⟨rfl, rfl, rfl, rfl⟩

/-- Register writes that land in slot `due`. -/
def landAt (due : Nat) (ws : List VWrite) : List VWrite := ws.map fun x => { x with due := due }

/-- What a VEC instruction does to its core beside the issue: its writes are under way, and their registers and quads are marked. -/
def vecCore (g : Task → Task) (due : Nat) (ws : List VWrite) (fwd : Option Nat) (c : Core) : Core :=
  let c := modTask c .vec g
  { c with
    vwr := c.vwr ++ ws
    vrdy := (ws.map (·.reg)).foldl (fun t r => tabPut 0 r due t) c.vrdy
    vfwd := match fwd with
      | some q => tabPut false q true c.vfwd
      | none => (ws.map (·.reg)).foldl (fun t r => tabPut false (r / 4) false t) c.vfwd }

@[simp] theorem tok_vecCore (g : Task → Task) (due : Nat) (ws : List VWrite) (fwd : Option Nat) (c : Core) :
    (vecCore g due ws fwd c).tok = c.tok := rfl

theorem taskOf_vecCore (g : Task → Task) (due : Nat) (ws : List VWrite) (fwd : Option Nat) (c : Core) (x : Engine) :
    taskOf (vecCore g due ws fwd c) x = if Engine.vec = x then g (taskOf c .vec) else taskOf c x := taskOf_modTask c .vec x g

theorem vrdy_vecCore (g : Task → Task) (due : Nat) (ws : List VWrite) (fwd : Option Nat) (c : Core) (r : Nat) :
    tabGet 0 (vecCore g due ws fwd c).vrdy r = if r ∈ ws.map (·.reg) then due else tabGet 0 c.vrdy r := by
  have h := tabGet_foldl_put 0 due id (ws.map (·.reg)) c.vrdy r
  rwa [List.map_id] at h

theorem vfwd_vecCore (g : Task → Task) (due : Nat) (ws : List VWrite) (fwd : Option Nat) (c : Core) (q : Nat) :
    tabGet false (vecCore g due ws fwd c).vfwd q =
      if fwd = some q then true else if fwd = none ∧ q ∈ ws.map (·.reg / 4) then false else tabGet false c.vfwd q := by
  cases fwd with
  | none =>
    show tabGet false ((ws.map (·.reg)).foldl (fun t r => tabPut false (r / 4) false t) c.vfwd) q = _
    rw [tabGet_foldl_put, List.map_map]
    simp [Function.comp_def]
  | some p =>
    show tabGet false (tabPut false p true c.vfwd) q = _
    rw [tabGet_put]
    simp

/-- The state that a VEC instruction leaves for its engine to be recorded in: `due` is the slot in which its writes land. -/
def vecState (s : State) (c : CoreId) (w : BitVec 64) (due : Nat) (ws : List VWrite) (lanes : Nat) (fwd : Option Nat)
    (g : Task → Task) : State :=
  countAct (modCore (issOf s c .vec w).s (ckey c) (vecCore g due ws fwd)) c.fld (actLanes (vecClass (opcOf w.toNat))) lanes

theorem coreAt_vecState (s : State) (c : CoreId) (w : BitVec 64) (due : Nat) (ws : List VWrite) (lanes : Nat) (fwd : Option Nat)
    (g : Task → Task) :
    coreAt (vecState s c w due ws lanes fwd g) (ckey c) =
      vecCore g due ws fwd (takeTokens (coreAt s (ckey c)) (waitOf s c .vec w)) := by
  show coreAt (modCore _ _ _) _ = _
  rw [coreAt_modCore, if_pos rfl, coreAt_issOf]

theorem coreAt_vecState_other (s : State) (c : CoreId) (w : BitVec 64) (due : Nat) (ws : List VWrite) (lanes : Nat) (fwd : Option Nat)
    (g : Task → Task) {k : Nat} (h : k ≠ ckey c) : coreAt (vecState s c w due ws lanes fwd g) k = coreAt s k := by
  show coreAt (modCore _ _ _) _ = _
  rw [coreAt_modCore, if_neg (Ne.symm h), coreAt_issOf_other _ _ _ _ h]

@[simp] theorem core_issOf (s : State) (c : CoreId) (e : Engine) (w : BitVec 64) :
    (issOf s c e w).core = takeTokens (coreAt s (ckey c)) (waitOf s c e w) := coreAt_issOf s c e w

@[simp] theorem vregOf_takeTokens (core : Core) (m r : Nat) : vregOf (takeTokens core m) r = vregOf core r := rfl

section

variable {s : State} {c : CoreId} {opc : Nat} {w : BitVec 64} {f : Iss → Res} {wait read : List VSrc} {consume : Bool}
  {occ lat : Nat} {ws : List VWrite} {fl slot lanes : Nat} {fwd : Option Nat} {g : Task → Task}

/-- With its sources ready, and none bruised that it consumes, the effect of a VEC instruction goes (R141, R146). -/
theorem vecGo_issOf (hready : SourcesReady s c wait) (hbr : consume = true → srcBruised (coreAt s (ckey c)) read = false) :
    vecGo (issOf s c .vec w) wait read consume occ lat ws fl slot lanes fwd g =
      .go (vecState s c w (slotOf s c.fld + occ - 1 + lat) (landAt (slotOf s c.fld + occ - 1 + lat) ws) lanes fwd g)
        { next := slotOf s c.fld + occ, fin := slotOf s c.fld + occ - 1 + lat - 1, slot := slot, flags := fl } := by
  have hr : ¬ slotOf s c.fld < srcReady (takeTokens (coreAt s (ckey c)) (waitOf s c .vec w)) wait := Nat.not_lt.2 (srcReady_le hready)
  have hb : (consume && srcBruised (takeTokens (coreAt s (ckey c)) (waitOf s c .vec w)) read) = false := by
    cases consume
    · rfl
    · exact hbr rfl
  rw [vecGo, core_issOf, hb]
  exact if_neg hr

/-- The core of a VEC instruction that has issued. -/
theorem coreAt_issue_of_go {due : Nat} {d : Done} (h : MayIssue s c .vec opc w)
    (hgo : f (issOf s c .vec w) = .go (vecState s c w due ws lanes fwd g) d) :
    coreAt (issue s c .vec opc w f) (ckey c) =
      modTask (vecCore g due ws fwd (takeTokens (coreAt s (ckey c)) (waitOf s c .vec w))) .vec
        (record (postMask (taskOf (coreAt s (ckey c)) .vec).masks w.toNat) d) := by
  rw [issue_go h hgo, coreAt_modCore, if_pos rfl, coreAt_vecState]

/-- The task of a VEC instruction that has issued. -/
theorem taskOf_issue_of_go {due : Nat} {d : Done} (h : MayIssue s c .vec opc w)
    (hgo : f (issOf s c .vec w) = .go (vecState s c w due ws lanes fwd g) d) :
    taskOf (coreAt (issue s c .vec opc w f) (ckey c)) .vec =
      record (postMask (taskOf (coreAt s (ckey c)) .vec).masks w.toNat) d (g (taskOf (coreAt s (ckey c)) .vec)) := by
  rw [coreAt_issue_of_go h hgo, taskOf_modTask, if_pos rfl, taskOf_vecCore, if_pos rfl, taskOf_takeTokens]

/-- Such an instruction issues in the present slot, and its engine is free again after its occupancy. -/
theorem issues_of_vec_go {due : Nat} {d : Done} (h : MayIssue s c .vec opc w)
    (hgo : f (issOf s c .vec w) = .go (vecState s c w due ws lanes fwd g) d) (hg : KeepsIssueState g)
    (hpc : d.pc = none) (hfl : d.inFlight = true) (hnext : slotOf s c.fld ≤ d.next) :
    Issues s (issue s c .vec opc w f) c .vec w (nextPc s c .vec) d.next d.fin := by
  obtain ⟨gpc, gready, -, gflights⟩ := hg (taskOf (coreAt s (ckey c)) .vec)
  have htask : ∀ x, taskOf (coreAt (vecState s c w due ws lanes fwd g) (ckey c)) x =
      if Engine.vec = x then g (taskOf (coreAt s (ckey c)) .vec) else taskOf (coreAt s (ckey c)) x := by
    intro x
    rw [coreAt_vecState, taskOf_vecCore, taskOf_takeTokens, taskOf_takeTokens]
  have hmax : max (taskOf (coreAt s (ckey c)) .vec).ready d.next = d.next :=
    max_eq_right (le_trans (ready_and_running_of_engineFree h.1).1 hnext)
  have hissues := issues_of_go h hgo hfl (by rw [coreAt_vecState, tok_vecCore])
    (fun x hx => by rw [htask, if_neg (Ne.symm hx)]) (by rw [htask, if_pos rfl, gpc])
    (by rw [htask, if_pos rfl, gflights]) fun k hk => coreAt_vecState_other s c w due ws lanes fwd g hk
  rw [hpc, htask, if_pos rfl, gready, hmax] at hissues
  exact hissues

/-- A VEC instruction whose sources may be read, and are not bruised where it consumes them, issues with its writes (R140, R141, R146). -/
theorem vecIssues_of_vecGo (h : MayIssue s c .vec opc w)
    (hf : f (issOf s c .vec w) = vecGo (issOf s c .vec w) wait read consume occ lat ws fl slot lanes fwd g)
    (hready : SourcesReady s c wait) (hbr : consume = true → srcBruised (coreAt s (ckey c)) read = false)
    (hld : ∀ x ∈ ws, x.ld = false) (hg : KeepsIssueState g) :
    VecIssues s (issue s c .vec opc w f) c w occ lat (landAt (slotOf s c.fld + occ - 1 + lat) ws) slot fl lanes fwd g := by
  have hgo := hf.trans (vecGo_issOf hready hbr)
  have hcore := coreAt_issue_of_go h hgo
  have htask := taskOf_issue_of_go h hgo
  refine ⟨issues_of_vec_go h hgo hg rfl rfl (Nat.le_add_right _ _), ?task, ?writes, ?due, ?ready, ?forward, ?flags, ?core, ?rest⟩
  case task =>
    obtain ⟨-, -, gpace, -⟩ := hg (taskOf (coreAt s (ckey c)) .vec)
    have hrun := gpace.trans (ready_and_running_of_engineFree h.1).2
    rw [TaskIs, htask, record, ← hrun]
  case writes => rw [hcore]; rfl
  case due =>
    intro x hx
    obtain ⟨y, hy, rfl⟩ := List.mem_map.1 hx
    exact ⟨rfl, hld y hy⟩
  case ready => exact fun r => (congrArg (fun k : Core => tabGet 0 k.vrdy r) hcore).trans (vrdy_vecCore g _ _ fwd _ r)
  case forward =>
    exact fun q => (congrArg (fun k : Core => tabGet false k.vfwd q) hcore).trans (vfwd_vecCore g (slotOf s c.fld + occ - 1 + lat) _ fwd _ q)
  case flags => rw [htask, record_flights _ _ _ rfl, List.getLast?_concat]; rfl
  case core => rw [hcore]; rfl
  case rest => rw [issue_go h hgo]; rfl

end

/-! ## Lane instructions -/

/-- The sources of a lane instruction with word `w`. -/
def laneSrcs (w : Nat) (useC : Bool) : List VSrc :=
  [abSrc (fFT w) (fH w) (fVA w), abSrc (fFT w) (fH w) (fVB w)] ++ if useC then [{ reg := fVC w }] else []

/-- The result and flags of lane `j` under `f`. -/
def laneOut (core : Core) (w : Nat) (useC : Bool) (f : Nat → Nat → Nat → Nat × Nat) (j : Nat) : Nat × Nat :=
  f (abLane core (fFT w) (fH w) (fVA w) j) (abLane core (fFT w) (fH w) (fVB w) j) (if useC then cLane core (fFT w) (fVC w) j else 0)

/-- The register write of a lane instruction. -/
def laneResult (core : Core) (w : Nat) (useC : Bool) (f : Nat → Nat → Nat → Nat × Nat) (due : Nat) : VWrite :=
  { due := due, reg := fVD w, v := packLanes (ftWidth (fFT w)) ((List.range (ftLanes (fFT w))).map fun j => (laneOut core w useC f j).1) }

theorem writes_laneResult (core : Core) (w : Nat) (useC : Bool) (f : Nat → Nat → Nat → Nat × Nat) (due : Nat) :
    Writes (laneResult core w useC f due) (fVD w) 0 2048 (ftWidth (fFT w)) (ftLanes (fFT w)) 0 15 fun j => (laneOut core w useC f j).1 :=
  ⟨rfl, rfl, rfl, rfl, rfl, fun _ hj => laneOf_packLanes_range _ _ _ hj⟩

theorem effLanes_eq (i : Iss) (useC : Bool) (lat : Nat) (f : Nat → Nat → Nat → Nat × Nat) :
    effLanes i useC lat f =
      vecGo i (laneSrcs i.w useC) (laneSrcs i.w useC) true 1 lat [laneResult i.core i.w useC f 0]
        (orFlags ((List.range (ftLanes (fFT i.w))).map fun j => (laneOut i.core i.w useC f j).2)) (fSLOT i.w) (ftLanes (fFT i.w)) := by
  unfold effLanes laneRes laneWrite
  simp only [List.map_map]
  rfl

/-- A lane instruction that may issue has its result under way (R136 to R141). -/
theorem effLanes_issues {s : State} {c : CoreId} {opc : Nat} {w : BitVec 64} {useC : Bool} {lat : Nat}
    {f : Nat → Nat → Nat → Nat → Nat × Nat} (h : MayIssue s c .vec opc w) (hready : SourcesReady s c (laneSrcs w.toNat useC))
    (hbr : srcBruised (coreAt s (ckey c)) (laneSrcs w.toNat useC) = false) :
    VecIssues s (issue s c .vec opc w fun i => effLanes i useC lat (f i.w)) c w 1 lat
      [laneResult (coreAt s (ckey c)) w.toNat useC (f w.toNat) (slotOf s c.fld + 1 - 1 + lat)] (fSLOT w.toNat)
      (orFlags ((List.range (ftLanes (fFT w.toNat))).map fun j => (laneOut (coreAt s (ckey c)) w.toNat useC (f w.toNat) j).2))
      (ftLanes (fFT w.toNat)) := by
  refine vecIssues_of_vecGo (consume := true) (ws := [laneResult (coreAt s (ckey c)) w.toNat useC (f w.toNat) 0]) h ?_ hready
    (fun _ => hbr) ?_ keepsIssueState_id
  · rw [effLanes_eq, core_issOf]
    rfl
  · simp [laneResult]

theorem abLane_lt (core : Core) (ft h r j : Nat) : abLane core ft h r j < 2 ^ 32 := by
  have hw : ftWidth ft ≤ 32 := by unfold ftWidth; split <;> omega
  unfold abLane
  split
  · exact lt_trans (Nat.mod_lt _ (Nat.two_pow_pos 16)) (by norm_num)
  · exact lt_of_lt_of_le (laneOf_lt _ _ _) (Nat.pow_le_pow_right Nat.two_pos hw)

/-- An instruction that applies `f'` to its lanes meets the lane form of `f`, where both agree on lanes of 32 bits. -/
theorem laneForm_of_exec {i : CoreId → BitVec 64 → Instr} {opc lat : Nat} {useC : Bool} {f f' : Nat → Nat → Nat → Nat → Nat × Nat}
    (hexec : ∀ c w s, exec (i c w) s = .next (issue s c .vec opc w fun x => effLanes x useC lat (f' x.w)))
    (hf : ∀ w a b d, a < 2 ^ 32 → b < 2 ^ 32 → f' w a b d = f w a b d) : LaneForm i opc lat useC f := by
  intro s c w h core ft hh src r hready hbr
  have hr : laneOut core w.toNat useC (f' w.toNat) = r := by
    funext j
    exact hf _ _ _ _ (abLane_lt _ _ _ _ _) (abLane_lt _ _ _ _ _)
  have hissues := effLanes_issues (lat := lat) (f := f') h hready hbr
  have hwrites := writes_laneResult core w.toNat useC (f' w.toNat) (slotOf s c.fld + 1 - 1 + lat)
  rw [hr] at hissues hwrites
  exact ⟨_, _, hexec c w s, hissues, hwrites⟩

/-- The same, where the function is the form's own. -/
theorem laneForm_of_exec_same {i : CoreId → BitVec 64 → Instr} {opc lat : Nat} {useC : Bool} {f : Nat → Nat → Nat → Nat → Nat × Nat}
    (hexec : ∀ c w s, exec (i c w) s = .next (issue s c .vec opc w fun x => effLanes x useC lat (f x.w))) : LaneForm i opc lat useC f :=
  laneForm_of_exec hexec fun _ _ _ _ _ _ => rfl

/-! ## Floating-point lanes -/

/-- Settles O15: FADD, FSUB, FMUL, FFMA, FMIN and FMAX are lane instructions, each with the statement's function. -/
theorem floatLanesComplete : Obligations.FloatLanesComplete :=
  ⟨laneForm_of_exec_same fun _ _ _ => rfl, laneForm_of_exec_same fun _ _ _ => rfl, laneForm_of_exec_same fun _ _ _ => rfl,
    laneForm_of_exec_same fun _ _ _ => rfl, laneForm_of_exec_same fun _ _ _ => rfl, laneForm_of_exec_same fun _ _ _ => rfl⟩

/-! ## Integer lanes -/

theorem wrapInt_eq_toNat (z : Int) (n : Nat) : wrapInt z n = (BitVec.ofInt n z).toNat := by
  rw [BitVec.toNat_ofInt, wrapInt]
  norm_cast

theorem sextNat_eq_toInt (a n : Nat) : sextNat a n = (BitVec.ofNat n a).toInt := by
  rw [BitVec.toInt_eq_toNat_cond, BitVec.toNat_ofNat, sextNat]
  norm_cast

theorem wrap32_add (a b : Nat) :
    wrap32 (sextNat a 32 + sextNat b 32) = ((BitVec.ofNat 32 a + BitVec.ofNat 32 b).toNat, 0) := by
  rw [wrap32, wrapInt_eq_toNat, sextNat_eq_toInt, sextNat_eq_toInt, BitVec.ofInt_add, BitVec.ofInt_toInt, BitVec.ofInt_toInt]

theorem wrap32_sub (a b : Nat) :
    wrap32 (sextNat a 32 - sextNat b 32) = ((BitVec.ofNat 32 a - BitVec.ofNat 32 b).toNat, 0) := by
  have h : BitVec.ofInt 32 ((BitVec.ofNat 32 a).toInt - (BitVec.ofNat 32 b).toInt) = BitVec.ofNat 32 a - BitVec.ofNat 32 b :=
    BitVec.eq_of_toInt_eq (by rw [BitVec.toInt_ofInt, BitVec.toInt_sub])
  rw [wrap32, wrapInt_eq_toNat, sextNat_eq_toInt, sextNat_eq_toInt, h]

theorem wrap32_mul (a b : Nat) :
    wrap32 (sextNat a 32 * sextNat b 32) = ((BitVec.ofNat 32 a * BitVec.ofNat 32 b).toNat, 0) := by
  rw [wrap32, wrapInt_eq_toNat, sextNat_eq_toInt, sextNat_eq_toInt, BitVec.ofInt_mul, BitVec.ofInt_toInt, BitVec.ofInt_toInt]

/-- The clamped result is the nearest INT32, with OF where that differs (R138). -/
theorem sat32_eq_saturated (z : Int) : sat32 z = saturated z := by
  unfold sat32 saturated clampInt
  norm_num only
  rcases lt_or_ge z (-2147483648) with hlow | hlow
  · simp [hlow, show ¬ 2147483648 ≤ z by omega, show ¬ -2147483648 = z by omega, wrapInt]
  · rcases lt_or_ge z 2147483648 with hhigh | hhigh
    · simp [not_lt.2 hlow, show ¬ 2147483647 < z by omega, not_le.2 hhigh, wrapInt_eq_toNat]
    · simp [not_lt.2 hlow, show 2147483647 < z by omega, hhigh, show ¬ 2147483647 = z by omega, wrapInt]

/-- The three shifts of ISH on a lane of 32 bits (R210). -/
theorem shiftLane_eq (kind a b : Nat) (ha : a < 2 ^ 32) :
    shiftLane kind a b =
      ((if kind = 0 then BitVec.ofNat 32 a <<< (b % 32) else if kind = 1 then BitVec.ofNat 32 a >>> (b % 32)
        else (BitVec.ofNat 32 a).sshiftRight (b % 32)).toNat, 0) := by
  have ha32 : (BitVec.ofNat 32 a).toNat = a := Nat.mod_eq_of_lt ha
  match kind with
  | 0 =>
    rw [if_pos rfl, BitVec.toNat_shiftLeft, ha32, Nat.shiftLeft_eq]
    rfl
  | 1 =>
    rw [if_neg Nat.one_ne_zero, if_pos rfl, BitVec.toNat_ushiftRight, ha32, Nat.shiftRight_eq_div_pow]
    rfl
  | kind + 2 =>
    have hshift : sextNat a 32 / (2 : Int) ^ (b % 32) = ((BitVec.ofNat 32 a).sshiftRight (b % 32)).toInt := by
      rw [BitVec.toInt_sshiftRight, Int.shiftRight_eq_div_pow, sextNat_eq_toInt]
      norm_cast
    show (wrapInt (sextNat a 32 / (2 : Int) ^ (b % 32)) 32, 0) = _
    rw [if_neg (Nat.succ_ne_zero _), if_neg (by omega), hshift, wrapInt_eq_toNat, BitVec.ofInt_toInt]

/-- The integer instructions are lane instructions, and their functions agree with the statement's (R138, R210). -/
theorem integerLanesComplete : IntegerLanesComplete := by
  refine ⟨?iadd, ?isub, ?imul, ?iadds, ?isubs, ?ish⟩
  case iadd =>
    exact laneForm_of_exec (f' := fun _ a b _ => wrap32 (sextNat a 32 + sextNat b 32)) (fun _ _ _ => rfl) fun _ a b _ _ _ => wrap32_add a b
  case isub =>
    exact laneForm_of_exec (f' := fun _ a b _ => wrap32 (sextNat a 32 - sextNat b 32)) (fun _ _ _ => rfl) fun _ a b _ _ _ => wrap32_sub a b
  case imul =>
    exact laneForm_of_exec (f' := fun _ a b _ => wrap32 (sextNat a 32 * sextNat b 32)) (fun _ _ _ => rfl) fun _ a b _ _ _ => wrap32_mul a b
  case iadds =>
    refine laneForm_of_exec (f' := fun _ a b _ => sat32 (sextNat a 32 + sextNat b 32)) (fun _ _ _ => rfl) fun _ a b _ _ _ => ?_
    rw [sat32_eq_saturated, sextNat_eq_toInt, sextNat_eq_toInt]
  case isubs =>
    refine laneForm_of_exec (f' := fun _ a b _ => sat32 (sextNat a 32 - sextNat b 32)) (fun _ _ _ => rfl) fun _ a b _ _ _ => ?_
    rw [sat32_eq_saturated, sextNat_eq_toInt, sextNat_eq_toInt]
  case ish =>
    exact laneForm_of_exec (f' := fun w a b _ => shiftLane (bitsOf w 46 2) a b) (fun _ _ _ => rfl)
      fun w a b _ ha _ => shiftLane_eq (bitsOf w 46 2) a b ha

/-! ## CMP -/

/-- Below 8, COND is evaluated as R210 has it. -/
theorem cmpLane_iff {ft cond a b : Nat} (h : cond < 8) : cmpLane ft cond a b = true ↔ Compares ft cond a b := by
  unfold cmpLane Compares
  interval_cases cond <;> simp

/-- A well-formed CMP has a condition below 8, an unmixed FT, and its SLOT field zero (R210, R218). -/
theorem cmp_fields {k : CoreKind} {w : Nat} (h : wordOk k .vec w = true) (hopc : opcOf w = 0x60) :
    bitsOf w 46 4 < 8 ∧ ftMixed (fFT w) = false ∧ fSLOT w = 0 := by
  obtain ⟨hengine, hfields⟩ : engineOn k .vec = true ∧ fieldsOk k .vec w = true := by
    rw [wordOk, Bool.and_eq_true, Bool.and_eq_true] at h
    exact ⟨h.1.1, h.2⟩
  cases k with
  | matrix => exact absurd hengine (by decide)
  | scalar => exact absurd hengine (by decide)
  | vector =>
    obtain ⟨⟨hv3, -⟩, hcond⟩ : (v3Ok w [0, 1, 2, 3] true true false = true ∧ zb w 50 5 = true) ∧
        (bitsOf w 46 4 ≤ 5 ∨ (bitsOf w 46 4 ≤ 7 ∧ bitsOf w 55 3 = 3)) := by simpa [fieldsOk, hopc] using hfields
    obtain ⟨⟨⟨hft, hslot⟩, -⟩, -⟩ : (((fFT w = 0 ∨ fFT w = 1 ∨ fFT w = 2 ∨ fFT w = 3) ∧ fSLOT w = 0) ∧ bitsOf w 63 1 = 0) ∧
        ((fFT w = 5 ∨ fFT w = 6) ∨ fH w = 0) := by simpa [v3Ok, ftIn, zb, fFT, fSLOT, fH] using hv3
    refine ⟨by omega, ?_, hslot⟩
    rcases hft with hft | hft | hft | hft <;> rw [hft] <;> rfl

/-- The lane that CMP writes: all ones where the condition holds. -/
def cmpMask (w a b _c : Nat) : Nat × Nat := (if cmpLane (fFT w) (bitsOf w 46 4) a b then 2 ^ ftWidth (fFT w) - 1 else 0, 0)

theorem orFlags_zeros (l : List Nat) : orFlags (l.map fun _ => 0) = 0 := by
  unfold orFlags
  induction l with
  | nil => rfl
  | cons _ l ih =>
    rw [List.map_cons, List.foldl_cons]
    exact ih

/-- CMP is a lane instruction whose flags are zero in every lane (R139, R210). -/
theorem compareWritesAMask : CompareWritesAMask := by
  intro s c w h core ft src hready hbr
  have ⟨_, _, hopc, hok, _, _⟩ := h
  obtain ⟨hcond, hmix, hslot⟩ := cmp_fields hok hopc
  have hsrc : laneSrcs w.toNat false = src := by simp [laneSrcs, abSrc, hmix, src]
  have hlane : ∀ r j, abLane core ft (fH w.toNat) r j = laneOf (ftWidth ft) (vregOf core r) j := by
    intro r j
    rw [abLane, hmix]
    rfl
  have hissues := effLanes_issues (lat := 2) (f := cmpMask) h (hsrc ▸ hready) (hsrc ▸ hbr)
  obtain ⟨hreg, hlo, hlen, hbruise, hsel, hval⟩ := writes_laneResult core w.toNat false (cmpMask w.toNat) (slotOf s c.fld + 1 - 1 + 2)
  rw [hslot, show (fun j => (laneOut (coreAt s (ckey c)) w.toNat false (cmpMask w.toNat) j).2) = fun _ => 0 from rfl,
    orFlags_zeros] at hissues
  refine ⟨_, _, rfl, hissues, hreg, hlo, hlen, hbruise, hsel, fun j hj => ?_⟩
  have hmask : laneOf (ftWidth ft) (laneResult core w.toNat false (cmpMask w.toNat) (slotOf s c.fld + 1 - 1 + 2)).v j =
      (if cmpLane ft (bitsOf w.toNat 46 4) (laneOf (ftWidth ft) (vregOf core (fVA w.toNat)) j)
        (laneOf (ftWidth ft) (vregOf core (fVB w.toNat)) j) then 2 ^ ftWidth ft - 1 else 0) % 2 ^ ftWidth ft := by
    rw [← hlane, ← hlane]
    exact hval j hj
  refine ⟨fun hh => ?_, fun hh => ?_⟩
  · rw [hmask, if_pos ((cmpLane_iff hcond).2 hh)]
    exact Nat.mod_eq_of_lt (Nat.sub_lt (Nat.two_pow_pos _) Nat.one_pos)
  · rw [hmask, if_neg fun hc => hh ((cmpLane_iff hcond).1 hc), Nat.zero_mod]

/-- Settles O16: the lane form of each integer instruction, and CMP's mask. -/
theorem integerLanesAndComparesComplete : Obligations.IntegerLanesAndComparesComplete :=
  ⟨integerLanesComplete, compareWritesAMask⟩

/-! ## TOPK, RAND and DROPM -/

theorem zipIdx_map_range {α : Type} (n : Nat) (f : Nat → α) :
    ((List.range n).map f).zipIdx = (List.range n).map fun j => (f j, j) := by
  apply List.ext_getElem <;> simp

/-- TOPK sets the bit of a lane that fewer than k others rank above (R142). -/
theorem topkMask_eq_maskOf (n k : Nat) (score : Nat → Machine.Num) :
    topkMask ((List.range n).map score) k = maskOf n fun j =>
      decide (((List.range n).filter fun i => i ≠ j ∧ ranksAbove (score i) (score j) i j = true).length < k) := by
  have hcount : ∀ j, (((List.range n).map fun i => (score i, i)).filter fun q => q.2 != j && ranksAbove q.1 (score j) q.2 j).length =
      ((List.range n).filter fun i => i ≠ j ∧ ranksAbove (score i) (score j) i j = true).length := by
    intro j
    rw [List.filter_map, List.length_map]
    congr 2
    funext i
    by_cases h : i = j <;> simp [h]
  rw [topkMask, zipIdx_map_range, List.foldl_map, maskOf]
  simp only [hcount, decide_eq_true_eq]

/-- A VEC instruction of one slot with one write to a whole register. -/
theorem vecGo_writes_register {s : State} {c : CoreId} {opc : Nat} {w : BitVec 64} {f : Iss → Res} {src : List VSrc} {lat reg v : Nat}
    (h : MayIssue s c .vec opc w)
    (hf : f (issOf s c .vec w) = vecGo (issOf s c .vec w) src src true 1 lat [{ due := 0, reg := reg, v := v, br := 0 }] 0 0 64)
    (hready : SourcesReady s c src) (hbr : srcBruised (coreAt s (ckey c)) src = false) :
    VecIssues s (issue s c .vec opc w f) c w 1 lat [{ due := slotOf s c.fld + 1 - 1 + lat, reg := reg, v := v, br := 0 }] 0 0 64 :=
  vecIssues_of_vecGo h hf hready (fun _ => hbr) (by simp) keepsIssueState_id

/-- The generator's output for lane `j`, with register VA as data (R145, R191). -/
def laneDraw (s : State) (c : CoreId) (w : BitVec 64) (j : Nat) : Nat :=
  genDraw (taskOf (coreAt s (ckey c)) .vec).gen (w.getLsbD 58) 0 j (laneOf 32 (vregOf (coreAt s (ckey c)) (fVA w.toNat)) j % 2 ^ 16)

theorem randLanes_issOf (s : State) (c : CoreId) (w : BitVec 64) :
    randLanes (issOf s c .vec w) = (List.range 64).map (laneDraw s c w) := by
  rw [randLanes, Iss.task, core_issOf]
  show (List.range 64).map (fun j => genDraw _ (bitOf w.toNat 58) 0 j _) = _
  rw [bitOf_toNat]
  rfl

theorem effTopk_issOf (s : State) (c : CoreId) (w : BitVec 64) :
    effTopk (issOf s c .vec w) =
      vecGo (issOf s c .vec w) [{ reg := fVA w.toNat }] [{ reg := fVA w.toNat }] true 1 8
        [{ due := 0, reg := fVD w.toNat, br := 0
           v := topkMask ((List.range 64).map fun j => decodeNum 13 (laneOf 32 (vregOf (coreAt s (ckey c)) (fVA w.toNat)) j))
             (bitsOf w.toNat 37 7 + 1) }] 0 0 64 := by
  rw [effTopk, core_issOf, vregOf_takeTokens]
  rfl

theorem effRand_issOf (s : State) (c : CoreId) (w : BitVec 64) :
    effRand (issOf s c .vec w) =
      vecGo (issOf s c .vec w) [{ reg := fVA w.toNat }] [{ reg := fVA w.toNat }] true 1 6
        [{ due := 0, reg := fVD w.toNat, v := packLanes 32 ((List.range 64).map (laneDraw s c w)), br := 0 }] 0 0 64 := by
  rw [effRand, randLanes_issOf]
  rfl

theorem effDropm_issOf (s : State) (c : CoreId) (w : BitVec 64) :
    effDropm (issOf s c .vec w) =
      vecGo (issOf s c .vec w) [{ reg := fVA w.toNat }, { reg := fVB w.toNat, lo := 0, len := 32 }]
        [{ reg := fVA w.toNat }, { reg := fVB w.toNat, lo := 0, len := 32 }] true 1 6
        [{ due := 0, reg := fVD w.toNat, br := 0
           v := packLanes 1 ((List.range 64).map fun j =>
             b2n (decide (laneDraw s c w j < laneOf 32 (vregOf (coreAt s (ckey c)) (fVB w.toNat)) 0))) }] 0 0 64 := by
  rw [effDropm, core_issOf, vregOf_takeTokens, randLanes_issOf, List.map_map]
  rfl

/-- Settles O20: each of the three makes one write of a whole register, whose bits or lanes are the statement's. -/
theorem scoreAndGeneratorMasksComplete : Obligations.ScoreAndGeneratorMasksComplete := by
  intro s c w core n lane draw a ab
  refine ⟨?topk, ?rand, ?dropm⟩
  case topk =>
    intro h hready hbr score
    have hissues := vecGo_writes_register h (effTopk_issOf s c w) hready hbr
    rw [topkMask_eq_maskOf] at hissues
    refine ⟨_, _, rfl, hissues, ⟨rfl, rfl, rfl, rfl, rfl, rfl⟩, maskOf_lt _ _, fun j hj => ?_⟩
    rw [bitOf_maskOf _ hj, decide_eq_true_eq]
  case rand =>
    intro h hready hbr
    exact ⟨_, _, rfl, vecGo_writes_register h (effRand_issOf s c w) hready hbr, rfl, rfl, rfl, rfl, rfl,
      fun j hj => laneOf_packLanes_range _ _ _ hj⟩
  case dropm =>
    intro h hready hbr
    refine ⟨_, _, rfl, vecGo_writes_register h (effDropm_issOf s c w) hready hbr, ⟨rfl, rfl, rfl, rfl, rfl, rfl⟩, ?_, fun j hj => ?_⟩
    · have hlt := packLanes_lt 1 ((List.range 64).map fun j => b2n (decide (draw j < lane (fVB n) 0)))
      rwa [List.length_map, List.length_range] at hlt
    · rw [bitOf_packLanes_one 64 _ hj, decide_eq_true_eq]
      exact Iff.rfl

end Sys2Proof.Proofs.Vector
end

section
/-! SUPPORT. Proofs about what the engines have in common (06, 07): an instruction that changes nothing but its task, with the pacing,
loop, address, mode and generator instructions; and the issue of an instruction that moves one unit a slot, with the status-slot stores. -/

namespace Sys2Proof.Proofs.Engines

open Sys2Proof.Machine Sys2Proof.Laws Sys2Proof.Proofs.Vector

/-! ## Fields of an instruction word -/

/-- A field of a word, cut from its number or from its bits. -/
theorem ofNat_bitsOf {n : Nat} (w : BitVec n) (lo len : Nat) : BitVec.ofNat len (bitsOf w.toNat lo len) = w.extractLsb' lo len := by
  apply BitVec.eq_of_toNat_eq
  rw [BitVec.toNat_ofNat, BitVec.extractLsb'_toNat, bitsOf, Nat.mod_mod, Nat.shiftRight_eq_div_pow]

theorem bitsOf_lt (n lo len : Nat) : bitsOf n lo len < 2 ^ len := Nat.mod_lt _ (Nat.two_pow_pos len)

/-- A field as a wider number. -/
theorem ofNat_bitsOf_wide {n : Nat} (w : BitVec n) (lo len : Nat) {m : Nat} (h : len ≤ m) :
    BitVec.ofNat m (bitsOf w.toNat lo len) = (w.extractLsb' lo len).setWidth m := by
  rw [← ofNat_bitsOf, BitVec.setWidth_ofNat_of_le_of_lt h (bitsOf_lt _ _ _)]

/-! ## Instructions that change nothing but their task -/

/-- `s'` is the state of the issue with the task of engine `e` changed by `g`, and nothing else. -/
structure ChangesTask (s s' : State) (c : CoreId) (e : Engine) (w : BitVec 64) (g : Task → Task) : Prop where
  core : coreAt s' (ckey c) = { takeTokens (coreAt s (ckey c)) (waitOf s c e w) with tasks := (coreAt s' (ckey c)).tasks }
  task : ∀ x, taskOf (coreAt s' (ckey c)) x = if e = x then g (taskOf (coreAt s (ckey c)) e) else taskOf (coreAt s (ckey c)) x
  other : ∀ k, k ≠ ckey c → coreAt s' k = coreAt s k
  rest : s' = { s with cor := s'.cor }

theorem changesTask_id (s : State) (c : CoreId) (e : Engine) (w : BitVec 64) : ChangesTask s (issOf s c e w).s c e w id where
  core := by rw [coreAt_issOf]
  task x := by
    rw [coreAt_issOf, taskOf_takeTokens]
    split
    · next h => rw [h]; rfl
    · rfl
  other _ h := coreAt_issOf_other s c e w h
  rest := rfl

theorem changesTask_modTask (s : State) (c : CoreId) (e : Engine) (w : BitVec 64) (g : Task → Task) :
    ChangesTask s (modCore (issOf s c e w).s (ckey c) fun x => modTask x e g) c e w g where
  core := by rw [coreAt_modCore, if_pos rfl, coreAt_issOf]; rfl
  task x := by rw [coreAt_modCore, if_pos rfl, coreAt_issOf, taskOf_modTask, taskOf_takeTokens, taskOf_takeTokens]
  other k h := by rw [coreAt_modCore, if_neg h.symm, coreAt_issOf_other _ _ _ _ h]
  rest := rfl

/-- Only the change of the task as it stands counts. -/
theorem ChangesTask.congr {s s' : State} {c : CoreId} {e : Engine} {w : BitVec 64} {g g' : Task → Task} (h : ChangesTask s s' c e w g)
    (hg : g (taskOf (coreAt s (ckey c)) e) = g' (taskOf (coreAt s (ckey c)) e)) : ChangesTask s s' c e w g' :=
  { h with task := hg ▸ h.task }

/-- The program counter after an issue that leaves `d`. -/
def pcAfter (s : State) (c : CoreId) (e : Engine) (d : Done) : BitVec 32 := (d.pc.map (BitVec.ofNat 32)).getD (nextPc s c e)

/-- The slots that an issue which leaves `d` loses by its jump (R159). -/
def jumpSlots (t : Task) (d : Done) : Nat := (d.pc.map (jumpCost t)).getD 0

section

variable {s s' : State} {c : CoreId} {e : Engine} {opc : Nat} {w : BitVec 64} {f : Iss → Res} {d : Done} {g : Task → Task}

/-- The task of an engine whose instruction has issued. -/
theorem taskOf_issue_of_changesTask (h : MayIssue s c e opc w) (hgo : f (issOf s c e w) = .go s' d) (hs : ChangesTask s s' c e w g) :
    taskOf (coreAt (issue s c e opc w f) (ckey c)) e =
      record (postMask (taskOf (coreAt s (ckey c)) e).masks w.toNat) d (g (taskOf (coreAt s (ckey c)) e)) := by
  rw [issue_go h hgo, coreAt_modCore, if_pos rfl, taskOf_modTask, if_pos rfl, hs.task, if_pos rfl]

/-- Such an instruction issues. -/
theorem issues_of_changesTask (h : MayIssue s c e opc w) (hgo : f (issOf s c e w) = .go s' d) (hs : ChangesTask s s' c e w g)
    (hg : KeepsIssueState g) (hfl : d.inFlight = true) (hnext : slotOf s c.fld ≤ d.next) :
    Issues s (issue s c e opc w f) c e w (pcAfter s c e d) (d.next + jumpSlots (g (taskOf (coreAt s (ckey c)) e)) d) d.fin := by
  obtain ⟨gpc, gready, -, gflights⟩ := hg (taskOf (coreAt s (ckey c)) e)
  have htask : taskOf (coreAt s' (ckey c)) e = g (taskOf (coreAt s (ckey c)) e) := by rw [hs.task, if_pos rfl]
  have hmax : max (taskOf (coreAt s' (ckey c)) e).ready d.next = d.next := by
    rw [htask, gready]
    exact max_eq_right (le_trans (ready_and_running_of_engineFree h.1).1 hnext)
  have hissues := issues_of_go h hgo hfl (by rw [hs.core]) (fun x hx => by rw [hs.task, if_neg hx.symm]) (by rw [htask, gpc])
    (by rw [htask, gflights]) hs.other
  rw [hmax, htask] at hissues
  unfold pcAfter jumpSlots
  cases hpc : d.pc <;> rw [hpc] at hissues <;> exact hissues

/-- Beside the issue it changes its task by `g`. -/
theorem taskIs_of_changesTask (h : MayIssue s c e opc w) (hgo : f (issOf s c e w) = .go s' d) (hs : ChangesTask s s' c e w g)
    (hg : KeepsIssueState g) (hpace : d.pace = .run) : TaskIs s (issue s c e opc w f) c e g := by
  obtain ⟨-, -, gpace, -⟩ := hg (taskOf (coreAt s (ckey c)) e)
  have hrun := gpace.trans (ready_and_running_of_engineFree h.1).2
  rw [TaskIs, taskOf_issue_of_changesTask h hgo hs, record, hpace, ← hrun]

/-- Of its core it changes the tokens and its task alone. -/
theorem onlyTask_of_changesTask (h : MayIssue s c e opc w) (hgo : f (issOf s c e w) = .go s' d) (hs : ChangesTask s s' c e w g) :
    OnlyTask s (issue s c e opc w f) c := by
  rw [OnlyTask, issue_go h hgo, coreAt_modCore, if_pos rfl, hs.core]
  rfl

/-- Outside the cores it changes nothing. -/
theorem onlyCores_of_changesTask (h : MayIssue s c e opc w) (hgo : f (issOf s c e w) = .go s' d) (hs : ChangesTask s s' c e w g) :
    OnlyCores s (issue s c e opc w f) := by
  rw [OnlyCores, issue_go h hgo, hs.rest]
  rfl

end

/-- What an issue leaves in `d` for the engine: the program counter, the next issue slot and the completion slot of a task form, with the
engine running. -/
def Leaves (s : State) (c : CoreId) (e : Engine) (d : Done) (pc : BitVec 32) (next fin : Nat) : Prop :=
  d.inFlight = true ∧ d.pace = .run ∧ slotOf s c.fld ≤ d.next ∧ pcAfter s c e d = pc ∧
    d.next + jumpSlots (taskOf (coreAt s (ckey c)) e) d = next ∧ d.fin = fin

/-- Changes that leave a jump its cost: the program counter and the instruction queue stand. -/
def KeepsQueue (g : Task → Task) : Prop := KeepsIssueState g ∧ ∀ t, (g t).iq = t.iq

theorem keepsQueue_id : KeepsQueue id := ⟨keepsIssueState_id, fun _ => rfl⟩

theorem jumpSlots_of_keepsQueue {g : Task → Task} (h : KeepsQueue g) (t : Task) (d : Done) : jumpSlots (g t) d = jumpSlots t d := by
  have hcost : jumpCost (g t) = jumpCost t := by
    funext n
    rw [jumpCost, jumpCost, (h.1 t).1, h.2 t]
  rw [jumpSlots, jumpSlots, hcost]

section

variable {i : CoreId → BitVec 64 → Instr} {e : Engine} {opc : Nat} {f : Iss → Res} {pc : State → CoreId → BitVec 64 → BitVec 32}
  {next fin : State → CoreId → BitVec 64 → Nat} {g : State → CoreId → BitVec 64 → Task → Task}

/-- An instruction whose effect goes with its task alone changed is of the task form. -/
theorem taskForm_of_go (hexec : ∀ c w s, exec (i c w) s = .next (issue s c e opc w f)) (hg : ∀ s c w, KeepsQueue (g s c w))
    (hgo : ∀ s c w, MayIssue s c e opc w → ∃ s' d, f (issOf s c e w) = .go s' d ∧ ChangesTask s s' c e w (g s c w) ∧
      Leaves s c e d (pc s c w) (next s c w) (fin s c w)) :
    TaskForm i e opc pc next fin g := by
  intro s c w h
  obtain ⟨s', d, hf, hs, hfl, hpace, hslot, hpc, hnext, hfin⟩ := hgo s c w h
  have hissues := issues_of_changesTask h hf hs (hg s c w).1 hfl hslot
  rw [jumpSlots_of_keepsQueue (hg s c w), hpc, hnext, hfin] at hissues
  exact ⟨_, hexec c w s, hissues, taskIs_of_changesTask h hf hs (hg s c w).1 hpace, onlyTask_of_changesTask h hf hs,
    onlyCores_of_changesTask h hf hs⟩

/-- The same of an instruction of one slot. -/
theorem taskForm_of_oneSlot (hexec : ∀ c w s, exec (i c w) s = .next (issue s c e opc w f)) (hg : ∀ s c w, KeepsQueue (g s c w))
    (hf : ∀ s c w, MayIssue s c e opc w → f (issOf s c e w) = oneSlot (issOf s c e w) (g s c w)) :
    TaskForm i e opc (fun s c _ => nextPc s c e) (fun s c _ => slotOf s c.fld + 1) (fun s c _ => slotOf s c.fld) g :=
  taskForm_of_go hexec hg fun s c w h =>
    ⟨_, _, hf s c w h, changesTask_modTask s c e w (g s c w), rfl, rfl, Nat.le_succ _, rfl, rfl, rfl⟩

end

/-! ## Pacing, address and loop instructions -/

@[simp] theorem w_issOf (s : State) (c : CoreId) (e : Engine) (w : BitVec 64) : (issOf s c e w).w = w.toNat := rfl

@[simp] theorem task_issOf (s : State) (c : CoreId) (e : Engine) (w : BitVec 64) :
    (issOf s c e w).task = taskOf (coreAt s (ckey c)) e := by
  show taskOf (issOf s c e w).core e = _
  rw [core_issOf, taskOf_takeTokens]

/-- A well-formed ASET or AADD names no a0 (R199, R218). -/
theorem areg_ne_zero {k : CoreKind} {e : Engine} {w : Nat} (h : wordOk k e w = true) (hopc : opcOf w = 0x07 ∨ opcOf w = 0x08) :
    bitsOf w 19 3 ≠ 0 := by
  have hfields : fieldsOk k e w = true := by
    rw [wordOk, Bool.and_eq_true] at h
    exact h.2
  rcases hopc with hopc | hopc <;> simp [fieldsOk, hopc, zb] at hfields <;> exact hfields.1.2

/-- PB as AT leaves it (R196). -/
def atAdvances (w : BitVec 64) (t : Task) : Task :=
  if w.getLsbD 59 then { t with pb := t.pb + (w.extractLsb' 19 40).setWidth 64 } else t

theorem keepsQueue_atAdvances (w : BitVec 64) : KeepsQueue (atAdvances w) := by
  unfold atAdvances
  cases w.getLsbD 59 <;> exact ⟨fun _ => ⟨rfl, rfl, rfl, rfl⟩, fun _ => rfl⟩

theorem effAt_issOf (s : State) (c : CoreId) (e : Engine) (w : BitVec 64) :
    effAt (issOf s c e w) = .go (modCore (issOf s c e w).s (ckey c) fun x => modTask x e (atAdvances w))
      { next := max (slotOf s c.fld + 1) (atSlotOf s c e w), fin := max (slotOf s c.fld + 1) (atSlotOf s c e w) - 1 } := by
  have hadv : (fun t : Task => { t with pb := if bitOf w.toNat 59 then t.pb + BitVec.ofNat 64 (bitsOf w.toNat 19 40) else t.pb }) =
      atAdvances w := by
    funext t
    rw [atAdvances, bitOf_toNat, ofNat_bitsOf_wide w 19 40 (by norm_num)]
    cases w.getLsbD 59 <;> rfl
  rw [effAt, task_issOf, atSlotOf, ← hadv]
  rfl

theorem effAset_issOf {s : State} {c : CoreId} {e : Engine} {w : BitVec 64} (h : MayIssue s c e 0x07 w) :
    effAset (issOf s c e w) =
      oneSlot (issOf s c e w) fun t => { t with areg := tabPut 0 (bitsOf w.toNat 19 3) (w.extractLsb' 22 32) t.areg } := by
  obtain ⟨-, -, hopc, hok, -, -⟩ := h
  unfold effAset aregSet
  rw [w_issOf, ofNat_bitsOf]
  simp only [if_neg (areg_ne_zero hok (.inl hopc))]

theorem effAadd_issOf {s : State} {c : CoreId} {e : Engine} {w : BitVec 64} (h : MayIssue s c e 0x08 w) :
    effAadd (issOf s c e w) =
      oneSlot (issOf s c e w) fun t =>
        { t with areg := tabPut 0 (bitsOf w.toNat 19 3) (tabGet 0 t.areg (bitsOf w.toNat 19 3) + w.extractLsb' 22 32) t.areg } := by
  obtain ⟨-, -, hopc, hok, -, -⟩ := h
  unfold effAadd aregSet aregGet
  rw [w_issOf]
  simp only [if_neg (areg_ne_zero hok (.inr hopc)), BitVec.ofNat_add, ofNat_bitsOf, BitVec.ofNat_toNat, BitVec.setWidth_eq]

/-- DELAY, AT, ASET and AADD each have their effect on the task, and their slots (R172, R196, R199). -/
theorem pacingAndAddressInstructionsComplete : PacingAndAddressInstructionsComplete := by
  intro e
  refine ⟨?delay, ?atSlot, ?aset, ?aadd⟩
  case delay =>
    exact taskForm_of_go (fun _ _ _ => rfl) (fun _ _ _ => keepsQueue_id) fun s c w _ =>
      ⟨_, _, rfl, changesTask_id s c e w, rfl, rfl, Nat.le_add_right _ _, rfl, rfl, rfl⟩
  case atSlot =>
    exact taskForm_of_go (fun _ _ _ => rfl) (fun _ _ w => keepsQueue_atAdvances w) fun s c w _ =>
      ⟨_, _, effAt_issOf s c e w, changesTask_modTask s c e w _, rfl, rfl, le_max_of_le_left (Nat.le_succ _), rfl, rfl, rfl⟩
  case aset =>
    exact taskForm_of_oneSlot (fun _ _ _ => rfl) (fun _ _ _ => ⟨fun _ => ⟨rfl, rfl, rfl, rfl⟩, fun _ => rfl⟩) fun _ _ _ => effAset_issOf
  case aadd =>
    exact taskForm_of_oneSlot (fun _ _ _ => rfl) (fun _ _ _ => ⟨fun _ => ⟨rfl, rfl, rfl, rfl⟩, fun _ => rfl⟩) fun _ _ _ => effAadd_issOf

/-- The jump target of LEND (R198). -/
def lendBack (s : State) (c : CoreId) (e : Engine) (w : BitVec 64) : BitVec 32 :=
  (taskOf (coreAt s (ckey c)) e).pc - BitVec.ofNat 32 (8 * (bitsOf w.toNat 21 16 + 1))

/-- LEND's own change of its task, where the counter stands at `n`. -/
def lendLowers (w : BitVec 64) (n : Nat) (t : Task) : Task := { t with lctr := tabPut 0 (bitsOf w.toNat 19 2) (n - 1) t.lctr }

theorem effLend_issOf (s : State) (c : CoreId) (e : Engine) (w : BitVec 64) :
    effLend (issOf s c e w) = .go
      (modCore (issOf s c e w).s (ckey c) fun x =>
        modTask x e (lendLowers w (tabGet 0 (taskOf (coreAt s (ckey c)) e).lctr (bitsOf w.toNat 19 2))))
      { next := slotOf s c.fld + 1, fin := slotOf s c.fld
        pc := if tabGet 0 (taskOf (coreAt s (ckey c)) e).lctr (bitsOf w.toNat 19 2) ≤ 1 then none else some (lendBack s c e w).toNat } := by
  rw [effLend, task_issOf, w_issOf]
  split
  · rfl
  · rfl

/-- LSET and LEND have their effect on the loop counter, and LEND jumps while it is not zero (R198). -/
theorem loopInstructionsComplete : LoopInstructionsComplete := by
  intro e
  refine ⟨?lset, ?lend⟩
  case lset =>
    exact taskForm_of_oneSlot (fun _ _ _ => rfl) (fun _ _ _ => ⟨fun _ => ⟨rfl, rfl, rfl, rfl⟩, fun _ => rfl⟩) fun _ _ _ _ => rfl
  case lend =>
    refine taskForm_of_go (fun _ _ _ => rfl) (fun _ _ _ => ⟨fun _ => ⟨rfl, rfl, rfl, rfl⟩, fun _ => rfl⟩) fun s c w _ =>
      ⟨_, _, effLend_issOf s c e w, (changesTask_modTask s c e w _).congr rfl, rfl, rfl, Nat.le_succ _, ?_, ?_, rfl⟩
    · dsimp only [pcAfter]
      split
      · rfl
      · exact BitVec.ofNat_toNat _ _ |>.trans (BitVec.setWidth_eq _)
    · dsimp only [jumpSlots]
      split <;> rfl

/-- Settles O2: each of the six is of the task form. -/
theorem pacingAndLoopInstructionsComplete : Obligations.PacingAndLoopInstructionsComplete :=
  ⟨pacingAndAddressInstructionsComplete, loopInstructionsComplete⟩

/-! ## Mode and generator instructions -/

theorem effDcfg_issOf (s : State) (c : CoreId) (e : Engine) (w : BitVec 64) :
    effDcfg (issOf s c e w) = oneSlot (issOf s c e w) fun t =>
      { t with dcfg :=
          { fmt := w.extractLsb' 19 4, rnd := w.extractLsb' 23 2, ovf := w.getLsbD 25, anch := w.extractLsb' 26 8,
            slot := w.extractLsb' 34 4, g := w.getLsbD 38, clr := w.getLsbD 39 } } := by
  rw [effDcfg, w_issOf]
  simp only [ofNat_bitsOf, bitOf_toNat]

theorem effMcfg_issOf (s : State) (c : CoreId) (e : Engine) (w : BitVec 64) :
    effMcfg (issOf s c e w) = oneSlot (issOf s c e w) fun t => { t with afmt := w.extractLsb' 19 4, mslot := w.extractLsb' 23 4 } := by
  rw [effMcfg, w_issOf, ofNat_bitsOf, ofNat_bitsOf]

/-- The upper 16 of 48 bits replaced, as GEN's OP 1 has it (R211). -/
theorem ofNat_high_low (x : BitVec 48) (y : BitVec 32) :
    BitVec.ofNat 48 (x.toNat % 2 ^ 32 + y.toNat % 2 ^ 16 * 2 ^ 32) = (y.setWidth 16 ++ x.setWidth 32 : BitVec (16 + 32)) := by
  have hlow : x.toNat % 2 ^ 32 < 2 ^ 32 := Nat.mod_lt _ (Nat.two_pow_pos 32)
  apply BitVec.eq_of_toNat_eq
  rw [BitVec.toNat_append, BitVec.toNat_setWidth, BitVec.toNat_setWidth, Nat.shiftLeft_eq, Nat.mul_comm,
    ← Nat.two_pow_add_eq_or_of_lt hlow, BitVec.toNat_ofNat]
  omega

/-- GEN's new generator registers are those of its OP (R211). -/
theorem genTakes_genSet (w : BitVec 64) (g : Gen) : GenTakes w g (genSet w.toNat g) := by
  have himm : ∀ n, 32 ≤ n → BitVec.ofNat n (bitsOf w.toNat 23 32) = (w.extractLsb' 23 32).setWidth n := fun n h => ofNat_bitsOf_wide w 23 32 h
  refine ⟨fun h => ?cb, fun h => ?high, fun h => ?add, fun h => ?cs, fun h => ?cr, fun h => ?stream, fun h => ?step, fun h => ?set⟩ <;>
    simp only [genSet, h]
  case cb => rw [himm 48 (by norm_num)]
  case high => rw [← ofNat_high_low, ← ofNat_bitsOf, BitVec.toNat_ofNat, Nat.mod_eq_of_lt (bitsOf_lt _ _ _)]
  case add => rw [sextNat_eq_toInt, ofNat_bitsOf, BitVec.signExtend]
  case cs => rw [ofNat_bitsOf]
  case cr => rw [ofNat_bitsOf]
  case stream => rw [bitOf_toNat, ← ofNat_bitsOf, BitVec.setWidth_ofNat_of_le (by norm_num)]
  case step => rw [ofNat_bitsOf]
  case set => rw [ofNat_bitsOf]

/-- GEN issues in one slot on either engine, and changes its generator registers alone (R140, R211). -/
theorem gen_issues {s : State} {c : CoreId} {e : Engine} {opc : Nat} {w : BitVec 64} (h : MayIssue s c e opc w) :
    ∃ g', Issues s (issue s c e opc w effGen) c e w (nextPc s c e) (slotOf s c.fld + 1) (slotOf s c.fld + if e = .vec then 1 else 0) ∧
      GenTakes w (taskOf (coreAt s (ckey c)) e).gen g' ∧ TaskIs s (issue s c e opc w effGen) c e (fun x => { x with gen := g' }) ∧
      OnlyTask s (issue s c e opc w effGen) c ∧ OnlyCores s (issue s c e opc w effGen) := by
  have hgo : effGen (issOf s c e w) = .go
      (modCore (issOf s c e w).s (ckey c) fun x => modTask x e fun t => { t with gen := genSet w.toNat t.gen })
      { next := slotOf s c.fld + 1, fin := if e = .vec then slotOf s c.fld + 1 else slotOf s c.fld } := rfl
  have hs := (changesTask_modTask s c e w fun t => { t with gen := genSet w.toNat t.gen }).congr
    (g' := fun t => { t with gen := genSet w.toNat (taskOf (coreAt s (ckey c)) e).gen }) rfl
  have hg : KeepsIssueState fun t => { t with gen := genSet w.toNat (taskOf (coreAt s (ckey c)) e).gen } := fun _ => ⟨rfl, rfl, rfl, rfl⟩
  have hissues := issues_of_changesTask h hgo hs hg rfl (Nat.le_succ _)
  have hfin : (if e = .vec then slotOf s c.fld + 1 else slotOf s c.fld) = slotOf s c.fld + if e = .vec then 1 else 0 := by
    split <;> rfl
  rw [← hfin]
  exact ⟨_, hissues, genTakes_genSet w _, taskIs_of_changesTask h hgo hs hg rfl, onlyTask_of_changesTask h hgo hs,
    onlyCores_of_changesTask h hgo hs⟩

/-- MCFG, DCFG and GEN have their effect on the task, in one slot (R190, R203, R205, R211). -/
theorem modeAndGeneratorInstructionsComplete : ModeAndGeneratorInstructionsComplete := by
  refine ⟨?mcfg, ?dcfg, ?gen⟩
  case mcfg =>
    exact taskForm_of_oneSlot (fun _ _ _ => rfl) (fun _ _ _ => ⟨fun _ => ⟨rfl, rfl, rfl, rfl⟩, fun _ => rfl⟩)
      fun s c w _ => effMcfg_issOf s c .mac w
  case dcfg =>
    exact taskForm_of_oneSlot (fun _ _ _ => rfl) (fun _ _ _ => ⟨fun _ => ⟨rfl, rfl, rfl, rfl⟩, fun _ => rfl⟩)
      fun s c w _ => effDcfg_issOf s c .drain w
  case gen =>
    rintro s c w e i (⟨rfl, rfl, h⟩ | ⟨rfl, rfl, h⟩)
    · exact (gen_issues h).elim fun g' hgen => ⟨_, g', rfl, hgen⟩
    · exact (gen_issues h).elim fun g' hgen => ⟨_, g', rfl, hgen⟩

/-! ## Instructions that move one unit a slot -/

/-- The record of an instruction that begins, as its engine holds it (R166, R195). -/
def begun (s : State) (c : CoreId) (e : Engine) (w : BitVec 64) (p : Prog) : Prog :=
  { p with post := BitVec.ofNat 16 (postMask (taskOf (coreAt s (ckey c)) e).masks w.toNat), w := w, t := slotOf s c.fld }

/-- `s2` is `s'` with the tokens of the issue taken, the record `r` in engine `e`, and its task changed by `g`. -/
structure Stands (s s' s2 : State) (c : CoreId) (e : Engine) (w : BitVec 64) (r : Option Prog) (g : Task → Task) : Prop where
  tok : (coreAt s2 (ckey c)).tok = (takeTokens (coreAt s (ckey c)) (waitOf s c e w)).tok
  prog : ∀ x, tabGet none (coreAt s2 (ckey c)).prog x = if x = engCode e then r else tabGet none (coreAt s (ckey c)).prog x
  task : taskOf (coreAt s2 (ckey c)) e = g (taskOf (coreAt s (ckey c)) e)
  others : ∀ x, x ≠ e → taskOf (coreAt s2 (ckey c)) x = taskOf (coreAt s' (ckey c)) x
  core : coreAt s2 (ckey c) =
    { coreAt s' (ckey c) with
      tok := (coreAt s2 (ckey c)).tok, tasks := (coreAt s2 (ckey c)).tasks, prog := (coreAt s2 (ckey c)).prog }
  cores : ∀ k, k ≠ ckey c → coreAt s2 k = coreAt s' k
  rest : s2 = { s' with cor := s2.cor }

/-- The state in which the first unit of an instruction may move. -/
def standState (s : State) (c : CoreId) (e : Engine) (w : BitVec 64) (p : Prog) (g : Task → Task) : State :=
  modCore (issOf s c e w).s (ckey c) fun x => modTask { x with prog := tabPut none (engCode e) (some p) x.prog } e g

theorem coreAt_standState (s : State) (c : CoreId) (e : Engine) (w : BitVec 64) (p : Prog) (g : Task → Task) :
    coreAt (standState s c e w p g) (ckey c) =
      modTask { takeTokens (coreAt s (ckey c)) (waitOf s c e w) with
        prog := tabPut none (engCode e) (some p) (coreAt s (ckey c)).prog } e g := by
  rw [standState, coreAt_modCore, if_pos rfl, coreAt_issOf]
  rfl

theorem taskOf_standState (s : State) (c : CoreId) (e : Engine) (w : BitVec 64) (p : Prog) (g : Task → Task) (x : Engine) :
    taskOf (coreAt (standState s c e w p g) (ckey c)) x =
      if e = x then g (taskOf (coreAt s (ckey c)) e) else taskOf (coreAt s (ckey c)) x := by
  rw [coreAt_standState, taskOf_modTask]
  rfl

theorem stands_standState (s : State) (c : CoreId) (e : Engine) (w : BitVec 64) (p : Prog) (g : Task → Task) :
    Stands s s (standState s c e w p g) c e w (some p) g where
  tok := by rw [coreAt_standState]; rfl
  prog x := by
    rw [coreAt_standState]
    show tabGet none (tabPut none (engCode e) (some p) _) x = _
    rw [tabGet_put]
    simp only [eq_comm]
  task := by rw [taskOf_standState, if_pos rfl]
  others x hx := by rw [taskOf_standState, if_neg hx.symm]
  core := by rw [coreAt_standState]; rfl
  cores k hk := by rw [standState, coreAt_modCore, if_neg hk.symm, coreAt_issOf_other _ _ _ _ hk]
  rest := rfl

section

variable {s s' s2 : State} {c : CoreId} {e : Engine} {w : BitVec 64} {r : Option Prog} {g : Task → Task}

/-- A change of a field, made in both. -/
theorem Stands.changeField (hs : Stands s s' s2 c e w r g) (f : Nat) (h : Field → Field) :
    Stands s (modField s' f h) (modField s2 f h) c e w r g :=
  { hs with rest := by rw [hs.rest]; rfl }

/-- A change of a task of the core, made in both. -/
theorem Stands.changeTask (hs : Stands s s' s2 c e w r g) (y : Engine) (h : Task → Task) :
    Stands s (modCore s' (ckey c) fun x => modTask x y h) (modCore s2 (ckey c) fun x => modTask x y h) c e w r
      fun t => if y = e then h (g t) else g t := by
  have hk : ∀ u : State, coreAt (modCore u (ckey c) fun x => modTask x y h) (ckey c) = modTask (coreAt u (ckey c)) y h :=
    fun u => by rw [coreAt_modCore, if_pos rfl]
  constructor
  case tok => rw [hk]; exact hs.tok
  case prog => rw [hk]; exact hs.prog
  case task =>
    rw [hk, taskOf_modTask, ← hs.task]
    split
    · next hy => rw [hy]
    · rfl
  case others =>
    intro x hx
    rw [hk, hk, taskOf_modTask, taskOf_modTask, hs.others x hx]
    split
    · next hy => rw [hs.others y (hy ▸ hx)]
    · rfl
  case core => rw [hk, hk, hs.core]; rfl
  case cores =>
    intro k hne
    rw [coreAt_modCore, coreAt_modCore, if_neg hne.symm, if_neg hne.symm, hs.cores k hne]
  case rest => rw [hs.rest]; rfl

/-- A change of a task that changes nothing need not be made. -/
theorem Stands.keepTask (hs : Stands s s' s2 c e w r g) (y : Engine) :
    Stands s (modCore s' (ckey c) fun x => modTask x y fun t => t) s2 c e w r g := by
  have hk : coreAt (modCore s' (ckey c) fun x => modTask x y fun t => t) (ckey c) =
      modTask (coreAt s' (ckey c)) y fun t => t := by rw [coreAt_modCore, if_pos rfl]
  refine ⟨hs.tok, hs.prog, hs.task, fun x hx => ?others, ?core, fun k hne => ?cores, hs.rest⟩
  case others =>
    rw [hk, taskOf_modTask, hs.others x hx]
    split
    · next hy => rw [hy]
    · rfl
  case core => rw [hk]; exact hs.core
  case cores => rw [coreAt_modCore, if_neg hne.symm, hs.cores k hne]

/-- A change of the engine's own record and task, made in `s2` alone. -/
theorem Stands.own (hs : Stands s s' s2 c e w r g) {F : Core → Core} {r' : Option Prog} {h : Task → Task}
    (hcore : ∀ x, F x = { x with prog := (F x).prog, tasks := (F x).tasks })
    (hprog : ∀ x, tabGet none (F (coreAt s2 (ckey c))).prog x = if engCode e = x then r' else tabGet none (coreAt s2 (ckey c)).prog x)
    (htask : ∀ x, taskOf (F (coreAt s2 (ckey c))) x =
      if e = x then h (taskOf (coreAt s2 (ckey c)) e) else taskOf (coreAt s2 (ckey c)) x) :
    Stands s s' (modCore s2 (ckey c) F) c e w r' fun t => h (g t) := by
  have hk : coreAt (modCore s2 (ckey c) F) (ckey c) = F (coreAt s2 (ckey c)) := by rw [coreAt_modCore, if_pos rfl]
  constructor
  case tok => rw [hk, hcore]; exact hs.tok
  case prog =>
    intro x
    rw [hk, hprog, hs.prog]
    by_cases hx : x = engCode e <;> simp [hx, eq_comm]
  case task => rw [hk, htask, if_pos rfl, hs.task]
  case others => intro x hx; rw [hk, htask, if_neg hx.symm, hs.others x hx]
  case core => rw [hk, hcore, hs.core]
  case cores => intro k hne; rw [coreAt_modCore, if_neg hne.symm, hs.cores k hne]
  case rest => rw [hs.rest]; rfl

/-- Only the change of the task as it stands counts. -/
theorem Stands.congr {g' : Task → Task} (hs : Stands s s' s2 c e w r g)
    (hg : g (taskOf (coreAt s (ckey c)) e) = g' (taskOf (coreAt s (ckey c)) e)) : Stands s s' s2 c e w r g' :=
  { hs with task := hs.task.trans hg }

end

/-! ### The first unit -/

/-- What the issue of an instruction that moves one unit a slot leaves for its engine. -/
def unitsDone (t : Nat) : Done := { next := t + 1, fin := t, inFlight := false }

theorem startUnits_issOf (s : State) (c : CoreId) (e : Engine) (w : BitVec 64) (p : Prog) (g : Task → Task) :
    startUnits (issOf s c e w) p g =
      .go (runUnits c e (slotOf s c.fld) 1 (standState s c e w (begun s c e w p) g)) (unitsDone (slotOf s c.fld)) := by
  have hw : BitVec.ofNat 64 w.toNat = w := by rw [BitVec.ofNat_toNat, BitVec.setWidth_eq]
  rw [startUnits, task_issOf, w_issOf, hw]
  rfl

/-- A unit that is not due does not move. -/
theorem runUnits_of_lt {s : State} {c : CoreId} {e : Engine} {u : Nat} {p : Prog}
    (hp : tabGet none (coreAt s (ckey c)).prog (engCode e) = some p) (h : u < unitSlot p p.idx) (n : Nat) :
    runUnits c e u n s = s := by
  cases n with
  | zero => rfl
  | succ n => simp only [runUnits, hp, if_pos h]

/-- The state after a unit has moved: the instruction ends, or the record stands. -/
def afterUnit (s : State) (c : CoreId) (e : Engine) (p : Prog) (u : Nat) : State :=
  if p.n ≤ p.idx then endUnits s c e p u
  else modCore s (ckey c) fun x => { x with prog := tabPut none (engCode e) (some p) x.prog }

/-- A unit that is due moves. -/
theorem runUnits_one_of_moved {s s' : State} {c : CoreId} {e : Engine} {u : Nat} {p p' : Prog}
    (hp : tabGet none (coreAt s (ckey c)).prog (engCode e) = some p) (h : unitSlot p p.idx ≤ u)
    (hmove : oneUnit (unitNote s c p) c p u = .moved s' p') :
    runUnits c e u 1 s = afterUnit s' c e { p' with idx := p'.idx + 1, held := false } u := by
  simp only [runUnits, hp, if_neg (Nat.not_lt.2 h), hmove, afterUnit]

/-- The task of an instruction whose last unit has moved in slot `u`. -/
def endTask (p : Prog) (u : Nat) (t : Task) : Task :=
  { t with
    ready := u + (if p.slots = [] then p.step else 1)
    flights := t.flights ++
      [{ done := u + p.lat, onAccept := p.kind == 11, post := p.post, slot := p.dcfg.slot.toNat, flags := BitVec.ofNat 8 p.flags }] }

/-- The last unit has moved: the record goes, and the task is changed by `endTask`. -/
theorem Stands.endUnits {s s' s2 : State} {c : CoreId} {e : Engine} {w : BitVec 64} {r : Option Prog} {g : Task → Task}
    (hs : Stands s s' s2 c e w r g) (p : Prog) (u : Nat) :
    Stands s s' (endUnits s2 c e p u) c e w none fun t => endTask p u (g t) :=
  hs.own (fun _ => rfl) (fun x => tabGet_put none (engCode e) x none _) fun x => taskOf_modTask _ e x (endTask p u)

/-- Units are left: the record is replaced. -/
theorem Stands.putRecord {s s' s2 : State} {c : CoreId} {e : Engine} {w : BitVec 64} {r : Option Prog} {g : Task → Task}
    (hs : Stands s s' s2 c e w r g) (p : Prog) :
    Stands s s' (modCore s2 (ckey c) fun x => { x with prog := tabPut none (engCode e) (some p) x.prog }) c e w (some p) g :=
  hs.own (h := id) (fun _ => rfl) (fun x => tabGet_put none (engCode e) x (some p) _) fun x => by
    split
    · next hx => rw [← hx]; rfl
    · rfl

/-- The issue is recorded in the engine's task. -/
theorem Stands.record {s s' s2 : State} {c : CoreId} {e : Engine} {w : BitVec 64} {r : Option Prog} {g : Task → Task}
    (hs : Stands s s' s2 c e w r g) (post : Nat) (d : Done) :
    Stands s s' (modCore s2 (ckey c) fun x => modTask x e (Machine.record post d)) c e w r fun t => Machine.record post d (g t) :=
  hs.own (fun _ => rfl)
    (fun x => by
      show tabGet none (coreAt s2 (ckey c)).prog x = _
      rw [hs.prog]
      by_cases hx : x = engCode e <;> simp [hx, eq_comm])
    fun x => taskOf_modTask _ e x _

section

variable {s s' s2 t : State} {c : CoreId} {e : Engine} {opc : Nat} {w : BitVec 64} {f : Iss → Res} {p : Prog} {g : Task → Task}

/-- What `UnitsBegin` says of an instruction with units left, and of one that has ended. -/
theorem unitsBegin_of_stands {r : Option Prog} {G : Task → Task} (hs : Stands s s' t c e w r G)
    (hr : r = if p.n ≤ p.idx then none else some (begun s c e w p))
    (hG : G (taskOf (coreAt s (ckey c)) e) =
      { g (taskOf (coreAt s (ckey c)) e) with
        pc := nextPc s c e, ready := slotOf s c.fld + (if p.n ≤ p.idx ∧ p.slots = [] then p.step else 1), held := false
        flights := (taskOf (coreAt s (ckey c)) e).flights ++
          if p.n ≤ p.idx then
            [{ done := slotOf s c.fld + p.lat, onAccept := p.kind == 11
               post := BitVec.ofNat 16 (postMask (taskOf (coreAt s (ckey c)) e).masks w.toNat), slot := p.dcfg.slot.toNat
               flags := BitVec.ofNat 8 p.flags }]
          else [] }) :
    UnitsBegin s t s' c e w p g := by
  refine ⟨⟨fun q => ?tok, hs.others, hs.cores⟩, fun x => ?prog, ?task, hs.core, hs.rest⟩
  case tok => rw [hs.tok, tok_takeTokens]
  case prog =>
    rw [hs.prog, hr]
    by_cases hn : p.n ≤ p.idx <;> simp [hn, begun]
  case task =>
    rw [hs.task, hG]
    by_cases hn : p.n ≤ p.idx <;> simp [hn]

/-- What the record of such an issue does to the task. -/
theorem record_unitsDone (post u : Nat) (t : Task) (hrun : t.pace = .run) :
    record post (unitsDone u) t = { t with pc := t.pc + 8, ready := max t.ready (u + 1), held := false } := by
  show { t with pc := (record post (unitsDone u) t).pc, ready := max t.ready (u + 1), held := false, pace := .run } = _
  rw [record_pc _ _ _ rfl, ← hrun]

/-- An instruction with units left, once its issue is recorded. -/
theorem unitsBegin_of_units_left (h : engineFree s c e = true) (hs : Stands s s' s2 c e w (some (begun s c e w p)) g)
    (hg : KeepsIssueState g) (hn : p.idx < p.n) (post : Nat) :
    UnitsBegin s (modCore s2 (ckey c) fun x => modTask x e (record post (unitsDone (slotOf s c.fld)))) s' c e w p g := by
  obtain ⟨hready, hrun⟩ := ready_and_running_of_engineFree h
  obtain ⟨gpc, gready, gpace, gflights⟩ := hg (taskOf (coreAt s (ckey c)) e)
  have hmax : max (taskOf (coreAt s (ckey c)) e).ready (slotOf s c.fld + 1) = slotOf s c.fld + 1 :=
    max_eq_right (le_trans hready (Nat.le_succ _))
  refine unitsBegin_of_stands (hs.record post _) (by rw [if_neg (Nat.not_le.2 hn)]) ?_
  rw [record_unitsDone _ _ _ (gpace.trans hrun), gpc, gready, hmax, if_neg (Nat.not_le.2 hn), if_neg fun hc => Nat.not_le.2 hn hc.1,
    List.append_nil, ← gflights]
  rfl

/-- An instruction that has ended with its first unit, once its issue is recorded. -/
theorem unitsBegin_of_ended {r : Option Prog} (h : engineFree s c e = true) (hs : Stands s s' s2 c e w r g) (hg : KeepsIssueState g)
    (hstep : 1 ≤ p.step) (hn : p.n ≤ p.idx) (post : Nat) :
    UnitsBegin s (modCore (endUnits s2 c e (begun s c e w p) (slotOf s c.fld)) (ckey c) fun x =>
      modTask x e (record post (unitsDone (slotOf s c.fld)))) s' c e w p g := by
  obtain ⟨-, hrun⟩ := ready_and_running_of_engineFree h
  obtain ⟨gpc, gready, gpace, gflights⟩ := hg (taskOf (coreAt s (ckey c)) e)
  have hmax : max (slotOf s c.fld + if p.slots = [] then p.step else 1) (slotOf s c.fld + 1) =
      slotOf s c.fld + if p.n ≤ p.idx ∧ p.slots = [] then p.step else 1 := by
    simp only [hn, true_and]
    split <;> omega
  have hrun' : (endTask (begun s c e w p) (slotOf s c.fld) (g (taskOf (coreAt s (ckey c)) e))).pace = .run := gpace.trans hrun
  refine unitsBegin_of_stands ((hs.endUnits _ _).record post _) (by rw [if_pos hn]) ?_
  rw [record_unitsDone _ _ _ hrun', if_pos hn, ← hmax, ← gflights, nextPc, ← gpc]
  rfl

/-- An instruction that moves one unit a slot, whose first unit is not due, begins (R166, R195, R233). -/
theorem unitsBegin_of_wait (h : MayIssue s c e opc w) (hf : f (issOf s c e w) = startUnits (issOf s c e w) p g) (hg : KeepsIssueState g)
    (hn : p.idx < p.n) (hwait : slotOf s c.fld < unitSlot (begun s c e w p) p.idx) :
    UnitsBegin s (issue s c e opc w f) s c e w p g := by
  have hs := stands_standState s c e w (begun s c e w p) g
  have hrun := runUnits_of_lt (e := e) (by rw [hs.prog, if_pos rfl]) hwait 1
  rw [issue_go h (hf.trans (startUnits_issOf s c e w p g)), hrun]
  exact unitsBegin_of_units_left h.1 hs hg hn _

/-- An instruction that moves one unit a slot, whose first unit moves in the slot of issue, begins: `q` is its record afterwards. -/
theorem unitsBegin_of_moved {p' q : Prog} {r : Option Prog} {g' : Task → Task} (h : MayIssue s c e opc w)
    (hf : f (issOf s c e w) = startUnits (issOf s c e w) p g)
    (hdue : unitSlot (begun s c e w p) p.idx ≤ slotOf s c.fld)
    (hmove : oneUnit (unitNote (standState s c e w (begun s c e w p) g) c (begun s c e w p)) c (begun s c e w p) (slotOf s c.fld) =
      .moved s2 p')
    (hs : Stands s s' s2 c e w r g') (hg : KeepsIssueState g') (hstep : 1 ≤ q.step)
    (hq : { p' with idx := p'.idx + 1, held := false } = begun s c e w q) :
    UnitsBegin s (issue s c e opc w f) s' c e w q g' := by
  have hstand := stands_standState s c e w (begun s c e w p) g
  have hrun := runUnits_one_of_moved (e := e) (by rw [hstand.prog, if_pos rfl]) hdue hmove
  rw [issue_go h (hf.trans (startUnits_issOf s c e w p g)), hrun, hq, afterUnit]
  by_cases hn : q.n ≤ q.idx
  · rw [if_pos (show (begun s c e w q).n ≤ (begun s c e w q).idx from hn)]
    exact unitsBegin_of_ended h.1 hs hg hstep hn _
  · rw [if_neg (show ¬ (begun s c e w q).n ≤ (begun s c e w q).idx from hn)]
    exact unitsBegin_of_units_left h.1 (hs.putRecord _) hg (Nat.lt_of_not_le hn) _

end

/-! ### Memory operands -/

/-- The access of a memory operand is placed as the statement's, and its units start (R160, R189, R233). -/
theorem memUnits_issOf {s : State} {c : CoreId} {e : Engine} {w : BitVec 64} {b bytes units : Nat} {r : Right} {oda n : Nat}
    {slots : List Nat} (h : MemAccess s c e w b bytes units r oda n slots) (p : Prog) :
    memUnits (issOf s c e w) b bytes units r false p =
      startUnits (issOf s c e w) { p with oda := oda, total := bytes, n := n, slots := slots } (memIncr (memOp w.toNat b)) := by
  obtain ⟨hplace, hunits⟩ := h
  have hplace' : dieAccess (issOf s c e w).s (issOf s c e w).c (winOf (taskOf (coreAt s (ckey c)) e) (memOp w.toNat b).win) r
      (memOffset (taskOf (coreAt s (ckey c)) e) (memOp w.toNat b)) bytes = some oda := hplace
  have hunits' : accessUnits (issOf s c e w) oda bytes units = some (n, slots) := hunits
  simp only [memUnits, placeUnits, task_issOf, w_issOf, hplace', hunits', Bool.false_and, Bool.false_eq_true, if_false]

theorem keepsIssueState_memIncr (m : MemOp) : KeepsIssueState (memIncr m) := by
  intro t
  unfold memIncr aregSet
  split
  · split <;> exact ⟨rfl, rfl, rfl, rfl⟩
  · exact ⟨rfl, rfl, rfl, rfl⟩

@[simp] theorem status_memIncr (m : MemOp) (t : Task) : (memIncr m t).status = t.status := by
  unfold memIncr aregSet
  split
  · split <;> rfl
  · rfl

/-- An access whose first unit waits has a unit for each slot of the wheel that it was given (R233). -/
theorem units_pos_of_wait {i : Iss} {oda bytes units n : Nat} {p : Prog} (h : accessUnits i oda bytes units = some (n, p.slots))
    (hwait : p.t < unitSlot p 0) : 0 < n := by
  have hslots : p.slots ≠ [] := fun hnil => by simp [unitSlot, hnil] at hwait
  unfold accessUnits at h
  split at h
  · exact absurd (congrArg Prod.snd (Option.some.inj h)).symm hslots
  · exact absurd h (by simp)
  · next l _ =>
    obtain ⟨rfl, hl⟩ := Prod.mk.inj (Option.some.inj h)
    rw [hl]
    exact List.length_pos_iff.2 hslots

/-! ### Status slots -/

theorem engineOf_engCode (e : Engine) : engineOf (engCode e) = e := by cases e <;> rfl

/-- The clear that DFLG and SFLG make where CLR is 1 (R193). -/
def clears (clr : Bool) (slot : Nat) (t : Task) : Task := if clr then slotClear t slot else t

theorem keepsIssueState_clears (clr : Bool) (slot : Nat) : KeepsIssueState (clears clr slot) := by
  cases clr <;> exact fun _ => ⟨rfl, rfl, rfl, rfl⟩

/-- The increment of an address register and the clear of a status slot do not meet. -/
theorem clears_memIncr (clr : Bool) (slot : Nat) (m : MemOp) (t : Task) : clears clr slot (memIncr m t) = memIncr m (clears clr slot t) := by
  unfold clears memIncr aregSet
  cases clr <;> cases m.inc <;> by_cases h : m.areg = 0 <;> simp [h, slotClear, aregGet]

/-- The state after a unit of DFLG or SFLG: the slot cleared where CLR is 1, and 8 bytes on their way to memory (R193, R208, R209). -/
def slotStored (x : State) (c : CoreId) (src : Engine) (clr : Bool) (slot oda u v : Nat) : State :=
  countAct (putDie (if clr then modCore x (ckey c) fun y => modTask y src (slotClear · slot) else x) c
    { due := u, oda := oda, n := 8, v := v }) c.fld actSram 1

/-- A unit of DFLG or SFLG reads no on-die memory (R208, R209, R242). -/
theorem oneUnit_of_statusSlot (s : State) (c : CoreId) {p : Prog} (u : Nat) (hrq : p.rq = false) (hkind : p.kind = 12) :
    oneUnit (unitNote s c p) c p u = flagUnit s c p u := by
  have hnote : unitNote s c p = s := by simp [unitNote, unitReads, hrq, hkind]
  simp [oneUnit, hnote, hrq, hkind]

theorem flagUnit_eq {s : State} {c : CoreId} {p : Prog} {src : Engine} {clr : Bool} {v : Nat} (u : Nat) (hfirst : p.first = engCode src)
    (hclr : (if src = .vec then bitOf p.w.toNat 43 else bitOf p.w.toNat 44) = clr)
    (hv : slotGet (taskOf (coreAt s (ckey c)) src) p.item = v) :
    flagUnit s c p u = .moved (slotStored s c src clr p.item p.oda u v) p := by
  have hvec : engCode src = engCode .vec ↔ src = .vec := by cases src <;> decide
  rw [flagUnit, hfirst, engineOf_engCode]
  simp only [hvec, hclr, hv]
  rfl

theorem stands_slotStored {s s2 : State} {c : CoreId} {e : Engine} {w : BitVec 64} {r : Option Prog} {g : Task → Task}
    (hs : Stands s s s2 c e w r g) (src : Engine) (clr : Bool) (slot oda u v : Nat) :
    Stands s
      (countAct (putDie (modCore s (ckey c) fun x => modTask x src (clears clr slot)) c { due := u, oda := oda, n := 8, v := v })
        c.fld actSram 1)
      (slotStored s2 c src clr slot oda u v) c e w r fun t => if src = e then clears clr slot (g t) else g t := by
  refine Stands.changeField (Stands.changeField ?_ _ _) _ _
  cases clr with
  | false => exact (hs.keepTask src).congr (by simp [clears])
  | true => exact hs.changeTask src (slotClear · slot)

/-- The record of DFLG and SFLG: slot `slot` of engine `src`, stored in `n` blocks from ODA `oda`. -/
def slotProg (s : State) (c : CoreId) (w : BitVec 64) (src : Engine) (slot oda n : Nat) (slots : List Nat) : Prog :=
  { kind := 12, w := w, total := 8, n := n, t := slotOf s c.fld, first := engCode src, item := slot, lat := 3, oda := oda, slots := slots }

/-- What DFLG and SFLG do to their own task: the increment, and the clear where the slot is its own. -/
def slotTask (w : BitVec 64) (e src : Engine) (clr : Bool) (slot : Nat) (t : Task) : Task :=
  memIncr (memOp w.toNat 19) (if src = e then clears clr slot t else t)

theorem keepsIssueState_slotTask (w : BitVec 64) (e src : Engine) (clr : Bool) (slot : Nat) :
    KeepsIssueState (slotTask w e src clr slot) := by
  intro t
  obtain ⟨mpc, mready, mpace, mflights⟩ := keepsIssueState_memIncr (memOp w.toNat 19) (if src = e then clears clr slot t else t)
  obtain ⟨cpc, cready, cpace, cflights⟩ := keepsIssueState_clears clr slot t
  unfold slotTask
  rw [mpc, mready, mpace, mflights]
  split
  · exact ⟨cpc, cready, cpace, cflights⟩
  · exact ⟨rfl, rfl, rfl, rfl⟩

section

variable {s : State} {c : CoreId} {e src : Engine} {opc : Nat} {w : BitVec 64} {f : Iss → Res} {clr : Bool} {slot oda n : Nat}
  {slots : List Nat}

theorem storeSlot_issOf (hacc : MemAccess s c e w 19 8 1 .wr oda n slots) :
    storeSlot (issOf s c e w) src slot =
      startUnits (issOf s c e w) (slotProg s c w src slot oda n slots) (memIncr (memOp w.toNat 19)) := memUnits_issOf hacc _

/-- DFLG and SFLG whose block is due store their status slot (R193, R208, R209). -/
theorem storeSlot_moves (h : MayIssue s c e opc w) (hf : f (issOf s c e w) = storeSlot (issOf s c e w) src slot)
    (hclr : (if src = .vec then bitOf w.toNat 43 else bitOf w.toNat 44) = clr) (hacc : MemAccess s c e w 19 8 1 .wr oda n slots)
    (hdue : unitSlot (slotProg s c w src slot oda n slots) 0 ≤ slotOf s c.fld) :
    UnitsBegin s (issue s c e opc w f)
      (countAct (putDie (modCore s (ckey c) fun x => modTask x src (clears clr slot)) c
        { due := slotOf s c.fld, oda := oda, n := 8, v := slotGet (taskOf (coreAt s (ckey c)) src) slot }) c.fld actSram 1)
      c e w { slotProg s c w src slot oda n slots with idx := 1 } (slotTask w e src clr slot) := by
  have hs := stands_standState s c e w (begun s c e w (slotProg s c w src slot oda n slots)) (memIncr (memOp w.toNat 19))
  have hval : slotGet (taskOf (coreAt (standState s c e w (begun s c e w (slotProg s c w src slot oda n slots))
      (memIncr (memOp w.toNat 19))) (ckey c)) src) slot = slotGet (taskOf (coreAt s (ckey c)) src) slot := by
    rw [taskOf_standState]
    split
    · next he => rw [← he, slotGet, status_memIncr, ← slotGet]
    · rfl
  have htask : ∀ t, (if src = e then clears clr slot (memIncr (memOp w.toNat 19) t) else memIncr (memOp w.toNat 19) t) =
      slotTask w e src clr slot t := by
    intro t
    unfold slotTask
    split
    · exact clears_memIncr _ _ _ _
    · rfl
  exact unitsBegin_of_moved h (hf.trans (storeSlot_issOf hacc)) hdue
    ((oneUnit_of_statusSlot _ c (slotOf s c.fld) rfl rfl).trans (flagUnit_eq (slotOf s c.fld) rfl hclr hval))
    ((stands_slotStored hs src clr slot oda _ _).congr (htask _)) (keepsIssueState_slotTask w e src clr slot) le_rfl rfl

/-- DFLG and SFLG whose block is not due wait for the wheel (R233). -/
theorem storeSlot_waits (h : MayIssue s c e opc w) (hf : f (issOf s c e w) = storeSlot (issOf s c e w) src slot)
    (hacc : MemAccess s c e w 19 8 1 .wr oda n slots) (hwait : slotOf s c.fld < unitSlot (slotProg s c w src slot oda n slots) 0) :
    UnitsBegin s (issue s c e opc w f) s c e w (slotProg s c w src slot oda n slots) (memIncr (memOp w.toNat 19)) :=
  unitsBegin_of_wait h (hf.trans (storeSlot_issOf hacc)) (keepsIssueState_memIncr _)
    (units_pos_of_wait (p := slotProg s c w src slot oda n slots) hacc.2 hwait) hwait

end

/-- Each of the two stores its status slot (R193, R208, R209). -/
theorem statusSlotStoresComplete : StatusSlotStoresComplete := by
  rintro s c w e src i clr oda n slots k u m slot clear (⟨rfl, rfl, h, hsrc, rfl⟩ | ⟨rfl, rfl, h, rfl, rfl⟩) hacc p
  case inl =>
    have hvec : src ≠ .vec := by rw [hsrc]; split <;> decide
    have hf : effDflg (issOf s c .drain w) = storeSlot (issOf s c .drain w) src slot := by
      rw [hsrc, ← bitOf_toNat]
      rfl
    exact ⟨_, rfl, storeSlot_moves h hf (by rw [if_neg hvec, bitOf_toNat]) hacc, storeSlot_waits h hf hacc⟩
  case inr => exact ⟨_, rfl, storeSlot_moves h rfl (by rw [if_pos rfl, bitOf_toNat]) hacc, storeSlot_waits h rfl hacc⟩

/-- Settles O8: MCFG, DCFG and GEN are of the task form, and DFLG and SFLG begin with their one block. -/
theorem modesGeneratorsAndStatusSlotsComplete : Obligations.ModesGeneratorsAndStatusSlotsComplete :=
  ⟨modeAndGeneratorInstructionsComplete, statusSlotStoresComplete⟩

end Sys2Proof.Proofs.Engines
end

section
/-! SUPPORT. Proofs about the sums of VEC (05, R98, R134, R143, R215, R216): the exact sums of W128 quads, and the sums in lane order. -/

namespace Sys2Proof.Proofs.Sums

open Sys2Proof.Machine Sys2Proof.Laws Sys2Proof.Proofs.Vector Sys2Proof.Proofs.Engines

/-! ## Quads -/

/-- A field of a field. -/
theorem bitsOf_bitsOf (x lo len lo' len' : Nat) (h : lo' + len' ≤ len) :
    bitsOf (bitsOf x lo len) lo' len' = bitsOf x (lo + lo') len' := by
  apply Nat.eq_of_testBit_eq
  intro i
  simp only [bitsOf, Nat.testBit_mod_two_pow, Nat.testBit_div_two_pow]
  by_cases hi : i < len'
  · simp [hi, show i + lo' < len by omega, show i + lo' + lo = i + (lo + lo') by omega]
  · simp [hi]

/-- Lane `j` of register `r` of a quad is lane 16r + j of the whole. -/
theorem laneOf_quad (x r : Nat) {j : Nat} (h : j < 16) : laneOf 128 (bitsOf x (2048 * r) 2048) j = laneOf 128 x (16 * r + j) := by
  rw [laneOf, laneOf, bitsOf_bitsOf _ _ _ _ _ (by omega)]
  congr 1
  omega

theorem quadWrite_ld (q : Nat) (l : List Int) : ∀ x ∈ quadWrite q l, x.ld = false := by
  simp [quadWrite]

/-- The four writes of a quad hold its values (R134). -/
theorem writesQuad_quadWrite (due q : Nat) (val : Nat → Int) :
    WritesQuad (landAt due (quadWrite q ((List.range 64).map val))) q val := by
  let x := packLanes 128 ((List.range 64).map fun k => wrapInt (val k) 128)
  refine ⟨by simp [landAt, quadWrite], fun r hr =>
    ⟨{ due := due, reg := 4 * q + r, v := bitsOf x (2048 * r) 2048, br := 0 }, ?get, rfl, rfl, rfl, rfl, rfl, fun j hj => ?lane⟩⟩
  case get => simp [landAt, quadWrite, hr, x, Function.comp_def]
  case lane =>
    rw [laneOf_quad _ _ hj, laneOf_packLanes_range _ _ _ (by omega)]

@[simp] theorem vregForward_takeTokens (core : Core) (m r : Nat) : vregForward (takeTokens core m) r = vregForward core r := by
  have key : ∀ (l : List VWrite) (a b : Core), a.vreg = b.vreg → (l.foldl landWrite a).vreg = (l.foldl landWrite b).vreg := by
    intro l
    induction l with
    | nil => exact fun _ _ h => h
    | cons x l ih =>
      intro a b h
      exact ih _ _ (by simp only [landWrite, vregOf, h])
  unfold vregForward vregOf
  rw [key _ (takeTokens core m) core rfl]
  rfl

/-- The sum of 64 values onto the running sum of a quad, lane by lane (R143). -/
theorem accSum_issOf (s : State) (c : CoreId) (w : BitVec 64) (q : Nat) (x : Nat → Int) :
    accSum (issOf s c .vec w) q ((List.range 64).map x) =
      (List.range 64).map fun j => addWindow 128 (quadVal (vregForward (coreAt s (ckey c))) q j) (x j) := by
  have hread : vregForward (issOf s c .vec w).core = vregForward (coreAt s (ckey c)) := by
    funext r
    rw [core_issOf, vregForward_takeTokens]
  rw [accSum, zipIdx_map_range, List.map_map, hread]
  rfl

theorem wideSrc_reg (w : Nat) : (wideSrc w).reg = fVR w := by unfold wideSrc; split <;> rfl

theorem wideVals_issOf (s : State) (c : CoreId) (w : BitVec 64) :
    wideVals (issOf s c .vec w) =
      (List.range 64).map fun j => toW128 (fANCH w.toNat) (wideElem (coreAt s (ckey c)) w.toNat j) := by
  rw [wideVals, core_issOf, vregOf_takeTokens]
  show (List.range 64).map (fun j => toW128 _ (decodeNum _ (bitsOf (vregOf _ (wideSrc w.toNat).reg) _ _))) = _
  rw [wideSrc_reg]
  rfl

/-- The wait for the destination quad (R143). -/
theorem accWait_issOf (s : State) (c : CoreId) (w : BitVec 64) (q : Nat) :
    accWait (issOf s c .vec w) q = if tabGet false (coreAt s (ckey c)).vfwd q then [] else quadSrcs q := by
  rw [accWait, core_issOf]
  rfl

/-- A VEC instruction of four slots that writes a quad (R134, R140). -/
theorem vecGo_writes_quad {s : State} {c : CoreId} {opc : Nat} {w : BitVec 64} {f : Iss → Res} {wait read : List VSrc}
    {lat q fl slot : Nat} {fwd : Option Nat} {val : Nat → Int} (h : MayIssue s c .vec opc w)
    (hf : f (issOf s c .vec w) =
      vecGo (issOf s c .vec w) wait read true 4 lat (quadWrite q ((List.range 64).map val)) fl slot 64 fwd)
    (hready : SourcesReady s c wait) (hbr : srcBruised (coreAt s (ckey c)) read = false) :
    ∃ ws, VecIssues s (issue s c .vec opc w f) c w 4 lat ws slot fl 64 fwd ∧ WritesQuad ws q val :=
  ⟨_, vecIssues_of_vecGo h hf hready (fun _ => hbr) (quadWrite_ld _ _) keepsIssueState_id, writesQuad_quadWrite _ _ _⟩

/-! ## Exact sums that accumulate -/

/-- WCVT, WACC and WADD each write their sums in a quad (R143, R215). -/
theorem exactSumsAccumulate : ExactSumsAccumulate := by
  intro s c w core n q conv wait acc flags
  have hvals : wideVals (issOf s c .vec w) = (List.range 64).map conv := wideVals_issOf s c w
  have hwait : ∀ l, l ++ accWait (issOf s c .vec w) q = wait l := by
    intro l
    rw [accWait_issOf]
    show _ = if tabGet false core.vfwd q then l else l ++ quadSrcs q
    split
    · rw [List.append_nil]
    · rfl
  refine ⟨fun h hready hbr => ?wcvt, fun h hready hbr => ?wacc, fun h hready hbr => ?wadd⟩
  case wcvt =>
    have hf : effWcvt (issOf s c .vec w) = vecGo (issOf s c .vec w) [wideSrc n] [wideSrc n] true 4 8
        (quadWrite q ((List.range 64).map fun j => (conv j).1)) (flags fun j => (conv j).2) (fWSLOT n) 64 (some q) := by
      rw [effWcvt, hvals, List.map_map, List.map_map]
      rfl
    exact ⟨_, (vecGo_writes_quad h hf hready hbr).imp fun _ hw => ⟨rfl, hw⟩⟩
  case wacc =>
    have hf : effWacc (issOf s c .vec w) = vecGo (issOf s c .vec w) (wait [wideSrc n]) (wideSrc n :: quadSrcs q) true 4 8
        (quadWrite q ((List.range 64).map fun j => (acc (fun i => (conv i).1) j).1))
        (flags (fun j => (conv j).2) ||| flags fun j => (acc (fun i => (conv i).1) j).2) (fWSLOT n) 64 (some q) := by
      rw [effWacc, hvals, ← hwait, List.map_map, List.map_map, accSum_issOf, List.map_map, List.map_map]
      rfl
    exact ⟨_, (vecGo_writes_quad h hf hready hbr).imp fun _ hw => ⟨rfl, hw⟩⟩
  case wadd =>
    have hf : effWadd (issOf s c .vec w) =
        vecGo (issOf s c .vec w) (wait (quadSrcs (fQ2 n))) (quadSrcs (fQ2 n) ++ quadSrcs q) true 4 8
          (quadWrite q ((List.range 64).map fun j => (acc (quadVal (vregOf core) (fQ2 n)) j).1))
          (flags fun j => (acc (quadVal (vregOf core) (fQ2 n)) j).2) (fWSLOT n) 64 (some q) := by
      rw [effWadd, accSum_issOf, ← hwait, List.map_map, List.map_map, core_issOf]
      rfl
    exact ⟨_, (vecGo_writes_quad h hf hready hbr).imp fun _ hw => ⟨rfl, hw⟩⟩

/-! ## Exact sums reduced and converted -/

/-- The exact sum of `n` values that a function of their index gives (R143). -/
theorem quadSum_map_range (n : Nat) (val : Nat → Int) :
    quadSum ((List.range n).map val) =
      if ((List.range n).any fun j => val j = nar 128) then (nar 128, flNR) else satWindow 128 (((List.range n).map val).sum) := by
  rw [quadSum, List.any_map, ← List.sum_eq_foldl]
  rfl

/-- A quad that holds its sum in element 0 alone. -/
theorem cons_replicate_zero (z : Int) (n : Nat) :
    z :: List.replicate n 0 = (List.range (n + 1)).map fun j => if j = 0 then z else 0 := by
  rw [List.range_succ_eq_map, List.map_cons, List.map_map]
  simp [Function.comp_def]

/-- WRSUM, WOUT and WRANC each write what they make of the quad (R98, R143, R215). -/
theorem exactSumsReduceAndConvert : ExactSumsReduceAndConvert := by
  intro s c w core n val src pol sum rm out moved flags hready hbr
  have hread : vregOf (issOf s c .vec w).core = vregOf core := by
    rw [core_issOf]
    rfl
  refine ⟨fun h => ?wrsum, fun h => ?wout, fun h => ?wranc⟩
  case wrsum =>
    have hf : effWrsum (issOf s c .vec w) = vecGo (issOf s c .vec w) src src true 4 16
        (quadWrite (fQ1 n) ((List.range 64).map fun j => if j = 0 then sum.1 else 0)) sum.2 (fWSLOT n) 64 := by
      rw [effWrsum, hread, quadSum_map_range, ← cons_replicate_zero]
      rfl
    exact ⟨_, (vecGo_writes_quad h hf hready hbr).imp fun _ hw => ⟨rfl, hw⟩⟩
  case wout =>
    have hf : effWout (issOf s c .vec w) = vecGo (issOf s c .vec w) src src true 4 8
        [{ due := 0, reg := (wideSrc n).reg, lo := (wideSrc n).lo, len := (wideSrc n).len, br := 0
           v := packLanes (fmtBits (fFMT n)) ((List.range 64).map fun j => (out j).1), brSel := granMask (wideSrc n).lo (wideSrc n).len }]
        (flags fun j => (out j).2) (fWSLOT n) 64 := by
      rw [effWout, task_issOf, hread, w_issOf, bitOf_toNat, bitOf_toNat, List.map_map, List.map_map]
      rfl
    exact ⟨_, _, rfl, vecIssues_of_vecGo h hf hready (fun _ => hbr) (by simp) keepsIssueState_id, wideSrc_reg n, rfl, rfl, rfl, rfl,
      fun j hj => laneOf_packLanes_range _ _ _ hj⟩
  case wranc =>
    have hf : effWranc (issOf s c .vec w) = vecGo (issOf s c .vec w) src src true 4 8
        (quadWrite (fQ1 n) ((List.range 64).map fun j => (moved j).1)) (flags fun j => (moved j).2) (fWSLOT n) 64 := by
      rw [effWranc, hread, List.map_map, List.map_map]
      rfl
    exact ⟨_, (vecGo_writes_quad h hf hready hbr).imp fun _ hw => ⟨rfl, hw⟩⟩

/-! ## Sums in lane order -/

/-- The sum in lane order of lane 0 and the `j` lanes after it, with its flags (R216). -/
def orderedSum (a : Nat → Nat) (j : Nat) : Nat × Nat := (List.range j).foldl (fun acc i => rnAdd acc (a (i + 1))) (a 0, 0)

theorem orderedSum_succ (a : Nat → Nat) (j : Nat) : orderedSum a (j + 1) = rnAdd (orderedSum a j) (a (j + 1)) := by
  rw [orderedSum, List.range_succ, List.foldl_append]
  rfl

theorem runSums_map_range (n : Nat) (acc : Nat × Nat) (x : Nat → Nat) :
    runSums acc ((List.range n).map x) =
      (List.range n).map fun j => (List.range (j + 1)).foldl (fun s i => rnAdd s (x i)) acc := by
  induction n generalizing acc x with
  | zero => rfl
  | succ n ih =>
    rw [List.range_succ_eq_map, List.map_cons, List.map_cons, List.map_map, List.map_map, runSums, ih]
    congr 1
    apply List.map_congr_left
    intro j _
    rw [Function.comp_apply, List.range_succ_eq_map (n := j + 1), List.foldl_cons, List.foldl_map]
    rfl

/-- Flags that only rise are those of the last of their number. -/
theorem orFlags_rising (n : Nat) (f y : Nat → Nat) (h : ∀ j, f (j + 1) = f j ||| y j) : orFlags ((List.range (n + 1)).map f) = f n := by
  induction n with
  | zero => exact Nat.zero_or (f 0)
  | succ n ih =>
    have hlast : orFlags ((List.range (n + 1 + 1)).map f) = orFlags ((List.range (n + 1)).map f) ||| f (n + 1) := by
      rw [List.range_succ, List.map_append, orFlags, List.foldl_append]
      rfl
    rw [hlast, ih, h, ← Nat.or_assoc, Nat.or_self]

theorem lanes32_cons (core : Core) (r : Nat) :
    lanes32 core r = laneOf 32 (vregOf core r) 0 :: (List.range 63).map fun j => laneOf 32 (vregOf core r) (j + 1) := by
  rw [lanes32, List.range_succ_eq_map, List.map_cons, List.map_map]
  rfl

/-- The flags of a sum in lane order hold those of every sum before it. -/
theorem orFlags_orderedSum (a : Nat → Nat) (n : Nat) :
    orFlags ((List.range (n + 1)).map fun j => (orderedSum a j).2) = (orderedSum a n).2 :=
  orFlags_rising n (fun j => (orderedSum a j).2) (fun j => (arith2 0 addNum (orderedSum a j).1 (a (j + 1)) 0).2) fun j => by
    rw [orderedSum_succ]
    rfl

/-- The fused sum of the products of lanes 0 to `j`, with its flags (R216). -/
def orderedDot (a b : Nat → Nat) (j : Nat) : Nat × Nat :=
  (List.range j).foldl
    (fun (acc : Nat × Nat) i => ((fmaNum 0 (a (i + 1)) (b (i + 1)) acc.1).1, acc.2 ||| (fmaNum 0 (a (i + 1)) (b (i + 1)) acc.1).2))
    (arith 13 (mulNum (decodeNum 13 (a 0)) (decodeNum 13 (b 0))))

/-- Lane `j` of register `r` of the core in FP32. -/
def lane32 (s : State) (c : CoreId) (r j : Nat) : Nat := laneOf 32 (vregOf (coreAt s (ckey c)) r) j

theorem lanes32_issOf (s : State) (c : CoreId) (w : BitVec 64) (r : Nat) :
    lanes32 (issOf s c .vec w).core r = lane32 s c r 0 :: (List.range 63).map fun j => lane32 s c r (j + 1) := by
  rw [core_issOf, lanes32_cons, vregOf_takeTokens]
  rfl

theorem effFrsum_issOf (s : State) (c : CoreId) (w : BitVec 64) :
    effFrsum (issOf s c .vec w) =
      vecGo (issOf s c .vec w) [{ reg := fVA w.toNat }] [{ reg := fVA w.toNat }] true 1 12
        [{ due := 0, reg := fVD w.toNat, v := (orderedSum (lane32 s c (fVA w.toNat)) 63).1, br := 0 }]
        (orderedSum (lane32 s c (fVA w.toNat)) 63).2 (fSLOT w.toNat) 64 := by
  rw [effFrsum, lanes32_issOf, List.tail_cons, List.headD_cons, List.foldl_map]
  rfl

theorem effFscan_issOf (s : State) (c : CoreId) (w : BitVec 64) :
    effFscan (issOf s c .vec w) =
      vecGo (issOf s c .vec w) [{ reg := fVA w.toNat }] [{ reg := fVA w.toNat }] true 1 12
        [{ due := 0, reg := fVD w.toNat, br := 0
           v := packLanes 32 ((List.range 64).map fun j => (orderedSum (lane32 s c (fVA w.toNat)) j).1) }]
        (orderedSum (lane32 s c (fVA w.toNat)) 63).2 (fSLOT w.toNat) 64 := by
  have hsums : (lane32 s c (fVA w.toNat) 0, 0) ::
      runSums (lane32 s c (fVA w.toNat) 0, 0) ((List.range 63).map fun j => lane32 s c (fVA w.toNat) (j + 1)) =
      (List.range 64).map (orderedSum (lane32 s c (fVA w.toNat))) := by
    rw [runSums_map_range, List.range_succ_eq_map (n := 63), List.map_cons, List.map_map]
    rfl
  rw [← orFlags_orderedSum, effFscan, lanes32_issOf, List.tail_cons, List.headD_cons, w_issOf, hsums, laneWrite, List.map_map, List.map_map]
  rfl

theorem effFdot_issOf (s : State) (c : CoreId) (w : BitVec 64) :
    effFdot (issOf s c .vec w) =
      vecGo (issOf s c .vec w) [{ reg := fVA w.toNat }, { reg := fVB w.toNat }] [{ reg := fVA w.toNat }, { reg := fVB w.toNat }] true 1 12
        [{ due := 0, reg := fVD w.toNat, v := (orderedDot (lane32 s c (fVA w.toNat)) (lane32 s c (fVB w.toNat)) 63).1, br := 0 }]
        (orderedDot (lane32 s c (fVA w.toNat)) (lane32 s c (fVB w.toNat)) 63).2 (fSLOT w.toNat) 64 := by
  rw [effFdot, lanes32_issOf, lanes32_issOf, List.zip_cons_cons, List.zip_map']
  dsimp only
  rw [List.foldl_map]
  rfl

/-- A VEC instruction of one slot that sums the 64 lanes of its sources into one register (R140, R216). -/
theorem vecGo_writes_sum {s : State} {c : CoreId} {opc : Nat} {w : BitVec 64} {f : Iss → Res} {src : List VSrc} {reg v fl slot : Nat}
    (h : MayIssue s c .vec opc w)
    (hf : f (issOf s c .vec w) = vecGo (issOf s c .vec w) src src true 1 12 [{ due := 0, reg := reg, v := v, br := 0 }] fl slot 64)
    (hready : SourcesReady s c src) (hbr : srcBruised (coreAt s (ckey c)) src = false) :
    ∃ x, VecIssues s (issue s c .vec opc w f) c w 1 12 [x] slot fl 64 ∧ WritesAll x reg v :=
  ⟨{ due := slotOf s c.fld + 1 - 1 + 12, reg := reg, v := v, br := 0 },
    vecIssues_of_vecGo h hf hready (fun _ => hbr) (by simp) keepsIssueState_id, rfl, rfl, rfl, rfl, rfl, rfl⟩

/-- A register written whole, read lane by lane. -/
theorem writes_of_writesAll {x : VWrite} {reg ew n : Nat} {val : Nat → Nat}
    (h : WritesAll x reg (packLanes ew ((List.range n).map val))) : Writes x reg 0 2048 ew n 0 15 val := by
  obtain ⟨hreg, hlo, hlen, hbr, hsel, hv⟩ := h
  exact ⟨hreg, hlo, hlen, hbr, hsel, fun j hj => by rw [hv, laneOf_packLanes_range _ _ _ hj]⟩

/-- FRSUM, FSCAN and FDOT each write their sums in lane order (R216). -/
theorem orderedSumsComplete : OrderedSumsComplete := by
  intro s c w core n a b sum dot hready hbr
  have hsum : ∀ j, sum j = orderedSum (lane32 s c (fVA n)) j := fun _ => rfl
  have hdot : dot = orderedDot (lane32 s c (fVA n)) (lane32 s c (fVB n)) 63 := rfl
  simp only [hsum, hdot]
  refine ⟨fun h => ?frsum, fun h => ?fscan, fun h hready' hbr' => ?fdot⟩
  case frsum => exact ⟨_, (vecGo_writes_sum h (effFrsum_issOf s c w) hready hbr).imp fun _ hx => ⟨rfl, hx⟩⟩
  case fscan =>
    exact ⟨_, (vecGo_writes_sum h (effFscan_issOf s c w) hready hbr).imp fun _ hx => ⟨rfl, hx.1, writes_of_writesAll hx.2⟩⟩
  case fdot =>
    have hboth : SourcesReady s c [{ reg := fVA n }, { reg := fVB n }] := by
      intro x hx
      rcases List.mem_cons.1 hx with rfl | hx
      · exact hready _ List.mem_cons_self
      · exact hready' x hx
    have hclean : srcBruised (coreAt s (ckey c)) [{ reg := fVA n }, { reg := fVB n }] = false := by
      have hsplit : srcBruised (coreAt s (ckey c)) [{ reg := fVA n }, { reg := fVB n }] =
          (srcBruised core [{ reg := fVA n }] || srcBruised core [{ reg := fVB n }]) := List.any_append (xs := [_])
      rw [hsplit, hbr, hbr']
      rfl
    exact ⟨_, (vecGo_writes_sum h (effFdot_issOf s c w) hboth hclean).imp fun _ hx => ⟨rfl, hx⟩⟩

/-- Settles O21: the exact sums that accumulate, those that reduce and convert, and the sums in lane order. -/
theorem exactAndOrderedSumsComplete : Obligations.ExactAndOrderedSumsComplete :=
  ⟨exactSumsAccumulate, exactSumsReduceAndConvert, orderedSumsComplete⟩

end Sys2Proof.Proofs.Sums
end

section
/-! SUPPORT. Proofs about the links of the Bupol ports (16 R422 to R430): frames received and sent, what makes a port retrain, and its
training. -/

namespace Sys2Proof.Proofs.Links

open Sys2Proof.Machine Sys2Proof.Laws

/-! ## Folds, ports and events -/

/-- What no step of a fold changes, the fold does not change. -/
theorem foldl_keeps {α β : Type} (view : State → α) {f : State → β → State} (hf : ∀ s b, view (f s b) = view s) (l : List β) (s : State) :
    view (l.foldl f s) = view s := by
  induction l generalizing s with
  | nil => rfl
  | cons b l ih => rw [List.foldl_cons, ih, hf]

@[simp] theorem portOf_modPort_same (s : State) (p : Nat) (g : Port → Port) : portOf (modPort s p g) p = g (portOf s p) := by
  rw [portOf_modPort, if_pos rfl]

theorem portOf_modPort_other (s : State) {p k : Nat} (g : Port → Port) (h : k ≠ p) : portOf (modPort s p g) k = portOf s k := by
  rw [portOf_modPort, if_neg h.symm]

@[simp] theorem portOf_raiseDie (s : State) (die code asid addr detail k : Nat) : portOf (raiseDie s die code asid addr detail) k = portOf s k := rfl

/-- An event that enters a buffer is in it, by itself or merged with one of the same code from the same unit (R371). -/
theorem exists_mem_mergeEvent (m : ErrMsg) (l : List ErrMsg) : ∃ e ∈ mergeEvent m l, e.code = m.code ∧ e.src = m.src := by
  induction l with
  | nil => exact ⟨m, List.mem_singleton_self m, rfl, rfl⟩
  | cons e l ih =>
    unfold mergeEvent
    split
    · next h =>
      simp only [sameReport, Bool.and_eq_true, beq_iff_eq] at h
      obtain ⟨⟨⟨⟨hcode, hsrc⟩, -⟩, -⟩, -⟩ := h
      exact ⟨_, List.mem_cons_self, hcode, hsrc⟩
    · obtain ⟨x, hx, hcode⟩ := ih
      exact ⟨x, List.mem_cons_of_mem e hx, hcode⟩

theorem exists_event_raiseDie (s : State) (die code asid addr detail : Nat) :
    ∃ e ∈ (raiseDie s die code asid addr detail).stem.events, e.code = BitVec.ofNat 16 code ∧ e.src = dieAddr die :=
  exists_mem_mergeEvent _ _

/-! ## Frames received -/

/-- `t` differs from `s` in port `p`, the other state of the Bupol interface and the stem at most. -/
structure OnPort (s t : State) (p : Nat) : Prop where
  other : ∀ k, k ≠ p → portOf t k = portOf s k
  rest : t = { s with bup := t.bup, stem := t.stem }

theorem OnPort.modPort {s t : State} {p : Nat} (h : OnPort s t p) (g : Port → Port) : OnPort s (modPort t p g) p where
  other k hk := by rw [portOf_modPort_other _ _ hk, h.other k hk]
  rest := by rw [h.rest]; rfl

theorem onPort_refl (s : State) (p : Nat) : OnPort s s p := ⟨fun _ _ => rfl, rfl⟩

/-- What a good frame acknowledges is dropped (R425). -/
def ackFrames (fr : Frame) (x : Port) : Port :=
  let rest := if x.unacked.any fun e => e.1 == frameAck fr then ((x.unacked.dropWhile fun e => e.1 != frameAck fr).drop 1) else x.unacked
  { x with unacked := rest, resend := if frameNak fr then rest.length else min x.resend rest.length }

/-- A frame is discarded, and NAK asks for the one expected (R425). -/
def discardFrame (x : Port) : Port := { x with nak := true, skipping := true }

/-- An in-order DATA frame is accepted (R424, R425). -/
def acceptFrame (fr : Frame) (x : Port) : Port :=
  { ackFrames fr x with rxSeq := frameSeq fr, skipping := false, rxCarry := (frameDsts fr x.rxCarry).2 }

/-- The messages of a frame that are for another endpoint (R432). -/
def lostOf (s : State) (p : Nat) (fr : Frame) : Nat :=
  ((frameDsts fr (portOf s p).rxCarry).1.filter fun d => !s.bup.epSet || d != s.bup.epId).length

/-- `n` messages for another endpoint are dropped and counted (R432). -/
def countLost (s : State) (p n : Nat) : State :=
  if n = 0 then s else raiseDie { s with bup := { s.bup with misrouted := satAdd 32 s.bup.misrouted n } } (41 + p / 4) 0x00D3 0 0 0

theorem portOf_countLost (s : State) (p n k : Nat) : portOf (countLost s p n) k = portOf s k := by
  unfold countLost
  split <;> rfl

theorem OnPort.countLost {s t : State} {p : Nat} (h : OnPort s t p) (n : Nat) : OnPort s (countLost t p n) p where
  other k hk := by rw [portOf_countLost, h.other k hk]
  rest := by
    unfold Links.countLost
    split
    · exact h.rest
    · rw [h.rest]; rfl

section

variable {s : State} {p : Nat} {fr : Frame}

theorem takeFrameAck_eq (s : State) (p : Nat) (fr : Frame) : takeFrameAck s p fr = modPort s p (ackFrames fr) := rfl

theorem linkFrame_of_bad (hup : (portOf s p).up = true) (hbad : frameGood fr = false) : linkFrame s p fr = modPort s p discardFrame := by
  simp only [linkFrame, hup, hbad, Bool.not_true, Bool.not_false, Bool.false_eq_true, if_false, if_true]
  rfl

theorem linkFrame_of_idle (hup : (portOf s p).up = true) (hgood : frameGood fr = true) (hidle : frameIdle fr = true) :
    linkFrame s p fr = modPort s p (ackFrames fr) := by
  simp only [linkFrame, hup, hgood, hidle, Bool.not_true, Bool.false_eq_true, if_false, if_true, takeFrameAck_eq]

theorem linkFrame_of_outOfOrder (hup : (portOf s p).up = true) (hgood : frameGood fr = true) (hidle : frameIdle fr = false)
    (hseq : frameSeq fr ≠ (portOf s p).rxSeq + 1) : linkFrame s p fr = modPort (modPort s p (ackFrames fr)) p discardFrame := by
  have hseq' : frameSeq fr ≠ (ackFrames fr (portOf s p)).rxSeq + 1 := hseq
  simp only [linkFrame, hup, hgood, hidle, Bool.not_true, Bool.false_eq_true, if_false, takeFrameAck_eq, portOf_modPort_same, if_pos hseq']
  rfl

theorem linkFrame_of_inOrder (hup : (portOf s p).up = true) (hgood : frameGood fr = true) (hidle : frameIdle fr = false)
    (hseq : frameSeq fr = (portOf s p).rxSeq + 1) :
    ∃ g, g (ackFrames fr (portOf s p)) = acceptFrame fr (portOf s p) ∧
      linkFrame s p fr = countLost (modPort (modPort s p (ackFrames fr)) p g) p (lostOf s p fr) := by
  have hseq' : ¬ frameSeq fr ≠ (ackFrames fr (portOf s p)).rxSeq + 1 := not_not.2 hseq
  refine ⟨fun x => { x with rxSeq := frameSeq fr, skipping := false, rxCarry := (frameDsts fr (portOf s p).rxCarry).2 }, rfl, ?_⟩
  simp only [linkFrame, hup, hgood, hidle, Bool.not_true, Bool.false_eq_true, if_false, takeFrameAck_eq, portOf_modPort_same, if_neg hseq']
  rfl

/-- Whatever its frame, a port that receives it changes no other port. -/
theorem onPort_linkFrame (hup : (portOf s p).up = true) : OnPort s (linkFrame s p fr) p := by
  have h := onPort_refl s p
  cases hgood : frameGood fr with
  | false =>
    rw [linkFrame_of_bad hup hgood]
    exact h.modPort _
  | true =>
    cases hidle : frameIdle fr with
    | true =>
      rw [linkFrame_of_idle hup hgood hidle]
      exact h.modPort _
    | false =>
      by_cases hseq : frameSeq fr = (portOf s p).rxSeq + 1
      · obtain ⟨g, -, hg⟩ := linkFrame_of_inOrder hup hgood hidle hseq
        rw [hg]
        exact ((h.modPort _).modPort g).countLost _
      · rw [linkFrame_of_outOfOrder hup hgood hidle hseq]
        exact (h.modPort _).modPort _

/-- An in-order frame: the port accepts it, and the messages for another endpoint are counted and reported (R425, R432). -/
theorem linkFrame_accepts (hup : (portOf s p).up = true) (hgood : frameGood fr = true) (hidle : frameIdle fr = false)
    (hseq : frameSeq fr = (portOf s p).rxSeq + 1) :
    portOf (linkFrame s p fr) p = acceptFrame fr (portOf s p) ∧
    (linkFrame s p fr).bup.misrouted = (if lostOf s p fr = 0 then s.bup.misrouted else satAdd 32 s.bup.misrouted (lostOf s p fr)) ∧
    (lostOf s p fr ≠ 0 → Raises s (linkFrame s p fr) (mkEvent (dieAddr (41 + p / 4)) (floorN s) 0x00D3 0 0 7 0 0)) ∧
    (lostOf s p fr = 0 → (linkFrame s p fr).stem = s.stem) := by
  obtain ⟨g, hg, heq⟩ := linkFrame_of_inOrder hup hgood hidle hseq
  rw [heq, portOf_countLost, portOf_modPort_same, portOf_modPort_same]
  refine ⟨hg, ?_⟩
  unfold countLost
  split
  · next h => exact ⟨rfl, fun hn => absurd h hn, fun _ => rfl⟩
  · next h => exact ⟨rfl, fun _ => rfl, fun h0 => absurd h0 h⟩

end

/-! ## Ports that leave service -/

/-- What training a port `p` shows, with the capacity map's state. -/
def linkView (p : Nat) (s : State) : Bool × Bool × Nat × Yield :=
  ((portOf s p).up, (portOf s p).training, (portOf s p).retrains, s.yld)

/-- A port's training stands as before. -/
def SameTraining (z y : Port) : Prop := z.up = y.up ∧ z.training = y.training ∧ z.retrains = y.retrains

theorem sameTraining_ite {c : Prop} [Decidable c] {y z : Port} (h : SameTraining z y) : SameTraining (if c then y else z) y := by
  split
  · exact ⟨rfl, rfl, rfl⟩
  · exact h

/-- A change of what a port queues or sends leaves what training shows. -/
theorem linkView_modPort (p q : Nat) (s : State) {g : Port → Port} (hg : ∀ y, SameTraining (g y) y) :
    linkView p (modPort s q g) = linkView p s := by
  unfold linkView
  rw [portOf_modPort, modPort_yld]
  split
  · next h =>
    obtain ⟨hup, htr, hre⟩ := hg (portOf s q)
    rw [hup, htr, hre, h]
  · rfl

theorem linkView_raise (p : Nat) (s : State) (m : ErrMsg) : linkView p (raise s m) = linkView p s := rfl

theorem linkView_postAsync (p : Nat) (s : State) (c : Cpl) : linkView p (postAsync s c) = linkView p s := by
  unfold postAsync
  dsimp only
  split <;> rfl

theorem linkView_finishCmd (p : Nat) (s : State) (c : Cmd) (status : Nat) (g : Cpl → Cpl) :
    linkView p (finishCmd s c status g) = linkView p s := by
  unfold finishCmd
  dsimp only
  split <;> rfl

theorem linkView_finishCtxCmd (p : Nat) (s : State) (x opc status : Nat) : linkView p (finishCtxCmd s x opc status) = linkView p s :=
  foldl_keeps _ (fun t c => linkView_finishCmd p t c status id) _ s

theorem linkView_ite {p : Nat} {c : Prop} [Decidable c] {a b s : State} (ha : linkView p a = linkView p s) (hb : linkView p b = linkView p s) :
    linkView p (if c then a else b) = linkView p s := by
  split
  · exact ha
  · exact hb

theorem linkView_failTransfers (p : Nat) (s : State) (l : List (Nat × Nat)) :
    linkView p (l.foldl (fun t e => failTransfer t e.2) s) = linkView p s :=
  foldl_keeps (f := fun t e => failTransfer t e.2) _ (fun _ _ => rfl) l s

theorem linkView_failCtx (p : Nat) (s : State) (x cause : Nat) : linkView p (failCtx s x cause) = linkView p s := by
  unfold failCtx
  refine linkView_ite rfl ?_
  dsimp only
  rw [linkView_raise, linkView_finishCtxCmd, linkView_finishCtxCmd]
  exact linkView_failTransfers p s _

theorem linkView_abortOut (p : Nat) (s : State) (again : Option Nat) : linkView p (abortOut s again) = linkView p s := by
  unfold abortOut
  split
  · rfl
  · next c _ => exact foldl_keeps (f := fun t u => send t (.abort u c.csn c.epoch)) (linkView p) (fun _ _ => rfl) c.parts _

theorem linkView_losePair (p : Nat) (s : State) (cause : Nat) : linkView p (losePair s cause) = linkView p s := by
  unfold losePair
  refine linkView_ite rfl ((foldl_keeps _ (fun t a => ?_) _ _).trans ((linkView_postAsync p _ _).trans ?_))
  · exact linkView_ite rfl (linkView_postAsync p _ _)
  · exact linkView_ite (linkView_abortOut p _ none) rfl

/-- A port out of service: its queues and its unacknowledged frames are gone (R429). -/
def emptyPort (y : Port) : Port :=
  { y with up := false, txSeq := 0, rxSeq := 4095, nak := false, skipping := false, unacked := [], resend := 0, q0 := [], q1 := [], q2 := [],
           carry := 0, rxCarry := 0, deficit := [] }

/-- A mirror port that leaves service reports it, and with the last one the partner is lost (R412, R419). -/
theorem linkView_mirrorPortQuit (p : Nat) (s : State) (mirror : Bool) (die : Nat) :
    linkView p (if !mirror then s else
      let t := raiseDie s die 0x00C0 0 0 0
      if (mirrorPorts t).isEmpty then losePair t lostPorts else t) = linkView p s :=
  linkView_ite rfl (linkView_ite (linkView_losePair p _ _) rfl)

/-- A port in service that leaves it is down, and its training stays as it was. -/
theorem linkView_portQuit {s : State} {p : Nat} (hup : (portOf s p).up = true) :
    linkView p (portQuit s p) = (false, (portOf s p).training, (portOf s p).retrains, s.yld) := by
  have hempty : linkView p (modPort s p emptyPort) = (false, (portOf s p).training, (portOf s p).retrains, s.yld) := by
    rw [linkView, portOf_modPort_same]
    rfl
  unfold portQuit
  rw [if_neg (by simp [hup])]
  refine ((linkView_mirrorPortQuit p _ _ _).trans (foldl_keeps _ (fun t m => ?_) _ _)).trans hempty
  split
  · exact linkView_modPort p _ t fun y => sameTraining_ite ⟨rfl, rfl, rfl⟩
  · exact linkView_ite rfl (linkView_failCtx p t _ _)

/-- A port in service that has to be trained again retrains (R427, R429). -/
theorem retrains_startRetrain {s : State} {p : Fin 48} (hup : (portOf s p).up = true) : Retrains s (startRetrain s p) p := by
  have hquit := linkView_portQuit hup
  simp only [linkView, Prod.mk.injEq] at hquit
  obtain ⟨hdown, htraining, hretrains, hyld⟩ := hquit
  have heq : startRetrain s p =
      raiseDie (modPort (bumpGen (portQuit s p)) p fun x => { x with training := true, retrains := min 255 (x.retrains + 1) })
        (41 + p.val / 4) 0x00D1 0 0 0 := by
    simp only [startRetrain, portLeave, hup, Bool.not_true, Bool.false_eq_true, if_false, if_true]
  have hport : portOf (startRetrain s p) p =
      { portOf (portQuit s p) p with training := true, retrains := min 255 ((portOf (portQuit s p) p).retrains + 1) } := by
    rw [heq, portOf_raiseDie, portOf_modPort_same]
    rfl
  refine ⟨by rw [hport, hdown], by rw [hport], by rw [hport, hretrains], ?_, heq ▸ exists_event_raiseDie _ _ _ _ _ _⟩
  have hgen : (startRetrain s p).yld.gen = (portQuit s p).yld.gen + 1 := by rw [heq]; rfl
  rw [hgen, hyld]
  exact Nat.lt_succ_self _

theorem startRetrain_of_down {s : State} {p : Nat} (hdown : (portOf s p).up = false) : startRetrain s p = s := by
  rw [startRetrain, hdown]
  rfl

/-! ## Frames sent -/

/-- `t` is `s` but for the entries of the ports, and port `p` has its meters changed at most. -/
structure Metered (s t : State) (p : Nat) : Prop where
  port : ∃ mt, portOf t p = { portOf s p with meter := mt }
  rest : t = { s with bup := { s.bup with port := t.bup.port } }

theorem metered_refl (s : State) (p : Nat) : Metered s s p := ⟨⟨_, rfl⟩, rfl⟩

theorem Metered.modPort {s t : State} {p : Nat} {g : Port → Port} (h : Metered s t p) (hg : ∃ mt, g (portOf t p) = { portOf t p with meter := mt }) :
    Metered s (modPort t p g) p where
  port := by
    obtain ⟨mt, hmt⟩ := h.port
    obtain ⟨mt', hmt'⟩ := hg
    exact ⟨mt', by rw [portOf_modPort_same, hmt', hmt]⟩
  rest := by rw [h.rest]; rfl

/-- The meters of a port refilled are all that a codeword period changes (R435). -/
theorem metered_meterRefill (s : State) (p : Nat) : Metered s (meterRefill s p) p := by
  have hfold : ∀ (l : Tab Nat) (t : State), Metered s t p → Metered s (l.foldl (fun t e =>
      Machine.modPort t p fun x => { x with meter := tabMod 0 e.1 (· - 160 * bitsOf (tabGet 0 s.bup.pt e.1).toNat 36 4) x.meter }) t) p := by
    intro l
    induction l with
    | nil => exact fun t h => h
    | cons e l ih => exact fun t h => ih _ (h.modPort ⟨_, rfl⟩)
  exact hfold _ s (metered_refl s p)

theorem Metered.retrains {s t u : State} {p : Fin 48} (h : Metered s t p) (hr : Retrains t u p) : Retrains s u p := by
  obtain ⟨hdown, htraining, hretrains, hgen, hevent⟩ := hr
  obtain ⟨mt, hmt⟩ := h.port
  have hyld : t.yld = s.yld := by rw [h.rest]
  rw [hmt] at hretrains
  rw [hyld] at hgen
  exact ⟨hdown, htraining, hretrains, hgen, hevent⟩

section

variable {s : State} {p : Nat}

/-- A frame emitted: its fields are those of the port, whose NAK it carries (R424, R425). -/
theorem out_emitFrame (s : State) (p : Nat) (idle : Bool) (fseq : BitVec 12) :
    (emitFrame s p idle fseq).out = .frame p idle fseq (portOf s p).rxSeq (portOf s p).nak :: s.out := rfl

theorem portOf_emitFrame (s : State) (p : Nat) (idle : Bool) (fseq : BitVec 12) :
    portOf (emitFrame s p idle fseq) p = { portOf s p with nak := false } := by
  rw [emitFrame, portOf_modPort_same]
  rfl

theorem Metered.out_emitFrame {t : State} (h : Metered s t p) (idle : Bool) (fseq : BitVec 12) :
    (emitFrame t p idle fseq).out = .frame p idle fseq (portOf s p).rxSeq (portOf s p).nak :: s.out := by
  obtain ⟨mt, hmt⟩ := h.port
  have hout : t.out = s.out := by rw [h.rest]
  rw [Links.out_emitFrame, hmt, hout]

/-- No message waits in the port's queues (R447). -/
def NothingQueued (x : Port) : Prop := x.q0 = [] ∧ x.q1 = [] ∧ x.q2 = []

theorem nextData_of_nil (h : (portOf s p).q2 = []) : nextData s p = none := by
  have hnone : ∀ l : List Nat, l.findSome? (fun _ => (none : Option QMsg)) = none := fun l => List.findSome?_eq_none_iff.2 fun _ _ => rfl
  simp only [nextData, h, List.find?_nil, Option.filter_none, hnone]

theorem nextMsg_of_empty (h : NothingQueued (portOf s p)) : nextMsg s p = none := by
  obtain ⟨h0, h1, h2⟩ := h
  simp only [nextMsg, h0, h1, List.find?_nil, nextData_of_nil h2]

theorem fillFrame_of_none (h : nextMsg s p = none) (n cells : Nat) (l : List QMsg) : fillFrame p n cells l s = (l, s) := by
  cases n with
  | zero => rfl
  | succ n =>
    unfold fillFrame
    rw [h]
    exact ite_self _

/-- A message to an endpoint that no meter binds is drawn from none (R435). -/
theorem meterUse_of_noRates {m : QMsg} (h : ratesFor s m.dst.toNat = []) : meterUse s p m = s := by
  rw [meterUse, h]
  rfl

theorem meterOk_of_noRates {m : QMsg} (h : ratesFor s m.dst.toNat = []) : meterOk s p m = true := by
  simp [meterOk, bindingEntry, h]

/-- The state with the first message of class CTL and MIRROR taken from the port's queue. -/
def takeCtl (s : State) (p : Nat) (m : QMsg) : State := modPort s p fun y => { y with q0 := eraseFirst (fun n => n.id == m.id) y.q0 }

theorem portOf_takeCtl {m : QMsg} (h : (portOf s p).q0 = [m]) : portOf (takeCtl s p m) p = { portOf s p with q0 := [] } := by
  rw [takeCtl, portOf_modPort_same, h]
  simp [eraseFirst]

theorem nextMsg_of_one {m : QMsg} (h : (portOf s p).q0 = [m]) (hrates : ratesFor s m.dst.toNat = []) :
    nextMsg s p = some (m, takeCtl s p m) := by
  simp [nextMsg, h, List.find?_cons_of_pos, meterOk_of_noRates hrates, takeCtl]

/-- A single message that fits goes alone into the frame (R424). -/
theorem fillFrame_of_one {m : QMsg} (h0 : (portOf s p).q0 = [m]) (h1 : (portOf s p).q1 = []) (h2 : (portOf s p).q2 = [])
    (hrates : ratesFor s m.dst.toNat = []) {n cells : Nat} (hcells : cells ≠ 0) (hfit : m.cells ≤ cells) :
    fillFrame p (n + 1) cells [] s = ([m], takeCtl s p m) := by
  have hempty : NothingQueued (portOf (takeCtl s p m) p) := by
    rw [portOf_takeCtl h0]
    exact ⟨rfl, h1, h2⟩
  have hrates' : ratesFor (takeCtl s p m) m.dst.toNat = [] := hrates
  unfold fillFrame
  rw [if_neg hcells, nextMsg_of_one h0 hrates]
  simp only [meterUse_of_noRates hrates', if_pos hfit, List.nil_append, fillFrame_of_none (nextMsg_of_empty hempty)]

/-- The state in which a port with no message carried over looks for messages is still the one before (R424). -/
theorem Metered.noCarry {t : State} (h : Metered s t p) (hcarry : (portOf s p).carry = 0) (n : Nat) :
    Metered s (Machine.modPort t p fun y => { y with carry := y.carry - n }) p := by
  obtain ⟨mt, hmt⟩ := h.port
  refine h.modPort ⟨mt, ?_⟩
  rw [hmt, hcarry, Nat.zero_sub, ← hcarry]

/-- A port with 512 frames out, or with nothing to send, sends an IDLE frame (R426, R447). -/
theorem frameSend_idle (hup : (portOf s p).up = true) (hresend : (portOf s p).resend = 0)
    (hidle : 512 ≤ (portOf s p).unacked.length ∨ (NothingQueued (portOf s p) ∧ (portOf s p).carry = 0)) :
    ∃ t, Metered s t p ∧ frameSend s p = emitFrame t p true (portOf s p).txSeq := by
  have hm := metered_meterRefill s p
  obtain ⟨mt, hmt⟩ := hm.port
  by_cases hfull : 512 ≤ (portOf s p).unacked.length
  · refine ⟨_, hm, ?_⟩
    simp only [frameSend, hup, hmt, hresend, hfull, Bool.not_true, Bool.false_eq_true, ne_eq, not_true, if_false, if_true]
  · obtain ⟨hempty, hcarry⟩ := hidle.resolve_left hfull
    have hm' := hm.noCarry hcarry 0
    obtain ⟨mt', hmt'⟩ := hm'.port
    refine ⟨_, hm', ?_⟩
    have hfill := fillFrame_of_none (nextMsg_of_empty (p := p) (by rw [hmt']; exact hempty)) 40 40 []
    simp only [frameSend, hup, hmt, hresend, hfull, hcarry, Nat.min_zero, hfill, Bool.not_true, Bool.false_eq_true, ne_eq, not_true, if_false,
      List.isEmpty_nil, and_self, if_true]

/-- One message that waits goes out in a DATA frame, which is kept until it is acknowledged (R424, R425, R447). -/
theorem frameSend_one {m : QMsg} (hup : (portOf s p).up = true) (hresend : (portOf s p).resend = 0) (hroom : (portOf s p).unacked.length < 512)
    (h0 : (portOf s p).q0 = [m]) (h1 : (portOf s p).q1 = []) (h2 : (portOf s p).q2 = []) (hcarry : (portOf s p).carry = 0)
    (hfit : m.cells ≤ 40) (hrates : ratesFor s m.dst.toNat = []) :
    ∃ t, Metered s t p ∧ frameSend s p = modPort (emitFrame (takeCtl t p m) p false (portOf s p).txSeq) p fun y =>
      { y with txSeq := (portOf s p).txSeq + 1, unacked := y.unacked ++ [((portOf s p).txSeq, 1, [m])] } := by
  have hm := metered_meterRefill s p
  obtain ⟨mt, hmt⟩ := hm.port
  have hm' := hm.noCarry hcarry 0
  obtain ⟨mt', hmt'⟩ := hm'.port
  refine ⟨_, hm', ?_⟩
  have hrates' : ratesFor (modPort (meterRefill s p) p fun y => { y with carry := y.carry - 0 }) m.dst.toNat = [] := by
    rw [hm'.rest]
    exact hrates
  have hfill := fillFrame_of_one (n := 39) (cells := 40) (by rw [hmt']; exact h0) (by rw [hmt']; exact h1) (by rw [hmt']; exact h2) hrates'
    (by decide) hfit
  simp only [frameSend, hup, hmt, hresend, not_le.2 hroom, hcarry, Nat.min_zero, hfill, Bool.not_true, Bool.false_eq_true, ne_eq, not_true,
    if_false, List.isEmpty_cons, false_and]

/-- A frame that a NAK asks for goes out again (R425). -/
theorem frameSend_again {fseq : BitVec 12} {n : Nat} {l : List QMsg} (hup : (portOf s p).up = true) (hresend : (portOf s p).resend ≠ 0)
    (hframe : (portOf s p).unacked[(portOf s p).unacked.length - (portOf s p).resend]? = some (fseq, n, l)) (hn : n < 16) :
    ∃ t, Metered s t p ∧ frameSend s p = modPort (emitFrame t p false fseq) p fun y =>
      { y with resend := y.resend - 1, resent := satAdd 32 y.resent 1,
               unacked := y.unacked.map fun e => if e.1 = fseq then (e.1, e.2.1 + 1, e.2.2) else e } := by
  have hm := metered_meterRefill s p
  obtain ⟨mt, hmt⟩ := hm.port
  refine ⟨_, hm, ?_⟩
  simp only [frameSend, hup, hmt, hresend, hframe, not_le.2 hn, Bool.not_true, Bool.false_eq_true, ne_eq, not_false_eq_true, if_false, if_true]

/-- A frame sent 16 times without an acknowledgement makes the port retrain (R427). -/
theorem frameSend_retrains {p : Fin 48} {fseq : BitVec 12} {n : Nat} {l : List QMsg} (hup : (portOf s p).up = true)
    (hresend : (portOf s p).resend ≠ 0)
    (hframe : (portOf s p).unacked[(portOf s p).unacked.length - (portOf s p).resend]? = some (fseq, n, l)) (hn : 16 ≤ n) :
    Retrains s (frameSend s p) p := by
  have hm := metered_meterRefill s p
  obtain ⟨mt, hmt⟩ := hm.port
  have heq : frameSend s p = startRetrain (meterRefill s p) p := by
    simp only [frameSend, hup, hmt, hresend, hframe, hn, Bool.not_true, Bool.false_eq_true, ne_eq, not_false_eq_true, if_false, if_true]
  rw [heq]
  exact hm.retrains (retrains_startRetrain (by rw [hmt]; exact hup))

end

/-! ## Training -/

/-- A failed lane that was not yet known: it is due in the yield map, and counts as failed (R428, R452). -/
def addLane (p : Fin 48) (s : State) (b : Fin 18) : State :=
  let t := dueEntry s { kind := 6, unit := 41 + p.val / 4, loc := b, value := 0 }
  { t with bup := { t.bup with lanes := tabMod [] (p.val / 4) (· ++ [b.val]) t.bup.lanes } }

theorem badLanes_addLane (p : Fin 48) (s : State) (b : Fin 18) :
    badLanes (addLane p s b) (p.val / 4) = badLanes s (p.val / 4) ++ [b.val] :=
  tabGet_mod_same [] (p.val / 4) (· ++ [b.val]) s.bup.lanes

theorem failLane_of_known {p : Fin 48} {s : State} {b : Fin 18} (h : b.val ∈ badLanes s (p.val / 4)) : failLane p s b = s :=
  if_pos (List.contains_iff_mem.2 h)

/-- A failed lane that was not yet known, with LANE_SPARED where a spare takes its place (R428). -/
theorem failLane_of_new {p : Fin 48} {s : State} {b : Fin 18} (h : b.val ∉ badLanes s (p.val / 4)) :
    failLane p s b = addLane p s b ∨ failLane p s b = raiseDie (addLane p s b) (41 + p.val / 4) 0x00D0 0 0 0 := by
  have heq : failLane p s b = if (badLanes (addLane p s b) (p.val / 4)).length ≤ 2 then
      raiseDie (addLane p s b) (41 + p.val / 4) 0x00D0 0 0 0 else addLane p s b :=
    if_neg fun hc => h (List.contains_iff_mem.1 hc)
  rw [heq]
  exact (ite_eq_or_eq _ _ _).symm

theorem mem_badLanes_failLane (p : Fin 48) (s : State) (b : Fin 18) (l : Nat) :
    l ∈ badLanes (failLane p s b) (p.val / 4) ↔ l ∈ badLanes s (p.val / 4) ∨ b.val = l := by
  by_cases h : b.val ∈ badLanes s (p.val / 4)
  · rw [failLane_of_known h]
    exact ⟨Or.inl, fun hl => hl.elim id fun hb => hb ▸ h⟩
  · have hlanes : badLanes (failLane p s b) (p.val / 4) = badLanes s (p.val / 4) ++ [b.val] := by
      rw [← badLanes_addLane]
      obtain heq | heq := failLane_of_new h <;> rw [heq]
      rfl
    rw [hlanes, List.mem_append, List.mem_singleton, eq_comm (a := l)]

/-- What a failed lane leaves as it is. -/
def exceptLanes (s : State) : Tab Port × Nat × Doms × Cxl := (s.bup.port, s.yld.gen, s.dom, s.cxl)

theorem exceptLanes_failLane (p : Fin 48) (s : State) (b : Fin 18) : exceptLanes (failLane p s b) = exceptLanes s := by
  by_cases h : b.val ∈ badLanes s (p.val / 4)
  · rw [failLane_of_known h]
  · obtain heq | heq := failLane_of_new h <;> rw [heq] <;> rfl

/-- The failed lanes found in training are added to those known (R428, R429). -/
def failLanes (s : State) (p : Fin 48) (bad : List (Fin 18)) : State := bad.foldl (failLane p) s

theorem mem_badLanes_failLanes (p : Fin 48) (s : State) (bad : List (Fin 18)) (l : Nat) :
    l ∈ badLanes (failLanes s p bad) (p.val / 4) ↔ l ∈ badLanes s (p.val / 4) ∨ ∃ b ∈ bad, b.val = l := by
  unfold failLanes
  induction bad generalizing s with
  | nil => simp
  | cons b bad ih => rw [List.foldl_cons, ih, mem_badLanes_failLane, List.exists_mem_cons_iff, or_assoc]

theorem exceptLanes_failLanes (p : Fin 48) (s : State) (bad : List (Fin 18)) : exceptLanes (failLanes s p bad) = exceptLanes s :=
  foldl_keeps _ (exceptLanes_failLane p) bad s

/-! ### The command that waits -/

theorem eraseFirst_eq_erase (c : Cmd) (l : List Cmd) : eraseFirst (fun x => decide (x = c)) l = l.erase c := by
  induction l with
  | nil => rfl
  | cons a l ih => simp only [eraseFirst, List.erase_cons, ih, decide_eq_true_eq, beq_iff_eq]

/-- Each of a list of commands completes. -/
def finishCmds (s : State) (l : List Cmd) : State := l.foldl (fun t c => finishCmd t c stOk id) s

theorem finishCmd_rest (s : State) (c : Cmd) : finishCmd s c stOk id = { s with cxl := (finishCmd s c stOk id).cxl } := by
  unfold finishCmd
  dsimp only
  split <;> rfl

theorem cmds_finishCmd (s : State) (c : Cmd) : (finishCmd s c stOk id).cxl.cmds = s.cxl.cmds.erase c := by
  rw [← eraseFirst_eq_erase]
  unfold finishCmd
  dsimp only
  split <;> rfl

theorem cmds_finishCmds (s : State) (l : List Cmd) : (finishCmds s l).cxl.cmds = s.cxl.cmds.diff l := by
  unfold finishCmds
  induction l generalizing s with
  | nil => rfl
  | cons c l ih => rw [List.foldl_cons, ih, cmds_finishCmd, List.diff_cons]

theorem finishCmds_rest (s : State) (l : List Cmd) : finishCmds s l = { s with cxl := (finishCmds s l).cxl } := by
  unfold finishCmds
  induction l generalizing s with
  | nil => rfl
  | cons c l ih => rw [List.foldl_cons, ih, finishCmd_rest]

/-- Once each command of a kind has completed, none is left. -/
theorem not_mem_finishCmds (s : State) (q : Cmd → Bool) : ∀ c ∈ (finishCmds s (s.cxl.cmds.filter q)).cxl.cmds, ¬ q c = true := by
  intro c hc hq
  rw [cmds_finishCmds, ← List.count_pos_iff, List.count_diff, List.count_filter hq, Nat.sub_self] at hc
  exact absurd hc (Nat.lt_irrefl 0)

/-! ### What training comes to -/

/-- A command that waits for port `p` to be trained (R462). -/
def awaitsRetrain (p : Fin 48) (c : Cmd) : Bool := c.begun && c.opc == 0x1B && c.arg0.toNat == p.val

/-- Port `p` qualifies, with no more failed lanes than its chiplet has spares for (R382, R429). -/
def qualifies (s : State) (p : Fin 48) (bad : List (Fin 18)) (lanes : List LaneTest) : Bool :=
  bupolPort lanes &&
    (!(bad.any fun l => !(badLanes s (p.val / 4)).contains l.val) || decide ((badLanes (failLanes s p bad) (p.val / 4)).length ≤ 2)) &&
    !tabGet false (failLanes s p bad).dom.rindOut (41 + p.val / 4)

/-- The port back in service, or down with PORT_DOWN (R429, R430). -/
def endTraining (s : State) (p : Fin 48) (up : Bool) : State :=
  let t := modPort s p fun x => { x with training := false, up := up }
  if up then bumpGen t else raiseDie t (41 + p.val / 4) 0x01D0 0 0 0

section

variable {s : State} {p : Fin 48} {bad : List (Fin 18)} {lanes : List LaneTest}

theorem qualifies_iff : qualifies s p bad lanes = true ↔ bupolPort lanes = true ∧
    ((∀ l ∈ bad, l.val ∈ badLanes s (p.val / 4)) ∨ (badLanes (failLanes s p bad) (p.val / 4)).length ≤ 2) ∧
    tabGet false s.dom.rindOut (41 + p.val / 4) = false := by
  have hdom : (failLanes s p bad).dom = s.dom := congrArg (·.2.2.1) (exceptLanes_failLanes p s bad)
  simp [qualifies, hdom, and_assoc]

theorem portOf_failLanes (k : Nat) : portOf (failLanes s p bad) k = portOf s k :=
  congrArg (fun v : Tab Port × Nat × Doms × Cxl => tabGet ({} : Port) v.1 k) (exceptLanes_failLanes p s bad)

theorem gen_failLanes : (failLanes s p bad).yld.gen = s.yld.gen := congrArg (·.2.1) (exceptLanes_failLanes p s bad)

theorem portOf_endTraining (up : Bool) (k : Nat) :
    portOf (endTraining s p up) k = if p.val = k then { portOf s p with training := false, up := up } else portOf s k := by
  cases up <;> exact portOf_modPort s p k _

theorem badLanes_endTraining (up : Bool) (n : Nat) : badLanes (endTraining s p up) n = badLanes s n := by
  cases up <;> rfl

/-- What the training of port `p` leaves, with the failed lanes `bad`; `up` says whether the port comes back. -/
structure Trained (s t : State) (p : Fin 48) (bad : List (Fin 18)) (up : Bool) : Prop where
  lanes : badLanes t (p.val / 4) = badLanes (failLanes s p bad) (p.val / 4)
  port : portOf t p = { portOf s p with training := false, up := up }
  other : ∀ k, k ≠ p.val → portOf t k = portOf s k
  back : up = true → t.yld.gen = s.yld.gen + 1
  down : up = false → ∃ e ∈ t.stem.events, e.code = 0x01D0 ∧ e.src = dieAddr (41 + p.val / 4)
  done : ∀ c ∈ t.cxl.cmds, ¬ awaitsRetrain p c = true

theorem trained_endTraining (up : Bool) (c : Cxl) (hdone : ∀ d ∈ c.cmds, ¬ awaitsRetrain p d = true) :
    Trained s { endTraining (failLanes s p bad) p up with cxl := c } p bad up where
  lanes := badLanes_endTraining up _
  port := by
    refine (portOf_endTraining up _).trans ?_
    rw [if_pos rfl, portOf_failLanes]
  other k hk := by
    refine (portOf_endTraining up k).trans ?_
    rw [if_neg hk.symm, portOf_failLanes]
  back hup := by
    rw [hup]
    exact congrArg (· + 1) gen_failLanes
  down hdown := by
    rw [hdown]
    exact exists_event_raiseDie _ _ _ _ _ _
  done := hdone

theorem trained_retrain (h : (portOf s p).training = true) : Trained s (retrain s p bad lanes) p bad (qualifies s p bad lanes) := by
  have heq : retrain s p bad lanes = finishCmds (endTraining (failLanes s p bad) p (qualifies s p bad lanes))
      ((endTraining (failLanes s p bad) p (qualifies s p bad lanes)).cxl.cmds.filter (awaitsRetrain p)) := if_neg (by simp [h])
  rw [heq, finishCmds_rest]
  exact trained_endTraining _ _ (not_mem_finishCmds _ _)

end

/-! ## The statement -/

theorem ackTimeout_of_outstanding {s : State} {p : Fin 48} (h : (portOf s p).unacked ≠ []) : ackTimeout s p = startRetrain s p :=
  if_neg (by simpa using h)

/-- ACK_TIMEOUT does nothing where no frame is outstanding, or where the port is out of service (R427). -/
theorem ackTimeout_idle {s : State} {p : Fin 48} (h : (portOf s p).unacked = [] ∨ (portOf s p).up = false) : ackTimeout s p = s := by
  by_cases hout : (portOf s p).unacked = []
  · exact if_pos (by simp [hout])
  · rw [ackTimeout_of_outstanding hout, startRetrain_of_down (h.resolve_left hout)]

/-- Settles O50: each of the cases of a frame received, of a frame sent and of a training is an equation of its own above. -/
theorem linkFramesAndTraining : Obligations.LinkFramesAndTraining := by
  intro s p x
  refine ⟨fun fr hup => ?received, fun hup => ⟨frameSend s p, rfl, ?idle, ?one, ?again⟩, fun hup hout => ⟨ackTimeout s p, rfl, ?timeout⟩,
    fun h => congrArg Host.Outcome.next (ackTimeout_idle h),
    fun hup => ⟨⟨_, rfl, retrains_startRetrain hup⟩, ⟨_, rfl, retrains_startRetrain hup⟩⟩, fun bad lanes htraining => ?trained⟩
  case received =>
    obtain ⟨hother, hrest⟩ := onPort_linkFrame (fr := fr) hup
    refine ⟨linkFrame s p fr, rfl, hother, hrest, fun hbad => ?_, fun hgood hidle => ?_, fun hgood hidle hseq => ?_,
      fun hgood hidle hseq => linkFrame_accepts hup hgood hidle hseq⟩
    · rw [linkFrame_of_bad hup hbad, portOf_modPort_same]
      exact ⟨rfl, rfl⟩
    · rw [linkFrame_of_idle hup hgood hidle, portOf_modPort_same]
      exact ⟨rfl, rfl⟩
    · rw [linkFrame_of_outOfOrder hup hgood hidle hseq, portOf_modPort_same, portOf_modPort_same]
      exact ⟨rfl, rfl⟩
  case idle =>
    intro hresend hidle
    obtain ⟨t, ht, heq⟩ := frameSend_idle hup hresend (hidle.imp id fun ⟨h0, h1, h2, hcarry⟩ => ⟨⟨h0, h1, h2⟩, hcarry⟩)
    obtain ⟨mt, hmt⟩ := ht.port
    rw [heq, ht.out_emitFrame, portOf_emitFrame, hmt]
    exact ⟨rfl, rfl, rfl, rfl⟩
  case one =>
    intro m hresend hroom h0 h1 h2 hcarry hfit hrates
    obtain ⟨t, ht, heq⟩ := frameSend_one hup hresend hroom h0 h1 h2 hcarry hfit hrates
    obtain ⟨mt, hmt⟩ := ht.port
    have hport : portOf (takeCtl t p m) p = { portOf s p with meter := mt, q0 := [] } := by
      rw [portOf_takeCtl (by rw [hmt]; exact h0), hmt]
    have hout : (takeCtl t p m).out = s.out := by rw [takeCtl, modPort_out, ht.rest]
    rw [heq, modPort_out, out_emitFrame, portOf_modPort_same, portOf_emitFrame, hport, hout]
    exact ⟨rfl, rfl, rfl, rfl⟩
  case again =>
    intro fseq n l hresend hframe
    refine ⟨fun hn => ?_, fun hn => frameSend_retrains hup hresend hframe hn⟩
    obtain ⟨t, ht, heq⟩ := frameSend_again hup hresend hframe hn
    obtain ⟨mt, hmt⟩ := ht.port
    rw [heq, modPort_out, ht.out_emitFrame, portOf_modPort_same, portOf_emitFrame, hmt]
    exact ⟨rfl, rfl, rfl⟩
  case timeout =>
    rw [ackTimeout_of_outstanding hout]
    exact retrains_startRetrain hup
  case trained =>
    have ht := trained_retrain (bad := bad) (lanes := lanes) htraining
    have hback := qualifies_iff (s := s) (p := p) (bad := bad) (lanes := lanes)
    have hlane := mem_badLanes_failLanes p s bad
    rw [← ht.lanes] at hback hlane
    refine ⟨retrain s p bad lanes, rfl, fun l hl => (hlane l).2 (.inr ⟨l, hl, rfl⟩), fun l hl => (hlane l).2 (.inl hl), ?_, ht.other,
      fun h => ⟨?_, ht.back (hback.2 h)⟩, fun h => ⟨?_, ht.down (Bool.eq_false_iff.2 fun hq => h (hback.1 hq))⟩, fun c hc hcmd => ?_⟩
    · rw [ht.port]
    · rw [ht.port]
      exact hback.2 h
    · rw [ht.port]
      exact Bool.eq_false_iff.2 fun hq => h (hback.1 hq)
    · exact ht.done c hc (by simpa [awaitsRetrain, and_assoc] using hcmd)

end Sys2Proof.Proofs.Links
end

section
/-! SUPPORT. What every step keeps (O58, O59, O60). The memories' canonical form, the trust state's growth and the locks make one preorder
`Keeps`; each function of the model that answers a state keeps what the state it is given keeps, in the model's own order. -/

namespace Sys2Proof.Proofs.Invariants

open Sys2Proof.Machine Sys2Proof.Laws

/-- Revocations, MINSVN and the signature index only move forward, the index within its committed block. -/
def TrustGrows (r t : Trust) : Prop :=
  r.sigNext ≤ r.sigEnd → t.sigNext ≤ t.sigEnd ∧ r.sigNext ≤ t.sigNext ∧ r.minSvn ≤ t.minSvn ∧
    ∀ k, r.keyRev.getLsbD k = true → t.keyRev.getLsbD k = true

/-- The sealed partner table and ENDPOINT_ID, with their locks. -/
def locks (b : Bupol) : Bool × Tab (BitVec 64) × Bool × BitVec 16 := (b.sealed_, b.pt, b.epSet, b.epId)

/-- The locks as they were, or all of them cleared together. -/
def LocksHold (r t : Bupol) : Prop := locks t = locks r ∨ locks t = (false, [], false, 0)

structure Keeps (r t : State) : Prop where
  mem : MemInv r → MemInv t
  trust : TrustGrows r.trs t.trs
  locks : LocksHold r.bup t.bup

variable {r s t : State} {i : Iss}

theorem Keeps.refl (s : State) : Keeps s s := ⟨id, fun h => ⟨h, le_rfl, le_rfl, fun _ => id⟩, .inl rfl⟩

/-- What the three invariants see of a state. -/
def sees (s : State) := (s.mem.die, s.mem.near, s.mem.far, s.mem.dieBr, s.mem.nearBr, s.mem.farBr, s.mem.flips, s.trs.window,
  s.trs.sigNext, s.trs.sigEnd, s.trs.minSvn, s.trs.keyRev, s.bup.sealed_, s.bup.pt, s.bup.epSet, s.bup.epId)

theorem Keeps.of_sees (h : Keeps r s) (hs : sees t = sees s) : Keeps r t := by
  simp only [sees, Prod.mk.injEq] at hs
  obtain ⟨h1, h2, h3, h4, h5, h6, h7, h8, h9, h10, h11, h12, h13, h14, h15, h16⟩ := hs
  refine ⟨fun hr => ?_, ?_, ?_⟩
  · have := h.mem hr
    simpa only [MemInv, memsWf, h1, h2, h3, h4, h5, h6, h7, h8] using this
  · have := h.trust
    simpa only [TrustGrows, h9, h10, h11, h12] using this
  · have := h.locks
    simpa only [LocksHold, Invariants.locks, h13, h14, h15, h16] using this

/-! ## The parts of canonical memories -/

theorem wf_die {m : Mem} (h : memsWf m = true) : memWf m.die = true := ((memsWf_iff m).1 h).1

theorem wf_near {m : Mem} (h : memsWf m = true) : memWf m.near = true := ((memsWf_iff m).1 h).2.1

theorem wf_far {m : Mem} (h : memsWf m = true) : memWf m.far = true := ((memsWf_iff m).1 h).2.2.1

theorem wf_dieBr {m : Mem} (h : memsWf m = true) : tabWf false m.dieBr = true := ((memsWf_iff m).1 h).2.2.2.1

theorem wf_nearBr {m : Mem} (h : memsWf m = true) : tabWf false m.nearBr = true := ((memsWf_iff m).1 h).2.2.2.2.1

theorem wf_farBr {m : Mem} (h : memsWf m = true) : tabWf false m.farBr = true := ((memsWf_iff m).1 h).2.2.2.2.2.1

theorem wf_flips {m : Mem} (h : memsWf m = true) : tabWf [] m.flips = true := ((memsWf_iff m).1 h).2.2.2.2.2.2

/-! ## Changes that the three do not see, or keep -/

theorem keeps_mk {p i c co f cor j lj lg d y pa cx pw br pi st o fr} (h : Keeps r s) :
    Keeps r ⟨p, i, c, co, f, cor, s.mem, j, lj, lg, d, y, pa, s.bup, cx, pw, br, pi, s.trs, st, o, fr⟩ := h.of_sees rfl

structure KeepsOut (r : State) (o : Host.Outcome State Fault Refusal) : Prop where
  of_next : ∀ t, o = .next t → Keeps r t

structure KeepsOpt (r : State) (o : Option State) : Prop where
  of_some : ∀ t, o = some t → Keeps r t

structure KeepsRes (r : State) (o : Res) : Prop where
  of_go : ∀ t d, o = .go t d → Keeps r t

theorem keeps_mk_bup {p i c co f cor j lj lg d y pa cx pw br pi st o fr a1 a2 a3 a4 a5 a6 a7 a8 a9 a10 a11} (h : Keeps r s) :
    Keeps r ⟨p, i, c, co, f, cor, s.mem, j, lj, lg, d, y, pa, ⟨s.bup.epId, s.bup.epSet, s.bup.sealed_, s.bup.pt, a1, a2, a3, a4, a5, a6, a7, a8,
        a9, a10, a11⟩, cx, pw, br, pi, s.trs, st, o, fr⟩ := h.of_sees rfl

theorem keeps_mk_trs {p i c co f cor j lj lg d y pa cx pw br pi st o fr a1 a2 a3 a4 a5 a7 a8 a9 a10 a11 a12 a13 a14 b1 b2 b3 b4 b5 b6 b7}
    (h : Keeps r s) :
    Keeps r ⟨p, i, c, co, f, cor, s.mem, j, lj, lg, d, y, pa, s.bup, cx, pw, br, pi, ⟨a1, a2, a3, a4, a5, s.trs.keyRev, a7, a8, a9, a10, a11,
        a12, a13, a14, s.trs.window, s.trs.minSvn, b1, b2, b3, b4, b5, s.trs.sigNext, s.trs.sigEnd, b6, b7⟩, st, o, fr⟩ := h.of_sees rfl

theorem keeps_mk_mem {p i c co f cor j lj lg d y pa cx pw br pi st o fr a1 a2 a3 a4 a5 a6} (h : Keeps r s) :
    Keeps r ⟨p, i, c, co, f, cor, ⟨s.mem.die, s.mem.dieBr, s.mem.flips, a1, a2, s.mem.near, s.mem.nearBr, s.mem.far, s.mem.farBr, a3, a4, a5,
        a6⟩, j, lj, lg, d, y, pa, s.bup, cx, pw, br, pi, s.trs, st, o, fr⟩ := h.of_sees rfl

theorem TrustGrows.trans {a b c : Trust} (h : TrustGrows a b) (h' : TrustGrows b c) : TrustGrows a c := by
  intro ha
  obtain ⟨hb, hnext, hsvn, hrev⟩ := h ha
  obtain ⟨hc, hnext', hsvn', hrev'⟩ := h' hb
  exact ⟨hc, hnext.trans hnext', hsvn.trans hsvn', fun k hk => hrev' k (hrev k hk)⟩

theorem TrustGrows.refl (a : Trust) : TrustGrows a a := fun h => ⟨h, le_rfl, le_rfl, fun _ => id⟩

/-- A change of the memories that keeps their canonical form. -/
theorem Keeps.setMem {m : Mem} (h : Keeps r s) (hm : memsWf s.mem = true → memsWf m = true) : Keeps r { s with mem := m } :=
  ⟨fun hr => ⟨hm (h.mem hr).1, (h.mem hr).2⟩, h.trust, h.locks⟩

/-- A change of the trust state that moves forward and leaves the recovery window alone. -/
theorem Keeps.setTrs {x : Trust} (h : Keeps r s) (hx : TrustGrows s.trs x) (hw : x.window = s.trs.window := by rfl) :
    Keeps r { s with trs := x } :=
  ⟨fun hr => ⟨(h.mem hr).1, hw ▸ (h.mem hr).2⟩, h.trust.trans hx, h.locks⟩

theorem keepsOut_next (h : Keeps r s) : KeepsOut r (.next s) := ⟨by intro t ht; cases ht; exact h⟩

theorem keepsOut_fault {x} : KeepsOut r (.fault x) := ⟨by intro t ht; cases ht⟩

theorem keepsOut_refused {x} : KeepsOut r (.refused x) := ⟨by intro t ht; cases ht⟩

theorem keepsOpt_none : KeepsOpt r none := ⟨by intro t ht; cases ht⟩

theorem keepsOpt_some (h : Keeps r s) : KeepsOpt r (some s) := ⟨by intro t ht; cases ht; exact h⟩

theorem keepsRes_go {d} (h : Keeps r s) : KeepsRes r (.go s d) := ⟨by intro t e ht; cases ht; exact h⟩

theorem keepsRes_hold : KeepsRes r .hold := ⟨by intro t e ht; cases ht⟩

theorem keepsRes_holdTo {n} : KeepsRes r (.holdTo n) := ⟨by intro t e ht; cases ht⟩

theorem keepsRes_never : KeepsRes r .never := ⟨by intro t e ht; cases ht⟩

theorem keepsRes_fault {a b c} : KeepsRes r (.fault a b c) := ⟨by intro t e ht; cases ht⟩

theorem keeps_ite {c : Prop} [Decidable c] {a b : State} (ha : Keeps r a) (hb : Keeps r b) : Keeps r
    (if c then a else b) := by split <;> assumption

theorem keepsRes_ite {c : Prop} [Decidable c] {a b : Res} (ha : KeepsRes r a) (hb : KeepsRes r b) : KeepsRes r
    (if c then a else b) := by split <;> assumption

theorem keepsOpt_ite {c : Prop} [Decidable c] {a b : Option State} (ha : KeepsOpt r a) (hb : KeepsOpt r b) : KeepsOpt r
    (if c then a else b) := by split <;> assumption

theorem keepsOut_ite {c : Prop} [Decidable c] {a b} (ha : KeepsOut r a) (hb : KeepsOut r b) : KeepsOut r
    (if c then a else b) := by split <;> assumption

theorem keeps_foldl {α : Type} {g : State → α → State} {l : List α} (h : Keeps r s) (hg : ∀ t x, Keeps r t → Keeps r (g t x)) :
    Keeps r (l.foldl g s) := by
  induction l generalizing s with
  | nil => exact h
  | cons x l ih => exact ih (hg s x h)

theorem keeps_getD {o : Option State} (h : KeepsOpt r o) (h' : Keeps r s) : Keeps r (o.getD s) := by
  cases o with
  | none => exact h'
  | some t => exact h.of_some t rfl

theorem keepsOpt_map {o : Option State} {g : State → State} (h : KeepsOpt r o) (hg : ∀ t, Keeps r t → Keeps r (g t)) : KeepsOpt r (o.map g) := by
  cases o with
  | none => exact keepsOpt_none
  | some t => exact keepsOpt_some (hg t (h.of_some t rfl))

theorem KeepsOpt.keeps {o : Option State} (h : KeepsOpt r o) (ho : o = some t) : Keeps r t := h.of_some t ho

theorem keeps_fst {α : Type} {p : State × α} {x : α} (h : Keeps r p.1) (hp : p = (t, x)) : Keeps r t := by subst hp; exact h

theorem keeps_snd {α : Type} {p : α × State} {x : α} (h : Keeps r p.2) (hp : p = (x, t)) : Keeps r t := by subst hp; exact h

theorem keeps_foldl_of {α β : Type} (v : β → State) {g : β → α → β} {l : List α} {b : β} (h : Keeps r (v b))
    (hg : ∀ b x, Keeps r (v b) → Keeps r (v (g b x))) : Keeps r (v (l.foldl g b)) := by
  induction l generalizing b with
  | nil => exact h
  | cons x l ih => exact ih (hg b x h)

/-- Of an answer with a state, the state keeps what is kept. -/
structure KeepsSnd {α : Type} (r : State) (o : Option (α × State)) : Prop where
  of_some : ∀ x t, o = some (x, t) → Keeps r t

theorem keepsSnd_none {α : Type} : KeepsSnd (α := α) r none := ⟨by intro _ _ ht; cases ht⟩

theorem keepsSnd_some {α : Type} {x : α} (h : Keeps r s) : KeepsSnd r (some (x, s)) := ⟨by intro _ _ ht; cases ht; exact h⟩

/-- Of a unit that moves, the state keeps what is kept. -/
structure KeepsUnit (r : State) (o : UnitRes) : Prop where
  of_moved : ∀ t p, o = .moved t p → Keeps r t

theorem keepsOpt_snd {α : Type} {o : Option (α × State)} {x : α} (h : KeepsSnd r o) (ho : o = some (x, t)) : Keeps r t := h.of_some x t ho

theorem KeepsRes.keeps {o : Res} {d} (h : KeepsRes r o) (ho : o = .go t d) : Keeps r t := h.of_go t d ho

/-! ## Ops -/

theorem keeps_dieStore {a n v b} (h : Keeps r s) : Keeps r (dieStore s a n v b) :=
  h.setMem (memsWf_dieStore s a n v b)

theorem keeps_nearStore {a n v b} (h : Keeps r s) : Keeps r (nearStore s a n v b) :=
  h.setMem (memsWf_nearStore s a n v b)

theorem keeps_farStore {a n v b} (h : Keeps r s) : Keeps r (farStore s a n v b) :=
  h.setMem (memsWf_farStore s a n v b)

theorem keeps_modField {f g} (h : Keeps r s) : Keeps r (modField s f g) :=
  keeps_mk h

theorem keeps_modFields {g} (h : Keeps r s) : Keeps r (modFields s g) :=
  keeps_foldl h fun _ _ h => keeps_modField h

theorem keeps_modCond {f g} (h : Keeps r s) : Keeps r (modCond s f g) :=
  keeps_modField h

theorem keeps_modFclk {f g} (h : Keeps r s) : Keeps r (modFclk s f g) :=
  keeps_modField h

theorem keeps_modFpow {f g} (h : Keeps r s) : Keeps r (modFpow s f g) :=
  keeps_modField h

theorem keeps_modFmem {f g} (h : Keeps r s) : Keeps r (modFmem s f g) :=
  keeps_modField h

theorem keeps_modNet {f g} (h : Keeps r s) : Keeps r (modNet s f g) :=
  keeps_modField h

theorem keeps_modStr {f g} (h : Keeps r s) : Keeps r (modStr s f g) :=
  keeps_modField h

theorem keeps_modFjob {f g} (h : Keeps r s) : Keeps r (modFjob s f g) :=
  keeps_modField h

theorem keeps_modCore {k g} (h : Keeps r s) : Keeps r (modCore s k g) :=
  keeps_mk h

theorem keeps_modCores {f g} (h : Keeps r s) : Keeps r (modCores s f g) :=
  keeps_foldl h fun _ _ h => keeps_modCore h

theorem keeps_modJob {a g} (h : Keeps r s) : Keeps r (modJob s a g) :=
  keeps_mk h

theorem keeps_modStream {f st g} (h : Keeps r s) : Keeps r (modStream s f st g) :=
  keeps_modStr h

theorem keeps_modPort {p g} (h : Keeps r s) : Keeps r (modPort s p g) :=
  keeps_mk_bup h

theorem keeps_modCtx {x g} (h : Keeps r s) : Keeps r (modCtx s x g) :=
  keeps_mk_bup h

theorem keeps_modQueue {q g} (h : Keeps r s) : Keeps r (modQueue s q g) :=
  keeps_mk h

theorem keeps_modGrant {g h'} (h : Keeps r s) : Keeps r (modGrant s g h') :=
  keeps_mk h

theorem keeps_modCxlPort {p g} (h : Keeps r s) : Keeps r (modCxlPort s p g) :=
  keeps_mk h

theorem keeps_modSlice {i' g} (h : Keeps r s) : Keeps r (modSlice s i' g) :=
  keeps_mk h

theorem keeps_raise {m} (h : Keeps r s) : Keeps r (raise s m) :=
  keeps_mk h

theorem keeps_raiseField {f code asid engine addr detail} (h : Keeps r s) : Keeps r (raiseField s f code asid engine addr detail) :=
  keeps_raise h

theorem keeps_raiseCore {c code asid engine addr detail} (h : Keeps r s) : Keeps r (raiseCore s c code asid engine addr detail) :=
  keeps_raise h

theorem keeps_raiseDie {die code asid addr detail} (h : Keeps r s) : Keeps r (raiseDie s die code asid addr detail) :=
  keeps_raise h

theorem keeps_raiseSloe {code detail} (h : Keeps r s) : Keeps r (raiseSloe s code detail) :=
  keeps_raiseDie h

theorem keeps_emit {o} (h : Keeps r s) : Keeps r (emit s o) :=
  keeps_mk h

/-! ## Issue -/

theorem keeps_coreFault {c e code addr detail} (h : Keeps r s) : Keeps r (coreFault s c e code addr detail) :=
  keeps_modCore (keeps_raiseCore h)

theorem keeps_engage {c e n} (h : Keeps r s) : Keeps r (engage s c e n) :=
  keeps_modCore h

theorem keeps_tokenWait {c e} (h : Keeps r s) : Keeps r (tokenWait s c e) :=
  keeps_modCore h

theorem keeps_issue {c e opc w f} (h : Keeps r s) (hf : ∀ i : Iss, Keeps r i.s → KeepsRes r (f i)) :
    Keeps r (issue s c e opc w f) := by
  unfold issue
  split
  · exact h
  · dsimp only
    split
    · exact keeps_coreFault h
    · refine keeps_ite (keeps_coreFault h) (keeps_ite h (keeps_ite (keeps_coreFault h)
        (keeps_ite (keeps_tokenWait h) (keeps_ite (keeps_coreFault h) ?_))))
      split
      · exact keeps_engage h
      · exact keeps_engage h
      · exact h
      · exact keeps_coreFault h
      · exact keeps_modCore ((hf _ (keeps_modCore h)).keeps ‹_›)

theorem keeps_countAct {f key n} (h : Keeps r s) : Keeps r (countAct s f key n) :=
  keeps_modFpow h

theorem keeps_dieStoreG {oda n v mask} (h : Keeps r s) : Keeps r (dieStoreG s oda n v mask) :=
  h.setMem (memsWf_dieStoreG s oda n v mask)

theorem keeps_putDie {c x} (h : Keeps r s) : Keeps r (putDie s c x) :=
  keeps_modFmem h

theorem keeps_landDie {x} (h : Keeps r s) : Keeps r (landDie s x) := by
  unfold landDie
  dsimp only
  split
  · exact keeps_dieStoreG h
  · exact keeps_dieStore h

theorem keeps_toSendQueue {k fl} (h : Keeps r s) : Keeps r (toSendQueue k fl s) :=
  keeps_modCore h

theorem keeps_toExchange {k x fl} (h : Keeps r s) : Keeps r (toExchange k x fl s) :=
  keeps_modCore h

theorem keeps_toDest {dst k x fl} (h : Keeps r s) : Keeps r (toDest dst k x fl s) :=
  keeps_ite (keeps_toSendQueue h) (keeps_toExchange h)

/-! ## Pacing -/

theorem keeps_oneSlot {g} (h : Keeps r i.s) : KeepsRes r (oneSlot i g) :=
  keepsRes_go (keeps_modCore h)

theorem keeps_effDelay (h : Keeps r i.s) : KeepsRes r (effDelay i) :=
  keepsRes_go h

theorem keeps_effAt (h : Keeps r i.s) : KeepsRes r (effAt i) :=
  keepsRes_go (keeps_modCore h)

theorem keeps_effYield (h : Keeps r i.s) : KeepsRes r (effYield i) :=
  keepsRes_go (keeps_modCore h)

theorem keeps_effSync (h : Keeps r i.s) : KeepsRes r (effSync i) :=
  keepsRes_go h

theorem keeps_owe {f o} (h : Keeps r s) : Keeps r (owe s f o) :=
  keeps_modFjob h

theorem keeps_syncIssue {c e w} (h : Keeps r s) : Keeps r (syncIssue s c e w) :=
  keeps_ite (keeps_owe (keeps_issue h (fun _ h => keeps_effSync h))) (keeps_issue h (fun _ h => keeps_effSync h))

theorem keeps_effLset (h : Keeps r i.s) : KeepsRes r (effLset i) :=
  keeps_oneSlot h

theorem keeps_effLend (h : Keeps r i.s) : KeepsRes r (effLend i) :=
  keepsRes_ite (keepsRes_go (keeps_modCore h)) (keepsRes_go (keeps_modCore h))

theorem keeps_effAset (h : Keeps r i.s) : KeepsRes r (effAset i) :=
  keeps_oneSlot h

theorem keeps_effAadd (h : Keeps r i.s) : KeepsRes r (effAadd i) :=
  keeps_oneSlot h

theorem keeps_completeAll {c e l} (h : Keeps r s) : Keeps r (completeAll c e l s) := by
  induction l generalizing s with
  | nil => exact h
  | cons x l ih => exact keeps_ite (keeps_coreFault h) (ih (keeps_modCore h))

theorem keeps_instructionComplete {c e} (h : Keeps r s) : Keeps r (instructionComplete s c e) :=
  keeps_ite h (keeps_completeAll (keeps_modCore h))

/-! ## Stem -/

theorem keeps_send {m} (h : Keeps r s) : Keeps r (send s m) :=
  keeps_mk h

theorem keeps_broadcast {addr flits} (h : Keeps r s) : Keeps r (broadcast s addr flits) :=
  keeps_mk h

theorem keeps_receive {m} (h : Keeps r s) : Keeps r (receive s m) :=
  keeps_mk h

theorem keeps_resay {m n} (h : Keeps r s) : Keeps r (resay s m n) :=
  keeps_mk h

/-! ## Cells -/

theorem keeps_onType {ty r' k} (h : Keeps r s) (hk : ∀ y0, Keeps r (k y0)) : Keeps r (onType ty r' s k) :=
  keeps_ite (hk _) h

/-! ## Complete -/

theorem keeps_postCpl {c} (h : Keeps r s) : Keeps r (postCpl s c) :=
  keeps_mk h

theorem keeps_finishCmd {c status g} (h : Keeps r s) : Keeps r (finishCmd s c status g) :=
  keeps_ite (keeps_mk h) (keeps_postCpl (keeps_mk h))

theorem keeps_finishJobCmds {opc n status g} (h : Keeps r s) : Keeps r (finishJobCmds s opc n status g) :=
  keeps_foldl h fun _ _ h => keeps_finishCmd h

theorem keeps_postAsync {c} (h : Keeps r s) : Keeps r (postAsync s c) :=
  keeps_ite (keeps_mk h) (keeps_postCpl h)

theorem keeps_postJob {a kind res0} (h : Keeps r s) : Keeps r (postJob s a kind res0) :=
  keeps_postAsync h

theorem keeps_msixDue {v} (h : Keeps r s) : Keeps r (msixDue s v) :=
  keeps_mk h

theorem keeps_enqueue {p cls cells ctx dst o} (h : Keeps r s) : Keeps r (enqueue s p cls cells ctx dst o) :=
  keeps_modPort (keeps_emit (keeps_mk_bup h))

theorem keeps_mirSend {p ty w} (h : Keeps r s) : Keeps r (mirSend s p ty w) :=
  keeps_enqueue h

theorem keeps_sendFail (h : Keeps r s) : Keeps r (sendFail s) :=
  keeps_foldl h fun _ _ h => keeps_mirSend h

theorem keeps_discardMirror {a} (h : Keeps r s) : Keeps r (discardMirror s a) := by
  unfold discardMirror
  dsimp only
  exact keeps_ite h (by
      split
      · exact keeps_modJob (keeps_mk h)
      · exact keeps_mirSend (keeps_modJob (keeps_mk h)))

/-! ## Links -/

theorem keeps_modXfer {f tag g} (h : Keeps r s) : Keeps r (modXfer s f tag g) :=
  keeps_modStr h

theorem keeps_failTransfer {key} (h : Keeps r s) : Keeps r (failTransfer s key) :=
  keeps_modXfer h

theorem keeps_finishCtxCmd {x opc status} (h : Keeps r s) : Keeps r (finishCtxCmd s x opc status) :=
  keeps_foldl h fun _ _ h => keeps_finishCmd h

theorem keeps_failCtx {x cause} (h : Keeps r s) : Keeps r (failCtx s x cause) :=
  keeps_ite h (keeps_raise (keeps_finishCtxCmd (keeps_finishCtxCmd (keeps_modCtx (keeps_mk_bup (keeps_modCtx
      (keeps_foldl h fun _ _ h => keeps_failTransfer h)))))))

theorem keeps_ctxSend {x ty g} (h : Keeps r s) : Keeps r (ctxSend s x ty g) := by
  unfold ctxSend
  exact keeps_ite h (keeps_ite (keeps_failCtx (keeps_raise h)) (by
      split
      · exact keeps_failCtx h
      · exact keeps_enqueue (keeps_modCtx h)))

theorem keeps_settleCtx {x} (h : Keeps r s) : Keeps r (settleCtx s x) :=
  keeps_ite h (keeps_finishCtxCmd (keeps_modCtx (keeps_mk_bup h)))

theorem keeps_closeCtx {x} (h : Keeps r s) : Keeps r (closeCtx s x) :=
  keeps_ite (keeps_finishCtxCmd (keeps_modCtx h)) (keeps_ite h (keeps_ite (keeps_ctxSend h) (keeps_settleCtx (keeps_finishCtxCmd (keeps_modCtx
      (keeps_ctxSend h))))))

theorem keeps_closeJobCtxs {a} (h : Keeps r s) : Keeps r (closeJobCtxs s a) :=
  keeps_foldl h fun _ _ h => keeps_closeCtx h

/-! ## Translate -/

theorem keeps_translate {f se asid dva} (h : Keeps r s) : Keeps r (Machine.translate s f se asid dva).2 := by
  unfold Machine.translate
  dsimp only
  split
  · exact h
  · split
    · exact h.of_sees rfl
    · split
      · exact h
      · exact h.of_sees rfl

theorem keeps_wakeChan {key} (h : Keeps r s) : Keeps r (wakeChan s key) :=
  keeps_mk_mem h

theorem keeps_nearPut {a b} (h : Keeps r s) : Keeps r (nearPut s a b) :=
  h.setMem (memsWf_nearPut s a b)

theorem keeps_farPut {a b} (h : Keeps r s) : Keeps r (farPut s a b) :=
  h.setMem (memsWf_farPut s a b)

/-! ## PithOps -/

theorem keeps_domPut {d x} (h : Keeps r s) : Keeps r (domPut s d x) :=
  keeps_ite h (keeps_mk h)

theorem keeps_modRec {q g} (h : Keeps r s) : Keeps r (modRec s q g) := by
  unfold modRec
  split
  · exact keeps_mk h
  · split
    · exact keeps_ite (keeps_mk h) h
    · exact h

theorem keeps_putRec {i' r'} (h : Keeps r s) : Keeps r (putRec s i' r') :=
  keeps_msixDue (keeps_mk h)

theorem keeps_freeSeq {q} (h : Keeps r s) : Keeps r (freeSeq s q) := by
  unfold freeSeq
  split
  · exact h
  · exact keeps_mk h

theorem keeps_countCe {m} (h : Keeps r s) : Keeps r (countCe s m) :=
  keeps_mk h

theorem keeps_logCorrected {m d link} (h : Keeps r s) : Keeps r (logCorrected s m d link) := by
  unfold logCorrected
  exact keeps_ite (by
      split
      · exact keeps_putRec (keeps_countCe h)
      · exact keeps_countCe h) (by
      split
      · exact keeps_modRec (keeps_countCe h)
      · split
        · exact keeps_putRec (keeps_countCe h)
        · exact keeps_countCe h)

theorem keeps_dropSeams {f a} (h : Keeps r s) : Keeps r (dropSeams s f a) := by
  unfold dropSeams
  exact keeps_foldl h fun _ _ h => by
      split
      · exact keeps_modNet (keeps_modNet h)
      · exact keeps_modNet h

theorem memsWf_clearDie {m : Mem} {un ck} (a n b k g l : Nat) (h : memsWf m = true) : memsWf { m with
    die := tabClear a n m.die, dieBr := tabClear b k m.dieBr, flips := tabClear g l m.flips, unckd := un, crcErr := ck } = true := by
  obtain ⟨hdie, hnear, hfar, hdb, hnb, hfb, hfl⟩ := (memsWf_iff m).1 h
  exact (memsWf_iff _).2 ⟨tabWf_clear _ _ _ _ hdie, hnear, hfar, tabWf_clear _ _ _ _ hdb, hnb, hfb, tabWf_clear _ _ _ _ hfl⟩

theorem keeps_clearDie {un ck} {a n b k g l : Nat} (h : Keeps r s) : Keeps r { s with mem := { s.mem with
    die := tabClear a n s.mem.die, dieBr := tabClear b k s.mem.dieBr, flips := tabClear g l s.mem.flips, unckd := un, crcErr := ck } } :=
  h.setMem (memsWf_clearDie _ _ _ _ _ _)

theorem keeps_leaveField {f a} (h : Keeps r s) : Keeps r (leaveField s f a) := by
  have hseams : Keeps r (dropSeams s f a) := keeps_dropSeams h
  unfold leaveField
  by_cases hw : hasWork s f a = true
  · have hmem := keeps_clearDie (a := f * 2 ^ 34) (n := 2 ^ 34) (b := f * 2 ^ 28) (k := 2 ^ 28) (g := f * 2 ^ 28) (l := 2 ^ 28)
      (un := tabClear (f * 2 ^ 22) (2 ^ 22) (modCores (dropSeams s f a) f fun _ c => idleCore c).mem.unckd)
      (ck := tabClear (f * 2 ^ 22) (2 ^ 22) (modCores (dropSeams s f a) f fun _ c => idleCore c).mem.crcErr)
      (keeps_modCores (f := f) (g := fun _ c => idleCore c) hseams)
    simp only [hw, if_true]
    exact keeps_modField (keeps_ite (keeps_mk hmem) hmem)
  · simp only [hw, if_false, Bool.false_eq_true]
    exact keeps_modField (keeps_ite (keeps_mk hseams) hseams)

theorem keeps_stopFieldJob {f a} (h : Keeps r s) : Keeps r (stopFieldJob s f a) :=
  keeps_modField (keeps_ite (keeps_modCores (keeps_dropSeams h)) (keeps_dropSeams h))

theorem keeps_sendPrepare {c} (h : Keeps r s) : Keeps r (sendPrepare s c) :=
  keeps_foldl (keeps_mk h) fun _ _ h => keeps_send h

theorem keeps_pump (h : Keeps r s) : Keeps r (pump s) := by
  unfold pump
  exact keeps_ite h (by
      split
      · exact h
      · exact keeps_ite (keeps_mk h) (keeps_sendPrepare (keeps_mk h)))

theorem keeps_pithPrepare {k arg} (h : Keeps r s) : Keeps r (pithPrepare s k arg) :=
  keeps_pump (keeps_mk h)

theorem keeps_abortOut {again} (h : Keeps r s) : Keeps r (abortOut s again) := by
  unfold abortOut
  split
  · exact h
  · exact keeps_foldl (keeps_mk h) fun _ _ h => keeps_send h

theorem keeps_dropJobChanges {a} (h : Keeps r s) : Keeps r (dropJobChanges s a) :=
  keeps_pump (keeps_mk (keeps_ite (keeps_abortOut h) h))

theorem keeps_handlingDone {d} (h : Keeps r s) : Keeps r (handlingDone s d) :=
  keeps_ite (keeps_freeSeq (keeps_domPut h)) (keeps_domPut h)

theorem keeps_granulesDone {f lo hi} (h : Keeps r s) : Keeps r (granulesDone s f lo hi) :=
  keeps_ite h (keeps_ite (keeps_handlingDone h) h)

theorem keeps_streamsDone {f} (h : Keeps r s) : Keeps r (streamsDone s f) :=
  keeps_ite h (keeps_handlingDone h)

theorem keeps_freeJob {a} (h : Keeps r s) : Keeps r (freeJob s a) :=
  keeps_mk_mem (keeps_modFields (keeps_closeJobCtxs (keeps_finishJobCmds h)))

theorem keeps_settleJob {a} (h : Keeps r s) : Keeps r (settleJob s a) :=
  keeps_ite (keeps_handlingDone h) (keeps_ite h (keeps_ite (keeps_ite (keeps_freeJob (keeps_foldl (keeps_foldl
      (keeps_handlingDone h) fun _ _ h => keeps_ite (keeps_handlingDone h) h) fun _ _ h => keeps_handlingDone (keeps_handlingDone
      (keeps_leaveField h)))) (keeps_foldl (keeps_foldl (keeps_handlingDone h) fun _ _ h => keeps_ite
      (keeps_handlingDone h) h) fun _ _ h => keeps_handlingDone (keeps_handlingDone (keeps_leaveField h)))) (keeps_foldl
      (keeps_handlingDone h) fun _ _ h => keeps_ite (keeps_handlingDone h) h)))

theorem keeps_settleFence {f} (h : Keeps r s) : Keeps r (settleFence s f) :=
  keeps_ite (keeps_handlingDone h) h

theorem keeps_settle (h : Keeps r s) : Keeps r (settle s) :=
  keeps_foldl (keeps_foldl h fun _ _ h => keeps_settleJob h) fun _ _ h => keeps_settleFence h

theorem keeps_oweHalt {a seq} (h : Keeps r s) : Keeps r (oweHalt a seq s) :=
  keeps_ite h (keeps_mk h)

theorem keeps_stopJob {a seq told} (h : Keeps r s) : Keeps r (stopJob s a seq told) :=
  keeps_ite (keeps_postJob (keeps_mk (keeps_modJob (keeps_finishJobCmds (keeps_finishJobCmds (keeps_discardMirror
      (keeps_dropJobChanges h))))))) (keeps_mk (keeps_modJob (keeps_finishJobCmds (keeps_finishJobCmds (keeps_discardMirror
      (keeps_dropJobChanges h))))))

theorem keeps_refreshLow (h : Keeps r s) : Keeps r (refreshLow s) :=
  keeps_modFields h

theorem keeps_enterSafe {seq} (h : Keeps r s) : Keeps r (enterSafe s seq) :=
  keeps_ite h (keeps_mk_mem (keeps_modFields (keeps_foldl (keeps_foldl (keeps_mk (keeps_abortOut (keeps_sendFail (keeps_refreshLow
      (keeps_mk_trs h))))) fun _ _ h => keeps_ite h (keeps_stopJob h)) fun _ _ h => keeps_foldl h fun _ _ h => keeps_leaveField
      (keeps_stopFieldJob h))))

theorem keeps_bumpGen (h : Keeps r s) : Keeps r (bumpGen s) :=
  keeps_mk h

theorem keeps_dropPart {u} (h : Keeps r s) : Keeps r (dropPart s u) := by
  unfold dropPart
  exact keeps_mk (by
      split
      · exact keeps_ite (keeps_pump (keeps_abortOut h)) h
      · exact h)

theorem keeps_losePair {cause} (h : Keeps r s) : Keeps r (losePair s cause) :=
  keeps_ite h (keeps_foldl (keeps_postAsync (keeps_raise (keeps_mk (keeps_ite (keeps_abortOut (keeps_mk h))
      (keeps_mk h))))) fun _ _ h => keeps_ite h (keeps_postJob (keeps_modJob h)))

theorem keeps_portQuit {p} (h : Keeps r s) : Keeps r (portQuit s p) := by
  unfold portQuit
  exact keeps_ite h (keeps_ite (keeps_foldl (keeps_modPort h) fun _ _ h => by
      split
      · exact keeps_modPort h
      · exact keeps_ite h (keeps_failCtx h)) (keeps_ite (keeps_losePair (keeps_raiseDie (keeps_foldl (keeps_modPort h) fun _ _ h => by
      split
      · exact keeps_modPort h
      · exact keeps_ite h (keeps_failCtx h)))) (keeps_raiseDie (keeps_foldl (keeps_modPort h) fun _ _ h => by
      split
      · exact keeps_modPort h
      · exact keeps_ite h (keeps_failCtx h)))))

theorem keeps_portLeave {p} (h : Keeps r s) : Keeps r (portLeave s p) :=
  keeps_ite (keeps_bumpGen (keeps_portQuit h)) h

theorem keeps_rindLeaves {d} (h : Keeps r s) : Keeps r (rindLeaves s d) :=
  keeps_bumpGen (keeps_ite (keeps_modCxlPort (keeps_ite (keeps_foldl (keeps_mk h) fun _ _ h => keeps_portQuit h) (keeps_mk h))) (keeps_ite
      (keeps_foldl (keeps_mk h) fun _ _ h => keeps_portQuit h) (keeps_mk h)))

theorem keeps_rindLost {d} (h : Keeps r s) : Keeps r (rindLost s d) := by
  unfold rindLost
  exact keeps_handlingDone (by
      split
      · exact keeps_dropPart h
      · exact h)

theorem keeps_consequence {d asid cls seq} (h : Keeps r s) : Keeps r (consequence s d asid cls seq) := by
  unfold consequence
  exact keeps_ite (keeps_enterSafe h) (keeps_ite (keeps_foldl (by
      split
      · exact keeps_rindLost (keeps_ite h (keeps_rindLeaves h))
      · exact h) fun _ _ h => keeps_oweHalt h) h)

theorem keeps_logUncorrected {m d link} (h : Keeps r s) : Keeps r (logUncorrected s m d link) := by
  unfold logUncorrected
  dsimp only
  exact keeps_ite (keeps_modRec h) (by
      split
      · exact keeps_consequence (keeps_domPut (keeps_putRec h))
      · split
        · exact keeps_enterSafe (keeps_consequence (keeps_domPut (keeps_mk h)))
        · exact keeps_mk h)

theorem keeps_logIn {m d link} (h : Keeps r s) : Keeps r (logIn s m d link) :=
  keeps_ite (keeps_logCorrected h) (keeps_logUncorrected h)

theorem keeps_pithEvent {code asid detail d link} (h : Keeps r s) : Keeps r (pithEvent s code asid detail d link) :=
  keeps_logIn h

theorem keeps_logEvent {m d link} (h : Keeps r s) : Keeps r (logEvent s m d link) :=
  keeps_ite (keeps_logIn h) (keeps_foldl (keeps_logIn h) fun _ _ h => keeps_pithEvent (keeps_modJob h))

theorem keeps_fenceHw {f cause} (h : Keeps r s) : Keeps r (fenceHw s f cause) :=
  keeps_modField (keeps_modCores h)

theorem keeps_logFence {f cause} (h : Keeps r s) : Keeps r (logFence s f cause) := by
  unfold logFence
  exact keeps_settle (by
      split
      · exact keeps_dropPart (keeps_foldl (keeps_logEvent (keeps_bumpGen h)) fun _ _ h => keeps_logEvent h)
      · exact keeps_foldl (keeps_logEvent (keeps_bumpGen h)) fun _ _ h => keeps_logEvent h)

/-! ## YieldOps -/

theorem keeps_retarget {f} (h : Keeps r s) : Keeps r (retarget s f) := by
  unfold retarget
  exact keeps_modFpow h

theorem keeps_commitCap (h : Keeps r s) : Keeps r (commitCap s) :=
  keeps_ite h (keeps_pithPrepare h)

theorem keeps_dueEntry {e} (h : Keeps r s) : Keeps r (dueEntry s e) :=
  keeps_mk h

theorem keeps_condemn {c lane} (h : Keeps r s) : Keeps r (condemn s c lane) := by
  unfold condemn
  dsimp only
  split
  · exact keeps_bumpGen (keeps_modCond (keeps_mk (keeps_modCore h)))
  · split <;> exact keeps_dueEntry (keeps_bumpGen (keeps_modCond (keeps_mk (keeps_modCore h))))

theorem keeps_countCorrected {oda} (h : Keeps r s) : Keeps r (countCorrected s oda) := by
  unfold countCorrected
  exact keeps_ite (keeps_modFmem h) (keeps_ite (by
      split
      · exact keeps_dueEntry (keeps_bumpGen (keeps_modCond (keeps_modFmem h)))
      · exact keeps_bumpGen (keeps_modCond (keeps_modFmem h))) (keeps_ite (keeps_bumpGen (keeps_modCond (keeps_modFmem h))) (keeps_dueEntry
          (keeps_bumpGen (keeps_modCond (keeps_modFmem h))))))

theorem keeps_retireField {f cause} (h : Keeps r s) : Keeps r (retireField s f cause) :=
  keeps_dueEntry h

/-! ## Boundary -/

theorem keeps_settleConv (h : Keeps r s) : Keeps r (settleConv s) :=
  keeps_ite h (keeps_refreshLow (keeps_mk h))

theorem keeps_noteApplied {u csn} (h : Keeps r s) : Keeps r (noteApplied s u csn) :=
  keeps_settleConv (keeps_mk h)

theorem keeps_setJobPolicy {a w} (h : Keeps r s) : Keeps r (setJobPolicy s a w) :=
  keeps_modJob h

theorem keeps_applyField {f c} (h : Keeps r s) : Keeps r (applyField f s c) := by
  unfold applyField
  dsimp only
  split
  · exact keeps_noteApplied (by
        split
        · exact keeps_modFclk h
        · exact keeps_modFclk h
        · exact keeps_modFpow h
        · exact keeps_modNet h
        · exact keeps_modFjob h
        · exact keeps_ite h (keeps_modField h)
        · exact keeps_ite h (keeps_modField h)
        · exact keeps_modFjob h
        · exact keeps_ite (keeps_modFjob h) (keeps_modFjob h)
        · exact keeps_modFjob h)
  · split
    · exact keeps_modFclk h
    · exact keeps_modFclk h
    · exact keeps_modFpow h
    · exact keeps_modNet h
    · exact keeps_modFjob h
    · exact keeps_ite h (keeps_modField h)
    · exact keeps_ite h (keeps_modField h)
    · exact keeps_modFjob h
    · exact keeps_ite (keeps_modFjob h) (keeps_modFjob h)
    · exact keeps_modFjob h

theorem keeps_applyStaged {f} (h : Keeps r s) : Keeps r (applyStaged s f) :=
  keeps_ite h (keeps_retarget (keeps_modFclk (keeps_foldl h fun _ _ h => keeps_applyField h)))

theorem keeps_enableSeams {f} (h : Keeps r s) : Keeps r (enableSeams s f) := by
  unfold enableSeams
  exact keeps_foldl h fun _ _ h => keeps_ite h (keeps_foldl h fun _ _ h => by
      split
      · exact keeps_ite (keeps_modNet h) h
      · exact h)

theorem keeps_modTasks {f g} (h : Keeps r s) : Keeps r (modTasks s f g) :=
  keeps_modCores h

theorem keeps_quietBarrier {f} (h : Keeps r s) : Keeps r (quietBarrier s f) :=
  keeps_foldl h fun _ _ h => keeps_ite (keeps_modNet h) h

theorem keeps_syncComplete {f t} (h : Keeps r s) : Keeps r (syncComplete s f t) :=
  keeps_modCores (keeps_foldl h fun _ _ h => keeps_foldl h fun _ _ h => keeps_completeAll (keeps_modCore h))

theorem keeps_releaseBarrier {f} (h : Keeps r s) : Keeps r (releaseBarrier s f) := by
  unfold releaseBarrier
  exact keeps_foldl h fun _ _ h => keeps_ite h (keeps_modField (keeps_ite (by
      split
      · exact keeps_syncComplete (keeps_modTasks h)
      · exact keeps_modTasks h) h))

theorem keeps_stopStreams {f a} (h : Keeps r s) : Keeps r (stopStreams s f a) :=
  keeps_modField h

theorem keeps_sendReports {f a y mirror bs} (h : Keeps r s) : Keeps r (sendReports s f a y mirror bs) :=
  keeps_foldl h fun _ _ h => keeps_owe h

theorem keeps_syncStops {f} (h : Keeps r s) : Keeps r (syncStops s f) :=
  keeps_ite h (keeps_sendReports (keeps_modJob (keeps_modFjob (keeps_stopStreams (keeps_modCores h)))))

theorem keeps_countYield {f a y} (h : Keeps r s) : Keeps r (countYield s f a y) :=
  keeps_ite (keeps_modFjob (keeps_ite h (keeps_ite (keeps_modFjob h) (keeps_setJobPolicy (keeps_modFjob (keeps_modFjob h)))))) (keeps_ite h
      (keeps_ite (keeps_modFjob h) (keeps_setJobPolicy (keeps_modFjob (keeps_modFjob h)))))

theorem keeps_decideYield {f} (h : Keeps r s) : Keeps r (decideYield s f) := by
  unfold decideYield
  dsimp only
  split
  · exact h
  · exact keeps_ite (keeps_sendReports (keeps_ite (keeps_countYield (keeps_ite (keeps_stopStreams (keeps_modTasks h)) (keeps_modTasks h)))
      (keeps_ite (keeps_stopStreams (keeps_modTasks h)) (keeps_modTasks h)))) (keeps_ite (keeps_sendReports (keeps_ite (keeps_countYield
      (keeps_ite (keeps_stopStreams (keeps_modTasks h)) (keeps_modTasks h))) (keeps_ite (keeps_stopStreams (keeps_modTasks h))
      (keeps_modTasks h)))) (keeps_ite (keeps_countYield (keeps_ite (keeps_stopStreams (keeps_modTasks h)) (keeps_modTasks h))) (keeps_ite
      (keeps_stopStreams (keeps_modTasks h)) (keeps_modTasks h))))

theorem keeps_reachSlot {f} (h : Keeps r s) : Keeps r (reachSlot s f) :=
  keeps_ite (keeps_decideYield (keeps_syncStops h)) (keeps_ite (keeps_applyStaged h) (keeps_decideYield (keeps_releaseBarrier (keeps_syncStops
      (keeps_quietBarrier (keeps_enableSeams (keeps_applyStaged h)))))))

/-! ## Commit -/

theorem keeps_putStaged {u l} (h : Keeps r s) : Keeps r (putStaged s u l) := by
  unfold putStaged
  split
  · exact keeps_modFclk h
  · exact keeps_mk h
  · exact keeps_mk h
  · exact keeps_mk h

theorem keeps_refreshStaged (h : Keeps r s) : Keeps r (refreshStaged s) :=
  keeps_foldl (keeps_mk h) fun _ _ h => keeps_modJob h

theorem keeps_retargetPart {u} (h : Keeps r s) : Keeps r (retargetPart s u) := by
  unfold retargetPart
  split
  · exact keeps_retarget h
  · exact h

theorem keeps_prepareIn {u csn k arg epoch} (h : Keeps r s) : Keeps r (prepareIn s u csn k arg epoch) :=
  keeps_ite (keeps_receive h) (keeps_send (keeps_ite (keeps_refreshStaged (keeps_retargetPart (keeps_putStaged (keeps_receive h))))
      (keeps_receive h)))

theorem keeps_abortIn {u csn epoch} (h : Keeps r s) : Keeps r (abortIn s u csn epoch) := by
  unfold abortIn
  exact keeps_ite (keeps_receive h) (by
      split
      · exact keeps_ite (keeps_reachSlot (keeps_refreshStaged (keeps_retargetPart (keeps_mk (keeps_putStaged (keeps_receive h))))))
          (keeps_refreshStaged (keeps_retargetPart (keeps_mk (keeps_putStaged (keeps_receive h)))))
      · exact keeps_refreshStaged (keeps_retargetPart (keeps_mk (keeps_putStaged (keeps_receive h)))))

theorem keeps_applyRoot {c} (h : Keeps r s) : Keeps r (applyRoot s c) :=
  keeps_noteApplied (keeps_mk h)

theorem keeps_applyRind {d c} (h : Keeps r s) : Keeps r (applyRind d s c) := by
  unfold applyRind
  exact keeps_noteApplied (by
      split
      · exact keeps_mk h
      · exact keeps_mk h
      · exact h)

theorem keeps_applyMirror {c} (h : Keeps r s) : Keeps r (applyMirror s c) := by
  unfold applyMirror
  dsimp only
  exact keeps_noteApplied (keeps_ite h (by
      split
      · exact keeps_mirSend (keeps_modJob h)
      · exact keeps_modJob h))

theorem keeps_applyPart {u g} (h : Keeps r s) (hg : ∀ y0 y1, Keeps r y0 → Keeps r (g y0 y1)) : Keeps r (applyPart s u g) :=
  keeps_ite h (keeps_putStaged (keeps_foldl h fun _ _ h => hg _ _ h))

theorem keeps_applyActive (h : Keeps r s) : Keeps r (applyActive s) := by
  unfold applyActive
  exact keeps_foldl h fun _ _ h => by
      split
      · exact keeps_mk h
      · exact keeps_ite h (keeps_setJobPolicy h)
      · exact h

theorem keeps_resumeDone (h : Keeps r s) : Keeps r (resumeDone s) :=
  keeps_foldl h fun _ _ h => keeps_ite h (keeps_ite (keeps_finishJobCmds (keeps_modJob h)) (keeps_mk (keeps_foldl (keeps_finishJobCmds
      (keeps_modJob h)) fun _ _ h => keeps_finishCmd h)))

theorem keeps_applyNominal (h : Keeps r s) : Keeps r (applyNominal s) := by
  unfold applyNominal
  exact keeps_refreshStaged (keeps_applyPart (keeps_foldl (keeps_applyPart (keeps_resumeDone (keeps_applyActive h))
      (fun _ _ h => keeps_applyRoot h)) fun _ _ h => by
      split
      · exact keeps_applyPart h (fun _ _ h => keeps_applyRind h)
      · exact h) (fun _ _ h => keeps_applyMirror h))

theorem keeps_refTick (h : Keeps r s) : Keeps r (refTick s) :=
  keeps_ite (keeps_ite (keeps_mk (keeps_mk h)) (keeps_mk h)) (keeps_ite (keeps_mk (keeps_modFields (keeps_ite (keeps_mk (keeps_mk h))
      (keeps_mk h)))) (keeps_applyNominal (keeps_mk (keeps_modFields (keeps_ite (keeps_mk (keeps_mk h)) (keeps_mk h))))))

theorem keeps_commitLate {u csn} (h : Keeps r s) : Keeps r (commitLate s u csn) := by
  unfold commitLate
  split
  · exact keeps_send (keeps_fenceHw (keeps_raiseField (keeps_putStaged h)))
  · exact keeps_raiseDie (keeps_putStaged h)
  · exact keeps_raiseDie (keeps_putStaged h)
  · exact keeps_raise (keeps_putStaged h)

theorem keeps_commitIn {u csn epoch} (h : Keeps r s) : Keeps r (commitIn s u csn epoch) := by
  unfold commitIn
  exact keeps_ite (keeps_receive h) (keeps_ite (keeps_commitLate (keeps_receive h)) (keeps_ite (keeps_putStaged (keeps_receive h)) (by
      split
      · exact keeps_ite (keeps_reachSlot (keeps_putStaged (keeps_receive h))) (keeps_putStaged (keeps_receive h))
      · exact keeps_applyNominal (keeps_putStaged (keeps_receive h)))))

theorem keeps_powerSetDone (h : Keeps r s) : Keeps r (powerSetDone s) :=
  keeps_ite h (keeps_foldl h fun _ _ h => keeps_finishCmd h)

theorem keeps_decideCommit {c} (h : Keeps r s) : Keeps r (decideCommit s c) :=
  keeps_pump (keeps_foldl (keeps_mk h) fun _ _ h => keeps_send h)

theorem keeps_ackIn {u csn st} (h : Keeps r s) : Keeps r (ackIn s u csn st) := by
  unfold ackIn
  dsimp only
  exact keeps_ite h (by
      split
      · exact keeps_receive h
      · exact keeps_ite (keeps_receive h) (by
            split
            · exact keeps_ite (keeps_refreshStaged (keeps_mk (keeps_receive h))) (keeps_refreshStaged (keeps_powerSetDone (keeps_decideCommit
                (keeps_receive h))))
            · exact keeps_refreshStaged (keeps_powerSetDone (keeps_pump (by
                  split
                  · exact keeps_mk (keeps_abortOut (keeps_receive h))
                  · exact keeps_abortOut (keeps_receive h))))
            · exact keeps_refreshStaged (keeps_pump (keeps_abortOut (keeps_receive h)))
            · exact keeps_refreshStaged (keeps_pump (keeps_abortOut (keeps_receive h)))))

theorem keeps_ackDeadline (h : Keeps r s) : Keeps r (ackDeadline s) := by
  unfold ackDeadline
  split
  · exact h
  · exact keeps_ite h (keeps_refreshStaged (keeps_pump (keeps_abortOut h)))

theorem keeps_commitWaitTimeout {u} (h : Keeps r s) : Keeps r (commitWaitTimeout s u) := by
  unfold commitWaitTimeout
  exact keeps_ite h (by
      split
      · exact keeps_logFence (keeps_fenceHw h)
      · exact h)

theorem keeps_reprepare (h : Keeps r s) : Keeps r (reprepare s) := by
  unfold reprepare
  dsimp only
  exact keeps_ite h (by
      split
      · exact keeps_powerSetDone (keeps_mk h)
      · exact keeps_ite (keeps_powerSetDone (keeps_mk h)) (keeps_sendPrepare (keeps_mk h)))

theorem keeps_barrierArrive {a b f bun} (h : Keeps r s) : Keeps r (barrierArrive s a b f bun) :=
  keeps_ite (keeps_receive h) (keeps_ite (keeps_broadcast (keeps_modJob (keeps_receive h))) (keeps_modJob (keeps_receive h)))

theorem keeps_barrierRelease {f a b epoch} (h : Keeps r s) : Keeps r (barrierRelease s f a b epoch) :=
  keeps_ite (keeps_receive h) (keeps_modFjob (keeps_receive h))

/-! ## BupolOps -/

theorem keeps_meterUse {p m} (h : Keeps r s) : Keeps r (meterUse s p m) :=
  keeps_foldl h fun _ _ h => keeps_modPort h

theorem keeps_meterRefill {p} (h : Keeps r s) : Keeps r (meterRefill s p) :=
  keeps_foldl h fun _ _ h => keeps_modPort h

theorem keeps_nextData {p} (h : Keeps r s) : KeepsSnd r (nextData s p) := by
  unfold nextData
  dsimp only
  split
  · exact keepsSnd_some (keeps_modPort h)
  · split
    · exact keepsSnd_some (keeps_modPort h)
    · exact keepsSnd_none

theorem keeps_nextMsg {p} (h : Keeps r s) : KeepsSnd r (nextMsg s p) := by
  unfold nextMsg
  dsimp only
  split
  · exact keepsSnd_some (keeps_modPort h)
  · split
    · exact keepsSnd_some (keeps_modPort h)
    · exact keeps_nextData h

theorem keeps_fillFrame {p n cells l} (h : Keeps r s) : Keeps r (fillFrame p n cells l s).2 := by
  induction n generalizing cells l s with
  | zero => exact h
  | succ n ih =>
    unfold fillFrame
    split
    · exact h
    · split
      · exact h
      · have hm := keeps_meterUse (p := p) (m := ‹_›) (keepsOpt_snd (keeps_nextMsg h) ‹_›)
        dsimp only
        split
        · exact ih hm
        · exact keeps_modPort (r := r) hm

theorem keeps_startRetrain {p} (h : Keeps r s) : Keeps r (startRetrain s p) :=
  keeps_ite h (keeps_raiseDie (keeps_modPort (keeps_portLeave h)))

theorem keeps_emitFrame {p idle fseq} (h : Keeps r s) : Keeps r (emitFrame s p idle fseq) :=
  keeps_modPort (keeps_emit h)

theorem keeps_frameSend {p} (h : Keeps r s) : Keeps r (frameSend s p) := by
  unfold frameSend
  dsimp only
  exact keeps_ite h (keeps_ite (by
      split
      · exact keeps_modPort (keeps_meterRefill h)
      · exact keeps_ite (keeps_startRetrain (keeps_meterRefill h)) (keeps_modPort (keeps_emitFrame (keeps_meterRefill h)))) (keeps_ite
          (keeps_emitFrame (keeps_meterRefill h)) (keeps_ite (keeps_emitFrame (keeps_fillFrame (keeps_modPort (keeps_meterRefill h))))
          (keeps_modPort (keeps_emitFrame (keeps_fillFrame (keeps_modPort (keeps_meterRefill h))))))))

theorem keeps_takeFrameAck {p fr} (h : Keeps r s) : Keeps r (takeFrameAck s p fr) :=
  keeps_modPort h

theorem keeps_linkFrame {p fr} (h : Keeps r s) : Keeps r (linkFrame s p fr) :=
  keeps_ite h (keeps_ite (keeps_modPort h) (keeps_ite (keeps_takeFrameAck h) (keeps_ite (keeps_modPort (keeps_takeFrameAck h)) (keeps_ite
      (keeps_modPort (keeps_takeFrameAck h)) (keeps_raiseDie (keeps_mk_bup (keeps_modPort (keeps_takeFrameAck h))))))))

theorem keeps_acceptMsg {p m} (h : Keeps r s) : KeepsOpt r (acceptMsg s p m) :=
  keepsOpt_ite keepsOpt_none (keepsOpt_some (keeps_modCtx h))

theorem keeps_denyRemote {x} (h : Keeps r s) : Keeps r (denyRemote s x) :=
  keeps_raise (keeps_mk_bup h)

theorem keeps_inboundWrite {e a b} (h : Keeps r s) : Keeps r (inboundWrite s e a b) :=
  keeps_ite (keeps_nearPut h) (keeps_farPut h)

/-! ## Errors -/

theorem keeps_stemType {src header} (h : Keeps r s) : Keeps r (stemType s src header) :=
  keeps_ite (keeps_raise h) h

theorem keeps_countTransient {c m} (h : Keeps r s) : Keeps r (countTransient s c m) := by
  unfold countTransient
  exact keeps_ite (keeps_modCore h) (by
      split
      · exact keeps_condemn (keeps_modCore h)
      · exact keeps_ite (keeps_condemn (keeps_modCore h)) (keeps_condemn (keeps_modCore h)))

theorem keeps_errorEvent {m} (h : Keeps r s) : Keeps r (errorEvent s m) := by
  unfold errorEvent
  exact keeps_ite h (keeps_ite (keeps_mk h) (keeps_settle (by
      split
      · exact keeps_ite (keeps_handlingDone (by
            split
            · exact keeps_ite (keeps_rindLost (by
                  split
                  · exact keeps_ite (keeps_countTransient (keeps_logEvent (keeps_mk h))) (keeps_ite (keeps_modCond (keeps_logEvent
                      (keeps_mk h))) (keeps_logEvent (keeps_mk h)))
                  · exact keeps_logEvent (keeps_mk h))) (by
                  split
                  · exact keeps_ite (keeps_countTransient (keeps_logEvent (keeps_mk h))) (keeps_ite (keeps_modCond (keeps_logEvent
                      (keeps_mk h))) (keeps_logEvent (keeps_mk h)))
                  · exact keeps_logEvent (keeps_mk h))
            · split
              · exact keeps_ite (keeps_countTransient (keeps_logEvent (keeps_mk h))) (keeps_ite (keeps_modCond (keeps_logEvent (keeps_mk h)))
                  (keeps_logEvent (keeps_mk h)))
              · exact keeps_logEvent (keeps_mk h))) (by
            split
            · exact keeps_ite (keeps_rindLost (by
                  split
                  · exact keeps_ite (keeps_countTransient (keeps_logEvent (keeps_mk h))) (keeps_ite (keeps_modCond (keeps_logEvent
                      (keeps_mk h))) (keeps_logEvent (keeps_mk h)))
                  · exact keeps_logEvent (keeps_mk h))) (by
                  split
                  · exact keeps_ite (keeps_countTransient (keeps_logEvent (keeps_mk h))) (keeps_ite (keeps_modCond (keeps_logEvent
                      (keeps_mk h))) (keeps_logEvent (keeps_mk h)))
                  · exact keeps_logEvent (keeps_mk h))
            · split
              · exact keeps_ite (keeps_countTransient (keeps_logEvent (keeps_mk h))) (keeps_ite (keeps_modCond (keeps_logEvent (keeps_mk h)))
                  (keeps_logEvent (keeps_mk h)))
              · exact keeps_logEvent (keeps_mk h))
      · split
        · exact keeps_ite (keeps_rindLost (by
              split
              · exact keeps_ite (keeps_countTransient (keeps_logEvent (keeps_mk h))) (keeps_ite (keeps_modCond (keeps_logEvent (keeps_mk h)))
                  (keeps_logEvent (keeps_mk h)))
              · exact keeps_logEvent (keeps_mk h))) (by
              split
              · exact keeps_ite (keeps_countTransient (keeps_logEvent (keeps_mk h))) (keeps_ite (keeps_modCond (keeps_logEvent (keeps_mk h)))
                  (keeps_logEvent (keeps_mk h)))
              · exact keeps_logEvent (keeps_mk h))
        · split
          · exact keeps_ite (keeps_countTransient (keeps_logEvent (keeps_mk h))) (keeps_ite (keeps_modCond (keeps_logEvent (keeps_mk h)))
              (keeps_logEvent (keeps_mk h)))
          · exact keeps_logEvent (keeps_mk h))))

theorem keeps_fenceNotice {f cause} (h : Keeps r s) : Keeps r (fenceNotice s f cause) :=
  keeps_ite h (keeps_ite (keeps_logFence (keeps_receive h)) (keeps_logEvent (keeps_receive h)))

theorem keeps_gateStatus {f cause asid slot} (h : Keeps r s) : Keeps r (gateStatus s f cause asid slot) :=
  keeps_ite h (keeps_ite (keeps_settle (keeps_modJob (keeps_receive h))) (keeps_ite (keeps_logEvent (keeps_receive h)) (keeps_ite (keeps_ite
      (keeps_foldl (keeps_receive h) fun _ _ h => keeps_send h) (keeps_mk (keeps_foldl (keeps_receive h) fun _ _ h => keeps_send h)))
      (keeps_receive h))))

theorem keeps_haltField {f asid} (h : Keeps r s) : Keeps r (haltField s f asid) :=
  keeps_ite (keeps_receive h) (keeps_send (keeps_send (keeps_stopFieldJob (keeps_receive h))))

theorem keeps_sendHalt {a} (h : Keeps r s) : Keeps r (sendHalt s a) :=
  keeps_broadcast h

theorem keeps_jobHalt {a} (h : Keeps r s) : Keeps r (jobHalt s a) := by
  unfold jobHalt
  exact keeps_ite h (by
      split
      · exact h
      · exact keeps_settle (keeps_stopJob (keeps_sendHalt h)))

theorem keeps_handlingTimeout {d} (h : Keeps r s) : Keeps r (handlingTimeout s d) := by
  unfold handlingTimeout
  exact keeps_ite h (keeps_settle (keeps_consequence (keeps_domPut (by
      split
      · exact keeps_putRec h
      · split <;> exact keeps_mk h))))

theorem keeps_failDiag {c other m} (h : Keeps r s) : Keeps r (failDiag s c other m) := by
  unfold failDiag
  exact keeps_ite (keeps_condemn h) (by
      split
      · exact h
      · split
        · exact keeps_condemn h
        · exact keeps_dueEntry (keeps_modCond h))

theorem keeps_diagnosis {c o} (h : Keeps r s) : Keeps r (diagnosis s c o) := by
  unfold diagnosis
  exact keeps_ite h (keeps_settle (keeps_handlingDone (keeps_modCond (by
      split
      · exact keeps_foldl (keeps_modCond (keeps_condemn (keeps_logEvent h))) fun _ _ h => keeps_failDiag h
      · exact keeps_condemn (keeps_logEvent h)))))

theorem keeps_rindFailed {die} (h : Keeps r s) : Keeps r (rindFailed s die) :=
  keeps_ite h (keeps_raiseDie (keeps_rindLeaves h))

/-! ## Sram -/

theorem keeps_raiseAt {f oda code} (h : Keeps r s) : Keeps r (raiseAt s f oda code) :=
  keeps_ite (keeps_raiseCore h) (keeps_raiseField h)

theorem keeps_readGranule {f g} (h : Keeps r s) : Keeps r (readGranule f s g) := by
  have hs : Keeps r ((softWords (flipsOf s.mem g)).foldl (fun s _ => countCorrected (raiseAt s f (64 * g) 0x0001) (64 * g)) s) :=
    keeps_foldl h fun _ _ h => keeps_countCorrected (keeps_raiseAt h)
  exact keeps_ite hs (keeps_raiseAt (hs.setMem fun hm => memsWf_die hm (wf_die hm) (brWf_set _ _ _ (wf_dieBr hm))))

theorem keeps_noteRead {f oda n} (h : Keeps r s) : Keeps r (noteRead s f oda n) :=
  keeps_ite h (keeps_foldl h fun _ _ h => keeps_readGranule h)

theorem keeps_putWord {blk w} (h : Keeps r s) : Keeps r (putWord s blk w) :=
  keeps_mk_mem h

theorem memsWf_changeUnseen (m : Mem) (g d : Nat) (h : memsWf m = true) : memsWf (changeUnseen m g d) = true := by
  unfold changeUnseen
  split
  · exact h
  · exact memsWf_die h (memWf_write _ _ _ _ (wf_die h)) (wf_dieBr h)

theorem changeUnseen_dieBr (m : Mem) (g d : Nat) : (changeUnseen m g d).dieBr = m.dieBr := by
  unfold changeUnseen
  split <;> rfl

theorem keeps_flipBits {oda bits} (h : Keeps r s) : Keeps r (flipBits s oda bits) := by
  refine h.setMem fun hm => ?_
  obtain ⟨hdie, hnear, hfar, hbr, hrest⟩ := (memsWf_iff _).1 (memsWf_changeUnseen s.mem (oda / 64) _ hm)
  rw [changeUnseen_dieBr] at hbr
  refine (memsWf_iff _).2 ⟨hdie, hnear, hfar, ?_, hrest.1, hrest.2.1, tabWf_put _ _ _ _ (wf_flips hm)⟩
  dsimp only
  split
  · exact hbr
  · exact brWf_set _ _ _ hbr

theorem keeps_missBits {oda bits} (h : Keeps r s) : Keeps r (missBits s oda bits) :=
  h.setMem (memsWf_changeUnseen s.mem _ _)

theorem keeps_flipWordBits {oda bits} (h : Keeps r s) : Keeps r (flipWordBits s oda bits) :=
  keeps_mk_mem h

theorem memsWf_flips {m : Mem} {fl : Tab (List Nat)} (h : memsWf m = true) (hf : tabWf [] fl = true) : memsWf { m with flips := fl } = true := by
  obtain ⟨hdie, hnear, hfar, hdb, hnb, hfb, -⟩ := (memsWf_iff _).1 h
  exact (memsWf_iff _).2 ⟨hdie, hnear, hfar, hdb, hnb, hfb, hf⟩

theorem keeps_scrubBack {g} (h : Keeps r s) : Keeps r (scrubBack s g) :=
  h.setMem fun hm => memsWf_flips hm (tabWf_put _ _ _ _ (wf_flips hm))

/-! ## VectorOps -/

theorem keeps_vecGo {wait read consume occ lat ws fl slot lanes fwd g} (h : Keeps r i.s) : KeepsRes r
    (vecGo i wait read consume occ lat ws fl slot lanes fwd g) :=
  keepsRes_ite keepsRes_holdTo (keepsRes_ite keepsRes_fault (keepsRes_go (keeps_countAct (keeps_modCore h))))

theorem keeps_effLanes {useC lat f} (h : Keeps r i.s) : KeepsRes r (effLanes i useC lat f) := by
  unfold effLanes
  exact keeps_vecGo h

theorem keeps_effCvt (h : Keeps r i.s) : KeepsRes r (effCvt i) := by
  unfold effCvt
  exact keeps_vecGo h

theorem keeps_effMxsc (h : Keeps r i.s) : KeepsRes r (effMxsc i) := by
  unfold effMxsc
  exact keeps_vecGo h

theorem keeps_effSpec (h : Keeps r i.s) : KeepsRes r (effSpec i) := by
  unfold effSpec
  exact keeps_vecGo h

theorem keeps_effCarry {useB useC f} (h : Keeps r i.s) : KeepsRes r (effCarry i useB useC f) := by
  unfold effCarry
  exact keeps_vecGo h

theorem keeps_effSel (h : Keeps r i.s) : KeepsRes r (effSel i) := by
  unfold effSel
  exact keeps_vecGo h

theorem keeps_effFill {v g} (h : Keeps r i.s) : KeepsRes r (effFill i v g) :=
  keeps_vecGo h

theorem keeps_effMovi (h : Keeps r i.s) : KeepsRes r (effMovi i) :=
  keeps_effFill h

theorem keeps_effFget (h : Keeps r i.s) : KeepsRes r (effFget i) :=
  keeps_effFill h

theorem keeps_effGen (h : Keeps r i.s) : KeepsRes r (effGen i) :=
  keepsRes_go (keeps_modCore h)

theorem keeps_effBcast (h : Keeps r i.s) : KeepsRes r (effBcast i) := by
  unfold effBcast
  exact keeps_vecGo h

theorem keeps_effShuf (h : Keeps r i.s) : KeepsRes r (effShuf i) := by
  unfold effShuf
  exact keeps_vecGo h

theorem keeps_effTopk (h : Keeps r i.s) : KeepsRes r (effTopk i) := by
  unfold effTopk
  exact keeps_vecGo h

theorem keeps_effRand (h : Keeps r i.s) : KeepsRes r (effRand i) := by
  unfold effRand
  exact keeps_vecGo h

theorem keeps_effDropm (h : Keeps r i.s) : KeepsRes r (effDropm i) := by
  unfold effDropm
  exact keeps_vecGo h

theorem keeps_effWcvt (h : Keeps r i.s) : KeepsRes r (effWcvt i) := by
  unfold effWcvt
  exact keeps_vecGo h

theorem keeps_effWacc (h : Keeps r i.s) : KeepsRes r (effWacc i) := by
  unfold effWacc
  exact keeps_vecGo h

theorem keeps_effWadd (h : Keeps r i.s) : KeepsRes r (effWadd i) := by
  unfold effWadd
  exact keeps_vecGo h

theorem keeps_effWrsum (h : Keeps r i.s) : KeepsRes r (effWrsum i) := by
  unfold effWrsum
  exact keeps_vecGo h

theorem keeps_effWout (h : Keeps r i.s) : KeepsRes r (effWout i) := by
  unfold effWout
  exact keeps_vecGo h

theorem keeps_effWranc (h : Keeps r i.s) : KeepsRes r (effWranc i) := by
  unfold effWranc
  exact keeps_vecGo h

theorem keeps_effFrsum (h : Keeps r i.s) : KeepsRes r (effFrsum i) := by
  unfold effFrsum
  exact keeps_vecGo h

theorem keeps_effFscan (h : Keeps r i.s) : KeepsRes r (effFscan i) := by
  unfold effFscan
  exact keeps_vecGo h

theorem keeps_effFdot (h : Keeps r i.s) : KeepsRes r (effFdot i) := by
  unfold effFdot
  exact keeps_vecGo h

/-! ## Units -/

theorem keeps_xGet {k r' t} (h : Keeps r s) : Keeps r (xGet s k r' t).2 := by
  unfold xGet
  split
  · exact h
  · split
    · exact h
    · exact keeps_mk h

theorem keeps_xPut {k r' v rdy} (h : Keeps r s) : Keeps r (xPut k r' v rdy s) :=
  keeps_ite h (keeps_modCore h)

theorem keeps_readItem {c p u v br} (h : Keeps r s) : Keeps r (readItem s c p u v br) :=
  keeps_ite (keeps_modCore h) (keeps_ite (keeps_toSendQueue h) (keeps_toDest h))

theorem keeps_unitNote {c p} (h : Keeps r s) : Keeps r (unitNote s c p) := by
  unfold unitNote
  split
  · exact keeps_noteRead h
  · exact h

theorem keeps_endUnits {c e p u} (h : Keeps r s) : Keeps r (endUnits s c e p u) :=
  keeps_modCore h

theorem keeps_holdUnit {c e p} (h : Keeps r s) : Keeps r (holdUnit s c e p) :=
  keeps_modCore h

theorem keepsUnit_moved {p} (h : Keeps r s) : KeepsUnit r (.moved s p) := ⟨by intro _ _ ht; cases ht; exact h⟩

theorem keepsUnit_held : KeepsUnit r .held := ⟨by intro _ _ ht; cases ht⟩

theorem keepsUnit_bruised {a} : KeepsUnit r (.bruised a) := ⟨by intro _ _ ht; cases ht⟩

theorem keepsUnit_ite {c : Prop} [Decidable c] {a b : UnitRes} (ha : KeepsUnit r a) (hb : KeepsUnit r b) : KeepsUnit r (if c then a else b) := by
  split <;> assumption

theorem keeps_rqUnit {c p u} (h : Keeps r s) : KeepsUnit r (rqUnit s c p u) :=
  keepsUnit_ite keepsUnit_held (keepsUnit_moved (keeps_modCore h))

theorem keeps_drnUnit {c p u} (h : Keeps r s) : KeepsUnit r (drnUnit s c p u) := by
  refine keepsUnit_ite keepsUnit_held (keepsUnit_ite keepsUnit_bruised ?_)
  extract_lets lanes bits l fl v n s1
  have h1 : Keeps r s1 := keeps_ite (keeps_modCore h) h
  split
  · exact keepsUnit_moved (keeps_countAct (keeps_putDie h1))
  · exact keepsUnit_moved (keeps_toDest h1)

theorem keeps_gatherUnit {c p u} (h : Keeps r s) : KeepsUnit r (gatherUnit s c p u) :=
  keepsUnit_ite keepsUnit_bruised (keepsUnit_ite (keepsUnit_moved (keeps_countAct h)) (keepsUnit_moved (keeps_readItem (keeps_countAct h))))

theorem keeps_wordUnit {c p u} (h : Keeps r s) : KeepsUnit r (wordUnit s c p u) :=
  have hs {n} := keeps_countAct (f := c.fld) (key := actSram) (n := n) h
  keepsUnit_ite keepsUnit_bruised (keepsUnit_ite (keepsUnit_moved (keeps_xPut hs))
    (keepsUnit_ite (keepsUnit_moved (keeps_putDie hs)) (keepsUnit_moved (keeps_putDie hs))))

theorem keeps_recvUnit {c p u} (h : Keeps r s) : KeepsUnit r (recvUnit s c p u) :=
  keepsUnit_ite keepsUnit_held (keepsUnit_moved (keeps_countAct (keeps_putDie (keeps_ite (keeps_modCore h) h))))

theorem keeps_flagUnit {c p u} (h : Keeps r s) : KeepsUnit r (flagUnit s c p u) :=
  keepsUnit_moved (keeps_countAct (keeps_putDie (keeps_ite (keeps_modCore h) h)))

theorem keeps_oneUnit {c p u} (h : Keeps r s) : KeepsUnit r (oneUnit s c p u) := by
  refine keepsUnit_ite (keeps_rqUnit h) ?_
  dsimp only
  split
  · exact keepsUnit_moved (keeps_countAct (keeps_modCore h))
  · exact keepsUnit_moved (keeps_countAct (keeps_modCore h))
  · split
    · exact keepsUnit_moved (keeps_countAct (keeps_putDie h))
    · exact keepsUnit_moved (keeps_toDest h)
  · exact keeps_drnUnit h
  · exact keeps_wordUnit h
  · exact keeps_wordUnit h
  · exact keeps_wordUnit h
  · exact keeps_recvUnit h
  · exact keeps_flagUnit h
  · exact keeps_gatherUnit h

theorem keeps_runUnits {c e u n} (h : Keeps r s) : Keeps r (runUnits c e u n s) := by
  induction n generalizing s with
  | zero => exact h
  | succ n ih =>
    unfold runUnits
    split
    · exact h
    · refine keeps_ite h ?_
      split
      · exact keeps_holdUnit h
      · exact keeps_coreFault (keeps_unitNote h)
      · have hm := (keeps_oneUnit (keeps_unitNote h)).of_moved _ _ ‹_›
        exact keeps_ite (keeps_endUnits hm) (ih (keeps_modCore hm))

theorem keeps_startUnits {p g} (h : Keeps r i.s) : KeepsRes r (startUnits i p g) :=
  keepsRes_go (keeps_runUnits (keeps_modCore h))

theorem keeps_placeUnits {win o bytes n r' p g} (h : Keeps r i.s) : KeepsRes r (placeUnits i win o bytes n r' p g) := by
  unfold placeUnits
  split
  · exact keepsRes_fault
  · split
    · exact keepsRes_never
    · exact keeps_startUnits h

theorem keeps_memUnits {b bytes n r' needCore p} (h : Keeps r i.s) : KeepsRes r (memUnits i b bytes n r' needCore p) :=
  keepsRes_ite keepsRes_fault (keeps_placeUnits h)

/-! ## Matrix -/

theorem keeps_effLact (h : Keeps r i.s) : KeepsRes r (effLact i) :=
  keepsRes_ite (keeps_startUnits h) (keeps_memUnits h)

theorem keeps_effLscl (h : Keeps r i.s) : KeepsRes r (effLscl i) :=
  keepsRes_ite (keeps_startUnits h) (keeps_memUnits h)

theorem keeps_noteLoad {k x r'} (h : Keeps r s) : Keeps r (noteLoad s k x r') :=
  keeps_foldl h fun _ _ h => keeps_noteRead h

theorem keeps_loadStep {t k} (h : Keeps r s) : Keeps r (loadStep s t k) := by
  unfold loadStep
  split
  · exact h
  · exact keeps_ite h (keeps_modCore (keeps_countAct (keeps_noteLoad h)))

theorem keeps_effLstat (h : Keeps r i.s) : KeepsRes r (effLstat i) := by
  unfold effLstat
  exact keepsRes_ite keepsRes_holdTo (keepsRes_ite keepsRes_hold (keepsRes_ite keepsRes_holdTo (keepsRes_ite keepsRes_fault (by
      split
      · exact keepsRes_fault
      · exact keepsRes_ite keepsRes_fault (keepsRes_ite keepsRes_fault (keepsRes_ite keepsRes_fault (keepsRes_ite keepsRes_fault (keepsRes_go
          (keeps_modCore h)))))))))

theorem keeps_effMcfg (h : Keeps r i.s) : KeepsRes r (effMcfg i) :=
  keeps_oneSlot h

theorem keeps_effPass (h : Keeps r i.s) : KeepsRes r (effPass i) := by
  unfold effPass
  exact keepsRes_ite keepsRes_hold (keepsRes_ite keepsRes_holdTo (by
      split
      · exact keepsRes_fault
      · exact keepsRes_ite keepsRes_holdTo (keepsRes_ite keepsRes_fault (keepsRes_ite keepsRes_fault (keepsRes_ite keepsRes_fault (keepsRes_go
          (keeps_countAct (keeps_countAct (keeps_modCore h)))))))))

theorem keeps_effDcfg (h : Keeps r i.s) : KeepsRes r (effDcfg i) :=
  keeps_oneSlot h

theorem keeps_effDrn (h : Keeps r i.s) : KeepsRes r (effDrn i) :=
  keepsRes_ite keepsRes_fault (keepsRes_ite keepsRes_fault (keepsRes_ite (keeps_memUnits h) (keeps_startUnits h)))

theorem keeps_effDsnd (h : Keeps r i.s) : KeepsRes r (effDsnd i) := by
  unfold effDsnd
  exact keeps_memUnits h

theorem keeps_storeSlot {e slot} (h : Keeps r i.s) : KeepsRes r (storeSlot i e slot) :=
  keeps_memUnits h

theorem keeps_effDflg (h : Keeps r i.s) : KeepsRes r (effDflg i) :=
  keeps_storeSlot h

theorem keeps_effVld (h : Keeps r i.s) : KeepsRes r (effVld i) :=
  keepsRes_ite (keeps_startUnits h) (keeps_memUnits h)

theorem keeps_effVst (h : Keeps r i.s) : KeepsRes r (effVst i) :=
  keepsRes_ite (keeps_memUnits h) (keeps_startUnits h)

theorem keeps_effSflg (h : Keeps r i.s) : KeepsRes r (effSflg i) :=
  keeps_storeSlot h

/-! ## Scalar -/

theorem keeps_effAlu {occ lat imm f} (h : Keeps r i.s) : KeepsRes r (effAlu occ lat imm f i) := by
  unfold effAlu
  dsimp only
  exact keepsRes_go (keeps_xPut (by
      split
      · exact keeps_xGet h
      · exact keeps_xGet (keeps_xGet h)))

theorem keeps_smAccess {n al rs data f} (h : Keeps r i.s) : KeepsRes r (smAccess i n al rs data f) := by
  unfold smAccess
  dsimp only
  exact keepsRes_ite keepsRes_fault (keeps_placeUnits (by
      split
      · exact keeps_xGet (keeps_xGet h)
      · exact keeps_xGet h))

theorem keeps_effLd (h : Keeps r i.s) : KeepsRes r (effLd i) :=
  keeps_smAccess h

theorem keeps_effSt (h : Keeps r i.s) : KeepsRes r (effSt i) :=
  keeps_smAccess h

theorem keeps_effCadd (h : Keeps r i.s) : KeepsRes r (effCadd i) :=
  keeps_smAccess h

theorem keeps_effBr (h : Keeps r i.s) : KeepsRes r (effBr i) := by
  unfold effBr
  exact keepsRes_go (keeps_xGet (keeps_xGet h))

theorem keeps_effSsend (h : Keeps r i.s) : KeepsRes r (effSsend i) :=
  keeps_smAccess h

theorem keeps_effSrecv (h : Keeps r i.s) : KeepsRes r (effSrecv i) :=
  keepsRes_ite keepsRes_hold (keeps_smAccess h)

theorem keeps_effStrm (h : Keeps r i.s) : KeepsRes r (effStrm i) :=
  keeps_smAccess h

theorem keeps_effWrd (h : Keeps r i.s) : KeepsRes r (effWrd i) :=
  keepsRes_go (keeps_xPut h)

/-! ## Predictor -/

theorem keeps_evaluate {a n} (h : Keeps r s) : Keeps r (evaluate s a n) :=
  keeps_ite (keeps_pithPrepare (keeps_foldl h fun _ _ h => keeps_ite (keeps_pithPrepare h) (keeps_pithEvent h)))
      (keeps_foldl h fun _ _ h => keeps_ite (keeps_pithPrepare h) (keeps_pithEvent h))

theorem keeps_readSnaps {a} (h : Keeps r s) : Keeps r (readSnaps s a) :=
  keeps_ite h (keeps_ite h (keeps_evaluate (keeps_modJob h)))

/-! ## StreamOps -/

theorem keeps_putChecked {f a oda whole b} (h : Keeps r s) : Keeps r (putChecked s f a oda whole b).2 := by
  unfold putChecked
  split
  · exact keeps_raiseField h
  · exact h

theorem keeps_raiseStream {f st kind fdva} (h : Keeps r s) : Keeps r (raiseStream s f st kind fdva) :=
  keeps_ite h (keeps_raise h)

theorem keeps_faultStream {f st kind didx boff fdva} (h : Keeps r s) : Keeps r (faultStream s f st kind didx boff fdva) :=
  keeps_raiseStream (keeps_modStream h)

theorem keeps_bruisedDesc {f st idx addr} (h : Keeps r s) : Keeps r (bruisedDesc s f st idx addr) :=
  keeps_raiseField (keeps_modStream h)

theorem keeps_requestStream {f r'} (h : Keeps r s) : KeepsOpt r (requestStream s f r') := by
  unfold requestStream
  split
  · exact keepsOpt_ite keepsOpt_none (keepsOpt_some (keeps_modStream h))
  · exact keepsOpt_ite keepsOpt_none (keepsOpt_ite (keepsOpt_some (keeps_modStream h)) (keepsOpt_ite keepsOpt_none (keepsOpt_some
      (keeps_modStream h))))
  · exact keepsOpt_ite keepsOpt_none (keepsOpt_ite (keepsOpt_some (keeps_modStream h)) (keepsOpt_some (keeps_modStream h)))
  · exact keepsOpt_none

theorem keeps_takeRequest {f t q} (h : Keeps r s) : Keeps r (takeRequest s f t q) := by
  unfold takeRequest
  exact keeps_ite (keeps_streamsDone (by
      split
      · exact (keeps_requestStream (keeps_ite (keeps_modNet h) (keeps_modCore (keeps_modNet h)))).keeps ‹_›
      · exact keeps_raiseStream (keeps_ite (keeps_modNet h) (keeps_modCore (keeps_modNet h))))) (by
      split
      · exact (keeps_requestStream (keeps_ite (keeps_modNet h) (keeps_modCore (keeps_modNet h)))).keeps ‹_›
      · exact keeps_raiseStream (keeps_ite (keeps_modNet h) (keeps_modCore (keeps_modNet h))))

theorem keeps_acceptRequest {c req op} (h : Keeps r s) : Keeps r (acceptRequest s c req op) := by
  unfold acceptRequest
  split
  · exact keeps_ite (keeps_takeRequest h) h
  · exact h

theorem keeps_acceptDue {f t} (h : Keeps r s) : Keeps r (acceptDue s f t) :=
  keeps_foldl h fun _ _ h => keeps_takeRequest h

theorem keeps_returnCredits {f die} (h : Keeps r s) : Keeps r (returnCredits s f die) :=
  keeps_foldl h fun _ _ h => keeps_ite h (keeps_modNet h)

theorem keeps_owesCredit {f t} (h : Keeps r s) : Keeps r (owesCredit s f t) :=
  keeps_ite h (keeps_modNet h)

theorem keeps_sendOut {f se die tag} (h : Keeps r s) : Keeps r (sendOut s f se die tag) := by
  unfold sendOut
  split
  · exact h
  · exact keeps_modNet h

theorem keeps_dropRecord {f tag} (h : Keeps r s) : Keeps r (dropRecord s f tag) := by
  unfold dropRecord
  split
  · exact h
  · exact keeps_modField h

theorem keeps_askRind {f t} (h : Keeps r s) : KeepsOpt r (askRind s f t) := by
  unfold askRind
  dsimp only
  split
  · exact keepsOpt_some (keeps_modStr h)
  · split
    · exact keepsOpt_none
    · exact keepsOpt_some (keeps_sendOut (keeps_modStr h))

theorem keeps_endXfer {f tag} (h : Keeps r s) : Keeps r (endXfer s f tag) :=
  keeps_modField (keeps_dropRecord h)

theorem keeps_takeAccess {f se a dva n wr} (h : Keeps r s) : Keeps r (takeAccess s f se a dva n wr).2 := by
  unfold takeAccess
  dsimp only
  split
  · exact keeps_snd (keeps_translate h) ‹_›
  · split
    · split
      · exact keeps_snd (keeps_translate h) ‹_›
      · split
        · exact keeps_snd (keeps_translate h) ‹_›
        · split <;> exact keeps_snd (keeps_translate h) ‹_›
    · split
      · exact keeps_snd (keeps_translate h) ‹_›
      · split
        · exact keeps_snd (keeps_translate h) ‹_›
        · split <;> exact keeps_snd (keeps_translate h) ‹_›

theorem keeps_addXfer {f t} (h : Keeps r s) : Keeps r (addXfer s f t) :=
  keeps_modStr h

theorem keeps_askXfer {f t} (h : Keeps r s) : KeepsOpt r (askXfer s f t) :=
  keeps_askRind (keeps_addXfer h)

theorem keeps_takePunnet {f st p v} (h : Keeps r s) : Keeps r (takePunnet s f st p v) :=
  keeps_modStream h

theorem keeps_sendHints {f st p} (h : Keeps r s) : Keeps r (sendHints s f st p) := by
  unfold sendHints
  dsimp only
  exact keeps_foldl h fun _ _ h => by
      split
      · exact h
      · exact keeps_ite h (by
            split
            · exact keeps_ite (keeps_ctxSend h) h
            · exact h)

theorem keeps_fetchPunnet {f st p needed} (h : Keeps r s) : Keeps r (fetchPunnet s f st p needed) := by
  unfold fetchPunnet
  exact keeps_ite h (by
      split
      · exact h
      · exact keeps_ite (keeps_ite (keeps_addXfer h) (keeps_ite (keeps_faultStream h) h)) (by
            split
            · exact keeps_ite (keeps_faultStream (keeps_snd (keeps_takeAccess h) ‹_›)) (keeps_snd (keeps_takeAccess h) ‹_›)
            · exact keeps_getD (keeps_askXfer (keeps_snd (keeps_takeAccess h) ‹_›)) h))

theorem keeps_beginDesc {f st d} (h : Keeps r s) : Keeps r (beginDesc s f st d) :=
  keeps_ite (keeps_faultStream h) (keeps_ite (keeps_faultStream h) (keeps_ite (keeps_fetchPunnet (keeps_modStream h)) (keeps_modStream h)))

theorem keeps_settleStream {f st} (h : Keeps r s) : Keeps r (settleStream s f st) :=
  keeps_modStream h

theorem keeps_countBlock {f t} (h : Keeps r s) : Keeps r (countBlock s f t) :=
  keeps_settleStream (keeps_modStream (keeps_countAct (keeps_endXfer h)))

/-! ## Ports -/

theorem keeps_carrierStep {f t held} (h : Keeps r s) : Keeps r (carrierStep f t held s) :=
  keeps_foldl h fun _ _ h => keeps_modNet h

theorem keeps_askAgain {f} (h : Keeps r s) : Keeps r (askAgain f s) :=
  keeps_foldl h fun _ _ h => keeps_getD (keeps_askRind h) h

theorem keeps_putPiece {f t x b} (h : Keeps r s) : Keeps r (putPiece s f t x b) :=
  keeps_modXfer (keeps_modFmem h)

theorem keeps_sendBlock {f x b} (h : Keeps r s) : Keeps r (sendBlock s f x b) := by
  unfold sendBlock
  exact keeps_sendOut (keeps_modXfer (keeps_putChecked (keeps_foldl h fun _ _ h => keeps_raiseField h)))

theorem keeps_getPiece {f x} (h : Keeps r s) : Keeps r (getPiece s f x) :=
  keeps_ite (keeps_modXfer (keeps_foldl h fun _ _ h => keeps_noteRead h)) (keeps_ite (keeps_sendBlock
      (keeps_foldl h fun _ _ h => keeps_noteRead h)) (keeps_modXfer (keeps_foldl h fun _ _ h => keeps_noteRead h)))

theorem keeps_pieceStep {f t held x} {u : State × List Nat} (h : Keeps r u.1) : Keeps r (pieceStep f t held u x).1 := by
  unfold pieceStep
  dsimp only
  split
  · exact h
  · split
    · exact h
    · dsimp only
      split
      · exact keeps_ite (keeps_getPiece h) (keeps_putPiece h)
      · exact keeps_getPiece h

theorem keeps_pieces {f t held} (h : Keeps r s) : Keeps r (pieces f t held s).1 :=
  keeps_foldl_of Prod.fst h fun _ _ h => keeps_pieceStep h

theorem keeps_scrubRead {f x} (h : Keeps r s) : Keeps r (scrubRead f s x) := by
  have h := keeps_modFmem (f := f) (g := fun m => { m with seen := tabPut false x.granule true m.seen }) (keeps_readGranule (f := f)
      (g := x.granule) h)
  have h := keeps_ite (c := (hardWords (flipsOf (modFmem (readGranule f s x.granule) f fun m =>
    { m with seen := tabPut false x.granule true m.seen }).mem x.granule)).isEmpty = true)
    (keeps_granulesDone (f := f) (lo := 64 * x.granule) (hi := 64 * x.granule + 64) h) h
  exact keeps_ite h (keeps_ite (keeps_putWord h) (keeps_ite (keeps_raiseField (h.setMem fun hm =>
    memsWf_die hm (wf_die hm) (brWf_fill _ _ _ _ (wf_dieBr hm)))) h))

theorem keeps_mkFst {α : Type} {x : α} (h : Keeps r s) : Keeps r (s, x).1 := h

theorem keeps_scrubOne {f t x} {u : State × List Nat} (h : Keeps r u.1) : Keeps r (scrubOne f t u x).1 := by
  unfold scrubOne
  dsimp only
  split
  · exact h
  · split
    · exact keeps_mkFst (keeps_modFmem h)
    · split
      · exact keeps_mkFst (keeps_modFmem (keeps_scrubRead h))
      · exact keeps_mkFst (keeps_scrubBack h)

theorem keeps_scrubStep {f t used} (h : Keeps r s) : Keeps r (scrubStep f t s used) :=
  keeps_ite h (keeps_foldl_of (v := Prod.fst) (b := (modFmem s f fun m => { m with scrub := [] }, used)) (keeps_mkFst
      (keeps_modFmem h)) fun _ _ h => keeps_scrubOne h)

theorem keeps_scrubRound {f t} (h : Keeps r s) : Keeps r (scrubRound f t s) :=
  keeps_ite h (keeps_modFmem h)

/-! ## Streams -/

theorem keeps_descriptorStart {f st} (h : Keeps r s) : Keeps r (descriptorStart s f st) := by
  unfold descriptorStart
  exact keeps_ite h (by
      split
      · exact keeps_fetchPunnet h
      · exact keeps_ite h (keeps_beginDesc h))

theorem keeps_issueBlock {f st tag d near e pa} (h : Keeps r s) : KeepsOpt r (issueBlock s f st tag d near e pa) :=
  keepsOpt_map (keeps_askXfer h) (fun _ h => keeps_modStream h)

theorem keeps_blockIssue {f st tag} (h : Keeps r s) : Keeps r (blockIssue s f st tag) := by
  unfold blockIssue
  dsimp only
  exact keeps_ite h (by
      split
      · split
        · exact keeps_faultStream (keeps_snd (keeps_takeAccess h) ‹_›)
        · exact keeps_getD (keeps_issueBlock (keeps_snd (keeps_takeAccess h) ‹_›)) h
      · exact h)

theorem keeps_tierChecked {die a asid missed b} (h : Keeps r s) : Keeps r (tierChecked s die a asid missed b).2 := by
  unfold tierChecked
  dsimp only
  split
  · exact h
  · split
    · exact h
    · exact keeps_raiseDie h

theorem keeps_readNear {a asid x} (h : Keeps r s) : Keeps r (readNear s a asid x).2 := by
  unfold readNear
  split
  · exact h
  · exact keeps_tierChecked (keeps_foldl (keeps_foldl (keeps_wakeChan h) fun _ _ h => keeps_raiseDie h) fun _ _ h => keeps_raiseDie
      (h.setMem fun hm => memsWf_near hm (wf_near hm) (brWf_set _ _ _ (wf_nearBr hm))))

theorem keeps_readFar {a asid x} (h : Keeps r s) : Keeps r (readFar s a asid x).2 := by
  unfold readFar
  split
  · exact h
  · exact keeps_tierChecked (keeps_foldl (keeps_foldl (keeps_wakeChan h) fun _ _ h => keeps_raiseDie h) fun _ _ h => keeps_raiseDie
      (h.setMem fun hm => memsWf_far hm (wf_far hm) (brWf_set _ _ _ (wf_farBr hm))))

theorem keeps_requestPartner {f t} (h : Keeps r s) : Keeps r (requestPartner s f t) :=
  keeps_ite (keeps_modXfer h) (keeps_ite h (keeps_ctxSend (keeps_mk_bup (keeps_modCtx h))))

theorem keeps_rindRequest {f tag found host} (h : Keeps r s) : Keeps r (rindRequest s f tag found host) := by
  unfold rindRequest
  split
  · exact h
  · refine keeps_ite h (keeps_ite (keeps_ite h (keeps_modXfer (keeps_dropRecord h))) (keeps_ite h ?_))
    have hk := keeps_modXfer (f := f) (tag := tag) (g := fun t => { t with known := true })
      (keeps_dropRecord (f := f) (tag := tag) (keeps_returnCredits (f := f) (die := xferDie s ‹_›) h))
    refine keeps_ite hk ?_
    split
    · split
      exact keeps_modXfer (keeps_snd (keeps_readNear hk) ‹_›)
    · split
      · split
        exact keeps_modXfer (keeps_snd (keeps_readFar hk) ‹_›)
      · split
        · split
          · exact keeps_modXfer hk
          · exact hk
        · exact keeps_requestPartner hk

theorem keeps_rindBurstSend {f tag} (h : Keeps r s) : Keeps r (rindBurstSend s f tag) := by
  unfold rindBurstSend
  dsimp only
  split
  · exact h
  · split
    · exact h
    · exact keeps_ite h (keeps_modXfer (keeps_modNet (keeps_ite (keeps_mk_bup (keeps_modNet h)) (keeps_modNet h))))

theorem keeps_bruiseTier {t} (h : Keeps r s) : Keeps r (bruiseTier s t) :=
  keeps_ite (h.setMem fun hm => memsWf_near hm (wf_near hm) (brWf_fill _ _ _ _ (wf_nearBr hm)))
    (keeps_ite (h.setMem fun hm => memsWf_far hm (wf_far hm) (brWf_fill _ _ _ _ (wf_farBr hm))) h)

theorem keeps_takeAck {f a} (h : Keeps r s) : Keeps r (takeAck f s a) := by
  unfold takeAck
  split
  · exact h
  · exact keeps_ite h (keeps_ite (keeps_countBlock (keeps_ite (keeps_bruiseTier h) (keeps_ite (keeps_raiseField (keeps_bruiseTier h)) h)))
      (keeps_streamsDone (keeps_countBlock (keeps_ite (keeps_bruiseTier h) (keeps_ite (keeps_raiseField (keeps_bruiseTier h)) h)))))

theorem keeps_landBlock {f t b} (h : Keeps r s) : Keeps r (landBlock s f t b) :=
  keeps_ite (keeps_ite (keeps_modXfer h) (keeps_raiseField (keeps_modXfer h))) (keeps_ite (keeps_ite (keeps_raiseField (keeps_modXfer h))
      (keeps_modXfer h)) (keeps_ite (keeps_raiseField (keeps_modXfer h)) (keeps_askAgain (keeps_modXfer (keeps_owesCredit h)))))

theorem keeps_takeData {f h' data bruises} (h : Keeps r s) : Keeps r (takeData s f h' data bruises) := by
  unfold takeData
  split
  · exact h
  · split
    · exact h
    · exact keeps_ite h (keeps_landBlock (keeps_modNet h))

theorem keeps_burstIn {f header data bruises} (h : Keeps r s) : Keeps r (burstIn s f header data bruises) :=
  keeps_ite h (keeps_ite (keeps_takeData (keeps_foldl h fun _ _ h => keeps_takeAck h)) (keeps_foldl h fun _ _ h => keeps_takeAck h))

theorem keeps_landPunnet {f t b} (h : Keeps r s) : Keeps r (landPunnet s f t b) :=
  keeps_ite (keeps_settleStream (keeps_endXfer h)) (keeps_ite (keeps_bruisedDesc (keeps_endXfer h)) (keeps_sendHints (keeps_takePunnet
      (keeps_endXfer h))))

theorem keeps_landingComplete {f tag} (h : Keeps r s) : Keeps r (landingComplete s f tag) := by
  unfold landingComplete
  split
  · exact h
  · split
    · exact h
    · exact keeps_ite h (keeps_ite (keeps_landPunnet (keeps_owesCredit h)) (keeps_ite h (keeps_ite (keeps_countBlock (keeps_ite (keeps_putWord
        (keeps_owesCredit h)) (keeps_owesCredit h))) (keeps_streamsDone (keeps_countBlock (keeps_ite (keeps_putWord (keeps_owesCredit h))
        (keeps_owesCredit h)))))))

theorem keeps_writePartner {f t b} (h : Keeps r s) : Keeps r (writePartner s f t b) :=
  keeps_ite (keeps_modXfer h) (keeps_ite h (keeps_ctxSend (keeps_modCtx h)))

theorem keeps_storeOut {f t b} (h : Keeps r s) : Keeps r (storeOut s f t b) := by
  unfold storeOut
  exact keeps_ite (keeps_ite (keeps_modXfer h) (keeps_ite (keeps_modJob (keeps_modXfer (keeps_nearPut (keeps_wakeChan h)))) (keeps_modXfer
      (keeps_nearPut (keeps_wakeChan h))))) (keeps_ite (keeps_ite (keeps_modXfer h) (keeps_modXfer (keeps_farPut (keeps_wakeChan h))))
      (keeps_ite (by
      split
      · exact keeps_modXfer (keeps_emit h)
      · exact h) (keeps_writePartner h)))

theorem keeps_rindOutBurst {f tag data} (h : Keeps r s) : Keeps r (rindOutBurst s f tag data) := by
  unfold rindOutBurst
  split
  · exact h
  · split
    · exact h
    · exact keeps_ite h (keeps_ite (keeps_modXfer h) (keeps_ite h (keeps_ite (keeps_ite (keeps_raiseDie (keeps_storeOut (keeps_modNet
        (keeps_returnCredits h)))) (keeps_storeOut (keeps_modNet (keeps_returnCredits h)))) (keeps_ite (keeps_storeOut (keeps_raiseDie
        (keeps_modNet (keeps_returnCredits h)))) (keeps_sendOut (keeps_modXfer (keeps_modNet (keeps_returnCredits h))))))))

theorem keeps_writeEntries {l} (h : Keeps r s) : Keeps r (writeEntries s l) :=
  keeps_foldl h fun _ _ h => keeps_nearStore h

theorem keeps_pageFaultService {f st serve entries} (h : Keeps r s) : Keeps r (pageFaultService s f st serve entries) :=
  keeps_ite h (keeps_ite (keeps_ite (keeps_writeEntries h) h) (keeps_ite (keeps_streamsDone (keeps_modStream (keeps_ite
      (keeps_writeEntries h) h))) (keeps_raiseStream (keeps_ite (keeps_writeEntries h) h))))

theorem keeps_translationInvalidate {asid lo hi} (h : Keeps r s) : Keeps r (translationInvalidate s asid lo hi) :=
  keeps_ite h (keeps_modFields h)

theorem keeps_streamDrainTimeout {f st} (h : Keeps r s) : Keeps r (streamDrainTimeout s f st) :=
  keeps_ite h (keeps_settleStream (keeps_modStream (keeps_foldl h fun _ _ h => keeps_endXfer (keeps_ite (keeps_owesCredit h) h))))

theorem keeps_scrubVisit {f p n} (h : Keeps r s) : Keeps r (scrubVisit s f p n) :=
  keeps_ite h (keeps_modFmem h)

theorem keeps_clearPlace {f p} (h : Keeps r s) : Keeps r (clearPlace s f p) :=
  keeps_clearDie h

theorem keeps_setPlace {f p st a} (h : Keeps r s) : Keeps r (setPlace s f p st a) := by
  unfold setPlace
  exact keeps_modFmem (keeps_ite (keeps_clearPlace h) h)

theorem keeps_channelRetire {st ch} (h : Keeps r s) : Keeps r (channelRetire s st ch) :=
  keeps_ite h (keeps_ite (keeps_bumpGen (keeps_mk (keeps_mk_mem (keeps_dueEntry (keeps_handlingDone h))))) (keeps_mk_mem (keeps_dueEntry
      (keeps_handlingDone h))))

theorem keeps_channelCopyComplete {st ue} (h : Keeps r s) : Keeps r (channelCopyComplete s st ue) :=
  keeps_mk_mem (keeps_foldl h fun _ _ h => keeps_raiseDie
    (h.setMem fun hm => memsWf_near hm (wf_near hm) (brWf_set _ _ _ (wf_nearBr hm))))

/-! ## JobOps -/

theorem keeps_writeImage {f pos v l} (h : Keeps r s) : Keeps r (writeImage s f pos v l) :=
  h.setMem fun hm => memsWf_die hm (tabWf_foldl 0 _ (fun m _ hm => memWf_put m _ _ hm) _ _ (wf_die hm)) (wf_dieBr hm)

theorem keeps_startCores {f pos v seed} (h : Keeps r s) : Keeps r (startCores s f pos v seed) :=
  keeps_foldl h fun _ _ h => keeps_foldl h fun _ _ h => keeps_modCore h

theorem keeps_startPlaces {f pos a v} (h : Keeps r s) : Keeps r (startPlaces s f pos a v) :=
  keeps_foldl h fun _ _ h => keeps_ite (keeps_clearPlace (keeps_setPlace h)) (keeps_setPlace h)

theorem keeps_joinField {f a role start} (h : Keeps r s) : Keeps r (joinField s f a role start) :=
  keeps_retarget (keeps_modField h)

theorem keeps_segmentStateChange {f p decl} (h : Keeps r s) : Keeps r (segmentStateChange s f p decl) :=
  keeps_ite h (keeps_granulesDone (keeps_setPlace h))

theorem keeps_seedFjob {f a anchor start policy iv commit step} (h : Keeps r s) : Keeps r (seedFjob s f a anchor start policy iv commit step) :=
  keeps_modFjob h

theorem keeps_writeTables {f pos a v kv banks bases} (h : Keeps r s) : Keeps r (writeTables s f pos a v kv banks bases) :=
  keeps_modField h

theorem keeps_startStreams {f pos m v} (h : Keeps r s) : Keeps r (startStreams s f pos m v) :=
  keeps_modField h

theorem keeps_fillSeams {a start} (h : Keeps r s) : Keeps r (fillSeams s a start) := by
  unfold fillSeams
  exact keeps_foldl h fun _ _ h => keeps_foldl h fun _ _ h => by
      split
      · exact keeps_ite (keeps_modNet h) h
      · exact h

theorem keeps_enterStart {a start} (h : Keeps r s) : Keeps r (enterStart s a start) :=
  keeps_foldl h fun _ _ h => keeps_ite (keeps_reachSlot h) h

theorem keeps_loadFrame {a v origin start anchor banks bases policy iv commit step} (h : Keeps r s) : Keeps r
    (loadFrame s a v origin start anchor banks bases policy iv commit step) :=
  keeps_foldl h fun _ _ h => keeps_ite (keeps_writeTables (keeps_seedFjob (keeps_joinField h))) (keeps_startCores (keeps_writeImage
      (keeps_startStreams (keeps_startPlaces (keeps_writeTables (keeps_seedFjob (keeps_joinField h)))))))

/-! ## JobSave -/

theorem keeps_applyKvars {a y} (h : Keeps r s) : Keeps r (applyKvars s a y) :=
  keeps_foldl (keeps_modJob h) fun _ _ h => keeps_modFjob h

theorem keeps_noteSave {f} (h : Keeps r s) : Keeps r (noteSave s f) :=
  keeps_foldl h fun _ _ h => keeps_readGranule h

theorem keeps_contextSave {a} (h : Keeps r s) : Keeps r (contextSave s a) :=
  keeps_ite h (keeps_modJob (keeps_foldl h fun _ _ h => keeps_noteSave h))

theorem keeps_leaveCommits {a} (h : Keeps r s) : Keeps r (leaveCommits s a) :=
  keeps_mk h

theorem keeps_saveSeal {a} (h : Keeps r s) : Keeps r (saveSeal s a) :=
  keeps_ite h (keeps_finishJobCmds (keeps_modJob (keeps_foldl (keeps_leaveCommits (keeps_ite h
      (keeps_applyKvars h))) fun _ _ h => keeps_leaveField h)))

theorem keeps_restoreMem {a n b k : Nat} {l : Tab Byte} {l' : Tab Bool} (h : Keeps r s) : Keeps r { s with mem := { s.mem with
    die := tabPutAll 0 l (tabClear a n s.mem.die), dieBr := tabPutAll false l' (tabClear b k s.mem.dieBr) } } :=
  h.setMem fun hm => memsWf_die hm (tabWf_putAll _ _ _ (tabWf_clear _ _ _ _ (wf_die hm)))
    (tabWf_putAll _ _ _ (tabWf_clear _ _ _ _ (wf_dieBr hm)))

theorem keeps_restoreField {seed start x p f} (h : Keeps r s) : Keeps r (restoreField s seed start x p f) := by
  unfold restoreField
  extract_lets s1 m
  have h1 : Keeps r s1 := keeps_foldl h fun _ _ h => keeps_modCore h
  exact keeps_modStr (keeps_restoreMem h1)

theorem keeps_writeExtent {f l e} (h : Keeps r s) : Keeps r (writeExtent s f l e) := by
  unfold writeExtent
  exact keeps_ite (keeps_foldl h fun _ _ h => by
      split
      · exact keeps_dieStore h
      · exact h) (keeps_ite (keeps_foldl h fun _ _ h => keeps_modCore h) (keeps_foldl h fun _ _ h => keeps_modCore h))

theorem keeps_enterPortable {m v old x origin y joff} (h : Keeps r s) : Keeps r (enterPortable s m v old x origin y joff) := by
  unfold enterPortable
  exact keeps_foldl (keeps_foldl h fun _ _ h => by
      split
      · exact keeps_modCore h
      · exact h) fun _ _ h => by
      split
      · exact keeps_writeExtent h
      · exact h

/-! ## Jobs -/

theorem keeps_serve {q opc k} (h : Keeps r s) (hk : ∀ y0, Keeps r (k y0)) : Keeps r (serve s q opc k) := by
  unfold serve
  exact keeps_ite h (by
      split
      · exact h
      · exact keeps_ite (keeps_finishCmd h) (hk _))

theorem keeps_onJob {c k} (h : Keeps r s) (hk : ∀ y0, Keeps r (k y0)) : Keeps r (onJob s c k) := by
  unfold onJob
  split
  · exact keeps_finishCmd h
  · exact hk _

theorem keeps_beginCmd {c} (h : Keeps r s) : Keeps r (beginCmd s c) :=
  keeps_mk h

theorem keeps_admitJob {a j} (h : Keeps r s) : Keeps r (admitJob s a j) :=
  keeps_mk h

theorem keeps_submitJob {q fam draw} (h : Keeps r s) : Keeps r (submitJob s q fam draw) := by
  refine keeps_serve h fun c => keeps_ite h (keeps_ite (keeps_finishCmd h) (keeps_ite (keeps_finishCmd h) (keeps_ite (keeps_finishCmd h) ?_)))
  split
  · exact keeps_finishCmd h
  · split
    · exact h
    · exact keeps_ite h (keeps_ite (keeps_finishCmd h) (keeps_ite (keeps_finishCmd h) (keeps_finishCmd (keeps_admitJob h))))

theorem keeps_jobPlacement {a root load} (h : Keeps r s) : Keeps r (jobPlacement s a root load) := by
  unfold jobPlacement
  exact keeps_ite h (by
      split
      · exact h
      · exact keeps_postJob (keeps_enterStart (keeps_fillSeams (keeps_modJob (keeps_mk_mem (keeps_writeEntries (keeps_loadFrame h)))))))

theorem keeps_endAtFinal {a} (h : Keeps r s) : Keeps r (endAtFinal s a) :=
  keeps_freeJob (keeps_foldl (keeps_leaveCommits (keeps_dropJobChanges (keeps_finishJobCmds (keeps_postJob h)))) fun _ _ h => keeps_leaveField h)

theorem keeps_jobStopped {a y} (h : Keeps r s) : Keeps r (jobStopped s a y) :=
  keeps_ite (keeps_endAtFinal h) (keeps_modJob h)

theorem keeps_takeReport {f b a y mirror} (h : Keeps r s) : Keeps r (takeReport s f b a y mirror) :=
  keeps_ite h (keeps_ite (keeps_receive h) (keeps_ite (keeps_modJob (keeps_receive h)) (keeps_ite (keeps_jobStopped (keeps_modJob (keeps_ite
      (keeps_modJob (keeps_receive h)) (keeps_receive h)))) (keeps_modJob (keeps_ite (keeps_modJob (keeps_receive h)) (keeps_receive h))))))

theorem keeps_yieldReport {f b a y mirror snap} (h : Keeps r s) : Keeps r (yieldReport s f b a y mirror snap) :=
  keeps_ite (keeps_readSnaps (keeps_takeReport h)) (keeps_takeReport h)

theorem keeps_startPreempt {a} (h : Keeps r s) : Keeps r (startPreempt s a) :=
  keeps_ite (keeps_ite (keeps_modJob h) h) (keeps_pithPrepare (keeps_ite (keeps_modJob h) h))

theorem keeps_preemptJob {q} (h : Keeps r s) : Keeps r (preemptJob s q) := by
  unfold preemptJob
  exact keeps_serve h (fun _ => keeps_onJob h (fun _ => by
      split
      · exact keeps_startPreempt (keeps_beginCmd h)
      · exact keeps_startPreempt (keeps_beginCmd h)
      · exact keeps_startPreempt (keeps_beginCmd h)
      · exact keeps_beginCmd h
      · exact keeps_ite h (keeps_finishCmd h)
      · exact keeps_finishCmd h
      · exact keeps_finishCmd h
      · exact keeps_finishCmd h))

theorem keeps_resumeJob {q} (h : Keeps r s) : Keeps r (resumeJob s q) := by
  unfold resumeJob
  exact keeps_serve h (fun _ => keeps_onJob h (fun _ => by
      split
      · exact keeps_modJob (keeps_beginCmd h)
      · exact keeps_ite h (keeps_finishCmd h)
      · exact keeps_ite h (keeps_finishCmd h)
      · exact keeps_finishCmd h))

theorem keeps_endJob {q} (h : Keeps r s) : Keeps r (endJob s q) := by
  unfold endJob
  exact keeps_serve h (fun _ => keeps_onJob h (fun _ => keeps_ite h (by
      split
      · exact keeps_settle (keeps_modJob (keeps_stopJob (keeps_sendHalt (keeps_beginCmd h))))
      · exact keeps_settle (keeps_modJob (keeps_stopJob (keeps_sendHalt (keeps_beginCmd h))))
      · exact keeps_settle (keeps_modJob (keeps_stopJob (keeps_sendHalt (keeps_beginCmd h))))
      · exact keeps_settle (keeps_modJob (keeps_stopJob (keeps_sendHalt (keeps_beginCmd h))))
      · exact keeps_ite (keeps_freeJob (keeps_modJob (keeps_beginCmd h))) (keeps_settle (keeps_modJob (keeps_beginCmd h)))
      · exact keeps_freeJob (keeps_dropJobChanges (keeps_finishJobCmds (keeps_beginCmd h)))
      · exact keeps_freeJob (keeps_dropJobChanges (keeps_finishJobCmds (keeps_beginCmd h)))
      · exact keeps_freeJob (keeps_dropJobChanges (keeps_finishJobCmds (keeps_beginCmd h))))))

theorem keeps_supplement {q fam} (h : Keeps r s) : Keeps r (supplement s q fam) := by
  refine keeps_serve h fun c => keeps_onJob h fun a => keeps_ite h (keeps_ite (keeps_finishCmd h) (keeps_ite (keeps_finishCmd h) ?_))
  dsimp only
  split
  · exact keeps_finishCmd h
  · exact keeps_finishCmd (keeps_modJob h)

theorem keeps_mirrorAdmit {a t block b} (h : Keeps r s) : Keeps r (mirrorAdmit s a t block b) := by
  unfold mirrorAdmit
  dsimp only
  split
  · exact keeps_mk (keeps_modJob h)
  · exact keeps_mirSend (keeps_mk (keeps_modJob h))

theorem keeps_reprotect {a} (h : Keeps r s) : Keeps r (reprotect s a) := by
  unfold reprotect
  dsimp only
  split
  · exact h
  · exact keeps_ite h (by
        split
        · exact keeps_modJob (keeps_mirrorAdmit (keeps_foldl h fun _ _ h => by
              split
              · exact keeps_mirrorAdmit h
              · exact h))
        · exact keeps_mirSend (keeps_modJob (keeps_mirrorAdmit (keeps_foldl h fun _ _ h => by
              split
              · exact keeps_mirrorAdmit h
              · exact h))))

theorem keeps_restoreKvars {a} (h : Keeps r s) : Keeps r (restoreKvars s a) :=
  keeps_foldl h fun _ _ h => keeps_modFjob h

theorem keeps_enterMirror {a} (h : Keeps r s) : Keeps r (enterMirror s a) := by
  unfold enterMirror
  split
  · exact h
  · exact keeps_ite h (keeps_foldl h fun _ _ h => by
        split
        · exact keeps_nearPut h
        · exact h)

theorem keeps_restoreAt {a o i' load} (h : Keeps r s) : Keeps r (restoreAt s a o i' load) :=
  keeps_enterStart (keeps_fillSeams (keeps_modJob (keeps_restoreKvars (keeps_reprotect (keeps_foldl (keeps_enterMirror (keeps_writeEntries
      (keeps_ite (keeps_foldl (keeps_loadFrame h) fun _ _ h => keeps_ite (keeps_restoreField h) h) (keeps_enterPortable
      (keeps_loadFrame h))))) fun _ _ h => keeps_modFjob h)))))

theorem keeps_jobRestore {a root load} (h : Keeps r s) : Keeps r (jobRestore s a root load) := by
  unfold jobRestore
  exact keeps_ite h (keeps_ite (keeps_ite (keeps_ite (keeps_mk_mem h) h) (keeps_ite (keeps_pithPrepare (keeps_modJob (keeps_restoreAt
      (keeps_ite (keeps_mk_mem h) h)))) (keeps_modJob (keeps_restoreAt (keeps_ite (keeps_mk_mem h) h))))) (by
      split
      · exact keeps_restoreAt (keeps_ite (keeps_mk_mem h) h)
      · exact keeps_ite (keeps_ite (keeps_mk_mem h) h) (keeps_postJob (keeps_ite (keeps_mk_mem h) h))))

theorem keeps_resumeField {a joff start changed f} (h : Keeps r s) : Keeps r (resumeField a joff start changed s f) := by
  unfold resumeField
  dsimp only
  split
  · exact h
  · exact keeps_modField (keeps_modCores (keeps_writeImage (keeps_writeTables h)))

theorem keeps_resumeInPlace {a} (h : Keeps r s) : Keeps r (resumeInPlace s a) :=
  keeps_ite h (keeps_modJob (keeps_foldl (keeps_applyKvars h) fun _ _ h => keeps_resumeField h))

theorem keeps_reRole {a f role} (h : Keeps r s) : Keeps r (reRole s a f role) := by
  unfold reRole
  split
  · exact h
  · exact keeps_startPreempt (keeps_modJob h)

theorem keeps_fieldRest {f} (h : Keeps r s) : Keeps r (fieldRest s f) :=
  keeps_ite h (keeps_ite (keeps_ite (keeps_pithPrepare h) h) (keeps_ite h (keeps_reRole h)))

/-! ## Pairing -/

theorem keeps_sendHello {p} (h : Keeps r s) : Keeps r (sendHello s p) :=
  keeps_mirSend h

theorem keeps_pairSetup {q} (h : Keeps r s) : Keeps r (pairSetup s q) :=
  keeps_serve h (fun _ => keeps_ite (keeps_finishCmd h) (keeps_ite (keeps_finishCmd h) (keeps_foldl (keeps_mk
      (keeps_beginCmd h)) fun _ _ h => keeps_sendHello h)))

theorem keeps_finishSetup {status res0} (h : Keeps r s) : Keeps r (finishSetup s status res0) :=
  keeps_foldl h fun _ _ h => keeps_finishCmd h

theorem keeps_refusePair {n} (h : Keeps r s) : Keeps r (refusePair s n) :=
  keeps_finishSetup (keeps_mk h)

theorem keeps_hello {p src store logGib nports} (h : Keeps r s) : Keeps r (hello s p src store logGib nports) :=
  keeps_ite h (keeps_ite (keeps_refusePair h) (keeps_ite (keeps_refusePair h) (keeps_ite (keeps_ite (keeps_sendHello (keeps_mk h))
      (keeps_mk h)) (keeps_finishSetup (keeps_mk (keeps_ite (keeps_sendHello (keeps_mk h)) (keeps_mk h)))))))

theorem keeps_pairFormationTimeout (h : Keeps r s) : Keeps r (pairFormationTimeout s) :=
  keeps_ite (keeps_refusePair h) h

theorem keeps_pairDissolve {q} (h : Keeps r s) : Keeps r (pairDissolve s q) :=
  keeps_serve h (fun _ => keeps_ite (keeps_finishCmd h) (keeps_finishCmd (keeps_mk h)))

theorem keeps_sliceRelease {q} (h : Keeps r s) : Keeps r (sliceRelease s q) := by
  unfold sliceRelease
  exact keeps_serve h (fun _ => by
      split
      · exact keeps_finishCmd h
      · exact keeps_finishCmd (keeps_modSlice h))

theorem keeps_heartbeatSend {p} (h : Keeps r s) : Keeps r (heartbeatSend s p) :=
  keeps_ite (keeps_mirSend h) h

theorem keeps_mirrorBlockAdmit {a} (h : Keeps r s) : Keeps r (mirrorBlockAdmit s a) := by
  unfold mirrorBlockAdmit
  dsimp only
  split
  · exact h
  · split
    · exact keeps_modJob h
    · split
      · exact keeps_ite (keeps_modJob h) (keeps_ite h (keeps_mirrorAdmit (keeps_modJob h)))
      · exact keeps_modJob h

theorem keeps_mirrorWrite {p w} (h : Keeps r s) : Keeps r (mirrorWrite s p w) := by
  unfold mirrorWrite
  exact keeps_ite h (keeps_ite (keeps_losePair (keeps_raise h)) (by
      split
      · exact keeps_mirSend (keeps_modSlice h)
      · split
        · exact keeps_mirSend (keeps_modSlice h)
        · exact h))

theorem keeps_wack {p job t seq} (h : Keeps r s) : Keeps r (wack s p job t seq) :=
  keeps_ite h (keeps_mk h)

theorem keeps_mirrorComplete {p job t} (h : Keeps r s) : Keeps r (mirrorComplete s p job t) := by
  unfold mirrorComplete
  exact keeps_ite h (by
      split
      · exact keeps_modSlice h
      · exact h)

theorem keeps_mirrorDiscard {p job c} (h : Keeps r s) : Keeps r (mirrorDiscard s p job c) := by
  unfold mirrorDiscard
  exact keeps_ite h (by
      split
      · exact keeps_modSlice h
      · exact h)

theorem keeps_pairFail {p} (h : Keeps r s) : Keeps r (pairFail s p) :=
  keeps_ite (keeps_losePair h) h

theorem keeps_sliceSealingComplete {i'} (h : Keeps r s) : Keeps r (sliceSealingComplete s i') :=
  keeps_modSlice h

theorem keeps_mirrorIntervalCommit {a} (h : Keeps r s) : Keeps r (mirrorIntervalCommit s a) := by
  unfold mirrorIntervalCommit
  dsimp only
  split
  · exact h
  · exact keeps_ite h (keeps_ite (keeps_ite h (keeps_mk (keeps_mirrorAdmit h))) (keeps_ite h (keeps_pithPrepare h)))

theorem keeps_sliceSend {ep answer r' b} (h : Keeps r s) : Keeps r (sliceSend s ep answer r' b) := by
  unfold sliceSend
  exact keeps_ite h (by
      split
      · exact h
      · exact keeps_enqueue h)

theorem keeps_sliceRd {p m} (h : Keeps r s) : Keeps r (sliceRd s p m) :=
  keeps_ite h (keeps_foldl h fun _ _ h => keeps_sliceSend h)

theorem keeps_sendRead {first} (h : Keeps r s) : Keeps r (sendRead s first) :=
  keeps_sliceSend h

theorem keeps_issueReads {n} (h : Keeps r s) : Keeps r (issueReads s n) := by
  induction n generalizing s with
  | zero => exact h
  | succ n ih => exact keeps_ite h (ih (keeps_sendRead (keeps_mk_bup h)))

theorem keeps_mirrorResume {q fam} (h : Keeps r s) : Keeps r (mirrorResume s q fam) := by
  refine keeps_serve h fun c => keeps_ite h (keeps_ite (keeps_finishCmd h) (keeps_ite (keeps_finishCmd h) (keeps_ite (keeps_finishCmd h) ?_)))
  split
  · exact keeps_finishCmd h
  · exact keeps_finishCmd h
  · split
    · exact h
    · exact keeps_ite h (keeps_ite (keeps_finishCmd h) (keeps_ite (keeps_finishCmd h) (keeps_ite (keeps_finishCmd h)
        (keeps_issueReads (keeps_mk (keeps_beginCmd (keeps_admitJob h)))))))

theorem keeps_failResume {status} (h : Keeps r s) : Keeps r (failResume s status) :=
  keeps_freeJob (keeps_mk_bup (keeps_foldl h fun _ _ h => keeps_finishCmd h))

theorem keeps_sliceFetched (h : Keeps r s) : Keeps r (sliceFetched s) :=
  keeps_ite (keeps_failResume h) (keeps_modJob h)

theorem keeps_sliceData {p m b} (h : Keeps r s) : Keeps r (sliceData s p m b) := by
  unfold sliceData
  dsimp only
  exact keeps_ite h (by
      split
      · exact h
      · exact keeps_ite (keeps_failResume h) (keeps_ite (keeps_mk h) (keeps_ite (keeps_sliceFetched (keeps_mk_bup h)) (keeps_issueReads
          (keeps_mk_bup h)))))

theorem keeps_sliceRdTimeout {first} (h : Keeps r s) : Keeps r (sliceRdTimeout s first) := by
  unfold sliceRdTimeout
  split
  · exact h
  · exact keeps_ite (keeps_failResume h) (keeps_sendRead (keeps_mk h))

/-! ## Cxl -/

theorem keeps_queueError {q code} (h : Keeps r s) : Keeps r (queueError s q code) :=
  keeps_modQueue h

theorem keeps_sqEntryFetch {q entry poison} (h : Keeps r s) : Keeps r (sqEntryFetch s q entry poison) :=
  keeps_ite h (keeps_ite (keeps_queueError h) (keeps_ite (keeps_postCpl (keeps_modQueue h)) (keeps_ite (keeps_postCpl (keeps_modQueue h))
      (keeps_mk (keeps_modQueue h)))))

theorem keeps_takeTail {q v} (h : Keeps r s) : Keeps r (takeTail s q v) :=
  keeps_ite (keeps_queueError h) (keeps_modQueue h)

theorem keeps_takeHead {q v} (h : Keeps r s) : Keeps r (takeHead s q v) :=
  keeps_modQueue h

theorem keeps_takeCount {q cq v} (h : Keeps r s) : Keeps r (takeCount s q cq v) :=
  keeps_ite (keeps_ite (keeps_mk h) (keeps_mk h)) (keeps_ite (keeps_takeHead h) (keeps_takeTail h))

theorem keeps_dropLine {a} (h : Keeps r s) : Keeps r (dropLine s a) :=
  keeps_mk h

theorem keeps_keepLine {a v} (h : Keeps r s) : Keeps r (keepLine s a v) :=
  keeps_mk h

theorem keeps_tailLineUpdate {q cq count poison} (h : Keeps r s) : Keeps r (tailLineUpdate s q cq count poison) :=
  keeps_ite h (keeps_ite (keeps_queueError (keeps_dropLine h)) (keeps_ite (keeps_queueError (keeps_dropLine h)) (keeps_takeCount
      (keeps_keepLine (keeps_dropLine h)))))

theorem keeps_doorbell {q cq value h'} (h : Keeps r s) : Keeps r (doorbell s q cq value h') :=
  keeps_ite h (keeps_takeCount h)

theorem keeps_completionWrite {q} (h : Keeps r s) : Keeps r (completionWrite s q) := by
  unfold completionWrite
  split
  · exact h
  · exact keeps_ite h (keeps_ite (keeps_queueError h) (keeps_ite (keeps_msixDue (keeps_modQueue (keeps_emit (keeps_mk h)))) (keeps_modQueue
      (keeps_emit (keeps_mk h)))))

theorem keeps_msixSend {v} (h : Keeps r s) : Keeps r (msixSend s v) :=
  keeps_ite h (keeps_emit (keeps_mk h))

theorem keeps_writeQcfg {q value h'} (h : Keeps r s) : Keeps r (writeQcfg s q value h') :=
  keeps_ite h (keeps_modQueue h)

theorem keeps_qerrClear {q x h'} (h : Keeps r s) : Keeps r (qerrClear s q x h') :=
  keeps_ite (keeps_queueError (keeps_writeQcfg h)) (keeps_writeQcfg h)

theorem keeps_portOut {p} (h : Keeps r s) : Keeps r (portOut s p) :=
  keeps_ite (keeps_modCxlPort h) h

theorem keeps_portIn {p rate} (h : Keeps r s) : Keeps r (portIn s p rate) :=
  keeps_ite h (keeps_modCxlPort h)

theorem keeps_hostTransferTimeout {f tag} (h : Keeps r s) : Keeps r (hostTransferTimeout s f tag) := by
  unfold hostTransferTimeout
  split
  · exact h
  · exact keeps_ite h (keeps_raiseDie (keeps_modXfer (keeps_failTransfer h)))

theorem keeps_writeGrant {g hi value h'} (h : Keeps r s) : Keeps r (writeGrant s g hi value h') :=
  keeps_ite h (keeps_modGrant h)

theorem keeps_revokeComplete {g} (h : Keeps r s) : Keeps r (revokeComplete s g) :=
  keeps_ite h (keeps_modGrant h)

theorem keeps_hostWinWrite {value h'} (h : Keeps r s) : Keeps r (hostWinWrite s value h') :=
  keeps_ite h (keeps_mk h)

theorem keeps_hdmDecoderCommit {commit} (h : Keeps r s) : Keeps r (hdmDecoderCommit s commit) :=
  keeps_ite h (keeps_ite h (keeps_mk h))

theorem keeps_hostWindowAccess {addr write data poison} (h : Keeps r s) : Keeps r (hostWindowAccess s addr write data poison) :=
  keeps_ite h (keeps_ite (keeps_nearStore (keeps_wakeChan h)) (keeps_emit (keeps_wakeChan h)))

theorem keeps_mapWindow {q entries} (h : Keeps r s) : Keeps r (mapWindow s q entries) :=
  keeps_serve h (fun _ => keeps_onJob h (fun _ => keeps_ite (keeps_finishCmd h) (keeps_ite (keeps_finishCmd h) (keeps_finishCmd (keeps_modJob
      (keeps_writeEntries h))))))

theorem keeps_unmapWindow {q entries} (h : Keeps r s) : Keeps r (unmapWindow s q entries) :=
  keeps_serve h (fun _ => keeps_onJob h (fun _ => keeps_ite (keeps_finishCmd h) (keeps_finishCmd (keeps_modJob (keeps_translationInvalidate
      (keeps_writeEntries h))))))

theorem keeps_ctxOpen {q} (h : Keeps r s) : Keeps r (ctxOpen s q) :=
  keeps_serve h (fun _ => keeps_ite (keeps_finishCmd h) (keeps_ite (keeps_finishCmd h) (keeps_ite (keeps_finishCmd h) (keeps_ite (keeps_failCtx
      (keeps_modCtx (keeps_beginCmd h))) (keeps_ctxSend (keeps_modCtx (keeps_beginCmd h)))))))

theorem keeps_ctxClose {q} (h : Keeps r s) : Keeps r (ctxClose s q) :=
  keeps_serve h (fun _ => keeps_ite (keeps_finishCmd h) (keeps_ite (keeps_finishCmd h) (keeps_closeCtx (keeps_beginCmd h))))

theorem keeps_routeSet {q} (h : Keeps r s) : Keeps r (routeSet s q) :=
  keeps_serve h (fun _ => keeps_ite (keeps_finishCmd h) (keeps_finishCmd (keeps_mk_bup h)))

theorem keeps_portRetrain {q} (h : Keeps r s) : Keeps r (portRetrain s q) :=
  keeps_serve h (fun _ => keeps_ite (keeps_finishCmd h) (keeps_ite (keeps_startRetrain (keeps_beginCmd h)) (keeps_modPort (keeps_beginCmd h))))

theorem keeps_doeDiscovery {index} (h : Keeps r s) : Keeps r (doeDiscovery s index) :=
  keeps_ite h (keeps_emit h)

theorem keeps_cxlTableAccess {entry} (h : Keeps r s) : Keeps r (cxlTableAccess s entry) :=
  keeps_ite (keeps_emit h) h

/-! ## MapOps -/

theorem keeps_applyEntry {e} (h : Keeps r s) : Keeps r (applyEntry s e) :=
  keeps_ite (keeps_mk h) (keeps_ite (keeps_mk h) (keeps_ite (keeps_mk h) (keeps_ite (keeps_mk h) (keeps_ite (keeps_mk h) (keeps_ite
      (keeps_mk_bup h) (keeps_ite (keeps_mk h) (keeps_ite (keeps_mk h) (keeps_ite (keeps_modField h) (keeps_ite (keeps_modFpow h) h)))))))))

theorem keeps_storeRecord {l sig} (h : Keeps r s) : Keeps r (storeRecord s l sig) :=
  keeps_ite (keeps_mk h) (keeps_ite (keeps_mk h) (keeps_bumpGen (keeps_mk (keeps_mk h))))

theorem trustGrows_useIndex (t : Trust) : TrustGrows t (useIndex t) := by
  intro h
  refine ⟨?_, Nat.le_succ _, le_rfl, fun _ => id⟩
  show t.sigNext + 1 ≤ if t.sigEnd ≤ t.sigNext then (t.sigNext / signBlock + 1) * signBlock else t.sigEnd
  have : t.sigNext < (t.sigNext / signBlock + 1) * signBlock := Nat.lt_mul_of_div_lt (Nat.lt_succ_self _) (by decide)
  split <;> omega

theorem keeps_commitRecord {l} (h : Keeps r s) : Keeps r (commitRecord s l) :=
  keeps_ite h (keeps_storeRecord (h.setTrs (trustGrows_useIndex _)))

theorem trustGrows_keptTrust (t : Trust) : TrustGrows t (keptTrust t) := fun h => ⟨le_rfl, h, le_rfl, fun _ => id⟩

theorem memsWf_empty {fl} {ch} : memsWf { selfRefresh := fl, chan := ch } = true := rfl

theorem keeps_coldState (h : Keeps r s) : Keeps r (coldState s) :=
  ⟨fun _ => ⟨memsWf_empty, rfl⟩, h.trust.trans (trustGrows_keptTrust s.trs), .inr rfl⟩

theorem keeps_sloeState (h : Keeps r s) : Keeps r (sloeState s) :=
  keeps_mk (keeps_coldState h)

theorem keeps_beginReset {recovery} (h : Keeps r s) : Keeps r (beginReset s recovery) := by
  unfold beginReset
  have hs : Keeps r (if s.inp.held then s else sendFail s) := keeps_ite h (keeps_sendFail h)
  revert hs
  generalize (if s.inp.held then s else sendFail s) = u
  intro hu
  refine ⟨fun _ => ⟨memsWf_empty, ?_⟩, hu.trust.trans ?_, .inr rfl⟩
  · dsimp only
    split <;> rfl
  · dsimp only
    split <;> exact trustGrows_keptTrust u.trs

/-! ## Power -/

theorem keeps_inputFail {v} (h : Keeps r s) : Keeps r (inputFail s v) :=
  keeps_ite h (keeps_mk (keeps_sloeState h))

theorem keeps_execInputFail {decivolt} (h : Keeps r s) : KeepsOut r (execInputFail decivolt s) :=
  keepsOut_ite keepsOut_fault (keepsOut_next (keeps_inputFail h))

theorem keeps_standbyPowerLoss {v} (h : Keeps r s) : Keeps r (standbyPowerLoss s v) :=
  keeps_ite (keeps_coldState h) h

theorem keeps_execStandbyPowerLoss {decivolt} (h : Keeps r s) : KeepsOut r (execStandbyPowerLoss decivolt s) :=
  keepsOut_ite keepsOut_fault (keepsOut_next (keeps_standbyPowerLoss h))

theorem keeps_inputRestored (h : Keeps r s) : Keeps r (inputRestored s) :=
  keeps_ite h (keeps_mk h)

theorem keeps_inputRange (h : Keeps r s) : Keeps r (inputRange s) :=
  keeps_ite h (keeps_raiseSloe (keeps_refreshLow (keeps_mk h)))

theorem keeps_endForced (h : Keeps r s) : Keeps r (endForced s) :=
  keeps_modFields (keeps_refreshLow h)

theorem keeps_inputCurrent (h : Keeps r s) : Keeps r (inputCurrent s) :=
  keeps_ite h (keeps_raiseSloe (keeps_refreshLow (keeps_mk h)))

theorem keeps_inputMeterUpdate {w dv da mj} (h : Keeps r s) : Keeps r (inputMeterUpdate s w dv da mj) :=
  keeps_ite h (keeps_mk h)

theorem keeps_forcedInputActive {i'} (h : Keeps r s) : Keeps r (forcedInputActive s i') :=
  keeps_ite h (keeps_ite (keeps_raise (keeps_refreshLow (keeps_mk h))) (keeps_mk h))

theorem keeps_forcedInputRelease {i'} (h : Keeps r s) : Keeps r (forcedInputRelease s i') :=
  keeps_ite h (keeps_endForced (keeps_mk h))

theorem keeps_stuckInput {i'} (h : Keeps r s) : Keeps r (stuckInput s i') :=
  keeps_ite h (keeps_raiseSloe (keeps_mk h))

theorem keeps_alertAck {mask} (h : Keeps r s) : Keeps r (alertAck s mask) :=
  keeps_ite h (keeps_mk h)

theorem keeps_newCeiling (h : Keeps r s) : Keeps r (newCeiling s) :=
  keeps_commitCap (keeps_mk h)

theorem keeps_coolantSample {inlet outlet watts} (h : Keeps r s) : Keeps r (coolantSample s inlet outlet watts) :=
  keeps_ite h (keeps_ite (keeps_ite (keeps_mk h) (keeps_newCeiling (keeps_bumpGen (keeps_mk (keeps_mk h))))) (keeps_raiseSloe (keeps_refreshLow
      (keeps_mk (keeps_ite (keeps_mk h) (keeps_newCeiling (keeps_bumpGen (keeps_mk (keeps_mk h)))))))))

theorem keeps_coolantRangeRelease (h : Keeps r s) : Keeps r (coolantRangeRelease s) :=
  keeps_ite h (keeps_endForced (keeps_mk h))

theorem keeps_converterLost {i'} (h : Keeps r s) : Keeps r (converterLost s i') :=
  keeps_ite h (keeps_ite (keeps_raiseSloe (keeps_settleConv (keeps_newCeiling (keeps_raiseSloe (keeps_dueEntry (keeps_bumpGen
      (keeps_mk h))))))) (keeps_settleConv (keeps_newCeiling (keeps_raiseSloe (keeps_dueEntry (keeps_bumpGen (keeps_mk h)))))))

theorem keeps_converterOverload (h : Keeps r s) : Keeps r (converterOverload s) :=
  keeps_ite h (keeps_refreshLow (keeps_mk h))

theorem keeps_trayCapSet {steps} (h : Keeps r s) : Keeps r (trayCapSet s steps) :=
  keeps_ite h (keeps_commitCap (keeps_mk h))

theorem keeps_commitProfile {eff} (h : Keeps r s) : Keeps r (commitProfile s eff) :=
  keeps_ite h (keeps_pithPrepare h)

theorem keeps_powerSet {q} (h : Keeps r s) : Keeps r (powerSet s q) :=
  keeps_serve h (fun _ => keeps_ite (keeps_finishCmd h) (keeps_ite (keeps_finishCmd h) (keeps_powerSetDone (keeps_ite (keeps_ite
      (keeps_commitProfile (keeps_ite (keeps_commitCap (keeps_mk (keeps_ite (keeps_mk (keeps_beginCmd h)) (keeps_beginCmd h)))) (keeps_mk
      (keeps_ite (keeps_mk (keeps_beginCmd h)) (keeps_beginCmd h))))) (keeps_ite (keeps_commitCap (keeps_mk (keeps_ite (keeps_mk
      (keeps_beginCmd h)) (keeps_beginCmd h)))) (keeps_mk (keeps_ite (keeps_mk (keeps_beginCmd h)) (keeps_beginCmd h))))) (keeps_commitCap
      (keeps_ite (keeps_commitProfile (keeps_ite (keeps_commitCap (keeps_mk (keeps_ite (keeps_mk (keeps_beginCmd h)) (keeps_beginCmd h))))
      (keeps_mk (keeps_ite (keeps_mk (keeps_beginCmd h)) (keeps_beginCmd h))))) (keeps_ite (keeps_commitCap (keeps_mk (keeps_ite (keeps_mk
      (keeps_beginCmd h)) (keeps_beginCmd h)))) (keeps_mk (keeps_ite (keeps_mk (keeps_beginCmd h)) (keeps_beginCmd h))))))))))

theorem keeps_regulatorSample {f y} (h : Keeps r s) : Keeps r (regulatorSample s f y) :=
  keeps_ite h (keeps_ite (keeps_raiseField (keeps_modFpow h)) (keeps_modFpow h))

theorem keeps_floorRelease {f} (h : Keeps r s) : Keeps r (floorRelease s f) :=
  keeps_modFpow h

theorem keeps_tripField {f trip} (h : Keeps r s) : Keeps r (tripField s f trip) :=
  keeps_ite h (keeps_ite (keeps_ite (keeps_modCond (keeps_resay h)) h) (keeps_send (keeps_fenceHw h)))

theorem keeps_governorSample {f mw} (h : Keeps r s) : Keeps r (governorSample s f mw) :=
  keeps_ite h (keeps_modFpow h)

theorem keeps_freqTo {k} (h : Keeps r s) : Keeps r (freqTo s k) :=
  keeps_ite h (keeps_pithPrepare h)

theorem keeps_dutySample {kfit} (h : Keeps r s) : Keeps r (dutySample s kfit) :=
  keeps_ite h (keeps_ite (keeps_freqTo (keeps_foldl h fun _ _ h => keeps_modFpow h)) (keeps_foldl h fun _ _ h => keeps_modFpow h))

theorem keeps_rateRaise {fits} (h : Keeps r s) : Keeps r (rateRaise s fits) :=
  keeps_ite h (keeps_freqTo h)

theorem keeps_calibration {f rail measured modelled} (h : Keeps r s) : Keeps r (calibration s f rail measured modelled) :=
  keeps_ite h (keeps_ite (keeps_ite (keeps_modFpow h) (keeps_foldl (keeps_modFpow h) fun _ _ h => keeps_modJob h)) (keeps_raiseField (keeps_ite
      (keeps_modFpow h) (keeps_foldl (keeps_modFpow h) fun _ _ h => keeps_modJob h))))

theorem keeps_thermalTrip {f} (h : Keeps r s) : Keeps r (thermalTrip s f) :=
  keeps_ite h (keeps_ite (keeps_retireField (keeps_tripField (keeps_modCond h))) (keeps_tripField (keeps_modCond h)))

theorem keeps_thermalSensorSample {f temps} (h : Keeps r s) : Keeps r (thermalSensorSample s f temps) :=
  keeps_ite h (keeps_ite (keeps_thermalTrip (keeps_modFpow h)) (keeps_ite (keeps_ite (keeps_modFpow h) (keeps_raiseField (keeps_modFclk
      (keeps_modFpow h)))) (keeps_ite (keeps_modFpow (keeps_modFclk (keeps_modFpow h))) (keeps_modFpow h))))

theorem keeps_heatRest {f} (h : Keeps r s) : Keeps r (heatRest s f) :=
  keeps_ite (keeps_freqTo h) (keeps_ite h (keeps_reRole (keeps_modFpow h)))

theorem keeps_heatWake {f} (h : Keeps r s) : Keeps r (heatWake s f) := by
  unfold heatWake
  split
  · exact h
  · exact keeps_reRole (keeps_modFpow h)

theorem keeps_thermalRead {f} (h : Keeps r s) : Keeps r (thermalRead s f) :=
  keeps_ite h (keeps_ite (keeps_heatRest (keeps_modFpow h)) (keeps_ite (keeps_freqTo (keeps_modFpow (keeps_modFpow h))) (keeps_ite
      (keeps_freqTo (keeps_modFpow (keeps_modFpow h))) (keeps_ite (keeps_heatWake (keeps_modFpow h)) (keeps_modFpow h)))))

theorem keeps_takePower {f op value} (h : Keeps r s) : Keeps r (takePower s f op value) :=
  keeps_receive h

theorem keeps_setpoint {f mv} (h : Keeps r s) : Keeps r (setpoint s f mv) :=
  keeps_ite (keeps_takePower h) (keeps_ite (keeps_ite (keeps_mk_trs (keeps_takePower h)) (keeps_takePower h)) (keeps_modFpow
      (keeps_takePower h)))

theorem keeps_phase {f p disable} (h : Keeps r s) : Keeps r (phase s f p disable) :=
  keeps_ite (keeps_takePower h) (keeps_modFpow (keeps_takePower h))

theorem keeps_rails {f mask} (h : Keeps r s) : Keeps r (rails s f mask) :=
  keeps_ite (keeps_takePower h) (keeps_modFpow (keeps_takePower h))

theorem keeps_energySnap {f} (h : Keeps r s) : Keeps r (energySnap s f) :=
  keeps_ite (keeps_takePower h) (keeps_modFpow (keeps_takePower h))

/-! ## Clocks -/

theorem keeps_refLossDetected (h : Keeps r s) : Keeps r (refLossDetected s) :=
  keeps_ite h (keeps_ite (keeps_refreshStaged (keeps_abortOut (keeps_mk h))) (keeps_mk h))

theorem keeps_refQualified {micros} (h : Keeps r s) : Keeps r (refQualified s micros) :=
  keeps_ite h (keeps_ite (keeps_mk h) (keeps_pump (keeps_raiseSloe (keeps_applyNominal (keeps_modFields (keeps_mk (keeps_mk h)))))))

theorem keeps_refLost (h : Keeps r s) : Keeps r (refLost s) :=
  keeps_ite h (keeps_raiseSloe (keeps_mk h))

theorem keeps_sloeClock (h : Keeps r s) : Keeps r (sloeClock s) :=
  keeps_ite h (keeps_ite (keeps_raiseSloe (keeps_mk h)) (keeps_mk h))

theorem keeps_abandonPlacement {a f} (h : Keeps r s) : Keeps r (abandonPlacement s a f) :=
  keeps_modJob (keeps_foldl (keeps_leaveCommits h) fun _ _ h => keeps_leaveField (keeps_stopFieldJob h))

theorem keeps_oscLockTimeout {f} (h : Keeps r s) : Keeps r (oscLockTimeout s f) := by
  unfold oscLockTimeout
  split
  · exact h
  · exact keeps_ite h (keeps_ite (keeps_modCond h) (keeps_foldl (keeps_raiseField (keeps_modCond h)) fun _ _ h => keeps_abandonPlacement h))

theorem keeps_watchdogWrite (h : Keeps r s) : Keeps r (watchdogWrite s) :=
  keeps_ite (keeps_mk h) h

theorem keeps_pithGone (h : Keeps r s) : Keeps r (pithGone s) :=
  keeps_enterSafe (keeps_raiseSloe (keeps_mk h))

theorem keeps_restartSaves (h : Keeps r s) : Keeps r (restartSaves s) :=
  keeps_foldl h fun _ _ h => keeps_ite (keeps_modJob h) h

theorem keeps_pithFails (h : Keeps r s) : Keeps r (pithFails s) :=
  keeps_ite h (keeps_ite (keeps_pithGone h) (keeps_mk_trs (keeps_restartSaves h)))

theorem keeps_watchdogExpiry (h : Keeps r s) : Keeps r (watchdogExpiry s) :=
  keeps_ite h (keeps_pithFails (keeps_mk h))

theorem keeps_takeoverTimeout (h : Keeps r s) : Keeps r (takeoverTimeout s) :=
  keeps_ite h (keeps_pithGone h)

theorem keeps_hostFree {q} (h : Keeps r s) : Keeps r (hostFree s q) :=
  keeps_ite h (keeps_ite (keeps_mk h) (keeps_freeSeq h))

theorem keeps_applyKept (h : Keeps r s) : Keeps r (applyKept s) :=
  keeps_foldl (keeps_foldl (keeps_foldl (keeps_mk h) fun _ _ h => keeps_hostFree h) fun _ _ h => keeps_takeTail h) fun _ _ h => keeps_takeHead h

theorem keeps_takeoverComplete (h : Keeps r s) : Keeps r (takeoverComplete s) :=
  keeps_ite h (keeps_ite (keeps_settle (keeps_pithEvent (keeps_applyKept (keeps_refreshStaged (keeps_abortOut (keeps_mk h)))))) (keeps_pump
      (keeps_settle (keeps_handlingDone (keeps_pithEvent (keeps_foldl (keeps_applyKept (keeps_refreshStaged (keeps_abortOut
      (keeps_mk h)))) fun _ _ h => keeps_readSnaps h))))))

theorem keeps_moduleReset (h : Keeps r s) : Keeps r (moduleReset s) :=
  keeps_ite h (keeps_ite (keeps_mk h) (keeps_beginReset (keeps_mk h)))

theorem keeps_clearPort {p} (h : Keeps r s) : Keeps r (clearPort s p) :=
  keeps_modCxlPort h

theorem keeps_functionReset (h : Keeps r s) : Keeps r (functionReset s) :=
  keeps_clearPort (keeps_clearPort (keeps_foldl (keeps_mk h) fun _ _ h => keeps_modJob h))

theorem keeps_assertPerst {p} (h : Keeps r s) : Keeps r (assertPerst s p) :=
  keeps_ite h (keeps_ite (keeps_functionReset (keeps_clearPort (keeps_mk h))) (keeps_clearPort (keeps_mk h)))

theorem keeps_bothPerst (h : Keeps r s) : Keeps r (bothPerst s) :=
  keeps_ite h (keeps_ite (keeps_functionReset (keeps_mk h)) (keeps_mk h))

theorem keeps_perstDeassert {p test} (h : Keeps r s) : Keeps r (perstDeassert s p test) :=
  keeps_ite h (keeps_ite (keeps_mk h) (keeps_portIn (keeps_mk h)))

/-! ## BringUp -/

theorem keeps_failBring {phase code} (h : Keeps r s) : Keeps r (failBring s phase code) :=
  keeps_mk h

theorem keeps_trainCxl {pl} (h : Keeps r s) : Keeps r (trainCxl s pl) :=
  keeps_portIn (keeps_portIn h)

theorem keeps_enterRecovery {pl} (h : Keeps r s) : Keeps r (enterRecovery s pl) :=
  keeps_trainCxl (keeps_mk_trs h)

theorem keeps_readRecords {pl} (h : Keeps r s) : Keeps r (readRecords s pl) := by
  unfold readRecords
  split
  · exact keeps_ite (keeps_mk h) h
  · exact h

theorem keeps_logInputFail (h : Keeps r s) : Keeps r (logInputFail s) := by
  unfold logInputFail
  dsimp only
  exact keeps_ite h (by
      split
      · exact keeps_putRec (keeps_mk h)
      · exact keeps_mk h)

theorem keeps_bringNear {pl} (h : Keeps r s) : Keeps r (bringNear s pl) := by
  unfold bringNear
  split
  · exact keeps_mk_mem h
  · have ht := h.setTrs (x := { s.trs with winHi := min pl.channels ((List.range 40).map fun st =>
      (stackChannels s st).length).sum * chanBlocks * 4096, winLo := min pl.channels ((List.range 40).map fun st =>
      (stackChannels s st).length).sum * chanBlocks * 4096 - windowGib (min pl.channels ((List.range 40).map fun st =>
      (stackChannels s st).length).sum) * 2 ^ 30, winFixed := true })
      (fun hs => ⟨hs, le_rfl, le_rfl, fun _ => id⟩)
    exact keeps_mk (ht.setMem fun _ => memsWf_empty)

theorem keeps_bringFar {pl} (h : Keeps r s) : Keeps r (bringFar s pl) :=
  keeps_ite (keeps_raiseDie (keeps_mk h)) (keeps_mk h)

theorem keeps_bringPorts {pl} (h : Keeps r s) : Keeps r (bringPorts s pl) :=
  keeps_mk_bup h

theorem keeps_recordFound {pl} (h : Keeps r s) : Keeps r (recordFound s pl) :=
  keeps_foldl h fun _ _ h => keeps_commitRecord h

theorem keeps_applyMap (h : Keeps r s) : Keeps r (applyMap s) :=
  keeps_foldl h fun _ _ h => keeps_applyEntry h

theorem keeps_testField {pl f} (h : Keeps r s) : Keeps r (testField pl s f) :=
  keeps_foldl (keeps_foldl (keeps_modField h) fun _ _ h => keeps_commitRecord h) fun _ _ h => keeps_applyEntry h

theorem keeps_phaseEnd {pl} (h : Keeps r s) : Keeps r (phaseEnd s pl) :=
  keeps_mk h

theorem keeps_declareReady (h : Keeps r s) : Keeps r (declareReady s) :=
  keeps_ite (keeps_failBring (keeps_ite (keeps_raiseSloe (keeps_mk (keeps_mk h))) (keeps_mk (keeps_mk h)))) (keeps_ite (keeps_failBring
      (keeps_ite (keeps_raiseSloe (keeps_mk (keeps_mk h))) (keeps_mk (keeps_mk h)))) (keeps_mk (keeps_ite (keeps_raiseSloe (keeps_mk
      (keeps_mk h))) (keeps_mk (keeps_mk h)))))

theorem keeps_bootVerify {pl} (h : Keeps r s) : Keeps r (bootVerify s pl) :=
  keeps_ite (keeps_enterRecovery (keeps_failBring (keeps_mk_trs h))) (keeps_ite (keeps_enterRecovery (keeps_mk (keeps_mk_trs h)))
      (keeps_phaseEnd (keeps_mk (keeps_mk_trs h))))

theorem keeps_noPith {pl} (h : Keeps r s) : Keeps r (noPith s pl) :=
  keeps_pithGone (keeps_failBring (keeps_trainCxl h))

theorem keeps_startPith {pl} (h : Keeps r s) : Keeps r (startPith s pl) :=
  keeps_ite (keeps_noPith h) (keeps_ite h (keeps_ite (keeps_failBring (keeps_trainCxl (keeps_logInputFail (keeps_mk (keeps_readRecords h)))))
      (keeps_phaseEnd (keeps_logInputFail (keeps_mk (keeps_readRecords h))))))

theorem keeps_qualify {pl} (h : Keeps r s) : Keeps r (qualify s pl) :=
  keeps_mk (keeps_phaseEnd (keeps_trainCxl (keeps_bringPorts h)))

theorem keeps_selfTest {pl} (h : Keeps r s) : Keeps r (selfTest s pl) :=
  keeps_phaseEnd (keeps_foldl (keeps_refreshLow (keeps_applyMap (keeps_recordFound h))) fun _ _ h => keeps_testField h)

theorem keeps_phaseRun (h : Keeps r s) : Keeps r (phaseRun s) := by
  unfold phaseRun
  split
  · exact h
  · split
    · exact keeps_phaseEnd h
    · exact keeps_bootVerify h
    · exact keeps_startPith h
    · exact keeps_phaseEnd (keeps_bringFar (keeps_bringNear h))
    · exact keeps_qualify h
    · exact keeps_selfTest h
    · exact keeps_declareReady (keeps_phaseEnd h)

theorem keeps_phaseOrPause (h : Keeps r s) : Keeps r (phaseOrPause s) :=
  keeps_ite h (keeps_phaseRun h)

theorem keeps_bringRun (h : Keeps r s) : Keeps r (bringRun s) :=
  keeps_mk (keeps_foldl h fun _ _ h => keeps_phaseOrPause h)

theorem keeps_bringPhase (h : Keeps r s) : Keeps r (bringPhase s) :=
  keeps_ite h (keeps_phaseRun h)

theorem keeps_bringFrom {n pl} (h : Keeps r s) : Keeps r (bringFrom s n pl) :=
  keeps_bringRun (keeps_mk_trs h)

theorem keeps_bringUp {pl} (h : Keeps r s) : Keeps r (bringUp s pl) :=
  keeps_bringFrom (keeps_refreshLow (keeps_mk h))

theorem keeps_powerOn {pl} (h : Keeps r s) : Keeps r (powerOn s pl) :=
  keeps_ite h (keeps_bringUp (keeps_mk (keeps_coldState h)))

theorem keeps_sysRstNRelease {pl} (h : Keeps r s) : Keeps r (sysRstNRelease s pl) :=
  keeps_ite (keeps_mk h) (keeps_bringUp (keeps_mk h))

theorem keeps_pithStartTimeout (h : Keeps r s) : Keeps r (pithStartTimeout s) := by
  unfold pithStartTimeout
  split
  · exact h
  · exact keeps_ite h (keeps_ite (keeps_bringRun (keeps_mk (keeps_commitRecord h))) (keeps_noPith (keeps_commitRecord h)))

/-! ## Bupol -/

theorem keeps_ackTimeout {p} (h : Keeps r s) : Keeps r (ackTimeout s p) :=
  keeps_ite h (keeps_startRetrain h)

theorem keeps_failLane {p l} (h : Keeps r s) : Keeps r (failLane p s l) :=
  keeps_ite h (keeps_ite (keeps_raiseDie (keeps_mk_bup (keeps_dueEntry h))) (keeps_mk_bup (keeps_dueEntry h)))

theorem keeps_retrain {p bad lanes} (h : Keeps r s) : Keeps r (retrain s p bad lanes) :=
  keeps_ite h (keeps_foldl (keeps_ite (keeps_bumpGen (keeps_modPort (keeps_foldl h fun _ _ h => keeps_failLane h))) (keeps_raiseDie
      (keeps_modPort (keeps_foldl h fun _ _ h => keeps_failLane h)))) fun _ _ h => keeps_finishCmd h)

theorem keeps_rdReq {p m} (h : Keeps r s) : Keeps r (rdReq s p m) := by
  unfold rdReq
  exact keeps_ite h (by
      split
      · exact h
      · exact keeps_foldl (keeps_ite (keeps_denyRemote ((keeps_acceptMsg h).keeps ‹_›)) ((keeps_acceptMsg h).keeps ‹_›)) fun _ _ h => by
            split <;> exact keeps_ctxSend h)

theorem keeps_bupWr {p m} (h : Keeps r s) : Keeps r (bupWr s p m) := by
  unfold bupWr
  split
  · exact h
  · split
    · exact h
    · split
      · exact keeps_ite (keeps_ctxSend (keeps_inboundWrite (keeps_ite (keeps_mk_bup (keeps_modCtx ((keeps_acceptMsg h).keeps ‹_›)))
          ((keeps_acceptMsg h).keeps ‹_›)))) (keeps_ctxSend (keeps_denyRemote (keeps_ite (keeps_mk_bup (keeps_modCtx
          ((keeps_acceptMsg h).keeps ‹_›))) ((keeps_acceptMsg h).keeps ‹_›))))
      · exact keeps_ctxSend (keeps_denyRemote (keeps_ite (keeps_mk_bup (keeps_modCtx ((keeps_acceptMsg h).keeps ‹_›)))
          ((keeps_acceptMsg h).keeps ‹_›)))

theorem keeps_bupArm {p m} (h : Keeps r s) : Keeps r (bupArm s p m) := by
  unfold bupArm
  split
  · exact h
  · exact keeps_ctxSend (keeps_getD (keepsOpt_ite (keeps_requestStream ((keeps_acceptMsg h).keeps ‹_›)) keepsOpt_none) (keeps_ite
      ((keeps_acceptMsg h).keeps ‹_›) (keeps_denyRemote ((keeps_acceptMsg h).keeps ‹_›))))

theorem keeps_bupBarrier {p m} (h : Keeps r s) : Keeps r (bupBarrier s p m) := by
  unfold bupBarrier
  split
  · exact h
  · split
    · exact h
    · split
      · exact keeps_ite (keeps_ctxSend (keeps_denyRemote ((keeps_acceptMsg h).keeps ‹_›))) (keeps_ite (keeps_ctxSend (keeps_nearStore
          ((keeps_acceptMsg h).keeps ‹_›))) (keeps_ctxSend (keeps_farStore ((keeps_acceptMsg h).keeps ‹_›))))
      · exact keeps_ctxSend (keeps_denyRemote ((keeps_acceptMsg h).keeps ‹_›))

theorem keeps_answered {x id} (h : Keeps r s) : KeepsSnd r (answered s x id) := by
  unfold answered
  split
  · exact keepsSnd_none
  · exact keepsSnd_some (keeps_modCtx h)

theorem keeps_rdRsp {p m} (h : Keeps r s) : Keeps r (rdRsp s p m) := by
  unfold rdRsp
  split
  · exact h
  · have ha := (keeps_acceptMsg h).keeps ‹_›
    split
    · exact ha
    · have hc := keeps_modCtx (x := m.dctx) (g := fun c => { c with slots := c.slots + 1 }) (keepsOpt_snd (keeps_answered ha) ‹_›)
      exact keeps_settleCtx (keeps_modXfer (keeps_ite (keeps_mk_bup hc) hc))

theorem keeps_wrAck {p m} (h : Keeps r s) : Keeps r (wrAck s p m) := by
  unfold wrAck
  split
  · exact h
  · have ha := keeps_modCtx (x := m.dctx) (g := fun c => { c with resCred := min c.reserve (c.resCred + bitsOf m.args.toNat 16 8) })
      ((keeps_acceptMsg h).keeps ‹_›)
    dsimp only
    split
    · exact ha
    · exact keeps_settleCtx (keeps_modXfer (keepsOpt_snd (keeps_answered ha) ‹_›))

theorem keeps_slotAnswer {p m} (h : Keeps r s) : Keeps r (slotAnswer s p m) := by
  unfold slotAnswer
  split
  · exact h
  · have ha := (keeps_acceptMsg h).keeps ‹_›
    split
    · exact ha
    · exact keeps_settleCtx (keeps_modCtx (keepsOpt_snd (keeps_answered ha) ‹_›))

theorem keeps_credit {p m} (h : Keeps r s) : Keeps r (credit s p m) := by
  unfold credit
  split
  · exact h
  · exact keeps_modCtx ((keeps_acceptMsg h).keeps ‹_›)

theorem keeps_creditRet {p m} (h : Keeps r s) : Keeps r (creditRet s p m) := by
  unfold creditRet
  split
  · exact h
  · exact keeps_mk_bup (keeps_modCtx ((keeps_acceptMsg h).keeps ‹_›))

theorem keeps_creditGrant (h : Keeps r s) : Keeps r (creditGrant s) := by
  unfold creditGrant
  split
  · exact h
  · exact keeps_ctxSend (keeps_mk_bup (keeps_modCtx h))

theorem keeps_creditIdleTimeout {x} (h : Keeps r s) : Keeps r (creditIdleTimeout s x) :=
  keeps_ite h (keeps_ctxSend (keeps_modCtx h))

theorem keeps_answerTo {m ty} (h : Keeps r s) : Keeps r (answerTo s m ty) := by
  unfold answerTo
  split
  · exact h
  · exact keeps_enqueue h

theorem keeps_ctxOpenMsg {p m} (h : Keeps r s) : Keeps r (ctxOpenMsg s p m) :=
  keeps_ite h (keeps_ite (keeps_ite (keeps_answerTo (keeps_failCtx h)) (keeps_ctxSend (keeps_modCtx h))) (keeps_answerTo h))

theorem keeps_ctxOpenAck {p m} (h : Keeps r s) : Keeps r (ctxOpenAck s p m) :=
  keeps_ite h (keeps_ite (keeps_failCtx h) (keeps_finishCtxCmd (keeps_modCtx h)))

theorem keeps_ctxCloseMsg {p m} (h : Keeps r s) : Keeps r (ctxCloseMsg s p m) := by
  unfold ctxCloseMsg
  split
  · exact h
  · exact keeps_settleCtx (keeps_modCtx ((keeps_acceptMsg h).keeps ‹_›))

theorem keeps_contextTimeout {x} (h : Keeps r s) : Keeps r (contextTimeout s x) :=
  keeps_ite (keeps_failCtx h) (keeps_ite h (keeps_ite (keeps_settleCtx (keeps_modCtx (keeps_mk_bup
      (keeps_foldl h fun _ _ h => keeps_failTransfer h)))) (keeps_failCtx h)))

/-! ## Trust -/

theorem keeps_signReq {x} (h : Keeps r s) : Keeps r (signReq s x) :=
  keeps_ite h (keeps_ite (keeps_mk_trs h) (keeps_emit (h.setTrs (trustGrows_useIndex _))))

theorem keeps_signRequest {digest} (h : Keeps r s) : Keeps r (signRequest s digest) :=
  keeps_ite (keeps_signReq h) h

theorem keeps_lowerTreeReady (h : Keeps r s) : Keeps r (lowerTreeReady s) :=
  keeps_ite h (keeps_foldl (keeps_mk_trs h) fun _ _ h => keeps_signReq h)

theorem keeps_getVersion (h : Keeps r s) : Keeps r (getVersion s) :=
  keeps_ite (keeps_emit h) h

theorem keeps_getCertificate {offset len} (h : Keeps r s) : Keeps r (getCertificate s offset len) :=
  keeps_ite (keeps_emit h) h

theorem keeps_getMeasurements {index nonce} (h : Keeps r s) : Keeps r (getMeasurements s index nonce) :=
  keeps_ite (keeps_signReq h) h

theorem keeps_challenge {nonce} (h : Keeps r s) : Keeps r (challenge s nonce) :=
  keeps_ite (keeps_signReq h) h

theorem keeps_mctpAttestation {nonce} (h : Keeps r s) : Keeps r (mctpAttestation s nonce) :=
  keeps_ite (keeps_signReq h) h

theorem keeps_entropyRestart {passes} (h : Keeps r s) : Keeps r (entropyRestart s passes) :=
  keeps_ite (keeps_mk_trs h) h

theorem keeps_seedDrawTimeout {q} (h : Keeps r s) : Keeps r (seedDrawTimeout s q) :=
  keeps_serve h (fun _ => keeps_ite h (keeps_finishCmd h))

theorem keeps_recEnd {code} (h : Keeps r s) : Keeps r (recEnd s code) :=
  keeps_mk_trs h

theorem keeps_recOther {cmd} (h : Keeps r s) : Keeps r (recOther s cmd) :=
  keeps_ite (keeps_recEnd h) h

theorem keeps_recBegin {value ok} (h : Keeps r s) : Keeps r (recBegin s value ok) :=
  keeps_ite h (keeps_ite (keeps_recOther h) (keeps_ite (keeps_recEnd h) (keeps_ite (keeps_recEnd h) (keeps_ite (keeps_recEnd (keeps_mk_trs h))
      (keeps_mk_trs h)))))

theorem keeps_recChunk {value ok} (h : Keeps r s) : Keeps r (recChunk s value ok) :=
  keeps_ite h (keeps_ite (keeps_recOther h) (keeps_ite (keeps_recEnd h) (keeps_ite (keeps_recEnd h) (keeps_mk_trs h))))

theorem keeps_install (h : Keeps r s) : Keeps r (install s) := by
  refine keeps_ite (h.setTrs fun hn => ⟨hn, le_rfl, le_max_left _ _, fun k hk => ?_⟩) (keeps_ite (keeps_mk_trs h) (keeps_mk h))
  simp only [BitVec.getLsbD_or, hk, Bool.true_or]

theorem keeps_recGo {value ok pl} (h : Keeps r s) : Keeps r (recGo s value ok pl) :=
  keeps_ite h (keeps_ite (keeps_recOther h) (keeps_ite (keeps_recEnd h) (keeps_ite (keeps_recEnd h) (keeps_bringFrom (keeps_recEnd
      (keeps_install h))))))

/-! ## Registers -/

theorem keeps_lowHalfRead {offset} (h : Keeps r s) : Keeps r (lowHalfRead s offset) :=
  keeps_ite h (keeps_ite (keeps_emit (keeps_mk h)) (keeps_emit (keeps_mk h)))

theorem keeps_modReset {value h'} (h : Keeps r s) : Keeps r (modReset s value h') :=
  keeps_ite h (keeps_beginReset h)

theorem keeps_freeBySeq {q} (h : Keeps r s) : Keeps r (freeBySeq s q) :=
  keeps_ite (keeps_mk h) (keeps_ite (keeps_settle (keeps_hostFree h)) h)

theorem keeps_logFree {value h'} (h : Keeps r s) : Keeps r (logFree s value h') := by
  unfold logFree
  exact keeps_ite h (by
      split
      · exact keeps_mk h
      · exact keeps_freeBySeq (keeps_mk h)
      · exact keeps_freeBySeq (keeps_mk h))

theorem keeps_writeQueue {q o value h'} (h : Keeps r s) : Keeps r (writeQueue s q o value h') :=
  keeps_ite h (keeps_modQueue h)

theorem keeps_writeMsix {o value h'} (h : Keeps r s) : Keeps r (writeMsix s o value h') :=
  keeps_ite (keeps_mk h) (keeps_mk h)

theorem keeps_writeWindow {o value h'} (h : Keeps r s) : Keeps r (writeWindow s o value h') := by
  refine ⟨fun hr => ⟨(h.mem hr).1, ?_⟩, h.trust, h.locks⟩
  have hw := (h.mem hr).2
  have hlow : memWf (if coversLow h' then memWrite s.trs.window o 4 value else s.trs.window) = true := by
    split
    · exact memWf_write _ _ _ _ hw
    · exact hw
  show memWf (if coversHigh h' then memWrite _ (o + 4) 4 (value / 2 ^ 32) else _) = true
  split
  · exact memWf_write _ _ _ _ hlow
  · exact hlow

theorem keeps_registerWrite {o value h'} (h : Keeps r s) : Keeps r (registerWrite s o value h') :=
  keeps_ite (keeps_writeWindow h) (keeps_ite h (keeps_ite (keeps_writeQueue h) (keeps_ite (keeps_writeMsix h) h)))

theorem keeps_execRegisterWrite {offset value half} (h : Keeps r s) : KeepsOut r (execRegisterWrite offset value half s) :=
  keepsOut_ite keepsOut_refused (keepsOut_next (keeps_registerWrite h))

/-! ## Slot -/

theorem keeps_checkWord {c e} (h : Keeps r s) : Keeps r (checkWord c s e) := by
  unfold checkWord
  exact keeps_ite h (by
      split
      · exact keeps_coreFault h
      · exact keeps_ite (keeps_coreFault h) (keeps_ite h (keeps_coreFault h)))

theorem keeps_coreSlot {f t k} (h : Keeps r s) : Keeps r (coreSlot f t s k) :=
  keeps_modCore (keeps_foldl (keeps_loadStep (keeps_foldl
      (keeps_foldl h fun _ _ h => keeps_checkWord h) fun _ _ h => keeps_runUnits h)) fun _ _ h => keeps_noteRead h)

theorem keeps_readLines {f t k} (h : Keeps r s) : Keeps r (readLines f t s k) :=
  keeps_ite h (keeps_ite (keeps_coreFault h) (keeps_modCore h))

theorem keeps_verdict {c t x errs} (h : Keeps r s) : Keeps r (verdict c t s x errs) := by
  unfold verdict
  dsimp only
  split
  · exact keeps_modCore h
  · exact keeps_ite (keeps_coreFault (keeps_modCore h)) (by
        split
        · exact keeps_ite (keeps_modCore (keeps_modCore h)) (keeps_coreFault (keeps_modCore h))
        · exact keeps_ite (keeps_raiseCore (keeps_modCore (keeps_modCore h))) (keeps_modCore (keeps_modCore h)))

theorem keeps_countReplay {f k} (h : Keeps r s) : Keeps r (countReplay s f k) := by
  unfold countReplay
  exact keeps_ite h (keeps_foldl h fun _ _ h => by
      split
      · exact keeps_countAct (keeps_countAct h)
      · exact h)

theorem keeps_verdicts {f t ups k} (h : Keeps r s) : Keeps r (verdicts f t ups s k) := by
  unfold verdicts
  exact keeps_ite h (keeps_modCore (keeps_countReplay (by
      split
      · exact h
      · exact keeps_foldl (keeps_verdict h) fun _ _ h => keeps_ite h (keeps_verdict h))))

theorem keeps_seamCheck {f t ups x p} (h : Keeps r s) : Keeps r (seamCheck f t ups s x p) := by
  unfold seamCheck
  split
  · exact h
  · split
    · exact h
    · exact keeps_ite (keeps_foldl (keeps_ite (keeps_raiseField h) h) fun _ _ h => keeps_raiseField h) (keeps_foldl (keeps_foldl (keeps_ite
        (keeps_raiseField h) h) fun _ _ h => keeps_raiseField h) fun _ _ h => keeps_raiseField h)

theorem keeps_takeSend {c t} (h : Keeps r s) : Keeps r (takeSend c t s).2 := by
  unfold takeSend
  dsimp only
  split
  · exact h
  · split
    · split
      · exact keeps_modCore h
      · exact keeps_modCore (keeps_raiseCore h)
    · exact keeps_modCore (keeps_raiseCore h)

theorem keeps_putRecv {c t ups x} (h : Keeps r s) : Keeps r (putRecv c t ups x s) :=
  keeps_ite (keeps_raiseCore h) (keeps_modCore (keeps_foldl (keeps_ite (keeps_raiseCore h) h) fun _ _ h => keeps_raiseCore h))

theorem keeps_exchangeCore {f t ups b k l x} (h : Keeps r x.1) : Keeps r (exchangeCore f t ups b k l x).1 := by
  induction l generalizing x with
  | nil => exact h
  | cons e l ih =>
    obtain ⟨s, took, back⟩ := x
    unfold exchangeCore
    split
    · exact ih h
    · split
      · exact ih (keeps_putRecv h)
      · exact ih h

theorem keeps_exchangeBunch {f t ups b} (h : Keeps r s) : Keeps r (exchangeBunch f t ups s b) := by
  refine keeps_foldl_of Prod.fst h fun x i h => ?_
  dsimp only
  split
  · exact h
  · exact keeps_modCore (r := r) (keeps_exchangeCore h)

theorem keeps_upset {f u} (h : Keeps r s) : Keeps r (upset f s u) := by
  unfold upset
  split
  · exact h
  · exact h
  · exact h
  · exact keeps_flipBits h
  · exact keeps_missBits h
  · exact keeps_flipWordBits h
  · exact keeps_ite h (keeps_raiseField (keeps_modStr h))
  · exact keeps_raiseCore h
  · exact keeps_raiseCore (keeps_modCore h)
  · exact keeps_raiseField h
  · exact keeps_foldl h fun _ _ h => keeps_raiseField h

theorem keeps_setHold {f h'} (h : Keeps r s) : Keeps r (setHold s f h') :=
  keeps_ite h (keeps_send (keeps_modFclk h))

theorem keeps_countHold {f h'} (h : Keeps r s) : Keeps r (countHold s f h') :=
  keeps_ite (keeps_modFclk h) (keeps_foldl (keeps_modFclk h) fun _ _ h => keeps_modStream h)

theorem keeps_landStream {f eng x} (h : Keeps r s) : Keeps r (landStream f eng s x) := by
  unfold landStream
  exact keeps_foldl h fun _ _ h => by
      split
      · exact keeps_raiseCore h
      · exact keeps_dieStore h

theorem keeps_landHeld {f t} (h : Keeps r s) : Keeps r (landHeld f t s) :=
  keeps_foldl (keeps_modFmem h) fun _ _ h => keeps_landStream h

theorem keeps_landStores {f t} (h : Keeps r s) : Keeps r (landStores f t s) :=
  keeps_foldl (keeps_foldl (keeps_modFmem h) fun _ _ h => keeps_landStream h) fun _ _ h => keeps_landDie h

theorem keeps_heldStreams {f t} (h : Keeps r s) : Keeps r (heldStreams f t s) :=
  keeps_landHeld (keeps_pieces (keeps_askAgain (keeps_carrierStep h)))

theorem keeps_sendOwed {f t} (h : Keeps r s) : Keeps r (sendOwed f t s) :=
  keeps_ite h (keeps_foldl (keeps_modFjob h) fun _ _ h => keeps_modCore (keeps_send h))

theorem keeps_meetOwed {f t} (h : Keeps r s) : Keeps r (meetOwed f t s) := by
  unfold meetOwed
  exact keeps_modFjob h

theorem keeps_localSend {c t} {b : Prop} [Decidable b] (h : Keeps r s) :
    Keeps r (if b then (some (takeSend c t s).1, (takeSend c t s).2) else (none, s)).2 := by
  split
  · exact keeps_takeSend h
  · exact h

theorem keeps_routeOne {f t ups b p w} {n : NetAcc} (h : Keeps r n.s) : Keeps r (routeOne f t ups b p w n).s := by
  have keepsOuts {g : NetAcc → ℕ → Option Flit} {n : NetAcc} {l : List ℕ} (h : Keeps r n.s) : Keeps r (l.foldl (fun n o => match g n o with
      | none => n
      | some x =>
        let n := { n with hops := tabMod 0 p (· + 1) n.hops }
        match edgeCrossing n.s.yld f b o with
        | some c => { n with out := tabPut none (2 * c + p) (some x) n.out }
        | none => { n with link := tabPut none ((2 * nextBunch b o + p) * 4 + (o + 2) % 4) (some x) n.link }) n).s := by
    refine keeps_foldl_of NetAcc.s h fun n o hn => ?_
    dsimp only
    split
    · exact hn
    · split <;> exact hn
  unfold routeOne
  dsimp only
  split
  · exact keepsOuts (g := fun _ => _) (n := ⟨_, n.link, n.out, n.hops⟩) (keeps_localSend h)
  · exact keeps_putRecv (keepsOuts (g := fun _ => _) (n := ⟨_, n.link, n.out, n.hops⟩) (keeps_localSend h))

theorem keeps_routeAll {f t ups} (h : Keeps r s) : Keeps r (routeAll f t ups s).s :=
  keeps_foldl_of NetAcc.s h fun _ _ h => keeps_foldl_of NetAcc.s h fun _ _ h => keeps_foldl_of NetAcc.s h fun _ _ h => keeps_routeOne h

theorem keeps_seamStep {f t xs} {n : NetAcc} (h : Keeps r n.s) : Keeps r (seamStep f t xs n) := by
  unfold seamStep
  dsimp only
  exact keeps_countAct (keeps_countAct (keeps_countAct (keeps_foldl (keeps_modNet h) fun _ _ h => keeps_foldl h fun _ _ h => by
    split
    · exact keeps_modNet h
    · exact keeps_modNet (keeps_modNet h))))

theorem keeps_advance {f ups} (h : Keeps r s) : Keeps r (advance s f ups) := by
  unfold advance
  extract_lets t xs s1 s2 s3 s4 s5 s6 s7 s8
  have h1 : Keeps r s1 := keeps_askAgain (keeps_sendOwed (keeps_acceptDue h))
  have h2 : Keeps r s2 := keeps_foldl h1 fun _ _ h => keeps_coreSlot h
  have h3 : Keeps r s3 := keeps_foldl h2 fun _ _ h => keeps_readLines h
  have h4 : Keeps r s4 := keeps_foldl h3 fun _ _ h => keeps_verdicts h
  have h5 : Keeps r s5 := keeps_foldl h4 fun _ _ h => keeps_foldl h fun _ _ h => keeps_seamCheck h
  have h6 : Keeps r s6 := keeps_carrierStep (keeps_seamStep (keeps_routeAll h5))
  have h7 : Keeps r s7 := keeps_foldl (keeps_modCores h6) fun _ _ h => keeps_exchangeBunch h
  have h8 : Keeps r s8 := keeps_foldl h7 fun _ _ h => keeps_foldl h fun _ _ h => keeps_instructionComplete h
  split
  next s9 used heq =>
  have h9 : Keeps r s9 := keeps_fst (keeps_pieces h8) heq
  extract_lets s10 s11 s12 s13 s14
  have h10 : Keeps r s10 := keeps_landStores (keeps_scrubRound (keeps_scrubStep h9))
  have h12 : Keeps r s12 := keeps_modField (keeps_meetOwed (keeps_modCores h10))
  have h13 : Keeps r s13 := keeps_reachSlot (keeps_setHold h12)
  have h14 : Keeps r s14 := keeps_ite (keeps_foldl h13 fun _ _ h => keeps_readSnaps h) h13
  exact keeps_ite (keeps_send h14) h14

theorem keeps_slotAdvance {f ups} (h : Keeps r s) : Keeps r (slotAdvance s f ups) := by
  unfold slotAdvance
  exact keeps_ite h (keeps_ite (keeps_modFclk (keeps_modFclk h)) (keeps_ite (keeps_modFclk (keeps_foldl
      (keeps_modFclk h) fun _ _ h => keeps_upset h)) (by
      split
      · exact keeps_advance (keeps_foldl (keeps_modFclk h) fun _ _ h => keeps_upset h)
      · exact keeps_ite (keeps_heldStreams (keeps_countHold (keeps_setHold (keeps_foldl (keeps_modFclk h) fun _ _ h => keeps_upset h))))
          (keeps_countHold (keeps_setHold (keeps_foldl (keeps_modFclk h) fun _ _ h => keeps_upset h))))))

/-! ## Spares -/

theorem keeps_phaseFailure {f p} (h : Keeps r s) : Keeps r (phaseFailure s f p) :=
  keeps_ite h (keeps_ite (keeps_retireField (keeps_ite (keeps_raiseField (keeps_bumpGen (keeps_dueEntry (keeps_modFpow (keeps_mk h)))))
      (keeps_bumpGen (keeps_dueEntry (keeps_modFpow (keeps_mk h)))))) (keeps_ite (keeps_raiseField (keeps_bumpGen (keeps_dueEntry
      (keeps_modFpow (keeps_mk h))))) (keeps_bumpGen (keeps_dueEntry (keeps_modFpow (keeps_mk h))))))

theorem keeps_ageingSample {f drifts} (h : Keeps r s) : Keeps r (ageingSample s f drifts) :=
  keeps_ite h (keeps_ite (keeps_dueEntry (keeps_ite (keeps_modFpow h) (keeps_bumpGen (keeps_modFpow (keeps_modFpow h))))) (keeps_ite
      (keeps_modFpow h) (keeps_bumpGen (keeps_modFpow (keeps_modFpow h)))))

theorem keeps_marginTest {f m sites} (h : Keeps r s) : Keeps r (marginTest s f m sites) :=
  keeps_ite h (keeps_ite (keeps_foldl (keeps_modFpow h) fun _ _ h => keeps_dueEntry h) (keeps_modCond (keeps_foldl
      (keeps_modFpow h) fun _ _ h => keeps_dueEntry h)))

theorem keeps_commitEffect {e} (h : Keeps r s) : Keeps r (commitEffect s e) :=
  keeps_ite (keeps_ite (keeps_bumpGen (keeps_applyEntry h)) (keeps_modCond h)) (keeps_ite (keeps_ite (keeps_bumpGen (keeps_applyEntry h))
      (keeps_modFpow h)) (keeps_ite (keeps_modCond h) h))

theorem keeps_ymapRecordWrite {st ents} (h : Keeps r s) : Keeps r (ymapRecordWrite s st ents) := by
  refine keeps_ite h ?_
  split
  · exact keeps_ite h (keeps_mk h)
  · exact keeps_ite h (keeps_mk (h.setTrs (trustGrows_useIndex _)))
  · exact keeps_ite h (keeps_foldl (keeps_storeRecord (keeps_mk h)) fun _ _ h => keeps_commitEffect h)

theorem keeps_remap {f failed} (h : Keeps r s) : Keeps r (remap s f failed) := by
  unfold remap
  split
  · exact h
  · refine keeps_bumpGen (keeps_modCond ?_)
    split
    · exact keeps_ite
        (keeps_foldl (keeps_foldl (keeps_mk (keeps_modCores (keeps_modFmem (keeps_granulesDone
            (keeps_foldl h fun _ _ h => keeps_applyEntry h)))))
          fun _ _ h => keeps_dueEntry h) fun _ _ h => keeps_dueEntry h)
        (keeps_retireField (keeps_foldl (keeps_foldl (keeps_mk (keeps_modCores (keeps_modFmem (keeps_granulesDone
          (keeps_foldl h fun _ _ h => keeps_applyEntry h))))) fun _ _ h => keeps_dueEntry h) fun _ _ h => keeps_dueEntry h))
    · exact keeps_foldl (keeps_foldl (keeps_mk (keeps_modCores (keeps_modFmem (keeps_granulesDone
        (keeps_foldl h fun _ _ h => keeps_applyEntry h)))))
        fun _ _ h => keeps_dueEntry h) fun _ _ h => keeps_dueEntry h

theorem keeps_powerDownEntry {far ch} (h : Keeps r s) : Keeps r (powerDownEntry s far ch) :=
  keeps_ite h (keeps_mk_mem h)

/-! ## Commands and steps -/

/-- A command that writes no lock register keeps what the invariants speak of. -/
theorem keeps_exec {c : Instr} (h : Keeps r s) (hep : ∀ v b, c ≠ .endpointId v b) (hpt : ∀ e v b, c ≠ .ptEntry e v b)
    (hseal : ∀ v b, c ≠ .ptSeal v b) : KeepsOut r (exec c s) := by
  cases c with
  | powerOn _ => exact keepsOut_next (keeps_powerOn h)
  | pithStartTimeout => exact keepsOut_next (keeps_pithStartTimeout h)
  | standbyPowerLoss _ => exact keeps_execStandbyPowerLoss h
  | moduleReset => exact keepsOut_next (keeps_moduleReset h)
  | portReset _ => exact keepsOut_next (keeps_assertPerst h)
  | functionReset => exact keepsOut_next (keeps_bothPerst h)
  | perstDeassert _ _ => exact keepsOut_next (keeps_perstDeassert h)
  | forcedInputActive _ => exact keepsOut_next (keeps_forcedInputActive h)
  | forcedInputRelease _ => exact keepsOut_next (keeps_forcedInputRelease h)
  | stuckInput _ => exact keepsOut_next (keeps_stuckInput h)
  | inputRange => exact keepsOut_next (keeps_inputRange h)
  | inputRangeRelease => exact keepsOut_next (keeps_endForced (keeps_mk h))
  | inputFail _ => exact keeps_execInputFail h
  | inputRestored => exact keepsOut_next (keeps_inputRestored h)
  | inputCurrent => exact keepsOut_next (keeps_inputCurrent h)
  | inputCurrentRelease => exact keepsOut_next (keeps_endForced (keeps_mk h))
  | coolantSample _ _ _ => exact keepsOut_next (keeps_coolantSample h)
  | coolantRangeRelease => exact keepsOut_next (keeps_coolantRangeRelease h)
  | converterLost _ => exact keepsOut_next (keeps_converterLost h)
  | converterOverload => exact keepsOut_next (keeps_converterOverload h)
  | phaseFailure _ _ => exact keepsOut_next (keeps_phaseFailure h)
  | regulatorSample _ _ => exact keepsOut_next (keeps_regulatorSample h)
  | floorRelease _ => exact keepsOut_next (keeps_floorRelease h)
  | railTrip _ _ => exact keepsOut_next (keeps_tripField h)
  | governorSample _ _ => exact keepsOut_next (keeps_governorSample h)
  | dutySample _ => exact keepsOut_next (keeps_dutySample h)
  | rateRaise _ => exact keepsOut_next (keeps_rateRaise h)
  | calibration _ _ _ _ => exact keepsOut_next (keeps_calibration h)
  | thermalSensorSample _ _ => exact keepsOut_next (keeps_thermalSensorSample h)
  | thermalRead _ => exact keepsOut_next (keeps_thermalRead h)
  | trayCapSet _ => exact keepsOut_next (keeps_trayCapSet h)
  | refTick => exact keepsOut_next (keeps_refTick h)
  | slotAdvance _ _ => exact keepsOut_next (keeps_slotAdvance h)
  | refLossDetected => exact keepsOut_next (keeps_refLossDetected h)
  | refQualified _ => exact keepsOut_next (keeps_refQualified h)
  | refLost => exact keepsOut_next (keeps_refLost h)
  | sloeClock => exact keepsOut_next (keeps_sloeClock h)
  | oscLockTimeout _ => exact keepsOut_next (keeps_oscLockTimeout h)
  | watchdogWrite => exact keepsOut_next (keeps_watchdogWrite h)
  | watchdogExpiry => exact keepsOut_next (keeps_watchdogExpiry h)
  | pithFailure => exact keepsOut_next (keeps_pithFails h)
  | takeoverTimeout => exact keepsOut_next (keeps_takeoverTimeout h)
  | stemType _ _ => exact keepsOut_next (keeps_stemType h)
  | errorEvent _ => exact keepsOut_next (keeps_errorEvent h)
  | fenceNotice _ _ => exact keepsOut_next (keeps_fenceNotice h)
  | prepare _ _ _ _ _ => exact keepsOut_next (keeps_prepareIn h)
  | ack _ _ _ => exact keepsOut_next (keeps_ackIn h)
  | commit _ _ _ => exact keepsOut_next (keeps_commitIn h)
  | abort _ _ _ => exact keepsOut_next (keeps_abortIn h)
  | ackDeadline => exact keepsOut_next (keeps_ackDeadline h)
  | commitWaitTimeout _ => exact keepsOut_next (keeps_commitWaitTimeout h)
  | reprepare => exact keepsOut_next (keeps_reprepare h)
  | yieldReport _ _ _ _ _ _ => exact keepsOut_next (keeps_yieldReport h)
  | barrierArrive _ _ _ _ => exact keepsOut_next (keeps_barrierArrive h)
  | barrierRelease _ _ _ _ => exact keepsOut_next (keeps_barrierRelease h)
  | gateStatus _ _ _ _ => exact keepsOut_next (keeps_gateStatus h)
  | setpoint _ _ => exact keepsOut_next (keeps_setpoint h)
  | phase _ _ _ => exact keepsOut_next (keeps_phase h)
  | rails _ _ => exact keepsOut_next (keeps_rails h)
  | alertAck _ => exact keepsOut_next (keeps_alertAck h)
  | energySnap _ => exact keepsOut_next (keeps_energySnap h)
  | halt _ _ => exact keepsOut_next (keeps_haltField h)
  | jobHalt _ => exact keepsOut_next (keeps_jobHalt h)
  | handlingTimeout _ => exact keepsOut_next (keeps_handlingTimeout h)
  | diagnosis _ _ => exact keepsOut_next (keeps_diagnosis h)
  | remap _ _ => exact keepsOut_next (keeps_remap h)
  | ageingSample _ _ => exact keepsOut_next (keeps_ageingSample h)
  | marginTest _ _ _ => exact keepsOut_next (keeps_marginTest h)
  | ymapRecordWrite _ _ => exact keepsOut_next (keeps_ymapRecordWrite h)
  | rindFailed _ => exact keepsOut_next (keeps_rindFailed h)
  | delay _ _ _ => exact keepsOut_next (keeps_issue h (fun _ h => keeps_effDelay h))
  | atSlot _ _ _ => exact keepsOut_next (keeps_issue h (fun _ h => keeps_effAt h))
  | yieldPoint _ _ _ => exact keepsOut_next (keeps_issue h (fun _ h => keeps_effYield h))
  | sync _ _ _ => exact keepsOut_next (keeps_syncIssue h)
  | lset _ _ _ => exact keepsOut_next (keeps_issue h (fun _ h => keeps_effLset h))
  | lend _ _ _ => exact keepsOut_next (keeps_issue h (fun _ h => keeps_effLend h))
  | aset _ _ _ => exact keepsOut_next (keeps_issue h (fun _ h => keeps_effAset h))
  | aadd _ _ _ => exact keepsOut_next (keeps_issue h (fun _ h => keeps_effAadd h))
  | lact _ _ => exact keepsOut_next (keeps_issue h (fun _ h => keeps_effLact h))
  | lscl _ _ => exact keepsOut_next (keeps_issue h (fun _ h => keeps_effLscl h))
  | lstat _ _ => exact keepsOut_next (keeps_issue h (fun _ h => keeps_effLstat h))
  | mcfg _ _ => exact keepsOut_next (keeps_issue h (fun _ h => keeps_effMcfg h))
  | pass _ _ => exact keepsOut_next (keeps_issue h (fun _ h => keeps_effPass h))
  | dcfg _ _ => exact keepsOut_next (keeps_issue h (fun _ h => keeps_effDcfg h))
  | drn _ _ => exact keepsOut_next (keeps_issue h (fun _ h => keeps_effDrn h))
  | dsnd _ _ => exact keepsOut_next (keeps_issue h (fun _ h => keeps_effDsnd h))
  | dflg _ _ => exact keepsOut_next (keeps_issue h (fun _ h => keeps_effDflg h))
  | drainGen _ _ => exact keepsOut_next (keeps_issue h (fun _ h => keeps_effGen h))
  | vld _ _ => exact keepsOut_next (keeps_issue h (fun _ h => keeps_effVld h))
  | vst _ _ => exact keepsOut_next (keeps_issue h (fun _ h => keeps_effVst h))
  | sflg _ _ => exact keepsOut_next (keeps_issue h (fun _ h => keeps_effSflg h))
  | fadd _ _ => exact keepsOut_next (keeps_issue h (fun _ h => keeps_effLanes h))
  | fsub _ _ => exact keepsOut_next (keeps_issue h (fun _ h => keeps_effLanes h))
  | fmul _ _ => exact keepsOut_next (keeps_issue h (fun _ h => keeps_effLanes h))
  | ffma _ _ => exact keepsOut_next (keeps_issue h (fun _ h => keeps_effLanes h))
  | fmin _ _ => exact keepsOut_next (keeps_issue h (fun _ h => keeps_effLanes h))
  | fmax _ _ => exact keepsOut_next (keeps_issue h (fun _ h => keeps_effLanes h))
  | iadd _ _ => exact keepsOut_next (keeps_issue h (fun _ h => keeps_effLanes h))
  | isub _ _ => exact keepsOut_next (keeps_issue h (fun _ h => keeps_effLanes h))
  | imul _ _ => exact keepsOut_next (keeps_issue h (fun _ h => keeps_effLanes h))
  | iadds _ _ => exact keepsOut_next (keeps_issue h (fun _ h => keeps_effLanes h))
  | isubs _ _ => exact keepsOut_next (keeps_issue h (fun _ h => keeps_effLanes h))
  | ish _ _ => exact keepsOut_next (keeps_issue h (fun _ h => keeps_effLanes h))
  | cmp _ _ => exact keepsOut_next (keeps_issue h (fun _ h => keeps_effLanes h))
  | sel _ _ => exact keepsOut_next (keeps_issue h (fun _ h => keeps_effSel h))
  | vecAnd _ _ => exact keepsOut_next (keeps_issue h (fun _ h => keeps_effCarry h))
  | vecOr _ _ => exact keepsOut_next (keeps_issue h (fun _ h => keeps_effCarry h))
  | vecXor _ _ => exact keepsOut_next (keeps_issue h (fun _ h => keeps_effCarry h))
  | mov _ _ => exact keepsOut_next (keeps_issue h (fun _ h => keeps_effCarry h))
  | movi _ _ => exact keepsOut_next (keeps_issue h (fun _ h => keeps_effMovi h))
  | fget _ _ => exact keepsOut_next (keeps_issue h (fun _ h => keeps_effFget h))
  | gen _ _ => exact keepsOut_next (keeps_issue h (fun _ h => keeps_effGen h))
  | cvt _ _ => exact keepsOut_next (keeps_issue h (fun _ h => keeps_effCvt h))
  | mxsc _ _ => exact keepsOut_next (keeps_issue h (fun _ h => keeps_effMxsc h))
  | spec _ _ => exact keepsOut_next (keeps_issue h (fun _ h => keeps_effSpec h))
  | bcast _ _ => exact keepsOut_next (keeps_issue h (fun _ h => keeps_effBcast h))
  | shuf _ _ => exact keepsOut_next (keeps_issue h (fun _ h => keeps_effShuf h))
  | topk _ _ => exact keepsOut_next (keeps_issue h (fun _ h => keeps_effTopk h))
  | rand _ _ => exact keepsOut_next (keeps_issue h (fun _ h => keeps_effRand h))
  | dropm _ _ => exact keepsOut_next (keeps_issue h (fun _ h => keeps_effDropm h))
  | wcvt _ _ => exact keepsOut_next (keeps_issue h (fun _ h => keeps_effWcvt h))
  | wacc _ _ => exact keepsOut_next (keeps_issue h (fun _ h => keeps_effWacc h))
  | wadd _ _ => exact keepsOut_next (keeps_issue h (fun _ h => keeps_effWadd h))
  | wrsum _ _ => exact keepsOut_next (keeps_issue h (fun _ h => keeps_effWrsum h))
  | wout _ _ => exact keepsOut_next (keeps_issue h (fun _ h => keeps_effWout h))
  | wranc _ _ => exact keepsOut_next (keeps_issue h (fun _ h => keeps_effWranc h))
  | frsum _ _ => exact keepsOut_next (keeps_issue h (fun _ h => keeps_effFrsum h))
  | fscan _ _ => exact keepsOut_next (keeps_issue h (fun _ h => keeps_effFscan h))
  | fdot _ _ => exact keepsOut_next (keeps_issue h (fun _ h => keeps_effFdot h))
  | scAdd _ _ => exact keepsOut_next (keeps_issue h (fun _ h => keeps_effAlu h))
  | scSub _ _ => exact keepsOut_next (keeps_issue h (fun _ h => keeps_effAlu h))
  | scAnd _ _ => exact keepsOut_next (keeps_issue h (fun _ h => keeps_effAlu h))
  | scOr _ _ => exact keepsOut_next (keeps_issue h (fun _ h => keeps_effAlu h))
  | scXor _ _ => exact keepsOut_next (keeps_issue h (fun _ h => keeps_effAlu h))
  | scShl _ _ => exact keepsOut_next (keeps_issue h (fun _ h => keeps_effAlu h))
  | scShr _ _ => exact keepsOut_next (keeps_issue h (fun _ h => keeps_effAlu h))
  | scSra _ _ => exact keepsOut_next (keeps_issue h (fun _ h => keeps_effAlu h))
  | scSlt _ _ => exact keepsOut_next (keeps_issue h (fun _ h => keeps_effAlu h))
  | scSltu _ _ => exact keepsOut_next (keeps_issue h (fun _ h => keeps_effAlu h))
  | scMul _ _ => exact keepsOut_next (keeps_issue h (fun _ h => keeps_effAlu h))
  | scDivu _ _ => exact keepsOut_next (keeps_issue h (fun _ h => keeps_effAlu h))
  | scDiv _ _ => exact keepsOut_next (keeps_issue h (fun _ h => keeps_effAlu h))
  | scRemu _ _ => exact keepsOut_next (keeps_issue h (fun _ h => keeps_effAlu h))
  | scRem _ _ => exact keepsOut_next (keeps_issue h (fun _ h => keeps_effAlu h))
  | scAddi _ _ => exact keepsOut_next (keeps_issue h (fun _ h => keeps_effAlu h))
  | scAndi _ _ => exact keepsOut_next (keeps_issue h (fun _ h => keeps_effAlu h))
  | scOri _ _ => exact keepsOut_next (keeps_issue h (fun _ h => keeps_effAlu h))
  | scXori _ _ => exact keepsOut_next (keeps_issue h (fun _ h => keeps_effAlu h))
  | scShli _ _ => exact keepsOut_next (keeps_issue h (fun _ h => keeps_effAlu h))
  | scShri _ _ => exact keepsOut_next (keeps_issue h (fun _ h => keeps_effAlu h))
  | scSrai _ _ => exact keepsOut_next (keeps_issue h (fun _ h => keeps_effAlu h))
  | scSlti _ _ => exact keepsOut_next (keeps_issue h (fun _ h => keeps_effAlu h))
  | scLih _ _ => exact keepsOut_next (keeps_issue h (fun _ h => keeps_effAlu h))
  | scLd _ _ => exact keepsOut_next (keeps_issue h (fun _ h => keeps_effLd h))
  | scSt _ _ => exact keepsOut_next (keeps_issue h (fun _ h => keeps_effSt h))
  | scCadd _ _ => exact keepsOut_next (keeps_issue h (fun _ h => keeps_effCadd h))
  | scBr _ _ => exact keepsOut_next (keeps_issue h (fun _ h => keeps_effBr h))
  | scSsend _ _ => exact keepsOut_next (keeps_issue h (fun _ h => keeps_effSsend h))
  | scSrecv _ _ => exact keepsOut_next (keeps_issue h (fun _ h => keeps_effSrecv h))
  | scStrm _ _ => exact keepsOut_next (keeps_issue h (fun _ h => keeps_effStrm h))
  | scWrd _ _ => exact keepsOut_next (keeps_issue h (fun _ h => keeps_effWrd h))
  | instructionCompletion _ _ => exact keepsOut_next (keeps_instructionComplete h)
  | streamArm _ _ => exact keepsOut_next (keeps_acceptRequest h)
  | streamReArm _ _ => exact keepsOut_next (keeps_acceptRequest h)
  | streamRelease _ _ => exact keepsOut_next (keeps_acceptRequest h)
  | descriptorStart _ _ => exact keepsOut_next (keeps_descriptorStart h)
  | blockIssue _ _ _ => exact keepsOut_next (keeps_blockIssue h)
  | burstIn _ _ _ _ => exact keepsOut_next (keeps_burstIn h)
  | landingComplete _ _ => exact keepsOut_next (keeps_landingComplete h)
  | rindRequest _ _ _ _ => exact keepsOut_next (keeps_rindRequest h)
  | rindBurstSend _ _ => exact keepsOut_next (keeps_rindBurstSend h)
  | rindOutBurst _ _ _ => exact keepsOut_next (keeps_rindOutBurst h)
  | pageFaultService _ _ _ _ => exact keepsOut_next (keeps_pageFaultService h)
  | translationInvalidate _ _ _ => exact keepsOut_next (keeps_translationInvalidate h)
  | streamDrainTimeout _ _ => exact keepsOut_next (keeps_streamDrainTimeout h)
  | scrubVisit _ _ _ => exact keepsOut_next (keeps_scrubVisit h)
  | segmentStateChange _ _ _ => exact keepsOut_next (keeps_segmentStateChange h)
  | channelRetire _ _ => exact keepsOut_next (keeps_channelRetire h)
  | channelCopyComplete _ _ => exact keepsOut_next (keeps_channelCopyComplete h)
  | sqEntryFetch _ _ _ => exact keepsOut_next (keeps_sqEntryFetch h)
  | submitJob _ _ _ => exact keepsOut_next (keeps_submitJob h)
  | jobPlacement _ _ _ => exact keepsOut_next (keeps_jobPlacement h)
  | preemptJob _ => exact keepsOut_next (keeps_preemptJob h)
  | contextSave _ => exact keepsOut_next (keeps_contextSave h)
  | saveSeal _ => exact keepsOut_next (keeps_saveSeal h)
  | resumeJob _ => exact keepsOut_next (keeps_resumeJob h)
  | jobRestore _ _ _ => exact keepsOut_next (keeps_jobRestore h)
  | endJob _ => exact keepsOut_next (keeps_endJob h)
  | supplement _ _ => exact keepsOut_next (keeps_supplement h)
  | mirrorResume _ _ => exact keepsOut_next (keeps_mirrorResume h)
  | mapWindow _ _ => exact keepsOut_next (keeps_mapWindow h)
  | unmapWindow _ _ => exact keepsOut_next (keeps_unmapWindow h)
  | pairSetup _ => exact keepsOut_next (keeps_pairSetup h)
  | pairDissolve _ => exact keepsOut_next (keeps_pairDissolve h)
  | sliceRelease _ => exact keepsOut_next (keeps_sliceRelease h)
  | ctxOpen _ => exact keepsOut_next (keeps_ctxOpen h)
  | ctxClose _ => exact keepsOut_next (keeps_ctxClose h)
  | routeSet _ => exact keepsOut_next (keeps_routeSet h)
  | portRetrain _ => exact keepsOut_next (keeps_portRetrain h)
  | powerSet _ => exact keepsOut_next (keeps_powerSet h)
  | resumeInPlace _ => exact keepsOut_next (keeps_resumeInPlace h)
  | fieldRest _ => exact keepsOut_next (keeps_fieldRest h)
  | hello _ _ _ _ _ => exact keepsOut_next (keeps_hello h)
  | pairFormationTimeout => exact keepsOut_next (keeps_pairFormationTimeout h)
  | heartbeatSend _ => exact keepsOut_next (keeps_heartbeatSend h)
  | heartbeat _ => exact keepsOut_next h
  | mirrorBlockAdmit _ => exact keepsOut_next (keeps_mirrorBlockAdmit h)
  | mirrorWrite _ _ => exact keepsOut_next (keeps_mirrorWrite h)
  | wack _ _ _ _ => exact keepsOut_next (keeps_wack h)
  | mirrorComplete _ _ _ => exact keepsOut_next (keeps_mirrorComplete h)
  | mirrorDiscard _ _ _ => exact keepsOut_next (keeps_mirrorDiscard h)
  | pairFail _ => exact keepsOut_next (keeps_pairFail h)
  | mirrorSilence => exact keepsOut_next (keeps_losePair h)
  | mirrorIntervalCommit _ => exact keepsOut_next (keeps_mirrorIntervalCommit h)
  | sliceRd _ _ => exact keepsOut_next (keeps_onType h (fun _ => keeps_sliceRd h))
  | sliceData _ _ _ => exact keepsOut_next (keeps_onType h (fun _ => keeps_sliceData h))
  | sliceRdTimeout _ => exact keepsOut_next (keeps_sliceRdTimeout h)
  | linkFrame _ _ => exact keepsOut_next (keeps_linkFrame h)
  | frameSend _ => exact keepsOut_next (keeps_frameSend h)
  | ackTimeout _ => exact keepsOut_next (keeps_ackTimeout h)
  | berWindow _ => exact keepsOut_next (keeps_startRetrain h)
  | laneLockLoss _ => exact keepsOut_next (keeps_startRetrain h)
  | retrain _ _ _ => exact keepsOut_next (keeps_retrain h)
  | rdReq _ _ => exact keepsOut_next (keeps_onType h (fun _ => keeps_rdReq h))
  | rdRsp _ _ => exact keepsOut_next (keeps_onType h (fun _ => keeps_rdRsp h))
  | bupWr _ _ => exact keepsOut_next (keeps_onType h (fun _ => keeps_bupWr h))
  | wrAck _ _ => exact keepsOut_next (keeps_onType h (fun _ => keeps_wrAck h))
  | bupArm _ _ => exact keepsOut_next (keeps_onType h (fun _ => keeps_bupArm h))
  | armAck _ _ => exact keepsOut_next (keeps_onType h (fun _ => keeps_slotAnswer h))
  | bupBarrier _ _ => exact keepsOut_next (keeps_onType h (fun _ => keeps_bupBarrier h))
  | barAck _ _ => exact keepsOut_next (keeps_onType h (fun _ => keeps_slotAnswer h))
  | credit _ _ => exact keepsOut_next (keeps_onType h (fun _ => keeps_credit h))
  | creditRet _ _ => exact keepsOut_next (keeps_onType h (fun _ => keeps_creditRet h))
  | ctxOpenMsg _ _ => exact keepsOut_next (keeps_onType h (fun _ => keeps_ctxOpenMsg h))
  | ctxOpenAck _ _ => exact keepsOut_next (keeps_onType h (fun _ => keeps_ctxOpenAck h))
  | ctxCloseMsg _ _ => exact keepsOut_next (keeps_onType h (fun _ => keeps_ctxCloseMsg h))
  | creditGrant => exact keepsOut_next (keeps_creditGrant h)
  | creditIdleTimeout _ => exact keepsOut_next (keeps_creditIdleTimeout h)
  | contextTimeout _ => exact keepsOut_next (keeps_contextTimeout h)
  | tailLineUpdate _ _ _ _ => exact keepsOut_next (keeps_tailLineUpdate h)
  | sqDb _ _ _ => exact keepsOut_next (keeps_doorbell h)
  | cqDb _ _ _ => exact keepsOut_next (keeps_doorbell h)
  | completionWrite _ => exact keepsOut_next (keeps_completionWrite h)
  | msixSend _ => exact keepsOut_next (keeps_msixSend h)
  | cxlPortDown _ => exact keepsOut_next (keeps_portOut h)
  | cxlPortUp _ _ => exact keepsOut_next (keeps_portIn h)
  | hostTransferTimeout _ _ => exact keepsOut_next (keeps_hostTransferTimeout h)
  | hostWindowAccess _ _ _ _ => exact keepsOut_next (keeps_hostWindowAccess h)
  | hdmDecoderCommit _ => exact keepsOut_next (keeps_hdmDecoderCommit h)
  | doeDiscovery _ => exact keepsOut_next (keeps_doeDiscovery h)
  | cxlTableAccess _ => exact keepsOut_next (keeps_cxlTableAccess h)
  | getVersion => exact keepsOut_next (keeps_getVersion h)
  | getCertificate _ _ => exact keepsOut_next (keeps_getCertificate h)
  | getMeasurements _ _ => exact keepsOut_next (keeps_getMeasurements h)
  | challenge _ => exact keepsOut_next (keeps_challenge h)
  | mctpAttestation _ => exact keepsOut_next (keeps_mctpAttestation h)
  | signRequest _ => exact keepsOut_next (keeps_signRequest h)
  | entropyHealthFail => exact keepsOut_next (keeps_mk_trs h)
  | entropyRestart _ => exact keepsOut_next (keeps_entropyRestart h)
  | seedDrawTimeout _ => exact keepsOut_next (keeps_seedDrawTimeout h)
  | regReset _ _ => exact keepsOut_next (keeps_modReset h)
  | regRecovery _ _ => exact keepsOut_next (keeps_modReset h)
  | logFree _ _ => exact keepsOut_next (keeps_logFree h)
  | queueEnable _ _ _ => exact keepsOut_next (keeps_writeQcfg h)
  | queueDisable _ _ _ => exact keepsOut_next (keeps_writeQcfg h)
  | qerrClear _ _ _ => exact keepsOut_next (keeps_qerrClear h)
  | grantWrite _ _ _ _ => exact keepsOut_next (keeps_writeGrant h)
  | grantRevoke _ _ _ => exact keepsOut_next (keeps_writeGrant h)
  | revokeComplete _ => exact keepsOut_next (keeps_revokeComplete h)
  | hostWinWrite _ _ => exact keepsOut_next (keeps_hostWinWrite h)
  | endpointId v b => exact absurd rfl (hep v b)
  | ptEntry e v b => exact absurd rfl (hpt e v b)
  | ptSeal v b => exact absurd rfl (hseal v b)
  | recBegin _ _ => exact keepsOut_next (keeps_recBegin h)
  | recChunk _ _ => exact keepsOut_next (keeps_recChunk h)
  | recGo _ _ _ => exact keepsOut_next (keeps_recGo h)
  | lowHalfRead _ => exact keepsOut_next (keeps_lowHalfRead h)
  | registerWrite _ _ _ => exact keeps_execRegisterWrite h
  | sysRstNRelease _ => exact keepsOut_next (keeps_sysRstNRelease h)
  | sliceSealingComplete _ => exact keepsOut_next (keeps_sliceSealingComplete h)
  | takeoverComplete => exact keepsOut_next (keeps_takeoverComplete h)
  | lowerTreeReady => exact keepsOut_next (keeps_lowerTreeReady h)
  | powerDownEntry _ _ => exact keepsOut_next (keeps_powerDownEntry h)
  | inputMeterUpdate _ _ _ _ => exact keepsOut_next (keeps_inputMeterUpdate h)

/-- What a step keeps of the memories, the trust state and the locks. -/
structure StepKeeps (s t : State) : Prop where
  mem : MemInv s → MemInv t
  trust : TrustGrows s.trs t.trs
  table : s.bup.sealed_ = true → (t.bup.sealed_ = true ∧ t.bup.pt = s.bup.pt) ∨ (t.bup.sealed_ = false ∧ t.bup.pt = [] ∧ t.bup.epSet = false)
  identifier : s.bup.epSet = true → (t.bup.epSet = true ∧ t.bup.epId = s.bup.epId) ∨
      (t.bup.sealed_ = false ∧ t.bup.pt = [] ∧ t.bup.epSet = false)

theorem Keeps.stepKeeps (h : Keeps s t) : StepKeeps s t := by
  obtain ⟨hm, ht, hl⟩ := h
  simp only [LocksHold, Invariants.locks, Prod.mk.injEq] at hl
  obtain ⟨h1, h2, h3, h4⟩ | ⟨h1, h2, h3, h4⟩ := hl
  · exact ⟨hm, ht, fun hs => .inl ⟨h1.trans hs, h2⟩, fun hs => .inl ⟨h3.trans hs, h4⟩⟩
  · exact ⟨hm, ht, fun _ => .inr ⟨h1, h2, h3⟩, fun _ => .inr ⟨h1, h2, h3⟩⟩

/-- A write of the Bupol registers that leaves a sealed table and a set identifier alone. -/
theorem StepKeeps.of_bup {b : Bupol} (hpt : s.bup.sealed_ = true → b.sealed_ = true ∧ b.pt = s.bup.pt)
    (hep : s.bup.epSet = true → b.epSet = true ∧ b.epId = s.bup.epId) : StepKeeps s { s with bup := b } :=
  ⟨id, TrustGrows.refl _, fun h => .inl (hpt h), fun h => .inl (hep h)⟩

theorem stepKeeps_endpointId {v b} : StepKeeps s (endpointId s v b) := by
  unfold endpointId
  split
  · exact (Keeps.refl s).stepKeeps
  · next hc =>
    simp only [Bool.or_eq_true, not_or] at hc
    exact .of_bup (fun h => ⟨h, rfl⟩) fun h => absurd h hc.2

theorem stepKeeps_ptEntry {e v b} : StepKeeps s (ptEntry s e v b) := by
  unfold ptEntry
  split
  · exact (Keeps.refl s).stepKeeps
  · next hc =>
    simp only [Bool.or_eq_true, not_or] at hc
    exact .of_bup (fun h => absurd h hc.2) fun h => ⟨h, rfl⟩

theorem stepKeeps_ptSeal {v b} : StepKeeps s (ptSeal s v b) := by
  unfold ptSeal
  split
  · exact (Keeps.refl s).stepKeeps
  · exact .of_bup (fun _ => ⟨rfl, rfl⟩) fun h => ⟨h, rfl⟩

theorem stepKeeps_exec {c : Instr} (he : exec c s = .next t) : StepKeeps s t := by
  by_cases hep : ∃ v b, c = .endpointId v b
  · obtain ⟨v, b, rfl⟩ := hep
    cases he
    exact stepKeeps_endpointId
  by_cases hpt : ∃ e v b, c = .ptEntry e v b
  · obtain ⟨e, v, b, rfl⟩ := hpt
    cases he
    exact stepKeeps_ptEntry
  by_cases hseal : ∃ v b, c = .ptSeal v b
  · obtain ⟨v, b, rfl⟩ := hseal
    cases he
    exact stepKeeps_ptSeal
  exact ((keeps_exec (Keeps.refl s) (fun v b h => hep ⟨v, b, h⟩)
      (fun e v b h => hpt ⟨e, v, b, h⟩) fun v b h => hseal ⟨v, b, h⟩).of_next t he).stepKeeps

/-- The queue is none of what the invariants speak of. -/
theorem StepKeeps.of_pending {l : List Instr} (h : StepKeeps { s with pending := l } t) : StepKeeps s t :=
  ⟨h.mem, h.trust, h.table, h.identifier⟩

theorem stepKeeps_step (h : step s = .next t) : StepKeeps s t := by
  unfold step at h
  split at h
  · cases h
    exact (keeps_bringPhase (Keeps.refl s)).stepKeeps
  · exact (stepKeeps_exec h).of_pending

/-- Settles O58: every state function of the model keeps the memories canonical, and so does every command. -/
theorem everyStepKeepsTheMemoriesCanonical : Obligations.EveryStepKeepsTheMemoriesCanonical :=
  fun _ _ hm hs => (stepKeeps_step hs).mem hm

/-- Settles O59: every state function of the model moves the trust state forward, the signature index within its committed block. -/
theorem trustOnlyMovesForward : Obligations.TrustOnlyMovesForward := fun _ _ hi hs => (stepKeeps_step hs).trust hi

/-- Settles O60: only the writes of ENDPOINT_ID, PT_ENTRY and PT_SEAL touch the locks, where they are open, besides the resets that clear both. -/
theorem locksHoldUntilTheirReset : Obligations.LocksHoldUntilTheirReset :=
  fun _ _ hs => ⟨(stepKeeps_step hs).table, (stepKeeps_step hs).identifier⟩

end Sys2Proof.Proofs.Invariants
end

section
/-! SUPPORT. The step's front command (O1), and the state at reset (O56, O57). -/

namespace Sys2Proof.Proofs.Reset

open Sys2Proof.Machine Sys2Proof.Laws

/-! ## Steps -/

theorem bringWaits_of_no_plan {s : State} (h : s.brg.plan = none) : bringPhase s = s := by
  unfold bringPhase phaseRun
  rw [h]
  exact ite_self s

/-- Settles O1: by the definitions of `step` and `bringPhase`. -/
theorem stepRunsTheFrontCommand : Obligations.StepRunsTheFrontCommand := by
  refine ⟨fun _ _ _ => rfl, fun s hs => ?_⟩
  have hstep : step s = .next (bringPhase s) := by rw [step, hs]
  refine ⟨?_, fun hw => by rw [hstep, bringPhase, hw]; rfl⟩
  rintro (hp | hw)
  · rw [hstep, bringWaits_of_no_plan hp]
  · rw [hstep, bringPhase, hw]; rfl

/-! ## Registers at reset -/

theorem queueOf_reset (q : Nat) : queueOf State.reset q = {} := rfl
theorem grantOf_reset (g : Nat) : grantOf State.reset g = {} := rfl
theorem fieldOf_reset (f : Nat) : fieldOf State.reset f = {} := rfl
theorem jobOf_reset (a : Nat) : jobOf State.reset a = {} := rfl
theorem sliceOf_reset (i : Nat) : sliceOf State.reset i = {} := rfl
theorem portOf_reset (p : Nat) : portOf State.reset p = {} := rfl
theorem ctxOf_reset (x : Nat) : ctxOf State.reset x = {} := rfl

theorem queueReg_reset (o : Nat) : queueReg State.reset o = 0 := by
  unfold queueReg
  rw [queueOf_reset]
  generalize o / 64 = q, o % 64 = r
  dsimp only
  split
  · rfl
  · split <;> rfl

theorem grantReg_reset (o : Nat) : grantReg State.reset o = 0 := by
  unfold grantReg
  rw [grantOf_reset]
  generalize o / 16 = q, o % 16 = r
  repeat' split
  all_goals rfl

theorem powerReg_reset (o : Nat) : powerReg State.reset o = 0 := by
  unfold powerReg
  rw [fieldOf_reset, jobOf_reset]
  repeat' split
  all_goals rfl

theorem pairReg_reset (o : Nat) : pairReg State.reset o = 0 := by
  unfold pairReg
  rw [jobOf_reset, sliceOf_reset]
  repeat' split
  all_goals rfl

theorem bupolReg_reset (o : Nat) : bupolReg State.reset o = 0 := by
  have hports (p : Nat) : bitOf State.reset.pair.ports.toNat p = false := by
    rw [show State.reset.pair.ports.toNat = 0 from rfl]
    simp [bitOf]
  unfold bupolReg
  simp only [portOf_reset, ctxOf_reset, hports]
  repeat' split
  all_goals rfl

theorem logReg_reset (o : Nat) : logReg State.reset o = 0 := by
  unfold logReg
  rw [show State.reset.log.ce = [] from rfl, show ∀ k, recAt State.reset k = none from fun _ => rfl, tabGet_nil]
  repeat' split
  all_goals rfl

theorem commitReg_reset (o : Nat) : commitReg State.reset o = 0 := by
  unfold commitReg
  simp only [jobOf_reset, show mapWritten State.reset = false from rfl, Bool.false_eq_true, if_false]
  repeat' split
  all_goals rfl

theorem fieldPartial_reset (f : Nat) : fieldPartial State.reset f = false := by
  unfold fieldPartial
  refine List.any_eq_false.2 fun b _ => ?_
  have hj : ¬ 6 < b % 6 := by omega
  have hfailed : rowFailed State.reset.yld f (b / 6) = [] := rfl
  simp [bunchPresent, siteOf, hfailed, hj]

theorem fieldStatus_reset (f : Nat) : fieldReg State.reset f 0 = 0x12 := by
  have hgone : fieldGone State.reset f = false := rfl
  simp only [fieldReg, if_true, regFieldStatus, fieldStateCode, fieldPartial_reset, fieldOf_reset, hgone, runningField]
  simp [fieldAt, bitAt, b2n, actCode, holdCode]

theorem interlockSum_reset (f : Nat) : interlockSum State.reset f = 0 := by
  have h0 (l : List Nat) : l.foldl (fun n i => n + (coreAt State.reset (288 * f + i)).ilk.toNat) 0 = 0 := by
    induction l with
    | nil => rfl
    | cons i l ih => exact ih
  rw [interlockSum, h0, Nat.zero_mod]

theorem fieldCounters_reset (f : Nat) {o : Nat} (h : 0x100 ≤ o) (h' : o < 0x158) : fieldReg State.reset f o = 0 := by
  have h0 : o ≠ 0 := by omega
  have h8 : o ≠ 8 := by omega
  have h10 : o ≠ 16 := by omega
  simp only [fieldReg, h0, h8, h10, h, h', if_false, if_true, and_self, fieldOf_reset, interlockSum_reset]
  split <;> rfl

/-- Settles O56, register block by register block. -/
theorem resetValuesAreTheSpecs : Obligations.ResetValuesAreTheSpecs := by
  refine ⟨rfl, rfl, rfl, rfl, rfl, rfl, fun o => ⟨queueReg_reset o, grantReg_reset o, powerReg_reset o, pairReg_reset o, bupolReg_reset o, logReg_reset o⟩,
    fun o _ => commitReg_reset o, fun f _ => ⟨fieldStatus_reset f, rfl, fun _ => fieldCounters_reset f⟩⟩

/-! ## Memories at reset -/

theorem memRead_nil (a n : Nat) : memRead [] a n = 0 := by
  induction n generalizing a with
  | zero => rfl
  | succ n ih => rw [memRead, ih]; rfl

theorem brAny_nil (a n : Nat) : brAny [] a n = false := List.any_eq_false.2 fun _ _ => Bool.false_ne_true

/-- Settles O57: every memory is empty at reset. -/
theorem memoriesAreCanonicalAtReset : Obligations.MemoriesAreCanonicalAtReset :=
  ⟨⟨rfl, rfl⟩, fun a n => ⟨memRead_nil a n, memRead_nil a n, memRead_nil a n, by
    unfold dieBruised
    exact Bool.or_eq_false_iff.2 ⟨brAny_nil a n, rfl⟩, brAny_nil a n, brAny_nil a n⟩⟩

end Sys2Proof.Proofs.Reset
end

section
/-! SUPPORT. Proofs about YIELD, SYNC and the messages that the scalar cores owe (06, 07). -/

namespace Sys2Proof.Proofs.Pacing

open Sys2Proof.Machine Sys2Proof.Laws Sys2Proof.Proofs.Vector Sys2Proof.Proofs.Engines

/-- Of an instruction that leaves a pace, beside the issue the task is changed by `g` and paced. -/
theorem taskIs_of_paced {s s' : State} {c : CoreId} {e : Engine} {opc : Nat} {w : BitVec 64} {f : Iss → Res} {d : Done} {g : Task → Task}
    (h : MayIssue s c e opc w) (hgo : f (issOf s c e w) = .go s' d) (hs : ChangesTask s s' c e w g) :
    TaskIs s (issue s c e opc w f) c e fun t => { g t with pace := d.pace } := by
  rw [TaskIs, taskOf_issue_of_changesTask h hgo hs, record]

/-! ## YIELD -/

/-- The epoch of the next yield point (R197). -/
def yieldEpoch (s : State) (c : CoreId) (e : Engine) (w : BitVec 64) : Nat := (taskOf (coreAt s (ckey c)) e).ybase + (bitsOf w.toNat 19 4 + 1)

/-- Its first slot (R172). -/
def yieldSlot (s : State) (c : CoreId) (e : Engine) (w : BitVec 64) : Nat :=
  anchorOf s c.fld (fieldOf s c.fld).cond.owner + 4096 * yieldEpoch s c e w

theorem effYield_issOf (s : State) (c : CoreId) (e : Engine) (w : BitVec 64) :
    effYield (issOf s c e w) =
      .go (modCore (issOf s c e w).s (ckey c) fun x => modTask x e fun t => { t with yctr := t.yctr + 1, ybase := yieldEpoch s c e w })
        { next := max (slotOf s c.fld + 1) (yieldSlot s c e w), fin := max (slotOf s c.fld) (yieldSlot s c e w - 1)
          pace := .yieldAt (taskOf (coreAt s (ckey c)) e).yctr (yieldEpoch s c e w) (w.getLsbD 23) } := by
  rw [effYield, task_issOf, w_issOf, bitOf_toNat]
  rfl

theorem yieldHoldsUntilItsEpoch : YieldHoldsUntilItsEpoch := by
  intro e j first s c w h
  have hgo := effYield_issOf s c e w
  have hs := changesTask_modTask s c e w fun t => { t with yctr := t.yctr + 1, ybase := yieldEpoch s c e w }
  have htask := taskIs_of_paced h hgo hs
  exact ⟨_, rfl, issues_of_changesTask h hgo hs (fun _ => ⟨rfl, rfl, rfl, rfl⟩) rfl (le_max_of_le_left (Nat.le_succ _)), htask,
    onlyTask_of_changesTask h hgo hs, onlyCores_of_changesTask h hgo hs⟩

/-! ## SYNC -/

/-- A SYNC that may issue leaves its engine in the barrier, and its bunch's message where it is the last (R174). -/
theorem syncIssue_of_mayIssue {s : State} {c : CoreId} {e : Engine} {w : BitVec 64} (h : MayIssue s c e 0x04 w)
    (hpace : (taskOf (coreAt (issue s c e 0x04 w effSync) (ckey c)) e).pace = .syncAt (bitsOf w.toNat 19 4)) :
    syncIssue s c e w = if bunchSynced (issue s c e 0x04 w effSync) c.fld c.bun (bitsOf w.toNat 19 4) then
      owe (issue s c e 0x04 w effSync) c.fld { bun := c.bun, kind := 2, asid := (fieldOf s c.fld).cond.owner, n := bitsOf w.toNat 19 4, due := slotOf s c.fld + 1 }
      else issue s c e 0x04 w effSync := by
  have hrun := (ready_and_running_of_engineFree h.1).2
  unfold syncIssue
  simp only [hpace, hrun]
  simp

theorem syncArrivesAtTheBarrier : SyncArrivesAtTheBarrier := by
  intro s c e w h n o
  have hgo : effSync (issOf s c e w) = .go (issOf s c e w).s { next := slotOf s c.fld + 1, fin := slotOf s c.fld, onSync := true, pace := .syncAt n } := rfl
  have hs := changesTask_id s c e w
  have hissues := issues_of_changesTask h hgo hs keepsIssueState_id rfl (Nat.le_succ _)
  have htask := taskIs_of_paced h hgo hs
  have hpace := (congrArg Task.pace (taskOf_issue_of_changesTask h hgo hs)).trans rfl
  have hfl : ((taskOf (coreAt (issue s c e 0x04 w effSync) (ckey c)) e).flights.getLast?).map (·.onSync) = some true := by
    rw [taskOf_issue_of_changesTask h hgo hs, record_flights _ _ _ rfl, List.getLast?_concat]
    rfl
  have hcor : (syncIssue s c e w).cor = (issue s c e 0x04 w effSync).cor := by
    rw [syncIssue_of_mayIssue h hpace]
    split <;> rfl
  have hcore (k : Nat) : coreAt (syncIssue s c e w) k = coreAt (issue s c e 0x04 w effSync) k := by
    rw [coreAt, hcor, coreAt]
  have hsynced : bunchSynced (syncIssue s c e w) c.fld c.bun n = bunchSynced (issue s c e 0x04 w effSync) c.fld c.bun n := by
    simp only [bunchSynced, hcore]
  refine ⟨syncIssue s c e w, rfl, ?_, ?_, ?_, ?_, ?_⟩
  · simp only [Issues, IssuesFrom, TakesTokensFrom, hcore]
    exact hissues
  · rw [TaskIs, hcore]
    exact htask
  · rw [OnlyTask, hcore]
    exact onlyTask_of_changesTask h hgo hs
  · rw [hcore]
    exact hfl
  · rw [hsynced, hcor, syncIssue_of_mayIssue h hpace]
    have hrest := onlyCores_of_changesTask h hgo hs
    split
    · rw [hrest]; rfl
    · exact hrest

/-! ## Owed messages -/

/-- The message is due by slot `t`. -/
def dueBy (t : Nat) (o : Owed) : Bool := o.due != 0 && decide (o.due ≤ t)

/-- The messages due by slot `t` taken off the list. -/
def unowed (f : FieldIx) (t : Nat) (s : State) : State := modFjob s f fun x => { x with owed := x.owed.filter fun o => !dueBy t o }

/-- A scalar core sends a message, in a slot of its SCALAR engine. -/
def sendOne (f : FieldIx) (t : Nat) (s : State) (o : Owed) : State :=
  modCore (send s (owedMsg f o)) (coreKey f o.bun 7) fun c => modTask c .scalar fun x => { x with ready := max x.ready (t + 1) }

theorem packet_unowed (f : FieldIx) (t : Nat) (s : State) (o : Owed) : packet (unowed f t s) (owedMsg f o) = packet s (owedMsg f o) := by
  unfold owedMsg
  split <;> rfl

/-- With one message due, that one is sent. -/
theorem sendOwed_of_one {f : FieldIx} {t : Nat} {s : State} {o : Owed} {rest : List Owed} (howed : (fieldOf s f).job.owed = o :: rest)
    (hin : dueBy t o = true) (hout : ∀ x ∈ rest, dueBy t x = false) : sendOwed f t s = sendOne f t (unowed f t s) o := by
  have hdue : (fieldOf s f).job.owed.filter (dueBy t) = [o] := by
    rw [howed, List.filter_cons_of_pos hin, List.filter_eq_nil_iff.2 fun x hx => by simp [hout x hx]]
  show (if ((fieldOf s f).job.owed.filter (dueBy t)).isEmpty then s
    else ((fieldOf s f).job.owed.filter (dueBy t)).foldl (sendOne f t) (unowed f t s)) = _
  rw [hdue]
  rfl

theorem owedMessagesLeaveInTheirSlot : OwedMessagesLeaveInTheirSlot := by
  intro s f t o rest howed hdue hle hrest _ u k
  have hin : dueBy t o = true := by simp [dueBy, hdue, hle]
  have hout : ∀ x ∈ rest, dueBy t x = false := by
    intro x hx
    rcases hrest x hx with h | h <;> simp [dueBy, h]
  have hu : u = sendOne f t (unowed f t s) o := sendOwed_of_one howed hin hout
  refine ⟨?_, ?_, fun hk => by rw [owedMsg, if_pos hk], fun hk => by rw [owedMsg, if_neg hk], ?_, fun j hj => ?_⟩
  · have hfield : fieldOf u f = fieldOf (unowed f t s) f := by
      rw [hu]
      rfl
    rw [hfield, unowed, fieldOf_modFjob, if_pos rfl]
    show (fieldOf s f).job.owed.filter _ = rest
    rw [howed, List.filter_cons_of_neg (by simp [hin]), List.filter_eq_self.2 fun x hx => by simp [hout x hx]]
  · rw [hu]
    show s.stem.msgs ++ [packet (unowed f t s) (owedMsg f o)] = _
    rw [packet_unowed]
  · rw [hu, sendOne, coreAt_modCore, if_pos rfl, taskOf_modTask, if_pos rfl]
    rfl
  · rw [hu, sendOne, coreAt_modCore, if_neg hj.symm]
    rfl

/-- Settles O3: YIELD and SYNC pace their task, and the list of owed messages is cut at the slot. -/
theorem yieldAndSyncHoldUntilTheirTime : Obligations.YieldAndSyncHoldUntilTheirTime :=
  ⟨yieldHoldsUntilItsEpoch, syncArrivesAtTheBarrier, owedMessagesLeaveInTheirSlot⟩

end Sys2Proof.Proofs.Pacing
end

section
/-! SUPPORT. Proofs about the scalar core (05, 07): register reads and writes, the 24 arithmetic forms, BR and WRD. -/

namespace Sys2Proof.Proofs.Scalar

open Sys2Proof.Machine Sys2Proof.Laws Sys2Proof.Proofs.Vector Sys2Proof.Proofs.Engines

/-! ## Register reads and writes -/

/-- What `xPut` does to a core. -/
def xCore (r v rdy : Nat) (c : Core) : Core :=
  if r = 0 then c else { c with x := tabPut 0 r (BitVec.ofNat 64 v) c.x, xrdy := tabPut 0 r rdy c.xrdy }

theorem coreAt_xPut (s : State) (k r v rdy j : Nat) :
    coreAt (xPut k r v rdy s) j = if k = j then xCore r v rdy (coreAt s k) else coreAt s j := by
  unfold xPut xCore
  split
  · split
    · next h => rw [h]
    · rfl
  · rw [coreAt_modCore]

theorem xPut_rest (s : State) (k r v rdy : Nat) : xPut k r v rdy s = { s with cor := (xPut k r v rdy s).cor } := by
  unfold xPut
  split <;> rfl

theorem tok_xCore (r v rdy : Nat) (c : Core) : (xCore r v rdy c).tok = c.tok := by unfold xCore; split <;> rfl
theorem taskOf_xCore (r v rdy : Nat) (c : Core) (e : Engine) : taskOf (xCore r v rdy c) e = taskOf c e := by unfold xCore; split <;> rfl
theorem xCore_rest (r v rdy : Nat) (c : Core) : xCore r v rdy c = { c with x := (xCore r v rdy c).x, xrdy := (xCore r v rdy c).xrdy } := by
  unfold xCore
  split <;> rfl

theorem x_xCore {r v rdy j : Nat} (c : Core) :
    (if j = 0 then (0 : BitVec 64) else tabGet 0 (xCore r v rdy c).x j) =
      if j = r ∧ j ≠ 0 then BitVec.ofNat 64 v else if j = 0 then 0 else tabGet 0 c.x j := by
  unfold xCore
  by_cases hr : r = 0
  · simp [hr]
  · by_cases hj : j = 0
    · simp [hj, Ne.symm hr]
    · simp [hr, hj, tabGet_put, eq_comm]

theorem xrdy_xCore {r v rdy j : Nat} (c : Core) (hj : j ≠ 0) :
    tabGet 0 (xCore r v rdy c).xrdy j = if j = r then rdy else tabGet 0 c.xrdy j := by
  unfold xCore
  by_cases hr : r = 0
  · simp [hr, hj]
  · simp [hr, tabGet_put, eq_comm]

theorem xGet_lt (s : State) (k r t : Nat) : (xGet s k r t).1 < 2 ^ 64 := by
  unfold xGet
  split
  · exact Nat.two_pow_pos 64
  · split
    · exact BitVec.isLt _
    · exact BitVec.isLt _

/-- A read changes nothing but the counter of free values. -/
theorem xGet_snd (s : State) (k r t : Nat) : (xGet s k r t).2 = { s with free := (xGet s k r t).2.free } := by
  unfold xGet
  split
  · rfl
  · split <;> rfl

/-- A read sees of the state the core's registers and the counter of free values. -/
theorem xGet_of_core {s s' : State} {k : Nat} (hx : (coreAt s' k).x = (coreAt s k).x) (hr : (coreAt s' k).xrdy = (coreAt s k).xrdy)
    (hf : s'.free = s.free) (r t : Nat) :
    xGet s' k r t = ((xGet s k r t).1, { s' with free := (xGet s k r t).2.free }) := by
  unfold xGet
  rw [hx, hr, hf]
  split
  · exact congrArg _ (by rw [← hf])
  · split
    · exact congrArg _ (by rw [← hf])
    · rfl

/-- The state of an issue with the counter of free values at `n`. -/
def issFree (s : State) (c : CoreId) (w : BitVec 64) (n : Nat) : State := { (issOf s c .scalar w).s with free := n }

theorem xGet_issFree (s : State) (c : CoreId) (w : BitVec 64) (n r t : Nat) :
    xGet (issFree s c w n) (ckey c) r t =
      ((xGet { s with free := n } (ckey c) r t).1, issFree s c w (xGet { s with free := n } (ckey c) r t).2.free) := by
  have hcore : coreAt (issFree s c w n) (ckey c) = takeTokens (coreAt s (ckey c)) (waitOf s c .scalar w) := coreAt_issOf s c .scalar w
  exact xGet_of_core (s := { s with free := n }) (s' := issFree s c w n) (by rw [hcore]; rfl) (by rw [hcore]; rfl) rfl r t

/-! ## The issue of an instruction that writes a register -/

/-- `s'` is the state of the issue with register `rd` written, and the counter of free values at `n`. -/
structure WritesRegister (s s' : State) (c : CoreId) (w : BitVec 64) (rd v rdy n : Nat) : Prop where
  core : coreAt s' (ckey c) = xCore rd v rdy (takeTokens (coreAt s (ckey c)) (waitOf s c .scalar w))
  other : ∀ k, k ≠ ckey c → coreAt s' k = coreAt s k
  rest : s' = { s with cor := s'.cor, free := n }

theorem writesRegister_xPut (s : State) (c : CoreId) (w : BitVec 64) (rd v rdy n : Nat) :
    WritesRegister s (xPut (ckey c) rd v rdy (issFree s c w n)) c w rd v rdy n where
  core := by
    rw [coreAt_xPut, if_pos rfl]
    exact congrArg (xCore rd v rdy) (coreAt_issOf s c .scalar w)
  other k hk := by
    rw [coreAt_xPut, if_neg hk.symm]
    exact coreAt_issOf_other s c .scalar w hk
  rest := xPut_rest _ _ _ _ _

theorem writesRegister_none (s : State) (c : CoreId) (w : BitVec 64) (n : Nat) : WritesRegister s (issFree s c w n) c w 0 0 0 n :=
  ⟨coreAt_issOf s c .scalar w, fun _ => coreAt_issOf_other s c .scalar w, rfl⟩

section

variable {s s' : State} {c : CoreId} {opc : Nat} {w : BitVec 64} {f : Iss → Res} {d : Done} {rd v rdy n : Nat}

theorem coreAt_issue_of_writesRegister (h : MayIssue s c .scalar opc w) (hgo : f (issOf s c .scalar w) = .go s' d)
    (hs : WritesRegister s s' c w rd v rdy n) :
    coreAt (issue s c .scalar opc w f) (ckey c) =
      modTask (xCore rd v rdy (takeTokens (coreAt s (ckey c)) (waitOf s c .scalar w))) .scalar
        (record (postMask (taskOf (coreAt s (ckey c)) .scalar).masks w.toNat) d) := by
  rw [issue_go h hgo, coreAt_modCore, if_pos rfl, hs.core]

theorem issues_of_writesRegister (h : MayIssue s c .scalar opc w) (hgo : f (issOf s c .scalar w) = .go s' d)
    (hs : WritesRegister s s' c w rd v rdy n) (hfl : d.inFlight = true) (hnext : slotOf s c.fld ≤ d.next) :
    Issues s (issue s c .scalar opc w f) c .scalar w (pcAfter s c .scalar d)
      (d.next + jumpSlots (taskOf (coreAt s (ckey c)) .scalar) d) d.fin := by
  have htask (x : Engine) : taskOf (coreAt s' (ckey c)) x = taskOf (coreAt s (ckey c)) x := by
    rw [hs.core, taskOf_xCore, taskOf_takeTokens]
  have hmax : max (taskOf (coreAt s (ckey c)) .scalar).ready d.next = d.next :=
    max_eq_right (le_trans (ready_and_running_of_engineFree h.1).1 hnext)
  have hissues := issues_of_go h hgo hfl (by rw [hs.core, tok_xCore]) (fun x _ => htask x) (by rw [htask]) (by rw [htask]) hs.other
  rw [htask, hmax] at hissues
  unfold pcAfter jumpSlots
  cases hpc : d.pc <;> rw [hpc] at hissues <;> exact hissues

theorem taskIs_of_writesRegister (h : MayIssue s c .scalar opc w) (hgo : f (issOf s c .scalar w) = .go s' d)
    (hs : WritesRegister s s' c w rd v rdy n) (hpace : d.pace = .run) : TaskIs s (issue s c .scalar opc w f) c .scalar id := by
  have hrun := (ready_and_running_of_engineFree h.1).2
  rw [TaskIs, coreAt_issue_of_writesRegister h hgo hs, taskOf_modTask, if_pos rfl, taskOf_xCore, taskOf_takeTokens, record, hpace, ← hrun]
  rfl

theorem xReg_of_writesRegister (h : MayIssue s c .scalar opc w) (hgo : f (issOf s c .scalar w) = .go s' d)
    (hs : WritesRegister s s' c w rd v rdy n) (j : Nat) :
    xReg (issue s c .scalar opc w f) (ckey c) j = if j = rd ∧ j ≠ 0 then BitVec.ofNat 64 v else xReg s (ckey c) j := by
  rw [xReg, coreAt_issue_of_writesRegister h hgo hs]
  exact x_xCore _

theorem xrdy_of_writesRegister (h : MayIssue s c .scalar opc w) (hgo : f (issOf s c .scalar w) = .go s' d)
    (hs : WritesRegister s s' c w rd v rdy n) (j : Nat) (hj : j ≠ 0) :
    tabGet 0 (coreAt (issue s c .scalar opc w f) (ckey c)).xrdy j = if j = rd then rdy else tabGet 0 (coreAt s (ckey c)).xrdy j := by
  rw [coreAt_issue_of_writesRegister h hgo hs]
  exact xrdy_xCore _ hj

theorem core_of_writesRegister (h : MayIssue s c .scalar opc w) (hgo : f (issOf s c .scalar w) = .go s' d)
    (hs : WritesRegister s s' c w rd v rdy n) :
    let x := coreAt (issue s c .scalar opc w f) (ckey c)
    x = { coreAt s (ckey c) with tok := x.tok, tasks := x.tasks, x := x.x, xrdy := x.xrdy } := by
  dsimp only
  rw [coreAt_issue_of_writesRegister h hgo hs, xCore_rest]
  rfl

theorem rest_of_writesRegister (h : MayIssue s c .scalar opc w) (hgo : f (issOf s c .scalar w) = .go s' d)
    (hs : WritesRegister s s' c w rd v rdy n) :
    issue s c .scalar opc w f = { s with cor := (issue s c .scalar opc w f).cor, free := n } := by
  rw [issue_go h hgo, hs.rest]
  rfl

end

/-! ## Register and immediate forms -/

theorem fImm_eq (w : BitVec 64) : fImm w.toNat = ((w.extractLsb' 31 32).signExtend 64).toNat := by
  rw [fImm, wrapInt_eq_toNat, sextNat_eq_toInt, ofNat_bitsOf, BitVec.signExtend]

/-- The second operand, and the counter of free values after both are read. -/
def secondOperand (s : State) (c : CoreId) (w : BitVec 64) (imm : Bool) : Nat × State :=
  if imm then (((w.extractLsb' 31 32).signExtend 64).toNat, (xGet s (ckey c) (fRS1 w.toNat) (slotOf s c.fld)).2)
  else xGet (xGet s (ckey c) (fRS1 w.toNat) (slotOf s c.fld)).2 (ckey c) (fRS2 w.toNat) (slotOf s c.fld)

theorem secondOperand_lt (s : State) (c : CoreId) (w : BitVec 64) (imm : Bool) : (secondOperand s c w imm).1 < 2 ^ 64 := by
  unfold secondOperand
  split
  · exact BitVec.isLt _
  · exact xGet_lt _ _ _ _

theorem xGet_issOf (s : State) (c : CoreId) (w : BitVec 64) (r t : Nat) :
    xGet (issOf s c .scalar w).s (ckey c) r t = ((xGet s (ckey c) r t).1, issFree s c w (xGet s (ckey c) r t).2.free) :=
  xGet_issFree s c w s.free r t

theorem xGet_second (s : State) (c : CoreId) (w : BitVec 64) (r r' t : Nat) :
    xGet (issFree s c w (xGet s (ckey c) r t).2.free) (ckey c) r' t =
      ((xGet (xGet s (ckey c) r t).2 (ckey c) r' t).1, issFree s c w (xGet (xGet s (ckey c) r t).2 (ckey c) r' t).2.free) := by
  rw [xGet_issFree, ← xGet_snd]

theorem effAlu_issOf (s : State) (c : CoreId) (w : BitVec 64) (occ lat : Nat) (imm : Bool) (f : Nat → Nat → Nat) :
    effAlu occ lat imm f (issOf s c .scalar w) =
      .go (xPut (ckey c) (fRD w.toNat) (f (xGet s (ckey c) (fRS1 w.toNat) (slotOf s c.fld)).1 (secondOperand s c w imm).1)
          (slotOf s c.fld + occ - 1 + lat) (issFree s c w (secondOperand s c w imm).2.free))
        { next := slotOf s c.fld + occ - 1 + 1, fin := slotOf s c.fld + occ - 1 + lat - 1 } := by
  have hk : (issOf s c .scalar w).k = ckey c := rfl
  have ht : (issOf s c .scalar w).t = slotOf s c.fld := rfl
  unfold effAlu
  simp only [hk, ht, w_issOf, xGet_issOf]
  unfold secondOperand
  cases imm
  · simp only [Bool.false_eq_true, if_false, xGet_second]
  · simp only [if_true, fImm_eq]

/-- A form whose function agrees with the statement's on 64-bit operands. -/
theorem scalarForm_of_exec {i : CoreId → BitVec 64 → Instr} {opc occ lat : Nat} {imm : Bool} {f : BitVec 64 → BitVec 64 → BitVec 64}
    {f' : Nat → Nat → Nat} (hocc : 1 ≤ occ) (hexec : ∀ c w s, exec (i c w) s = .next (issue s c .scalar opc w (effAlu occ lat imm f')))
    (hf : ∀ a b : BitVec 64, BitVec.ofNat 64 (f' a.toNat b.toNat) = f a b) : ScalarForm i opc occ lat imm f := by
  intro s c w h k rd a b sb
  have hb : b = (secondOperand s c w imm).1 := by unfold secondOperand; cases imm <;> rfl
  have hsb : sb = (secondOperand s c w imm).2 := by unfold secondOperand; cases imm <;> rfl
  have hgo := effAlu_issOf s c w occ lat imm f'
  have hs := writesRegister_xPut s c w rd (f' a.1 (secondOperand s c w imm).1) (slotOf s c.fld + occ - 1 + lat) (secondOperand s c w imm).2.free
  have hval : f (BitVec.ofNat 64 a.1) (BitVec.ofNat 64 b) = BitVec.ofNat 64 (f' a.1 (secondOperand s c w imm).1) := by
    rw [hb, ← hf, BitVec.toNat_ofNat, BitVec.toNat_ofNat, Nat.mod_eq_of_lt (xGet_lt _ _ _ _), Nat.mod_eq_of_lt (secondOperand_lt _ _ _ _)]
  have hissues := issues_of_writesRegister h hgo hs rfl (by dsimp only; omega)
  dsimp only at hissues
  rw [Nat.sub_add_cancel (show 1 ≤ slotOf s c.fld + occ by omega)] at hissues
  refine ⟨_, hexec c w s, hissues, taskIs_of_writesRegister h hgo hs rfl, fun j => ?_, xrdy_of_writesRegister h hgo hs,
    core_of_writesRegister h hgo hs, ?_⟩
  · rw [hval]
    exact xReg_of_writesRegister h hgo hs j
  · rw [hsb]
    exact rest_of_writesRegister h hgo hs

/-! ## The functions of the forms -/

theorem sextNat_toNat (a : BitVec 64) : sextNat a.toNat 64 = a.toInt := by
  rw [sextNat_eq_toInt, BitVec.ofNat_toNat, BitVec.setWidth_eq]

theorem ofNat_wrapInt (z : Int) : BitVec.ofNat 64 (wrapInt z 64) = BitVec.ofInt 64 z := by
  rw [wrapInt_eq_toNat, BitVec.ofNat_toNat, BitVec.setWidth_eq]

theorem shl64_eq (a b : BitVec 64) : BitVec.ofNat 64 (shl64 a.toNat b.toNat) = a <<< (b.toNat % 64) := by
  apply BitVec.eq_of_toNat_eq
  rw [shl64, BitVec.toNat_ofNat, Nat.mod_mod, BitVec.toNat_shiftLeft, Nat.shiftLeft_eq]

theorem shr64_eq (a b : BitVec 64) : BitVec.ofNat 64 (shr64 a.toNat b.toNat) = a >>> (b.toNat % 64) := by
  apply BitVec.eq_of_toNat_eq
  rw [shr64, BitVec.toNat_ofNat, BitVec.toNat_ushiftRight, Nat.shiftRight_eq_div_pow,
    Nat.mod_eq_of_lt (lt_of_le_of_lt (Nat.div_le_self _ _) a.isLt)]

theorem sra64_eq (a b : BitVec 64) : BitVec.ofNat 64 (sra64 a.toNat b.toNat) = a.sshiftRight (b.toNat % 64) := by
  rw [sra64, ofNat_wrapInt, sextNat_toNat]
  apply BitVec.eq_of_toInt_eq
  have hshift : a.toInt / (2 : Int) ^ (b.toNat % 64) = (a.sshiftRight (b.toNat % 64)).toInt := by
    rw [BitVec.toInt_sshiftRight, Int.shiftRight_eq_div_pow]
    norm_cast
  rw [hshift, BitVec.ofInt_toInt]

theorem slt64_eq (a b : BitVec 64) : BitVec.ofNat 64 (slt64 a.toNat b.toNat) = if a.slt b then 1 else 0 := by
  rw [slt64, sextNat_toNat, sextNat_toNat, BitVec.slt]
  cases decide (a.toInt < b.toInt) <;> rfl

theorem sltu64_eq (a b : BitVec 64) : BitVec.ofNat 64 (sltu64 a.toNat b.toNat) = if a.ult b then 1 else 0 := by
  rw [sltu64, BitVec.ult]
  cases decide (a.toNat < b.toNat) <;> rfl

theorem sub64_eq (a b : BitVec 64) : BitVec.ofNat 64 (a.toNat + (2 ^ 64 - b.toNat)) = a - b := by
  apply BitVec.eq_of_toNat_eq
  rw [BitVec.toNat_ofNat, BitVec.toNat_sub, Nat.add_comm]

theorem eq_zero_iff (b : BitVec 64) : b.toNat = 0 ↔ b = 0 := by rw [← BitVec.toNat_inj]; rfl

theorem divu64_eq (a b : BitVec 64) : BitVec.ofNat 64 (divu64 a.toNat b.toNat) = if b = 0 then BitVec.allOnes 64 else a / b := by
  rw [divu64]
  simp only [eq_zero_iff]
  split
  · rfl
  · apply BitVec.eq_of_toNat_eq
    rw [BitVec.toNat_ofNat, BitVec.toNat_udiv, Nat.mod_eq_of_lt (lt_of_le_of_lt (Nat.div_le_self _ _) a.isLt)]

theorem remu64_eq (a b : BitVec 64) : BitVec.ofNat 64 (remu64 a.toNat b.toNat) = if b = 0 then a else a % b := by
  rw [remu64]
  simp only [eq_zero_iff]
  split
  · rw [BitVec.ofNat_toNat, BitVec.setWidth_eq]
  · apply BitVec.eq_of_toNat_eq
    rw [BitVec.toNat_ofNat, BitVec.toNat_umod, Nat.mod_eq_of_lt (lt_of_le_of_lt (Nat.mod_le _ _) a.isLt)]

theorem div64_eq (a b : BitVec 64) : BitVec.ofNat 64 (div64 a.toNat b.toNat) = if b = 0 then BitVec.allOnes 64 else a.sdiv b := by
  rw [div64]
  simp only [eq_zero_iff]
  split
  · rfl
  · rw [ofNat_wrapInt, sextNat_toNat, sextNat_toNat]
    apply BitVec.eq_of_toInt_eq
    rw [BitVec.toInt_ofInt, BitVec.toInt_sdiv]

theorem rem64_eq (a b : BitVec 64) : BitVec.ofNat 64 (rem64 a.toNat b.toNat) = if b = 0 then a else a.srem b := by
  rw [rem64]
  simp only [eq_zero_iff]
  split
  · rw [BitVec.ofNat_toNat, BitVec.setWidth_eq]
  · rw [ofNat_wrapInt, sextNat_toNat, sextNat_toNat, ← BitVec.toInt_srem, BitVec.ofInt_toInt]

theorem lih_eq (a b : BitVec 64) : BitVec.ofNat 64 (b.toNat * 2 ^ 32 % 2 ^ 64 ||| a.toNat % 2 ^ 32) = (b <<< 32) ||| (a &&& 0xFFFFFFFF) := by
  apply BitVec.eq_of_toNat_eq
  rw [BitVec.toNat_or, BitVec.toNat_shiftLeft, BitVec.toNat_and, Nat.shiftLeft_eq, BitVec.toNat_ofNat,
    show (0xFFFFFFFF : BitVec 64).toNat = 2 ^ 32 - 1 from rfl, Nat.and_two_pow_sub_one_eq_mod]
  exact Nat.mod_eq_of_lt (Nat.or_lt_two_pow (Nat.mod_lt _ (by norm_num)) (lt_trans (Nat.mod_lt _ (by norm_num)) (by norm_num)))

theorem scalarRegisterFormsComplete : ScalarRegisterFormsComplete := by
  refine ⟨?add, ?sub, ?and, ?or, ?xor, ?shl, ?shr, ?sra, ?slt, ?sltu, ?mul, ?divu, ?div, ?remu, ?rem⟩
  case add => exact scalarForm_of_exec le_rfl (fun _ _ _ => rfl) fun a b => by rw [BitVec.ofNat_add]; simp
  case sub => exact scalarForm_of_exec le_rfl (fun _ _ _ => rfl) sub64_eq
  case and => exact scalarForm_of_exec le_rfl (fun _ _ _ => rfl) fun a b => by rw [BitVec.ofNat_and]; simp
  case or => exact scalarForm_of_exec le_rfl (fun _ _ _ => rfl) fun a b => by rw [BitVec.ofNat_or]; simp
  case xor => exact scalarForm_of_exec le_rfl (fun _ _ _ => rfl) fun a b => by rw [BitVec.ofNat_xor]; simp
  case shl => exact scalarForm_of_exec le_rfl (fun _ _ _ => rfl) shl64_eq
  case shr => exact scalarForm_of_exec le_rfl (fun _ _ _ => rfl) shr64_eq
  case sra => exact scalarForm_of_exec le_rfl (fun _ _ _ => rfl) sra64_eq
  case slt => exact scalarForm_of_exec le_rfl (fun _ _ _ => rfl) slt64_eq
  case sltu => exact scalarForm_of_exec le_rfl (fun _ _ _ => rfl) sltu64_eq
  case mul => exact scalarForm_of_exec le_rfl (fun _ _ _ => rfl) fun a b => by rw [BitVec.ofNat_mul]; simp
  case divu => exact scalarForm_of_exec (by norm_num) (fun _ _ _ => rfl) divu64_eq
  case div => exact scalarForm_of_exec (by norm_num) (fun _ _ _ => rfl) div64_eq
  case remu => exact scalarForm_of_exec (by norm_num) (fun _ _ _ => rfl) remu64_eq
  case rem => exact scalarForm_of_exec (by norm_num) (fun _ _ _ => rfl) rem64_eq

theorem scalarImmediateFormsComplete : ScalarImmediateFormsComplete := by
  refine ⟨?addi, ?andi, ?ori, ?xori, ?shli, ?shri, ?srai, ?slti, ?lih⟩
  case addi => exact scalarForm_of_exec le_rfl (fun _ _ _ => rfl) fun a b => by rw [BitVec.ofNat_add]; simp
  case andi => exact scalarForm_of_exec le_rfl (fun _ _ _ => rfl) fun a b => by rw [BitVec.ofNat_and]; simp
  case ori => exact scalarForm_of_exec le_rfl (fun _ _ _ => rfl) fun a b => by rw [BitVec.ofNat_or]; simp
  case xori => exact scalarForm_of_exec le_rfl (fun _ _ _ => rfl) fun a b => by rw [BitVec.ofNat_xor]; simp
  case shli => exact scalarForm_of_exec le_rfl (fun _ _ _ => rfl) shl64_eq
  case shri => exact scalarForm_of_exec le_rfl (fun _ _ _ => rfl) shr64_eq
  case srai => exact scalarForm_of_exec le_rfl (fun _ _ _ => rfl) sra64_eq
  case slti => exact scalarForm_of_exec le_rfl (fun _ _ _ => rfl) slt64_eq
  case lih => exact scalarForm_of_exec le_rfl (fun _ _ _ => rfl) lih_eq

/-- Settles O4: each of the 24 is the one form, with its own function of two 64-bit operands. -/
theorem scalarArithmeticCompletes : Obligations.ScalarArithmeticCompletes := ⟨scalarRegisterFormsComplete, scalarImmediateFormsComplete⟩

/-! ## BR and WRD -/

theorem brCond_iff (cond : Nat) (a b : BitVec 64) (h : cond ≤ 6) : brCond cond a.toNat b.toNat = true ↔ BrTaken cond a b := by
  unfold brCond BrTaken
  rw [sextNat_toNat, sextNat_toNat]
  interval_cases cond <;> simp [BitVec.slt, BitVec.ult, BitVec.toNat_inj]

/-- A well-formed BR has a condition of the seven (R217, R218). -/
theorem br_cond {k : CoreKind} {w : Nat} (h : wordOk k .scalar w = true) (hopc : opcOf w = 0xB4) : bitsOf w 37 3 ≤ 6 := by
  obtain ⟨hengine, hfields⟩ : engineOn k .scalar = true ∧ fieldsOk k .scalar w = true := by
    rw [wordOk, Bool.and_eq_true, Bool.and_eq_true] at h
    exact ⟨h.1.1, h.2⟩
  have hlt : bitsOf w 37 3 < 8 := bitsOf_lt w 37 3
  cases k with
  | matrix => exact absurd hengine (by decide)
  | vector => exact absurd hengine (by decide)
  | scalar =>
    simp [fieldsOk, hopc] at hfields
    omega

/-- The target of BR (R217). -/
def brTarget (pc : BitVec 32) (w : BitVec 64) : BitVec 32 := pc + 8 * (w.extractLsb' 40 24).signExtend 32

theorem wrapInt_brTarget (pc : BitVec 32) (w : BitVec 64) :
    wrapInt ((pc.toNat : Int) + 8 * sextNat (bitsOf w.toNat 40 24) 24) 32 = (brTarget pc w).toNat := by
  rw [wrapInt_eq_toNat, sextNat_eq_toInt, ofNat_bitsOf, BitVec.ofInt_add, BitVec.ofInt_mul, BitVec.ofInt_natCast, BitVec.ofNat_toNat,
    BitVec.setWidth_eq, brTarget, BitVec.signExtend]
  rfl

theorem effBr_issOf (s : State) (c : CoreId) (w : BitVec 64) :
    effBr (issOf s c .scalar w) =
      .go (issFree s c w (secondOperand s c w false).2.free)
        { next := slotOf s c.fld + 2, fin := slotOf s c.fld + 1
          pc := if brCond (bitsOf w.toNat 37 3) (xGet s (ckey c) (fRS1 w.toNat) (slotOf s c.fld)).1 (secondOperand s c w false).1 then
            some (brTarget (taskOf (coreAt s (ckey c)) .scalar).pc w).toNat else none } := by
  have hk : (issOf s c .scalar w).k = ckey c := rfl
  have ht : (issOf s c .scalar w).t = slotOf s c.fld := rfl
  unfold effBr
  simp only [hk, ht, w_issOf, task_issOf, xGet_issOf, xGet_second, wrapInt_brTarget]
  rfl

/-- Settles O5: BR's condition and target on 64-bit operands, and WRD as a register write. -/
theorem branchAndWindowReadComplete : Obligations.BranchAndWindowReadComplete := by
  refine ⟨?br, ?wrd⟩
  case br =>
    intro s c w h k pc tgt a b cond
    obtain ⟨-, -, hopc, hok, -, -⟩ := id h
    have hgo := effBr_issOf s c w
    have hs := writesRegister_none s c w (secondOperand s c w false).2.free
    have hissues := issues_of_writesRegister h hgo hs rfl (Nat.le_add_right _ _)
    have hcond : brCond cond a.1 b.1 = true ↔ BrTaken cond (BitVec.ofNat 64 a.1) (BitVec.ofNat 64 b.1) := by
      rw [← brCond_iff cond _ _ (br_cond hok hopc), BitVec.toNat_ofNat, BitVec.toNat_ofNat, Nat.mod_eq_of_lt (xGet_lt _ _ _ _),
        Nat.mod_eq_of_lt (xGet_lt _ _ _ _)]
    have honly : OnlyTask s (issue s c .scalar 0xB4 w effBr) c := by
      rw [OnlyTask, coreAt_issue_of_writesRegister h hgo hs]
      rfl
    refine ⟨_, rfl, fun htaken => ?_, fun hnot => ?_, taskIs_of_writesRegister h hgo hs rfl, honly,
      rest_of_writesRegister h hgo hs⟩
    · have htrue : brCond (bitsOf w.toNat 37 3) (xGet s (ckey c) (fRS1 w.toNat) (slotOf s c.fld)).1 (secondOperand s c w false).1 = true := hcond.2 htaken
      rw [pcAfter, jumpSlots, htrue] at hissues
      simp only [if_true, Option.map_some, Option.getD_some, BitVec.ofNat_toNat, BitVec.setWidth_eq] at hissues
      exact hissues
    · have hfalse : ¬ brCond (bitsOf w.toNat 37 3) (xGet s (ckey c) (fRS1 w.toNat) (slotOf s c.fld)).1 (secondOperand s c w false).1 = true := fun hc => hnot (hcond.1 hc)
      rw [pcAfter, jumpSlots, if_neg hfalse] at hissues
      exact hissues
  case wrd =>
    intro s c w h k
    have hgo : effWrd (issOf s c .scalar w) = .go
        (xPut (ckey c) (fRD w.toNat) (winOf (taskOf (coreAt s (ckey c)) .scalar) (bitsOf w.toNat 25 3)) (slotOf s c.fld + 1) (issFree s c w s.free))
        { next := slotOf s c.fld + 1, fin := slotOf s c.fld } := by
      rw [effWrd, task_issOf, w_issOf]
      rfl
    have hs := writesRegister_xPut s c w (fRD w.toNat) (winOf (taskOf (coreAt s (ckey c)) .scalar) (bitsOf w.toNat 25 3)) (slotOf s c.fld + 1) s.free
    have hreg := xReg_of_writesRegister h hgo hs
    have hwin (j : Nat) : BitVec.ofNat 64 (winOf (taskOf (coreAt s (ckey c)) .scalar) j) = tabGet 0 (taskOf (coreAt s (ckey c)) .scalar).win j := by
      rw [winOf, BitVec.ofNat_toNat, BitVec.setWidth_eq]
    rw [hwin] at hreg
    exact ⟨_, rfl, issues_of_writesRegister h hgo hs rfl (Nat.le_succ _), taskIs_of_writesRegister h hgo hs rfl, hreg,
      xrdy_of_writesRegister h hgo hs, core_of_writesRegister h hgo hs, rest_of_writesRegister h hgo hs⟩

end Sys2Proof.Proofs.Scalar
end

section
/-! SUPPORT. Proofs about the instructions that move one unit a slot: what a read notes (08, R242), and a unit that moves (R166, R233). -/

namespace Sys2Proof.Proofs.Units

open Sys2Proof.Machine Sys2Proof.Laws Sys2Proof.Proofs.Vector Sys2Proof.Proofs.Engines

/-! ## What a read notes -/

/-- The state with other cores and another counter of free values. -/
def withCores (s : State) (x : Tab Core × Nat) : State := { s with cor := x.1, free := x.2 }

theorem countCorrected_withCores (s : State) (x : Tab Core × Nat) (oda : Nat) :
    countCorrected (withCores s x) oda = withCores (countCorrected s oda) x := by
  unfold countCorrected
  simp only [apply_ite (withCores · x)]
  refine if_congr Iff.rfl rfl (if_congr Iff.rfl ?_ rfl)
  show (match siteOf s.yld _ _ with | some site => _ | none => _) = withCores (match siteOf s.yld _ _ with | some site => _ | none => _) x
  split <;> rfl

theorem countCorrected_mem (s : State) (oda : Nat) : (countCorrected s oda).mem = s.mem := by
  unfold countCorrected
  extract_lets f k n s1 s2
  split
  · rfl
  · split
    · split <;> rfl
    · split <;> rfl

theorem raiseAt_withCores (s : State) (x : Tab Core × Nat) (f : FieldIx) (oda code : Nat) :
    raiseAt (withCores s x) f oda code = withCores (raiseAt s f oda code) x := by
  unfold raiseAt
  split <;> rfl

theorem raiseAt_mem (s : State) (f : FieldIx) (oda code : Nat) : (raiseAt s f oda code).mem = s.mem := by
  unfold raiseAt
  split <;> rfl

theorem foldl_withCores {α : Type} {g : State → α → State} (hg : ∀ s x a, g (withCores s x) a = withCores (g s a) x) (l : List α)
    (s : State) (x : Tab Core × Nat) : l.foldl g (withCores s x) = withCores (l.foldl g s) x := by
  induction l generalizing s with
  | nil => rfl
  | cons a l ih => rw [List.foldl_cons, List.foldl_cons, hg, ih]

/-- The soft errors of a granule, reported and counted. -/
def countSoft (f : FieldIx) (g : Nat) (s : State) : State :=
  (softWords (flipsOf s.mem g)).foldl (fun s _ => countCorrected (raiseAt s f (64 * g) 0x0001) (64 * g)) s

theorem countSoft_withCores (f : FieldIx) (g : Nat) (s : State) (x : Tab Core × Nat) : countSoft f g (withCores s x) = withCores (countSoft f g s) x :=
  foldl_withCores (fun s x _ => by rw [raiseAt_withCores, countCorrected_withCores]) _ s x

theorem countSoft_mem (f : FieldIx) (g : Nat) (s : State) : (countSoft f g s).mem = s.mem := by
  unfold countSoft
  generalize softWords (flipsOf s.mem g) = l
  induction l generalizing s with
  | nil => rfl
  | cons a l ih => rw [List.foldl_cons, ih, countCorrected_mem, raiseAt_mem]

theorem readGranule_eq (f : FieldIx) (s : State) (g : Nat) :
    readGranule f s g = if (hardWords (flipsOf s.mem g)).isEmpty then countSoft f g s
      else raiseAt { countSoft f g s with mem := { (countSoft f g s).mem with dieBr := brSet (countSoft f g s).mem.dieBr g true } } f (64 * g) 0x0101 := rfl

theorem readGranule_withCores (f : FieldIx) (s : State) (x : Tab Core × Nat) (g : Nat) :
    readGranule f (withCores s x) g = withCores (readGranule f s g) x := by
  rw [readGranule_eq, readGranule_eq, countSoft_withCores, apply_ite (withCores · x), ← raiseAt_withCores]
  rfl

theorem noteRead_withCores (s : State) (x : Tab Core × Nat) (f : FieldIx) (oda n : Nat) :
    noteRead (withCores s x) f oda n = withCores (noteRead s f oda n) x := by
  unfold noteRead
  rw [apply_ite (withCores · x), ← foldl_withCores (readGranule_withCores f)]
  rfl

theorem unitNote_withCores (s : State) (x : Tab Core × Nat) (c : CoreId) (p : Prog) : unitNote (withCores s x) c p = withCores (unitNote s c p) x := by
  unfold unitNote
  split
  · exact noteRead_withCores s x c.fld _ _
  · rfl

theorem unitNote_free (s : State) (c : CoreId) (p : Prog) : (unitNote s c p).free = s.free := by
  have h := congrArg State.free (unitNote_withCores s (s.cor, s.free) c p)
  exact h

/-- What a read leaves of the memories. -/
theorem readGranule_mem (f : FieldIx) (s : State) (g : Nat) :
    (readGranule f s g).mem = if (hardWords (flipsOf s.mem g)).isEmpty then s.mem else { s.mem with dieBr := brSet s.mem.dieBr g true } := by
  rw [readGranule_eq]
  split
  · exact countSoft_mem f g s
  · rw [raiseAt_mem, countSoft_mem]

theorem noteRead_cor (s : State) (f : FieldIx) (oda n : Nat) : (noteRead s f oda n).cor = s.cor := by
  have h := congrArg State.cor (noteRead_withCores s (s.cor, s.free) f oda n)
  exact h

theorem unitNote_cor (s : State) (c : CoreId) (p : Prog) : (unitNote s c p).cor = s.cor := by
  have h := congrArg State.cor (unitNote_withCores s (s.cor, s.free) c p)
  exact h

/-- A read changes no byte and no inverted bit. -/
theorem noteRead_mem (s : State) (f : FieldIx) (oda n : Nat) :
    (noteRead s f oda n).mem = { s.mem with dieBr := (noteRead s f oda n).mem.dieBr } := by
  unfold noteRead
  split
  · rfl
  · next hflips =>
    clear hflips
    generalize granulesOf oda n = l
    induction l generalizing s with
    | nil => rfl
    | cons g l ih =>
      rw [List.foldl_cons, ih, readGranule_mem]
      split <;> rfl

/-- Where no granule is uncorrectable a read leaves the memories (R242). -/
theorem noteRead_mem_of_sound {s : State} {oda n : Nat} (f : FieldIx) (h : hardIn s.mem oda n = false) : (noteRead s f oda n).mem = s.mem := by
  unfold noteRead
  split
  · rfl
  · next hflips =>
    have hsound : ∀ g ∈ granulesOf oda n, (hardWords (flipsOf s.mem g)).isEmpty = true := by
      simpa [hardIn, hflips] using h
    generalize granulesOf oda n = l at hsound
    induction l generalizing s with
    | nil => rfl
    | cons g l ih =>
      have hmem : (readGranule f s g).mem = s.mem := by rw [readGranule_mem, if_pos (hsound g List.mem_cons_self)]
      rw [List.foldl_cons, ih (by rwa [hmem]) (by rwa [hmem]) (by rw [hmem]; exact fun g hg => hsound g (List.mem_cons_of_mem _ hg)), hmem]

theorem unitNote_mem (s : State) (c : CoreId) (p : Prog) : (unitNote s c p).mem = { s.mem with dieBr := (unitNote s c p).mem.dieBr } := by
  unfold unitNote
  split
  · exact noteRead_mem s c.fld _ _
  · rfl

theorem dieRead_unitNote (s : State) (c : CoreId) (p : Prog) (a n : Nat) : dieRead (unitNote s c p) a n = dieRead s a n := by
  rw [dieRead, unitNote_mem]
  rfl

/-! ## A unit moves -/

/-- A change of a core that its tokens, tasks and records have no part in. -/
def ApartFromIssue (F : Core → Core) : Prop :=
  ∀ (x : Core) tok tasks prog, F { x with tok := tok, tasks := tasks, prog := prog } = { F x with tok := tok, tasks := tasks, prog := prog }

section

variable {s s' s2 : State} {c : CoreId} {e : Engine} {w : BitVec 64} {r : Option Prog} {g : Task → Task}

/-- Such a change of the core, made in both. -/
theorem stands_changeCore (hs : Stands s s' s2 c e w r g) {F : Core → Core} (hF : ApartFromIssue F) :
    Stands s (modCore s' (ckey c) F) (modCore s2 (ckey c) F) c e w r g := by
  have hk (u : State) : coreAt (modCore u (ckey c) F) (ckey c) = F (coreAt u (ckey c)) := by rw [coreAt_modCore, if_pos rfl]
  have hself (x : Core) : F x = { F x with tok := x.tok, tasks := x.tasks, prog := x.prog } := hF x x.tok x.tasks x.prog
  constructor
  case tok => rw [hk, hself]; exact hs.tok
  case prog => rw [hk, hself]; exact hs.prog
  case task => rw [hk, hself]; exact hs.task
  case others =>
    intro x hx
    rw [hk, hk, hself, hself (coreAt s' _)]
    exact hs.others x hx
  case core =>
    rw [hk, hk, hself (coreAt s2 _), hs.core, hF]
  case cores =>
    intro k hne
    rw [coreAt_modCore, coreAt_modCore, if_neg hne.symm, if_neg hne.symm, hs.cores k hne]
  case rest => rw [hs.rest]; rfl

/-- The read of a unit, noted in both. -/
theorem stands_note (hs : Stands s s' s2 c e w r g) (p : Prog) : Stands s (unitNote s' c p) (unitNote s2 c p) c e w r g := by
  have h2 : unitNote s2 c p = withCores (unitNote s' c p) (s2.cor, s'.free) := by
    conv_lhs => rw [hs.rest]
    exact unitNote_withCores s' (s2.cor, s'.free) c p
  have hcore (k : Nat) : coreAt (unitNote s2 c p) k = coreAt s2 k := congrArg (tabGet ({} : Core) · k) (unitNote_cor s2 c p)
  have hcore' (k : Nat) : coreAt (unitNote s' c p) k = coreAt s' k := congrArg (tabGet ({} : Core) · k) (unitNote_cor s' c p)
  constructor
  case tok => rw [hcore]; exact hs.tok
  case prog => rw [hcore]; exact hs.prog
  case task => rw [hcore]; exact hs.task
  case others => rw [hcore, hcore']; exact hs.others
  case core => rw [hcore, hcore']; exact hs.core
  case cores =>
    intro k hk
    rw [hcore, hcore']
    exact hs.cores k hk
  case rest =>
    rw [h2, withCores, ← unitNote_free s' c p]

end

section

variable {s s' s2 : State} {c : CoreId} {e : Engine} {opc : Nat} {w : BitVec 64} {f : Iss → Res} {p q p' : Prog} {g : Task → Task}

/-- The state in which the first unit moves: its read is noted. -/
def notedStand (s : State) (c : CoreId) (e : Engine) (w : BitVec 64) (p : Prog) (g : Task → Task) : State :=
  unitNote (standState s c e w (begun s c e w p) g) c (begun s c e w p)

theorem stands_notedStand (s : State) (c : CoreId) (e : Engine) (w : BitVec 64) (p : Prog) (g : Task → Task) :
    Stands s (unitNote s c (begun s c e w p)) (notedStand s c e w p g) c e w (some (begun s c e w p)) g :=
  stands_note (stands_standState s c e w (begun s c e w p) g) _

/-- The note sees of the record its kind, its place and its length. -/
theorem unitNote_begun (s : State) (c : CoreId) (e : Engine) (w : BitVec 64) (p : Prog) : unitNote s c (begun s c e w p) = unitNote s c p := rfl

theorem mem_notedStand (s : State) (c : CoreId) (e : Engine) (w : BitVec 64) (p : Prog) (g : Task → Task) :
    (notedStand s c e w p g).mem = (unitNote s c p).mem := by
  rw [(stands_notedStand s c e w p g).rest]
  rfl

theorem dieRead_notedStand (s : State) (c : CoreId) (e : Engine) (w : BitVec 64) (p : Prog) (g : Task → Task) (a n : Nat) :
    dieRead (notedStand s c e w p g) a n = dieRead s a n := by
  rw [dieRead, mem_notedStand]
  exact dieRead_unitNote s c p a n

end

/-! ## Numbers read from memory -/

theorem memRead_lt (m : List Host.Cell) (a n : Nat) : memRead m a n < 2 ^ (8 * n) := by
  induction n generalizing a with
  | zero => exact Nat.one_pos
  | succ n ih =>
    have hbyte : (memByte m a).toNat < 256 := (memByte m a).isLt
    have hrest := ih (a + 1)
    rw [memRead, Nat.mul_succ, Nat.pow_add]
    omega

theorem brMask_lt (br : Tab Bool) (g n : Nat) : brMask br g n < 2 ^ n := by
  induction n generalizing g with
  | zero => exact Nat.one_pos
  | succ n ih =>
    have hbit : b2n (tabGet false br g) ≤ 1 := by cases tabGet false br g <;> decide
    have hrest := ih (g + 1)
    rw [brMask, Nat.pow_succ]
    omega

theorem bitsOf_eq_self {v n : Nat} (h : v < 2 ^ n) : bitsOf v 0 n = v := by
  rw [bitsOf, Nat.pow_zero, Nat.div_one, Nat.mod_eq_of_lt h]

theorem unitRange_fst (p : Prog) : (unitRange p 0).1 = 0 := by
  unfold unitRange
  split
  · rfl
  · show max p.oda (128 * (p.oda / 128 + 0)) - p.oda = 0
    omega

/-! ## Flits sent, and registers loaded -/

theorem toDest_eq (dst k x : Nat) (fl : List (Nat × Flit)) (s : State) : toDest dst k x fl s = modCore s k fun y => Sent y dst x fl := by
  unfold toDest toSendQueue toExchange Sent
  split <;> rfl

theorem apart_sent (dst x : Nat) (fl : List (Nat × Flit)) : ApartFromIssue fun y => Sent y dst x fl := by
  intro y tok tasks prog
  unfold Sent
  split
  · dsimp only
    split <;> rfl
  · rfl

/-- What an item that a unit completes does to its core (R207, R209, R217, R261). -/
def itemCore (c : CoreId) (p : Prog) (u v br : Nat) : Core → Core :=
  if p.kind = 2 then vldWrite p p.item u v br
  else if p.kind = 11 then fun y => Sent y 1 0 [(u + 2, { mkFlit (v / 4 * 4 + bitsOf p.w.toNat 58 2) 0 with src := ckey c + 1 })]
  else fun y => Sent y (progDst p) (progTo p) [(u + 2, mkFlit v br)]

theorem readItem_eq (s : State) (c : CoreId) (p : Prog) (u v br : Nat) : readItem s c p u v br = modCore s (ckey c) (itemCore c p u v br) := by
  unfold readItem itemCore
  split
  · rfl
  · split
    · rfl
    · exact toDest_eq _ _ _ _ _

theorem apart_itemCore (c : CoreId) (p : Prog) (u v br : Nat) : ApartFromIssue (itemCore c p u v br) := by
  unfold itemCore
  split
  · exact fun _ _ _ _ => rfl
  · split
    · exact apart_sent _ _ _
    · exact apart_sent _ _ _

/-! ## Reads that gather -/

/-- The record of a read that has gathered nothing. -/
structure Fresh (p : Prog) : Prop where
  idx : p.idx = 0
  item : p.item = 0
  buf : p.buf = 0
  bbr : p.bbr = 0
  blen : p.blen = 0
  held : p.held = false

section

variable {s : State} {c : CoreId} {p : Prog} {u : Nat}

/-- A first block that completes no item joins what is gathered (R233). -/
theorem gatherUnit_short (hp : Fresh p) (hbr : p.kind = 11 → brMask s.mem.dieBr (p.oda / 64) ((unitRange p 0).2 / 64) = 0)
    (hlen : (unitRange p 0).2 < itemSize p) :
    gatherUnit s c p u = .moved (countAct s c.fld actSram (((unitRange p 0).2 + 127) / 128))
      { p with buf := dieRead s p.oda (unitRange p 0).2, bbr := brMask s.mem.dieBr (p.oda / 64) ((unitRange p 0).2 / 64), blen := (unitRange p 0).2 } := by
  obtain ⟨hidx, -, hbuf, hbbr, hblen, -⟩ := hp
  have hnot : ¬ (p.kind = 11 ∧ brMask s.mem.dieBr (p.oda / 64) ((unitRange p 0).2 / 64) ≠ 0) := fun h => h.2 (hbr h.1)
  unfold gatherUnit
  simp only [hidx, unitRange_fst, hbuf, hbbr, hblen, Nat.add_zero, Nat.zero_add, Nat.sub_zero, Nat.mul_zero, Nat.pow_zero, Nat.mul_one,
    Nat.zero_div, if_neg hnot, if_pos hlen]

/-- A first block that completes an item writes it (R233). -/
theorem gatherUnit_full (hp : Fresh p) (hbr : p.kind = 11 → brMask s.mem.dieBr (p.oda / 64) ((unitRange p 0).2 / 64) = 0)
    (hlen : (unitRange p 0).2 = itemSize p) :
    gatherUnit s c p u = .moved
      (modCore (countAct s c.fld actSram ((itemSize p + 127) / 128)) (ckey c)
        (itemCore c p u (dieRead s p.oda (itemSize p)) (brMask s.mem.dieBr (p.oda / 64) (itemSize p / 64)))) { p with item := 1 } := by
  obtain ⟨hidx, hitem, hbuf, hbbr, hblen, -⟩ := hp
  rw [hlen] at hbr
  have hnot : ¬ (p.kind = 11 ∧ brMask s.mem.dieBr (p.oda / 64) (itemSize p / 64) ≠ 0) := fun h => h.2 (hbr h.1)
  have hv : dieRead s p.oda (itemSize p) < 2 ^ (8 * itemSize p) := memRead_lt _ _ _
  have hm : brMask s.mem.dieBr (p.oda / 64) (itemSize p / 64) < 2 ^ (itemSize p / 64) := brMask_lt _ _ _
  unfold gatherUnit
  simp only [hidx, unitRange_fst, hlen, hitem, hbuf, hbbr, hblen, Nat.add_zero, Nat.zero_add, Nat.sub_zero, Nat.mul_zero, Nat.pow_zero,
    Nat.mul_one, Nat.zero_div, if_neg hnot, lt_irrefl, if_false, Nat.div_eq_of_lt hv, Nat.div_eq_of_lt hm, bitsOf_eq_self hv,
    bitsOf_eq_self hm, Nat.sub_self, readItem_eq]

end

section

variable {s : State} {c : CoreId} {e : Engine} {opc : Nat} {w : BitVec 64} {f : Iss → Res} {p : Prog} {g : Task → Task}

/-- A gathering read begins: with an item, with its first bytes, or in wait of the wheel (R207, R209, R217, R233). -/
theorem gathers_begin (h : MayIssue s c e opc w) (hf : f (issOf s c e w) = startUnits (issOf s c e w) p g) (hg : KeepsIssueState g)
    (hone : ∀ x, oneUnit x c (begun s c e w p) (slotOf s c.fld) = gatherUnit x c (begun s c e w p) (slotOf s c.fld)) (hp : Fresh p)
    (hstep : p.step = 1)
    (hbr : p.kind = 11 → brMask (unitNote s c p).mem.dieBr (p.oda / 64) ((unitRange p 0).2 / 64) = 0) :
    (unitSlot (begun s c e w p) 0 ≤ slotOf s c.fld → (unitRange p 0).2 = itemSize p → UnitsBegin s (issue s c e opc w f)
      (modCore (countAct (unitNote s c p) c.fld actSram ((itemSize p + 127) / 128)) (ckey c)
        (itemCore c (begun s c e w p) (slotOf s c.fld) (dieRead (unitNote s c p) p.oda (itemSize p))
          (brMask (unitNote s c p).mem.dieBr (p.oda / 64) (itemSize p / 64)))) c e w { p with idx := 1, item := 1 } g) ∧
    (unitSlot (begun s c e w p) 0 ≤ slotOf s c.fld → (unitRange p 0).2 < itemSize p → UnitsBegin s (issue s c e opc w f)
      (countAct (unitNote s c p) c.fld actSram (((unitRange p 0).2 + 127) / 128)) c e w (gathered (unitNote s c p) p (unitRange p 0).2) g) := by
  have hs := stands_notedStand s c e w p g
  have hmem := mem_notedStand s c e w p g
  have hread (a n : Nat) : dieRead (notedStand s c e w p g) a n = dieRead (unitNote s c p) a n := by rw [dieRead, hmem]; rfl
  have hfresh : Fresh (begun s c e w p) := ⟨hp.idx, hp.item, hp.buf, hp.bbr, hp.blen, hp.held⟩
  have hbr' : (begun s c e w p).kind = 11 → brMask (notedStand s c e w p g).mem.dieBr ((begun s c e w p).oda / 64)
      ((unitRange (begun s c e w p) 0).2 / 64) = 0 := by rw [hmem]; exact hbr
  have hidx : (begun s c e w p).idx = 0 := hp.idx
  refine ⟨fun hdue hlen => ?full, fun hdue hlen => ?short⟩
  case full =>
    have hmove := (hone _).trans (gatherUnit_full (u := slotOf s c.fld) hfresh hbr' hlen)
    rw [hmem, hread] at hmove
    exact unitsBegin_of_moved (q := { p with idx := 1, item := 1 }) h hf (hidx ▸ hdue) hmove
      (stands_changeCore (hs.changeField _ _) (apart_itemCore _ _ _ _ _)) hg hstep.ge (by rw [hidx, ← hp.held]; rfl)
  case short =>
    have hmove := (hone _).trans (gatherUnit_short (u := slotOf s c.fld) hfresh hbr' hlen)
    rw [hmem, hread] at hmove
    exact unitsBegin_of_moved (q := gathered (unitNote s c p) p (unitRange p 0).2) h hf (hidx ▸ hdue) hmove (hs.changeField _ _) hg
      hstep.ge (by rw [hidx, ← hp.held]; rfl)

end

end Sys2Proof.Proofs.Units
end

section
/-! SUPPORT. Proofs about the scalar core's accesses (05, 07, 08): words and flits that begin with their first block (O6). -/

namespace Sys2Proof.Proofs.ScalarMemory

open Sys2Proof.Machine Sys2Proof.Laws Sys2Proof.Proofs.Vector Sys2Proof.Proofs.Engines Sys2Proof.Proofs.Scalar Sys2Proof.Proofs.Units

/-! ## The access -/

/-- The data register, where the instruction has one, and the state after both registers are read. -/
def dataRead (s : State) (c : CoreId) (w : BitVec 64) (data : Bool) : Nat × State :=
  if data then xGet (smState s c w) (ckey c) (fRD w.toNat) (slotOf s c.fld) else (0, smState s c w)

/-- The counter of free values after both registers are read. -/
def readFree (s : State) (c : CoreId) (w : BitVec 64) (data : Bool) : Nat := (dataRead s c w data).2.free

theorem dataRead_snd (s : State) (c : CoreId) (w : BitVec 64) (data : Bool) :
    (dataRead s c w data).2 = { s with free := readFree s c w data } := by
  unfold readFree dataRead
  split
  · rw [xGet_snd, smState, xGet_snd s]
  · exact xGet_snd _ _ _ _

/-- An access that is in its window is placed, and its units start (R160, R161, R217, R233). -/
theorem smAccess_issOf {s : State} {c : CoreId} {w : BitVec 64} {n al oda units : Nat} {rs : List Right} {slots : List Nat}
    (h : SmAccess s c w n al rs oda units slots) (data : Bool) (mk : Nat → Prog) :
    smAccess (issOf s c .scalar w) n al rs data mk =
      startUnits (issOf (dataRead s c w data).2 c .scalar w)
        { mk (dataRead s c w data).1 with oda := oda, total := n, n := units, slots := slots } id := by
  obtain ⟨halign, hrights, hplace, hunits⟩ := h
  have hk : (issOf s c .scalar w).k = ckey c := rfl
  have ht : (issOf s c .scalar w).t = slotOf s c.fld := rfl
  have hall : (rs.all fun r => hasRight (winOf (taskOf (coreAt s (ckey c)) .scalar) (bitsOf w.toNat 31 3)) r) = true := List.all_eq_true.2 hrights
  have hdata : (if data then xGet (issFree s c w (smState s c w).free) (ckey c) (fRD w.toNat) (slotOf s c.fld)
      else (0, issFree s c w (smState s c w).free)) = ((dataRead s c w data).1, issFree s c w (readFree s c w data)) := by
    unfold readFree dataRead
    cases data
    · rfl
    · exact xGet_second s c w _ _ _
  unfold smAccess
  simp only [hk, ht, w_issOf, task_issOf, xGet_issOf]
  rw [if_neg]
  · erw [hdata]
    rw [dataRead_snd]
    show placeUnits (issOf { s with free := readFree s c w data } c .scalar w) (bitsOf w.toNat 31 3) (smOffset s c w) n 1 (rs.headD .rd)
      (mk (dataRead s c w data).1) id = _
    have hplace' : dieAccess (issOf { s with free := readFree s c w data } c .scalar w).s (issOf { s with free := readFree s c w data } c .scalar w).c
      (winOf (taskOf (coreAt s (ckey c)) .scalar) (bitsOf w.toNat 31 3)) (rs.headD .rd) (smOffset s c w) n = some oda := hplace
    have hunits' : accessUnits (issOf { s with free := readFree s c w data } c .scalar w) oda n 1 = some (units, slots) := hunits
    have htask : (issOf { s with free := readFree s c w data } c .scalar w).task = taskOf (coreAt s (ckey c)) .scalar := task_issOf _ c .scalar w
    simp only [placeUnits, htask, hplace', hunits']
  · rw [hall]
    simp only [Bool.not_true, Bool.false_eq_true, or_false, not_not]
    exact halign

/-! ## Bruises on the way -/

theorem hardIn_of_dieBruised {s : State} {a n : Nat} (h : dieBruised s a n = false) : hardIn s.mem a n = false := by
  rw [dieBruised, Bool.or_eq_false_iff] at h
  exact h.2

theorem mem_granulesOf {a n g : Nat} : g ∈ granulesOf a n ↔ n ≠ 0 ∧ a / 64 ≤ g ∧ g ≤ (a + n - 1) / 64 := by
  unfold granulesOf
  split
  · next h => simp [h]
  · next h =>
    simp only [List.mem_map, List.mem_range]
    constructor
    · rintro ⟨x, hx, rfl⟩
      omega
    · rintro ⟨-, hlo, hhi⟩
      exact ⟨g - a / 64, by omega, by omega⟩

/-- Fewer bytes from the same place touch no other granule. -/
theorem dieBruised_of_le {s : State} {a n m : Nat} (hle : m ≤ n) (h : dieBruised s a n = false) : dieBruised s a m = false := by
  have hsub : ∀ g ∈ granulesOf a m, g ∈ granulesOf a n := by
    intro g hg
    rw [mem_granulesOf] at hg ⊢
    omega
  have hany {q : Nat → Bool} (hq : (granulesOf a n).any q = false) : (granulesOf a m).any q = false := by
    rw [List.any_eq_false] at hq ⊢
    exact fun g hg => hq g (hsub g hg)
  rw [dieBruised, Bool.or_eq_false_iff, hardIn, Bool.and_eq_false_iff] at h
  rw [dieBruised, Bool.or_eq_false_iff, hardIn, Bool.and_eq_false_iff]
  exact ⟨hany h.1, h.2.imp_right hany⟩

/-- A read of bytes that are not bruised leaves the memories. -/
theorem unitNote_mem_of_sound {s : State} {c : CoreId} {p : Prog} (h : ∀ r, unitReads p = some r → dieBruised s r.1 r.2 = false) :
    (unitNote s c p).mem = s.mem := by
  unfold unitNote
  split
  · next r hr => exact noteRead_mem_of_sound c.fld (hardIn_of_dieBruised (h r hr))
  · rfl

theorem dieBruised_congr {s t : State} (h : t.mem = s.mem) (a n : Nat) : dieBruised t a n = dieBruised s a n := by
  rw [dieBruised, dieBruised, h]

theorem dieRead_congr {s t : State} (h : t.mem = s.mem) (a n : Nat) : dieRead t a n = dieRead s a n := by
  rw [dieRead, dieRead, h]

/-! ## Words -/

section

variable {s : State} {c : CoreId} {opc : Nat} {w : BitVec 64} {f : Iss → Res} {p : Prog} {m : Nat}

/-- The issue of a scalar instruction whose registers are read is that of its units from the counter of free values that the reads leave. -/
theorem issue_of_read (h : MayIssue s c .scalar opc w) (hf : f (issOf s c .scalar w) = startUnits (issOf { s with free := m } c .scalar w) p id) :
    issue s c .scalar opc w f = issue { s with free := m } c .scalar opc w fun i => startUnits i p id := by
  have h' : MayIssue { s with free := m } c .scalar opc w := h
  rw [issue_go h (hf.trans (startUnits_issOf _ c .scalar w p id)), issue_go h' (startUnits_issOf _ c .scalar w p id)]
  rfl

/-- One whose first unit waits for the wheel. -/
theorem scalar_waits (h : MayIssue s c .scalar opc w) (hf : f (issOf s c .scalar w) = startUnits (issOf { s with free := m } c .scalar w) p id)
    (hidx : p.idx = 0) (hn : 0 < p.n) (hwait : slotOf s c.fld < unitSlot (begun s c .scalar w p) 0) :
    UnitsBegin s (issue s c .scalar opc w f) { s with free := m } c .scalar w p id := by
  have h' : MayIssue { s with free := m } c .scalar opc w := h
  rw [issue_of_read h hf]
  exact unitsBegin_of_wait (s := { s with free := m }) h' rfl keepsIssueState_id (by rw [hidx]; exact hn) (by rw [hidx]; exact hwait)

/-- One whose first unit moves. -/
theorem scalar_moves {s' s2 : State} {p' q : Prog} {r : Option Prog} (h : MayIssue s c .scalar opc w)
    (hf : f (issOf s c .scalar w) = startUnits (issOf { s with free := m } c .scalar w) p id)
    (hidx : p.idx = 0) (hdue : unitSlot (begun s c .scalar w p) 0 ≤ slotOf s c.fld)
    (hmove : oneUnit (notedStand { s with free := m } c .scalar w p id) c (begun s c .scalar w p) (slotOf s c.fld) = .moved s2 p')
    (hs : Stands { s with free := m } s' s2 c .scalar w r id) (hstep : q.step = 1)
    (hq : { p' with idx := p'.idx + 1, held := false } = begun s c .scalar w q) :
    UnitsBegin s (issue s c .scalar opc w f) s' c .scalar w q id := by
  have h' : MayIssue { s with free := m } c .scalar opc w := h
  rw [issue_of_read h hf]
  exact unitsBegin_of_moved (s := { s with free := m }) h' rfl (by rw [hidx]; exact hdue) hmove hs keepsIssueState_id hstep.ge hq

theorem stands_xPut {s' s2 : State} {r : Option Prog} {g : Task → Task} {e : Engine} (hs : Stands s s' s2 c e w r g) (j v rdy : Nat) :
    Stands s (xPut (ckey c) j v rdy s') (xPut (ckey c) j v rdy s2) c e w r g := by
  unfold xPut
  split
  · exact hs
  · exact stands_changeCore hs fun _ _ _ _ => rfl

theorem mem_notedStand_of_sound (hsound : ∀ r, unitReads p = some r → dieBruised s r.1 r.2 = false) :
    (notedStand { s with free := m } c .scalar w p id).mem = s.mem := by
  rw [mem_notedStand]
  exact unitNote_mem_of_sound (s := { s with free := m }) hsound

theorem wordUnit_ld {x : State} {u : Nat} (hk : p.kind = 6) (hb : dieBruised x p.oda 8 = false) :
    wordUnit x c p u = .moved (xPut (ckey c) p.first (dieRead x p.oda 8) (u + 4) (countAct x c.fld actSram 1)) p := by
  simp [wordUnit, hk, hb]
  rfl

theorem wordUnit_st {x : State} {u : Nat} (hk : p.kind = 7) :
    wordUnit x c p u = .moved (putDie (countAct x c.fld actSram 1) c { due := u, oda := p.oda, n := 8, v := p.buf }) p := by
  simp [wordUnit, hk]

theorem wordUnit_cadd {x : State} {u : Nat} (hk : p.kind = 8) (hb : dieBruised x p.oda 8 = false) :
    wordUnit x c p u = .moved (putDie (countAct x c.fld actSram 2) c { due := u + 3, oda := p.oda, n := 8, v := p.buf, add := true }) p := by
  simp [wordUnit, hk, hb]

/-- The record of a scalar word access of 8 bytes. -/
def wordProg (s : State) (c : CoreId) (w : BitVec 64) (kind rd v oda n : Nat) (slots : List Nat) : Prog :=
  { kind := kind, w := w, total := 8, n := n, t := slotOf s c.fld, first := rd, buf := v, lat := 3, oda := oda, slots := slots }

/-- The state in which the word moves, with its read noted. -/
def wordStand (s : State) (c : CoreId) (w : BitVec 64) (m : Nat) (p : Prog) : State := notedStand { s with free := m } c .scalar w p id

theorem stands_wordStand (s : State) (c : CoreId) (w : BitVec 64) (m : Nat) (p : Prog) :
    Stands { s with free := m } (unitNote { s with free := m } c p) (wordStand s c w m p) c .scalar w (some (begun s c .scalar w p)) id :=
  stands_notedStand { s with free := m } c .scalar w p id

variable {n rd v oda : Nat} {slots : List Nat}

/-- LD's word is read (R147, R217). -/
theorem ld_moves (h : MayIssue s c .scalar opc w)
    (hf : f (issOf s c .scalar w) = startUnits (issOf { s with free := m } c .scalar w) (wordProg s c w 6 rd 0 oda n slots) id)
    (hdue : unitSlot (wordProg s c w 6 rd 0 oda n slots) 0 ≤ slotOf s c.fld) (hbr : dieBruised s oda 8 = false) :
    UnitsBegin s (issue s c .scalar opc w f)
      (xPut (ckey c) rd (dieRead s oda 8) (slotOf s c.fld + 4)
        (countAct (unitNote { s with free := m } c (wordProg s c w 6 rd 0 oda n slots)) c.fld actSram 1)) c .scalar w
      { wordProg s c w 6 rd 0 oda n slots with idx := 1 } id := by
  have hmem : (wordStand s c w m (wordProg s c w 6 rd 0 oda n slots)).mem = s.mem :=
    mem_notedStand_of_sound fun r hr => by cases hr; exact hbr
  have hmove := wordUnit_ld (c := c) (u := slotOf s c.fld) (p := begun s c .scalar w (wordProg s c w 6 rd 0 oda n slots)) rfl
    ((dieBruised_congr hmem oda 8).trans hbr)
  rw [dieRead_congr hmem] at hmove
  exact scalar_moves h hf rfl hdue hmove
    (stands_xPut ((stands_wordStand s c w m (wordProg s c w 6 rd 0 oda n slots)).changeField _ _) _ _ _) rfl rfl

/-- ST's word is on its way (R217). -/
theorem st_moves (h : MayIssue s c .scalar opc w)
    (hf : f (issOf s c .scalar w) = startUnits (issOf { s with free := m } c .scalar w) (wordProg s c w 7 0 v oda n slots) id)
    (hdue : unitSlot (wordProg s c w 7 0 v oda n slots) 0 ≤ slotOf s c.fld) :
    UnitsBegin s (issue s c .scalar opc w f)
      (putDie (countAct { s with free := m } c.fld actSram 1) c { due := slotOf s c.fld, oda := oda, n := 8, v := v }) c .scalar w
      { wordProg s c w 7 0 v oda n slots with idx := 1 } id :=
  scalar_moves h hf rfl hdue
    (wordUnit_st (x := wordStand s c w m (wordProg s c w 7 0 v oda n slots)) (p := begun s c .scalar w (wordProg s c w 7 0 v oda n slots)) rfl)
    (((stands_wordStand s c w m (wordProg s c w 7 0 v oda n slots)).changeField _ _).changeField _ _) rfl rfl

/-- CADD's word is on its way (R150, R217). -/
theorem cadd_moves (h : MayIssue s c .scalar opc w)
    (hf : f (issOf s c .scalar w) = startUnits (issOf { s with free := m } c .scalar w) (wordProg s c w 8 0 v oda n slots) id)
    (hdue : unitSlot (wordProg s c w 8 0 v oda n slots) 0 ≤ slotOf s c.fld) (hbr : dieBruised s oda 8 = false) :
    UnitsBegin s (issue s c .scalar opc w f)
      (putDie (countAct (unitNote { s with free := m } c (wordProg s c w 8 0 v oda n slots)) c.fld actSram 2) c
        { due := slotOf s c.fld + 3, oda := oda, n := 8, v := v, add := true }) c .scalar w
      { wordProg s c w 8 0 v oda n slots with idx := 1 } id := by
  have hmem : (wordStand s c w m (wordProg s c w 8 0 v oda n slots)).mem = s.mem :=
    mem_notedStand_of_sound fun r hr => by cases hr; exact hbr
  exact scalar_moves h hf rfl hdue
    (wordUnit_cadd (p := begun s c .scalar w (wordProg s c w 8 0 v oda n slots)) rfl ((dieBruised_congr hmem oda 8).trans hbr))
    (((stands_wordStand s c w m (wordProg s c w 8 0 v oda n slots)).changeField _ _).changeField _ _) rfl rfl

end

/-- The counter of free values after the address is formed. -/
theorem smState_free (s : State) (c : CoreId) (w : BitVec 64) : { s with free := readFree s c w false } = smState s c w := (dataRead_snd s c w false).symm

theorem dataState_free (s : State) (c : CoreId) (w : BitVec 64) :
    { s with free := readFree s c w true } = (xGet (smState s c w) (ckey c) (fRD w.toNat) (slotOf s c.fld)).2 := (dataRead_snd s c w true).symm

theorem scalarMemoryFormsComplete : ScalarMemoryFormsComplete := by
  intro s c w oda n slots k u rd a v
  refine ⟨?ld, ?st, ?cadd⟩
  case ld =>
    intro h hacc p a'
    have hf : effLd (issOf s c .scalar w) = startUnits (issOf { s with free := readFree s c w false } c .scalar w) p id :=
      (smAccess_issOf hacc false _).trans (by rw [dataRead_snd]; rfl)
    have hpos := units_pos_of_wait (p := p) hacc.2.2.2
    refine ⟨_, rfl, fun hdue hbr => ?_, fun hwait => ?_⟩
    · have hb := ld_moves h hf hdue hbr
      rw [smState_free] at hb
      exact hb
    · have hb := scalar_waits h hf rfl (hpos hwait) hwait
      rw [smState_free] at hb
      exact hb
  case st =>
    intro h hacc p
    have hf : effSt (issOf s c .scalar w) = startUnits (issOf { s with free := readFree s c w true } c .scalar w) p id :=
      (smAccess_issOf hacc true _).trans (by rw [dataRead_snd]; rfl)
    have hpos := units_pos_of_wait (p := p) hacc.2.2.2
    refine ⟨_, rfl, fun hdue => ?_, fun hwait => ?_⟩
    · have hb := st_moves h hf hdue
      rw [dataState_free] at hb
      exact hb
    · have hb := scalar_waits h hf rfl (hpos hwait) hwait
      rw [dataState_free] at hb
      exact hb
  case cadd =>
    intro h hacc p
    have hf : effCadd (issOf s c .scalar w) = startUnits (issOf { s with free := readFree s c w true } c .scalar w) p id :=
      (smAccess_issOf hacc true _).trans (by rw [dataRead_snd]; rfl)
    have hpos := units_pos_of_wait (p := p) hacc.2.2.2
    refine ⟨_, rfl, fun hdue hbr => ?_, fun hwait => ?_⟩
    · have hb := cadd_moves h hf hdue hbr
      rw [dataState_free] at hb
      exact hb
    · have hb := scalar_waits h hf rfl (hpos hwait) hwait
      rw [dataState_free] at hb
      exact hb

/-! ## Flits -/

theorem bitOf_brMask (br : Tab Bool) (g n : Nat) : bitOf (brMask br g (n + 1)) 0 = tabGet false br g := by
  rw [brMask, bitOf_eq_testBit]
  cases tabGet false br g <;> simp [b2n, Nat.testBit]

/-- The flit of 128 bytes of memory with the bruises of its two granules (R45, R357). -/
theorem mkFlit_eq_flitAt (s : State) (oda : Nat) : mkFlit (dieRead s oda 128) (brMask s.mem.dieBr (oda / 64) 2) = flitAt s oda := by
  have h1 : bitOf (brMask s.mem.dieBr (oda / 64) 2) 1 = tabGet false s.mem.dieBr (oda / 64 + 1) := by
    rw [brMask, brMask, brMask]
    cases tabGet false s.mem.dieBr (oda / 64) <;> cases tabGet false s.mem.dieBr (oda / 64 + 1) <;> rfl
  rw [mkFlit, bitOf_brMask, h1]
  rfl

theorem brMask_eq_zero {br : Tab Bool} {g n : Nat} (h : ∀ i, i < n → tabGet false br (g + i) = false) : brMask br g n = 0 := by
  induction n generalizing g with
  | zero => rfl
  | succ n ih =>
    have h0 : tabGet false br g = false := h 0 (Nat.succ_pos n)
    rw [brMask, h0, ih fun i hi => by rw [Nat.add_assoc, Nat.add_comm 1 i]; exact h (i + 1) (Nat.succ_lt_succ hi)]
    rfl

/-- Of a first block, the bytes end within the access (R233). -/
theorem unitRange_snd_le (p : Prog) : (unitRange p 0).2 ≤ p.total := by
  unfold unitRange
  split
  · exact min_le_left _ _
  · show min (p.oda + p.total) _ - p.oda ≤ p.total
    omega

theorem unitRange_snd_pos {p : Prog} (h : 0 < p.total) : 0 < (unitRange p 0).2 := by
  have hsize : 0 < unitSize p := by
    unfold unitSize
    split
    · norm_num
    · split <;> norm_num
  unfold unitRange
  split
  · exact lt_min h (by rw [Nat.zero_add, Nat.mul_one]; exact hsize)
  · show 0 < min (p.oda + p.total) (128 * (p.oda / 128 + 0) + 128) - p.oda
    omega

/-- The record of a scalar flit access of 128 bytes. -/
def flitProg (s : State) (c : CoreId) (w : BitVec 64) (kind lat oda n : Nat) (slots : List Nat) : Prog :=
  { kind := kind, w := w, total := 128, n := n, t := slotOf s c.fld, lat := lat, oda := oda, slots := slots }

section

variable {s : State} {c : CoreId} {opc : Nat} {w : BitVec 64} {f : Iss → Res} {m n oda kind : Nat} {slots : List Nat}

/-- SSEND and STRM begin with their flit, or with its first bytes (R217, R233, R261). -/
theorem flits_begin (h : MayIssue s c .scalar opc w)
    (hf : f (issOf s c .scalar w) = startUnits (issOf { s with free := m } c .scalar w) (flitProg s c w kind 2 oda n slots) id)
    (hkind : kind = 9 ∨ kind = 11)
    (hbr : kind = 11 → brMask (unitNote { s with free := m } c (flitProg s c w kind 2 oda n slots)).mem.dieBr (oda / 64)
      ((unitRange (flitProg s c w kind 2 oda n slots) 0).2 / 64) = 0) :
    let p := flitProg s c w kind 2 oda n slots
    let x := unitNote { s with free := m } c p
    (unitSlot p 0 ≤ slotOf s c.fld → (unitRange p 0).2 = 128 → UnitsBegin s (issue s c .scalar opc w f)
      (modCore (countAct x c.fld actSram 1) (ckey c)
        (itemCore c (begun s c .scalar w p) (slotOf s c.fld) (dieRead x oda 128) (brMask x.mem.dieBr (oda / 64) 2))) c .scalar w
      { p with idx := 1, item := 1 } id) ∧
    (unitSlot p 0 ≤ slotOf s c.fld → (unitRange p 0).2 < 128 → UnitsBegin s (issue s c .scalar opc w f)
      (countAct x c.fld actSram 1) c .scalar w (gathered x p (unitRange p 0).2) id) := by
  intro p x
  have h' : MayIssue { s with free := m } c .scalar opc w := h
  have hone (y : State) : oneUnit y c (begun { s with free := m } c .scalar w p) (slotOf s c.fld) =
      gatherUnit y c (begun { s with free := m } c .scalar w p) (slotOf s c.fld) := by
    rcases hkind with rfl | rfl <;> rfl
  have hsize : itemSize p = 128 := by rcases hkind with rfl | rfl <;> rfl
  have hpos : 0 < (unitRange p 0).2 := unitRange_snd_pos (p := p) (show 0 < 128 by norm_num)
  obtain ⟨hfull, hshort⟩ := gathers_begin (s := { s with free := m }) (f := fun i => startUnits i p id) h' rfl keepsIssueState_id hone
    ⟨rfl, rfl, rfl, rfl, rfl, rfl⟩ rfl hbr
  rw [hsize] at hfull hshort
  rw [issue_of_read h hf]
  refine ⟨hfull, fun hdue hlen => ?_⟩
  have hblocks : ((unitRange p 0).2 + 127) / 128 = 1 := by omega
  have hb := hshort hdue hlen
  rw [hblocks] at hb
  exact hb

/-- Where none of its bytes is bruised, STRM's first bytes carry no bruise (R357). -/
theorem brMask_of_sound (hbr : dieBruised s oda 128 = false) :
    (unitNote { s with free := m } c (flitProg s c w 11 2 oda n slots)).mem = s.mem ∧
      brMask s.mem.dieBr (oda / 64) ((unitRange (flitProg s c w 11 2 oda n slots) 0).2 / 64) = 0 := by
  have hle : (unitRange (flitProg s c w 11 2 oda n slots) 0).2 ≤ 128 := unitRange_snd_le _
  refine ⟨unitNote_mem_of_sound (s := { s with free := m }) fun r hr => ?_, brMask_eq_zero fun i hi => ?_⟩
  · cases hr
    show dieBruised s (oda + (unitRange (flitProg s c w 11 2 oda n slots) 0).1)
      ((unitRange (flitProg s c w 11 2 oda n slots) 0).2 - (unitRange (flitProg s c w 11 2 oda n slots) 0).1) = false
    rw [unitRange_fst, Nat.add_zero, Nat.sub_zero]
    exact dieBruised_of_le hle hbr
  · rw [dieBruised, Bool.or_eq_false_iff, brAny, List.any_eq_false] at hbr
    have hin : oda / 64 + i ∈ granulesOf oda 128 := mem_granulesOf.2 (by omega)
    simpa using hbr.1 _ hin

/-- SRECV takes its flit in its first unit (R171, R217). -/
theorem recvUnit_first {x : State} {p : Prog} {u : Nat} {fl : Flit} {rest : List Flit} (hidx : p.idx = 0) (hq : (coreAt x (ckey c)).recvq = fl :: rest)
    (hready : 0 < readable (coreAt x (ckey c)) u) :
    recvUnit x c p u = .moved
      (countAct (putDie (modCore x (ckey c) (dropRecv 1)) c
        { due := u, oda := p.oda, n := (unitRange p 0).2, v := bitsOf fl.data.toNat 0 (8 * (unitRange p 0).2)
          mask := some (bitsOf (flitMask fl) 0 ((unitRange p 0).2 / 64)) }) c.fld actSram 1)
      { p with buf := fl.data.toNat, bbr := flitMask fl } := by
  have hnot : ¬ (p.idx = 0 ∧ readable (coreAt x (ckey c)) u = 0) := fun hc => hready.ne' hc.2
  have hfst : (unitRange { p with buf := fl.data.toNat, bbr := flitMask fl } 0) = (0, (unitRange p 0).2) :=
    Prod.ext (unitRange_fst p) rfl
  unfold recvUnit
  rw [if_neg hnot]
  simp only [hidx, if_true, hq, List.headD_cons]
  erw [hfst]
  simp only [Nat.add_zero, Nat.sub_zero, Nat.mul_zero, Nat.zero_div]

/-- SRECV begins with the stores of its first block (R171, R217, R233). -/
theorem recv_begins {fl : Flit} {rest : List Flit} (h : MayIssue s c .scalar opc w)
    (hf : f (issOf s c .scalar w) = startUnits (issOf { s with free := m } c .scalar w) (flitProg s c w 10 1 oda n slots) id)
    (hq : (coreAt s (ckey c)).recvq = fl :: rest) (hready : 0 < readable (coreAt s (ckey c)) (slotOf s c.fld))
    (hdue : unitSlot (flitProg s c w 10 1 oda n slots) 0 ≤ slotOf s c.fld) :
    let p := flitProg s c w 10 1 oda n slots
    UnitsBegin s (issue s c .scalar opc w f)
      (countAct (putDie (modCore { s with free := m } (ckey c) (dropRecv 1)) c
        { due := slotOf s c.fld, oda := oda, n := (unitRange p 0).2, v := bitsOf fl.data.toNat 0 (8 * (unitRange p 0).2)
          mask := some (bitsOf (flitMask fl) 0 ((unitRange p 0).2 / 64)) }) c.fld actSram 1) c .scalar w
      { p with idx := 1, buf := fl.data.toNat, bbr := flitMask fl } id := by
  intro p
  have hs := stands_wordStand s c w m p
  have hcore := hs.core
  have hq2 : (coreAt (wordStand s c w m p) (ckey c)).recvq = fl :: rest := by rw [hcore]; exact hq
  have hready2 : 0 < readable (coreAt (wordStand s c w m p) (ckey c)) (slotOf s c.fld) := by rw [hcore]; exact hready
  exact scalar_moves h hf rfl hdue (recvUnit_first (p := begun s c .scalar w p) rfl hq2 hready2)
    (((stands_changeCore hs (F := dropRecv 1) fun _ _ _ _ => rfl).changeField _ _).changeField _ _) rfl rfl

end

theorem scalarFlitFormsComplete : ScalarFlitFormsComplete := by
  intro s c w oda n slots k u core a
  refine ⟨?ssend, ?srecv, ?strm⟩
  case ssend =>
    intro h hacc p len m
    have hf : effSsend (issOf s c .scalar w) =
        startUnits (issOf { s with free := readFree s c w false } c .scalar w) (flitProg s c w 9 2 oda n slots) id :=
      (smAccess_issOf hacc false _).trans (by rw [dataRead_snd]; rfl)
    have hpos := units_pos_of_wait (p := p) hacc.2.2.2
    obtain ⟨hfull, hshort⟩ := flits_begin h hf (.inl rfl) fun hk => absurd hk (by decide)
    have hwait := scalar_waits h hf rfl
    rw [smState_free] at hfull hshort hwait
    refine ⟨_, rfl, fun hdue hlen => ?_, hshort, fun hw => hwait (hpos hw) hw⟩
    have hb := hfull hdue hlen
    rw [itemCore, mkFlit_eq_flitAt] at hb
    exact hb
  case srecv =>
    intro f rest h hacc hready hq p len
    have hf : effSrecv (issOf s c .scalar w) =
        startUnits (issOf { s with free := readFree s c w false } c .scalar w) (flitProg s c w 10 1 oda n slots) id := by
      have hread : ¬ readable (issOf s c .scalar w).core (slotOf s c.fld) = 0 := by
        rw [core_issOf]
        exact hready.ne'
      refine (if_neg hread).trans ((smAccess_issOf hacc false _).trans ?_)
      rw [dataRead_snd]
      rfl
    have hpos := units_pos_of_wait (p := p) hacc.2.2.2
    have hmove := recv_begins h hf hq hready
    have hwait := scalar_waits h hf rfl
    rw [smState_free] at hmove hwait
    exact ⟨_, rfl, hmove, fun hw => hwait (hpos hw) hw⟩
  case strm =>
    intro h hacc hbr p len m
    have hf : effStrm (issOf s c .scalar w) =
        startUnits (issOf { s with free := readFree s c w false } c .scalar w) (flitProg s c w 11 2 oda n slots) id :=
      (smAccess_issOf hacc false _).trans (by rw [dataRead_snd]; rfl)
    have hpos := units_pos_of_wait (p := p) hacc.2.2.2
    obtain ⟨hmem, hmask⟩ := brMask_of_sound (c := c) (w := w) (m := readFree s c w false) (n := n) (slots := slots) hbr
    obtain ⟨hfull, hshort⟩ := flits_begin h hf (.inr rfl) fun _ => by rw [hmem]; exact hmask
    have hwait := scalar_waits h hf rfl
    rw [dieRead_congr hmem] at hfull
    rw [smState_free] at hfull hshort hwait
    exact ⟨_, rfl, hfull, hshort, fun hw => hwait (hpos hw) hw⟩

/-- Settles O6: each form is a placed access of the state after its registers are read, and its first unit is a word, a gathered flit or a
received one. -/
theorem scalarMemoryAndFlitsComplete : Obligations.ScalarMemoryAndFlitsComplete := ⟨scalarMemoryFormsComplete, scalarFlitFormsComplete⟩

end Sys2Proof.Proofs.ScalarMemory
end

section
/-! SUPPORT. Stores of on-die memory and the bruises that scalar reads consume (O7). -/

namespace Sys2Proof.Proofs.StoresAndBruises

open Sys2Proof.Machine Sys2Proof.Laws Sys2Proof.Proofs.Vector Sys2Proof.Proofs.Engines Sys2Proof.Proofs.Scalar Sys2Proof.Proofs.Units

open Sys2Proof.Proofs.ScalarMemory

/-! ## Stores -/

/-- A write of on-die bytes that leaves the rest of the memories but bruises and codes (R243, R355). -/
theorem dieTakes_of_write {s t : State} {oda n v : Nat} (hdie : t.mem.die = memWrite s.mem.die oda n v)
    (hmem : t.mem = { s.mem with die := t.mem.die, dieBr := t.mem.dieBr, flips := t.mem.flips, unckd := t.mem.unckd }) :
    DieTakes s t oda n (v % 2 ^ (8 * n)) := by
  refine ⟨?_, fun x hx => ?_, hmem⟩
  · rw [dieRead, hdie, memRead_write, show (256 : Nat) = 2 ^ 8 by norm_num, ← Nat.pow_mul]
  · rw [hdie, memByte_write_outside _ _ _ _ _ hx]

theorem dieTakes_dieStore (s : State) (oda n v : Nat) (b : Bool) : DieTakes s (dieStore s oda n v b) oda n (v % 2 ^ (8 * n)) := by
  obtain ⟨fl, un, h⟩ := writeCodes_eq s.mem oda n
  refine dieTakes_of_write ?_ ?_
  · show memWrite (writeCodes s.mem oda n).die oda n v = _
    rw [writeCodes_die]
  · unfold dieStore
    rw [h]

theorem dieTakes_dieStoreG (s : State) (oda n v m : Nat) : DieTakes s (dieStoreG s oda n v m) oda (64 * n) (v % 2 ^ (8 * (64 * n))) := by
  obtain ⟨fl, un, h⟩ := writeCodes_eq s.mem oda (64 * n)
  refine dieTakes_of_write ?_ ?_
  · show memWrite (writeCodes s.mem oda (64 * n)).die oda (64 * n) v = _
    rw [writeCodes_die]
  · unfold dieStoreG
    rw [h]

/-- Granules written with a mask take its bits. -/
theorem tabGet_brPutMask (br : Tab Bool) (g m n k : Nat) :
    tabGet false (brPutMask br g m n) k = if g ≤ k ∧ k < g + n then bitOf m (k - g) else tabGet false br k := by
  induction n generalizing br g m with
  | zero => rw [if_neg (by omega)]; rfl
  | succ n ih =>
    rw [brPutMask, ih, brSet, tabGet_put]
    by_cases hk : k = g
    · subst hk
      simp [bitOf]
    · by_cases hin : g + 1 ≤ k ∧ k < g + 1 + n
      · have hbit : bitOf (m / 2) (k - (g + 1)) = bitOf m (k - g) := by
          rw [bitOf_eq_testBit, bitOf_eq_testBit, ← Nat.testBit_succ, show (k - (g + 1)).succ = k - g by omega]
        rw [if_pos hin, if_pos (by omega), hbit]
      · rw [if_neg hin, if_neg (Ne.symm hk), if_neg (by omega)]

theorem storesLandInTheirBytesAlone : StoresLandInTheirBytesAlone := by
  intro s x _
  refine ⟨fun hmask hadd => ?_, fun hmask hadd => ?_, fun m hmask hadd hn hoda => ?_⟩
  · have hland : landDie s x = dieStore s x.oda x.n x.v false := by simp [landDie, hmask, hadd]
    rw [hland]
    exact dieTakes_dieStore s x.oda x.n x.v false
  · have hland : landDie s x = dieStore s x.oda x.n ((dieRead s x.oda x.n + x.v) % 2 ^ (8 * x.n)) false := by simp [landDie, hmask, hadd]
    have htakes := dieTakes_dieStore s x.oda x.n ((dieRead s x.oda x.n + x.v) % 2 ^ (8 * x.n)) false
    rw [Nat.mod_mod] at htakes
    rw [hland]
    exact htakes
  · have hland : landDie s x = dieStoreG s x.oda (x.n / 64) x.v m := by simp [landDie, hmask, hadd]
    have hlen : 64 * (x.n / 64) = x.n := Nat.mul_div_cancel' (Nat.dvd_of_mod_eq_zero hn)
    have htakes := dieTakes_dieStoreG s x.oda (x.n / 64) x.v m
    rw [hlen] at htakes
    rw [hland]
    refine ⟨htakes, fun g => ?_⟩
    show tabGet false (brPutMask (writeCodes s.mem x.oda (64 * (x.n / 64))).dieBr (x.oda / 64) m (x.n / 64)) g = _
    rw [writeCodes_dieBr, tabGet_brPutMask]

/-! ## What a read leaves of the fields, and what it bruises -/

/-- Slot and owner of every field stand. -/
def FieldsStand (s t : State) : Prop := ∀ f, slotOf t f = slotOf s f ∧ (fieldOf t f).cond.owner = (fieldOf s f).cond.owner

theorem FieldsStand.refl (s : State) : FieldsStand s s := fun _ => ⟨rfl, rfl⟩

theorem FieldsStand.trans {s t u : State} (h : FieldsStand s t) (h' : FieldsStand t u) : FieldsStand s u :=
  fun f => ⟨(h' f).1.trans (h f).1, (h' f).2.trans (h f).2⟩

theorem FieldsStand.of_fld {s t u : State} (h : FieldsStand s t) (hu : u.fld = t.fld) : FieldsStand s u := by
  intro f
  unfold slotOf fieldOf
  rw [hu]
  exact h f

theorem fieldsStand_modField (s : State) (j : Nat) {g : Field → Field} (hg : ∀ x, (g x).clk.slot = x.clk.slot ∧ (g x).cond.owner = x.cond.owner) :
    FieldsStand s (modField s j g) := by
  intro f
  unfold slotOf
  rw [fieldOf_modField]
  split
  · next h => rw [← h]; exact hg _
  · exact ⟨rfl, rfl⟩

theorem fieldsStand_countCorrected (s : State) (oda : Nat) : FieldsStand s (countCorrected s oda) := by
  have hcount : FieldsStand s (modFmem s (bitsOf oda 34 6) fun m =>
      { m with ce := tabPut 0 (placeKey oda) (tabGet 0 (fieldOf s (bitsOf oda 34 6)).mem.ce (placeKey oda) + 1) m.ce }) :=
    fieldsStand_modField s _ fun _ => ⟨rfl, rfl⟩
  have hdue := hcount.trans (fieldsStand_modField _ (bitsOf oda 34 6) (g := fun x => { x with cond := { x.cond with remapDue := true } }) fun _ => ⟨rfl, rfl⟩)
  unfold countCorrected
  extract_lets f k n s1 s2
  split
  · exact hcount
  · split
    · split <;> exact hdue.of_fld rfl
    · split <;> exact hdue.of_fld rfl

theorem fieldsStand_raiseAt (s : State) (f : FieldIx) (oda code : Nat) : FieldsStand s (raiseAt s f oda code) :=
  (FieldsStand.refl s).of_fld (by unfold raiseAt; split <;> rfl)

theorem fieldsStand_readGranule (f : FieldIx) (s : State) (g : Nat) : FieldsStand s (readGranule f s g) := by
  have hsoft : FieldsStand s (countSoft f g s) := by
    unfold countSoft
    generalize softWords (flipsOf s.mem g) = l
    induction l generalizing s with
    | nil => exact FieldsStand.refl s
    | cons a l ih => exact ((fieldsStand_raiseAt s f _ _).trans (fieldsStand_countCorrected _ _)).trans (ih _)
  rw [readGranule_eq]
  split
  · exact hsoft
  · exact (hsoft.of_fld rfl).trans (fieldsStand_raiseAt _ _ _ _)

theorem fieldsStand_noteRead (s : State) (f : FieldIx) (oda n : Nat) : FieldsStand s (noteRead s f oda n) := by
  unfold noteRead
  split
  · exact FieldsStand.refl s
  · next h =>
    clear h
    generalize granulesOf oda n = l
    induction l generalizing s with
    | nil => exact FieldsStand.refl s
    | cons g l ih => exact (fieldsStand_readGranule f s g).trans (ih _)

theorem fieldsStand_unitNote (s : State) (c : CoreId) (p : Prog) : FieldsStand s (unitNote s c p) := by
  unfold unitNote
  split
  · exact fieldsStand_noteRead s c.fld _ _
  · exact FieldsStand.refl s

/-- The granule reads as bruised: its bit stands, or a word of it is uncorrectable (R241, R242). -/
def granuleBruised (m : Mem) (g : Nat) : Bool := tabGet false m.dieBr g || !(hardWords (flipsOf m g)).isEmpty

theorem granuleBruised_readGranule (f : FieldIx) (s : State) (g j : Nat) :
    granuleBruised (readGranule f s g).mem j = granuleBruised s.mem j ∧
      ((g = j ∨ tabGet false s.mem.dieBr j = true) → granuleBruised s.mem j = true → tabGet false (readGranule f s g).mem.dieBr j = true) := by
  rw [readGranule_mem]
  split
  · next hsound =>
    refine ⟨rfl, ?_⟩
    rintro (rfl | h) hb
    · simpa [granuleBruised, hsound] using hb
    · exact h
  · next hhard =>
    have hset : tabGet false (brSet s.mem.dieBr g true) j = if g = j then true else tabGet false s.mem.dieBr j := tabGet_put false g j true _
    constructor
    · show (tabGet false (brSet s.mem.dieBr g true) j || !(hardWords (flipsOf s.mem j)).isEmpty) = _
      rw [hset, granuleBruised]
      split
      · next h => subst h; simp [hhard]
      · rfl
    · intro h _
      show tabGet false (brSet s.mem.dieBr g true) j = true
      rw [hset]
      rcases h with rfl | h
      · rw [if_pos rfl]
      · rw [h, ite_self]

/-- A read leaves the bruise of each granule that it touches in its bit (R242). -/
theorem dieBr_noteRead {s : State} {oda n g : Nat} (f : FieldIx) (hg : g ∈ granulesOf oda n) (hb : granuleBruised s.mem g = true) :
    tabGet false (noteRead s f oda n).mem.dieBr g = true := by
  unfold noteRead
  split
  · next hflips =>
    have hnil : s.mem.flips = [] := List.isEmpty_iff.1 hflips
    have hhard : hardWords (flipsOf s.mem g) = [] := by
      rw [flipsOf, hnil]
      show hardWords [] = []
      decide
    simpa [granuleBruised, hhard] using hb
  · next h =>
    clear h
    have key : ∀ (l : List Nat) (t : State), granuleBruised t.mem g = true → (g ∈ l ∨ tabGet false t.mem.dieBr g = true) →
        tabGet false (l.foldl (readGranule f) t).mem.dieBr g = true := by
      intro l
      induction l with
      | nil => rintro t - (h | h); exacts [absurd h List.not_mem_nil, h]
      | cons x l ih =>
        intro t hbt h
        obtain ⟨hkeep, hset⟩ := granuleBruised_readGranule f t x g
        refine ih _ (hkeep.trans hbt) ?_
        rcases h with h | h
        · rcases List.mem_cons.1 h with rfl | h
          · exact .inr (hset (.inl rfl) hbt)
          · exact .inl h
        · exact .inr (hset (.inr h) hbt)
    exact key _ s hb (.inl hg)

theorem granuleBruised_of_dieBruised {s : State} {oda : Nat} (h : dieBruised s (oda / 64 * 64) 64 = true) :
    granuleBruised s.mem (oda / 64) = true := by
  have honly : granulesOf (oda / 64 * 64) 64 = [oda / 64] := by
    have hlen : (oda / 64 * 64 + 64 - 1) / 64 - oda / 64 * 64 / 64 + 1 = 1 := by omega
    unfold granulesOf
    rw [if_neg (by norm_num), hlen]
    simp
  rw [dieBruised, brAny, hardIn, honly] at h
  simp only [List.any_cons, List.any_nil, Bool.or_false] at h
  rw [granuleBruised]
  cases hb : tabGet false s.mem.dieBr (oda / 64) with
  | true => rfl
  | false =>
    rw [hb, Bool.false_or, Bool.and_eq_true] at h
    rw [Bool.false_or]
    exact h.2

/-! ## The engine stops on a bruised granule -/

section

variable {s : State} {c : CoreId} {opc : Nat} {w : BitVec 64} {f : Iss → Res} {p : Prog} {m a oda : Nat}

/-- The event of a bruised granule that is consumed (R358). -/
def bruiseEvent (s : State) (c : CoreId) (a opc : Nat) : ErrMsg :=
  mkEvent (bunchAddr c.fld c.bun) (slotOf s c.fld) 0x0201 (fieldOf s c.fld).cond.owner c.cor (engCode .scalar) a opc

theorem engineFree_of_faulted {s : State} {c : CoreId} {e : Engine} (h : engCode e ∈ (coreAt s (ckey c)).faulted) : engineFree s c e = false := by
  have hc : (coreAt s (ckey c)).faulted.contains (engCode e) = true := List.contains_iff_mem.2 h
  simp only [engineFree, hc, Bool.not_true, Bool.and_false, Bool.false_and]

theorem mem_addNew {α : Type} [DecidableEq α] (x : α) (l : List α) : x ∈ addNew x l := by
  unfold addNew
  split
  · next h => exact h
  · exact List.mem_append_right _ List.mem_cons_self

theorem runUnits_one_of_bruised {s : State} {e : Engine} {u : Nat} (hp : tabGet none (coreAt s (ckey c)).prog (engCode e) = some p)
    (h : unitSlot p p.idx ≤ u) (hb : oneUnit (unitNote s c p) c p u = .bruised a) :
    runUnits c e u 1 s = coreFault (unitNote s c p) c e evBruise a (opcOf p.w.toNat) := by
  simp only [runUnits, hp, if_neg (Nat.not_lt.2 h), hb]

/-- What a bruised first block leaves: the fault of the engine, and its event beside those of the read (R242, R358). -/
theorem consumes_of_bruised (p : Prog) (h : MayIssue s c .scalar opc w) (hf : f (issOf s c .scalar w) = startUnits (issOf { s with free := m } c .scalar w) p id)
    (hidx : p.idx = 0) (hdue : unitSlot (begun s c .scalar w p) 0 ≤ slotOf s c.fld)
    (hb : oneUnit (wordStand s c w m p) c (begun s c .scalar w p) (slotOf s c.fld) = .bruised a) :
    (coreAt (issue s c .scalar opc w f) (ckey c)).faulted = addNew (engCode .scalar) (coreAt s (ckey c)).faulted ∧
      engineFree (issue s c .scalar opc w f) c .scalar = false ∧
      Raises (unitNote s c p) (issue s c .scalar opc w f) (bruiseEvent s c a opc) := by
  have hs := stands_wordStand s c w m p
  have hstand := stands_standState { s with free := m } c .scalar w (begun s c .scalar w p) id
  have hprog := (hstand.prog (engCode .scalar)).trans (if_pos rfl)
  have hstarts : unitSlot (begun s c .scalar w p) (begun s c .scalar w p).idx ≤ slotOf s c.fld := by
    rw [show (begun s c .scalar w p).idx = 0 from hidx]
    exact hdue
  have hrun := runUnits_one_of_bruised (e := .scalar) hprog hstarts hb
  have hopc : opcOf (begun s c .scalar w p).w.toNat = opc := h.2.2.1
  rw [hopc] at hrun
  have hgo := issue_go h (hf.trans (startUnits_issOf { s with free := m } c .scalar w p id))
  have hissue : issue s c .scalar opc w f = modCore (coreFault (wordStand s c w m p) c .scalar evBruise a opc) (ckey c) fun core =>
      modTask core .scalar (record (postMask (taskOf (coreAt s (ckey c)) .scalar).masks w.toNat) (unitsDone (slotOf s c.fld))) := by
    rw [hgo]
    exact congrArg (modCore · _ _) hrun
  have hcore : (coreAt (issue s c .scalar opc w f) (ckey c)).faulted = addNew (engCode .scalar) (coreAt s (ckey c)).faulted := by
    have hcor : (unitNote { s with free := m } c p).cor = s.cor := unitNote_cor { s with free := m } c p
    have hfaulted : (coreAt (wordStand s c w m p) (ckey c)).faulted = (coreAt s (ckey c)).faulted := by
      rw [hs.core, coreAt, hcor]
      rfl
    rw [hissue, coreAt_modCore, if_pos rfl, coreFault, modTask, coreAt_modCore, if_pos rfl, markFault, ← hfaulted]
    rfl
  refine ⟨hcore, engineFree_of_faulted (by rw [hcore]; exact mem_addNew _ _), ?_⟩
  have hnote : unitNote { s with free := m } c p = withCores (unitNote s c p) (s.cor, m) := unitNote_withCores s (s.cor, m) c p
  have hstem : (wordStand s c w m p).stem = (unitNote s c p).stem := by
    rw [hs.rest, hnote]
    rfl
  have hfields : FieldsStand s (wordStand s c w m p) := (fieldsStand_unitNote s c p).of_fld (by rw [hs.rest, hnote]; rfl)
  have hslot : slotOf (wordStand s c w m p) c.fld = slotOf s c.fld := (hfields c.fld).1
  have howner : (fieldOf (wordStand s c w m p) c.fld).cond.owner = (fieldOf s c.fld).cond.owner := (hfields c.fld).2
  rw [Raises, hissue, modCore_stem, coreFault, modCore_stem, raiseCore, raise, hslot, howner, hstem]
  rfl

theorem unitSlot_zero (p : Prog) : unitSlot p 0 = p.slots.headD p.t := by
  unfold unitSlot
  cases p.slots with
  | nil => rfl
  | cons a l => rfl

/-- The first granule of a word that reads as bruised stops LD and CADD (R357). -/
theorem wordUnit_bruised (hkind : p.kind = 6 ∨ p.kind = 8) (hb : granuleBruised s.mem (p.oda / 64) = true) (hrq : p.rq = false) :
    wordUnit (wordStand s c w m p) c (begun s c .scalar w p) (slotOf s c.fld) = .bruised (p.oda / 64 * 64) := by
  have hreads : unitNote { s with free := m } c p = noteRead { s with free := m } c.fld p.oda 8 := by
    rcases hkind with h | h <;> simp [unitNote, unitReads, hrq, h]
  have hmem : (wordStand s c w m p).mem = (noteRead { s with free := m } c.fld p.oda 8).mem := by
    rw [wordStand, mem_notedStand, hreads]
  have hg : p.oda / 64 ∈ granulesOf p.oda 8 := mem_granulesOf.2 (by omega)
  have hbit : tabGet false (wordStand s c w m p).mem.dieBr (p.oda / 64) = true := by
    rw [hmem]
    exact dieBr_noteRead (s := { s with free := m }) c.fld hg hb
  have hany : dieBruised (wordStand s c w m p) p.oda 8 = true := by
    rw [dieBruised, Bool.or_eq_true]
    exact .inl (List.any_eq_true.2 ⟨_, hg, hbit⟩)
  exact if_pos ⟨by rcases hkind with h | h <;> simp [begun, h], hany⟩

/-- The first granule of a request flit that reads as bruised stops STRM (R357). -/
theorem gatherUnit_bruised (hp : Fresh p) (hkind : p.kind = 11) (hrq : p.rq = false) (hlen : 64 ≤ (unitRange p 0).2)
    (hb : granuleBruised s.mem (p.oda / 64) = true) :
    gatherUnit (wordStand s c w m p) c (begun s c .scalar w p) (slotOf s c.fld) = .bruised (p.oda / 64 * 64) := by
  have hreads : unitNote { s with free := m } c p = noteRead { s with free := m } c.fld p.oda (unitRange p 0).2 := by
    simp [unitNote, unitReads, hrq, hkind, hp.idx, unitRange_fst]
  have hmem : (wordStand s c w m p).mem = (noteRead { s with free := m } c.fld p.oda (unitRange p 0).2).mem := by
    rw [wordStand, mem_notedStand, hreads]
  have hg : p.oda / 64 ∈ granulesOf p.oda (unitRange p 0).2 := mem_granulesOf.2 (by omega)
  have hbit : tabGet false (wordStand s c w m p).mem.dieBr (p.oda / 64) = true := by
    rw [hmem]
    exact dieBr_noteRead (s := { s with free := m }) c.fld hg hb
  obtain ⟨n, hn⟩ : ∃ n, (unitRange p 0).2 / 64 = n + 1 := ⟨(unitRange p 0).2 / 64 - 1, by omega⟩
  have hfirst : bitOf (brMask (wordStand s c w m p).mem.dieBr (p.oda / 64) (n + 1)) 0 = true := (bitOf_brMask _ _ _).trans hbit
  have hne : brMask (wordStand s c w m p).mem.dieBr (p.oda / 64) (n + 1) ≠ 0 := fun h0 => by
    rw [h0] at hfirst
    exact absurd hfirst (by decide)
  have hfind : (List.range (n + 1)).find? (fun i => bitOf (brMask (wordStand s c w m p).mem.dieBr (p.oda / 64) (n + 1)) i) = some 0 := by
    rw [List.range_succ_eq_map, List.find?_cons, hfirst]
  have hidx : (begun s c .scalar w p).idx = 0 := hp.idx
  have hr : unitRange (begun s c .scalar w p) 0 = (0, (unitRange p 0).2) := Prod.ext (unitRange_fst p) rfl
  have hk : (begun s c .scalar w p).kind = 11 := hkind
  have hoda : (begun s c .scalar w p).oda = p.oda := rfl
  unfold gatherUnit
  simp only [hidx, hr, hk, hoda, Nat.add_zero, Nat.sub_zero, hn, hne, ne_eq, not_false_eq_true, and_self, if_true, hfind, Option.getD_some,
    Nat.zero_add, Nat.mul_comm 64]

end

/-- An access at a multiple of 64 bytes lies at a multiple of 64 (R160, R221, R229). -/
theorem oda_aligned {s : State} {c : CoreId} {win o n oda : Nat} {r : Right} (h : dieAccess s c win r o n = some oda) (ho : o % 64 = 0) :
    oda % 64 = 0 := by
  have haccess : winAccess c win r o n = some oda := by
    unfold dieAccess at h
    split at h
    · next hw =>
      split at h
      · exact hw.trans h
      · exact absurd h (by simp)
    · exact absurd h (by simp)
  unfold winAccess at haccess
  simp only [coreBase, sharedBase] at haccess
  split at haccess
  · split at haccess
    · have := Option.some.inj haccess
      omega
    · split at haccess
      · have := Option.some.inj haccess
        omega
      · exact absurd haccess (by simp)
  · exact absurd haccess (by simp)

theorem scalarReadsConsumeBruises : ScalarReadsConsumeBruises := by
  intro s c w i kind opc len al oda n rs slots hcase h hacc hbr hdue
  have hgranule := granuleBruised_of_dieBruised hbr
  rcases hcase with ⟨rfl, rfl, rfl, rfl, rfl, rfl⟩ | ⟨rfl, rfl, rfl, rfl, rfl, rfl⟩ | ⟨rfl, rfl, rfl, rfl, rfl, rfl⟩
  · have hf : effLd (issOf s c .scalar w) =
        startUnits (issOf { s with free := readFree s c w false } c .scalar w) (wordProg s c w 6 (fRD w.toNat) 0 oda n slots) id :=
      (smAccess_issOf hacc false _).trans (by rw [dataRead_snd]; rfl)
    exact ⟨_, rfl, consumes_of_bruised (wordProg s c w 6 (fRD w.toNat) 0 oda n slots) h hf rfl ((unitSlot_zero _).trans_le hdue) (wordUnit_bruised (.inl rfl) hgranule rfl)⟩
  · have hf : effCadd (issOf s c .scalar w) = startUnits (issOf { s with free := readFree s c w true } c .scalar w)
        (wordProg s c w 8 0 (dataRead s c w true).1 oda n slots) id :=
      (smAccess_issOf hacc true _).trans (by rw [dataRead_snd]; rfl)
    exact ⟨_, rfl, consumes_of_bruised (wordProg s c w 8 0 (dataRead s c w true).1 oda n slots) h hf rfl ((unitSlot_zero _).trans_le hdue) (wordUnit_bruised (.inr rfl) hgranule rfl)⟩
  · have hf : effStrm (issOf s c .scalar w) =
        startUnits (issOf { s with free := readFree s c w false } c .scalar w) (flitProg s c w 11 2 oda n slots) id :=
      (smAccess_issOf hacc false _).trans (by rw [dataRead_snd]; rfl)
    have haligned := oda_aligned hacc.2.2.1 hacc.1
    have hlen : 64 ≤ (unitRange (flitProg s c w 11 2 oda n slots) 0).2 := by
      unfold unitRange
      split
      · exact (by decide : 64 ≤ min 128 (128 * (0 + 1)))
      · show 64 ≤ min (oda + 128) (128 * (oda / 128 + 0) + 128) - oda
        omega
    exact ⟨_, rfl, consumes_of_bruised (flitProg s c w 11 2 oda n slots) h hf rfl ((unitSlot_zero _).trans_le hdue)
      (gatherUnit_bruised ⟨rfl, rfl, rfl, rfl, rfl, rfl⟩ rfl rfl hlen hgranule)⟩

/-- Settles O7: what each write of memory leaves, and the fault of a read whose first granule is bruised. -/
theorem storesLandAndReadsConsumeBruises : Obligations.StoresLandAndReadsConsumeBruises :=
  ⟨storesLandInTheirBytesAlone, scalarReadsConsumeBruises⟩

end Sys2Proof.Proofs.StoresAndBruises
end

section
/-! SUPPORT. Fills of the buffers and registers by units of memory and of the receive queue (O9, O10). -/

namespace Sys2Proof.Proofs.Transfers

open Sys2Proof.Machine Sys2Proof.Laws Sys2Proof.Proofs.Vector Sys2Proof.Proofs.Engines Sys2Proof.Proofs.Units Sys2Proof.Proofs.ScalarMemory

/-! ## Buffer fills -/

theorem apart_foldl {α : Type} {G : Core → α → Core} (hG : ∀ a, ApartFromIssue fun x => G x a) (l : List α) : ApartFromIssue fun x => l.foldl G x := by
  induction l with
  | nil => exact fun _ _ _ _ => rfl
  | cons a l ih => exact fun x tok tasks prog => (congrArg (fun y => l.foldl G y) (hG a x tok tasks prog)).trans (ih (G x a) tok tasks prog)

theorem apart_actBytes (first size total lo hi : Nat) (rd : Nat → Nat) (br : Nat → Bool) : ApartFromIssue (actBytes first size total lo hi rd br) :=
  apart_foldl (G := fun c k => actChunk first size total (lo / 32 + k) (rd (lo + 32 * k)) (br (lo + 32 * k)) c) (fun _ _ _ _ _ => rfl) _

theorem apart_sideBytes (first total lo hi : Nat) (rd : Nat → Nat) (br : Nat → Bool) : ApartFromIssue (sideBytes first total lo hi rd br) :=
  apart_foldl (G := fun c k => sideEntry first total (lo / 4 + k) (rd (lo + 4 * k)) (br (lo + 4 * k)) c) (fun _ _ _ _ _ => rfl) _

section

variable {s : State} {c : CoreId} {e : Engine} {opc : Nat} {w : BitVec 64} {f : Iss → Res} {p : Prog} {g : Task → Task}

/-- An instruction with a memory operand waits for the wheel (R233). -/
theorem operand_waits {b bytes units oda n : Nat} {r : Right} {slots : List Nat} {q : Prog} (h : MayIssue s c e opc w)
    (hf : f (issOf s c e w) = memUnits (issOf s c e w) b bytes units r false q) (hacc : MemAccess s c e w b bytes units r oda n slots)
    (hidx : q.idx = 0) (hwait : slotOf s c.fld < unitSlot (begun s c e w { q with oda := oda, total := bytes, n := n, slots := slots }) 0) :
    UnitsBegin s (issue s c e opc w f) s c e w { q with oda := oda, total := bytes, n := n, slots := slots } (memIncr (memOp w.toNat b)) := by
  have hpos : 0 < n := units_pos_of_wait (p := begun s c e w { q with oda := oda, total := bytes, n := n, slots := slots }) hacc.2 hwait
  exact unitsBegin_of_wait (p := { q with oda := oda, total := bytes, n := n, slots := slots }) h (hf.trans (memUnits_issOf hacc q))
    (keepsIssueState_memIncr _) (by rw [hidx]; exact hpos) (by rw [hidx]; exact hwait)

/-- A first unit that changes its core, and reads memory once. -/
theorem coreUnit_moves {F : Core → Core} (h : MayIssue s c e opc w) (hf : f (issOf s c e w) = startUnits (issOf s c e w) p g)
    (hidx : p.idx = 0) (hheld : p.held = false) (hstep : p.step = 1) (hdue : unitSlot (begun s c e w p) 0 ≤ slotOf s c.fld)
    (hmove : oneUnit (notedStand s c e w p g) c (begun s c e w p) (slotOf s c.fld) =
      .moved (countAct (modCore (notedStand s c e w p g) (ckey c) F) c.fld actSram 1) (begun s c e w p))
    (hF : ApartFromIssue F) (hg : KeepsIssueState g) :
    UnitsBegin s (issue s c e opc w f) (countAct (modCore (unitNote s c p) (ckey c) F) c.fld actSram 1) c e w { p with idx := 1 } g :=
  unitsBegin_of_moved h hf (by rw [hidx]; exact hdue) hmove
    ((stands_changeCore (stands_notedStand s c e w p g) hF).changeField _ _) hg hstep.ge
    (by rw [show (begun s c e w p).idx = 0 from hidx, ← hheld]; rfl)

end

theorem lineField_issOf (s : State) (c : CoreId) (w : BitVec 64) (count : Nat) : lineField (issOf s c .load w) count = firstLine s c w count := by
  rw [lineField, task_issOf, w_issOf]
  rfl

/-- The record of LACT or LSCL before its access is placed. -/
def fillProg (s : State) (c : CoreId) (kind total first : Nat) : Prog :=
  { kind := kind, w := 0, total := total, n := (total + 127) / 128, t := slotOf s c.fld, first := first, lat := 3 }

theorem effLact_issOf (s : State) (c : CoreId) (w : BitVec 64) :
    let size := lclsSize (bitsOf w.toNat 62 2)
    let total := (bitsOf w.toNat 53 9 + 1) * size
    let p := fillProg s c 0 total (firstLine s c w (lineCountOf size))
    effLact (issOf s c .load w) = if w.getLsbD 39 then startUnits (issOf s c .load w) { p with rq := true } id
      else memUnits (issOf s c .load w) 19 total ((total + 127) / 128) .rd false p := by
  intro size total p
  unfold effLact
  simp only [w_issOf, bitOf_toNat, lineField_issOf]
  rfl

theorem effLscl_issOf (s : State) (c : CoreId) (w : BitVec 64) :
    let total := 4 * (bitsOf w.toNat 53 9 + 1)
    let p := fillProg s c 1 total (firstLine s c w 1024)
    effLscl (issOf s c .load w) = if w.getLsbD 39 then startUnits (issOf s c .load w) { p with rq := true } id
      else memUnits (issOf s c .load w) 19 total ((total + 127) / 128) .rd false p := by
  intro total p
  unfold effLscl
  simp only [w_issOf, bitOf_toNat, lineField_issOf]
  rfl

/-- The bytes that a fill reads, as they stand in memory. -/
theorem fillRead_eq (s : State) (c : CoreId) (w : BitVec 64) (p : Prog) (g : Task → Task) (oda len : Nat) :
    (fun o => dieRead (notedStand s c .load w p g) (oda + o) len) = fun o => dieRead s (oda + o) len :=
  funext fun _ => dieRead_notedStand s c .load w p g _ _

/-- Settles O9: each fill moves its first block, or waits for the wheel. -/
theorem bufferFillsFromMemoryBegin : Obligations.BufferFillsFromMemoryBegin := by
  intro s c w oda n slots k u size rd br g
  refine ⟨?lact, ?lscl⟩
  case lact =>
    intro h hmem total hacc p r m
    have hf : effLact (issOf s c .load w) = _ := (effLact_issOf s c w).trans (if_neg (ne_true_of_eq_false hmem))
    refine ⟨_, rfl, fun hdue => ?_, operand_waits h hf hacc rfl⟩
    refine coreUnit_moves (p := p) h (hf.trans (memUnits_issOf hacc _)) rfl rfl rfl hdue ?_ (apart_actBytes _ _ _ _ _ _ _) (keepsIssueState_memIncr _)
    have hbr : br m = br (notedStand s c .load w p g) := by simp only [br, mem_notedStand, m]
    have hrd : rd 32 = fun o => dieRead (notedStand s c .load w p g) (oda + o) 32 := (fillRead_eq s c w p g oda 32).symm
    rw [hbr, hrd]
    rfl
  case lscl =>
    intro h hmem total hacc p r m
    have hf : effLscl (issOf s c .load w) = _ := (effLscl_issOf s c w).trans (if_neg (ne_true_of_eq_false hmem))
    refine ⟨_, rfl, fun hdue => ?_, operand_waits h hf hacc rfl⟩
    refine coreUnit_moves (p := p) h (hf.trans (memUnits_issOf hacc _)) rfl rfl rfl hdue ?_ (apart_sideBytes _ _ _ _ _ _) (keepsIssueState_memIncr _)
    have hbr : br m = br (notedStand s c .load w p g) := by simp only [br, mem_notedStand, m]
    have hrd : rd 4 = fun o => dieRead (notedStand s c .load w p g) (oda + o) 4 := (fillRead_eq s c w p g oda 4).symm
    rw [hbr, hrd]
    rfl

/-! ## The receive queue -/

theorem fieldsOk_of_mayIssue {s : State} {c : CoreId} {e : Engine} {opc : Nat} {w : BitVec 64} (h : MayIssue s c e opc w) :
    opcOf w.toNat = opc ∧ engineOn (coreKind c.cor) e = true ∧ fieldsOk (coreKind c.cor) e w.toNat = true := by
  obtain ⟨-, -, hopc, hok, -⟩ := h
  rw [wordOk, Bool.and_eq_true, Bool.and_eq_true] at hok
  exact ⟨hopc, hok.1.1, hok.2⟩

theorem lclsSize_pos (k : Nat) : 0 < lclsSize k := by
  unfold lclsSize
  split
  · norm_num
  · split <;> norm_num

/-- LACT takes whole flits of the receive queue (R200). -/
theorem lact_whole_flits {s : State} {c : CoreId} {w : BitVec 64} (h : MayIssue s c .load 0x10 w) (hrq : w.getLsbD 39 = true) :
    (bitsOf w.toNat 53 9 + 1) * lclsSize (bitsOf w.toNat 62 2) % 128 = 0 := by
  obtain ⟨hopc, -, hfields⟩ := fieldsOk_of_mayIssue h
  rw [← bitOf_toNat] at hrq
  cases hk : coreKind c.cor <;> simp [fieldsOk, hk, hopc, hrq] at hfields
  exact hfields.2.2

/-- LSCL takes whole flits of the receive queue (R201). -/
theorem lscl_whole_flits {s : State} {c : CoreId} {w : BitVec 64} (h : MayIssue s c .load 0x11 w) (hrq : w.getLsbD 39 = true) :
    4 * (bitsOf w.toNat 53 9 + 1) % 128 = 0 := by
  obtain ⟨hopc, -, hfields⟩ := fieldsOk_of_mayIssue h
  rw [← bitOf_toNat] at hrq
  cases hk : coreKind c.cor <;> simp [fieldsOk, hk, hopc, hrq] at hfields
  exact hfields.2.2

theorem bitOf_flitMask (f : Flit) {i : Nat} (hi : i < 2) : bitOf (flitMask f) i = if i = 0 then f.b0 else f.b1 := by
  unfold flitMask
  obtain rfl | rfl : i = 0 ∨ i = 1 := by omega
  all_goals cases f.b0 <;> cases f.b1 <;> rfl

/-- Only the bytes that are filled are read. -/
theorem actBytes_congr {first size total hi : Nat} {rd rd' : Nat → Nat} {br br' : Nat → Bool}
    (h : ∀ k, 32 * k < hi → rd (32 * k) = rd' (32 * k) ∧ br (32 * k) = br' (32 * k)) :
    actBytes first size total 0 hi rd br = actBytes first size total 0 hi rd' br' := by
  funext x
  refine List.foldl_ext _ _ _ fun y k hk => ?_
  obtain ⟨hrd, hbr⟩ := h k (by have := List.mem_range.1 hk; omega)
  simp only [Nat.zero_add, hrd, hbr]

theorem sideBytes_congr {first total hi : Nat} {rd rd' : Nat → Nat} {br br' : Nat → Bool}
    (h : ∀ k, 4 * k < hi → rd (4 * k) = rd' (4 * k) ∧ br (4 * k) = br' (4 * k)) :
    sideBytes first total 0 hi rd br = sideBytes first total 0 hi rd' br' := by
  funext x
  refine List.foldl_ext _ _ _ fun y k hk => ?_
  obtain ⟨hrd, hbr⟩ := h k (by have := List.mem_range.1 hk; omega)
  simp only [Nat.zero_add, hrd, hbr]

/-- The flits that the first unit of a receive-queue read takes. -/
def flitsNeeded (p : Prog) : Nat := if p.kind = 2 then 2 else 1

/-- What the first unit of a receive-queue read does to its core with the oldest flit `f` and the next `f'` (R200, R201, R209). -/
def queueFill (p : Prog) (u : Nat) (f f' : Flit) : Core → Core :=
  if p.kind = 0 then
    actBytes p.first (lclsSize (bitsOf p.w.toNat 62 2)) p.total 0 (min p.total 128) (fun o => bitsOf f.data.toNat (8 * o) (8 * 32))
      fun o => bitOf (flitMask f) (o / 64)
  else if p.kind = 1 then
    sideBytes p.first p.total 0 (min p.total 128) (fun o => bitsOf f.data.toNat (8 * o) (8 * 4)) fun o => bitOf (flitMask f) (o / 64)
  else vldWrite p 0 u (f.data.toNat + f'.data.toNat * 2 ^ 1024) (flitMask f + 4 * flitMask f')

theorem apart_queueFill (p : Prog) (u : Nat) (f f' : Flit) : ApartFromIssue (queueFill p u f f') := by
  unfold queueFill
  split
  · exact apart_actBytes _ _ _ _ _ _ _
  · split
    · exact apart_sideBytes _ _ _ _ _ _
    · exact fun _ _ _ _ => rfl

theorem queueFill_lact {p : Prog} (hkind : p.kind = 0) (htotal : min p.total 128 = 128) (u : Nat) (f f' : Flit) :
    queueFill p u f f' = actBytes p.first (lclsSize (bitsOf p.w.toNat 62 2)) p.total 0 128 (fun o => bitsOf f.data.toNat (8 * o) (8 * 32))
      fun o => if o / 64 = 0 then f.b0 else f.b1 := by
  rw [queueFill, if_pos hkind, htotal]
  exact actBytes_congr fun j hj => ⟨rfl, bitOf_flitMask f (by omega)⟩

theorem queueFill_lscl {p : Prog} (hkind : p.kind = 1) (htotal : min p.total 128 = 128) (u : Nat) (f f' : Flit) :
    queueFill p u f f' = sideBytes p.first p.total 0 128 (fun o => bitsOf f.data.toNat (8 * o) (8 * 4))
      fun o => if o / 64 = 0 then f.b0 else f.b1 := by
  rw [queueFill, if_neg (by omega), if_pos hkind, htotal]
  exact sideBytes_congr fun j hj => ⟨rfl, bitOf_flitMask f (by omega)⟩

theorem queueFill_vld {p : Prog} (hkind : p.kind = 2) (u : Nat) (f f' : Flit) :
    queueFill p u f f' = vldWrite p 0 u (f.data.toNat + f'.data.toNat * 2 ^ 1024) (flitMask f + 4 * flitMask f') := by
  rw [queueFill, if_neg (by omega), if_neg (by omega)]

theorem rqUnit_first {s : State} {c : CoreId} {p : Prog} {u : Nat} {f : Flit} {rest : List Flit} (hidx : p.idx = 0)
    (hq : (coreAt s (ckey c)).recvq = f :: rest) (hready : flitsNeeded p ≤ readable (coreAt s (ckey c)) u) :
    rqUnit s c p u = .moved (modCore s (ckey c) fun x => queueFill p u f (rest.headD { data := 0 }) (dropRecv (flitsNeeded p) x)) p := by
  have hnot : ¬ readable (coreAt s (ckey c)) u < if p.kind = 2 then 2 else 1 := Nat.not_lt.2 hready
  unfold rqUnit
  simp only [if_neg hnot, hidx, hq, Nat.mul_zero, Nat.sub_zero, Nat.zero_add, List.headD_cons, List.drop_succ_cons, List.drop_zero]
  rfl

section

variable {s : State} {c : CoreId} {e : Engine} {opc : Nat} {w : BitVec 64} {f : Iss → Res} {p : Prog} {g : Task → Task}

/-- A read of the receive queue begins with the flits of its first unit (R171, R200, R201, R209). -/
theorem queueRead_begins {fl : Flit} {rest : List Flit} (h : MayIssue s c e opc w) (hf : f (issOf s c e w) = startUnits (issOf s c e w) p id)
    (hrq : p.rq = true) (hidx : p.idx = 0) (hheld : p.held = false) (hstep : p.step = 1) (hslots : p.slots = [])
    (hq : (coreAt s (ckey c)).recvq = fl :: rest) (hready : flitsNeeded p ≤ readable (coreAt s (ckey c)) (slotOf s c.fld)) :
    UnitsBegin s (issue s c e opc w f)
      (modCore s (ckey c) fun x => queueFill (begun s c e w p) (slotOf s c.fld) fl (rest.headD { data := 0 }) (dropRecv (flitsNeeded p) x))
      c e w { p with idx := 1 } id := by
  have hnote (x : State) : unitNote x c (begun s c e w p) = x := by
    have hreads : unitReads (begun s c e w p) = none := if_pos hrq
    rw [unitNote, hreads]
  have hs := stands_standState s c e w (begun s c e w p) id
  have hcore := hs.core
  have hq2 : (coreAt (standState s c e w (begun s c e w p) id) (ckey c)).recvq = fl :: rest := by rw [hcore]; exact hq
  have hready2 : flitsNeeded (begun s c e w p) ≤ readable (coreAt (standState s c e w (begun s c e w p) id) (ckey c)) (slotOf s c.fld) := by
    rw [hcore]
    exact hready
  have hone : oneUnit (standState s c e w (begun s c e w p) id) c (begun s c e w p) (slotOf s c.fld) =
      rqUnit (standState s c e w (begun s c e w p) id) c (begun s c e w p) (slotOf s c.fld) := if_pos hrq
  have hmove := hone.trans (rqUnit_first (p := begun s c e w p) (u := slotOf s c.fld) hidx hq2 hready2)
  have hdue : unitSlot (begun s c e w p) p.idx ≤ slotOf s c.fld := by
    have hs0 : (begun s c e w p).slots = [] := hslots
    rw [unitSlot, hs0, hidx]
    exact le_rfl
  exact unitsBegin_of_moved h hf hdue (by rw [hnote]; exact hmove)
    (stands_changeCore hs (F := fun x => queueFill (begun s c e w p) (slotOf s c.fld) fl (rest.headD { data := 0 }) (dropRecv (flitsNeeded p) x))
      fun x tok tasks prog => apart_queueFill _ _ _ _ (dropRecv (flitsNeeded p) x) tok tasks prog)
    keepsIssueState_id hstep.ge (by rw [show (begun s c e w p).idx = 0 from hidx, ← hheld]; rfl)

end

/-- Settles O10: each form takes the flits of its first unit. -/
theorem receiveQueueFormsBegin : Obligations.ReceiveQueueFormsBegin := by
  intro s c w f rest k u size v rd br hq
  refine ⟨?lact, ?lscl, ?vld⟩
  case lact =>
    intro h hrq hready total p
    have hwhole : total % 128 = 0 := lact_whole_flits h hrq
    have hpos : 0 < total := Nat.mul_pos (Nat.succ_pos _) (lclsSize_pos _)
    have hmin : min total 128 = 128 := by omega
    have hbegin := queueRead_begins (p := p) h ((effLact_issOf s c w).trans (if_pos hrq)) rfl rfl rfl rfl rfl hq hready
    rw [queueFill_lact (p := begun s c .load w p) rfl hmin] at hbegin
    exact ⟨_, rfl, hbegin⟩
  case lscl =>
    intro h hrq hready total p
    have hwhole : total % 128 = 0 := lscl_whole_flits h hrq
    have hmin : min total 128 = 128 := by omega
    have hbegin := queueRead_begins (p := p) h ((effLscl_issOf s c w).trans (if_pos hrq)) rfl rfl rfl rfl rfl hq hready
    rw [queueFill_lscl (p := begun s c .load w p) rfl hmin] at hbegin
    exact ⟨_, rfl, hbegin⟩
  case vld =>
    intro f' more hmore h hrq hready p
    subst hmore
    have hf : effVld (issOf s c .load w) = startUnits (issOf s c .load w) p id := by
      unfold effVld
      simp only [w_issOf, bitOf_toNat, hrq, if_true]
      rfl
    have hbegin := queueRead_begins (p := p) h hf rfl rfl rfl rfl rfl hq hready
    rw [List.headD_cons, queueFill_vld (p := begun s c .load w p) rfl] at hbegin
    exact ⟨_, rfl, hbegin⟩

end Sys2Proof.Proofs.Transfers
end

section
/-! SUPPORT. VLD and VST, and the flits of VST and DSND (O11). -/

namespace Sys2Proof.Proofs.VectorTransfers

open Sys2Proof.Machine Sys2Proof.Laws Sys2Proof.Proofs.Vector Sys2Proof.Proofs.Engines Sys2Proof.Proofs.Units Sys2Proof.Proofs.ScalarMemory

open Sys2Proof.Proofs.Transfers

/-! ## VLD and VST -/

/-- The low bits of a sum of which the second part begins above them. -/
theorem bitsOf_add_mul_pow (a b : Nat) {n m : Nat} (h : n ≤ m) : bitsOf (a + b * 2 ^ m) 0 n = bitsOf a 0 n := by
  obtain ⟨d, rfl⟩ := Nat.exists_eq_add_of_le h
  rw [bitsOf, bitsOf, Nat.pow_zero, Nat.div_one, Nat.div_one, Nat.pow_add, Nat.mul_left_comm, Nat.add_mul_mod_self_left]

/-- A first unit of VLD and VST lies in one register (R209, R233). -/
theorem unitRange_le_register {p : Prog} (h : p.kind = 2 ∨ p.kind = 3) : (unitRange p 0).2 ≤ 256 := by
  unfold unitRange
  split
  · rw [show unitSize p = 256 from if_pos h]
    exact min_le_right _ _
  · show min (p.oda + p.total) (128 * (p.oda / 128 + 0) + 128) - p.oda ≤ 256
    omega

/-- The bytes of a first unit are the low ones of the first register (R209). -/
theorem vregBytes_first (x : Core) (r : Nat) {n : Nat} (hn : n ≤ 256) :
    vregBytes x r 0 n = (bitsOf (vregOf x r) 0 (8 * n), bitsOf (vbrOf x r) 0 (n / 64)) := by
  have hbr : bitsOf (vbrOf x r + vbrOf x (r + 1) * 2 ^ 4) 0 (n / 64) = bitsOf (vbrOf x r) 0 (n / 64) := bitsOf_add_mul_pow _ _ (by omega)
  have hv : bitsOf (vregOf x r + vregOf x (r + 1) * 2 ^ 2048) 0 (8 * n) = bitsOf (vregOf x r) 0 (8 * n) := bitsOf_add_mul_pow _ _ (by omega)
  rw [show (2 : Nat) ^ 4 = 16 by norm_num] at hbr
  unfold vregBytes
  simp only [Nat.zero_div, Nat.add_zero, Nat.zero_mod, Nat.mul_zero, Nat.sub_zero, hv, hbr]

section

variable {s : State} {c : CoreId} {opc : Nat} {w : BitVec 64} {f : Iss → Res} {p : Prog} {g : Task → Task}

/-- VST to memory begins with the store of its first unit (R209, R233). -/
theorem vst_stores (h : MayIssue s c .store opc w) (hf : f (issOf s c .store w) = startUnits (issOf s c .store w) p g)
    (hkind : p.kind = 3) (hrq : p.rq = false) (hidx : p.idx = 0) (hheld : p.held = false) (hstep : p.step = 1) (hdst : bitsOf w.toNat 37 2 = 0)
    (hdue : unitSlot (begun s c .store w p) 0 ≤ slotOf s c.fld) (hg : KeepsIssueState g) :
    UnitsBegin s (issue s c .store opc w f)
      (countAct (putDie s c
        { due := slotOf s c.fld, oda := p.oda, n := (unitRange p 0).2
          v := bitsOf (vregOf (coreAt s (ckey c)) p.first) 0 (8 * (unitRange p 0).2)
          mask := some (bitsOf (vbrOf (coreAt s (ckey c)) p.first) 0 ((unitRange p 0).2 / 64)) }) c.fld actSram (((unitRange p 0).2 + 127) / 128))
      c .store w { p with idx := 1 } g := by
  have hs := stands_notedStand s c .store w p g
  have hnote (x : State) : unitNote x c p = x := by
    have hreads : unitReads p = none := by simp [unitReads, hrq, hkind]
    rw [unitNote, hreads]
  rw [unitNote_begun, hnote] at hs
  have hcore := hs.core
  have hr : unitRange (begun s c .store w p) 0 = (0, (unitRange p 0).2) := Prod.ext (unitRange_fst p) rfl
  have hbytes := vregBytes_first (coreAt (notedStand s c .store w p g) (ckey c)) p.first (unitRange_le_register (.inr hkind))
  have hv : vregOf (coreAt (notedStand s c .store w p g) (ckey c)) p.first = vregOf (coreAt s (ckey c)) p.first := by rw [hcore]; rfl
  have hb : vbrOf (coreAt (notedStand s c .store w p g) (ckey c)) p.first = vbrOf (coreAt s (ckey c)) p.first := by rw [hcore]; rfl
  rw [hv, hb] at hbytes
  have hmove : oneUnit (notedStand s c .store w p g) c (begun s c .store w p) (slotOf s c.fld) =
      .moved (countAct (putDie (notedStand s c .store w p g) c
        { due := slotOf s c.fld, oda := p.oda, n := (unitRange p 0).2
          v := bitsOf (vregOf (coreAt s (ckey c)) p.first) 0 (8 * (unitRange p 0).2)
          mask := some (bitsOf (vbrOf (coreAt s (ckey c)) p.first) 0 ((unitRange p 0).2 / 64)) }) c.fld actSram (((unitRange p 0).2 + 127) / 128))
        (begun s c .store w p) := by
    have hk : (begun s c .store w p).kind = 3 := hkind
    have hq : (begun s c .store w p).rq = false := hrq
    have hi : (begun s c .store w p).idx = 0 := hidx
    have hw : (begun s c .store w p).w = w := rfl
    have hfirst : (begun s c .store w p).first = p.first := rfl
    have hoda : (begun s c .store w p).oda = p.oda := rfl
    unfold oneUnit
    simp only [hk, hq, hi, hw, hdst, hr, hfirst, hoda, hbytes, Bool.false_eq_true, if_false, Nat.add_zero, Nat.sub_zero]
  exact unitsBegin_of_moved h hf (by rw [hidx]; exact hdue) hmove ((hs.changeField _ _).changeField _ _) hg hstep.ge
    (by rw [show (begun s c .store w p).idx = 0 from hidx, ← hheld]; rfl)

/-- VST by flits begins with the two flits of its first register (R152, R153, R169, R209). -/
theorem vst_sends (h : MayIssue s c .store opc w) (hf : f (issOf s c .store w) = startUnits (issOf s c .store w) p id)
    (hkind : p.kind = 3) (hrq : p.rq = false) (hidx : p.idx = 0) (hheld : p.held = false) (hstep : p.step = 1) (hslots : p.slots = [])
    (hdst : bitsOf w.toNat 37 2 ≠ 0) :
    let v := vregOf (coreAt s (ckey c)) p.first
    let b := vbrOf (coreAt s (ckey c)) p.first
    UnitsBegin s (issue s c .store opc w f)
      (modCore s (ckey c) fun x => Sent x (bitsOf w.toNat 37 2) (bitsOf w.toNat 39 3)
        [(slotOf s c.fld + 3, mkFlit v b), (slotOf s c.fld + 3, mkFlit (v / 2 ^ 1024) (b / 4))]) c .store w { p with idx := 1 } id := by
  intro v b
  have hs := stands_notedStand s c .store w p id
  have hnote (x : State) : unitNote x c p = x := by
    have hreads : unitReads p = none := by simp [unitReads, hrq, hkind]
    rw [unitNote, hreads]
  rw [unitNote_begun, hnote] at hs
  have hcore := hs.core
  have hv : vregOf (coreAt (notedStand s c .store w p id) (ckey c)) p.first = v := by rw [hcore]; rfl
  have hb : vbrOf (coreAt (notedStand s c .store w p id) (ckey c)) p.first = b := by rw [hcore]; rfl
  have hmove : oneUnit (notedStand s c .store w p id) c (begun s c .store w p) (slotOf s c.fld) =
      .moved (modCore (notedStand s c .store w p id) (ckey c) fun x => Sent x (bitsOf w.toNat 37 2) (bitsOf w.toNat 39 3)
        [(slotOf s c.fld + 3, mkFlit v b), (slotOf s c.fld + 3, mkFlit (v / 2 ^ 1024) (b / 4))]) (begun s c .store w p) := by
    have hk : (begun s c .store w p).kind = 3 := hkind
    have hq : (begun s c .store w p).rq = false := hrq
    have hi : (begun s c .store w p).idx = 0 := hidx
    have hw : (begun s c .store w p).w = w := rfl
    have hfirst : (begun s c .store w p).first = p.first := rfl
    unfold oneUnit
    simp only [hk, hq, hi, hw, hfirst, hv, hb, Bool.false_eq_true, if_false, Nat.add_zero, toDest_eq]
  have hdue : unitSlot (begun s c .store w p) p.idx ≤ slotOf s c.fld := by
    have hs0 : (begun s c .store w p).slots = [] := hslots
    rw [unitSlot, hs0, hidx]
    exact le_rfl
  exact unitsBegin_of_moved h hf hdue hmove (stands_changeCore hs (apart_sent _ _ _)) keepsIssueState_id hstep.ge
    (by rw [show (begun s c .store w p).idx = 0 from hidx, ← hheld]; rfl)

end

theorem itemCore_vld {c : CoreId} {p : Prog} (h : p.kind = 2) (u v br : Nat) : itemCore c p u v br = vldWrite p p.item u v br := if_pos h

theorem itemCore_flit {c : CoreId} {p : Prog} (h2 : p.kind ≠ 2) (h11 : p.kind ≠ 11) (u v br : Nat) :
    itemCore c p u v br = fun y => Sent y (progDst p) (progTo p) [(u + 2, mkFlit v br)] := (if_neg h2).trans (if_neg h11)

theorem effVld_issOf {s : State} {c : CoreId} {w : BitVec 64} (h : w.getLsbD 37 = false) :
    effVld (issOf s c .load w) = memUnits (issOf s c .load w) 38 (256 * (bitsOf w.toNat 28 9 + 1)) (bitsOf w.toNat 28 9 + 1) .rd false
      { kind := 2, w := 0, n := bitsOf w.toNat 28 9 + 1, t := slotOf s c.fld, first := bitsOf w.toNat 19 9
        total := 256 * (bitsOf w.toNat 28 9 + 1), lat := 3 } := by
  unfold effVld
  simp only [w_issOf, bitOf_toNat, h, Bool.false_eq_true, if_false]
  rfl

theorem effVst_issOf (s : State) (c : CoreId) (w : BitVec 64) :
    let p : Prog := { kind := 3, w := 0, n := bitsOf w.toNat 28 9 + 1, t := slotOf s c.fld, first := bitsOf w.toNat 19 9, lat := 3 }
    effVst (issOf s c .store w) = if bitsOf w.toNat 37 2 = 0 then
      memUnits (issOf s c .store w) 39 (256 * (bitsOf w.toNat 28 9 + 1)) (bitsOf w.toNat 28 9 + 1) .wr false p
      else startUnits (issOf s c .store w) p id := by
  intro p
  unfold effVst
  simp only [w_issOf]
  rfl

/-- Settles O11: VLD by its gathering read, and VST by the store of its first unit. -/
theorem vectorLoadAndStoreBegin : Obligations.VectorLoadAndStoreBegin := by
  intro s c w oda n slots k u nr reg
  refine ⟨?vld, ?vst⟩
  case vld =>
    intro h hmem hacc p g len m
    have hf : effVld (issOf s c .load w) = _ := effVld_issOf hmem
    obtain ⟨hfull, hshort⟩ := gathers_begin (p := p) h (hf.trans (memUnits_issOf hacc _)) (keepsIssueState_memIncr _) (fun _ => rfl)
      ⟨rfl, rfl, rfl, rfl, rfl, rfl⟩ rfl (fun hk => absurd hk (by decide : (2 : Nat) ≠ 11))
    rw [show itemSize p = 256 from rfl, itemCore_vld (p := begun s c .load w p) rfl] at hfull
    rw [show itemSize p = 256 from rfl] at hshort
    exact ⟨_, rfl, hfull, hshort, operand_waits h hf hacc rfl⟩
  case vst =>
    intro h hdst hacc p g len
    have hf : effVst (issOf s c .store w) = _ := (effVst_issOf s c w).trans (if_pos hdst)
    exact ⟨_, rfl, fun hdue => vst_stores (p := p) h (hf.trans (memUnits_issOf hacc _)) rfl rfl rfl rfl rfl hdst hdue (keepsIssueState_memIncr _),
      operand_waits h hf hacc rfl⟩

theorem bitOf_div_four (b i : Nat) : bitOf (b / 4) i = bitOf b (i + 2) := by
  rw [bitOf, bitOf, Nat.div_div_eq_div_mul, Nat.pow_add, Nat.mul_comm]

theorem flitSendersBegin : FlitSendersBegin := by
  intro s c w oda n slots k u
  refine ⟨?vst, ?dsnd⟩
  case vst =>
    intro h hdst reg v b p
    have hf : effVst (issOf s c .store w) = startUnits (issOf s c .store w) p id := (effVst_issOf s c w).trans (if_neg hdst)
    have hbegin := vst_sends (p := p) h hf rfl rfl rfl rfl rfl rfl hdst
    simp only [mkFlit, bitOf_div_four] at hbegin
    exact ⟨_, rfl, hbegin⟩
  case dsnd =>
    intro h nf hacc p g len m
    have hf : effDsnd (issOf s c .drain w) = memUnits (issOf s c .drain w) 19 (128 * nf) nf .rd false
        { kind := 5, w := 0, n := nf, t := slotOf s c.fld, lat := 2 } := by
      unfold effDsnd
      simp only [w_issOf]
      rfl
    obtain ⟨hfull, hshort⟩ := gathers_begin (p := p) h (hf.trans (memUnits_issOf hacc _)) (keepsIssueState_memIncr _) (fun _ => rfl)
      ⟨rfl, rfl, rfl, rfl, rfl, rfl⟩ rfl (fun hk => absurd hk (by decide : (5 : Nat) ≠ 11))
    rw [show itemSize p = 128 from rfl, itemCore_flit (p := begun s c .drain w p) (by decide : (5 : Nat) ≠ 2) (by decide : (5 : Nat) ≠ 11),
      mkFlit_eq_flitAt] at hfull
    rw [show itemSize p = 128 from rfl] at hshort
    exact ⟨_, rfl, hfull, hshort, operand_waits h hf hacc rfl⟩

end Sys2Proof.Proofs.VectorTransfers
end

section
/-! SUPPORT. DRN: the first row drained to memory or as flits (O12). -/

namespace Sys2Proof.Proofs.Drains

open Sys2Proof.Machine Sys2Proof.Laws Sys2Proof.Proofs.Vector Sys2Proof.Proofs.Engines Sys2Proof.Proofs.Units Sys2Proof.Proofs.ScalarMemory

open Sys2Proof.Proofs.Transfers Sys2Proof.Proofs.VectorTransfers

/-! ## The first row of DRN -/

/-- The encodings and flags of the first row (R98, R114). -/
def drnRow (core : Core) (p : Prog) : List (Nat × Nat) :=
  (List.range (laneCount core)).map fun j => drnEntry p (laneCount core) 0 j (tabGet {} core.acc (64 * p.first + j))

/-- The row as the bytes that leave. -/
def drnValue (core : Core) (p : Prog) : Nat := packLanes (fmtBits p.dcfg.fmt.toNat) ((drnRow core p).map (·.1))

/-- Their number. -/
def drnBytes (core : Core) (p : Prog) : Nat := laneCount core * fmtBits p.dcfg.fmt.toNat / 8

/-- CLR clears the row and its flags (R206). -/
def drnClear (p : Prog) (x : Core) : Core := if p.dcfg.clr then { x with acc := tabClear (64 * p.first) 64 x.acc } else x

/-- The same on the state. -/
def drnCleared (s : State) (c : CoreId) (p : Prog) : State :=
  if p.dcfg.clr then modCore s (ckey c) fun x => { x with acc := tabClear (64 * p.first) 64 x.acc } else s

/-- The flits that the first row completes, the last one short where the row is the only one (R206). -/
def drnFlits (core : Core) (p : Prog) : List Nat :=
  (List.range (drnBytes core p / 128)).map (fun i => bitsOf (drnValue core p) (1024 * i) 1024) ++
    if p.n = 1 ∧ drnBytes core p % 128 ≠ 0 then [drnValue core p / 2 ^ (1024 * (drnBytes core p / 128))] else []

/-- The flits with their slots (R114, R206). -/
def drnSends (core : Core) (p : Prog) (u : Nat) : List (Nat × Flit) :=
  (drnFlits core p).zipIdx.map fun f => (u + 16 - ((drnFlits core p).length - 1) / 2 + f.2 / 2, { data := BitVec.ofNat 1024 f.1 })

section

variable {s : State} {c : CoreId} {p : Prog} {u : Nat}

theorem drnUnit_memory (hidx : p.idx = 0) (hflags : p.flags = 0) (hpend : pendingRow (coreAt s (ckey c)) p.first = false)
    (hbr : rowBruised (coreAt s (ckey c)) p.first = false) (hdst : bitsOf p.w.toNat 40 2 = 0) :
    drnUnit s c p u = .moved
      (countAct (putDie (drnCleared s c p) c
        { due := u + 16, oda := p.oda, n := drnBytes (coreAt s (ckey c)) p, v := drnValue (coreAt s (ckey c)) p }) c.fld actSram
          ((drnBytes (coreAt s (ckey c)) p + 127) / 128))
      { p with flags := orFlags ((drnRow (coreAt s (ckey c)) p).map (·.2)) } := by
  unfold drnUnit
  simp only [hidx, hflags, Nat.add_zero, hpend, hbr, hdst, Bool.false_eq_true, if_false, Nat.mul_zero, Nat.or_zero]
  rfl

theorem gather_first (v n : Nat) :
    gather 0 0 v n = ((List.range (n / 128)).map (fun i => bitsOf v (1024 * i) 1024), v / 2 ^ (1024 * (n / 128)), n % 128) := by
  simp only [gather, Nat.mul_zero, Nat.pow_zero, Nat.mul_one, Nat.zero_add]

theorem mkFlit_sound (v : Nat) : mkFlit v 0 = { data := BitVec.ofNat 1024 v } := rfl

theorem drnUnit_flits (hidx : p.idx = 0) (hflags : p.flags = 0) (hbuf : p.buf = 0) (hblen : p.blen = 0)
    (hpend : pendingRow (coreAt s (ckey c)) p.first = false) (hbr : rowBruised (coreAt s (ckey c)) p.first = false)
    (hdst : bitsOf p.w.toNat 40 2 ≠ 0) :
    drnUnit s c p u = .moved
      (modCore (drnCleared s c p) (ckey c) fun x => Sent x (bitsOf p.w.toNat 40 2) (bitsOf p.w.toNat 42 3) (drnSends (coreAt s (ckey c)) p u))
      { p with
        flags := orFlags ((drnRow (coreAt s (ckey c)) p).map (·.2))
        buf := if p.n = 1 then 0 else drnValue (coreAt s (ckey c)) p / 2 ^ (1024 * (drnBytes (coreAt s (ckey c)) p / 128))
        blen := if p.n = 1 then 0 else drnBytes (coreAt s (ckey c)) p % 128 } := by
  have hlast : (0 + 1 == p.n) = decide (p.n = 1) := by simp [eq_comm, Bool.beq_eq_decide_eq]
  have hfs (l : List Nat) (a b : Nat) : (if (decide (p.n = 1) && b != 0) = true then l ++ [a] else l) = l ++ if p.n = 1 ∧ b ≠ 0 then [a] else [] := by
    by_cases h : p.n = 1 ∧ b ≠ 0 <;> simp [h]
  unfold drnUnit
  simp only [hidx, hflags, hbuf, hblen, Nat.add_zero, hpend, hbr, Bool.false_eq_true, if_false, Nat.or_zero, gather_first, hlast, hfs, mkFlit_sound,
    toDest_eq, decide_eq_true_eq]
  rfl

end

/-- A change of the core that changes nothing need not be made. -/
theorem stands_keepCore {s s' s2 : State} {c : CoreId} {e : Engine} {w : BitVec 64} {r : Option Prog} {g : Task → Task}
    (hs : Stands s s' s2 c e w r g) {F : Core → Core} (hF : ∀ x, F x = x) : Stands s (modCore s' (ckey c) F) s2 c e w r g := by
  have hk (k : Nat) : coreAt (modCore s' (ckey c) F) k = coreAt s' k := by
    rw [coreAt_modCore]
    split
    · next h => rw [← h, hF]
    · rfl
  refine ⟨hs.tok, hs.prog, hs.task, fun x hx => ?others, ?core, fun k hne => ?cores, hs.rest⟩
  case others => rw [hk, hs.others x hx]
  case core => rw [hk]; exact hs.core
  case cores => rw [hk, hs.cores k hne]

theorem stands_drnCleared {s s' s2 : State} {c : CoreId} {e : Engine} {w : BitVec 64} {r : Option Prog} {g : Task → Task}
    (hs : Stands s s' s2 c e w r g) (p : Prog) : Stands s (modCore s' (ckey c) (drnClear p)) (drnCleared s2 c p) c e w r g := by
  unfold drnCleared drnClear
  split
  · exact stands_changeCore hs fun _ _ _ _ => rfl
  · exact stands_keepCore hs fun _ => rfl

/-- Two changes of the core made one after the other are one change. -/
theorem stands_twice {s s' s2 : State} {c : CoreId} {e : Engine} {w : BitVec 64} {r : Option Prog} {g : Task → Task} {F G : Core → Core}
    (hs : Stands s (modCore (modCore s' (ckey c) F) (ckey c) G) s2 c e w r g) : Stands s (modCore s' (ckey c) fun x => G (F x)) s2 c e w r g := by
  have hk (k : Nat) : coreAt (modCore (modCore s' (ckey c) F) (ckey c) G) k = coreAt (modCore s' (ckey c) fun x => G (F x)) k := by
    simp only [coreAt_modCore]
    split <;> simp
  obtain ⟨htok, hprog, htask, hothers, hcore, hcores, hrest⟩ := hs
  rw [hk] at hcore
  refine ⟨htok, hprog, htask, fun x hx => ?_, hcore, fun k hne => ?_, hrest⟩
  · rw [← hk]; exact hothers x hx
  · rw [← hk]; exact hcores k hne

section

variable {s : State} {c : CoreId} {opc : Nat} {w : BitVec 64} {f : Iss → Res} {p : Prog} {g : Task → Task}

/-- The record of a DRN that begins. -/
structure DrnStarts (s : State) (c : CoreId) (p : Prog) : Prop where
  kind : p.kind = 4
  rq : p.rq = false
  idx : p.idx = 0
  held : p.held = false
  flags : p.flags = 0
  buf : p.buf = 0
  blen : p.blen = 0
  slots : p.slots = []
  step : 1 ≤ p.step
  pend : pendingRow (coreAt s (ckey c)) p.first = false
  sound : rowBruised (coreAt s (ckey c)) p.first = false

/-- What the first row finds: the core but for tokens, tasks and records. -/
theorem drnStand (hp : DrnStarts s c p) (w : BitVec 64) (g : Task → Task) :
    let x := coreAt (notedStand s c .drain w p g) (ckey c)
    Stands s s (notedStand s c .drain w p g) c .drain w (some (begun s c .drain w p)) g ∧ pendingRow x p.first = false ∧
      rowBruised x p.first = false ∧ drnRow x (begun s c .drain w p) = drnRow (coreAt s (ckey c)) p ∧
      drnBytes x (begun s c .drain w p) = drnBytes (coreAt s (ckey c)) p := by
  intro x
  have hs := stands_notedStand s c .drain w p g
  have hnote : unitNote s c p = s := by
    have hreads : unitReads p = none := by simp [unitReads, hp.rq, hp.kind]
    rw [unitNote, hreads]
  rw [unitNote_begun, hnote] at hs
  have hcore : x = _ := hs.core
  refine ⟨hs, ?_, ?_, ?_, ?_⟩
  · rw [hcore]; exact hp.pend
  · rw [hcore]; exact hp.sound
  · rw [hcore]; rfl
  · rw [hcore]; rfl

/-- The unit of DRN is its row. -/
theorem oneUnit_drn {x : State} {p : Prog} {u : Nat} (hkind : p.kind = 4) (hrq : p.rq = false) : oneUnit x c p u = drnUnit x c p u := by
  unfold oneUnit
  simp only [hkind, hrq, Bool.false_eq_true, if_false]

/-- A unit without a wheel is due in the slot of issue. -/
theorem unitSlot_begun (hslots : p.slots = []) (hidx : p.idx = 0) (e : Engine) : unitSlot (begun s c e w p) p.idx ≤ slotOf s c.fld := by
  have hs0 : (begun s c e w p).slots = [] := hslots
  rw [unitSlot, hs0, hidx]
  exact le_rfl

/-- DRN to memory begins with the store of its first row (R206). -/
theorem drn_stores (hp : DrnStarts s c p) (h : MayIssue s c .drain opc w) (hf : f (issOf s c .drain w) = startUnits (issOf s c .drain w) p g)
    (hg : KeepsIssueState g) (hdst : bitsOf w.toNat 40 2 = 0) :
    UnitsBegin s (issue s c .drain opc w f)
      (countAct (putDie (modCore s (ckey c) (drnClear p)) c
        { due := slotOf s c.fld + 16, oda := p.oda, n := drnBytes (coreAt s (ckey c)) p, v := drnValue (coreAt s (ckey c)) p }) c.fld actSram
          ((drnBytes (coreAt s (ckey c)) p + 127) / 128))
      c .drain w { p with flags := orFlags ((drnRow (coreAt s (ckey c)) p).map (·.2)), idx := 1 } g := by
  obtain ⟨hs, hpend, hsound, hrow, hbytes⟩ := drnStand hp w g
  have hvalue : drnValue (coreAt (notedStand s c .drain w p g) (ckey c)) (begun s c .drain w p) = drnValue (coreAt s (ckey c)) p := by
    rw [drnValue, hrow]
    rfl
  have hmove := (oneUnit_drn (p := begun s c .drain w p) hp.kind hp.rq).trans (drnUnit_memory (c := c) (u := slotOf s c.fld) (p := begun s c .drain w p) hp.idx hp.flags
    hpend hsound hdst)
  rw [hbytes, hrow, hvalue] at hmove
  exact unitsBegin_of_moved h hf (unitSlot_begun hp.slots hp.idx .drain) hmove (((stands_drnCleared hs p).changeField _ _).changeField _ _) hg hp.step
    (by rw [show (begun s c .drain w p).idx = 0 from hp.idx, ← hp.held]; rfl)

/-- DRN by flits begins with those that its first row completes (R206). -/
theorem drn_sends (hp : DrnStarts s c p) (h : MayIssue s c .drain opc w) (hf : f (issOf s c .drain w) = startUnits (issOf s c .drain w) p g)
    (hg : KeepsIssueState g) (hdst : bitsOf w.toNat 40 2 ≠ 0) :
    UnitsBegin s (issue s c .drain opc w f)
      (modCore s (ckey c) fun x => Sent (drnClear p x) (bitsOf w.toNat 40 2) (bitsOf w.toNat 42 3)
        (drnSends (coreAt s (ckey c)) p (slotOf s c.fld)))
      c .drain w
      { p with
        flags := orFlags ((drnRow (coreAt s (ckey c)) p).map (·.2)), idx := 1
        buf := if p.n = 1 then 0 else drnValue (coreAt s (ckey c)) p / 2 ^ (1024 * (drnBytes (coreAt s (ckey c)) p / 128))
        blen := if p.n = 1 then 0 else drnBytes (coreAt s (ckey c)) p % 128 } g := by
  obtain ⟨hs, hpend, hsound, hrow, hbytes⟩ := drnStand hp w g
  have hvalue : drnValue (coreAt (notedStand s c .drain w p g) (ckey c)) (begun s c .drain w p) = drnValue (coreAt s (ckey c)) p := by
    rw [drnValue, hrow]
    rfl
  have hflits : drnFlits (coreAt (notedStand s c .drain w p g) (ckey c)) (begun s c .drain w p) = drnFlits (coreAt s (ckey c)) p := by
    rw [drnFlits, hvalue, hbytes]
    rfl
  have hsends : drnSends (coreAt (notedStand s c .drain w p g) (ckey c)) (begun s c .drain w p) (slotOf s c.fld) =
      drnSends (coreAt s (ckey c)) p (slotOf s c.fld) := by rw [drnSends, hflits, drnSends]
  have hmove := (oneUnit_drn (p := begun s c .drain w p) hp.kind hp.rq).trans (drnUnit_flits (c := c) (u := slotOf s c.fld) (p := begun s c .drain w p) hp.idx hp.flags
    hp.buf hp.blen hpend hsound hdst)
  rw [hbytes, hrow, hvalue, hsends] at hmove
  exact unitsBegin_of_moved h hf (unitSlot_begun hp.slots hp.idx .drain) hmove
    (stands_twice (stands_changeCore (stands_drnCleared hs p) (apart_sent _ _ _))) hg hp.step
    (by rw [show (begun s c .drain w p).idx = 0 from hp.idx, ← hp.held]; rfl)

end

/-! ## DRN -/

theorem effDrn_issOf {s : State} {c : CoreId} {w : BitVec 64} :
    let task := taskOf (coreAt s (ckey c)) .drain
    let d := task.dcfg
    let row := bitsOf w.toNat 19 9 + aregGet task (bitsOf w.toNat 28 3)
    let nr := bitsOf w.toNat 31 9 + 1
    let bytes := laneCount (coreAt s (ckey c)) * fmtBits d.fmt.toNat / 8
    let p : Prog :=
      { kind := 4, w := 0, n := nr, t := slotOf s c.fld, step := if d.fmt = 15 then 4 else 1, first := row, dcfg := d, gen := task.gen
        policy := policyOf s c.fld (fieldOf s c.fld).cond.owner, lat := 16 }
    d.fmt ≠ 0 → row + nr ≤ accRows (coreAt s (ckey c)) row →
    effDrn (issOf s c .drain w) = if bitsOf w.toNat 40 2 = 0 then memUnits (issOf s c .drain w) 42 (nr * bytes) nr .wr true p
      else startUnits (issOf s c .drain w) p id := by
  intro task d row nr bytes p hfmt hrows
  have hcore : (issOf s c .drain w).core = takeTokens (coreAt s (ckey c)) (waitOf s c .drain w) := coreAt_issOf s c .drain w
  have hacc : accRows (takeTokens (coreAt s (ckey c)) (waitOf s c .drain w)) row = accRows (coreAt s (ckey c)) row := rfl
  have hlanes : laneCount (takeTokens (coreAt s (ckey c)) (waitOf s c .drain w)) = laneCount (coreAt s (ckey c)) := rfl
  unfold effDrn
  simp only [w_issOf, task_issOf, hcore]
  rw [if_neg hfmt, if_neg (Nat.not_lt.2 (hacc.symm ▸ hrows)), hlanes]
  rfl

/-- An access through a window onto core memory has no wheel (R160, R233). -/
theorem accessSlots_core {s : State} {c : CoreId} {e : Engine} {win o n oda t m : Nat} {r : Right} (h : dieAccess s c win r o n = some oda)
    (hspace : winSpace win = 0) : accessSlots s c e t oda m = none := by
  have haccess : winAccess c win r o n = some oda := by
    unfold dieAccess at h
    split at h
    · next hw =>
      split at h
      · exact hw.trans h
      · exact absurd h (by simp)
    · exact absurd h (by simp)
  have hplace : 64 * bitsOf win 0 22 + o + n ≤ coreMemSize c.cor ∧ oda = coreBase c + (64 * bitsOf win 0 22 + o) := by
    unfold winAccess at haccess
    simp only [hspace, true_and] at haccess
    split at haccess
    · split at haccess
      · next hin => exact ⟨hin, (Option.some.inj haccess).symm⟩
      · simp at haccess
    · simp at haccess
  obtain ⟨hin, rfl⟩ := hplace
  have hsize : coreMemSize c.cor ≤ 2 ^ 20 := by unfold coreMemSize; split <;> norm_num
  have hbun : (c.bun : Nat) < 36 := c.bun.isLt
  have hcor : (c.cor : Nat) < 8 := c.cor.isLt
  have hbit : bitOf (coreBase c + (64 * bitsOf win 0 22 + o)) 33 = true := by
    rw [bitOf, beq_iff_eq, coreBase]
    omega
  rw [accessSlots, if_pos hbit]

/-- An access of DRN to core memory has no wheel, and a unit for each row (R206, R233). -/
theorem memUnits_core {s : State} {c : CoreId} {e : Engine} {w : BitVec 64} {b bytes units oda : Nat} {r : Right} (p : Prog)
    (hwin : coreWin (taskOf (coreAt s (ckey c)) e) (memOp w.toNat b).win = true)
    (h : dieAccess s c (winOf (taskOf (coreAt s (ckey c)) e) (memOp w.toNat b).win) r (memOffset (taskOf (coreAt s (ckey c)) e) (memOp w.toNat b)) bytes =
      some oda) :
    memUnits (issOf s c e w) b bytes units r true p =
      startUnits (issOf s c e w) { p with oda := oda, total := bytes, n := units, slots := [] } (memIncr (memOp w.toNat b)) := by
  have hplace' : dieAccess (issOf s c e w).s (issOf s c e w).c (winOf (taskOf (coreAt s (ckey c)) e) (memOp w.toNat b).win) r
      (memOffset (taskOf (coreAt s (ckey c)) e) (memOp w.toNat b)) bytes = some oda := h
  have hunits' : accessUnits (issOf s c e w) oda bytes units = some (units, []) := by
    have hslots : accessSlots (issOf s c e w).s (issOf s c e w).c (issOf s c e w).e (issOf s c e w).t oda bytes = none :=
      accessSlots_core (s := (issOf s c e w).s) hplace' (beq_iff_eq.1 hwin)
    rw [accessUnits, hslots]
  simp only [memUnits, placeUnits, task_issOf, w_issOf, hplace', hunits', hwin, Bool.not_true, Bool.and_false, Bool.false_eq_true, if_false]

/-- The record of DRN as it begins. -/
def drnProg (s : State) (c : CoreId) (w : BitVec 64) : Prog :=
  let task := taskOf (coreAt s (ckey c)) .drain
  { kind := 4, w := w, n := bitsOf w.toNat 31 9 + 1, t := slotOf s c.fld, step := if task.dcfg.fmt = 15 then 4 else 1
    first := bitsOf w.toNat 19 9 + aregGet task (bitsOf w.toNat 28 3), dcfg := task.dcfg, gen := task.gen
    policy := policyOf s c.fld (fieldOf s c.fld).cond.owner, lat := 16 }

theorem drnStarts_drnProg {s : State} {c : CoreId} {w : BitVec 64} (hpend : pendingRow (coreAt s (ckey c)) (drnProg s c w).first = false)
    (hsound : rowBruised (coreAt s (ckey c)) (drnProg s c w).first = false) (oda total : Nat) :
    DrnStarts s c { drnProg s c w with oda := oda, total := total } := by
  have hstep : 1 ≤ (drnProg s c w).step := by
    show 1 ≤ if _ then 4 else 1
    split <;> norm_num
  exact ⟨rfl, rfl, rfl, rfl, rfl, rfl, rfl, rfl, hstep, hpend, hsound⟩

theorem drainBegins : DrainBegins := by
  intro s c w h k u core task d row nr lanes bytes dst p l v cleared hfmt hrows hpend hsound
  have hp := drnStarts_drnProg (w := w) hpend hsound
  have hf := effDrn_issOf hfmt hrows
  have hrow (oda total : Nat) : drnRow core { drnProg s c w with oda := oda, total := total } = l := rfl
  have hvalue (oda total : Nat) : drnValue core { drnProg s c w with oda := oda, total := total } = v := rfl
  have hbytes (oda total : Nat) : drnBytes core { drnProg s c w with oda := oda, total := total } = bytes := rfl
  have hclear (oda total : Nat) : drnClear { drnProg s c w with oda := oda, total := total } = cleared := rfl
  refine ⟨?memory, ?flits⟩
  case memory =>
    intro oda hdst hwin hacc
    have hunits := (hf.trans (if_pos hdst)).trans (memUnits_core _ hwin hacc)
    have hf' : effDrn (issOf s c .drain w) =
      startUnits (issOf s c .drain w) { drnProg s c w with oda := oda, total := nr * bytes } (memIncr (memOp w.toNat 42)) := hunits
    have hbegin := drn_stores (hp oda (nr * bytes)) h hf' (keepsIssueState_memIncr _) hdst
    rw [hvalue, hbytes, hrow, hclear] at hbegin
    exact ⟨_, rfl, hbegin⟩
  case flits =>
    intro hdst whole left fs out
    have hf' : effDrn (issOf s c .drain w) = startUnits (issOf s c .drain w) { drnProg s c w with oda := 0, total := 0 } id := hf.trans (if_neg hdst)
    have hsends : drnSends core { drnProg s c w with oda := 0, total := 0 } u = out := by
      rw [drnSends, drnFlits, hvalue, hbytes]
      rfl
    have hbegin := drn_sends (hp 0 0) h hf' keepsIssueState_id hdst
    rw [hsends, hvalue, hbytes, hrow, hclear] at hbegin
    exact ⟨_, rfl, hbegin⟩

/-- Settles O12: the flits of VST and DSND, and the first row of DRN. -/
theorem flitSendersAndDrainsBegin : Obligations.FlitSendersAndDrainsBegin := ⟨flitSendersBegin, drainBegins⟩

end Sys2Proof.Proofs.Drains
end

section
/-! SUPPORT. The matrix core's stationary load and pass as they begin (O13, O14). -/

namespace Sys2Proof.Proofs.Matrix

open Sys2Proof.Machine Sys2Proof.Laws Sys2Proof.Proofs.Vector Sys2Proof.Proofs.Engines Sys2Proof.Proofs.Units

/-! ## Instructions that change their core -/

/-- `s'` is the state of the issue with the core changed by `F` and its task by `g`; outside the cores, anything. -/
structure ChangesCore (s s' : State) (c : CoreId) (e : Engine) (w : BitVec 64) (F : Core → Core) (g : Task → Task) : Prop where
  tok : (coreAt s' (ckey c)).tok = (takeTokens (coreAt s (ckey c)) (waitOf s c e w)).tok
  core : coreAt s' (ckey c) = { F (coreAt s (ckey c)) with tok := (coreAt s' (ckey c)).tok, tasks := (coreAt s' (ckey c)).tasks }
  task : ∀ x, taskOf (coreAt s' (ckey c)) x = if e = x then g (taskOf (coreAt s (ckey c)) e) else taskOf (coreAt s (ckey c)) x
  other : ∀ k, k ≠ ckey c → coreAt s' k = coreAt s k

/-- Such a change has no part in the tokens and the tasks. -/
theorem changesCore_modTask (s : State) (c : CoreId) (e : Engine) (w : BitVec 64) {F : Core → Core} (g : Task → Task)
    (hF : ∀ (x : Core) tok tasks, F { x with tok := tok, tasks := tasks } = { F x with tok := tok, tasks := tasks }) :
    ChangesCore s (modCore (issOf s c e w).s (ckey c) fun x => modTask (F x) e g) c e w F g := by
  have hissue : takeTokens (coreAt s (ckey c)) (waitOf s c e w) =
      { coreAt s (ckey c) with tok := (takeTokens (coreAt s (ckey c)) (waitOf s c e w)).tok, tasks := (coreAt s (ckey c)).tasks } := rfl
  have hcore : coreAt (modCore (issOf s c e w).s (ckey c) fun x => modTask (F x) e g) (ckey c) =
      modTask { F (coreAt s (ckey c)) with tok := (takeTokens (coreAt s (ckey c)) (waitOf s c e w)).tok, tasks := (coreAt s (ckey c)).tasks } e g := by
    rw [coreAt_modCore, if_pos rfl, coreAt_issOf, hissue, hF]
  constructor
  case tok => rw [hcore]; rfl
  case core => rw [hcore]; rfl
  case task => intro x; rw [hcore, taskOf_modTask]; rfl
  case other => intro k hk; rw [coreAt_modCore, if_neg hk.symm, coreAt_issOf_other _ _ _ _ hk]

section

variable {s s' : State} {c : CoreId} {e : Engine} {opc : Nat} {w : BitVec 64} {f : Iss → Res} {d : Done} {F : Core → Core} {g : Task → Task}

/-- The issue of such an instruction that does not jump. -/
theorem issue_of_changesCore (h : MayIssue s c e opc w) (hgo : f (issOf s c e w) = .go s' d) (hs : ChangesCore s s' c e w F g)
    (hg : KeepsIssueState g) (hfl : d.inFlight = true) (hpc : d.pc = none) (hpace : d.pace = .run) (hnext : slotOf s c.fld ≤ d.next) :
    Issues s (issue s c e opc w f) c e w (nextPc s c e) d.next d.fin ∧ TaskIs s (issue s c e opc w f) c e g ∧
      (taskOf (coreAt (issue s c e opc w f) (ckey c)) e).flights = (taskOf (coreAt s (ckey c)) e).flights ++
        [{ done := d.fin, onAccept := d.onAccept, onSync := d.onSync, onPass := d.onPass
           post := BitVec.ofNat 16 (postMask (taskOf (coreAt s (ckey c)) e).masks w.toNat), slot := d.slot, flags := BitVec.ofNat 8 d.flags }] ∧
      coreAt (issue s c e opc w f) (ckey c) = { F (coreAt s (ckey c)) with
        tok := (coreAt (issue s c e opc w f) (ckey c)).tok, tasks := (coreAt (issue s c e opc w f) (ckey c)).tasks } ∧
      issue s c e opc w f = { s' with cor := (issue s c e opc w f).cor } := by
  obtain ⟨gpc, gready, gpace, gflights⟩ := hg (taskOf (coreAt s (ckey c)) e)
  obtain ⟨hready, hrun⟩ := ready_and_running_of_engineFree h.1
  have htask : taskOf (coreAt s' (ckey c)) e = g (taskOf (coreAt s (ckey c)) e) := by rw [hs.task, if_pos rfl]
  have hmax : max (taskOf (coreAt s' (ckey c)) e).ready d.next = d.next := by
    rw [htask, gready]
    exact max_eq_right (le_trans hready hnext)
  have hrecord : taskOf (coreAt (issue s c e opc w f) (ckey c)) e =
      record (postMask (taskOf (coreAt s (ckey c)) e).masks w.toNat) d (g (taskOf (coreAt s (ckey c)) e)) := by
    rw [issue_go h hgo, coreAt_modCore, if_pos rfl, taskOf_modTask, if_pos rfl, htask]
  refine ⟨?issues, ?task, ?flights, ?core, ?rest⟩
  case issues =>
    have hissues := issues_of_go h hgo hfl hs.tok (fun x hx => by rw [hs.task, if_neg hx.symm]) (by rw [htask, gpc])
      (by rw [htask, gflights]) hs.other
    rw [hmax, hpc] at hissues
    exact hissues
  case task => rw [TaskIs, hrecord, record, hpace, ← gpace.trans hrun]
  case flights => rw [hrecord, record_flights _ _ _ hfl, gflights]
  case core =>
    rw [issue_go h hgo, coreAt_modCore, if_pos rfl, hs.core]
    rfl
  case rest =>
    rw [issue_go h hgo]
    rfl

end

/-! ## LSTAT -/

/-- What LSTAT does to its core: a load begins (R110). -/
def beginsLoad (x : StatSrc) (t : Nat) (core : Core) : Core := { core with loads := core.loads ++ [{ src := x, t := t }] }

/-- The checks of LSTAT pass (R110, R202, R296). -/
theorem effLstat_passes {i : Iss} {oda0 : Nat} :
    let fmt := bitsOf i.w 39 4
    let tr := bitOf i.w 43
    let m := memOp i.w 19
    let win := winOf i.task m.win
    let o := memOffset i.task m
    let x : StatSrc := { base := oda0 - o - coreBase i.c, off := o, win := win, fmt := fmt, tr := tr }
    let h0 := srcHdr i.s (coreBase i.c) x o
    let o1 := secondTile o h0
    let h1 := srcHdr i.s (coreBase i.c) x o1
    i.core.entered ≤ i.t → i.core.replay = 0 → i.core.loads = [] → coreWin i.task m.win = true →
    dieAccess i.s i.c win .rd o 32 = some oda0 → tileHdrOk h0 fmt tr = true → TileInside i.s i.c win o h0 →
    (fmtBits fmt ≤ 6 → (dieAccess i.s i.c win .rd o1 32).isSome = true ∧ tileHdrOk h1 fmt tr = true ∧ TileInside i.s i.c win o1 h1) →
    effLstat i = .go (modCore i.s i.k fun y => modTask (beginsLoad x i.t y) i.e (memIncr m)) { next := i.t + 64, fin := i.t + 63 } := by
  intro fmt tr m win o x h0 o1 h1 hentered hreplay hloads hwin hacc hok hin htwo
  have hside {q : Nat} {h : TileHdr} (hi : TileInside i.s i.c win q h) :
      (decide (0 ≤ (q : Int) + (tileExtent h).1) &&
        (dieAccess i.s i.c win .rd ((q : Int) + (tileExtent h).1).toNat ((tileExtent h).2 - (tileExtent h).1).toNat).isSome) = true := by
    rw [Bool.and_eq_true, decide_eq_true_eq]
    exact hi
  unfold effLstat
  rw [if_neg (Nat.not_lt.2 hentered), if_neg (not_not.2 hreplay), if_neg (by rw [hloads]; simp), if_neg (by rw [hwin]; simp)]
  rw [hacc]
  have hsecond : ¬ (twoTiles fmt && (dieAccess i.s i.c win .rd o1 32).isNone) = true := by
    intro hc
    rw [Bool.and_eq_true, twoTiles, decide_eq_true_eq] at hc
    rw [Option.isNone_iff_eq_none.1 hc.2] at htwo
    exact absurd (htwo hc.1).1 (by simp)
  have hheaders : ¬ (!tileHdrOk h0 fmt tr || (twoTiles fmt && !tileHdrOk (if twoTiles fmt then h1 else h0) fmt tr)) = true := by
    intro hc
    rw [hok, Bool.not_true, Bool.false_or, Bool.and_eq_true] at hc
    obtain ⟨hc2, hc⟩ := hc
    rw [if_pos hc2, (htwo (of_decide_eq_true hc2)).2.1] at hc
    exact absurd hc (by decide)
  dsimp only
  rw [if_neg hsecond, if_neg hheaders, if_neg (by rw [hside hin]; decide)]
  rw [if_neg]
  · rfl
  · intro hc
    rw [Bool.and_eq_true] at hc
    obtain ⟨hc2, hc⟩ := hc
    rw [if_pos hc2, hside (htwo (of_decide_eq_true hc2)).2.2] at hc
    exact absurd hc (by decide)

theorem stationaryLoadBegins : StationaryLoadBegins := by
  intro s c w oda0 h k core task fmt tr m win o x h0 o1 h1 hentered hreplay hloads hwin hacc hok hin htwo
  have hgo := effLstat_passes (i := issOf s c .load w) (oda0 := oda0)
  rw [core_issOf, task_issOf, w_issOf, bitOf_toNat] at hgo
  have hgo := hgo hentered hreplay hloads hwin hacc hok hin htwo
  have hs := changesCore_modTask s c .load w (F := beginsLoad x (slotOf s c.fld)) (memIncr m) fun _ _ _ => rfl
  obtain ⟨hissues, htask, -, hcore, hrest⟩ := issue_of_changesCore h hgo hs (keepsIssueState_memIncr m) rfl rfl rfl (Nat.le_add_right _ _)
  refine ⟨_, rfl, hissues, htask, ?_, hrest⟩
  rw [beginsLoad, hloads] at hcore
  exact hcore

/-! ## PASS -/

/-- The slots between two vectors of a pass (R112, R130). -/
def passStep (core : Core) (afmt : Nat) : Nat := (if fmtBits afmt = 16 then 2 else 1) * if checkColumns core = 0 ∧ (core.spot + 1) % 256 = 0 then 2 else 1

theorem passStep_pos (core : Core) (afmt : Nat) : 0 < passStep core afmt := by
  unfold passStep
  split <;> split <;> norm_num

theorem passStep_spotPass (core : Core) (afmt : Nat) :
    (if (decide (fmtBits afmt = 16)) = true then 2 else 1) * (if spotPass core = true then 2 else 1) = passStep core afmt := by
  simp only [passStep, spotPass, decide_eq_true_eq, Bool.and_eq_true, beq_iff_eq]

/-- What PASS does to its core (R111, R112). -/
def entersPass (p : PassRun) (core : Core) : Core :=
  { core with
    passes := core.passes ++ [p]
    pipe := core.pipe ++ (List.range p.nv).map fun v => { pass := p.num, v := v, due := p.t + p.step * (v + 1) - 1 + 128 }
    spot := core.spot + 1, entered := p.t + p.step * p.nv }

/-- The record of a pass that has read no line (R204). -/
abbrev passBlank (i : Iss) (set : StatSet) : PassRun :=
  { num := i.core.spot, stat := set, afmt := i.task.afmt.toNat, anch := bitsOf i.w 48 8, ovw := bitOf i.w 47, slot := i.task.mslot.toNat
    row := bitsOf i.w 19 9 + aregGet i.task (bitsOf i.w 56 3)
    base := (bitsOf i.w 28 10 + aregGet i.task (bitsOf i.w 59 3)) % lineCountOf (lineSize i.task.afmt.toNat)
    nv := bitsOf i.w 38 9 + 1, t := i.t, step := passStep i.core i.task.afmt.toNat, spot := spotPass i.core, left := bitsOf i.w 38 9 + 1 }

/-- The record of a pass that enters, with its first line (R105, R204). -/
def passRecord (i : Iss) (set : StatSet) : PassRun :=
  { passBlank i set with
    lines := [BitVec.ofNat 1024 (memRead i.core.act ((passBlank i set).base * lineSize i.task.afmt.toNat) (lineSize i.task.afmt.toNat))]
    sides := [tabGet 0 i.core.side (passBlank i set).base] }

theorem passLine_blank (i : Iss) (set : StatSet) :
    passLine i.core (passBlank i set) 0 =
      (BitVec.ofNat 1024 (memRead i.core.act ((passBlank i set).base * lineSize i.task.afmt.toNat) (lineSize i.task.afmt.toNat)),
        tabGet 0 i.core.side (passBlank i set).base, lineBruised i.core (lineSize i.task.afmt.toNat) (passBlank i set).base ||
          (fmtBits i.task.afmt.toNat != 16 && tabGet false i.core.sideBr ((passBlank i set).base / 16))) := by
  unfold passLine
  simp only [Nat.add_zero, Nat.mod_mod, Nat.succ_pos, decide_true, Bool.true_and]

theorem readLine_blank (i : Iss) (set : StatSet) : readLine i.core (passBlank i set) = passRecord i set := by
  have hread : readLine i.core (passBlank i set) = { passBlank i set with
    lines := [(passLine i.core (passBlank i set) 0).1], sides := [(passLine i.core (passBlank i set) 0).2.1] } := rfl
  rw [hread, passLine_blank]
  rfl

/-- The checks of PASS pass (R115, R204). -/
theorem effPass_passes {i : Iss} {set : StatSet} :
    let afmt := i.task.afmt.toNat
    let wide := fmtBits afmt = 16
    let size := lineSize afmt
    let p := passRecord i set
    i.core.replay = 0 → i.core.loads = [] → i.core.stat = some set → set.done < i.t → fmtPair afmt set.fmt.toNat = true → set.valid = true →
    set.bruised = false → p.row + p.nv ≤ (if wide then 256 else 512) → p.nv + 63 ≤ lineCountOf size → lineBruised i.core size p.base = false →
    (¬ wide → tabGet false i.core.sideBr (p.base / 16) = false) →
    effPass i = .go
      (countAct (countAct (modCore i.s i.k (entersPass p)) i.c.fld actCells (p.step * p.nv * 64 * (laneCount i.core - set.zero.length))) i.c.fld actGated
        (p.step * p.nv * set.zero.length))
      { next := i.t + p.step * p.nv, fin := 0, slot := p.slot, onPass := p.num + 1 } := by
  intro afmt wide size p hreplay hloads hstat hdone hpair hvalid hbruised hrows hlines hline hside
  have hpos : 0 < p.step * p.nv := Nat.mul_pos (passStep_pos _ _) (Nat.succ_pos _)
  unfold effPass
  rw [if_neg (not_not.2 hreplay), if_neg (by rw [hloads]; simp), hstat]
  dsimp only
  rw [if_neg (Nat.not_le.2 hdone), if_neg (by rw [hpair, hvalid]; decide)]
  rw [if_neg (by simp only [decide_eq_true_eq]; exact not_or.2 ⟨Nat.not_lt.2 hrows, Nat.not_lt.2 hlines⟩)]
  have hlast : i.t + p.step * p.nv - 1 + 1 = i.t + p.step * p.nv := by omega
  have hclean : ¬ (set.bruised || (passLine i.core (passBlank i set) 0).2.2) = true := by
    rw [hbruised, passLine_blank, Bool.false_or]
    by_cases hwide : fmtBits afmt = 16
    · simp [show lineBruised i.core (lineSize i.task.afmt.toNat) (passBlank i set).base = false from hline, show fmtBits i.task.afmt.toNat = 16 from hwide]
    · simp [show lineBruised i.core (lineSize i.task.afmt.toNat) (passBlank i set).base = false from hline,
        show tabGet false i.core.sideBr ((passBlank i set).base / 16) = false from hside hwide]
  simp only [passStep_spotPass]
  rw [if_neg hclean, readLine_blank]
  show Res.go (countAct (countAct (modCore i.s i.k fun y => { entersPass p y with entered := i.t + p.step * p.nv - 1 + 1 }) _ _ _) _ _ _)
    { next := i.t + p.step * p.nv - 1 + 1, fin := 0, slot := p.slot, onPass := p.num + 1 } = _
  rw [hlast]
  rfl

/-- The same as the change of the core alone. -/
theorem changesCore_modCore (s : State) (c : CoreId) (e : Engine) (w : BitVec 64) {F : Core → Core}
    (hF : ∀ (x : Core) tok tasks, F { x with tok := tok, tasks := tasks } = { F x with tok := tok, tasks := tasks }) :
    ChangesCore s (modCore (issOf s c e w).s (ckey c) F) c e w F id := by
  have hissue : takeTokens (coreAt s (ckey c)) (waitOf s c e w) =
      { coreAt s (ckey c) with tok := (takeTokens (coreAt s (ckey c)) (waitOf s c e w)).tok, tasks := (coreAt s (ckey c)).tasks } := rfl
  have hcore : coreAt (modCore (issOf s c e w).s (ckey c) F) (ckey c) =
      { F (coreAt s (ckey c)) with tok := (takeTokens (coreAt s (ckey c)) (waitOf s c e w)).tok, tasks := (coreAt s (ckey c)).tasks } := by
    rw [coreAt_modCore, if_pos rfl, coreAt_issOf, hissue, hF]
  constructor
  case tok => rw [hcore]
  case core => rw [hcore]
  case task =>
    intro x
    rw [hcore]
    split
    · next h => rw [h]; rfl
    · rfl
  case other => intro k hk; rw [coreAt_modCore, if_neg hk.symm, coreAt_issOf_other _ _ _ _ hk]

/-- A field counts nothing of the cores. -/
theorem ChangesCore.countAct {s s' : State} {c : CoreId} {e : Engine} {w : BitVec 64} {F : Core → Core} {g : Task → Task}
    (h : ChangesCore s s' c e w F g) (f key n : Nat) : ChangesCore s (countAct s' f key n) c e w F g := ⟨h.tok, h.core, h.task, h.other⟩

theorem spotPass_eq (core : Core) : spotPass core = decide (checkColumns core = 0 ∧ (core.spot + 1) % 256 = 0) := by
  rw [spotPass, Bool.decide_and, beq_eq_decide, beq_eq_decide]

theorem countAct_setCor (s : State) (x : Tab Core) (f key n : Nat) : countAct { s with cor := x } f key n = { countAct s f key n with cor := x } := rfl

/-- A pass that passes its checks has entered (R111, R112, R115). -/
theorem pass_enters {s : State} {c : CoreId} {w : BitVec 64} {p : PassRun} {cells gated : Nat} (h : MayIssue s c .mac 0x21 w)
    (hgo : effPass (issOf s c .mac w) = .go
      (countAct (countAct (modCore (issOf s c .mac w).s (ckey c) (entersPass p)) c.fld actCells cells) c.fld actGated gated)
      { next := slotOf s c.fld + p.step * p.nv, fin := 0, slot := p.slot, onPass := p.num + 1 }) :
    let t := issue s c .mac 0x21 w effPass
    Issues s t c .mac w (nextPc s c .mac) (slotOf s c.fld + p.step * p.nv) 0 ∧ TaskIs s t c .mac id ∧
      (((taskOf (coreAt t (ckey c)) .mac).flights.getLast?).map fun x => (x.onPass, x.slot)) = some (p.num + 1, p.slot) ∧
      coreAt t (ckey c) = { entersPass p (coreAt s (ckey c)) with tok := (coreAt t (ckey c)).tok, tasks := (coreAt t (ckey c)).tasks } ∧
      t = { countAct (countAct s c.fld actCells cells) c.fld actGated gated with cor := t.cor } := by
  have hs := ((changesCore_modCore s c .mac w (F := entersPass p) fun _ _ _ => rfl).countAct c.fld actCells cells).countAct c.fld actGated gated
  obtain ⟨hissues, htask, hflights, hcore, hrest⟩ := issue_of_changesCore h hgo hs keepsIssueState_id rfl rfl rfl (Nat.le_add_right _ _)
  have hcor : modCore (issOf s c .mac w).s (ckey c) (entersPass p) = { s with cor := (modCore (issOf s c .mac w).s (ckey c) (entersPass p)).cor } := rfl
  rw [hcor, countAct_setCor, countAct_setCor] at hrest
  refine ⟨hissues, htask, ?_, hcore, hrest⟩
  rw [hflights, List.getLast?_concat]
  rfl

/-- Settles O14: PASS passes its checks, and enters its vectors. -/
theorem passEntersItsVectors : Obligations.PassEntersItsVectors := by
  intro s c w set h k core task u wide size nv row base spot step hreplay hloads hstat hdone hpair hvalid hbruised hrows hlines hline hside
  have hp : passRecord (issOf s c .mac w) set =
      { num := core.spot, stat := set, afmt := task.afmt.toNat, anch := bitsOf w.toNat 48 8, ovw := w.getLsbD 47, slot := task.mslot.toNat
        row := row, base := base, nv := nv, t := u, step := step, spot := decide spot, left := nv
        lines := [BitVec.ofNat 1024 (memRead core.act (base * size) size)], sides := [tabGet 0 core.side base] } := by
    unfold passRecord passBlank
    simp only [core_issOf, task_issOf, w_issOf, bitOf_toNat, spotPass_eq]
    rfl
  have hgo := effPass_passes (i := issOf s c .mac w) (set := set)
  dsimp only at hgo
  have hlanes : laneCount (takeTokens core (waitOf s c .mac w)) = laneCount core := rfl
  rw [hp, core_issOf, task_issOf, hlanes] at hgo
  obtain ⟨hissues, htask, hflight, hcore, hrest⟩ := pass_enters h
    (hgo hreplay hloads hstat hdone hpair hvalid hbruised hrows hlines hline hside)
  exact ⟨_, _, rfl, hissues, htask, hflight, rfl, hcore, hrest⟩

end Sys2Proof.Proofs.Matrix
end

section
/-! SUPPORT. The rows that a stationary load writes (O13). -/

namespace Sys2Proof.Proofs.LoadRows

open Sys2Proof.Machine Sys2Proof.Laws Sys2Proof.Proofs.Vector Sys2Proof.Proofs.Engines Sys2Proof.Proofs.Units

open Sys2Proof.Proofs.Matrix

/-! ## Tables written entry by entry -/

/-- Entries written one after the other, each with the value that `V` gives its key. -/
theorem tabGet_puts {α β : Type} [DecidableEq β] (d : β) {key : α → Nat} {val : α → β} {V : Nat → β} {l : List α} (hV : ∀ a ∈ l, V (key a) = val a)
    (t : Tab β) (n : Nat) :
    tabGet d (l.foldl (fun m a => tabPut d (key a) (val a) m) t) n = if n ∈ l.map key then V n else tabGet d t n := by
  induction l generalizing t with
  | nil => simp
  | cons a l ih =>
    rw [List.foldl_cons, ih fun b hb => hV b (List.mem_cons_of_mem _ hb), tabGet_put, ← hV a List.mem_cons_self]
    by_cases hin : n ∈ l.map key
    · simp [hin]
    · by_cases hn : key a = n
      · simp [hn]
      · simp [hin, hn, Ne.symm hn]

/-- Rows of 64 places, of which the first `lanes` are written. -/
theorem tabGet_rows {β : Type} [DecidableEq β] (d : β) (el : Nat → Nat → β) {lanes : Nat} (hlanes : lanes ≤ 64) (rows : List Nat) (t : Tab β) (k : Nat)
    {j : Nat} (hj : j < 64) :
    tabGet d (rows.foldl (fun m k => (List.range lanes).foldl (fun m j => tabPut d (64 * k + j) (el k j) m) m) t) (64 * k + j) =
      if k ∈ rows ∧ j < lanes then el k j else tabGet d t (64 * k + j) := by
  induction rows generalizing t with
  | nil => simp
  | cons r rows ih =>
    have hinner := tabGet_puts d (key := fun j => 64 * r + j) (val := fun j => el r j) (V := fun n => el r (n - 64 * r)) (l := List.range lanes)
      (fun a _ => by rw [Nat.add_sub_cancel_left]) t (64 * k + j)
    have hmem : 64 * k + j ∈ (List.range lanes).map (fun j => 64 * r + j) ↔ k = r ∧ j < lanes := by
      simp only [List.mem_map, List.mem_range]
      constructor
      · rintro ⟨a, ha, h⟩
        omega
      · rintro ⟨rfl, h⟩
        exact ⟨j, h, rfl⟩
    rw [List.foldl_cons, ih, hinner]
    by_cases hin : k ∈ rows ∧ j < lanes
    · simp [hin]
    · by_cases hkr : k = r ∧ j < lanes
      · obtain ⟨rfl, hjl⟩ := hkr
        have hself : 64 * k + j ∈ (List.range lanes).map (fun j => 64 * k + j) := hmem.2 ⟨rfl, hjl⟩
        rw [if_neg hin, if_pos hself, if_pos ⟨List.mem_cons_self, hjl⟩, Nat.add_sub_cancel_left]
      · have hnot : ¬ (k ∈ r :: rows ∧ j < lanes) := fun h => by
          rcases List.mem_cons.1 h.1 with hr | hr
          · exact hkr ⟨hr, h.2⟩
          · exact hin ⟨hr, h.2⟩
        rw [if_neg hin, if_neg (mt hmem.1 hkr), if_neg hnot]

theorem laneCount_le (x : Core) : laneCount x ≤ 64 := by
  unfold laneCount
  dsimp only
  split
  · exact le_rfl
  · split
    · norm_num
    · split <;> norm_num

/-! ## One row of a stationary load -/

/-- Reduction elements that one row of a load holds (R104). -/
def rowsPer (x : StatSrc) : Nat := if twoTiles x.fmt then 2 else 1

/-- The reduction elements of row `r`. -/
def rowElems (x : StatSrc) (r : Nat) : List Nat := (List.range (rowsPer x)).map (rowsPer x * r + ·)

theorem mem_rowElems {x : StatSrc} {r k : Nat} : k ∈ rowElems x r ↔ ∃ i, i < rowsPer x ∧ k = rowsPer x * r + i := by
  simp [rowElems, eq_comm]

/-- The set that row `r` is written into (R108). -/
def rowBase (core : Core) (x : StatSrc) (t r : Nat) : StatSet :=
  let fresh : StatSet :=
    { fmt := BitVec.ofNat 4 x.fmt, valid := true, elts := [], scales := [], c0 := [], c1 := []
      zero := (List.range 64).filter fun b => decide (8 * (b % 8) < laneCount core), bruised := false, src := x, done := t + 63 }
  if r = 0 then fresh else core.stat.getD fresh

section

variable (s : State) (cb : Nat) (core : Core) (x : StatSrc) (t r : Nat)

/-- The elements of a source are those of its tiles (R108, R202). -/
theorem cellElem_srcTiles (k j : Nat) :
    cellElem x.tr ((((srcTiles s cb x).map fun y => tileElems y.2 (srcRead s cb x y.1)).headD (fun _ => 0, true)).1)
      (((((srcTiles s cb x).map fun y => tileElems y.2 (srcRead s cb x y.1)).drop 1).headD (fun _ => 0, true)).1) k j = srcElem s cb x k j := by
  unfold srcTiles srcElem
  by_cases h : twoTiles x.fmt = true
  · simp only [h, if_true, List.map_cons, List.map_nil, List.headD_cons, List.drop_succ_cons, List.drop_zero]
  · simp only [h, Bool.false_eq_true, if_false, List.map_cons, List.map_nil, List.headD_cons, List.drop_succ_cons, List.drop_nil, List.headD_nil]

theorem loadRow_elts :
    (loadRow s cb core x t r).elts = (rowElems x r).foldl
      (fun m k => (List.range (laneCount core)).foldl (fun m j => tabPut 0 (64 * k + j) (BitVec.ofNat 16 (srcElem s cb x k j)) m) m)
      (rowBase core x t r).elts := by
  unfold loadRow
  simp only [cellElem_srcTiles]
  rfl

theorem loadRow_c0 :
    (loadRow s cb core x t r).c0 = (rowElems x r).foldl
      (fun m k => tabPut 0 k (checkWeight x.fmt (laneCount core) (srcElem s cb x k) fun _ => 1) m) (rowBase core x t r).c0 := by
  unfold loadRow
  simp only [cellElem_srcTiles]
  rfl

theorem loadRow_c1 :
    (loadRow s cb core x t r).c1 = (rowElems x r).foldl
      (fun m k => tabPut 0 k (checkWeight x.fmt (laneCount core) (srcElem s cb x k) fun j => (j : Int) + 1) m) (rowBase core x t r).c1 := by
  unfold loadRow
  simp only [cellElem_srcTiles]
  rfl

theorem loadRow_scales :
    (loadRow s cb core x t r).scales = (List.range (laneCount core)).foldl
      (fun m j => tabPut 0 (4 * j + rowsPer x * r / 32) (BitVec.ofNat 8 (srcScale s cb x j (rowsPer x * r / 32))) m) (rowBase core x t r).scales := rfl

theorem loadRow_bruised : (loadRow s cb core x t r).bruised = ((rowBase core x t r).bruised || srcBruisedNow s cb x) := rfl

theorem loadRow_kept :
    (loadRow s cb core x t r).fmt = (rowBase core x t r).fmt ∧ (loadRow s cb core x t r).src = (rowBase core x t r).src ∧
      (loadRow s cb core x t r).done = (rowBase core x t r).done := ⟨rfl, rfl, rfl⟩

variable {r}

/-- The block scale of a row is its tile's (R109, R290). -/
theorem srcScale_row (hr : r < 64) (j : Nat) : srcScale s cb x j (rowsPer x * r / 32) = srcScaleOf s cb x j (rowsPer x * r / 32) := by
  unfold srcScale srcTiles srcScaleOf rowsPer
  by_cases h : twoTiles x.fmt = true
  · simp only [h, if_true]
    by_cases hb : 2 * r / 32 < 2
    · have h0 : 2 * r / 32 / 2 = 0 := by omega
      simp only [hb, h0, if_true, List.getElem?_cons_zero]
    · have h1 : 2 * r / 32 / 2 = 1 := by omega
      simp only [hb, h1, if_false, List.getElem?_cons_succ, List.getElem?_cons_zero]
  · simp only [h, Bool.false_eq_true, if_false]
    have hb : 1 * r / 32 < 2 := by omega
    have h0 : 1 * r / 32 / 2 = 0 := by omega
    simp only [hb, h0, if_true, List.getElem?_cons_zero]

end

theorem foldl_cor {α : Type} {g : State → α → State} (hg : ∀ s a, (g s a).cor = s.cor) (l : List α) (s : State) : (l.foldl g s).cor = s.cor := by
  induction l generalizing s with
  | nil => rfl
  | cons a l ih => rw [List.foldl_cons, ih, hg]

theorem noteLoad_cor (s : State) (k : Nat) (x : StatSrc) (r : Nat) : (noteLoad s k x r).cor = s.cor :=
  foldl_cor (fun s _ => noteRead_cor s _ _ _) _ s

/-- What the load's own row does to its core (R108, R121, R132). -/
def rowWritten (set : StatSet) (l : StatLoad) (rest : List StatLoad) (c : Core) : Core :=
  let c := { c with stat := some set }
  if l.row < 63 then { c with loads := { l with row := l.row + 1 } :: rest }
  else { c with loads := rest, lastStat := some l.src, passes := c.passes.map fun p => if l.pass = p.num + 1 then { p with stat := set } else p }

theorem loadStep_eq {s : State} {k t : Nat} {l : StatLoad} {rest : List StatLoad} (hloads : (coreAt s k).loads = l :: rest) (hdue : l.t + l.row ≤ t) :
    loadStep s t k = modCore (countAct (noteLoad s k l.src l.row) (k / 288) actSram 1) k
      (rowWritten (loadRow s (keyBase k) (coreAt s k) l.src l.t l.row) l rest) := by
  unfold loadStep
  simp only [hloads, if_neg (Nat.not_lt.2 hdue)]
  rfl

theorem coreAt_loadStep {s : State} {k t : Nat} {l : StatLoad} {rest : List StatLoad} (hloads : (coreAt s k).loads = l :: rest)
    (hdue : l.t + l.row ≤ t) (j : Nat) :
    coreAt (loadStep s t k) j =
      if j = k then rowWritten (loadRow s (keyBase k) (coreAt s k) l.src l.t l.row) l rest (coreAt s k) else coreAt s j := by
  have hcor (i : Nat) : coreAt (countAct (noteLoad s k l.src l.row) (k / 288) actSram 1) i = coreAt s i := by
    show tabGet {} (noteLoad s k l.src l.row).cor i = _
    rw [noteLoad_cor]
    rfl
  rw [loadStep_eq hloads hdue, coreAt_modCore, hcor, hcor]
  simp only [eq_comm]

theorem stationaryLoadWritesItsRows : StationaryLoadWritesItsRows := by
  intro s k t l rest hloads hdue hrow hstat x cb lanes per
  have hcore := coreAt_loadStep hloads hdue
  have hlanes := laneCount_le (coreAt s k)
  have hk : coreAt (loadStep s t k) k = rowWritten (loadRow s cb (coreAt s k) x l.t l.row) l rest (coreAt s k) := (hcore k).trans (if_pos rfl)
  obtain ⟨hfmt, hsrc, hdone⟩ := loadRow_kept s cb (coreAt s k) x l.t l.row
  have hin {i : Nat} (hi : i < per) : per * l.row + i ∈ rowElems x l.row := mem_rowElems.2 ⟨i, hi, rfl⟩
  refine ⟨loadRow s cb (coreAt s k) x l.t l.row, ?_, fun i j hi hj => ?_, fun i hi => ⟨?_, ?_⟩, fun j hj => ?_, fun hb => ?_, fun h0 => ?_,
    fun old r j h0 hold hj hr => ?_, fun hlt => ?_, fun h63 => ⟨?_, ?_⟩, ?_, fun j hj => (hcore j).trans (if_neg hj)⟩
  · rw [hk, rowWritten]
    split <;> rfl
  · rw [loadRow_elts, tabGet_rows 0 _ hlanes _ _ _ (hj.trans_le hlanes), if_pos ⟨hin hi, hj⟩, BitVec.toNat_ofNat]
  · rw [loadRow_c0, tabGet_puts 0 (V := fun k => checkWeight x.fmt lanes (srcElem s cb x k) fun _ => 1) (fun _ _ => rfl), if_pos (by simpa using hin hi)]
  · rw [loadRow_c1, tabGet_puts 0 (V := fun k => checkWeight x.fmt lanes (srcElem s cb x k) fun j => (j : Int) + 1) (fun _ _ => rfl),
      if_pos (by simpa using hin hi)]
  · have hscales := tabGet_puts (0 : BitVec 8) (key := fun j => 4 * j + rowsPer x * l.row / 32)
      (val := fun j => BitVec.ofNat 8 (srcScale s cb x j (rowsPer x * l.row / 32)))
      (V := fun n => BitVec.ofNat 8 (srcScale s cb x ((n - rowsPer x * l.row / 32) / 4) (rowsPer x * l.row / 32)))
      (l := List.range lanes) (fun a _ => by rw [Nat.add_sub_cancel, Nat.mul_div_cancel_left a (by norm_num)])
      (rowBase (coreAt s k) x l.t l.row).scales (4 * j + rowsPer x * l.row / 32)
    rw [if_pos (List.mem_map_of_mem (List.mem_range.2 hj)), Nat.add_sub_cancel, Nat.mul_div_cancel_left j (by norm_num), srcScale_row s cb x hrow] at hscales
    rw [loadRow_scales]
    exact (congrArg BitVec.toNat hscales).trans (BitVec.toNat_ofNat _ _)
  · rw [loadRow_bruised, hb, Bool.or_true]
  · rw [hfmt, hsrc, hdone, rowBase, if_pos h0]
    exact ⟨BitVec.toNat_ofNat _ _, rfl, rfl⟩
  · have hbase : rowBase (coreAt s k) x l.t l.row = old := by rw [rowBase, if_neg h0, hold, Option.getD_some]
    have hout : ¬ (r ∈ rowElems x l.row ∧ j < lanes) := fun hc => by
      obtain ⟨i, hi, h⟩ := mem_rowElems.1 hc.1
      exact hr i hi h
    rw [loadRow_elts, tabGet_rows 0 _ hlanes _ _ _ hj, if_neg hout, hsrc, hfmt, hdone, hbase]
    exact ⟨rfl, rfl, rfl, rfl⟩
  · rw [hk, rowWritten, if_pos hlt]
  · rw [hk, rowWritten, if_neg (by omega)]
  · rw [hk, rowWritten, if_neg (by omega)]
  · rw [loadStep_eq hloads hdue]; rfl

/-- Settles O13: the load's checks and its record, and what a row holds. -/
theorem stationaryLoadsBeginAndWriteTheirRows : Obligations.StationaryLoadsBeginAndWriteTheirRows :=
  ⟨stationaryLoadBegins, stationaryLoadWritesItsRows⟩

end Sys2Proof.Proofs.LoadRows
end

section
/-! SUPPORT. Proofs about the LOGIC and PERM instructions of the vector core (O17). -/

namespace Sys2Proof.Proofs.Logic

open Sys2Proof.Machine Sys2Proof.Laws Sys2Proof.Proofs.Vector Sys2Proof.Proofs.Engines Sys2Proof.Proofs.Transfers

/-! ## Fields of the LOGIC and PERM words -/

/-- FT of AND, OR, XOR and MOV is 0 (R210). -/
theorem ft_of_bitwise {s : State} {c : CoreId} {opc : Nat} {w : BitVec 64} (h : MayIssue s c .vec opc w) (ho : 0x62 ≤ opc ∧ opc ≤ 0x65) :
    fFT w.toNat = 0 := by
  obtain ⟨hopc, -, hfields⟩ := fieldsOk_of_mayIssue h
  obtain ⟨hlo, hhi⟩ := ho
  have hcases : opc = 0x62 ∨ opc = 0x63 ∨ opc = 0x64 ∨ opc = 0x65 := by omega
  cases hk : coreKind c.cor <;> rcases hcases with rfl | rfl | rfl | rfl <;> simp [fieldsOk, hk, hopc, v3Ok, ftIn] at hfields <;>
    simp [fFT, hfields]

/-- FT of SEL, SHUF and BCAST is no mixed form (R210). -/
theorem ft_of_permute {s : State} {c : CoreId} {opc : Nat} {w : BitVec 64} (h : MayIssue s c .vec opc w)
    (ho : opc = 0x61 ∨ opc = 0x70 ∨ opc = 0x71) : fFT w.toNat ≤ 3 := by
  obtain ⟨hopc, -, hfields⟩ := fieldsOk_of_mayIssue h
  have hft : bitsOf w.toNat 55 3 = 0 ∨ bitsOf w.toNat 55 3 = 1 ∨ bitsOf w.toNat 55 3 = 2 ∨ bitsOf w.toNat 55 3 = 3 := by
    cases hk : coreKind c.cor <;> rcases ho with rfl | rfl | rfl <;> simp [fieldsOk, hk, hopc, v3Ok, ftIn] at hfields <;> tauto
  show bitsOf w.toNat 55 3 ≤ 3
  omega

theorem abLane_of_le {ft : Nat} (h : ft ≤ 3) (core : Core) (hh r j : Nat) : abLane core ft hh r j = laneOf (ftWidth ft) (vregOf core r) j := by
  have hmixed : ftMixed ft = false := by interval_cases ft <;> rfl
  rw [abLane, hmixed]
  rfl

theorem abSrc_of_le {ft : Nat} (h : ft ≤ 3) (hh r : Nat) : abSrc ft hh r = { reg := r } := by
  have hmixed : ftMixed ft = false := by interval_cases ft <;> rfl
  rw [abSrc, hmixed]
  rfl

/-! ## Whole registers -/

theorem testBit_laneOf (w x j i : Nat) : (laneOf w x j).testBit i = (decide (i < w) && x.testBit (w * j + i)) := by
  rw [laneOf, bitsOf, Nat.testBit_mod_two_pow, ← Nat.shiftRight_eq_div_pow, Nat.testBit_shiftRight]

/-- A register of 64 lanes of 32 bits is what its lanes are. -/
theorem ofNat_packLanes_eq {f : Nat → Nat} {v : BitVec 2048} (h : ∀ j, j < 64 → f j % 2 ^ 32 = laneOf 32 v.toNat j) :
    BitVec.ofNat 2048 (packLanes 32 ((List.range 64).map f)) = v := by
  apply BitVec.eq_of_getLsbD_eq
  intro n hn
  have hlane := laneOf_packLanes_range 32 64 f (show n / 32 < 64 by omega)
  rw [h _ (by omega)] at hlane
  have hbit := congrArg (fun x => x.testBit (n % 32)) hlane
  simp only [testBit_laneOf, Nat.mod_lt n (show 0 < 32 by norm_num), decide_true, Bool.true_and, Nat.div_add_mod] at hbit
  rw [BitVec.getLsbD_ofNat, hbit, BitVec.testBit_toNat]
  simp [hn]

/-- An instruction of one slot that carries its bruises issues with its one write (R140, R146). -/
theorem carry_issues {s : State} {c : CoreId} {opc : Nat} {w : BitVec 64} {f : Iss → Res} {wait read : List VSrc} {x : VWrite} {lanes : Nat}
    {g : Task → Task} (h : MayIssue s c .vec opc w)
    (hf : f (issOf s c .vec w) = vecGo (issOf s c .vec w) wait read false 1 2 [x] 0 0 lanes none g) (hready : SourcesReady s c wait)
    (hld : x.ld = false) (hg : KeepsIssueState g) :
    VecIssues s (issue s c .vec opc w f) c w 1 2 [{ x with due := slotOf s c.fld + 1 - 1 + 2 }] 0 0 lanes none g :=
  vecIssues_of_vecGo h hf hready (fun hc => absurd hc (by decide)) (by simpa using hld) hg

/-! ## AND, OR, XOR and MOV -/

/-- The sources of a LOGIC instruction. -/
def carrySrcs (w : Nat) (useB : Bool) : List VSrc := [{ reg := fVA w }] ++ if useB then [{ reg := fVB w }] else []

/-- The register that a LOGIC instruction writes. -/
def carryResult (core : Core) (w : Nat) (useB : Bool) (f : Nat → Nat → Nat → Nat) : VWrite :=
  { due := 0, reg := fVD w
    v := packLanes 32 ((List.range 64).map fun j =>
      f (laneOf 32 (vregOf core (fVA w)) j) (if useB then laneOf 32 (vregOf core (fVB w)) j else 0) 0)
    br := (carrySrcs w useB).foldl (fun m x => m ||| vbrOf core x.reg) 0 }

theorem effCarry_issOf {s : State} {c : CoreId} {w : BitVec 64} {useB : Bool} {f : Nat → Nat → Nat → Nat} (hft : fFT w.toNat = 0) :
    effCarry (issOf s c .vec w) useB false f =
      vecGo (issOf s c .vec w) (carrySrcs w.toNat useB) (carrySrcs w.toNat useB) false 1 2 [carryResult (coreAt s (ckey c)) w.toNat useB f] 0 0 64 := by
  unfold effCarry laneRes laneWrite
  simp only [w_issOf, core_issOf, hft, abLane_of_le (show 0 ≤ 3 by norm_num), abSrc_of_le (show 0 ≤ 3 by norm_num), List.map_map,
    Bool.false_eq_true, if_false, List.append_nil]
  rfl

/-- A bitwise instruction whose lanes are those of `F` on whole registers is of the carrying form (R146). -/
theorem carryForm_of_exec {i : CoreId → BitVec 64 → Instr} {opc : Nat} {useB : Bool} {f : Nat → Nat → Nat → Nat} {F : BitVec 2048 → BitVec 2048 → BitVec 2048}
    (ho : 0x62 ≤ opc ∧ opc ≤ 0x65)
    (hexec : ∀ c w s, exec (i c w) s = .next (issue s c .vec opc w fun x => effCarry x useB false f))
    (hlane : ∀ (x y : BitVec 2048) j, j < 64 → f (laneOf 32 x.toNat j) (if useB then laneOf 32 y.toNat j else 0) 0 % 2 ^ 32 = laneOf 32 (F x y).toNat j) :
    CarryForm i opc useB F := by
  intro s c w h core va vb hready
  have hf := effCarry_issOf (s := s) (c := c) (useB := useB) (f := f) (ft_of_bitwise h ho)
  have hv : BitVec.ofNat 2048 (carryResult core w.toNat useB f).v = F (tabGet 0 core.vreg va) (tabGet 0 core.vreg vb) := by
    have hpack := ofNat_packLanes_eq (hlane (tabGet 0 core.vreg va) (tabGet 0 core.vreg vb))
    exact hpack
  refine ⟨_, _, hexec c w s, carry_issues h hf hready rfl keepsIssueState_id, rfl, rfl, rfl, rfl,
    hv, ?_⟩
  apply BitVec.eq_of_toNat_eq
  have ha : vbrOf core va < 2 ^ 4 := BitVec.isLt _
  have hb : vbrOf core vb < 2 ^ 4 := BitVec.isLt _
  cases useB with
  | true =>
    show (0 ||| vbrOf core va ||| vbrOf core vb) % 2 ^ 4 = vbrOf core va ||| vbrOf core vb
    rw [Nat.zero_or, Nat.mod_eq_of_lt (Nat.or_lt_two_pow ha hb)]
  | false =>
    show (0 ||| vbrOf core va) % 2 ^ 4 = vbrOf core va ||| 0
    rw [Nat.zero_or, Nat.or_zero, Nat.mod_eq_of_lt ha]

/-- An operation bit by bit is the same on lanes as on registers. -/
theorem lanewise {op : Nat → Nat → Nat} {b : Bool → Bool → Bool} (hop : ∀ x y i, (op x y).testBit i = b (x.testBit i) (y.testBit i))
    (x y : BitVec 2048) (j : Nat) :
    op (laneOf 32 x.toNat j) (laneOf 32 y.toNat j) % 2 ^ 32 = laneOf 32 (op x.toNat y.toNat) j := by
  apply Nat.eq_of_testBit_eq
  intro i
  rw [Nat.testBit_mod_two_pow, hop, testBit_laneOf, testBit_laneOf, testBit_laneOf, hop]
  by_cases hi : i < 32 <;> simp [hi]

theorem bitwiseInstructionsComplete : BitwiseInstructionsComplete := by
  refine ⟨?and, ?or, ?xor, ?mov⟩
  case and =>
    refine carryForm_of_exec (by decide) (fun _ _ _ => rfl) fun x y j _ => ?_
    rw [if_pos rfl, lanewise Nat.testBit_and, BitVec.toNat_and]
  case or =>
    refine carryForm_of_exec (by decide) (fun _ _ _ => rfl) fun x y j _ => ?_
    rw [if_pos rfl, lanewise Nat.testBit_or, BitVec.toNat_or]
  case xor =>
    refine carryForm_of_exec (by decide) (fun _ _ _ => rfl) fun x y j _ => ?_
    rw [if_pos rfl, lanewise Nat.testBit_xor, BitVec.toNat_xor]
  case mov => exact carryForm_of_exec (by decide) (fun _ _ _ => rfl) fun x y j _ => Nat.mod_eq_of_lt (laneOf_lt _ _ _)

/-! ## SEL, SHUF and BCAST -/

/-- A quarter of the lanes lies in each granule. -/
theorem exists_lane_iff {n g : Nat} {p : Nat → Bool} :
    ((List.range (n / 4)).any fun k => p (n / 4 * g + k)) = true ↔ ∃ j, n / 4 * g ≤ j ∧ j < n / 4 * (g + 1) ∧ p j = true := by
  rw [List.any_eq_true]
  constructor
  · rintro ⟨k, hk, hp⟩
    have := List.mem_range.1 hk
    exact ⟨n / 4 * g + k, Nat.le_add_right _ _, by rw [Nat.mul_succ]; omega, hp⟩
  · rintro ⟨j, hlo, hhi, hp⟩
    rw [Nat.mul_succ] at hhi
    exact ⟨j - n / 4 * g, List.mem_range.2 (by omega), by rwa [Nat.add_sub_cancel' hlo]⟩

/-- The mask of four granules as the model sums it. -/
theorem bitOf_granules {g : Nat} (hit : Nat → Bool) (hg : g < 4) :
    bitOf ((List.range 4).foldl (fun m g => if hit g then m + 2 ^ g else m) 0) g = hit g := bitOf_maskOf hit hg

theorem bitOf_selBruise (core : Core) (w : Nat) {g : Nat} (hg : g < 4) :
    bitOf (selBruise core w) g = true ↔ bitOf (vbrOf core (fVC w)) g = true ∨
      ∃ j, ftLanes (fFT w) / 4 * g ≤ j ∧ j < ftLanes (fFT w) / 4 * (g + 1) ∧
        (if cLane core (fFT w) (fVC w) j ≠ 0 then bitOf (vbrOf core (fVA w)) g else bitOf (vbrOf core (fVB w)) g) = true := by
  rw [← exists_lane_iff (p := fun j => if cLane core (fFT w) (fVC w) j ≠ 0 then bitOf (vbrOf core (fVA w)) g else bitOf (vbrOf core (fVB w)) g),
    ← Bool.or_eq_true]
  have hmask := bitOf_granules (fun g => bitOf (vbrOf core (fVC w)) g || (List.range (ftLanes (fFT w) / 4)).any fun k =>
    if cLane core (fFT w) (fVC w) (ftLanes (fFT w) / 4 * g + k) ≠ 0 then bitOf (vbrOf core (fVA w)) g else bitOf (vbrOf core (fVB w)) g) hg
  exact iff_of_eq (congrArg (· = true) hmask)

theorem bitOf_shufBruise (core : Core) (w : Nat) {g : Nat} (hg : g < 4) :
    bitOf (shufBruise core w) g = true ↔ bitOf (vbrOf core (fVB w)) g = true ∨
      ∃ j, ftLanes (fFT w) / 4 * g ≤ j ∧ j < ftLanes (fFT w) / 4 * (g + 1) ∧
        bitOf (vbrOf core (fVA w)) (laneOf (ftWidth (fFT w)) (vregOf core (fVB w)) j % ftLanes (fFT w) / (ftLanes (fFT w) / 4)) = true := by
  rw [← exists_lane_iff (p := fun j => bitOf (vbrOf core (fVA w))
    (laneOf (ftWidth (fFT w)) (vregOf core (fVB w)) j % ftLanes (fFT w) / (ftLanes (fFT w) / 4))), ← Bool.or_eq_true]
  have hmask := bitOf_granules (fun g => bitOf (vbrOf core (fVB w)) g || (List.range (ftLanes (fFT w) / 4)).any fun k =>
    bitOf (vbrOf core (fVA w)) (laneOf (ftWidth (fFT w)) (vregOf core (fVB w)) (ftLanes (fFT w) / 4 * g + k) % ftLanes (fFT w) / (ftLanes (fFT w) / 4))) hg
  exact iff_of_eq (congrArg (· = true) hmask)

theorem effSel_issOf {s : State} {c : CoreId} {w : BitVec 64} (hft : fFT w.toNat ≤ 3) :
    let core := coreAt s (ckey c)
    let ft := fFT w.toNat
    let src : List VSrc := [{ reg := fVA w.toNat }, { reg := fVB w.toNat }, { reg := fVC w.toNat }]
    effSel (issOf s c .vec w) = vecGo (issOf s c .vec w) src src false 1 2
      [{ due := 0, reg := fVD w.toNat
         v := packLanes (ftWidth ft) ((List.range (ftLanes ft)).map fun j =>
           if laneOf (ftWidth ft) (vregOf core (fVC w.toNat)) j ≠ 0 then laneOf (ftWidth ft) (vregOf core (fVA w.toNat)) j
           else laneOf (ftWidth ft) (vregOf core (fVB w.toNat)) j)
         br := selBruise core w.toNat }] 0 0 (ftLanes ft) := by
  intro core ft src
  unfold effSel laneRes laneWrite
  simp only [w_issOf, core_issOf, abLane_of_le hft, abSrc_of_le hft, List.map_map, if_true]
  rfl

theorem effShuf_issOf (s : State) (c : CoreId) (w : BitVec 64) :
    let core := coreAt s (ckey c)
    let ft := fFT w.toNat
    let src : List VSrc := [{ reg := fVA w.toNat }, { reg := fVB w.toNat }]
    effShuf (issOf s c .vec w) = vecGo (issOf s c .vec w) src src false 1 2
      [{ due := 0, reg := fVD w.toNat
         v := packLanes (ftWidth ft) ((List.range (ftLanes ft)).map fun j =>
           laneOf (ftWidth ft) (vregOf core (fVA w.toNat)) (laneOf (ftWidth ft) (vregOf core (fVB w.toNat)) j % ftLanes ft))
         br := shufBruise core w.toNat }] 0 0 (ftLanes ft) := by
  intro core ft src
  unfold effShuf laneWrite
  simp only [w_issOf, core_issOf, List.map_map]
  rfl

/-- A lane lies in one granule. -/
theorem granMask_lane {ft k : Nat} (hft : ft ≤ 3) (hk : k ≤ 63 ∨ ft = 1 ∨ ft = 2) (hk2 : k < 128) :
    granMask (ftWidth ft * k) (ftWidth ft) = 2 ^ (ftWidth ft * k / 512) := by
  have hw : (ftWidth ft = 32 ∧ k ≤ 63) ∨ ftWidth ft = 16 := by
    unfold ftWidth
    split
    · exact .inr rfl
    · next hn => exact .inl ⟨rfl, by omega⟩
  have hg : ftWidth ft * k / 512 < 4 ∧ 512 * (ftWidth ft * k / 512) ≤ ftWidth ft * k ∧
      ftWidth ft * k + ftWidth ft ≤ 512 * (ftWidth ft * k / 512) + 512 ∧ 0 < ftWidth ft := by
    rcases hw with ⟨h, hk63⟩ | h <;> rw [h] <;> omega
  generalize ftWidth ft * k = lo at hg ⊢
  generalize ftWidth ft = len at hg ⊢
  generalize lo / 512 = g at hg ⊢
  obtain ⟨hg4, hlo, hhi, hlen⟩ := hg
  have hmask (i : Nat) : (lo < 512 * (i + 1) ∧ 512 * i < lo + len) ↔ i = g := by omega
  unfold granMask
  simp only [hmask]
  interval_cases g <;> decide

theorem and_two_pow_ne_zero (x g : Nat) : (x &&& 2 ^ g != 0) = bitOf x g := by
  rw [Nat.and_two_pow, bitOf_eq_testBit]
  cases x.testBit g <;> simp

theorem effBcast_issOf {s : State} {c : CoreId} {w : BitVec 64} (h : MayIssue s c .vec 0x70 w) :
    let core := coreAt s (ckey c)
    let ft := fFT w.toNat
    let k := bitsOf w.toNat 37 7
    effBcast (issOf s c .vec w) = vecGo (issOf s c .vec w) [{ reg := fVA w.toNat }]
      [{ reg := fVA w.toNat, lo := ftWidth ft * k, len := ftWidth ft }] false 1 2
      [{ due := 0, reg := fVD w.toNat
         v := packLanes (ftWidth ft) ((List.range (ftLanes ft)).map fun _ => laneOf (ftWidth ft) (vregOf core (fVA w.toNat)) k)
         br := if bitOf (vbrOf core (fVA w.toNat)) (ftWidth ft * k / 512) then 15 else 0 }] 0 0 (ftLanes ft) := by
  intro core ft k
  obtain ⟨hopc, -, hfields⟩ := fieldsOk_of_mayIssue h
  have hft : ft ≤ 3 := ft_of_permute h (.inr (.inl rfl))
  have hk : k ≤ 63 ∨ ft = 1 ∨ ft = 2 := by
    cases hkind : coreKind c.cor <;> simp [fieldsOk, hkind, hopc] at hfields
    exact hfields.2
  have hbr : srcBruised (takeTokens core (waitOf s c .vec w)) [{ reg := fVA w.toNat, lo := ftWidth ft * k, len := ftWidth ft }] =
      bitOf (vbrOf core (fVA w.toNat)) (ftWidth ft * k / 512) := by
    rw [srcBruised, List.any_cons, List.any_nil, Bool.or_false, granMask_lane hft hk (Nat.mod_lt _ (by norm_num)), and_two_pow_ne_zero]
    rfl
  unfold effBcast
  simp only [w_issOf, core_issOf]
  rw [hbr, List.map_const', List.length_range]
  rfl

theorem selectAndPermuteComplete : SelectAndPermuteComplete := by
  intro s c w core ft n va vb vc lane bad
  refine ⟨fun h hready => ?sel, fun h hready => ?shuf, ?bcast⟩
  case sel =>
    refine ⟨_, _, _, rfl, carry_issues h (effSel_issOf (ft_of_permute h (.inl rfl))) hready rfl keepsIssueState_id,
      ⟨rfl, rfl, rfl, rfl, rfl, fun j hj => laneOf_packLanes_range _ _ _ hj⟩, fun g hg => (bitOf_selBruise core w.toNat hg).trans ?_⟩
    refine or_congr Iff.rfl (exists_congr fun j => and_congr Iff.rfl (and_congr Iff.rfl ?_))
    show (if lane vc j ≠ 0 then _ else _) = true ↔ _
    split <;> rfl
  case shuf =>
    exact ⟨_, _, _, rfl, carry_issues h (effShuf_issOf s c w) hready rfl keepsIssueState_id,
      ⟨rfl, rfl, rfl, rfl, rfl, fun j hj => laneOf_packLanes_range _ _ _ hj⟩, fun g hg => bitOf_shufBruise core w.toNat hg⟩
  case bcast =>
    intro h hready k
    exact ⟨_, _, rfl, carry_issues h (effBcast_issOf h) hready rfl keepsIssueState_id,
      rfl, rfl, rfl, rfl, rfl, fun j hj => laneOf_packLanes_range _ _ _ hj⟩

/-! ## MOVI and FGET -/

theorem laneOf_replicate {w n v j : Nat} (hj : j < n) : laneOf w (packLanes w (List.replicate n v)) j = v % 2 ^ w := by
  rw [laneOf_packLanes w _ j (by simpa using hj), List.getElem_replicate]

theorem fillInstructionsComplete : FillInstructionsComplete := by
  intro s c w task slot
  refine ⟨fun h => ?movi, fun h => ?fget⟩
  case movi =>
    have himm : bitsOf w.toNat 28 32 % 2 ^ 16 = bitsOf w.toNat 28 16 := Nat.mod_mod_of_dvd _ (Nat.pow_dvd_pow 2 (by norm_num))
    have hf : effMovi (issOf s c .vec w) = vecGo (issOf s c .vec w) [] [] false 1 2
        [{ due := 0, reg := fVD w.toNat
           v := if w.getLsbD 60 then packLanes 16 (List.replicate 128 (bitsOf w.toNat 28 16)) else packLanes 32 (List.replicate 64 (bitsOf w.toNat 28 32))
           br := 0 }] 0 0 64 := by
      unfold effMovi effFill
      simp only [w_issOf, bitOf_toNat, himm]
    refine ⟨_, _, rfl, carry_issues h hf (fun x hx => absurd hx List.not_mem_nil) rfl keepsIssueState_id, ?_⟩
    split
    · exact ⟨rfl, rfl, rfl, rfl, rfl, fun j hj => laneOf_replicate hj⟩
    · exact ⟨rfl, rfl, rfl, rfl, rfl, fun j hj => laneOf_replicate hj⟩
  case fget =>
    have hf : effFget (issOf s c .vec w) = vecGo (issOf s c .vec w) [] [] false 1 2
        [{ due := 0, reg := fVD w.toNat, v := (tabGet 0 task.status slot).toNat, br := 0 }] 0 0 64 none
        (fun y => if w.getLsbD 58 then { y with status := tabPut 0 slot 0 y.status } else y) := by
      unfold effFget effFill
      simp only [w_issOf, bitOf_toNat, task_issOf]
      rfl
    have hg : KeepsIssueState fun y => if w.getLsbD 58 then { y with status := tabPut 0 slot 0 y.status } else y := by
      cases w.getLsbD 58 <;> exact fun _ => ⟨rfl, rfl, rfl, rfl⟩
    refine ⟨_, _, rfl, carry_issues h hf (fun x hx => absurd hx List.not_mem_nil) rfl hg, rfl, rfl, rfl, rfl, rfl, fun j hj => ?_⟩
    have hlt : (tabGet 0 task.status slot).toNat < 2 ^ 32 := lt_of_lt_of_le (BitVec.isLt _) (by norm_num)
    show laneOf 32 (tabGet 0 task.status slot).toNat j = _
    rw [laneOf, bitsOf]
    dsimp only
    split
    · next hj0 => rw [hj0, Nat.mul_zero, Nat.pow_zero, Nat.div_one]
    · next hj0 =>
      have hpow : 2 ^ 32 ≤ 2 ^ (32 * j) := Nat.pow_le_pow_right Nat.two_pos (by omega)
      rw [Nat.div_eq_of_lt (hlt.trans_le hpow)]

/-- Settles O17: the bitwise forms, the permutations with their bruises, and the fills. -/
theorem bitwiseSelectAndFillComplete : Obligations.BitwiseSelectAndFillComplete :=
  ⟨bitwiseInstructionsComplete, selectAndPermuteComplete, fillInstructionsComplete⟩

end Sys2Proof.Proofs.Logic
end

section
/-! SUPPORT. Proofs about the conversions and special functions of the vector core (O18, O19). -/

namespace Sys2Proof.Proofs.Conversions

open Sys2Proof.Machine Sys2Proof.Laws Sys2Proof.Proofs.Vector Sys2Proof.Proofs.Engines Sys2Proof.Proofs.Transfers

/-- The write of a conversion reads back lane by lane (R212, R214). -/
theorem writes_packLanes (due reg lo len ew n br sel : Nat) (val : Nat → Nat) :
    Writes { due := due, reg := reg, lo := lo, len := len, v := packLanes ew ((List.range n).map val), br := br, brSel := sel } reg lo len ew n br sel val :=
  ⟨rfl, rfl, rfl, rfl, rfl, fun _ hj => laneOf_packLanes_range _ _ _ hj⟩

/-- A VEC instruction that consumes its sources issues with its one write (R140, R146). -/
theorem consume_issues {s : State} {c : CoreId} {opc : Nat} {w : BitVec 64} {f : Iss → Res} {src : List VSrc} {x : VWrite} {occ lat fl slot lanes : Nat}
    (h : MayIssue s c .vec opc w) (hf : f (issOf s c .vec w) = vecGo (issOf s c .vec w) src src true occ lat [x] fl slot lanes)
    (hready : SourcesReady s c src) (hbr : srcBruised (coreAt s (ckey c)) src = false) (hld : x.ld = false) :
    VecIssues s (issue s c .vec opc w f) c w occ lat [{ x with due := slotOf s c.fld + occ - 1 + lat }] slot fl lanes :=
  vecIssues_of_vecGo h hf hready (fun _ => hbr) (by simpa using hld) keepsIssueState_id

/-- A part of a list of lanes. -/
theorem map_range_take_drop {α : Type} (f : Nat → α) :
    ((List.range 64).map f).take 32 = (List.range 32).map f ∧ ((List.range 64).map f).drop 32 = (List.range 32).map fun i => f (32 + i) := by
  rw [← List.map_take, ← List.map_drop]
  constructor
  · rfl
  · rw [show (List.range 64).drop 32 = (List.range 32).map (32 + ·) by decide, List.map_map]
    rfl

theorem blockScale_lt (c : Nat) (xs : List Machine.Num) : blockScale c xs < 256 := by
  unfold blockScale
  split
  · norm_num
  · split
    · norm_num
    · unfold clampInt
      split
      · norm_num
      · split
        · norm_num
        · omega

/-- The two block scales, one byte each. -/
theorem laneOf_two_bytes {a b : Nat} (ha : a < 256) {j : Nat} (hj : j < 2) : laneOf 8 (a + 256 * b) j = (if j = 0 then a else b) % 2 ^ 8 := by
  rw [laneOf, bitsOf]
  obtain rfl | rfl : j = 0 ∨ j = 1 := by omega
  · norm_num
  · norm_num
    show (a + 256 * b) / 256 % 256 = b % 256
    omega

/-- Settles O18: CVT's elements and its region, and MXSC's two block scales. -/
theorem conversionsComplete : Obligations.ConversionsComplete := by
  intro s c w core n gen pol sf df p
  refine ⟨?cvt, ?mxsc⟩
  case cvt =>
    intro h both lanes from_ into src rm r hready hbr
    have hf : effCvt (issOf s c .vec w) = vecGo (issOf s c .vec w) src src true 1 (if fmtMX df then 6 else 4)
        [{ due := 0, reg := fVD n, lo := into.1, len := into.2, v := packLanes (fmtBits df) ((List.range lanes).map fun j => (r j).1), br := 0
           brSel := if into.2 % 512 = 0 then granMask into.1 into.2 else 0 }]
        (orFlags ((List.range lanes).map fun j => (r j).2)) (bitsOf n 60 4) lanes := by
      unfold effCvt
      simp only [w_issOf, core_issOf, task_issOf, bitOf_toNat, List.map_map]
      rfl
    exact ⟨_, _, rfl, consume_issues h hf hready hbr rfl, writes_packLanes _ _ _ _ _ _ _ _ _⟩
  case mxsc =>
    intro h from_ src x hready hbr
    obtain ⟨htake, hdrop⟩ := map_range_take_drop x
    have hf : effMxsc (issOf s c .vec w) = vecGo (issOf s c .vec w) src src true 1 6
        [{ due := 0, reg := fVD n, lo := 16 * p, len := 16
           v := blockScale df ((List.range 32).map x) + 256 * blockScale df ((List.range 32).map fun i => x (32 + i)), br := 0, brSel := 0 }] 0 0 64 := by
      rw [← htake, ← hdrop]
      unfold effMxsc
      simp only [w_issOf, core_issOf]
      rfl
    refine ⟨_, _, rfl, consume_issues h hf hready hbr rfl, rfl, rfl, rfl, rfl, rfl, fun j hj => ?_⟩
    refine (laneOf_two_bytes (blockScale_lt _ _) hj).trans ?_
    obtain rfl | rfl : j = 0 ∨ j = 1 := by omega
    · simp
    · simp

/-- Settles O19: the lanes of SPEC, each rounded once more where FT names a 16-bit format. -/
theorem specialFunctionsComplete : Obligations.SpecialFunctionsComplete := by
  intro s c w h core n ft half lo len ew src f r hready hbr
  have hf : effSpec (issOf s c .vec w) = vecGo (issOf s c .vec w) src src true 4 12
      [{ due := 0, reg := fVD n, lo := lo, len := len, v := packLanes ew ((List.range 64).map fun j => (r j).1), br := 0, brSel := granMask lo len }]
      (orFlags ((List.range 64).map fun j => (r j).2)) (fSLOT n) 64 := by
    unfold effSpec
    simp only [w_issOf, core_issOf, List.map_map, bne_iff_ne]
    rfl
  exact ⟨_, _, rfl, consume_issues h hf hready hbr rfl, writes_packLanes _ _ _ _ _ _ _ _ _⟩

end Sys2Proof.Proofs.Conversions
end

section
/-! SUPPORT. INSTRUCTION_COMPLETION: tokens posted and flags raised (O22). -/

namespace Sys2Proof.Proofs.Completion

open Sys2Proof.Machine Sys2Proof.Laws Sys2Proof.Proofs.Vector Sys2Proof.Proofs.Engines

theorem mem_maskList {m q : Nat} : q ∈ maskList m ↔ q < 16 ∧ bitOf m q = true := by rw [maskList, List.mem_filter, List.mem_range]

/-- One token more in each queue of the mask (R164). -/
theorem tabGet_addTokens (m q : Nat) (t : Tab Nat) : tabGet 0 (addTokens m t) q = tabGet 0 t q + b2n ((maskList m).contains q) := by
  have key : ∀ (l : List Nat), l.Nodup → ∀ t : Tab Nat,
      tabGet 0 (l.foldl (fun t q => tabPut 0 q (tabGet 0 t q + 1) t) t) q = tabGet 0 t q + b2n (l.contains q) := by
    intro l
    induction l with
    | nil => exact fun _ _ => rfl
    | cons x l ih =>
      intro hl t
      obtain ⟨hx, hl⟩ := List.nodup_cons.1 hl
      rw [List.foldl_cons, ih hl, tabGet_put]
      by_cases h : x = q
      · subst h
        simp [hx, b2n]
      · simp [h, Ne.symm h]
  exact key _ (maskList_nodup m) t

/-- The flights of `l` that post into queue `q`. -/
def postsInto (l : List Flight) (q : Nat) : Nat := (l.filter fun x => x.post.getLsbD q).length

theorem postsInto_cons (x : Flight) (l : List Flight) {q : Nat} (hq : q < 16) :
    postsInto (x :: l) q = b2n ((maskList x.post.toNat).contains q) + postsInto l q := by
  have hmask : (maskList x.post.toNat).contains q = x.post.getLsbD q := by
    rw [Bool.eq_iff_iff, List.contains_iff_mem, mem_maskList, bitOf_toNat]
    simp [hq]
  rw [postsInto, List.filter_cons, hmask, postsInto]
  cases x.post.getLsbD q <;> simp [b2n, Nat.add_comm]

/-- `t` is `s` with the tokens posted and the flags raised that the flights of `l` bring. -/
structure Completed (s t : State) (c : CoreId) (e : Engine) (l : List Flight) : Prop where
  tokens : ∀ q, q < 16 → tabGet 0 (coreAt t (ckey c)).tokNew q = tabGet 0 (coreAt s (ckey c)).tokNew q + postsInto l q
  flags : ∀ i (b : Nat), b < 8 → ((tabGet 0 (taskOf (coreAt t (ckey c)) e).statNew i).getLsbD b ↔
    (tabGet 0 (taskOf (coreAt s (ckey c)) e).statNew i).getLsbD b ∨ ∃ x ∈ l, x.slot = i ∧ x.flags.getLsbD b)
  task : taskOf (coreAt t (ckey c)) e = { taskOf (coreAt s (ckey c)) e with statNew := (taskOf (coreAt t (ckey c)) e).statNew }
  others : ∀ x, x ≠ e → taskOf (coreAt t (ckey c)) x = taskOf (coreAt s (ckey c)) x
  core : coreAt t (ckey c) = { coreAt s (ckey c) with tokNew := (coreAt t (ckey c)).tokNew, tasks := (coreAt t (ckey c)).tasks }
  cores : ∀ k, k ≠ ckey c → coreAt t k = coreAt s k
  rest : t = { s with cor := t.cor }

section

variable {s t u : State} {c : CoreId} {e : Engine} {x : Flight} {l : List Flight}

theorem completed_nil (s : State) (c : CoreId) (e : Engine) : Completed s s c e [] :=
  ⟨fun _ _ => rfl, fun _ _ _ => by simp, rfl, fun _ _ => rfl, rfl, fun _ _ => rfl, rfl⟩

theorem completed_one (s : State) (c : CoreId) (e : Engine) (x : Flight) : Completed s (modCore s (ckey c) (completeOne e x)) c e [x] := by
  have hcore : coreAt (modCore s (ckey c) (completeOne e x)) (ckey c) = completeOne e x (coreAt s (ckey c)) := by rw [coreAt_modCore, if_pos rfl]
  have htask : taskOf (completeOne e x (coreAt s (ckey c))) e =
      { taskOf (coreAt s (ckey c)) e with statNew := tabMod 0 x.slot (· ||| x.flags) (taskOf (coreAt s (ckey c)) e).statNew } := by
    rw [completeOne, taskOf_modTask, if_pos rfl]
    rfl
  constructor
  case tokens =>
    intro q hq
    rw [hcore, postsInto_cons x [] hq]
    exact tabGet_addTokens _ _ _
  case flags =>
    intro i b _
    rw [hcore, htask]
    show (tabGet 0 (tabMod 0 x.slot (· ||| x.flags) (taskOf (coreAt s (ckey c)) e).statNew) i).getLsbD b = true ↔ _
    rw [tabGet_mod]
    split
    · next h => simp [h]
    · next h => simp [h]
  case task => rw [hcore, htask]
  case others => intro y hy; rw [hcore, completeOne, taskOf_modTask, if_neg hy.symm]; rfl
  case core => rw [hcore]; rfl
  case cores => intro k hk; rw [coreAt_modCore, if_neg hk.symm]
  case rest => rfl

theorem Completed.cons (h : Completed s t c e [x]) (h' : Completed t u c e l) : Completed s u c e (x :: l) := by
  constructor
  case tokens =>
    intro q hq
    rw [h'.tokens q hq, h.tokens q hq, postsInto_cons x l hq, postsInto_cons x [] hq, postsInto, List.filter_nil, List.length_nil]
    omega
  case flags =>
    intro i b hb
    rw [h'.flags i b hb, h.flags i b hb]
    simp [or_assoc]
  case task => rw [h'.task, h.task]
  case others => intro y hy; rw [h'.others y hy, h.others y hy]
  case core => rw [h'.core, h.core]
  case cores => intro k hk; rw [h'.cores k hk, h.cores k hk]
  case rest => rw [h'.rest, h.rest]

end

/-- Flights whose posts are the producer's and within 63 complete (R165, R166). -/
theorem completed_completeAll {c : CoreId} {e : Engine} (l : List Flight) (s : State)
    (h : ∀ q, q < 16 → 0 < postsInto l q → tabGet 0 (coreAt s (ckey c)).tokProd q = engCode e + 1 ∧
      tabGet 0 (coreAt s (ckey c)).tok q + tabGet 0 (coreAt s (ckey c)).tokNew q + postsInto l q ≤ 63) :
    Completed s (completeAll c e l s) c e l := by
  induction l generalizing s with
  | nil => exact completed_nil s c e
  | cons x l ih =>
    have hone := completed_one s c e x
    have hgood : ¬ (maskList x.post.toNat).any (postBad (coreAt s (ckey c)) e) = true := by
      rw [List.any_eq_true]
      rintro ⟨q, hq, hbad⟩
      have hq16 := (mem_maskList.1 hq).1
      have hcount := postsInto_cons x l hq16
      rw [List.contains_iff_mem.2 hq] at hcount
      obtain ⟨hprod, hlim⟩ := h q hq16 (by rw [hcount]; exact Nat.add_pos_left Nat.one_pos _)
      rw [hcount] at hlim
      simp only [postBad, hprod, bne_self_eq_false, Bool.false_or, decide_eq_true_eq] at hbad
      have hb : b2n true = 1 := rfl
      omega
    rw [completeAll, if_neg hgood]
    refine hone.cons (ih _ fun q hq hpos => ?_)
    have hcount := postsInto_cons x l hq
    obtain ⟨hprod, hlim⟩ := h q hq (by omega)
    have htok := hone.tokens q hq
    rw [postsInto_cons x [] hq, postsInto, List.filter_nil, List.length_nil] at htok
    rw [htok, hone.core]
    exact ⟨hprod, by show tabGet 0 (coreAt s (ckey c)).tok q + _ + _ ≤ 63; omega⟩

/-- Settles O22: the due flights leave their task, and complete one after the other. -/
theorem completionPostsTokensAndFlags : Obligations.CompletionPostsTokensAndFlags := by
  intro s c e k core due posts hrun hdue hposts
  have hcore : coreAt (modCore s k fun x => modTask x e fun t => { t with flights := t.flights.filter fun y => !flightDue (slotOf s c.fld) y }) k =
      modTask core e fun t => { t with flights := t.flights.filter fun y => !flightDue (slotOf s c.fld) y } := by rw [coreAt_modCore, if_pos rfl]
  have hcomplete := completed_completeAll (c := c) (e := e) due
    (modCore s k fun x => modTask x e fun t => { t with flights := t.flights.filter fun y => !flightDue (slotOf s c.fld) y })
    (by rw [hcore]; exact hposts)
  have hstep : instructionComplete s c e = completeAll c e due
      (modCore s k fun x => modTask x e fun t => { t with flights := t.flights.filter fun y => !flightDue (slotOf s c.fld) y }) :=
    if_neg (by rw [show (coreAt s (ckey c)).halted = false from hrun, Bool.false_or, List.isEmpty_iff]; exact hdue)
  obtain ⟨htokens, hflags, htask, hothers, hcor, hcores, hrest⟩ := hcomplete
  rw [hcore] at htokens hflags htask hothers hcor
  rw [taskOf_modTask, if_pos rfl] at hflags htask
  refine ⟨_, rfl, ?_⟩
  rw [hstep]
  refine ⟨htokens, hflags, htask, fun x hx => ?_, hcor, fun j hj => ?_, hrest⟩
  · rw [hothers x hx, taskOf_modTask, if_neg hx.symm]
  · rw [hcores j hj, coreAt_modCore, if_neg (Ne.symm hj)]

end Sys2Proof.Proofs.Completion
end

section
/-! SUPPORT. Changes of all fields, and the states that inputs force (18, 19 R501): O23. -/

namespace Sys2Proof.Proofs.Fields

open Sys2Proof.Laws Sys2Proof.Machine Sys2Proof Sys2Proof.Proofs.Vector

/-- The first `n` fields, each changed by its own function. -/
def firstFields (s : State) (g : Nat → Field → Field) (n : Nat) : State := (List.range n).foldl (fun t f => modField t f (g f)) s

theorem firstFields_succ (s : State) (g : Nat → Field → Field) (n : Nat) :
    firstFields s g (n + 1) = modField (firstFields s g n) n (g n) := by
  simp [firstFields, List.range_succ]

theorem fieldOf_firstFields (s : State) (g : Nat → Field → Field) (n f : Nat) :
    fieldOf (firstFields s g n) f = if f < n then g f (fieldOf s f) else fieldOf s f := by
  induction n with
  | zero => simp [firstFields]
  | succ n ih =>
    rw [firstFields_succ, fieldOf_modField]
    rcases Nat.lt_trichotomy n f with h | rfl | h
    · rw [if_neg (by omega), ih, if_neg (by omega), if_neg (by omega)]
    · simp [ih]
    · rw [if_neg (by omega), ih, if_pos h, if_pos (by omega)]

theorem firstFields_frame (s : State) (g : Nat → Field → Field) (n : Nat) : ∃ l, firstFields s g n = { s with fld := l } := by
  induction n with
  | zero => exact ⟨_, rfl⟩
  | succ n ih =>
    obtain ⟨l, hl⟩ := ih
    exact ⟨_, by rw [firstFields_succ, hl]; rfl⟩

theorem fieldOf_modFields (s : State) (g : Nat → Field → Field) (f : Nat) :
    fieldOf (modFields s g) f = if f < 36 then g f (fieldOf s f) else fieldOf s f := fieldOf_firstFields s g 36 f

theorem modFields_frame (s : State) (g : Nat → Field → Field) : ∃ l, modFields s g = { s with fld := l } := firstFields_frame s g 36

/-! ## The lowest state -/

theorem refreshLow_frame (s : State) : ∃ l, refreshLow s = { s with fld := l } := modFields_frame s _

@[simp] theorem refreshLow_inp (s : State) : (refreshLow s).inp = s.inp := by
  obtain ⟨l, hl⟩ := refreshLow_frame s
  rw [hl]

theorem forcedLow_of_inp {s t : State} (h : t.inp = s.inp) (f : Nat) : forcedLow t f = forcedLow s f := by
  simp only [forcedLow, h]

theorem lowFollows_refreshLow (s : State) : LowFollows s (refreshLow s) := by
  intro f
  rw [forcedLow_of_inp (refreshLow_inp s)]
  simp only [refreshLow, fieldOf_modFields, forcedLow, bitOf_toNat]

theorem endForced_frame (s : State) : ∃ l, endForced s = { s with fld := l } := by
  obtain ⟨l, hl⟩ := refreshLow_frame s
  unfold endForced
  rw [hl]
  obtain ⟨l', hl'⟩ := modFields_frame { s with fld := l } fun _ x => if x.pow.low then x else { x with cond := { x.cond with atSpeed := false } }
  exact ⟨l', hl'⟩

theorem lowEnds_endForced (s : State) : LowEnds s (endForced s) := by
  intro f
  have hlow := lowFollows_refreshLow s f
  rw [forcedLow_of_inp (refreshLow_inp s)] at hlow
  have hinp : (endForced s).inp = s.inp := by
    obtain ⟨l, hl⟩ := endForced_frame s
    rw [hl]
  rw [forcedLow_of_inp hinp]
  unfold endForced
  rw [fieldOf_modFields, hlow]
  by_cases hf : f < 36
  · simp only [hf, if_true]
    cases forcedLow s f
    · simp only [Bool.false_eq_true, if_false, Bool.and_false]
    · simp only [if_true, Bool.and_true]
  · simp only [hf, if_false]

theorem lowFollows_of_views {s t s' t' : State} (h : LowFollows s t) (hs : s'.fld = s.fld) (ht : t'.fld = t.fld) (hi : t'.inp = t.inp) :
    LowFollows s' t' := by
  intro f
  have hf := h f
  rw [← forcedLow_of_inp hi] at hf
  unfold fieldOf at hf ⊢
  rw [hs, ht]
  exact hf

/-! ## Causes begin and end -/

/-- The refreshed fields of a state with changed inputs. -/
theorem forced_follow (s : State) (i : Inputs) :
    ∃ l, refreshLow { s with inp := i } = { s with inp := i, fld := l } ∧ LowFollows s { s with inp := i, fld := l } := by
  obtain ⟨l, hl⟩ := refreshLow_frame { s with inp := i }
  have hlow := lowFollows_refreshLow { s with inp := i }
  rw [hl] at hlow
  exact ⟨l, hl, lowFollows_of_views hlow rfl rfl rfl⟩

/-- A raised event over the refreshed fields of a state with changed inputs. -/
theorem forced_raised (s : State) (i : Inputs) (m : ErrMsg) :
    let t := raise (refreshLow { s with inp := i }) m
    t.inp = i ∧ LowFollows s t ∧ Raises s t m ∧ t = { s with inp := i, fld := t.fld, stem := t.stem } := by
  obtain ⟨l, hl, hlow⟩ := forced_follow s i
  rw [hl]
  exact ⟨rfl, lowFollows_of_views hlow rfl rfl rfl, rfl, rfl⟩

/-- The same with an event of the sloe domain, whose slot the inputs do not move. -/
theorem forced_raised_sloe (s : State) (i : Inputs) (code detail : Nat) :
    let t := raiseSloe (refreshLow { s with inp := i }) code detail
    LowFollows s t ∧ Raises s t (sloeEvent s code detail) ∧ t = { s with inp := i, fld := t.fld, stem := t.stem } := by
  obtain ⟨l, hl, hlow⟩ := forced_follow s i
  rw [hl]
  exact ⟨lowFollows_of_views hlow rfl rfl rfl, rfl, rfl⟩

/-- The fields follow a cause that ends. -/
theorem forced_ended (s : State) (i : Inputs) :
    let t := endForced { s with inp := i }
    LowEnds s t ∧ t = { s with inp := i, fld := t.fld } := by
  obtain ⟨l, hl⟩ := endForced_frame { s with inp := i }
  have hlow := lowEnds_endForced { s with inp := i }
  rw [hl] at hlow ⊢
  exact ⟨hlow, rfl⟩

/-- The inputs after an active sample of input `ix` (R501). -/
def sampled (x : Inputs) (ix : Fin 7) : Inputs :=
  let m := BitVec.ofNat 7 (2 ^ ix.val)
  { x with
    active := x.active ||| m, forced := x.forced ||| m, acked := x.acked &&& ~~~m
    stuck := if x.forced.getLsbD ix then x.stuck else x.stuck &&& ~~~m }

theorem forcedInputActive_eq {s : State} (ix : Fin 7) (hsloe : s.inp.sloe = true) :
    forcedInputActive s ix =
      let t := { s with inp := sampled s.inp ix }
      if (!s.inp.forced.getLsbD ix && s.inp.main) = true then
        raise (refreshLow t) (mkEvent pithAddr (floorN s) 0x00E5 0 0 7 0 ix) else t := by
  simp only [forcedInputActive, hsloe, sampled, Bool.not_true, Bool.false_eq_true, if_false]
  cases s.inp.forced.getLsbD ix <;> rfl

theorem forcedInputActive_takes (s : State) (ix : Fin 7) (hsloe : s.inp.sloe = true) :
    let t := forcedInputActive s ix
    t.inp = sampled s.inp ix ∧
    (s.inp.forced.getLsbD ix = false → s.inp.main = true →
      LowFollows s t ∧ Raises s t (mkEvent pithAddr (floorN s) 0x00E5 0 0 7 0 ix) ∧
      t = { s with inp := t.inp, fld := t.fld, stem := t.stem }) ∧
    (s.inp.forced.getLsbD ix = true ∨ s.inp.main = false → t = { s with inp := t.inp }) := by
  intro t
  have ht : t = _ := forcedInputActive_eq ix hsloe
  by_cases h : (!s.inp.forced.getLsbD ix && s.inp.main) = true
  · rw [if_pos h] at ht
    obtain ⟨hinp, hlow, hraise, hrest⟩ := forced_raised s (sampled s.inp ix) (mkEvent pithAddr (floorN s) 0x00E5 0 0 7 0 ix)
    rw [ht]
    refine ⟨hinp, fun _ _ => ⟨hlow, hraise, by rw [hinp]; exact hrest⟩, fun hn => ?_⟩
    rcases hn with hn | hn <;> simp only [hn, Bool.not_true, Bool.false_and, Bool.and_false, Bool.false_eq_true] at h
  · rw [if_neg h] at ht
    rw [ht]
    refine ⟨rfl, fun hf hm => ?_, fun _ => rfl⟩
    simp only [hf, hm, Bool.not_false, Bool.and_self, not_true_eq_false] at h

/-- Settles O23. -/
theorem forcedStatesFollowTheirCauses : Obligations.ForcedStatesFollowTheirCauses := by
  intro s ix m
  refine ⟨fun hsloe => ⟨_, rfl, forcedInputActive_takes s ix hsloe⟩, fun hf ha hk => ?_, fun hf hs => ?_, fun mask hm hh => ?_, fun hm hr => ?_,
    fun hm hr => ?_, fun hm hp => ?_, ⟨_, rfl, forced_ended s _⟩, ⟨_, rfl, forced_ended s _⟩, fun hc => ?_⟩
  · refine ⟨_, rfl, ?_⟩
    rw [forcedInputRelease, if_neg (by rw [hf, ha, hk]; decide)]
    exact forced_ended s _
  · refine ⟨_, rfl, ?_⟩
    rw [stuckInput, if_neg (by rw [hf, hs]; decide)]
    exact ⟨rfl, rfl⟩
  · refine ⟨_, rfl, ?_⟩
    rw [alertAck, if_neg (by simp [hm, hh])]
  · refine ⟨_, rfl, ?_⟩
    rw [inputRange, if_neg (by simp [hm, hr])]
    exact forced_raised_sloe s { s.inp with fRange := true } 0x01E0 0
  · refine ⟨_, rfl, ?_⟩
    rw [inputCurrent, if_neg (by simp [hm, hr])]
    exact forced_raised_sloe s { s.inp with fCurrent := true } 0x01E2 0
  · refine ⟨_, rfl, ?_⟩
    rw [converterOverload, if_neg (by simp [hm, hp])]
    obtain ⟨l, hl, hlow⟩ := forced_follow s { s.inp with fConv := true }
    rw [hl]
    exact ⟨hlow, rfl⟩
  · refine ⟨_, rfl, ?_⟩
    rw [coolantRangeRelease, if_neg (by omega)]
    exact forced_ended s _
end Sys2Proof.Proofs.Fields
end

section
/-! SUPPORT. Messages on the stem, and the preparing of a change (02 R55 to R66). -/

namespace Sys2Proof.Proofs.Commits

open Sys2Proof.Laws Sys2Proof.Machine Sys2Proof

/-! ## Messages -/

theorem packet_of_job {s t : State} (h : t.job = s.job) (m : StemMsg) : packet t m = packet s m := by
  cases m <;> simp only [packet, msgUnit, msgFlits, ownerAddr, varOf, jobOf, h]

/-- A state after a list of packets has been sent. -/
def sent (s : State) (l : List Packet) : State := { s with stem := { s.stem with msgs := s.stem.msgs ++ l } }

theorem sent_sent (s : State) (l l' : List Packet) : sent (sent s l) l' = sent s (l ++ l') := by simp [sent, List.append_assoc]

theorem send_eq (s : State) (m : StemMsg) : send s m = sent s [packet s m] := rfl

theorem foldl_send {α : Type} (m : α → StemMsg) (l : List α) (s : State) :
    l.foldl (fun t u => send t (m u)) s = sent s (l.map fun u => packet s (m u)) := by
  induction l generalizing s with
  | nil => simp [sent]
  | cons u l ih =>
    rw [List.foldl_cons, ih, send_eq, sent_sent]
    simp only [List.map_cons, List.singleton_append, packet_of_job (s := s) (t := sent s _) rfl]

/-! ## Preparing a change -/

/-- A PREPARE of `c` for its participants, with the next CSN (R63, R65). -/
def prepared (s : State) (c : Change) : Change :=
  let parts := partsOf s c.kind c.arg
  { c with parts := parts, csn := s.com.csn + 1, epoch := prepareEpoch s parts, at_ := nominalEpoch s, acked := [] }

theorem sendPrepare_eq (s : State) (c : Change) :
    sendPrepare s c =
      let x := prepared s c
      sent { s with com := { s.com with csn := x.csn, kind := kindCode c.kind, stat := 0, epoch := x.epoch % 2 ^ 48, out := some x } }
        (x.parts.map fun u => packet s (.prepare u x.csn c.kind c.arg x.epoch x.parts.length)) := by
  simp only [sendPrepare, foldl_send]
  rfl

theorem sendPrepare_frame (s : State) (c : Change) : ∃ k l, sendPrepare s c = sent { s with com := k } l := ⟨_, _, sendPrepare_eq s c⟩

theorem pump_frame (s : State) : ∃ k l, pump s = sent { s with com := k } l := by
  have hself : s = sent { s with com := s.com } [] := by simp [sent]
  unfold pump
  by_cases h : (!mayPrepare s) = true
  · rw [if_pos h]; exact ⟨_, _, hself⟩
  · rw [if_neg h]
    cases s.com.queue with
    | nil => exact ⟨_, _, hself⟩
    | cons c rest =>
      by_cases hp : (partsOf s c.kind c.arg).isEmpty = true
      · exact ⟨{ s.com with queue := rest }, [], (if_pos hp).trans (by simp only [sent, List.append_nil])⟩
      · obtain ⟨k, l, hk⟩ := sendPrepare_frame { s with com := { s.com with queue := rest } } c
        exact ⟨k, l, (if_neg hp).trans hk⟩

theorem pithPrepare_frame (s : State) (k : CommitKind) (arg : BitVec 64) : ∃ c l, pithPrepare s k arg = sent { s with com := c } l :=
  pump_frame { s with com := { s.com with queue := s.com.queue ++ [{ kind := k, arg := arg, parts := [] }] } }

theorem commitCap_frame (s : State) : ∃ c l, commitCap s = sent { s with com := c } l := by
  unfold commitCap
  extract_lets c last cur
  split_ifs with h
  · exact ⟨s.com, [], by simp [sent]⟩
  · exact pithPrepare_frame s _ _

theorem freqTo_frame (s : State) (k : Nat) : ∃ c l, freqTo s k = sent { s with com := c } l := by
  unfold freqTo
  extract_lets k
  split_ifs with h
  · exact ⟨s.com, [], by simp [sent]⟩
  · exact pithPrepare_frame s _ _

end Sys2Proof.Proofs.Commits
end

section
/-! SUPPORT. The coolant, the converters, the phases and the caps (18): O24. -/

namespace Sys2Proof.Proofs.Supply

open Sys2Proof.Laws Sys2Proof.Machine Sys2Proof Sys2Proof.Proofs.Fields Sys2Proof.Proofs.Commits Sys2Proof.Proofs.StoresAndBruises

/-! ## The coolant -/

theorem newCeiling_frame (s : State) :
    ∃ c l, newCeiling s = sent { s with clk := { s.clk with hostCap := min s.clk.hostCap (capMax s) }, com := c } l :=
  commitCap_frame { s with clk := { s.clk with hostCap := min s.clk.hostCap (capMax s) } }

/-- A reduction of CAPMAX that is taken over where firmware runs (R497). -/
def reduced (s : State) (red : Nat) : State :=
  if (!pithUp s || red = s.pow.reduce) = true then s else newCeiling (bumpGen { s with pow := { s.pow with reduce := red } })

theorem reduced_frame (s : State) (red : Nat) :
    ∃ h c y l, reduced s red =
      sent { s with clk := { s.clk with hostCap := h }, com := c, yld := y, pow := { s.pow with reduce := if pithUp s then red else s.pow.reduce } } l := by
  unfold reduced
  by_cases h : (!pithUp s || red = s.pow.reduce) = true
  · refine ⟨s.clk.hostCap, s.com, s.yld, [], ?_⟩
    have hred : (if pithUp s then red else s.pow.reduce) = s.pow.reduce := by
      cases hp : pithUp s <;> simp_all
    rw [if_pos h, hred]
    simp only [sent, List.append_nil]
  · obtain ⟨c, l, hc⟩ := newCeiling_frame (bumpGen { s with pow := { s.pow with reduce := red } })
    have hp : pithUp s = true := by cases hp : pithUp s <;> simp_all
    rw [if_neg h, hc, hp]
    exact ⟨_, _, _, _, rfl⟩

/-- The inputs and the temperatures of a coolant sample, before the lowest state (R497). -/
def coolantTaken (s : State) (inlet outlet : Int) (rise clear red : Nat) : State :=
  reduced { s with inp := { s.inp with riseMs := rise, clearMs := clear }, pow := { s.pow with inlet := inlet, outlet := outlet } } red

/-- A coolant out of its range forces the lowest state (R497). -/
def coolantForces (s : State) (bad : Bool) : State :=
  if (s.inp.fCoolant || !bad) = true then s
  else raiseSloe (refreshLow { s with inp := { s.inp with fCoolant := true } }) 0x01E1 0

theorem coolantForces_frame (s : State) (bad : Bool) :
    ∃ l e, coolantForces s bad =
        { s with inp := { s.inp with fCoolant := s.inp.fCoolant || bad }, fld := l, stem := { s.stem with events := e } } ∧
      (s.inp.fCoolant = false → bad = true → e = mergeEvent (sloeEvent s 0x01E1 0) s.stem.events) := by
  unfold coolantForces
  by_cases h : (s.inp.fCoolant || !bad) = true
  · refine ⟨s.fld, s.stem.events, ?_, fun hf hb => ?_⟩
    · have hb : (s.inp.fCoolant || bad) = s.inp.fCoolant := by cases hf : s.inp.fCoolant <;> cases bad <;> simp_all
      rw [if_pos h, hb]
    · simp [hf, hb] at h
  · obtain ⟨hf, hb⟩ : s.inp.fCoolant = false ∧ bad = true := by simpa using h
    obtain ⟨l, hl, -⟩ := forced_follow s { s.inp with fCoolant := true }
    rw [if_neg h, hl, hf, hb]
    exact ⟨l, _, rfl, fun _ _ => rfl⟩

theorem coolantSample_eq {s : State} (hm : s.inp.main = true) (inlet outlet : Int) (watts : Nat) :
    let high := decide (120 * (watts : Int) < (outlet - inlet) * 23830)
    let rise := if high then min 1000 (s.inp.riseMs + 1) else 0
    coolantSample s inlet outlet watts =
      coolantForces
        (coolantTaken s inlet outlet rise (if !high && decide (inlet ≤ 480) then min 10000 (s.inp.clearMs + 1) else 0)
          (if 450 < inlet then 20 * min 5 ((inlet - 450) / 10).toNat else 0))
        (decide (500 < inlet) || rise == 1000) := by
  rw [coolantSample, if_neg (by simp [hm])]
  rfl

theorem coolantSample_taken {s : State} (hm : s.inp.main = true) (inlet outlet : Int) (watts : Nat) :
    let high := 120 * (watts : Int) < (outlet - inlet) * 23830
    let rise := if high then min 1000 (s.inp.riseMs + 1) else 0
    let t := coolantSample s inlet outlet watts
    t.pow.inlet = inlet ∧ t.pow.outlet = outlet ∧
    t.inp = { s.inp with
      riseMs := rise, clearMs := if ¬ high ∧ inlet ≤ 480 then min 10000 (s.inp.clearMs + 1) else 0
      fCoolant := s.inp.fCoolant || decide (500 < inlet) || rise == 1000 } ∧
    (pithUp s = true → t.pow.reduce = if 450 < inlet then 20 * min 5 ((inlet - 450) / 10).toNat else 0) ∧
    (pithUp s = false → t.pow.reduce = s.pow.reduce) ∧
    (s.inp.fCoolant = false → (500 < inlet ∨ rise = 1000) → mergeEvent (sloeEvent s 0x01E1 0) s.stem.events = t.stem.events) := by
  intro high rise t
  have ht : t = _ := coolantSample_eq hm inlet outlet watts
  unfold coolantTaken at ht
  obtain ⟨h, c, y, l, hred⟩ := reduced_frame
    { s with
      inp := { s.inp with
        riseMs := if decide high then min 1000 (s.inp.riseMs + 1) else 0
        clearMs := if !decide high && decide (inlet ≤ 480) then min 10000 (s.inp.clearMs + 1) else 0 }
      pow := { s.pow with inlet := inlet, outlet := outlet } } (if 450 < inlet then 20 * min 5 ((inlet - 450) / 10).toNat else 0)
  rw [hred] at ht
  obtain ⟨l', e, hforce, hevent⟩ := coolantForces_frame (sent { s with
      inp := { s.inp with
        riseMs := if decide high then min 1000 (s.inp.riseMs + 1) else 0
        clearMs := if !decide high && decide (inlet ≤ 480) then min 10000 (s.inp.clearMs + 1) else 0 }
      clk := { s.clk with hostCap := h }, com := c, yld := y
      pow := { s.pow with
        inlet := inlet, outlet := outlet
        reduce := if pithUp s then (if 450 < inlet then 20 * min 5 ((inlet - 450) / 10).toNat else 0) else s.pow.reduce } } l)
    (decide (500 < inlet) || (if decide high then min 1000 (s.inp.riseMs + 1) else 0) == 1000)
  have ht' : t = _ := ht.trans hforce
  rw [ht']
  refine ⟨rfl, rfl, ?_, fun hp => ?_, fun hp => ?_, fun hf hbad => ?_⟩
  · simp only [rise, sent, decide_eq_true_eq, Bool.and_eq_true, Bool.not_eq_true', decide_eq_false_iff_not, Bool.or_assoc]
  · exact if_pos hp
  · exact if_neg (by simp [hp])
  · refine (hevent hf ?_).symm
    simpa [rise] using hbad

/-! ## Converters -/

theorem settleConv_frame (s : State) :
    ∃ b p l, settleConv s = { s with inp := { s.inp with fConv := b }, pow := { s.pow with convPending := p }, fld := l } := by
  unfold settleConv
  extract_lets under
  split_ifs with h
  · exact ⟨s.inp.fConv, s.pow.convPending, s.fld, rfl⟩
  · obtain ⟨l, hl⟩ := refreshLow_frame { s with inp := { s.inp with fConv := false }, pow := { s.pow with convPending := false } }
    exact ⟨false, false, l, hl⟩

/-- The yield map and the event of a lost converter, before the ceiling (R473). -/
def converterNoted (s : State) (ix : Fin 16) : State :=
  raiseSloe (dueEntry (bumpGen { s with
    pow := { s.pow with convBad := s.pow.convBad ||| BitVec.ofNat 16 (2 ^ ix.val), convPending := true } })
    { kind := ykConverter, unit := 0, loc := ix, value := 0 }) 0x00E2 ix

theorem converterLost_eq {s : State} {ix : Fin 16} (hm : s.inp.main = true) (hb : s.pow.convBad.getLsbD ix = false) :
    converterLost s ix =
      let t := settleConv (newCeiling (converterNoted s ix))
      if goodConv t < 4 then raiseSloe t 0x03E1 0 else t := by
  rw [converterLost, if_neg (by rw [hm, hb]; decide)]
  rfl

theorem converterLost_taken {s : State} (hm : s.inp.main = true) (ix : Fin 16) (hb : s.pow.convBad.getLsbD ix = false) :
    let t := converterLost s ix
    t.pow.convBad = s.pow.convBad ||| BitVec.ofNat 16 (2 ^ ix.val) ∧ t.yld.gen = s.yld.gen + 1 ∧
    ({ kind := ykConverter, unit := 0, loc := ix, value := 0 } : YEnt) ∈ t.yld.due ∧ t.clk.hostCap = min s.clk.hostCap (capMax t) ∧
    (4 ≤ goodConv t → t.stem.events = mergeEvent (sloeEvent s 0x00E2 ix) s.stem.events) ∧
    (goodConv t < 4 → t.stem.events = mergeEvent (sloeEvent s 0x03E1 0) (mergeEvent (sloeEvent s 0x00E2 ix) s.stem.events)) := by
  intro t
  have ht : t = _ := converterLost_eq hm hb
  obtain ⟨c, l, hc⟩ := newCeiling_frame (converterNoted s ix)
  rw [hc] at ht
  obtain ⟨b, p, l', hs⟩ := settleConv_frame (sent { converterNoted s ix with
    clk := { s.clk with hostCap := min s.clk.hostCap (capMax (converterNoted s ix)) }, com := c } l)
  have ht' : t = _ := ht.trans (congrArg (fun t => if goodConv t < 4 then raiseSloe t 0x03E1 0 else t) hs)
  have hdue := mem_addNew ({ kind := ykConverter, unit := 0, loc := ix, value := 0 } : YEnt) s.yld.due
  split_ifs at ht' with hgood
  · rw [ht']
    exact ⟨rfl, rfl, hdue, rfl, fun h => absurd hgood (Nat.not_lt.mpr h), fun _ => rfl⟩
  · rw [ht']
    exact ⟨rfl, rfl, hdue, rfl, fun _ => rfl, fun h => absurd h hgood⟩

theorem mem_addNew_of_mem {α : Type} [DecidableEq α] {x y : α} {l : List α} (h : y ∈ l) : y ∈ addNew x l := by
  unfold addNew
  split_ifs
  · exact h
  · exact List.mem_append_left _ h

/-! ## Phases -/

/-- The yield map and the mask of a failed phase (R382, R385). -/
def phaseNoted (s : State) (f : FieldIx) (p : Fin 26) : State :=
  bumpGen (dueEntry (modFpow { s with yld := { s.yld with phases := tabMod [] f.val (addNew p.val) s.yld.phases } } f
    fun x => { x with phasesOff := dropAll p.val x.phasesOff }) { kind := ykPhase, unit := f, loc := p, value := 0 })

/-- A failed phase beyond the spares is an event (R385). -/
def phaseRaised (s : State) (f : FieldIx) (spare : Bool) : State := if spare then raiseField s f 0x00E1 0 7 0 0 else s

theorem phaseRaised_frame (s : State) (f : FieldIx) (spare : Bool) : ∃ e, phaseRaised s f spare = { s with stem := { s.stem with events := e } } ∧
    e = if spare then mergeEvent (mkEvent (fieldAddr f) (slotOf s f) 0x00E1 0 0 7 0 0) s.stem.events else s.stem.events := by
  cases spare
  · exact ⟨_, rfl, rfl⟩
  · exact ⟨_, rfl, rfl⟩

theorem slotOf_modFpow (s : State) (f : Nat) (g : FieldPower → FieldPower) (j : Nat) : slotOf (modFpow s f g) j = slotOf s j := by
  unfold slotOf
  rw [fieldOf_modFpow]
  split_ifs with h
  · rw [h]
  · rfl

theorem phaseFailure_taken {s : State} (hm : s.inp.main = true) (f : FieldIx) (p : Fin 26) (hgone : fieldGone s f = false)
    (hp : p.val ∉ tabGet [] s.yld.phases f) :
    let t := phaseFailure s f p
    tabGet [] t.yld.phases f = tabGet [] s.yld.phases f ++ [p.val] ∧ t.yld.gen = s.yld.gen + 1 ∧
    ({ kind := ykPhase, unit := f, loc := p, value := 0 } : YEnt) ∈ t.yld.due ∧
    (24 < goodPhases s f → Raises s t (mkEvent (fieldAddr f) (slotOf s f) 0x00E1 0 0 7 0 0)) ∧
    (goodPhases s f ≤ 24 → t.stem = s.stem) ∧
    (goodPhases t f < 20 → ({ kind := ykRetired, unit := f, loc := 0, value := 5 } : YEnt) ∈ t.yld.due) := by
  intro t
  have ht : t = (let u := phaseRaised (phaseNoted s f p) f (decide (24 < goodPhases s f)); if goodPhases u f < 20 then retireField u f 5 else u) := by
    have hguard : ¬ (!fieldPowered s f || (tabGet [] s.yld.phases f).contains p.val) = true := by
      simp [fieldPowered, hm, hgone, hp]
    exact if_neg hguard
  obtain ⟨e, he, hevents⟩ := phaseRaised_frame (phaseNoted s f p) f (decide (24 < goodPhases s f))
  rw [he] at ht
  have hslot : slotOf (phaseNoted s f p) f = slotOf s f :=
    slotOf_modFpow s f (fun x => { x with phasesOff := dropAll p.val x.phasesOff }) f
  rw [hslot] at hevents
  have hphases : tabGet [] (phaseNoted s f p).yld.phases f = tabGet [] s.yld.phases f ++ [p.val] :=
    (tabGet_mod_same [] f.val (addNew p.val) s.yld.phases).trans (if_neg hp)
  have hdue : ({ kind := ykPhase, unit := f, loc := p, value := 0 } : YEnt) ∈ (phaseNoted s f p).yld.due := mem_addNew _ s.yld.due
  have hup : 24 < goodPhases s f → ({ s.stem with events := e } : Stem) = { s.stem with
      events := mergeEvent (mkEvent (fieldAddr f) (slotOf s f) 0x00E1 0 0 7 0 0) s.stem.events } := by
    intro h
    rw [hevents, if_pos (decide_eq_true h)]
    rfl
  have hdown : goodPhases s f ≤ 24 → ({ s.stem with events := e } : Stem) = s.stem := by
    intro h
    rw [hevents, if_neg (by simp; omega)]
    rfl
  dsimp only at ht
  split_ifs at ht with hfew
  · rw [ht]
    exact ⟨hphases, rfl, mem_addNew_of_mem hdue, hup, hdown, fun _ => mem_addNew _ _⟩
  · rw [ht]
    exact ⟨hphases, rfl, hdue, hup, hdown, fun h => absurd h hfew⟩

/-- Settles O24. -/
theorem supplyAndCoolantEventsAreTaken : Obligations.SupplyAndCoolantEventsAreTaken := by
  intro s hm
  refine ⟨fun inlet outlet watts => ⟨_, rfl, coolantSample_taken hm inlet outlet watts⟩, fun ix hb => ⟨_, rfl, converterLost_taken hm ix hb⟩,
    fun f p hgone hp => ⟨_, rfl, phaseFailure_taken hm f p hgone hp⟩, fun steps hup => ?_, fun w dv da mj => ?_, fun far ch hh hr hf => ?_⟩
  · refine ⟨_, rfl, ?_⟩
    obtain ⟨c, l, hc⟩ := commitCap_frame { s with clk := { s.clk with trayCap := min 480 steps } }
    rw [trayCapSet, if_neg (by simp [hup]), hc]
    exact ⟨rfl, rfl⟩
  · exact ⟨_, rfl, if_neg (by simp [hm])⟩
  · refine ⟨_, rfl, ?_⟩
    have hguard : ¬ (!s.inp.main || s.inp.held || s.mem.selfRefresh || (far && decide (24 ≤ ch.val))) = true := by
      cases far
      · simp [hm, hh, hr]
      · simpa [hm, hh, hr] using hf rfl
    rw [powerDownEntry, if_neg hguard]
    refine ⟨fun x => ?_, rfl⟩
    dsimp only
    rw [tabGet_put]
    by_cases hx : x = if far then 1280 + ch.val else ch.val
    · rw [if_pos hx.symm, decide_eq_true hx, Bool.true_or]
    · rw [if_neg (Ne.symm hx), decide_eq_false hx, Bool.false_or]

end Sys2Proof.Proofs.Supply
end

section
/-! SUPPORT. Regulators, governors, trips, heat and calibration (18): O25. -/

namespace Sys2Proof.Proofs.Regulation

open Sys2Proof.Laws Sys2Proof.Machine Sys2Proof Sys2Proof.Proofs.Fields Sys2Proof.Proofs.Commits Sys2Proof.Proofs.Supply

variable {s : State} {f : FieldIx}

/-! ## Changes of a field's power state -/

theorem powTakes_modFpow (s : State) (f : Nat) (g : FieldPower → FieldPower) : PowTakes s (modFpow s f g) f (g (fieldOf s f).pow) := by
  refine ⟨fun j => ?_, rfl⟩
  rw [fieldOf_modFpow]
  by_cases h : f = j
  · rw [if_pos h, if_pos h.symm]
  · rw [if_neg h, if_neg (Ne.symm h)]

theorem powTakes_of_views {t u : State} {f : Nat} {p : FieldPower} (h : PowTakes s t f p) (hf : u.fld = t.fld)
    (hu : u = { s with fld := u.fld, stem := u.stem }) : PowTakes s u f p := by
  refine ⟨fun g => ?_, hu⟩
  have hg := h.1 g
  unfold fieldOf at hg ⊢
  rw [hf]
  exact hg

theorem regulate_eq (p : FieldPower) (mv : List Nat) : regulate p mv = Regulated p mv := by
  cases mv <;> rfl

/-- An event of a field, where the condition of one holds. -/
def noted (s : State) (f : FieldIx) (code : Nat) (b : Bool) : State := if b = true then raiseField s f code 0 7 0 0 else s

theorem noted_fld (s : State) (f : FieldIx) (code : Nat) (b : Bool) : (noted s f code b).fld = s.fld := by cases b <;> rfl

theorem noted_frame (s : State) (f : FieldIx) (code : Nat) (b : Bool) : noted s f code b = { s with stem := (noted s f code b).stem } := by
  cases b <;> rfl

theorem fieldPowered_of (hm : s.inp.main = true) (hgone : fieldGone s f = false) : fieldPowered s f = true := by
  simp [fieldPowered, hm, hgone]

/-! ## The regulator and the governor -/

/-- The power state after a regulator sample: `l` are the last 100 samples, and `on` says that their sum is above the level of the floor (R475,
R477). -/
def regulated (mv l : List Nat) (on was : Bool) (y : FieldPower) : FieldPower :=
  { regulate y mv with amps := l, floorOn := was || on, floors := if on && !was then y.floors + 1 else y.floors }

theorem regulated_eq (mv l : List Nat) (on : Prop) [Decidable on] (was : Bool) (p : FieldPower) :
    regulated mv l (decide on) was p =
      { Regulated p mv with amps := l, floorOn := was || decide on, floors := p.floors + if on ∧ was = false then 1 else 0 } := by
  unfold regulated
  rw [regulate_eq]
  by_cases h : on
  · cases was <;> simp [h]
  · cases was <;> simp [h]

theorem regulatorSample_acts (hm : s.inp.main = true) (hgone : fieldGone s f = false) (x : RailSample) :
    let p := (fieldOf s f).pow
    let l := (x.amps :: p.amps).take 100
    let on := 100 * floorLevel s f < l.sum
    let t := regulatorSample s f x
    PowTakes s t f { Regulated p x.mv with amps := l, floorOn := p.floorOn || decide on, floors := p.floors + if on ∧ p.floorOn = false then 1 else 0 } ∧
    (on → p.floorOn = false → Raises s t (mkEvent (fieldAddr f) (slotOf s f) 0x00E0 0 0 7 0 0)) ∧
    (¬ on ∨ p.floorOn = true → t.stem = s.stem) := by
  intro p l on t
  have ht : t = noted (modFpow s f (regulated x.mv l (decide on) p.floorOn)) f 0x00E0 (decide on && !p.floorOn) :=
    if_neg (by simp [fieldPowered_of hm hgone])
  have htake := powTakes_modFpow s f (regulated x.mv l (decide on) p.floorOn)
  rw [regulated_eq] at htake
  rw [ht]
  refine ⟨powTakes_of_views htake (noted_fld _ _ _ _) (by rw [noted_frame]; rfl), fun hon hp => ?_, fun hn => ?_⟩
  · rw [decide_eq_true hon, hp]
    exact congrArg (fun n => ({ s.stem with events := mergeEvent (mkEvent (fieldAddr f) n 0x00E0 0 0 7 0 0) s.stem.events } : Stem))
      (slotOf_modFpow s f _ f)
  · have hb : (decide on && !p.floorOn) = false := by
      rcases hn with hn | hn
      · rw [decide_eq_false hn]; rfl
      · rw [hn, Bool.not_true, Bool.and_false]
    rw [hb]
    rfl

theorem floorRelease_acts (h : 10 * (fieldOf s f).pow.amps.sum < 900 * floorLevel s f) :
    PowTakes s (floorRelease s f) f { (fieldOf s f).pow with floorOn := false } := by
  have htake := powTakes_modFpow s f fun x => if 10 * x.amps.sum < 900 * floorLevel s f then { x with floorOn := false } else x
  rw [if_pos h] at htake
  exact htake

theorem governorSample_acts (hm : s.inp.main = true) (hgone : fieldGone s f = false) (mw : Nat) (hact : (fieldOf s f).cond.act ≠ .sleeping)
    (hheld : s.inp.held = false) :
    let p := (fieldOf s f).pow
    let share := 46295 * p.cap - 2560000
    let t := governorSample s f mw
    t.stem = s.stem ∧
      PowTakes s t f { p with
        now := mw
        duty := if share < 36 * mw then max 1 (p.duty * share / (36 * mw))
                else if 3600 * mw < 95 * share ∧ p.duty < 32 then p.duty + 1 else p.duty } := by
  intro p share t
  have ht : t = modFpow s f fun x => { x with now := mw, duty := nextDuty x.duty mw (share36 x.cap) } :=
    if_neg (by simp [fieldClocked, hm, hheld, hgone, hact])
  rw [ht]
  exact ⟨rfl, powTakes_modFpow s f _⟩

/-! ## Fences and trips -/

theorem modCores_frame (s : State) (f : Nat) (g : Nat → Core → Core) : ∃ l, modCores s f g = { s with cor := l } := by
  unfold modCores
  generalize (s.cor.map (·.1)).filter (fun k => k / 288 == f) = ks
  induction ks generalizing s with
  | nil => exact ⟨_, rfl⟩
  | cons k ks ih =>
    obtain ⟨l, hl⟩ := ih (modCore s k (g k))
    exact ⟨l, hl⟩

/-- A field whose hardware has closed the clamps (R17, R495). -/
def clampedBy (cause : Nat) (x : Field) : Field :=
  { x with
    cond := { x.cond with fenced := true, fcause := cause, dead := true }
    clk := { x.clk with hold := .none, staged := [] }
    pow := { x.pow with rails := 0, floorOn := false }
    net := { x.net with clamped := true, link := [], req := [], inb := [], outb := [] }
    str := { x.str with xfer := [], bursts := [] } }

/-- The field's part of FENCE in hardware. -/
def fencedField (cause : Nat) (x : Field) : Field := if (x.cond.fenced || x.cond.retired) = true then x else clampedBy cause x

theorem fenceHw_eq (s : State) (f cause : Nat) : ∃ l, fenceHw s f cause = modField { s with cor := l } f (fencedField cause) := by
  obtain ⟨l, hl⟩ := modCores_frame s f fun _ c => haltCore c
  refine ⟨l, ?_⟩
  unfold fenceHw
  rw [hl]
  rfl

theorem fencedField_of_good {x : Field} (hx : (x.cond.fenced || x.cond.retired) = false) (cause : Nat) : fencedField cause x = clampedBy cause x :=
  if_neg (by rw [hx]; exact Bool.false_ne_true)

/-- The cause that a trip is recorded with (log 147). -/
def tripCause (s : State) (f : FieldIx) (trip : Fin 256) : Fin 256 := if trip.val ≤ 3 ∧ committedTo s f then 5 else trip

theorem tripField_of_good (hm : s.inp.main = true) (hgone : fieldGone s f = false) (trip : Fin 256) :
    tripField s f trip = send (fenceHw s f (tripCause s f trip)) (.fence f (tripCause s f trip)) := by
  obtain ⟨hfenced, hretired⟩ : (fieldOf s f).cond.fenced = false ∧ (fieldOf s f).cond.retired = false := by simpa [fieldGone] using hgone
  unfold tripField
  extract_lets x cause
  rw [if_neg (by simp [x, hm, hretired]), if_neg (by simp [x, hfenced])]
  rfl

/-- A trip of a field in service closes its clamps and sends its notice. -/
theorem tripField_acts (hm : s.inp.main = true) (hgone : fieldGone s f = false) (trip : Fin 256) :
    let cause := tripCause s f trip
    let t := tripField s f trip
    fieldOf t f = clampedBy cause (fieldOf s f) ∧ t.stem = { s.stem with msgs := s.stem.msgs ++ [packet s (.fence f cause)] } ∧
      (∀ g, g ≠ f.val → fieldOf t g = fieldOf s g) ∧ t = { s with fld := t.fld, cor := t.cor, stem := t.stem } := by
  intro cause t
  obtain ⟨l, hl⟩ := fenceHw_eq s f cause
  have ht : t = send (modField { s with cor := l } f (fencedField cause)) (.fence f cause) := (tripField_of_good hm hgone trip).trans (by rw [← hl])
  rw [ht]
  refine ⟨?_, rfl, fun g hg => ?_, rfl⟩
  · have hself := fieldOf_modField { s with cor := l } f f (fencedField cause)
    rw [if_pos rfl] at hself
    exact hself.trans (fencedField_of_good hgone cause)
  · have hother := fieldOf_modField { s with cor := l } f g (fencedField cause)
    rw [if_neg (Ne.symm hg)] at hother
    exact hother

theorem railTrip_acts (hm : s.inp.main = true) (hgone : fieldGone s f = false) (rail : Fin 3) :
    let cause : Fin 256 := if s.com.committed.any fun c => c.parts.contains (.field f) then 5 else Fin.ofNat 256 (rail.val + 1)
    let t := tripField s f (Fin.ofNat 256 (rail.val + 1))
    (fieldOf t f).cond = { (fieldOf s f).cond with fenced := true, fcause := cause, dead := true } ∧
      (fieldOf t f).pow = { (fieldOf s f).pow with rails := 0, floorOn := false } ∧ (fieldOf t f).net.clamped = true ∧
      t.stem = { s.stem with msgs := s.stem.msgs ++ [packet s (.fence f cause)] } ∧
      (∀ g, g ≠ f.val → fieldOf t g = fieldOf s g) ∧ t = { s with fld := t.fld, cor := t.cor, stem := t.stem } := by
  intro cause t
  have hcause : tripCause s f (Fin.ofNat 256 (rail.val + 1)) = cause := by
    have hle : (Fin.ofNat 256 (rail.val + 1)).val ≤ 3 := by
      rw [Fin.val_ofNat]; omega
    unfold tripCause committedTo
    by_cases h : (s.com.committed.any fun c => c.parts.contains (.field f)) = true
    · rw [if_pos ⟨hle, h⟩]; exact (if_pos h).symm
    · rw [if_neg fun hn => h hn.2]; exact (if_neg h).symm
  obtain ⟨hfield, hstem, hothers, hrest⟩ := tripField_acts hm hgone (Fin.ofNat 256 (rail.val + 1))
  rw [hcause] at hfield hstem
  refine ⟨?_, ?_, ?_, hstem, hothers, hrest⟩
  · exact (congrArg Field.cond hfield).trans rfl
  · exact (congrArg Field.pow hfield).trans rfl
  · exact (congrArg (·.net.clamped) hfield).trans rfl

/-! ## Heat -/

/-- The power state with a sample of the junction sensors. -/
def heated (temps : List Int) (p : FieldPower) : FieldPower := { p with temps := temps, hot := min 255 (hottest temps).toNat }

theorem fieldOf_heated (temps : List Int) : fieldOf (modFpow s f (heated temps)) f = { fieldOf s f with pow := heated temps (fieldOf s f).pow } := by
  rw [fieldOf_modFpow, if_pos rfl]

/-- The field as a thermal trip finds it: heated, with one more trip counted. -/
def trippedOnce (s : State) (f : FieldIx) (temps : List Int) : State :=
  modCond (modFpow s f (heated temps)) f fun x => { x with trips := x.trips + 1 }

theorem fieldOf_trippedOnce (temps : List Int) :
    fieldOf (trippedOnce s f temps) f =
      { fieldOf s f with pow := heated temps (fieldOf s f).pow, cond := { (fieldOf s f).cond with trips := (fieldOf s f).cond.trips + 1 } } := by
  unfold trippedOnce
  rw [fieldOf_modCond, if_pos rfl, fieldOf_heated]

theorem thermalTrip_acts (hm : s.inp.main = true) (hgone : fieldGone s f = false) (temps : List Int) :
    let t := thermalTrip (modFpow s f (heated temps)) f
    (fieldOf t f).pow.temps = temps ∧ (fieldOf t f).cond.fenced = true ∧ (fieldOf t f).cond.fcause = 4 ∧
      (fieldOf t f).cond.trips = (fieldOf s f).cond.trips + 1 ∧
      t.stem = { s.stem with msgs := s.stem.msgs ++ [packet s (.fence f 4)] } ∧
      (0 < (fieldOf s f).cond.trips → ({ kind := ykRetired, unit := f, loc := 0, value := 2 } : YEnt) ∈ t.yld.due) := by
  intro t
  have hheated : fieldGone (modFpow s f (heated temps)) f = false := by
    unfold fieldGone; rw [fieldOf_heated]; exact hgone
  have htripped : fieldGone (trippedOnce s f temps) f = false := by
    unfold fieldGone; rw [fieldOf_trippedOnce]; exact hgone
  have ht : t =
      if decide (0 < (fieldOf s f).cond.trips) = true then retireField (tripField (trippedOnce s f temps) f 4) f 2
      else tripField (trippedOnce s f temps) f 4 := by
    have hguard : ¬ (!(modFpow s f (heated temps)).inp.main || fieldGone (modFpow s f (heated temps)) f) = true := by
      rw [hheated]; simp [hm]
    have hunfold : t = _ := if_neg hguard
    rw [fieldOf_heated] at hunfold
    exact hunfold
  obtain ⟨hfield, hstem, -, -⟩ := tripField_acts (s := trippedOnce s f temps) hm htripped 4
  have hcause : tripCause (trippedOnce s f temps) f 4 = 4 := if_neg fun h => absurd h.1 (by decide)
  rw [hcause, fieldOf_trippedOnce] at hfield
  rw [hcause] at hstem
  have hviews : fieldOf t f = fieldOf (tripField (trippedOnce s f temps) f 4) f ∧ t.stem = (tripField (trippedOnce s f temps) f 4).stem := by
    rw [ht]; split_ifs
    · exact ⟨rfl, rfl⟩
    · exact ⟨rfl, rfl⟩
  rw [hviews.1, hviews.2, hfield]
  refine ⟨rfl, rfl, rfl, rfl, hstem, fun h => ?_⟩
  rw [ht, if_pos (decide_eq_true h)]
  exact StoresAndBruises.mem_addNew _ _

/-- Whether a sample enters the THERMAL hold, where it does not trip the field (R491). -/
theorem thermalSensorSample_eq (hm : s.inp.main = true) (hgone : fieldGone s f = false) {temps : List Int} (htemps : temps ≠ []) :
    thermalSensorSample s f temps =
      let h := hottest temps
      let t := modFpow s f (heated temps)
      if 115 ≤ h then thermalTrip t f
      else if 100 ≤ h then
        if (fieldOf t f).clk.thermal then t else raiseField (modFclk t f fun x => { x with thermal := true }) f 0x00E3 0 7 0 0
      else if h ≤ 97 then modFpow (modFclk t f fun x => { x with thermal := false }) f fun x => { x with lowered := false }
      else t :=
  if_neg (by simp [fieldPowered_of hm hgone, htemps])

theorem fieldOf_modFclk_same (s : State) (f : Nat) (g : FieldClock → FieldClock) :
    fieldOf (modFclk s f g) f = { fieldOf s f with clk := g (fieldOf s f).clk } :=
  (fieldOf_modField s f f fun x => { x with clk := g x.clk }).trans (if_pos rfl)

theorem thermalHold_acts (temps : List Int) :
    let t := modFpow s f (heated temps)
    let u := if (fieldOf t f).clk.thermal then t else raiseField (modFclk t f fun x => { x with thermal := true }) f 0x00E3 0 7 0 0
    (fieldOf u f).pow = heated temps (fieldOf s f).pow ∧ (fieldOf u f).clk = { (fieldOf s f).clk with thermal := true } ∧
      ((fieldOf s f).clk.thermal = false → Raises s u (mkEvent (fieldAddr f) (slotOf s f) 0x00E3 0 0 7 0 0)) := by
  intro t u
  have hfield : fieldOf t f = { fieldOf s f with pow := heated temps (fieldOf s f).pow } := fieldOf_heated temps
  by_cases h : (fieldOf s f).clk.thermal = true
  · have hu : u = t := if_pos (by rw [hfield]; exact h)
    rw [hu, hfield]
    refine ⟨rfl, ?_, fun hn => absurd h (by rw [hn]; exact Bool.false_ne_true)⟩
    dsimp only
    rw [← h]
  · have hu : u = raiseField (modFclk t f fun x => { x with thermal := true }) f 0x00E3 0 7 0 0 := if_neg (by rw [hfield]; exact h)
    have hheld : fieldOf u f = { fieldOf t f with clk := { (fieldOf t f).clk with thermal := true } } := by
      rw [hu]
      exact fieldOf_modFclk_same t f fun x => { x with thermal := true }
    have hslot : slotOf (modFclk t f fun x => { x with thermal := true }) f = slotOf s f := by
      unfold slotOf
      rw [fieldOf_modFclk_same, hfield]
    rw [hheld, hfield]
    refine ⟨rfl, rfl, fun _ => ?_⟩
    rw [← hslot, hu]
    rfl

theorem thermalRelease_acts (temps : List Int) :
    let t := modFpow s f (heated temps)
    let u := modFpow (modFclk t f fun x => { x with thermal := false }) f fun x => { x with lowered := false }
    (fieldOf u f).pow = { heated temps (fieldOf s f).pow with lowered := false } ∧
      (fieldOf u f).clk = { (fieldOf s f).clk with thermal := false } ∧ u.stem = s.stem := by
  intro t u
  have hfield : fieldOf u f =
      { fieldOf s f with pow := { heated temps (fieldOf s f).pow with lowered := false }, clk := { (fieldOf s f).clk with thermal := false } } := by
    refine ((fieldOf_modFpow (s := modFclk t f fun x => { x with thermal := false }) f f _).trans (if_pos rfl)).trans ?_
    rw [fieldOf_modFclk_same, fieldOf_heated]
  rw [hfield]
  exact ⟨rfl, rfl, rfl⟩

theorem thermalSensorSample_acts (hm : s.inp.main = true) (hgone : fieldGone s f = false) (temps : List Int) (htemps : temps ≠ []) :
    let hot := hottest temps
    let x := heated temps (fieldOf s f).pow
    let t := thermalSensorSample s f temps
    (fieldOf t f).pow.temps = temps ∧
      (hot < 115 → 100 ≤ hot → (fieldOf t f).pow = x ∧ (fieldOf t f).clk = { (fieldOf s f).clk with thermal := true } ∧
        ((fieldOf s f).clk.thermal = false → Raises s t (mkEvent (fieldAddr f) (slotOf s f) 0x00E3 0 0 7 0 0))) ∧
      (hot ≤ 97 → (fieldOf t f).pow = { x with lowered := false } ∧ (fieldOf t f).clk = { (fieldOf s f).clk with thermal := false } ∧ t.stem = s.stem) ∧
      (97 < hot → hot < 100 → PowTakes s t f x ∧ t.stem = s.stem) ∧
      (115 ≤ hot → (fieldOf t f).cond.fenced = true ∧ (fieldOf t f).cond.fcause = 4 ∧ (fieldOf t f).cond.trips = (fieldOf s f).cond.trips + 1 ∧
        t.stem = { s.stem with msgs := s.stem.msgs ++ [packet s (.fence f 4)] } ∧
        (0 < (fieldOf s f).cond.trips → ({ kind := ykRetired, unit := f, loc := 0, value := 2 } : YEnt) ∈ t.yld.due)) := by
  intro hot x t
  have ht : t = _ := thermalSensorSample_eq hm hgone htemps
  dsimp only at ht
  by_cases h115 : 115 ≤ hot
  · rw [if_pos h115] at ht
    obtain ⟨htaken, htrip⟩ := thermalTrip_acts hm hgone temps
    rw [ht]
    exact ⟨htaken, fun h => absurd h (by omega), fun h => absurd h (by omega), fun _ h => absurd h (by omega), fun _ => htrip⟩
  rw [if_neg h115] at ht
  by_cases h100 : 100 ≤ hot
  · rw [if_pos h100] at ht
    obtain ⟨hpow, hclk, hraise⟩ := thermalHold_acts (s := s) (f := f) temps
    rw [← ht] at hpow hclk hraise
    exact ⟨congrArg (·.temps) hpow, fun _ _ => ⟨hpow, hclk, hraise⟩, fun h => absurd h (by omega), fun _ h => absurd h (by omega),
      fun h => absurd h h115⟩
  rw [if_neg h100] at ht
  by_cases h97 : hot ≤ 97
  · rw [if_pos h97] at ht
    obtain ⟨hpow, hclk, hstem⟩ := thermalRelease_acts (s := s) (f := f) temps
    rw [← ht] at hpow hclk hstem
    exact ⟨congrArg (·.temps) hpow, fun _ h => absurd h h100, fun _ => ⟨hpow, hclk, hstem⟩, fun h => absurd h (by omega), fun h => absurd h h115⟩
  · rw [if_neg h97] at ht
    rw [ht]
    exact ⟨congrArg (·.pow.temps) (fieldOf_heated temps), fun _ h => absurd h h100, fun h => absurd h h97,
      fun _ _ => ⟨powTakes_modFpow s f (heated temps), rfl⟩, fun h => absurd h h115⟩

/-! ## Calibration -/

/-- The power state with a calibrated scale factor, and the energy that it gives at REPORT 1 (R487, R488). -/
def calibrated (report : Bool) (rail k e : Nat) (x : FieldPower) : FieldPower :=
  let r := tabPut 0 rail e x.railE
  { x with
    scale := tabPut 0 rail k x.scale, railE := r, est := (tabGet 0 r 0 + tabGet 0 r 1 + tabGet 0 r 2) / 100
    energy := if report then x.energy + BitVec.ofNat 64 e else x.energy }

theorem foldl_modJob (g : Nat → Job → Job) (l : List Nat) (s : State) :
    ∃ j, l.foldl (fun t a => modJob t a (g a)) s = { s with job := j } := by
  induction l generalizing s with
  | nil => exact ⟨_, rfl⟩
  | cons a l ih =>
    obtain ⟨j, hj⟩ := ih (modJob s a (g a))
    exact ⟨j, hj⟩

theorem calibration_eq (hm : s.inp.main = true) (hgone : fieldGone s f = false) (hup : pithUp s = true) (rail : Fin 3) (measured : Nat)
    {modelled : Nat} (hmod : modelled ≠ 0) :
    let raw := measured * 1000 / modelled
    let k := min 1250 (max 800 raw)
    ∃ j, calibration s f rail measured modelled =
      let u := { modFpow s f (calibrated s.pow.report rail k (modelled * k / 1000)) with job := j }
      if k = raw then u else raiseField u f 0x00E4 0 7 0 0 := by
  intro raw k
  have hguard : ¬ (!pithUp s || !fieldPowered s f) = true := by simp [hup, fieldPowered_of hm hgone]
  unfold calibration
  rw [if_neg hguard, if_neg hmod]
  extract_lets e u c v
  have hv : ∃ j, v = { modFpow s f (calibrated s.pow.report rail k (modelled * k / 1000)) with job := j } := by
    simp only [v]
    split_ifs
    · exact ⟨_, rfl⟩
    · exact foldl_modJob _ _ _
  obtain ⟨j, hj⟩ := hv
  exact ⟨j, by rw [hj]⟩

theorem calibration_acts (hm : s.inp.main = true) (hgone : fieldGone s f = false) (hup : pithUp s = true) (rail : Fin 3) (measured modelled : Nat)
    (hmod : modelled ≠ 0) :
    let p := (fieldOf s f).pow
    let raw := measured * 1000 / modelled
    let k := min 1250 (max 800 raw)
    let t := calibration s f rail measured modelled
    (∀ r, tabGet 0 (fieldOf t f).pow.scale r = if r = rail.val then k else tabGet 0 p.scale r) ∧
      (fieldOf t f).pow.energy = p.energy + (if s.pow.report then BitVec.ofNat 64 (modelled * k / 1000) else 0) ∧
      (k ≠ raw → Raises s t (mkEvent (fieldAddr f) (slotOf s f) 0x00E4 0 0 7 0 0)) ∧ (k = raw → t.stem = s.stem) := by
  intro p raw k t
  obtain ⟨j, hj⟩ := calibration_eq hm hgone hup rail measured hmod
  have ht : t = _ := hj
  have hfld : t.fld = (modFpow s f (calibrated s.pow.report rail k (modelled * k / 1000))).fld := by
    rw [ht]; dsimp only; split_ifs <;> rfl
  have hfield : fieldOf t f = { fieldOf s f with pow := calibrated s.pow.report rail k (modelled * k / 1000) p } := by
    refine (congrArg (fun l => tabGet {} l f.val) hfld).trans ?_
    exact (fieldOf_modFpow s f f _).trans (if_pos rfl)
  refine ⟨fun r => ?_, ?_, fun hk => ?_, fun hk => ?_⟩
  · rw [hfield]
    refine (tabGet_put 0 rail.val r k p.scale).trans ?_
    by_cases h : rail.val = r
    · rw [if_pos h, if_pos h.symm]
    · rw [if_neg h, if_neg (Ne.symm h)]
  · rw [hfield]
    cases s.pow.report
    · simp [calibrated]
    · simp [calibrated]
  · rw [ht]
    refine (congrArg State.stem (if_neg hk)).trans ?_
    exact congrArg (fun n => ({ s.stem with events := mergeEvent (mkEvent (fieldAddr f) n 0x00E4 0 0 7 0 0) s.stem.events } : Stem))
      (slotOf_modFpow s f _ f)
  · rw [ht]
    exact (congrArg State.stem (if_pos hk)).trans rfl

/-- Settles O25. -/
theorem regulationAndHeatActOnTheirField : Obligations.RegulationAndHeatActOnTheirField := by
  intro s f hm hgone p
  exact ⟨fun x => ⟨_, rfl, regulatorSample_acts hm hgone x⟩, fun h => ⟨_, rfl, floorRelease_acts h, rfl⟩, fun rail => ⟨_, rfl, railTrip_acts hm hgone rail⟩,
    fun mw hact hheld => ⟨_, rfl, governorSample_acts hm hgone mw hact hheld⟩, fun temps htemps => ⟨_, rfl, thermalSensorSample_acts hm hgone temps htemps⟩,
    fun rail measured modelled hup hmod => ⟨_, rfl, calibration_acts hm hgone hup rail measured modelled hmod⟩⟩

end Sys2Proof.Proofs.Regulation
end

section
/-! SUPPORT. The field power commands (18): O26. -/

namespace Sys2Proof.Proofs.PowerCommands

open Sys2Proof.Laws Sys2Proof.Machine Sys2Proof Sys2Proof.Proofs.Fields Sys2Proof.Proofs.Commits Sys2Proof.Proofs.Supply

open Sys2Proof.Proofs.Regulation

theorem mem_addNew_iff {α : Type} [DecidableEq α] (x y : α) (l : List α) : x ∈ addNew y l ↔ x = y ∨ x ≠ y ∧ x ∈ l := by
  unfold addNew
  by_cases hxy : x = y
  · subst hxy
    split_ifs with h <;> simp [h]
  · split_ifs <;> simp [hxy]

/-! ## The commands of a field -/

section
variable {s : State} {f : FieldIx} (hm : s.inp.main = true) (hh : s.inp.held = false) (hgone : fieldGone s f = false)
include hm hh hgone

theorem setpoint_acts (mv : Nat) :
    let t := setpoint s f mv
    t.stem = (receive s (.power f 1 (BitVec.ofNat 16 mv))).stem ∧
      (600 ≤ mv → mv ≤ 850 → PowTakes s t f { (fieldOf s f).pow with setpoint := mv, target := mv }) ∧
      (mv < 600 ∨ 850 < mv → t = { s with
        stem := t.stem, trs := { s.trs with gviol := if 900 < mv then min (s.trs.gviol + 1) (2 ^ 24 - 1) else s.trs.gviol } }) := by
  intro t
  have ht : t =
      if mv < 600 ∨ 850 < mv then
        if 900 < mv then { takePower s f 1 mv with trs := { s.trs with gviol := satAdd 24 s.trs.gviol 1 } } else takePower s f 1 mv
      else modFpow (takePower s f 1 mv) f fun x => { x with setpoint := mv, target := mv } :=
    if_neg (show ¬ (!fieldPowered s f || s.inp.held) = true by simp [fieldPowered_of hm hgone, hh])
  by_cases hrange : mv < 600 ∨ 850 < mv
  · rw [if_pos hrange] at ht
    split_ifs at ht with hhigh
    · rw [ht]
      refine ⟨rfl, fun h h' => by omega, fun _ => ?_⟩
      rw [if_pos hhigh]; rfl
    · rw [ht]
      refine ⟨rfl, fun h h' => by omega, fun _ => ?_⟩
      rw [if_neg hhigh]; rfl
  · rw [if_neg hrange] at ht
    rw [ht]
    exact ⟨rfl, fun _ _ => powTakes_of_views (powTakes_modFpow s f fun x => { x with setpoint := mv, target := mv }) rfl rfl,
      fun h => absurd h hrange⟩

theorem phase_acts (n : Nat) (off : Bool) (hn : n < 26) :
    let t := phase s f n off
    t.stem = (receive s (.power f 2 (BitVec.ofNat 16 (n + 256 * b2n off)))).stem ∧
      PowTakes s t f { (fieldOf s f).pow with phasesOff := (fieldOf t f).pow.phasesOff } ∧
      ∀ x, x ∈ (fieldOf t f).pow.phasesOff ↔ (x = n ∧ off = true) ∨ (x ≠ n ∧ x ∈ (fieldOf s f).pow.phasesOff) := by
  intro t
  have ht : t = modFpow (takePower s f 2 (n + 256 * b2n off)) f
      fun x => { x with phasesOff := if off then addNew n x.phasesOff else dropAll n x.phasesOff } :=
    if_neg (show ¬ (!fieldPowered s f || s.inp.held || decide (26 ≤ n)) = true by simp [fieldPowered_of hm hgone, hh, hn])
  have hpow : (fieldOf t f).pow = { (fieldOf s f).pow with
      phasesOff := if off then addNew n (fieldOf s f).pow.phasesOff else dropAll n (fieldOf s f).pow.phasesOff } := by
    rw [ht, fieldOf_modFpow, if_pos rfl]; rfl
  rw [hpow]
  refine ⟨by rw [ht]; rfl, ?_, fun x => ?_⟩
  · rw [ht]
    exact powTakes_of_views (powTakes_modFpow s f fun x => { x with phasesOff := if off then addNew n x.phasesOff else dropAll n x.phasesOff }) rfl rfl
  · cases off
    · simp [dropAll, and_comm]
    · simp [mem_addNew_iff]

theorem rails_acts (mask : BitVec 3) (hsleep : (fieldOf s f).cond.act = .sleeping) :
    let t := rails s f mask
    t.stem = (receive s (.power f 3 (BitVec.ofNat 16 mask.toNat))).stem ∧ PowTakes s t f { (fieldOf s f).pow with rails := mask } := by
  intro t
  have ht : t = modFpow (takePower s f 3 mask.toNat) f fun x => { x with rails := mask } :=
    if_neg (show ¬ (!fieldPowered s f || s.inp.held || (fieldOf s f).cond.act != .sleeping) = true by
      simp [fieldPowered_of hm hgone, hh, hsleep])
  rw [ht]
  exact ⟨rfl, powTakes_of_views (powTakes_modFpow s f fun x => { x with rails := mask }) rfl rfl⟩

theorem energySnap_acts :
    let t := energySnap s f
    t.stem = (receive s (.power f 5 0)).stem ∧ PowTakes s t f { (fieldOf s f).pow with snap := (fieldOf s f).pow.counts } := by
  intro t
  have ht : t = modFpow (takePower s f 5 0) f fun x => { x with snap := x.counts } :=
    if_neg (show ¬ (!fieldPowered s f || s.inp.held) = true by simp [fieldPowered_of hm hgone, hh])
  rw [ht]
  exact ⟨rfl, powTakes_of_views (powTakes_modFpow s f fun x => { x with snap := x.counts }) rfl rfl⟩

end

/-! ## The milliseconds of heat and cold -/

/-- The power state after a millisecond at the hottest reading `h` (R491, R492; log 100). -/
def heatCounted (h : Int) (x : FieldPower) : FieldPower :=
  { x with
    ms95 := if 95 ≤ h then min 1 (x.ms95 + 1) else 0, ms105 := if 105 ≤ h then min 100 (x.ms105 + 1) else 0
    ms90 := if h ≤ 90 then min 1000 (x.ms90 + 1) else 0, lowerIn := x.lowerIn - 1
    cool := if 95 ≤ h then 0 else min 100 (x.cool + 1) }

theorem thermalRead_counts {s : State} {f : FieldIx} (hm : s.inp.main = true) (hgone : fieldGone s f = false) (hup : pithUp s = true)
    (htemps : (fieldOf s f).pow.temps ≠ []) (hhot : hottest (fieldOf s f).pow.temps < 95) (hrun : (fieldOf s f).cond.act = .running)
    (hthermal : (fieldOf s f).clk.thermal = false) :
    thermalRead s f = modFpow s f (heatCounted (hottest (fieldOf s f).pow.temps)) := by
  have hguard : ¬ (!pithUp s || !fieldPowered s f || (fieldOf s f).pow.temps.isEmpty) = true := by
    simp [hup, fieldPowered_of hm hgone, htemps]
  unfold thermalRead
  rw [if_neg hguard]
  extract_lets h u x
  have hfield : x = { fieldOf s f with pow := heatCounted h (fieldOf s f).pow } := (fieldOf_modFpow s f f _).trans (if_pos rfl)
  have hms105 : x.pow.ms105 = 0 := by rw [hfield]; exact if_neg (by omega)
  have hms95 : x.pow.ms95 = 0 := by rw [hfield]; exact if_neg (by omega)
  have hact : x.cond.act = .running := by rw [hfield]; exact hrun
  have hclk : x.clk.thermal = false := by rw [hfield]; exact hthermal
  rw [if_neg (by simp [hms105]), if_neg (by simp [hclk]), if_neg (by simp [hms95]), if_neg (by simp [hact])]
  rfl

theorem heatCounted_of_cool {h : Int} (hcool : h < 95) (p : FieldPower) :
    heatCounted h p = { p with
      ms95 := 0, ms105 := 0, ms90 := if h ≤ 90 then min 1000 (p.ms90 + 1) else 0, lowerIn := p.lowerIn - 1, cool := min 100 (p.cool + 1) } := by
  unfold heatCounted
  rw [if_neg (by omega : ¬ 95 ≤ h), if_neg (by omega : ¬ 105 ≤ h), if_neg (by omega : ¬ 95 ≤ h)]

/-- Settles O26. -/
theorem fieldPowerCommandsAct : Obligations.FieldPowerCommandsAct := by
  intro s f hm hh hgone p got
  refine ⟨fun mv => ⟨_, rfl, setpoint_acts hm hh hgone mv⟩, fun n off hn => ⟨_, rfl, phase_acts hm hh hgone n off hn⟩,
    fun mask hsleep => ⟨_, rfl, rails_acts hm hh hgone mask hsleep⟩, ⟨_, rfl, energySnap_acts hm hh hgone⟩,
    fun hup htemps hhot hrun hthermal => ⟨_, rfl, ?_⟩⟩
  rw [thermalRead_counts hm hgone hup htemps hhot hrun hthermal]
  refine ⟨rfl, ?_⟩
  have htake := powTakes_modFpow s f (heatCounted (hottest (fieldOf s f).pow.temps))
  rw [heatCounted_of_cool hhot] at htake
  exact htake

end Sys2Proof.Proofs.PowerCommands
end

section
/-! SUPPORT. The rate code (18): O27. -/

namespace Sys2Proof.Proofs.RateCode

open Sys2Proof.Laws Sys2Proof.Machine Sys2Proof Sys2Proof.Proofs.Fields Sys2Proof.Proofs.Commits

theorem le_prepareEpoch (s : State) (parts : List Part) : nominalEpoch s + 16 ≤ prepareEpoch s parts := by
  unfold prepareEpoch
  generalize nominalEpoch s + 16 = n
  have hmono : ∀ (l : List Part) (m : Nat), n ≤ m →
      n ≤ l.foldl (fun e u => match u with | .field f => max e (slotOf s f / 4096 + 8) | _ => e) m := by
    intro l
    induction l with
    | nil => exact fun m h => h
    | cons u l ih =>
      intro m h
      refine ih _ ?_
      cases u
      case field f => exact le_max_of_le_left h
      all_goals exact h
  exact hmono parts n le_rfl

theorem partsOf_freq_ne_nil (s : State) (arg : BitVec 64) : (partsOf s .freq arg).isEmpty = false := by simp [partsOf]

theorem pump_of_queue {s : State} {c : Change} {rest : List Change} (hmay : mayPrepare s = true) (hq : s.com.queue = c :: rest)
    (hparts : (partsOf s c.kind c.arg).isEmpty = false) : pump s = sendPrepare { s with com := { s.com with queue := rest } } c := by
  unfold pump
  rw [if_neg (by rw [hmay]; decide), hq]
  exact if_neg fun h => absurd (hparts.symm.trans h) Bool.false_ne_true

theorem pithPrepare_freq {s : State} (hidle : CommitIdle s) (arg : BitVec 64) : Prepares s (pithPrepare s .freq arg) .freq arg := by
  obtain ⟨hup, hout, hqueue, -, -, hlost, hsafe⟩ := hidle
  have hmay : mayPrepare s = true := by simp [mayPrepare, hup, hout, hlost, hsafe]
  have hq : s.com.queue ++ [({ kind := .freq, arg := arg, parts := [] } : Change)] = [{ kind := .freq, arg := arg, parts := [] }] := by
    rw [hqueue]; rfl
  have hsend : pithPrepare s .freq arg = sendPrepare { s with com := { s.com with queue := [] } } { kind := .freq, arg := arg, parts := [] } :=
    pump_of_queue (s := { s with com := { s.com with queue := _ } }) hmay hq (partsOf_freq_ne_nil s arg)
  rw [hsend, sendPrepare_eq]
  exact ⟨rfl, ⟨_, rfl, rfl, rfl, rfl, rfl, rfl, le_prepareEpoch s _, rfl⟩, rfl⟩

/-! ## The rate code -/

theorem mayRate_of_idle {s : State} (hidle : CommitIdle s) (hbrg : s.brg.st = 1) : mayRate s = true := by
  obtain ⟨hup, hout, hqueue, hretry, hcommitted, -, hsafe⟩ := hidle
  simp [mayRate, hup, hsafe, hbrg, changing, hout, hqueue, hretry, hcommitted]

theorem freqTo_prepares {s : State} (hidle : CommitIdle s) (hbrg : s.brg.st = 1) {k : Nat} (hk : s.clk.k ≠ max 8 k) :
    Prepares s (freqTo s k) .freq (BitVec.ofNat 64 (max 8 k)) := by
  unfold freqTo
  dsimp only
  rw [if_neg (by simp [mayRate_of_idle hidle hbrg, hk])]
  exact pithPrepare_freq hidle _

theorem limitK_of_fields {s : State} {l : Tab Field}
    (h : ∀ f, f < 36 → (tabGet {} l f).cond = (fieldOf s f).cond ∧ (tabGet {} l f).pow.guard = (fieldOf s f).pow.guard) :
    limitK { s with fld := l } = limitK s := by
  have hmax : maxK { s with fld := l } = maxK s := by
    have hfits : ∀ k f, f ∈ List.range 36 →
        (fieldGone { s with fld := l } f || decide (vSet { s with fld := l } f k ≤ 850)) = (fieldGone s f || decide (vSet s f k ≤ 850)) := by
      intro k f hf
      obtain ⟨hcond, hguard⟩ := h f (List.mem_range.mp hf)
      have hc : (fieldOf { s with fld := l } f).cond = (fieldOf s f).cond := hcond
      have hg : (fieldOf { s with fld := l } f).pow.guard = (fieldOf s f).pow.guard := hguard
      have hgone : fieldGone { s with fld := l } f = fieldGone s f := by simp only [fieldGone, hc]
      have hset : vSet { s with fld := l } f k = vSet s f k := by simp only [vSet, guardOf, hg]
      rw [hgone, hset]
    have hall : (fun k => (List.range 36).all fun f => fieldGone { s with fld := l } f || decide (vSet { s with fld := l } f k ≤ 850)) =
        fun k => (List.range 36).all fun f => fieldGone s f || decide (vSet s f k ≤ 850) := by
      funext k
      rw [Bool.eq_iff_iff, List.all_eq_true, List.all_eq_true]
      exact forall₂_congr fun f hf => by rw [hfits k f hf]
    unfold maxK
    rw [hall]
  unfold limitK
  rw [hmax]

/-- An ACTIVE field with a low governor sample. -/
def LowDuty (s : State) (f : Nat) : Prop := fieldGone s f = false ∧ (fieldOf s f).cond.act = .running ∧ (fieldOf s f).pow.duty < 32

theorem mem_activeFields (s : State) (f : Nat) :
    f ∈ activeFields s ↔ f < 36 ∧ fieldGone s f = false ∧ (fieldOf s f).cond.act = .running := by
  simp [activeFields]

/-- The low samples of every field, as DUTY_SAMPLE marks them (R483). -/
def dutyMarked (s : State) : State :=
  firstFields s (fun f x => { x with pow := { x.pow with
    lowDuty := (activeFields s).contains f && decide ((fieldOf s f).pow.duty < 32) } }) 36

theorem lowDuty_dutyMarked (s : State) {g : Nat} (hg : g < 36) : (fieldOf (dutyMarked s) g).pow.lowDuty = true ↔ LowDuty s g := by
  unfold dutyMarked
  rw [fieldOf_firstFields, if_pos hg]
  simp [LowDuty, mem_activeFields, hg, and_assoc]

theorem dutySample_of_low {s : State} (hup : pithUp s = true) (kfit : Nat) {f : FieldIx} (hlow : LowDuty s f)
    (htwice : (fieldOf s f).pow.lowDuty = true) :
    dutySample s kfit =
      if max 8 (min (limitK (dutyMarked s)) kfit) < (dutyMarked s).clk.k then freqTo (dutyMarked s) (min (limitK (dutyMarked s)) kfit)
      else dutyMarked s := by
  obtain ⟨hgone, hrun, hduty⟩ := hlow
  have hany : ((activeFields s).any fun f => decide ((fieldOf s f).pow.duty < 32) && (fieldOf s f).pow.lowDuty) = true :=
    List.any_eq_true.mpr ⟨f, (mem_activeFields s f).mpr ⟨f.isLt, hgone, hrun⟩, by simp [hduty, htwice]⟩
  unfold dutySample
  rw [if_neg (by simp [hup])]
  extract_lets fs low twice t k
  have hk : k = min (limitK t) kfit := congrArg (min (limitK t)) (if_pos hany)
  rw [hk]
  rfl

theorem rateRaise_eq {s : State} (hlimit : s.clk.k < limitK s)
    (hcool : ∀ f, f < 36 → fieldGone s f = false → (fieldOf s f).cond.act = .running → 100 ≤ (fieldOf s f).pow.cool)
    (hthermal : ∀ f, f < 36 → fieldClocked s f = true → (fieldOf s f).clk.thermal = false) : rateRaise s true = freqTo s (s.clk.k + 1) := by
  have hfs : ((activeFields s).any fun f => decide ((fieldOf s f).pow.cool < 100)) = false := by
    rw [List.any_eq_false]
    intro f hf
    obtain ⟨hlt, hgone, hrun⟩ := (mem_activeFields s f).mp hf
    have := hcool f hlt hgone hrun
    simp; omega
  have hts : ((List.range 36).any fun f => fieldClocked s f && (fieldOf s f).clk.thermal) = false := by
    rw [List.any_eq_false]
    intro f hf
    cases hc : fieldClocked s f
    · simp
    · simp [hthermal f (List.mem_range.mp hf) hc]
  exact if_neg (by rw [hfs, hts, decide_eq_false (by omega)]; decide)

/-- Settles O27. -/
theorem rateCodeFollowsTheGovernors : Obligations.RateCodeFollowsTheGovernors := by
  intro s hidle hbrg low
  refine ⟨?duty, ?raise⟩
  case duty =>
    intro kfit f hlow htwice k hk
    refine ⟨_, rfl, ?_⟩
    obtain ⟨l, hl⟩ := firstFields_frame s (fun f x => { x with pow := { x.pow with
      lowDuty := (activeFields s).contains f && decide ((fieldOf s f).pow.duty < 32) } }) 36
    have hmark := fun g hg => lowDuty_dutyMarked s (g := g) hg
    have hsample := dutySample_of_low hidle.1 kfit hlow htwice
    have hdm : dutyMarked s = { s with fld := l } := hl
    have hlimit : limitK { s with fld := l } = limitK s := by
      refine limitK_of_fields fun g hg => ?_
      have hfield : tabGet {} l g = fieldOf (dutyMarked s) g := by rw [hdm]; rfl
      rw [hfield, dutyMarked, fieldOf_firstFields, if_pos hg]
      exact ⟨rfl, rfl⟩
    rw [hdm] at hsample hmark
    rw [hlimit, if_pos hk] at hsample
    have hprep := freqTo_prepares (s := { s with fld := l }) hidle hbrg (k := min (limitK s) kfit) (ne_of_gt hk)
    obtain ⟨c, m, hfreq⟩ := freqTo_frame { s with fld := l } (min (limitK s) kfit)
    have hstep : dutySample s kfit = freqTo { s with fld := l } (min (limitK s) kfit) := hsample
    rw [hstep]
    refine ⟨hprep, fun g hg => ?_⟩
    rw [hfreq]
    exact hmark g hg
  case raise =>
    intro hlimit h8 hcool hthermal
    refine ⟨_, rfl, ?_⟩
    rw [rateRaise_eq hlimit hcool hthermal]
    have hprep := freqTo_prepares hidle hbrg (k := s.clk.k + 1) (by omega)
    rwa [max_eq_right (by omega)] at hprep

end Sys2Proof.Proofs.RateCode
end

section
/-! SUPPORT. Power loss and the module reset (18, 19): O28. -/

namespace Sys2Proof.Proofs.Resets

open Sys2Proof.Laws Sys2Proof.Machine Sys2Proof Sys2Proof.Proofs.LoadRows

/-! ## What a loss of power keeps -/

theorem fieldOf_keptFields {s t : State} (ht : t.fld = keptFields s) {f : Nat} (hf : f < 36) : fieldOf t f = keptField (fieldOf s f) := by
  have hget := tabGet_puts ({} : Field) (key := id) (V := fun f => keptField (fieldOf s f)) (l := List.range 36) (fun _ _ => rfl) [] f
  rw [List.map_id, if_pos (List.mem_range.mpr hf)] at hget
  unfold fieldOf
  rw [ht]
  exact hget

theorem domainsLost_coldState (s : State) : DomainsLost s (coldState s) :=
  ⟨fun _ hf => fieldOf_keptFields rfl hf, rfl, rfl, rfl, rfl, rfl, rfl, rfl, rfl, rfl, rfl, rfl, rfl, rfl, rfl, rfl, rfl, rfl, rfl, rfl, rfl, rfl⟩

theorem freeSeq_frame (s : State) (q : Nat) : ∃ r p, freeSeq s q = { s with log := { s.log with recs := r, pend := p } } := by
  unfold freeSeq
  split
  · exact ⟨_, _, rfl⟩
  · exact ⟨_, _, rfl⟩

theorem freeSeqs_frame (l : List Nat) (s : State) : ∃ r p, l.foldl freeSeq s = { s with log := { s.log with recs := r, pend := p } } := by
  induction l generalizing s with
  | nil => exact ⟨_, _, rfl⟩
  | cons q l ih =>
    obtain ⟨r, p, h⟩ := freeSeq_frame s q
    obtain ⟨r', p', h'⟩ := ih (freeSeq s q)
    rw [h] at h'
    exact ⟨r', p', by rw [List.foldl_cons, h]; exact h'⟩

theorem keptLog_seq (s : State) : (keptLog s).seq = s.log.seq := by
  obtain ⟨r, p, h⟩ := freeSeqs_frame s.log.pend s
  unfold keptLog
  rw [h]

/-! ## The module reset -/

theorem enqueue_frame (s : State) (p cls cells ctx : Nat) (dst : BitVec 16) (o : Nat → Output) :
    ∃ b l, enqueue s p cls cells ctx dst o = { s with bup := b, out := l } := ⟨_, _, rfl⟩

theorem sendFail_frame (s : State) : ∃ b l, sendFail s = { s with bup := b, out := l } := by
  unfold sendFail
  generalize mirrorPorts s = ps
  induction ps generalizing s with
  | nil => exact ⟨_, _, rfl⟩
  | cons p ps ih =>
    obtain ⟨b, l, h⟩ := enqueue_frame s p 0 (if tyFail = tyWrite then 65 else 1) 65535 s.pair.partner fun _ => .mirror p tyFail (mirCtl 0 0 0)
    obtain ⟨b', l', h'⟩ := ih (mirSend s p tyFail (mirCtl 0 0 0))
    unfold mirSend at h'
    rw [h] at h'
    exact ⟨b', l', by rw [List.foldl_cons, mirSend, h]; exact h'⟩

/-- Where no reset is under way, FAIL has gone out on the mirror ports (R513). -/
theorem failSent_frame (s : State) : ∃ b l, (if s.inp.held = true then s else sendFail s) = { s with bup := b, out := l } := by
  by_cases h : s.inp.held = true
  · exact ⟨s.bup, s.out, if_pos h⟩
  · obtain ⟨b, l, hfail⟩ := sendFail_frame s
    exact ⟨b, l, (if_neg h).trans hfail⟩

/-- The slices that a module reset keeps (R513). -/
theorem tabGet_keptSlices (s : State) {i : Nat} (hi : i < 36) :
    tabGet {} ((List.range 36).foldl (fun t i => if sealedSlice (sliceOf s i) then tabPut {} i (sliceOf s i) t else t) []) i =
      if sealedSlice (sliceOf s i) then sliceOf s i else {} := by
  rw [← List.foldl_filter (p := fun i => sealedSlice (sliceOf s i)) (f := fun t i => tabPut {} i (sliceOf s i) t)]
  have hget := tabGet_puts ({} : Slice) (key := id) (V := sliceOf s) (l := (List.range 36).filter fun i => sealedSlice (sliceOf s i)) (fun _ _ => rfl) [] i
  refine hget.trans ?_
  simp [hi]

/-- What a module reset keeps (R512, R513). -/
theorem beginReset_keeps (s : State) (recovery : Bool) :
    let t := beginReset s recovery
    DomainsLost s t ∧ t.inp.main = s.inp.main ∧ t.inp.held = true ∧ t.inp.sysRst = s.inp.sysRst ∧ t.inp.forced = s.inp.forced ∧ t.log.seq = s.log.seq ∧
      t.pith = { wdog := s.pith.wdog } ∧ t.mem.selfRefresh = true ∧ t.mem.chan = (if t.brg.warm then s.mem.chan else []) ∧
      ∀ i, i < 36 → sliceOf t i = if (sliceOf s i).valid ∧ (sliceOf s i).sealed_ then sliceOf s i else {} := by
  intro t
  obtain ⟨b, l, hsent⟩ := failSent_frame s
  have ht : t = beginReset s recovery := rfl
  unfold beginReset at ht
  rw [hsent] at ht
  extract_lets u slices warm v yOld y rOld r at ht
  have hslices : ∀ i, i < 36 → sliceOf t i = if (sliceOf s i).valid ∧ (sliceOf s i).sealed_ then sliceOf s i else {} := by
    intro i hi
    have hslice : sliceOf t i = tabGet {} slices i := by rw [ht]; rfl
    rw [hslice]
    refine (tabGet_keptSlices u hi).trans ?_
    simp only [sealedSlice, Bool.and_eq_true]
    rfl
  have hseq : t.log.seq = s.log.seq := by rw [ht]; exact keptLog_seq u
  have hfld : FieldKept s t := fun f hf => fieldOf_keptFields (by rw [ht]; rfl) hf
  rw [ht] at hfld hseq hslices ⊢
  have hy : y.base = s.yld.base ∧ y.ext = s.yld.ext ∧ y.boots = s.yld.boots ∧ y.baseObj = s.yld.baseObj := by
    simp only [y]; split_ifs <;> exact ⟨rfl, rfl, rfl, rfl⟩
  have hr : r.keyRev = s.trs.keyRev ∧ r.minSvn = s.trs.minSvn ∧ r.sigNext = s.trs.sigEnd ∧ r.safe = false ∧ r.image = s.trs.image ∧
      r.ident = s.trs.ident := by
    simp only [r]; split_ifs <;> exact ⟨rfl, rfl, rfl, rfl, rfl, rfl⟩
  obtain ⟨hbase, hext, hboots, hobj⟩ := hy
  obtain ⟨hkey, hsvn, hsig, hsafe, himage, hident⟩ := hr
  exact ⟨⟨hfld, rfl, rfl, rfl, rfl, rfl, rfl, rfl, rfl, rfl, rfl, rfl, hbase, hext, hboots, hkey, hsvn, hsig, hsafe, himage, hident, hobj⟩,
    rfl, rfl, rfl, rfl, hseq, rfl, rfl, rfl, hslices⟩

theorem standbyDead_iff (v : Int) : standbyDead v = true ↔ v < 400 ∨ 840 < v := decide_eq_true_iff
theorem inputDead_iff (v : Int) : inputDead v = true ↔ v < 540 ∨ 840 < v := decide_eq_true_iff
theorem reversed_iff (v : Int) : reversed v = true ↔ v < -10 := decide_eq_true_iff

/-- The input failure of a powered module (R471). -/
theorem inputFail_keeps {s : State} {v : Int} (hm : s.inp.main = true) (hv : v < 540 ∨ 840 < v) :
    let t := inputFail s v
    DomainsLost s t ∧ t.inp.main = false ∧ t.inp.sloe = s.inp.sloe ∧ t.inp.inputFail = true ∧ t.inp.forced = s.inp.forced ∧ t.inp.acked = s.inp.acked ∧
      t.inp.perst = s.inp.perst ∧ t.log.recs = (s.log.pend.foldl freeSeq s).log.recs ∧ t.log.seq = s.log.seq ∧
      t.pith = { wdog := s.pith.wdog } ∧ t.pair = {} := by
  intro t
  have ht : t = _ := if_neg (show ¬ (!s.inp.main || !inputDead v) = true by simp [hm, (inputDead_iff v).mpr hv])
  have hseq : t.log.seq = s.log.seq := by rw [ht]; exact keptLog_seq s
  have hfld : FieldKept s t := fun f hf => fieldOf_keptFields (by rw [ht]; rfl) hf
  rw [ht] at hfld hseq ⊢
  exact ⟨⟨hfld, rfl, rfl, rfl, rfl, rfl, rfl, rfl, rfl, rfl, rfl, rfl, rfl, rfl, rfl, rfl, rfl, rfl, rfl, rfl, rfl, rfl⟩, rfl, rfl, rfl, rfl, rfl,
    rfl, rfl, hseq, rfl, rfl⟩

/-- Settles O28. -/
theorem powerLossAndModuleResetKeepWhatTheyShould : Obligations.PowerLossAndModuleResetKeepWhatTheyShould := by
  intro s v
  refine ⟨fun hv => ?_, fun hv hdead => ?_, fun hv hdead hm => ?_, fun hsloe hm hfail => ?_, fun hsloe hm => ?_⟩
  · exact ⟨if_pos ((reversed_iff v).mpr hv), if_pos ((reversed_iff v).mpr hv)⟩
  · refine ⟨_, if_neg (mt (reversed_iff v).mp (by omega)), ?_⟩
    rw [standbyPowerLoss, if_pos ((standbyDead_iff v).mpr hdead)]
    exact ⟨domainsLost_coldState s, rfl, rfl, rfl, rfl, rfl, rfl⟩
  · exact ⟨_, if_neg (mt (reversed_iff v).mp (by omega)), inputFail_keeps hm hdead⟩
  · exact congrArg Host.Outcome.next (if_neg (by simp [hsloe, hm, hfail]))
  · refine ⟨_, rfl, ?_⟩
    obtain ⟨hlost, hmain, hheld, hrst, hforced, hseq, hrest⟩ := beginReset_keeps { s with inp := { s.inp with sysRst := true } } false
    rw [moduleReset, if_neg (by simp [hsloe]), if_neg (by simp [hm])]
    exact ⟨hlost, hmain.trans hm, hheld, hrst, hforced, hseq, hrest⟩

end Sys2Proof.Proofs.Resets
end

section
/-! SUPPORT. Port resets and the function reset (19): O29. -/

namespace Sys2Proof.Proofs.PortResets

open Sys2Proof.Laws Sys2Proof.Machine Sys2Proof Sys2Proof.Proofs.LoadRows

/-! ## Ports -/

theorem cxlPortOf_clearPort (s : State) (p o : Nat) : cxlPortOf (clearPort s p) o = if p = o then {} else cxlPortOf s o :=
  cxlPortOf_modCxlPort s p o _

/-! ## The function reset -/

theorem jobOf_foldl_modJob {g : Job → Job} (hg : ∀ x, g (g x) = g x) (l : List Nat) (s : State) (a : Nat) :
    jobOf (l.foldl (fun t b => modJob t b g) s) a = if a ∈ l then g (jobOf s a) else jobOf s a := by
  induction l generalizing s with
  | nil => rfl
  | cons b l ih =>
    rw [List.foldl_cons, ih, jobOf_modJob]
    by_cases hb : b = a
    · subst hb
      simp [hg]
    · simp [hb, Ne.symm hb]

theorem foldl_modJob_frame (g : Job → Job) (l : List Nat) (s : State) : ∃ j, l.foldl (fun t b => modJob t b g) s = { s with job := j } := by
  induction l generalizing s with
  | nil => exact ⟨_, rfl⟩
  | cons b l ih => exact ih (modJob s b g)

/-- A grant after a function reset (R514). -/
def revokedGrant (e : Grant) : Grant := if e.valid || e.revoking then { e with valid := false, revoking := true, clear := true } else {}

/-- The CXL registers after a function reset, before the ports' own (R514). -/
def resetCxl (s : State) : Cxl :=
  { s.cxl with
    grant := (List.range 64).foldl (fun t i => tabPut {} i (revokedGrant (grantOf s i)) t) []
    queue := [], win := 0, committed := false, msixMask := 65535, msixPend := 0, msixTab := []
    keptSq := [], keptCq := [], lines := []
    cmds := s.cxl.cmds.map fun x => { x with mute := true }
    held := (s.cxl.held.filter (·.async)).map fun x => { x with cq := 0 } }

theorem functionReset_eq (s : State) :
    functionReset s = clearPort (clearPort ((liveJobs s).foldl (fun t a => modJob t a fun j => { j with orphan := true }) { s with cxl := resetCxl s }) 0) 1 :=
  rfl

theorem functionReset_frame (s : State) : ∃ c j, functionReset s = { s with cxl := { resetCxl s with port := c }, job := j } ∧
    (∀ a, tabGet {} j a = if a ∈ liveJobs s then { jobOf s a with orphan := true } else jobOf s a) ∧
    tabGet {} c 0 = {} ∧ tabGet {} c 1 = {} := by
  obtain ⟨j, hj⟩ := foldl_modJob_frame (fun j => { j with orphan := true }) (liveJobs s) { s with cxl := resetCxl s }
  have hjobs := jobOf_foldl_modJob (g := fun j => { j with orphan := true }) (fun _ => rfl) (liveJobs s) { s with cxl := resetCxl s }
  rw [functionReset_eq, hj]
  rw [hj] at hjobs
  refine ⟨_, j, rfl, hjobs, ?_, ?_⟩
  · exact ((cxlPortOf_clearPort (clearPort { s with cxl := resetCxl s } 0) 1 0).trans (if_neg (by decide))).trans
      ((cxlPortOf_clearPort { s with cxl := resetCxl s } 0 0).trans (if_pos rfl))
  · exact (cxlPortOf_clearPort (clearPort { s with cxl := resetCxl s } 0) 1 1).trans (if_pos rfl)

theorem tabGet_resetGrants (s : State) {g : Nat} (hg : g < 64) : tabGet {} (resetCxl s).grant g = revokedGrant (grantOf s g) := by
  have hget := tabGet_puts ({} : Grant) (key := id) (V := fun i => revokedGrant (grantOf s i)) (l := List.range 64) (fun _ _ => rfl) [] g
  rwa [List.map_id, if_pos (List.mem_range.mpr hg)] at hget

theorem revokedGrant_valid (e : Grant) : (revokedGrant e).valid = false := by
  unfold revokedGrant; split_ifs <;> rfl

theorem revokedGrant_revoking {e : Grant} (h : e.valid = true ∨ e.revoking = true) : (revokedGrant e).revoking = true := by
  unfold revokedGrant
  rw [if_pos (by simpa using h)]

theorem bothPerst_resets {s : State} (hsloe : s.inp.sloe = true) (hm : s.inp.main = true) (hh : s.inp.held = false) :
    let t := bothPerst s
    t.inp = { s.inp with perst := 3 } ∧ cxlPortOf t 0 = {} ∧ cxlPortOf t 1 = {} ∧
      t.cxl.queue = [] ∧ t.cxl.win = 0 ∧ t.cxl.committed = false ∧ t.cxl.msixMask = 65535 ∧ t.cxl.msixPend = 0 ∧ t.cxl.msixTab = [] ∧
      t.cxl.latch = s.cxl.latch ∧ t.cxl.lowWr = s.cxl.lowWr ∧
      (t.cxl.cmds.length = s.cxl.cmds.length ∧ ∀ c ∈ t.cxl.cmds, c.mute = true) ∧ (∀ c ∈ t.cxl.held, c.async = true ∧ c.cq = 0) ∧
      (∀ g, g < 64 → (grantOf t g).valid = false ∧ ((grantOf s g).valid = true ∨ (grantOf s g).revoking = true → (grantOf t g).revoking = true)) ∧
      (∀ a, jobOf t a = if a ∈ liveJobs s then { jobOf s a with orphan := true } else jobOf s a) ∧
      t = { s with inp := t.inp, cxl := t.cxl, job := t.job } := by
  intro t
  have ht : t = functionReset { s with inp := { s.inp with perst := 3 } } := by
    simp only [t, bothPerst, hsloe, Bool.not_true, Bool.false_eq_true, if_false]
    exact if_pos (by simp [hm, hh])
  obtain ⟨c, j, hframe, hjobs, h0, h1⟩ := functionReset_frame { s with inp := { s.inp with perst := 3 } }
  rw [hframe] at ht
  rw [ht]
  refine ⟨rfl, h0, h1, rfl, rfl, rfl, rfl, rfl, rfl, rfl, rfl, ⟨List.length_map _, fun x hx => ?_⟩, fun x hx => ?_, fun g hg => ?_, hjobs, rfl⟩
  · obtain ⟨y, -, rfl⟩ := List.mem_map.mp hx
    rfl
  · obtain ⟨y, hy, rfl⟩ := List.mem_map.mp hx
    exact ⟨(List.mem_filter.mp hy).2, rfl⟩
  · have hgrant := tabGet_resetGrants { s with inp := { s.inp with perst := 3 } } hg
    refine ⟨(congrArg Grant.valid hgrant).trans (revokedGrant_valid _), fun h => ?_⟩
    exact (congrArg Grant.revoking hgrant).trans (revokedGrant_revoking h)

/-! ## PERST# of a port -/

/-- The port's own part of PERST# (R503). -/
def portHeld (s : State) (p : Nat) : State :=
  clearPort { s with inp := { s.inp with perst := s.inp.perst ||| BitVec.ofNat 2 (2 ^ p) } } p

theorem assertPerst_eq {s : State} (hsloe : s.inp.sloe = true) (p : Nat) :
    assertPerst s p = if (portHeld s p).inp.perst = 3 && (portHeld s p).inp.main && !(portHeld s p).inp.held then functionReset (portHeld s p)
      else portHeld s p :=
  if_neg (by simp [hsloe])

theorem assertPerst_resets {s : State} (hsloe : s.inp.sloe = true) (p : Fin 2) :
    let t := assertPerst s p
    t.inp = { s.inp with perst := s.inp.perst ||| BitVec.ofNat 2 (2 ^ p.val) } ∧ cxlPortOf t p = {} ∧
      (t.inp.perst ≠ 3 → (∀ o, o ≠ p.val → cxlPortOf t o = cxlPortOf s o) ∧
        t = { s with inp := t.inp, cxl := { s.cxl with port := t.cxl.port } }) := by
  intro t
  have ht : t = _ := assertPerst_eq hsloe p
  by_cases h : ((portHeld s p).inp.perst = 3 && (portHeld s p).inp.main && !(portHeld s p).inp.held) = true
  · rw [if_pos h] at ht
    obtain ⟨c, j, hframe, -, h0, h1⟩ := functionReset_frame (portHeld s p)
    rw [hframe] at ht
    have hperst : t.inp.perst = 3 := by
      rw [ht]
      simp only [Bool.and_eq_true, decide_eq_true_eq] at h
      exact h.1.1
    refine ⟨by rw [ht]; rfl, ?_, fun hn => absurd hperst hn⟩
    rw [ht]
    obtain rfl | rfl : p = 0 ∨ p = 1 := by omega
    · exact h0
    · exact h1
  · rw [if_neg h] at ht
    rw [ht]
    refine ⟨rfl, ?_, fun _ => ⟨fun o ho => ?_, rfl⟩⟩
    · exact (cxlPortOf_clearPort _ p p).trans (if_pos rfl)
    · exact (cxlPortOf_clearPort _ p o).trans (if_neg (Ne.symm ho))

theorem cleared_bit : ∀ (p : Fin 2) (w : BitVec 2), (w &&& ~~~(BitVec.ofNat 2 (2 ^ p.val))).getLsbD p = false := by decide

theorem perstDeassert_trains {s : State} (hsloe : s.inp.sloe = true) (p : Fin 2) (test : CxlTest) (hlost : s.inp.refLost = false)
    (hbrg : s.brg.st ≠ 0) (hm : s.inp.main = true) (hh : s.inp.held = false) (hrate : cxlRate test ≠ 0) (hup : (cxlPortOf s p).up = false)
    (hrind : tabGet false s.dom.rindOut (59 + p.val) = false) :
    perstDeassert s p test = modCxlPort { s with inp := { s.inp with perst := s.inp.perst &&& ~~~(BitVec.ofNat 2 (2 ^ p.val)) } } p
      fun x => { x with up := true, rate := cxlRate test, changes := min 255 (x.changes + 1) } := by
  have hwaits : ¬ (s.inp.refLost || (s.brg.st == 0 && !s.trs.recovery)) = true := by simp [hlost, hbrg]
  have hguard : ¬ (!s.inp.main || s.inp.held || (cxlPortOf s p).up || decide (cxlRate test = 0) ||
      (s.inp.perst &&& ~~~(BitVec.ofNat 2 (2 ^ p.val))).getLsbD p || tabGet false s.dom.rindOut (59 + p)) = true := by
    rw [cleared_bit, hm, hh, hup, hrind, decide_eq_false hrate]
    decide
  unfold perstDeassert
  rw [if_neg (by simp [hsloe])]
  exact (if_neg hwaits).trans (if_neg hguard)

/-- Settles O29. -/
theorem portAndFunctionResets : Obligations.PortAndFunctionResets := by
  intro s p hsloe
  refine ⟨⟨_, rfl, assertPerst_resets hsloe p⟩, fun hm hh => ⟨_, rfl, bothPerst_resets hsloe hm hh⟩, fun test hlost hbrg hm hh hrate hup hrind => ⟨_, rfl, ?_⟩⟩
  rw [perstDeassert_trains hsloe p test hlost hbrg hm hh hrate hup hrind]
  refine ⟨rfl, (cxlPortOf_modCxlPort _ p p _).trans (if_pos rfl), fun o ho => (cxlPortOf_modCxlPort _ p o _).trans (if_neg (Ne.symm ho)), rfl⟩

end Sys2Proof.Proofs.PortResets
end

section
/-! SUPPORT. The safe state: what stopping the jobs leaves as it was. -/

namespace Sys2Proof.Proofs.SafeState

open Sys2Proof.Laws Sys2Proof.Machine Sys2Proof Sys2Proof.Proofs.Fields Sys2Proof.Proofs.Commits Sys2Proof.Proofs.Links

open Sys2Proof.Proofs.Resets Sys2Proof.Proofs.Regulation

/-! ## What stopping the jobs leaves as it was -/

/-- The parts of the state that no job's end, no message and no change touches. -/
def calm (s : State) := (s.pending, s.brg, s.clk, s.pith, s.pow, s.log, s.dom, s.free)

variable {s t : State}

theorem calm_ite {c : Prop} [Decidable c] {a b : State} (ha : calm a = calm s) (hb : calm b = calm s) : calm (if c then a else b) = calm s := by
  split
  · exact ha
  · exact hb

theorem calm_pump (s : State) : calm (pump s) = calm s := by
  obtain ⟨k, l, h⟩ := pump_frame s
  rw [h]; rfl

theorem calm_refreshLow (s : State) : calm (refreshLow s) = calm s := by
  obtain ⟨l, h⟩ := refreshLow_frame s
  rw [h]; rfl

theorem calm_modFields (s : State) (g : Nat → Field → Field) : calm (modFields s g) = calm s := by
  obtain ⟨l, h⟩ := modFields_frame s g
  rw [h]; rfl

theorem calm_modCores (s : State) (f : Nat) (g : Nat → Core → Core) : calm (modCores s f g) = calm s := by
  obtain ⟨l, h⟩ := modCores_frame s f g
  rw [h]; rfl

theorem calm_sendFail (s : State) : calm (sendFail s) = calm s := by
  obtain ⟨b, l, h⟩ := sendFail_frame s
  rw [h]; rfl

theorem calm_abortOut (s : State) (again : Option Nat) : calm (abortOut s again) = calm s := by
  unfold abortOut
  split
  · rfl
  · next c _ => exact foldl_keeps (f := fun t u => send t (.abort u c.csn c.epoch)) calm (fun _ _ => rfl) c.parts _

theorem calm_dropJobChanges (s : State) (a : Nat) : calm (dropJobChanges s a) = calm s :=
  (calm_pump _).trans (calm_ite (calm_abortOut s none) rfl)

theorem calm_postCpl (s : State) (c : Cpl) : calm (postCpl s c) = calm s := rfl

theorem calm_postAsync (s : State) (c : Cpl) : calm (postAsync s c) = calm s := calm_ite rfl (calm_postCpl s c)

theorem calm_postJob (s : State) (a kind res0 : Nat) : calm (postJob s a kind res0) = calm s := calm_postAsync s _

theorem calm_finishCmd (s : State) (c : Cmd) (status : Nat) (g : Cpl → Cpl) : calm (finishCmd s c status g) = calm s :=
  calm_ite rfl (calm_postCpl _ _)

theorem calm_finishJobCmds (s : State) (opc n status : Nat) (g : Cpl → Cpl) : calm (finishJobCmds s opc n status g) = calm s :=
  foldl_keeps calm (fun t c => calm_finishCmd t c status g) _ s

theorem calm_discardMirror (s : State) (a : Nat) : calm (discardMirror s a) = calm s := by
  unfold discardMirror
  dsimp only
  refine calm_ite rfl ?_
  split <;> rfl

theorem calm_stopJob (s : State) (a seq : Nat) (told : Bool) : calm (stopJob s a seq told) = calm s := by
  unfold stopJob
  extract_lets j u g v w x
  have hv : calm v = calm s := by
    simp only [v, u, calm_finishJobCmds, calm_discardMirror, calm_dropJobChanges]
  clear_value v
  have hw : calm w = calm s := hv
  clear_value w
  exact calm_ite ((calm_postJob _ _ _ _).trans hw) hw

theorem calm_dropSeams (s : State) (f a : Nat) : calm (dropSeams s f a) = calm s := by
  refine foldl_keeps calm (fun t side => ?_) _ s
  dsimp only
  split <;> rfl

theorem calm_stopFieldJob (s : State) (f a : Nat) : calm (stopFieldJob s f a) = calm s :=
  (calm_ite (calm_modCores (dropSeams s f a) f fun _ c => haltCore c) rfl).trans (calm_dropSeams s f a)

/-- A field leaves a job: of the rest of the state, the capacity map's number may move. -/
theorem calm_leaveField (s : State) (f a : Nat) : calm (leaveField s f a) = calm s := by
  unfold leaveField
  extract_lets work u v m w y x
  have hv : calm v = calm s := (calm_ite (calm_modCores u f fun _ c => idleCore c) rfl).trans (calm_dropSeams s f a)
  have hw : calm w = calm s := calm_ite hv hv
  have hx : calm x = calm s := calm_ite hw hw
  exact hx

theorem calm_enterSafe (s : State) (seq : Nat) : calm (enterSafe s seq) = calm s := by
  unfold enterSafe
  refine calm_ite rfl ?_
  extract_lets told i r u v w k x y z n
  have hu : calm u = calm s := calm_refreshLow _
  clear_value u
  have hw : calm w = calm s := (calm_abortOut v none).trans ((calm_sendFail u).trans hu)
  clear_value w
  have hx : calm x = calm s := hw
  clear_value x
  have hy : calm y = calm s := (foldl_keeps calm (fun t a => calm_ite rfl (calm_stopJob t a seq told)) (liveJobs x) x).trans hx
  clear_value y
  have hz : calm z = calm s := by
    refine (foldl_keeps calm (fun t a => ?_) (liveJobs y) y).trans hy
    exact foldl_keeps calm (fun u f => (calm_leaveField _ f a).trans (calm_stopFieldJob u f a)) _ t
  clear_value z
  have hn : calm n = calm s := (calm_modFields z _).trans hz
  clear_value n
  exact hn

end Sys2Proof.Proofs.SafeState
end

section
/-! SUPPORT. The phases of bring-up, up to the start of the pith (20). -/

namespace Sys2Proof.Proofs.BringUp

open Sys2Proof.Laws Sys2Proof.Machine Sys2Proof Sys2Proof.Proofs.Fields Sys2Proof.Proofs.Links Sys2Proof.Proofs.SafeState

/-! ## What the phases leave of the report -/

theorem trainCxl_frame (s : State) (pl : BringPlan) : ∃ c, trainCxl s pl = { s with cxl := c } := by
  have hport : ∀ (t : State) p rate, ∃ c, portIn t p rate = { t with cxl := c } := by
    intro t p rate
    unfold portIn
    split_ifs
    · exact ⟨_, rfl⟩
    · exact ⟨_, rfl⟩
  obtain ⟨c, hc⟩ := hport s 0 (cxlRate pl.cxl0)
  obtain ⟨c', hc'⟩ := hport { s with cxl := c } 1 (cxlRate pl.cxl1)
  exact ⟨c', by unfold trainCxl; rw [hc]; exact hc'⟩

theorem brg_ite {c : Prop} [Decidable c] {a b s : State} (ha : a.brg = s.brg) (hb : b.brg = s.brg) : (if c then a else b).brg = s.brg := by
  split
  · exact ha
  · exact hb

theorem brg_storeRecord (s : State) (l : List YEnt) (sig : Nat) : (storeRecord s l sig).brg = s.brg := brg_ite rfl (brg_ite rfl rfl)

theorem brg_commitRecord (s : State) (l : List YEnt) : (commitRecord s l).brg = s.brg := brg_ite rfl (brg_storeRecord _ _ _)

theorem brg_applyEntry (s : State) (e : YEnt) : (applyEntry s e).brg = s.brg :=
  brg_ite rfl (brg_ite rfl (brg_ite rfl (brg_ite rfl (brg_ite rfl (brg_ite rfl (brg_ite rfl (brg_ite rfl (brg_ite rfl (brg_ite rfl rfl)))))))))

theorem brg_commitRecords (l : List (List YEnt)) (s : State) : (l.foldl commitRecord s).brg = s.brg :=
  foldl_keeps State.brg brg_commitRecord l s

theorem brg_applyEntries (l : List YEnt) (s : State) : (l.foldl applyEntry s).brg = s.brg := foldl_keeps State.brg brg_applyEntry l s

theorem brg_refreshLow (s : State) : (refreshLow s).brg = s.brg := by
  obtain ⟨l, h⟩ := refreshLow_frame s
  rw [h]

theorem brg_testField (pl : BringPlan) (s : State) (f : Nat) : (testField pl s f).brg = s.brg := by
  unfold testField
  dsimp only
  rw [brg_applyEntries, brg_commitRecords]
  rfl

theorem brg_tested (s : State) (pl : BringPlan) :
    ((List.range 36).foldl (testField pl) (refreshLow (applyMap (recordFound s pl)))).brg = s.brg := by
  rw [foldl_keeps State.brg (brg_testField pl), brg_refreshLow]
  exact (brg_applyEntries _ _).trans (brg_commitRecords _ s)

theorem brg_trainCxl (s : State) (pl : BringPlan) : (trainCxl s pl).brg = s.brg := by
  obtain ⟨c, h⟩ := trainCxl_frame s pl
  rw [h]

theorem brg_bringNear (s : State) (pl : BringPlan) : (bringNear s pl).brg = s.brg := brg_ite rfl rfl

theorem brg_bringFar (s : State) (pl : BringPlan) : (bringFar s pl).brg = s.brg := brg_ite rfl rfl

/-! ## The end of a phase -/

/-- A phase is in progress: its plan has no interruption left. -/
structure InPhase (s : State) (pl : BringPlan) (n : Nat) : Prop where
  plan : s.brg.plan = some pl
  st : s.brg.st = 0
  phase : s.brg.phase = n

/-- The phase in progress has ended, with its times in the report. -/
structure PhaseEnded (t : State) (pl : BringPlan) (n : Nat) : Prop where
  st : t.brg.st = 0
  phase : t.brg.phase = n + 1
  times : t.brg.times = pl.times.take n

theorem phaseEnd_rest (s : State) (pl : BringPlan) : phaseEnd s pl = { s with brg := (phaseEnd s pl).brg } := rfl

theorem brg_phaseEnd (s : State) (pl : BringPlan) :
    (phaseEnd s pl).brg.plan = s.brg.plan ∧ (phaseEnd s pl).brg.st = s.brg.st ∧ (phaseEnd s pl).brg.phase = min 7 (s.brg.phase + 1) ∧
      (phaseEnd s pl).brg.times = pl.times.take s.brg.phase := by
  unfold phaseEnd
  dsimp only
  split_ifs <;> exact ⟨rfl, rfl, rfl, rfl⟩

theorem InPhase.end_ {s : State} {pl : BringPlan} {n : Nat} (h : InPhase s pl n) (hn : n < 7) : InPhase (phaseEnd s pl) pl (n + 1) := by
  obtain ⟨hplan, hst, hphase, -⟩ := brg_phaseEnd s pl
  exact ⟨hplan.trans h.plan, hst.trans h.st, hphase.trans (by rw [h.phase]; omega)⟩

theorem InPhase.ended {s : State} {pl : BringPlan} {n : Nat} (h : InPhase s pl n) (pl' : BringPlan) (hn : n < 7) : PhaseEnded (phaseEnd s pl') pl' n := by
  obtain ⟨-, hst, hphase, htimes⟩ := brg_phaseEnd s pl'
  exact ⟨hst.trans h.st, hphase.trans (by rw [h.phase]; omega), htimes.trans (by rw [h.phase])⟩

theorem InPhase.of_brg {s t : State} {pl : BringPlan} {n : Nat} (h : InPhase s pl n) (ht : t.brg = s.brg) : InPhase t pl n :=
  ⟨by rw [ht]; exact h.plan, by rw [ht]; exact h.st, by rw [ht]; exact h.phase⟩

/-! ## The run of the phases -/

theorem phaseOrPause_idle {s : State} (h : s.brg.plan = none) : phaseOrPause s = s := by
  unfold phaseOrPause phaseRun
  rw [h]
  exact ite_self _

theorem phaseOrPause_runs {s : State} {pl : BringPlan} {n : Nat} (h : InPhase s pl n) (hpause : pl.pause = none) : phaseOrPause s = phaseRun s := by
  unfold phaseOrPause
  rw [h.plan]
  exact if_neg (by simp [hpause])

/-- The phases that a run can take, one after the other. -/
def phases (n : Nat) (s : State) : State := phaseOrPause^[n] s

theorem phases_succ (n : Nat) (s : State) : phases (n + 1) s = phases n (phaseOrPause s) := rfl

theorem phases_of_fixed {s : State} (h : phaseOrPause s = s) (n : Nat) : phases n s = s := Function.iterate_fixed h n

/-- The plan with the interruption taken. -/
def resumed (s : State) : State := { s with brg := { s.brg with plan := s.brg.plan.map fun pl => { pl with pause := none } } }

theorem bringRun_eq (s : State) : bringRun s = resumed (phases 7 s) := by
  unfold bringRun phases
  rw [List.foldl_const]
  rfl

/-! ## Phase 2 -/

/-- What the boot ROM reads of the objects in flash. -/
def flashView (s : State) := (s.trs.ident, s.trs.keyRev, s.trs.minSvn, s.yld.baseGen, s.trs.slotOk, s.trs.image, s.yld.baseObj)

theorem objPasses_of_flash {s t : State} (h : flashView t = flashView s) (obj : Nat) (o : Option SignedObj) : objPasses t obj o = objPasses s obj o := by
  simp only [flashView, Prod.mk.injEq] at h
  obtain ⟨hident, hkey, hsvn, hgen, -⟩ := h
  have hbyte : identByte t = identByte s := by
    funext n
    simp only [identByte, hident]
  cases o with
  | none => rfl
  | some x =>
    have hpart : partMatches t obj x.head = partMatches s obj x.head := by
      unfold partMatches
      rw [hbyte]
    have hverdict : headerVerdict t obj x.head = headerVerdict s obj x.head := by
      unfold headerVerdict
      rw [hpart, hkey, hsvn, hgen]
    exact congrArg (fun v => v == 0 && bodyMatches obj x) hverdict

/-- The key slot of the firmware image in flash (R538). -/
def imageKey (s : State) (pl : BringPlan) : Nat := match s.trs.image with | some x => objSlot 0 x.head | none => pl.keySlot.toNat

/-- The boot ROM takes the firmware (R520, R537, R539). -/
def takesImage (s : State) (pl : BringPlan) : Bool :=
  pl.fwOk && s.trs.slotOk && !bitOf s.trs.keyRev.toNat (imageKey s pl) && objPasses s 0 s.trs.image

/-- The boot ROM takes the base record (R387, R541). -/
def takesBase (s : State) (pl : BringPlan) : Bool := pl.baseOk && objPasses s 2 s.yld.baseObj

theorem takesImage_of_flash {s t : State} (h : flashView t = flashView s) (pl : BringPlan) : takesImage t pl = takesImage s pl := by
  have hpass := objPasses_of_flash h 0 s.trs.image
  simp only [flashView, Prod.mk.injEq] at h
  obtain ⟨-, hkey, -, -, hslot, himage, -⟩ := h
  simp only [takesImage, imageKey, hkey, hslot, himage, hpass]

theorem takesBase_of_flash {s t : State} (h : flashView t = flashView s) (pl : BringPlan) : takesBase t pl = takesBase s pl := by
  have hpass := objPasses_of_flash h 2 s.yld.baseObj
  simp only [flashView, Prod.mk.injEq] at h
  obtain ⟨-, -, -, -, -, -, hobj⟩ := h
  simp only [takesBase, hobj, hpass]

/-- The module with its guard limits sealed, as phase 2 leaves its trust registers (R546). -/
def sealedTrust (s : State) (pl : BringPlan) : State :=
  { s with trs := { s.trs with
      sealed_ := true, recovery := false, keySlot := BitVec.ofNat 2 (imageKey s pl)
      fwver := (match s.trs.image with | some x => imgVersion x.head | none => pl.fwVersion), entOk := pl.entOk
      attOk := decide (s.trs.sigNext < 2 ^ 40) } }

theorem bootVerify_eq (s : State) (pl : BringPlan) :
    bootVerify s pl =
      let u := sealedTrust s pl
      let p := { pl with baseOk := takesBase s pl }
      if (!takesImage s pl) = true then enterRecovery (failBring u 2 fcFirmware) p
      else if s.trs.recNext then enterRecovery { u with brg := { u.brg with plan := none } } p
      else phaseEnd { u with brg := { u.brg with plan := some p }, pith := { u.pith with active := b2n (p.baseOk && pithBad u 0) } } p := by
  have himage : takesImage (sealedTrust s pl) pl = takesImage s pl := takesImage_of_flash rfl pl
  have hbase : takesBase (sealedTrust s pl) pl = takesBase s pl := takesBase_of_flash rfl pl
  rw [← himage, ← hbase]
  rfl

theorem bootVerify_refuses {s : State} {pl : BringPlan} (h : takesImage s pl = false) :
    ∃ c r, bootVerify s pl = { s with cxl := c, trs := r, brg := { s.brg with st := 2, phase := 2, fail := fcFirmware, plan := none } } ∧
      r.recovery = true := by
  rw [bootVerify_eq]
  dsimp only
  rw [if_pos (by rw [h]; rfl)]
  obtain ⟨c, hc⟩ := trainCxl_frame { failBring (sealedTrust s pl) 2 fcFirmware with
    trs := { (sealedTrust s pl).trs with recovery := true, recNext := false, fwver := 0, keySlot := 0 } } { pl with baseOk := takesBase s pl }
  exact ⟨c, _, hc, rfl⟩

theorem bootVerify_takes {s : State} {pl : BringPlan} (h : takesImage s pl = true) (hrec : s.trs.recNext = false) :
    bootVerify s pl =
      let p := { pl with baseOk := takesBase s pl }
      phaseEnd { sealedTrust s pl with brg := { s.brg with plan := some p }, pith := { s.pith with active := b2n (p.baseOk && pithBad s 0) } } p := by
  rw [bootVerify_eq]
  dsimp only
  rw [if_neg (by rw [h]; decide), if_neg (by rw [hrec]; exact Bool.false_ne_true)]
  rfl

/-! ## Phase 3 -/

theorem calm_pithGone (s : State) : (pithGone s).brg = s.brg := by
  have hcalm := calm_enterSafe (raiseSloe { s with pith := { s.pith with running := false, takeover := false, standby := false, wrote := true } } 0x0303 0) 0
  simp only [calm, Prod.mk.injEq] at hcalm
  exact hcalm.2.1

theorem noPith_fails (s : State) (pl : BringPlan) : (noPith s pl).brg.st = 2 ∧ (noPith s pl).brg.plan = none := by
  unfold noPith
  rw [calm_pithGone]
  exact ⟨rfl, rfl⟩

theorem readRecords_frame (s : State) (pl : BringPlan) : ∃ y, readRecords s pl = { s with yld := y } := by
  unfold readRecords
  split
  · split_ifs
    · exact ⟨_, rfl⟩
    · exact ⟨_, rfl⟩
  · exact ⟨_, rfl⟩

/-- Logging the input failure touches the log, the interrupt and its own mark. -/
theorem logInputFail_frame (s : State) : ∃ b l c, logInputFail s = { s with brg := { s.brg with logFail := b }, log := l, cxl := c } := by
  unfold logInputFail
  split_ifs with h
  · exact ⟨_, _, _, rfl⟩
  · dsimp only
    split
    · exact ⟨_, _, _, rfl⟩
    · exact ⟨_, _, _, rfl⟩

/-- The chiplet that the boot ROM has started runs, with the yield map read (R391, R519). -/
theorem startPith_starts {s : State} {pl : BringPlan} (hbad : (pl.baseOk && pithBad s 0 && pithBad s 1) = false) (hreports : pithReports s pl = true) :
    ∃ b l c y, startPith s pl =
        let u := { s with
          brg := { s.brg with logFail := b }, log := l, cxl := c, yld := y
          pith := { s.pith with
            running := true, takeover := false, wrote := true, lost := false
            standby := (if s.pith.active = 0 then pl.k1Ok else pl.k0Ok) && !pithBad { s with yld := y } (1 - s.pith.active) } }
        if !pl.baseOk then failBring (trainCxl u pl) 3 fcBase else phaseEnd u pl := by
  obtain ⟨y, hy⟩ := readRecords_frame s pl
  obtain ⟨b, l, c, hlog⟩ := logInputFail_frame { s with
    yld := y
    pith := { s.pith with
      running := true, takeover := false, wrote := true, lost := false
      standby := (if s.pith.active = 0 then pl.k1Ok else pl.k0Ok) && !pithBad { s with yld := y } (1 - s.pith.active) } }
  refine ⟨b, l, c, y, ?_⟩
  unfold startPith
  dsimp only
  rw [hbad, hreports, hy, hlog]
  rfl

end Sys2Proof.Proofs.BringUp
end

section
/-! SUPPORT. The phases of bring-up from the near tier to ready (20). -/

namespace Sys2Proof.Proofs.BringUpOutcome

open Sys2Proof.Laws Sys2Proof.Machine Sys2Proof Sys2Proof.Proofs.Fields Sys2Proof.Proofs.Links Sys2Proof.Proofs.BringUp Sys2Proof.Proofs.LoadRows

/-! ## Phases 4 to 6 -/

variable {s : State} {pl : BringPlan}

theorem phaseRun_one (h : InPhase s pl 1) : phaseRun s = phaseEnd s pl := by simp only [phaseRun, h.plan, h.phase]
theorem phaseRun_two (h : InPhase s pl 2) : phaseRun s = bootVerify s pl := by simp only [phaseRun, h.plan, h.phase]
theorem phaseRun_three (h : InPhase s pl 3) : phaseRun s = startPith s pl := by simp only [phaseRun, h.plan, h.phase]
theorem phaseRun_four (h : InPhase s pl 4) : phaseRun s = phaseEnd (bringFar (bringNear s pl) pl) pl := by simp only [phaseRun, h.plan, h.phase]
theorem phaseRun_five (h : InPhase s pl 5) : phaseRun s = qualify s pl := by simp only [phaseRun, h.plan, h.phase]
theorem phaseRun_six (h : InPhase s pl 6) : phaseRun s = selfTest s pl := by simp only [phaseRun, h.plan, h.phase]
theorem phaseRun_seven (h : InPhase s pl 7) : phaseRun s = declareReady (phaseEnd s pl) := by simp only [phaseRun, h.plan, h.phase]

theorem inPhase_near (h : InPhase s pl 4) : InPhase (bringFar (bringNear s pl) pl) pl 4 :=
  h.of_brg ((brg_bringFar _ pl).trans (brg_bringNear s pl))

theorem bringFar_keeps (s : State) (pl : BringPlan) : (bringFar s pl).trs = s.trs ∧ (bringFar s pl).yld.slow = s.yld.slow := by
  unfold bringFar
  extract_lets pop y u
  have hu : u.trs = s.trs ∧ u.yld.slow = s.yld.slow := ⟨rfl, rfl⟩
  clear_value u
  split_ifs
  · exact hu
  · exact hu

theorem phaseEnd_keeps (s : State) (pl : BringPlan) : (phaseEnd s pl).trs = s.trs ∧ (phaseEnd s pl).yld = s.yld := ⟨rfl, rfl⟩

/-- A cold start sets the mirror window and the slow stacks (R528, R546). -/
theorem bringNear_cold (hcold : s.brg.warm = false) : (bringNear s pl).trs.winFixed = true ∧ (bringNear s pl).yld.slow = pl.slowStk := by
  unfold bringNear
  rw [if_neg (by rw [hcold]; exact Bool.false_ne_true)]
  extract_lets c top y r
  exact ⟨rfl, rfl⟩

theorem nearEnds_cold (hcold : s.brg.warm = false) :
    (phaseEnd (bringFar (bringNear s pl) pl) pl).trs.winFixed = true ∧ (phaseEnd (bringFar (bringNear s pl) pl) pl).yld.slow = pl.slowStk := by
  obtain ⟨htrs, hyld⟩ := phaseEnd_keeps (bringFar (bringNear s pl) pl) pl
  obtain ⟨hfar, hslow⟩ := bringFar_keeps (bringNear s pl) pl
  rw [htrs, hyld, hfar, hslow]
  exact bringNear_cold hcold

/-- The state before phase 5 ends, with its ports trained. -/
def portsTrained (s : State) (pl : BringPlan) : State := trainCxl (bringPorts s pl) pl

theorem qualify_eq (s : State) (pl : BringPlan) :
    qualify s pl =
      let p := keepFenced s pl
      let t := phaseEnd (portsTrained s p) p
      { t with brg := { t.brg with plan := some p } } := by
  unfold qualify portsTrained
  rfl

theorem inPhase_ports (h : InPhase s pl 5) (p : BringPlan) : InPhase (portsTrained s p) pl 5 := h.of_brg (brg_trainCxl (bringPorts s p) p)

theorem qualify_ends (h : InPhase s pl 5) :
    InPhase (qualify s pl) (keepFenced s pl) 6 ∧ PhaseEnded (qualify s pl) pl 5 ∧ (qualify s pl).brg.laneSub = pl.laneSub ∧
      (qualify s pl).brg.wireSub = pl.wireSub := by
  have hports := inPhase_ports h (keepFenced s pl)
  obtain ⟨hst, hphase, htimes⟩ := hports.ended (keepFenced s pl) (by decide)
  have hreport : (phaseEnd (portsTrained s (keepFenced s pl)) (keepFenced s pl)).brg.laneSub = pl.laneSub ∧
      (phaseEnd (portsTrained s (keepFenced s pl)) (keepFenced s pl)).brg.wireSub = pl.wireSub := by
    unfold phaseEnd
    rw [hports.phase]
    exact ⟨rfl, rfl⟩
  rw [qualify_eq]
  exact ⟨⟨rfl, hst, hphase⟩, ⟨hst, hphase, htimes⟩, hreport⟩

theorem portOf_qualify (s : State) (pl : BringPlan) {p : Nat} (hp : p < 48) :
    portOf (qualify s pl) p = { up := bupolPort (pl.ports.getD p []), reach := bitOf pl.reach.toNat p } := by
  obtain ⟨c, hc⟩ := trainCxl_frame (bringPorts s (keepFenced s pl)) (keepFenced s pl)
  have hport : portOf (qualify s pl) p = portOf (portsTrained s (keepFenced s pl)) p := rfl
  have hget := tabGet_puts ({} : Port) (key := id) (V := fun p => { up := bupolPort (pl.ports.getD p []), reach := bitOf pl.reach.toNat p })
    (l := List.range 48) (fun _ _ => rfl) [] p
  rw [List.map_id, if_pos (List.mem_range.mpr hp)] at hget
  rw [hport, portsTrained, hc]
  exact hget

/-! ## Self-test -/

theorem inPhase_tested (h : InPhase s pl 6) :
    InPhase ((List.range 36).foldl (testField pl) (refreshLow (applyMap (recordFound s pl)))) pl 6 := h.of_brg (brg_tested s pl)

/-- Whether field `f` is FENCED. -/
def fencedOf (f : Nat) (s : State) : Bool := (fieldOf s f).cond.fenced

theorem fencedOf_modField (f j : Nat) (s : State) {g : Field → Field} (hg : ∀ x, (g x).cond.fenced = x.cond.fenced) :
    fencedOf f (modField s j g) = fencedOf f s := by
  unfold fencedOf
  rw [fieldOf_modField]
  split_ifs with h
  · rw [hg, h]
  · rfl

theorem fencedOf_ite {f : Nat} {c : Prop} [Decidable c] {a b s : State} (ha : fencedOf f a = fencedOf f s) (hb : fencedOf f b = fencedOf f s) :
    fencedOf f (if c then a else b) = fencedOf f s := by
  split
  · exact ha
  · exact hb

theorem fencedOf_applyEntry (f : Nat) (s : State) (e : YEnt) : fencedOf f (applyEntry s e) = fencedOf f s :=
  fencedOf_ite rfl (fencedOf_ite rfl (fencedOf_ite rfl (fencedOf_ite rfl (fencedOf_ite rfl (fencedOf_ite rfl (fencedOf_ite rfl (fencedOf_ite rfl
    (fencedOf_ite (fencedOf_modField f _ s fun _ => rfl) (fencedOf_ite (fencedOf_modField f _ s fun _ => rfl) rfl)))))))))

theorem fencedOf_commitRecord (f : Nat) (s : State) (l : List YEnt) : fencedOf f (commitRecord s l) = fencedOf f s :=
  fencedOf_ite rfl (fencedOf_ite rfl (fencedOf_ite rfl rfl))

theorem fencedOf_testField (pl : BringPlan) (f : Nat) (s : State) (j : Nat) (h : fencedOf f (testField pl s j) = true) : fencedOf f s = true := by
  unfold testField at h
  extract_lets u narrow short new at h
  have hu : fencedOf f u = true := by
    rw [foldl_keeps (fencedOf f) (fencedOf_applyEntry f), foldl_keeps (fencedOf f) (fencedOf_commitRecord f)] at h
    exact h
  unfold fencedOf at hu ⊢
  rw [fieldOf_modField] at hu
  split_ifs at hu with hj
  · subst hj
    exact (Bool.and_eq_true_iff.mp hu).1
  · exact hu

theorem fencedOf_testFields (pl : BringPlan) (f : Nat) (l : List Nat) (s : State) (h : fencedOf f (l.foldl (testField pl) s) = true) :
    fencedOf f s = true := by
  induction l generalizing s with
  | nil => exact h
  | cons j l ih => exact fencedOf_testField pl f s j (ih _ h)

theorem fencedOf_phaseEnd (f : Nat) (s : State) (pl : BringPlan) : fencedOf f (phaseEnd s pl) = fencedOf f s := rfl

theorem fencedOf_refreshLow (f : Nat) (s : State) : fencedOf f (refreshLow s) = fencedOf f s := by
  have hlow := lowFollows_refreshLow s f
  unfold fencedOf
  rw [hlow]
  split_ifs <;> rfl

/-- No field is newly FENCED by self-test (R529). -/
theorem fencedOf_selfTest (s : State) (pl : BringPlan) (f : Nat) (h : fencedOf f (selfTest s pl) = true) : fencedOf f s = true := by
  unfold selfTest at h
  rw [fencedOf_phaseEnd] at h
  have hlow := fencedOf_testFields pl f _ _ h
  rw [fencedOf_refreshLow] at hlow
  unfold applyMap recordFound at hlow
  rw [foldl_keeps (fencedOf f) (fencedOf_applyEntry f)] at hlow
  exact (foldl_keeps (fencedOf f) (fencedOf_commitRecord f) _ s).symm.trans hlow

/-! ## Ready -/

/-- Bring-up has found a module that serves (R531). -/
def InService (s : State) : Prop := s.yld.nchan ≠ 0 ∧ ¬ ∀ f, f < 36 → fieldGone s f = true

/-- The state as ready is declared, before its verdict (R484, R531). -/
def readied (s : State) : State :=
  let s := { s with yld := { s.yld with gen := 1 }, clk := { s.clk with hostCap := min (profileCap true) (capMax s), trayCap := 480 } }
  let k := min 24 (maxK s)
  let cap := max 120 (effCap s)
  let s := { s with clk := { s.clk with eff := true, effStaged := true, k := k, kStaged := k, cap := cap, capStaged := cap
                                        rindCap := (List.range 60).foldl (fun t i => tabPut 0 (i + 1) cap t) []
                                        rindEff := (List.range 60).foldl (fun t i => tabPut false (i + 1) true t) [] } }
  if goodConv s < 4 then raiseSloe s 0x03E1 0 else s

theorem declareReady_eq (s : State) :
    declareReady s =
      if (readied s).yld.nchan = 0 then failBring (readied s) 7 fcNear
      else if (List.range 36).all (fieldGone (readied s)) then failBring (readied s) 7 fcField
      else { readied s with brg := { (readied s).brg with st := 1, phase := 7, plan := none } } := rfl

theorem capMax_of_pow {s t : State} (h : t.pow = s.pow) : capMax t = capMax s := by
  have hgood : goodConv t = goodConv s := by
    unfold goodConv
    rw [h]
  unfold capMax convCeil
  rw [hgood, h]

theorem readied_views (s : State) :
    (readied s).yld = { s.yld with gen := 1 } ∧ (readied s).fld = s.fld ∧ (readied s).clk.eff = true ∧
      (readied s).clk.hostCap = min 300 (capMax (readied s)) ∧ (readied s).clk.trayCap = 480 := by
  have hshort : ∀ u : State, (if goodConv u < 4 then raiseSloe u 0x03E1 0 else u).yld = u.yld ∧
      (if goodConv u < 4 then raiseSloe u 0x03E1 0 else u).fld = u.fld ∧ (if goodConv u < 4 then raiseSloe u 0x03E1 0 else u).clk = u.clk ∧
      (if goodConv u < 4 then raiseSloe u 0x03E1 0 else u).pow = u.pow := by
    intro u
    split_ifs <;> exact ⟨rfl, rfl, rfl, rfl⟩
  unfold readied
  extract_lets y c u k cap d v
  obtain ⟨hyld, hfld, hclk, hpow⟩ := hshort v
  rw [capMax_of_pow hpow, hyld, hfld, hclk]
  exact ⟨rfl, rfl, rfl, rfl, rfl⟩

theorem declareReady_declares (s : State) :
    (declareReady s).brg.plan = none ∧ (declareReady s).yld.gen = 1 ∧
      ((declareReady s).brg.st = 2 ∧ ¬ InService s ∨
       (declareReady s).brg.st = 1 ∧ InService s ∧ (declareReady s).brg.phase = 7 ∧ (declareReady s).clk.eff = true ∧
        (declareReady s).clk.hostCap = min 300 (capMax (declareReady s)) ∧ (declareReady s).clk.trayCap = 480 ∧
        (declareReady s).yld.nchan = s.yld.nchan) := by
  obtain ⟨hyld, hfld, heff, hcap, htray⟩ := readied_views s
  have hgone : ∀ f, fieldGone (readied s) f = fieldGone s f := by
    intro f
    unfold fieldGone fieldOf
    rw [hfld]
  have hall : (List.range 36).all (fieldGone (readied s)) = true ↔ ∀ f, f < 36 → fieldGone s f = true := by
    rw [List.all_eq_true]
    exact forall_congr' fun f => by rw [List.mem_range, hgone]
  have hnchan : (readied s).yld.nchan = s.yld.nchan := by rw [hyld]
  rw [declareReady_eq]
  by_cases hnone : (readied s).yld.nchan = 0
  · rw [if_pos hnone]
    exact ⟨rfl, congrArg Yield.gen hyld, .inl ⟨rfl, fun h => h.1 (hnchan ▸ hnone)⟩⟩
  · rw [if_neg hnone]
    by_cases hfields : (List.range 36).all (fieldGone (readied s)) = true
    · rw [if_pos hfields]
      exact ⟨rfl, congrArg Yield.gen hyld, .inl ⟨rfl, fun h => h.2 (hall.mp hfields)⟩⟩
    · rw [if_neg hfields]
      exact ⟨rfl, congrArg Yield.gen hyld, .inr ⟨rfl, ⟨fun h => hnone (hnchan.trans h), fun h => hfields (hall.mpr h)⟩, rfl, heff, hcap, htray, hnchan⟩⟩

end Sys2Proof.Proofs.BringUpOutcome
end

section
/-! SUPPORT. The run of bring-up to its outcome (20): O30. -/

namespace Sys2Proof.Proofs.BringUpRun

open Sys2Proof.Laws Sys2Proof.Machine Sys2Proof Sys2Proof.Proofs.Fields Sys2Proof.Proofs.BringUp Sys2Proof.Proofs.BringUpOutcome

variable {s : State} {pl : BringPlan}

/-! ## The start -/

/-- The inputs as bring-up finds them (R506, R513). -/
def risenInputs (s : State) (pl : BringPlan) : Inputs := { s.inp with main := true, held := false, refOk := s.inp.refOk || pl.pause != some 1 }

/-- The module as bring-up starts its phase 1, with the fields `l` (R513, R518). -/
def risen (s : State) (pl : BringPlan) (l : Tab Field) : State :=
  { s with
    inp := risenInputs s pl, fld := l, trs := { s.trs with recovery := false }
    brg := { s.brg with st := 0, phase := 1, fail := 0, plan := some pl } }

theorem inPhase_risen (s : State) (pl : BringPlan) (l : Tab Field) : InPhase (risen s pl l) pl 1 := ⟨rfl, rfl, rfl⟩

theorem bringUp_starts (s : State) (pl : BringPlan) : ∃ l, bringUp s pl = bringRun (risen s pl l) := by
  obtain ⟨l, hl⟩ := refreshLow_frame { s with inp := risenInputs s pl }
  refine ⟨l, ?_⟩
  unfold bringUp bringFrom
  rw [show refreshLow { s with inp := { s.inp with main := true, held := false, refOk := s.inp.refOk || pl.pause != some 1 } } =
    { s with inp := risenInputs s pl, fld := l } from hl]
  rfl

/-- The module as the input rises (R470, R512). -/
def powered (s : State) : State := { coldState s with inp := { sloe := true }, yld := { (coldState s).yld with boots := s.yld.boots + 1 } }

theorem powerOn_starts (hsloe : s.inp.sloe = false) (pl : BringPlan) : ∃ l, powerOn s pl = bringRun (risen (powered s) pl l) := by
  obtain ⟨l, hl⟩ := bringUp_starts (powered s) pl
  exact ⟨l, (if_neg (by rw [hsloe]; exact Bool.false_ne_true)).trans hl⟩

theorem flash_risen (s : State) (pl : BringPlan) (l : Tab Field) : flashView (risen (powered s) pl l) = flashView s := rfl

theorem phases_step {n m : Nat} (h : InPhase s pl n) (hpause : pl.pause = none) : phases (m + 1) s = phases m (phaseRun s) := by
  rw [phases_succ, phaseOrPause_runs h hpause]

theorem phases_idle (h : s.brg.plan = none) (m : Nat) : phases m s = s := phases_of_fixed (phaseOrPause_idle h) m

theorem resumed_idle (h : s.brg.plan = none) : resumed s = s := by
  unfold resumed
  rw [h]
  have hself : ({ s.brg with plan := none } : Bring) = s.brg := by rw [← h]
  exact congrArg (fun b => { s with brg := b }) hself

/-- From phase 1, bring-up comes to the verdict of the boot ROM. -/
theorem bringRun_boots (h : InPhase s pl 1) (hpause : pl.pause = none) : bringRun s = resumed (phases 5 (bootVerify (phaseEnd s pl) pl)) := by
  rw [bringRun_eq, phases_step h hpause, phaseRun_one h, phases_step (h.end_ (by decide)) hpause, phaseRun_two (h.end_ (by decide))]

/-- What firmware that the boot ROM refuses leaves (R520, R540). -/
theorem bringRun_refused (h : InPhase s pl 1) (hpause : pl.pause = none) (hfw : takesImage s pl = false) :
    ∃ c r b, bringRun s = { s with cxl := c, trs := r, brg := b } ∧ r.recovery = true ∧ b.st = 2 ∧ b.phase = 2 ∧ b.fail = fcFirmware := by
  have hflash : takesImage (phaseEnd s pl) pl = false := (takesImage_of_flash rfl pl).trans hfw
  obtain ⟨c, r, hboot, hrec⟩ := bootVerify_refuses hflash
  rw [bringRun_boots h hpause, hboot, phases_idle rfl, resumed_idle rfl, phaseEnd_rest]
  exact ⟨c, r, _, rfl, hrec, rfl, rfl, rfl⟩

/-- The plan with the verdict on the base record. -/
def judged (s : State) (pl : BringPlan) : BringPlan := { pl with baseOk := takesBase s pl }

/-- The module as the boot ROM has picked a chiplet to start (R519). -/
def booted (s : State) (pl : BringPlan) : State :=
  phaseEnd { sealedTrust (phaseEnd s pl) pl with
    brg := { (phaseEnd s pl).brg with plan := some (judged s pl) }
    pith := { s.pith with active := b2n ((judged s pl).baseOk && pithBad s 0) } } (judged s pl)

theorem bringRun_booted (h : InPhase s pl 1) (hpause : pl.pause = none) (hfw : takesImage s pl = true) (hrec : s.trs.recNext = false) :
    bringRun s = resumed (phases 4 (startPith (booted s pl) (judged s pl))) ∧ InPhase (booted s pl) (judged s pl) 3 := by
  have hflash : takesImage (phaseEnd s pl) pl = true := (takesImage_of_flash rfl pl).trans hfw
  have hboot : bootVerify (phaseEnd s pl) pl = booted s pl := by
    rw [bootVerify_takes hflash hrec]
    have hbase : takesBase (phaseEnd s pl) pl = takesBase s pl := takesBase_of_flash rfl pl
    rw [hbase]
    rfl
  have htwo := h.end_ (by decide)
  have hthree : InPhase (booted s pl) (judged s pl) 3 := InPhase.end_ ⟨rfl, htwo.st, htwo.phase⟩ (by decide)
  rw [bringRun_boots h hpause, hboot, phases_step hthree hpause, phaseRun_three hthree]
  exact ⟨rfl, hthree⟩

/-- A chiplet that starts without a base record to read ends bring-up (R520). -/
theorem bringRun_noBase (h : InPhase s pl 1) (hpause : pl.pause = none) (hfw : takesImage s pl = true) (hrec : s.trs.recNext = false)
    (hbase : takesBase s pl = false) (hk0 : pl.k0Ok = true) :
    (bringRun s).brg.st = 2 ∧ (bringRun s).brg.phase = 3 ∧ (bringRun s).brg.fail = fcBase ∧ (bringRun s).pith.active = 0 ∧
      (bringRun s).pith.running = true := by
  obtain ⟨hrun, -⟩ := bringRun_booted h hpause hfw hrec
  have hactive : (booted s pl).pith.active = 0 := by
    have hb : (judged s pl).baseOk = false := hbase
    change b2n ((judged s pl).baseOk && pithBad s 0) = 0
    rw [hb]
    rfl
  have hreports : pithReports (booted s pl) (judged s pl) = true := by
    unfold pithReports
    rw [if_pos hactive]
    exact hk0
  have hbad : ((judged s pl).baseOk && pithBad (booted s pl) 0 && pithBad (booted s pl) 1) = false := by
    have hb : (judged s pl).baseOk = false := hbase
    rw [hb, Bool.false_and, Bool.false_and]
  obtain ⟨b, l, c, y, hstart⟩ := startPith_starts hbad hreports
  dsimp only at hstart
  rw [if_pos (by rw [show (judged s pl).baseOk = false from hbase]; rfl)] at hstart
  obtain ⟨c', htrain⟩ := trainCxl_frame { booted s pl with
    brg := { (booted s pl).brg with logFail := b }, log := l, cxl := c, yld := y
    pith := { (booted s pl).pith with
      running := true, takeover := false, wrote := true, lost := false
      standby := (if (booted s pl).pith.active = 0 then (judged s pl).k1Ok else (judged s pl).k0Ok) &&
        !pithBad { booted s pl with yld := y } (1 - (booted s pl).pith.active) } } (judged s pl)
  rw [htrain] at hstart
  rw [hrun, hstart, phases_idle rfl, resumed_idle rfl]
  exact ⟨rfl, rfl, rfl, hactive, rfl⟩

/-! ## From phase 4 to ready -/

/-- From phase 4 on nothing stops bring-up before its verdict (R531). -/
theorem phases_ready (h : InPhase s pl 4) (hpause : pl.pause = none) :
    ∃ u, phases 4 s = declareReady u := by
  have hfour := inPhase_near h
  have hfive := hfour.end_ (by decide)
  rw [phases_step h hpause, phaseRun_four h, phases_step hfive hpause, phaseRun_five hfive]
  obtain ⟨hsix, -⟩ := qualify_ends hfive
  have hp : (keepFenced (phaseEnd (bringFar (bringNear s pl) pl) pl) pl).pause = none := hpause
  generalize qualify (phaseEnd (bringFar (bringNear s pl) pl) pl) pl = t at hsix ⊢
  generalize keepFenced (phaseEnd (bringFar (bringNear s pl) pl) pl) pl = p at hsix hp
  have hseven : InPhase (selfTest t p) p 7 := (inPhase_tested hsix).end_ (by decide)
  rw [phases_step hsix hp, phaseRun_six hsix, phases_step hseven hp, phaseRun_seven hseven]
  exact ⟨_, rfl⟩

/-- Both chiplets good and a base record that verifies: bring-up comes to its end, or no pith is left (R531). -/
theorem bringRun_ends (h : InPhase s pl 1) (hpause : pl.pause = none) (hfw : takesImage s pl = true) (hrec : s.trs.recNext = false)
    (hbase : takesBase s pl = true) (hk0 : pl.k0Ok = true) (hk1 : pl.k1Ok = true) :
    ((bringRun s).brg.st = 1 ∨ (bringRun s).brg.st = 2) ∧ ((bringRun s).brg.st = 1 → (bringRun s).brg.phase = 7) ∧
      ((bringRun s).brg.st = 1 → (bringRun s).yld.gen = 1 ∧ (bringRun s).clk.eff = true ∧ (bringRun s).clk.hostCap = min 300 (capMax (bringRun s)) ∧
        (bringRun s).clk.trayCap = 480 ∧ 0 < (bringRun s).yld.nchan) := by
  obtain ⟨hrun, hthree⟩ := bringRun_booted h hpause hfw hrec
  have hb : (judged s pl).baseOk = true := hbase
  have hp : (judged s pl).pause = none := hpause
  have hreports : pithReports (booted s pl) (judged s pl) = true := by
    unfold pithReports
    split_ifs
    · exact hk0
    · exact hk1
  generalize booted s pl = t at hrun hthree hreports
  generalize judged s pl = p at hrun hthree hreports hb hp
  by_cases hbad : (p.baseOk && pithBad t 0 && pithBad t 1) = true
  · have hstart : startPith t p = noPith t p := if_pos hbad
    obtain ⟨hst, hplan⟩ := noPith_fails t p
    rw [hrun, hstart, phases_idle hplan, resumed_idle hplan, hst]
    exact ⟨.inr rfl, fun h => absurd h (by decide), fun h => absurd h (by decide)⟩
  · rw [Bool.not_eq_true] at hbad
    obtain ⟨b, l, c, y, hstart⟩ := startPith_starts hbad hreports
    dsimp only at hstart
    rw [if_neg (by rw [hb]; decide)] at hstart
    have hfour : InPhase (startPith t p) p 4 := by
      rw [hstart]
      exact InPhase.end_ ⟨hthree.plan, hthree.st, hthree.phase⟩ (by decide)
    obtain ⟨u, hu⟩ := phases_ready hfour hp
    obtain ⟨hplan, hgen, hcases⟩ := declareReady_declares u
    rw [hrun, hu, resumed_idle hplan]
    rcases hcases with ⟨hst, -⟩ | ⟨hst, hserves, hphase, heff, hcap, htray, hnchan⟩
    · rw [hst]
      exact ⟨.inr rfl, fun h => absurd h (by decide), fun h => absurd h (by decide)⟩
    · exact ⟨.inl hst, fun _ => hphase, fun _ => ⟨hgen, heff, hcap, htray, by rw [hnchan]; exact Nat.pos_of_ne_zero hserves.1⟩⟩

/-! ## Interruptions -/

/-- Bring-up that a command interrupts in phase `n` stands there (R533). -/
theorem bringRun_paused {n : Nat} (h : InPhase s pl n) (hpause : pl.pause = some n) : bringRun s = resumed s := by
  have hstays : phaseOrPause s = s := by
    unfold phaseOrPause
    rw [h.plan, h.phase]
    exact if_pos (by simp [hpause])
  rw [bringRun_eq, phases_of_fixed hstays]

/-- A record of one entry is read back (R388, R392). -/
theorem mem_yieldEntries_commitRecord (s : State) (e : YEnt) : e ∈ yieldEntries (commitRecord s [e]).yld := by
  unfold commitRecord storeRecord yieldEntries bumpGen
  dsimp only
  split_ifs <;> simp_all

theorem pithBad_commitRecord (s : State) (k : Nat) : pithBad (commitRecord s [{ kind := ykPith, unit := 61 + k, loc := 0, value := 0 }]) k = true := by
  unfold pithBad
  rw [List.any_eq_true]
  exact ⟨_, mem_yieldEntries_commitRecord s _, by simp⟩

/-- A second chiplet that does not report either is waited for, with the first one recorded (R519). -/
theorem pithStartTimeout_waits (h : InPhase s pl 3) (hm : s.inp.main = true) (hh : s.inp.held = false) (hactive : s.pith.active = 0)
    (hk0 : pl.k0Ok = false) (hk1 : pl.k1Ok = false) (hbase : pl.baseOk = false) :
    let t := pithStartTimeout s
    pithBad t 0 = true ∧ t.pith.active = 1 ∧ t.brg.st = 0 ∧ t.brg.phase = 3 ∧ t.brg.plan = some { pl with pause := none } := by
  intro t
  have hsilent : pithReports s pl = false := by
    unfold pithReports
    rw [if_pos hactive, hk0]
  have ht : t = bringRun { commitRecord s [{ kind := ykPith, unit := 61 + s.pith.active, loc := 0, value := 0 }] with
      pith := { (commitRecord s [{ kind := ykPith, unit := 61 + s.pith.active, loc := 0, value := 0 }]).pith with active := 1 } } := by
    unfold t pithStartTimeout
    rw [h.plan]
    dsimp only
    rw [if_neg (by simp [h.st, h.phase, hm, hh, hsilent]), if_pos (by simp [hactive, hbase])]
  have hbad := pithBad_commitRecord s 0
  have hrec : InPhase (commitRecord s [{ kind := ykPith, unit := 61 + 0, loc := 0, value := 0 }]) pl 3 := h.of_brg (brg_commitRecord s _)
  rw [hactive] at ht
  generalize commitRecord s [{ kind := ykPith, unit := 61 + 0, loc := 0, value := 0 }] = u at ht hbad hrec
  have hv : InPhase { u with pith := { u.pith with active := 1 } } pl 3 := hrec.of_brg rfl
  have hstart : startPith { u with pith := { u.pith with active := 1 } } pl = { u with pith := { u.pith with active := 1 } } := by
    have hreports : pithReports { u with pith := { u.pith with active := 1 } } pl = false := hk1
    unfold startPith
    dsimp only
    rw [hbase, hreports]
    rfl
  have hstays : phaseOrPause { u with pith := { u.pith with active := 1 } } = { u with pith := { u.pith with active := 1 } } := by
    unfold phaseOrPause
    rw [phaseRun_three hv, hstart]
    exact ite_self _
  rw [ht, bringRun_eq, phases_of_fixed hstays]
  exact ⟨hbad, rfl, hv.st, hv.phase, congrArg (Option.map _) hv.plan⟩

/-! ## A phase on an empty queue -/

theorem step_runs (hpend : s.pending = []) (hwaits : bringWaits s = false) : step s = .next (phaseRun s) := by
  unfold step
  rw [hpend]
  exact congrArg Host.Outcome.next (if_neg (by rw [hwaits]; exact Bool.false_ne_true))

theorem st_of_runs (hwaits : bringWaits s = false) : s.brg.st = 0 := by
  simp only [bringWaits, Bool.or_eq_false_iff] at hwaits
  simpa using hwaits.1.1.1.1.1

/-- Settles O30. -/
theorem bringUpReachesItsOutcome : Obligations.BringUpReachesItsOutcome := by
  intro s pl key fw base
  refine ⟨?power, ?release, ?paused, ?silent, ?steps⟩
  case power =>
    intro hsloe hpause
    obtain ⟨l, hon⟩ := powerOn_starts hsloe pl
    have himage := takesImage_of_flash (flash_risen s pl l) pl
    have hobj := takesBase_of_flash (flash_risen s pl l) pl
    have hin := inPhase_risen (powered s) pl l
    refine ⟨fun hfw => ⟨_, rfl, ?_⟩, fun hfw hbase hk0 => ⟨_, rfl, ?_⟩, fun hfw hbase hk0 hk1 => ⟨_, rfl, ?_⟩⟩
    · obtain ⟨c, r, b, hrun, hrec, hst, hphase, hfail⟩ := bringRun_refused hin hpause (himage.trans hfw)
      rw [hon, hrun]
      refine ⟨hrec, hst, hphase, hfail, rfl, rfl, rfl, rfl, rfl, ?_⟩
      simp [risen, risenInputs, hpause]
    · rw [hon]
      exact bringRun_noBase hin hpause (himage.trans hfw) rfl (hobj.trans hbase) hk0
    · rw [hon]
      exact bringRun_ends hin hpause (himage.trans hfw) rfl (hobj.trans hbase) hk0 hk1
  case release =>
    intro hm hh hfw hpause
    have hrelease : sysRstNRelease s pl = bringUp { s with inp := { s.inp with sysRst := false } } pl := if_neg (by simp [hm, hh])
    obtain ⟨l, hl⟩ := bringUp_starts { s with inp := { s.inp with sysRst := false } } pl
    rw [hl] at hrelease
    obtain ⟨c, r, b, hrun, hrec, hst, -, -⟩ := bringRun_refused (inPhase_risen { s with inp := { s.inp with sysRst := false } } pl l) hpause
      (by simp [takesImage, hfw])
    refine ⟨_, rfl, ?_⟩
    rw [hrelease, hrun]
    exact ⟨hrec, hst, rfl, rfl, rfl, rfl⟩
  case paused =>
    intro hsloe hpause
    obtain ⟨l, hon⟩ := powerOn_starts hsloe pl
    rw [bringRun_paused (inPhase_risen (powered s) pl l) hpause] at hon
    have hrefOk : (risenInputs (powered s) pl).refOk = false := by
      simp [risenInputs, powered, hpause]
    refine ⟨_, rfl, ?_⟩
    rw [hon]
    refine ⟨rfl, rfl, hrefOk, rfl, ?_⟩
    simp [bringWaits, resumed, risen, hrefOk]
  case silent =>
    intro hplan hst hphase hm hh hactive hk0 hk1 hbase
    exact ⟨_, rfl, pithStartTimeout_waits ⟨hplan, hst, hphase⟩ hm hh hactive hk0 hk1 hbase⟩
  case steps =>
    intro hpend hplan hwaits ended
    have hst := st_of_runs hwaits
    have hstep := step_runs hpend hwaits
    have hended : ∀ {t : State} {p : BringPlan} {n : Nat}, PhaseEnded t p n → p.times = pl.times → ended t n :=
      fun h hp => ⟨h.st, h.phase, by rw [h.times, hp]⟩
    refine ⟨fun hphase => ?_, fun hphase hbase hbad hactive hk0 => ?_, fun hphase => ?_, fun hphase => ?_, fun hphase => ?_, fun hphase => ?_⟩
    · have hin : InPhase s pl 1 := ⟨hplan, hst, hphase⟩
      refine ⟨_, hstep, ?_⟩
      rw [phaseRun_one hin]
      exact ⟨hended (hin.ended pl (by decide)) rfl, phaseEnd_rest s pl⟩
    · have hin : InPhase s pl 3 := ⟨hplan, hst, hphase⟩
      have hreports : pithReports s pl = true := (if_pos hactive).trans hk0
      obtain ⟨b, l, c, y, hstart⟩ := startPith_starts (s := s) (pl := pl) (by rw [hbad, Bool.and_false, Bool.false_and]) hreports
      dsimp only at hstart
      rw [if_neg (by rw [hbase]; decide)] at hstart
      refine ⟨_, hstep, ?_⟩
      rw [phaseRun_three hin, hstart, hactive]
      have hthree : ∀ u : State, u.brg.plan = some pl → u.brg.st = 0 → u.brg.phase = 3 → PhaseEnded (phaseEnd u pl) pl 3 :=
        fun _ hplan hst hphase => InPhase.ended ⟨hplan, hst, hphase⟩ pl (by decide)
      exact ⟨hended (hthree _ hplan hst hphase) rfl, rfl, rfl⟩
    · have hin : InPhase s pl 4 := ⟨hplan, hst, hphase⟩
      refine ⟨_, hstep, ?_⟩
      rw [phaseRun_four hin]
      exact ⟨hended ((inPhase_near hin).ended pl (by decide)) rfl, nearEnds_cold⟩
    · have hin : InPhase s pl 5 := ⟨hplan, hst, hphase⟩
      obtain ⟨-, hend, hlane, hwire⟩ := qualify_ends hin
      refine ⟨_, hstep, ?_⟩
      rw [phaseRun_five hin]
      exact ⟨hended hend rfl, hlane, hwire, fun p hp => portOf_qualify s pl hp⟩
    · have hin : InPhase s pl 6 := ⟨hplan, hst, hphase⟩
      refine ⟨_, hstep, ?_⟩
      rw [phaseRun_six hin]
      exact ⟨hended ((inPhase_tested hin).ended pl (by decide)) rfl, fun f _ hf => fencedOf_selfTest s pl f hf⟩
    · have hin : InPhase s pl 7 := ⟨hplan, hst, hphase⟩
      obtain ⟨hnone, hgen, hcases⟩ := declareReady_declares (phaseEnd s pl)
      refine ⟨_, hstep, ?_⟩
      rw [phaseRun_seven hin]
      have hserves : InService (phaseEnd s pl) ↔ InService s := Iff.rfl
      refine ⟨hnone, hgen, ?_, ?_⟩
      · exact hcases.elim (fun h => .inr h.1) fun h => .inl h.1
      · have hiff : (¬ InService s) ↔ (s.yld.nchan = 0 ∨ ∀ f, f < 36 → fieldGone s f = true) := by
          unfold InService
          tauto
        rw [← hiff, ← hserves]
        rcases hcases with ⟨h2, hn⟩ | ⟨h1, hs, -⟩
        · exact ⟨fun _ => hn, fun _ => h2⟩
        · exact ⟨fun h => absurd (h1.symm.trans h) (by decide), fun h => absurd hs h⟩

end Sys2Proof.Proofs.BringUpRun
end

section
/-! SUPPORT. The reference, the nominal count and the oscillators (02, 19): O31. -/

namespace Sys2Proof.Proofs.Reference

open Sys2Proof.Laws Sys2Proof.Machine Sys2Proof Sys2Proof.Proofs.Fields Sys2Proof.Proofs.Commits Sys2Proof.Proofs.Links

open Sys2Proof.Proofs.SafeState Sys2Proof.Proofs.Regulation Sys2Proof.Proofs.StoresAndBruises Sys2Proof.Proofs.Resets

variable {s t : State}

/-! ## What the changes at an epoch leave of the count -/

/-- The reference, the nominal count and the reference's ticks. -/
def counts (s : State) := (s.inp.refOk, s.inp.refLost, s.clk.n8, s.clk.ticks)

theorem counts_ite {c : Prop} [Decidable c] {a b : State} (ha : counts a = counts s) (hb : counts b = counts s) : counts (if c then a else b) = counts s := by
  split
  · exact ha
  · exact hb

theorem counts_modJobs (g : Nat → Job → Job) (l : List Nat) (s : State) : counts (l.foldl (fun t a => modJob t a (g a)) s) = counts s :=
  foldl_keeps counts (f := fun t a => modJob t a (g a)) (fun _ _ => rfl) l s

theorem counts_refreshStaged (s : State) : counts (refreshStaged s) = counts s := counts_modJobs _ _ _

theorem counts_finishCmd (s : State) (c : Cmd) (status : Nat) (g : Cpl → Cpl) : counts (finishCmd s c status g) = counts s := counts_ite rfl rfl

theorem counts_finishCmds (status : Nat) (g : Cpl → Cpl) (l : List Cmd) (s : State) :
    counts (l.foldl (fun t c => finishCmd t c status g) s) = counts s :=
  foldl_keeps counts (fun t c => counts_finishCmd t c status g) l s

theorem counts_finishJobCmds (s : State) (opc n status : Nat) (g : Cpl → Cpl) : counts (finishJobCmds s opc n status g) = counts s :=
  counts_finishCmds status g _ s

theorem counts_noteApplied (s : State) (u : Part) (csn : BitVec 16) : counts (noteApplied s u csn) = counts s := by
  obtain ⟨b, p, l, h⟩ := Supply.settleConv_frame { s with com := { s.com with
    committed := (s.com.committed.map fun c =>
      if c.csn = csn then { c with parts := c.parts.filter (· ≠ u) } else c).filter fun c => !c.parts.isEmpty
    resent := s.com.resent.filter fun r => r.1 ≠ u } }
  unfold noteApplied
  rw [h]
  rfl

theorem counts_pump (s : State) : counts (pump s) = counts s := by
  obtain ⟨k, l, h⟩ := pump_frame s
  rw [h]; rfl

theorem counts_modFields (s : State) (g : Nat → Field → Field) : counts (modFields s g) = counts s := by
  obtain ⟨l, h⟩ := modFields_frame s g
  rw [h]; rfl

theorem counts_setJobPolicy (s : State) (a : Nat) (w : BitVec 64) : counts (setJobPolicy s a w) = counts s := rfl

theorem counts_applyActive (s : State) : counts (applyActive s) = counts s := by
  refine foldl_keeps counts (fun t c => ?_) _ s
  split
  · rfl
  · exact counts_ite rfl (counts_setJobPolicy _ _ _)
  · rfl

theorem counts_resumeDone (s : State) : counts (resumeDone s) = counts s := by
  refine foldl_keeps counts (fun t a => ?_) _ s
  dsimp only
  refine counts_ite rfl ?_
  have hjob : ∀ n g, counts (finishJobCmds (modJob t a fun j => { j with saved := {}, kvarDue := [] }) 0x03 n stOk g) = counts t :=
    fun n g => counts_finishJobCmds _ _ _ _ _
  refine counts_ite (hjob _ _) ?_
  exact (counts_finishCmds stOk _ _ _).trans (hjob _ _)

theorem counts_applyRoot (s : State) (c : Staged) : counts (applyRoot s c) = counts s := counts_noteApplied _ _ _

theorem counts_applyRind (d : Fin 64) (s : State) (c : Staged) : counts (applyRind d s c) = counts s := by
  refine (counts_noteApplied _ _ _).trans ?_
  split <;> rfl

theorem counts_applyMirror (s : State) (c : Staged) : counts (applyMirror s c) = counts s := by
  refine (counts_noteApplied _ _ _).trans ?_
  dsimp only
  refine counts_ite rfl ?_
  split <;> rfl

theorem counts_putStaged (s : State) (u : Part) (l : List Staged) : counts (putStaged s u l) = counts s := by cases u <;> rfl

theorem counts_applyPart (s : State) (u : Part) {g : State → Staged → State} (hg : ∀ t c, counts (g t c) = counts t) :
    counts (applyPart s u g) = counts s :=
  counts_ite rfl ((counts_putStaged _ _ _).trans (foldl_keeps counts hg _ s))

theorem counts_applyNominal (s : State) : counts (applyNominal s) = counts s := by
  unfold applyNominal
  rw [counts_refreshStaged, counts_applyPart _ _ counts_applyMirror]
  refine (foldl_keeps counts (fun t d => ?_) _ _).trans ?_
  · split
    · exact counts_applyPart _ _ (counts_applyRind _)
    · rfl
  · rw [counts_applyPart _ _ counts_applyRoot, counts_resumeDone, counts_applyActive]

/-! ## Reference ticks -/

/-- The state with one more tick counted, and the inputs' samples of a sloe cycle ended (R501; log 36). -/
def ticked (s : State) : State :=
  { s with
    clk := { s.clk with ticks := s.clk.ticks + 1 }
    inp := { s.inp with active := if (s.clk.ticks + 1) % 4 = 0 then 0 else s.inp.active } }

/-- N one tick on at the rate code `k`. -/
def counted (s : State) (k : Nat) : State := { s with clk := { s.clk with n8 := s.clk.n8 + 10 * k } }

theorem fieldOf_counted (s : State) (k f : Nat) : fieldOf (counted s k) f = fieldOf s f := rfl

/-- N, and the counts of the fields that are awake, one tick on (R33, R34). -/
def advanced (s : State) : State :=
  counted (modFields (ticked s) fun _ x => if x.cond.act == .sleeping then x else { x with clk := { x.clk with n8 := x.clk.n8 + 10 * s.clk.k } }) s.clk.k

theorem ticked_eq (s : State) :
    (if (s.clk.ticks + 1) % 4 = 0 then { s with clk := { s.clk with ticks := s.clk.ticks + 1 }, inp := { s.inp with active := 0 } }
      else { s with clk := { s.clk with ticks := s.clk.ticks + 1 } }) = ticked s := by
  unfold ticked
  split_ifs <;> rfl

theorem refTick_eq (s : State) :
    refTick s =
      if (!s.inp.refOk || s.inp.refLost || !s.inp.main || s.inp.held) = true then ticked s
      else if nominalEpoch (advanced s) = nominalEpoch s then advanced s else applyNominal (advanced s) := by
  unfold refTick
  dsimp only
  rw [ticked_eq]
  rfl

theorem advanced_frame (s : State) : ∃ l, advanced s = { ticked s with clk := { (ticked s).clk with n8 := s.clk.n8 + 10 * s.clk.k }, fld := l } := by
  obtain ⟨l, h⟩ := modFields_frame (ticked s) fun _ x => if x.cond.act == .sleeping then x else { x with clk := { x.clk with n8 := x.clk.n8 + 10 * s.clk.k } }
  unfold advanced
  rw [h]
  exact ⟨l, rfl⟩

theorem fieldOf_advanced (s : State) (f : Nat) :
    fieldOf (advanced s) f =
      if f < 36 ∧ (fieldOf s f).cond.act ≠ .sleeping then
        { fieldOf s f with clk := { (fieldOf s f).clk with n8 := (fieldOf s f).clk.n8 + 10 * s.clk.k } }
      else fieldOf s f := by
  have hold : fieldOf (ticked s) f = fieldOf s f := rfl
  rw [advanced, fieldOf_counted, fieldOf_modFields, hold]
  by_cases hf : f < 36
  · by_cases hs : (fieldOf s f).cond.act = .sleeping
    · rw [if_pos hf, if_pos (by simp [hs]), if_neg (by simp [hs])]
    · rw [if_pos hf, if_neg (by simpa using hs), if_pos ⟨hf, hs⟩]
  · rw [if_neg hf, if_neg fun h => hf h.1]

theorem refTick_advances (hok : s.inp.refOk = true) (hlost : s.inp.refLost = false) (hm : s.inp.main = true) (hh : s.inp.held = false) :
    let t := refTick s
    t.clk.n8 = s.clk.n8 + 10 * s.clk.k ∧ t.clk.ticks = s.clk.ticks + 1 ∧ (nominalEpoch t = nominalEpoch s → t = advanced s) := by
  intro t
  have ht : t = if nominalEpoch (advanced s) = nominalEpoch s then advanced s else applyNominal (advanced s) :=
    (refTick_eq s).trans (if_neg (by simp [hok, hlost, hm, hh]))
  have hadvanced : (advanced s).clk.n8 = s.clk.n8 + 10 * s.clk.k ∧ (advanced s).clk.ticks = s.clk.ticks + 1 := by
    obtain ⟨l, h⟩ := advanced_frame s
    rw [h]
    exact ⟨rfl, rfl⟩
  by_cases he : nominalEpoch (advanced s) = nominalEpoch s
  · rw [if_pos he] at ht
    rw [ht]
    exact ⟨hadvanced.1, hadvanced.2, fun _ => rfl⟩
  · rw [if_neg he] at ht
    have hcounts := counts_applyNominal (advanced s)
    simp only [counts, Prod.mk.injEq] at hcounts
    obtain ⟨-, -, hn8, hticks⟩ := hcounts
    have hepoch : nominalEpoch (applyNominal (advanced s)) = nominalEpoch (advanced s) := by
      unfold nominalEpoch floorN
      rw [hn8]
    rw [ht]
    exact ⟨hn8.trans hadvanced.1, hticks.trans hadvanced.2, fun h => absurd (hepoch.symm.trans h) he⟩

/-! ## Loss and return -/

theorem refreshStaged_rest (s : State) : ∃ c j, refreshStaged s = { s with clk := c, job := j } ∧ c.n8 = s.clk.n8 := by
  have hjobs : ∀ (g : Nat → Job → Job) (l : List Nat) (u : State), ∃ j, l.foldl (fun t a => modJob t a (g a)) u = { u with job := j } :=
    fun g l u => foldl_modJob g l u
  unfold refreshStaged
  extract_lets ks ps cs c u
  obtain ⟨j, h⟩ := hjobs (fun a j => { j with policyStaged := stagedPolicy u a }) (liveJobs u) u
  exact ⟨_, j, h, rfl⟩

theorem abortOut_eq {c : Change} (hout : s.com.out = some c) (n : Nat) :
    ∃ l, c ∈ l ∧ abortOut s (some n) = sent { s with com := { s.com with
        out := none, stat := 2, aborts := s.com.aborts + 1, retry := s.com.retry ++ [{ c with after := n, acked := [] }], aborted := l } }
      (c.parts.map fun u => packet s (.abort u c.csn c.epoch)) := by
  unfold abortOut
  rw [hout]
  dsimp only
  rw [foldl_send]
  refine ⟨_, ?_, rfl⟩
  simp

theorem refLossDetected_aborts (hok : s.inp.refOk = true) :
    let t := refLossDetected s
    t.inp = { s.inp with refLost := true, refOk := false } ∧ t.clk.n8 = s.clk.n8 ∧
      (∀ c, pithUp s = true → s.com.out = some c → t.com = { s.com with
          out := none, stat := 2, aborts := s.com.aborts + 1, retry := s.com.retry ++ [{ c with after := 0, acked := [] }]
          aborted := t.com.aborted } ∧ c ∈ t.com.aborted ∧
        t.stem = { s.stem with msgs := s.stem.msgs ++ c.parts.map fun u => packet s (.abort u c.csn c.epoch) }) ∧
      (pithUp s = false → t = { s with inp := t.inp }) := by
  intro t
  have ht : t = if pithUp s = true then refreshStaged (abortOut { s with inp := { s.inp with refLost := true, refOk := false } } (some 0))
      else { s with inp := { s.inp with refLost := true, refOk := false } } := if_neg (by simp [hok])
  by_cases hup : pithUp s = true
  · rw [if_pos hup] at ht
    cases hout : s.com.out with
    | none =>
      have hsame : abortOut { s with inp := { s.inp with refLost := true, refOk := false } } (some 0) =
          { s with inp := { s.inp with refLost := true, refOk := false } } := by
        unfold abortOut
        rw [hout]
      obtain ⟨k, j, h, hn8⟩ := refreshStaged_rest { s with inp := { s.inp with refLost := true, refOk := false } }
      rw [hsame, h] at ht
      rw [ht]
      exact ⟨rfl, hn8, fun c _ hc => by simp at hc, fun h => absurd hup (by simp [h])⟩
    | some c =>
      obtain ⟨l, hl, habort⟩ := abortOut_eq (s := { s with inp := { s.inp with refLost := true, refOk := false } }) hout 0
      obtain ⟨k, j, h, hn8⟩ := refreshStaged_rest (abortOut { s with inp := { s.inp with refLost := true, refOk := false } } (some 0))
      rw [h] at ht
      rw [habort] at ht hn8
      rw [ht]
      refine ⟨rfl, hn8, fun c' _ hc => ?_, fun h => absurd hup (by simp [h])⟩
      obtain rfl := Option.some.inj hc
      exact ⟨rfl, hl, rfl⟩
  · rw [if_neg hup] at ht
    rw [ht]
    exact ⟨rfl, rfl, fun c h => absurd h hup, fun _ => rfl⟩

theorem foldl_max_spec (g : Nat → Nat) (l : List Nat) (m : Nat) :
    let r := l.foldl (fun m f => max m (g f)) m
    m ≤ r ∧ (∀ f ∈ l, g f ≤ r) ∧ (r = m ∨ ∃ f ∈ l, r = g f) := by
  induction l generalizing m with
  | nil => exact ⟨le_rfl, by simp, .inl rfl⟩
  | cons f l ih =>
    obtain ⟨hle, hall, hwhich⟩ := ih (max m (g f))
    refine ⟨(le_max_left _ _).trans hle, fun j hj => ?_, ?_⟩
    · rcases List.mem_cons.mp hj with rfl | hj
      · exact (le_max_right _ _).trans hle
      · exact hall j hj
    · rcases hwhich with h | ⟨j, hj, h⟩
      · rcases max_choice m (g f) with hm | hm
        · exact .inl (h.trans hm)
        · exact .inr ⟨f, List.mem_cons_self, h.trans hm⟩
      · exact .inr ⟨j, List.mem_cons_of_mem _ hj, h⟩

/-- N after a return of the reference: the largest slot of a field that runs, or N itself (R508). -/
def returnedTop (s : State) : Nat :=
  ((List.range 36).filter fun f => runningField s f && !starting s f).foldl (fun m f => max m (8 * slotOf s f)) s.clk.n8

/-- The inputs with the reference qualified again. -/
def requalified (s : State) : State := { s with inp := { s.inp with refOk := true, refLost := false } }

theorem returnedTop_requalified (s : State) : returnedTop (requalified s) = returnedTop s := rfl

/-- N and the counts of the fields after a return of the reference (R508). -/
def recounted (s : State) : State :=
  modFields { requalified s with clk := { s.clk with n8 := returnedTop s } }
    fun _ x => { x with clk := { x.clk with n8 := if x.cond.act == .sleeping then x.clk.n8 else max x.clk.n8 (returnedTop s / 8 * 8) } }

theorem refQualified_eq (hsloe : s.inp.sloe = true) (hok : s.inp.refOk = false) (hgone : s.inp.refGone = false) (hlost : s.inp.refLost = true)
    (micros : Nat) : refQualified s micros = pump (raiseSloe (applyNominal (recounted s)) 0x00F0 micros) := by
  unfold refQualified recounted
  rw [if_neg (by simp [hsloe, hok, hgone]), ← returnedTop_requalified]
  extract_lets u top v
  rw [if_neg (by simp [hlost])]
  rfl

theorem refQualified_returns (hsloe : s.inp.sloe = true) (hok : s.inp.refOk = false) (hgone : s.inp.refGone = false) (hlost : s.inp.refLost = true)
    (micros : Nat) :
    let t := refQualified s micros
    t.inp.refOk = true ∧ t.inp.refLost = false ∧ t.clk.n8 = returnedTop s ∧ ∃ e ∈ t.stem.events, e.code = 0x00F0 ∧ e.src = 0x203F := by
  intro t
  have ht : t = _ := refQualified_eq hsloe hok hgone hlost micros
  have hcu : counts (recounted s) = (true, false, returnedTop s, s.clk.ticks) := counts_modFields _ _
  have hcv := (counts_applyNominal (recounted s)).trans hcu
  generalize applyNominal (recounted s) = v at ht hcv
  have hct : counts t = (true, false, returnedTop s, s.clk.ticks) := by
    rw [ht, counts_pump]
    exact hcv
  simp only [counts, Prod.mk.injEq] at hct
  obtain ⟨h1, h2, h3, -⟩ := hct
  refine ⟨h1, h2, h3, ?_⟩
  obtain ⟨k, l, hp⟩ := pump_frame (raiseSloe v 0x00F0 micros)
  have hevents : t.stem.events = (raiseSloe v 0x00F0 micros).stem.events := by rw [ht, hp]; rfl
  rw [hevents]
  exact exists_event_raiseDie v 63 0x00F0 0 0 micros

/-! ## Oscillators -/

/-- What abandoning a placement leaves of the stem, the jobs and field `f`'s oscillator. -/
def oscView (f : Nat) (s : State) := (s.stem, s.job, (fieldOf s f).cond.oscFail, (fieldOf s f).cond.testHold)

theorem oscView_ite {f : Nat} {c : Prop} [Decidable c] {a b : State} (ha : oscView f a = oscView f s) (hb : oscView f b = oscView f s) :
    oscView f (if c then a else b) = oscView f s := by
  split
  · exact ha
  · exact hb

theorem oscView_modField (f j : Nat) (s : State) {g : Field → Field}
    (hg : ∀ x, (g x).cond.oscFail = x.cond.oscFail ∧ (g x).cond.testHold = x.cond.testHold) : oscView f (modField s j g) = oscView f s := by
  unfold oscView
  rw [fieldOf_modField]
  split_ifs with h
  · subst h
    rw [(hg _).1, (hg _).2]
    rfl
  · rfl

theorem oscView_modCores (f j : Nat) (s : State) (g : Nat → Core → Core) : oscView f (modCores s j g) = oscView f s := by
  obtain ⟨l, h⟩ := modCores_frame s j g
  rw [h]; rfl

theorem oscView_dropSeams (f j a : Nat) (s : State) : oscView f (dropSeams s j a) = oscView f s := by
  refine foldl_keeps (oscView f) (fun t side => ?_) _ s
  dsimp only
  split
  · exact (oscView_modField f _ _ (by exact fun _ => ⟨rfl, rfl⟩)).trans (oscView_modField f j t (by exact fun _ => ⟨rfl, rfl⟩))
  · exact oscView_modField f j t (by exact fun _ => ⟨rfl, rfl⟩)

theorem oscView_stopFieldJob (f j a : Nat) (s : State) : oscView f (stopFieldJob s j a) = oscView f s :=
  (oscView_modField f j _ (by exact fun _ => ⟨rfl, rfl⟩)).trans
    ((oscView_ite (oscView_modCores f j (dropSeams s j a) fun _ c => haltCore c) rfl).trans (oscView_dropSeams f j a s))

theorem oscView_leaveField (f j a : Nat) (s : State) : oscView f (leaveField s j a) = oscView f s := by
  unfold leaveField
  extract_lets work u v m w y x
  have hv : oscView f v = oscView f s := (oscView_ite (oscView_modCores f j u fun _ c => idleCore c) rfl).trans (oscView_dropSeams f j a s)
  clear_value v
  have hw : oscView f w = oscView f s := oscView_ite hv hv
  clear_value w
  have hx : oscView f x = oscView f s := oscView_ite hw hw
  clear_value x
  exact (oscView_modField f j x (by exact fun _ => ⟨rfl, rfl⟩)).trans hx

theorem oscView_left (f a : Nat) (l : List Nat) (s : State) : oscView f (l.foldl (fun t g => leaveField (stopFieldJob t g a) g a) s) = oscView f s :=
  foldl_keeps (oscView f) (fun t g => (oscView_leaveField f g a _).trans (oscView_stopFieldJob f g a t)) l s

/-- A placement that is undone bars the field from the job, and the stem and the oscillator stand (R511). -/
theorem abandonPlacement_bars (s : State) (a f : Nat) :
    (abandonPlacement s a f).stem = s.stem ∧ (fieldOf (abandonPlacement s a f) f).cond.oscFail = (fieldOf s f).cond.oscFail ∧
      (fieldOf (abandonPlacement s a f) f).cond.testHold = (fieldOf s f).cond.testHold ∧ f ∈ (jobOf (abandonPlacement s a f) a).barred ∧
      ∀ b, (jobOf s b).barred ⊆ (jobOf (abandonPlacement s a f) b).barred := by
  have hview := oscView_left f a (jobFields s a) (leaveCommits s a)
  unfold abandonPlacement
  have hfields : jobFields s a = jobFields (leaveCommits s a) a := rfl
  generalize hu : (jobFields s a).foldl (fun t g => leaveField (stopFieldJob t g a) g a) (leaveCommits s a) = u at hview
  simp only [oscView, Prod.mk.injEq] at hview
  obtain ⟨hstem, hjob, hfail, hhold⟩ := hview
  have hjobs : ∀ b, jobOf u b = jobOf s b := fun b => congrArg (fun l => tabGet ({} : Job) l b) hjob
  refine ⟨hstem, hfail, hhold, ?_, fun b x hx => ?_⟩
  · dsimp only
    rw [jobOf_modJob, if_pos rfl]
    exact mem_addNew _ _
  · dsimp only
    rw [jobOf_modJob]
    by_cases h : a = b
    · subst h
      rw [if_pos rfl]
      exact Supply.mem_addNew_of_mem (by rw [hjobs]; exact hx)
    · rw [if_neg h, hjobs]
      exact hx

theorem abandonPlacements_bar (f : Nat) (l : List Nat) (s : State) :
    let t := l.foldl (fun t a => abandonPlacement t a f) s
    t.stem = s.stem ∧ (fieldOf t f).cond.oscFail = (fieldOf s f).cond.oscFail ∧ (fieldOf t f).cond.testHold = (fieldOf s f).cond.testHold ∧
      (∀ a ∈ l, f ∈ (jobOf t a).barred) ∧ ∀ b, (jobOf s b).barred ⊆ (jobOf t b).barred := by
  induction l generalizing s with
  | nil => exact ⟨rfl, rfl, rfl, by simp, fun _ _ => id⟩
  | cons a l ih =>
    obtain ⟨hstem, hfail, hhold, hbar, hkeep⟩ := abandonPlacement_bars s a f
    obtain ⟨hstem', hfail', hhold', hbars, hkeep'⟩ := ih (abandonPlacement s a f)
    refine ⟨hstem'.trans hstem, hfail'.trans hfail, hhold'.trans hhold, fun b hb => ?_, fun b x hx => hkeep' b (hkeep b hx)⟩
    rcases List.mem_cons.mp hb with rfl | hb
    · exact hkeep' b hbar
    · exact hbars b hb

theorem oscLockTimeout_acts (f : FieldIx) (hup : pithUp s = true) (hjs : (fieldAsids s f).filter (awaitsStart s f) ≠ []) :
    let t := oscLockTimeout s f
    ((fieldOf s f).cond.oscTry = 0 → fieldOf t f = { fieldOf s f with cond := { (fieldOf s f).cond with oscTry := 1 } } ∧ t = { s with fld := t.fld }) ∧
      ((fieldOf s f).cond.oscTry ≠ 0 → (fieldOf t f).cond.oscFail = true ∧ (fieldOf t f).cond.testHold = true ∧
        Raises s t (mkEvent (fieldAddr f) (slotOf s f) 0x01F1 0 0 7 0 0) ∧
        ∀ a ∈ (fieldAsids s f).filter (awaitsStart s f), f.val ∈ (jobOf t a).barred) := by
  intro t
  have ht : t = if (fieldOf s f).cond.oscTry = 0 then modCond s f fun x => { x with oscTry := 1 }
      else ((fieldAsids s f).filter (awaitsStart s f)).foldl (fun t a => abandonPlacement t a f)
        (raiseField (modCond s f fun x => { x with oscFail := true, testHold := true, oscTry := 2 }) f 0x01F1 0 7 0 0) := by
    unfold t oscLockTimeout
    split
    · next h => exact absurd h hjs
    · exact if_neg (by simp [hup])
  refine ⟨fun htry => ?_, fun htry => ?_⟩
  · rw [if_pos htry] at ht
    rw [ht]
    exact ⟨by rw [fieldOf_modCond, if_pos rfl], rfl⟩
  · rw [if_neg htry] at ht
    obtain ⟨hstem, hfail, hhold, hbars, -⟩ := abandonPlacements_bar f ((fieldAsids s f).filter (awaitsStart s f))
      (raiseField (modCond s f fun x => { x with oscFail := true, testHold := true, oscTry := 2 }) f 0x01F1 0 7 0 0)
    rw [← ht] at hstem hfail hhold hbars
    have hfield : fieldOf (modCond s f fun x => { x with oscFail := true, testHold := true, oscTry := 2 }) f =
        { fieldOf s f with cond := { (fieldOf s f).cond with oscFail := true, testHold := true, oscTry := 2 } } :=
      by rw [fieldOf_modCond, if_pos rfl]
    have hslot : slotOf (modCond s f fun x => { x with oscFail := true, testHold := true, oscTry := 2 }) f = slotOf s f := by
      unfold slotOf
      rw [hfield]
    refine ⟨hfail.trans (congrArg (·.cond.oscFail) hfield), hhold.trans (congrArg (·.cond.testHold) hfield), hstem.trans ?_, hbars⟩
    rw [← hslot]
    rfl

/-- Settles O31. -/
theorem theReferenceDrivesTheNominalCount : Obligations.TheReferenceDrivesTheNominalCount := by
  intro s
  refine ⟨fun hok hlost hm hh => ?_, fun hno => ?_, fun hok => ⟨_, rfl, refLossDetected_aborts hok⟩, ?returns,
    fun hlost hgone => ?_, fun hsloe hbackup => ?_, fun f hup hjs => ⟨_, rfl, oscLockTimeout_acts f hup hjs⟩⟩
  case returns =>
    intro micros hsloe hok hgone hlost waits
    obtain ⟨hok', hlost', hn8, hevent⟩ := refQualified_returns hsloe hok hgone hlost micros
    obtain ⟨hle, hall, hwhich⟩ := foldl_max_spec (fun f => 8 * slotOf s f) ((List.range 36).filter fun f => runningField s f && !starting s f) s.clk.n8
    have hmem : ∀ f, f ∈ (List.range 36).filter (fun f => runningField s f && !starting s f) ↔ f < 36 ∧ waits f := by
      intro f
      simp [waits]
    refine ⟨_, rfl, hok', hlost', ?_, fun f hf hw => ?_, ?_, hevent⟩
    · rw [hn8]; exact hle
    · rw [hn8]; exact hall f ((hmem f).mpr ⟨hf, hw⟩)
    · rw [hn8]
      refine hwhich.imp_right fun ⟨f, hf, h⟩ => ?_
      obtain ⟨hlt, hw⟩ := (hmem f).mp hf
      exact ⟨f, hlt, hw, h⟩
  · obtain ⟨hn8, hticks, hsame⟩ := refTick_advances hok hlost hm hh
    refine ⟨_, rfl, hn8, hticks, fun he => ?_⟩
    rw [hsame he]
    obtain ⟨l, h⟩ := advanced_frame s
    exact ⟨fieldOf_advanced s, by rw [h]; rfl⟩
  · refine ⟨_, rfl, ?_⟩
    rw [refTick_eq, if_pos (by rcases hno with h | h <;> simp [h])]
    exact ⟨rfl, rfl⟩
  · refine ⟨_, rfl, ?_⟩
    rw [refLost, if_neg (by simp [hlost, hgone])]
    exact ⟨rfl, rfl⟩
  · refine ⟨_, rfl, ?_⟩
    have hclock : sloeClock s = if s.inp.main = true then raiseSloe { s with inp := { s.inp with backup := true } } 0x01F0 0
        else { s with inp := { s.inp with backup := true } } := if_neg (by simp [hsloe, hbackup])
    rw [hclock]
    by_cases hm : s.inp.main = true
    · rw [if_pos hm]
      exact ⟨fun _ => rfl, fun h => absurd hm (by rw [h]; decide), rfl⟩
    · rw [if_neg hm]
      exact ⟨fun h => absurd h hm, fun _ => rfl, rfl⟩

end Sys2Proof.Proofs.Reference
end

section
/-! SUPPORT. The oscillator cycle (02): O32. -/

namespace Sys2Proof.Proofs.Cycles

open Sys2Proof.Laws Sys2Proof.Machine Sys2Proof Sys2Proof.Proofs.Links Sys2Proof.Proofs.Commits

variable {s t : State} {f : Nat}

/-! ## A second change of a field -/

theorem tabIns_tabIns {α : Type} (k : Nat) (u v : α) (t : Tab α) : tabIns k v (tabIns k u t) = tabIns k v t := by
  induction t with
  | nil => simp [tabIns]
  | cons e t ih =>
    obtain ⟨k', w⟩ := e
    by_cases hlt : k' < k
    · simp [tabIns, hlt, ih]
    · by_cases heq : k' = k <;> simp [tabIns, hlt, heq]

theorem filter_tabIns {α : Type} (k : Nat) (u : α) (t : Tab α) :
    ((tabIns k u t).filter fun e => decide (e.1 ≠ k)) = t.filter fun e => decide (e.1 ≠ k) := by
  induction t with
  | nil => simp [tabIns]
  | cons e t ih =>
    obtain ⟨k', w⟩ := e
    by_cases hlt : k' < k
    · simp only [tabIns, hlt, if_true, List.filter_cons, ih]
    · by_cases heq : k' = k <;> simp [tabIns, hlt, heq]

theorem tabPut_tabPut {α : Type} [DecidableEq α] {d u : α} (hu : u ≠ d) (k : Nat) (v : α) (t : Tab α) :
    tabPut d k v (tabPut d k u t) = tabPut d k v t := by
  unfold tabPut
  rw [if_neg hu, tabIns_tabIns, filter_tabIns]

/-- Two changes of the clock of a field that is awake are one. -/
theorem modFclk_modFclk (hact : (fieldOf s f).cond.act ≠ .sleeping) (g h : FieldClock → FieldClock) :
    modFclk (modFclk s f g) f h = modFclk s f fun x => h (g x) := by
  have hne : ({ fieldOf s f with clk := g (fieldOf s f).clk } : Field) ≠ {} := fun hdef =>
    hact (congrArg (fun x : Field => x.cond.act) hdef)
  have hget : tabGet ({} : Field) (tabMod {} f (fun x => { x with clk := g x.clk }) s.fld) f = { fieldOf s f with clk := g (fieldOf s f).clk } := by
    refine (tabGet_mod ({} : Field) f f _ s.fld).trans (if_pos rfl)
  have htab : tabMod ({} : Field) f (fun x => { x with clk := h x.clk }) (tabMod {} f (fun x => { x with clk := g x.clk }) s.fld) =
      tabMod {} f (fun x => { x with clk := h (g x.clk) }) s.fld := by
    rw [tabMod, hget]
    exact tabPut_tabPut hne f _ _
  simp only [modFclk, modField, htab]

/-! ## What the cycle's count changes of a hold's cause -/

/-- The state with the field's place among its governor's 32 cycles moved on. -/
def cycled (s : State) (f : Nat) : State := modFclk s f fun x => { x with cyc := ((fieldOf s f).clk.cyc + 1) % 32 }

theorem fieldOf_cycled (s : State) (f k : Nat) :
    fieldOf (cycled s f) k = { fieldOf s k with clk := { (fieldOf s k).clk with cyc := (fieldOf (cycled s f) k).clk.cyc } } := by
  unfold cycled
  rw [fieldOf_modFclk]
  split_ifs with h
  · subst h; rfl
  · rfl

theorem fieldOf_cycled_same (s : State) (f : Nat) :
    fieldOf (cycled s f) f = { fieldOf s f with clk := { (fieldOf s f).clk with cyc := ((fieldOf s f).clk.cyc + 1) % 32 } } := by
  unfold cycled
  rw [fieldOf_modFclk, if_pos rfl]

theorem bubbles_cycled (s : State) (f : Nat) : bubbles (cycled s f) f = bubbles s f := by
  simp only [bubbles, fieldN, slotOf, fieldOf_cycled_same]
  rfl

theorem net_cycled (s : State) (f k : Nat) : (fieldOf (cycled s f) k).net = (fieldOf s k).net := by
  rw [fieldOf_cycled]

theorem holdCause_cycled (s : State) (f : Nat) : holdCause (cycled s f) f = holdCause s f := by
  have hopen : openCrossings (cycled s f) f = openCrossings s f := by
    simp only [openCrossings, seamJobs, net_cycled]
  have htake : ∀ x p t, seamTake (cycled s f) f x p t = seamTake s f x p t := fun x p t => by
    simp only [seamTake, seamBuf, net_cycled]
  have hfull : ∀ x p, seamFull (cycled s f) f x p = seamFull s f x p := fun x p => by
    simp only [seamFull, seamBuf, net_cycled]
    rfl
  have hlate : lateStreams (cycled s f) f = lateStreams s f := by
    simp only [lateStreams, anchorOf, fieldOf_cycled_same]
    rfl
  simp only [holdCause, hopen, htake, hfull, hlate, undecided, fieldOf_cycled_same]
  rfl

/-! ## What a held cycle leaves of the field's clock -/

/-- The clock of field `f`, and the messages sent. -/
def heldView (f : Nat) (s : State) := ((fieldOf s f).clk, s.stem.msgs)

theorem heldView_modField (k : Nat) {g : Field → Field} (hg : ∀ x, (g x).clk = x.clk) : heldView f (modField s k g) = heldView f s := by
  unfold heldView
  rw [fieldOf_modField]
  split_ifs with h
  · rw [hg, h]; rfl
  · rfl

theorem heldView_modNet (k : Nat) (g : FieldNet → FieldNet) : heldView f (modNet s k g) = heldView f s := heldView_modField k fun _ => rfl

theorem heldView_modStr (k : Nat) (g : FieldStream → FieldStream) : heldView f (modStr s k g) = heldView f s := heldView_modField k fun _ => rfl

theorem heldView_modFmem (k : Nat) (g : FieldMem → FieldMem) : heldView f (modFmem s k g) = heldView f s := heldView_modField k fun _ => rfl

theorem heldView_modCond (k : Nat) (g : FieldCond → FieldCond) : heldView f (modCond s k g) = heldView f s := heldView_modField k fun _ => rfl

theorem heldView_ite {c : Prop} [Decidable c] {a b : State} (ha : heldView f a = heldView f s) (hb : heldView f b = heldView f s) :
    heldView f (if c then a else b) = heldView f s := by
  split
  · exact ha
  · exact hb

theorem heldView_carrierStep (k t : Nat) (held : Bool) : heldView f (carrierStep k t held s) = heldView f s :=
  foldl_keeps (heldView f) (fun _ _ => heldView_modNet k _) _ s

theorem heldView_sendOut (k se die tag : Nat) : heldView f (sendOut s k se die tag) = heldView f s := by
  unfold sendOut
  split
  · rfl
  · exact heldView_modNet k _

theorem heldView_askRind (k : Nat) (x : Transfer) : heldView f ((askRind s k x).getD s) = heldView f s := by
  unfold askRind
  dsimp only
  split
  · rw [Option.getD_some]
    exact heldView_modStr k _
  · split
    · rfl
    · rw [Option.getD_some]
      exact (heldView_sendOut k _ _ _).trans (heldView_modStr k _)

theorem heldView_askAgain (k : Nat) : heldView f (askAgain k s) = heldView f s :=
  foldl_keeps (heldView f) (fun _ _ => heldView_askRind k _) _ s

theorem heldView_dueEntry (e : YEnt) : heldView f (dueEntry s e) = heldView f s := rfl

theorem heldView_bumpGen : heldView f (bumpGen s) = heldView f s := rfl

theorem heldView_countCorrected (oda : Nat) : heldView f (countCorrected s oda) = heldView f s := by
  unfold countCorrected
  extract_lets k key n u v
  have hu : heldView f u = heldView f s := heldView_modFmem _ _
  have hv : heldView f v = heldView f s := heldView_bumpGen.trans ((heldView_modCond _ _).trans hu)
  clear_value u v
  refine heldView_ite hu (heldView_ite ?_ (heldView_ite hv ((heldView_dueEntry _).trans hv)))
  split
  · exact (heldView_dueEntry _).trans hv
  · exact hv

theorem heldView_raiseAt (k : FieldIx) (oda code : Nat) : heldView f (raiseAt s k oda code) = heldView f s := heldView_ite rfl rfl

theorem heldView_readGranule (k : FieldIx) (g : Nat) : heldView f (readGranule k s g) = heldView f s := by
  have hsoft : heldView f ((softWords (flipsOf s.mem g)).foldl (fun s _ => countCorrected (raiseAt s k (64 * g) 0x0001) (64 * g)) s) = heldView f s :=
    foldl_keeps (heldView f) (fun _ _ => (heldView_countCorrected _).trans (heldView_raiseAt k _ _)) _ s
  exact heldView_ite hsoft ((heldView_raiseAt k _ _).trans hsoft)

theorem heldView_noteRead (k : FieldIx) (oda n : Nat) : heldView f (noteRead s k oda n) = heldView f s :=
  heldView_ite rfl (foldl_keeps (heldView f) (fun _ _ => heldView_readGranule k _) _ s)

theorem heldView_putPiece (k t : Nat) (x : Transfer) (b : BlockData) : heldView f (putPiece s k t x b) = heldView f s :=
  (heldView_modStr k _).trans (heldView_modFmem k _)

theorem heldView_putChecked (k a oda : Nat) (whole : Bool) (b : BlockData) : heldView f (putChecked s k a oda whole b).2 = heldView f s := by
  unfold putChecked
  split_ifs <;> rfl

theorem heldView_sendBlock (k : Nat) (x : Transfer) (b : BlockData) : heldView f (sendBlock s k x b) = heldView f s := by
  refine (heldView_sendOut k _ _ _).trans ((heldView_modStr k _).trans ((heldView_putChecked k _ _ _ _).trans ?_))
  exact foldl_keeps (heldView f) (by exact fun _ _ => rfl) _ s

theorem heldView_getPiece (k : FieldIx) (x : Transfer) : heldView f (getPiece s k x) = heldView f s := by
  have hread : heldView f ((readRanges s k x).foldl (fun s r => noteRead s k r.1 r.2) s) = heldView f s :=
    foldl_keeps (heldView f) (fun _ _ => heldView_noteRead k _ _) _ s
  exact heldView_ite ((heldView_modStr k _).trans hread) (heldView_ite ((heldView_sendBlock k _ _).trans hread) ((heldView_modStr k _).trans hread))

theorem heldView_pieceStep (k : FieldIx) (t : Nat) (held : Bool) (r : State × List Nat) (x : Transfer) :
    heldView f (pieceStep k t held r x).1 = heldView f r.1 := by
  unfold pieceStep
  dsimp only
  split
  · rfl
  · split
    · rfl
    · dsimp only
      split
      · exact heldView_ite (heldView_getPiece k x) (heldView_putPiece k t x _)
      · exact heldView_getPiece k x

theorem heldView_pieces (k : FieldIx) (t : Nat) (held : Bool) : heldView f (pieces k t held s).1 = heldView f s := by
  unfold pieces
  generalize (fieldOf s k).str.xfer = l
  have hfold : ∀ (l : List Transfer) (r : State × List Nat), heldView f (l.foldl (pieceStep k t held) r).1 = heldView f r.1 := by
    intro l
    induction l with
    | nil => exact fun _ => rfl
    | cons x l ih => exact fun r => (ih _).trans (heldView_pieceStep k t held r x)
  exact hfold l (s, [])

theorem heldView_landStream (k : FieldIx) (eng : List DieWrite) (x : DieWrite) : heldView f (landStream k eng s x) = heldView f s := by
  refine foldl_keeps (heldView f) (fun s g => ?_) _ s
  split <;> rfl

theorem heldView_heldStreams (k : FieldIx) (t : Nat) : heldView f (heldStreams k t s) = heldView f s := by
  refine (foldl_keeps (heldView f) (fun _ _ => heldView_landStream k _ _) _ _).trans ((heldView_modFmem k _).trans ?_)
  exact (heldView_pieces k t true).trans ((heldView_askAgain k).trans (heldView_carrierStep k t true))

/-! ## What reaching a slot leaves of the field's clock -/

/-- The slot of field `f`, its hold and its staged changes. -/
def slotView (f : Nat) (s : State) := ((fieldOf s f).clk.slot, (fieldOf s f).clk.hold, (fieldOf s f).clk.staged)

theorem slotView_modField (k : Nat) {g : Field → Field}
    (hg : ∀ x, (g x).clk.slot = x.clk.slot ∧ (g x).clk.hold = x.clk.hold ∧ (g x).clk.staged = x.clk.staged) :
    slotView f (modField s k g) = slotView f s := by
  unfold slotView
  rw [fieldOf_modField]
  split_ifs with h
  · rw [(hg _).1, (hg _).2.1, (hg _).2.2, h]
  · rfl

theorem slotView_of_fld (h : t.fld = s.fld) : slotView f t = slotView f s := by
  simp only [slotView, fieldOf, h]

theorem slotView_modFjob (k : Nat) (g : FieldJob → FieldJob) : slotView f (modFjob s k g) = slotView f s :=
  slotView_modField k (by exact fun _ => ⟨rfl, rfl, rfl⟩)

theorem slotView_modNet (k : Nat) (g : FieldNet → FieldNet) : slotView f (modNet s k g) = slotView f s :=
  slotView_modField k (by exact fun _ => ⟨rfl, rfl, rfl⟩)

theorem slotView_modFpow (k : Nat) (g : FieldPower → FieldPower) : slotView f (modFpow s k g) = slotView f s :=
  slotView_modField k (by exact fun _ => ⟨rfl, rfl, rfl⟩)

theorem slotView_modCores (k : Nat) (g : Nat → Core → Core) : slotView f (modCores s k g) = slotView f s := by
  obtain ⟨l, h⟩ := Regulation.modCores_frame s k g
  exact slotView_of_fld (by rw [h])

theorem slotView_ite {c : Prop} [Decidable c] {a b : State} (ha : slotView f a = slotView f s) (hb : slotView f b = slotView f s) :
    slotView f (if c then a else b) = slotView f s := by
  split
  · exact ha
  · exact hb

theorem slotView_modFields {g : Nat → Field → Field} (hg : ∀ k x, (g k x).clk = x.clk) : slotView f (modFields s g) = slotView f s := by
  unfold slotView
  rw [Fields.fieldOf_modFields]
  split_ifs
  · rw [hg]
  · rfl

theorem slotView_settleConv : slotView f (settleConv s) = slotView f s :=
  slotView_ite rfl (slotView_modFields fun _ _ => rfl)

theorem slotView_noteApplied (u : Part) (csn : BitVec 16) : slotView f (noteApplied s u csn) = slotView f s := slotView_settleConv

theorem slotView_applyField (k : Nat) (c : Staged) : slotView f (applyField k s c) = slotView f s := by
  unfold applyField
  extract_lets n a t w u
  have hu : slotView f u = slotView f s := by
    unfold u
    split
    · exact slotView_modField k (by exact fun _ => ⟨rfl, rfl, rfl⟩)
    · exact slotView_modField k (by exact fun _ => ⟨rfl, rfl, rfl⟩)
    · exact slotView_modFpow k _
    · exact slotView_modNet k _
    · exact slotView_modFjob k _
    · exact slotView_ite rfl (slotView_modField k (by exact fun _ => ⟨rfl, rfl, rfl⟩))
    · exact slotView_ite rfl (slotView_modField k (by exact fun _ => ⟨rfl, rfl, rfl⟩))
    · exact slotView_modFjob k _
    · exact slotView_ite (slotView_modFjob k _) (slotView_modFjob k _)
    · exact slotView_modFjob k _
  clear_value u
  split
  · exact (slotView_noteApplied _ _).trans hu
  · exact hu

/-- Field `f` has kept its slot and its hold, and stages nothing new. -/
def Reaches (f : Nat) (s t : State) : Prop :=
  (fieldOf t f).clk.slot = (fieldOf s f).clk.slot ∧ (fieldOf t f).clk.hold = (fieldOf s f).clk.hold ∧
    ∀ c ∈ (fieldOf t f).clk.staged, c ∈ (fieldOf s f).clk.staged

theorem reaches_of_slotView (h : slotView f t = slotView f s) : Reaches f s t := by
  have hstaged : (fieldOf t f).clk.staged = (fieldOf s f).clk.staged := congrArg (·.2.2) h
  exact ⟨congrArg (·.1) h, congrArg (·.2.1) h, fun c hc => hstaged ▸ hc⟩

theorem Reaches.trans {u : State} (h : Reaches f s t) (h' : Reaches f t u) : Reaches f s u :=
  ⟨h'.1.trans h.1, h'.2.1.trans h.2.1, fun c hc => h.2.2 c (h'.2.2 c hc)⟩

theorem reaches_applyStaged (k : Nat) : Reaches f s (applyStaged s k) := by
  unfold applyStaged
  extract_lets due
  have hfold : slotView f (due.foldl (applyField k) s) = slotView f s := foldl_keeps (slotView f) (fun _ _ => slotView_applyField k _) _ s
  split
  · exact reaches_of_slotView rfl
  · refine (reaches_of_slotView hfold).trans (Reaches.trans ?_ (reaches_of_slotView (slotView_modFpow k _)))
    unfold Reaches
    rw [fieldOf_modFclk]
    split_ifs with h
    · subst h
      exact ⟨rfl, rfl, fun c hc => List.mem_of_mem_filter hc⟩
    · exact ⟨rfl, rfl, fun _ hc => hc⟩

theorem slotView_enableSeams (k : Nat) : slotView f (enableSeams s k) = slotView f s := by
  refine foldl_keeps (slotView f) (fun t a => slotView_ite rfl ?_) _ s
  refine foldl_keeps (slotView f) (fun u side => ?_) _ t
  split
  · exact slotView_ite (slotView_modNet k _) rfl
  · rfl

theorem slotView_quietBarrier (k : Nat) : slotView f (quietBarrier s k) = slotView f s :=
  foldl_keeps (slotView f) (fun _ _ => slotView_ite (slotView_modNet k _) rfl) _ s

theorem slotView_sendReports (k a y : Nat) (mirror : Bool) (bs : List Nat) : slotView f (sendReports s k a y mirror bs) = slotView f s :=
  foldl_keeps (slotView f) (by exact fun _ _ => slotView_modFjob k _) _ s

theorem slotView_stopStreams (k a : Nat) : slotView f (stopStreams s k a) = slotView f s := slotView_modField k (by exact fun _ => ⟨rfl, rfl, rfl⟩)

theorem slotView_syncStops (k : Nat) : slotView f (syncStops s k) = slotView f s := by
  unfold syncStops
  extract_lets a held y bs u v w
  have hv : slotView f v = slotView f s := (slotView_modFjob k _).trans ((slotView_stopStreams k _).trans (slotView_modCores k _))
  clear_value v
  exact slotView_ite rfl ((slotView_sendReports k _ _ _ _).trans hv)

theorem fld_completeAll (c : CoreId) (e : Engine) (l : List Flight) : (completeAll c e l s).fld = s.fld := by
  induction l generalizing s with
  | nil => rfl
  | cons x l ih =>
    unfold completeAll
    split
    · rfl
    · exact ih

theorem slotView_syncComplete (k : FieldIx) (t : Nat) : slotView f (syncComplete s k t) = slotView f s := by
  refine (slotView_modCores k _).trans (foldl_keeps (slotView f) (fun u key => ?_) _ s)
  dsimp only
  refine foldl_keeps (slotView f) (fun v e => ?_) _ u
  exact slotView_of_fld (fld_completeAll _ _ _)

theorem slotView_releaseBarrier (k : Nat) : slotView f (releaseBarrier s k) = slotView f s := by
  refine foldl_keeps (slotView f) (fun t a => ?_) _ s
  extract_lets fj r b u d resume v w
  have hv : slotView f v = slotView f t := slotView_modCores k _
  have hw : slotView f w = slotView f t := by
    refine slotView_ite ?_ rfl
    split
    · exact (slotView_syncComplete _ _).trans hv
    · exact hv
  clear_value w
  exact slotView_ite rfl ((slotView_modField k (by exact fun _ => ⟨rfl, rfl, rfl⟩)).trans hw)

theorem slotView_setJobPolicy (a : Nat) (w : BitVec 64) : slotView f (setJobPolicy s a w) = slotView f s := rfl

theorem slotView_countYield (k a y : Nat) : slotView f (countYield s k a y) = slotView f s := by
  unfold countYield
  extract_lets due step u w v
  have hu : slotView f u = slotView f s := slotView_modFjob k _
  have hv : slotView f v = slotView f s := slotView_ite rfl (slotView_ite hu ((slotView_setJobPolicy _ _).trans ((slotView_modFjob k _).trans hu)))
  exact slotView_ite ((slotView_modFjob k _).trans hv) hv

theorem slotView_decideYield (k : Nat) : slotView f (decideYield s k) = slotView f s := by
  unfold decideYield
  extract_lets a t anchor due reports
  clear_value due
  split
  · rfl
  · extract_lets stop mirror u v w
    have hv : slotView f v = slotView f s := slotView_ite ((slotView_stopStreams k _).trans (slotView_modCores k _)) (slotView_modCores k _)
    have hw : slotView f w = slotView f s := slotView_ite ((slotView_countYield k _ _).trans hv) hv
    exact slotView_ite ((slotView_sendReports k _ _ _ _).trans hw) (slotView_ite ((slotView_sendReports k _ _ _ _).trans hw) hw)

theorem reaches_reachSlot (k : Nat) : Reaches f s (reachSlot s k) := by
  unfold reachSlot
  split
  · exact reaches_of_slotView ((slotView_decideYield k).trans (slotView_syncStops k))
  · extract_lets u
    have hu : Reaches f s u := reaches_applyStaged k
    clear_value u
    split
    · exact hu
    · refine hu.trans (reaches_of_slotView ?_)
      rw [slotView_decideYield, slotView_releaseBarrier, slotView_syncStops, slotView_quietBarrier, slotView_enableSeams]

theorem slotView_pithPrepare (k : CommitKind) (arg : BitVec 64) : slotView f (pithPrepare s k arg) = slotView f s := by
  obtain ⟨c, l, h⟩ := pithPrepare_frame s k arg
  exact slotView_of_fld (by rw [h]; rfl)

theorem fld_modRec (q : Nat) (g : Rec → Rec) : (modRec s q g).fld = s.fld := by
  unfold modRec
  split
  · rfl
  · split
    · split_ifs <;> rfl
    · rfl

theorem fld_logCorrected (m : ErrMsg) (d : Domain) (link : Nat) : (logCorrected s m d link).fld = s.fld := by
  unfold logCorrected
  extract_lets u st
  have hu : u.fld = s.fld := rfl
  clear_value u
  rw [← hu]
  split
  · split <;> rfl
  · split
    · exact fld_modRec _ _
    · split <;> rfl

/-- A predictor that keeps exceeding its limit is a corrected event (R313). -/
theorem slotView_pithEvent_predictor (asid detail : Nat) (d : Domain) (link : Nat) : slotView f (pithEvent s 0x0009 asid detail d link) = slotView f s :=
  slotView_of_fld ((congrArg State.fld (if_pos (by decide : codeClass (BitVec.ofNat 16 9).toNat = 0))).trans (fld_logCorrected _ d link))

theorem slotView_evaluate (a n : Nat) : slotView f (evaluate s a n) = slotView f s := by
  unfold evaluate
  extract_lets j repro ts more bad u
  have hu : slotView f u = slotView f s := by
    refine foldl_keeps (slotView f) (fun t l => ?_) _ s
    exact slotView_ite (slotView_pithPrepare _ _) (slotView_pithEvent_predictor _ _ _ _)
  exact slotView_ite ((slotView_pithPrepare _ _).trans hu) hu

theorem slotView_readSnaps (a : Nat) : slotView f (readSnaps s a) = slotView f s :=
  slotView_ite rfl (slotView_ite rfl ((slotView_evaluate _ _).trans rfl))

theorem clk_setHold (f : FieldIx) (h : HoldCause) : (fieldOf (setHold s f h) f).clk = { (fieldOf s f).clk with hold := h } := by
  unfold setHold
  split_ifs with heq
  · rw [← heq]
  · have hclk : (fieldOf (modFclk s f fun x => { x with hold := h }) f).clk = { (fieldOf s f).clk with hold := h } := by
      rw [fieldOf_modFclk, if_pos rfl]
    exact hclk

theorem slot_setHold (f : FieldIx) {h : HoldCause} {n : Nat} (hslot : (fieldOf s f).clk.slot = n) :
    (fieldOf (setHold s f h) f).clk.slot = n ∧ (fieldOf (setHold s f h) f).clk.hold = h := by
  subst hslot
  rw [clk_setHold]
  exact ⟨rfl, rfl⟩

/-- A slot of field `f` ends: the next one is reached, without a hold. -/
theorem clk_advance (f : FieldIx) :
    (fieldOf (advance s f []) f).clk.slot = (slotOf s f + 1) % 2 ^ 60 ∧ (fieldOf (advance s f []) f).clk.hold = .none := by
  unfold advance
  extract_lets t0 xs u1 u2 u3 u4 u5 u6 u7 u8
  generalize pieces f t0 false u8 = r
  obtain ⟨v, used⟩ := r
  dsimp -zeta only
  extract_lets v1 v2 v3 v4 v5
  clear_value v2
  have hslot : (fieldOf v3 f).clk.slot = (t0 + 1) % 2 ^ 60 := by
    unfold v3
    rw [fieldOf_modField, if_pos rfl]
  clear_value v3
  have hset := slot_setHold (s := v3) f (h := .none) hslot
  have hv4 : Reaches f (setHold v3 f .none) v4 := reaches_reachSlot f
  clear_value v4
  have hv5 : slotView f v5 = slotView f v4 := by
    unfold v5
    exact slotView_ite (foldl_keeps (slotView f) (fun _ _ => slotView_readSnaps _) _ v4) rfl
  clear_value v5
  have hend : slotView f (if (t0 + 1) % 262144 = 0 then send v5 (.gate f 0 0 ((t0 + 1) % 2 ^ 48)) else v5) = slotView f v5 :=
    slotView_ite (slotView_of_fld rfl) rfl
  obtain ⟨hs, hh, -⟩ := hv4.trans ((reaches_of_slotView hv5).trans (reaches_of_slotView hend))
  exact ⟨hs.trans hset.1, hh.trans hset.2⟩

/-- A suppressed cycle. -/
theorem slotAdvance_of_suppressed {f : FieldIx} (h : fieldClocked s f = true)
    (hruns : cycleRuns (fieldOf s f).clk.cyc (fieldOf s f).pow.duty = false) :
    slotAdvance s f [] = modFclk (cycled s f) f fun x => { x with suppressed := x.suppressed + 1 } := by
  unfold slotAdvance
  rw [if_neg (by simp [h]), if_pos (by simp [hruns])]
  rfl

/-- A bubble. -/
theorem slotAdvance_of_bubble {f : FieldIx} (h : fieldClocked s f = true) (hruns : cycleRuns (fieldOf s f).clk.cyc (fieldOf s f).pow.duty = true)
    (hb : bubbles s f = true) : slotAdvance s f [] = modFclk (cycled s f) f fun x => { x with bubbles := x.bubbles + 1 } := by
  unfold slotAdvance
  rw [if_neg (by simp [h])]
  extract_lets c d u v
  have hv : v = cycled s f := rfl
  rw [if_neg (by simp [c, d, hruns]), hv, if_pos (by rw [bubbles_cycled, hb])]

/-- What a held cycle leaves. -/
theorem slotAdvance_of_hold {f : FieldIx} (h : fieldClocked s f = true) (hruns : cycleRuns (fieldOf s f).clk.cyc (fieldOf s f).pow.duty = true)
    (hb : bubbles s f = false) (hh : holdCause s f ≠ .none) :
    slotAdvance s f [] =
      if holdCause s f = .ready then heldStreams f (slotOf (countHold (setHold (cycled s f) f (holdCause s f)) f (holdCause s f)) f) (countHold (setHold (cycled s f) f (holdCause s f)) f (holdCause s f))
      else countHold (setHold (cycled s f) f (holdCause s f)) f (holdCause s f) := by
  unfold slotAdvance
  rw [if_neg (by simp [h])]
  extract_lets c d u v
  have hv : v = cycled s f := rfl
  have hvb : bubbles v f = false := by rw [hv, bubbles_cycled, hb]
  have hvc : holdCause v f = holdCause s f := by rw [hv, holdCause_cycled]
  rw [if_neg (by simp [c, d, hruns]), if_neg (by simp [hvb]), hvc, ← hv]
  clear_value v
  split
  · contradiction
  · rfl

theorem slotAdvance_of_none {f : FieldIx} (h : fieldClocked s f = true) (hruns : cycleRuns (fieldOf s f).clk.cyc (fieldOf s f).pow.duty = true)
    (hb : bubbles s f = false) (hh : holdCause s f = .none) : slotAdvance s f [] = advance (cycled s f) f [] := by
  unfold slotAdvance
  rw [if_neg (by simp [h])]
  extract_lets c d u v
  have hv : v = cycled s f := rfl
  rw [if_neg (by simp [c, d, hruns]), hv, if_neg (by rw [bubbles_cycled, hb]; decide), holdCause_cycled, hh]

theorem holdCount_countHold (f : FieldIx) (h : HoldCause) (hne : h ≠ .none) :
    holdCount (fieldOf (countHold s f h) f).clk h = holdCount (fieldOf s f).clk h + 1 ∧ (fieldOf (countHold s f h) f).clk.slot = slotOf s f ∧
      (fieldOf (countHold s f h) f).clk.hold = (fieldOf s f).clk.hold ∧ (countHold s f h).stem.msgs = s.stem.msgs := by
  unfold countHold
  extract_lets u
  have hu : holdCount (fieldOf u f).clk h = holdCount (fieldOf s f).clk h + 1 ∧ (fieldOf u f).clk.slot = slotOf s f ∧
      (fieldOf u f).clk.hold = (fieldOf s f).clk.hold ∧ u.stem.msgs = s.stem.msgs := by
    unfold u
    rw [fieldOf_modFclk, if_pos rfl]
    cases h
    case none => contradiction
    all_goals exact ⟨rfl, rfl, rfl, rfl⟩
  clear_value u
  split
  · exact hu
  · have hview : heldView f ((lateStreams u f).foldl (fun t st => modStream t f st fun y =>
        { y with ucyc := y.ucyc + 1, uev := if y.marked then y.uev else y.uev + 1, marked := true }) u) = heldView f u :=
      foldl_keeps (heldView f) (by exact fun _ _ => heldView_modStr f _) _ u
    simp only [heldView, Prod.mk.injEq] at hview
    obtain ⟨hclk, hmsgs⟩ := hview
    rw [hclk, hmsgs]
    exact hu

theorem countHold_frame (f : FieldIx) {h : HoldCause} (hne : h ≠ .ready) :
    (∀ g, g ≠ f.val → fieldOf (countHold s f h) g = fieldOf s g) ∧ ∃ l, countHold s f h = { s with fld := l } := by
  unfold countHold
  extract_lets u
  rw [if_pos hne]
  refine ⟨fun g hg => ?_, _, rfl⟩
  exact (fieldOf_modFclk ..).trans (if_neg (Ne.symm hg))

theorem msgs_setHold (f : FieldIx) (h : HoldCause) :
    (setHold s f h).stem.msgs = s.stem.msgs ++
      (if (fieldOf s f).clk.hold = h then [] else [packet s (.gate f (holdCode h) 0 (slotOf s f % 2 ^ 48))]) := by
  unfold setHold
  split_ifs
  · rw [List.append_nil]
  · rfl

theorem setHold_frame (f : FieldIx) (h : HoldCause) :
    (∀ g, g ≠ f.val → fieldOf (setHold s f h) g = fieldOf s g) ∧ ∃ l c, setHold s f h = { s with fld := l, stem := c } := by
  unfold setHold
  split_ifs
  · exact ⟨fun _ _ => rfl, _, _, rfl⟩
  · have hother : ∀ g, g ≠ f.val → fieldOf (modFclk s f fun x => { x with hold := h }) g = fieldOf s g := fun g hg => by
      rw [fieldOf_modFclk, if_neg (Ne.symm hg)]
    exact ⟨hother, _, _, rfl⟩

/-- Settles O32. -/
theorem aCycleAdvancesOrIsCounted : Obligations.ACycleAdvancesOrIsCounted := by
  intro s f hclocked x runs
  have hact : (fieldOf s f).cond.act ≠ .sleeping := by
    simp only [fieldClocked, Bool.and_eq_true, bne_iff_ne] at hclocked
    exact hclocked.2
  have hruns_iff : runs ↔ cycleRuns (fieldOf s f).clk.cyc (fieldOf s f).pow.duty = true := by
    rw [cycleRuns, decide_eq_true_iff]
  refine ⟨slotAdvance s f [], rfl, fun hruns => ?_, fun hruns hb => ?_, fun hruns hb hcause => ?_, fun hruns hb hcause => ?_⟩
  · rw [slotAdvance_of_suppressed hclocked (by rwa [hruns_iff, Bool.not_eq_true] at hruns)]
    exact modFclk_modFclk hact _ _
  · rw [slotAdvance_of_bubble hclocked (hruns_iff.1 hruns) hb]
    exact modFclk_modFclk hact _ _
  · have hclk := fieldOf_cycled_same s f
    have hslot : slotOf (cycled s f) f = slotOf s f := by rw [slotOf, hclk]; rfl
    have hset : (fieldOf (setHold (cycled s f) f (holdCause s f)) f).clk = { (fieldOf (cycled s f) f).clk with hold := holdCause s f } := clk_setHold f _
    have hmsgs := msgs_setHold (s := cycled s f) f (holdCause s f)
    obtain ⟨hsother, l, c, hsframe⟩ := setHold_frame (s := cycled s f) f (holdCause s f)
    obtain ⟨hcount, hcslot, hchold, hcmsgs⟩ := holdCount_countHold (s := setHold (cycled s f) f (holdCause s f)) f _ hcause
    have hview : heldView f (slotAdvance s f []) = heldView f (countHold (setHold (cycled s f) f (holdCause s f)) f (holdCause s f)) := by
      rw [slotAdvance_of_hold hclocked (hruns_iff.1 hruns) hb hcause]
      exact heldView_ite (heldView_heldStreams f _) rfl
    simp only [heldView, Prod.mk.injEq] at hview
    obtain ⟨hvclk, hvmsgs⟩ := hview
    refine ⟨?_, ?_, ?_, ?_, fun hready => ?_⟩
    · rw [slotOf, hvclk, hcslot, slotOf, hset, hclk]
      rfl
    · rw [hvclk, hchold, hset]
    · rw [hvclk, hcount, hset, hclk]
      cases holdCause s f <;> rfl
    · rw [hvmsgs, hcmsgs, hmsgs, hslot, hclk]
      rfl
    · rw [slotAdvance_of_hold hclocked (hruns_iff.1 hruns) hb hcause, if_neg hready]
      obtain ⟨hcother, l', hcframe⟩ := countHold_frame (s := setHold (cycled s f) f (holdCause s f)) f hready
      refine ⟨fun g hg => ?_, ?_⟩
      · rw [hcother g hg, hsother g hg]
        exact (fieldOf_modFclk ..).trans (if_neg (Ne.symm hg))
      · rw [hcframe, hsframe]
        rfl
  · rw [slotAdvance_of_none hclocked (hruns_iff.1 hruns) hb hcause]
    obtain ⟨hslot, hhold⟩ := clk_advance (s := cycled s f) f
    have hcycled : slotOf (cycled s f) f = slotOf s f := by rw [slotOf, fieldOf_cycled_same]; rfl
    refine ⟨hslot.trans (by rw [hcycled]), hhold, fun href => ?_⟩
    simpa [bubbles, href] using hb

end Sys2Proof.Proofs.Cycles
end

section
/-! SUPPORT. Participants of the epoch commit protocol (02): O34. -/

namespace Sys2Proof.Proofs.Participants

open Sys2Proof.Laws Sys2Proof.Machine Sys2Proof Sys2Proof.Proofs.Links Sys2Proof.Proofs.Commits Sys2Proof.Proofs.Cycles Sys2Proof.Proofs.Regulation

variable {s t : State} {u : Part} {csn : BitVec 16} {epoch : Nat}

/-! ## The changes that a participant has staged -/

theorem fieldOf_putStaged (s : State) (f : FieldIx) (l : List Staged) :
    fieldOf (putStaged s (.field f) l) f = { fieldOf s f with clk := { (fieldOf s f).clk with staged := l } } := by
  unfold putStaged
  rw [fieldOf_modFclk, if_pos rfl]

theorem stagedOf_putStaged (s : State) (u : Part) (l : List Staged) : stagedOf (putStaged s u l) u = l := by
  cases u with
  | field f => exact congrArg (fun x : Field => x.clk.staged) (fieldOf_putStaged s f l)
  | rind d => exact (tabGet_put ([] : List Staged) d.val d.val l s.com.rind).trans (if_pos rfl)
  | root => rfl
  | mirror => rfl

theorem stem_putStaged (s : State) (u : Part) (l : List Staged) : (putStaged s u l).stem = s.stem := by cases u <;> rfl

theorem stagedOf_retargetPart (s : State) (u : Part) : stagedOf (retargetPart s u) u = stagedOf s u := by
  cases u with
  | field f => exact congrArg (·.2.2) (slotView_modFpow (f := f.val) f.val _)
  | rind d => rfl
  | root => rfl
  | mirror => rfl

theorem stem_retargetPart (s : State) (u : Part) : (retargetPart s u).stem = s.stem := by cases u <;> rfl

theorem stagedOf_refreshStaged (s : State) (u : Part) : stagedOf (refreshStaged s) u = stagedOf s u := by
  obtain ⟨c, j, h, -⟩ := Reference.refreshStaged_rest s
  rw [h]
  cases u <;> rfl

theorem stem_refreshStaged (s : State) : (refreshStaged s).stem = s.stem := by
  obtain ⟨c, j, h, -⟩ := Reference.refreshStaged_rest s
  rw [h]

/-! ## PREPARE -/

theorem answerOf_staged_iff (s : State) (u : Part) (k : CommitKind) (arg : BitVec 64) (epoch : Nat) :
    let valid := argOk s u k arg = true
    let late := epoch < partSlot s u / 4096 + 8
    let busy := 8 ≤ ((stagedOf s u).filter (·.decided)).length
    let st := answerOf s u k arg epoch
    (st = .nackInvalid ↔ ¬ valid) ∧ (st = .nackLate ↔ valid ∧ late) ∧ (st = .nackBusy ↔ valid ∧ ¬ late ∧ busy) ∧
      (st = .staged ↔ valid ∧ ¬ late ∧ ¬ busy) := by
  intro valid late busy st
  by_cases hv : valid
  · by_cases hl : late
    · have hst : st = .nackLate := (if_neg (by simpa [valid] using hv)).trans (if_pos hl)
      simp [hst, hv, hl]
    · by_cases hb : busy
      · have hst : st = .nackBusy := (if_neg (by simp [valid] at hv ⊢; exact hv)).trans ((if_neg hl).trans (if_pos hb))
        simp [hst, hv, hl, hb]
      · have hst : st = .staged := (if_neg (by simp [valid] at hv ⊢; exact hv)).trans ((if_neg hl).trans (if_neg hb))
        simp [hst, hv, hl, hb]
  · have hst : st = .nackInvalid := if_pos (by simpa [valid] using hv)
    simp [hst, hv]

/-- The state after a participant has staged change `c`. -/
def stagedIn (s : State) (u : Part) (c : Staged) : State := refreshStaged (retargetPart (putStaged s u (stagedOf s u ++ [c])) u)

theorem stagedOf_stagedIn (s : State) (u : Part) (c : Staged) : stagedOf (stagedIn s u c) u = stagedOf s u ++ [c] := by
  rw [stagedIn, stagedOf_refreshStaged, stagedOf_retargetPart, stagedOf_putStaged]

theorem stem_stagedIn (s : State) (u : Part) (c : Staged) : (stagedIn s u c).stem = s.stem := by
  rw [stagedIn, stem_refreshStaged, stem_retargetPart, stem_putStaged]

theorem prepareIn_of_alive (h : partAlive s u = true) (k : CommitKind) (arg : BitVec 64) :
    prepareIn s u csn k arg epoch =
      let r := receive s (.prepare u csn k arg epoch 0)
      let st := answerOf s u k arg epoch
      send (if st = .staged then stagedIn r u { csn := csn, kind := k, arg := arg, epoch := epoch } else r) (.ack u csn st) :=
  if_neg (by
    have hr : partAlive (receive s (.prepare u csn k arg epoch 0)) u = partAlive s u := rfl
    rw [hr, h]; decide)

theorem stagedOf_of_stem (s : State) (u : Part) (x : Stem) : stagedOf { s with stem := x } u = stagedOf s u := by cases u <;> rfl

theorem prepareIn_acts (h : partAlive s u = true) (k : CommitKind) (arg : BitVec 64) :
    let t := prepareIn s u csn k arg epoch
    let st := answerOf s u k arg epoch
    t.stem = { (receive s (.prepare u csn k arg epoch 0)).stem with
      msgs := (receive s (.prepare u csn k arg epoch 0)).stem.msgs ++ [packet s (.ack u csn st)] } ∧
    (st = .staged → stagedOf t u = stagedOf s u ++ [{ csn := csn, kind := k, arg := arg, epoch := epoch }]) ∧
    (st ≠ .staged → t = { s with stem := t.stem }) := by
  intro t st
  have ht : t = _ := prepareIn_of_alive h k arg
  by_cases hst : st = .staged
  · have ht' : t = send (stagedIn (receive s (.prepare u csn k arg epoch 0)) u { csn := csn, kind := k, arg := arg, epoch := epoch }) (.ack u csn st) :=
      ht.trans (congrArg (send · _) (if_pos hst))
    refine ⟨?_, fun _ => ?_, fun hne => absurd hst hne⟩
    · rw [ht', send_eq, sent, stem_stagedIn]
      rfl
    · rw [ht', send_eq, sent, stagedOf_of_stem, stagedOf_stagedIn, receive, stagedOf_of_stem]
  · have ht' : t = send (receive s (.prepare u csn k arg epoch 0)) (.ack u csn st) := ht.trans (congrArg (send · _) (if_neg hst))
    refine ⟨?_, fun h => absurd h hst, fun _ => ?_⟩
    · rw [ht']
      rfl
    · rw [ht']
      rfl

/-! ## ABORT -/

theorem abortIn_of_alive (h : partAlive s u = true) :
    ∃ v, stagedOf v u = (stagedOf s u).filter (fun c => c.decided || c.csn != csn) ∧
      (abortIn s u csn epoch = v ∨ ∃ f : FieldIx, u = .field f ∧ abortIn s u csn epoch = reachSlot v f) := by
  unfold abortIn
  extract_lets r v1 com v2 v3
  have hr : partAlive r u = partAlive s u := rfl
  rw [if_neg (by rw [hr, h]; decide)]
  have hv1 : stagedOf v1 u = (stagedOf s u).filter (fun c => c.decided || c.csn != csn) := by
    unfold v1
    rw [stagedOf_putStaged]
    unfold r receive
    rw [stagedOf_of_stem]
  have hv2 : stagedOf v2 u = stagedOf v1 u := by cases u <;> rfl
  have hv3 : stagedOf v3 u = stagedOf v2 u := by
    unfold v3
    rw [stagedOf_refreshStaged, stagedOf_retargetPart]
  refine ⟨v3, hv3.trans (hv2.trans hv1), ?_⟩
  clear_value v3
  cases u with
  | field f =>
    dsimp only
    split
    · exact .inr ⟨f, rfl, rfl⟩
    · exact .inl rfl
  | rind d => exact .inl rfl
  | root => exact .inl rfl
  | mirror => exact .inl rfl

theorem staged_abortIn (h : partAlive s u = true) {c : Staged} (hc : c ∈ stagedOf (abortIn s u csn epoch) u) :
    c ∈ stagedOf s u ∧ (c.decided = true ∨ c.csn ≠ csn) := by
  obtain ⟨v, hv, heq⟩ := abortIn_of_alive (csn := csn) (epoch := epoch) h
  have hmem : c ∈ stagedOf v u := by
    rcases heq with heq | ⟨f, rfl, heq⟩
    · rwa [heq] at hc
    · rw [heq] at hc
      exact (reaches_reachSlot f.val).2.2 c hc
  rw [hv, List.mem_filter] at hmem
  simpa using hmem

/-! ## COMMIT -/

theorem commitIn_early (h : partAlive s u = true) (hearly : partSlot s u < 4096 * epoch) :
    let t := commitIn s u csn epoch
    stagedOf t u = modFirst (fun c => c.csn == csn) (fun c => { c with decided := true }) (stagedOf s u) ∧
      t.stem = (receive s (.commit u csn epoch)).stem := by
  intro t
  have hr : partAlive (receive s (.commit u csn epoch)) u = partAlive s u := rfl
  have hslot : partSlot (receive s (.commit u csn epoch)) u = partSlot s u := by cases u <;> rfl
  have hslot' : ∀ l, partSlot (putStaged (receive s (.commit u csn epoch)) u l) u = partSlot s u := by
    intro l
    cases u with
    | field f => exact (congrArg (fun x : Field => x.clk.slot) (fieldOf_putStaged (receive s (.commit (.field f) csn epoch)) f l)).trans rfl
    | rind d => rfl
    | root => rfl
    | mirror => rfl
  have hst : stagedOf (receive s (.commit u csn epoch)) u = stagedOf s u := stagedOf_of_stem s u _
  have ht : t = putStaged (receive s (.commit u csn epoch)) u (modFirst (fun c => c.csn == csn) (fun c => { c with decided := true }) (stagedOf s u)) := by
    unfold t commitIn
    extract_lets r v
    rw [if_neg (by rw [hr, h]; decide), if_neg (by rw [hslot]; omega)]
    unfold v
    rw [hst, hslot']
    exact if_pos (by omega)
  rw [ht]
  exact ⟨stagedOf_putStaged _ _ _, stem_putStaged _ _ _⟩

/-- A field whose change comes too late is fenced with cause 7, and says so (R69). -/
theorem fenceLate_acts (f : FieldIx) (csn : BitVec 16) (hgone : fieldGone s f = false) :
    let t := send (fenceHw (raiseField s f 0x0302 0 7 0 csn.toNat) f 7) (.fence f 7)
    (∃ e ∈ t.stem.events, e.code = 0x0302) ∧ packet s (.fence f 7) ∈ t.stem.msgs ∧
      ((fieldOf t f).cond.fenced = true ∧ (fieldOf t f).cond.fcause = 7) ∧ (fieldOf t f).clk.staged = [] := by
  obtain ⟨l, hl⟩ := fenceHw_eq (raiseField s f 0x0302 0 7 0 csn.toNat) f 7
  have hfield : fieldOf (modField { raiseField s f 0x0302 0 7 0 csn.toNat with cor := l } f (fencedField 7)) f = clampedBy 7 (fieldOf s f) := by
    rw [fieldOf_modField, if_pos rfl]
    exact fencedField_of_good hgone 7
  rw [hl]
  intro t
  have ht : fieldOf t f = clampedBy 7 (fieldOf s f) := hfield
  rw [ht]
  obtain ⟨e, he, hcode, -⟩ := exists_mem_mergeEvent (mkEvent (fieldAddr f) (slotOf s f) 0x0302 0 0 7 0 csn.toNat) s.stem.events
  exact ⟨⟨e, he, hcode⟩, List.mem_append_right _ (List.mem_singleton_self _), ⟨rfl, rfl⟩, rfl⟩

/-- A change whose epoch has passed is not applied, and a field is fenced (R69). -/
theorem commitIn_late (h : partAlive s u = true) (hlate : 4096 * epoch < partSlot s u) :
    let t := commitIn s u csn epoch
    (∃ e ∈ t.stem.events, e.code = 0x0302) ∧ (∀ c ∈ stagedOf t u, c ∈ stagedOf s u ∧ c.csn ≠ csn) ∧
      (∀ f, u = .field f → (fieldOf t f).cond.fenced = true ∧ (fieldOf t f).cond.fcause = 7 ∧ packet s (.fence f 7) ∈ t.stem.msgs) := by
  intro t
  have hr : partAlive (receive s (.commit u csn epoch)) u = partAlive s u := rfl
  have hslot : partSlot (receive s (.commit u csn epoch)) u = partSlot s u := by cases u <;> rfl
  have hst : stagedOf (receive s (.commit u csn epoch)) u = stagedOf s u := stagedOf_of_stem s u _
  have ht : t = commitLate (receive s (.commit u csn epoch)) u csn := by
    unfold t commitIn
    extract_lets r v
    rw [if_neg (by rw [hr, h]; decide)]
    exact if_pos (by rw [hslot]; exact hlate)
  have hv : stagedOf (putStaged (receive s (.commit u csn epoch)) u ((stagedOf (receive s (.commit u csn epoch)) u).filter fun c => c.csn != csn)) u =
      (stagedOf s u).filter fun c => c.csn != csn := by
    rw [stagedOf_putStaged, hst]
  have hsub : ∀ l, l = ((stagedOf s u).filter fun c => c.csn != csn) → ∀ c ∈ l, c ∈ stagedOf s u ∧ c.csn ≠ csn := by
    rintro l rfl c hc
    simpa using hc
  cases u with
  | field f =>
    clear_value t
    subst ht
    have hgone : fieldGone (putStaged (receive s (.commit (.field f) csn epoch)) (.field f)
        ((stagedOf (receive s (.commit (.field f) csn epoch)) (.field f)).filter fun c => c.csn != csn)) f = false := by
      simp only [partAlive, Bool.and_eq_true, Bool.not_eq_true'] at h
      unfold fieldGone
      rw [fieldOf_putStaged]
      exact h.2
    obtain ⟨hevent, hstem, hcond, hstaged⟩ := fenceLate_acts f csn hgone
    refine ⟨hevent, fun c hc => ?_, ?_⟩
    · exact absurd (hstaged ▸ hc : c ∈ ([] : List Staged)) List.not_mem_nil
    · rintro f' hf
      cases hf
      exact ⟨hcond.1, hcond.2, hstem⟩
  | rind d =>
    rw [ht]
    exact ⟨let ⟨e, he, hcode, _⟩ := exists_event_raiseDie _ _ _ _ _ _; ⟨e, he, hcode⟩, hsub _ hv, fun f hf => by cases hf⟩
  | root =>
    rw [ht]
    exact ⟨let ⟨e, he, hcode, _⟩ := exists_event_raiseDie _ _ _ _ _ _; ⟨e, he, hcode⟩, hsub _ hv, fun f hf => by cases hf⟩
  | mirror =>
    rw [ht]
    exact ⟨let ⟨e, he, hcode, _⟩ := exists_mem_mergeEvent _ _; ⟨e, he, hcode⟩, hsub _ hv, fun f hf => by cases hf⟩

/-- Settles O34. -/
theorem participantsStageDecideAndRefuse : Obligations.ParticipantsStageDecideAndRefuse := by
  intro s u csn epoch halive
  refine ⟨fun k arg => ?prepare, ⟨_, rfl, fun c hc => staged_abortIn halive hc⟩, fun hearly => ⟨_, rfl, commitIn_early halive hearly⟩,
    fun hlate => ⟨_, rfl, commitIn_late halive hlate⟩⟩
  case prepare =>
    intro valid late busy
    obtain ⟨hstem, hstaged, hrefused⟩ := prepareIn_acts (csn := csn) (epoch := epoch) halive k arg
    obtain ⟨hinvalid, hlate, hbusy, hgood⟩ := answerOf_staged_iff s u k arg epoch
    exact ⟨_, _, rfl, hstem, hinvalid, hlate, hbusy, hgood, hstaged, hrefused⟩

end Sys2Proof.Proofs.Participants
end

section
/-! SUPPORT. The pith's side of the epoch commit protocol (02): O35. -/

namespace Sys2Proof.Proofs.ThePith

open Sys2Proof.Machine Sys2Proof

/-! ## A fenced field whose SRAM rail comes on again -/

/-- Field 0 carries a transit route of job 1, which is stopped, and has a segment in retain; a decision sent again 8 epochs ago waits for it. -/
def waiting : State :=
  { inp := { main := true }
    clk := { n8 := 8 * (4096 * 8) }
    pith := { running := true }
    com := { resent := [(.field 0, 0)], committed := [{ kind := .freq, arg := 32, parts := [.field 0] }] }
    job := [(1, { live := true, st := .stopped })]
    fld := [(0, { cond := { leases := [1] }, mem := { seg := [(0, { st := 1 })] } })] }

theorem epoch_waiting : nominalEpoch waiting = 8 := by
  decide +kernel

/-- The fence settles the stopped job, and the field leaves it with the rails of a SLEEPING field, the SRAM rail among them (R17). -/
theorem rails_waiting : (fieldOf (commitWaitTimeout waiting (.field 0)) (0 : FieldIx).val).pow.rails = 2 := by
  decide +kernel

/-- Refutes O35: a field that is fenced with cause 6 while a transit route of a stopped job is its only hold leaves that job in the same step,
and with a segment in retain its SRAM rail is on afterwards, so its rails do not read 0. -/
theorem not_thePithDecidesAbortsAndRepeats : ¬ Obligations.ThePithDecidesAbortsAndRepeats := by
  intro h
  obtain ⟨-, -, htimeout, -⟩ := h waiting default rfl rfl rfl rfl
  obtain ⟨t, ht, -, -, hrails⟩ := htimeout 0 rfl ⟨_, List.mem_singleton_self _, rfl, epoch_waiting.ge⟩
    (.inl ⟨_, List.mem_singleton_self _, List.mem_singleton_self _⟩)
  have hstep : t = commitWaitTimeout waiting (.field 0) := (Host.Outcome.next.inj ht).symm
  rw [hstep, rails_waiting] at hrails
  exact absurd hrails (by decide)

end Sys2Proof.Proofs.ThePith
end

section
/-! SUPPORT. Barriers, reports and rest (06, 12): O36. -/

namespace Sys2Proof.Proofs.Barriers

open Sys2Proof.Laws Sys2Proof.Machine Sys2Proof Sys2Proof.Proofs.Commits Sys2Proof.Proofs.RateCode

variable {s t : State}

/-! ## Barriers -/

theorem unitsAt_jobAddr {a : Nat} (ha : a ≤ 36) (s : State) : unitsAt s (jobAddr a) = (jobFields s a).map fieldAddr := by
  have hto : (jobAddr a).toNat = 0xF100 + a := by
    simp only [jobAddr, BitVec.toNat_ofNat]
    omega
  have hne : jobAddr a ≠ allAddr := fun h => by
    have h' := congrArg BitVec.toNat h
    rw [hto] at h'
    have hall : allAddr.toNat = 0xF000 := by decide
    omega
  unfold unitsAt
  rw [if_neg hne, if_pos (by omega), hto, Nat.add_sub_cancel_left]

theorem varOf_of_job {a : Nat} (hfam : (jobOf t a).fam = (jobOf s a).fam) (hvar : (jobOf t a).variant = (jobOf s a).variant) : varOf t a = varOf s a := by
  rw [varOf, hfam, hvar, varOf]

/-- The job after its last arrival at barrier `n`, and before it. -/
def arrived (n : Fin 16) (l : List Nat) (j : Job) : Job := { j with barrier := n.val, arrivals := l }

theorem release_modJob {a : Nat} (ha : a ≤ 36) (n : Fin 16) (l : List Nat) (e : Nat) :
    let v := modJob s a (arrived n l)
    broadcast v (jobAddr a) (msgFlits v (.release 0 a n e)) =
      { v with stem := { v.stem with msgs := v.stem.msgs ++ (jobFields s a).map fun g => packet s (.release g a n e) } } := by
  intro v
  have hjob : jobOf v a = arrived n l (jobOf s a) := (jobOf_modJob (s := s) a a _).trans (if_pos rfl)
  have howner : ownerAddr v a n = ownerAddr s a n := by
    have hvar : varOf v a = varOf s a := varOf_of_job ((congrArg Job.fam hjob).trans rfl) ((congrArg Job.variant hjob).trans rfl)
    unfold ownerAddr
    rw [hvar, hjob]
    rfl
  have hunits : unitsAt v (jobAddr a) = (jobFields s a).map fieldAddr := unitsAt_jobAddr ha v
  unfold broadcast
  rw [hunits, List.map_map]
  simp only [msgFlits, howner]
  rfl

theorem barrierArrive_acts {f : FieldIx} {b : BunchIx} {a : Nat} {n : Fin 16} (ha : a ≤ 36) (hlive : (jobOf s a).live = true)
    (hst : (jobOf s a).st ≠ .stopped) (hmain : s.inp.main = true) (hheld : s.inp.held = false) :
    let j := jobOf s a
    let l := addNew (36 * f.val + b.val) (if j.barrier = n.val then j.arrivals else [])
    let got := (receive s (.arrive a n f b)).stem.msgs
    let t := barrierArrive s a n f b
    ((∀ x ∈ jobBunches s a, x ∈ l) → jobOf t a = { j with barrier := n.val, arrivals := [] } ∧
      t.stem.msgs = got ++ (jobFields s a).map fun g => packet s (.release g a n (nominalEpoch s + 8))) ∧
    (¬ (∀ x ∈ jobBunches s a, x ∈ l) → jobOf t a = { j with barrier := n.val, arrivals := l } ∧ t.stem.msgs = got) ∧
    (∀ x, x ≠ a → jobOf t x = jobOf s x) ∧ t = { s with job := t.job, stem := t.stem } := by
  intro j l got t
  have hall : ((jobBunches s a).all fun x => l.contains x) = true ↔ ∀ x ∈ jobBunches s a, x ∈ l := by
    simp [List.all_eq_true]
  have hopen : t = if ((jobBunches s a).all fun x => l.contains x) = true then
        broadcast (modJob (receive s (.arrive a n f b)) a (arrived n [])) (jobAddr a)
          (msgFlits (modJob (receive s (.arrive a n f b)) a (arrived n [])) (.release 0 a n (nominalEpoch s + 8)))
      else modJob (receive s (.arrive a n f b)) a (arrived n l) := by
    refine if_neg ?_
    have hj : jobOf (receive s (.arrive a n f b)) a = j := rfl
    rw [hj]
    simp [receive, j, hlive, hst, hmain, hheld]
  have hself : ∀ l', jobOf (modJob (receive s (.arrive a n f b)) a (arrived n l')) a = arrived n l' j := fun l' =>
    (jobOf_modJob (s := receive s (.arrive a n f b)) a a _).trans (if_pos rfl)
  have hother : ∀ l' x, x ≠ a → jobOf (modJob (receive s (.arrive a n f b)) a (arrived n l')) x = jobOf s x := fun l' x hx =>
    (jobOf_modJob (s := receive s (.arrive a n f b)) a x _).trans (if_neg (Ne.symm hx))
  by_cases hlast : ∀ x ∈ jobBunches s a, x ∈ l
  · have ht := (hopen.trans (if_pos (hall.2 hlast))).trans (release_modJob (s := receive s (.arrive a n f b)) ha n [] (nominalEpoch s + 8))
    rw [ht]
    exact ⟨fun _ => ⟨hself [], rfl⟩, fun h => absurd hlast h, hother [], rfl⟩
  · have ht := hopen.trans (if_neg (mt hall.1 hlast))
    rw [ht]
    exact ⟨fun h => absurd h hlast, fun _ => ⟨hself l, rfl⟩, hother l, rfl⟩

theorem barrierRelease_acts {f : FieldIx} {a : Nat} {n : Fin 16} {epoch : Nat} (hgone : fieldGone s f = false) (hjob : hasJob s f a = true)
    (hhalted : a ∉ (fieldOf s f).job.halted) (hpre : tabGet 0 (fieldOf s f).job.pre a = 0) :
    let t := barrierRelease s f a n epoch
    tabGet 0 (fieldOf t f).job.release a = epoch + 1 ∧ tabGet 0 (fieldOf t f).job.relBar a = n.val ∧
      (∀ x, x ≠ f.val → fieldOf t x = fieldOf s x) ∧ t = { s with fld := t.fld, stem := t.stem } := by
  intro t
  have hopen : t = modFjob (receive s (.release f a n epoch)) f fun x =>
      { x with release := tabPut 0 a (epoch + 1) x.release, relBar := tabPut 0 a n.val x.relBar } := by
    refine if_neg ?_
    have hg : fieldGone (receive s (.release f a n epoch)) f = false := hgone
    have hh : hasJob (receive s (.release f a n epoch)) f a = true := hjob
    have hf : fieldOf (receive s (.release f a n epoch)) f = fieldOf s f := rfl
    rw [hg, hh, hf]
    simpa [hpre] using hhalted
  have hself := fieldOf_modFjob (s := receive s (.release f a n epoch)) f f fun x =>
      { x with release := tabPut 0 a (epoch + 1) x.release, relBar := tabPut 0 a n.val x.relBar }
  rw [if_pos rfl, ← hopen] at hself
  refine ⟨?_, ?_, fun x hx => ?_, ?_⟩
  · rw [hself]
    exact (tabGet_put 0 a a (epoch + 1) (fieldOf s f).job.release).trans (if_pos rfl)
  · rw [hself]
    exact (tabGet_put 0 a a n.val (fieldOf s f).job.relBar).trans (if_pos rfl)
  · rw [hopen, fieldOf_modFjob, if_neg (Ne.symm hx)]
    rfl
  · rw [hopen]
    rfl

/-! ## Reports at mirror points -/

theorem takeReport_mirror {f : FieldIx} {b : BunchIx} {a y : Nat} (hup : pithUp s = true) (hlive : (jobOf s a).live = true)
    (hon : onStem s (.yieldReport f b a y true) = true) :
    takeReport s f b a y true =
      modJob (receive s (.yieldReport f b a y true)) a fun j => { j with mirrorReports := j.mirrorReports ++ [36 * f.val + b.val] } := by
  unfold takeReport
  dsimp only
  rw [if_neg (by simp [hup, hlive]), if_neg (by simp [hon]), if_pos rfl]

/-! ## Changes that the pith prepares -/

theorem pithPrepare_prepares (hidle : CommitIdle s) {k : CommitKind} {arg : BitVec 64} (hparts : partsOf s k arg ≠ []) :
    Prepares s (pithPrepare s k arg) k arg := by
  obtain ⟨hup, hout, hqueue, -, -, hlost, hsafe⟩ := hidle
  have hmay : mayPrepare s = true := by simp [mayPrepare, hup, hout, hlost, hsafe]
  have hq : s.com.queue ++ [({ kind := k, arg := arg, parts := [] } : Change)] = [{ kind := k, arg := arg, parts := [] }] := by
    rw [hqueue]; rfl
  have hsend : pithPrepare s k arg = sendPrepare { s with com := { s.com with queue := [] } } { kind := k, arg := arg, parts := [] } :=
    pump_of_queue (s := { s with com := { s.com with queue := _ } }) hmay hq (by
      have hne : (partsOf s k arg).isEmpty = false := by simpa using hparts
      exact hne)
  rw [hsend, sendPrepare_eq]
  exact ⟨rfl, ⟨_, rfl, rfl, rfl, rfl, rfl, rfl, le_prepareEpoch s _, rfl⟩, rfl⟩

/-- A field that runs takes part in its own REST (R61, R309). -/
theorem mem_partsOf_rest (f : FieldIx) (hrun : runningField s f = true) : Part.field f ∈ partsOf s .rest (BitVec.ofNat 64 f.val) := by
  have hbits : bitsOf (BitVec.ofNat 64 f.val).toNat 0 6 = f.val := by
    simp only [BitVec.toNat_ofNat, bitsOf]
    omega
  simp only [partsOf, hbits, List.mem_filter, List.mem_map]
  exact ⟨⟨f, by simp, rfl⟩, hrun⟩

/-- Settles O36. -/
theorem barriersReportsAndRest : Obligations.BarriersReportsAndRest := by
  intro s f b a n j
  refine ⟨fun ha hlive hst hmain hheld => ⟨_, rfl, barrierArrive_acts ha hlive hst hmain hheld⟩,
    fun epoch hgone hjob hhalted hpre => ⟨_, rfl, barrierRelease_acts hgone hjob hhalted hpre⟩, fun y hup hlive hon => ?report,
    fun hidle hgone howner hleases hact => ?rest⟩
  case report =>
    refine ⟨takeReport s f b a y true, rfl, rfl, ?_⟩
    rw [takeReport_mirror hup hlive hon]
    exact ⟨(jobOf_modJob (s := receive s (.yieldReport f b a y true)) a a _).trans (if_pos rfl), rfl, rfl⟩
  case rest =>
    obtain ⟨hup, -, -, -, -, -, hsafe⟩ := id hidle
    have hrun : runningField s f = true := by simp [runningField, hgone, hact]
    have hrest : fieldRest s f = pithPrepare s .rest (BitVec.ofNat 64 f.val) := by
      unfold fieldRest
      dsimp only
      rw [if_neg (by simp [hup, hsafe, hgone]), if_pos howner, if_pos (by simp [hact, hleases])]
    refine ⟨_, rfl, ?_⟩
    rw [hrest]
    exact pithPrepare_prepares hidle (List.ne_nil_of_mem (mem_partsOf_rest f hrun))

end Sys2Proof.Proofs.Barriers
end

section
/-! SUPPORT. What logging an event and ending a domain's handling leave (13). -/

namespace Sys2Proof.Proofs.Logging

open Sys2Proof.Laws Sys2Proof.Machine Sys2Proof Sys2Proof.Proofs.Fields Sys2Proof.Proofs.Commits Sys2Proof.Proofs.Links Sys2Proof.Proofs.Resets Sys2Proof.Proofs.Regulation

variable {s t u : State}

/-! ## What an operation leaves of the log -/

/-- The log, the safe state, the capacity map's number, and which fields are fenced. -/
def steady (s : State) := (s.log, s.trs.safe, s.yld.gen, fun f => (fieldOf s f).cond.fenced)

theorem steady_of_fld (hlog : t.log = s.log) (hsafe : t.trs.safe = s.trs.safe) (hgen : t.yld.gen = s.yld.gen) (hfld : t.fld = s.fld) :
    steady t = steady s := by
  simp only [steady, fieldOf, hlog, hsafe, hgen, hfld]

theorem steady_ite {c : Prop} [Decidable c] {a b : State} (ha : steady a = steady s) (hb : steady b = steady s) :
    steady (if c then a else b) = steady s := by
  split
  · exact ha
  · exact hb

theorem steady_modField (s : State) (k : Nat) {g : Field → Field} (hg : ∀ x, (g x).cond.fenced = x.cond.fenced) :
    steady (modField s k g) = steady s := by
  have hfenced : (fun f => (fieldOf (modField s k g) f).cond.fenced) = fun f => (fieldOf s f).cond.fenced := by
    funext f
    rw [fieldOf_modField]
    split_ifs with h
    · rw [hg, h]
    · rfl
  exact congrArg (fun v => (s.log, s.trs.safe, s.yld.gen, v)) hfenced

theorem steady_modNet (s : State) (k : Nat) (g : FieldNet → FieldNet) : steady (modNet s k g) = steady s := steady_modField s k fun _ => rfl

theorem steady_modFields (s : State) {g : Nat → Field → Field} (hg : ∀ k x, (g k x).cond.fenced = x.cond.fenced) :
    steady (modFields s g) = steady s := by
  have hfenced : (fun f => (fieldOf (modFields s g) f).cond.fenced) = fun f => (fieldOf s f).cond.fenced := by
    funext f
    rw [fieldOf_modFields]
    split_ifs
    · rw [hg]
    · rfl
  obtain ⟨l, hl⟩ := modFields_frame s g
  rw [hl] at hfenced ⊢
  exact congrArg (fun v => (s.log, s.trs.safe, s.yld.gen, v)) hfenced

theorem steady_modCores (s : State) (f : Nat) (g : Nat → Core → Core) : steady (modCores s f g) = steady s := by
  obtain ⟨l, h⟩ := modCores_frame s f g
  rw [h]; rfl

theorem steady_pump (s : State) : steady (pump s) = steady s := by
  obtain ⟨k, l, h⟩ := pump_frame s
  rw [h]; rfl

theorem steady_refreshLow (s : State) : steady (refreshLow s) = steady s := steady_modFields s fun _ _ => rfl

theorem steady_sendFail (s : State) : steady (sendFail s) = steady s := by
  obtain ⟨b, l, h⟩ := sendFail_frame s
  rw [h]; rfl

theorem steady_abortOut (s : State) (again : Option Nat) : steady (abortOut s again) = steady s := by
  unfold abortOut
  split
  · rfl
  · next c _ => exact foldl_keeps (f := fun t u => send t (.abort u c.csn c.epoch)) steady (fun _ _ => rfl) c.parts _

theorem steady_dropJobChanges (s : State) (a : Nat) : steady (dropJobChanges s a) = steady s :=
  (steady_pump _).trans (steady_ite (steady_abortOut s none) rfl)

theorem steady_postAsync (s : State) (c : Cpl) : steady (postAsync s c) = steady s := steady_ite rfl rfl

theorem steady_postJob (s : State) (a kind res0 : Nat) : steady (postJob s a kind res0) = steady s := steady_postAsync s _

theorem steady_finishCmd (s : State) (c : Cmd) (status : Nat) (g : Cpl → Cpl) : steady (finishCmd s c status g) = steady s := steady_ite rfl rfl

theorem steady_finishJobCmds (s : State) (opc n status : Nat) (g : Cpl → Cpl) : steady (finishJobCmds s opc n status g) = steady s :=
  foldl_keeps steady (fun t c => steady_finishCmd t c status g) _ s

theorem steady_finishCtxCmd (s : State) (x opc status : Nat) : steady (finishCtxCmd s x opc status) = steady s :=
  foldl_keeps steady (fun t c => steady_finishCmd t c status id) _ s

theorem steady_discardMirror (s : State) (a : Nat) : steady (discardMirror s a) = steady s := by
  unfold discardMirror
  dsimp only
  refine steady_ite rfl ?_
  split <;> rfl

theorem steady_stopJob (s : State) (a seq : Nat) (told : Bool) : steady (stopJob s a seq told) = steady s := by
  unfold stopJob
  extract_lets j u g v w x
  have hv : steady v = steady s := by
    simp only [v, u, steady_finishJobCmds, steady_discardMirror, steady_dropJobChanges]
  clear_value v
  have hw : steady w = steady s := hv
  clear_value w
  exact steady_ite ((steady_postJob _ _ _ _).trans hw) hw

theorem steady_dropSeams (s : State) (f a : Nat) : steady (dropSeams s f a) = steady s := by
  refine foldl_keeps steady (fun t side => ?_) _ s
  dsimp only
  split
  · exact (steady_modNet _ _ _).trans (steady_modNet _ _ _)
  · exact steady_modNet _ _ _

theorem steady_stopFieldJob (s : State) (f a : Nat) : steady (stopFieldJob s f a) = steady s := by
  unfold stopFieldJob
  extract_lets work v w
  have hv : steady v = steady s := steady_dropSeams s f a
  clear_value v
  have hw : steady w = steady s := (steady_ite (steady_modCores v f fun _ c => haltCore c) rfl).trans hv
  clear_value w
  exact (steady_modField _ _ (by exact fun _ => rfl)).trans hw

theorem steady_failTransfer (s : State) (key : Nat) : steady (failTransfer s key) = steady s := steady_modField _ _ fun _ => rfl

theorem steady_failCtx (s : State) (x cause : Nat) : steady (failCtx s x cause) = steady s := by
  unfold failCtx
  extract_lets c reads u v b w x' y
  have hu : steady u = steady s := by
    refine foldl_keeps steady (fun t e => ?_) _ s
    exact steady_failTransfer t _
  clear_value u
  have hx : steady x' = steady s := (steady_of_fld rfl rfl rfl rfl).trans hu
  clear_value x'
  have hy : steady y = steady s := (steady_finishCtxCmd _ _ _ _).trans ((steady_finishCtxCmd _ _ _ _).trans hx)
  clear_value y
  exact steady_ite rfl hy

theorem steady_ctxSend (s : State) (x ty : Nat) (g : BupMsg → BupMsg) : steady (ctxSend s x ty g) = steady s := by
  unfold ctxSend
  extract_lets c u
  have hu : steady u = steady s := rfl
  clear_value u
  refine steady_ite rfl (steady_ite ((steady_failCtx _ _ _).trans hu) ?_)
  split
  · exact steady_failCtx _ _ _
  · rfl

theorem steady_settleCtx (s : State) (x : Nat) : steady (settleCtx s x) = steady s := by
  unfold settleCtx
  extract_lets c b u
  have hu : steady u = steady s := rfl
  clear_value u
  exact steady_ite rfl ((steady_finishCtxCmd _ _ _ _).trans hu)

theorem steady_closeCtx (s : State) (x : Nat) : steady (closeCtx s x) = steady s := by
  unfold closeCtx
  extract_lets c u
  have hu : steady u = steady s := steady_ctxSend _ _ _ _
  clear_value u
  refine steady_ite (steady_finishCtxCmd _ _ _ _) (steady_ite rfl (steady_ite hu ?_))
  exact (steady_settleCtx _ _).trans ((steady_finishCtxCmd _ _ _ _).trans hu)

theorem steady_closeJobCtxs (s : State) (a : Nat) : steady (closeJobCtxs s a) = steady s :=
  foldl_keeps steady steady_closeCtx _ s

theorem steady_jobFreed (s : State) (j : Tab Job) (m : Mem) (p : Pair) : steady { s with job := j, mem := m, pair := p } = steady s := rfl

theorem steady_freeJob (s : State) (a : Nat) : steady (freeJob s a) = steady s := by
  unfold freeJob
  extract_lets j u v w
  have hv : steady v = steady s := (steady_closeJobCtxs _ _).trans (steady_finishJobCmds _ _ _ _ _)
  clear_value v
  have hw : steady w = steady s := (steady_modFields _ (by exact fun _ _ => rfl)).trans hv
  clear_value w
  exact (steady_jobFreed w _ _ _).trans hw

/-! ## What ends a domain's handling -/

/-- `t` is `s` with the handling of domains ended and jobs' fields freed: the log keeps its counts, and loses no record unless a free waits. -/
structure Settles (s t : State) : Prop where
  ce : t.log.ce = s.log.ce
  seq : t.log.seq = s.log.seq
  kept : s.log.pend = [] → t.log = s.log
  safe : t.trs.safe = s.trs.safe
  gen : s.yld.gen ≤ t.yld.gen
  fenced : ∀ f, (fieldOf t f).cond.fenced = (fieldOf s f).cond.fenced

theorem Settles.trans (h : Settles s t) (h' : Settles t u) : Settles s u where
  ce := h'.ce.trans h.ce
  seq := h'.seq.trans h.seq
  kept hp := (h'.kept (by rw [h.kept hp]; exact hp)).trans (h.kept hp)
  safe := h'.safe.trans h.safe
  gen := h.gen.trans h'.gen
  fenced f := (h'.fenced f).trans (h.fenced f)

theorem settles_of_steady (h : steady t = steady s) : Settles s t where
  ce := congrArg (·.1.ce) h
  seq := congrArg (·.1.seq) h
  kept _ := congrArg (·.1) h
  safe := congrArg (·.2.1) h
  gen := (congrArg (·.2.2.1) h).ge
  fenced f := congrFun (congrArg (·.2.2.2) h) f

theorem settles_refl (s : State) : Settles s s := settles_of_steady rfl

theorem settles_ite {c : Prop} [Decidable c] {a b : State} (ha : Settles s a) (hb : Settles s b) : Settles s (if c then a else b) := by
  split
  · exact ha
  · exact hb

theorem settles_foldl {β : Type} {f : State → β → State} (hf : ∀ t b, Settles t (f t b)) (l : List β) (s : State) : Settles s (l.foldl f s) := by
  induction l generalizing s with
  | nil => exact settles_refl s
  | cons b l ih => exact (hf s b).trans (ih _)

theorem settles_handlingDone (s : State) (d : Domain) : Settles s (handlingDone s d) := by
  unfold handlingDone
  extract_lets x u
  have hu : steady u = steady s := steady_ite rfl rfl
  have hlog : u.log = s.log := congrArg (·.1) hu
  split
  · next hpend =>
    refine (settles_of_steady hu).trans ?_
    unfold freeSeq
    split
    · exact settles_refl u
    · refine ⟨rfl, rfl, fun hp => ?_, rfl, le_rfl, fun _ => rfl⟩
      rw [hp] at hpend
      simp at hpend
  · exact settles_of_steady hu

theorem settles_leaveField (s : State) (f a : Nat) : Settles s (leaveField s f a) := by
  unfold leaveField
  extract_lets work u v m w y x
  have hv : steady v = steady s := (steady_ite (steady_modCores u f fun _ c => idleCore c) rfl).trans (steady_dropSeams s f a)
  clear_value v
  have hw : steady w = steady s := steady_ite hv hv
  clear_value w
  have hx : Settles s x := by
    refine (settles_of_steady hw).trans (settles_ite ?_ (settles_refl w))
    exact ⟨rfl, rfl, fun _ => rfl, rfl, Nat.le_succ _, fun _ => rfl⟩
  clear_value x
  exact hx.trans (settles_of_steady (steady_modField _ _ (by exact fun _ => rfl)))

theorem settles_settleJob (s : State) (a : Nat) : Settles s (settleJob s a) := by
  unfold settleJob
  extract_lets j u fs v w
  have hv : Settles s v := by
    refine (settles_handlingDone s _).trans (settles_foldl (fun t f => ?_) _ _)
    exact settles_ite (settles_handlingDone _ _) (settles_refl t)
  clear_value v
  have hw : Settles s w := by
    refine hv.trans (settles_foldl (fun t f => ?_) _ _)
    exact ((settles_leaveField _ _ _).trans (settles_handlingDone _ _)).trans (settles_handlingDone _ _)
  clear_value w
  refine settles_ite (settles_handlingDone s _) (settles_ite (settles_refl s) (settles_ite ?_ hv))
  exact settles_ite (hw.trans (settles_of_steady (steady_freeJob _ _))) hw

theorem settles_settle (s : State) : Settles s (settle s) :=
  (settles_foldl settles_settleJob asids s).trans (settles_foldl (fun t _ => settles_ite (settles_handlingDone _ _) (settles_refl t)) _ _)

theorem settles_dropPart (s : State) (p : Part) : Settles s (dropPart s p) := by
  unfold dropPart
  extract_lets v
  have hv : steady v = steady s := by
    unfold v
    split
    · exact steady_ite ((steady_pump _).trans (steady_abortOut _ _)) rfl
    · rfl
  exact settles_of_steady hv

theorem settles_rindLost (s : State) (d : Nat) : Settles s (rindLost s d) := by
  unfold rindLost
  refine Settles.trans ?_ (settles_handlingDone _ _)
  split
  · exact settles_dropPart _ _
  · exact settles_refl s

/-! ## What logging an event moves forward -/

/-- SEQ and GEN do not fall from `s` to `t`, the safe state is not left, and no fence opens. -/
structure Grows (s t : State) : Prop where
  seq : s.log.seq ≤ t.log.seq
  gen : s.yld.gen ≤ t.yld.gen
  safe : s.trs.safe = true → t.trs.safe = true
  fenced : ∀ f, (fieldOf s f).cond.fenced = true → (fieldOf t f).cond.fenced = true

theorem Grows.trans (h : Grows s t) (h' : Grows t u) : Grows s u where
  seq := h.seq.trans h'.seq
  gen := h.gen.trans h'.gen
  safe hs := h'.safe (h.safe hs)
  fenced f hf := h'.fenced f (h.fenced f hf)

theorem Settles.grows (h : Settles s t) : Grows s t where
  seq := h.seq.ge
  gen := h.gen
  safe hs := h.safe.trans hs
  fenced f hf := (h.fenced f).trans hf

theorem grows_of_steady (h : steady t = steady s) : Grows s t := (settles_of_steady h).grows

theorem grows_refl (s : State) : Grows s s := (settles_refl s).grows

theorem grows_ite {c : Prop} [Decidable c] {a b : State} (ha : Grows s a) (hb : Grows s b) : Grows s (if c then a else b) := by
  split
  · exact ha
  · exact hb

theorem grows_foldl {β : Type} {f : State → β → State} (hf : ∀ t b, Grows t (f t b)) (l : List β) (s : State) : Grows s (l.foldl f s) := by
  induction l generalizing s with
  | nil => exact grows_refl s
  | cons b l ih => exact (hf s b).trans (ih _)

theorem grows_log (s : State) {l : Log} (h : s.log.seq ≤ l.seq) : Grows s { s with log := l } := ⟨h, le_rfl, id, fun _ => id⟩

theorem grows_bumpGen (s : State) : Grows s (bumpGen s) := ⟨le_rfl, Nat.le_succ _, id, fun _ => id⟩

/-- The state as the safe state begins (R549). -/
theorem grows_enterSafe (s : State) (seq : Nat) : Grows s (enterSafe s seq) ∧ (enterSafe s seq).trs.safe = true := by
  unfold enterSafe
  split
  · next hsafe => exact ⟨grows_refl s, hsafe⟩
  · extract_lets told i r u v w k x y z n
    have hu : Grows s u ∧ u.trs.safe = true := by
      have hsteady := steady_refreshLow { s with inp := { i with fSafe := true }, trs := { r with safe := true } }
      have hbegin : Grows s { s with inp := { i with fSafe := true }, trs := { r with safe := true } } := ⟨le_rfl, le_rfl, fun _ => rfl, fun _ => id⟩
      exact ⟨hbegin.trans (grows_of_steady hsteady), congrArg (·.2.1) hsteady⟩
    clear_value u
    have hw : steady w = steady u := (steady_abortOut v none).trans (steady_sendFail u)
    clear_value w
    have hx : steady x = steady u := hw
    clear_value x
    have hy : steady y = steady u :=
      (foldl_keeps steady (fun t a => steady_ite rfl (steady_stopJob t a seq told)) (liveJobs x) x).trans hx
    clear_value y
    have hz : Settles y z := by
      refine settles_foldl (fun t a => settles_foldl (fun v f => ?_) _ _) _ _
      exact (settles_of_steady (steady_stopFieldJob v f a)).trans (settles_leaveField _ f a)
    clear_value z
    have hn : steady n = steady z := by
      refine steady_modFields z fun k x => ?_
      split <;> rfl
    clear_value n
    have hun : Settles u n := ((settles_of_steady hy).trans hz).trans (settles_of_steady hn)
    exact ⟨hu.1.trans (hun.grows.trans (grows_of_steady rfl)), hun.safe.trans hu.2⟩

/-! ## What the loss of a unit moves forward -/

theorem steady_losePair (s : State) (cause : Nat) : steady (losePair s cause) = steady s := by
  unfold losePair
  extract_lets p u v k w e x
  have hu : steady u = steady s := rfl
  clear_value u
  have hv : steady v = steady s := steady_ite ((steady_abortOut _ _).trans hu) hu
  clear_value v
  have hw : steady w = steady s := hv
  clear_value w
  have he : steady e = steady s := hw
  clear_value e
  have hx : steady x = steady s := (steady_postAsync _ _).trans he
  clear_value x
  refine steady_ite rfl ((foldl_keeps steady (fun t a => ?_) _ _).trans hx)
  exact steady_ite rfl (steady_postJob _ _ _ _)

theorem steady_modPort (s : State) (p : Nat) (g : Port → Port) : steady (modPort s p g) = steady s := rfl

theorem steady_portQuit (s : State) (p : Nat) : steady (portQuit s p) = steady s := by
  unfold portQuit
  extract_lets x mirror ms u dests v w
  have hu : steady u = steady s := steady_modPort _ _ _
  clear_value u
  have hv : steady v = steady s := by
    refine (foldl_keeps steady (fun t m => ?_) _ _).trans hu
    dsimp only
    split
    · exact steady_modPort _ _ _
    · exact steady_ite rfl (steady_failCtx _ _ _)
  clear_value v
  have hw : steady w = steady s := hv
  clear_value w
  exact steady_ite rfl (steady_ite hv (steady_ite ((steady_losePair _ _).trans hw) hw))

theorem grows_rindLeaves (s : State) (d : Nat) : Grows s (rindLeaves s d) := by
  unfold rindLeaves
  extract_lets r u v w
  have hu : steady u = steady s := rfl
  clear_value u
  have hv : steady v = steady s := steady_ite ((foldl_keeps steady (fun t q => steady_portQuit t _) _ _).trans hu) hu
  clear_value v
  have hw : steady w = steady s := steady_ite hv hv
  clear_value w
  exact (grows_of_steady hw).trans (grows_bumpGen w)

theorem steady_oweHalt (a seq : Nat) (s : State) : steady (oweHalt a seq s) = steady s := steady_ite rfl rfl

/-! ## Logging an event -/

theorem grows_consequence (s : State) (d : Domain) (asid cls seq : Nat) :
    Grows s (consequence s d asid cls seq) ∧ (cls = 3 → (consequence s d asid cls seq).trs.safe = true) := by
  unfold consequence
  split
  · exact ⟨(grows_enterSafe s seq).1, fun _ => (grows_enterSafe s seq).2⟩
  · next hcls =>
    refine ⟨grows_ite ?_ (grows_refl s), fun h => absurd h hcls⟩
    extract_lets js v
    have hv : Grows s v := by
      unfold v
      split
      · refine Grows.trans ?_ (settles_rindLost _ _).grows
        exact grows_ite (grows_refl s) (grows_rindLeaves s _)
      · exact grows_refl s
    clear_value v
    exact hv.trans (grows_of_steady (foldl_keeps steady (fun t a => steady_oweHalt a seq t) _ _))

theorem grows_modRec (s : State) (q : Nat) (g : Rec → Rec) : Grows s (modRec s q g) := by
  unfold modRec
  split
  · exact grows_log s le_rfl
  · split
    · exact grows_ite (grows_log s le_rfl) (grows_refl s)
    · exact grows_refl s

theorem grows_putRec (s : State) (i : Nat) {r : Rec} (h : s.log.seq ≤ r.seq) : Grows s (putRec s i r) := ⟨h, le_rfl, id, fun _ => id⟩

theorem grows_domPut (s : State) (d : Domain) (x : DomSt) : Grows s (domPut s d x) := grows_of_steady (steady_ite rfl rfl)

/-- An uncorrectable event of a domain that is idle, while a record is free (R373, R375, R377). -/
theorem logUncorrected_of_idle {m : ErrMsg} {d : Domain} {link i : Nat} (hidle : (domGet s d).st = 0) (hfree : freeRec s = some i) :
    ∃ r x : _, r.code = m.code ∧ r.dom = d ∧ r.cls = min 3 (codeClass m.code.toNat) ∧ r.seq = s.log.seq + 1 ∧
      r.src = m.src ∧ r.asid = m.asid ∧ r.detail = m.detail ∧ r.addr = m.addr ∧ r.count = m.count ∧ r.slot = m.slot ∧
      logUncorrected s m d link = consequence (domPut (putRec s i r) d x) d m.asid (min 3 (codeClass m.code.toNat)) (s.log.seq + 1) := by
  unfold logUncorrected
  extract_lets x cls esc eff st prim lk r
  have hx : x.st = 0 := hidle
  have heff : eff = min 3 (codeClass m.code.toNat) := by simp only [eff, hx, if_true, cls]
  rw [if_neg (by simp [hx]), hfree]
  dsimp only
  rw [heff]
  exact ⟨r, _, rfl, rfl, heff, rfl, rfl, rfl, rfl, rfl, rfl, rfl, rfl⟩

theorem grows_logUncorrected (s : State) (m : ErrMsg) (d : Domain) (link : Nat) : Grows s (logUncorrected s m d link) := by
  unfold logUncorrected
  extract_lets x cls esc eff st prim lk r l v w
  have hv : Grows s v := grows_log s (Nat.le_succ _)
  have hw : Grows s w := hv.trans (grows_domPut _ _ _)
  refine grows_ite (grows_modRec _ _ _) ?_
  split
  · exact ((grows_putRec s _ (Nat.le_succ _)).trans (grows_domPut _ _ _)).trans (grows_consequence _ _ _ _ _).1
  · split
    · exact (hw.trans (grows_consequence _ _ _ _ _).1).trans (grows_enterSafe _ _).1
    · exact grows_log s le_rfl

theorem grows_logCorrected (s : State) (m : ErrMsg) (d : Domain) (link : Nat) : Grows s (logCorrected s m d link) := by
  unfold logCorrected
  extract_lets u st
  have hu : Grows s u := grows_log s le_rfl
  clear_value u
  refine hu.trans ?_
  split
  · split
    · exact grows_putRec _ _ (Nat.le_succ _)
    · exact grows_refl _
  · split
    · exact grows_modRec _ _ _
    · split
      · exact grows_putRec _ _ (Nat.le_succ _)
      · exact grows_refl _

theorem grows_logIn (s : State) (m : ErrMsg) (d : Domain) (link : Nat) : Grows s (logIn s m d link) :=
  grows_ite (grows_logCorrected _ _ _ _) (grows_logUncorrected _ _ _ _)

theorem grows_pithEvent (s : State) (code asid detail : Nat) (d : Domain) (link : Nat) : Grows s (pithEvent s code asid detail d link) :=
  grows_logIn _ _ _ _

theorem steady_modJob (s : State) (a : Nat) (g : Job → Job) : steady (modJob s a g) = steady s := rfl

theorem grows_logEvent (s : State) (m : ErrMsg) (d : Domain) (link : Nat) : Grows (logIn s m d link) (logEvent s m d link) := by
  unfold logEvent
  refine grows_ite (grows_refl _) (grows_foldl (fun t a => ?_) _ _)
  exact Grows.trans (grows_of_steady (steady_modJob t a _)) (grows_pithEvent _ _ _ _ _ _)

end Sys2Proof.Proofs.Logging
end

section
/-! SUPPORT. Events, fences and decisions sent again (13): O37. -/

namespace Sys2Proof.Proofs.Events

open Sys2Proof.Laws Sys2Proof.Machine Sys2Proof Sys2Proof.Proofs.Commits Sys2Proof.Proofs.Links Sys2Proof.Proofs.Logging

variable {s t : State} {m : ErrMsg}

/-! ## Reserved headers -/

theorem bitsOf_toNat {n : Nat} (w : BitVec n) (lo len : Nat) : bitsOf w.toNat lo len = (w.extractLsb' lo len).toNat := by
  rw [BitVec.extractLsb'_toNat, bitsOf, Nat.shiftRight_eq_div_pow]

theorem classOf_isNone : ∀ ty : BitVec 6, (classOf ty.toNat).isNone = true ↔
    ty ∉ [(0x01 : BitVec 6), 0x02, 0x10, 0x11, 0x12, 0x13, 0x20, 0x28, 0x30, 0x31, 0x38] := by decide

theorem powerOps_contains : ∀ op : BitVec 6, powerOps.contains op.toNat = true ↔ op ∈ [(0x01 : BitVec 6), 0x02, 0x03, 0x04, 0x05, 0x3F] := by decide

theorem eight_le_toNat : ∀ x : BitVec 4, 8 ≤ x.toNat ↔ x.getLsbD 3 = true := by decide

theorem headerReserved_iff (h : BitVec 64) :
    headerReserved h = true ↔
      let type := h.extractLsb' 56 6
      type ∉ [0x01, 0x02, 0x10, 0x11, 0x12, 0x13, 0x20, 0x28, 0x30, 0x31, 0x38] ∨ (type = 0x38 ∧ h.getLsbD 3 = true) ∨
        (type = 0x28 ∧ h.extractLsb' 16 6 ∉ [0x01, 0x02, 0x03, 0x04, 0x05, 0x3F]) := by
  have hcause : h.getLsbD 3 = (h.extractLsb' 0 4).getLsbD 3 := by simp
  have hne : ∀ n : BitVec 6, ((h.extractLsb' 56 6).toNat == n.toNat) = true ↔ h.extractLsb' 56 6 = n := fun n => by
    rw [beq_iff_eq, BitVec.toNat_inj]
  have h38 := hne 0x38
  have h28 := hne 0x28
  simp only [headerReserved, bitsOf_toNat, Bool.or_eq_true, Bool.and_eq_true, decide_eq_true_iff, classOf_isNone, eight_le_toNat, hcause,
    Bool.not_eq_true', ← Bool.not_eq_true, powerOps_contains]
  rw [show (0x38 : BitVec 6).toNat = 0x38 from rfl] at h38
  rw [show (0x28 : BitVec 6).toNat = 0x28 from rfl] at h28
  rw [h38, h28, or_assoc]

/-! ## The pith receives an event -/

/-- The event is taken from its buffer. -/
def taken (s : State) (m : ErrMsg) : State := { s with stem := { s.stem with events := eraseFirst (sameReport m) s.stem.events } }

theorem settles_errorEvent (hup : pithUp s = true) (hpresent : m.notPresent = false) (hcode : m.code ≠ 0x0006) :
    Settles (logEvent (taken s m) m (domainOf m) 0) (errorEvent s m) := by
  unfold errorEvent
  extract_lets st u v w x y
  have hv : v = logEvent (taken s m) m (domainOf m) 0 := rfl
  rw [if_neg (by simp [hup]), if_neg (by simp [hpresent]), ← hv]
  clear_value v
  have hw : Settles v w := by
    unfold w
    split
    · rw [if_neg hcode]
      exact settles_ite (settles_of_steady (steady_modField _ _ fun _ => rfl)) (settles_refl v)
    · exact settles_refl v
  clear_value w
  have hx : Settles w x := by
    unfold x
    split
    · exact settles_ite (settles_rindLost _ _) (settles_refl w)
    · exact settles_refl w
  clear_value x
  have hy : Settles x y := by
    unfold y
    split
    · exact settles_ite (settles_handlingDone _ _) (settles_refl x)
    · exact settles_refl x
  clear_value y
  exact ((hw.trans hx).trans hy).trans (settles_settle y)

/-! ## Corrected events -/

theorem exists_mem_of_tabGet {α : Type} {d : α} {l : Tab α} {k : Nat} (h : tabGet d l k ≠ d) : (k, tabGet d l k) ∈ l := by
  induction l with
  | nil => exact absurd rfl h
  | cons e l ih =>
    obtain ⟨k', v⟩ := e
    unfold tabGet at h ⊢
    split_ifs at h ⊢ with hk
    · rw [hk]
      exact List.mem_cons_self
    · exact List.mem_cons_of_mem _ (ih h)

theorem exists_recAt_none (h : lowUsed s < 192) : ∃ i ∈ List.range 224, recAt s i = none := by
  by_contra hall
  have hsub : List.range 224 ⊆ (s.log.recs.filter fun e => decide (e.1 < 224) && e.2.isSome).map (·.1) := by
    intro i hi
    have hsome : recAt s i ≠ none := fun hn => hall ⟨i, hi, hn⟩
    have hmem : (i, recAt s i) ∈ s.log.recs := exists_mem_of_tabGet hsome
    refine List.mem_map.2 ⟨_, List.mem_filter.2 ⟨hmem, ?_⟩, rfl⟩
    simp [List.mem_range.1 hi, Option.isSome_iff_ne_none, hsome]
  have hle := (List.nodup_range.subperm hsub).length_le
  rw [List.length_range, List.length_map] at hle
  unfold lowUsed at h
  omega

theorem logCorrected_new {d : Domain} {link : Nat} (hcode : m.code ≠ 0x000B)
    (hnew : ∀ e ∈ s.log.recs, ∀ r, e.2 = some r → ¬ (r.code = m.code ∧ r.dom = d)) (hroom : lowUsed s < 192) :
    ∃ i r, logCorrected s m d link = putRec (countCe s m) i r ∧ r.seq = s.log.seq + 1 := by
  unfold logCorrected
  extract_lets u st
  have hroom' : lowUsed u < 192 := hroom
  have hslot : ((List.range 224).find? fun i => (recAt u i).isNone).isSome = true := by
    obtain ⟨i, hi, hfree⟩ := exists_recAt_none hroom'
    exact List.find?_isSome.2 ⟨i, hi, by simp [hfree]⟩
  obtain ⟨i, hi⟩ := Option.isSome_iff_exists.1 hslot
  rw [if_neg hcode]
  split
  · next r hfound =>
    have hmatch := List.find?_some hfound
    exact absurd (by simpa using hmatch) (hnew _ (List.mem_of_find?_eq_some hfound) r rfl)
  · rw [if_pos hroom', hi]
    exact ⟨i, _, rfl, rfl⟩

theorem corrected_acts (hup : pithUp s = true) (hpresent : m.notPresent = false) (hclass : codeClass m.code.toNat = 0) (h6 : m.code.toNat ≠ 0x0006)
    (hB : m.code.toNat ≠ 0x000B) (hnew : ∀ e ∈ s.log.recs, ∀ r, e.2 = some r → ¬ (r.code = m.code ∧ r.dom = domainOf m)) (hroom : lowUsed s < 192) :
    let t := errorEvent s m
    tabGet 0 t.log.ce (m.code.toNat % 256) = tabGet 0 s.log.ce (m.code.toNat % 256) + BitVec.ofNat 64 m.count ∧ t.log.seq = s.log.seq + 1 ∧
      t.trs.safe = s.trs.safe := by
  intro t
  have hlog : logEvent (taken s m) m (domainOf m) 0 = logCorrected (taken s m) m (domainOf m) 0 := (if_pos hclass).trans (if_pos hclass)
  have hsettles := settles_errorEvent hup hpresent (m := m) fun h => h6 (by rw [h]; rfl)
  obtain ⟨i, r, hput, hseq⟩ := logCorrected_new (s := taken s m) (link := 0) (fun h => hB (by rw [h]; rfl)) hnew hroom
  rw [hlog, hput] at hsettles
  have hce : tabGet 0 (countCe (taken s m) m).log.ce (m.code.toNat % 256) = tabGet 0 s.log.ce (m.code.toNat % 256) + BitVec.ofNat 64 m.count :=
    (tabGet_mod (0 : BitVec 64) (m.code.toNat % 256) (m.code.toNat % 256) (· + BitVec.ofNat 64 m.count) s.log.ce).trans (if_pos rfl)
  exact ⟨(congrArg (tabGet 0 · _) hsettles.ce).trans hce, hsettles.seq.trans hseq, hsettles.safe⟩

/-! ## Uncorrectable events -/

theorem logEvent_of_idle {d : Domain} {link i : Nat} (hclass : codeClass m.code.toNat ≠ 0) (hidle : (domGet s d).st = 0) (hi : freeRec s = some i) :
    Grows s (logEvent s m d link) ∧ s.log.seq < (logEvent s m d link).log.seq := by
  obtain ⟨r, x, -, -, -, hseq, -, -, -, -, -, -, hlog⟩ := logUncorrected_of_idle (m := m) (link := link) hidle hi
  have hin : logIn s m d link = _ := (if_neg hclass).trans hlog
  have hevent := grows_logEvent s m d link
  have hput := (grows_domPut (putRec s i r) d x).seq
  have hcons := (grows_consequence (domPut (putRec s i r) d x) d m.asid (min 3 (codeClass m.code.toNat)) (s.log.seq + 1)).1
  rw [← hin] at hcons
  have hr : (putRec s i r).log.seq = s.log.seq + 1 := hseq
  refine ⟨(grows_logIn s m d link).trans hevent, ?_⟩
  exact Nat.lt_of_lt_of_le (Nat.lt_of_lt_of_le (hr ▸ Nat.lt_succ_self _) hput) (hcons.seq.trans hevent.seq)

theorem uncorrectable_acts (hup : pithUp s = true) (hpresent : m.notPresent = false) (hclass : codeClass m.code.toNat ≠ 0)
    (hidle : (domGet s (domainOf m)).st = 0) (hfree : freeRec s ≠ none) (hpend : s.log.pend = []) :
    let t := errorEvent s m
    s.log.seq < t.log.seq ∧
      (codeClass m.code.toNat = 1 → (∀ a ∈ liveJobs s, (jobOf s a).st ≠ .saving) → Logged s t m (domainOf m) 1 ∧ t.trs.safe = s.trs.safe) ∧
      (codeClass m.code.toNat = 3 → t.trs.safe = true) := by
  intro t
  obtain ⟨i, hi⟩ := Option.ne_none_iff_exists'.1 hfree
  obtain ⟨r, x, hcode, hdom, hcls, hseq, hsrc, hasid, hdetail, haddr, hcount, hslot, hlog⟩ :=
    logUncorrected_of_idle (s := taken s m) (m := m) (link := 0) hidle hi
  have hin : logIn (taken s m) m (domainOf m) 0 = _ := (if_neg hclass).trans hlog
  have hsettles := settles_errorEvent hup hpresent (m := m) fun h => hclass (by rw [h]; rfl)
  have hgrows : Grows _ t := (grows_logEvent (taken s m) m (domainOf m) 0).trans hsettles.grows
  rw [hin] at hgrows
  obtain ⟨-, hsafe⟩ := grows_consequence (domPut (putRec (taken s m) i r) (domainOf m) x) (domainOf m) m.asid
    (min 3 (codeClass m.code.toNat)) ((taken s m).log.seq + 1)
  refine ⟨?_, fun hone hsaving => ?_, fun hthree => hgrows.safe (hsafe (by omega))⟩
  · exact Nat.lt_of_lt_of_le (logEvent_of_idle (s := taken s m) hclass hidle hi).2 hsettles.grows.seq
  · have hsaved : savingJobs (taken s m) (domainOf m) = [] := by
      refine List.filter_eq_nil_iff.2 fun a ha => ?_
      simp [show (jobOf (taken s m) a).st ≠ .saving from hsaving a ha]
    have hevent : logEvent (taken s m) m (domainOf m) 0 = domPut (putRec (taken s m) i r) (domainOf m) x := by
      unfold logEvent
      dsimp only
      rw [if_neg hclass, hsaved, List.foldl_nil, hin, hone]
      rfl
    rw [hevent] at hsettles
    have hput : steady (domPut (putRec (taken s m) i r) (domainOf m) x) = steady (putRec (taken s m) i r) := steady_ite rfl rfl
    have hlogs : t.log = (putRec (taken s m) i r).log := (hsettles.kept ((congrArg (·.1.pend) hput).trans hpend)).trans (congrArg (·.1) hput)
    refine ⟨⟨i, r, ?_, ?_, ?_, hcode, hdom, hcls.trans (by rw [hone]; rfl), hseq, hsrc, hasid, hdetail, haddr, hcount, hslot⟩,
      hsettles.safe.trans (congrArg (·.2.1) hput)⟩
    · exact List.mem_range.1 (List.mem_of_find?_eq_some hi)
    · simpa using List.find?_some hi
    · rw [recAt, hlogs]
      exact (tabGet_put (none : Option Rec) i i (some r) s.log.recs).trans (if_pos rfl)

/-! ## Fences, and decisions sent again -/

theorem logFence_acts {f cause : Nat} (hfenced : (fieldOf s f).cond.fenced = true) (hidle : (domGet s (.field f)).st = 0) (hfree : freeRec s ≠ none) :
    s.log.seq < (logFence s f cause).log.seq ∧ s.yld.gen < (logFence s f cause).yld.gen ∧ (fieldOf (logFence s f cause) f).cond.fenced = true := by
  obtain ⟨i, hi⟩ := Option.ne_none_iff_exists'.1 hfree
  unfold logFence
  extract_lets u js v seq w x
  have hu : Grows s u := grows_bumpGen s
  have huseq : u.log.seq = s.log.seq := rfl
  have hugen : u.yld.gen = s.yld.gen + 1 := rfl
  have huidle : (domGet u (.field f)).st = 0 := hidle
  have hufree : freeRec u = some i := hi
  clear_value u
  obtain ⟨hv, hseq⟩ : Grows u v ∧ u.log.seq < v.log.seq :=
    logEvent_of_idle (by decide : codeClass (BitVec.ofNat 16 0x0107).toNat ≠ 0) huidle hufree
  have hw : Grows v w := grows_foldl (fun t a => (grows_logIn _ _ _ _).trans (grows_logEvent _ _ _ _)) _ _
  clear_value w v
  have hx : Grows w x := by
    unfold x
    split
    · exact (settles_dropPart _ _).grows
    · exact grows_refl w
  clear_value x
  have hend : Grows v (settle x) := (hw.trans hx).trans (settles_settle x).grows
  have hseq' := hend.seq
  have hgen := hv.gen.trans hend.gen
  exact ⟨by omega, by omega, hend.fenced f (hv.fenced f (hu.fenced f hfenced))⟩

theorem fenceNotice_acts {f : FieldIx} {cause : Fin 256} (hup : pithUp s = true) (hfenced : (fieldOf s f).cond.fenced = true) (h1 : 1 ≤ cause.val)
    (h7 : cause.val ≤ 7) (hidle : (domGet s (.field f)).st = 0) (hfree : freeRec s ≠ none) :
    let t := fenceNotice s f cause
    s.log.seq < t.log.seq ∧ s.yld.gen < t.yld.gen ∧ (fieldOf t f).cond.fenced = true := by
  have ht : fenceNotice s f cause = logFence (receive s (.fence f cause)) f cause := by
    unfold fenceNotice
    dsimp only
    rw [if_neg (by simp [hup, hfenced]), if_pos ⟨h1, h7⟩]
  rw [ht]
  exact logFence_acts (s := receive s (.fence f cause)) hfenced hidle hfree

theorem gateStatus_acts {f : FieldIx} {a slot : Nat} (hup : pithUp s = true) (hresent : s.com.resent = []) :
    let cs := (s.com.committed.filter fun x => x.parts.contains (.field f)).map fun x => packet s (.commit (.field f) x.csn x.epoch)
    let as := (s.com.aborted.filter fun x => x.parts.contains (.field f) && (fieldOf s f).clk.staged.any fun y => y.csn == x.csn && !y.decided).map
      fun x => packet s (.abort (.field f) x.csn x.epoch)
    cs ++ as ≠ [] → let t := gateStatus s f 3 a slot
      t.com = { s.com with resent := [(.field f, nominalEpoch s)] } ∧ t.stem.msgs = (receive s (.gate f 3 a slot)).stem.msgs ++ cs ++ as := by
  intro cs as hne t
  have hds : (decisionsFor s (.field f)).map (packet s) = cs ++ as := by
    simp only [decisionsFor, List.map_append, List.map_map]
    rfl
  have hne' : decisionsFor s (.field f) ≠ [] := fun h => hne (by rw [← hds, h]; rfl)
  have hfold : (decisionsFor s (.field f)).foldl send (receive s (.gate f 3 a slot)) =
      sent (receive s (.gate f 3 a slot)) ((decisionsFor s (.field f)).map (packet s)) := foldl_send id _ _
  have ht : t = { sent (receive s (.gate f 3 a slot)) (cs ++ as) with com := { s.com with resent := [(.field f, nominalEpoch s)] } } := by
    unfold t gateStatus
    extract_lets r ds v
    have hr : decisionsFor (receive s (.gate f 3 a slot)) (.field f) = decisionsFor s (.field f) := rfl
    have hv : v = sent (receive s (.gate f 3 a slot)) (cs ++ as) := by rw [← hds, ← hfold]; rfl
    clear_value v
    subst hv
    have hds' : ds = decisionsFor s (.field f) := rfl
    have hcom : (sent (receive s (.gate f 3 a slot)) (cs ++ as)).com.resent = [] := hresent
    rw [if_neg (by simp [hup]), if_neg (by decide), if_neg (by decide), if_pos (by decide), hcom]
    rw [if_neg (by rw [hds']; simpa using hne')]
    rfl
  rw [ht]
  exact ⟨rfl, (List.append_assoc _ _ _).symm⟩

/-- Settles O37. -/
theorem eventsAreLoggedAndContained : Obligations.EventsAreLoggedAndContained := by
  intro s m c d
  refine ⟨fun src header => ?stemType, fun hup hnot => ?notPresent, fun hup hpresent hclass h6 hB hnew hroom =>
    ⟨_, rfl, corrected_acts hup hpresent hclass h6 hB hnew hroom⟩, fun hup hpresent hclass hidle hfree hpend =>
    ⟨_, rfl, uncorrectable_acts hup hpresent hclass hidle hfree hpend⟩, fun f cause hup hfenced h1 h7 hidle hfree =>
    ⟨_, rfl, fenceNotice_acts hup hfenced h1 h7 hidle hfree⟩, fun f a slot hup hresent hne => ⟨_, rfl, gateStatus_acts hup hresent hne⟩⟩
  case stemType =>
    intro type reserved
    have hiff : headerReserved header = true ↔ reserved := headerReserved_iff header
    refine ⟨stemType s src header, (Config.detailOf 0x0008 [header.toNat]).toNat, rfl, fun h => if_neg (mt hiff.1 h), fun h => ?_⟩
    have ht : stemType s src header = raise s (mkEvent src (match addrField src.toNat with | some f => slotOf s f | none => floorN s) 0x0008 0 0 7 0
      (Config.detailOf 0x0008 [header.toNat]).toNat) := if_pos (hiff.2 h)
    rw [ht]
    exact ⟨rfl, rfl⟩
  case notPresent =>
    refine congrArg Host.Outcome.next ?_
    unfold errorEvent
    dsimp only
    rw [if_neg (by simp [hup]), if_pos hnot]

end Sys2Proof.Proofs.Events
end

section
/-! SUPPORT. Remaps, ageing and the yield map's records (14): O39. -/

namespace Sys2Proof.Proofs.Spares

open Sys2Proof.Laws Sys2Proof.Machine Sys2Proof Sys2Proof.Proofs.Links Sys2Proof.Proofs.Regulation Sys2Proof.Proofs.PowerCommands Sys2Proof.Proofs.LoadRows Sys2Proof.Proofs.Supply

variable {s t : State} {f : Nat}

/-! ## Folds that keep or reach a property -/

theorem foldl_holds {β : Type} {P : State → Prop} {g : State → β → State} (hP : ∀ s b, P s → P (g s b)) (l : List β) {s : State} (h : P s) :
    P (l.foldl g s) := by
  induction l generalizing s with
  | nil => exact h
  | cons b l ih => exact ih (hP s b h)

/-- What each step keeps, and the step of `e` brings about where `I` holds, stands after a fold over a list with `e`. -/
theorem foldl_reaches {β : Type} {I P : State → Prop} {g : State → β → State} {e : β} {l : List β} (he : e ∈ l) (hI : ∀ s b, I s → I (g s b))
    (hP : ∀ s b, P s → P (g s b)) (hstep : ∀ s, I s → P (g s e)) {s : State} (h : I s) : P (l.foldl g s) := by
  induction l generalizing s with
  | nil => exact absurd he List.not_mem_nil
  | cons b l ih =>
    rcases List.mem_cons.1 he with rfl | he
    · exact foldl_holds hP l (hstep s h)
    · exact ih he (hI s b h)

/-! ## Entries that are due -/

/-- The state with the entries `l` due. -/
theorem foldl_dueEntry {β : Type} (g : β → YEnt) (l : List β) (s : State) :
    ∃ d, l.foldl (fun t i => dueEntry t (g i)) s = { s with yld := { s.yld with due := d } } ∧ (∀ e ∈ s.yld.due, e ∈ d) ∧ ∀ i ∈ l, g i ∈ d := by
  induction l generalizing s with
  | nil => exact ⟨_, rfl, fun _ h => h, fun _ h => absurd h List.not_mem_nil⟩
  | cons i l ih =>
    obtain ⟨d, hd, hkeep, hnew⟩ := ih (dueEntry s (g i))
    refine ⟨d, hd, fun e he => hkeep e (mem_addNew_of_mem he), fun j hj => ?_⟩
    rcases List.mem_cons.1 hj with rfl | hj
    · exact hkeep _ (StoresAndBruises.mem_addNew _ _)
    · exact hnew j hj

/-! ## Committed entries of a field applied -/

/-- The kinds of entries that a remap applies. -/
theorem remapEntry_iff (e : YEnt) :
    remapEntry f e = true ↔ e.unit = f ∧
      (e.kind = ykSite ∨ e.kind = ykColumn ∨ e.kind = ykBank ∨ e.kind = ykEngine ∨ e.kind = ykPhase ∨ e.kind = ykRetired ∨ e.kind = ykWire) := by
  simp [remapEntry, fieldEntry]
  tauto

/-- `t` is `s` with entries of field `f` applied: its sites, columns, banks, engines, phases and wires, or the field itself. -/
structure Applied (f : Nat) (s t : State) : Prop where
  rest : ∃ l y, t = { s with fld := l, yld := y }
  other : ∀ g, g ≠ f → fieldOf t g = fieldOf s g
  gen : t.yld.gen = s.yld.gen
  ext : t.yld.ext = s.yld.ext
  due : t.yld.due = s.yld.due
  sites : ∀ n, tabGet false s.yld.sites n = true → tabGet false t.yld.sites n = true

theorem applied_refl (f : Nat) (s : State) : Applied f s s := ⟨⟨_, _, rfl⟩, fun _ _ => rfl, rfl, rfl, rfl, fun _ h => h⟩

theorem Applied.trans {u : State} (h : Applied f s t) (h' : Applied f t u) : Applied f s u where
  rest := by
    obtain ⟨l, y, hl⟩ := h'.rest
    obtain ⟨l', y', hl'⟩ := h.rest
    rw [hl, hl']
    exact ⟨l, y, rfl⟩
  other g hg := (h'.other g hg).trans (h.other g hg)
  gen := h'.gen.trans h.gen
  ext := h'.ext.trans h.ext
  due := h'.due.trans h.due
  sites n hn := h'.sites n (h.sites n hn)

theorem applied_applyEntry {e : YEnt} (he : remapEntry f e = true) (s : State) : Applied f s (applyEntry s e) := by
  obtain ⟨hunit, hkind⟩ := (remapEntry_iff e).1 he
  unfold applyEntry
  dsimp only
  rcases hkind with h | h | h | h | h | h | h
  case inl =>
    rw [if_pos h]
    refine ⟨⟨_, _, rfl⟩, fun _ _ => rfl, rfl, rfl, rfl, fun n hn => ?_⟩
    exact (tabGet_put false _ n true s.yld.sites).trans (by rw [hn]; split_ifs <;> rfl)
  case inr.inr.inr.inr.inr.inl =>
    simp only [h, ykSite, ykColumn, ykBank, ykEngine, ykWire, ykLane, ykPhase, ykConverter, ykRetired, reduceIte, Nat.reduceEqDiff]
    refine ⟨⟨_, _, rfl⟩, fun g hg => ?_, rfl, rfl, rfl, fun n hn => hn⟩
    rw [fieldOf_modField, if_neg (by rw [hunit]; exact hg.symm)]
  all_goals
    simp only [h, ykSite, ykColumn, ykBank, ykEngine, ykWire, ykLane, ykPhase, ykConverter, ykRetired, reduceIte, Nat.reduceEqDiff]
    exact ⟨⟨_, _, rfl⟩, fun g hg => rfl, rfl, rfl, rfl, fun n hn => hn⟩

theorem applied_entries (f : Nat) (s : State) (l : List YEnt) :
    Applied f s ((l.filter (remapEntry f)).foldl applyEntry s) ∧
      ∀ e ∈ l, e.unit = f → e.kind = ykSite → tabGet false ((l.filter (remapEntry f)).foldl applyEntry s).yld.sites (42 * f + e.loc) = true := by
  have hstep : ∀ t e, e ∈ l.filter (remapEntry f) → Applied f t (applyEntry t e) := fun t e he =>
    applied_applyEntry (List.mem_filter.1 he).2 t
  have hfold : ∀ (l' : List YEnt) (t : State), (∀ e ∈ l', remapEntry f e = true) → Applied f t (l'.foldl applyEntry t) := by
    intro l'
    induction l' with
    | nil => exact fun t _ => applied_refl f t
    | cons e l' ih => exact fun t h => (applied_applyEntry (h e List.mem_cons_self) t).trans (ih _ fun e he => h e (List.mem_cons_of_mem _ he))
  refine ⟨hfold _ s fun e he => (List.mem_filter.1 he).2, fun e he hunit hkind => ?_⟩
  have hmem : e ∈ l.filter (remapEntry f) := List.mem_filter.2 ⟨he, (remapEntry_iff e).2 ⟨hunit, .inl hkind⟩⟩
  obtain ⟨l₁, l₂, hl⟩ := List.append_of_mem hmem
  rw [hl, List.foldl_append, List.foldl_cons]
  refine (hfold l₂ _ fun e' he' => ?_).sites _ ?_
  · exact (List.mem_filter.1 (hl ▸ List.mem_append_right _ (List.mem_cons_of_mem _ he') : e' ∈ l.filter (remapEntry f))).2
  · unfold applyEntry
    dsimp only
    rw [if_pos hkind, hunit]
    exact (tabGet_put false _ _ true _).trans (if_pos rfl)

/-! ## Remap -/

theorem domPut_frame (s : State) (d : Domain) (x : DomSt) : ∃ m, domPut s d x = { s with dom := m } := by
  unfold domPut
  split_ifs
  · exact ⟨_, rfl⟩
  · exact ⟨_, rfl⟩

theorem handlingDone_frame (s : State) (d : Domain) : ∃ m l, handlingDone s d = { s with dom := m, log := l } := by
  obtain ⟨m, hm⟩ := domPut_frame s d {}
  unfold handlingDone
  dsimp only
  rw [hm]
  split_ifs
  · obtain ⟨r, p, hl⟩ := Resets.freeSeq_frame { s with dom := m } (domGet s d).seq
    exact ⟨m, _, hl⟩
  · exact ⟨m, s.log, rfl⟩

theorem granulesDone_frame (s : State) (f lo hi : Nat) :
    ∃ m l, granulesDone s f lo hi = { s with dom := m, log := l } ∧ ((domGet s (.field f)).st = 0 → m = s.dom ∧ l = s.log) := by
  unfold granulesDone
  dsimp only
  by_cases hst : (domGet s (.field f)).st = 0
  · rw [if_pos (.inl hst)]
    exact ⟨s.dom, s.log, rfl, fun _ => ⟨rfl, rfl⟩⟩
  · obtain ⟨m, l, h⟩ := handlingDone_frame s (.field f)
    split_ifs
    · exact ⟨s.dom, s.log, rfl, fun _ => ⟨rfl, rfl⟩⟩
    · exact ⟨m, l, h, fun h0 => absurd h0 hst⟩
    · exact ⟨s.dom, s.log, rfl, fun _ => ⟨rfl, rfl⟩⟩

/-- What every core of the field keeps after a change of its cores. -/
theorem coreAt_modCores (s : State) (f : Nat) {g : Nat → Core → Core} {P : Core → Prop} (hg : ∀ k c, P (g k c)) :
    ∀ k ∈ fieldCores s f, P (coreAt (modCores s f g) k) := by
  unfold modCores fieldCores
  generalize (s.cor.map (·.1)).filter (fun k => k / 288 == f) = ks
  intro k hk
  refine foldl_reaches (P := fun t => P (coreAt t k)) (I := fun _ => True) hk (fun _ _ _ => trivial) (fun t b ht => ?_) (fun t _ => ?_) trivial
  · rw [coreAt_modCore]
    split_ifs
    · exact hg _ _
    · exact ht
  · rw [coreAt_modCore, if_pos rfl]
    exact hg _ _

theorem tabGet_cleared (t : Tab (BitVec 8)) (f : Nat) {b : Nat} (hb : b < 36) :
    tabGet 0 ((List.range 36).foldl (fun t b => tabPut 0 (36 * f + b) 0 t) t) (36 * f + b) = 0 := by
  refine (tabGet_puts (0 : BitVec 8) (key := fun b => 36 * f + b) (val := fun _ => 0) (V := fun _ => 0) (l := List.range 36) (fun _ _ => rfl) t _).trans ?_
  exact if_pos (List.mem_map.2 ⟨b, List.mem_range.2 hb, rfl⟩)

/-- The field as a remap maps it, before what the remap finds is due (R383). -/
def mapped (s : State) (f : FieldIx) : State :=
  let u := granulesDone (((yieldEntries s.yld).filter (remapEntry f)).foldl applyEntry s) f (f.val * 2 ^ 34) ((f.val + 1) * 2 ^ 34)
  let moved := placeMoved s.yld u.yld f
  let v := modCores (modFmem u f fun x => { x with ce := tabKeep (fun k => !moved k) x.ce }) f fun i c =>
    { c with condemned := false, transients := if c.condemned || moved (64 * (i % 288 / 8)) then [] else c.transients }
  { v with yld := { v.yld with pend := (List.range 36).foldl (fun t b => tabPut 0 (36 * f.val + b) 0 t) v.yld.pend } }

/-- The entries that a remap makes due. -/
def foundDue (s : State) (f : FieldIx) (failed : List YEnt) : State :=
  let narrow := (narrowSites s f).filter fun i => !tabGet false s.yld.sites (42 * f.val + i)
  let u := narrow.foldl (fun t i => dueEntry t { kind := ykSite, unit := f, loc := i, value := 5 })
    ((failed.filter fun e => remapEntry f e || e.kind == ykRow).foldl dueEntry s)
  match shortField u f with
  | some c => if (fieldOf u f).cond.retired then u else retireField u f c
  | none => u

/-- The field's state once the remap has ended. -/
def remapped (s : State) (f : FieldIx) : State :=
  let again := s.yld.due.any fun e => remapEntry f e && e.kind != ykPhase
  bumpGen (modCond s f fun x => { x with remapDue := again, testHold := x.testHold && (again || x.oscFail) })

theorem remap_eq (hup : pithUp s = true) {f : FieldIx} (failed : List YEnt) (hfree : fieldFree s f = true) :
    remap s f failed = remapped (foundDue (mapped s f) f failed) f := by
  unfold remap
  rw [if_neg (by simp [hup, hfree])]
  extract_lets old u1 u2 moved u3 u4 y u5 narrow u6 u7 u8 again
  have h5 : u5 = mapped s f := rfl
  have h8 : u8 = foundDue u5 f failed := by
    unfold u8 foundDue
    clear_value u5
    extract_lets v
    have hv : u7 = v := rfl
    clear_value u7 v
    subst hv
    cases shortField u7 f <;> rfl
  have hend : bumpGen (modCond u8 f fun x => { x with remapDue := again, testHold := x.testHold && (again || x.oscFail) }) = remapped u8 f := rfl
  rw [hend, h8, h5]

/-- `t` is `s` with field `f` mapped anew. -/
structure Mapped (f : FieldIx) (s t : State) : Prop where
  rest : ∃ l c y m g, t = { s with fld := l, cor := c, yld := y, dom := m, log := g }
  other : ∀ g, g ≠ f.val → fieldOf t g = fieldOf s g
  gen : t.yld.gen = s.yld.gen
  ext : t.yld.ext = s.yld.ext
  due : t.yld.due = s.yld.due
  sites : ∀ e ∈ yieldEntries s.yld, e.unit = f.val → e.kind = ykSite → tabGet false t.yld.sites (42 * f.val + e.loc) = true
  pend : ∀ b, b < 36 → tabGet 0 t.yld.pend (36 * f.val + b) = 0
  cores : ∀ k ∈ fieldCores s f, (coreAt t k).condemned = false
  handling : (domGet s (.field f)).st = 0 → t.dom = s.dom ∧ t.log = s.log

theorem mapped_acts (s : State) (f : FieldIx) : Mapped f s (mapped s f) := by
  unfold mapped
  obtain ⟨hu1, hsites⟩ := applied_entries f.val s (yieldEntries s.yld)
  generalize ((yieldEntries s.yld).filter (remapEntry f.val)).foldl applyEntry s = u1 at hu1 hsites ⊢
  obtain ⟨l1, y1, hu1'⟩ := hu1.rest
  obtain ⟨m, l, hu2, hsame⟩ := granulesDone_frame u1 f.val (f.val * 2 ^ 34) ((f.val + 1) * 2 ^ 34)
  generalize granulesDone u1 f.val (f.val * 2 ^ 34) ((f.val + 1) * 2 ^ 34) = u2 at hu2 ⊢
  extract_lets u2' moved u4 y
  have hother : ∀ g, g ≠ f.val → fieldOf (modFmem u2 f fun x => { x with ce := tabKeep (fun k => !moved k) x.ce }) g = fieldOf u2 g := fun g hg =>
    (fieldOf_modFmem ..).trans (if_neg (Ne.symm hg))
  have hu3 : ∃ l3, (modFmem u2 f fun x => { x with ce := tabKeep (fun k => !moved k) x.ce }) = { u2 with fld := l3 } := ⟨_, rfl⟩
  obtain ⟨l3, hu3⟩ := hu3
  have hcores : ∀ k ∈ fieldCores u2 f, (coreAt u4 k).condemned = false :=
    coreAt_modCores (P := fun c => c.condemned = false) (modFmem u2 f fun x => { x with ce := tabKeep (fun k => !moved k) x.ce }) f
      (by exact fun _ _ => rfl)
  have hu4 : ∃ c, u4 = { modFmem u2 f fun x => { x with ce := tabKeep (fun k => !moved k) x.ce } with cor := c } := modCores_frame _ _ _
  obtain ⟨c, hu4⟩ := hu4
  have hpend : ∀ b, b < 36 → tabGet 0 ((List.range 36).foldl (fun t b => tabPut 0 (36 * f.val + b) 0 t) u4.yld.pend) (36 * f.val + b) = 0 :=
    fun b hb => tabGet_cleared _ _ hb
  generalize (List.range 36).foldl (fun t b => tabPut 0 (36 * f.val + b) 0 t) u4.yld.pend = p at hpend ⊢
  rw [hu3] at hother hu4
  clear_value u4
  subst hu4 hu2 hu1'
  exact ⟨⟨_, _, _, _, _, rfl⟩, fun g hg => (hother g hg).trans (hu1.other g hg), hu1.gen, hu1.ext, hu1.due, hsites, hpend, hcores, hsame⟩

theorem foundDue_frame (s : State) (f : FieldIx) (failed : List YEnt) :
    ∃ d, foundDue s f failed = { s with yld := { s.yld with due := d } } ∧ (∀ e ∈ s.yld.due, e ∈ d) ∧
      ∀ e ∈ failed, remapEntry f e = true ∨ e.kind = ykRow → e ∈ d := by
  unfold foundDue
  extract_lets narrow u
  obtain ⟨d6, hu6, hkeep6, hnew6⟩ := foldl_dueEntry id (failed.filter fun e => remapEntry f e || e.kind == ykRow) s
  obtain ⟨d7, hu7, hkeep7, -⟩ := foldl_dueEntry (fun i => ({ kind := ykSite, unit := f, loc := i, value := 5 } : YEnt)) narrow
    { s with yld := { s.yld with due := d6 } }
  have hu : u = { s with yld := { s.yld with due := d7 } } := by
    refine Eq.trans ?_ hu7
    rw [← hu6]
    rfl
  have hnew : ∀ e ∈ failed, remapEntry f e = true ∨ e.kind = ykRow → e ∈ d7 := fun e he hkind =>
    hkeep7 e (hnew6 e (List.mem_filter.2 ⟨he, by simpa using hkind⟩))
  have hold : ∀ e ∈ s.yld.due, e ∈ d7 := fun e he => hkeep7 e (hkeep6 e he)
  rw [hu]
  split
  · split_ifs
    · exact ⟨d7, rfl, hold, hnew⟩
    · exact ⟨_, rfl, fun e he => mem_addNew_of_mem (hold e he), fun e he hkind => mem_addNew_of_mem (hnew e he hkind)⟩
  · exact ⟨d7, rfl, hold, hnew⟩

theorem remapped_acts (s : State) (f : FieldIx) :
    ((fieldOf (remapped s f) f).cond.remapDue = true ↔ ∃ e ∈ s.yld.due, remapEntry f e = true ∧ e.kind ≠ ykPhase) ∧
      (∀ g, g ≠ f.val → fieldOf (remapped s f) g = fieldOf s g) ∧
      ∃ l, remapped s f = { s with fld := l, yld := { s.yld with gen := s.yld.gen + 1 } } := by
  unfold remapped
  extract_lets again
  have hagain : again = true ↔ ∃ e ∈ s.yld.due, remapEntry f e = true ∧ e.kind ≠ ykPhase := by
    simp [again, List.any_eq_true]
  clear_value again
  refine ⟨?_, fun g hg => ?_, _, rfl⟩
  · have hfield : (fieldOf (modCond s f fun x => { x with remapDue := again, testHold := x.testHold && (again || x.oscFail) }) f).cond.remapDue = again := by
      rw [fieldOf_modCond, if_pos rfl]
    exact (Bool.eq_iff_iff.1 hfield).trans hagain
  · have hself : fieldOf (modCond s f fun x => { x with remapDue := again, testHold := x.testHold && (again || x.oscFail) }) g = fieldOf s g := by
      rw [fieldOf_modCond, if_neg (Ne.symm hg)]
    exact hself

theorem remap_acts (hup : pithUp s = true) {f : FieldIx} (failed : List YEnt) (hfree : fieldFree s f = true) :
    let t := remap s f failed
    t.yld.gen = s.yld.gen + 1 ∧ t.yld.ext = s.yld.ext ∧
      (∀ e ∈ failed, remapEntry f e = true ∨ e.kind = ykRow → e ∈ t.yld.due) ∧ (∀ e ∈ s.yld.due, e ∈ t.yld.due) ∧
      (∀ e ∈ yieldEntries s.yld, e.unit = f.val → e.kind = ykSite → tabGet false t.yld.sites (42 * f.val + e.loc) = true) ∧
      ((fieldOf t f).cond.remapDue = true ↔ ∃ e ∈ t.yld.due, remapEntry f e = true ∧ e.kind ≠ ykPhase) ∧
      (∀ b, b < 36 → tabGet 0 t.yld.pend (36 * f.val + b) = 0) ∧ (∀ k ∈ fieldCores s f, (coreAt t k).condemned = false) ∧
      (∀ g, g ≠ f.val → fieldOf t g = fieldOf s g) ∧ ((domGet s (.field f)).st = 0 → t.dom = s.dom ∧ t.log = s.log) ∧
      t = { s with fld := t.fld, cor := t.cor, yld := t.yld, dom := t.dom, log := t.log } := by
  intro t
  have ht : t = _ := remap_eq hup failed hfree
  have hm := mapped_acts s f
  generalize mapped s f = u at hm ht
  obtain ⟨d, hd, hkeep, hnew⟩ := foundDue_frame u f failed
  obtain ⟨hdue, hother, l, hl⟩ := remapped_acts { u with yld := { u.yld with due := d } } f
  rw [hd] at ht
  have hremap : (fieldOf t f).cond.remapDue = true ↔ ∃ e ∈ d, remapEntry f e = true ∧ e.kind ≠ ykPhase := by rw [ht]; exact hdue
  have hothers : ∀ g, g ≠ f.val → fieldOf t g = fieldOf s g := fun g hg => by
    rw [ht]
    exact (hother g hg).trans (hm.other g hg)
  rw [hl] at ht
  clear_value t
  obtain ⟨l0, c0, y0, m0, g0, hrest⟩ := hm.rest
  subst ht
  refine ⟨congrArg (· + 1) hm.gen, hm.ext, hnew, fun e he => hkeep e (hm.due ▸ he), hm.sites, hremap, hm.pend, hm.cores, hothers, hm.handling, ?_⟩
  subst hrest
  rfl

/-! ## Ageing -/

/-- The entry of a guard band raised for drift `d` (R394). -/
def marginEntry (f : FieldIx) (d : Nat) : YEnt := { kind := ykMargin, unit := f, loc := 0, value := guardFor d }

/-- The ageing state of a field after a sample of its four monitors (R393, R395). -/
def aged (drifts : List Nat) (x : FieldPower) : FieldPower :=
  let smp := (List.range 4).foldl (fun t m => tabMod [] m (fun l => (drifts.getD m 0 :: l).take 64) t) x.samples
  let x := { x with samples := smp }
  { x with testDue := (List.range 4).foldl (fun l m => if tabGet 0 x.tested m < testLevel (driftOf x m) then addNew m l else l) x.testDue }

theorem samples_aged (drifts : List Nat) (x : FieldPower) {m : Nat} (hm : m < 4) :
    tabGet [] (aged drifts x).samples m = (drifts.getD m 0 :: tabGet [] x.samples m).take 64 := by
  have hrange : List.range 4 = [0, 1, 2, 3] := rfl
  unfold aged
  simp only [hrange, List.foldl_cons, List.foldl_nil]
  interval_cases m <;> simp [tabGet_mod]

theorem testDue_aged (drifts : List Nat) (x : FieldPower) {m : Nat} (hm : m < 4) (h : tabGet 0 x.tested m < testLevel (driftOf (aged drifts x) m)) :
    m ∈ (aged drifts x).testDue := by
  have hdrift : driftOf (aged drifts x) m = driftOf { x with samples := (aged drifts x).samples } m := rfl
  rw [hdrift] at h
  have hfold : ∀ (p : Nat → Prop) [DecidablePred p] (l base : List Nat), (m ∈ base → m ∈ l.foldl (fun l m => if p m then addNew m l else l) base) ∧
      (m ∈ l → p m → m ∈ l.foldl (fun l m => if p m then addNew m l else l) base) := by
    intro p _ l
    induction l with
    | nil => exact fun base => ⟨id, fun h => absurd h List.not_mem_nil⟩
    | cons a l ih =>
      intro base
      have hkeep : m ∈ base → m ∈ (if p a then addNew a base else base) := fun hb => by
        split_ifs
        · exact mem_addNew_of_mem hb
        · exact hb
      refine ⟨fun hb => (ih _).1 (hkeep hb), fun hin hp => ?_⟩
      rcases List.mem_cons.1 hin with rfl | hin
      · exact (ih _).1 (by dsimp only; rw [if_pos hp]; exact StoresAndBruises.mem_addNew _ _)
      · exact (ih _).2 hin hp
  exact (hfold _ _ _).2 (List.mem_range.2 hm) h

theorem fieldOf_modFpow_same (s : State) (f : Nat) (g : FieldPower → FieldPower) : fieldOf (modFpow s f g) f = { fieldOf s f with pow := g (fieldOf s f).pow } := by
  rw [fieldOf_modFpow, if_pos rfl]

theorem ageingSample_acts (hup : pithUp s = true) {f : FieldIx} (drifts : List Nat) (hruns : fieldRuns s f = true) :
    let p := (fieldOf s f).pow
    let t := ageingSample s f drifts
    let q := (fieldOf t f).pow
    (∀ m, m < 4 → tabGet [] q.samples m = (drifts.getD m 0 :: tabGet [] p.samples m).take 64) ∧
      q.drift = min 255 (((List.range 4).map (driftOf q)).foldl max 0) ∧
      (∀ m, m < 4 → tabGet 0 p.tested m < testLevel (driftOf q m) → m ∈ q.testDue) ∧
      t.yld.gen = s.yld.gen + (if q.drift = p.drift then 0 else 1) ∧
      (max (guardOf s f) p.guardDue < guardFor (((List.range 4).map (driftOf q)).foldl max 0) →
        { kind := ykMargin, unit := f.val, loc := 0, value := guardFor (((List.range 4).map (driftOf q)).foldl max 0) } ∈ t.yld.due) ∧
      (∀ g, g ≠ f.val → fieldOf t g = fieldOf s g) ∧ t = { s with fld := t.fld, yld := t.yld } := by
  intro p t
  unfold t ageingSample
  rw [if_neg (by simp [hup, hruns])]
  extract_lets u x d v q
  have hu : fieldOf u f = { fieldOf s f with pow := aged drifts p } := fieldOf_modFpow_same s f _
  have hother : ∀ g, g ≠ f.val → fieldOf u g = fieldOf s g := fun g hg => (fieldOf_modFpow ..).trans (if_neg (Ne.symm hg))
  have hframe : ∃ l, u = { s with fld := l } := ⟨_, rfl⟩
  have hx : x = aged drifts p := congrArg Field.pow hu
  obtain ⟨l, hl⟩ := hframe
  have hxd : x.drift = p.drift := (congrArg FieldPower.drift hx).trans rfl
  have hvf : fieldOf v f = { fieldOf s f with pow := { aged drifts p with drift := min 255 d } } ∧
      (∀ g, g ≠ f.val → fieldOf v g = fieldOf s g) ∧
      ∃ l', v = { s with fld := l', yld := { s.yld with gen := s.yld.gen + (if min 255 d = p.drift then 0 else 1) } } := by
    unfold v
    rw [hxd]
    clear_value d
    split_ifs with h
    · have haged : ({ aged drifts p with drift := min 255 d } : FieldPower) = aged drifts p := by
        rw [h]
        rfl
      rw [haged]
      exact ⟨hu, hother, l, hl⟩
    · have hmod : ∀ g, fieldOf (bumpGen (modFpow u f fun x => { x with drift := min 255 d })) g = fieldOf (modFpow u f fun x => { x with drift := min 255 d }) g :=
        fun _ => rfl
      refine ⟨?_, fun g hg => ?_, ?_⟩
      · rw [hmod, fieldOf_modFpow_same, hu]
      · rw [hmod, fieldOf_modFpow, if_neg (Ne.symm hg), hother g hg]
      · rw [hl]
        exact ⟨_, rfl⟩
  obtain ⟨hv, hvother, l', hl'⟩ := hvf
  have hguard : guardOf v f = guardOf s f := by
    unfold guardOf
    rw [hv]
    rfl
  have hd : ((List.range 4).map (driftOf { aged drifts p with drift := min 255 d })).foldl max 0 = d := by
    unfold d
    rw [hx]
    rfl
  have hq : q = { aged drifts p with drift := min 255 d } := by
    refine Eq.trans ?_ (congrArg Field.pow hv)
    unfold q
    split_ifs <;> rfl
  clear_value q d v x
  have hdue : ∃ l, (if max (guardOf v f) x.guardDue < guardFor d then dueEntry v (marginEntry f d) else v) = { v with yld := { v.yld with due := l } } ∧
      (max (guardOf v f) x.guardDue < guardFor d → marginEntry f d ∈ l) := by
    split_ifs with h
    · exact ⟨_, rfl, fun _ => StoresAndBruises.mem_addNew _ _⟩
    · exact ⟨_, rfl, fun h' => absurd h' h⟩
  obtain ⟨l2, hdue, hmem⟩ := hdue
  have ht : (if max (guardOf v f) x.guardDue < guardFor d then dueEntry v { kind := ykMargin, unit := f, loc := 0, value := guardFor d } else v) = _ := hdue
  rw [ht]
  have hxg : x.guardDue = p.guardDue := by rw [hx]; rfl
  rw [hguard, hxg] at hmem
  refine ⟨fun m hm => ?_, ?_, fun m hm h => ?_, ?_, fun h => ?_, hvother, ?_⟩
  · rw [hq]
    exact samples_aged drifts p hm
  · rw [hq, hd]
  · rw [hq] at h ⊢
    exact testDue_aged drifts p hm h
  · rw [hq, hl']
  · rw [hq, hd] at h ⊢
    exact hmem h
  · rw [hl']

/-! ## Margin tests -/

theorem marginTest_acts (hup : pithUp s = true) {f : FieldIx} (m : Fin 4) (sites : List Nat) (hfree : fieldFree s f = true)
    (hdue : m.val ∈ (fieldOf s f).pow.testDue) :
    let p := (fieldOf s f).pow
    let bad := fun (i : Nat) => i ∈ monitorSites m ∧ i ∈ sites ∧ tabGet false s.yld.sites (42 * f.val + i) = false
    let t := marginTest s f m sites
    (fieldOf t f).pow = { p with testDue := dropAll m.val p.testDue, tested := tabPut 0 m.val (testLevel (driftOf p m)) p.tested } ∧
      (∀ i, bad i → { kind := ykSite, unit := f.val, loc := i, value := 4 } ∈ t.yld.due ∧ (fieldOf t f).cond.remapDue = true) ∧
      ((∀ i, ¬ bad i) → t.yld = s.yld ∧ (fieldOf t f).cond = (fieldOf s f).cond) ∧
      (∀ g, g ≠ f.val → fieldOf t g = fieldOf s g) ∧ t = { s with fld := t.fld, yld := t.yld } := by
  intro p bad t
  unfold t marginTest
  rw [if_neg (by simp [hup, hfree, hdue])]
  extract_lets u l v
  have hu : fieldOf u f = { fieldOf s f with pow := { p with
      testDue := dropAll m.val p.testDue, tested := tabPut 0 m.val (testLevel (driftOf p m)) p.tested } } := fieldOf_modFpow_same s f _
  have hother : ∀ g, g ≠ f.val → fieldOf u g = fieldOf s g := fun g hg => (fieldOf_modFpow ..).trans (if_neg (Ne.symm hg))
  have hmem : ∀ i, i ∈ l ↔ bad i := fun i => by
    have hsites : u.yld.sites = s.yld.sites := rfl
    simp only [l, List.mem_filter, hsites, bad, Bool.and_eq_true, List.contains_iff_mem, Bool.not_eq_true']
  have hframe : ∃ x, u = { s with fld := x } := ⟨_, rfl⟩
  obtain ⟨x, hx⟩ := hframe
  obtain ⟨d, hd, -, hnew⟩ := foldl_dueEntry (fun i => ({ kind := ykSite, unit := f, loc := i, value := 4 } : YEnt)) l u
  have hv : v = { u with yld := { u.yld with due := d } } := hd
  clear_value v u
  subst hv
  by_cases hl : l = []
  · have hnone : ∀ i, ¬ bad i := fun i hi => by
      have h := (hmem i).2 hi
      rw [hl] at h
      exact absurd h List.not_mem_nil
    rw [hl] at hd
    have hu' : ({ u with yld := { u.yld with due := d } } : State) = u := hd.symm
    rw [if_pos (by simp [hl]), hu']
    refine ⟨by rw [hu], fun i hi => absurd hi (hnone i), fun _ => ⟨by rw [hx], by rw [hu]⟩, hother, by rw [hx]⟩
  · rw [if_neg (by simpa using hl)]
    have hself : fieldOf (modCond { u with yld := { u.yld with due := d } } f fun x => { x with remapDue := true }) f =
        { fieldOf u f with cond := { (fieldOf u f).cond with remapDue := true } } := by
      rw [fieldOf_modCond, if_pos rfl]
      rfl
    refine ⟨by rw [hself, hu], fun i hi => ⟨hnew i ((hmem i).2 hi), by rw [hself]⟩, fun hnone => absurd (List.eq_nil_iff_forall_not_mem.2 fun i hi =>
      hnone i ((hmem i).1 hi)) hl, fun g hg => ?_, by rw [hx]; rfl⟩
    rw [fieldOf_modCond, if_neg (Ne.symm hg)]
    exact hother g hg

/-! ## Records of the yield map -/

/-- A field that is RETIRED (R20). -/
def retiredField (x : Field) : Field := { x with cond := { x.cond with retired := true }, pow := { x.pow with rails := 0 }, net := { x.net with clamped := true } }

/-- The state of a field that its fence or its rest lets a RETIRED entry take out at once (R20, R385). -/
def mayRetire (x : Field) : Bool := x.cond.fenced || (!(x.cond.fenced || x.cond.retired) && x.cond.owner == 0 && x.cond.leases.isEmpty && !x.cond.diagHold)

/-- What a committed entry does to its unit's field. -/
def committedTo (e : YEnt) (x : Field) : Field :=
  if e.kind = ykRetired then (if mayRetire x then retiredField x else { x with cond := { x.cond with remapDue := true } })
  else if e.kind = ykMargin then
    (if x.cond.owner = 0 then { x with pow := { x.pow with guard := max (if x.pow.guard = 0 then 40 else x.pow.guard) e.value } }
     else { x with pow := { x.pow with guardDue := max x.pow.guardDue e.value } })
  else if (fieldEntry e.unit e && e.kind != ykPhase) = true then { x with cond := { x.cond with remapDue := true } }
  else x

theorem applyEntry_retired {e : YEnt} (h : e.kind = ykRetired) (s : State) : applyEntry s e = modField s e.unit retiredField := by
  unfold applyEntry
  simp only [h, ykSite, ykColumn, ykBank, ykEngine, ykWire, ykLane, ykPhase, ykConverter, ykRetired, reduceIte, Nat.reduceEqDiff]
  rfl

/-- The power state of a field whose guard band is raised to `v` at least (R394). -/
def guardRaised (v : Nat) (x : FieldPower) : FieldPower := { x with guard := max (if x.guard = 0 then 40 else x.guard) v }

theorem le_guardRaised (v : Nat) (x : FieldPower) : v ≤ (if (guardRaised v x).guard = 0 then 40 else (guardRaised v x).guard) := by
  have hle : v ≤ (guardRaised v x).guard := Nat.le_max_right _ _
  split_ifs with h
  · omega
  · exact hle

theorem applyEntry_margin {e : YEnt} (h : e.kind = ykMargin) (s : State) : applyEntry s e = modFpow s e.unit (guardRaised e.value) := by
  unfold applyEntry
  simp only [h, ykSite, ykColumn, ykBank, ykEngine, ykWire, ykLane, ykPhase, ykConverter, ykRetired, ykMargin, reduceIte, Nat.reduceEqDiff]
  rfl

theorem fieldOf_commitEffect (s : State) (e : YEnt) (g : Nat) :
    fieldOf (commitEffect s e) g = if e.unit = g then committedTo e (fieldOf s e.unit) else fieldOf s g := by
  have hmay : ((fieldOf s e.unit).cond.fenced || fieldFree s e.unit) = mayRetire (fieldOf s e.unit) := rfl
  have hbump : ∀ u, fieldOf (bumpGen u) g = fieldOf u g := fun _ => rfl
  unfold commitEffect committedTo
  extract_lets f
  by_cases hr : e.kind = ykRetired
  · rw [if_pos hr, if_pos hr, hmay, applyEntry_retired hr]
    by_cases hm : mayRetire (fieldOf s e.unit) = true
    · rw [if_pos hm, if_pos hm, hbump, fieldOf_modField]
    · rw [if_neg hm, if_neg hm, fieldOf_modCond]
  · rw [if_neg hr, if_neg hr]
    by_cases hk : e.kind = ykMargin
    · rw [if_pos hk, if_pos hk, applyEntry_margin hk]
      by_cases ho : (fieldOf s e.unit).cond.owner = 0
      · rw [if_pos ho, if_pos ho, hbump, fieldOf_modFpow]
        rfl
      · rw [if_neg ho, if_neg ho, fieldOf_modFpow]
    · rw [if_neg hk, if_neg hk]
      by_cases hf : (fieldEntry e.unit e && e.kind != ykPhase) = true
      · rw [if_pos hf, if_pos hf, fieldOf_modCond]
      · rw [if_neg hf, if_neg hf]
        split_ifs with hg
        · rw [hg]
        · rfl

theorem commitEffect_frame (s : State) (e : YEnt) : ∃ l n, commitEffect s e = { s with fld := l, yld := { s.yld with gen := n } } := by
  unfold commitEffect
  extract_lets f
  by_cases hr : e.kind = ykRetired
  · rw [if_pos hr, applyEntry_retired hr]
    split_ifs <;> exact ⟨_, _, rfl⟩
  · rw [if_neg hr]
    by_cases hk : e.kind = ykMargin
    · rw [if_pos hk, applyEntry_margin hk]
      split_ifs <;> exact ⟨_, _, rfl⟩
    · rw [if_neg hk]
      split_ifs <;> exact ⟨_, _, rfl⟩

theorem foldl_commitEffect_frame (l : List YEnt) (s : State) :
    ∃ x n, l.foldl commitEffect s = { s with fld := x, yld := { s.yld with gen := n } } := by
  induction l generalizing s with
  | nil => exact ⟨_, _, rfl⟩
  | cons e l ih =>
    obtain ⟨x, n, h⟩ := commitEffect_frame s e
    obtain ⟨x', n', h'⟩ := ih { s with fld := x, yld := { s.yld with gen := n } }
    rw [List.foldl_cons, h]
    exact ⟨x', n', h'⟩

/-! What a committed entry keeps of a field. -/

theorem cond_committedTo (e : YEnt) (x : Field) :
    (committedTo e x).cond.owner = x.cond.owner ∧ (x.cond.remapDue = true → (committedTo e x).cond.remapDue = true) := by
  unfold committedTo
  split_ifs
  · exact ⟨rfl, id⟩
  · exact ⟨rfl, fun _ => rfl⟩
  · exact ⟨rfl, id⟩
  · exact ⟨rfl, id⟩
  · exact ⟨rfl, id⟩
  · exact ⟨rfl, fun _ => rfl⟩
  · exact ⟨rfl, id⟩

/-- The field is out of service, rails off and clamps closed. -/
def IsRetired (x : Field) : Prop := x.cond.retired = true ∧ x.pow.rails = 0 ∧ x.net.clamped = true

theorem isRetired_committedTo (e : YEnt) {x : Field} (h : IsRetired x) : IsRetired (committedTo e x) := by
  unfold committedTo
  split_ifs
  · exact ⟨rfl, rfl, rfl⟩
  all_goals exact h

theorem mayRetire_committedTo (e : YEnt) {x : Field} (h : IsRetired x ∨ mayRetire x = true) :
    IsRetired (committedTo e x) ∨ mayRetire (committedTo e x) = true := by
  rcases h with h | h
  · exact .inl (isRetired_committedTo e h)
  · unfold committedTo
    split_ifs
    · exact .inl ⟨rfl, rfl, rfl⟩
    all_goals exact .inr h

theorem guard_committedTo (e : YEnt) (x : Field) {v : Nat} (h : v ≤ (if x.pow.guard = 0 then 40 else x.pow.guard)) :
    v ≤ (if (committedTo e x).pow.guard = 0 then 40 else (committedTo e x).pow.guard) := by
  have hguard : (committedTo e x).pow.guard = x.pow.guard ∨ (committedTo e x).pow.guard = max (if x.pow.guard = 0 then 40 else x.pow.guard) e.value := by
    unfold committedTo
    generalize (if x.pow.guard = 0 then 40 else x.pow.guard) = g
    split_ifs
    · exact .inl rfl
    · exact .inl rfl
    · exact .inr rfl
    · exact .inl rfl
    · exact .inl rfl
    · exact .inl rfl
  rcases hguard with hg | hg
  · rw [hg]
    exact h
  · rw [hg]
    generalize (if x.pow.guard = 0 then 40 else x.pow.guard) = g at h ⊢
    split_ifs <;> omega

/-- A property of its unit's field that an entry brings about, and that every entry keeps, stands once the entries are committed. -/
theorem committed_reaches {I P : Field → Prop} {l : List YEnt} {e : YEnt} (he : e ∈ l) (hI : ∀ b x, I x → I (committedTo b x))
    (hP : ∀ b x, P x → P (committedTo b x)) (hstep : ∀ x, I x → P (committedTo e x)) (h : I (fieldOf s e.unit)) :
    P (fieldOf (l.foldl commitEffect s) e.unit) := by
  have hkeep : ∀ Q : Field → Prop, (∀ b x, Q x → Q (committedTo b x)) → ∀ s b, Q (fieldOf s e.unit) → Q (fieldOf (commitEffect s b) e.unit) := by
    intro Q hQ s b h
    rw [fieldOf_commitEffect]
    split_ifs with hu
    · rw [hu]
      exact hQ b _ h
    · exact h
  refine foldl_reaches (I := fun s => I (fieldOf s e.unit)) (P := fun s => P (fieldOf s e.unit)) he (hkeep I hI) (hkeep P hP) (fun s hs => ?_) h
  rw [fieldOf_commitEffect, if_pos rfl]
  exact hstep _ hs

theorem storeRecord_frame (s : State) (l : List YEnt) (sig : Nat) :
    ∃ x k b n, storeRecord s l sig = { s with yld := { s.yld with ext := x, kept := k, full := b, gen := n } } ∧
      (s.yld.full = false → x = s.yld.ext ++ [{ boot := s.yld.boots, ents := l, sig := sig }] ∧ k = s.yld.kept ∧ b = decide (224 ≤ s.yld.ext.length + 1)) ∧
      (s.yld.full = true → x = s.yld.ext ∧ k = s.yld.kept ++ l ∧ b = true) := by
  unfold storeRecord
  cases hfull : s.yld.full with
  | true =>
    rw [if_pos rfl]
    exact ⟨s.yld.ext, _, true, s.yld.gen, by rw [← hfull], nofun, fun _ => ⟨rfl, rfl, rfl⟩⟩
  | false =>
    rw [if_neg (by decide)]
    dsimp only
    have hlen : (s.yld.ext ++ [({ boot := s.yld.boots, ents := l, sig := sig } : ExtRec)]).length = s.yld.ext.length + 1 := by simp
    rw [hlen]
    by_cases h : s.yld.ext.length + 1 < flashRecords
    · rw [if_pos h]
      refine ⟨_, s.yld.kept, false, s.yld.gen, by rw [← hfull], fun _ => ⟨rfl, rfl, ?_⟩, nofun⟩
      exact (decide_eq_false (Nat.not_le.2 h)).symm
    · rw [if_neg h]
      refine ⟨_, s.yld.kept, true, s.yld.gen + 1, rfl, fun _ => ⟨rfl, rfl, ?_⟩, nofun⟩
      exact (decide_eq_true (Nat.not_lt.1 h)).symm

theorem recordCommit_acts (hup : pithUp s = true) (ents : List YEnt) (hstep : s.yld.draftStep = 2) :
    let y := s.yld
    let t := ymapRecordWrite s .commit ents
    t.yld.draft = [] ∧ t.yld.draftStep = 0 ∧ t.yld.due = y.due.filter (fun e => !y.draft.contains e) ∧
      (y.full = false → t.yld.ext = y.ext ++ [{ boot := y.boots, ents := y.draft, sig := y.draftSig }] ∧ t.yld.kept = y.kept ∧
        t.yld.full = decide (224 ≤ y.ext.length + 1)) ∧
      (y.full = true → t.yld.ext = y.ext ∧ t.yld.kept = y.kept ++ y.draft ∧ t.yld.full = true) ∧
      (∀ e ∈ y.draft, e.kind = ykRetired → (fieldOf s e.unit).cond.fenced = true ∨ fieldFree s e.unit = true →
        (fieldOf t e.unit).cond.retired = true ∧ (fieldOf t e.unit).pow.rails = 0 ∧ (fieldOf t e.unit).net.clamped = true) ∧
      (∀ e ∈ y.draft, e.kind = ykMargin → (fieldOf s e.unit).cond.owner = 0 → e.value ≤ guardOf t e.unit) ∧
      (∀ e ∈ y.draft, e.kind ∈ [ykSite, ykColumn, ykBank, ykEngine] → (fieldOf t e.unit).cond.remapDue = true) := by
  intro y t
  have ht : t = y.draft.foldl commitEffect
      (storeRecord { s with yld := { y with draft := [], draftStep := 0, due := y.due.filter fun e => !y.draft.contains e } } y.draft y.draftSig) := by
    unfold t ymapRecordWrite
    dsimp only
    rw [if_neg (by simp [hup]), if_neg (by simp [hstep])]
  obtain ⟨x, k, b, n, hu, hopen, hfull⟩ := storeRecord_frame
    { s with yld := { y with draft := [], draftStep := 0, due := y.due.filter fun e => !y.draft.contains e } } y.draft y.draftSig
  rw [hu] at ht
  have hretired : ∀ e ∈ y.draft, e.kind = ykRetired → (fieldOf s e.unit).cond.fenced = true ∨ fieldFree s e.unit = true → IsRetired (fieldOf t e.unit) := by
    intro e he hkind hfree
    have hmay : mayRetire (fieldOf s e.unit) = true := (Bool.or_eq_true ..).mpr hfree
    rw [ht]
    refine committed_reaches (I := fun x => IsRetired x ∨ mayRetire x = true) (P := IsRetired) he (fun b _ => mayRetire_committedTo b)
      (fun b _ => isRetired_committedTo b) (fun x hx => ?_) (.inr hmay)
    rcases hx with hx | hx
    · exact isRetired_committedTo e hx
    · unfold committedTo
      rw [if_pos hkind, if_pos hx]
      exact ⟨rfl, rfl, rfl⟩
  have hmargin : ∀ e ∈ y.draft, e.kind = ykMargin → (fieldOf s e.unit).cond.owner = 0 → e.value ≤ guardOf t e.unit := by
    intro e he hkind howner
    rw [ht]
    refine committed_reaches (I := fun x => x.cond.owner = 0) (P := fun x => e.value ≤ (if x.pow.guard = 0 then 40 else x.pow.guard)) he
      (fun b x hx => (cond_committedTo b x).1.trans hx) (fun b x => guard_committedTo b x) (fun x hx => ?_) howner
    have hguard : committedTo e x = { x with pow := guardRaised e.value x.pow } := by
      unfold committedTo
      rw [if_neg (fun h => by rw [h] at hkind; revert hkind; decide), if_pos hkind, if_pos hx]
      rfl
    rw [hguard]
    exact le_guardRaised _ _
  have hremap : ∀ e ∈ y.draft, e.kind ∈ [ykSite, ykColumn, ykBank, ykEngine] → (fieldOf t e.unit).cond.remapDue = true := by
    intro e he hkind
    rw [ht]
    refine committed_reaches (I := fun _ => True) (P := fun x => x.cond.remapDue = true) he (fun _ _ _ => trivial)
      (fun b x => (cond_committedTo b x).2) (fun x _ => ?_) trivial
    have hentry : (fieldEntry e.unit e && e.kind != ykPhase) = true := by
      simp only [List.mem_cons, List.not_mem_nil, or_false] at hkind
      rcases hkind with h | h | h | h <;> simp [fieldEntry, h, ykSite, ykColumn, ykBank, ykEngine, ykPhase, ykRetired]
    have hr : e.kind ≠ ykRetired := fun h => by rw [h] at hkind; revert hkind; decide
    have hm : e.kind ≠ ykMargin := fun h => by rw [h] at hkind; revert hkind; decide
    unfold committedTo
    rw [if_neg hr, if_neg hm, if_pos hentry]
  obtain ⟨l, n', hframe⟩ := foldl_commitEffect_frame y.draft
    { s with yld := { y with draft := [], draftStep := 0, due := y.due.filter fun e => !y.draft.contains e, ext := x, kept := k, full := b, gen := n } }
  have ht' : t = _ := ht.trans hframe
  clear_value t
  refine ⟨?_, ?_, ?_, fun h => ?_, fun h => ?_, hretired, hmargin, hremap⟩
  · rw [ht']
  · rw [ht']
  · rw [ht']
  · rw [ht']
    exact hopen h
  · rw [ht']
    exact hfull h

theorem recordSig_acts (hup : pithUp s = true) (ents : List YEnt) (hstep : s.yld.draftStep = 1) (hsign : canSign s.trs = true) :
    let t := ymapRecordWrite s .sig ents
    t.trs.sigNext = s.trs.sigNext + 1 ∧ t.trs.sigNext ≤ t.trs.sigEnd ∧
      t = { s with trs := t.trs, yld := { s.yld with draftStep := 2, draftSig := s.trs.sigNext } } := by
  intro t
  have ht : t = { s with trs := useIndex s.trs, yld := { s.yld with draftStep := 2, draftSig := s.trs.sigNext } } := by
    unfold t ymapRecordWrite
    dsimp only
    rw [if_neg (by simp [hup]), if_neg (by simp [hstep, hsign])]
  clear_value t
  subst ht
  refine ⟨rfl, ?_, rfl⟩
  show s.trs.sigNext + 1 ≤ if s.trs.sigEnd ≤ s.trs.sigNext then (s.trs.sigNext / signBlock + 1) * signBlock else s.trs.sigEnd
  have hblock : s.trs.sigNext < (s.trs.sigNext / signBlock + 1) * signBlock := by
    unfold signBlock
    omega
  split_ifs <;> omega

/-- Settles O39. -/
theorem sparesAreRecordedAndRemapped : Obligations.SparesAreRecordedAndRemapped := by
  intro s f hup p
  refine ⟨fun failed hfree => ⟨_, rfl, remap_acts hup failed hfree⟩, fun drifts hruns => ⟨_, rfl, ageingSample_acts hup drifts hruns⟩,
    fun m sites hfree hdue => ⟨_, rfl, marginTest_acts hup m sites hfree hdue⟩, fun ents => ⟨fun hstep hne hlen hdue => ?body,
    fun hstep hsign => ⟨_, rfl, recordSig_acts hup ents hstep hsign⟩, fun hstep => ⟨_, rfl, recordCommit_acts hup ents hstep⟩⟩⟩
  case body =>
    refine congrArg Host.Outcome.next ?_
    unfold ymapRecordWrite
    dsimp only
    rw [if_neg (by simp [hup]), if_neg (by simpa [hstep, hne, hlen] using hdue)]

end Sys2Proof.Proofs.Spares
end

section
/-! SUPPORT. Stream requests (R261 to R263, R275): a request acts on the state in which it has left those taken. -/

namespace Sys2Proof.Proofs.Requests

open Sys2Proof.Laws Sys2Proof.Machine Sys2Proof Sys2Proof.Proofs.Spares

variable {s t : State} {f st : Nat} {c : CoreId} {q : ReqTaken} {req : BitVec 1024} {op : Nat}

/-! ## One stream of a field -/

theorem streamOf_of_str (h : (fieldOf t f).str.str = (fieldOf s f).str.str) (x : Nat) : streamOf t f x = streamOf s f x := by
  rw [streamOf, h, streamOf]

theorem streamOf_modStream (s : State) (f st x : Nat) (g : Stream → Stream) :
    streamOf (modStream s f st g) f x = if st = x then g (streamOf s f st) else streamOf s f x := by
  rw [streamOf, modStream, fieldOf_modStr, if_pos rfl]
  exact tabGet_mod ({} : Stream) st x g _

theorem streamIs_modStream (s : State) (f st : Nat) (g : Stream → Stream) : StreamIs s (modStream s f st g) f st (g (streamOf s f st)) :=
  ⟨by rw [streamOf_modStream, if_pos rfl], fun x hx => by rw [streamOf_modStream, if_neg (Ne.symm hx)]⟩

/-- A stream that becomes one thing in a state with the same streams of its field becomes it in the state itself. -/
theorem streamIs_of_str {u : State} {y : Stream} (h : StreamIs u t f st y) (hu : (fieldOf u f).str.str = (fieldOf s f).str.str) :
    StreamIs s t f st y :=
  ⟨h.1, fun x hx => (h.2 x hx).trans (streamOf_of_str hu x)⟩

/-! ## A request that is accepted -/

/-- The state in which a request has left those taken and its STRM has completed, before it acts on its stream. -/
def afterTake (s : State) (c : CoreId) (q : ReqTaken) : State :=
  modCore (modNet s c.fld fun n => { n with req := eraseFirst (· == q) n.req }) (ckey c) (strmDone (slotOf s c.fld))

theorem fieldOf_afterTake (s : State) (c : CoreId) (q : ReqTaken) (g : Nat) : fieldOf (afterTake s c q) g =
    if c.fld.val = g then { fieldOf s c.fld with net := { (fieldOf s c.fld).net with req := eraseFirst (· == q) (fieldOf s c.fld).net.req } }
    else fieldOf s g := by
  exact fieldOf_modNet (s := s) c.fld g fun n => { n with req := eraseFirst (· == q) n.req }

theorem fieldOf_afterTake_same (s : State) (c : CoreId) (q : ReqTaken) : fieldOf (afterTake s c q) c.fld =
    { fieldOf s c.fld with net := { (fieldOf s c.fld).net with req := eraseFirst (· == q) (fieldOf s c.fld).net.req } } := by
  rw [fieldOf_afterTake, if_pos rfl]

/-- What a request reads of its field is the same in the state in which it has left those taken. -/
theorem requestStream_afterTake (s : State) (c : CoreId) (q : ReqTaken) :
    streamOf (afterTake s c q) c.fld = streamOf s c.fld ∧ slotOf (afterTake s c q) c.fld = slotOf s c.fld ∧
      (∀ a, anchorOf (afterTake s c q) c.fld a = anchorOf s c.fld a) ∧ openXfers (afterTake s c q) c.fld = openXfers s c.fld := by
  have h := fieldOf_afterTake_same s c q
  refine ⟨funext fun x => ?_, ?_, fun a => ?_, funext fun x => ?_⟩
  · rw [streamOf, h, streamOf]
  · rw [slotOf, h, slotOf]
  · rw [anchorOf, h, anchorOf]
  · rw [openXfers, h, openXfers]

theorem requestTaken_afterTake (s : State) (c : CoreId) (q : ReqTaken) : RequestTaken s (afterTake s c q) c q := by
  refine ⟨by rw [fieldOf_afterTake_same], ?_, fun k hk => ?_, fun g hg => ?_, rfl⟩
  · rw [afterTake, coreAt_modCore, if_pos rfl, strmDone, taskOf_modTask, if_pos rfl]
    rfl
  · rw [afterTake, coreAt_modCore, if_neg (Ne.symm hk)]
    rfl
  · rw [fieldOf_afterTake, if_neg (Ne.symm hg)]

/-- What follows changes of the request's field but its stream complex, of the rest but the queue of events and the handling. -/
theorem requestTaken_modStr {u : State} (h : RequestTaken s u c q) (g : FieldStream → FieldStream) : RequestTaken s (modStr u c.fld g) c q := by
  obtain ⟨hnet, hfl, hcor, hfld, ht⟩ := h
  refine ⟨?_, hfl, hcor, fun k hk => ?_, ?_⟩
  · rw [fieldOf_modStr, if_pos rfl]
    exact hnet
  · rw [fieldOf_modStr, if_neg (Ne.symm hk)]
    exact hfld k hk
  · rw [ht]
    rfl

theorem requestTaken_of_rest {u : State} (h : RequestTaken s u c q)
    (ht : ∃ b m l, t = { u with stem := b, dom := m, log := l }) : RequestTaken s t c q := by
  obtain ⟨b, m, l, rfl⟩ := ht
  obtain ⟨hnet, hfl, hcor, hfld, hu⟩ := h
  refine ⟨hnet, hfl, hcor, hfld, ?_⟩
  rw [hu]

/-- A request that takes effect: its stream becomes what it makes of it. -/
theorem acts_of_modStream (s : State) (c : CoreId) (q : ReqTaken) (st : Nat) (g : Stream → Stream) :
    let t := modStream (afterTake s c q) c.fld st g
    RequestTaken s t c q ∧ SameHandling s t ∧ t.stem = s.stem ∧ StreamIs s t c.fld st (g (streamOf s c.fld st)) := by
  refine ⟨requestTaken_modStr (requestTaken_afterTake s c q) _, ⟨rfl, rfl⟩, rfl, ?_⟩
  have h := streamIs_modStream (afterTake s c q) c.fld st g
  rw [(requestStream_afterTake s c q).1] at h
  exact streamIs_of_str h (by rw [fieldOf_afterTake_same])

/-- A request that is an ARM fault: it changes no stream, and the complex raises STREAM_FAULT. -/
theorem acts_of_fault (s : State) (c : CoreId) (q : ReqTaken) (st : Nat) :
    let t := raiseStream (afterTake s c q) c.fld st 7 0
    RequestTaken s t c q ∧ SameHandling s t ∧ (∀ x, streamOf t c.fld x = streamOf s c.fld x) ∧ StreamFaults s t c.fld st 7 0 := by
  obtain ⟨hstr, hslot, -, -⟩ := requestStream_afterTake s c q
  have hf := fieldOf_afterTake_same s c q
  have hu := requestTaken_afterTake s c q
  have hdom : (afterTake s c q).dom = s.dom ∧ (afterTake s c q).log = s.log ∧ (afterTake s c q).stem = s.stem := ⟨rfl, rfl, rfl⟩
  generalize afterTake s c q = u at *
  obtain ⟨hdom, hlog, hstem⟩ := hdom
  unfold StreamFaults
  intro t
  have ht : t = raiseStream u c.fld st 7 0 := rfl
  clear_value t
  by_cases hd : (streamOf s c.fld st).draining = true
  · rw [raiseStream, hstr, if_pos hd] at ht
    subst ht
    exact ⟨hu, ⟨hdom, hlog⟩, fun x => congrFun hstr x, by rw [if_pos hd]; exact hstem⟩
  · rw [raiseStream, hstr, if_neg hd] at ht
    refine ⟨requestTaken_of_rest hu ⟨t.stem, u.dom, u.log, by rw [ht]; rfl⟩, by subst ht; exact ⟨hdom, hlog⟩, fun x => ?_, ?_⟩
    · rw [ht]
      exact congrFun hstr x
    · rw [if_neg hd, Raises, ht, raise, hstem, hslot, hf, streamDetail, streamTag, hstr]
      rfl

/-- A fault is a matter of the queue of events alone. -/
theorem streamFaults_of_stem {u : State} {f st kind dva : Nat} (h : t.stem = u.stem) (hu : StreamFaults s u f st kind dva) :
    StreamFaults s t f st kind dva := by
  rw [StreamFaults, Raises, h]
  exact hu

/-! ## The handling that ends with a release -/

theorem handlingDone_of_same (h : SameHandling s t) (d : Domain) :
    (handlingDone t d).dom = (handlingDone s d).dom ∧ (handlingDone t d).log = (handlingDone s d).log := by
  obtain ⟨hdom, hlog⟩ := h
  by_cases hd : d = .none
  all_goals
    simp only [handlingDone, domPut, hd, domGet, hdom, hlog, freeSeq, recIndex, if_true, if_false]
    split_ifs
    · split <;> exact ⟨by simp_all, by simp_all⟩
    · exact ⟨by simp_all, by simp_all⟩

/-- The end of the handling of the complex keeps the streams, the cores and the queue of events. -/
theorem streamsDone_frame (s : State) (f : Nat) : ∃ m l, streamsDone s f = { s with dom := m, log := l } := by
  rw [streamsDone]
  split
  · exact ⟨_, _, rfl⟩
  · exact handlingDone_frame s _

theorem streamsSettle_streamsDone {u : State} (h : SameHandling s u) (f : Nat) : StreamsSettle s (streamsDone u f) f := by
  obtain ⟨m, l, hfr⟩ := streamsDone_frame u f
  have hany : anyFaulted (streamsDone u f) f = anyFaulted u f := by rw [hfr]; rfl
  have hst : (domGet u (.stream f)).st = (domGet s (.stream f)).st := by rw [domGet, h.1, domGet]
  refine ⟨fun hne hno => ?_, fun hor => ?_⟩
  · rw [hany] at hno
    rw [streamsDone, if_neg (by simp [hst, hne, hno])]
    exact handlingDone_of_same h _
  · rw [hany] at hor
    rw [streamsDone, if_pos (by simpa [hst] using hor)]
    exact h

/-- After a RELEASE the handling of the complex ends where it may, and nothing else changes. -/
theorem release_settles {u : State} (htaken : RequestTaken s u c q) (hsame : SameHandling s u) :
    RequestTaken s (streamsDone u c.fld) c q ∧ StreamsSettle s (streamsDone u c.fld) c.fld ∧ (streamsDone u c.fld).stem = u.stem ∧
      ∀ x, streamOf (streamsDone u c.fld) c.fld x = streamOf u c.fld x := by
  obtain ⟨m, l, hfr⟩ := streamsDone_frame u c.fld
  exact ⟨requestTaken_of_rest htaken ⟨u.stem, m, l, hfr⟩, streamsSettle_streamsDone hsame _, by rw [hfr], fun x => by rw [hfr]; rfl⟩

/-! ## The three requests -/

theorem reqOp_of_due (h : dueRequest s c req op = some q) : q.src = ckey c + 1 ∧ q.data = req ∧ reqOp req.toNat = op := by
  have := List.find?_some h
  simp only [Bool.and_eq_true, decide_eq_true_eq, beq_iff_eq] at this
  exact ⟨this.1.2.1, this.1.2.2, this.2⟩

/-- A request that is due acts on the state in which it has left those taken. -/
theorem acceptRequest_of_due (hrun : fieldRuns s c.fld = true) (h : dueRequest s c req op = some q) :
    acceptRequest s c req op =
      let v := (requestStream (afterTake s c q) c.fld req.toNat).getD (raiseStream (afterTake s c q) c.fld (reqStream req.toNat) 7 0)
      if op = 2 then streamsDone v c.fld else v := by
  obtain ⟨hsrc, hdata, hop⟩ := reqOp_of_due h
  have hu : (if q.src = 0 then modNet s c.fld fun n => { n with req := eraseFirst (· == q) n.req }
      else modCore (modNet s c.fld fun n => { n with req := eraseFirst (· == q) n.req }) (q.src - 1) (strmDone (slotOf s c.fld)))
      = afterTake s c q := by
    rw [hsrc, if_neg (Nat.succ_ne_zero _), Nat.add_sub_cancel]
    rfl
  simp only [acceptRequest, h, hrun, if_true, takeRequest, hu, hdata, hop]
  cases requestStream (afterTake s c q) c.fld req.toNat <;> rfl

/-- ARM restarts an unarmed stream that has a declared near base (R263). -/
theorem requestStream_arm {r : Nat} (hop : reqOp r = 0) (s : State) (c : CoreId) (q : ReqTaken) :
    let may := (streamOf s c.fld (reqStream r)).st = .unarmed ∧ tabGet 0 (fieldOf s c.fld).str.nbase (4 * reqStream r + bitsOf r 12 2) ≠ 0
    (may → requestStream (afterTake s c q) c.fld r =
      some (modStream (afterTake s c q) c.fld (reqStream r) fun y => { idleStream y with
        st := .active, persist := bitOf r 10, listOda := bitOf r 11, nbsel := bitsOf r 12 2,
        t0 := (slotOf s c.fld - anchorOf s c.fld (fieldOf s c.fld).cond.owner) / 4096, list := BitVec.ofNat 64 (bitsOf r 64 64),
        farbase := BitVec.ofNat 64 (bitsOf r 128 64) })) ∧
    (¬ may → requestStream (afterTake s c q) c.fld r = none) := by
  obtain ⟨hstr, hslot, hanc, -⟩ := requestStream_afterTake s c q
  rw [requestStream, hop]
  simp only [hstr, hslot, hanc, fieldOf_afterTake_same, Bool.not_eq_true', bne_eq_false_iff_eq]
  exact ⟨fun ⟨hst, hdecl⟩ => if_neg fun hno => hno.elim (absurd hst) hdecl, fun hno => if_pos (by simp only [not_and_or, not_not] at hno; exact hno)⟩

/-- RE-ARM restarts a done stream, and waits on one that is not (R263). -/
theorem requestStream_reArm {r : Nat} (hop : reqOp r = 1) (s : State) (c : CoreId) (q : ReqTaken) :
    let y := streamOf s c.fld (reqStream r)
    let t0 := (slotOf s c.fld - anchorOf s c.fld (fieldOf s c.fld).cond.owner) / 4096
    let fb := BitVec.ofNat 64 (bitsOf r 128 64)
    let may := y.st ≠ .unarmed ∧ tabGet 0 (fieldOf s c.fld).str.nbase (4 * reqStream r + bitsOf r 12 2) ≠ 0 ∧ y.releasing = false
    (may → y.st = .done → requestStream (afterTake s c q) c.fld r =
      some (modStream (afterTake s c q) c.fld (reqStream r) fun y => restart y t0 (bitsOf r 12 2) fb)) ∧
    (may → y.st ≠ .done → y.pend = false → requestStream (afterTake s c q) c.fld r =
      some (modStream (afterTake s c q) c.fld (reqStream r) fun y => { y with pend := true, pt0 := t0, pnbsel := bitsOf r 12 2, pfarbase := fb })) ∧
    (¬ may ∨ (y.st ≠ .done ∧ y.pend = true) → requestStream (afterTake s c q) c.fld r = none) := by
  obtain ⟨hstr, hslot, hanc, -⟩ := requestStream_afterTake s c q
  rw [requestStream, hop]
  simp only [hstr, hslot, hanc, fieldOf_afterTake_same, Bool.not_eq_true', bne_eq_false_iff_eq]
  refine ⟨fun ⟨hne, hdecl, hrel⟩ hdone => ?_, fun ⟨hne, hdecl, hrel⟩ hdone hpend => ?_, fun hor => ?_⟩
  · rw [if_neg (by simp [hne, hdecl, hrel]), if_pos hdone]
  · rw [if_neg (by simp [hne, hdecl, hrel]), if_neg hdone, if_neg (by simp [hpend])]
  · by_cases hno : (streamOf s c.fld (reqStream r)).st = .unarmed ∨
        tabGet 0 (fieldOf s c.fld).str.nbase (4 * reqStream r + bitsOf r 12 2) = 0 ∨ (streamOf s c.fld (reqStream r)).releasing = true
    · exact if_pos hno
    · obtain ⟨hdone, hpend⟩ := hor.resolve_left (by simpa [not_or] using hno)
      rw [if_neg hno, if_neg hdone, if_pos hpend]

/-- RELEASE unarms a stream, or waits for its open transfers (R263). -/
theorem requestStream_release {r : Nat} (hop : reqOp r = 2) (s : State) (c : CoreId) (q : ReqTaken) :
    let y := streamOf s c.fld (reqStream r)
    (y.st = .unarmed → requestStream (afterTake s c q) c.fld r = none) ∧
    (y.st ≠ .unarmed → openXfers s c.fld (reqStream r) = [] → requestStream (afterTake s c q) c.fld r =
      some (modStream (afterTake s c q) c.fld (reqStream r) idleStream)) ∧
    (y.st ≠ .unarmed → openXfers s c.fld (reqStream r) ≠ [] → requestStream (afterTake s c q) c.fld r =
      some (modStream (afterTake s c q) c.fld (reqStream r) fun y => { y with st := .active, releasing := true, pend := false, fkind := 0 })) := by
  obtain ⟨hstr, hslot, hanc, hopen⟩ := requestStream_afterTake s c q
  rw [requestStream, hop]
  simp only [hstr, hopen, Bool.not_eq_true', List.isEmpty_eq_false_iff]
  exact ⟨fun hun => if_pos hun, fun hun hnone => by rw [if_neg hun, if_neg (fun hne => hne hnone)], fun hun hne => by rw [if_neg hun, if_pos hne]⟩

/-- Settles O40: a request acts on the state in which it has left those taken, where its stream reads as before. -/
theorem streamRequestsTakeEffect : Obligations.StreamRequestsTakeEffect := by
  intro s c req q hrun hq f r st y nb t0 fb declared same due
  have none_due : ∀ op, dueRequest s c req op = none → acceptRequest s c req op = s := fun op h => by rw [acceptRequest, h]
  refine ⟨fun h => congrArg _ (none_due 0 h), fun h => congrArg _ (none_due 1 h), fun h => congrArg _ (none_due 2 h), fun h => ?_, fun h => ?_,
    fun h => ?_⟩
  · have hacc := acceptRequest_of_due hrun h
    obtain ⟨hyes, hno⟩ := requestStream_arm (reqOp_of_due h).2.2 s c q
    rw [if_neg (by decide)] at hacc
    refine ⟨_, congrArg Host.Outcome.next hacc, ?_⟩
    by_cases hmay : y.st = .unarmed ∧ declared
    · rw [hyes hmay, Option.getD_some]
      obtain ⟨htaken, hsame, hstem, hstr⟩ := acts_of_modStream s c q st fun y => { idleStream y with
        st := .active, persist := bitOf r 10, listOda := bitOf r 11, nbsel := nb, t0 := t0, list := BitVec.ofNat 64 (bitsOf r 64 64),
        farbase := fb }
      exact ⟨htaken, hsame, fun _ => ⟨hstem, hstr⟩, fun hnot => absurd hmay hnot⟩
    · rw [hno hmay, Option.getD_none]
      obtain ⟨htaken, hsame, hstr, hfault⟩ := acts_of_fault s c q st
      exact ⟨htaken, hsame, fun hnot => absurd hnot hmay, fun _ => ⟨hstr, hfault⟩⟩
  · have hacc := acceptRequest_of_due hrun h
    obtain ⟨hdoneR, hpendR, hno⟩ := requestStream_reArm (reqOp_of_due h).2.2 s c q
    rw [if_neg (by decide)] at hacc
    intro may
    refine ⟨_, congrArg Host.Outcome.next hacc, ?_⟩
    by_cases hbad : ¬ may ∨ (y.st ≠ .done ∧ y.pend = true)
    · rw [hno hbad, Option.getD_none]
      obtain ⟨htaken, hsame, hstr, hfault⟩ := acts_of_fault s c q st
      refine ⟨htaken, hsame, fun hmay hdone => ?_, fun hmay hdone hpend => ?_, fun _ => ⟨hstr, hfault⟩⟩
      · exact absurd hdone (hbad.resolve_left (not_not.2 hmay)).1
      · exact absurd (hbad.resolve_left (not_not.2 hmay)).2 (by simp [hpend])
    · obtain ⟨hmay, hgo⟩ := not_or.1 hbad
      replace hmay : may := not_not.1 hmay
      by_cases hdone : y.st = .done
      · rw [hdoneR hmay hdone, Option.getD_some]
        obtain ⟨htaken, hsame, hstem, hstr⟩ := acts_of_modStream s c q st fun y => restart y t0 nb fb
        exact ⟨htaken, hsame, fun _ _ => ⟨hstem, hstr⟩, fun _ hnot => absurd hdone hnot, fun hor => absurd hor hbad⟩
      · have hpend : y.pend = false := Bool.eq_false_iff.2 fun hp => hgo ⟨hdone, hp⟩
        rw [hpendR hmay hdone hpend, Option.getD_some]
        obtain ⟨htaken, hsame, hstem, hstr⟩ := acts_of_modStream s c q st fun y => { y with pend := true, pt0 := t0, pnbsel := nb, pfarbase := fb }
        exact ⟨htaken, hsame, fun _ hnot => absurd hnot hdone, fun _ _ _ => ⟨hstem, hstr⟩, fun hor => absurd hor hbad⟩
  · have hacc := acceptRequest_of_due hrun h
    obtain ⟨hno, hfree, hwait⟩ := requestStream_release (reqOp_of_due h).2.2 s c q
    rw [if_pos rfl] at hacc
    refine ⟨_, congrArg Host.Outcome.next hacc, ?_⟩
    by_cases hun : y.st = .unarmed
    · rw [hno hun, Option.getD_none]
      obtain ⟨htaken, hsame, hstr, hfault⟩ := acts_of_fault s c q st
      obtain ⟨htaken, hsettle, hstem, hkeep⟩ := release_settles htaken hsame
      refine ⟨htaken, hsettle, fun hnot => absurd hun hnot, fun hnot => absurd hun hnot, fun _ =>
        ⟨fun x => (hkeep x).trans (hstr x), streamFaults_of_stem hstem hfault⟩⟩
    · by_cases hopen : openXfers s f st = []
      · rw [hfree hun hopen, Option.getD_some]
        obtain ⟨htaken, hsame, hstem, hstr⟩ := acts_of_modStream s c q st idleStream
        obtain ⟨htaken, hsettle, hstem', hkeep⟩ := release_settles htaken hsame
        exact ⟨htaken, hsettle, fun _ _ => ⟨hstem'.trans hstem, (hkeep st).trans hstr.1, fun x hx => (hkeep x).trans (hstr.2 x hx)⟩,
          fun _ hne => absurd hopen hne, fun hnot => absurd hnot hun⟩
      · rw [hwait hun hopen, Option.getD_some]
        obtain ⟨htaken, hsame, hstem, hstr⟩ := acts_of_modStream s c q st fun y =>
          { y with st := .active, releasing := true, pend := false, fkind := 0 }
        obtain ⟨htaken, hsettle, hstem', hkeep⟩ := release_settles htaken hsame
        exact ⟨htaken, hsettle, fun _ hnot => absurd hnot hopen,
          fun _ _ => ⟨hstem'.trans hstem, (hkeep st).trans hstr.1, fun x hx => (hkeep x).trans (hstr.2 x hx)⟩, fun hnot => absurd hnot hun⟩

end Sys2Proof.Proofs.Requests
end

section
/-! SUPPORT. Descriptors and blocks (R247 to R272): what a fault, a fetch of a punnet and a block change, through the translation caches and the request bursts. -/

namespace Sys2Proof.Proofs.Descriptors

open Sys2Proof.Laws Sys2Proof.Machine Sys2Proof Sys2Proof.Proofs.Requests

variable {s t u : State} {f : Nat}

/-! ## Translation caches -/

/-- `t` is `s` with other entries in the translation caches of field `f`. -/
structure Caches (f : Nat) (s t : State) : Prop where
  rest : ∃ l, t = { s with fld := l }
  here : ∃ e c w, fieldOf t f = { fieldOf s f with str := { (fieldOf s f).str with etlb := e, tlb := c, walks := w } }
  other : ∀ g, g ≠ f → fieldOf t g = fieldOf s g

theorem caches_refl (f : Nat) (s : State) : Caches f s s := ⟨⟨s.fld, rfl⟩, ⟨_, _, _, rfl⟩, fun _ _ => rfl⟩

theorem caches_modStr (f : Nat) (s : State) {g : FieldStream → FieldStream} (hg : ∀ y, ∃ e c w, g y = { y with etlb := e, tlb := c, walks := w }) :
    Caches f s (modStr s f g) := by
  refine ⟨⟨_, rfl⟩, ?_, fun k hk => by rw [fieldOf_modStr, if_neg (Ne.symm hk)]⟩
  obtain ⟨e, c, w, h⟩ := hg (fieldOf s f).str
  exact ⟨e, c, w, by rw [fieldOf_modStr, if_pos rfl, ← h]⟩

theorem caches_translate (s : State) (f se asid dva : Nat) : Caches f s (Machine.translate s f se asid dva).2 := by
  unfold Machine.translate
  extract_lets d x keep
  have hkeep : ∀ z y, ∃ e c w, keep z y = { y with etlb := e, tlb := c, walks := w } := fun z y => ⟨_, _, _, rfl⟩
  split
  · exact caches_refl f s
  · split
    · exact caches_modStr f s (hkeep _)
    · split
      · exact caches_refl f s
      · exact caches_modStr f s fun y => ⟨_, _, _, rfl⟩

theorem caches_takeAccess (s : State) (f se a dva n : Nat) (wr : Bool) : Caches f s (takeAccess s f se a dva n wr).2 := by
  have h := caches_translate s f se a dva
  unfold takeAccess
  generalize Machine.translate s f se a dva = r at h
  obtain ⟨v, w⟩ := r
  cases v with
  | fault k => exact h
  | page e size =>
    dsimp only
    split_ifs
    all_goals exact h

/-- What a descriptor reads of its field is the same whatever the translation caches hold. -/
theorem Caches.stream (h : Caches f s t) : streamOf t f = streamOf s f := by
  obtain ⟨e, c, w, hf⟩ := h.here
  exact funext fun x => streamOf_of_str (by rw [hf]) x

theorem Caches.stem (h : Caches f s t) : t.stem = s.stem := by
  obtain ⟨l, rfl⟩ := h.rest
  rfl

/-! ## Faults -/

/-- A stream of field `f` that becomes another, with its descriptors as they were, raises what it would have raised. -/
theorem streamFaults_raiseStream {st kind dva : Nat} {y : Stream} (hs : u.stem = s.stem) (hslot : slotOf u f = slotOf s f)
    (hown : (fieldOf u f).cond.owner = (fieldOf s f).cond.owner) (hy : StreamIs s u f st y) (hdrain : y.draining = (streamOf s f st).draining)
    (hdesc : heldDesc y y.didx = heldDesc (streamOf s f st) (streamOf s f st).didx) : StreamFaults s (raiseStream u f st kind dva) f st kind dva := by
  rw [StreamFaults, raiseStream, hy.1, hdrain]
  split_ifs with hd
  · exact hs
  · rw [Raises, raise, hs, hslot, hown, streamDetail, streamDetail, streamTag, streamTag, hy.1, hdesc]

theorem raiseStream_frame (s : State) (f st kind dva : Nat) : ∃ b, raiseStream s f st kind dva = { s with stem := b } := by
  rw [raiseStream]
  split_ifs
  · exact ⟨_, rfl⟩
  · exact ⟨_, rfl⟩

/-- A stream faults at a block: it alone changes, beside the queue of events. -/
theorem faultStream_acts (s : State) (f st kind didx boff fdva : Nat) :
    StreamIs s (faultStream s f st kind didx boff fdva) f st
        { streamOf s f st with st := .faulted, fkind := kind, didx := didx, boff := boff, next := boff, fdva := fdva } ∧
      (didx = (streamOf s f st).didx → StreamFaults s (faultStream s f st kind didx boff fdva) f st kind fdva) ∧
      ∃ l b, faultStream s f st kind didx boff fdva = { s with fld := l, stem := b } := by
  rw [faultStream]
  have hy := streamIs_modStream s f st fun y => { y with st := .faulted, fkind := kind, didx := didx, boff := boff, next := boff, fdva := fdva }
  have hf : (fieldOf (modStream s f st fun y =>
      { y with st := .faulted, fkind := kind, didx := didx, boff := boff, next := boff, fdva := fdva }) f) = _ :=
    fieldOf_modStr (s := s) f f _
  rw [if_pos rfl] at hf
  have hu : ∃ l, (modStream s f st fun y => { y with st := .faulted, fkind := kind, didx := didx, boff := boff, next := boff, fdva := fdva }) =
      { s with fld := l } := ⟨_, rfl⟩
  generalize (modStream s f st fun y => { y with st := .faulted, fkind := kind, didx := didx, boff := boff, next := boff, fdva := fdva }) = u at *
  obtain ⟨l, hl⟩ := hu
  obtain ⟨b, hb⟩ := raiseStream_frame u f st kind fdva
  refine ⟨?_, fun hd => streamFaults_raiseStream (by rw [hl]) (by rw [slotOf, hf]; rfl) (by rw [hf]) hy rfl (by rw [hd]; rfl), l, b, by rw [hb, hl]⟩
  rw [hb]
  exact hy

/-! ## Transfers and their request bursts -/

theorem fieldOf_addXfer (s : State) (f : Nat) (x : Transfer) : fieldOf (addXfer s f x) f =
    { fieldOf s f with str := { (fieldOf s f).str with xfer := (fieldOf s f).str.xfer ++ [x] } } := by
  rw [addXfer, fieldOf_modStr, if_pos rfl]

theorem xferDie_addXfer (s : State) (f : Nat) (x : Transfer) : xferDie (addXfer s f x) x = xferDie s x := rfl

theorem openBurst_addXfer (s : State) (f se die : Nat) (x : Transfer) : openBurst (addXfer s f x) f se die = openBurst s f se die := by
  rw [openBurst, fieldOf_addXfer]
  rfl

/-- A flit that is sent leaves the stream complex as it is. -/
theorem sendOut_frame (s : State) (f se die tag : Nat) :
    (∃ l, sendOut s f se die tag = { s with fld := l }) ∧ (fieldOf (sendOut s f se die tag) f).str = (fieldOf s f).str := by
  unfold sendOut
  split
  · exact ⟨⟨_, rfl⟩, rfl⟩
  · exact ⟨⟨_, rfl⟩, by rw [fieldOf_modNet, if_pos rfl]⟩

/-- A transfer takes its tag, and its record joins a request burst where one is left for it (R249, R254). -/
theorem askXfer_acts (s : State) (f : Nat) (x : Transfer) :
    (BurstLeft s f x → ∃ t, askXfer s f x = some t ∧ Asked s t f x ∧ (∃ l, t = { s with fld := l }) ∧ (fieldOf t f).str.str = (fieldOf s f).str.str) ∧
      (¬ BurstLeft s f x → askXfer s f x = none) := by
  rw [askXfer, askRind]
  simp only [openBurst_addXfer, xferDie_addXfer]
  cases hb : openBurst s f (x.stream / 16) (xferDie s x) with
  | some b =>
    refine ⟨fun _ => ⟨_, rfl, ⟨?_, fun b' hb' => ?_, fun g hno _ => absurd (hb.symm.trans hno) (by simp)⟩, ⟨_, rfl⟩, ?_⟩,
      fun hno => absurd (Or.inl (by simp [hb])) hno⟩
    · rw [fieldOf_modStr, if_pos rfl, fieldOf_addXfer]
    · obtain rfl : b = b' := Option.some.inj (hb.symm.trans hb')
      rw [fieldOf_modStr, if_pos rfl, fieldOf_addXfer]
    · rw [fieldOf_modStr, if_pos rfl, fieldOf_addXfer]
  | none =>
    cases hg : freeTag (addXfer s f x) f with
    | none => exact ⟨fun hleft => absurd hleft (by simp [BurstLeft, hb, hg]), fun _ => rfl⟩
    | some g =>
      have hstr : (fieldOf (modStr (addXfer s f x) f fun y => { y with bursts := y.bursts ++
          [{ tag := g, se := x.stream / 16, die := xferDie s x, recs := [x.tag], size := 1 }] }) f).str = _ :=
        congrArg Field.str (fieldOf_modStr (s := addXfer s f x) f f _)
      rw [if_pos rfl, fieldOf_addXfer] at hstr
      have hl : ∃ l, (modStr (addXfer s f x) f fun y => { y with bursts := y.bursts ++
          [{ tag := g, se := x.stream / 16, die := xferDie s x, recs := [x.tag], size := 1 }] }) = { s with fld := l } := ⟨_, rfl⟩
      dsimp only
      generalize (modStr (addXfer s f x) f fun y => { y with bursts := y.bursts ++
          [{ tag := g, se := x.stream / 16, die := xferDie s x, recs := [x.tag], size := 1 }] }) = u at *
      obtain ⟨l, rfl⟩ := hl
      obtain ⟨⟨l', hsend⟩, hkeep⟩ := sendOut_frame { s with fld := l } f (x.stream / 16) (xferDie s x) g
      rw [hstr] at hkeep
      refine ⟨fun _ => ⟨_, rfl, ⟨by rw [hkeep], fun b hb' => absurd (hb.symm.trans hb') (by simp), fun g' _ hg' => ?_⟩, ⟨l', hsend⟩, by rw [hkeep]⟩,
        fun hno => absurd (Or.inr (by simp [hg])) hno⟩
      obtain rfl : g = g' := Option.some.inj (hg.symm.trans hg')
      rw [hkeep]

/-! ## Punnets -/

/-- The transfer that fetches punnet `p` of a stream from on-die memory. -/
def punnetXfer (s : State) (f st p tag : Nat) : Transfer :=
  { tag := tag, stream := st, didx := 16 * p, block := p, asid := (fieldOf s f).cond.owner, write := false, target := 4, far := 0,
    oda := punnetAddr (streamOf s f st) p, punnet := true }

theorem fetchPunnet_of_free {st p tag : Nat} {needed : Bool} (hopen : ∀ z ∈ openXfers s f st, z.punnet = false) (htag : freeTag s f = some tag) :
    fetchPunnet s f st p needed =
      let y := streamOf s f st
      let a := (fieldOf s f).cond.owner
      let addr := punnetAddr y p
      if y.listOda then
        if odaBacked s a addr 1024 then addXfer s f (punnetXfer s f st p tag) else if needed then faultStream s f st 5 (16 * p) 0 addr else s
      else
        match takeAccess s f (st / 16) a addr 1024 false with
        | (.inl k, t) => if needed then faultStream t f st k (16 * p) 0 (addr % 2 ^ 57) else t
        | (.inr (e, pa), t) =>
          (askXfer t f { punnetXfer s f st p tag with target := pteTarget e, far := pa, oda := 0, ctx := pteCtx e }).getD s := by
  have hno : ¬ ((openXfers s f st).any fun t => t.punnet) = true := by simpa using hopen
  unfold fetchPunnet
  rw [if_neg hno, htag]
  rfl

/-- The cases of the fetch of a punnet that is needed. -/
theorem fetchPunnet_cases {st p tag : Nat} (hopen : ∀ z ∈ openXfers s f st, z.punnet = false) (htag : freeTag s f = some tag) :
    let y := streamOf s f st
    let a := (fieldOf s f).cond.owner
    let addr := punnetAddr y p
    let t := fetchPunnet s f st p true
    (y.listOda = true → odaBacked s a addr 1024 = true → t = addXfer s f (punnetXfer s f st p tag)) ∧
    (y.listOda = true → odaBacked s a addr 1024 = false → t = faultStream s f st 5 (16 * p) 0 addr) ∧
    (∀ k u, y.listOda = false → takeAccess s f (st / 16) a addr 1024 false = (.inl k, u) → t = faultStream u f st k (16 * p) 0 (addr % 2 ^ 57)) ∧
    (∀ e pa u, y.listOda = false → takeAccess s f (st / 16) a addr 1024 false = (.inr (e, pa), u) →
      t = (askXfer u f { punnetXfer s f st p tag with target := pteTarget e, far := pa, oda := 0, ctx := pteCtx e }).getD s) := by
  intro y a addr t
  have ht : t = _ := fetchPunnet_of_free hopen htag
  refine ⟨fun hoda hb => ?_, fun hoda hb => ?_, fun k u hoda hk => ?_, fun e pa u hoda hk => ?_⟩
  · exact ht.trans ((if_pos hoda).trans (if_pos hb))
  · exact ht.trans ((if_pos hoda).trans ((if_neg (by rw [hb]; decide)).trans (if_pos rfl)))
  · refine ht.trans ((if_neg (by rw [hoda]; decide)).trans ?_)
    rw [hk]
    rfl
  · refine ht.trans ((if_neg (by rw [hoda]; decide)).trans ?_)
    rw [hk]

theorem fetchPunnet_of_none {st p : Nat} {needed : Bool} (htag : freeTag s f = none) : fetchPunnet s f st p needed = s := by
  rw [fetchPunnet, htag]
  split_ifs
  all_goals rfl

/-- A punnet that is not needed is fetched without a fault: no stream changes. -/
theorem fetchPunnet_streams (s : State) (f st p : Nat) : streamOf (fetchPunnet s f st p false) f = streamOf s f := by
  by_cases hopen : ∀ z ∈ openXfers s f st, z.punnet = false
  · cases htag : freeTag s f with
    | none => rw [fetchPunnet_of_none htag]
    | some tag =>
      rw [fetchPunnet_of_free hopen htag]
      dsimp only
      simp only [Bool.false_eq_true, if_false]
      split_ifs
      · exact funext fun x => streamOf_of_str (by rw [fieldOf_addXfer]) x
      · rfl
      · have hc := caches_takeAccess s f (st / 16) (fieldOf s f).cond.owner (punnetAddr (streamOf s f st) p) 1024 false
        generalize takeAccess s f (st / 16) (fieldOf s f).cond.owner (punnetAddr (streamOf s f st) p) 1024 false = r at hc
        obtain ⟨v, w⟩ := r
        replace hc : Caches f s w := hc
        cases v with
        | inl k => exact hc.stream
        | inr v =>
          obtain ⟨e, pa⟩ := v
          obtain ⟨hyes, hno⟩ := askXfer_acts w f { punnetXfer s f st p tag with target := pteTarget e, far := pa, oda := 0, ctx := pteCtx e }
          by_cases hleft : BurstLeft w f { punnetXfer s f st p tag with target := pteTarget e, far := pa, oda := 0, ctx := pteCtx e }
          · obtain ⟨t, ht, -, -, hstr⟩ := hyes hleft
            simp only [ht, Option.getD_some]
            rw [← hc.stream]
            exact funext fun x => streamOf_of_str hstr x
          · simp only [hno hleft, Option.getD_none]
  · have hyes : ((openXfers s f st).any fun t => t.punnet) = true := by simpa using hopen
    rw [fetchPunnet, if_pos hyes]

/-- What follows an admission through the translation caches. -/
theorem rest_of_caches (h : Caches f s u) (ht : ∃ l, t = { u with fld := l }) : ∃ l, t = { s with fld := l } := by
  obtain ⟨l, rfl⟩ := h.rest
  exact ht

/-- The memory stays through a fault or a transfer that is admitted through the translation caches. -/
theorem mem_of_frames (h : Caches f s u) (ht : ∃ l b, t = { u with fld := l, stem := b }) : t.mem = s.mem := by
  obtain ⟨l, rfl⟩ := h.rest
  obtain ⟨l', b, rfl⟩ := ht
  rfl

/-- A transfer that is admitted through the translation caches is asked for, or the state stays where no tag is left for its record. -/
theorem asked_of_caches (h : Caches f s u) (x : Transfer) :
    (BurstLeft u f x → Asked u ((askXfer u f x).getD s) f x ∧ (askXfer u f x).getD s = { s with fld := ((askXfer u f x).getD s).fld }) ∧
      (¬ BurstLeft u f x → (askXfer u f x).getD s = s) := by
  obtain ⟨hyes, hno⟩ := askXfer_acts u f x
  refine ⟨fun hleft => ?_, fun hleft => by rw [hno hleft, Option.getD_none]⟩
  obtain ⟨t, ht, hasked, hl, -⟩ := hyes hleft
  obtain ⟨l, hl⟩ := rest_of_caches h hl
  rw [ht, Option.getD_some]
  exact ⟨hasked, by rw [hl]⟩

theorem mem_fetchPunnet (s : State) (f st p : Nat) (needed : Bool) : (fetchPunnet s f st p needed).mem = s.mem := by
  by_cases hopen : ∀ z ∈ openXfers s f st, z.punnet = false
  · cases htag : freeTag s f with
    | none => rw [fetchPunnet_of_none htag]
    | some tag =>
      rw [fetchPunnet_of_free hopen htag]
      dsimp only
      have hfault : ∀ {u : State} k a, Caches f s u → (if needed then faultStream u f st k (16 * p) 0 a else u).mem = s.mem := fun k a hu => by
        split_ifs
        · obtain ⟨-, -, hfr⟩ := faultStream_acts _ f st k (16 * p) 0 a
          exact mem_of_frames hu hfr
        · exact mem_of_frames hu ⟨_, _, rfl⟩
      by_cases hoda : (streamOf s f st).listOda = true
      · rw [if_pos hoda]
        split
        · rfl
        · exact hfault 5 _ (caches_refl f s)
      · rw [if_neg hoda]
        have hc := caches_takeAccess s f (st / 16) (fieldOf s f).cond.owner (punnetAddr (streamOf s f st) p) 1024 false
        generalize takeAccess s f (st / 16) (fieldOf s f).cond.owner (punnetAddr (streamOf s f st) p) 1024 false = r at hc
        obtain ⟨v, w⟩ := r
        replace hc : Caches f s w := hc
        cases v with
        | inl k => exact hfault k _ hc
        | inr v =>
          obtain ⟨e, pa⟩ := v
          obtain ⟨hyes, hno⟩ := asked_of_caches hc { punnetXfer s f st p tag with target := pteTarget e, far := pa, oda := 0, ctx := pteCtx e }
          by_cases hleft : BurstLeft w f { punnetXfer s f st p tag with target := pteTarget e, far := pa, oda := 0, ctx := pteCtx e }
          · have hm := congrArg State.mem (hyes hleft).2
            exact hm
          · have hm := congrArg State.mem (hno hleft)
            exact hm
  · have hyes : ((openXfers s f st).any fun t => t.punnet) = true := by simpa using hopen
    rw [fetchPunnet, if_pos hyes]

/-- What a fault on the caches' state says of the state itself. -/
theorem faultStream_of_caches (h : Caches f s u) (st kind didx boff fdva : Nat) :
    let t := faultStream u f st kind didx boff fdva
    StreamIs s t f st { streamOf s f st with st := .faulted, fkind := kind, didx := didx, boff := boff, next := boff, fdva := fdva } ∧
      (didx = (streamOf s f st).didx → StreamFaults s t f st kind fdva) ∧ t.mem = s.mem := by
  obtain ⟨hy, hfault, hfr⟩ := faultStream_acts u f st kind didx boff fdva
  obtain ⟨e, c, w, hf⟩ := h.here
  rw [h.stream] at hy hfault
  refine ⟨streamIs_of_str hy (by rw [hf]), fun hd => ?_, mem_of_frames h hfr⟩
  have := hfault hd
  rw [StreamFaults, Raises] at this ⊢
  rw [h.stream, h.stem, slotOf, hf, streamDetail, streamTag, h.stream] at this
  exact this

/-! ## Starting a descriptor -/

/-- A stream that may begin a descriptor: it is active, and neither draining nor being released. -/
def mayBegin (s : State) (f st : Nat) : Prop :=
  fieldRuns s f = true ∧ (streamOf s f st).st = .active ∧ (streamOf s f st).draining = false ∧ (streamOf s f st).releasing = false

theorem descriptorStart_of_held {f : FieldIx} {st : Fin 256} {d : Nat} (h : mayBegin s f st) (hbeg : (streamOf s f st).begun = false)
    (hheld : heldDesc (streamOf s f st) (streamOf s f st).didx = some d) :
    descriptorStart s f st =
      if slotOf s f < anchorOf s f (fieldOf s f).cond.owner + 4096 * ((streamOf s f st).t0 + dStart d) then s else beginDesc s f st d := by
  obtain ⟨hrun, hact, hdrain, hrel⟩ := h
  rw [descriptorStart, if_neg (by simp [hrun, hact, hdrain, hrel, hbeg]), hheld]

theorem descriptorStart_of_not_held {f : FieldIx} {st : Fin 256} (h : mayBegin s f st) (hbeg : (streamOf s f st).begun = false)
    (hheld : heldDesc (streamOf s f st) (streamOf s f st).didx = none) :
    descriptorStart s f st = fetchPunnet s f st ((streamOf s f st).didx / 16) true := by
  obtain ⟨hrun, hact, hdrain, hrel⟩ := h
  rw [descriptorStart, if_neg (by simp [hrun, hact, hdrain, hrel, hbeg]), hheld]

/-- The state in which a descriptor of `total` blocks has begun, and the punnet that it is the last before is asked for (R258, R260). -/
def begun (s : State) (f st total : Nat) : State :=
  let s := modStream s f st fun y =>
    let lo := y.didx / 16 * 16
    { y with begun := true, next := y.boff, moved := y.boff, total := total, descs := y.descs.drop (lo - y.base), base := max lo y.base }
  let y := streamOf s f st
  if y.didx % 16 = 0 ∧ y.descs.length = 16 ∧ !(y.descs.any fun e => dLast e.toNat) then fetchPunnet s f st (y.didx / 16 + 1) false
  else s

theorem streamOf_begun (s : State) (f st total : Nat) :
    streamOf (begun s f st total) f st =
      let y := streamOf s f st
      let lo := y.didx / 16 * 16
      { y with begun := true, next := y.boff, moved := y.boff, total := total, descs := y.descs.drop (lo - y.base), base := max lo y.base } := by
  unfold begun
  extract_lets u y
  have hu : streamOf u f st = _ := streamOf_modStream s f st st _
  rw [if_pos rfl] at hu
  split_ifs
  · rw [fetchPunnet_streams]
    exact hu
  · exact hu

/-- A descriptor that begins is a fault of kind 6 where it breaks its rules, of kind 5 where memory does not back it, or has begun. -/
theorem beginDesc_acts (s : State) (f st d : Nat) :
    let y := streamOf s f st
    let near := nearOf (fieldOf s f) st y d
    let before := if y.didx = 0 then 0 else match heldDesc y (y.didx - 1) with | some e => dDue e | none => y.lastDue
    let t := beginDesc s f st d
    let fault := fun (k : Nat) => StreamFaults s t f st k (farOf y d) ∧
      StreamIs s t f st { y with st := .faulted, fkind := k, boff := 0, next := 0, fdva := farOf y d } ∧ t = { s with fld := t.fld, stem := t.stem }
    (descOk d (farOf y d) before = false → fault 6) ∧
    (descOk d (farOf y d) before = true → ((nearRanges near d).all fun r => odaBacked s (fieldOf s f).cond.owner r.1 r.2) = false → fault 5) ∧
    (descOk d (farOf y d) before = true → ((nearRanges near d).all fun r => odaBacked s (fieldOf s f).cond.owner r.1 r.2) = true →
      (streamOf t f st).begun = true ∧ (streamOf t f st).next = y.boff ∧ (streamOf t f st).moved = y.boff ∧
        (streamOf t f st).total = descTotal s near d ∧ (streamOf t f st).didx = y.didx) := by
  have hfault : ∀ k far, let t := faultStream s f st k (streamOf s f st).didx 0 far
      StreamFaults s t f st k far ∧
      StreamIs s t f st { streamOf s f st with st := .faulted, fkind := k, boff := 0, next := 0, fdva := far } ∧
      t = { s with fld := t.fld, stem := t.stem } := fun k far => by
    obtain ⟨hy, hf, l, b, ht⟩ := faultStream_acts s f st k (streamOf s f st).didx 0 far
    exact ⟨hf rfl, hy, by rw [ht]⟩
  intro y near before t fault
  have hbad : ∀ v : Bool, v = false → (!v) = true := fun v h => by rw [h]; rfl
  have hgood : ∀ v : Bool, v = true → ¬ (!v) = true := fun v h => by rw [h]; decide
  refine ⟨fun hv => ?_, fun hv hb => ?_, fun hv hb => ?_⟩
  · have ht : t = faultStream s f st 6 y.didx 0 (farOf y d) := if_pos (hbad _ hv)
    dsimp only [fault]
    rw [ht]
    exact hfault 6 _
  · have ht : t = faultStream s f st 5 y.didx 0 (farOf y d) := (if_neg (hgood _ hv)).trans (if_pos (hbad _ hb))
    dsimp only [fault]
    rw [ht]
    exact hfault 5 _
  · have ht : t = begun s f st (descTotal s near d) := (if_neg (hgood _ hv)).trans (if_neg (hgood _ hb))
    rw [ht, streamOf_begun]
    exact ⟨rfl, rfl, rfl, rfl, rfl⟩

/-! ## Issuing a block -/

/-- The transfer of the next block of a descriptor, once it is admitted with leaf entry `e` at address `pa`. -/
def blockXfer (s : State) (f st tag d near e pa : Nat) : Transfer :=
  let y := streamOf s f st
  let a := (fieldOf s f).cond.owner
  let wr := dOp d != 1
  { tag := tag, stream := st, didx := y.didx, block := y.next, asid := a, write := wr, target := pteTarget e, far := pa,
    oda := if dLayout d = 0 ∧ dOp d ≠ 3 then blockNear near d y.next else near, ctx := pteCtx e, mirror := wr && pteMirror e,
    iv := tabGet 0 (fieldOf s f).job.iv a }

theorem blockIssue_of_free {f : FieldIx} {st : Fin 256} {tag : Fin 2048} {d : Nat} (h : mayBegin s f st) (hbeg : (streamOf s f st).begun = true)
    (hnext : (streamOf s f st).next < (streamOf s f st).total) (hheld : heldDesc (streamOf s f st) (streamOf s f st).didx = some d)
    (htag : tagFree s f tag = true) :
    blockIssue s f st tag =
      let near := nearOf (fieldOf s f) st (streamOf s f st) d
      let dva := blockFar s near (farOf (streamOf s f st) d) d (streamOf s f st).next
      match takeAccess s f (st.val / 16) (fieldOf s f).cond.owner dva 4096 (dOp d != 1) with
      | (.inl k, u) => faultStream u f st k (streamOf s f st).didx (streamOf s f st).next dva
      | (.inr (e, pa), u) => (issueBlock u f st tag d near e pa).getD s := by
  obtain ⟨hrun, hact, hdrain, hrel⟩ := h
  rw [blockIssue, if_neg (by simp [hrun, hact, hdrain, hrel, hbeg, hnext, htag]), hheld] <;> rfl

/-- The block of a stream whose translation caches alone have changed is the block of the stream. -/
theorem issueBlock_of_caches {f : FieldIx} (h : Caches f s u) (st tag d near e pa : Nat) :
    issueBlock u f st tag d near e pa =
      (askXfer u f (blockXfer s f st tag d near e pa)).map fun t => modStream t f st fun y => { y with next := (streamOf s f st).next + 1 } := by
  obtain ⟨e', c, w, hf⟩ := h.here
  rw [issueBlock, h.stream, hf]
  rfl

/-- A block that is admitted through the translation caches is asked for, and its stream goes on to the next; with no tag left it waits. -/
theorem issueBlock_acts {f : FieldIx} (h : Caches f s u) (st tag d near e pa : Nat) :
    let x := blockXfer s f st tag d near e pa
    let t := (issueBlock u f st tag d near e pa).getD s
    (BurstLeft u f x → Asked u t f x ∧ StreamIs s t f st { streamOf s f st with next := (streamOf s f st).next + 1 } ∧ t = { s with fld := t.fld }) ∧
      (¬ BurstLeft u f x → t = s) := by
  intro x t
  have ht : t = _ := congrArg (Option.getD · s) (issueBlock_of_caches h st tag d near e pa)
  obtain ⟨hyes, hno⟩ := askXfer_acts u f x
  refine ⟨fun hleft => ?_, fun hleft => ?_⟩
  · obtain ⟨v, hv, ⟨hx, hb, hn⟩, hl, hstr⟩ := hyes hleft
    obtain ⟨l, hl⟩ := rest_of_caches h hl
    obtain ⟨e', c, w, hf⟩ := h.here
    have hsame : (fieldOf v f).str.str = (fieldOf s f).str.str := hstr.trans (by rw [hf])
    rw [show askXfer u f (blockXfer s f st tag d near e pa) = some v from hv, Option.map_some, Option.getD_some] at ht
    have hrest : (fieldOf t f).str = { (fieldOf v f).str with str := (fieldOf t f).str.str } := by
      rw [ht, modStream, fieldOf_modStr, if_pos rfl]
    have hy := streamIs_modStream v f st fun y => { y with next := (streamOf s f st).next + 1 }
    rw [streamOf_of_str hsame, ← ht] at hy
    refine ⟨⟨by rw [hrest]; exact hx, fun b hbb => by rw [hrest]; exact hb b hbb, fun g hg hfree => by rw [hrest]; exact hn g hg hfree⟩,
      streamIs_of_str hy hsame, ?_⟩
    rw [ht, hl]
    rfl
  · rw [show askXfer u f (blockXfer s f st tag d near e pa) = none from hno hleft] at ht
    exact ht

/-- Settles O41: a fault, a fetch or a block leaves the rest through the caches' frame and the request burst's. -/
theorem descriptorsBeginAndBlocksIssue : Obligations.DescriptorsBeginAndBlocksIssue := by
  intro s f st hrun x y a hact hdrain hrel
  have hmay : mayBegin s f st := ⟨hrun, hact, hdrain, hrel⟩
  refine ⟨fun d hbeg hheld => ?_, fun hbeg hheld hopen => ?_, fun tag htag => ?_, fun d tag hbeg hnext hheld htag => ?_⟩
  · have hstart := descriptorStart_of_held hmay hbeg hheld
    obtain ⟨h6, h5, hgo⟩ := beginDesc_acts s f st d
    intro soon before near valid backed fault
    refine ⟨fun hsoon => congrArg Host.Outcome.next (hstart.trans (if_pos hsoon)), fun hsoon => ⟨_, congrArg Host.Outcome.next (hstart.trans (if_neg hsoon)),
      fun hno => h6 (Bool.eq_false_iff.2 hno), fun hv hno => h5 hv ?_, fun hv hb => hgo hv (List.all_eq_true.2 hb)⟩⟩
    exact Bool.eq_false_iff.2 fun hall => hno (List.all_eq_true.1 hall)
  · have hstart := descriptorStart_of_not_held hmay hbeg hheld
    intro p addr z
    refine ⟨fun hnone => congrArg Host.Outcome.next (hstart.trans (fetchPunnet_of_none hnone)), fun tag htag => ?_⟩
    obtain ⟨hback, hfault, hdeny, hadmit⟩ := fetchPunnet_cases (p := p) hopen htag
    have hc := caches_takeAccess s f (st.val / 16) a addr 1024 false
    refine ⟨_, congrArg Host.Outcome.next hstart, mem_fetchPunnet s f st p true, fun hoda hb => ?_, fun hoda hb => ?_, fun k s' hoda hk => ?_,
      fun e pa s' hoda hk => ?_⟩
    · rw [hback hoda hb, fieldOf_addXfer]
      exact ⟨rfl, rfl⟩
    · rw [hfault hoda hb]
      exact (faultStream_acts s f st 5 (16 * p) 0 addr).1
    · rw [hdeny k s' hoda hk]
      rw [hk] at hc
      exact (faultStream_of_caches hc st k (16 * p) 0 (addr % 2 ^ 57)).1
    · rw [hadmit e pa s' hoda hk]
      rw [hk] at hc
      exact asked_of_caches hc _
  · exact congrArg Host.Outcome.next (by rw [blockIssue, if_pos (by simp [htag])])
  · have hissue := blockIssue_of_free hmay hbeg hnext hheld htag
    intro near dva wr
    have hc := caches_takeAccess s f (st.val / 16) a dva 4096 wr
    have hres : blockIssue s f st tag = match takeAccess s f (st.val / 16) a dva 4096 wr with
      | (.inl k, u) => faultStream u f st k y.didx y.next dva
      | (.inr (e, pa), u) => (issueBlock u f st tag d near e pa).getD s := hissue
    generalize takeAccess s f (st.val / 16) a dva 4096 wr = r at *
    obtain ⟨v, u⟩ := r
    replace hc : Caches f s u := hc
    cases v with
    | inl k =>
      obtain ⟨hy, hfault, hmem⟩ := faultStream_of_caches hc st k y.didx y.next dva
      refine ⟨_, congrArg Host.Outcome.next hres, hmem, fun k' s' hk => ?_, fun e pa s' hk => nomatch hk⟩
      obtain ⟨rfl, rfl⟩ : k = k' ∧ u = s' := by simpa using hk
      exact ⟨hy, hfault rfl⟩
    | inr v =>
      obtain ⟨e, pa⟩ := v
      obtain ⟨hyes, hno⟩ := issueBlock_acts hc st tag d near e pa
      refine ⟨_, congrArg Host.Outcome.next hres, ?_, fun k s' hk => (nomatch hk), fun e' pa' s' hk => ?_⟩
      · by_cases hleft : BurstLeft u f (blockXfer s f st tag d near e pa)
        · have hm := congrArg State.mem (hyes hleft).2.2
          exact hm
        · have hm := congrArg State.mem (hno hleft)
          exact hm
      · obtain ⟨⟨rfl, rfl⟩, rfl⟩ : (e = e' ∧ pa = pa') ∧ u = s' := by simpa using hk
        exact ⟨hyes, hno⟩

end Sys2Proof.Proofs.Descriptors
end

section
/-! SUPPORT. Reads of the tiers by the rind (R254 to R256, R278, R281, R356): what a rind unit that has a request record answers. -/

namespace Sys2Proof.Proofs.TierReads

open Sys2Proof.Laws Sys2Proof.Machine Sys2Proof Sys2Proof.Proofs.Links Sys2Proof.Proofs.Spares

variable {s t u : State}

/-! ## The first transfer with a tag -/

theorem find?_modFirst {α : Type} {p : α → Bool} {g : α → α} (hg : ∀ x, p x = true → p (g x) = true) (l : List α) :
    (modFirst p g l).find? p = (l.find? p).map g := by
  induction l with
  | nil => rfl
  | cons x l ih =>
    by_cases hx : p x = true
    · simp [modFirst, hx, hg x hx]
    · simp [modFirst, hx, ih]

theorem fieldOf_modXfer_same (s : State) (f tag : Nat) (g : Transfer → Transfer) :
    fieldOf (modXfer s f tag g) f =
      { fieldOf s f with str := { (fieldOf s f).str with xfer := modFirst (fun t => t.tag == tag) g (fieldOf s f).str.xfer } } := by
  rw [modXfer, fieldOf_modStr, if_pos rfl]

theorem fieldOf_modXfer_other {f k : Nat} (h : k ≠ f) (s : State) (tag : Nat) (g : Transfer → Transfer) :
    fieldOf (modXfer s f tag g) k = fieldOf s k := by
  rw [modXfer, fieldOf_modStr, if_neg (Ne.symm h)]

theorem xferOf_of_xfer {f : Nat} (h : (fieldOf t f).str.xfer = (fieldOf s f).str.xfer) (tag : Nat) : xferOf t f tag = xferOf s f tag := by
  rw [xferOf, h, xferOf]

theorem xferOf_modXfer (s : State) (f tag : Nat) {g : Transfer → Transfer} (hg : ∀ y, (g y).tag = y.tag) :
    xferOf (modXfer s f tag g) f tag = (xferOf s f tag).map g := by
  rw [xferOf, fieldOf_modXfer_same]
  exact find?_modFirst (fun x hx => by rw [hg]; exact hx) _

theorem xferOf_modXfer_some {f tag : Nat} {x : Transfer} {g : Transfer → Transfer} (h : xferOf s f tag = some x) (hg : ∀ y, (g y).tag = y.tag) :
    xferOf (modXfer s f tag g) f tag = some (g x) := by
  rw [xferOf_modXfer s f tag hg, h, Option.map_some]

/-! ## What a tier controller hands on -/

/-- A block as a tier's controller reads it with some bits wrong. -/
def misread (missed : List Nat) (b : BlockData) : BlockData :=
  tierBlock (missed.foldl (fun v n => v ^^^ 2 ^ (n % 32768)) b.data.toNat) b.bmask.toNat

/-- The block that the controller hands on: with every granule bruised where its CRC differs from its CHECK (R356; log 131). -/
def handedOn (missed : List Nat) (b : BlockData) : BlockData :=
  if missed = [] then b else if (misread missed b).check = b.check then misread missed b else allBruised (misread missed b)

/-- What the read of a tier changes: its bruise bits, the channels in power-down and the queue of events. -/
def tierView (s : State) : State := { s with mem := { s.mem with nearBr := [], farBr := [], down := [] }, stem := {} }

/-- What the read of a tier leaves as it was. -/
theorem same_of_tierView (h : tierView t = tierView s) : t.fld = s.fld ∧ t.mem.near = s.mem.near ∧ t.mem.far = s.mem.far := by
  have hfld := congrArg State.fld h
  have hmem := congrArg State.mem h
  have hnear := congrArg Mem.near hmem
  have hfar := congrArg Mem.far hmem
  exact ⟨hfld, hnear, hfar⟩

theorem tierChecked_acts (s : State) (die a asid : Nat) (missed : List Nat) (b : BlockData) :
    (∃ e, (tierChecked s die a asid missed b).2 = { s with stem := e }) ∧ (tierChecked s die a asid missed b).1 = handedOn missed b ∧
      (missed ≠ [] → (misread missed b).check ≠ b.check →
        ∃ e ∈ (tierChecked s die a asid missed b).2.stem.events, e.code = 0x0105 ∧ e.src = dieAddr die) ∧
      (missed = [] → (tierChecked s die a asid missed b).2 = s) := by
  by_cases hm : missed = []
  · subst hm
    exact ⟨⟨s.stem, rfl⟩, rfl, fun hne => absurd rfl hne, fun _ => rfl⟩
  · have hread : tierChecked s die a asid missed b =
        if (misread missed b).check = b.check then (misread missed b, s) else (allBruised (misread missed b), raiseDie s die 0x0105 asid a 0) :=
      if_neg (by simpa using hm)
    rw [handedOn, if_neg hm]
    by_cases hc : (misread missed b).check = b.check
    · rw [if_pos hc] at hread ⊢
      rw [hread]
      exact ⟨⟨s.stem, rfl⟩, rfl, fun _ hne => absurd hc hne, fun h => absurd h hm⟩
    · rw [if_neg hc] at hread ⊢
      rw [hread]
      exact ⟨⟨_, rfl⟩, rfl, fun _ _ => exists_event_raiseDie _ _ _ _ _ _, fun h => absurd h hm⟩

/-- The corrected granules of a block are reported (R278, R281). -/
def reportSoft (die : State → Nat) (code a : Nat) (l : List Nat) (s : State) : State :=
  l.foldl (fun t g => raiseDie t (die t) code 0 (64 * ((a + 64 * (g % 64)) / 64)) 0) s

theorem reportSoft_frame (die : State → Nat) (code a : Nat) (l : List Nat) (s : State) : ∃ e, reportSoft die code a l s = { s with stem := e } := by
  unfold reportSoft
  induction l generalizing s with
  | nil => exact ⟨_, rfl⟩
  | cons g l ih => exact ih _

/-- The granules of a block that a tier cannot correct are bruised by `mark`, and reported (R278, R281). -/
def bruiseHard (mark : State → Nat → State) (die : State → Nat) (code a asid : Nat) (l : List Nat) (s : State) : State :=
  l.foldl (fun t g => raiseDie (mark t ((a + 64 * (g % 64)) / 64)) (die t) code asid (64 * ((a + 64 * (g % 64)) / 64)) 0) s

/-- `mark` sets one bruise bit of a tier, that `br` reads. -/
structure Marks (mark : State → Nat → State) (br : State → Tab Bool) : Prop where
  view : ∀ s n, tierView (mark s n) = tierView s
  here : ∀ s n, tabGet false (br (mark s n)) n = true
  keeps : ∀ s n k, tabGet false (br s) k = true → tabGet false (br (mark s n)) k = true
  stem : ∀ s e, br { s with stem := e } = br s

theorem marks_near : Marks (fun t n => { t with mem := { t.mem with nearBr := brSet t.mem.nearBr n true } }) (·.mem.nearBr) where
  view _ _ := rfl
  here s n := by simp [brSet]
  keeps s n k h := by
    simp only [brSet, tabGet_put]
    split_ifs
    · rfl
    · exact h
  stem _ _ := rfl

theorem marks_far : Marks (fun t n => { t with mem := { t.mem with farBr := brSet t.mem.farBr n true } }) (·.mem.farBr) where
  view _ _ := rfl
  here s n := by simp [brSet]
  keeps s n k h := by
    simp only [brSet, tabGet_put]
    split_ifs
    · rfl
    · exact h
  stem _ _ := rfl

theorem bruiseHard_acts {mark : State → Nat → State} {br : State → Tab Bool} (h : Marks mark br) (die : State → Nat) (code a asid : Nat)
    (l : List Nat) (s : State) :
    tierView (bruiseHard mark die code a asid l s) = tierView s ∧
      ∀ g ∈ l, tabGet false (br (bruiseHard mark die code a asid l s)) ((a + 64 * (g % 64)) / 64) = true := by
  unfold bruiseHard
  refine ⟨foldl_keeps tierView (fun t g => ?_) l s, fun g hg => ?_⟩
  · exact h.view t ((a + 64 * (g % 64)) / 64)
  · refine foldl_reaches (I := fun _ => True) (P := fun t => tabGet false (br t) ((a + 64 * (g % 64)) / 64) = true) hg (fun _ _ _ => trivial)
      (fun t k ht => ?_) (fun t _ => ?_) trivial
    · have := h.keeps t ((a + 64 * (k % 64)) / 64) _ ht
      rw [← h.stem] at this
      exact this
    · have := h.here t ((a + 64 * (g % 64)) / 64)
      rw [← h.stem] at this
      exact this

/-- `t` is `s` after the read of a block of a tier: the block `b` that it hands on is read with the bruises of the tier as they are afterwards. -/
structure TierGives (s : State) (br : State → Tab Bool) (block : State → Nat → BlockData) (die a : Nat) (found : TierRead) (b : BlockData)
    (t : State) : Prop where
  reads : b = handedOn found.missed (block t a)
  hard : ∀ g ∈ tierHard found, tabGet false (br t) ((a + 64 * (g % 64)) / 64) = true
  wrong : found.missed ≠ [] → (misread found.missed (block t a)).check ≠ (block t a).check →
    ∃ e ∈ t.stem.events, e.code = 0x0105 ∧ e.src = dieAddr die
  clean : found = {} → br t = br s ∧ t.stem = s.stem

theorem tierGives_of_read {mark : State → Nat → State} {br : State → Tab Bool} (h : Marks mark br) {die : State → Nat} {block : State → Nat → BlockData}
    {a asid soft hard key : Nat} {found : TierRead} {r : BlockData × State} (hdie : ∀ v, tierView v = tierView s → die v = die s)
    (hblock : ∀ v e, block { v with stem := e } a = block v a) (hwake : br (wakeChan s key) = br s)
    (hread : let v := bruiseHard mark die hard a asid (tierHard found) (reportSoft die soft a (tierSoft found) (wakeChan s key))
      r = tierChecked v (die v) a asid found.missed (block v a)) :
    tierView r.2 = tierView s ∧ TierGives s br block (die s) a found r.1 r.2 := by
  obtain ⟨e, hu⟩ := reportSoft_frame die soft a (tierSoft found) (wakeChan s key)
  obtain ⟨hview, hhard⟩ := bruiseHard_acts h die hard a asid (tierHard found) (reportSoft die soft a (tierSoft found) (wakeChan s key))
  have hempty : found = {} → bruiseHard mark die hard a asid (tierHard found) (reportSoft die soft a (tierSoft found) (wakeChan s key)) =
      wakeChan s key := fun hf => by
    subst hf
    simp [bruiseHard, reportSoft, tierHard, tierSoft]
  have hv := hview.trans (by rw [hu]; rfl : _ = tierView s)
  dsimp only at hread
  generalize bruiseHard mark die hard a asid (tierHard found) (reportSoft die soft a (tierSoft found) (wakeChan s key)) = v at *
  obtain ⟨⟨st, hst⟩, hreads, hwrong, hnone⟩ := tierChecked_acts v (die v) a asid found.missed (block v a)
  rw [← hread] at hst hreads hwrong hnone
  refine ⟨?_, ?_, ?_, ?_, fun hf => ?_⟩
  · rw [hst]
    exact hv
  · rw [hreads, hst]
    exact congrArg (handedOn found.missed) (hblock v st).symm
  · rw [hst, h.stem]
    exact hhard
  · rw [hdie v hv, hst] at hwrong
    rw [hst, hblock]
    exact hwrong
  · rw [hnone (by rw [hf]), hempty hf]
    exact ⟨hwake, rfl⟩

theorem readNear_acts {a : Nat} (hin : a / 4096 < nearBlocks s) (asid : Nat) (found : TierRead) :
    tierView (readNear s a asid found).2 = tierView s ∧
      TierGives s (·.mem.nearBr) nearBlock (nearDie s a) a found (readNear s a asid found).1 (readNear s a asid found).2 :=
  tierGives_of_read (die := (nearDie · a)) marks_near (fun v hv => by have h := congrArg (nearDie · a) hv; exact h) (fun _ _ => rfl) rfl
    (if_neg (Nat.not_le.2 hin))

theorem readFar_acts {a : Nat} (hin : a + 4096 ≤ farBytes s) (asid : Nat) (found : TierRead) :
    tierView (readFar s a asid found).2 = tierView s ∧
      TierGives s (·.mem.farBr) farBlock (farDie s a) a found (readFar s a asid found).1 (readFar s a asid found).2 :=
  tierGives_of_read (die := (farDie · a)) marks_far (fun v hv => by have h := congrArg (farDie · a) hv; exact h) (fun _ _ => rfl) rfl
    (if_neg (Nat.not_lt.2 hin))

/-! ## Housekeeping of the request bursts and credits -/

/-- What a change of the bursts, the credits or the outbound flits of a field leaves as it was. -/
def burstView (f : Nat) (s : State) : State × List Transfer × Tab Stream × FieldCond × FieldClock × List Carry :=
  ({ s with fld := [] }, (fieldOf s f).str.xfer, (fieldOf s f).str.str, (fieldOf s f).cond, (fieldOf s f).clk, (fieldOf s f).net.inb)

theorem burstView_modField {f : Nat} (s : State) {g : Field → Field} (hg : ∀ x, (g x).str.xfer = x.str.xfer ∧ (g x).str.str = x.str.str ∧
    (g x).cond = x.cond ∧ (g x).clk = x.clk ∧ (g x).net.inb = x.net.inb) : burstView f (modField s f g) = burstView f s := by
  obtain ⟨hx, hs, hc, hk, hi⟩ := hg (fieldOf s f)
  have h : fieldOf (modField s f g) f = g (fieldOf s f) := by rw [fieldOf_modField, if_pos rfl]
  rw [burstView, h, hx, hs, hc, hk, hi]
  rfl

theorem burstView_returnCredits (s : State) (f die : Nat) : burstView f (returnCredits s f die) = burstView f s := by
  refine foldl_keeps (burstView f) (fun t k => ?_) _ s
  dsimp only
  split
  · rfl
  · exact burstView_modField t fun _ => ⟨rfl, rfl, rfl, rfl, rfl⟩

theorem burstView_dropRecord (s : State) (f tag : Nat) : burstView f (dropRecord s f tag) = burstView f s := by
  unfold dropRecord
  split
  · rfl
  · exact burstView_modField s fun x => by split <;> exact ⟨rfl, rfl, rfl, rfl, rfl⟩

theorem burstView_owesCredit (s : State) (f : Nat) (x : Transfer) : burstView f (owesCredit s f x) = burstView f s := by
  unfold owesCredit
  split
  · rfl
  · exact burstView_modField s fun _ => ⟨rfl, rfl, rfl, rfl, rfl⟩

theorem burstView_sendOut (s : State) (f se die tag : Nat) : burstView f (sendOut s f se die tag) = burstView f s := by
  unfold sendOut
  split
  · rfl
  · exact burstView_modField s fun _ => ⟨rfl, rfl, rfl, rfl, rfl⟩

theorem burstView_askRind (s : State) (f : Nat) (x : Transfer) : burstView f ((askRind s f x).getD s) = burstView f s := by
  unfold askRind
  dsimp only
  split
  · exact burstView_modField s fun _ => ⟨rfl, rfl, rfl, rfl, rfl⟩
  · split
    · rfl
    · exact (burstView_sendOut _ _ _ _ _).trans (burstView_modField s fun _ => ⟨rfl, rfl, rfl, rfl, rfl⟩)

theorem burstView_askAgain (s : State) (f : Nat) : burstView f (askAgain f s) = burstView f s :=
  foldl_keeps (burstView f) (fun t x => burstView_askRind t f x) _ s

/-- Two states with the same view are the same but in their fields. -/
theorem rest_of_burstView {f : Nat} (h : burstView f t = burstView f s) : t = { s with fld := t.fld } := by
  have hrest : { t with fld := [] } = { s with fld := [] } := congrArg Prod.fst h
  exact congrArg (fun u : State => { u with fld := t.fld }) hrest

theorem xferOf_of_burstView {f : Nat} (h : burstView f t = burstView f s) (tag : Nat) : xferOf t f tag = xferOf s f tag :=
  xferOf_of_xfer (congrArg (fun v => v.2.1) h) tag

/-- What an event of a stream reports of its field. -/
theorem field_of_burstView {f : Nat} (h : burstView f t = burstView f s) :
    (fieldOf t f).str.str = (fieldOf s f).str.str ∧ (fieldOf t f).cond = (fieldOf s f).cond ∧ (fieldOf t f).clk = (fieldOf s f).clk ∧
      (fieldOf t f).net.inb = (fieldOf s f).net.inb :=
  ⟨congrArg (fun v => v.2.2.1) h, congrArg (fun v => v.2.2.2.1) h, congrArg (fun v => v.2.2.2.2.1) h, congrArg (fun v => v.2.2.2.2.2) h⟩

/-! ## A request record that a rind unit takes -/

/-- The state in which a rind unit has a transfer's record, with the credits that its OUT header returned. -/
def recorded (s : State) (f tag die : Nat) : State :=
  modXfer (dropRecord (returnCredits s f die) f tag) f tag fun t => { t with known := true }

theorem recorded_acts {f tag : Nat} {x : Transfer} (hx : xferOf s f tag = some x) (die : Nat) :
    xferOf (recorded s f tag die) f tag = some { x with known := true } ∧ ∃ l, recorded s f tag die = { s with fld := l } := by
  have hv := (burstView_dropRecord _ f tag).trans (burstView_returnCredits s f die)
  have hx' := (xferOf_of_burstView hv tag).trans hx
  have hrest : ∃ l, dropRecord (returnCredits s f die) f tag = { s with fld := l } := ⟨_, rest_of_burstView hv⟩
  unfold recorded
  generalize dropRecord (returnCredits s f die) f tag = u at hx' hrest
  obtain ⟨l, rfl⟩ := hrest
  refine ⟨?_, _, rfl⟩
  exact xferOf_modXfer_some hx' fun _ => rfl

/-- A read or a fetch by a rind unit that has its record. -/
theorem rindRequest_of_read {f : FieldIx} {tag : Fin 2048} {x : Transfer} {found : TierRead} {host : Option BlockData}
    (hclk : fieldClocked s f = true) (hx : xferOf s f tag = some x) (htgt : x.target ≠ 4) (hwr : x.write = false) (hbody : x.body = none)
    (hout : tabGet false s.dom.rindOut (xferDie s x) = false)
    (hrec : x.known = true ∨ ∃ b, burstOf s f tag = some b ∧ outArrived s f b.tag = true) (hu : recorded s f tag (xferDie s x) = u) :
    rindRequest s f tag found host =
      if x.target = 0 then
        modXfer (readNear u x.far x.asid found).2 f tag fun t => { t with body := some (readNear u x.far x.asid found).1 }
      else if x.target = 1 then
        modXfer (readFar u x.far x.asid found).2 f tag fun t => { t with body := some (readFar u x.far x.asid found).1 }
      else if x.target = 2 then
        match host, cxlPortFor u x.far with
        | some b, some _ => modXfer u f tag fun t => { t with body := some { b with check := BitVec.ofNat 32 (crc32c 4096 b.data.toNat) } }
        | _, _ => u
      else requestPartner u f x := by
  have hasked : ∀ v : Bool, x.known = true ∨ v = true → ¬ (!x.known && !v) = true := fun v hor => by
    obtain hk | hv := hor
    · simp [hk]
    · simp [hv]
  unfold rindRequest
  split
  · next hnone => exact absurd (hx.symm.trans hnone) (by simp)
  next y hy =>
  obtain rfl : x = y := Option.some.inj (hx.symm.trans hy)
  extract_lets die v
  have hv : v = u := hu
  have hd : tabGet false s.dom.rindOut die = false := hout
  clear_value v die
  subst hv
  generalize readNear v x.far x.asid found = near
  generalize readFar v x.far x.asid found = far
  obtain ⟨b₀, v₀⟩ := near
  obtain ⟨b₁, v₁⟩ := far
  rw [if_neg (by simp [hclk, htgt]), if_neg (by rw [hd]; decide), if_neg (hasked _ ?asked), if_neg (by simp [hwr, hbody])]
  case asked => exact hrec.imp id fun ⟨b, hb, ha⟩ => by rw [hb]; exact ha
  -- In one file with the model the two sides' matches are one, and nothing is left to show.
  all_goals
    by_cases h0 : x.target = 0
    · rw [if_pos h0, if_pos h0]
    · by_cases h1 : x.target = 1
      · rw [if_neg h0, if_pos h1, if_neg h0, if_pos h1]
      · by_cases h2 : x.target = 2
        · refine (if_neg h0).trans ((if_neg h1).trans ((if_pos h2).trans (Eq.trans ?_ ((if_neg h0).trans ((if_neg h1).trans (if_pos h2))).symm)))
          cases host <;> cases cxlPortFor v x.far <;> rfl
        · rw [if_neg h0, if_neg h1, if_neg h2, if_neg h0, if_neg h1, if_neg h2]

/-! ## What a request to a partner leaves as it was -/

/-- Each event of `s` stands in `t` with its code and its source. -/
def Tells (s t : State) : Prop := ∀ e ∈ s.stem.events, ∃ e' ∈ t.stem.events, e'.code = e.code ∧ e'.src = e.src

theorem tells_of_stem (h : t.stem = s.stem) : Tells s t := fun e he => ⟨e, h ▸ he, rfl, rfl⟩

theorem Tells.trans (h : Tells s t) (h' : Tells t u) : Tells s u := fun e he => by
  obtain ⟨e₁, h₁, hc₁, hs₁⟩ := h e he
  obtain ⟨e₂, h₂, hc₂, hs₂⟩ := h' e₁ h₁
  exact ⟨e₂, h₂, hc₂.trans hc₁, hs₂.trans hs₁⟩

theorem tells_raise (s : State) (m : ErrMsg) : Tells s (raise s m) := fun e he => by
  show ∃ e' ∈ mergeEvent m s.stem.events, _
  generalize s.stem.events = l at he
  induction l with
  | nil => exact absurd he List.not_mem_nil
  | cons x l ih =>
    unfold mergeEvent
    rcases List.mem_cons.1 he with rfl | he
    · split
      · exact ⟨_, List.mem_cons_self, rfl, rfl⟩
      · exact ⟨e, List.mem_cons_self, rfl, rfl⟩
    · split
      · exact ⟨e, List.mem_cons_of_mem _ he, rfl, rfl⟩
      · obtain ⟨e', he', h⟩ := ih he
        exact ⟨e', List.mem_cons_of_mem _ he', h⟩

/-- The memories and the stem. -/
def memStem (s : State) : Mem × Stem := (s.mem, s.stem)

theorem memStem_finishCmd (s : State) (c : Cmd) (status : Nat) (g : Cpl → Cpl) : memStem (finishCmd s c status g) = memStem s := by
  unfold finishCmd
  extract_lets k u
  have hu : memStem u = memStem s := rfl
  clear_value u
  split
  · exact hu
  · exact hu

theorem memStem_failCtx (s : State) (x cause : Nat) : (failCtx s x cause).mem = s.mem ∧ Tells s (failCtx s x cause) := by
  unfold failCtx
  extract_lets c reads u v b w x' y
  have hu : memStem u = memStem s := foldl_keeps memStem (f := fun t (e : Nat × Nat) => failTransfer t e.2) (fun t e => rfl) _ s
  clear_value u
  have hx : memStem x' = memStem s := hu
  clear_value x'
  have hy : memStem y = memStem s :=
    ((foldl_keeps memStem (fun t c => memStem_finishCmd t c _ _) _ _).trans (foldl_keeps memStem (fun t c => memStem_finishCmd t c _ _) _ _)).trans hx
  clear_value y
  split
  · exact ⟨rfl, tells_of_stem rfl⟩
  · exact ⟨congrArg Prod.fst hy, (tells_of_stem (congrArg Prod.snd hy)).trans (tells_raise _ _)⟩

theorem memStem_ctxSend (s : State) (x ty : Nat) (g : BupMsg → BupMsg) : (ctxSend s x ty g).mem = s.mem ∧ Tells s (ctxSend s x ty g) := by
  have hsame : s.mem = s.mem ∧ Tells s s := ⟨rfl, tells_of_stem rfl⟩
  unfold ctxSend
  extract_lets c u
  have hu : u.mem = s.mem ∧ Tells s u := ⟨rfl, tells_raise _ _⟩
  clear_value u
  have hfail : ∀ k, (failCtx s x k).mem = s.mem ∧ Tells s (failCtx s x k) := fun k => memStem_failCtx s x k
  split
  · exact hsame
  · split
    · obtain ⟨hm, ht⟩ := memStem_failCtx u x cauGuard
      exact ⟨hm.trans hu.1, hu.2.trans ht⟩
    · split
      · exact hfail _
      · exact hsame

theorem memStem_requestPartner (s : State) (f : Nat) (x : Transfer) : (requestPartner s f x).mem = s.mem := by
  unfold requestPartner
  extract_lets key c reads u b v
  have hv : v.mem = s.mem := rfl
  clear_value v
  split
  · rfl
  · split
    · rfl
    · exact (memStem_ctxSend _ _ _ _).1.trans hv

/-! ## A rind unit's answer to a read -/

/-- A rind unit that has failed returns FAILED (R275). -/
theorem rindRequest_of_dead {f : FieldIx} {tag : Fin 2048} {x : Transfer} (hclk : fieldClocked s f = true) (hx : xferOf s f tag = some x)
    (htgt : x.target ≠ 4) (hwr : x.write = false) (hbody : x.body = none) (hout : tabGet false s.dom.rindOut (xferDie s x) = true)
    (found : TierRead) (host : Option BlockData) :
    xferOf (rindRequest s f tag found host) f tag = some { x with body := some failedBlock } ∧ ∃ l, rindRequest s f tag found host = { s with fld := l } := by
  have ht : rindRequest s f tag found host = modXfer (dropRecord s f tag) f tag fun t => { t with body := some failedBlock } := by
    unfold rindRequest
    split
    · next hnone => exact absurd (hx.symm.trans hnone) (by simp)
    next y hy =>
    obtain rfl : x = y := Option.some.inj (hx.symm.trans hy)
    extract_lets die v
    rw [if_neg (by simp [hclk, htgt]), if_pos hout, if_neg (by simp [hwr, hbody])]
  have hv := burstView_dropRecord s f tag
  have hx' := (xferOf_of_burstView hv tag).trans hx
  obtain ⟨l, hl⟩ : ∃ l, dropRecord s f tag = { s with fld := l } := ⟨_, rest_of_burstView hv⟩
  rw [ht, hl]
  rw [hl] at hx'
  exact ⟨xferOf_modXfer_some hx' fun _ => rfl, _, rfl⟩

/-- The answer to a read holds the block that the tier's controller handed on. -/
theorem answer_of_tierGives {br : State → Tab Bool} {block : State → Nat → BlockData} {die a f tag : Nat} {x : Transfer} {found : TierRead}
    {r : BlockData × State} (hview : tierView r.2 = tierView u) (h : TierGives u br block die a found r.1 r.2)
    (hl : ∃ l, u = { s with fld := l }) (hx : xferOf u f tag = some x) (hbr : ∀ v l, br { v with fld := l } = br v)
    (hblock : ∀ v l, block { v with fld := l } a = block v a) :
    let t := modXfer r.2 f tag fun y => { y with body := some r.1 }
    (t.mem.near = s.mem.near ∧ t.mem.far = s.mem.far) ∧ TierGives s br block die a found r.1 t ∧
      xferOf t f tag = some { x with body := some r.1 } := by
  obtain ⟨l, rfl⟩ := hl
  obtain ⟨hfld, hnear, hfar⟩ := same_of_tierView hview
  obtain ⟨hreads, hhard, hwrong, hclean⟩ := h
  have hfield : fieldOf r.2 f = tabGet {} l f := by rw [fieldOf, hfld]
  have hsame : xferOf r.2 f tag = some x := (xferOf_of_xfer (s := { s with fld := l }) (by rw [hfield]; rfl) tag).trans hx
  have hx' := xferOf_modXfer_some (g := fun y => { y with body := some r.1 }) hsame fun _ => rfl
  obtain ⟨l', hl'⟩ : ∃ l', modXfer r.2 f tag (fun y => { y with body := some r.1 }) = { r.2 with fld := l' } := ⟨_, rfl⟩
  rw [hl'] at hx' ⊢
  refine ⟨⟨hnear, hfar⟩, ⟨?_, ?_, ?_, fun hf => ?_⟩, hx'⟩
  · rw [hblock]
    exact hreads
  · rw [hbr]
    exact hhard
  · rw [hblock]
    exact hwrong
  · obtain ⟨hb, hs⟩ := hclean hf
    exact ⟨(hbr r.2 l').trans (hb.trans (hbr s l)), hs⟩

end Sys2Proof.Proofs.TierReads
end

section
/-! SUPPORT. The rind (R226, R249 to R258): blocks that are sent, land, are written piece by piece, and leave for their tier. -/

namespace Sys2Proof.Proofs.Rind

open Sys2Proof.Laws Sys2Proof.Machine Sys2Proof Sys2Proof.Proofs.Links Sys2Proof.Proofs.Spares Sys2Proof.Proofs.TierReads Sys2Proof.Proofs.Requests

variable {s t u : State}

/-- A read that a rind unit serves: what its target answers it with. -/
theorem rindRequest_of_live {f : FieldIx} {tag : Fin 2048} {x : Transfer} (hclk : fieldClocked s f = true) (hx : xferOf s f tag = some x)
    (htgt : x.target ≠ 4) (hwr : x.write = false) (hbody : x.body = none) (hout : tabGet false s.dom.rindOut (xferDie s x) = false)
    (hrec : x.known = true ∨ ∃ b, burstOf s f tag = some b ∧ outArrived s f b.tag = true) (found : TierRead) (host : Option BlockData) :
    let t := rindRequest s f tag found host
    let gives := fun (b : BlockData) => xferOf t f tag = some { x with known := true, body := some b }
    (t.mem.near = s.mem.near ∧ t.mem.far = s.mem.far) ∧
      (x.target = 0 → nearBlocks s ≤ x.far / 4096 → gives failedBlock) ∧
      (x.target = 0 → x.far / 4096 < nearBlocks s → ∃ b, TierGives s (·.mem.nearBr) nearBlock (nearDie s x.far) x.far found b t ∧ gives b) ∧
      (x.target = 1 → farBytes s < x.far + 4096 → gives failedBlock) ∧
      (x.target = 1 → x.far + 4096 ≤ farBytes s → ∃ b, TierGives s (·.mem.farBr) farBlock (farDie s x.far) x.far found b t ∧ gives b) ∧
      (∀ b p, x.target = 2 → host = some b → cxlPortFor s x.far = some p → gives { b with check := BitVec.ofNat 32 (crc32c 4096 b.data.toNat) }) := by
  intro t gives
  have ht : t = _ := rindRequest_of_read (found := found) (host := host) hclk hx htgt hwr hbody hout hrec rfl
  obtain ⟨hxu, hl⟩ := recorded_acts hx (xferDie s x)
  generalize recorded s f tag (xferDie s x) = u at ht hxu hl
  have hkeep : nearBlocks u = nearBlocks s ∧ farBytes u = farBytes s ∧ nearDie u x.far = nearDie s x.far ∧ farDie u x.far = farDie s x.far ∧
      cxlPortFor u x.far = cxlPortFor s x.far := by
    obtain ⟨l, rfl⟩ := hl
    exact ⟨rfl, rfl, rfl, rfl, rfl⟩
  obtain ⟨hnb, hfb, hnd, hfd, hcx⟩ := hkeep
  have hset : ∀ b, (t = modXfer u f tag fun y => { y with body := some b }) → (t.mem.near = s.mem.near ∧ t.mem.far = s.mem.far) ∧ gives b := fun b hm => by
    obtain ⟨l, rfl⟩ := hl
    exact ⟨by rw [hm]; exact ⟨rfl, rfl⟩, by dsimp only [gives]; rw [hm]; exact xferOf_modXfer_some hxu fun _ => rfl⟩
  by_cases h0 : x.target = 0
  · rw [if_pos h0] at ht
    by_cases hin : x.far / 4096 < nearBlocks s
    · obtain ⟨hview, hacts⟩ := readNear_acts (s := u) (by rw [hnb]; exact hin) x.asid found
      rw [hnd] at hacts
      obtain ⟨hmem, hgives, hx'⟩ := answer_of_tierGives hview hacts hl hxu (fun _ _ => rfl) fun _ _ => rfl
      rw [← ht] at hmem hgives hx'
      exact ⟨hmem, fun _ hno => absurd hin (Nat.not_lt.2 hno), fun _ _ => ⟨_, hgives, hx'⟩, fun h1 => absurd (h0.symm.trans h1) (by decide),
        fun h1 => absurd (h0.symm.trans h1) (by decide), fun _ _ h2 => absurd (h0.symm.trans h2) (by decide)⟩
    · have hr : readNear u x.far x.asid found = (failedBlock, u) := if_pos (by rw [hnb]; exact Nat.not_lt.1 hin)
      rw [hr] at ht
      obtain ⟨hmem, hgives⟩ := hset _ ht
      exact ⟨hmem, fun _ _ => hgives, fun _ hyes => absurd hyes hin, fun h1 => absurd (h0.symm.trans h1) (by decide),
        fun h1 => absurd (h0.symm.trans h1) (by decide), fun _ _ h2 => absurd (h0.symm.trans h2) (by decide)⟩
  · rw [if_neg h0] at ht
    by_cases h1 : x.target = 1
    · rw [if_pos h1] at ht
      by_cases hin : x.far + 4096 ≤ farBytes s
      · obtain ⟨hview, hacts⟩ := readFar_acts (s := u) (by rw [hfb]; exact hin) x.asid found
        rw [hfd] at hacts
        obtain ⟨hmem, hgives, hx'⟩ := answer_of_tierGives hview hacts hl hxu (fun _ _ => rfl) fun _ _ => rfl
        rw [← ht] at hmem hgives hx'
        exact ⟨hmem, fun h => absurd h h0, fun h => absurd h h0, fun _ hno => absurd hin (Nat.not_le.2 hno), fun _ _ => ⟨_, hgives, hx'⟩,
          fun _ _ h2 => absurd (h1.symm.trans h2) (by decide)⟩
      · have hr : readFar u x.far x.asid found = (failedBlock, u) := if_pos (by rw [hfb]; exact Nat.not_le.1 hin)
        rw [hr] at ht
        obtain ⟨hmem, hgives⟩ := hset _ ht
        exact ⟨hmem, fun h => absurd h h0, fun h => absurd h h0, fun _ _ => hgives, fun _ hyes => absurd hyes hin,
          fun _ _ h2 => absurd (h1.symm.trans h2) (by decide)⟩
    · rw [if_neg h1] at ht
      have hmemu : u.mem = s.mem := by
        obtain ⟨l, rfl⟩ := hl
        rfl
      refine ⟨?_, fun h => absurd h h0, fun h => absurd h h0, fun h => absurd h h1, fun h => absurd h h1, fun b p h2 hhost hport => ?_⟩
      · have hmem : t.mem = s.mem := by
          rw [ht]
          split
          · split
            · exact hmemu
            · exact hmemu
          · exact (memStem_requestPartner u f x).trans hmemu
        exact ⟨by rw [hmem], by rw [hmem]⟩
      · rw [if_pos h2, hhost, hcx, hport] at ht
        exact (hset _ ht).2

/-- A rind unit that holds a block and a landing credit sends it (R251, R255). -/
theorem rindBurstSend_acts {f : FieldIx} {tag : Fin 2048} {x : Transfer} (hclk : fieldClocked s f = true) (hx : xferOf s f tag = some x) {k : Nat}
    {ks : List Nat}
    (hks : (channels s f 0 (x.stream / 16) (xferDie s x)).filter (fun k => tabGet 0 (fieldOf s f).net.cred (k % 64) != 0) = k :: ks)
    (hwr : x.write = false) (hbody : x.body ≠ none) (hland : x.landed = false) (hchan : x.chan = 0) :
    let t := rindBurstSend s f tag
    xferOf t f tag = some { x with chan := k + 1 } ∧
      (fieldOf t f).net = { (fieldOf s f).net with
        cred := tabMod 0 (k % 64) (· - 1) (fieldOf s f).net.cred
        inb := (fieldOf s f).net.inb ++ [{ chan := k % 64, tag := tag, from_ := slotOf s f + 256 }] } ∧
      (∀ g, g ≠ f.val → fieldOf t g = fieldOf s g) ∧ t.mem = s.mem ∧ t.stem = s.stem := by
  have hgo : ¬ (!fieldClocked s f || x.write || x.body.isNone || x.landed || x.chan != 0) = true := by
    obtain ⟨b, hb⟩ := Option.ne_none_iff_exists'.1 hbody
    simp [hclk, hwr, hb, hland, hchan]
  intro t
  have ht : t = rindBurstSend s f tag := rfl
  unfold rindBurstSend at ht
  split at ht
  · next hnone => exact absurd (hx.symm.trans hnone) (by simp)
  next y hy =>
  obtain rfl : x = y := Option.some.inj (hx.symm.trans hy)
  clear_value t
  extract_lets ks' at ht
  replace hks : ks' = k :: ks := hks
  clear_value ks'
  split at ht
  · exact absurd hks (by simp)
  rename_i k' ks''
  obtain ⟨rfl, rfl⟩ : k = k' ∧ ks = ks'' := by simpa using hks.symm
  rw [if_neg hgo] at ht
  extract_lets u b v w at ht
  have hu : fieldOf u f = { fieldOf s f with net := { (fieldOf s f).net with cred := tabMod 0 (k % 64) (· - 1) (fieldOf s f).net.cred } } := by
    rw [fieldOf_modNet, if_pos rfl]
  have hother : ∀ g, g ≠ f.val → fieldOf u g = fieldOf s g := fun g hg => by rw [fieldOf_modNet, if_neg (Ne.symm hg)]
  have hum : u.mem = s.mem ∧ u.stem = s.stem := ⟨rfl, rfl⟩
  clear_value u
  have hv : v.fld = u.fld ∧ v.mem = u.mem ∧ v.stem = u.stem := by
    dsimp only [v]
    split
    · exact ⟨rfl, rfl, rfl⟩
    · exact ⟨rfl, rfl, rfl⟩
  have hvf : ∀ g, fieldOf v g = fieldOf u g := fun g => by rw [fieldOf, hv.1, fieldOf]
  clear_value v
  have hw : fieldOf w f = { fieldOf v f with net := { (fieldOf v f).net with
      inb := (fieldOf v f).net.inb ++ [{ chan := k % 64, tag := tag, from_ := slotOf v f + 256 }] } } := by
    rw [fieldOf_modNet, if_pos rfl]
    rfl
  have hwo : ∀ g, g ≠ f.val → fieldOf w g = fieldOf v g := fun g hg => by rw [fieldOf_modNet, if_neg (Ne.symm hg)]
  have hwm : w.mem = v.mem ∧ w.stem = v.stem := ⟨rfl, rfl⟩
  clear_value w
  rw [slotOf, hvf, hu] at hw
  subst ht
  refine ⟨xferOf_modXfer_some ((xferOf_of_xfer (by rw [hw]) tag).trans hx) fun _ => rfl, ?_, fun g hg => ?_, ?_, ?_⟩
  · rw [fieldOf_modXfer_same, hw]
    rfl
  · rw [fieldOf_modXfer_other hg, hwo g hg, hvf, hother g hg]
  · exact hwm.1.trans (hv.2.1.trans hum.1)
  · exact hwm.2.trans (hv.2.2.trans hum.2)

theorem tag_of_xferOf {f tag : Nat} {x : Transfer} (h : xferOf s f tag = some x) : x.tag = tag := by
  simpa using List.find?_some h

theorem xferOf_modXfer_tag {f tag : Nat} {x : Transfer} {g : Transfer → Transfer} (h : xferOf s f tag = some x) (hg : ∀ y, (g y).tag = y.tag) :
    xferOf (modXfer s f x.tag g) f tag = some (g x) := by
  rw [tag_of_xferOf h]
  exact xferOf_modXfer_some h hg

theorem raises_raiseField {f : Nat} (hstem : u.stem = s.stem) (hslot : slotOf u f = slotOf s f) (code asid engine addr detail : Nat) :
    Raises s (raiseField u f code asid engine addr detail) (mkEvent (fieldAddr f) (slotOf s f) code asid 0 engine addr detail) := by
  rw [Raises, raiseField, raise, hstem, hslot]

/-- The state in which the tap has handed on a block, off its channel. -/
def taken (s : State) (f tag : Nat) : State := modNet s f fun n => { n with inb := n.inb.filter fun c => c.tag != tag }

theorem fieldOf_taken (s : State) (f tag : Nat) : fieldOf (taken s f tag) f =
    { fieldOf s f with net := { (fieldOf s f).net with inb := (fieldOf s f).net.inb.filter fun c => c.tag != tag } } := by
  rw [taken, fieldOf_modNet, if_pos rfl]

/-- A DATA burst without acknowledgements hands its block on. -/
theorem burstIn_of_data {f : FieldIx} {tag : Fin 2048} {x : Transfer} {b : BlockData} {header : BitVec 1024} (hclk : fieldClocked s f = true)
    (hx : xferOf s f tag = some x) (htgt : x.target ≠ 4) (hbody : x.body = some b) (hwr : x.write = false) (hland : x.landed = false)
    (hkind : hdrKind header.toNat = 1) (hack : hdrNack header.toNat = 0) (htag : hdrXtag header.toNat = tag.val)
    (hhere : (x.chan = 0 ∧ b.failed = true ∧ tabGet false s.dom.rindOut (xferDie s x) = true) ∨
      (x.chan ≠ 0 ∧ inArrived s f x = true ∧ (x.chan - 1) % 64 = hdrChan header.toNat))
    (data : Option (BitVec 32768)) (bruises : Option (BitVec 64)) :
    burstIn s f header data bruises = landBlock (taken s f x.tag) f x
      { data := data.getD b.data, bmask := bruises.getD b.bmask, check := BitVec.ofNat 32 (hdrCheck header.toNat),
        failed := hdrStatus header.toNat == 1 || b.failed } := by
  have hnone : (hdrAcks header.toNat).foldl (takeAck f) s = s := by
    rw [hdrAcks, hack]
    rfl
  have ht : burstIn s f header data bruises = takeData ((hdrAcks header.toNat).foldl (takeAck f) s) f header.toNat data bruises :=
    (if_neg (by simp [hclk])).trans (if_pos hkind)
  have hgo : (if x.chan = 0 then b.failed && tabGet false s.dom.rindOut (xferDie s x) else
      inArrived s f x && (x.chan - 1) % 64 == hdrChan header.toNat) = true := by
    obtain ⟨h0, hf, hd⟩ | ⟨h0, ha, hc⟩ := hhere
    · rw [if_pos h0, hf, hd]
      rfl
    · rw [if_neg h0, ha, hc]
      simp
  rw [ht, hnone, takeData, htag]
  split
  · next h => exact absurd (hx.symm.trans h) (by simp)
  next y hy =>
  obtain rfl : x = y := Option.some.inj (hx.symm.trans hy)
  split
  · next h => exact absurd (hbody.symm.trans h) (by simp)
  next b' hb =>
  obtain rfl : b = b' := Option.some.inj (hbody.symm.trans hb)
  exact if_neg (by rw [hgo]; simp [hwr, htgt, hland])

theorem burstIn_acts {f : FieldIx} {tag : Fin 2048} {x : Transfer} {b : BlockData} {header : BitVec 1024} (hclk : fieldClocked s f = true)
    (hx : xferOf s f tag = some x) (htgt : x.target ≠ 4) (hbody : x.body = some b) (hwr : x.write = false) (hland : x.landed = false)
    (hkind : hdrKind header.toNat = 1) (hack : hdrNack header.toNat = 0) (htag : hdrXtag header.toNat = tag.val)
    (hhere : (x.chan = 0 ∧ b.failed = true ∧ tabGet false s.dom.rindOut (xferDie s x) = true) ∨
      (x.chan ≠ 0 ∧ inArrived s f x = true ∧ (x.chan - 1) % 64 = hdrChan header.toNat))
    (data : Option (BitVec 32768)) (bruises : Option (BitVec 64)) :
    let t := burstIn s f header data bruises
    let c : BlockData := { data := data.getD b.data, bmask := bruises.getD b.bmask, check := BitVec.ofNat 32 (hdrCheck header.toNat),
                           failed := hdrStatus header.toNat == 1 || b.failed }
    let ev := fun (code : Nat) => mkEvent (fieldAddr f) (slotOf s f) code x.asid 0 6 x.far (streamDetail s f x.stream 0x0105 x.tag)
    t.mem = s.mem ∧ (∀ z ∈ (fieldOf t f).net.inb, z.tag ≠ x.tag) ∧
      (c.failed = true → xferOf t f tag = some { x with landed := true, body := some (allBruised c) } ∧
        (x.told = false → Raises s t (ev 0x0106)) ∧ (x.told = true → t.stem = s.stem)) ∧
      (c.failed = false → checkOk c = true → xferOf t f tag = some { x with landed := true, body := some c } ∧
        (x.retried = true → Raises s t (ev 0x0007)) ∧ (x.retried = false → t.stem = s.stem)) ∧
      (c.failed = false → checkOk c = false → x.retried = true →
        xferOf t f tag = some { x with landed := true, body := some (allBruised c) } ∧ Raises s t (ev 0x0105)) ∧
      (c.failed = false → checkOk c = false → x.retried = false →
        xferOf t f tag = some { x with retried := true, body := none, chan := 0, known := false } ∧ t.stem = s.stem) := by
  intro t c ev
  have ht : t = landBlock (taken s f x.tag) f x c := burstIn_of_data hclk hx htgt hbody hwr hland hkind hack htag hhere data bruises
  have hf := fieldOf_taken s f x.tag
  have hxu : xferOf (taken s f x.tag) f tag = some x := (xferOf_of_xfer (by rw [hf]) tag).trans hx
  have hslot : slotOf (taken s f x.tag) f = slotOf s f := by rw [slotOf, hf, slotOf]
  have hdet : streamDetail (taken s f x.tag) f x.stream 0x0105 x.tag = streamDetail s f x.stream 0x0105 x.tag := by
    simp only [streamDetail, streamTag, streamOf, hf]
  have hinb : ∀ z ∈ (fieldOf (taken s f x.tag) f).net.inb, z.tag ≠ x.tag := fun z hz => by
    rw [hf] at hz
    simpa using (List.mem_filter.1 hz).2
  have hms : (taken s f x.tag).mem = s.mem ∧ (taken s f x.tag).stem = s.stem := ⟨rfl, rfl⟩
  generalize taken s f x.tag = u at *
  have hland : ∀ (g : Transfer → Transfer) (w : State), (∀ y, (g y).tag = y.tag) → w.fld = (modXfer u f x.tag g).fld →
      xferOf w f tag = some (g x) ∧ ∀ z ∈ (fieldOf w f).net.inb, z.tag ≠ x.tag := fun g w hg hw => by
    have hwf : fieldOf w f = fieldOf (modXfer u f x.tag g) f := by rw [fieldOf, hw, fieldOf]
    exact ⟨(xferOf_of_xfer (by rw [hwf]) tag).trans (xferOf_modXfer_tag hxu hg), by rw [hwf, fieldOf_modXfer_same]; exact hinb⟩
  have hraise : ∀ (g : Transfer → Transfer) (code : Nat),
      Raises s (raiseField (modXfer u f x.tag g) f code x.asid 6 x.far (streamDetail s f x.stream 0x0105 x.tag)) (ev code) := fun g code =>
    raises_raiseField (u := modXfer u f x.tag g) (f := f) hms.2 (by rw [slotOf, fieldOf_modXfer_same]; exact hslot) _ _ _ _ _
  unfold landBlock at ht
  rw [hdet] at ht
  clear_value t
  by_cases hfail : c.failed = true
  · have hone := ht.trans (if_pos hfail)
    by_cases htold : x.told = true
    · have hv := hone.trans (if_pos htold)
      obtain ⟨hxt, hinbt⟩ := hland (fun y => { y with landed := true, body := some (allBruised c) }) t (fun _ => rfl) (by rw [hv])
      exact ⟨by rw [hv]; exact hms.1, hinbt, fun _ => ⟨hxt, fun hno => absurd htold (by rw [hno]; decide), fun _ => by rw [hv]; exact hms.2⟩,
        fun hno => absurd hfail (by rw [hno]; decide), fun hno => absurd hfail (by rw [hno]; decide), fun hno => absurd hfail (by rw [hno]; decide)⟩
    · have hv := hone.trans (if_neg htold)
      obtain ⟨hxt, hinbt⟩ := hland (fun y => { y with landed := true, body := some (allBruised c) }) t (fun _ => rfl) (by rw [hv]; rfl)
      exact ⟨by rw [hv]; exact hms.1, hinbt, fun _ => ⟨hxt, fun _ => by rw [hv]; exact hraise _ _, fun hyes => absurd hyes htold⟩,
        fun hno => absurd hfail (by rw [hno]; decide), fun hno => absurd hfail (by rw [hno]; decide), fun hno => absurd hfail (by rw [hno]; decide)⟩
  have hone := ht.trans (if_neg hfail)
  by_cases hok : checkOk c = true
  · have htwo := hone.trans (if_pos hok)
    by_cases hretr : x.retried = true
    · have hv := htwo.trans (if_pos hretr)
      obtain ⟨hxt, hinbt⟩ := hland (fun y => { y with landed := true, body := some c }) t (fun _ => rfl) (by rw [hv]; rfl)
      exact ⟨by rw [hv]; exact hms.1, hinbt, fun hyes => absurd hyes hfail,
        fun _ _ => ⟨hxt, fun _ => by rw [hv]; exact hraise _ _, fun hno => absurd hretr (by rw [hno]; decide)⟩,
        fun _ hno => absurd hok (by rw [hno]; decide), fun _ hno => absurd hok (by rw [hno]; decide)⟩
    · have hv := htwo.trans (if_neg hretr)
      obtain ⟨hxt, hinbt⟩ := hland (fun y => { y with landed := true, body := some c }) t (fun _ => rfl) (by rw [hv])
      exact ⟨by rw [hv]; exact hms.1, hinbt, fun hyes => absurd hyes hfail,
        fun _ _ => ⟨hxt, fun hyes => absurd hyes hretr, fun _ => by rw [hv]; exact hms.2⟩,
        fun _ hno => absurd hok (by rw [hno]; decide), fun _ hno => absurd hok (by rw [hno]; decide)⟩
  have htwo := hone.trans (if_neg hok)
  by_cases hretr : x.retried = true
  · have hv := htwo.trans (if_pos hretr)
    obtain ⟨hxt, hinbt⟩ := hland (fun y => { y with landed := true, body := some (allBruised c) }) t (fun _ => rfl) (by rw [hv]; rfl)
    exact ⟨by rw [hv]; exact hms.1, hinbt, fun hyes => absurd hyes hfail, fun _ hyes => absurd hyes hok,
      fun _ _ _ => ⟨hxt, by rw [hv]; exact hraise _ _⟩, fun _ _ hno => absurd hretr (by rw [hno]; decide)⟩
  · have hv := htwo.trans (if_neg hretr)
    have how := burstView_owesCredit u f x
    have hxo := (xferOf_of_burstView how tag).trans hxu
    have hio := (field_of_burstView how).2.2.2
    have hro := rest_of_burstView how
    generalize owesCredit u f x = v at hv hxo hio hro
    have hask := burstView_askAgain (modXfer v f x.tag fun t => { t with retried := true, body := none, chan := 0, known := false }) f
    have hxm : xferOf (modXfer v f x.tag fun t => { t with retried := true, body := none, chan := 0, known := false }) f tag =
        some { x with retried := true, body := none, chan := 0, known := false } := xferOf_modXfer_tag hxo fun _ => rfl
    have hrest := rest_of_burstView hask
    have hi := (field_of_burstView hask).2.2.2
    have hx' := (xferOf_of_burstView hask tag).trans hxm
    rw [← hv] at hrest hi hx'
    rw [fieldOf_modXfer_same] at hi
    have hmem : t.mem = v.mem ∧ t.stem = v.stem := by
      rw [hrest]
      exact ⟨rfl, rfl⟩
    rw [hro] at hmem
    exact ⟨hmem.1.trans hms.1, fun z hz => hinb z (hio ▸ hi ▸ hz), fun hyes => absurd hyes hfail, fun _ hyes => absurd hyes hok,
      fun _ _ hyes => absurd hyes hretr, fun _ _ _ => ⟨hx', hmem.2.trans hms.2⟩⟩

/-! ## The pieces of a landed block -/

/-- A piece waits while its port is in use or its engine may not use it (R226, R250). -/
theorem pieceStep_waits {f : FieldIx} {x : Transfer} {slot : Nat} {used : List Nat}
    (h : streamPort (pieceAt s f x) ∈ used ∨ pieceAllowed s f slot (x.stream / 16) (pieceAt s f x) false = false) :
    pieceStep f slot false (s, used) x = (s, used) := by
  unfold pieceStep
  dsimp only
  split
  · rfl
  · exact if_pos (by obtain h | h := h <;> simp [h])

/-- A piece of a landed block is owed to on-die memory, through its port (R226, R250). -/
theorem pieceStep_lands {f : FieldIx} {tag : Fin 2048} {x : Transfer} {b : BlockData} {slot : Nat} {used : List Nat}
    (hx : xferOf s f tag = some x) (hbody : x.body = some b) (hwr : x.write = false) (hland : x.landed = true) (hpun : x.punnet = false)
    (hskew : isSkew s f x = false) (hmoved : x.moved < 32) (hat : pieceAt s f x = x.oda + 128 * x.moved)
    (hport : streamPort (x.oda + 128 * x.moved) ∉ used)
    (hallow : pieceAllowed s f slot (x.stream / 16) (x.oda + 128 * x.moved) false = true) :
    let r := pieceStep f slot false (s, used) x
    r.2 = streamPort (x.oda + 128 * x.moved) :: used ∧ xferOf r.1 f tag = some { x with moved := x.moved + 1 } ∧
      (fieldOf r.1 f).mem.wr = (fieldOf s f).mem.wr ++
        [{ due := slot, stream := x.stream, oda := x.oda + 128 * x.moved, n := 128, v := bitsOf b.data.toNat (1024 * x.moved) 1024,
           mask := some (bitsOf b.bmask.toNat (2 * x.moved) 2) }] ∧
      (∀ g, g ≠ f.val → fieldOf r.1 g = fieldOf s g) ∧ r.1 = { s with fld := r.1.fld } := by
  have hr : pieceStep f slot false (s, used) x = (putPiece s f slot x b, streamPort (x.oda + 128 * x.moved) :: used) := by
    unfold pieceStep
    dsimp only
    rw [if_neg (by simp [wantsPiece, hpun, hwr, hland, hbody, hmoved]), hat, if_neg (by simp [hport, hallow]), hbody]
    dsimp only
    rw [if_neg (by simp [hwr, hpun])]
  intro r
  rw [show r = _ from hr]
  refine ⟨rfl, ?_⟩
  dsimp only
  have hput : putPiece s f slot x b = modXfer (modFmem s f fun m => { m with wr := m.wr ++
      [{ due := slot, stream := x.stream, oda := x.oda + 128 * x.moved, n := 128, v := bitsOf b.data.toNat (1024 * x.moved) 1024,
         mask := some (bitsOf b.bmask.toNat (2 * x.moved) 2) }] }) f x.tag fun y => { y with moved := x.moved + 1 } := by
    unfold putPiece
    rw [hskew]
    rfl
  have hf := fieldOf_modFmem (s := s) f f fun m => { m with wr := m.wr ++
      [{ due := slot, stream := x.stream, oda := x.oda + 128 * x.moved, n := 128, v := bitsOf b.data.toNat (1024 * x.moved) 1024,
         mask := some (bitsOf b.bmask.toNat (2 * x.moved) 2) }] }
  rw [if_pos rfl] at hf
  rw [hput]
  refine ⟨xferOf_modXfer_tag ((xferOf_of_xfer (by rw [hf]) tag).trans hx) fun _ => rfl, ?_, fun g hg => ?_, rfl⟩
  · rw [fieldOf_modXfer_same, hf]
  · rw [fieldOf_modXfer_other hg, fieldOf_modFmem, if_neg (Ne.symm hg)]

/-! ## A block that has landed whole -/

theorem credRet_dropRecord (s : State) (f tag : Nat) : (fieldOf (dropRecord s f tag) f).net.credRet = (fieldOf s f).net.credRet := by
  unfold dropRecord
  split
  · rfl
  · rw [fieldOf_modField, if_pos rfl]
    split <;> rfl

/-- A transfer that ends is taken from the transfers in flight; the credits that are owed stay. -/
theorem endXfer_acts (s : State) (f tag : Nat) :
    (fieldOf (endXfer s f tag) f).str.xfer = eraseFirst (fun t => t.tag == tag) (fieldOf s f).str.xfer ∧
      (fieldOf (endXfer s f tag) f).net.credRet = (fieldOf s f).net.credRet ∧ ∃ l, endXfer s f tag = { s with fld := l } := by
  have hv := burstView_dropRecord s f tag
  have hx := congrArg (fun v => v.2.1) hv
  have hc := credRet_dropRecord s f tag
  have hr := rest_of_burstView hv
  unfold endXfer
  generalize dropRecord s f tag = u at hx hc hr
  rw [fieldOf_modField, if_pos rfl]
  refine ⟨congrArg (eraseFirst fun t => t.tag == tag) hx, hc, ?_⟩
  rw [hr]
  exact ⟨_, rfl⟩

/-- A block that is counted has ended its transfer; the credits that are owed stay. -/
theorem countBlock_acts (s : State) (f : Nat) (x : Transfer) :
    (fieldOf (countBlock s f x) f).str.xfer = eraseFirst (fun t => t.tag == x.tag) (fieldOf s f).str.xfer ∧
      (fieldOf (countBlock s f x) f).net.credRet = (fieldOf s f).net.credRet ∧ ∃ l, countBlock s f x = { s with fld := l } := by
  obtain ⟨hx, hc, l, hl⟩ := endXfer_acts s f x.tag
  unfold countBlock
  generalize endXfer s f x.tag = u at *
  extract_lets v
  have hv : fieldOf v f = { fieldOf u f with pow := (fieldOf v f).pow } := by
    rw [show fieldOf v f = _ from fieldOf_modFpow (s := u) f f _, if_pos rfl]
  have hvl : ∃ l, v = { u with fld := l } := ⟨_, rfl⟩
  clear_value v
  obtain ⟨l', rfl⟩ := hvl
  unfold settleStream modStream
  rw [fieldOf_modStr, if_pos rfl, fieldOf_modStr, if_pos rfl, hv]
  exact ⟨hx, hc, _, by rw [hl]; rfl⟩

/-- The credit of the channel that a block came over is owed to its rind unit (R255). -/
theorem owesCredit_acts (s : State) (f : Nat) (x : Transfer) :
    (x.chan ≠ 0 → tabGet 0 (fieldOf (owesCredit s f x) f).net.credRet ((x.chan - 1) % 64) =
        tabGet 0 (fieldOf s f).net.credRet ((x.chan - 1) % 64) + 1) := by
  intro hch
  rw [owesCredit, if_neg hch, fieldOf_modNet, if_pos rfl]
  exact (tabGet_mod 0 ((x.chan - 1) % 64) ((x.chan - 1) % 64) (· + 1) (fieldOf s f).net.credRet).trans (if_pos rfl)

/-- The check word of a block, once its CHECK has become it (R356). -/
theorem blockWord_putWord (s : State) (blk : Nat) {w : Nat} (hw : w < 2 ^ 32) :
    tabGet false (putWord s blk w).mem.unckd blk = false ∧ blockWord (putWord s blk w) blk = w := by
  refine ⟨tabGet_put_same false blk false s.mem.unckd, ?_⟩
  have hxor : (BitVec.ofNat 32 (crc32c 4096 (blockBytes s blk) ^^^ w)).toNat = crc32c 4096 (blockBytes s blk) ^^^ w := by
    rw [BitVec.toNat_ofNat]
    exact Nat.mod_eq_of_lt (Nat.xor_lt_two_pow (crc32c_lt _ _) hw)
  have hbytes : blockBytes (putWord s blk w) blk = blockBytes s blk := rfl
  have hget : tabGet 0 (putWord s blk w).mem.crcErr blk = BitVec.ofNat 32 (crc32c 4096 (blockBytes s blk) ^^^ w) := tabGet_put_same _ _ _ _
  rw [blockWord, hbytes, hget, hxor, ← Nat.xor_assoc, Nat.xor_self, Nat.zero_xor]

theorem landingComplete_acts {f : FieldIx} {tag : Fin 2048} {x : Transfer} {b : BlockData} (hclk : fieldClocked s f = true)
    (hx : xferOf s f tag = some x) (hbody : x.body = some b) (hwr : x.write = false) (hland : x.landed = true) (hpun : x.punnet = false)
    (hmoved : x.moved = 32) (hnone : ∀ w ∈ (fieldOf s f).mem.wr, ¬ (w.core = 0 ∧ w.stream = x.stream)) :
    let t := landingComplete s f tag
    (x.oda % 4096 = 0 → isSkew s f x = false → tabGet false t.mem.unckd (x.oda / 4096) = false ∧ blockWord t (x.oda / 4096) = b.check.toNat) ∧
      (fieldOf t f).str.xfer = eraseFirst (fun z => z.tag == x.tag) (fieldOf s f).str.xfer ∧
      (x.chan ≠ 0 →
        tabGet 0 (fieldOf t f).net.credRet ((x.chan - 1) % 64) = tabGet 0 (fieldOf s f).net.credRet ((x.chan - 1) % 64) + 1) ∧
      t.mem = { s.mem with unckd := t.mem.unckd, crcErr := t.mem.crcErr } := by
  have hfree : ((fieldOf s f).mem.wr.any fun w => w.core == 0 && w.stream == x.stream) = false := by
    simp only [List.any_eq_false, Bool.and_eq_true, beq_iff_eq]
    exact hnone
  intro t
  have ht : t = landingComplete s f tag := rfl
  unfold landingComplete at ht
  split at ht
  · next h => exact absurd (hx.symm.trans h) (by simp)
  next y hy =>
  obtain rfl : x = y := Option.some.inj (hx.symm.trans hy)
  split at ht
  · next h => exact absurd (hbody.symm.trans h) (by simp)
  next b' hb =>
  obtain rfl : b = b' := Option.some.inj (hbody.symm.trans hb)
  rw [if_neg (by simp [hclk, hwr, hland]), if_neg (by simp [hpun]), if_neg (by simp [hmoved, hfree])] at ht
  clear_value t
  extract_lets u v at ht
  have how := burstView_owesCredit s f x
  have hux : (fieldOf u f).str.xfer = (fieldOf s f).str.xfer := congrArg (fun v => v.2.1) how
  have hus : isSkew u f x = isSkew s f x := by
    rw [isSkew, xferDesc, streamOf, (field_of_burstView how).1]
    rfl
  have huc := owesCredit_acts s f x
  have hur := rest_of_burstView how
  change u = { s with fld := u.fld } at hur
  change x.chan ≠ 0 → tabGet 0 (fieldOf u f).net.credRet ((x.chan - 1) % 64) = _ at huc
  clear_value u
  have hv : (∃ m, v = { u with mem := m } ∧ m = { s.mem with unckd := m.unckd, crcErr := m.crcErr }) ∧
      (x.oda % 4096 = 0 → isSkew s f x = false → tabGet false v.mem.unckd (x.oda / 4096) = false ∧ blockWord v (x.oda / 4096) = b.check.toNat) := by
    have hum : u.mem = s.mem := by rw [hur]
    dsimp only [v]
    rw [hus]
    split
    · exact ⟨⟨_, rfl, by rw [hum]⟩, fun _ _ => blockWord_putWord u _ b.check.isLt⟩
    · next hno => exact ⟨⟨u.mem, rfl, by rw [hum]⟩, fun ha hs => absurd ⟨ha, by rw [hs]; rfl⟩ hno⟩
  clear_value v
  obtain ⟨⟨m, rfl, hm⟩, hword⟩ := hv
  obtain ⟨hcx, hcc, l, hl⟩ := countBlock_acts { u with mem := m } f x
  have hend : t.fld = (countBlock { u with mem := m } f x).fld ∧ t.mem = m := by
    rw [ht]
    split
    · exact ⟨rfl, by rw [hl]⟩
    · obtain ⟨d, g, hd⟩ := streamsDone_frame (countBlock { u with mem := m } f x) f
      rw [hd]
      exact ⟨rfl, by rw [hl]⟩
  have htf : fieldOf t f = fieldOf (countBlock { u with mem := m } f x) f := by rw [fieldOf, hend.1, fieldOf]
  refine ⟨fun ha hs => ?_, ?_, fun hch => ?_, ?_⟩
  · obtain ⟨hun, hw⟩ := hword ha hs
    rw [hend.2]
    refine ⟨hun, ?_⟩
    have hbytes : blockWord t (x.oda / 4096) = blockWord { u with mem := m } (x.oda / 4096) := by
      rw [blockWord, blockWord, blockBytes, blockBytes, dieRead, dieRead, hend.2]
    rw [hbytes]
    exact hw
  · rw [htf, hcx]
    exact congrArg (eraseFirst fun z => z.tag == x.tag) hux
  · rw [htf, hcc]
    exact huc hch
  · rw [hend.2]
    exact hm

/-! ## An outbound block -/

/-- A block written to the near tier changes its bytes and its bruise bits there. -/
theorem nearPut_acts (s : State) (key a : Nat) (b : BlockData) : ∃ m, nearPut (wakeChan s key) a b = { s with mem := m } ∧
    m.near = memWrite s.mem.near a 4096 b.data.toNat ∧ m.far = s.mem.far ∧ m.die = s.mem.die := by
  unfold nearPut wakeChan
  generalize memWrite s.mem.near a 4096 b.data.toNat = l
  exact ⟨_, rfl, rfl, rfl, rfl⟩

/-- A block written to the far tier changes its bytes and its bruise bits there. -/
theorem farPut_acts (s : State) (key a : Nat) (b : BlockData) : ∃ m, farPut (wakeChan s key) a b = { s with mem := m } ∧
    m.far = memWrite s.mem.far a 4096 b.data.toNat ∧ m.near = s.mem.near ∧ m.die = s.mem.die := by
  unfold farPut wakeChan
  generalize memWrite s.mem.far a 4096 b.data.toNat = l
  exact ⟨_, rfl, rfl, rfl, rfl⟩

/-- A block that a rind unit has written to the near tier: its transfer has landed (R278, R408). -/
theorem storeOut_of_near {f : FieldIx} {x : Transfer} (h0 : x.target = 0) (hin : x.far / 4096 < nearBlocks s) (b : BlockData) :
    ∃ m j, storeOut s f x b = modXfer { s with mem := m, job := j } f x.tag (fun t => { t with landed := true, body := some b }) ∧
      m.near = memWrite s.mem.near x.far 4096 b.data.toNat ∧ m.far = s.mem.far ∧ m.die = s.mem.die := by
  obtain ⟨m, hm, hacts⟩ := nearPut_acts s (nearChannel s x.far) x.far b
  rw [storeOut, if_pos h0, if_neg (Nat.not_le.2 hin), hm]
  dsimp only
  split
  · exact ⟨m, (modJob s x.asid fun j => { j with mirrorHeld := j.mirrorHeld ++ [(f.val, x.tag)] }).job, rfl, hacts⟩
  · exact ⟨m, s.job, rfl, hacts⟩

/-- A block that a rind unit has written to the far tier: its transfer has landed (R281). -/
theorem storeOut_of_far {f : FieldIx} {x : Transfer} (h1 : x.target = 1) (hin : x.far + 4096 ≤ farBytes s) (b : BlockData) :
    ∃ m, storeOut s f x b = modXfer { s with mem := m } f x.tag (fun t => { t with landed := true, body := some b }) ∧
      m.far = memWrite s.mem.far x.far 4096 b.data.toNat ∧ m.near = s.mem.near ∧ m.die = s.mem.die := by
  obtain ⟨m, hm, hacts⟩ := farPut_acts s (1280 + farChannel s x.far) x.far b
  refine ⟨m, ?_, hacts⟩
  rw [storeOut, if_neg (by rw [h1]; decide), if_pos h1, if_neg (Nat.not_lt.2 hin), hm]

theorem writePartner_keeps (s : State) (f : Nat) (x : Transfer) (b : BlockData) :
    (writePartner s f x b).mem = s.mem ∧ Tells s (writePartner s f x b) := by
  have hsame : s.mem = s.mem ∧ Tells s s := ⟨rfl, tells_of_stem rfl⟩
  unfold writePartner
  extract_lets key c seq v
  have hv : v.mem = s.mem ∧ v.stem = s.stem := ⟨rfl, rfl⟩
  clear_value v
  split
  · exact hsame
  · split
    · exact hsame
    · obtain ⟨hm, ht⟩ := memStem_ctxSend v x.ctx tyWr fun m => { m with addr := x.far, body := b }
      exact ⟨hm.trans hv.1, (tells_of_stem hv.2).trans ht⟩

theorem storeOut_keeps (s : State) (f : FieldIx) (x : Transfer) (b : BlockData) : (storeOut s f x b).mem.die = s.mem.die ∧ Tells s (storeOut s f x b) := by
  have hsame : s.mem.die = s.mem.die ∧ Tells s s := ⟨rfl, tells_of_stem rfl⟩
  by_cases h0 : x.target = 0
  · by_cases hin : x.far / 4096 < nearBlocks s
    · obtain ⟨m, j, ht, -, -, hdie⟩ := storeOut_of_near (f := f) h0 hin b
      rw [ht]
      exact ⟨hdie, tells_of_stem rfl⟩
    · rw [storeOut, if_pos h0, if_pos (Nat.not_lt.1 hin)]
      exact hsame
  by_cases h1 : x.target = 1
  · by_cases hin : x.far + 4096 ≤ farBytes s
    · obtain ⟨m, ht, -, -, hdie⟩ := storeOut_of_far (f := f) h1 hin b
      rw [ht]
      exact ⟨hdie, tells_of_stem rfl⟩
    · rw [storeOut, if_neg h0, if_pos h1, if_pos (Nat.not_le.1 hin)]
      exact hsame
  rw [storeOut, if_neg h0, if_neg h1]
  dsimp only
  split
  · split
    · exact hsame
    · exact hsame
  · obtain ⟨hm, ht⟩ := writePartner_keeps s f x b
    exact ⟨congrArg Mem.die hm, ht⟩

/-- The state in which a rind unit has taken an outbound block off its channel, with the credits of its header. -/
def outTaken (s : State) (f tag die : Nat) : State :=
  modNet (returnCredits s f die) f fun n => { n with outb := n.outb.filter fun c => c.tag != tag }

theorem outTaken_acts {f tag : Nat} {x : Transfer} (hx : xferOf s f tag = some x) (die : Nat) :
    xferOf (outTaken s f tag die) f tag = some x ∧ ∃ l, outTaken s f tag die = { s with fld := l } := by
  have hv : burstView f (outTaken s f tag die) = burstView f s := by
    rw [← burstView_returnCredits s f die]
    exact burstView_modField (returnCredits s f die) (g := fun x => { x with net := { x.net with outb := x.net.outb.filter fun c => c.tag != tag } })
      fun _ => ⟨rfl, rfl, rfl, rfl, rfl⟩
  exact ⟨(xferOf_of_burstView hv tag).trans hx, _, rest_of_burstView hv⟩

theorem rindOutBurst_acts {f : FieldIx} {tag : Fin 2048} {x : Transfer} {sent : BlockData} (hclk : fieldClocked s f = true)
    (hx : xferOf s f tag = some x) (hbody : x.body = some sent) (hwr : x.write = true) (hland : x.landed = false)
    (hout : tabGet false s.dom.rindOut (xferDie s x) = false) (hknown : x.known = true) (harr : outArrived s f tag = true) (data : Option BlockData) :
    let t := rindOutBurst s f tag data
    let b := data.getD sent
    t.mem.die = s.mem.die ∧
      (checkOk b = true → x.target = 0 → x.far / 4096 < nearBlocks s →
        t.mem.near = memWrite s.mem.near x.far 4096 b.data.toNat ∧ t.mem.far = s.mem.far ∧
        xferOf t f tag = some { x with landed := true, body := some b }) ∧
      (checkOk b = true → x.target = 1 → x.far + 4096 ≤ farBytes s →
        t.mem.far = memWrite s.mem.far x.far 4096 b.data.toNat ∧ t.mem.near = s.mem.near ∧
        xferOf t f tag = some { x with landed := true, body := some b }) ∧
      (checkOk b = false → x.retried = false → xferOf t f tag = some { x with retried := true } ∧ t.mem = s.mem ∧ t.stem = s.stem) ∧
      (checkOk b = false → x.retried = true → ∃ e ∈ t.stem.events, e.code = 0x0105 ∧ e.src = dieAddr (xferDie s x)) := by
  intro t b
  have ht : t = rindOutBurst s f tag data := rfl
  unfold rindOutBurst at ht
  split at ht
  · next h => exact absurd (hx.symm.trans h) (by simp)
  next y hy =>
  obtain rfl : x = y := Option.some.inj (hx.symm.trans hy)
  split at ht
  · next h => exact absurd (hbody.symm.trans h) (by simp)
  next b' hb =>
  obtain rfl : sent = b' := Option.some.inj (hbody.symm.trans hb)
  clear_value t
  extract_lets die v u w at ht
  rw [if_neg (by simp [hclk, hwr, hland]), if_neg (by rw [hout]; decide), if_neg (by simp [hknown, harr])] at ht
  obtain ⟨hxu, l, hl⟩ := outTaken_acts hx die
  change xferOf u f tag = some x at hxu
  change u = { s with fld := l } at hl
  have hw : w = storeOut u f x b := rfl
  clear_value w u v
  subst hl
  obtain ⟨hdie, -⟩ := storeOut_keeps { s with fld := l } f x b
  by_cases hok : checkOk b = true
  · rw [if_pos hok] at ht
    have hmw : t.mem = w.mem ∧ t.fld = w.fld := by
      rw [ht]
      split
      · exact ⟨rfl, rfl⟩
      · exact ⟨rfl, rfl⟩
    have hxt : xferOf t f tag = xferOf w f tag := xferOf_of_xfer (by rw [fieldOf, hmw.2, fieldOf]) tag
    rw [hmw.1, hxt, hw]
    refine ⟨hdie, fun _ h0 hin => ?_, fun _ h1 hin => ?_, fun hno => absurd hok (by rw [hno]; decide), fun hno => absurd hok (by rw [hno]; decide)⟩
    · obtain ⟨m, j, hst, hnear, hfar, -⟩ := storeOut_of_near (s := { s with fld := l }) (f := f) h0 hin b
      rw [hst]
      exact ⟨hnear, hfar, xferOf_modXfer_tag (s := { s with fld := l, mem := m, job := j }) hxu fun _ => rfl⟩
    · obtain ⟨m, hst, hfar, hnear, -⟩ := storeOut_of_far (s := { s with fld := l }) (f := f) h1 hin b
      rw [hst]
      exact ⟨hfar, hnear, xferOf_modXfer_tag (s := { s with fld := l, mem := m }) hxu fun _ => rfl⟩
  · rw [if_neg hok] at ht
    by_cases hretr : x.retried = true
    · rw [if_pos hretr] at ht
      obtain ⟨hdie', htells⟩ := storeOut_keeps (raiseDie { s with fld := l } die 0x0105 x.asid x.far 0) f x (allBruised b)
      obtain ⟨e, he, hcode, hsrc⟩ := exists_event_raiseDie { s with fld := l } die 0x0105 x.asid x.far 0
      obtain ⟨e', he', hcode', hsrc'⟩ := htells e he
      rw [ht]
      exact ⟨hdie', fun hyes => absurd hyes hok, fun hyes => absurd hyes hok, fun _ hno => absurd hretr (by rw [hno]; decide),
        fun _ _ => ⟨e', he', hcode'.trans hcode, hsrc'.trans hsrc⟩⟩
    · rw [if_neg hretr] at ht
      have hv := burstView_sendOut (modXfer { s with fld := l } f tag fun t => { t with retried := true }) f (x.stream / 16) die tag
      have hxt := (xferOf_of_burstView hv tag).trans (xferOf_modXfer_some hxu fun _ => rfl)
      have hr := rest_of_burstView hv
      rw [← ht] at hxt hr
      rw [hr]
      exact ⟨rfl, fun hyes => absurd hyes hok, fun hyes => absurd hyes hok, fun _ _ => ⟨hr ▸ hxt, rfl, rfl⟩, fun _ hyes => absurd hyes hretr⟩

/-- Settles O42: what a rind unit and the tap of a channel make of the first transfer with a tag, clause by clause. -/
theorem theRindCarriesBlocks : Obligations.TheRindCarriesBlocks := by
  intro s f tag x hclk hx htgt die out det ev
  refine ⟨?request, ?send, ?burst, ?piece, ?busy, ?landed, ?written⟩
  case request =>
    intro hwr hbody hor found host seen handed wrong
    by_cases hout : out = true
    · obtain ⟨hgives, l, hl⟩ := rindRequest_of_dead hclk hx htgt hwr hbody hout found host
      exact ⟨_, rfl, by rw [hl], by rw [hl], fun _ => hgives, fun h => absurd hout (by rw [h]; decide), fun h => absurd hout (by rw [h]; decide),
        fun h => absurd hout (by rw [h]; decide), fun h => absurd hout (by rw [h]; decide), fun _ _ h => absurd hout (by rw [h]; decide)⟩
    · obtain ⟨⟨hnear, hfar⟩, hno, hn, hnf, hf, hh⟩ := rindRequest_of_live hclk hx htgt hwr hbody (Bool.eq_false_iff.2 hout) (hor.resolve_left hout) found host
      refine ⟨_, rfl, hnear, hfar, fun h => absurd h hout, fun _ => hno, fun _ h0 hin => ?_, fun _ => hnf, fun _ h1 hin => ?_, fun b p _ => hh b p⟩
      · obtain ⟨b, ⟨hreads, hhard, hwrong, hclean⟩, hgives⟩ := hn h0 hin
        subst hreads
        exact ⟨hgives, hhard, fun hw => hwrong hw.1 hw.2, hclean⟩
      · obtain ⟨b, ⟨hreads, hhard, hwrong, hclean⟩, hgives⟩ := hf h1 hin
        subst hreads
        exact ⟨hgives, hhard, fun hw => hwrong hw.1 hw.2, hclean⟩
  case send =>
    intro k ks hks hwr hbody hland hchan
    exact ⟨_, rfl, rindBurstSend_acts hclk hx hks hwr hbody hland hchan⟩
  case burst =>
    intro b header data bruises hbody hwr hland h hkind hack htag hhere c
    exact ⟨_, rfl, burstIn_acts hclk hx htgt hbody hwr hland hkind hack htag hhere data bruises⟩
  case piece =>
    intro b slot used hbody hwr hland hpun hskew hmoved hat hport hallow
    exact pieceStep_lands hx hbody hwr hland hpun hskew hmoved hat hport hallow
  case busy =>
    intro slot used hor
    exact pieceStep_waits hor
  case landed =>
    intro b hbody hwr hland hpun hmoved hnone
    exact ⟨_, rfl, landingComplete_acts hclk hx hbody hwr hland hpun hmoved hnone⟩
  case written =>
    intro sent data hbody hwr hland hout hknown harr b
    exact ⟨_, rfl, rindOutBurst_acts hclk hx hbody hwr hland hout hknown harr data⟩

end Sys2Proof.Proofs.Rind
end

section
/-! SUPPORT. Page faults, invalidations and drains (R265 to R269, R279). -/

namespace Sys2Proof.Proofs.Service

open Sys2Proof.Laws Sys2Proof.Machine Sys2Proof Sys2Proof.Proofs.Links Sys2Proof.Proofs.Spares Sys2Proof.Proofs.Requests Sys2Proof.Proofs.TierReads Sys2Proof.Proofs.Rind Sys2Proof.Proofs.Descriptors Sys2Proof.Proofs.Fields

variable {s t u : State}

/-! ## Page faults and invalidations -/

/-- Firmware makes a page present: the stream goes on from its resume point (R269). -/
theorem pageFaultService_serves {f : FieldIx} {st : Fin 256} (hup : pithUp s = true) (hst : (streamOf s f st).st = .faulted)
    (hkind : (streamOf s f st).fkind = 1) :
    let t := pageFaultService s f st true []
    StreamIs s t f st { streamOf s f st with st := .active, fkind := 0, fdva := 0 } ∧ (∀ g, g ≠ f.val → fieldOf t g = fieldOf s g) ∧
      StreamsSettle s t f ∧ t = { s with fld := t.fld, dom := t.dom, log := t.log } := by
  have ht : pageFaultService s f st true [] = streamsDone (modStream s f st fun y => { y with st := .active, fkind := 0, fdva := 0 }) f := by
    unfold pageFaultService
    dsimp only
    rw [if_neg (by simp [hup]), if_neg (by simp [hst, hkind]), if_pos rfl]
    rfl
  have hy := streamIs_modStream s f st fun y => { y with st := .active, fkind := 0, fdva := 0 }
  have ho : ∀ g, g ≠ f.val → fieldOf (modStream s f st fun y => { y with st := .active, fkind := 0, fdva := 0 }) g = fieldOf s g := fun g hg => by
    rw [modStream, fieldOf_modStr, if_neg (Ne.symm hg)]
  have hu : ∃ l, (modStream s f st fun y => { y with st := .active, fkind := 0, fdva := 0 }) = { s with fld := l } := ⟨_, rfl⟩
  intro t
  rw [show t = _ from ht]
  generalize (modStream s f st fun y => { y with st := .active, fkind := 0, fdva := 0 }) = u at hy ho hu
  obtain ⟨l, rfl⟩ := hu
  obtain ⟨m, g, hfr⟩ := streamsDone_frame { s with fld := l } f
  have hsettle := streamsSettle_streamsDone (s := s) (u := { s with fld := l }) ⟨rfl, rfl⟩ f
  rw [hfr] at hsettle ⊢
  exact ⟨hy, ho, hsettle, rfl⟩

/-- Firmware declines: the fault becomes a STREAM_FAULT (R269). -/
theorem pageFaultService_declines {f : FieldIx} {st : Fin 256} (hup : pithUp s = true) (hst : (streamOf s f st).st = .faulted)
    (hkind : (streamOf s f st).fkind = 1) :
    let t := pageFaultService s f st false []
    StreamFaults s t f st 1 (streamOf s f st).fdva ∧ t = { s with stem := t.stem } := by
  have ht : pageFaultService s f st false [] = raiseStream s f st 1 (streamOf s f st).fdva := by
    unfold pageFaultService
    dsimp only
    rw [if_neg (by simp [hup])]
    simp only [Bool.false_eq_true, if_false]
    rw [if_neg (by simp [hst, hkind])]
  intro t
  rw [show t = _ from ht]
  obtain ⟨b, hb⟩ := raiseStream_frame s f st 1 (streamOf s f st).fdva
  exact ⟨streamFaults_raiseStream rfl rfl rfl ⟨rfl, fun _ _ => rfl⟩ rfl rfl, by rw [hb]⟩

/-- A page-table entry that firmware writes stands in the near tier. -/
theorem pageFaultService_writes (f : FieldIx) (st : Fin 256) {a : Nat} (v : BitVec 64) (hup : pithUp s = true) (ha : a % 8 = 0) :
    (pageFaultService s f st true [(a, v)]).mem = (nearStore s a 8 v.toNat false).mem := by
  have ha' : a / 8 * 8 = a := Nat.div_mul_cancel (Nat.dvd_of_mod_eq_zero ha)
  unfold pageFaultService
  dsimp only
  rw [if_neg (by simp [hup]), if_pos rfl]
  have hw : writeEntries s [(a, v)] = nearStore s a 8 v.toNat false := by
    rw [writeEntries, List.foldl_cons, List.foldl_nil]
    dsimp only
    rw [ha']
  rw [hw]
  split
  · rfl
  · obtain ⟨m, g, hfr⟩ := streamsDone_frame (modStream (nearStore s a 8 v.toNat false) f st fun y => { y with st := .active, fkind := 0, fdva := 0 }) f
    rw [if_pos rfl, hfr]
    rfl

/-- A range of an ASID's translations leaves every cache (R267). -/
theorem translationInvalidate_acts (asid lo hi : Nat) (hup : pithUp s = true) :
    let gone := fun (a dva size : Nat) => a = asid ∧ dva ≤ hi ∧ lo < dva + size
    let t := translationInvalidate s asid lo hi
    t = { s with fld := t.fld } ∧ ∀ g, g < 36 →
      (fieldOf t g).str.tlb = (fieldOf s g).str.tlb.filter (fun e => !decide (gone e.asid e.dva e.size)) ∧
      (fieldOf t g).str.walks = (fieldOf s g).str.walks.filter (fun e => !decide (gone e.asid e.dva e.size)) ∧
      (∀ l ∈ (fieldOf t g).str.etlb, ∀ e ∈ l.2, ¬ gone e.asid e.dva e.size) ∧
      (∀ l ∈ (fieldOf s g).str.etlb, ∀ e ∈ l.2, ¬ gone e.asid e.dva e.size → ∃ m ∈ (fieldOf t g).str.etlb, m.1 = l.1 ∧ e ∈ m.2) := by
  intro gone t
  have ht : t = modFields s fun _ x => { x with str := dropXlates (fun b dva size => b == asid && decide (dva ≤ hi ∧ lo < dva + size)) x.str } :=
    if_neg (by simp [hup])
  have hp : ∀ a dva size, (a == asid && decide (dva ≤ hi ∧ lo < dva + size)) = decide (gone a dva size) := fun a dva size => by
    by_cases ha : a = asid <;> simp [gone, ha]
  clear_value t
  obtain ⟨l, hl⟩ := modFields_frame s fun _ x => { x with str := dropXlates (fun b dva size => b == asid && decide (dva ≤ hi ∧ lo < dva + size)) x.str }
  refine ⟨by rw [ht, hl], fun g hg => ?_⟩
  rw [ht, fieldOf_modFields, if_pos hg]
  dsimp only [dropXlates]
  simp only [hp]
  refine ⟨trivial, trivial, fun l hl e he => ?_, fun l hl e he hno => ?_⟩
  · obtain ⟨l', hl', rfl⟩ := List.mem_map.1 (List.mem_filter.1 hl).1
    simpa using (List.mem_filter.1 he).2
  · have hin : e ∈ l.2.filter fun t => !decide (gone t.asid t.dva t.size) := List.mem_filter.2 ⟨he, by simpa using hno⟩
    refine ⟨(l.1, l.2.filter fun t => !decide (gone t.asid t.dva t.size)), List.mem_filter.2 ⟨List.mem_map.2 ⟨l, hl, rfl⟩, ?_⟩, rfl, hin⟩
    simpa using List.ne_nil_of_mem hin

/-! ## A drain that takes too long -/

theorem str_of_burstView {f : Nat} (h : burstView f t = burstView f s) : (fieldOf t f).str.str = (fieldOf s f).str.str :=
  (field_of_burstView h).1

/-- An open transfer that a drain abandons: it frees its tag, with its credit owed where it holds one. -/
def abandon (f : Nat) (s : State) (x : Transfer) : State := endXfer (if x.landed || x.chan != 0 then owesCredit s f x else s) f x.tag

theorem abandon_acts (s : State) (f : Nat) (x : Transfer) :
    (fieldOf (abandon f s x) f).str.xfer = eraseFirst (fun z => z.tag == x.tag) (fieldOf s f).str.xfer ∧
      (fieldOf (abandon f s x) f).str.str = (fieldOf s f).str.str ∧ ∃ l, abandon f s x = { s with fld := l } := by
  have hu : burstView f (if x.landed || x.chan != 0 then owesCredit s f x else s) = burstView f s := by
    split
    · exact burstView_owesCredit s f x
    · rfl
  unfold abandon
  generalize (if x.landed || x.chan != 0 then owesCredit s f x else s) = u at hu
  obtain ⟨hx, -, l, hl⟩ := endXfer_acts u f x.tag
  have hux : (fieldOf u f).str.xfer = (fieldOf s f).str.xfer := congrArg (fun v => v.2.1) hu
  have hr := rest_of_burstView hu
  refine ⟨hx.trans (congrArg (eraseFirst fun z => z.tag == x.tag) hux), ?_, l, by rw [hl, hr]⟩
  have hd := burstView_dropRecord u f x.tag
  rw [endXfer, fieldOf_modField, if_pos rfl]
  exact (str_of_burstView hd).trans (str_of_burstView hu)

theorem eraseFirst_eq_eraseP {α : Type} (p : α → Bool) (l : List α) : eraseFirst p l = l.eraseP p := by
  induction l with
  | nil => rfl
  | cons x l ih => rw [eraseFirst, List.eraseP_cons, ih]; cases p x <;> rfl

/-- Of transfers with different tags, none with the tag is left once one has been taken off. -/
theorem mem_eraseFirst_tag {z : Transfer} {tag : Nat} {l : List Transfer} (hnd : (l.map (·.tag)).Nodup)
    (hz : z ∈ eraseFirst (fun y => y.tag == tag) l) : z ∈ l ∧ z.tag ≠ tag := by
  induction l with
  | nil => exact absurd hz List.not_mem_nil
  | cons x l ih =>
    obtain ⟨hx, hl⟩ := List.nodup_cons.1 hnd
    rw [eraseFirst] at hz
    by_cases htag : x.tag = tag
    · rw [if_pos (by simpa using htag)] at hz
      exact ⟨List.mem_cons_of_mem _ hz, fun h => hx (List.mem_map.2 ⟨z, hz, h.trans htag.symm⟩)⟩
    · rw [if_neg (by simpa using htag)] at hz
      rcases List.mem_cons.1 hz with rfl | hz
      · exact ⟨List.mem_cons_self, htag⟩
      · exact ⟨List.mem_cons_of_mem _ (ih hl hz).1, (ih hl hz).2⟩

/-- What is left of the transfers once those of `l` have been abandoned. -/
theorem foldl_abandon {f : Nat} (l : List Transfer) (s : State) (hnd : ((fieldOf s f).str.xfer.map (·.tag)).Nodup) :
    (∀ z ∈ (fieldOf (l.foldl (abandon f) s) f).str.xfer, z ∈ (fieldOf s f).str.xfer ∧ ∀ x ∈ l, z.tag ≠ x.tag) ∧
      (fieldOf (l.foldl (abandon f) s) f).str.str = (fieldOf s f).str.str ∧ ∃ k, l.foldl (abandon f) s = { s with fld := k } := by
  induction l generalizing s with
  | nil => exact ⟨fun z hz => ⟨hz, fun x hx => absurd hx List.not_mem_nil⟩, rfl, _, rfl⟩
  | cons x l ih =>
    obtain ⟨hx, hstr, k, hk⟩ := abandon_acts s f x
    have hnd' : ((fieldOf (abandon f s x) f).str.xfer.map (·.tag)).Nodup := by
      rw [hx, eraseFirst_eq_eraseP]
      exact hnd.sublist (List.eraseP_sublist.map _)
    obtain ⟨hmem, hstr', k', hk'⟩ := ih (abandon f s x) hnd'
    rw [List.foldl_cons]
    refine ⟨fun z hz => ?_, hstr'.trans hstr, k', by rw [hk', hk]⟩
    obtain ⟨hz, hl⟩ := hmem z hz
    rw [hx] at hz
    obtain ⟨hzs, htag⟩ := mem_eraseFirst_tag hnd hz
    exact ⟨hzs, fun y hy => (List.mem_cons.1 hy).elim (fun h => h ▸ htag) (hl y)⟩

theorem foldl_min_le (l : List Transfer) (n : Nat) :
    l.foldl (fun m t => min m t.block) n ≤ n ∧ ∀ z ∈ l, l.foldl (fun m t => min m t.block) n ≤ z.block := by
  induction l generalizing n with
  | nil => exact ⟨le_rfl, fun z hz => absurd hz List.not_mem_nil⟩
  | cons x l ih =>
    obtain ⟨hn, hl⟩ := ih (min n x.block)
    exact ⟨hn.trans (min_le_left _ _), fun z hz => (List.mem_cons.1 hz).elim (fun h => h ▸ hn.trans (min_le_right _ _)) (hl z)⟩

theorem streamDrainTimeout_acts {f : FieldIx} {st : Fin 256} (hclk : fieldClocked s f = true) (hdrain : (streamOf s f st).draining = true)
    (hopen : openXfers s f st ≠ []) (hrel : (streamOf s f st).releasing = false) (hbeg : (streamOf s f st).begun = false)
    (hnd : ((fieldOf s f).str.xfer.map (·.tag)).Nodup) :
    let t := streamDrainTimeout s f st
    openXfers t f st = [] ∧ (∀ z ∈ openXfers s f st, z.punnet = false → (streamOf t f st).boff ≤ z.block) ∧
      (streamOf t f st).boff ≤ (streamOf s f st).next ∧ t = { s with fld := t.fld } := by
  intro t
  have ht : t = streamDrainTimeout s f st := rfl
  unfold streamDrainTimeout at ht
  rw [if_neg (by simp [hclk, hdrain, hopen])] at ht
  clear_value t
  extract_lets first u v at ht
  obtain ⟨hfirst, hblocks⟩ := foldl_min_le ((openXfers s f st).filter fun t => !t.punnet) (streamOf s f st).next
  change first ≤ (streamOf s f st).next at hfirst
  change ∀ z : Transfer, z ∈ _ → first ≤ z.block at hblocks
  obtain ⟨hmem, hstr, k, hk⟩ := foldl_abandon (openXfers s f st) s hnd
  change ∀ z ∈ (fieldOf u f).str.xfer, _ at hmem
  change (fieldOf u f).str.str = _ at hstr
  change u = _ at hk
  clear_value first u
  have hvf : fieldOf v f = _ := fieldOf_modStr (s := u) f f _
  rw [if_pos rfl] at hvf
  have hvy : streamOf v f st = { streamOf s f st with next := first, boff := first, moved := first } := by
    rw [show streamOf v f st = _ from streamOf_modStream u f st st _, if_pos rfl, streamOf_of_str hstr]
  have hvl : ∃ k, v = { u with fld := k } := ⟨_, rfl⟩
  have hvx : (fieldOf v f).str.xfer = (fieldOf u f).str.xfer := by rw [hvf]
  clear_value v
  have hty : streamOf t f st = streamOf v f st := by
    rw [ht, settleStream, streamOf_modStream, if_pos rfl, hvy]
    simp [hrel, hbeg]
  have htx : (fieldOf t f).str.xfer = (fieldOf v f).str.xfer := by
    rw [ht, settleStream, modStream, fieldOf_modStr, if_pos rfl]
  refine ⟨?_, fun z hz hpun => ?_, ?_, ?_⟩
  · rw [openXfers, htx, hvx, List.filter_eq_nil_iff]
    intro z hz hst
    obtain ⟨hzs, hno⟩ := hmem z hz
    exact hno z (List.mem_filter.2 ⟨hzs, hst⟩) rfl
  · rw [hty, hvy]
    exact hblocks z (List.mem_filter.2 ⟨hz, by rw [hpun]; rfl⟩)
  · rw [hty, hvy]
    exact hfirst
  · obtain ⟨k', hk'⟩ := hvl
    rw [ht, hk', hk]
    rfl

end Sys2Proof.Proofs.Service
end

section
/-! SUPPORT. Scrub visits (R242, R245, R271, R355, R356). -/

namespace Sys2Proof.Proofs.Scrubs

open Sys2Proof.Laws Sys2Proof.Machine Sys2Proof Sys2Proof.Proofs.Links Sys2Proof.Proofs.Spares Sys2Proof.Proofs.TierReads Sys2Proof.Proofs.Rind Sys2Proof.Proofs.Units

variable {s t u : State}

/-! ## What a read of a granule notes -/

/-- What the count of a corrected word leaves of a field: its clock, and all of its memory's state but the counts. -/
def countView (f : Nat) (s : State) : FieldMem × FieldClock := ({ (fieldOf s f).mem with ce := [] }, (fieldOf s f).clk)

theorem countView_of_fld {f : Nat} (h : t.fld = s.fld) : countView f t = countView f s := by
  rw [countView, fieldOf, h, countView, fieldOf]

/-- A corrected word is counted once at its place, in its field (R245). -/
theorem countCorrected_acts {f : Nat} {oda : Nat} (hf : bitsOf oda 34 6 = f) (s : State) :
    countView f (countCorrected s oda) = countView f s ∧ (countCorrected s oda).stem = s.stem ∧
      tabGet 0 (fieldOf (countCorrected s oda) f).mem.ce (placeKey oda) = tabGet 0 (fieldOf s f).mem.ce (placeKey oda) + 1 := by
  subst hf
  unfold countCorrected
  extract_lets f k n v w
  have hv : fieldOf v f = _ := fieldOf_modFmem (s := s) f f _
  rw [if_pos rfl] at hv
  have hw : fieldOf w f = { fieldOf v f with cond := { (fieldOf v f).cond with remapDue := true } } := by
    show fieldOf (modCond v f fun x => { x with remapDue := true }) f = _
    rw [fieldOf_modCond, if_pos rfl]
  have hce : tabGet 0 (fieldOf v f).mem.ce k = n := by
    rw [hv]
    exact tabGet_put_same 0 k n _
  have hview : countView f v = countView f s := by rw [countView, hv]; rfl
  have hvs : v.stem = s.stem := rfl
  have hgoal : ∀ z : State, fieldOf z f = { fieldOf v f with cond := (fieldOf z f).cond } → z.stem = s.stem →
      countView f z = countView f s ∧ z.stem = s.stem ∧ tabGet 0 (fieldOf z f).mem.ce (placeKey oda) = n := fun z hz hs => by
    refine ⟨?_, hs, by rw [hz]; exact hce⟩
    rw [← hview, countView, hz]
    rfl
  have hwv : fieldOf w f = { fieldOf v f with cond := (fieldOf w f).cond } := by rw [hw]
  have hws : w.stem = s.stem := rfl
  clear_value w v
  split
  · exact hgoal v rfl hvs
  · split
    · split
      · exact hgoal _ hwv hws
      · exact hgoal _ hwv hws
    · split
      · exact hgoal _ hwv hws
      · exact hgoal _ hwv hws

theorem raiseAt_acts (s : State) (f : FieldIx) (oda code : Nat) :
    (raiseAt s f oda code).fld = s.fld ∧ Tells s (raiseAt s f oda code) ∧ ∃ e ∈ (raiseAt s f oda code).stem.events, e.code = BitVec.ofNat 16 code := by
  have hev : ∀ m : ErrMsg, m.code = BitVec.ofNat 16 code → ∃ e ∈ (raise s m).stem.events, e.code = BitVec.ofNat 16 code := fun m hm => by
    obtain ⟨e, he, hc, -⟩ := exists_mem_mergeEvent m s.stem.events
    exact ⟨e, he, hc.trans hm⟩
  unfold raiseAt
  split
  · exact ⟨rfl, tells_raise s _, hev _ rfl⟩
  · exact ⟨rfl, tells_raise s _, hev _ rfl⟩

/-- Each soft word of a granule is counted and reported (R242, R245). -/
theorem countSoft_acts {f : FieldIx} {g : Nat} (hf : bitsOf (64 * g) 34 6 = f.val) (s : State) :
    countView f (countSoft f g s) = countView f s ∧ Tells s (countSoft f g s) ∧
      tabGet 0 (fieldOf (countSoft f g s) f).mem.ce (placeKey (64 * g)) =
        tabGet 0 (fieldOf s f).mem.ce (placeKey (64 * g)) + (softWords (flipsOf s.mem g)).length ∧
      (softWords (flipsOf s.mem g) ≠ [] → ∃ e ∈ (countSoft f g s).stem.events, e.code = 0x0001) := by
  unfold countSoft
  generalize softWords (flipsOf s.mem g) = l
  induction l generalizing s with
  | nil => exact ⟨rfl, tells_of_stem rfl, rfl, fun h => absurd rfl h⟩
  | cons w l ih =>
    obtain ⟨hfld, htells, e, he, hcode⟩ := raiseAt_acts s f (64 * g) 0x0001
    obtain ⟨hview, hstem, hce⟩ := countCorrected_acts hf (raiseAt s f (64 * g) 0x0001)
    obtain ⟨hview', htells', hce', -⟩ := ih (countCorrected (raiseAt s f (64 * g) 0x0001) (64 * g))
    rw [List.foldl_cons]
    refine ⟨hview'.trans (hview.trans (countView_of_fld hfld)), htells.trans ((tells_of_stem hstem).trans htells'), ?_, fun _ => ?_⟩
    · rw [hce', hce, fieldOf, hfld, List.length_cons, ← fieldOf]
      omega
    · obtain ⟨e', he', hcode', -⟩ := ((tells_of_stem hstem).trans htells') e he
      exact ⟨e', he', hcode'.trans hcode⟩

/-- What the read of a granule notes. -/
theorem readGranule_acts {f : FieldIx} {g : Nat} (hf : bitsOf (64 * g) 34 6 = f.val) (s : State) :
    let t := readGranule f s g
    let bad := flipsOf s.mem g
    countView f t = countView f s ∧ Tells s t ∧ t.mem = { s.mem with dieBr := t.mem.dieBr } ∧
      tabGet 0 (fieldOf t f).mem.ce (placeKey (64 * g)) = tabGet 0 (fieldOf s f).mem.ce (placeKey (64 * g)) + (softWords bad).length ∧
      (softWords bad ≠ [] → ∃ e ∈ t.stem.events, e.code = 0x0001) ∧
      (hardWords bad ≠ [] → tabGet false t.mem.dieBr g = true ∧ ∃ e ∈ t.stem.events, e.code = 0x0101) := by
  obtain ⟨hview, htells, hce, hsoft⟩ := countSoft_acts hf s
  have hmem := countSoft_mem f g s
  intro t bad
  have ht : t = _ := readGranule_eq f s g
  clear_value t
  generalize countSoft f g s = u at *
  by_cases hh : hardWords bad = []
  · rw [if_pos (by simpa using hh)] at ht
    subst ht
    exact ⟨hview, htells, by rw [hmem], hce, hsoft, fun h => absurd hh h⟩
  · rw [if_neg (by simpa using hh)] at ht
    obtain ⟨hfld, htells', e, he, hcode⟩ := raiseAt_acts { u with mem := { u.mem with dieBr := brSet u.mem.dieBr g true } } f (64 * g) 0x0101
    have htm := raiseAt_mem { u with mem := { u.mem with dieBr := brSet u.mem.dieBr g true } } f (64 * g) 0x0101
    rw [← ht] at hfld htells' he htm
    have htu : Tells u t := htells'
    refine ⟨(countView_of_fld (s := u) hfld).trans hview, htells.trans htu, by rw [htm, hmem], ?_, fun h => ?_, fun _ => ⟨?_, e, he, hcode⟩⟩
    · rw [fieldOf, hfld]
      exact hce
    · obtain ⟨e, he, hcode⟩ := hsoft h
      obtain ⟨e', he', hcode', -⟩ := htu e he
      exact ⟨e', he', hcode'.trans hcode⟩
    · rw [htm]
      exact tabGet_put_same false g true _

/-! ## A scrub visit -/

theorem tabGet_brFill (br : Tab Bool) (a n h : Nat) :
    tabGet false (brFill br a n true) h = if h ∈ granulesOf a n then true else tabGet false br h := by
  rw [brFill]
  have hput := Vector.tabGet_foldl_put false true (fun g : Nat => g) (granulesOf a n) br h
  rw [List.map_id'] at hput
  exact hput

theorem mem_granulesOf_block (blk h : Nat) : h ∈ granulesOf (4096 * blk) 4096 ↔ h / 64 = blk := by
  simp only [granulesOf, show ¬ (4096 : Nat) = 0 by decide, if_false, List.mem_map, List.mem_range]
  constructor
  · rintro ⟨i, hi, rfl⟩
    omega
  · intro hh
    exact ⟨h - 64 * blk, by omega, by omega⟩

/-- A visit waits for its granule's turn (R271). -/
theorem scrubVisit_acts {f : FieldIx} {p : MemPlace} {n : Nat} (hrun : fieldRuns s f = true)
    (hon : placeOn (fieldOf s f) (placeKey ((placeBytes f p).1 + 64 * (n % ((placeBytes f p).2 / 64)))) = true) :
    scrubVisit s f p n = modFmem s f fun m =>
      { m with scrub := m.scrub ++ [{ granule := ((placeBytes f p).1 + 64 * (n % ((placeBytes f p).2 / 64))) / 64 }] } := by
  have hg : placeGranule f p n = ((placeBytes f p).1 + 64 * (n % ((placeBytes f p).2 / 64))) / 64 := by
    rw [placeGranule, Nat.add_mul_div_left _ _ (by decide : 0 < 64)]
  have h64 : 64 * placeGranule f p n = (placeBytes f p).1 + 64 * (n % ((placeBytes f p).2 / 64)) := by
    have hdvd : (placeBytes f p).1 % 64 = 0 := by
      cases p with
      | seg b c k => simp only [placeBytes]; omega
      | bank k => simp only [placeBytes]; omega
    rw [hg]
    omega
  unfold scrubVisit
  dsimp only
  rw [h64, if_neg (by simp [hrun, hon]), hg]

/-- The state in which a visit has read granule `g` and has been noted; the handling of its field's domain ends where the read restored it. -/
theorem seen_granulesDone {f : FieldIx} (g lo hi : Nat) (c : Bool) (s : State) :
    let t := modFmem s f fun m => { m with seen := tabPut false g true m.seen }
    let u := if c then granulesDone t f lo hi else t
    (fieldOf u f).mem = { (fieldOf s f).mem with seen := tabPut false g true (fieldOf s f).mem.seen } ∧ (fieldOf u f).clk = (fieldOf s f).clk ∧
      u.mem = s.mem ∧ u.stem = s.stem := by
  intro t u
  have ht : fieldOf t f = { fieldOf s f with mem := { (fieldOf s f).mem with seen := tabPut false g true (fieldOf s f).mem.seen } } := by
    rw [show fieldOf t f = _ from fieldOf_modFmem (s := s) f f _, if_pos rfl]
  have hts : t.mem = s.mem ∧ t.stem = s.stem := ⟨rfl, rfl⟩
  have hu : ∃ m l, u = { t with dom := m, log := l } := by
    show ∃ m l, (if c then granulesDone t f lo hi else t) = _
    split
    · obtain ⟨m, l, h, -⟩ := granulesDone_frame t f lo hi
      exact ⟨m, l, h⟩
    · exact ⟨t.dom, t.log, rfl⟩
  clear_value u
  obtain ⟨m, l, rfl⟩ := hu
  exact ⟨congrArg (·.mem) ht, congrArg (·.clk) ht, hts⟩

/-- The state in which a visit has read its granule, before it looks at the block. -/
def visited (f : FieldIx) (s : State) (g : Nat) : State :=
  let s := modFmem (readGranule f s g) f fun m => { m with seen := tabPut false g true m.seen }
  if (hardWords (flipsOf s.mem g)).isEmpty then granulesDone s f (64 * g) (64 * g + 64) else s

/-- What a visit does at its granule's block once it has read the granule. -/
def blockVisit (f : FieldIx) (u : State) (g : Nat) : State :=
  if !blockSeen (fieldOf u f).mem g then u
  else if tabGet false u.mem.unckd (g / 64) then putWord u (g / 64) (crc32c 4096 (blockBytes u (g / 64)))
  else if wordWrong u (g / 64) then
    raiseField { u with mem := { u.mem with dieBr := brFill u.mem.dieBr (4096 * (g / 64)) 4096 true } } f 0x0105 0 7 (4096 * (g / 64)) 0
  else u

theorem scrubRead_eq (f : FieldIx) (s : State) (x : Scrub) : scrubRead f s x = blockVisit f (visited f s x.granule) x.granule := rfl

theorem visited_acts {f : FieldIx} {g : Nat} (hf : bitsOf (64 * g) 34 6 = f.val) (s : State) :
    let u := visited f s g
    let bad := flipsOf s.mem g
    (∃ ce, (fieldOf u f).mem = { (fieldOf s f).mem with ce := ce, seen := tabPut false g true (fieldOf s f).mem.seen } ∧
      tabGet 0 ce (placeKey (64 * g)) = tabGet 0 (fieldOf s f).mem.ce (placeKey (64 * g)) + (softWords bad).length) ∧
      (fieldOf u f).clk = (fieldOf s f).clk ∧ Tells s u ∧ u.mem = { s.mem with dieBr := u.mem.dieBr } ∧
      (softWords bad ≠ [] → ∃ e ∈ u.stem.events, e.code = 0x0001) ∧
      (hardWords bad ≠ [] → tabGet false u.mem.dieBr g = true ∧ ∃ e ∈ u.stem.events, e.code = 0x0101) := by
  obtain ⟨hview, htells, hmem, hce, hsoft, hhard⟩ := readGranule_acts hf s
  intro u bad
  obtain ⟨hum, huc, humem, hustem⟩ := seen_granulesDone (f := f) g (64 * g) (64 * g + 64)
    (hardWords (flipsOf (modFmem (readGranule f s g) f fun m => { m with seen := tabPut false g true m.seen }).mem g)).isEmpty (readGranule f s g)
  change (fieldOf u f).mem = _ at hum
  change (fieldOf u f).clk = _ at huc
  change u.mem = _ at humem
  change u.stem = _ at hustem
  clear_value u
  generalize readGranule f s g = v at *
  obtain ⟨hvm, hvc⟩ := Prod.mk.inj hview
  have hfm : (fieldOf v f).mem = { (fieldOf s f).mem with ce := (fieldOf v f).mem.ce } := by
    have h := congrArg (fun m : FieldMem => { m with ce := (fieldOf v f).mem.ce }) hvm
    exact h
  refine ⟨⟨(fieldOf v f).mem.ce, ?_, hce⟩, huc.trans hvc, htells.trans (tells_of_stem hustem), ?_, ?_, ?_⟩
  · rw [hum, hfm]
  · rw [humem]
    exact hmem
  · rw [hustem]
    exact hsoft
  · rw [hustem, humem]
    exact hhard

/-- What a visit to a whole block may do after its read of the granule leaves the fields, the bytes and what has been told. -/
theorem blockVisit_keeps (f : FieldIx) (u : State) (g : Nat) :
    (blockVisit f u g).fld = u.fld ∧ (blockVisit f u g).mem.die = u.mem.die ∧ Tells u (blockVisit f u g) ∧
      ∀ h, tabGet false u.mem.dieBr h = true → tabGet false (blockVisit f u g).mem.dieBr h = true := by
  unfold blockVisit
  split
  · exact ⟨rfl, rfl, tells_of_stem rfl, fun _ h => h⟩
  · split
    · exact ⟨rfl, rfl, tells_of_stem rfl, fun _ h => h⟩
    · split
      · refine ⟨rfl, rfl, tells_raise u _, fun h hh => ?_⟩
        show tabGet false (brFill u.mem.dieBr _ _ true) h = true
        rw [tabGet_brFill, hh, ite_self]
      · exact ⟨rfl, rfl, tells_of_stem rfl, fun _ h => h⟩

/-- The visit to a clean granule: the block's other granules have all been visited, or not yet. -/
theorem blockSeen_iff {m m' : FieldMem} {g : Nat} (hm : m'.seen = tabPut false g true m.seen) :
    blockSeen m' g = true ↔ ∀ i, i < 64 → 64 * (g / 64) + i ≠ g → tabGet false m.seen (64 * (g / 64) + i) = true := by
  rw [blockSeen, List.all_eq_true, hm]
  simp only [List.mem_range, tabGet_put, Nat.mul_comm (g / 64) 64]
  refine forall₂_congr fun i _ => ?_
  by_cases hg : g = 64 * (g / 64) + i
  · rw [if_pos hg]
    simp [← hg]
  · rw [if_neg hg]
    exact ⟨fun h _ => h, fun h => h (Ne.symm hg)⟩

theorem readGranule_of_clean {g : Nat} (f : FieldIx) (hbad : flipsOf s.mem g = []) : readGranule f s g = s := by
  have hsoft : softWords (flipsOf s.mem g) = [] := by rw [hbad]; rfl
  have hhard : hardWords (flipsOf s.mem g) = [] := by rw [hbad]; rfl
  unfold readGranule
  dsimp only
  rw [hsoft, hhard]
  rfl

/-- The visit to a granule without an error leaves memory and what is told, but for the block's last visit. -/
theorem visited_of_clean {f : FieldIx} {g : Nat} (hbad : flipsOf s.mem g = []) : (visited f s g).mem = s.mem ∧ (visited f s g).stem = s.stem := by
  obtain ⟨-, -, humem, hustem⟩ := seen_granulesDone (f := f) g (64 * g) (64 * g + 64)
    (hardWords (flipsOf (modFmem s f fun m => { m with seen := tabPut false g true m.seen }).mem g)).isEmpty s
  unfold visited
  rw [readGranule_of_clean f hbad]
  exact ⟨humem, hustem⟩

/-- The check word of a block is made valid, or compared, with the last visit to its granules (R245; log 185). -/
theorem scrubRead_of_clean {f : FieldIx} (x : Scrub) (hf : bitsOf (64 * x.granule) 34 6 = f.val) (hbad : flipsOf s.mem x.granule = []) :
    let t := scrubRead f s x
    let g := x.granule
    let blk := g / 64
    let whole := ∀ i, i < 64 → 64 * blk + i ≠ g → tabGet false (fieldOf s f).mem.seen (64 * blk + i) = true
    (¬ whole → t.mem = s.mem ∧ t.stem = s.stem) ∧
    (whole → tabGet false s.mem.unckd blk = true → tabGet false t.mem.unckd blk = false ∧ t.mem.dieBr = s.mem.dieBr ∧ t.stem = s.stem) ∧
    (whole → wordWrong s blk = true →
      (∀ h, h / 64 = blk → tabGet false t.mem.dieBr h = true) ∧ (∀ h, h / 64 ≠ blk → tabGet false t.mem.dieBr h = tabGet false s.mem.dieBr h) ∧
      Raises s t (mkEvent (fieldAddr f) (slotOf s f) 0x0105 0 0 7 (4096 * blk) 0)) := by
  intro t g blk whole
  obtain ⟨⟨ce, hmem, -⟩, hclk, -⟩ := visited_acts hf s
  obtain ⟨humem, hustem⟩ := visited_of_clean (f := f) hbad
  have ht : t = blockVisit f (visited f s g) g := scrubRead_eq f s x
  have hseen : blockSeen (fieldOf (visited f s x.granule) f).mem x.granule = true ↔ whole := blockSeen_iff (by rw [hmem])
  clear_value t
  rw [blockVisit] at ht
  generalize visited f s x.granule = u at *
  have hslot : slotOf u f = slotOf s f := by rw [slotOf, hclk, slotOf]
  have hword : wordWrong u blk = wordWrong s blk := by rw [wordWrong, humem, wordWrong]
  refine ⟨fun hno => ?_, fun hwh hck => ?_, fun hwh hww => ?_⟩
  · rw [if_pos (by simpa using hseen.not.2 hno)] at ht
    rw [ht]
    exact ⟨humem, hustem⟩
  · rw [if_neg (by simpa using hseen.2 hwh), humem, if_pos hck] at ht
    rw [ht]
    exact ⟨(blockWord_putWord u blk (crc32c_lt _ _)).1, congrArg (·.dieBr) humem, hustem⟩
  · have hck : tabGet false s.mem.unckd blk = false := by
      simp only [wordWrong, Bool.and_eq_true, Bool.not_eq_true'] at hww
      exact hww.1
    rw [if_neg (by simpa using hseen.2 hwh), humem, if_neg (ne_true_of_eq_false hck), if_pos (hword.trans hww)] at ht
    have hbr : ∀ h, tabGet false t.mem.dieBr h = if h / 64 = blk then true else tabGet false s.mem.dieBr h := fun h => by
      rw [ht, show (raiseField _ _ _ _ _ _ _).mem.dieBr = brFill s.mem.dieBr (4096 * blk) 4096 true from rfl, tabGet_brFill]
      simp only [mem_granulesOf_block]
    refine ⟨fun h hh => by rw [hbr, if_pos hh], fun h hh => by rw [hbr, if_neg hh], ?_⟩
    rw [ht]
    exact raises_raiseField hustem hslot _ _ _ _ _

/-- A flipped bit that the correction leaves: it lies in a word of two flipped bits or more. -/
def keptFlip (l : List Nat) (n : Nat) : Bool :=
  match flipWord n with
  | some w => (hardWords l).contains w
  | none => false

theorem flipsOf_scrubBack (s : State) (g : Nat) : flipsOf (scrubBack s g).mem g = (flipsOf s.mem g).filter (keptFlip (flipsOf s.mem g)) :=
  tabGet_put_same [] g _ _

/-- After the correction is written back, no word of the granule holds one flipped bit. -/
theorem softWords_scrubBack (s : State) (g : Nat) : softWords (flipsOf (scrubBack s g).mem g) = [] := by
  rw [flipsOf_scrubBack, softWords, List.filter_eq_nil_iff]
  intro w _
  rw [beq_iff_eq, wordFlips, List.filter_filter]
  generalize flipsOf s.mem g = l
  by_cases hh : w ∈ hardWords l
  · have hcongr : l.filter (fun n => (flipWord n == some w) && keptFlip l n) = l.filter fun n => flipWord n == some w := by
      refine List.filter_congr fun n _ => ?_
      by_cases hn : flipWord n = some w
      · simp [keptFlip, hn, hh]
      · simp [hn]
    have h2 : 2 ≤ wordFlips l w := of_decide_eq_true (List.mem_filter.1 hh).2
    rw [wordFlips] at h2
    rw [hcongr]
    omega
  · have hnil : l.filter (fun n => (flipWord n == some w) && keptFlip l n) = [] := by
      rw [List.filter_eq_nil_iff]
      intro n _
      by_cases hn : flipWord n = some w
      · simp [keptFlip, hn, hh]
      · simp [hn]
    rw [hnil]
    decide

/-- One visit of a slot (R245, R271, R355, R356). -/
theorem scrubOne_acts {f : FieldIx} {v : Scrub} {slot : Nat} {used : List Nat}
    (hon : placeOn (fieldOf s f) (placeKey (64 * v.granule)) = true) :
    let g := v.granule
    let bad := flipsOf s.mem g
    let free := scrubFree s f slot used (64 * g) = true
    let r := scrubOne f slot (s, used) v
    let l := if softWords bad = [] then [] else [{ v with read := slot + 1 }]
    (¬ free → r = (modFmem s f fun m => { m with scrub := m.scrub ++ [v] }, used)) ∧
      (free → v.read = 0 → r = (modFmem (scrubRead f s v) f fun m => { m with scrub := m.scrub ++ l }, streamPort (64 * g) :: used)) ∧
      (free → v.read ≠ 0 → r = (scrubBack s g, streamPort (64 * g) :: used)) := by
  intro g bad free r l
  have hr : r = scrubOne f slot (s, used) v := rfl
  clear_value r
  unfold scrubOne at hr
  dsimp only at hr
  rw [if_neg (by simp [hon])] at hr
  refine ⟨fun hno => ?_, fun hfree hread => ?_, fun hfree hread => ?_⟩
  · rw [hr, if_pos (by simpa [free] using hno)]
  · rw [hr, if_neg (by rw [show scrubFree s f slot used (64 * v.granule) = true from hfree]; decide), if_pos hread]
    refine congrArg (fun k => (modFmem (scrubRead f s v) f fun m => { m with scrub := m.scrub ++ k }, streamPort (64 * g) :: used)) ?_
    show (if (!(softWords bad).isEmpty) = true then _ else _) = if softWords bad = [] then _ else _
    by_cases hs : softWords bad = []
    · rw [if_pos hs, if_neg (by simp [hs])]
    · rw [if_neg hs, if_pos (by simpa using hs)]
  · rw [hr, if_neg (by rw [show scrubFree s f slot used (64 * v.granule) = true from hfree]; decide), if_neg hread]

end Sys2Proof.Proofs.Scrubs
end

section
/-! SUPPORT. Segments, banks and channels (R235, R236, R239, R396). -/

namespace Sys2Proof.Proofs.Places

open Sys2Proof.Laws Sys2Proof.Machine Sys2Proof Sys2Proof.Proofs.Links Sys2Proof.Proofs.Spares

variable {s t u : State}

/-! ## Segments and banks -/

theorem segOf_putSeg (m : FieldMem) (p : MemPlace) (x : SegSt) : segOf (putSeg m p x) p = x := by
  cases p with
  | seg b c n => exact tabGet_put_same {} _ x _
  | bank n => exact tabGet_put_same {} _ x _

theorem memByte_clear (m : List Host.Cell) (lo n a : Nat) :
    memByte (memClear m lo n) a = if a < lo ∨ lo + n ≤ a then memByte m a else 0 := by
  have h := tabGet_filter 0 (fun i => decide (i < lo ∨ lo + n ≤ i)) m a
  simp only [decide_eq_true_eq] at h
  exact h

/-- A place that is cleared reads zero, and only it changes. -/
theorem clearPlace_acts (s : State) (f : Nat) (p : MemPlace) :
    (∀ n, memByte (clearPlace s f p).mem.die n =
      if n < (placeBytes f p).1 ∨ (placeBytes f p).1 + (placeBytes f p).2 ≤ n then memByte s.mem.die n else 0) ∧
      ∃ m, clearPlace s f p = { s with mem := m } :=
  ⟨fun n => memByte_clear s.mem.die _ _ n, _, rfl⟩

theorem setPlace_acts (s : State) (f : Nat) (p : MemPlace) (st a : Nat) :
    let t := setPlace s f p st a
    let old := segOf (fieldOf s f).mem p
    segOf (fieldOf t f).mem p = { st := st, owner := if st = 0 then 0 else a } ∧
      (∀ n, old.st = 0 ∨ st = 0 ∨ old.owner ≠ a → (placeBytes f p).1 ≤ n → n < (placeBytes f p).1 + (placeBytes f p).2 → memByte t.mem.die n = 0) ∧
      (∀ n, n < (placeBytes f p).1 ∨ (placeBytes f p).1 + (placeBytes f p).2 ≤ n → memByte t.mem.die n = memByte s.mem.die n) ∧
      (∀ g, g ≠ f → fieldOf t g = fieldOf s g) := by
  intro t old
  have ht : t = modFmem (if old.st = 0 ∨ st = 0 ∨ old.owner ≠ a then clearPlace s f p else s) f fun m =>
      putSeg m p { st := st, owner := if st = 0 then 0 else a } := rfl
  clear_value t
  obtain ⟨hbytes, m, hm⟩ := clearPlace_acts s f p
  have hu : ∃ m, (if old.st = 0 ∨ st = 0 ∨ old.owner ≠ a then clearPlace s f p else s) = { s with mem := m } ∧
      (old.st = 0 ∨ st = 0 ∨ old.owner ≠ a → ∀ n, (placeBytes f p).1 ≤ n → n < (placeBytes f p).1 + (placeBytes f p).2 → memByte m.die n = 0) ∧
      ∀ n, n < (placeBytes f p).1 ∨ (placeBytes f p).1 + (placeBytes f p).2 ≤ n → memByte m.die n = memByte s.mem.die n := by
    rw [hm] at hbytes
    split
    · refine ⟨m, hm, fun _ n hlo hhi => (hbytes n).trans (if_neg (by omega)), fun n hn => (hbytes n).trans (if_pos hn)⟩
    · next hno => exact ⟨s.mem, rfl, fun h => absurd h hno, fun _ _ => rfl⟩
  obtain ⟨m', hu, hzero, hrest⟩ := hu
  rw [hu] at ht
  subst ht
  refine ⟨?_, fun n hc hlo hhi => hzero hc n hlo hhi, hrest, fun g hg => ?_⟩
  · rw [fieldOf_modFmem, if_pos rfl]
    exact segOf_putSeg _ p _
  · rw [fieldOf_modFmem, if_neg (Ne.symm hg)]
    rfl

/-- A segment or bank takes its declared state before its job starts, or is left OFF by no job (R236, R239). -/
theorem segmentStateChange_acts {f : FieldIx} {p : MemPlace} {decl : BitVec 8} (hup : pithUp s = true) (hclk : fieldClocked s f = true)
    (hexists : placeExists p = true) (hdecl : declOk decl.toNat = true) :
    let a := (fieldOf s f).cond.owner
    let to_ := bitsOf decl.toNat 0 2
    let j := jobOf s a
    let t := segmentStateChange s f p decl
    (a ≠ 0 ∧ slotOf s f < tabGet 0 (fieldOf s f).job.start a ∧
      ∃ q, framePos j.fam j.origin f = some q ∧ declOf (j.fam.variants.getD j.variant default) q p = decl.toNat) ∨ (a = 0 ∧ to_ = 0) →
    t = granulesDone (setPlace s f p to_ a) f (placeBytes f p).1 ((placeBytes f p).1 + (placeBytes f p).2) := by
  intro a to_ j t hor
  refine if_neg ?_
  have hok : (a != 0 && decide (slotOf s f < tabGet 0 (fieldOf s f).job.start a) &&
      (match framePos j.fam j.origin f with
        | some q => declOf (j.fam.variants.getD j.variant default) q p == decl.toNat
        | none => false) || (a == 0 && to_ == 0)) = true := by
    rcases hor with ⟨ha, hstart, q, hq, hd⟩ | ⟨ha, h0⟩
    · rw [hq]
      dsimp only
      rw [hd]
      simp [ha, hstart]
    · simp [ha, h0]
  simp only [hup, hclk, hexists, hdecl, Bool.not_true, Bool.false_or, Bool.not_eq_true', Bool.not_eq_false]
  exact hok

/-! ## Channels -/

theorem domGet_handlingDone {d : Domain} (hd : d ≠ .none) (s : State) : domGet (handlingDone s d) d = {} := by
  have hput : ∀ x, domGet (domPut s d x) d = x := fun x => by
    rw [domPut, if_neg hd]
    exact tabGet_put_same {} _ x _
  unfold handlingDone
  dsimp only
  split_ifs
  · obtain ⟨r, q, hl⟩ := Resets.freeSeq_frame (domPut s d {}) (domGet s d).seq
    rw [hl]
    exact hput {}
  · exact hput {}

/-- A retired channel (R396). -/
theorem channelRetire_acts {k : Fin 40} {ch : Fin 32} (hup : pithUp s = true) (hin : ch.val ∈ stackChannels s k)
    (hok : tabGet 0 s.mem.chan (32 * k.val + ch.val) = 0) :
    let t := channelRetire s k ch
    { kind := ykChannel, unit := k.val + 1, loc := ch.val, value := 0 } ∈ t.yld.due ∧
      (spareUsed s k = false → tabGet 0 t.mem.chan (32 * k.val + ch.val) = 1 ∧ t.yld.gen = s.yld.gen) ∧
      (spareUsed s k = true → tabGet 0 t.mem.chan (32 * k.val + ch.val) = 3 ∧ t.yld.gen = s.yld.gen + 1) ∧
      (∀ c, c ≠ 32 * k.val + ch.val → tabGet 0 t.mem.chan c = tabGet 0 s.mem.chan c) ∧ (domGet t (.rind (k.val + 1))).st = 0 := by
  intro t
  have hdom := domGet_handlingDone (d := .rind (k.val + 1)) (by simp) s
  obtain ⟨m, l, hfr⟩ := handlingDone_frame s (.rind (k.val + 1))
  have ht : t = channelRetire s k ch := rfl
  clear_value t
  unfold channelRetire at ht
  dsimp only at ht
  rw [if_neg (by simp [hup, hin, hok]), hfr] at ht
  rw [hfr] at hdom
  have hdue : ∀ l : List YEnt, { kind := ykChannel, unit := k.val + 1, loc := ch.val, value := 0 } ∈
      addNew ({ kind := 7, unit := k.val + 1, loc := ch.val, value := 0 } : YEnt) l := fun l => StoresAndBruises.mem_addNew _ l
  cases hused : spareUsed s k with
  | false =>
    rw [hused] at ht
    subst ht
    refine ⟨hdue s.yld.due, fun _ => ⟨tabGet_put_same 0 _ 1 s.mem.chan, rfl⟩, fun h => absurd h (by decide),
      fun c hc => tabGet_put_other 0 1 s.mem.chan (Ne.symm hc), ?_⟩
    exact congrArg (·.st) hdom
  | true =>
    rw [hused] at ht
    subst ht
    refine ⟨hdue s.yld.due, fun h => absurd h (by decide), fun _ => ⟨tabGet_put_same 0 _ 3 s.mem.chan, rfl⟩,
      fun c hc => tabGet_put_other 0 3 s.mem.chan (Ne.symm hc), ?_⟩
    exact congrArg (·.st) hdom

/-- The granules of a retired channel that its copy cannot correct are bruised, each with its event. -/
theorem foldl_bruiseNear (l : List Nat) (s : State) :
    let t := l.foldl (fun t a =>
      raiseDie { t with mem := { t.mem with nearBr := brSet t.mem.nearBr (a / 64) true } } (nearDie t a) 0x0103 0 (a / 64 * 64) 0) s
    (∃ b e, t = { s with mem := { s.mem with nearBr := b }, stem := { s.stem with events := e } }) ∧
      (∀ g, (∃ a ∈ l, a / 64 = g) → tabGet false t.mem.nearBr g = true) ∧
      (∀ g, (∀ a ∈ l, a / 64 ≠ g) → tabGet false t.mem.nearBr g = tabGet false s.mem.nearBr g) := by
  induction l generalizing s with
  | nil => exact ⟨⟨_, _, rfl⟩, fun g ⟨a, ha, _⟩ => absurd ha List.not_mem_nil, fun _ _ => rfl⟩
  | cons a l ih =>
    intro t
    obtain ⟨⟨b, e, hfr⟩, hyes, hno⟩ := ih
      (raiseDie { s with mem := { s.mem with nearBr := brSet s.mem.nearBr (a / 64) true } } (nearDie s a) 0x0103 0 (a / 64 * 64) 0)
    have hbr : ∀ g, tabGet false (brSet s.mem.nearBr (a / 64) true) g = if a / 64 = g then true else tabGet false s.mem.nearBr g :=
      fun g => tabGet_put false _ g true _
    refine ⟨⟨b, e, hfr⟩, fun g hg => ?_, fun g hg => ?_⟩
    · by_cases hl : ∃ c ∈ l, c / 64 = g
      · exact hyes g hl
      · obtain ⟨c, hc, hcg⟩ := hg
        have hca : a / 64 = g := (List.mem_cons.1 hc).elim (fun h => h ▸ hcg) fun h => absurd ⟨c, h, hcg⟩ hl
        exact (hno g fun c hc h => hl ⟨c, hc, h⟩).trans ((hbr g).trans (if_pos hca))
    · exact (hno g fun c hc => hg c (List.mem_cons_of_mem _ hc)).trans ((hbr g).trans (if_neg (hg a List.mem_cons_self)))

/-- The channels of a stack that wait for their copy read as copied. -/
theorem tabGet_copied (k : Nat) (t : Tab Nat) (c : Nat) :
    tabGet 0 (t.map fun e => if e.1 / 32 = k ∧ e.2 = 1 then (e.1, 2) else e) c = if c / 32 = k ∧ tabGet 0 t c = 1 then 2 else tabGet 0 t c := by
  induction t with
  | nil => simp
  | cons e t ih =>
    obtain ⟨i, v⟩ := e
    rw [List.map_cons]
    dsimp only
    by_cases hc : i / 32 = k ∧ v = 1
    · rw [if_pos hc, tabGet_cons, tabGet_cons, ih]
      by_cases hi : i = c
      · rw [if_pos hi, if_pos hi, ← hi, if_pos hc]
      · rw [if_neg hi, if_neg hi]
    · rw [if_neg hc, tabGet_cons, tabGet_cons, ih]
      by_cases hi : i = c
      · rw [if_pos hi, if_pos hi, ← hi, if_neg hc]
      · rw [if_neg hi, if_neg hi]

theorem channelCopyComplete_acts (s : State) (k : Fin 40) (ue : List Nat) :
    let t := channelCopyComplete s k ue
    (∀ c, tabGet 0 t.mem.chan c = if c / 32 = k.val ∧ tabGet 0 s.mem.chan c = 1 then 2 else tabGet 0 s.mem.chan c) ∧
      (∀ a ∈ ue, a / 4096 < nearBlocks s → nearChannel s a / 32 = k.val → tabGet 0 s.mem.chan (nearChannel s a) = 1 →
        tabGet false t.mem.nearBr (a / 64) = true) ∧
      (∀ g, (∀ a ∈ ue, a / 64 ≠ g) → tabGet false t.mem.nearBr g = tabGet false s.mem.nearBr g) ∧
      (ue = [] → t.stem = s.stem) ∧ t = { s with mem := { s.mem with chan := t.mem.chan, nearBr := t.mem.nearBr }, stem := t.stem } := by
  unfold channelCopyComplete
  intro t
  extract_lets bad u at t
  obtain ⟨⟨b, e, hfr⟩, hyes, hno⟩ := foldl_bruiseNear bad s
  have hbad : ∀ a, a ∈ bad ↔ a ∈ ue ∧ (a / 4096 < nearBlocks s ∧ nearChannel s a / 32 = k.val) ∧ tabGet 0 s.mem.chan (nearChannel s a) = 1 := fun a => by
    show a ∈ List.filter _ ue ↔ _
    rw [List.mem_filter, Bool.and_eq_true, decide_eq_true_eq, beq_iff_eq]
  have hnil : ue = [] → u = s := fun h => by
    have hb : bad = [] := by
      show List.filter _ ue = []
      rw [h]
      rfl
    show List.foldl _ s bad = s
    rw [hb]
    rfl
  change u = _ at hfr
  change ∀ g, _ → tabGet false u.mem.nearBr g = true at hyes
  change ∀ g, _ → tabGet false u.mem.nearBr g = _ at hno
  clear_value bad u
  have hchan : u.mem.chan = s.mem.chan := by rw [hfr]
  refine ⟨fun c => ?_, fun a ha hin hst h1 => hyes _ ⟨a, (hbad a).2 ⟨ha, ⟨hin, hst⟩, h1⟩, rfl⟩,
    fun g hg => hno g fun a ha => hg a ((hbad a).1 ha).1, fun h => congrArg (·.stem) (hnil h), ?_⟩
  · rw [← hchan]
    exact tabGet_copied k.val u.mem.chan c
  · subst hfr
    rfl

end Sys2Proof.Proofs.Places
end

section
/-! SUPPORT. Memories are serviced and scrubbed (R235 to R279, R355, R356, R396). -/

namespace Sys2Proof.Proofs.Memories

open Sys2Proof.Laws Sys2Proof.Machine Sys2Proof Sys2Proof.Proofs.Links Sys2Proof.Proofs.Spares Sys2Proof.Proofs.TierReads Sys2Proof.Proofs.Rind Sys2Proof.Proofs.Service Sys2Proof.Proofs.Scrubs Sys2Proof.Proofs.Places

variable {s t u : State}

/-- The visits of a slot as the statement has them. -/
theorem scrubOne_clauses {f : FieldIx} {v : Scrub} {slot : Nat} {used : List Nat} (hf : bitsOf (64 * v.granule) 34 6 = f.val)
    (hon : placeOn (fieldOf s f) (placeKey (64 * v.granule)) = true) :
    let g := v.granule
    let bad := flipsOf s.mem g
    let free := scrubFree s f slot used (64 * g) = true
    let r := scrubOne f slot (s, used) v
    let t := r.1
    (free → v.read = 0 → tabGet false (fieldOf t f).mem.seen g = true ∧ t.mem.die = s.mem.die ∧
      tabGet 0 (fieldOf t f).mem.ce (placeKey (64 * g)) = tabGet 0 (fieldOf s f).mem.ce (placeKey (64 * g)) + (softWords bad).length ∧
      (softWords bad ≠ [] → { v with read := slot + 1 } ∈ (fieldOf t f).mem.scrub ∧ ∃ e ∈ t.stem.events, e.code = 0x0001) ∧
      (hardWords bad ≠ [] → tabGet false t.mem.dieBr g = true ∧ ∃ e ∈ t.stem.events, e.code = 0x0101)) ∧
    (free → v.read = 0 → bad = [] →
      let blk := g / 64
      let whole := ∀ i, i < 64 → 64 * blk + i ≠ g → tabGet false (fieldOf s f).mem.seen (64 * blk + i) = true
      (¬ whole → t.mem = s.mem ∧ t.stem = s.stem) ∧
      (whole → tabGet false s.mem.unckd blk = true → tabGet false t.mem.unckd blk = false ∧ t.mem.dieBr = s.mem.dieBr ∧ t.stem = s.stem) ∧
      (whole → wordWrong s blk = true →
        (∀ h, h / 64 = blk → tabGet false t.mem.dieBr h = true) ∧ (∀ h, h / 64 ≠ blk → tabGet false t.mem.dieBr h = tabGet false s.mem.dieBr h) ∧
        Raises s t (mkEvent (fieldAddr f) (slotOf s f) 0x0105 0 0 7 (4096 * blk) 0))) := by
  obtain ⟨-, hread, -⟩ := scrubOne_acts (slot := slot) (used := used) hon
  obtain ⟨⟨ce, hmem, hce⟩, -, htells, hdie, hsoft, hhard⟩ := visited_acts hf s
  have hclean := scrubRead_of_clean (s := s) v hf
  obtain ⟨hfld, hsame, htold, hmore⟩ := blockVisit_keeps f (visited f s v.granule) v.granule
  rw [← scrubRead_eq] at hfld hsame htold hmore
  intro g bad free r t
  have ht : free → v.read = 0 → t = modFmem (scrubRead f s v) f fun m =>
      { m with scrub := m.scrub ++ if softWords bad = [] then [] else [{ v with read := slot + 1 }] } :=
    fun h h0 => congrArg Prod.fst (hread h h0)
  clear_value t
  generalize scrubRead f s v = w at *
  generalize visited f s v.granule = u at *
  have hwm : (fieldOf w f).mem = { (fieldOf s f).mem with ce := ce, seen := tabPut false g true (fieldOf s f).mem.seen } := by
    rw [fieldOf, hfld, ← fieldOf]
    exact hmem
  refine ⟨fun h h0 => ?_, fun h h0 hbad => ?_⟩
  · have htm : (fieldOf t f).mem = { (fieldOf w f).mem with
        scrub := (fieldOf w f).mem.scrub ++ if softWords bad = [] then [] else [{ v with read := slot + 1 }] } := by
      rw [ht h h0, fieldOf_modFmem, if_pos rfl]
    have hts : t.stem = w.stem ∧ t.mem = w.mem := by
      rw [ht h h0]
      exact ⟨rfl, rfl⟩
    rw [hts.1, hts.2, htm, hwm]
    refine ⟨tabGet_put_same false g true _, hsame.trans (congrArg (·.die) hdie), hce, fun hs => ⟨?_, ?_⟩, fun hh => ⟨?_, ?_⟩⟩
    · rw [if_neg hs]
      exact List.mem_append_right _ List.mem_cons_self
    · obtain ⟨e, he, hc⟩ := hsoft hs
      obtain ⟨e', he', hc', -⟩ := htold e he
      exact ⟨e', he', hc'.trans hc⟩
    · exact hmore g (hhard hh).1
    · obtain ⟨e, he, hc⟩ := (hhard hh).2
      obtain ⟨e', he', hc', -⟩ := htold e he
      exact ⟨e', he', hc'.trans hc⟩
  · rw [ht h h0]
    exact hclean hbad

/-- Settles O43: page faults, invalidations, drains, scrub visits, segments and channels, clause by clause. -/
theorem memoriesAreServicedAndScrubbed : Obligations.MemoriesAreServicedAndScrubbed := by
  intro s f st x y
  refine ⟨?fault, ?entry, ?invalidate, ?drain, ?visit, ?scrub, ?segment, ?retire, ?copied⟩
  case fault =>
    intro hup hst hkind
    exact ⟨⟨_, rfl, pageFaultService_serves hup hst hkind⟩, ⟨_, rfl, pageFaultService_declines hup hst hkind⟩⟩
  case entry =>
    intro a e v hup ha
    have hmem := pageFaultService_writes f st v hup ha
    refine ⟨_, rfl, ?_, fun he => ?_⟩
    · rw [nearRead, hmem]
      exact (memRead_write s.mem.near a 8 v.toNat).trans (Nat.mod_eq_of_lt v.isLt)
    · rw [hmem]
      exact memByte_write_outside s.mem.near a 8 v.toNat e he
  case invalidate =>
    intro asid lo hi hup
    exact ⟨_, rfl, translationInvalidate_acts asid lo hi hup⟩
  case drain =>
    intro hclk hdrain hopen hrel hbeg hnd
    exact ⟨_, rfl, streamDrainTimeout_acts hclk hdrain hopen hrel hbeg hnd⟩
  case visit =>
    intro p n hrun oda hon
    refine ⟨_, rfl, ?_, fun g hg => ?_, ?_⟩
    · rw [scrubVisit_acts hrun hon, fieldOf_modFmem, if_pos rfl]
    · rw [scrubVisit_acts hrun hon, fieldOf_modFmem, if_neg (Ne.symm hg)]
    · rw [scrubVisit_acts hrun hon]
      rfl
  case scrub =>
    intro v slot used g bad free r t hf hon
    obtain ⟨hwait, hread, hback⟩ := scrubOne_acts (slot := slot) (used := used) hon
    obtain ⟨hfirst, hclean⟩ := scrubOne_clauses (slot := slot) (used := used) hf hon
    refine ⟨hwait, fun h => ?_, hfirst, hclean, fun h h0 => ?_⟩
    · by_cases h0 : v.read = 0
      · exact congrArg Prod.snd (hread h h0)
      · exact congrArg Prod.snd (hback h h0)
    · have ht : t = scrubBack s g := congrArg Prod.fst (hback h h0)
      rw [ht]
      exact ⟨rfl, softWords_scrubBack s g, rfl⟩
  case segment =>
    intro p decl hup hclk hexists hdecl a to_ j hor
    obtain ⟨hseg, hzero, hrest, hother⟩ := setPlace_acts s f p to_ a
    obtain ⟨m, l, hfr, -⟩ := granulesDone_frame (setPlace s f p to_ a) f (placeBytes f p).1 ((placeBytes f p).1 + (placeBytes f p).2)
    refine ⟨_, rfl, ?_⟩
    rw [segmentStateChange_acts hup hclk hexists hdecl hor, hfr]
    exact ⟨hseg, fun n hc hlo hhi => hzero n hc hlo hhi, hrest, hother⟩
  case retire =>
    intro k ch hup hin hok
    exact ⟨_, rfl, channelRetire_acts hup hin hok⟩
  case copied =>
    intro k ue
    exact ⟨_, rfl, channelCopyComplete_acts s k ue⟩

end Sys2Proof.Proofs.Memories
end

section
/-! SUPPORT. Placement of a job (12): O44. -/

namespace Sys2Proof.Proofs.Placing

open Sys2Proof.Machine Sys2Proof

/-! ## A REST that a WORK field applies in its job's first slot -/

/-- A family of one WORK field without bunches. -/
def oneField : Family :=
  { (default : Family) with fr := 1, fc := 1, variants := [{ (default : Variant) with caps := [{ role := 1, absent := -1, cores := [] }] }] }

/-- Job 1 waits for placement, and would start in slot 4096 × 33. Field 0, RESTED without an owner or a lease, already stands in that slot, with
a decided REST that is due at its boundary. -/
def resting : State :=
  { inp := { main := true }
    pith := { running := true }
    job := [(1, { live := true, fam := oneField })]
    fld := [(0, { cond := { act := .rested }, clk := { slot := 4096 * 33, staged := [{ csn := 1, kind := .rest, arg := 0, epoch := 33, decided := true }] } })] }

theorem placeFirst_resting : placeFirst resting (jobOf resting 1) = some (0, 0) := by
  decide +kernel

theorem frameField_resting : frameField (jobOf resting 1).fam 0 0 = some 0 := by
  decide +kernel

/-- The field gets its rails for the job, enters the job's first slot at once, and there the REST takes the core rail off again. -/
theorem rails_resting : (fieldOf (jobPlacement resting 1 0 []) 0).pow.rails = 6 := by
  decide +kernel

/-- Refutes O44: a field that is not SLEEPING keeps its slot and its staged changes as a job is placed on it. Where it stands in the job's first
slot with a decided REST, it applies that in the same step, and a WORK field is left without its core rail. -/
theorem not_submissionsAreCheckedAndPlaced : ¬ Obligations.SubmissionsAreCheckedAndPlaced := by
  intro h
  obtain ⟨-, -, hplace⟩ := h resting 0
  obtain ⟨t, ht, -, -, -, -, -, hfields⟩ := hplace 1 0 0 0 [] rfl rfl rfl rfl rfl (fun hm => absurd hm (by decide)) placeFirst_resting
  have hstep : t = jobPlacement resting 1 0 [] := (Host.Outcome.next.inj ht).symm
  obtain ⟨hwork, -, -⟩ := hfields 0 0 (by decide) frameField_resting
  have hrails : (fieldOf t 0).pow.rails = 7 := (hwork rfl).2
  rw [hstep, rails_resting] at hrails
  exact absurd hrails (by decide)

end Sys2Proof.Proofs.Placing
end

section
/-! SUPPORT. Pre-emption of a job (12): O45. -/

namespace Sys2Proof.Proofs.Preempting

open Sys2Proof.Machine Sys2Proof

/-! ## PREEMPT_JOB of a job that holds transit fields alone -/

/-- PREEMPT_JOB of job number 7. -/
def preempt7 : Cmd := { (default : Cmd) with opc := 0x02, arg0 := 7 }

/-- Job 1, number 7, runs, and its one field carries a transit route of it. -/
def transitOnly : State :=
  { inp := { main := true }
    pith := { running := true }
    job := [(1, { live := true, number := 7, st := .running })]
    cxl := { cmds := [preempt7] }
    fld := [(0, { cond := { leases := [1] } })] }

theorem nextCmd_transitOnly : nextCmd transitOnly 0 0x02 = some preempt7 := by
  decide +kernel

theorem jobByNumber_transitOnly : jobByNumber transitOnly (cmdJob preempt7) = some 1 := by
  decide +kernel

theorem mem_jobFields_transitOnly : 0 ∈ jobFields transitOnly 1 := by
  decide +kernel

theorem pre_transitOnly : ∀ f ∈ jobFields transitOnly 1, tabGet 0 (fieldOf transitOnly f).job.pre 1 = 0 := by
  decide +kernel

/-- PREEMPT goes to the WORK fields of a job alone: with none there is no participant, and no number is used up. -/
theorem csn_transitOnly : (preemptJob transitOnly 0).com.csn = 0 := by
  decide +kernel

/-- Refutes O45: a running job whose only field in service is a transit field has no participant for its PREEMPT, so that PREEMPT_JOB prepares
nothing. -/
theorem not_jobsAreSavedRestoredAndEnded : ¬ Obligations.JobsAreSavedRestoredAndEnded := by
  intro h
  obtain ⟨hpreempt, -⟩ := h transitOnly 0 preempt7 1
  obtain ⟨t, ht, hrun, -⟩ := hpreempt ⟨rfl, rfl, nextCmd_transitOnly⟩ jobByNumber_transitOnly
  obtain ⟨-, -, hcsn, -⟩ := hrun rfl ⟨rfl, rfl, rfl, rfl, rfl, rfl, rfl⟩ ⟨0, mem_jobFields_transitOnly, rfl⟩ pre_transitOnly
  have hstep : t = preemptJob transitOnly 0 := (Host.Outcome.next.inj ht).symm
  rw [hstep, csn_transitOnly] at hcsn
  exact absurd hcsn (by decide)

end Sys2Proof.Proofs.Preempting
end

section
/-! SUPPORT. Commands of the host: what a queue serves, and completions (17). -/

namespace Sys2Proof.Proofs.Commands

open Sys2Proof.Laws Sys2Proof.Machine Sys2Proof

variable {s t u : State} {q : Fin 8} {c : Cmd}

/-! ## What a queue serves -/

theorem serve_of_next {opc : Nat} (hup : pithUp s = true) (hnext : nextCmd s q opc = some c) (k : Cmd → State) :
    serve s q opc k = if s.trs.safe && opc != 0x12 then finishCmd s c stWrong id else k c := by
  unfold serve
  rw [if_neg (by simp [hup]), hnext]

/-- A command that its queue serves is carried out. -/
theorem serve_of_serves {opc : Nat} (h : Serves s q opc c) (k : Cmd → State) : serve s q opc k = k c := by
  obtain ⟨hup, hsafe, hnext⟩ := h
  rw [serve_of_next hup hnext, if_neg (by simp [hsafe])]

/-- In the safe state a command but SLICE_RELEASE ends WRONG_STATE. -/
theorem serve_of_safe {opc : Nat} (hopc : opc ≠ 0x12) (hup : pithUp s = true) (hsafe : s.trs.safe = true) (hnext : nextCmd s q opc = some c)
    (k : Cmd → State) : serve s q opc k = finishCmd s c stWrong id := by
  rw [serve_of_next hup hnext, if_pos (by simp [hsafe, hopc])]

theorem onJob_of_named {a : Nat} (h : jobByNumber s (cmdJob c) = some a) (k : Nat → State) : onJob s c k = k a := by
  rw [onJob, h]

/-! ## Completions -/

theorem finishCmd_eq (s : State) (c : Cmd) (status : Nat) (g : Cpl → Cpl) :
    finishCmd s c status g =
      { s with cxl := { s.cxl with
          cmds := eraseFirst (fun x => decide (x = c)) s.cxl.cmds
          held := s.cxl.held ++ if c.mute then [] else [g
            { cq := c.sq, cid := c.cid, sq := c.sq, status := status, sqhead := (queueOf s c.sq).consumed.toNat }] } } := by
  unfold finishCmd
  cases c.mute with
  | false => rfl
  | true =>
    rw [if_pos rfl, if_pos rfl, List.append_nil]

/-- A command that ends on the spot completes, and nothing else changes. -/
theorem onlyCompletes_finishCmd (s : State) (c : Cmd) (status : Nat) (g : Cpl → Cpl) : OnlyCompletes s (finishCmd s c status g) c status g := by
  rw [finishCmd_eq]
  exact ⟨⟨rfl, rfl⟩, rfl⟩

/-- A command that ends after its effect on the rest of the module completes. -/
theorem completes_finishCmd (h : u.cxl = s.cxl) (c : Cmd) (status : Nat) (g : Cpl → Cpl) : Completes s (finishCmd u c status g) c status g := by
  rw [finishCmd_eq, Completes, queueOf, queueOf, h]
  exact ⟨rfl, rfl⟩

theorem finishCmd_rest (s : State) (c : Cmd) (status : Nat) (g : Cpl → Cpl) :
    finishCmd s c status g = { s with cxl := { s.cxl with
      cmds := (finishCmd s c status g).cxl.cmds, held := (finishCmd s c status g).cxl.held } } :=
  (onlyCompletes_finishCmd s c status g).2

theorem begun_of_cxl (h : t.cxl = (beginCmd s c).cxl) : Begun s t c := h

/-- The commands of a list that end one after the other leave all of the module but the queues' commands and completions. -/
theorem foldl_finishCmd (status : Nat) (g : Cpl → Cpl) (l : List Cmd) (s : State) :
    ∃ m n, l.foldl (fun t c => finishCmd t c status g) s = { s with cxl := { s.cxl with cmds := m, held := n } } := by
  induction l generalizing s with
  | nil => exact ⟨_, _, rfl⟩
  | cons c l ih =>
    obtain ⟨m, n, h⟩ := ih (finishCmd s c status g)
    exact ⟨m, n, by rw [List.foldl_cons, h, finishCmd_rest]⟩

theorem cmds_foldl_finishCmd (status : Nat) (g : Cpl → Cpl) (l : List Cmd) (s : State) :
    (l.foldl (fun t c => finishCmd t c status g) s).cxl.cmds = s.cxl.cmds.diff l := by
  induction l generalizing s with
  | nil => rfl
  | cons c l ih => rw [List.foldl_cons, ih, finishCmd_eq, List.diff_cons, ← Links.eraseFirst_eq_erase]

/-- Once each command of a kind has ended, none is left. -/
theorem not_mem_of_finished (status : Nat) (g : Cpl → Cpl) (s : State) (p : Cmd → Bool) :
    ∀ c ∈ ((s.cxl.cmds.filter p).foldl (fun t c => finishCmd t c status g) s).cxl.cmds, ¬ p c = true := by
  intro c hc hp
  rw [cmds_foldl_finishCmd, ← List.count_pos_iff, List.count_diff, List.count_filter hp, Nat.sub_self] at hc
  exact absurd hc (Nat.lt_irrefl 0)

/-- Each of a list of commands that is not discarded has its completion. -/
theorem exists_held_of_finished (status : Nat) (g : Cpl → Cpl) (l : List Cmd) (s : State) :
    (∀ e ∈ s.cxl.held, e ∈ (l.foldl (fun t c => finishCmd t c status g) s).cxl.held) ∧
      ∀ c ∈ l, c.mute = false → ∃ n, g { cq := c.sq, cid := c.cid, sq := c.sq, status := status, sqhead := n } ∈
        (l.foldl (fun t c => finishCmd t c status g) s).cxl.held := by
  induction l generalizing s with
  | nil => exact ⟨fun e he => he, fun c hc => absurd hc List.not_mem_nil⟩
  | cons c l ih =>
    obtain ⟨hkept, hnew⟩ := ih (finishCmd s c status g)
    rw [List.foldl_cons]
    refine ⟨fun e he => hkept e ?_, fun d hd hm => ?_⟩
    · rw [finishCmd_eq]
      exact List.mem_append_left _ he
    · rcases List.mem_cons.1 hd with rfl | hd
      · refine ⟨(queueOf s d.sq).consumed.toNat, hkept _ ?_⟩
        rw [finishCmd_eq, hm]
        exact List.mem_append_right _ List.mem_cons_self
      · exact hnew d hd hm

theorem jobOf_finishCmd (s : State) (c : Cmd) (status : Nat) (g : Cpl → Cpl) (a : Nat) : jobOf (finishCmd s c status g) a = jobOf s a := by
  rw [finishCmd_eq]
  rfl

theorem finishCtxCmd_rest (s : State) (x opc status : Nat) : ∃ m n, finishCtxCmd s x opc status = { s with cxl := { s.cxl with cmds := m, held := n } } :=
  foldl_finishCmd status id _ s

/-! ## Messages of a context -/

/-- The message that a context sends, before its content is filled in. -/
def ctxMsg (s : State) (x : Nat) : BupMsg :=
  { dst := (ctxOf s x).remote, src := s.bup.epId, dctx := Fin.ofNat 4096 (ctxOf s x).rctx, sctx := Fin.ofNat 4096 x, cseq := (ctxOf s x).txSeq,
    demand := demandOf s x }

/-- What a message sent leaves: the ports' queues, the message count and the outputs aside, the module is as it was. -/
theorem enqueue_acts (s : State) (p cls cells ctx : Nat) (dst : BitVec 16) (o : Nat → Output) :
    let t := enqueue s p cls cells ctx dst o
    t = { s with bup := { s.bup with nextMsg := s.bup.nextMsg + 1, port := t.bup.port }, out := o s.bup.nextMsg :: s.out } ∧
      (∀ k, k ≠ p → portOf t k = portOf s k) ∧
      (cls = 0 → portOf t p = { portOf s p with q0 := (portOf s p).q0 ++ [{ id := s.bup.nextMsg, cls := 0, cells := cells, ctx := ctx, dst := dst }] }) := by
  intro t
  refine ⟨rfl, fun k hk => ?_, fun hcls => ?_⟩
  · exact (portOf_modPort _ p k _).trans (if_neg (Ne.symm hk))
  · subst hcls
    exact (portOf_modPort _ p p _).trans ((if_pos rfl).trans (if_pos rfl))
/-- The state in which context `x` has sent message `m` by port `k`. -/
def ctxSent (s : State) (x k ty : Nat) (m : BupMsg) : State :=
  enqueue (modCtx s x fun c => { c with txSeq := c.txSeq + 1 }) k (msgClass ty) (msgCells ty) x (ctxOf s x).remote fun id => .bupol id k (rawMsg ty m)

/-- A context whose remote end can be reached sends its message by its port (R433, R436). -/
theorem ctxSend_of_reaches {x k : Nat} (h : Reaches s x k) (hclosed : (ctxOf s x).st ≠ .closed) (hfailed : (ctxOf s x).st ≠ .failed) (ty : Nat)
    (g : BupMsg → BupMsg) : ctxSend s x ty g = ctxSent s x k ty (g (ctxMsg s x)) := by
  obtain ⟨hep, hpt, hport⟩ := h
  unfold ctxSend
  dsimp only
  rw [if_neg (by simp [hep, hclosed, hfailed]), if_neg (by simp [hpt]), hport]
  all_goals rfl

theorem ctxSent_acts (s : State) (x k ty : Nat) (m : BupMsg) :
    let t := ctxSent s x k ty m
    t = { s with bup := { s.bup with nextMsg := s.bup.nextMsg + 1, port := t.bup.port, ctx := t.bup.ctx },
                 out := .bupol s.bup.nextMsg k (rawMsg ty m) :: s.out } ∧
      (∀ y, ctxOf t y = if x = y then { ctxOf s x with txSeq := (ctxOf s x).txSeq + 1 } else ctxOf s y) ∧
      (msgClass ty = 0 → portOf t k =
        { portOf s k with q0 := (portOf s k).q0 ++ [{ id := s.bup.nextMsg, cls := 0, cells := msgCells ty, ctx := x, dst := (ctxOf s x).remote }] }) := by
  obtain ⟨-, -, hq⟩ := enqueue_acts (modCtx s x fun c => { c with txSeq := c.txSeq + 1 }) k (msgClass ty) (msgCells ty) x (ctxOf s x).remote
    fun id => .bupol id k (rawMsg ty m)
  refine ⟨rfl, fun y => ?_, hq⟩
  show ctxOf (modCtx s x fun c => { c with txSeq := c.txSeq + 1 }) y = _
  rw [ctxOf_modCtx]

end Sys2Proof.Proofs.Commands
end

section
/-! SUPPORT. The remaining commands of host software (R267, R400 to R479, R549): O46. -/

namespace Sys2Proof.Proofs.HostCommands

open Sys2Proof.Laws Sys2Proof.Machine Sys2Proof Sys2Proof.Proofs.Commits Sys2Proof.Proofs.Fields Sys2Proof.Proofs.Commands Sys2Proof.Proofs.Links

variable {s t u : State} {q : Fin 8} {c : Cmd}

/-! ## The safe state -/

/-- Every command of the list ends WRONG_STATE in the safe state (R549). -/
theorem safe_refuses (hup : pithUp s = true) (hsafe : s.trs.safe = true) {opc : Nat} (hopc : opc ≠ 0x12) (hnext : nextCmd s q opc = some c)
    (k : Cmd → State) : OnlyCompletes s (serve s q opc k) c 0x47 id := by
  rw [serve_of_safe hopc hup hsafe hnext]
  exact onlyCompletes_finishCmd s c stWrong id

theorem forall_safe_refuses (s : State) (q : Fin 8) (c : Cmd) :
    ∀ x ∈ [((0x02 : Nat), Instr.preemptJob q), (0x03, .resumeJob q), (0x04, .endJob q), (0x10, .pairSetup q), (0x11, .pairDissolve q),
        (0x18, .ctxOpen q), (0x19, .ctxClose q), (0x1A, .routeSet q), (0x1B, .portRetrain q), (0x20, .powerSet q)],
      pithUp s = true → s.trs.safe = true → nextCmd s q x.1 = some c → ∃ t, exec x.2 s = .next t ∧ OnlyCompletes s t c 0x47 id := by
  simp only [List.forall_mem_cons, List.not_mem_nil, false_imp_iff, implies_true, and_true]
  refine ⟨?_, ?_, ?_, ?_, ?_, ?_, ?_, ?_, ?_, ?_⟩
  all_goals exact fun hup hsafe hnext => ⟨_, rfl, safe_refuses hup hsafe (by decide) hnext _⟩

/-! ## Host windows -/

theorem mem_winUnits {a n : Nat} (ha : a % 0x200000 = 0) (u : Nat) : u ∈ winUnits a n ↔ a / 0x200000 ≤ u ∧ u < (a + n) / 0x200000 := by
  simp only [winUnits, winUnit, List.mem_map, List.mem_range]
  constructor
  · rintro ⟨i, hi, rfl⟩
    omega
  · rintro ⟨hlo, hhi⟩
    exact ⟨u - a / 0x200000, by omega, by omega⟩

/-- Host windows are mapped into a job (R459). -/
theorem mapWindow_acts {a : Nat} (h : Serves s q 0x07 c) (hjob : jobByNumber s (cmdJob c) = some a) (hroot : tabGet 0 s.mem.root a ≠ 0)
    (hst : (jobOf s a).st ≠ .stopped) (hdva : c.arg1.toNat % 0x200000 = 0) (hoff : bitsOf c.payload.toNat 0 64 % 0x200000 = 0)
    (hlen : bitsOf c.payload.toNat 64 64 % 0x200000 = 0) (hne : bitsOf c.payload.toNat 64 64 ≠ 0)
    (hend : c.arg1.toNat + bitsOf c.payload.toNat 64 64 ≤ 2 ^ 57)
    (hwin : bitsOf c.payload.toNat 0 64 + bitsOf c.payload.toNat 64 64 ≤ s.cxl.win * 2 ^ 30) (hzero : bitsOf c.payload.toNat 129 7 = 0) :
    mapWindow s q [] = finishCmd (modJob s a fun j => { j with windows := (j.windows ++ winUnits c.arg1.toNat (bitsOf c.payload.toNat 64 64)).dedup })
      c stOk (forJob s a) := by
  refine (serve_of_serves h _).trans ((onJob_of_named hjob _).trans ?_)
  dsimp only
  have hok : ¬ (c.arg1.toNat % winUnit ≠ 0 ∨ bitsOf c.payload.toNat 0 64 % winUnit ≠ 0 ∨ bitsOf c.payload.toNat 64 64 % winUnit ≠ 0 ∨
      bitsOf c.payload.toNat 64 64 = 0 ∨ 2 ^ 57 < c.arg1.toNat + bitsOf c.payload.toNat 64 64 ∨
      s.cxl.win * 2 ^ 30 < bitsOf c.payload.toNat 0 64 + bitsOf c.payload.toNat 64 64 ∨ (!zb c.payload.toNat 129 7) = true) := by
    simp only [not_or, ne_eq, not_not]
    exact ⟨hdva, hoff, hlen, hne, Nat.not_lt.2 hend, Nat.not_lt.2 hwin, by simp [zb, hzero]⟩
  rw [if_neg hok, if_neg (by simp [hroot, hst])]
  rfl

/-- The table entries that firmware clears read 0. -/
theorem writeEntries_zero (es : List Nat) (s : State) :
    (∃ m, writeEntries s (es.map fun e => (e, 0)) = { s with mem := m }) ∧
      (∀ e ∈ es, nearRead (writeEntries s (es.map fun e => (e, 0))) (e / 8 * 8) 8 = 0) ∧
      ∀ a, nearRead s (a / 8 * 8) 8 = 0 → nearRead (writeEntries s (es.map fun e => (e, 0))) (a / 8 * 8) 8 = 0 := by
  induction es generalizing s with
  | nil => exact ⟨⟨_, rfl⟩, fun e he => absurd he List.not_mem_nil, fun a ha => ha⟩
  | cons e es ih =>
    obtain ⟨⟨m, hm⟩, hin, hkeep⟩ := ih (nearStore s (e / 8 * 8) 8 0 false)
    have hstep : writeEntries s ((e :: es).map fun e => (e, 0)) = writeEntries (nearStore s (e / 8 * 8) 8 0 false) (es.map fun e => (e, 0)) := rfl
    have hhere : nearRead (nearStore s (e / 8 * 8) 8 0 false) (e / 8 * 8) 8 = 0 :=
      (memRead_write s.mem.near (e / 8 * 8) 8 0).trans (Nat.zero_mod _)
    rw [hstep]
    refine ⟨⟨m, hm⟩, fun x hx => ?_, fun a ha => hkeep a ?_⟩
    · rcases List.mem_cons.1 hx with rfl | hx
      · exact hkeep x hhere
      · exact hin x hx
    · by_cases hae : a / 8 * 8 = e / 8 * 8
      · rw [hae]
        exact hhere
      · exact (memRead_write_outside s.mem.near (e / 8 * 8) 8 0 (a / 8 * 8) 8 (by omega)).trans ha

/-- Host windows are taken off a job: no cache of translations holds a page of them (R267, R459). -/
theorem unmapWindow_acts {a : Nat} (h : Serves s q 0x08 c) (hjob : jobByNumber s (cmdJob c) = some a) (es : List Nat)
    (hdva : c.arg1.toNat % 0x200000 = 0) (hlen : bitsOf c.payload.toNat 0 64 % 0x200000 = 0) (hne : bitsOf c.payload.toNat 0 64 ≠ 0)
    (hmine : ∀ u, c.arg1.toNat / 0x200000 ≤ u ∧ u < (c.arg1.toNat + bitsOf c.payload.toNat 0 64) / 0x200000 → u ∈ (jobOf s a).windows) :
    let dva := c.arg1.toNat
    let len := bitsOf c.payload.toNat 0 64
    let t := unmapWindow s q es
    (∀ u, u ∈ (jobOf t a).windows ↔ u ∈ (jobOf s a).windows ∧ ¬ (dva / 0x200000 ≤ u ∧ u < (dva + len) / 0x200000)) ∧
      (∀ e ∈ es, nearRead t (e / 8 * 8) 8 = 0) ∧
      (∀ f, f < 36 → ∀ l ∈ (fieldOf t f).str.tlb :: (fieldOf t f).str.etlb.map (·.2), ∀ e ∈ l,
        e.asid = a → ¬ (e.dva < dva + len ∧ dva < e.dva + e.size)) ∧
      Completes s t c 0 (fun e => { e with job := (jobOf s a).number, asid := a, htag := (jobOf s a).htag }) := by
  intro dva len t
  obtain ⟨hup, hsafe, hnext⟩ := h
  obtain ⟨⟨m, hm⟩, hzero, -⟩ := writeEntries_zero es s
  have hup' : pithUp (writeEntries s (es.map fun e => (e, 0))) = true := by rw [hm]; exact hup
  obtain ⟨hfr, hcache⟩ := Service.translationInvalidate_acts a dva (dva + len - 1) hup'
  have ht : t = finishCmd
      (modJob (translationInvalidate (writeEntries s (es.map fun e => (e, 0))) a dva (dva + len - 1)) a
        fun j => { j with windows := j.windows.filter fun u => !(winUnits dva len).contains u }) c stOk
      (forJob (translationInvalidate (writeEntries s (es.map fun e => (e, 0))) a dva (dva + len - 1)) a) := by
    refine (serve_of_serves ⟨hup, hsafe, hnext⟩ _).trans ((onJob_of_named hjob _).trans ?_)
    have hall : (winUnits dva len).all (fun u => (jobOf s a).windows.contains u) = true := by
      rw [List.all_eq_true]
      exact fun u hu => by simpa using hmine u ((mem_winUnits hdva u).1 hu)
    dsimp only
    rw [if_neg]
    rw [not_or, not_or, not_or]
    exact ⟨not_not.2 hdva, not_not.2 hlen, hne, by rw [hall]; decide⟩
  clear_value t
  generalize translationInvalidate (writeEntries s (es.map fun e => (e, 0))) a dva (dva + len - 1) = v at *
  generalize writeEntries s (es.map fun e => (e, 0)) = w at *
  have hvs : v.job = s.job ∧ v.cxl = s.cxl ∧ v.mem = w.mem := by
    rw [hfr, hm]
    exact ⟨rfl, rfl, rfl⟩
  obtain ⟨hvj, hvc, hvm⟩ := hvs
  have hj : jobOf v a = jobOf s a := by rw [jobOf, hvj, ← jobOf]
  have htj : jobOf t a = { jobOf s a with windows := (jobOf s a).windows.filter fun u => !(winUnits dva len).contains u } := by
    rw [ht, jobOf_finishCmd, jobOf_modJob, if_pos rfl, hj]
  have htf : t.fld = v.fld ∧ t.mem = v.mem := by
    rw [ht, finishCmd_eq]
    exact ⟨rfl, rfl⟩
  refine ⟨fun u => ?_, fun e he => ?_, fun f hf l hl e he => ?_, ?_⟩
  · have hin : (!(winUnits dva len).contains u) = true ↔ ¬ (dva / 0x200000 ≤ u ∧ u < (dva + len) / 0x200000) :=
      (by simp : (!(winUnits dva len).contains u) = true ↔ u ∉ winUnits dva len).trans (not_congr (mem_winUnits hdva u))
    rw [htj, List.mem_filter, hin]
  · rw [nearRead, htf.2, hvm]
    exact hzero e he
  · obtain ⟨htlb, -, hetlb, -⟩ := hcache f hf
    rw [show fieldOf t f = fieldOf v f by rw [fieldOf, htf.1, fieldOf]] at hl
    intro ha hin
    have hgone : e.asid = a ∧ e.dva ≤ dva + len - 1 ∧ dva < e.dva + e.size := ⟨ha, by omega, hin.2⟩
    rcases List.mem_cons.1 hl with rfl | hl
    · rw [htlb] at he
      have hno := (List.mem_filter.1 he).2
      rw [Bool.not_eq_true', decide_eq_false_iff_not] at hno
      exact hno hgone
    · obtain ⟨l', hl', rfl⟩ := List.mem_map.1 hl
      exact hetlb l' hl' e he hgone
  · have hname : forJob v a = fun e => { e with job := (jobOf s a).number, asid := a, htag := (jobOf s a).htag } := by
      funext e
      rw [forJob, hj]
    rw [ht, hname]
    have hmod : (modJob v a fun j => { j with windows := j.windows.filter fun u => !(winUnits dva len).contains u }).cxl = s.cxl := hvc
    exact completes_finishCmd hmod c stOk _

/-! ## The pair and its slices -/

theorem foldl_sendHello (l : List Nat) (s : State) : ∃ b o, l.foldl sendHello s = { s with bup := b, out := o } := by
  induction l generalizing s with
  | nil => exact ⟨_, _, rfl⟩
  | cons p l ih =>
    obtain ⟨b', o', h⟩ := ih (sendHello s p)
    exact ⟨b', o', by rw [List.foldl_cons, h]; rfl⟩

/-- PAIR_SETUP (R400, R401). -/
theorem pairSetup_acts (h : Serves s q 0x10 c) :
    let p := c.payload.toNat
    let t := pairSetup s q
    (setupOk p = false → OnlyCompletes s t c 0x44 id) ∧
      (setupOk p = true → setupFails s p ≠ 0 → OnlyCompletes s t c 0x48 fun e => { e with res0 := BitVec.ofNat 64 (setupFails s p) }) ∧
      (setupOk p = true → setupFails s p = 0 → Begun s t c ∧ t.pair = { s.pair with
        setup := true, partner := BitVec.ofNat 16 (bitsOf p 0 16), ports := BitVec.ofNat 48 (bitsOf p 64 48), store := bitsOf p 128 32,
        logGib := bitsOf p 160 32, heard := 0 }) := by
  intro p t
  have ht : t = _ := serve_of_serves h _
  clear_value t
  subst ht
  refine ⟨fun hno => ?_, fun hok hfail => ?_, fun hok hnone => ?_⟩
  · dsimp only
    rw [if_pos (by rw [show setupOk c.payload.toNat = false from hno]; rfl)]
    exact onlyCompletes_finishCmd s c _ _
  · dsimp only
    rw [if_neg (by rw [show setupOk c.payload.toNat = true from hok]; decide), if_pos hfail]
    exact onlyCompletes_finishCmd s c _ _
  · dsimp only
    rw [if_neg (by rw [show setupOk c.payload.toNat = true from hok]; decide), if_neg (not_not.2 hnone)]
    generalize hv : { beginCmd s c with pair := { (beginCmd s c).pair with
      setup := true, partner := BitVec.ofNat 16 (bitsOf c.payload.toNat 0 16), ports := BitVec.ofNat 48 (bitsOf c.payload.toNat 64 48),
      store := bitsOf c.payload.toNat 128 32, logGib := bitsOf c.payload.toNat 160 32, heard := 0 } } = v
    generalize (List.range 48).filter (fun k => bitOf (BitVec.ofNat 48 (bitsOf c.payload.toNat 64 48)).toNat k) = l
    obtain ⟨b, o, hfr⟩ := foldl_sendHello l v
    rw [hfr, ← hv]
    exact ⟨rfl, rfl⟩

/-- PAIR_DISSOLVE (R400, R413). -/
theorem pairDissolve_acts (h : Serves s q 0x11 c) :
    let busy := s.pair.formed = false ∨ (∃ a ∈ liveJobs s, (jobOf s a).mirrored = true) ∨
      (∃ e ∈ s.pair.slices, e.2.valid = true ∧ e.2.sealed_ = false)
    let t := pairDissolve s q
    (busy → OnlyCompletes s t c 0x47 id) ∧
      (¬ busy → Completes s t c 0 id ∧ t.pair = { s.pair with
        formed := false, partner := 0, ports := 0, store := 0, logGib := 0, heard := 0, buf := [] }) := by
  intro busy t
  have hbusy : busy ↔ (!s.pair.formed || (liveJobs s).any (fun a => (jobOf s a).mirrored) ||
      s.pair.slices.any (fun e => e.2.valid && !e.2.sealed_)) = true := by
    simp only [busy, Bool.or_eq_true, Bool.not_eq_true', List.any_eq_true, Bool.and_eq_true, or_assoc]
  have ht : t = _ := serve_of_serves h _
  clear_value t
  subst ht
  refine ⟨fun hb => ?_, fun hb => ?_⟩
  · rw [if_pos (hbusy.1 hb)]
    exact onlyCompletes_finishCmd s c _ _
  · rw [if_neg (mt hbusy.2 hb)]
    refine ⟨completes_finishCmd ?_ c stOk id, ?_⟩
    · rfl
    · rw [finishCmd_eq]

/-- SLICE_RELEASE (R413), which the safe state lets through. -/
theorem sliceRelease_acts (hup : pithUp s = true) (hnext : nextCmd s q 0x12 = some c) :
    let found := findSlice s fun x => x.sealed_ && x.job == c.arg0.toNat && x.owner.toNat == c.arg1.toNat
    let t := sliceRelease s q
    (found = none → OnlyCompletes s t c 0x47 id) ∧
      (∀ k, found = some k → Completes s t c 0 id ∧ sliceOf t k = {} ∧ ∀ x, x ≠ k → sliceOf t x = sliceOf s x) := by
  intro found t
  have ht : t = match found with
      | none => finishCmd s c stWrong id
      | some i => finishCmd (modSlice s i fun _ => {}) c stOk id :=
    (serve_of_next hup hnext _).trans (if_neg (by simp))
  clear_value t found
  refine ⟨fun hf => ?_, fun k hf => ?_⟩
  · subst hf
    rw [ht]
    exact onlyCompletes_finishCmd s c _ _
  · subst hf
    have hslice : ∀ x, sliceOf t x = if k = x then {} else sliceOf s x := fun x => by
      rw [ht]
      dsimp only
      rw [finishCmd_eq]
      exact sliceOf_modSlice s k x _
    refine ⟨?_, (hslice k).trans (if_pos rfl), fun x hx => (hslice x).trans (if_neg (Ne.symm hx))⟩
    rw [ht]
    exact completes_finishCmd rfl c stOk id

/-! ## Contexts, routes and ports -/

/-- ROUTE_SET (R432). -/
theorem routeSet_acts (h : Serves s q 0x1A c) :
    let ok := c.arg0.toNat < 65536 ∧ c.arg1.toNat < 2 ^ 48
    let t := routeSet s q
    (¬ ok → OnlyCompletes s t c 0x44 id) ∧
      (ok → Completes s t c 0 id ∧ tabGet 0 t.bup.route c.arg0.toNat = c.arg1.setWidth 48 ∧
        ∀ e, e ≠ c.arg0.toNat → tabGet 0 t.bup.route e = tabGet 0 s.bup.route e) := by
  intro ok t
  have ht : t = _ := serve_of_serves h _
  clear_value t
  subst ht
  refine ⟨fun hno => ?_, fun hok => ?_⟩
  · dsimp only
    rw [if_pos (by simp only [ok] at hno; omega)]
    exact onlyCompletes_finishCmd s c _ _
  · dsimp only
    rw [if_neg (by simp only [ok] at hok; omega)]
    refine ⟨completes_finishCmd ?_ c stOk id, ?_, fun e he => ?_⟩
    · rfl
    · rw [finishCmd_eq]
      exact tabGet_put_same 0 _ _ s.bup.route
    · rw [finishCmd_eq]
      exact tabGet_put_other 0 _ s.bup.route (Ne.symm he)

/-- PORT_RETRAIN (R429). -/
theorem portRetrain_acts (h : Serves s q 0x1B c) :
    let t := portRetrain s q
    (48 ≤ c.arg0.toNat → OnlyCompletes s t c 0x44 id) ∧
      (c.arg0.toNat < 48 → (portOf t c.arg0.toNat).training = true ∧ (portOf t c.arg0.toNat).up = false) ∧
      (c.arg0.toNat < 48 → (portOf s c.arg0.toNat).up = false → Begun s t c) := by
  intro t
  have ht : t = _ := serve_of_serves h _
  clear_value t
  dsimp only at ht
  refine ⟨fun hno => ?_, fun hlt => ?_, fun hlt hdown => ?_⟩
  · rw [ht, if_pos hno]
    exact onlyCompletes_finishCmd s c _ _
  · rw [if_neg (by omega)] at ht
    by_cases hup : (portOf (beginCmd s c) c.arg0.toNat).up = true
    · rw [if_pos hup] at ht
      obtain ⟨hdown, htrain, -⟩ := retrains_startRetrain (p := ⟨c.arg0.toNat, hlt⟩) hup
      rw [ht]
      exact ⟨htrain, hdown⟩
    · rw [if_neg hup] at ht
      rw [ht, portOf_modPort, if_pos rfl]
      split
      · next htr => exact ⟨htr, Bool.eq_false_iff.2 hup⟩
      · exact ⟨rfl, Bool.eq_false_iff.2 hup⟩
  · rw [if_neg (by omega), if_neg (by rw [show (portOf (beginCmd s c) c.arg0.toNat).up = false from hdown]; decide)] at ht
    rw [ht]
    rfl

/-- CTX_CLOSE (R437). -/
theorem ctxClose_acts (h : Serves s q 0x19 c) :
    let t := ctxClose s q
    (4096 ≤ c.arg0.toNat → OnlyCompletes s t c 0x44 id) ∧
      (c.arg0.toNat < 4096 → (ctxOf s c.arg0.toNat).st = .closed → OnlyCompletes s t c 0x47 id) ∧
      (c.arg0.toNat < 4096 → (ctxOf s c.arg0.toNat).st = .failed → ctxOf t c.arg0.toNat = {}) := by
  intro t
  have ht : t = _ := serve_of_serves h _
  clear_value t
  dsimp only at ht
  refine ⟨fun hno => ?_, fun hlt hst => ?_, fun hlt hst => ?_⟩
  · rw [ht, if_pos hno]
    exact onlyCompletes_finishCmd s c _ _
  · rw [ht, if_neg (by omega), if_pos hst]
    exact onlyCompletes_finishCmd s c _ _
  · rw [if_neg (by omega), if_neg (by rw [hst]; decide)] at ht
    have hclose : closeCtx (beginCmd s c) c.arg0.toNat = finishCtxCmd (modCtx (beginCmd s c) c.arg0.toNat fun _ => {}) c.arg0.toNat 0x19 stOk := by
      unfold closeCtx
      exact if_pos hst
    obtain ⟨m, n, hfr⟩ := finishCtxCmd_rest (modCtx (beginCmd s c) c.arg0.toNat fun _ => {}) c.arg0.toNat 0x19 stOk
    rw [ht, hclose, hfr]
    exact (ctxOf_modCtx (s := beginCmd s c) _ _ _).trans (if_pos rfl)

theorem toNat_bits16 (p lo : Nat) : (BitVec.ofNat 16 (bitsOf p lo 16)).toNat = bitsOf p lo 16 := by
  rw [BitVec.toNat_ofNat]
  exact Nat.mod_eq_of_lt (Engines.bitsOf_lt p lo 16)

/-- A context that can be opened sends CTX_OPEN by its port (R437). -/
theorem ctxOpen_opens {k : Nat} (h : Serves s q 0x18 c) (hlt : c.arg0.toNat < 4096) (hrec : ctxRecOk c.payload.toNat = true)
    (hst : (ctxOf s c.arg0.toNat).st = .closed) (hep : s.bup.epSet = true) (hlive : (jobOf s (bitsOf c.payload.toNat 48 8)).live = true)
    (hres : reserveSum (modCtx s c.arg0.toNat fun _ => ctxOfRec c.payload.toNat) ≤ 8192)
    (hpt : ptContext s (bitsOf c.payload.toNat 0 16) (bitOf c.payload.toNat 32) = true)
    (hport : ctxPort s (bitsOf c.payload.toNat 0 16) c.arg0.toNat = some k) :
    let x := c.arg0.toNat
    let t := ctxOpen s q
    Begun s t c ∧ ctxOf t x = { ctxOfRec c.payload.toNat with txSeq := 1 } ∧ t.bup.nextMsg = s.bup.nextMsg + 1 ∧
      ∃ m, (portOf t k).q0 = (portOf s k).q0 ++ [m] ∧ m.ctx = x ∧ m.id = s.bup.nextMsg := by
  intro x t
  have ht : t = ctxSend (modCtx (beginCmd s c) x fun _ => ctxOfRec c.payload.toNat) x tyCtxOpen id := by
    refine (serve_of_serves h _).trans ?_
    dsimp only
    rw [if_neg (by simp [Nat.not_le.2 hlt, hrec]), if_neg (by simp [hst, hep]), if_neg (by simp [hlive])]
    exact if_neg (Nat.not_lt.2 hres)
  clear_value t
  have hctx : ctxOf (modCtx (beginCmd s c) x fun _ => ctxOfRec c.payload.toNat) x = ctxOfRec c.payload.toNat :=
    (ctxOf_modCtx (beginCmd s c) x x _).trans (if_pos rfl)
  have hreach : Reaches (modCtx (beginCmd s c) x fun _ => ctxOfRec c.payload.toNat) x k := by
    refine ⟨hep, ?_, ?_⟩
    · rw [hctx, show (ctxOfRec c.payload.toNat).remote.toNat = _ from toNat_bits16 _ 0]
      exact hpt
    · rw [hctx, show (ctxOfRec c.payload.toNat).remote.toNat = _ from toNat_bits16 _ 0]
      exact hport
  have hu : (modCtx (beginCmd s c) x fun _ => ctxOfRec c.payload.toNat).cxl = (beginCmd s c).cxl ∧
      (modCtx (beginCmd s c) x fun _ => ctxOfRec c.payload.toNat).bup.nextMsg = s.bup.nextMsg ∧
      portOf (modCtx (beginCmd s c) x fun _ => ctxOfRec c.payload.toNat) k = portOf s k := ⟨rfl, rfl, rfl⟩
  generalize (modCtx (beginCmd s c) x fun _ => ctxOfRec c.payload.toNat) = u at *
  obtain ⟨hcxl, hnext, hp⟩ := hu
  rw [ctxSend_of_reaches hreach (by rw [hctx]; simp [ctxOfRec]) (by rw [hctx]; simp [ctxOfRec])] at ht
  obtain ⟨hfr, hc, hq⟩ := ctxSent_acts u x k tyCtxOpen (ctxMsg u x)
  change t = ctxSent u x k tyCtxOpen (ctxMsg u x) at ht
  rw [← ht] at hfr hc hq
  have hq' := congrArg Port.q0 (hq (by decide))
  rw [hp] at hq'
  refine ⟨?_, ?_, ?_, ⟨_, hq', rfl, hnext⟩⟩
  · rw [hfr]
    exact hcxl
  · rw [hc, if_pos rfl, hctx]
    rfl
  · rw [hfr]
    exact congrArg (· + 1) hnext

/-- CTX_OPEN, with its failed checks (R437; log 95). -/
theorem ctxOpen_refuses (h : Serves s q 0x18 c) :
    let p := c.payload.toNat
    let x := c.arg0.toNat
    let ok := x < 4096 ∧ ctxRecOk p = true
    let t := ctxOpen s q
    (¬ ok → OnlyCompletes s t c 0x44 id) ∧
      (ok → (ctxOf s x).st ≠ .closed ∨ s.bup.epSet = false → OnlyCompletes s t c 0x47 id) ∧
      (ok → (ctxOf s x).st = .closed → s.bup.epSet = true → (jobOf s (bitsOf p 48 8)).live = false → OnlyCompletes s t c 0x46 id) := by
  intro p x ok t
  have hok : ok ↔ ¬ (decide (4096 ≤ c.arg0.toNat) || !ctxRecOk c.payload.toNat) = true := by
    simp [ok, x, p]
  have ht : t = _ := serve_of_serves h _
  clear_value t
  dsimp only at ht
  refine ⟨fun hno => ?_, fun hyes hor => ?_, fun hyes hst hep hlive => ?_⟩
  · rw [ht, if_pos (by rw [hok, not_not] at hno; exact hno)]
    exact onlyCompletes_finishCmd s c _ _
  · rw [ht, if_neg (hok.1 hyes), if_pos (by simpa using hor)]
    exact onlyCompletes_finishCmd s c _ _
  · rw [ht, if_neg (hok.1 hyes), if_neg (by simp [x] at hst; simp [hst, hep]), if_pos (by simpa using hlive)]
    exact onlyCompletes_finishCmd s c _ _

/-! ## POWER_SET -/

theorem commitProfile_frame (s : State) (eff : Bool) : ∃ c l, commitProfile s eff = sent { s with com := c } l := by
  unfold commitProfile
  extract_lets last cur
  split_ifs
  · exact ⟨s.com, [], by simp [sent]⟩
  · exact pithPrepare_frame s _ _
  · exact pithPrepare_frame s _ _

theorem powerSetDone_frame (s : State) : ∃ m n, powerSetDone s = { s with cxl := { s.cxl with cmds := m, held := n } } := by
  unfold powerSetDone
  split_ifs
  · exact ⟨_, _, rfl⟩
  · exact foldl_finishCmd stOk id _ s

/-- What POWER_SET may change after it has set its registers: the commits, what is sent, and the commands' completions. -/
def powerView (s : State) : Clock × Power := (s.clk, s.pow)

theorem powerView_commitCap (s : State) : powerView (commitCap s) = powerView s := by
  obtain ⟨c, l, h⟩ := commitCap_frame s
  rw [h]
  rfl

theorem powerView_commitProfile (s : State) (eff : Bool) : powerView (commitProfile s eff) = powerView s := by
  obtain ⟨c, l, h⟩ := commitProfile_frame s eff
  rw [h]
  rfl

theorem powerView_powerSetDone (s : State) : powerView (powerSetDone s) = powerView s := by
  obtain ⟨m, n, h⟩ := powerSetDone_frame s
  rw [h]
  rfl

theorem powerView_ite {b : Prop} [Decidable b] (ht : powerView t = powerView s) (hu : powerView u = powerView s) :
    powerView (if b then t else u) = powerView s := by
  split
  · exact ht
  · exact hu

/-- The report bit that POWER_SET sets. -/
def reporting (s : State) (p : Nat) : State := if bitOf p 2 then { s with pow := { s.pow with report := bitOf p 40 } } else s

/-- The cap that POWER_SET asks for, in 50 W steps (R479). -/
def hostAsks (s : State) (p : Nat) : Nat :=
  if bitOf p 0 then bitsOf p 16 16 else if bitOf p 1 then min (profileCap (bitOf p 32)) (capMax s) else s.clk.hostCap

/-- The cap and the profile committed again in the order that a lower cap calls for, and the commands that then end. -/
def recommit (s : State) (old p : Nat) : State :=
  let lower := decide (effCap s < old)
  let s := if lower then commitCap s else s
  let s := if bitOf p 1 then commitProfile s (bitOf p 32) else s
  powerSetDone (if lower then s else commitCap s)

theorem powerView_recommit (s : State) (old p : Nat) : powerView (recommit s old p) = powerView s := by
  unfold recommit
  extract_lets lower u v
  have hu : powerView u = powerView s := powerView_ite (powerView_commitCap s) rfl
  have hv : powerView v = powerView s := powerView_ite ((powerView_commitProfile u _).trans hu) hu
  exact (powerView_powerSetDone _).trans (powerView_ite hv ((powerView_commitCap v).trans hv))

theorem powerSet_eq (h : Serves s q 0x20 c) (hok : powerSetOk c.payload.toNat = true)
    (hno : ¬ (bitOf c.payload.toNat 0 && decide (capMax s < bitsOf c.payload.toNat 16 16)) = true) :
    let u := reporting (beginCmd s c) c.payload.toNat
    powerSet s q = recommit { u with clk := { u.clk with hostCap := hostAsks u c.payload.toNat } } (effCap u) c.payload.toNat :=
  (serve_of_serves h _).trans ((if_neg (by rw [hok]; decide)).trans (if_neg hno))

/-- POWER_SET (R479). -/
theorem powerSet_acts (h : Serves s q 0x20 c) :
    let p := c.payload.toNat
    let t := powerSet s q
    (powerSetOk p = false → OnlyCompletes s t c 0x44 id) ∧
      (powerSetOk p = true → bitOf p 0 = true → capMax s < bitsOf p 16 16 → OnlyCompletes s t c 0x47 id) ∧
      (powerSetOk p = true → (bitOf p 0 = true → bitsOf p 16 16 ≤ capMax s) →
        t.clk.hostCap = hostAsks s p ∧ (bitOf p 2 = true → t.pow.report = bitOf p 40)) := by
  intro p t
  refine ⟨fun hno => ?_, fun hok hb hlt => ?_, fun hok hle => ?_⟩
  · have ht : t = finishCmd s c stMalformed id := (serve_of_serves h _).trans (if_pos (by rw [show powerSetOk c.payload.toNat = false from hno]; rfl))
    rw [ht]
    exact onlyCompletes_finishCmd s c _ _
  · have ht : t = finishCmd s c stWrong id :=
      (serve_of_serves h _).trans ((if_neg (by rw [show powerSetOk c.payload.toNat = true from hok]; decide)).trans
        (if_pos (by rw [show bitOf c.payload.toNat 0 = true from hb, Bool.true_and, decide_eq_true_eq]; exact hlt)))
    rw [ht]
    exact onlyCompletes_finishCmd s c _ _
  · have hno : ¬ (bitOf p 0 && decide (capMax s < bitsOf p 16 16)) = true := by
      rw [Bool.and_eq_true, decide_eq_true_eq, not_and, Nat.not_lt]
      exact hle
    have ht : t = _ := powerSet_eq h hok hno
    have hu : (reporting (beginCmd s c) p).clk = s.clk ∧ hostAsks (reporting (beginCmd s c) p) p = hostAsks s p ∧
        (bitOf p 2 = true → (reporting (beginCmd s c) p).pow.report = bitOf p 40) := by
      unfold reporting
      split
      · exact ⟨rfl, rfl, fun _ => rfl⟩
      · next h2 => exact ⟨rfl, rfl, fun h => absurd h h2⟩
    change t = recommit { reporting (beginCmd s c) p with clk := { (reporting (beginCmd s c) p).clk with
      hostCap := hostAsks (reporting (beginCmd s c) p) p } } (effCap (reporting (beginCmd s c) p)) p at ht
    clear_value t
    generalize reporting (beginCmd s c) p = u at ht hu
    obtain ⟨hclk, hasks, hrep⟩ := hu
    have hview := powerView_recommit { u with clk := { u.clk with hostCap := hostAsks u p } } (effCap u) p
    rw [← ht] at hview
    obtain ⟨hvc, hvp⟩ := Prod.mk.inj hview
    refine ⟨?_, fun h2 => ?_⟩
    · rw [hvc]
      exact hasks
    · rw [hvp]
      exact hrep h2

/-- Settles O46: each command that its queue serves has its effect, or the status of the check that fails. -/
theorem hostCommandsTakeEffect : Obligations.HostCommandsTakeEffect := by
  intro s q c p
  refine ⟨forall_safe_refuses s q c, ?map, ?unmap, fun h => ⟨_, rfl, pairSetup_acts h⟩, fun h => ⟨_, rfl, pairDissolve_acts h⟩,
    fun hup hnext => ⟨_, rfl, sliceRelease_acts hup hnext⟩, ?open_, fun h => ⟨_, rfl, ctxClose_acts h⟩, fun h => ⟨_, rfl, routeSet_acts h⟩,
    fun h => ⟨_, rfl, portRetrain_acts h⟩, ?power⟩
  case map =>
    intro a h hjob hroot hst dva len hdva hoff hlen hne hend hwin hzero
    have ht := mapWindow_acts h hjob hroot hst hdva hoff hlen hne hend hwin hzero
    refine ⟨_, rfl, fun u => ?_, ?_, ?_⟩
    · rw [ht, jobOf_finishCmd, jobOf_modJob, if_pos rfl]
      rw [List.mem_dedup, List.mem_append, mem_winUnits hdva]
    · rw [ht]
      exact completes_finishCmd rfl c stOk _
    · rw [ht, finishCmd_eq]
      rfl
  case unmap =>
    intro a es h hjob dva len mine hdva hlen hne hmine
    exact ⟨_, rfl, unmapWindow_acts h hjob es hdva hlen hne hmine⟩
  case open_ =>
    intro h
    obtain ⟨hmal, hwrong, hdead⟩ := ctxOpen_refuses h
    refine ⟨_, rfl, hmal, hwrong, hdead, fun k hok hst hep hlive hres hpt hport => ?_⟩
    exact ctxOpen_opens h hok.1 hok.2 hst hep hlive hres hpt hport
  case power =>
    intro h
    obtain ⟨hmal, hwrong, hset⟩ := powerSet_acts h
    refine ⟨_, rfl, hmal, hwrong, fun hok hle => ?_⟩
    obtain ⟨hcap, hrep⟩ := hset hok hle
    refine ⟨fun h0 => ?_, hrep, fun h0 h1 => ?_, fun h0 h1 => ?_⟩
    · rw [hcap, hostAsks, if_pos h0]
    · rw [hcap, hostAsks, if_neg (by rw [h0]; decide), if_pos h1]
      rfl
    · rw [hcap, hostAsks, if_neg (by rw [h0]; decide), if_neg (by rw [h1]; decide)]

end Sys2Proof.Proofs.HostCommands
end

section
/-! SUPPORT. The mirrored pair forms and is lost (R401 to R420). -/

namespace Sys2Proof.Proofs.MirrorPair

open Sys2Proof.Laws Sys2Proof.Machine Sys2Proof Sys2Proof.Proofs.Commits Sys2Proof.Proofs.Commands Sys2Proof.Proofs.Links Sys2Proof.Proofs.TierReads

variable {s t u : State}

/-! ## The partner is lost -/

theorem mem_modFirst_const {α : Type} {p : α → Bool} {c x : α} {l : List α} (hx : x ∈ l) (hp : p x = false) : x ∈ modFirst p (fun _ => c) l := by
  induction l with
  | nil => exact absurd hx List.not_mem_nil
  | cons y l ih =>
    rw [modFirst]
    rcases List.mem_cons.1 hx with rfl | hx
    · rw [if_neg (by rw [hp]; decide)]
      exact List.mem_cons_self
    · split
      · exact List.mem_cons_of_mem _ hx
      · exact List.mem_cons_of_mem _ (ih hx)

theorem mem_modFirst_new {α : Type} {p : α → Bool} {c : α} {l : List α} (h : l.any p = true) : c ∈ modFirst p (fun _ => c) l := by
  induction l with
  | nil => exact absurd h (by simp)
  | cons y l ih =>
    rw [modFirst]
    by_cases hy : p y = true
    · rw [if_pos hy]
      exact List.mem_cons_self
    · rw [if_neg hy]
      rw [List.any_cons, Bool.eq_false_iff.2 hy, Bool.false_or] at h
      exact List.mem_cons_of_mem _ (ih h)

/-- An asynchronous entry is held; it takes the place of an entry of its own kind alone (R465). -/
theorem postAsync_acts (s : State) (c : Cpl) :
    ∃ h, postAsync s c = { s with cxl := { s.cxl with held := h } } ∧ c ∈ h ∧ ∀ e ∈ s.cxl.held, e.kind ≠ c.kind → e ∈ h := by
  unfold postAsync
  extract_lets same
  by_cases hany : s.cxl.held.any same = true
  · rw [if_pos hany]
    refine ⟨_, rfl, mem_modFirst_new hany, fun e he hk => mem_modFirst_const he ?_⟩
    simp [same, hk]
  · rw [if_neg hany]
    exact ⟨_, rfl, List.mem_append_right _ List.mem_cons_self, fun e he _ => List.mem_append_left _ he⟩

theorem postJob_acts (s : State) (a kind res0 : Nat) :
    ∃ h, postJob s a kind res0 = { s with cxl := { s.cxl with held := h } } ∧ ∀ e ∈ s.cxl.held, e.kind ≠ kind → e ∈ h := by
  unfold postJob
  obtain ⟨h, hfr, -, hkeep⟩ := postAsync_acts s _
  exact ⟨h, hfr, hkeep⟩

/-- A MIRRORED job loses its protection, with its entry (R413). -/
def unprotect (t : State) (a : Nat) : State :=
  if !(jobOf t a).mirrored || (jobOf t a).unprotected then t
  else postJob (modJob t a fun j => { j with unprotected := true, mirrorHeld := [] }) a asUnprotected 0

/-- What jobs that lose their protection leave of the module. -/
def pairView (s : State) : Pair × Commit × Stem := (s.pair, s.com, s.stem)

theorem unprotect_acts (t : State) (a : Nat) :
    pairView (unprotect t a) = pairView t ∧ (∀ b, (jobOf (unprotect t a) b).mirrored = (jobOf t b).mirrored) ∧
      (∀ b, (jobOf t b).unprotected = true → (jobOf (unprotect t a) b).unprotected = true) ∧
      ((jobOf t a).mirrored = true → (jobOf (unprotect t a) a).unprotected = true) ∧
      ∀ e ∈ t.cxl.held, e.kind = 6 → e ∈ (unprotect t a).cxl.held := by
  unfold unprotect
  by_cases hc : (!(jobOf t a).mirrored || (jobOf t a).unprotected) = true
  · rw [if_pos hc]
    refine ⟨rfl, fun _ => rfl, fun _ h => h, fun hm => ?_, fun _ he _ => he⟩
    rw [hm] at hc
    simpa using hc
  · rw [if_neg hc]
    have hj : ∀ b, jobOf (modJob t a fun j => { j with unprotected := true, mirrorHeld := [] }) b =
        if a = b then { jobOf t a with unprotected := true, mirrorHeld := [] } else jobOf t b := fun b => jobOf_modJob t a b _
    have hu : pairView (modJob t a fun j => { j with unprotected := true, mirrorHeld := [] }) = pairView t ∧
        (modJob t a fun j => { j with unprotected := true, mirrorHeld := [] }).cxl = t.cxl := ⟨rfl, rfl⟩
    generalize (modJob t a fun j => { j with unprotected := true, mirrorHeld := [] }) = u at hj hu
    obtain ⟨hview, hcxl⟩ := hu
    obtain ⟨h, hfr, hkeep⟩ := postJob_acts u a asUnprotected 0
    rw [hfr]
    refine ⟨hview, fun b => ?_, fun b hb => ?_, fun _ => ?_, fun e he hk => hkeep e (hcxl ▸ he) ?_⟩
    · show (jobOf u b).mirrored = _
      rw [hj]
      split
      · next hab => rw [hab]
      · rfl
    · show (jobOf u b).unprotected = _
      rw [hj]
      split
      · rfl
      · exact hb
    · show (jobOf u a).unprotected = _
      rw [hj, if_pos rfl]
    · rw [hk]
      decide

theorem foldl_unprotect (l : List Nat) (t : State) :
    pairView (l.foldl unprotect t) = pairView t ∧
      (∀ b, (jobOf t b).unprotected = true → (jobOf (l.foldl unprotect t) b).unprotected = true) ∧
      (∀ a ∈ l, (jobOf t a).mirrored = true → (jobOf (l.foldl unprotect t) a).unprotected = true) ∧
      ∀ e ∈ t.cxl.held, e.kind = 6 → e ∈ (l.foldl unprotect t).cxl.held := by
  induction l generalizing t with
  | nil => exact ⟨rfl, fun _ h => h, fun a ha => absurd ha List.not_mem_nil, fun _ he _ => he⟩
  | cons a l ih =>
    obtain ⟨hview, hmir, hun, hnow, hheld⟩ := unprotect_acts t a
    obtain ⟨hview', hun', hnow', hheld'⟩ := ih (unprotect t a)
    rw [List.foldl_cons]
    refine ⟨hview'.trans hview, fun b hb => hun' b (hun b hb), fun b hb hm => ?_, fun e he hk => hheld' e (hheld e he hk) hk⟩
    rcases List.mem_cons.1 hb with rfl | hb
    · exact hun' b (hnow hm)
    · exact hnow' b hb ((hmir b).trans hm)

theorem tabGet_beginSeal (l : Tab Slice) (k : Nat) : tabGet {} (l.map fun e => (e.1, beginSeal e.2)) k = beginSeal (tabGet {} l k) := by
  induction l with
  | nil => rfl
  | cons e l ih =>
    obtain ⟨i, x⟩ := e
    rw [List.map_cons, tabGet_cons, tabGet_cons, ih]
    exact (apply_ite beginSeal (i = k) x _).symm

/-- The pair has ended, and its slices begin to be sealed. -/
def broken (s : State) (cause : Nat) : State :=
  { s with pair := { s.pair with formed := false, lost := true, cause := cause, buf := [], slices := s.pair.slices.map fun e => (e.1, beginSeal e.2) } }

/-- A prepared mirror commit is aborted, and none waits. -/
def unmirrored (s : State) : State :=
  let s := if s.com.out.any isMirrorCommit then abortOut s none else s
  { s with com := { s.com with queue := s.com.queue.filter (!isMirrorCommit ·), retry := s.com.retry.filter (!isMirrorCommit ·) } }

/-- The loss is reported, to the log and to the host. -/
def lossTold (s : State) (cause : Nat) : State :=
  let s := raise s (mkEvent pithAddr (floorN s) 0x01C0 0 0 7 0 cause)
  postAsync s { cq := 0, cid := 0xFFFF, sq := 0, async := true, kind := asPairLost, sqhead := sqHead s 0, res0 := BitVec.ofNat 64 cause }

theorem losePair_of_formed (hformed : s.pair.formed = true) (cause : Nat) :
    let u := lossTold (unmirrored (broken s cause)) cause
    losePair s cause = (liveJobs u).foldl unprotect u := if_neg (by rw [hformed]; decide)

theorem abortOut_none (s : State) (hout : s.com.out ≠ none) : (abortOut s none).com.out = none ∧ ∃ k l, abortOut s none = sent { s with com := k } l := by
  unfold abortOut
  split
  · next h => exact absurd h hout
  · dsimp only
    rw [foldl_send]
    exact ⟨rfl, _, _, rfl⟩

theorem unmirrored_acts (s : State) :
    (∀ c, (unmirrored s).com.out = some c → c.kind ≠ .mirrorCommit) ∧
      (∀ c ∈ (unmirrored s).com.queue ++ (unmirrored s).com.retry, c.kind ≠ .mirrorCommit) ∧ ∃ k l, unmirrored s = sent { s with com := k } l := by
  have hu : ∃ u, u = (if s.com.out.any isMirrorCommit then abortOut s none else s) ∧ (∀ c, u.com.out = some c → c.kind ≠ .mirrorCommit) ∧
      ∃ k l, u = sent { s with com := k } l := by
    refine ⟨_, rfl, ?_⟩
    by_cases hc : s.com.out.any isMirrorCommit = true
    · rw [if_pos hc]
      obtain ⟨hnone, hfr⟩ := abortOut_none s fun h => absurd hc (by rw [h]; decide)
      exact ⟨fun c h => absurd (hnone.symm.trans h) (by simp), hfr⟩
    · rw [if_neg hc]
      refine ⟨fun c h hk => hc ?_, s.com, [], by simp [sent]⟩
      rw [h]
      simp [isMirrorCommit, hk]
  obtain ⟨u, hu, hout, k, l, hfr⟩ := hu
  unfold unmirrored
  rw [← hu]
  refine ⟨hout, fun c hc => ?_, _, l, by rw [hfr]; rfl⟩
  have hno : (!isMirrorCommit c) = true := (List.mem_append.1 hc).elim (fun h => (List.mem_filter.1 h).2) fun h => (List.mem_filter.1 h).2
  simpa [isMirrorCommit] using hno

theorem lossTold_acts (s : State) (cause : Nat) :
    let t := lossTold s cause
    t = { s with stem := t.stem, cxl := t.cxl } ∧ Tells s t ∧ (∃ e ∈ t.stem.events, e.code = 0x01C0) ∧
      ∃ e ∈ t.cxl.held, e.async = true ∧ e.kind = 6 := by
  obtain ⟨h, hfr, hin, -⟩ := postAsync_acts (raise s (mkEvent pithAddr (floorN s) 0x01C0 0 0 7 0 cause))
    { cq := 0, cid := 0xFFFF, sq := 0, async := true, kind := asPairLost,
      sqhead := sqHead (raise s (mkEvent pithAddr (floorN s) 0x01C0 0 0 7 0 cause)) 0, res0 := BitVec.ofNat 64 cause }
  intro t
  have ht : t = _ := hfr
  clear_value t
  subst ht
  obtain ⟨e, he, hcode, -⟩ := exists_mem_mergeEvent (mkEvent pithAddr (floorN s) 0x01C0 0 0 7 0 cause) s.stem.events
  exact ⟨rfl, tells_raise s _, ⟨e, he, hcode⟩, _, hin, rfl, rfl⟩

/-- Where the pair is formed, its loss takes effect (R412, R413). -/
theorem losePair_acts (hformed : s.pair.formed = true) (cause : Nat) : PartnerLost s (losePair s cause) cause ∧ Tells s (losePair s cause) := by
  rw [losePair_of_formed hformed]
  obtain ⟨hout, hqueue, k, l, hu⟩ := unmirrored_acts (broken s cause)
  obtain ⟨hfr, htells, hevent, e, he, hasync, hkind⟩ := lossTold_acts (unmirrored (broken s cause)) cause
  generalize unmirrored (broken s cause) = u at *
  generalize lossTold u cause = v at *
  have hvp : v.pair = (broken s cause).pair := by rw [hfr, hu]; rfl
  have hvc : v.com = u.com := by rw [hfr]
  have hvj : ∀ a, jobOf v a = jobOf s a := fun a => by rw [hfr, hu]; rfl
  have hlive : liveJobs v = liveJobs s := List.filter_congr fun a _ => by rw [hvj]
  have hsu : Tells s u := fun e he => ⟨e, by rw [hu]; exact he, rfl, rfl⟩
  obtain ⟨hview, -, hnow, hheld⟩ := foldl_unprotect (liveJobs v) v
  generalize (liveJobs v).foldl unprotect v = t at *
  obtain ⟨hp, hrest⟩ := Prod.mk.inj hview
  obtain ⟨hc, hs⟩ := Prod.mk.inj hrest
  have htp : t.pair = (broken s cause).pair := hp.trans hvp
  have htc : t.com = u.com := hc.trans hvc
  have hslices : ∀ x, sliceOf t x = beginSeal (sliceOf s x) := fun x => by
    rw [sliceOf, htp]
    exact tabGet_beginSeal s.pair.slices x
  refine ⟨⟨by rw [htp]; rfl, by rw [htp]; rfl, by rw [htp]; rfl, by rw [htp]; rfl, hslices, by rw [htc]; exact hout, by rw [htc]; exact hqueue,
    fun a ha hm => hnow a (hlive ▸ ha) (by rw [hvj]; exact hm), by rw [hs]; exact hevent, e, hheld e he hkind, hasync, hkind⟩, ?_⟩
  exact (hsu.trans htells).trans (tells_of_stem hs)

/-! ## HELLO -/

/-- The waiting PAIR_SETUP commands end. -/
theorem finishSetup_acts (s : State) (status res0 : Nat) :
    let t := finishSetup s status res0
    (∃ m n, t = { s with cxl := { s.cxl with cmds := m, held := n } }) ∧ (∀ c ∈ t.cxl.cmds, ¬ (c.begun = true ∧ c.opc = 0x10)) ∧
      ∀ c ∈ s.cxl.cmds, c.begun = true → c.opc = 0x10 → c.mute = false →
        ∃ e ∈ t.cxl.held, e.cid = c.cid ∧ e.sq = c.sq ∧ e.status = status ∧ e.res0 = BitVec.ofNat 64 res0 := by
  intro t
  refine ⟨foldl_finishCmd _ _ _ s, fun c hc hcmd => ?_, fun c hc hb ho hm => ?_⟩
  · exact not_mem_of_finished status _ s (fun c => c.begun && c.opc == 0x10) c hc (by simp [hcmd.1, hcmd.2])
  · obtain ⟨-, hnew⟩ := exists_held_of_finished status (fun x => { x with res0 := BitVec.ofNat 64 res0 })
      (s.cxl.cmds.filter fun c => c.begun && c.opc == 0x10) s
    obtain ⟨n, hn⟩ := hnew c (List.mem_filter.2 ⟨hc, by simp [hb, ho]⟩) hm
    exact ⟨_, hn, rfl, rfl, rfl, rfl⟩

/-- A pair that is refused, with the number of the condition that failed (R401). -/
theorem refusePair_acts (s : State) (n : Nat) :
    let t := refusePair s n
    t.pair = { s.pair with setup := false, partner := 0, ports := 0, store := 0, logGib := 0, heard := 0 } ∧
      (∀ c ∈ s.cxl.cmds, c.begun = true → c.opc = 0x10 → c.mute = false →
        ∃ e ∈ t.cxl.held, e.cid = c.cid ∧ e.sq = c.sq ∧ e.status = 0x48 ∧ e.res0 = BitVec.ofNat 64 n) ∧
      ∀ c ∈ t.cxl.cmds, ¬ (c.begun = true ∧ c.opc = 0x10) := by
  obtain ⟨⟨m, h, hfr⟩, hnone, hheld⟩ := finishSetup_acts
    { s with pair := { s.pair with setup := false, partner := 0, ports := 0, store := 0, logGib := 0, heard := 0 } } stPairRefused n
  intro t
  refine ⟨?_, hheld, hnone⟩
  rw [show t = _ from hfr]

/-- A message of the pair's class goes out by a mirror port. -/
theorem mirSend_acts (s : State) (p ty : Nat) (w : MirrorWrite) :
    let t := mirSend s p ty w
    let m : QMsg := { id := s.bup.nextMsg, cls := 0, cells := if ty = tyWrite then 65 else 1, ctx := 65535, dst := s.pair.partner }
    (∃ b o, t = { s with bup := b, out := o }) ∧ portOf t p = { portOf s p with q0 := (portOf s p).q0 ++ [m] } ∧
      ∀ k, k ≠ p → portOf t k = portOf s k := by
  obtain ⟨-, hother, hq⟩ := enqueue_acts s p 0 (if ty = tyWrite then 65 else 1) 65535 s.pair.partner fun _ => .mirror p ty w
  exact ⟨⟨_, _, rfl⟩, hq rfl, hother⟩

/-- HELLO of the partner on port `p` has been heard there, and is answered where it is the first (R401, R402). -/
def heardOn (s : State) (p : Fin 48) (store logGib : Nat) : State :=
  let v := { s with pair := { s.pair with theirStore := store, theirLog := logGib, heard := s.pair.heard ||| BitVec.ofNat 48 (2 ^ p.val) } }
  if s.pair.heard.getLsbD p then v else sendHello v p

theorem heardOn_acts (s : State) (p : Fin 48) (store logGib : Nat) :
    let w := heardOn s p store logGib
    w.pair = { s.pair with theirStore := store, theirLog := logGib, heard := s.pair.heard ||| BitVec.ofNat 48 (2 ^ p.val) } ∧ w.cxl = s.cxl ∧
      (s.pair.heard.getLsbD p = false → ∃ m, (portOf w p).q0 = (portOf s p).q0 ++ [m] ∧ m.cells = 1 ∧ m.dst = s.pair.partner) ∧
      (s.pair.heard.getLsbD p = true → (portOf w p).q0 = (portOf s p).q0) := by
  unfold heardOn
  cases hf : s.pair.heard.getLsbD p with
  | false => exact ⟨rfl, rfl, fun _ => ⟨_, congrArg Port.q0 (mirSend_acts _ p tyHello _).2.1, rfl, rfl⟩, fun h => absurd h (by decide)⟩
  | true => exact ⟨rfl, rfl, fun h => absurd h (by decide), fun _ => rfl⟩

theorem hello_of_partner {p : Fin 48} {store logGib : Nat} (hsetup : s.pair.setup = true) (hform : s.pair.formed = false)
    (hport : s.pair.ports.getLsbD p = true) (hup : (portOf s p).up = true) :
    let w := heardOn s p store logGib
    hello s p s.pair.partner store logGib (portCount s.pair.ports) =
      if w.pair.heard ≠ w.pair.ports then w
      else finishSetup { w with pair := { w.pair with setup := false, formed := true, lost := false, cause := 0 } } stOk 0 := by
  have hfirst : bitOf s.pair.heard.toNat p = s.pair.heard.getLsbD p := Vector.bitOf_toNat s.pair.heard p
  refine (if_neg (by rw [Vector.bitOf_toNat]; simp [hsetup, hform, hport, hup])).trans ((if_neg (by simp)).trans ((if_neg (by simp)).trans ?_))
  unfold heardOn
  rw [hfirst]
  cases s.pair.heard.getLsbD p <;> rfl

/-- HELLO from the partner on a named port (R401, R402; log 87). -/
theorem hello_hears {p : Fin 48} {store logGib : Nat} (hsetup : s.pair.setup = true) (hform : s.pair.formed = false)
    (hport : s.pair.ports.getLsbD p = true) (hup : (portOf s p).up = true) :
    let heard := s.pair.heard ||| BitVec.ofNat 48 (2 ^ p.val)
    let t := hello s p s.pair.partner store logGib (portCount s.pair.ports)
    t.pair.theirStore = store ∧ t.pair.theirLog = logGib ∧ t.pair.heard = heard ∧
      (heard ≠ s.pair.ports → t.pair.setup = true ∧ t.pair.formed = false ∧ t.cxl = s.cxl) ∧
      (heard = s.pair.ports → t.pair.setup = false ∧ t.pair.formed = true ∧ t.pair.lost = false ∧
        ∀ c ∈ t.cxl.cmds, ¬ (c.begun = true ∧ c.opc = 0x10)) ∧
      (s.pair.heard.getLsbD p = false → ∃ m, (portOf t p).q0 = (portOf s p).q0 ++ [m] ∧ m.cells = 1 ∧ m.dst = s.pair.partner) ∧
      (s.pair.heard.getLsbD p = true → (portOf t p).q0 = (portOf s p).q0) := by
  obtain ⟨hwp, hwc, hsend, hkeep⟩ := heardOn_acts s p store logGib
  intro heard t
  have ht : t = _ := hello_of_partner hsetup hform hport hup
  clear_value t
  dsimp only at ht
  generalize heardOn s p store logGib = w at *
  have hwh : w.pair.heard = heard ∧ w.pair.ports = s.pair.ports := by
    rw [hwp]
    exact ⟨rfl, rfl⟩
  by_cases hall : heard = s.pair.ports
  · rw [if_neg (by rw [hwh.1, hwh.2]; exact not_not.2 hall)] at ht
    obtain ⟨⟨m, h, hfr⟩, hnone, -⟩ := finishSetup_acts { w with pair := { w.pair with setup := false, formed := true, lost := false, cause := 0 } } stOk 0
    rw [← ht] at hfr hnone
    have htp : t.pair = { w.pair with setup := false, formed := true, lost := false, cause := 0 } := by rw [hfr]
    have htq : portOf t p = portOf w p := by
      rw [hfr]
      rfl
    rw [htp, hwp, htq]
    exact ⟨rfl, rfl, rfl, fun h => absurd hall h, fun _ => ⟨rfl, rfl, rfl, hnone⟩, hsend, hkeep⟩
  · rw [if_pos (by rw [hwh.1, hwh.2]; exact hall)] at ht
    subst ht
    rw [hwp]
    exact ⟨rfl, rfl, rfl, fun _ => ⟨hsetup, hform, hwc⟩, fun h => absurd h hall, hsend, hkeep⟩

/-- Settles O47: what the messages of a pair's partner, and its silence, make of the pair. -/
theorem thePairFormsAndIsLost : Obligations.ThePairFormsAndIsLost := by
  intro s p refused
  refine ⟨?hello, fun hsetup => ⟨_, rfl, ?timeout⟩, ?beat, rfl, fun hfrom => ⟨_, rfl, ?fail⟩, fun hform => ⟨_, rfl, (losePair_acts hform lostSilence).1⟩, ?write, ?sealing⟩
  case hello =>
    intro src store logGib nports hsetup hform hport hup heard
    have hgo : hello s p src store logGib nports = _ := if_neg (by rw [Vector.bitOf_toNat]; simp [hsetup, hform, hport, hup])
    refine ⟨_, rfl, fun hsrc => ?_, fun hsrc hn => ?_, fun hsrc hn => ?_⟩
    · rw [hgo, if_pos hsrc]
      exact refusePair_acts s 2
    · rw [hgo, if_neg (not_not.2 hsrc), if_pos hn]
      exact refusePair_acts s 6
    · subst hsrc hn
      exact hello_hears hsetup hform hport hup
  case timeout =>
    rw [pairFormationTimeout, if_pos hsetup]
    exact refusePair_acts s 7
  case beat =>
    intro x hmir hup h0 h1 h2
    have hidle : (portOf s p).up = true ∧ (portOf s p).q0 = [] ∧ (portOf s p).q1 = [] ∧ (portOf s p).q2 = [] := ⟨hup, h0, h1, h2⟩
    have ht : heartbeatSend s p = mirSend s p tyHeartbeat (mirCtl 0 0 0) := if_pos (by simp [hmir, hidle])
    obtain ⟨-, hq, hother⟩ := mirSend_acts s p tyHeartbeat (mirCtl 0 0 0)
    refine ⟨_, rfl, ?_, ?_⟩
    · rw [ht, hq, hidle.2.1]
      rfl
    · rw [ht]
      exact hother
  case fail =>
    have hform : s.pair.formed = true := by
      simp only [fromPartner, isMirrorPort, Bool.and_eq_true] at hfrom
      exact hfrom.1.2.1
    rw [pairFail, if_pos hfrom]
    exact (losePair_acts hform lostFail).1
  case write =>
    intro w hfrom hout
    have hform : s.pair.formed = true := by
      simp only [fromPartner, isMirrorPort, Bool.and_eq_true] at hfrom
      exact hfrom.1.2.1
    have ht : mirrorWrite s p w = losePair (raise s (mkEvent pithAddr (floorN s) 0x01C1 0 0 7 0 (Config.detailOf 0x01C1 [w.job, w.block]).toNat)) lostWindow := by
      unfold mirrorWrite
      rw [if_neg (by simp [hfrom]), if_pos (by simpa using hout)]
    obtain ⟨hlost, htells⟩ := losePair_acts (s := raise s (mkEvent pithAddr (floorN s) 0x01C1 0 0 7 0 (Config.detailOf 0x01C1 [w.job, w.block]).toNat)) hform lostWindow
    obtain ⟨e, he, hcode, -⟩ := exists_mem_mergeEvent (mkEvent pithAddr (floorN s) 0x01C1 0 0 7 0 (Config.detailOf 0x01C1 [w.job, w.block]).toNat) s.stem.events
    obtain ⟨e', he', hcode', -⟩ := htells e he
    refine ⟨_, rfl, ?_, e', ?_, hcode'.trans hcode⟩
    · rw [ht]
      exact hlost
    · rw [ht]
      exact he'
  case sealing =>
    intro ix
    refine ⟨_, rfl, (sliceOf_modSlice s ix ix _).trans (if_pos rfl), fun k hk => (sliceOf_modSlice s ix k _).trans (if_neg (Ne.symm hk)), rfl⟩

end Sys2Proof.Proofs.MirrorPair
end

section
/-! SUPPORT. Mirror traffic is logged and committed (R402 to R416). -/

namespace Sys2Proof.Proofs.MirrorTraffic

open Sys2Proof.Laws Sys2Proof.Machine Sys2Proof Sys2Proof.Proofs.Commits Sys2Proof.Proofs.MirrorPair

variable {s t u : State}

/-! ## Blocks that the mirror engine admits -/

/-- A block admitted to the buffer as the job's next WRITE (R405, R408). -/
theorem mirrorAdmit_acts (s : State) (a n block : Nat) (b : BlockData) :
    let t := mirrorAdmit s a n block b
    (∀ c, jobOf t c = if a = c then { jobOf s a with seq := ((jobOf s a).seq + 1) % 2 ^ 32 } else jobOf s c) ∧
      t.pair = { s.pair with buf := s.pair.buf ++ [{ job := (jobOf s a).number, t := n, seq := (jobOf s a).seq, block := block, body := b }] } := by
  intro t
  have ht : t = mirrorAdmit s a n block b := rfl
  clear_value t
  unfold mirrorAdmit at ht
  dsimp only at ht
  have hj : ∀ c, jobOf (modJob s a fun j => { j with seq := (j.seq + 1) % 2 ^ 32 }) c =
      if a = c then { jobOf s a with seq := ((jobOf s a).seq + 1) % 2 ^ 32 } else jobOf s c := fun c => jobOf_modJob s a c _
  split at ht
  · subst ht
    exact ⟨hj, rfl⟩
  · next p rest hports =>
    obtain ⟨⟨o, l, hfr⟩, -⟩ := mirSend_acts
      { modJob s a fun j => { j with seq := (j.seq + 1) % 2 ^ 32 } with
        pair := { (modJob s a fun j => { j with seq := (j.seq + 1) % 2 ^ 32 }).pair with
          buf := (modJob s a fun j => { j with seq := (j.seq + 1) % 2 ^ 32 }).pair.buf ++
            [{ job := (jobOf s a).number, t := n, seq := (jobOf s a).seq, block := block, body := b }] } } p tyWrite
      { job := (jobOf s a).number, t := n, seq := (jobOf s a).seq, block := block, body := b }
    rw [ht.trans hfr]
    exact ⟨hj, rfl⟩

/-- A held block is admitted in order (R405, R408). -/
theorem mirrorBlockAdmit_acts {a : Nat} {f tag : Nat} {rest : List (Nat × Nat)} {x : Transfer} {b : BlockData} {n : Nat}
    (hheld : (jobOf s a).mirrorHeld = (f, tag) :: rest) (hx : xferOf s f tag = some x) (hbody : x.body = some b) (hn : sliceBlock s a x.far = some n)
    (hform : s.pair.formed = true) (hun : (jobOf s a).unprotected = false) :
    mirrorBlockAdmit s a =
      if 16384 ≤ s.pair.buf.length ∨ (jobOf s a).commitC + 2 < x.iv then s
      else mirrorAdmit (modJob s a fun j => { j with mirrorHeld := rest }) a x.iv n b := by
  unfold mirrorBlockAdmit
  dsimp only
  rw [hheld]
  dsimp only
  rw [hx]
  dsimp only
  rw [hbody, hn]
  exact if_neg (by simp [hform, hun])

/-! ## What the partner's mirror messages do to a slice -/

/-- A WRITE as the log of a slice takes it: once (R410). -/
def logOnce (w : MirrorWrite) (x : Slice) : Slice :=
  if w.t ≤ x.c ∨ x.log.any (fun y => y.t == w.t && y.seq == w.seq) then x else { x with log := x.log ++ [w] }

theorem logOnce_acts (w : MirrorWrite) (x : Slice) :
    let logged := w.t ≤ x.c ∨ ∃ y ∈ x.log, y.t = w.t ∧ y.seq = w.seq
    (logged → logOnce w x = x) ∧ (¬ logged → logOnce w x = { x with log := x.log ++ [w] }) := by
  intro logged
  have hl : logged ↔ (w.t ≤ x.c ∨ x.log.any (fun y => y.t == w.t && y.seq == w.seq)) := by
    simp [logged]
  exact ⟨fun h => if_pos (hl.1 h), fun h => if_neg (mt hl.2 h)⟩

/-- A WACK goes back to the partner. -/
theorem mirSend_acks (s : State) (p : Fin 48) (w : MirrorWrite) :
    let t := mirSend s p tyWack w
    (∃ m, (∃ k, (portOf t k).q0 = (portOf s k).q0 ++ [m]) ∧ m.cells = 1 ∧ m.dst = s.pair.partner) ∧ ∀ x, sliceOf t x = sliceOf s x := by
  obtain ⟨⟨b, o, hfr⟩, hq, -⟩ := mirSend_acts s p tyWack w
  refine ⟨⟨_, ⟨p, congrArg Port.q0 hq⟩, rfl, rfl⟩, fun x => ?_⟩
  rw [hfr]
  rfl

/-- A WRITE within the window is logged once and acknowledged (R409, R410). -/
theorem mirrorWrite_logs {p : Fin 48} {w : MirrorWrite} (hfrom : fromPartner s p = true) (hfix : s.trs.winFixed = true)
    (hin : w.block < s.pair.store * 2 ^ 18) :
    mirrorWrite s p w = match openSlice s w.job with
      | some i => mirSend (modSlice s i (logOnce w)) p tyWack (mirCtl w.job w.t w.seq)
      | none =>
        match (List.range 36).find? fun i => !(sliceOf s i).valid with
        | some i => mirSend (modSlice s i fun _ => logOnce w { valid := true, job := w.job, owner := s.pair.partner }) p tyWack (mirCtl w.job w.t w.seq)
        | none => s := by
  unfold mirrorWrite
  rw [if_neg (by simp [hfrom]), if_neg (by simp only [hfix, Bool.not_true, Bool.false_or, decide_eq_true_eq, Nat.not_le]; exact hin)]
  all_goals rfl

/-- A WRITE that changes slice `k` by `g`, acknowledged. -/
theorem acked_modSlice (p : Fin 48) (k : Nat) (g : Slice → Slice) (w : MirrorWrite) :
    let t := mirSend (modSlice s k g) p tyWack w
    (∃ m, (∃ k, (portOf t k).q0 = (portOf s k).q0 ++ [m]) ∧ m.cells = 1 ∧ m.dst = s.pair.partner) ∧ sliceOf t k = g (sliceOf s k) ∧
      ∀ x, x ≠ k → sliceOf t x = sliceOf s x := by
  obtain ⟨hack, hslice⟩ := mirSend_acks (modSlice s k g) p w
  refine ⟨hack, (hslice k).trans ?_, fun x hx => (hslice x).trans ?_⟩
  · rw [sliceOf_modSlice, if_pos rfl]
  · rw [sliceOf_modSlice, if_neg (Ne.symm hx)]

/-- The blocks of a slice after an interval's writes have been applied: each holds its last write (R410). -/
theorem tabGet_applied (l : List MirrorWrite) (t : Tab BlockData) (b : Nat) :
    tabGet default (l.foldl (fun t w => tabPut default w.block w.body t) t) b =
      match (l.filter fun w => w.block == b).getLast? with
      | some w => w.body
      | none => tabGet default t b := by
  induction l generalizing t with
  | nil => rfl
  | cons w l ih =>
    rw [List.foldl_cons, ih, tabGet_put, List.filter_cons]
    by_cases hb : w.block = b
    · rw [if_pos hb, if_pos (by simpa using hb), List.getLast?_cons]
      cases (l.filter fun w => w.block == b).getLast? <;> rfl
    · rw [if_neg hb, if_neg (by simpa using hb)]

/-- The commit of an interval waits for its last WACK (R411, R416). -/
theorem mirrorIntervalCommit_of_reported {a : Nat} {d : MirrorDecl} (hdecl : (jobOf s a).fam.mirror = some d) (hup : pithUp s = true)
    (hlive : (jobOf s a).live = true) (hmir : (jobOf s a).mirrored = true) (hun : (jobOf s a).unprotected = false) (hform : s.pair.formed = true)
    (hstop : (jobOf s a).st ≠ .stopped) (hwait : (jobOf s a).st ≠ .waiting) (hall : ∀ b ∈ declBunches s a, b ∈ (jobOf s a).mirrorReports)
    (hopen : intervalOpen s a ((jobOf s a).commitC + 1) = false) (hidle : CommitIdle s) :
    let n := (jobOf s a).commitC + 1
    mirrorIntervalCommit s a =
      if tabGet 0 s.pair.recorded a ≠ n then
        if 16384 ≤ s.pair.buf.length then s
        else
          let s := mirrorAdmit s a n 0 (jobRecord s a n ((mirrorPoints (jobOf s a).fam d.every).getD (n - 1) 0))
          { s with pair := { s.pair with recorded := tabPut 0 a n s.pair.recorded } }
      else if s.pair.buf.any fun w => w.job == (jobOf s a).number && w.t == n then s
      else pithPrepare s .mirrorCommit (BitVec.ofNat 64 (a + 2 ^ 8 * n)) := by
  obtain ⟨-, hout, hqueue, hretry, hcom, -, -⟩ := hidle
  intro n
  unfold mirrorIntervalCommit
  dsimp only
  rw [hdecl]
  refine if_neg ?_
  simpa [hup, hlive, hmir, hun, hform, hstop, hwait, hopen, changing, hout, hqueue, hretry, hcom] using hall

theorem partsOf_mirrorCommit (s : State) (arg : BitVec 64) : partsOf s .mirrorCommit arg ≠ [] :=
  List.append_ne_nil_of_right_ne_nil _ (List.cons_ne_nil _ _)

/-- Settles O48: the mirror engine's admissions and commits, and what the partner's slices make of its messages. -/
theorem mirrorTrafficIsLoggedAndCommitted : Obligations.MirrorTrafficIsLoggedAndCommitted := by
  intro s p a j
  refine ⟨?taken, ?write, ?wack, ?complete, ?discard, ?commit⟩
  case taken =>
    intro f tag rest x b n hheld hx hbody hn hform hun
    have ht := mirrorBlockAdmit_acts hheld hx hbody hn hform hun
    refine ⟨_, rfl, fun hor => ht.trans (if_pos hor), fun hbuf hiv => ?_⟩
    rw [ht, if_neg (not_or.2 ⟨Nat.not_le.2 hbuf, Nat.not_lt.2 hiv⟩)]
    obtain ⟨hjob, hpair⟩ := mirrorAdmit_acts (modJob s a fun j => { j with mirrorHeld := rest }) a x.iv n b
    have hja : jobOf (modJob s a fun j => { j with mirrorHeld := rest }) a = { j with mirrorHeld := rest } := by
      rw [jobOf_modJob, if_pos rfl]
    refine ⟨?_, fun c hc => ?_, ?_⟩
    · rw [hjob, if_pos rfl, hja]
    · rw [hjob, if_neg (Ne.symm hc), jobOf_modJob, if_neg (Ne.symm hc)]
    · rw [hpair, hja]
      rfl
  case write =>
    intro w hfrom hfix hin acked logged
    have ht := mirrorWrite_logs hfrom hfix hin
    refine ⟨_, rfl, fun k hk => ?_, fun k hno hk ht1 => ?_, fun hno hall => ?_⟩
    · rw [hk] at ht
      obtain ⟨hack, hslice, hother⟩ := acked_modSlice (s := s) p k (logOnce w) (mirCtl w.job w.t w.seq)
      obtain ⟨hyes, hnot⟩ := logOnce_acts w (sliceOf s k)
      rw [ht]
      exact ⟨hack, fun h => hslice.trans (hyes h), fun h => hslice.trans (hnot h), hother⟩
    · rw [hno] at ht
      dsimp only at ht
      rw [hk] at ht
      obtain ⟨hack, hslice, hother⟩ := acked_modSlice (s := s) p k (fun _ => logOnce w { valid := true, job := w.job, owner := s.pair.partner })
        (mirCtl w.job w.t w.seq)
      obtain ⟨-, hnot⟩ := logOnce_acts w { valid := true, job := w.job, owner := s.pair.partner }
      rw [ht]
      refine ⟨hack, hslice.trans (hnot ?_), hother⟩
      rintro (h | ⟨y, hy, -⟩)
      · exact absurd h (Nat.not_le.2 ht1)
      · exact absurd hy List.not_mem_nil
    · have hfind : ((List.range 36).find? fun i => !(sliceOf s i).valid) = none := by
        rw [List.find?_eq_none]
        intro i hi
        rw [hall i (List.mem_range.1 hi)]
        decide
      rw [hno] at ht
      dsimp only at ht
      rw [hfind] at ht
      exact ht
  case wack =>
    intro job n seq hfrom
    exact congrArg Host.Outcome.next (if_neg (by simp [hfrom]))
  case complete =>
    intro job n k hfrom hk x
    have ht : mirrorComplete s p job n = modSlice s k fun x => applyInterval x n := by
      unfold mirrorComplete
      rw [if_neg (by simp [hfrom]), hk]
    have hslice : ∀ y, sliceOf (mirrorComplete s p job n) y = if k = y then applyInterval x n else sliceOf s y := fun y => by
      rw [ht, sliceOf_modSlice]
    refine ⟨_, rfl, ?_, ?_, ?_, fun b => ?_, fun y hy => (hslice y).trans (if_neg (Ne.symm hy)), ?_⟩
    · rw [hslice, if_pos rfl]
      rfl
    · rw [hslice, if_pos rfl]
      rfl
    · rw [hslice, if_pos rfl]
      rfl
    · rw [hslice, if_pos rfl]
      refine (tabGet_applied (logOf x n) x.blocks b).trans ?_
      cases ((logOf x n).filter fun w => w.block == b).getLast? <;> rfl
    · rw [ht]
      rfl
  case discard =>
    intro job n k hfrom hk
    have ht : mirrorDiscard s p job n = modSlice s k fun x => { x with log := x.log.filter fun w => decide (w.t ≤ n) } := by
      unfold mirrorDiscard
      rw [if_neg (by simp [hfrom]), hk]
    refine ⟨_, rfl, ?_, fun y hy => ?_, ?_⟩
    · rw [ht, sliceOf_modSlice, if_pos rfl]
    · rw [ht, sliceOf_modSlice, if_neg (Ne.symm hy)]
    · rw [ht]
      rfl
  case commit =>
    intro d hdecl hup hlive hmir hun hform hstop hwait hall n record hopen hidle
    have ht := mirrorIntervalCommit_of_reported hdecl hup hlive hmir hun hform hstop hwait hall hopen hidle
    refine ⟨_, rfl, fun hne hbuf => ?_, fun heq hin => ?_, fun heq hnot => ?_⟩
    · obtain ⟨-, hpair⟩ := mirrorAdmit_acts s a n 0 record
      rw [ht, if_pos hne, if_neg (Nat.not_le.2 hbuf)]
      refine ⟨tabGet_put_same 0 a n _, ?_⟩
      exact congrArg (·.buf) hpair
    · obtain ⟨w, hw, hjob, hwt⟩ := hin
      refine ht.trans ((if_neg (not_not.2 heq)).trans (if_pos ?_))
      rw [List.any_eq_true]
      exact ⟨w, hw, by simp [hjob, hwt, j, n]⟩
    · rw [ht, if_neg (not_not.2 heq), if_neg]
      · exact Barriers.pithPrepare_prepares hidle (partsOf_mirrorCommit s _)
      · rw [List.any_eq_true]
        rintro ⟨w, hw, hyes⟩
        exact hnot w hw (by simpa [j, n] using hyes)

end Sys2Proof.Proofs.MirrorTraffic
end

section
/-! SUPPORT. Host queues (R9, R11, R454 to R469, R555 to R568). -/

namespace Sys2Proof.Proofs.Queues

open Sys2Proof.Laws Sys2Proof.Machine Sys2Proof Sys2Proof.Proofs.Links

variable {s t u : State} {q : Fin 8}

/-! ## Errors and counts -/

/-- What a change of one queue leaves as it was. -/
theorem modQueue_acts (s : State) (q : Nat) (g : Queue → Queue) :
    queueOf (modQueue s q g) q = g (queueOf s q) ∧ (∀ k, k ≠ q → queueOf (modQueue s q g) k = queueOf s k) ∧
      modQueue s q g = { s with cxl := { s.cxl with queue := (modQueue s q g).cxl.queue } } :=
  ⟨(queueOf_modQueue s q q g).trans (if_pos rfl), fun k hk => (queueOf_modQueue s q k g).trans (if_neg (Ne.symm hk)), rfl⟩

theorem queueStops_queueError (s : State) (q : Fin 8) (code : Nat) : QueueStops s (queueError s q code) q (BitVec.ofNat 3 code) :=
  modQueue_acts s q _

/-- A tail count (R555, R560). -/
theorem tailTaken_takeCount (s : State) (q : Fin 8) (v : BitVec 32) : TailTaken s (takeCount s q false v) q v := by
  refine ⟨fun hno hover => ?_, fun hno hle => ?_, fun hyes => ?_⟩
  · have ht : takeCount s q false v = queueError s q qeOverrun := (if_neg (by rw [hno]; decide)).trans (if_pos hover)
    rw [ht]
    exact queueStops_queueError s q qeOverrun
  · have ht : takeCount s q false v = modQueue s q fun x => { x with tail := v } :=
      (if_neg (by rw [hno]; decide)).trans (if_neg (Nat.not_lt.2 hle))
    obtain ⟨hq, -, hfr⟩ := modQueue_acts s q fun x => { x with tail := v }
    rw [ht]
    exact ⟨hq, hfr⟩
  · have ht : takeCount s q false v = { s with cxl := { s.cxl with keptSq := tabPut 0 q (v.toNat + 1) s.cxl.keptSq } } := if_pos hyes
    rw [ht]
    exact ⟨tabGet_put_same 0 q (v.toNat + 1) s.cxl.keptSq, rfl⟩

/-- A head count (R460, R555). -/
theorem headTaken_takeCount (s : State) (q : Fin 8) (v : BitVec 32) : HeadTaken s (takeCount s q true v) q v := by
  refine ⟨fun hno => ?_, fun hyes => ?_⟩
  · have ht : takeCount s q true v = modQueue s q fun x => { x with head := v } := if_neg (by rw [hno]; decide)
    obtain ⟨hq, -, hfr⟩ := modQueue_acts s q fun x => { x with head := v }
    rw [ht]
    exact ⟨hq, hfr⟩
  · have ht : takeCount s q true v = { s with cxl := { s.cxl with keptCq := tabPut 0 q (v.toNat + 1) s.cxl.keptCq } } := if_pos hyes
    rw [ht]
    exact ⟨tabGet_put_same 0 q (v.toNat + 1) s.cxl.keptCq, rfl⟩

/-- A line that the host has written, in POLL mode (R457, R460, R560). -/
theorem tailLineUpdate_acts (v : BitVec 32) (poison : Bool) (hopen : barOpen s = true) (hen : (queueOf s q).enable = true)
    (hmode : (queueOf s q).mode = false) (cq : Bool) :
    let at_ := lineAddr (queueOf s q) cq
    let t := tailLineUpdate s q cq v poison
    (granted s at_ 64 false = false → QueueStops (dropLine s at_) t q 1) ∧
      (granted s at_ 64 false = true → poison = true → QueueStops (dropLine s at_) t q 3) ∧
      (granted s at_ 64 false = true → poison = false →
        if cq then HeadTaken (keepLine (dropLine s at_) at_ v) t q v else TailTaken (keepLine (dropLine s at_) at_ v) t q v) := by
  intro at_ t
  have ht : t = if !granted s at_ 64 false then queueError (dropLine s at_) q qeNotGranted
      else if poison then queueError (dropLine s at_) q qeLinePoison
      else takeCount (keepLine (dropLine s at_) at_ v) q cq v := if_neg (by simp [hopen, hen, hmode])
  clear_value t at_
  refine ⟨fun hno => ?_, fun hyes hp => ?_, fun hyes hp => ?_⟩
  · rw [ht, if_pos (by rw [hno]; rfl)]
    exact queueStops_queueError _ q qeNotGranted
  · rw [ht, if_neg (by rw [hyes]; decide), if_pos hp]
    exact queueStops_queueError _ q qeLinePoison
  · rw [if_neg (by rw [hyes]; decide), if_neg (by rw [hp]; decide)] at ht
    rw [ht]
    cases cq with
    | true => exact headTaken_takeCount _ q v
    | false => exact tailTaken_takeCount _ q v

/-- A doorbell, in DOORBELL mode (R11, R460). -/
theorem doorbell_of_open {cq : Bool} {value : BitVec 64} {h : Half} (hopen : barOpen s = true) (hen : (queueOf s q).enable = true)
    (hmode : (queueOf s q).mode = true) (hh : h ≠ .high) : doorbell s q cq value h = takeCount s q cq (value.setWidth 32) :=
  if_neg (by simp [hopen, hen, hmode, coversLow, hh])

/-! ## Q_CFG -/

theorem ofNat_bitsOf_low (v lo len : Nat) : BitVec.ofNat len (bitsOf v lo len) = BitVec.ofNat len (v / 2 ^ lo) := by
  apply BitVec.eq_of_toNat_eq
  rw [BitVec.toNat_ofNat, BitVec.toNat_ofNat, bitsOf, Nat.mod_mod]

/-- QERR and its code after a write of Q_CFG (R9, R559). -/
def clearedBy (value : BitVec 64) (x : Queue) : Queue := if value.getLsbD 16 then { x with qerr := false, qcode := 0 } else x

/-- A queue's sizes and modes after a write of Q_CFG while it is disabled (R559). -/
def sizedBy (value : BitVec 64) (x : Queue) : Queue :=
  { clearedBy value x with
    sqLog := BitVec.ofNat 4 value.toNat, cqLog := BitVec.ofNat 4 (value.toNat / 16), mode := value.getLsbD 8, ien := value.getLsbD 9 }

/-- Legal sizes, aligned bases and QERR 0, without which no queue is enabled (R559). -/
abbrev Legal (z : Queue) : Prop :=
  4 ≤ z.sqLog.toNat ∧ z.sqLog.toNat ≤ 12 ∧ 4 ≤ z.cqLog.toNat ∧ z.cqLog.toNat ≤ 12 ∧ z.qerr = false ∧ z.sqBase.toNat % 4096 = 0 ∧
    z.cqBase.toNat % 4096 = 0

theorem enable_clearedBy (value : BitVec 64) (x : Queue) : (clearedBy value x).enable = x.enable := by
  unfold clearedBy
  split <;> rfl

/-- A queue after a write of Q_CFG (R559). -/
def cfgBy (value : BitVec 64) (x : Queue) : Queue :=
  if x.enable then { clearedBy value x with enable := value.getLsbD 10 }
  else if value.getLsbD 10 = true ∧ Legal (sizedBy value x) then
    { sizedBy value x with enable := true, tail := (sizedBy value x).consumed, head := (sizedBy value x).written }
  else sizedBy value x

theorem writeQcfg_eq {value : BitVec 64} {h : Half} (hopen : barOpen s = true) (hh : h ≠ .high) :
    writeQcfg s q value h = modQueue s q (cfgBy value) := by
  refine (if_neg (by simp [hopen, coversLow, hh])).trans (congrArg (modQueue s q) (funext fun x => ?_))
  dsimp only
  simp only [Vector.bitOf_toNat, ofNat_bitsOf_low, Nat.pow_zero, Nat.div_one]
  change (if (clearedBy value x).enable then { clearedBy value x with enable := value.getLsbD 10 } else _) = _
  unfold cfgBy
  rw [enable_clearedBy]
  by_cases hen : x.enable = true
  · rw [if_pos hen, if_pos hen]
  · rw [if_neg hen, if_neg hen]
    refine if_congr ?_ rfl rfl
    simp only [Bool.and_eq_true, decide_eq_true_eq, Bool.not_eq_true', beq_iff_eq, Legal, and_assoc]
    exact Iff.rfl

/-- Q_CFG written by any of its commands (R559). -/
theorem cfgBy_acts (value : BitVec 64) (ht : t = modQueue s q (cfgBy value)) :
    let x := queueOf s q
    (x.enable = true → queueOf t q = { clearedBy value x with enable := value.getLsbD 10 }) ∧
      (x.enable = false → value.getLsbD 10 = true → Legal (sizedBy value x) →
        queueOf t q = { sizedBy value x with enable := true, tail := (sizedBy value x).consumed, head := (sizedBy value x).written }) ∧
      (x.enable = false → ¬ (value.getLsbD 10 = true ∧ Legal (sizedBy value x)) → queueOf t q = sizedBy value x) ∧
      (∀ k, k ≠ q.val → queueOf t k = queueOf s k) ∧ t = { s with cxl := { s.cxl with queue := t.cxl.queue } } := by
  subst ht
  obtain ⟨hq, hother, hfr⟩ := modQueue_acts s q (cfgBy value)
  refine ⟨fun hen => hq.trans (if_pos hen), fun hen h10 hok => hq.trans ?_, fun hen hno => hq.trans ?_, hother, hfr⟩
  · exact (if_neg (by rw [hen]; decide)).trans (if_pos ⟨h10, hok⟩)
  · exact (if_neg (by rw [hen]; decide)).trans (if_neg hno)

/-- A write that clears QERR in the cycle in which hardware stops the queue (R9, R568). -/
theorem qerrClear_of_tie {value : BitVec 64} {h : Half} {tie : Fin 4} (hopen : barOpen s = true) (hen : (queueOf s q).enable = true) (hh : h ≠ .high)
    (htie : tie ≠ 0) :
    let t := qerrClear s q { value := value, tie := tie } h
    queueOf t q = { queueOf s q with qerr := true, qcode := BitVec.ofNat 3 tie.val, enable := false } ∧
      (∀ k, k ≠ q.val → queueOf t k = queueOf s k) ∧ t = { s with cxl := { s.cxl with queue := t.cxl.queue } } := by
  intro t
  have ht : t = queueError (writeQcfg s q value h) q tie := if_pos ⟨fun h => htie (Fin.ext h), hopen, hen⟩
  rw [writeQcfg_eq hopen hh] at ht
  clear_value t
  obtain ⟨hset, -, -, hother, hfr⟩ := cfgBy_acts (s := s) (q := q) value rfl
  obtain ⟨hq, hk, hfr'⟩ := queueStops_queueError (modQueue s q (cfgBy value)) q tie
  rw [← ht] at hq hk hfr'
  refine ⟨hq.trans ?_, fun k h => (hk k h).trans (hother k h), ?_⟩
  · rw [hset hen]
    unfold clearedBy
    split <;> rfl
  · rw [hfr', hfr]

/-! ## Completions and interrupts -/

/-- The oldest completion held for a ring with a free slot is written there (R454, R464, R469). -/
theorem completionWrite_acts {c : Cpl} (hheld : s.cxl.held.find? (fun c => c.cq == q.val) = some c) (hup : pithUp s = true) (hcxl : cxlUp s = true)
    (hen : (queueOf s q).enable = true) (hfree : ((queueOf s q).written - (queueOf s q).head).toNat < 2 ^ (queueOf s q).cqLog.toNat) :
    let x := queueOf s q
    let slot := x.written.toNat % 2 ^ x.cqLog.toNat
    let t := completionWrite s q
    (granted s (x.cqBase.toNat + 64 * slot) 64 true = false → QueueStops s t q 1) ∧
      (granted s (x.cqBase.toNat + 64 * slot) 64 true = true →
        t.cxl.held = eraseFirst (fun y => decide (y = c)) s.cxl.held ∧
        t.out = .completion slot (x.written.toNat / 2 ^ x.cqLog.toNat % 2 == 0) c :: s.out ∧ queueOf t q = { x with written := x.written + 1 } ∧
        t.cxl.msixPend = (if x.ien then s.cxl.msixPend ||| BitVec.ofNat 16 (2 ^ q.val) else s.cxl.msixPend)) := by
  intro x slot t
  have ht : t = completionWrite s q := rfl
  clear_value t
  unfold completionWrite at ht
  dsimp only at ht
  rw [hheld] at ht
  dsimp only at ht
  have hopen : ¬ (!pithUp s || !cxlUp s || !(queueOf s q).enable || decide (2 ^ (queueOf s q).cqLog.toNat ≤
      ((queueOf s q).written - (queueOf s q).head).toNat)) = true := by
    simp only [hup, hcxl, hen, Bool.not_true, Bool.or_self, Bool.false_or, decide_eq_true_eq]
    exact Nat.not_le.2 hfree
  rw [if_neg hopen] at ht
  refine ⟨fun hno => ?_, fun hyes => ?_⟩
  · rw [ht, if_pos (by rw [show granted s _ 64 true = false from hno]; rfl)]
    exact queueStops_queueError s q qeNotGranted
  · rw [if_neg (by rw [show granted s _ 64 true = true from hyes]; decide)] at ht
    have hq : ∀ u : State, u.cxl.queue = s.cxl.queue → queueOf (modQueue u q fun x => { x with written := x.written + 1 }) q =
        { x with written := x.written + 1 } := fun u hu => by
      rw [queueOf_modQueue, if_pos rfl, queueOf, hu, ← queueOf]
    by_cases hien : (queueOf s q).ien = true
    · rw [if_pos hien] at ht
      subst ht
      exact ⟨rfl, rfl, hq _ rfl, (if_pos hien).symm⟩
    · rw [if_neg hien] at ht
      subst ht
      exact ⟨rfl, rfl, hq _ rfl, (if_neg hien).symm⟩

theorem getLsbD_clearBit (w : BitVec 16) (v k : Fin 16) :
    (w &&& ~~~BitVec.ofNat 16 (2 ^ v.val)).getLsbD k = (w.getLsbD k && decide (k ≠ v)) := by
  rw [BitVec.getLsbD_and, BitVec.getLsbD_not, BitVec.getLsbD_ofNat, Nat.testBit_two_pow]
  by_cases hk : k = v
  · simp [hk]
  · have hne : ¬ v.val = k.val := fun h => hk (Fin.ext h.symm)
    simp [hk, hne]

/-- Settles O52: what lines, doorbells, Q_CFG, completions and vectors make of the queues. -/
theorem queuesCompleteAndInterrupt : Obligations.QueuesCompleteAndInterrupt := by
  intro s q x
  refine ⟨?line, ?bell, ?cfg, ?tie, ?cpl, ?msix⟩
  case line =>
    intro v poison hopen hen hmode at_ gone read cq
    exact ⟨_, rfl, tailLineUpdate_acts v poison hopen hen hmode cq⟩
  case bell =>
    intro value h hopen hen hmode hh
    refine ⟨⟨_, rfl, ?_⟩, ⟨_, rfl, ?_⟩⟩
    · rw [doorbell_of_open hopen hen hmode hh]
      exact tailTaken_takeCount s q _
    · rw [doorbell_of_open hopen hen hmode hh]
      exact headTaken_takeCount s q _
  case cfg =>
    intro value h hopen hh v y z legal
    simp only [List.forall_mem_cons, List.not_mem_nil, false_imp_iff, implies_true, and_true]
    have heq := writeQcfg_eq (q := q) (value := value) hopen hh
    have htie : qerrClear s q { value := value } h = modQueue s q (cfgBy value) := by
      rw [qerrClear, if_neg fun h => h.1 rfl]
      exact heq
    exact ⟨⟨_, rfl, cfgBy_acts value heq⟩, ⟨_, rfl, cfgBy_acts value heq⟩, ⟨_, rfl, cfgBy_acts value htie⟩⟩
  case tie =>
    intro value h tie hopen hen hh htie
    exact ⟨_, rfl, qerrClear_of_tie hopen hen hh htie⟩
  case cpl =>
    intro c hheld hup hcxl hen hfree slot
    exact ⟨_, rfl, completionWrite_acts hheld hup hcxl hen hfree⟩
  case msix =>
    intro v hpend hmask hmain hnheld hcxl
    have ht : msixSend s v = emit { s with cxl := { s.cxl with msixPend := s.cxl.msixPend &&& ~~~(BitVec.ofNat 16 (2 ^ v.val)) } } (.msix v) :=
      if_neg (by rw [hpend, hmask, hmain, hnheld, hcxl]; decide)
    refine ⟨_, rfl, ?_, fun k hk => ?_, ?_, ?_⟩
    · rw [ht]
      exact (getLsbD_clearBit s.cxl.msixPend v v).trans (by simp)
    · rw [ht]
      exact (getLsbD_clearBit s.cxl.msixPend v k).trans (by simp [hk])
    · rw [ht]
      rfl
    · rw [ht]
      rfl

end Sys2Proof.Proofs.Queues
end

section
/-! SUPPORT. Slices are read and resumed (R421 to R423). -/

namespace Sys2Proof.Proofs.Slices

open Sys2Proof.Laws Sys2Proof.Machine Sys2Proof Sys2Proof.Proofs.Commands Sys2Proof.Proofs.Fields

open Sys2Proof.Proofs.Links (foldl_keeps)

variable {s t : State} {q : Fin 8} {c : Cmd}

/-! ## What a job's end leaves of the pair -/

theorem pair_finishCtxCmd (s : State) (x opc status : Nat) : (finishCtxCmd s x opc status).pair = s.pair := by
  obtain ⟨m, n, h⟩ := finishCtxCmd_rest s x opc status
  rw [h]

theorem pair_failTransfer (s : State) (key : Nat) : (failTransfer s key).pair = s.pair := rfl

theorem pair_failCtx (s : State) (x cause : Nat) : (failCtx s x cause).pair = s.pair := by
  unfold failCtx
  extract_lets c reads u v b w x' y
  have hu : u.pair = s.pair := foldl_keeps State.pair (fun t e => pair_failTransfer t _) _ s
  clear_value u
  have hx : x'.pair = s.pair := hu
  clear_value x'
  have hy : y.pair = s.pair := (pair_finishCtxCmd _ _ _ _).trans ((pair_finishCtxCmd _ _ _ _).trans hx)
  clear_value y
  split
  · rfl
  · exact hy

theorem pair_ctxSend (s : State) (x ty : Nat) (g : BupMsg → BupMsg) : (ctxSend s x ty g).pair = s.pair := by
  unfold ctxSend
  extract_lets c u
  have hu : u.pair = s.pair := rfl
  clear_value u
  split
  · rfl
  split
  · exact (pair_failCtx _ _ _).trans hu
  split
  · exact pair_failCtx _ _ _
  · rfl

theorem pair_settleCtx (s : State) (x : Nat) : (settleCtx s x).pair = s.pair := by
  unfold settleCtx
  extract_lets c b u
  split
  · rfl
  · exact pair_finishCtxCmd _ _ _ _

theorem pair_closeCtx (s : State) (x : Nat) : (closeCtx s x).pair = s.pair := by
  unfold closeCtx
  extract_lets c u
  have hu : u.pair = s.pair := pair_ctxSend _ _ _ _
  clear_value u
  split
  · exact pair_finishCtxCmd _ _ _ _
  split
  · rfl
  split
  · exact hu
  · exact (pair_settleCtx _ _).trans ((pair_finishCtxCmd _ _ _ _).trans hu)

/-- A freed job leaves its energy alone, and of the pair all but the record that its snapshot wrote. -/
theorem freeJob_acts (s : State) (a : Nat) :
    jobOf (freeJob s a) a = { energy := (jobOf s a).energy } ∧
      (freeJob s a).pair = { s.pair with recorded := tabPut 0 a 0 s.pair.recorded } := by
  unfold freeJob
  extract_lets j u v w
  have hu : u.pair = s.pair := foldl_keeps State.pair (fun t c => by rw [finishCmd_rest]) _ s
  clear_value u
  have hv : v.pair = u.pair := foldl_keeps State.pair pair_closeCtx _ u
  clear_value v
  obtain ⟨l, hl⟩ := modFields_frame v fun _ x => { x with str := dropXlates (fun b _ _ => b == a) x.str }
  have hw : w.pair = s.pair := (congrArg State.pair hl).trans (hv.trans hu)
  clear_value w
  refine ⟨?_, ?_⟩
  · rw [jobOf, tabGet_put, if_pos rfl]
  · show ({ w.pair with recorded := _ } : Pair) = _
    rw [hw]

/-- The state in which MIRROR_RESUME has ended `status` and the pair asks for nothing more. -/
def resumeDropped (s : State) (status : Nat) : State :=
  let u := (s.cxl.cmds.filter fun c => c.begun && c.opc == 0x06).foldl (fun t c => finishCmd t c status (forJob t s.pair.resumeAsid)) s
  { u with bup := { u.bup with readUsed := u.bup.readUsed - (s.pair.reads.map fun r => readCount s r.1).sum }
           pair := { u.pair with resumeAsid := 0, reads := [], fetched := [], need := 0, nextRd := 0 } }

/-- A resumption that fails frees its job and asks for nothing more (R423). -/
theorem failResume_acts (s : State) (status : Nat) :
    let t := failResume s status
    let ra := s.pair.resumeAsid
    t.pair.resumeAsid = 0 ∧ t.pair.reads = [] ∧ jobOf t ra = { energy := (jobOf s ra).energy } := by
  intro t ra
  have ht : t = failResume s status := rfl
  clear_value t
  have hu := foldl_keeps (jobOf · ra) (fun t c => jobOf_finishCmd t c status (forJob t ra) ra)
    (s.cxl.cmds.filter fun c => c.begun && c.opc == 0x06) s
  obtain ⟨hjob, hpair⟩ := freeJob_acts (resumeDropped s status) ra
  have hfree : failResume s status = freeJob (resumeDropped s status) ra := rfl
  rw [ht, hfree, hpair]
  exact ⟨rfl, rfl, hjob.trans (congrArg (fun j => ({ energy := j.energy } : Job)) hu)⟩

/-! ## Reads sent -/

/-- A slice message goes out by a port of its route, or not at all (R372, R399). -/
theorem sliceSend_frame (s : State) (ep : BitVec 16) (answer : Bool) (r : SliceReq) (b : BlockData) :
    ∃ x o, sliceSend s ep answer r b = { s with bup := x, out := o } := by
  unfold sliceSend
  split
  · exact ⟨_, _, rfl⟩
  split
  · exact ⟨_, _, rfl⟩
  · exact ⟨_, _, rfl⟩

theorem sendRead_frame (s : State) (first : Nat) : ∃ b o, sendRead s first = { s with bup := b, out := o } := sliceSend_frame _ _ _ _ _

/-- The state in which the next read of a resumption is counted as asked for (R423). -/
def asked (s : State) : State :=
  let first := s.pair.nextRd
  { s with bup := { s.bup with readUsed := s.bup.readUsed + readCount s first }
           pair := { s.pair with reads := s.pair.reads ++ [(first, 1)], nextRd := first + readCount s first } }

/-- Reads issued change what the pair asks for, and nothing that it has (R423). -/
theorem issueReads_frame (s : State) (n : Nat) :
    ∃ b o l k, issueReads s n = { s with bup := b, out := o, pair := { s.pair with reads := l, nextRd := k } } := by
  induction n generalizing s with
  | zero => exact ⟨_, _, _, _, rfl⟩
  | succ n ih =>
    obtain ⟨b, o, hsend⟩ := sendRead_frame (asked s) s.pair.nextRd
    obtain ⟨b', o', l, k, h⟩ := ih (sendRead (asked s) s.pair.nextRd)
    by_cases hstop : 8 ≤ s.pair.reads.length ∨ s.pair.need ≤ s.pair.nextRd ∨ 8192 < s.bup.readUsed + readCount s s.pair.nextRd
    · exact ⟨_, _, _, _, if_pos hstop⟩
    · have hrun : issueReads s (n + 1) = issueReads (sendRead (asked s) s.pair.nextRd) n := if_neg hstop
      rw [hrun, h, hsend]
      exact ⟨_, _, _, _, rfl⟩

theorem admitted_acts (s : State) (a : Nat) (j : Job) : jobOf (admitJob s a j) a = j := (tabGet_put _ _ _ _ _).trans (if_pos rfl)

/-! ## What a read finds -/

/-- Block `n` of the slice that a read has found, FAILED where there is none (R421, R423; log 89). -/
def foundBlock (s : State) (i : Option Nat) (n : Nat) : BlockData :=
  match i with
  | some i => if n < s.pair.store * 2 ^ 18 then tabGet (tierBlock 0 0) (sliceOf s i).blocks n else failedBlock
  | none => failedBlock

theorem foundBlock_of_pair (h : t.pair = s.pair) (i : Option Nat) (n : Nat) : foundBlock t i n = foundBlock s i n := by
  cases i with
  | none => rfl
  | some i => simp only [foundBlock, sliceOf, h]

theorem up_enqueue (s : State) (p cls cells ctx : Nat) (dst : BitVec 16) (o : Nat → Output) (k : Nat) :
    (portOf (enqueue s p cls cells ctx dst o) k).up = (portOf s k).up := by
  refine (congrArg Port.up (portOf_modPort _ p k _)).trans ?_
  by_cases hk : p = k
  · subst hk
    rw [if_pos rfl]
    split
    · rfl
    split
    · rfl
    · rfl
  · rw [if_neg hk]
    rfl

/-- The port that a message takes hangs on the ports' state and the routes alone (R372). -/
theorem ctxPort_enqueue (s : State) (p cls cells ctx : Nat) (dst : BitVec 16) (o : Nat → Output) (ep x : Nat) :
    ctxPort (enqueue s p cls cells ctx dst o) ep x = ctxPort s ep x := by
  have hroute : routePorts (enqueue s p cls cells ctx dst o) ep = routePorts s ep := by
    unfold routePorts
    refine List.filter_congr fun k _ => ?_
    rw [up_enqueue]
    rfl
  rw [ctxPort, hroute]
  rfl

/-- Answers `r` to endpoint `ep`, one for each block of `l`, as they leave (R423). -/
def answersOut (s : State) (r : SliceReq) (f : Nat → BlockData) (k : Nat) : Output :=
  Output.bupol (s.bup.nextMsg + k) ((ctxPort s r.src.toNat ((r.first + k) % 4096)).getD 0)
    (sliceRaw r.src true { r with src := s.bup.epId, first := r.first + k, count := 1 } (f (r.first + k)))

/-- The state in which the first `n` blocks of request `r` have been answered. -/
def answeredTo (s : State) (r : SliceReq) (f : Nat → BlockData) (n : Nat) : State :=
  (List.range n).foldl (fun s k => sliceSend s r.src true { r with src := s.bup.epId, first := r.first + k, count := 1 } (f (r.first + k))) s

theorem answer_of_port {ep : BitVec 16} {r : SliceReq} {p : Nat} (hmir : ptMirror s ep.toNat = true)
    (hp : ctxPort s ep.toNat (r.first % 4096) = some p) (b : BlockData) :
    sliceSend s ep true r b = enqueue s p 1 65 65535 ep fun id => .bupol id p (sliceRaw ep true r b) := by
  rw [sliceSend, if_neg (by rw [hmir]; decide), hp]
  rfl

theorem answeredTo_acts {r : SliceReq} (f : Nat → BlockData) (n : Nat) (hmir : ptMirror s r.src.toNat = true)
    (hport : ∀ k, k < n → ctxPort s r.src.toNat ((r.first + k) % 4096) ≠ none) :
    let t := answeredTo s r f n
    t = { s with out := t.out, bup := t.bup } ∧ t.out = ((List.range n).map (answersOut s r f)).reverse ++ s.out ∧
      t.bup.nextMsg = s.bup.nextMsg + n ∧ t.bup.epId = s.bup.epId ∧ (∀ x, ptMirror t x = ptMirror s x) ∧ ∀ ep x, ctxPort t ep x = ctxPort s ep x := by
  induction n with
  | zero => exact ⟨rfl, rfl, rfl, rfl, fun _ => rfl, fun _ _ => rfl⟩
  | succ n ih =>
    obtain ⟨hfr, hout, hid, hep, hpt, hctx⟩ := ih fun k hk => hport k (Nat.lt_succ_of_lt hk)
    have hstep : answeredTo s r f (n + 1) =
        sliceSend (answeredTo s r f n) r.src true { r with src := (answeredTo s r f n).bup.epId, first := r.first + n, count := 1 } (f (r.first + n)) := by
      rw [answeredTo, List.range_succ, List.foldl_append]
      rfl
    obtain ⟨p, hp⟩ := Option.ne_none_iff_exists'.1 (hport n (Nat.lt_succ_self n))
    have hsend := hstep.trans (answer_of_port (hpt _ ▸ hmir) ((hctx _ _).trans hp) _)
    rw [hsend]
    refine ⟨?_, ?_, ?_, hep, hpt, fun ep x => (ctxPort_enqueue _ _ _ _ _ _ _ _ _).trans (hctx ep x)⟩
    · rw [hfr]
      rfl
    · rw [List.range_succ, List.map_append, List.reverse_append, List.append_assoc, List.map_singleton, List.reverse_singleton,
        List.singleton_append, ← hout, answersOut, hp, ← hid, ← hep]
      rfl
    · exact (congrArg (· + 1) hid).trans (Nat.add_assoc _ _ _)

/-- The slice that a read finds is the same one whatever of its blocks has been sent. -/
theorem foldl_foundBlock (r : SliceReq) (i : Option Nat) (l : List Nat) {u : State} (hu : u.pair = s.pair) :
    l.foldl (fun v k => sliceSend v r.src true { r with src := v.bup.epId, first := r.first + k, count := 1 } (foundBlock v i (r.first + k))) u =
      l.foldl (fun v k => sliceSend v r.src true { r with src := v.bup.epId, first := r.first + k, count := 1 } (foundBlock s i (r.first + k))) u := by
  induction l generalizing u with
  | nil => rw [List.foldl_nil, List.foldl_nil]
  | cons k l ih =>
    rw [List.foldl_cons, List.foldl_cons, foundBlock_of_pair hu]
    obtain ⟨b, o, h⟩ := sliceSend_frame u r.src true { r with src := u.bup.epId, first := r.first + k, count := 1 } (foundBlock s i (r.first + k))
    exact ih ((congrArg State.pair h).trans hu)

/-- A read of at most 16 blocks is answered block by block (R423). -/
theorem sliceRd_acts {p : Fin 48} {r : SliceReq} (harr : sliceArrives s p r.src = true) (hup : pithUp s = true) (hpos : r.count ≠ 0)
    (hcount : r.count ≤ 16) (hport : ∀ k, k < r.count → ctxPort s r.src.toNat ((r.first + k) % 4096) ≠ none) :
    let t := sliceRd s p r
    let found := findSlice s fun x => x.sealed_ && x.job == r.job && x.c == r.c
    t.out = ((List.range r.count).map (answersOut s r (foundBlock s found))).reverse ++ s.out ∧ t = { s with out := t.out, bup := t.bup } := by
  intro t found
  have hmir : ptMirror s r.src.toNat = true := by
    rw [sliceArrives, Bool.and_eq_true] at harr
    exact harr.2
  have heq : sliceRd s p r = answeredTo s r (foundBlock s found) r.count := by
    rw [sliceRd, if_neg (by simp [harr, hup, hpos, hcount])]
    exact foldl_foundBlock r found (List.range r.count) rfl
  obtain ⟨hfr, hout, -⟩ := answeredTo_acts (foundBlock s found) r.count hmir hport
  have ht : t = _ := heq
  clear_value t
  subst ht
  exact ⟨hout, hfr⟩

/-! ## What the resuming module keeps -/

/-- The block as the resuming module keeps it: whole as it came, or bruised where its CHECK differs (R423). -/
def keptBlock (b : BlockData) : BlockData := if checkOk b = true then b else allBruised b

/-- The state in which block `n` of the slice has been kept. -/
def kept (s : State) (n : Nat) (b : BlockData) : State := { s with pair := { s.pair with fetched := tabPut default n (keptBlock b) s.pair.fetched } }

/-- The state in which read `r` has been answered to its end. -/
def readDone (s : State) (r : Nat × Nat) : State :=
  { s with bup := { s.bup with readUsed := s.bup.readUsed - readCount s r.1 }
           pair := { s.pair with reads := s.pair.reads.filter fun x => x.1 != r.1 } }

section
variable {p : Fin 48} {m : SliceReq} {b : BlockData} {r : Nat × Nat} (harr : sliceArrives s p m.src = true)
    (hra : s.pair.resumeAsid ≠ 0) (hfrom : m.src = s.pair.resumeFrom) (hjob : m.job = s.pair.resumeJob)
    (hc : m.c = (jobOf s s.pair.resumeAsid).commitC)
    (hread : s.pair.reads.find? (fun r => decide (r.1 ≤ m.first ∧ m.first < r.1 + readCount s r.1)) = some r)

include harr hra hfrom hjob hc in
theorem sliceData_meant : ¬ (!sliceArrives s p m.src || s.pair.resumeAsid == 0 || m.src != s.pair.resumeFrom || m.job != s.pair.resumeJob ||
    m.c != (jobOf s s.pair.resumeAsid).commitC) = true := by
  simp [← hfrom, harr, hra, hjob, hc]

include harr hra hfrom hjob hc hread

theorem sliceData_of_failed (hb : b.failed = true) :
    sliceData s p m b = failResume s stCtxFailed := by
  rw [sliceData, if_neg (sliceData_meant harr hra hfrom hjob hc), hread]
  exact if_pos hb

theorem sliceData_of_whole (hb : b.failed = false) :
    sliceData s p m b = if !((List.range (readCount (kept s m.first b) r.1)).all fun k =>
        decide (tabGet default (kept s m.first b).pair.fetched (r.1 + k) ≠ (default : BlockData))) then kept s m.first b
      else if (readDone (kept s m.first b) r).pair.reads.isEmpty ∧
          (readDone (kept s m.first b) r).pair.need ≤ (readDone (kept s m.first b) r).pair.nextRd then sliceFetched (readDone (kept s m.first b) r)
      else issueReads (readDone (kept s m.first b) r) 8 := by
  rw [sliceData, if_neg (sliceData_meant harr hra hfrom hjob hc), hread]
  exact if_neg (by rw [hb]; decide)

/-- A block that has come whole is kept, and reads are issued on where a read has been answered to its end (R423). -/
theorem sliceData_keeps (hb : b.failed = false) (hmore : ∃ x ∈ s.pair.reads, x.1 ≠ r.1) :
    let t := sliceData s p m b
    t.pair.fetched = tabPut default m.first (keptBlock b) s.pair.fetched ∧ t.pair.resumeAsid = s.pair.resumeAsid := by
  have hleft : (readDone (kept s m.first b) r).pair.reads.isEmpty = false := by
    obtain ⟨x, hx, hne⟩ := hmore
    exact List.isEmpty_eq_false_iff_exists_mem.2 ⟨x, List.mem_filter.2 ⟨hx, bne_iff_ne.2 hne⟩⟩
  intro t
  have ht : t = _ := sliceData_of_whole harr hra hfrom hjob hc hread hb
  rw [if_neg (c := _ ∧ _) (by rw [hleft]; exact fun h => absurd h.1 (by decide))] at ht
  obtain ⟨b', o, l, k, h⟩ := issueReads_frame (readDone (kept s m.first b) r) 8
  rw [h] at ht
  split at ht
  · rw [ht]
    exact ⟨rfl, rfl⟩
  · rw [ht]
    exact ⟨rfl, rfl⟩

end

/-! ## MIRROR_RESUME -/

/-- The job that resumes a slice at commit point `n` (R421). -/
def resumedJob (s : State) (fam : Family) (c : Cmd) : Job :=
  { live := true, number := nextNumber s, fam := fam, st := .resuming, sq := c.sq, orphan := c.mute, mirrored := true, unprotected := true,
    commitC := c.arg1.toNat, saveBytes := fam.saveBytes }

/-- The state in which job `j` under ASID `a` is to resume the slice that command `c` names, of `need` blocks (R421, R423). -/
def resuming (s : State) (a : Nat) (j : Job) (c : Cmd) (need : Nat) : State :=
  let u := beginCmd (admitJob s a j) c
  { u with pair := { u.pair with
    resumeAsid := a, resumeJob := c.arg0.toNat, resumeFrom := BitVec.ofNat 16 (bitsOf c.payload.toNat 128 16), fetched := [], need := need,
    nextRd := 0, reads := [] } }

theorem resuming_acts (s : State) (a : Nat) (j : Job) (c : Cmd) (need : Nat) :
    let t := resuming s a j c need
    jobOf t a = j ∧ Begun s t c ∧ t.pair = { s.pair with
      resumeAsid := a, resumeJob := c.arg0.toNat, resumeFrom := BitVec.ofNat 16 (bitsOf c.payload.toNat 128 16), fetched := [], need := need,
      nextRd := 0, reads := [] } :=
  ⟨admitted_acts s a j, begun_of_cxl rfl, rfl⟩

theorem mirrorResume_of_ungranted {fam : Family} (hserves : Serves s q 0x06 c) (hcxl : cxlUp s = true) (hst : s.brg.st = 1)
    (hshort : ¬ (bitsOf c.payload.toNat 144 368 ≠ 0 ∨ 65536 ≤ c.arg0.toNat ∨ 2 ^ 32 ≤ c.arg1.toNat))
    (hno : granted s (bitsOf c.payload.toNat 0 64) (bitsOf c.payload.toNat 64 64) false = false) :
    mirrorResume s q fam = finishCmd s c stNotGranted id := by
  have heq : mirrorResume s q fam = _ := serve_of_serves hserves _
  dsimp only at heq
  rw [if_neg (by rw [hcxl]; decide), if_neg (by rw [hst]; decide), if_neg hshort, if_pos (by rw [hno]; rfl)] at heq
  exact heq

/-- Once the family is read, MIRROR_RESUME ends by the first of its checks that fails, or resumes under the lowest free ASID (R421, R460). -/
theorem mirrorResume_of_family {fam : Family} {d : MirrorDecl} {a : Nat} (hserves : Serves s q 0x06 c) (hcxl : cxlUp s = true) (hst : s.brg.st = 1)
    (hshort : ¬ (bitsOf c.payload.toNat 144 368 ≠ 0 ∨ 65536 ≤ c.arg0.toNat ∨ 2 ^ 32 ≤ c.arg1.toNat))
    (hgrant : granted s (bitsOf c.payload.toNat 0 64) (bitsOf c.payload.toNat 64 64) false = true)
    (hfind : firstFinding (allFindings fam (bitsOf c.payload.toNat 64 64) false) = none) (hmir : fam.mirror = some d) (hasid : freeAsid s = some a)
    (hidle : s.pair.resumeAsid = 0) :
    mirrorResume s q fam =
      if !couldFit s (resumedJob s fam c) then finishCmd s c stNoVariant id
      else if saveSpace s < fam.saveBytes then finishCmd s c stNoSave id
      else if !ptMirror s (bitsOf c.payload.toNat 128 16) then finishCmd s c stCtxFailed id
      else issueReads (resuming s a (resumedJob s fam c) c (d.total / 4096 + 1)) 8 := by
  have heq : mirrorResume s q fam = _ := serve_of_serves hserves _
  dsimp only at heq
  rw [if_neg (by rw [hcxl]; decide), if_neg (by rw [hst]; decide), if_neg hshort, if_neg (by rw [hgrant]; decide), hfind, hmir] at heq
  dsimp only at heq
  rw [hasid] at heq
  dsimp only at heq
  rw [if_neg (by rw [hidle]; decide)] at heq
  exact heq

/-- Settles O49: slices are read block by block, kept as they come, and given up on a FAILED block. -/
theorem slicesAreReadAndResumed : Obligations.SlicesAreReadAndResumed := by
  intro s p ra failed
  refine ⟨fun x h => congrArg _ (if_neg h), fun x h => congrArg _ (if_neg h), ?rd, ?data, ?timeout, ?resume⟩
  case rd =>
    intro x hty m harr hup hcount hport found block
    exact ⟨_, congrArg Host.Outcome.next (if_pos hty), sliceRd_acts harr hup (Nat.succ_ne_zero _) hcount hport⟩
  case data =>
    intro x r hty m b harr hra hfrom hjob hc hread
    refine ⟨_, congrArg Host.Outcome.next (if_pos hty), fun hb => ?_, fun hb hmore => ?_⟩
    · have heq := sliceData_of_failed harr hra hfrom hjob hc hread hb
      show failed (sliceData s p m b)
      rw [heq]
      exact failResume_acts s stCtxFailed
    · obtain ⟨hf, hasid⟩ := sliceData_keeps harr hra hfrom hjob hc hread hb hmore
      show tabGet default (sliceData s p m b).pair.fetched m.first = _ ∧ (∀ n, n ≠ m.first →
        tabGet default (sliceData s p m b).pair.fetched n = _) ∧ (sliceData s p m b).pair.resumeAsid = ra
      rw [hf, hasid]
      exact ⟨(tabGet_put _ _ _ _ _).trans (if_pos rfl), fun n hn => (tabGet_put _ _ _ _ _).trans (if_neg (Ne.symm hn)), rfl⟩
  case timeout =>
    intro first r hread
    have heq : sliceRdTimeout s first = if 4 ≤ r.2 then failResume s stCtxFailed else
        sendRead { s with pair := { s.pair with reads := s.pair.reads.map fun x => if x.1 = first then (first, r.2 + 1) else x } } first := by
      rw [sliceRdTimeout, hread]
    refine ⟨_, rfl, fun h => ?_, fun h => ?_⟩
    · rw [heq, if_pos h]
      obtain ⟨hasid, hreads, hj⟩ := failResume_acts s stCtxFailed
      exact ⟨hasid, hreads, hj⟩
    · rw [heq, if_neg (Nat.not_le.2 h)]
      obtain ⟨b, o, hs⟩ := sendRead_frame { s with pair := { s.pair with reads := s.pair.reads.map fun x => if x.1 = first then (first, r.2 + 1) else x } } first
      rw [hs]
  case resume =>
    intro q fam c d a hserves hcxl hst p j hres h0 h1
    have hshort : ¬ (bitsOf c.payload.toNat 144 368 ≠ 0 ∨ 65536 ≤ c.arg0.toNat ∨ 2 ^ 32 ≤ c.arg1.toNat) := by
      rintro (h | h | h)
      · exact h hres
      · exact absurd h0 (Nat.not_lt.2 h)
      · exact absurd h1 (Nat.not_lt.2 h)
    refine ⟨_, rfl, fun hno => ?_, fun hyes hfind hmir hasid hidle => ?_⟩
    · rw [mirrorResume_of_ungranted hserves hcxl hst hshort hno]
      exact onlyCompletes_finishCmd s c _ id
    · rw [mirrorResume_of_family hserves hcxl hst hshort hyes hfind hmir hasid hidle]
      refine ⟨fun hfit => ?_, fun hfit hsave hpt => ?_⟩
      · rw [if_pos (by rw [show couldFit s (resumedJob s fam c) = false from hfit]; rfl)]
        exact onlyCompletes_finishCmd s c _ id
      · rw [if_neg (by rw [show couldFit s (resumedJob s fam c) = true from hfit]; decide), if_neg (Nat.not_lt.2 hsave),
          if_neg (by rw [show ptMirror s (bitsOf c.payload.toNat 128 16) = true from hpt]; decide)]
        obtain ⟨b, o, l, k, h⟩ := issueReads_frame (resuming s a (resumedJob s fam c) c (d.total / 4096 + 1)) 8
        rw [h]
        obtain ⟨hjob, hbegun, hpair⟩ := resuming_acts s a (resumedJob s fam c) c (d.total / 4096 + 1)
        generalize resuming s a (resumedJob s fam c) c (d.total / 4096 + 1) = u at hjob hbegun hpair ⊢
        exact ⟨hjob, hbegun, congrArg Pair.resumeAsid hpair, congrArg Pair.resumeJob hpair, congrArg Pair.resumeFrom hpair, congrArg Pair.need hpair⟩

end Sys2Proof.Proofs.Slices
end

section
/-! SUPPORT. CXL ports, grants and the window (R11, R256, R455 to R469). -/

namespace Sys2Proof.Proofs.Ports

open Sys2Proof.Laws Sys2Proof.Machine Sys2Proof Sys2Proof.Proofs.TierReads

open Sys2Proof.Proofs.Vector (bitOf_toNat)

variable {s : State}

/-! ## CXL ports -/

theorem modCxlPort_other (s : State) (p : Nat) (g : CxlPort → CxlPort) {k : Nat} (hk : k ≠ p) : cxlPortOf (modCxlPort s p g) k = cxlPortOf s k :=
  (cxlPortOf_modCxlPort s p k g).trans (if_neg (Ne.symm hk))

theorem modCxlPort_same (s : State) (p : Nat) (g : CxlPort → CxlPort) : cxlPortOf (modCxlPort s p g) p = g (cxlPortOf s p) :=
  (cxlPortOf_modCxlPort s p p g).trans (if_pos rfl)

/-- A transfer as it has failed (R256). -/
def failedXfer (t : Transfer) : Transfer :=
  if t.write then { t with landed := true, body := some { (default : BlockData) with failed := true } }
  else { t with body := some { (default : BlockData) with bmask := BitVec.allOnes 64, failed := true } }

theorem failedXfer_tag (t : Transfer) : (failedXfer t).tag = t.tag := by
  unfold failedXfer
  split
  · rfl
  · rfl

theorem failedXfer_acts (t : Transfer) : (∃ b, (failedXfer t).body = some b ∧ b.failed = true) ∧ (failedXfer t).landed = (t.write || t.landed) := by
  unfold failedXfer
  cases t.write with
  | false => exact ⟨⟨_, rfl, rfl⟩, (Bool.false_or _).symm⟩
  | true => exact ⟨⟨_, rfl, rfl⟩, rfl⟩

theorem failTransfer_key (s : State) (f : Nat) (tag : Fin 2048) : failTransfer s (2048 * f + tag.val) = modXfer s f tag.val failedXfer := by
  have hf : (2048 * f + tag.val) / 2048 = f := by omega
  have htag : (2048 * f + tag.val) % 2048 = tag.val := by omega
  rw [failTransfer, hf, htag]
  rfl

/-- A transfer to host memory returns FAILED while no port is up, and die 59 reports it (R256; log 133). -/
theorem hostTransferTimeout_acts {f : FieldIx} {tag : Fin 2048} {x : Transfer} (hx : xferOf s f tag = some x) (hcxl : cxlUp s = false)
    (htarget : x.target = 2) (hopen : if x.write then x.landed = false else x.body = none) :
    let t := hostTransferTimeout s f tag
    (∃ y b, xferOf t f tag = some y ∧ y.body = some b ∧ b.failed = true ∧ y.landed = (x.write || x.landed) ∧ y.told = true) ∧
      Raises s t (mkEvent (dieAddr 59) (floorN s) 0x0106 x.asid 0 7 x.far (Config.detailOf 0x0106 [x.stream, x.tag]).toNat) ∧
      (∀ g, g ≠ f.val → fieldOf t g = fieldOf s g) ∧ t = { s with fld := t.fld, stem := t.stem } := by
  have hwaits : ¬ (cxlUp s || x.target != 2 || (if x.write then x.landed else x.body.isSome)) = true := by
    cases hw : x.write with
    | true => simp_all
    | false => simp_all
  have heq : hostTransferTimeout s f tag = raiseDie (modXfer (modXfer s f tag failedXfer) f tag fun x => { x with told := true })
      59 0x0106 x.asid x.far (Config.detailOf 0x0106 [x.stream, x.tag]).toNat := by
    unfold hostTransferTimeout
    rw [hx]
    exact (if_neg hwaits).trans (by rw [failTransfer_key])
  rw [heq]
  have hdone := xferOf_modXfer_some (g := fun x => { x with told := true }) (xferOf_modXfer_some hx failedXfer_tag) fun _ => rfl
  obtain ⟨⟨b, hbody, hfailed⟩, hlanded⟩ := failedXfer_acts x
  refine ⟨⟨_, b, hdone, hbody, hfailed, hlanded, rfl⟩, rfl, fun g hg => ?_, rfl⟩
  exact (fieldOf_modXfer_other hg _ _ _).trans (fieldOf_modXfer_other hg _ _ _)

/-! ## Grants -/

theorem mergeBits_full (old new : Nat) {lo len : Nat} (hlen : 0 < len) :
    mergeBits old new lo len .full = old - bitsOf old lo len * 2 ^ lo + bitsOf new lo len * 2 ^ lo := by
  refine (if_neg (show ¬ lo + len ≤ lo by omega)).trans ?_
  show old - bitsOf old lo (lo + len - lo) * 2 ^ lo + bitsOf new lo (lo + len - lo) * 2 ^ lo = _
  rw [Nat.add_sub_cancel_left]

theorem ofNat_mod_pow (n k : Nat) (h : n ≤ k) (v : Nat) : BitVec.ofNat n (v % 2 ^ k) = BitVec.ofNat n v := by
  refine BitVec.eq_of_toNat_eq ?_
  rw [BitVec.toNat_ofNat, BitVec.toNat_ofNat, Nat.mod_mod_of_dvd _ (Nat.pow_dvd_pow 2 h)]

theorem grantAfter_low (x : Grant) (value : BitVec 64) :
    grantAfter x false value.toNat .full = { x with base := BitVec.ofNat 40 (value.toNat / 4096) } := by
  have hb := x.base.isLt
  have hn : bitsOf (mergeBits (4096 * x.base.toNat) value.toNat 12 40 .full) 12 40 = value.toNat / 4096 % 2 ^ 40 := by
    rw [mergeBits_full _ _ (by decide)]
    generalize x.base.toNat = b at hb ⊢
    generalize value.toNat = v
    simp only [bitsOf]
    omega
  simp only [grantAfter, Bool.false_eq_true, if_false, hn, ofNat_mod_pow 40 40 (Nat.le_refl _)]

theorem grantAfter_high (x : Grant) (value : BitVec 64) :
    grantAfter x true value.toNat .full =
      { x with pages := BitVec.ofNat 40 value.toNat, rd := value.getLsbD 40, wr := value.getLsbD 41, valid := value.getLsbD 42 } := by
  have hb := x.pages.isLt
  have hn : ∀ old, old < 2 ^ 43 → mergeBits old value.toNat 0 43 .full = value.toNat % 2 ^ 43 := by
    intro old hold
    rw [mergeBits_full _ _ (by decide)]
    generalize value.toNat = v
    simp only [bitsOf]
    omega
  have hold : x.pages.toNat + 2 ^ 40 * b2n x.rd + 2 ^ 41 * b2n x.wr + 2 ^ 42 * b2n x.valid < 2 ^ 43 := by
    have hbit : ∀ b, b2n b ≤ 1 := by decide
    have hrd := hbit x.rd
    have hwr := hbit x.wr
    have hvalid := hbit x.valid
    omega
  have hpages : BitVec.ofNat 40 (bitsOf (value.toNat % 2 ^ 43) 0 40) = BitVec.ofNat 40 value.toNat := by
    rw [bitsOf, Nat.pow_zero, Nat.div_one, ofNat_mod_pow 40 40 (Nat.le_refl _), ofNat_mod_pow 40 43 (by decide)]
  have hbit : ∀ i, i < 43 → bitOf (value.toNat % 2 ^ 43) i = value.getLsbD i := fun i hi => by
    rw [Vector.bitOf_eq_testBit, Nat.testBit_mod_two_pow, decide_eq_true hi, Bool.true_and, BitVec.testBit_toNat]
  simp only [grantAfter, if_true, hn _ hold, hpages, hbit 40 (by decide), hbit 41 (by decide), hbit 42 (by decide)]

/-- What a write makes of a grant that it would leave as `y` (R459). -/
def grantTaken (x y : Grant) : Grant :=
  let changes := decide (y.base ≠ x.base) || decide (y.pages ≠ x.pages) || y.rd != x.rd || y.wr != x.wr
  if x.revoking || (x.valid && changes) then x
  else if x.valid && !y.valid then { y with revoking := true }
  else y

theorem writeGrant_acts (hopen : barOpen s = true) (g : Fin 64) (hi : Bool) (value : BitVec 64) :
    let t := writeGrant s g hi value.toNat .full
    grantOf t g = grantTaken (grantOf s g) (grantAfter (grantOf s g) hi value.toNat .full) ∧ (∀ k, k ≠ g.val → grantOf t k = grantOf s k) ∧
      t = { s with cxl := { s.cxl with grant := t.cxl.grant } } := by
  intro t
  have ht : t = _ := if_neg (by rw [hopen]; decide)
  clear_value t
  subst ht
  exact ⟨(grantOf_modGrant _ g g _).trans (if_pos rfl), fun k hk => (grantOf_modGrant _ g k _).trans (if_neg (Ne.symm hk)), rfl⟩

theorem grantTaken_of_revoking {x : Grant} (h : x.revoking = true) (y : Grant) : grantTaken x y = x :=
  if_pos (by rw [h]; rfl)

theorem grantTaken_of_free {x : Grant} (hvalid : x.valid = false) (hrev : x.revoking = false) (y : Grant) : grantTaken x y = y := by
  simp [grantTaken, hvalid, hrev]

/-- A valid grant keeps its fields; the write that clears VALID alone revokes it (R459). -/
theorem grantTaken_of_valid {x y : Grant} (hvalid : x.valid = true) (hrev : x.revoking = false) :
    (¬ (y.base = x.base ∧ y.pages = x.pages ∧ y.rd = x.rd ∧ y.wr = x.wr) → grantTaken x y = x) ∧
      (y.base = x.base → y.pages = x.pages → y.rd = x.rd → y.wr = x.wr → grantTaken x y = if y.valid then y else { y with revoking := true }) := by
  refine ⟨fun h => if_pos ?_, fun hb hp hr hw => ?_⟩
  · simp only [hvalid, hrev, Bool.false_or, Bool.true_and, Bool.or_eq_true, decide_eq_true_eq, bne_iff_ne]
    tauto
  · unfold grantTaken
    cases hy : y.valid with
    | true => simp [hvalid, hrev, hb, hp, hr, hw]
    | false => simp [hvalid, hrev, hb, hp, hr, hw]

theorem grantTaken_low (x : Grant) (base : BitVec 40) :
    (x.valid = false → x.revoking = false → grantTaken x { x with base := base } = { x with base := base }) ∧
      (x.valid = true ∨ x.revoking = true → grantTaken x { x with base := base } = x) := by
  refine ⟨fun hv hr => grantTaken_of_free hv hr _, fun h => ?_⟩
  rcases Bool.eq_false_or_eq_true x.revoking with hr | hr
  · exact grantTaken_of_revoking hr _
  · have hv : x.valid = true := h.resolve_right (by rw [hr]; decide)
    by_cases hb : base = x.base
    · subst hb
      exact ((grantTaken_of_valid hv hr).2 rfl rfl rfl rfl).trans (if_pos hv)
    · exact (grantTaken_of_valid hv hr).1 fun h => hb h.1

theorem grant_of_kept {x : Grant} {pages : BitVec 40} {rd wr : Bool} (valid : Bool) (hp : pages = x.pages) (hrd : rd = x.rd) (hwr : wr = x.wr) :
    ({ x with pages := pages, rd := rd, wr := wr, valid := valid } : Grant) = { x with valid := valid } := by
  rw [hp, hrd, hwr]

theorem grantTaken_high (x : Grant) (pages : BitVec 40) (rd wr valid : Bool) :
    let y := { x with pages := pages, rd := rd, wr := wr, valid := valid }
    (x.valid = false → x.revoking = false → grantTaken x y = y) ∧
      (x.revoking = true ∨ (x.valid = true ∧ ¬ (y.pages = x.pages ∧ y.rd = x.rd ∧ y.wr = x.wr)) → grantTaken x y = x) ∧
      (x.valid = true → x.revoking = false → y.pages = x.pages → y.rd = x.rd → y.wr = x.wr →
        grantTaken x y = if y.valid then x else { x with valid := false, revoking := true }) := by
  intro y
  refine ⟨fun hv hr => grantTaken_of_free hv hr y, fun h => ?_, fun hv hr hp hrd hwr => ?_⟩
  · rcases Bool.eq_false_or_eq_true x.revoking with hr | hr
    · exact grantTaken_of_revoking hr y
    · obtain ⟨hv, hne⟩ := h.resolve_left (by rw [hr]; decide)
      exact (grantTaken_of_valid hv hr).1 fun h => hne h.2
  · refine ((grantTaken_of_valid (y := y) hv hr).2 rfl hp hrd hwr).trans ?_
    have hy : y = { x with valid := valid } := grant_of_kept valid hp hrd hwr
    rw [hy]
    cases valid with
    | true => exact congrArg (fun v => { x with valid := v }) hv.symm
    | false => rfl

/-! ## The window -/

theorem granulesOf_granule (n : Nat) : granulesOf (n * 64) 64 = [n] := by
  have hcount : (n * 64 + 64 - 1) / 64 - n * 64 / 64 + 1 = 1 := by omega
  have hdiv : n * 64 / 64 = n := Nat.mul_div_cancel n (by decide)
  rw [granulesOf, if_neg (by decide), hcount, hdiv]
  simp

theorem brAny_granule (br : Tab Bool) (n : Nat) : brAny br (n * 64) 64 = tabGet false br n := by
  rw [brAny, granulesOf_granule, List.any_cons, List.any_nil, Bool.or_false]

theorem tabGet_brStore_granule (br : Tab Bool) (n : Nat) (b : Bool) : tabGet false (brStore br (n * 64) 64 b) n = b := by
  have hin : n * 64 ≤ 64 * n ∧ 64 * n + 64 ≤ n * 64 + 64 := by omega
  rw [brStore, granulesOf_granule, List.foldl_cons, List.foldl_nil]
  cases b with
  | true => exact tabGet_put_same false n true br
  | false =>
    show tabGet false (if n * 64 ≤ 64 * n ∧ 64 * n + 64 ≤ n * 64 + 64 then brSet br n false else br) n = false
    rw [if_pos hin]
    exact tabGet_put_same _ _ _ _

theorem toNat_lt_bytes {n : Nat} (hn : n = 8 * 64) (w : BitVec n) : w.toNat < 256 ^ 64 := by
  subst hn
  exact lt_of_lt_of_eq w.isLt (Nat.pow_mul 2 8 64)

section
variable {addr : Nat} {poison : Bool} (hopen : barOpen s = true) (hsafe : s.trs.safe = false) (hcom : s.cxl.committed = true)
  (hwin : addr / 64 * 64 < s.cxl.win * 2 ^ 30)
include hopen hsafe hcom hwin

theorem hostWindowAccess_eq (write : Bool) (data : BitVec 512) : hostWindowAccess s addr write data poison =
    let a := addr / 64 * 64
    let u := wakeChan s (nearChannel s a)
    if write then nearStore u a 64 data.toNat poison
    else emit u (.hostRead a (BitVec.ofNat 512 (nearRead u a 64)) (brAny u.mem.nearBr a 64 || nearLost u a)) :=
  if_neg (by
    simp only [hopen, hsafe, hcom, Bool.not_true, Bool.or_self, Bool.false_or, decide_eq_true_eq]
    exact Nat.not_le.2 hwin)

theorem hostWindowAccess_write (data : BitVec 512) :
    let a := addr / 64 * 64
    let t := hostWindowAccess s addr true data poison
    nearRead t a 64 = data.toNat ∧ tabGet false t.mem.nearBr (a / 64) = poison ∧
      (∀ n, n < a ∨ a + 64 ≤ n → memByte t.mem.near n = memByte s.mem.near n) ∧
      t = { s with mem := { s.mem with near := t.mem.near, nearBr := t.mem.nearBr, down := t.mem.down } } := by
  intro a t
  have ht : t = _ := hostWindowAccess_eq hopen hsafe hcom hwin true data
  clear_value t
  subst ht
  refine ⟨?_, ?_, fun n hn => memByte_write_outside _ _ _ _ _ hn, rfl⟩
  · exact (memRead_write _ _ _ _).trans (Nat.mod_eq_of_lt (toNat_lt_bytes rfl data))
  · show tabGet false (brStore _ (addr / 64 * 64) 64 poison) (addr / 64 * 64 / 64) = poison
    rw [Nat.mul_div_cancel _ (by decide)]
    exact tabGet_brStore_granule _ _ _

theorem hostWindowAccess_read (data : BitVec 512) :
    let a := addr / 64 * 64
    let t := hostWindowAccess s addr false data poison
    t.out = .hostRead a (BitVec.ofNat 512 (nearRead s a 64)) (tabGet false s.mem.nearBr (a / 64) || nearLost s a) :: s.out ∧
      t = { s with mem := { s.mem with down := t.mem.down }, out := t.out } := by
  intro a t
  have ht : t = _ := hostWindowAccess_eq hopen hsafe hcom hwin false data
  clear_value t
  subst ht
  have hbr : tabGet false s.mem.nearBr (addr / 64 * 64 / 64) = brAny s.mem.nearBr (addr / 64 * 64) 64 := by
    rw [Nat.mul_div_cancel _ (by decide), brAny_granule]
  refine ⟨?_, rfl⟩
  rw [hbr]
  rfl

end

theorem bitsOf_low (value : BitVec 64) : bitsOf value.toNat 0 7 = value.toNat % 128 := by
  norm_num [bitsOf]

theorem coversLow_of_low {h : Half} (hh : h ≠ .high) : coversLow h = true := bne_iff_ne.2 hh

theorem any_maps (s : State) : (liveJobs s).any (fun a => !(jobOf s a).windows.isEmpty) = true ↔ ∃ a ∈ liveJobs s, (jobOf s a).windows ≠ [] := by
  simp only [List.any_eq_true, Bool.not_eq_true', List.isEmpty_eq_false_iff]

theorem hdmDecoderCommit_of {commit : Bool} (hopen : barOpen s = true) (hsafe : s.trs.safe = false)
    (hmaps : (!commit && (liveJobs s).any fun a => !(jobOf s a).windows.isEmpty) = false) :
    hdmDecoderCommit s commit = { s with cxl := { s.cxl with committed := commit } } :=
  (if_neg (by simp [hopen, hsafe])).trans (if_neg (by rw [hmaps]; decide))

/-- Settles O53: what ports, grants and the near-tier window make of their commands. -/
theorem portsGrantsAndTheWindow : Obligations.PortsGrantsAndTheWindow := by
  intro s
  refine ⟨fun p => ⟨fun hup => ?_, fun test hmain hnheld hdown hrate hperst hout => ?_⟩,
    fun f tag x hx hcxl htarget hopen => ⟨_, rfl, hostTransferTimeout_acts hx hcxl htarget hopen⟩, fun g value hopen => ⟨?_, ?_⟩,
    fun g hrev => ⟨fun hbusy => ?_, fun hfree => ?_⟩, fun value h hopen hsafe hh => ⟨fun hcom hw => ?_, fun hor => ?_⟩,
    fun hopen hsafe => ⟨?_, fun hmaps => ?_, fun hmaps => ?_⟩,
    fun addr data poison hopen hsafe hcom => ?_⟩
  · refine ⟨_, congrArg Host.Outcome.next (if_pos hup), modCxlPort_same s p _, fun k hk => modCxlPort_other s p _ hk, rfl⟩
  · refine ⟨_, congrArg Host.Outcome.next (if_neg (by simp_all)), modCxlPort_same s p _, fun k hk => modCxlPort_other s p _ hk, rfl⟩
  · obtain ⟨hg, hother, hfr⟩ := writeGrant_acts hopen g false value
    rw [grantAfter_low] at hg
    obtain ⟨hfree, hkept⟩ := grantTaken_low (grantOf s g) (BitVec.ofNat 40 (value.toNat / 4096))
    exact ⟨_, rfl, hother, hfr, fun hv hr => hg.trans (hfree hv hr), fun h => hg.trans (hkept h)⟩
  · obtain ⟨hg, hother, hfr⟩ := writeGrant_acts hopen g true value
    rw [grantAfter_high] at hg
    obtain ⟨hfree, hkept, hrevoked⟩ := grantTaken_high (grantOf s g) (BitVec.ofNat 40 value.toNat) (value.getLsbD 40) (value.getLsbD 41) (value.getLsbD 42)
    have hall : _ ∧ _ ∧ _ ∧ _ ∧ _ := ⟨hother, hfr, fun hv hr => hg.trans (hfree hv hr), fun h => hg.trans (hkept h),
      fun hv hr hp hrd hwr => hg.trans (hrevoked hv hr hp hrd hwr)⟩
    exact List.forall_mem_cons.2 ⟨⟨_, rfl, hall⟩, List.forall_mem_cons.2 ⟨⟨_, rfl, hall⟩, fun _ h => absurd h List.not_mem_nil⟩⟩
  · exact congrArg Host.Outcome.next (if_pos (by simp [hbusy]))
  · refine ⟨_, congrArg Host.Outcome.next (if_neg (by simp [hrev, hfree])), (grantOf_modGrant _ g g _).trans (if_pos rfl),
      fun k hk => (grantOf_modGrant _ g k _).trans (if_neg (Ne.symm hk)), rfl⟩
  · refine (congrArg Host.Outcome.next (if_neg ?_)).trans (by rw [bitsOf_low])
    rw [coversLow_of_low hh, bitsOf_low]
    simp only [hopen, hsafe, hcom, Bool.not_true, Bool.or_self, Bool.false_or, decide_eq_true_eq]
    exact Nat.not_lt.2 hw
  · refine congrArg Host.Outcome.next (if_pos ?_)
    rw [bitsOf_low]
    rcases hor with hcom | hw
    · simp [hcom]
    · rw [decide_eq_true hw, Bool.or_true]
  · exact congrArg Host.Outcome.next (hdmDecoderCommit_of hopen hsafe (by rfl))
  · have hany := (any_maps s).2 hmaps
    refine congrArg Host.Outcome.next ((if_neg (by simp [hopen, hsafe])).trans (if_pos ?_))
    rw [hany]
    rfl
  · have hany : (liveJobs s).any (fun a => !(jobOf s a).windows.isEmpty) = false := Bool.eq_false_iff.2 fun h => hmaps ((any_maps s).1 h)
    exact congrArg Host.Outcome.next (hdmDecoderCommit_of hopen hsafe (by rw [hany]; rfl))
  · intro a hwin
    exact ⟨⟨_, rfl, hostWindowAccess_write hopen hsafe hcom hwin data⟩, ⟨_, rfl, hostWindowAccess_read hopen hsafe hcom hwin data⟩⟩

end Sys2Proof.Proofs.Ports
end

section
/-! SUPPORT. Attestation, signing and entropy (R466, R534, R543 to R553). -/

namespace Sys2Proof.Proofs.Attestation

open Sys2Proof.Laws Sys2Proof.Machine Sys2Proof Sys2Proof.Proofs.Commands

open Sys2Proof.Proofs.Vector (bitOf_toNat)

variable {s : State}

/-! ## The signature engine -/

theorem canSign_iff (t : Trust) : canSign t = true ↔ t.sigNext < 2 ^ 40 ∧ ¬ (t.sigNext % 2 ^ 20 = 0 ∧ t.lowerReady = false) := by
  simp only [canSign, treeWaits, treeLeaves, Bool.and_eq_true, decide_eq_true_eq, Bool.not_eq_true', Bool.and_eq_false_iff, beq_eq_false_iff_ne, not_and_or,
    Bool.not_eq_false', Bool.not_eq_false]

/-- An index is used within the block whose end is committed (R544). -/
theorem useIndex_acts (t : Trust) : (useIndex t).sigNext = t.sigNext + 1 ∧ (useIndex t).sigNext ≤ (useIndex t).sigEnd ∧ (useIndex t).sigWait = t.sigWait := by
  refine ⟨rfl, ?_, rfl⟩
  show t.sigNext + 1 ≤ if t.sigEnd ≤ t.sigNext then (t.sigNext / 65536 + 1) * 65536 else t.sigEnd
  split
  · omega
  · omega

theorem signReq_of_ready {r : Nat × List Nat} (hwait : s.trs.sigWait = []) (hsign : canSign s.trs = true) :
    signReq s r = emit { s with trs := useIndex s.trs } (signedOut s.trs.sigNext r) := by
  have hmore := ((canSign_iff _).1 hsign).1
  exact (if_neg (Nat.not_le.2 hmore)).trans (if_neg (by rw [hwait, hsign]; decide))

theorem signs_signReq (s : State) (r : Nat × List Nat) : Signs s (signReq s r) r := by
  refine ⟨fun h => if_pos h, fun hmore hwaits => ?_, fun hmore hready => ?_⟩
  · refine (if_neg (Nat.not_le.2 hmore)).trans (if_pos ?_)
    rw [Bool.or_eq_true, Bool.not_eq_true', Bool.not_eq_true', List.isEmpty_eq_false_iff]
    exact hwaits.imp_right fun h => Bool.eq_false_iff.2 fun hsign => ((canSign_iff _).1 hsign).2 h
  · obtain ⟨hwait, hno⟩ := not_or.1 hready
    obtain ⟨hnext, hend, hkept⟩ := useIndex_acts s.trs
    rw [signReq_of_ready (not_not.1 hwait) ((canSign_iff _).2 ⟨hmore, hno⟩)]
    exact ⟨rfl, hnext, hend, hkept.trans (not_not.1 hwait), rfl⟩

/-- Requests that find no boundary of a tree are signed one after the other (R544). -/
theorem foldl_signReq_within (l : List (Nat × List Nat)) {u : State} (hwait : u.trs.sigWait = []) (hmore : u.trs.sigNext + l.length ≤ 2 ^ 40)
    (hwithin : ∀ k, k < l.length → (u.trs.sigNext + k) % 2 ^ 20 ≠ 0) :
    let t := l.foldl signReq u
    t.trs.sigWait = [] ∧ t.trs.sigNext = u.trs.sigNext + l.length := by
  induction l generalizing u with
  | nil => exact ⟨hwait, rfl⟩
  | cons r l ih =>
    rw [List.length_cons] at hmore hwithin
    have hsign : canSign u.trs = true := (canSign_iff _).2 ⟨by omega, fun h => hwithin 0 (Nat.succ_pos _) h.1⟩
    have hrest := ih (u := emit { u with trs := useIndex u.trs } (signedOut u.trs.sigNext r)) hwait (by
      show u.trs.sigNext + 1 + l.length ≤ 2 ^ 40
      omega) fun k hk => by
        show (u.trs.sigNext + 1 + k) % 2 ^ 20 ≠ 0
        rw [Nat.add_assoc, Nat.add_comm 1 k]
        exact hwithin (k + 1) (Nat.succ_lt_succ hk)
    rw [List.foldl_cons, signReq_of_ready hwait hsign, List.length_cons]
    exact ⟨hrest.1, hrest.2.trans (Nat.add_right_comm _ _ _ ▸ Nat.add_assoc _ _ _)⟩

/-- With a lower tree prepared at its boundary every request that waited is signed (R544). -/
theorem foldl_signReq_boundary (l : List (Nat × List Nat)) {u : State} (hwait : u.trs.sigWait = []) (hready : u.trs.lowerReady = true)
    (hbound : u.trs.sigNext % 2 ^ 20 = 0) (hmore : u.trs.sigNext + l.length < 2 ^ 40) (hlen : l.length ≤ 2 ^ 20) :
    let t := l.foldl signReq u
    t.trs.sigWait = [] ∧ t.trs.sigNext = u.trs.sigNext + l.length := by
  cases l with
  | nil => exact ⟨hwait, rfl⟩
  | cons r l =>
    rw [List.length_cons] at hmore hlen
    have hsign : canSign u.trs = true := (canSign_iff _).2 ⟨by omega, fun h => absurd hready (by rw [h.2]; decide)⟩
    have hrest := foldl_signReq_within l (u := emit { u with trs := useIndex u.trs } (signedOut u.trs.sigNext r)) hwait (by
      show u.trs.sigNext + 1 + l.length ≤ 2 ^ 40
      omega) fun k hk => by
        show (u.trs.sigNext + 1 + k) % 2 ^ 20 ≠ 0
        omega
    rw [List.foldl_cons, signReq_of_ready hwait hsign, List.length_cons]
    exact ⟨hrest.1, hrest.2.trans (Nat.add_right_comm _ _ _ ▸ Nat.add_assoc _ _ _)⟩

/-- The state in which the next lower tree is prepared and the requests that waited come again. -/
def treePrepared (s : State) : State := { s with trs := { s.trs with lowerReady := true, sigWait := [] } }

theorem lowerTreeReady_of_due (hmain : s.inp.main = true) (hready : s.trs.lowerReady = false)
    (hdue : s.trs.sigNext % 2 ^ 20 = 0 ∨ 2 ^ 19 ≤ s.trs.sigNext % 2 ^ 20) :
    lowerTreeReady s = s.trs.sigWait.foldl signReq (treePrepared s) := by
  refine if_neg ?_
  have hhalf : ¬ (0 < s.trs.sigNext % treeLeaves ∧ s.trs.sigNext % treeLeaves < treeLeaves / 2) := by
    show ¬ (0 < s.trs.sigNext % 2 ^ 20 ∧ s.trs.sigNext % 2 ^ 20 < 2 ^ 19)
    omega
  simpa [hmain, hready] using hhalf

/-- Settles O54: what the certificate, measurement, signing and entropy commands answer. -/
theorem attestationAndEntropyAnswer : Obligations.AttestationAndEntropyAnswer := by
  intro s n
  refine ⟨fun hdoe => ⟨fun index => ?_, fun entry => congrArg Host.Outcome.next (if_pos hdoe)⟩,
    fun hspdm => ⟨congrArg Host.Outcome.next (if_pos hspdm), fun offset len => ?_, fun index nonce => ⟨_, congrArg Host.Outcome.next (if_pos hspdm), signs_signReq s _⟩,
      fun nonce => ⟨_, congrArg Host.Outcome.next (if_pos hspdm), signs_signReq s _⟩⟩,
    fun hmain hnheld nonce => ⟨_, congrArg Host.Outcome.next (if_pos (by rw [hmain, hnheld]; rfl)), signs_signReq s _⟩,
    fun hup digest => ⟨_, congrArg Host.Outcome.next (if_pos hup), signs_signReq s _⟩, fun hmain hready hdue => ?_, rfl, fun hmain hnheld => ⟨?_, ?_⟩,
    fun q c hserves hent hseed hst => ?_⟩
  · exact congrArg Host.Outcome.next (if_neg (by rw [hdoe]; decide))
  · refine ⟨_, congrArg Host.Outcome.next (if_pos hspdm), ?_, fun k hk => ?_⟩
    · rw [List.length_map, List.length_range]
    · rw [List.length_map, List.length_range] at hk
      rw [List.getElem?_map, List.getElem?_range hk, Option.map_some]
  · refine ⟨_, congrArg Host.Outcome.next (lowerTreeReady_of_due hmain hready hdue), fun hwait => ?_, fun hbound hmore hlen => ?_⟩
    · rw [hwait, List.foldl_nil, treePrepared, ← hwait]
    · exact foldl_signReq_boundary s.trs.sigWait (u := treePrepared s) rfl rfl hbound hmore hlen
  · exact congrArg Host.Outcome.next (if_pos (by rw [hmain, hnheld]; rfl))
  · exact congrArg Host.Outcome.next (if_neg (by rw [Bool.and_false]; decide))
  · have heq : seedDrawTimeout s q = _ := (serve_of_serves hserves _).trans (if_neg (by rw [bitOf_toNat, hent, hseed, hst]; decide))
    exact ⟨_, congrArg Host.Outcome.next heq, onlyCompletes_finishCmd s c _ _⟩

end Sys2Proof.Proofs.Attestation
end

section
/-! SUPPORT. LOG_FREE and the end of handlings (R374, R563). -/

namespace Sys2Proof.Proofs.LogFree

open Sys2Proof.Laws Sys2Proof.Machine Sys2Proof

open Sys2Proof.Proofs.Links (foldl_keeps)

variable {s t u : State}

/-! ## What the end of handlings leaves of the log -/

/-- Records are freed and none is written: one that waits for its domain's end waits on, or is freed (R374, R563). -/
def Frees (s t : State) : Prop :=
  t.log.seq = s.log.seq ∧ t.log.ce = s.log.ce ∧ (∀ k, recAt s k = none → recAt t k = none) ∧
    ∀ v k, recIndex s v = some k → v ∈ s.log.pend → (v ∈ t.log.pend ∧ recIndex t v = some k) ∨ recAt t k = none

theorem frees_of_log (h : t.log = s.log) : Frees s t := by
  have hat : ∀ k, recAt t k = recAt s k := fun k => by rw [recAt, h, recAt]
  have hix : ∀ v, recIndex t v = recIndex s v := fun v => by rw [recIndex, h, recIndex]
  exact ⟨by rw [h], by rw [h], fun k hk => (hat k).trans hk, fun v k hk hv => .inl ⟨h ▸ hv, (hix v).trans hk⟩⟩

theorem Frees.trans (hst : Frees s t) (htu : Frees t u) : Frees s u := by
  obtain ⟨hseq, hce, hnone, hpend⟩ := hst
  obtain ⟨hseq', hce', hnone', hpend'⟩ := htu
  refine ⟨hseq'.trans hseq, hce'.trans hce, fun k hk => hnone' k (hnone k hk), fun v k hk hv => ?_⟩
  rcases hpend v k hk hv with ⟨hv', hk'⟩ | hgone
  · exact hpend' v k hk' hv'
  · exact .inr (hnone' k hgone)

theorem frees_foldl {β : Type} {f : State → β → State} (hf : ∀ t b, Frees t (f t b)) (l : List β) (s : State) : Frees s (l.foldl f s) := by
  induction l generalizing s with
  | nil => exact frees_of_log rfl
  | cons b l ih => exact (hf s b).trans (ih _)

theorem frees_ite {c : Prop} [Decidable c] (ht : Frees s t) (hu : Frees s u) : Frees s (if c then t else u) := by
  split
  · exact ht
  · exact hu

/-- What a list finds first, it finds first in any part of it that holds it. -/
theorem find?_filter_of_find? {α : Type} {p q : α → Bool} {l : List α} {e : α} (h : l.find? q = some e) (hp : p e = true) :
    (l.filter p).find? q = some e := by
  induction l with
  | nil => exact absurd h (by simp)
  | cons x l ih =>
    by_cases hx : q x = true
    · obtain rfl : x = e := by simpa [List.find?_cons, hx] using h
      rw [List.filter_cons_of_pos hp, List.find?_cons_of_pos hx]
    · rw [List.find?_cons_of_neg hx] at h
      by_cases hpx : p x = true
      · rw [List.filter_cons_of_pos hpx, List.find?_cons_of_neg hx]
        exact ih h
      · rw [List.filter_cons_of_neg hpx]
        exact ih h

theorem recAt_freeSeq {i q : Nat} (hi : recIndex s q = some i) (k : Nat) : recAt (freeSeq s q) k = if k = i then none else recAt s k := by
  unfold freeSeq
  rw [hi]
  refine (tabGet_put none i k none s.log.recs).trans ?_
  by_cases hk : k = i
  · rw [if_pos hk.symm, if_pos hk]
  · rw [if_neg (Ne.symm hk), if_neg hk]
    rfl

theorem recIndex_freeSeq_other {i q v k : Nat} (hi : recIndex s q = some i) (hk : recIndex s v = some k) (hne : k ≠ i) :
    recIndex (freeSeq s q) v = some k := by
  unfold freeSeq
  rw [hi]
  obtain ⟨e, he, rfl⟩ := Option.map_eq_some_iff.1 hk
  exact Option.map_eq_some_iff.2 ⟨e, find?_filter_of_find? he (decide_eq_true hne), rfl⟩

theorem frees_freeSeq (s : State) (q : Nat) : Frees s (freeSeq s q) := by
  cases hi : recIndex s q with
  | none =>
    refine frees_of_log ?_
    unfold freeSeq
    rw [hi]
  | some i =>
    obtain ⟨r, p, hfr⟩ := Resets.freeSeq_frame s q
    have hpend : (freeSeq s q).log.pend = dropAll q s.log.pend := by
      unfold freeSeq
      rw [hi]
    refine ⟨by rw [hfr], by rw [hfr], fun k hk => ?_, fun v k hk hv => ?_⟩
    · rw [recAt_freeSeq hi, hk, ite_self]
    · by_cases hki : k = i
      · exact .inr ((recAt_freeSeq hi k).trans (if_pos hki))
      · have hvq : v ≠ q := fun h => hki (Option.some.inj (hk.symm.trans (h ▸ hi)))
        exact .inl ⟨hpend ▸ List.mem_filter.2 ⟨hv, decide_eq_true hvq⟩, recIndex_freeSeq_other hi hk hki⟩

theorem frees_handlingDone (s : State) (d : Domain) : Frees s (handlingDone s d) := by
  obtain ⟨m, hm⟩ := Spares.domPut_frame s d {}
  unfold handlingDone
  dsimp only
  rw [hm]
  exact frees_ite ((frees_of_log (s := s) rfl).trans (frees_freeSeq _ _)) (frees_of_log rfl)

theorem frees_leaveField (s : State) (f a : Nat) : Frees s (leaveField s f a) :=
  frees_of_log (congrArg (fun v => v.2.2.2.2.2.1) (SafeState.calm_leaveField s f a))

theorem frees_freeJob (s : State) (a : Nat) : Frees s (freeJob s a) := by
  have h := Logging.steady_freeJob s a
  generalize freeJob s a = t at h ⊢
  exact frees_of_log (congrArg Prod.fst h)

theorem frees_settleJob (s : State) (a : Nat) : Frees s (settleJob s a) := by
  unfold settleJob
  extract_lets j u fs v w
  have hu : Frees s u := frees_handlingDone s _
  have hv : Frees s v := hu.trans (frees_foldl (fun t f => frees_ite (frees_handlingDone t _) (frees_of_log rfl)) fs u)
  have hw : Frees s w :=
    hv.trans (frees_foldl (fun t f => (frees_leaveField t f a).trans ((frees_handlingDone _ _).trans (frees_handlingDone _ _))) fs v)
  exact frees_ite (frees_handlingDone s _) (frees_ite (frees_of_log rfl) (frees_ite (frees_ite (hw.trans (frees_freeJob w a)) hw) hv))

theorem frees_settle (s : State) : Frees s (settle s) :=
  (frees_foldl frees_settleJob asids s).trans
    (frees_foldl (fun t _ => frees_ite (frees_handlingDone t _) (frees_of_log rfl)) (List.range 36) _)

/-! ## LOG_FREE -/

theorem freeBySeq_of_up (hup : pithUp s = true) (q : Nat) : freeBySeq s q = settle (hostFree s q) := by
  have hover : ¬ s.pith.takeover = true := by
    simp only [pithUp, Bool.and_eq_true, Bool.not_eq_true'] at hup
    exact Bool.eq_false_iff.1 hup.2
  rw [freeBySeq, if_neg hover, if_pos hup]

/-- Host software's write of a SEQ to LOG_FREE comes before what the handlings free. -/
theorem frees_logFree {value : BitVec 64} (hopen : barOpen s = true) (hup : pithUp s = true) :
    ∃ u, Frees (hostFree u value.toNat) (logFree s value .full) ∧ u.log = s.log ∧ u.dom = s.dom := by
  have heq : logFree s value .full = freeBySeq { s with cxl := { s.cxl with lowWr := tabPut 0 logFreeAt 0 s.cxl.lowWr } } value.toNat :=
    if_neg (by rw [hopen]; decide)
  refine ⟨{ s with cxl := { s.cxl with lowWr := tabPut 0 logFreeAt 0 s.cxl.lowWr } }, ?_, rfl, rfl⟩
  rw [heq, freeBySeq_of_up (s := { s with cxl := { s.cxl with lowWr := tabPut 0 logFreeAt 0 s.cxl.lowWr } }) hup]
  exact frees_settle _

/-- A record that host software frees is freed at once, or waits for its domain's handling (R374, R563). -/
theorem freed_acts {v k : Nat} (hf : Frees (hostFree s v) t) (hix : recIndex s v = some k) :
    ((∃ e ∈ s.dom.st, e.2.st ≠ 0 ∧ e.2.seq = v) → v ∈ t.log.pend ∨ recAt t k = none) ∧
      ((∀ e ∈ s.dom.st, ¬ (e.2.st ≠ 0 ∧ e.2.seq = v)) → recAt t k = none) ∧ t.log.seq = s.log.seq ∧ t.log.ce = s.log.ce := by
  have hany : (s.dom.st.any fun e => e.2.st != 0 && e.2.seq == v) = true ↔ ∃ e ∈ s.dom.st, e.2.st ≠ 0 ∧ e.2.seq = v := by
    simp only [List.any_eq_true, Bool.and_eq_true, bne_iff_ne, beq_iff_eq]
  have hsome : ¬ (recIndex s v).isNone = true := by rw [hix]; exact Bool.false_ne_true
  obtain ⟨hseq, hce, hnone, hpend⟩ := hf
  by_cases hhand : ∃ e ∈ s.dom.st, e.2.st ≠ 0 ∧ e.2.seq = v
  · have hfree : hostFree s v = { s with log := { s.log with pend := addNew v s.log.pend } } := (if_neg hsome).trans (if_pos (hany.2 hhand))
    rw [hfree] at hseq hce hpend
    refine ⟨fun _ => (hpend v k hix (StoresAndBruises.mem_addNew v s.log.pend)).imp_left And.left, fun hno => ?_, hseq, hce⟩
    obtain ⟨e, he, hev⟩ := hhand
    exact absurd hev (hno e he)
  · have hfree : hostFree s v = freeSeq s v := (if_neg hsome).trans (if_neg (mt hany.1 hhand))
    obtain ⟨r, p, hfr⟩ := Resets.freeSeq_frame s v
    refine ⟨fun h => absurd h hhand, fun _ => hnone k ?_, ?_, ?_⟩
    · rw [hfree, recAt_freeSeq hix, if_pos rfl]
    · rw [hseq, hfree, hfr]
    · rw [hce, hfree, hfr]

theorem logFree_acts {value : BitVec 64} {k : Nat} (hopen : barOpen s = true) (hup : pithUp s = true) (hix : recIndex s value.toNat = some k) :
    let v := value.toNat
    let t := logFree s value .full
    ((∃ e ∈ s.dom.st, e.2.st ≠ 0 ∧ e.2.seq = v) → v ∈ t.log.pend ∨ recAt t k = none) ∧
      ((∀ e ∈ s.dom.st, ¬ (e.2.st ≠ 0 ∧ e.2.seq = v)) → recAt t k = none) ∧ t.log.seq = s.log.seq ∧ t.log.ce = s.log.ce := by
  obtain ⟨u, hf, hlog, hdom⟩ := frees_logFree (value := value) hopen hup
  have h := freed_acts hf (k := k) (by rw [recIndex, hlog]; exact hix)
  rw [hlog, hdom] at h
  exact h

end Sys2Proof.Proofs.LogFree
end

section
/-! SUPPORT. Registers act on writes, and recovery loads an object (R7 to R11, R431, R512, R537 to R542, R554 to R567). -/

namespace Sys2Proof.Proofs.Registers

open Sys2Proof.Laws Sys2Proof.Machine Sys2Proof Sys2Proof.Proofs.Ports

open Sys2Proof.Proofs.Vector (bitOf_toNat)

variable {s : State} {value : BitVec 64} {h : Half}

/-! ## MOD_RESET -/

theorem modReset_of_key (hup : barUp s = true) (hlow : h ≠ .high) (hkey : bitsOf value.toNat 8 8 = 0xC3) (hgo : value.getLsbD 0 = true) :
    modReset s value h = beginReset s (value.getLsbD 1) := by
  refine (if_neg ?_).trans (by rw [bitOf_toNat])
  rw [hup, coversLow_of_low hlow, hkey, bitOf_toNat, hgo]
  decide

theorem modReset_of_no_key (hno : bitsOf value.toNat 8 8 ≠ 0xC3 ∨ value.getLsbD 0 = false) : modReset s value h = s := by
  refine if_pos ?_
  rw [bitOf_toNat, Bool.or_eq_true, Bool.or_eq_true]
  exact hno.imp (fun hkey => .inr (bne_iff_ne.2 hkey)) fun hgo => by rw [hgo]; rfl

theorem heldInReset_beginReset (s : State) (recovery : Bool) : HeldInReset s (beginReset s recovery) recovery := by
  obtain ⟨hlost, -, hheld, -, -, hseq, hpith, hself, -, hslices⟩ := Resets.beginReset_keeps s recovery
  obtain ⟨-, hcor, hjob, hdie, hnear, -, hcxl, hbup, hcom, -, -, -, -, hext, -⟩ := hlost
  refine ⟨hheld, hcor, hjob, hcxl, hbup, hcom, hdie, hnear, hself, ?_, ?_, by rw [hpith], hseq, hext, fun k hk => ?_⟩
  · rfl
  · unfold beginReset
    extract_lets u slices warm v yOld y rOld r
    have hr : r.recovery = v.trs.recovery := by
      simp only [r]
      split_ifs
      · rfl
      · rfl
    exact hr
  · rw [hslices k hk]
    simp only [sealedSlice, Bool.and_eq_true]

/-! ## Write-once registers -/

theorem endpointId_of_open (hw : writable s = true) (hlow : h ≠ .high) (hset : s.bup.epSet = false) :
    endpointId s value h = { s with bup := { s.bup with epId := value.setWidth 16, epSet := true } } :=
  if_neg (by rw [hw, coversLow_of_low hlow, hset]; decide)

theorem ptEntry_of_zero {e : Fin 256} (hw : writable s = true) (hseal : s.bup.sealed_ = false) (hlock : tabGet 0 s.bup.ptLock e = 0)
    (hpt : tabGet 0 s.bup.pt e = 0) :
    ptEntry s e value .full = { s with bup := { s.bup with
      pt := tabPut 0 e.val (value &&& 0xFFFFFFFFFF) s.bup.pt, ptLock := tabPut 0 e.val 0xFFFFFFFFFF s.bup.ptLock } } := by
  have hnew : BitVec.ofNat 64 ((0 : BitVec 64).toNat ||| (value.toNat &&& (ptCover .full &&& (0xFFFFFFFFFF - (0 : BitVec 64).toNat)))) = value &&& 0xFFFFFFFFFF := by
    refine BitVec.eq_of_toNat_eq ?_
    simp [ptCover]
  unfold ptEntry
  rw [if_neg (by rw [hw, hseal]; decide)]
  dsimp only
  rw [hlock, hpt, hnew]
  rfl

theorem ptSeal_of_set (hw : writable s = true) (hlow : h ≠ .high) (hset : value.getLsbD 0 = true) :
    ptSeal s value h = { s with bup := { s.bup with sealed_ := true } } :=
  if_neg (by rw [hw, coversLow_of_low hlow, bitOf_toNat, hset]; decide)

/-! ## Registers without a row of their own -/

theorem registerWrite_of_row {o : Nat} (hrow : o < 0x800000 ∨ 0x900000 ≤ o) :
    exec (.registerWrite o value h) s = .next (registerWrite s (o / 8 * 8) value.toNat h) := by
  refine if_neg ?_
  have hno : isComponent o = false := decide_eq_false (by omega)
  rw [hno, Bool.and_false]
  decide

/-- A write to a register of queue `q` (R559). -/
theorem registerWrite_queue (hopen : barOpen s = true) (q : Fin 8) {o : Nat} (ho : o < 64) :
    registerWrite s (0x20000 + 64 * q.val + o) value.toNat h = writeQueue s q.val o value.toNat h := by
  have hq := q.isLt
  have hidx : (0x20000 + 64 * q.val + o - 0x20000) / 64 = q.val := by omega
  have hoff : (0x20000 + 64 * q.val + o) % 64 = o := by omega
  unfold registerWrite
  rw [if_neg (by simp; omega), if_neg (by rw [hopen]; decide), if_pos (by omega), hidx, hoff]

theorem registerWrite_of_enabled (q : Fin 8) (hen : (queueOf s q).enable = true) {o : Nat} (ho : o < 64) :
    registerWrite s (0x20000 + 64 * q.val + o) value.toNat h = s := by
  cases hopen : barOpen s with
  | true => exact (registerWrite_queue hopen q ho).trans (if_pos hen)
  | false =>
    unfold registerWrite
    rw [if_neg (by simp; omega), if_pos (by rw [hopen]; rfl)]

/-- What a write of `len` bits from bit `lo` leaves of an address of 64 bits. -/
theorem toNat_mergeBits (old : BitVec 64) {lo len : Nat} (hlen : 0 < len) (hsum : lo + len = 64) :
    (BitVec.ofNat 64 (mergeBits old.toNat value.toNat lo len .full)).toNat = bitsOf value.toNat lo len * 2 ^ lo + old.toNat % 2 ^ lo := by
  have hpow : 2 ^ lo * 2 ^ len = 2 ^ 64 := by rw [← Nat.pow_add, hsum]
  have hold : old.toNat / 2 ^ lo < 2 ^ len := Nat.div_lt_of_lt_mul (by rw [hpow]; exact old.isLt)
  have hmod : old.toNat % 2 ^ lo < 2 ^ lo := Nat.mod_lt _ (Nat.two_pow_pos lo)
  have hbits : bitsOf value.toNat lo len + 1 ≤ 2 ^ len := Nat.mod_lt _ (Nat.two_pow_pos len)
  have hsplit := Nat.div_add_mod old.toNat (2 ^ lo)
  have hfit : (bitsOf value.toNat lo len + 1) * 2 ^ lo ≤ 2 ^ 64 := by
    rw [← hpow, Nat.mul_comm (2 ^ lo)]
    exact Nat.mul_le_mul_right _ hbits
  have hkept : bitsOf old.toNat lo len * 2 ^ lo + old.toNat % 2 ^ lo = old.toNat := by
    rw [bitsOf, Nat.mod_eq_of_lt hold, Nat.mul_comm]
    exact hsplit
  rw [mergeBits_full _ _ hlen, BitVec.toNat_ofNat, ← Nat.eq_sub_of_add_eq' hkept, Nat.mod_eq_of_lt]
  · omega
  · rw [Nat.add_mul, Nat.one_mul] at hfit
    omega

/-- SQ_BASE to CQ_LINE of a disabled queue take the bits of a write that are theirs (R559). -/
theorem writeQueue_acts {q : Fin 8} (hen : (queueOf s q).enable = false) {o : Nat} {g : Queue → Queue}
    (hg : writeQueue s q o value.toNat .full = if (queueOf s q).enable then s else modQueue s q g) :
    let t := writeQueue s q o value.toNat .full
    queueOf t q = g (queueOf s q) ∧ ∀ k, k ≠ q.val → queueOf t k = queueOf s k := by
  intro t
  have ht : t = modQueue s q g := hg.trans (if_neg (by rw [hen]; decide))
  rw [ht]
  exact ⟨(queueOf_modQueue _ q q g).trans (if_pos rfl), fun k hk => (queueOf_modQueue _ q k g).trans (if_neg (Ne.symm hk))⟩

/-! ## Reads of a half -/

theorem lowHalfRead_acts {offset : Nat} (hup : barUp s = true) (hoff : offset < 2 ^ 24) :
    let o := offset / 8 * 8
    let w := readReg s o
    let l := tabGet 0 s.cxl.latch o
    let t := lowHalfRead s offset
    (offset % 8 < 4 → t.out = .low32 o (BitVec.ofNat 32 w) :: s.out ∧ tabGet 0 t.cxl.latch o = bitsOf w 32 32 + 2 ^ 32) ∧
      (4 ≤ offset % 8 → t.out = .high32 o (BitVec.ofNat 32 (if l = 0 then bitsOf w 32 32 else l % 2 ^ 32)) :: s.out ∧
        tabGet 0 t.cxl.latch o = 0) ∧ t = { s with cxl := { s.cxl with latch := t.cxl.latch }, out := t.out } := by
  have hgo : ¬ (!barUp s || decide (2 ^ 24 ≤ offset)) = true := by
    rw [hup, decide_eq_false (Nat.not_le.2 hoff)]
    decide
  unfold lowHalfRead
  dsimp only
  rw [if_neg hgo]
  generalize readReg s (offset / 8 * 8) = w
  by_cases hhigh : 4 ≤ offset % 8
  · rw [if_pos hhigh]
    refine ⟨fun h => absurd hhigh (Nat.not_le.2 h), fun _ => ⟨rfl, ?_⟩, rfl⟩
    exact tabGet_put_same 0 (offset / 8 * 8) 0 s.cxl.latch
  · rw [if_neg hhigh]
    refine ⟨fun _ => ⟨rfl, ?_⟩, fun h => absurd h hhigh, rfl⟩
    exact tabGet_put_same 0 (offset / 8 * 8) (bitsOf w 32 32 + 2 ^ 32) s.cxl.latch

/-! ## The window of recovery -/

/-- Eight bytes written as two halves. -/
theorem memByte_write_halves (m : List Host.Cell) (a v n : Nat) :
    memByte (memWrite (memWrite m a 4 v) (a + 4) 4 (v / 2 ^ 32)) n =
      if a ≤ n ∧ n < a + 8 then BitVec.ofNat 8 (bitsOf v (8 * (n - a)) 8) else memByte m n := by
  have hbyte : ∀ i, BitVec.ofNat 8 (bitsOf v (8 * i) 8) = BitVec.ofNat 8 (v / 256 ^ i) := fun i => by
    rw [bitsOf, ofNat_mod_pow 8 8 (Nat.le_refl _), Nat.pow_mul]
  by_cases hlow : a ≤ n ∧ n < a + 4
  · obtain ⟨i, rfl⟩ := Nat.exists_eq_add_of_le hlow.1
    rw [if_pos (by omega), memByte_write_outside _ _ _ _ _ (by omega), memByte_write_inside _ _ _ _ _ (by omega), Nat.add_sub_cancel_left, hbyte]
  by_cases hhigh : a + 4 ≤ n ∧ n < a + 8
  · obtain ⟨i, rfl⟩ := Nat.exists_eq_add_of_le hhigh.1
    rw [if_pos (by omega), memByte_write_inside _ _ _ _ _ (by omega), show a + 4 + i - a = 4 + i by omega, hbyte, Nat.div_div_eq_div_mul, Nat.pow_add]
    rfl
  · rw [if_neg (by omega), memByte_write_outside _ _ _ _ _ (by omega), memByte_write_outside _ _ _ _ _ (by omega)]

theorem registerWrite_window (hrec : recOpen s = true) {o : Nat} (hlo : 0xC10000 ≤ o) (hhi : o < 0xC20000) :
    registerWrite s o value.toNat .full = writeWindow s (o - 0xC10000) value.toNat .full :=
  if_pos (by rw [hrec, decide_eq_true ⟨hlo, hhi⟩]; rfl)

/-! ## BEGIN, CHUNK and GO -/

theorem bitsOf_cmd (value : BitVec 64) : bitsOf value.toNat 0 4 = value.toNat % 16 := by
  norm_num [bitsOf]

section
variable (htakes : recTakes s = true)
include htakes

theorem recBegin_of_cmd (hcmd : value.toNat % 16 = 1) (ok : Bool) : recBegin s value ok =
    let obj := bitsOf value.toNat 4 2
    let head := windowBytes s (64 * bitsOf value.toNat 16 11)
    if obj = 3 ∨ bitsOf value.toNat 16 11 = 0 then recEnd s rsFormat
    else if headerVerdict s obj head ≠ 0 then recEnd s (headerVerdict s obj head)
    else if obj = 0 ∧ !ok then recEnd { s with trs := { s.trs with slotOk := false } } rsFlash
    else { s with trs := { s.trs with obj := obj + 1, load := { head := head }, recStat := rsReceiving, slotOk := s.trs.slotOk && obj != 0 } } :=
  (if_neg (by rw [htakes]; decide)).trans (if_neg (by rw [bitsOf_cmd, hcmd]; decide))

theorem recBegin_acts (hcmd : value.toNat % 16 = 1) (ok : Bool) :
    let t := recBegin s value ok
    let v := value.toNat
    let obj := bitsOf v 4 2
    let head := windowBytes s (64 * bitsOf v 16 11)
    let ended := fun (t : State) (code : Nat) => t = { s with trs := { s.trs with obj := 0, load := {}, recStat := code } }
    (obj = 3 ∨ bitsOf v 16 11 = 0 → ended t 0x10) ∧
      (obj ≠ 3 → bitsOf v 16 11 ≠ 0 → headerVerdict s obj head ≠ 0 → ended t (headerVerdict s obj head)) ∧
      (obj ≠ 3 → bitsOf v 16 11 ≠ 0 → headerVerdict s obj head = 0 → obj = 0 → ok = false → t = { s with trs := { s.trs with
        obj := 0, load := {}, recStat := 0x15, slotOk := false } }) ∧
      (obj ≠ 3 → bitsOf v 16 11 ≠ 0 → headerVerdict s obj head = 0 → obj ≠ 0 ∨ ok = true → t = { s with trs := { s.trs with
        obj := obj + 1, load := { head := head }, recStat := 0x01, slotOk := s.trs.slotOk && obj != 0 } }) := by
  intro t v obj head ended
  have ht : t = _ := recBegin_of_cmd htakes hcmd ok
  clear_value t
  refine ⟨fun hbad => ht.trans (if_pos hbad), fun hobj hlen hv => ht.trans ((if_neg (not_or.2 ⟨hobj, hlen⟩)).trans (if_pos hv)),
    fun hobj hlen hv h0 hok => ht.trans ((if_neg (not_or.2 ⟨hobj, hlen⟩)).trans ((if_neg (not_not.2 hv)).trans (if_pos ⟨h0, by rw [hok]; rfl⟩))),
    fun hobj hlen hv hor => ht.trans ((if_neg (not_or.2 ⟨hobj, hlen⟩)).trans ((if_neg (not_not.2 hv)).trans (if_neg ?_)))⟩
  rintro ⟨h0, hok⟩
  rcases hor with hne | hyes
  · exact hne h0
  · rw [hyes] at hok
    exact absurd hok (by decide)

theorem recChunk_acts (hcmd : value.toNat % 16 = 2) (ok : Bool) :
    let t := recChunk s value ok
    let v := value.toNat
    let head := windowBytes s (64 * bitsOf v 16 11)
    let ended := fun (t : State) (code : Nat) => t = { s with trs := { s.trs with obj := 0, load := {}, recStat := code } }
    (s.trs.obj = 0 ∨ bitsOf v 16 11 = 0 → ended t 0x10) ∧ (s.trs.obj ≠ 0 → bitsOf v 16 11 ≠ 0 → ok = false → ended t 0x15) ∧
      (s.trs.obj ≠ 0 → bitsOf v 16 11 ≠ 0 → ok = true → t = { s with trs := { s.trs with load := { s.trs.load with
        body := (s.trs.load.body ++ head).take (objLen (s.trs.obj - 1) s.trs.load.head) } } }) := by
  intro t v head ended
  have ht : t = if s.trs.obj = 0 ∨ bitsOf value.toNat 16 11 = 0 then recEnd s rsFormat
      else if !ok then recEnd s rsFlash
      else { s with trs := { s.trs with load := { s.trs.load with body := bodyAfter s (64 * bitsOf value.toNat 16 11) } } } :=
    (if_neg (by rw [htakes]; decide)).trans (if_neg (by rw [bitsOf_cmd, hcmd]; decide))
  clear_value t
  exact ⟨fun hbad => ht.trans (if_pos hbad), fun hobj hlen hok => ht.trans ((if_neg (not_or.2 ⟨hobj, hlen⟩)).trans (if_pos (by rw [hok]; rfl))),
    fun hobj hlen hok => ht.trans ((if_neg (not_or.2 ⟨hobj, hlen⟩)).trans (if_neg (by rw [hok]; decide)))⟩

theorem recGo_of_cmd (hcmd : value.toNat % 16 = 3) (ok : Bool) (pl : BringPlan) : recGo s value ok pl =
    if s.trs.obj = 0 ∨ bitsOf value.toNat 16 11 = 0 then recEnd s rsFormat
    else if !ok || !loadWhole s.trs then recEnd s (rsFormat + Config.recFail s.trs.load.body.length % 6)
    else bringFrom (recEnd (install s) rsDone) 2 pl :=
  (if_neg (by rw [htakes]; decide)).trans (if_neg (by rw [bitsOf_cmd, hcmd]; decide))

/-- GO installs a load that has come whole, and bring-up starts from phase 2 (R541, R567). -/
theorem recGo_of_whole (hcmd : value.toNat % 16 = 3) (hobj : s.trs.obj ≠ 0) (hlen : bitsOf value.toNat 16 11 ≠ 0) (hwhole : loadWhole s.trs = true)
    (pl : BringPlan) : recGo s value true pl = bringFrom (recEnd (install s) rsDone) 2 pl := by
  rw [recGo_of_cmd htakes hcmd, if_neg (not_or.2 ⟨hobj, hlen⟩), if_neg (by rw [hwhole]; decide)]

end

theorem recEnd_install (s : State) :
    let x := s.trs.load
    let r := { s.trs with obj := 0, load := {}, recStat := 0x04 }
    (s.trs.obj = 1 → recEnd (install s) rsDone = { s with trs := { r with
      slotOk := true, image := some x, minSvn := max s.trs.minSvn (imgFloor x.head), keyRev := s.trs.keyRev ||| imgRevoke x.head } }) ∧
    (s.trs.obj = 2 → recEnd (install s) rsDone = { s with trs := { r with ident := some x.body } }) ∧
    (3 ≤ s.trs.obj → recEnd (install s) rsDone = { s with trs := r, yld := { s.yld with
      baseObj := some x, base := baseEntries x, baseGen := baseGenOf x.head, ext := [], kept := [], full := false } }) := by
  intro x r
  refine ⟨fun h => ?_, fun h => ?_, fun h => ?_⟩
  · rw [install, if_pos h]
    rfl
  · rw [install, if_neg (by omega), if_pos h]
    rfl
  · rw [install, if_neg (by omega), if_neg (by omega)]
    rfl

/-- Settles O55: what each register makes of a write, and the load of an object in recovery. -/
theorem registersActOnWrites : Obligations.RegistersActOnWrites := by
  intro s value h v low
  refine ⟨fun hup hlow hkey hgo => ?_, fun hno => ?_, fun k r hopen hup hh hat hseq hix => ?_, fun hopen => ?_, fun hw hlow hset => ?_,
    fun hset => ?_, fun e hw hseal hlock hpt => ?_, fun e hseal => ?_, fun hw hlow hset => ?_, fun hset => ?_, fun offset hw hlo hhi => ?_,
    fun q hopen hen => ⟨?_, ?_⟩, fun q hen o ho => ?_, ?_, fun o hrec hlo hhi hal => ?_, ?_⟩
  · have heq := modReset_of_key hup hlow hkey hgo
    exact ⟨⟨_, congrArg Host.Outcome.next heq, heldInReset_beginReset s _⟩, ⟨_, congrArg Host.Outcome.next heq, heldInReset_beginReset s _⟩⟩
  · have heq := modReset_of_no_key (s := s) (h := h) hno
    exact ⟨congrArg Host.Outcome.next heq, congrArg Host.Outcome.next heq⟩
  · subst hh
    exact ⟨_, rfl, LogFree.logFree_acts hopen hup hix⟩
  · refine ⟨_, congrArg Host.Outcome.next (if_neg (by rw [hopen]; decide)), ?_, rfl⟩
    exact tabGet_put_same 0 logFreeAt (value.setWidth 32) s.cxl.lowWr
  · exact congrArg Host.Outcome.next (endpointId_of_open hw hlow hset)
  · exact congrArg Host.Outcome.next (if_pos (by rw [hset, Bool.or_true]))
  · refine ⟨_, congrArg Host.Outcome.next (ptEntry_of_zero hw hseal hlock hpt), tabGet_put_same 0 e.val (value &&& 0xFFFFFFFFFF) s.bup.pt,
      tabGet_put_same 0 e.val 0xFFFFFFFFFF s.bup.ptLock, fun k hk => tabGet_put_other 0 _ s.bup.pt (Ne.symm hk), rfl⟩
  · exact congrArg Host.Outcome.next (if_pos (by rw [hseal, Bool.or_true]))
  · exact congrArg Host.Outcome.next (ptSeal_of_set hw hlow hset)
  · exact congrArg Host.Outcome.next (if_pos (by rw [bitOf_toNat, hset, Bool.not_false, Bool.or_true]))
  · exact if_pos (by rw [hw, isComponent, decide_eq_true ⟨hlo, hhi⟩]; rfl)
  · have hreg := registerWrite_of_row (s := s) (value := value) (h := .full) (o := 0x20000 + 64 * q.val) (by omega)
    have hal : (0x20000 + 64 * q.val) / 8 * 8 = 0x20000 + 64 * q.val + 0 := by omega
    rw [hal, registerWrite_queue hopen q (by decide)] at hreg
    obtain ⟨hq, hother⟩ := writeQueue_acts (value := value) (o := 0) (g := fun x => { x with sqBase := BitVec.ofNat 64 (mergeBits x.sqBase.toNat value.toNat 12 52 .full) }) hen rfl
    refine ⟨_, hreg, ?_, ?_, hother⟩
    · rw [hq]
      exact toNat_mergeBits _ (by decide) rfl
    · rw [hq]
  · have hreg := registerWrite_of_row (s := s) (value := value) (h := .full) (o := 0x20018 + 64 * q.val) (by omega)
    have hal : (0x20018 + 64 * q.val) / 8 * 8 = 0x20000 + 64 * q.val + 0x18 := by omega
    rw [hal, registerWrite_queue hopen q (by decide)] at hreg
    obtain ⟨hq, hother⟩ := writeQueue_acts (value := value) (o := 0x18) (g := fun x => { x with cqLine := BitVec.ofNat 64 (mergeBits x.cqLine.toNat value.toNat 6 58 .full) }) hen rfl
    refine ⟨_, hreg, ?_, ?_, hother⟩
    · rw [hq]
      exact toNat_mergeBits _ (by decide) rfl
    · rw [hq]
  · have hreg := registerWrite_of_row (s := s) (value := value) (h := h) (o := 0x20000 + 64 * q.val + o) (by omega)
    have hal : (0x20000 + 64 * q.val + o) / 8 * 8 = 0x20000 + 64 * q.val + o / 8 * 8 := by omega
    rw [hreg, hal, registerWrite_of_enabled q hen (by omega)]
  · intro offset hup hoff o w l
    exact ⟨_, rfl, lowHalfRead_acts hup hoff⟩
  · have hreg := registerWrite_of_row (s := s) (value := value) (h := .full) (o := o) (by omega)
    rw [show o / 8 * 8 = o by omega, registerWrite_window hrec hlo hhi] at hreg
    exact ⟨_, hreg, rfl, memByte_write_halves s.trs.window (o - 0xC10000) value.toNat⟩
  · intro htakes obj head ended
    refine ⟨fun ok hcmd => ⟨_, rfl, recBegin_acts htakes hcmd ok⟩, fun ok hcmd => ⟨_, rfl, recChunk_acts htakes hcmd ok⟩, fun ok pl hcmd => ?_⟩
    have hgo := recGo_of_cmd htakes hcmd ok pl
    refine ⟨fun hbad => ⟨_, rfl, hgo.trans (if_pos hbad)⟩, fun hobj hlen hfail => ?_, fun hlen hok hwhole => ?_⟩
    · have hlt := Nat.mod_lt (Config.recFail s.trs.load.body.length) (show 0 < 6 by decide)
      refine ⟨_, rsFormat + Config.recFail s.trs.load.body.length % 6, rfl, by show 16 ≤ 16 + _; omega, by show 16 + _ ≤ 21; omega, ?_⟩
      exact hgo.trans ((if_neg (not_or.2 ⟨hobj, hlen⟩)).trans (if_pos (by rcases hfail with hf | hf <;> simp [hf])))
    · subst hok
      obtain ⟨hone, htwo, hthree⟩ := recEnd_install s
      refine ⟨fun ho => ?_, fun ho => ?_, fun ho => ?_⟩
      · rw [← hone ho]
        exact congrArg Host.Outcome.next (recGo_of_whole htakes hcmd (by omega) hlen hwhole pl)
      · rw [← htwo ho]
        exact congrArg Host.Outcome.next (recGo_of_whole htakes hcmd (by omega) hlen hwhole pl)
      · rw [← hthree ho]
        exact congrArg Host.Outcome.next (recGo_of_whole htakes hcmd (by omega) hlen hwhole pl)

end Sys2Proof.Proofs.Registers
end

section
/-! SUPPORT. Partner messages take effect (R437 to R451). -/

namespace Sys2Proof.Proofs.Partner

open Sys2Proof.Laws Sys2Proof.Machine Sys2Proof Sys2Proof.Proofs.Commands Sys2Proof.Proofs.TierReads

open Sys2Proof.Proofs.Links (foldl_keeps)

variable {s t u : State} {p : Fin 48} {m : BupMsg}

/-! ## What a message sent leaves -/

/-- What a context's messages leave: the memories, the count of denied accesses and the streams. -/
def reached (s : State) : Mem × Nat × (Nat → Nat → Stream) := (s.mem, s.bup.denied, streamOf s)

theorem reached_of_fld (hmem : t.mem = s.mem) (hden : t.bup.denied = s.bup.denied) (hfld : t.fld = s.fld) : reached t = reached s := by
  have hstr : streamOf t = streamOf s := funext fun f => funext fun k => by rw [streamOf, fieldOf, hfld, streamOf, fieldOf]
  rw [reached, hmem, hden, hstr, reached]

theorem reached_failTransfer (s : State) (key : Nat) : reached (failTransfer s key) = reached s := by
  have hstr : streamOf (failTransfer s key) = streamOf s := funext fun f => funext fun k => by
    refine Requests.streamOf_of_str ?_ k
    by_cases hf : f = key / 2048
    · subst hf
      rw [failTransfer, fieldOf_modXfer_same]
    · rw [failTransfer, fieldOf_modXfer_other hf]
  rw [reached, hstr]
  rfl

theorem reached_finishCtxCmd (s : State) (x opc status : Nat) : reached (finishCtxCmd s x opc status) = reached s := by
  obtain ⟨m, n, h⟩ := finishCtxCmd_rest s x opc status
  rw [h]
  rfl

theorem reached_failCtx (s : State) (x cause : Nat) : reached (failCtx s x cause) = reached s := by
  unfold failCtx
  extract_lets c reads u v b w x' y
  have hu : reached u = reached s := foldl_keeps reached (fun t e => reached_failTransfer t _) _ s
  clear_value u
  have hx : reached x' = reached s := (reached_of_fld rfl rfl rfl).trans hu
  clear_value x'
  have hy : reached y = reached s := (reached_finishCtxCmd _ _ _ _).trans ((reached_finishCtxCmd _ _ _ _).trans hx)
  clear_value y
  split
  · rfl
  · exact hy

theorem reached_ctxSend (s : State) (x ty : Nat) (g : BupMsg → BupMsg) : reached (ctxSend s x ty g) = reached s := by
  unfold ctxSend
  extract_lets c u
  have hu : reached u = reached s := rfl
  clear_value u
  split
  · rfl
  split
  · exact (reached_failCtx _ _ _).trans hu
  split
  · exact reached_failCtx _ _ _
  · rfl

/-! ## Accepted messages -/

/-- The state in which context `m.dctx` has accepted message `m` (R440, R441). -/
def acceptedAt (s : State) (m : BupMsg) : State := modCtx s m.dctx fun c => { c with rxSeq := m.cseq + 1, demand := m.demand }

theorem ctxOf_modCtx_same (s : State) (x : Nat) (g : Ctx → Ctx) : ctxOf (modCtx s x g) x = g (ctxOf s x) :=
  (ctxOf_modCtx _ x x g).trans (if_pos rfl)

theorem ctxOf_acceptedAt (s : State) (m : BupMsg) :
    ctxOf (acceptedAt s m) m.dctx = { ctxOf s m.dctx with rxSeq := m.cseq + 1, demand := m.demand } := ctxOf_modCtx_same _ _ _

theorem open_of_accepted (h : acceptMsg s p m = some u) : (ctxOf s m.dctx).st ≠ .closed ∧ (ctxOf s m.dctx).st ≠ .failed := by
  unfold acceptMsg at h
  dsimp only at h
  split at h
  · exact absurd h (by simp)
  · next hof =>
    have hctx : ofContext s m = true := by
      simp only [Bool.or_eq_true, not_or, Bool.not_eq_true', Bool.not_eq_false] at hof
      exact hof.1.2
    simp only [ofContext, Bool.and_eq_true, Bool.or_eq_true, beq_iff_eq] at hctx
    rcases hctx.1.1 with hst | hst
    · rw [hst]
      exact ⟨by decide, by decide⟩
    · rw [hst]
      exact ⟨by decide, by decide⟩

theorem reaches_acceptedAt {k : Nat} (h : Reaches s m.dctx k) : Reaches (acceptedAt s m) m.dctx k := by
  obtain ⟨hep, hpt, hport⟩ := h
  refine ⟨hep, ?_, ?_⟩
  · rw [ctxOf_acceptedAt]
    exact hpt
  · rw [ctxOf_acceptedAt]
    exact hport

/-! ## Contexts that close -/

/-- A closing context with nothing outstanding is closed (R437, R451). -/
theorem settleCtx_acts (s : State) (x : Nat) :
    ctxOf (settleCtx s x) x = (if (ctxOf s x).st = .closing ∧ (ctxOf s x).outst = [] then {} else ctxOf s x) ∧ (settleCtx s x).fld = s.fld := by
  by_cases hc : (ctxOf s x).st = .closing ∧ (ctxOf s x).outst = []
  · have hclosed := ctxOf_modCtx_same { s with bup := { s.bup with sharedUsed := s.bup.sharedUsed - (ctxOf s x).held } } x fun _ => {}
    have heq : settleCtx s x = finishCtxCmd (modCtx { s with bup := { s.bup with sharedUsed := s.bup.sharedUsed - (ctxOf s x).held } } x fun _ => {})
        x 0x19 stOk := if_neg (by simp [hc.1, hc.2])
    obtain ⟨m, n, h⟩ := finishCtxCmd_rest (modCtx { s with bup := { s.bup with sharedUsed := s.bup.sharedUsed - (ctxOf s x).held } } x fun _ => {})
      x 0x19 stOk
    rw [heq, h, if_pos hc]
    exact ⟨hclosed, rfl⟩
  · have heq : settleCtx s x = s := if_pos ((not_and_or.1 hc).imp_right fun h => by
      rw [Bool.not_eq_true', List.isEmpty_eq_false_iff]
      exact h)
    rw [heq, if_neg hc]
    exact ⟨rfl, rfl⟩

/-! ## Denied accesses -/

/-- An access that is denied is counted, and its answer changes no memory (R439). -/
theorem denied_ctxSend (s : State) (x y ty : Nat) (g : BupMsg → BupMsg) :
    let t := ctxSend (denyRemote s x) y ty g
    t.bup.denied = satAdd 32 s.bup.denied 1 ∧ t.mem = s.mem := by
  intro t
  have h : reached t = reached (denyRemote s x) := reached_ctxSend _ _ _ _
  exact ⟨congrArg (fun v => v.2.1) h, congrArg Prod.fst h⟩

/-! ## Requests of the partner -/

/-- The answer to part `e` of a read (R441, R442). -/
def answerPart (m : BupMsg) (denied : Bool) (t : State) (e : Nat × Inbound) : State :=
  match e.2 with
  | .ok pte a =>
    ctxSend t m.dctx tyRdRsp fun r =>
      { r with addr := m.addr + 4096 * e.1, rtag := m.rtag, failed := denied, args := BitVec.ofNat 152 e.1,
               body := if denied then default else inboundRead t pte a }
  | _ => ctxSend t m.dctx tyRdRsp fun r => { r with addr := m.addr, rtag := m.rtag, failed := true, args := BitVec.ofNat 152 e.1 }

theorem reached_answerPart (m : BupMsg) (denied : Bool) (t : State) (e : Nat × Inbound) : reached (answerPart m denied t e) = reached t := by
  unfold answerPart
  split
  · exact reached_ctxSend _ _ _ _
  · exact reached_ctxSend _ _ _ _

/-- A read is denied as a whole (R439, R441). -/
def readDenied (s : State) (m : BupMsg) : Bool :=
  decide (16 < (readParts s m).length) || m.addr % 4096 != 0 || (readParts s m).any fun e => decide (e.2 = .denied)

theorem rdReq_of_accepted (h : acceptMsg s p m = some (acceptedAt s m)) (hpresent : ∀ e ∈ readParts s m, e.2 ≠ .absent) :
    rdReq s p m = (readParts s m).foldl (answerPart m (readDenied s m))
      (if readDenied s m = true then denyRemote (acceptedAt s m) m.dctx else acceptedAt s m) := by
  have hno : ¬ ((readParts s m).any fun e => decide (e.2 = .absent)) = true := by
    rw [List.any_eq_true]
    rintro ⟨e, he, habs⟩
    exact hpresent e he (of_decide_eq_true habs)
  unfold rdReq
  dsimp only
  rw [if_neg hno, h]
  rfl

theorem rdReq_acts (h : acceptMsg s p m = some (acceptedAt s m)) (hpresent : ∀ e ∈ readParts s m, e.2 ≠ .absent) :
    let t := rdReq s p m
    t.mem = s.mem ∧ (readDenied s m = true → t.bup.denied = satAdd 32 s.bup.denied 1) := by
  intro t
  have ht : reached t = reached (if readDenied s m = true then denyRemote (acceptedAt s m) m.dctx else acceptedAt s m) :=
    (congrArg reached (rdReq_of_accepted h hpresent)).trans (foldl_keeps reached (reached_answerPart m _) _ _)
  clear_value t
  by_cases hden : readDenied s m = true
  · rw [if_pos hden] at ht
    exact ⟨congrArg Prod.fst ht, fun _ => congrArg (fun v => v.2.1) ht⟩
  · rw [if_neg hden] at ht
    exact ⟨congrArg Prod.fst ht, fun h => absurd h hden⟩

theorem inboundRead_acceptedAt (s : State) (m : BupMsg) (e a : Nat) :
    inboundRead (acceptedAt s m) e a = if pteTarget e = 0 then nearBlock s a else farBlock s a := by
  have hnear : nearRead (acceptedAt s m) a 4096 = nearRead s a 4096 :=
    congrArg (fun l => memRead l a 4096) (show (acceptedAt s m).mem.near = s.mem.near from rfl)
  have hfar : farRead (acceptedAt s m) a 4096 = farRead s a 4096 :=
    congrArg (fun l => memRead l a 4096) (show (acceptedAt s m).mem.far = s.mem.far from rfl)
  have hlost : nearLost (acceptedAt s m) a = nearLost s a := rfl
  have hnb : (acceptedAt s m).mem.nearBr = s.mem.nearBr := rfl
  have hfb : (acceptedAt s m).mem.farBr = s.mem.farBr := rfl
  rw [inboundRead, nearBlock, farBlock, hnear, hfar, hlost, hnb, hfb, nearBlock, farBlock]

/-- The answer to a read of one block, on message `r` of its context. -/
def blockAnswer (s : State) (m : BupMsg) (e a : Nat) (r : BupMsg) : BupMsg :=
  { r with addr := m.addr + 4096 * 0, rtag := m.rtag, failed := false, args := BitVec.ofNat 152 0, body := inboundRead s e a }

theorem answerPart_ok (m : BupMsg) (t : State) (e a : Nat) :
    answerPart m false t (0, .ok e a) = ctxSend t m.dctx tyRdRsp (blockAnswer t m e a) := by
  unfold answerPart blockAnswer
  dsimp only
  rw [if_neg (by decide)]

/-- A read of one block is answered with the block (R441, R442). -/
theorem rdReq_of_block {e a k : Nat} (h : acceptMsg s p m = some (acceptedAt s m)) (hparts : readParts s m = [(0, .ok e a)])
    (hal : m.addr % 4096 = 0) (hk : Reaches s m.dctx k) :
    ∃ r, (rdReq s p m).out = .bupol s.bup.nextMsg k (rawMsg tyRdRsp r) :: s.out ∧ r.addr = m.addr ∧ r.rtag = m.rtag ∧ r.failed = false ∧
      r.dst = (ctxOf s m.dctx).remote ∧ r.cseq = (ctxOf s m.dctx).txSeq ∧ r.body = if pteTarget e = 0 then nearBlock s a else farBlock s a := by
  have hpresent : ∀ e ∈ readParts s m, e.2 ≠ .absent := by simp [hparts]
  have hden : readDenied s m = false := by simp [readDenied, hparts, hal]
  have heq := rdReq_of_accepted h hpresent
  rw [hden, hparts, if_neg (by decide), List.foldl_cons, List.foldl_nil, answerPart_ok] at heq
  obtain ⟨hclosed, hfailed⟩ := open_of_accepted h
  have hsend := ctxSend_of_reaches (reaches_acceptedAt hk) (by rw [ctxOf_acceptedAt]; exact hclosed) (by rw [ctxOf_acceptedAt]; exact hfailed) tyRdRsp
    (blockAnswer (acceptedAt s m) m e a)
  obtain ⟨hfr, -, -⟩ := ctxSent_acts (acceptedAt s m) m.dctx k tyRdRsp (blockAnswer (acceptedAt s m) m e a (ctxMsg (acceptedAt s m) m.dctx))
  refine ⟨_, congrArg State.out (heq.trans (hsend.trans hfr)), Nat.add_zero _, rfl, rfl, ?_, ?_, inboundRead_acceptedAt s m e a⟩
  · exact (congrArg Ctx.remote (ctxOf_acceptedAt s m)).trans rfl
  · exact (congrArg Ctx.txSeq (ctxOf_acceptedAt s m)).trans rfl

/-! ## Writes, barrier adds and arms of the partner -/

/-- The state in which a write has been accepted, and has given back the shared block that it held (R443). -/
def writeTaken (s : State) (m : BupMsg) : State :=
  let u := acceptedAt s m
  if (ctxOf u m.dctx).held != 0 then
    let v := modCtx u m.dctx fun c => { c with held := c.held - 1 }
    { v with bup := { v.bup with sharedUsed := v.bup.sharedUsed - 1 } }
  else u

theorem reached_writeTaken (s : State) (m : BupMsg) : reached (writeTaken s m) = reached s := by
  unfold writeTaken
  dsimp only
  split
  · exact reached_of_fld rfl rfl rfl
  · exact reached_of_fld rfl rfl rfl

/-- WR_ACK of a write (R441, R443). -/
def writeAck (s : State) (m : BupMsg) (fail : Bool) (t : State) : State :=
  let shared := (ctxOf (acceptedAt s m) m.dctx).held != 0
  ctxSend t m.dctx tyWrAck fun a => { a with failed := fail, args := BitVec.ofNat 152 (m.cseq.toNat + 65536 * b2n (!shared)) }

theorem mem_writeAck (s : State) (m : BupMsg) (fail : Bool) (t : State) : (writeAck s m fail t).mem = t.mem := by
  unfold writeAck
  exact (memStem_ctxSend _ _ _ _).1

theorem bupWr_of_denied (h : acceptMsg s p m = some (acceptedAt s m)) (hw : inbound s m.dctx m.addr 4096 5 true = .denied) :
    bupWr s p m = writeAck s m true (denyRemote (writeTaken s m) m.dctx) := by
  unfold bupWr
  rw [hw, h]
  rfl

theorem bupWr_of_ok {e a : Nat} (h : acceptMsg s p m = some (acceptedAt s m)) (hw : inbound s m.dctx m.addr 4096 5 true = .ok e a) :
    bupWr s p m = if m.addr % 4096 = 0 then writeAck s m false (inboundWrite (writeTaken s m) e a m.body)
      else writeAck s m true (denyRemote (writeTaken s m) m.dctx) := by
  unfold bupWr writeAck writeTaken
  rw [hw]
  dsimp only
  rw [h]

theorem denied_writeAck (s : State) (m : BupMsg) (u : State) (hu : reached u = reached s) :
    let t := writeAck s m true (denyRemote u m.dctx)
    t.bup.denied = satAdd 32 s.bup.denied 1 ∧ t.mem = s.mem := by
  obtain ⟨hden, hmem⟩ := denied_ctxSend u m.dctx m.dctx tyWrAck
    fun a => { a with failed := true, args := BitVec.ofNat 152 (m.cseq.toNat + 65536 * b2n (!((ctxOf (acceptedAt s m) m.dctx).held != 0))) }
  have hd : u.bup.denied = s.bup.denied := congrArg (fun v => v.2.1) hu
  rw [hd] at hden
  exact ⟨hden, hmem.trans (congrArg Prod.fst hu)⟩

/-- An inbound block is written to its tier alone (R442, R443). -/
theorem mem_inboundWrite (u : State) (e a : Nat) (b : BlockData) :
    let t := inboundWrite u e a b
    t.mem.die = u.mem.die ∧ (pteTarget e = 0 → t.mem.near = memWrite u.mem.near a 4096 b.data.toNat ∧ t.mem.far = u.mem.far) ∧
      (pteTarget e ≠ 0 → t.mem.far = memWrite u.mem.far a 4096 b.data.toNat ∧ t.mem.near = u.mem.near) := by
  unfold inboundWrite nearPut farPut
  generalize memWrite u.mem.near a 4096 b.data.toNat = near
  generalize memWrite u.mem.far a 4096 b.data.toNat = far
  by_cases he : pteTarget e = 0
  · rw [if_pos he]
    exact ⟨rfl, fun _ => ⟨rfl, rfl⟩, fun h => absurd he h⟩
  · rw [if_neg he]
    exact ⟨rfl, fun h => absurd h he, fun _ => ⟨rfl, rfl⟩⟩

theorem mem_bupWr_of_ok {e a : Nat} (h : acceptMsg s p m = some (acceptedAt s m)) (hw : inbound s m.dctx m.addr 4096 5 true = .ok e a)
    (hal : m.addr % 4096 = 0) :
    let t := bupWr s p m
    t.mem.die = s.mem.die ∧ (pteTarget e = 0 → t.mem.near = memWrite s.mem.near a 4096 m.body.data.toNat ∧ t.mem.far = s.mem.far) ∧
      (pteTarget e ≠ 0 → t.mem.far = memWrite s.mem.far a 4096 m.body.data.toNat ∧ t.mem.near = s.mem.near) := by
  intro t
  have heq : bupWr s p m = writeAck s m false (inboundWrite (writeTaken s m) e a m.body) := by rw [bupWr_of_ok h hw, if_pos hal]
  have hmem : t.mem = (inboundWrite (writeTaken s m) e a m.body).mem := (congrArg State.mem heq).trans (mem_writeAck _ _ _ _)
  have hu : (writeTaken s m).mem = s.mem := congrArg Prod.fst (reached_writeTaken s m)
  have hwr := mem_inboundWrite (writeTaken s m) e a m.body
  rw [hu] at hwr
  dsimp only at hwr
  rw [← hmem] at hwr
  exact hwr

/-- BAR_ACK of a barrier add (R441). -/
def barAck (m : BupMsg) (fail : Bool) (t : State) : State := ctxSend t m.dctx tyBarAck fun a => { a with rtag := m.rtag, failed := fail }

theorem bupBarrier_of_denied (h : acceptMsg s p m = some (acceptedAt s m)) (hb : inbound s m.dctx m.addr 8 7 true = .denied) :
    bupBarrier s p m = barAck m true (denyRemote (acceptedAt s m) m.dctx) := by
  unfold bupBarrier
  rw [hb, h]
  rfl

theorem bupBarrier_of_ok {e a : Nat} (h : acceptMsg s p m = some (acceptedAt s m)) (hb : inbound s m.dctx m.addr 8 7 true = .ok e a) :
    bupBarrier s p m = if m.addr % 8 ≠ 0 then barAck m true (denyRemote (acceptedAt s m) m.dctx)
      else if pteTarget e = 0 then
        barAck m false (nearStore (acceptedAt s m) a 8 ((nearRead s a 8 + bitsOf m.args.toNat 0 64) % 2 ^ 64) false)
      else barAck m false (farStore (acceptedAt s m) a 8 ((farRead s a 8 + bitsOf m.args.toNat 0 64) % 2 ^ 64) false) := by
  unfold bupBarrier
  rw [hb]
  dsimp only
  rw [h]
  rfl

/-- A barrier add raises its 8 bytes by the sum, modulo 2 ^ 64 (R441). -/
theorem mem_bupBarrier_of_ok {e a : Nat} (h : acceptMsg s p m = some (acceptedAt s m)) (hb : inbound s m.dctx m.addr 8 7 true = .ok e a)
    (hal : m.addr % 8 = 0) :
    let t := bupBarrier s p m
    t.mem.die = s.mem.die ∧
      (pteTarget e = 0 → nearRead t a 8 = (nearRead s a 8 + bitsOf m.args.toNat 0 64) % 2 ^ 64 ∧ t.mem.far = s.mem.far) ∧
      (pteTarget e ≠ 0 → farRead t a 8 = (farRead s a 8 + bitsOf m.args.toNat 0 64) % 2 ^ 64 ∧ t.mem.near = s.mem.near) := by
  intro t
  have hpow : (2 : Nat) ^ 64 = 256 ^ 8 := by norm_num
  have heq := (bupBarrier_of_ok h hb).trans (if_neg (not_not.2 hal))
  by_cases he : pteTarget e = 0
  · have hmem : t.mem = _ := (congrArg State.mem (heq.trans (if_pos he))).trans (memStem_ctxSend _ _ _ _).1
    refine ⟨(congrArg Mem.die hmem).trans rfl, fun _ => ⟨?_, (congrArg Mem.far hmem).trans rfl⟩, fun h => absurd he h⟩
    rw [nearRead, hmem, hpow]
    exact (memRead_write _ _ _ _).trans (Nat.mod_mod _ _)
  · have hmem : t.mem = _ := (congrArg State.mem (heq.trans (if_neg he))).trans (memStem_ctxSend _ _ _ _).1
    refine ⟨(congrArg Mem.die hmem).trans rfl, fun h => absurd h he, fun _ => ⟨?_, (congrArg Mem.near hmem).trans rfl⟩⟩
    rw [farRead, hmem, hpow]
    exact (memRead_write _ _ _ _).trans (Nat.mod_mod _ _)

/-- A request to a stream changes no memory and counts no denied access. -/
theorem requestStream_frame {f r : Nat} (h : requestStream s f r = some u) : u.mem = s.mem ∧ u.bup = s.bup := by
  unfold requestStream at h
  dsimp only at h
  split at h
  · split at h
    · exact absurd h (by simp)
    · exact Option.some.inj h ▸ ⟨rfl, rfl⟩
  · split at h
    · exact absurd h (by simp)
    split at h
    · exact Option.some.inj h ▸ ⟨rfl, rfl⟩
    split at h
    · exact absurd h (by simp)
    · exact Option.some.inj h ▸ ⟨rfl, rfl⟩
  · split at h
    · exact absurd h (by simp)
    split at h
    · exact Option.some.inj h ▸ ⟨rfl, rfl⟩
    · exact Option.some.inj h ▸ ⟨rfl, rfl⟩
  · exact absurd h (by simp)

/-- The field and the flit of an arm of the partner (R441; log 23). -/
def armFlit (m : BupMsg) : Nat := bitsOf m.body.data.toNat 0 1024
def armFieldOf (m : BupMsg) : Nat := Config.armField m.dctx m.addr (armFlit m) % 36

/-- The partner may arm a stream: its context has the right, and its job works in the field, which runs (R439, R441). -/
def mayArm (s : State) (m : BupMsg) : Bool :=
  let c := ctxOf s m.dctx
  c.rights.getLsbD 6 && hasWork s (armFieldOf m) c.asid && fieldRuns s (armFieldOf m) && reqOp (armFlit m) != 3

theorem mayArm_iff (s : State) (m : BupMsg) : mayArm s m = true ↔ (ctxOf s m.dctx).rights.getLsbD 6 = true ∧
    hasWork s (armFieldOf m) (ctxOf s m.dctx).asid = true ∧ fieldRuns s (armFieldOf m) = true ∧ reqOp (armFlit m) ≠ 3 := by
  simp only [mayArm, Bool.and_eq_true, bne_iff_ne, and_assoc]

/-- The state in which an arm that its context accepted has acted, or has been denied. -/
def armed (s : State) (m : BupMsg) : State :=
  ((if mayArm s m = true then requestStream (acceptedAt s m) (armFieldOf m) (armFlit m) else none).getD
    (if (ctxOf s m.dctx).rights.getLsbD 6 = true then acceptedAt s m else denyRemote (acceptedAt s m) m.dctx))

theorem bupArm_of_accepted (h : acceptMsg s p m = some (acceptedAt s m)) :
    ∃ g, bupArm s p m = ctxSend (armed s m) m.dctx tyArmAck g := by
  unfold bupArm
  rw [h]
  dsimp only
  rw [ctxOf_acceptedAt]
  exact ⟨_, rfl⟩

theorem right_of_mayArm (h : mayArm s m = true) : (ctxOf s m.dctx).rights.getLsbD 6 = true := by
  simp only [mayArm, Bool.and_eq_true] at h
  exact h.1.1.1

theorem armed_acts (s : State) (m : BupMsg) :
    (armed s m).mem = s.mem ∧
      (∀ u, mayArm s m = true → requestStream (acceptedAt s m) (armFieldOf m) (armFlit m) = some u → armed s m = u) ∧
      (mayArm s m = false → streamOf (armed s m) = streamOf s) ∧
      ((ctxOf s m.dctx).rights.getLsbD 6 = false → (armed s m).bup.denied = satAdd 32 s.bup.denied 1) := by
  cases hmay : mayArm s m with
  | true =>
    have hright := right_of_mayArm hmay
    have hno : ∀ {P : Prop}, (ctxOf s m.dctx).rights.getLsbD 6 = false → P := fun h => absurd (h.symm.trans hright) (by decide)
    cases hreq : requestStream (acceptedAt s m) (armFieldOf m) (armFlit m) with
    | none =>
      have heq : armed s m = acceptedAt s m := by rw [armed, if_pos hmay, hreq, Option.getD_none, if_pos hright]
      rw [heq]
      exact ⟨rfl, fun u _ h => absurd h (by simp), fun h => absurd h (by decide), hno⟩
    | some u =>
      have heq : armed s m = u := by rw [armed, if_pos hmay, hreq, Option.getD_some]
      obtain ⟨hmem, -⟩ := requestStream_frame hreq
      rw [heq]
      exact ⟨hmem, fun v _ h => Option.some.inj h, fun h => absurd h (by decide), hno⟩
  | false =>
    have heq : armed s m = if (ctxOf s m.dctx).rights.getLsbD 6 = true then acceptedAt s m else denyRemote (acceptedAt s m) m.dctx := by
      rw [armed, if_neg (by rw [hmay]; decide), Option.getD_none]
    cases hright : (ctxOf s m.dctx).rights.getLsbD 6 with
    | true =>
      rw [hright, if_pos rfl] at heq
      rw [heq]
      exact ⟨rfl, fun u h => absurd h (by decide), fun _ => rfl, fun h => absurd h (by decide)⟩
    | false =>
      rw [hright, if_neg (by decide)] at heq
      rw [heq]
      exact ⟨rfl, fun u h => absurd h (by decide), fun _ => rfl, fun _ => rfl⟩

/-! ## Answers of the partner -/

theorem answered_of_find {x id : Nat} {e : Nat × Nat} (h : (ctxOf s x).outst.find? (fun y => y.1 == id) = some e) :
    answered s x id = some (e.2, modCtx s x fun c => { c with outst := eraseFirst (fun y => y.1 == id) c.outst }) := by
  rw [answered, h]

/-- Context `x` has taken an answer, and is `y` then: closed where it was closing and nothing is left outstanding. -/
theorem ctxOf_settled {x : Nat} {y : Ctx} (h : ctxOf s x = y) :
    ctxOf (settleCtx s x) x = if y.st = .closing ∧ y.outst = [] then {} else y := by
  rw [(settleCtx_acts s x).1, h]

theorem find_acceptedAt {e : Nat × Nat} {id : Nat} (h : (ctxOf s m.dctx).outst.find? (fun e => e.1 == id) = some e) :
    (ctxOf (acceptedAt s m) m.dctx).outst.find? (fun y => y.1 == id) = some e := by
  rw [ctxOf_acceptedAt]
  exact h

/-- The state in which an answer is off its context, whose slot is free (R443). -/
def slotFreed (s : State) (m : BupMsg) : State :=
  modCtx (modCtx (acceptedAt s m) m.dctx fun c => { c with outst := eraseFirst (fun y => y.1 == m.rtag) c.outst }) m.dctx
    fun c => { c with slots := c.slots + 1 }

theorem ctxOf_slotFreed (s : State) (m : BupMsg) : ctxOf (slotFreed s m) m.dctx = { ctxOf s m.dctx with
    rxSeq := m.cseq + 1, demand := m.demand, outst := eraseFirst (fun y => y.1 == m.rtag) (ctxOf s m.dctx).outst, slots := (ctxOf s m.dctx).slots + 1 } := by
  rw [slotFreed, ctxOf_modCtx_same, ctxOf_modCtx_same, ctxOf_acceptedAt]

theorem slotAnswer_acts {e : Nat × Nat} (h : acceptMsg s p m = some (acceptedAt s m))
    (hfind : (ctxOf s m.dctx).outst.find? (fun e => e.1 == m.rtag) = some e) :
    let y : Ctx := { ctxOf s m.dctx with
      rxSeq := m.cseq + 1, demand := m.demand, outst := eraseFirst (fun y => y.1 == m.rtag) (ctxOf s m.dctx).outst, slots := (ctxOf s m.dctx).slots + 1 }
    ctxOf (slotAnswer s p m) m.dctx = if y.st = .closing ∧ y.outst = [] then {} else y := by
  intro y
  unfold slotAnswer
  rw [h]
  dsimp only
  rw [answered_of_find (find_acceptedAt hfind)]
  exact ctxOf_settled (ctxOf_slotFreed s m)

theorem xferOf_of_fld (h : t.fld = s.fld) (f tag : Nat) : xferOf t f tag = xferOf s f tag := by
  rw [xferOf, fieldOf, h, xferOf, fieldOf]

/-- The state in which the read that an answer is of has its block, and its slot is free (R443, R451). -/
def readAnswered (s : State) (m : BupMsg) (key : Nat) : State :=
  let v := slotFreed s m
  if (xferOf v (key / 2048) (key % 2048)).isNone || m.failed then { v with bup := { v.bup with readUsed := v.bup.readUsed - 1 } } else v

theorem readAnswered_acts (s : State) (m : BupMsg) (key : Nat) :
    (readAnswered s m key).fld = (slotFreed s m).fld ∧ ctxOf (readAnswered s m key) m.dctx = ctxOf (slotFreed s m) m.dctx := by
  unfold readAnswered
  generalize slotFreed s m = v
  dsimp only
  split
  · exact ⟨rfl, rfl⟩
  · exact ⟨rfl, rfl⟩

theorem rdRsp_of_accepted {e : Nat × Nat} (h : acceptMsg s p m = some (acceptedAt s m))
    (hfind : (ctxOf s m.dctx).outst.find? (fun e => e.1 == m.rtag) = some e) :
    rdRsp s p m = settleCtx (modXfer (readAnswered s m e.2) (e.2 / 2048) (e.2 % 2048)
      fun t => { t with body := some (if m.failed then failedBlock else m.body) }) m.dctx := by
  unfold rdRsp
  rw [h]
  dsimp only
  rw [answered_of_find (find_acceptedAt hfind)]
  rfl

theorem rdRsp_acts {e : Nat × Nat} (h : acceptMsg s p m = some (acceptedAt s m))
    (hfind : (ctxOf s m.dctx).outst.find? (fun e => e.1 == m.rtag) = some e) :
    let t := rdRsp s p m
    let y : Ctx := { ctxOf s m.dctx with
      rxSeq := m.cseq + 1, demand := m.demand, outst := eraseFirst (fun y => y.1 == m.rtag) (ctxOf s m.dctx).outst, slots := (ctxOf s m.dctx).slots + 1 }
    (ctxOf t m.dctx = if y.st = .closing ∧ y.outst = [] then {} else y) ∧
      ∀ z, xferOf s (e.2 / 2048) (e.2 % 2048) = some z →
        xferOf t (e.2 / 2048) (e.2 % 2048) = some { z with body := some (if m.failed then failedBlock else m.body) } := by
  intro t y
  obtain ⟨hfld, hctx⟩ := readAnswered_acts s m e.2
  rw [ctxOf_slotFreed] at hctx
  have ht : t = _ := rdRsp_of_accepted h hfind
  clear_value t
  subst ht
  refine ⟨ctxOf_settled hctx, fun z hz => ?_⟩
  rw [xferOf_of_fld (settleCtx_acts _ _).2]
  exact xferOf_modXfer_some ((xferOf_of_fld hfld _ _).trans hz) fun _ => rfl

/-- The state in which the write that WR_ACK is of is off the context, and reserve credits have come back (R443). -/
def writeAnswered (s : State) (m : BupMsg) : State :=
  modCtx (modCtx (acceptedAt s m) m.dctx fun c => { c with resCred := min c.reserve (c.resCred + bitsOf m.args.toNat 16 8) }) m.dctx
    fun c => { c with outst := eraseFirst (fun y => y.1 == bitsOf m.args.toNat 0 16) c.outst }

theorem wrAck_of_accepted {e : Nat × Nat} (h : acceptMsg s p m = some (acceptedAt s m))
    (hfind : (ctxOf s m.dctx).outst.find? (fun e => e.1 == bitsOf m.args.toNat 0 16) = some e) :
    wrAck s p m = settleCtx (modXfer (writeAnswered s m) (e.2 / 2048) (e.2 % 2048)
      fun t => { t with landed := true, body := t.body.map fun b => if m.failed then { b with failed := true } else b }) m.dctx := by
  unfold wrAck
  rw [h]
  dsimp only
  rw [answered_of_find (by rw [ctxOf_modCtx_same]; exact find_acceptedAt hfind)]
  rfl

theorem wrAck_acts {e : Nat × Nat} (h : acceptMsg s p m = some (acceptedAt s m))
    (hfind : (ctxOf s m.dctx).outst.find? (fun e => e.1 == bitsOf m.args.toNat 0 16) = some e) :
    let t := wrAck s p m
    let c := ctxOf s m.dctx
    let y : Ctx := { c with
      rxSeq := m.cseq + 1, demand := m.demand, resCred := min c.reserve (c.resCred + bitsOf m.args.toNat 16 8),
      outst := eraseFirst (fun y => y.1 == bitsOf m.args.toNat 0 16) c.outst }
    (ctxOf t m.dctx = if y.st = .closing ∧ y.outst = [] then {} else y) ∧
      ∀ z, xferOf s (e.2 / 2048) (e.2 % 2048) = some z → xferOf t (e.2 / 2048) (e.2 % 2048) =
        some { z with landed := true, body := z.body.map fun b => if m.failed then { b with failed := true } else b } := by
  intro t c y
  have hctx : ctxOf (writeAnswered s m) m.dctx = y := by
    rw [writeAnswered, ctxOf_modCtx_same, ctxOf_modCtx_same, ctxOf_acceptedAt]
  have ht : t = _ := wrAck_of_accepted h hfind
  clear_value t
  subst ht
  refine ⟨ctxOf_settled hctx, fun z hz => ?_⟩
  rw [xferOf_of_fld (settleCtx_acts _ _).2]
  exact xferOf_modXfer_some (s := writeAnswered s m) hz fun _ => rfl

/-! ## Contexts that open and fail -/

theorem ctxOf_finishCtxCmd (s : State) (x opc status y : Nat) : ctxOf (finishCtxCmd s x opc status) y = ctxOf s y := by
  obtain ⟨m, n, h⟩ := finishCtxCmd_rest s x opc status
  rw [h]
  rfl

/-- Every command of a kind that waits for context `x` has ended. -/
theorem none_finishCtxCmd (s : State) (x opc status : Nat) :
    ∀ d ∈ (finishCtxCmd s x opc status).cxl.cmds, ¬ (d.begun = true ∧ d.opc = opc ∧ d.arg0.toNat = x) := by
  intro d hd h
  refine not_mem_of_finished status id s _ d hd ?_
  simp [h.1, h.2.1, h.2.2]

theorem cmds_finishCtxCmd_subset (s : State) (x opc status : Nat) : ∀ d ∈ (finishCtxCmd s x opc status).cxl.cmds, d ∈ s.cxl.cmds := by
  intro d hd
  rw [finishCtxCmd, cmds_foldl_finishCmd] at hd
  exact List.diff_subset _ _ hd

/-- The state in which a context that fails has dropped what it had outstanding (R438, R445). -/
def ctxDropped (s : State) (x : Nat) : State :=
  let c := ctxOf s x
  let u := c.outst.foldl (fun t e => failTransfer t e.2) s
  let v := modCtx u x fun c => { c with st := .failed, outst := [], resCred := 0, shCred := 0, slots := 0 }
  let w := { v with bup := { v.bup with
    readUsed := v.bup.readUsed - (c.outst.filter fun e => e.1 == e.2 + 65536).length, sharedUsed := v.bup.sharedUsed - c.held } }
  modCtx w x fun c => { c with held := 0, demand := 0 }

theorem ctxDropped_acts (s : State) (x : Nat) : (ctxOf (ctxDropped s x) x).st = .failed ∧ (ctxOf (ctxDropped s x) x).outst = [] := by
  unfold ctxDropped
  extract_lets c u v b w
  have hv : (ctxOf v x).st = .failed ∧ (ctxOf v x).outst = [] := by
    rw [show ctxOf v x = _ from ctxOf_modCtx_same u x _]
    exact ⟨rfl, rfl⟩
  rw [ctxOf_modCtx_same]
  exact hv

theorem failCtx_acts {x : Nat} (hclosed : (ctxOf s x).st ≠ .closed) (hfailed : (ctxOf s x).st ≠ .failed) (cause : Nat) :
    let t := failCtx s x cause
    (ctxOf t x).st = .failed ∧ (ctxOf t x).outst = [] ∧ (∃ e ∈ t.stem.events, e.code = 0x01D1) ∧
      ∀ d ∈ t.cxl.cmds, ¬ (d.begun = true ∧ d.opc = 0x18 ∧ d.arg0.toNat = x) := by
  have heq : ∃ n detail, failCtx s x cause = raise (finishCtxCmd (finishCtxCmd (ctxDropped s x) x 0x18 stCtxFailed) x 0x19 stOk)
      (mkEvent pithAddr n 0x01D1 0 0 7 0 detail) := ⟨_, _, if_neg (not_or.2 ⟨hclosed, hfailed⟩)⟩
  obtain ⟨n, detail, heq⟩ := heq
  intro t
  have ht : t = _ := heq
  clear_value t
  subst ht
  obtain ⟨hst, hout⟩ := ctxDropped_acts s x
  have hctx : ctxOf (finishCtxCmd (finishCtxCmd (ctxDropped s x) x 0x18 stCtxFailed) x 0x19 stOk) x = ctxOf (ctxDropped s x) x := by
    rw [ctxOf_finishCtxCmd, ctxOf_finishCtxCmd]
  refine ⟨(congrArg Ctx.st hctx).trans hst, (congrArg Ctx.outst hctx).trans hout, ?_, fun d hd => ?_⟩
  · obtain ⟨e, he, hcode, -⟩ := Links.exists_mem_mergeEvent (mkEvent pithAddr n 0x01D1 0 0 7 0 detail)
      (finishCtxCmd (finishCtxCmd (ctxDropped s x) x 0x18 stCtxFailed) x 0x19 stOk).stem.events
    exact ⟨e, he, hcode⟩
  · exact none_finishCtxCmd (ctxDropped s x) x 0x18 stCtxFailed d (cmds_finishCtxCmd_subset _ x 0x19 stOk d hd)

/-- The remote end of the context sent the message (R437). -/
def SameEnd (s : State) (m : BupMsg) : Prop := m.src = (ctxOf s m.dctx).remote ∧ m.sctx.val = (ctxOf s m.dctx).rctx

theorem sameEnd_iff (s : State) (m : BupMsg) :
    (m.src == (ctxOf s m.dctx).remote && m.sctx.val == (ctxOf s m.dctx).rctx) = true ↔ SameEnd s m := by
  rw [Bool.and_eq_true, beq_iff_eq, beq_iff_eq, SameEnd]

theorem ctxOpenMsg_of_same {k : Nat} (harr : arrives s p m = true) (hst : (ctxOf s m.dctx).st = .opening ∨ (ctxOf s m.dctx).st = .open_)
    (hsame : SameEnd s m) (hfit : reserveSum s ≤ 8192) (hk : Reaches s m.dctx k) :
    let t := ctxOpenMsg s p m
    let c := ctxOf s m.dctx
    ctxOf t m.dctx = { c with rxSeq := m.cseq + 1, txSeq := c.txSeq + 1 } ∧
      ∃ r, t.out = .bupol s.bup.nextMsg k (rawMsg tyCtxOpenAck r) :: s.out ∧ r.failed = false ∧ r.dst = c.remote := by
  have hctx : ctxOf (modCtx s m.dctx fun c => { c with rxSeq := m.cseq + 1 }) m.dctx = { ctxOf s m.dctx with rxSeq := m.cseq + 1 } :=
    ctxOf_modCtx_same _ _ _
  have hreach : Reaches (modCtx s m.dctx fun c => { c with rxSeq := m.cseq + 1 }) m.dctx k := by
    obtain ⟨hep, hpt, hport⟩ := hk
    rw [Reaches, hctx]
    exact ⟨hep, hpt, hport⟩
  have heq : ctxOpenMsg s p m = ctxSend (modCtx s m.dctx fun c => { c with rxSeq := m.cseq + 1 }) m.dctx tyCtxOpenAck id := by
    have hopen : (((ctxOf s m.dctx).st == .opening || (ctxOf s m.dctx).st == .open_) &&
        (m.src == (ctxOf s m.dctx).remote && m.sctx.val == (ctxOf s m.dctx).rctx)) = true := by
      rw [Bool.and_eq_true, Bool.or_eq_true, beq_iff_eq, beq_iff_eq]
      exact ⟨hst, (sameEnd_iff s m).2 hsame⟩
    unfold ctxOpenMsg
    dsimp only
    rw [if_neg (by rw [harr]; decide), if_pos hopen, if_neg (Nat.not_lt.2 hfit)]
  have hlive : (ctxOf (modCtx s m.dctx fun c => { c with rxSeq := m.cseq + 1 }) m.dctx).st ≠ .closed ∧
      (ctxOf (modCtx s m.dctx fun c => { c with rxSeq := m.cseq + 1 }) m.dctx).st ≠ .failed := by
    rw [hctx]
    rcases hst with h | h
    · exact ⟨by rw [h]; decide, by rw [h]; decide⟩
    · exact ⟨by rw [h]; decide, by rw [h]; decide⟩
  have hsend := ctxSend_of_reaches hreach hlive.1 hlive.2 tyCtxOpenAck id
  obtain ⟨hfr, hof, -⟩ := ctxSent_acts (modCtx s m.dctx fun c => { c with rxSeq := m.cseq + 1 }) m.dctx k tyCtxOpenAck
    (id (ctxMsg (modCtx s m.dctx fun c => { c with rxSeq := m.cseq + 1 }) m.dctx))
  intro t c
  have ht : t = _ := heq.trans hsend
  clear_value t
  subst ht
  refine ⟨?_, _, congrArg State.out hfr, rfl, ?_⟩
  · rw [hof, if_pos rfl, hctx]
  · exact (congrArg Ctx.remote hctx).trans rfl

theorem ctxOpenMsg_of_other {k : Nat} (harr : arrives s p m = true)
    (hno : ¬ (((ctxOf s m.dctx).st = .opening ∨ (ctxOf s m.dctx).st = .open_) ∧ SameEnd s m)) (hk : ctxPort s m.src.toNat m.dctx = some k) :
    let t := ctxOpenMsg s p m
    ctxOf t m.dctx = ctxOf s m.dctx ∧
      ∃ r, t.out = .bupol s.bup.nextMsg k (rawMsg tyCtxOpenAck r) :: s.out ∧ r.failed = true ∧ r.dst = m.src := by
  have hclosed : ¬ (((ctxOf s m.dctx).st == .opening || (ctxOf s m.dctx).st == .open_) &&
      (m.src == (ctxOf s m.dctx).remote && m.sctx.val == (ctxOf s m.dctx).rctx)) = true := by
    rw [Bool.and_eq_true, Bool.or_eq_true, beq_iff_eq, beq_iff_eq, sameEnd_iff]
    exact hno
  have heq : ctxOpenMsg s p m = answerTo s m tyCtxOpenAck := by
    unfold ctxOpenMsg
    dsimp only
    rw [if_neg (by rw [harr]; decide), if_neg hclosed]
  intro t
  have ht : t = _ := heq
  clear_value t
  unfold answerTo at ht
  rw [hk] at ht
  subst ht
  exact ⟨rfl, _, rfl, rfl, rfl⟩

theorem ctxOpenAck_acts (harr : arrives s p m = true) (hst : (ctxOf s m.dctx).st = .opening) (hsame : SameEnd s m) :
    let t := ctxOpenAck s p m
    let c := ctxOf s m.dctx
    (m.failed = true → (ctxOf t m.dctx).st = .failed ∧ ∃ e ∈ t.stem.events, e.code = 0x01D1) ∧
      (m.failed = false → ctxOf t m.dctx =
        { c with rxSeq := m.cseq + 1, demand := m.demand, st := .open_, resCred := c.reserve, shCred := 0, slots := 8 }) ∧
      ∀ d ∈ t.cxl.cmds, ¬ (d.begun = true ∧ d.opc = 0x18 ∧ d.arg0.toNat = m.dctx.val) := by
  intro t c
  have ht : t = _ := if_neg (show ¬ (!arrives s p m || (ctxOf s m.dctx).st != .opening || m.src != (ctxOf s m.dctx).remote ||
    m.sctx.val != (ctxOf s m.dctx).rctx) = true by simp [harr, hst, hsame.1, hsame.2])
  clear_value t
  cases hf : m.failed with
  | true =>
    rw [hf, if_pos rfl] at ht
    subst ht
    obtain ⟨hfail, -, hev, hnone⟩ := failCtx_acts (x := m.dctx.val) (by rw [hst]; decide) (by rw [hst]; decide) cauRefused
    exact ⟨fun _ => ⟨hfail, hev⟩, fun h => absurd h (by decide), hnone⟩
  | false =>
    rw [hf, if_neg (by decide)] at ht
    subst ht
    refine ⟨fun h => absurd h (by decide), fun _ => ?_, none_finishCtxCmd _ _ _ _⟩
    rw [ctxOf_finishCtxCmd, ctxOf_modCtx_same]

theorem ctxCloseMsg_acts (h : acceptMsg s p m = some (acceptedAt s m)) :
    let y : Ctx := { ctxOf s m.dctx with rxSeq := m.cseq + 1, demand := m.demand, st := .closing }
    ctxOf (ctxCloseMsg s p m) m.dctx = if y.st = .closing ∧ y.outst = [] then {} else y := by
  intro y
  unfold ctxCloseMsg
  rw [h]
  refine ctxOf_settled ?_
  rw [ctxOf_modCtx_same, ctxOf_acceptedAt]

/-! ## Credits -/

theorem credit_acts (h : acceptMsg s p m = some (acceptedAt s m)) :
    let t := credit s p m
    let c := ctxOf s m.dctx
    ctxOf t m.dctx = { c with rxSeq := m.cseq + 1, demand := m.demand, shCred := c.shCred + bitsOf m.args.toNat 0 16 } ∧
      t = { s with bup := { s.bup with ctx := t.bup.ctx } } := by
  unfold credit
  rw [h]
  refine ⟨?_, rfl⟩
  dsimp only
  rw [ctxOf_modCtx_same, ctxOf_acceptedAt]

theorem creditRet_acts (h : acceptMsg s p m = some (acceptedAt s m)) :
    let t := creditRet s p m
    let c := ctxOf s m.dctx
    let n := min (bitsOf m.args.toNat 0 16) c.held
    ctxOf t m.dctx = { c with rxSeq := m.cseq + 1, demand := m.demand, held := c.held - n } ∧
      t = { s with bup := { s.bup with ctx := t.bup.ctx, sharedUsed := s.bup.sharedUsed - n } } := by
  have hctx := ctxOf_modCtx_same (acceptedAt s m) m.dctx fun c => { c with held := c.held - min (bitsOf m.args.toNat 0 16) (ctxOf s m.dctx).held }
  have heq : creditRet s p m =
      (let v := modCtx (acceptedAt s m) m.dctx fun c => { c with held := c.held - min (bitsOf m.args.toNat 0 16) (ctxOf s m.dctx).held }
       { v with bup := { v.bup with sharedUsed := v.bup.sharedUsed - min (bitsOf m.args.toNat 0 16) (ctxOf s m.dctx).held } }) := by
    unfold creditRet
    rw [h]
    dsimp only
    rw [ctxOf_acceptedAt]
  rw [ctxOf_acceptedAt] at hctx
  rw [heq]
  exact ⟨hctx, rfl⟩

/-- The state in which context `y` has its grant, before CREDIT is sent (R446). -/
def grantedTo (s : State) (y : Nat) : State :=
  let u := modCtx s y fun c => { c with held := c.held + grantFor s y }
  { u with bup := { u.bup with sharedUsed := u.bup.sharedUsed + grantFor s y, lastServed := y } }

theorem ctxOf_grantedTo (s : State) (y : Nat) : ctxOf (grantedTo s y) y = { ctxOf s y with held := (ctxOf s y).held + grantFor s y } :=
  ctxOf_modCtx_same s y fun c => { c with held := c.held + grantFor s y }

theorem open_of_grantFor {y : Nat} (h : grantFor s y ≠ 0) : (ctxOf s y).st = .open_ := by
  by_contra hst
  exact h (if_neg hst)

theorem grantFor_of_find {l : List Nat} {y : Nat} (h : l.find? (fun x => grantFor s x != 0) = some y) : grantFor s y ≠ 0 := by
  have hy := List.find?_some h
  exact bne_iff_ne.1 hy

theorem creditGrant_acts {y : Fin 4096} {k : Nat}
    (hfind : ((List.range 4096).map fun i => (s.bup.lastServed + 1 + i) % 4096).find? (fun x => grantFor s x != 0) = some y.val)
    (hk : Reaches s y k) :
    let t := creditGrant s
    (ctxOf t y).held = (ctxOf s y).held + grantFor s y ∧ t.bup.lastServed = y.val ∧ t.bup.sharedUsed = s.bup.sharedUsed + grantFor s y ∧
      ∃ r, t.out = .bupol s.bup.nextMsg k (rawMsg tyCredit r) :: s.out ∧ r.args = BitVec.ofNat 152 (grantFor s y) := by
  have hopen := open_of_grantFor (grantFor_of_find hfind)
  have hctx := ctxOf_grantedTo s y
  have hreach : Reaches (grantedTo s y) y k := by
    obtain ⟨hep, hpt, hport⟩ := hk
    rw [Reaches, hctx]
    exact ⟨hep, hpt, hport⟩
  have hlive : (ctxOf (grantedTo s y) y).st = .open_ := (congrArg Ctx.st hctx).trans hopen
  have hsend := ctxSend_of_reaches hreach (by rw [hlive]; decide) (by rw [hlive]; decide) tyCredit
    fun m => { m with args := BitVec.ofNat 152 (grantFor s y) }
  have heq : creditGrant s = ctxSend (grantedTo s y) y tyCredit fun m => { m with args := BitVec.ofNat 152 (grantFor s y) } := by
    unfold creditGrant
    rw [hfind]
    rfl
  intro t
  have ht : t = _ := heq.trans hsend
  clear_value t
  obtain ⟨hfr, hof, -⟩ := ctxSent_acts (grantedTo s y) y k tyCredit { ctxMsg (grantedTo s y) y with args := BitVec.ofNat 152 (grantFor s y) }
  subst ht
  refine ⟨?_, rfl, rfl, _, congrArg State.out hfr, rfl⟩
  rw [hof, if_pos rfl, hctx]

/-- Nothing queued, a sender returns its unused shared credits (R444). -/
theorem creditIdleTimeout_acts {y : Fin 4096} {k : Nat} (hst : (ctxOf s y).st = .open_) (hcred : (ctxOf s y).shCred ≠ 0)
    (hidle : demandOf s y + ((ctxOf s y).outst.filter fun e => decide (e.1 < 65536)).length = 0) (hk : Reaches s y k) :
    let t := creditIdleTimeout s y
    (ctxOf t y).shCred = 0 ∧ ∃ r, t.out = .bupol s.bup.nextMsg k (rawMsg tyCreditRet r) :: s.out ∧ r.args = BitVec.ofNat 152 (ctxOf s y).shCred := by
  have hctx : ctxOf (modCtx s y fun c => { c with shCred := 0 }) y = { ctxOf s y with shCred := 0 } := ctxOf_modCtx_same _ _ _
  have hreach : Reaches (modCtx s y fun c => { c with shCred := 0 }) y k := by
    obtain ⟨hep, hpt, hport⟩ := hk
    rw [Reaches, hctx]
    exact ⟨hep, hpt, hport⟩
  have hlive : (ctxOf (modCtx s y fun c => { c with shCred := 0 }) y).st = .open_ := (congrArg Ctx.st hctx).trans hst
  have hsend := ctxSend_of_reaches hreach (by rw [hlive]; decide) (by rw [hlive]; decide) tyCreditRet
    fun m => { m with args := BitVec.ofNat 152 (ctxOf s y).shCred }
  have heq : creditIdleTimeout s y = ctxSend (modCtx s y fun c => { c with shCred := 0 }) y tyCreditRet
      fun m => { m with args := BitVec.ofNat 152 (ctxOf s y).shCred } := if_neg (by simp [hst, hcred, hidle])
  obtain ⟨hfr, hof, -⟩ := ctxSent_acts (modCtx s y fun c => { c with shCred := 0 }) y k tyCreditRet
    { ctxMsg (modCtx s y fun c => { c with shCred := 0 }) y with args := BitVec.ofNat 152 (ctxOf s y).shCred }
  intro t
  have ht : t = _ := heq.trans hsend
  clear_value t
  subst ht
  refine ⟨?_, _, congrArg State.out hfr, rfl⟩
  rw [hof, if_pos rfl, hctx]

/-! ## CONTEXT_TIMEOUT -/

theorem contextTimeout_acts (s : State) (y : Fin 4096) :
    let t := contextTimeout s y
    let d := ctxOf s y
    (d.st = .opening ∨ (d.st = .open_ ∧ d.outst ≠ []) → (ctxOf t y).st = .failed ∧ (ctxOf t y).outst = [] ∧ ∃ e ∈ t.stem.events, e.code = 0x01D1) ∧
      (d.st = .closing → d.outst ≠ [] → ctxOf t y = {}) ∧ (d.st ≠ .opening → d.outst = [] → t = s) := by
  intro t d
  refine ⟨fun h => ?_, fun hst hout => ?_, fun hst hout => (if_neg hst).trans (if_pos (by rw [hout]; rfl))⟩
  · have heq : contextTimeout s y = failCtx s y cauTimeout := by
      rcases h with hst | ⟨hst, hout⟩
      · exact if_pos hst
      · exact (if_neg (by rw [hst]; decide)).trans ((if_neg (by rw [List.isEmpty_iff]; exact hout)).trans (if_neg (by rw [hst]; decide)))
    have hlive : d.st ≠ .closed ∧ d.st ≠ .failed := by
      rcases h with hst | ⟨hst, -⟩
      · exact ⟨by rw [hst]; decide, by rw [hst]; decide⟩
      · exact ⟨by rw [hst]; decide, by rw [hst]; decide⟩
    obtain ⟨hfail, hout, hev, -⟩ := failCtx_acts hlive.1 hlive.2 cauTimeout
    have ht : t = _ := heq
    rw [ht]
    exact ⟨hfail, hout, hev⟩
  · have heq : ∃ u, ctxOf u y = ctxOf s y ∧ contextTimeout s y = settleCtx (modCtx u y fun c => { c with outst := [] }) y := by
      refine ⟨_, ?_, (if_neg (by rw [hst]; decide)).trans ((if_neg (by rw [List.isEmpty_iff]; exact hout)).trans (if_pos hst))⟩
      exact foldl_keeps (ctxOf · y) (f := fun t (e : Nat × Nat) => failTransfer t e.2) (fun _ _ => rfl) _ s
    obtain ⟨u, hu, heq⟩ := heq
    have ht : t = _ := heq
    rw [ht, ctxOf_settled (ctxOf_modCtx_same u y _), hu, if_pos ⟨hst, rfl⟩]

/-- Settles O51: what each message of a partner that its context accepts does, and what contexts, credits and timeouts make of it. -/
theorem partnerMessagesTakeEffect : Obligations.PartnerMessagesTakeEffect := by
  intro s p raw m is x c taken denied accepted w b closes
  refine ⟨?types, ?absent, ?read, ?wabsent, ?write, ?arm, ?babsent, ?barrier, ?answers, ?wrack, ?credits, ?opens, fun y k hfind hk =>
    ⟨_, rfl, creditGrant_acts hfind hk⟩, fun y k hst hcred hidle hk => ⟨_, rfl, creditIdleTimeout_acts hst hcred hidle hk⟩,
    fun y => ⟨_, rfl, contextTimeout_acts s y⟩⟩
  case types =>
    intro i hi hno
    simp only [List.mem_cons, List.not_mem_nil, or_false] at hi
    rcases hi with rfl | rfl | rfl | rfl | rfl | rfl | rfl | rfl | rfl | rfl | rfl | rfl | rfl
    all_goals exact congrArg Host.Outcome.next (if_neg hno)
  case absent =>
    rintro ⟨e, he, habs⟩
    refine congrArg Host.Outcome.next ?_
    by_cases hty : cellType raw = tyRdReq
    · exact (if_pos hty).trans (if_pos (List.any_eq_true.2 ⟨e, he, decide_eq_true habs⟩))
    · exact if_neg hty
  case read =>
    intro hty h hpresent
    obtain ⟨hmem, hden⟩ := rdReq_acts h hpresent
    refine ⟨_, congrArg Host.Outcome.next (if_pos hty), hmem, fun hor => ⟨hden ?_, hmem⟩, fun k e a hparts hal hk => rdReq_of_block h hparts hal hk⟩
    rw [readDenied, Bool.or_eq_true, Bool.or_eq_true, decide_eq_true_eq, bne_iff_ne, List.any_eq_true]
    rcases hor with hal | hlen | ⟨e, he, hd⟩
    · exact .inl (.inr hal)
    · exact .inl (.inl hlen)
    · exact .inr ⟨e, he, decide_eq_true hd⟩
  case wabsent =>
    intro habs
    refine congrArg Host.Outcome.next ?_
    by_cases hty : cellType raw = tyWr
    · refine (if_pos hty).trans ?_
      unfold bupWr
      rw [show inbound s m.dctx m.addr 4096 5 true = .absent from habs]
    · exact if_neg hty
  case write =>
    intro hty h hpresent
    refine ⟨_, congrArg Host.Outcome.next (if_pos hty), fun hor => ?_, fun e a hw hal => mem_bupWr_of_ok h hw hal⟩
    have hack := denied_writeAck s m (writeTaken s m) (reached_writeTaken s m)
    have heq : bupWr s p m = writeAck s m true (denyRemote (writeTaken s m) m.dctx) := by
      cases hw : inbound s m.dctx m.addr 4096 5 true with
      | absent => exact absurd hw hpresent
      | denied => exact bupWr_of_denied h hw
      | ok e a => exact (bupWr_of_ok h hw).trans (if_neg (hor.resolve_left fun hd => absurd (hw.symm.trans hd) (by simp)))
    rw [← heq] at hack
    exact hack
  case arm =>
    intro hty h r f may
    obtain ⟨g, hg⟩ := bupArm_of_accepted h
    obtain ⟨hmem, hgo, hkept, hden⟩ := armed_acts s m
    have hsent := reached_ctxSend (armed s m) m.dctx tyArmAck g
    have hstr := congrArg (fun v => v.2.2) hsent
    have hmay : mayArm s m = true ↔ may := mayArm_iff s m
    refine ⟨_, congrArg Host.Outcome.next ((if_pos hty).trans hg), (congrArg Prod.fst hsent).trans hmem, fun u hyes hreq k => ?_, fun hno f k => ?_,
      fun hright => ⟨(congrArg (fun v => v.2.1) hsent).trans (hden hright), (congrArg Prod.fst hsent).trans hmem⟩⟩
    · have h := congrFun (congrFun hstr (armFieldOf m)) k
      exact h.trans (congrArg (fun v => streamOf v (armFieldOf m) k) (hgo u (hmay.2 hyes) hreq))
    · have h := congrFun (congrFun hstr f) k
      have hk := congrFun (congrFun (hkept (Bool.eq_false_iff.2 (mt hmay.1 hno))) f) k
      exact h.trans hk
  case babsent =>
    intro habs
    refine congrArg Host.Outcome.next ?_
    by_cases hty : cellType raw = tyBarrier
    · refine (if_pos hty).trans ?_
      unfold bupBarrier
      rw [show inbound s m.dctx m.addr 8 7 true = .absent from habs]
    · exact if_neg hty
  case barrier =>
    intro hty h hpresent
    refine ⟨_, congrArg Host.Outcome.next (if_pos hty), fun hor => ?_, fun e a hb hal => mem_bupBarrier_of_ok h hb hal⟩
    have hack : denied (barAck m true (denyRemote (acceptedAt s m) m.dctx)) := denied_ctxSend (acceptedAt s m) m.dctx m.dctx tyBarAck _
    have heq : bupBarrier s p m = barAck m true (denyRemote (acceptedAt s m) m.dctx) := by
      cases hb : inbound s m.dctx m.addr 8 7 true with
      | absent => exact absurd hb hpresent
      | denied => exact bupBarrier_of_denied h hb
      | ok e a => exact (bupBarrier_of_ok h hb).trans (if_pos (hor.resolve_left fun hd => absurd (hb.symm.trans hd) (by simp)))
    rw [← heq] at hack
    exact hack
  case answers =>
    intro e h hfind left
    exact ⟨fun hty => ⟨_, congrArg Host.Outcome.next (if_pos hty), rdRsp_acts h hfind⟩,
      fun hty => ⟨_, congrArg Host.Outcome.next (if_pos hty), slotAnswer_acts h hfind⟩,
      fun hty => ⟨_, congrArg Host.Outcome.next (if_pos hty), slotAnswer_acts h hfind⟩⟩
  case wrack =>
    intro e hty h hfind
    exact ⟨_, congrArg Host.Outcome.next (if_pos hty), wrAck_acts h hfind⟩
  case credits =>
    intro h
    exact ⟨fun hty => ⟨_, congrArg Host.Outcome.next (if_pos hty), credit_acts h⟩,
      fun hty => ⟨_, congrArg Host.Outcome.next (if_pos hty), creditRet_acts h⟩,
      fun hty => ⟨_, congrArg Host.Outcome.next (if_pos hty), ctxCloseMsg_acts h⟩⟩
  case opens =>
    intro harr same
    refine ⟨fun hty => ⟨_, congrArg Host.Outcome.next (if_pos hty), fun k hor hfit hk => ctxOpenMsg_of_same harr hor.1 hor.2 hfit hk,
      fun k hno hk => ctxOpenMsg_of_other harr hno hk⟩, fun hty hst hsame => ⟨_, congrArg Host.Outcome.next (if_pos hty), ctxOpenAck_acts harr hst hsame⟩⟩

end Sys2Proof.Proofs.Partner
end
